-- ==== Sys2Proof/Word.lean ====
section
/-! DEFINITION. The plain number types of the KL8640 model: bytes, sparse maps in one canonical form and the
16-bit and 32-bit wrapping used by the counters of Table 2.2 and its kin.  Values that the manual numbers (codes, counts,
raster ticks, linear current units) are `Nat` or `Int`; a byte of an addressed memory is a `BitVec 8`. -/

namespace Sys2Proof

/-- One byte of an addressed memory. -/
abbrev Byte := BitVec 8

/-- A sparse map from a number to a value: entries in strictly rising key order, and no entry equal to what an unlisted
key reads as.  `Machine/Maps.lean` reads and writes it. -/
abbrev NMap (α : Type) := List (Nat × α)

/-- An addressed memory: a sparse map of bytes (the shape of `Host.Cell` lists). -/
abbrev Mem := NMap Byte

/-- 2^8, 2^16 and 2^32: the wraps of the counters and sequence numbers. -/
abbrev w8 : Nat := 256
abbrev w16 : Nat := 65536
abbrev w32 : Nat := 4294967296

/-- The greatest value of a saturating U32 counter. -/
abbrev max32 : Nat := 4294967295

/-- `n` with the bit `i` of `m`: is it set? -/
abbrev bitOf (m i : Nat) : Bool := m.testBit i

end Sys2Proof
end

