-- ==== Sys2Proof/Syntax.lean ====
section
/-! DEFINITION. The commands of the KL8640: one constructor of `Instr` for each row of spec/opcode_table.json, with the
row's operands.  What a partner of the device reports (a temperature, the lanes that locked, the bytes of a packet) is an
operand; what the device works out for itself is not.  Numbers that a field of the spec limits are checked by
WellFormed.lean. -/

namespace Sys2Proof

/-- The three control ports (R31, R62): host, field and sideband, with the port codes 0, 1 and 2 of R410. -/
inductive PortId where
  | host | field | sideband
  deriving DecidableEq, Repr

/-- What every dictionary request carries beside its operation (Table 2.8): the port it came by, its SEQ, and the
session tag if TAG is 1. -/
structure Hdr where
  port : PortId
  seq  : Nat
  tag  : Option (List Nat) := none
  deriving DecidableEq, Repr

/-- A packet of Table 4.1 without its TYPE byte: the TYPE is the row's. -/
structure Packet where
  flags  : Nat
  length : Nat
  /-- bytes 4 to 13 -/
  fields : List Nat
  hchk   : Nat
  /-- bytes 16 to LENGTH − 5 -/
  body   : List Nat
  pchk   : Nat
  deriving DecidableEq, Repr

/-- An atomic operation on a 32-bit lane (Table 14.2). -/
inductive AtomicOp where
  | addWrap (delta : Int)
  | addSat  (delta : Int)
  | swap    (value : Nat)
  deriving DecidableEq, Repr

/-- One access of an SRAM port (R363 to R365).  `reads`: the symbols in error of the word, (place, error value), on the access's read
of it and on a second read; none listed, none in error. -/
inductive SramOp where
  | read  (offset : Nat) (reads : List (List (Nat × Nat)))
  /-- a write of the 32-bit lanes listed: (lane 0 to 7, value) of the word at `offset` -/
  | write (offset : Nat) (lanes : List (Nat × Nat)) (reads : List (List (Nat × Nat)))
  | atomic (offset lane : Nat) (op : AtomicOp) (reads : List (List (Nat × Nat)))
  deriving DecidableEq, Repr

/-- How a PMBus write ended (R293). -/
inductive PmbusResult where
  | ack | nack | pec | low
  deriving DecidableEq, Repr

/-- One block of 132 bits as a lane brings it: the type field of bits 3:0 and the 16 payload bytes (R82). -/
structure Block where
  type    : Nat
  payload : List Nat
  deriving DecidableEq, Repr

/-- What one lane showed in a training state: whether its CDR locked, the margins its eye monitor measured as (CTLE setting, raw
uQ0.8), the blocks it brought in order, and the SYNC block that it is to be aligned on with the index at which it came. -/
structure LaneReport where
  lane   : Nat
  locked : Bool := true
  eye    : List (Nat × Nat) := []
  blocks : List Block := []
  sync   : Option (Nat × Block) := none
  deriving DecidableEq, Repr

/-- An AUX frame as it comes (Table 4.6): byte 0 with CHANNEL and ACK, ID, LEN, the payload and the check. -/
structure AuxFrame where
  byte0   : Nat
  id      : Nat
  len     : Nat
  payload : List Nat
  check   : Nat
  deriving DecidableEq, Repr

/-- The training of one DRAM channel (R345): the attempts made and, if every one failed, the failing step. -/
structure ChannelReport where
  channel  : Nat
  attempts : Nat
  failed   : Option Nat := none
  ms       : Nat := 0
  deriving DecidableEq, Repr

/-- Test-port instructions (R416, Table 16.3). -/
inductive TestInstr where
  | idcode | bypass | samplePreload | extest | intest | clamp
  /-- the Stag debug module and fuse programming: the debug instructions -/
  | debug
  deriving DecidableEq, Repr

/-- The resources of R493, with the codes of `0060:403`. -/
inductive Resource where
  | reference | pll | vcore | domainSwitch | dramSwitch
  deriving DecidableEq, Repr

/-- The commands: one constructor per row of spec/opcode_table.json. -/
inductive Instr where
  -- dictionary requests (02, Table 2.5)
  | read  (h : Hdr) (handle param : Nat) (elem : Option Nat) (payload : List Nat)
  | write (h : Hdr) (handle param : Nat) (elem : Option Nat) (payload : List Nat)
  | openReq (h : Hdr) (level : Nat) (password : List Nat)
  | prove (h : Hdr) (response : List Nat)
  | close (h : Hdr)
  | nop (h : Hdr)
  | commit (h : Hdr) (tag : Nat)
  | store (h : Hdr) (tag : Nat)
  | restoreDefaults (h : Hdr) (tag : Nat)
  | shadowDiscard (h : Hdr) (value : Nat)
  | utcSet (h : Hdr) (seconds : Nat)
  | powerRequestOn (h : Hdr)
  | powerRequestStandby (h : Hdr)
  | powerRequestOff (h : Hdr)
  | restart (h : Hdr) (value : Nat)
  | lifecycleRequest (h : Hdr) (target : Nat) (uid : List Nat)
  | operatorPassword (h : Hdr) (offset : Nat) (bytes : List Nat)
  | integratorKey (h : Hdr) (bytes : List Nat)
  | attestChallenge (h : Hdr) (bytes : List Nat)
  | attestationDone
  | linkRetrain (h : Hdr) (value : Nat)
  | portRetrain (h : Hdr) (p : Nat) (value : Nat)
  | sweepStart (h : Hdr) (value : Nat)
  | mapSave (h : Hdr) (value : Nat)
  | mapReload (h : Hdr) (value : Nat)
  | updateBegin (h : Hdr) (length : Nat)
  | updateImage (h : Hdr) (offset : Nat) (bytes : List Nat)
  | updateVerify (h : Hdr) (tag : Nat)
  | imageVerified
  | activateAtRestart (h : Hdr)
  | activateNow (h : Hdr)
  | flashOperationComplete (ok : Bool)
  | confirm (h : Hdr) (tag : Nat)
  | retire (h : Hdr) (channel : Nat)
  | fell (h : Hdr) (stand tile value : Nat)
  | reinstate (h : Hdr) (handle : Nat)
  | stressSet (h : Hdr) (offset : Nat) (bytes : List Nat)
  | ovlMemWrite (h : Hdr) (offset : Nat) (bytes : List Nat)
  /-- BUF_BASE where `size` is false, BUF_SIZE where it is true; one element or, with `none`, the whole array -/
  | bufTableWrite (h : Hdr) (size : Bool) (elem : Option Nat) (values : List Nat)
  | drvRegsWrite (h : Hdr) (offset : Nat) (bytes : List Nat)
  | ntcEnableWrite (h : Hdr) (input value : Nat)
  | ctrlportEnableWrite (h : Hdr) (target : PortId) (value : Nat)
  -- port transports
  | spiStatus
  | spiWriteFrame (bytes : List Nat)
  | spiReadFrame (count : Nat)
  | i3cPrivateWrite (bytes : List Nat)
  | i3cPrivateRead (count : Nat)
  | i3cEntdaa (address : Nat)
  | i3cSetdasa (static dynamic : Nat)
  | fieldRequestSegment (node : Nat) (data : List Nat)
  | auxDictionarySegment (f : AuxFrame)
  -- session and Stag timers
  | sessionIdleTimeout (port : PortId)
  | challengeExpiry (port : PortId)
  | lockoutSecond (port : PortId)
  | lockstepMismatch
  | watchdogExpiry
  | stagRestartComplete
  | confirmTimeout
  | thermalSample (sensor : Nat) (temp : Int)
  | voltageSample (monitor mv : Nat)
  | ntcSample (input code : Nat)
  | operatingMinute
  -- Swerok link, physical
  | caps (f : AuxFrame)
  | capsResendTimer
  | trainingStateTimeout (finished : List LaneReport)
  | bitlockComplete (lanes : List LaneReport)
  | blocklockComplete (lanes : List LaneReport)
  | deskewComplete (lanes : List LaneReport)
  | eqAck (f : AuxFrame)
  | eqMeasurementDone (lanes : List LaneReport)
  | verifyWindowEnd (lanes : List LaneReport)
  | backoffExpiry
  | retrainReq (f : AuxFrame)
  /-- `types`: the type fields of the last 64 blocks that were in error -/
  | laneLockLost (lane cause : Nat) (types : List Nat)
  | laneSignalLost (mask : Nat)
  | idleColumn (received : Nat)
  | idlePowerDown
  | fastExit (failed : Nat)
  | idleSignalDetected (lane : Nat)
  | wakeRequest (f : AuxFrame)
  | laneMarginCheck (margins : List (Nat × Nat))
  | fillerColumn (drift : Int)
  -- Swerok link, transport
  | frameStart (p : Packet)
  | line (p : Packet)
  | regionUpdate (p : Packet)
  | frameEnd (p : Packet)
  | sleepNotice (p : Packet)
  | controlUser (p : Packet)
  | reservedPacket (type : Nat) (p : Packet)
  | lineDeadline (port line : Nat)
  -- AUX and content protection
  | auxAnswer (f : AuxFrame)
  | auxRequestTimeout
  | auxUnknownChannel (f : AuxFrame)
  | cpHello (f : AuxFrame)
  | cpConfirm (f : AuxFrame)
  | cpConfirmTimeout
  | cpDrop (f : AuxFrame)
  -- raster
  | lineStart
  | freeAnchor
  | earliestAnchor
  | latestAnchor
  | selfAnchor
  | syncInEdge
  | syncInTimeout
  /-- `beats`: the places (0 tile, 1 crossbar, 2 bank path) at which a beat of this slice line failed, in order -/
  | tileLineQueued (port line : Nat) (beats : List Nat)
  -- Otham ports
  /-- blocks on the back-channel lane up to the end of the packet -/
  | driverStatus (port : Nat) (blocks : List Block)
  /-- blocks on the back-channel lane up to the end of the packet -/
  | senseResult (port : Nat) (blocks : List Block)
  | reverseWindowEnd (port : Nat)
  /-- the blocks of a LINE packet as the lane's loopback receiver samples them -/
  | readbackCompare (port lane line : Nat) (blocks : List Block)
  | olaneLockLost (port lane : Nat)
  | othamTrainingTimer (port : Nat)
  -- panel power
  | pgoodChange (pin : Nat) (level : Bool)
  | pgoodLost (pin : Nat)
  | seqDelayExpiry
  | seqStepTimeout
  | pmbusWriteDone (result : PmbusResult)
  | pmbusRetryTimer
  | refSettled
  | pumpOutOfRegulation (mv : Int)
  | pumpRegulating (mv : Int)
  | dischargeHoldEnd
  | avddRefSample (mv : Nat)
  -- maps
  | sweepIntervalExpiry
  | mapSaveInterval
  /-- `failed`: none on success, else (stage, flash status) of event 0x0334 -/
  | mapSaveComplete (failed : Option (Nat × Nat))
  | mapRowLoaded (stress : Bool) (row : Nat) (chunk : List Nat)
  | workingMapRebuilt
  -- DRAM
  /-- `attempts`: for the read and each re-read made, the symbols in error (position, error value) -/
  | dramReadComplete (line cls : Nat) (attempts : List (List (Nat × Nat)))
  /-- `lost`: the source channel could not be read to the end (R355) -/
  | migrationComplete (lost : Bool)
  | dramRefreshDue (channel bank rate : Nat)
  | rdTableClear
  | throttleExpiry (cls : Nat)
  | dramRequestPromotion (channel : Nat)
  | fineRetrainTimer (channel : Nat) (drift : Int)
  | fullRetrainPiece (channel : Nat) (last failed : Bool)
  | dramIdleTimeout
  | dramScrubStep (errors : List (Nat × Nat))
  | dramTrainingDone (reports : List ChannelReport)
  -- SRAM
  | sramAccess (bank : Nat) (a b : Option SramOp)
  | addWrap (bank : Nat) (portB : Bool) (offset lane : Nat) (delta : Int)
  | addSat (bank : Nat) (portB : Bool) (offset lane : Nat) (delta : Int)
  | swap (bank : Nat) (portB : Bool) (offset lane value : Nat)
  /-- the symbols in error on the read, and on the second read where there is one -/
  | sramScrubStep (bank : Nat) (reads : List (List (Nat × Nat)))
  | spareCopyDone (bank : Nat)
  /-- `held`: the ns for which an access to the window was held, where one arrived -/
  | testWindow (fault : Bool) (held : Option Nat)
  -- persistent store
  | programDone (verified : Bool)
  | logGatherTimeout
  -- security
  | tamper (source : Nat) (measured : Int)
  | tamperClear
  | entropyFailure (test : Nat)
  | testPortInstruction (i : TestInstr)
  | testPortChallenge (response : List Nat)
  -- resilience
  | monitorMeasurement (unit tcyc : Nat)
  | marginPeriod
  | avsStatus (mv : Nat)
  | avsTimeout
  | vcoreRampStep
  | vcoreSearchStep
  -- power states
  | powerOnReset
  | resetN
  | resetRelease (hostsel : Bool) (node : Nat) (xin : Bool)
  | referenceReady
  | firmwareStarted
  | storeReadDone
  | smallBankLoaded
  | standbyTimer
  | offTimer
  | fullWake (source : Nat)
  | serviceWake (source : Nat)
  | wakeTimer
  | serviceWakeTimeout
  | resourceReadyTimeout (r : Resource)
  | powerFailWarning (mv : Nat)
  | powerFailRecovery
  | genlockAnchor
  | selfRefreshExit (channel ns : Nat)
  | rowRepaired (channel bank row : Nat)
  | domainPowerGood (dram : Bool)
  | auxCollision
  | metAfter1Ms
  deriving DecidableEq, Repr

end Sys2Proof
end

