-- ==== Sys2Proof/Machine/Maps.lean ====
section
/-! DEFINITION. Sparse maps in canonical form (`NMap` of Word.lean): reading, writing, and the predicate that names the form.
Also the byte orders: the dictionary, the store and the log send the least significant byte first (R42), the security
formats the most significant first. -/

namespace Sys2Proof.Machine

/-- The value at a key; `d` is what an unlisted key reads as. -/
def mget {α : Type} (d : α) : NMap α → Nat → α
  | [], _ => d
  | (k', v) :: m, k => if k = k' then v else if k < k' then d else mget d m k

/-- Writes a key.  Writing what the key reads as when unlisted removes the entry. -/
def mput {α : Type} [DecidableEq α] (d : α) : NMap α → Nat → α → NMap α
  | [], k, v => if v = d then [] else [(k, v)]
  | (k', v') :: m, k, v =>
    if k = k' then (if v = d then m else (k, v) :: m)
    else if k < k' then (if v = d then (k', v') :: m else (k, v) :: (k', v') :: m)
    else (k', v') :: mput d m k v

/-- The keys of `m` rise strictly and all lie above `lo`, and no value is `d`. -/
def mwfFrom {α : Type} [DecidableEq α] (d : α) : Nat → NMap α → Bool
  | _, [] => true
  | lo, (k, v) :: m => decide (lo ≤ k) && decide (v ≠ d) && mwfFrom d (k + 1) m

/-- The canonical form of a sparse map. -/
def mwf {α : Type} [DecidableEq α] (d : α) (m : NMap α) : Bool := mwfFrom d 0 m

/-- The canonical form of an addressed memory whose unlisted bytes read `unlisted`. -/
def Memory.wf (unlisted : Byte) (m : Mem) : Bool := mwf unlisted m

/-- The keys of `m` rise strictly and none lies below `lo`. -/
def mrising {α : Type} : Nat → NMap α → Bool
  | _, [] => true
  | lo, (k, _) :: m => decide (lo ≤ k) && mrising (k + 1) m

/-- Writes a run of values at rising keys. -/
def mputList {α : Type} [DecidableEq α] (d : α) (m : NMap α) (k : Nat) : List α → NMap α
  | [] => m
  | v :: vs => mputList d (mput d m k v) (k + 1) vs

/-- Reads `n` values from `k`. -/
def mgetList {α : Type} (d : α) (m : NMap α) (k n : Nat) : List α :=
  (List.range n).map fun i => mget d m (k + i)

/-- The entries with keys from `lo` to below `hi`. -/
def mslice {α : Type} (m : NMap α) (lo hi : Nat) : NMap α := m.filter fun e => decide (lo ≤ e.1 ∧ e.1 < hi)

/-- `m` without the keys from `lo` to below `hi`. -/
def mdrop {α : Type} (m : NMap α) (lo hi : Nat) : NMap α := m.filter fun e => !decide (lo ≤ e.1 ∧ e.1 < hi)

/-- Writes a run of bytes (numbers below 256) into a memory that reads `d` where unlisted. -/
def storeBytes (d : Byte) (m : Mem) (a : Nat) (bs : List Nat) : Mem :=
  mputList d m a (bs.map fun b => BitVec.ofNat 8 b)

/-- Reads `n` bytes as numbers. -/
def loadBytes (d : Byte) (m : Mem) (a n : Nat) : List Nat := (mgetList d m a n).map BitVec.toNat

/-- The number that bytes spell, least significant first. -/
def leNat : List Nat → Nat
  | [] => 0
  | b :: bs => b % 256 + 256 * leNat bs

/-- `n` bytes of a number, least significant first. -/
def toLE : Nat → Nat → List Nat
  | 0, _ => []
  | n + 1, v => v % 256 :: toLE n (v / 256)

/-- The number that bytes spell, most significant first. -/
def beNat (bs : List Nat) : Nat := bs.foldl (fun a b => a * 256 + b % 256) 0

/-- `n` bytes of a number, most significant first. -/
def toBE (n v : Nat) : List Nat := (toLE n v).reverse

/-- A number of `bits` bits read as two's complement. -/
def toSigned (bits v : Nat) : Int :=
  let w := v % 2 ^ bits
  if w < 2 ^ (bits - 1) then (w : Int) else (w : Int) - (2 ^ bits : Nat)

/-- Two's complement of `bits` bits. -/
def ofSigned (bits : Nat) (v : Int) : Nat := (v % ((2 ^ bits : Nat) : Int)).toNat

/-- Bytes of an integer of `n` bytes, two's complement, least significant first. -/
def intLE (n : Nat) (v : Int) : List Nat := toLE n (ofSigned (8 * n) v)

/-- A value between two limits. -/
def clampI (v lo hi : Int) : Int := if v < lo then lo else if hi < v then hi else v

/-- A number between two limits. -/
def clampN (v lo hi : Nat) : Nat := if v < lo then lo else if hi < v then hi else v

/-- Inserts a number into a rising list. -/
def insertUp (x : Nat) : List Nat → List Nat
  | [] => [x]
  | y :: ys => if x ≤ y then x :: y :: ys else y :: insertUp x ys

/-- `l` with element `i` replaced. -/
def setAt {α : Type} (l : List α) (i : Nat) (v : α) : List α := l.set i v

/-- Bytes from `off`, at most `n`. -/
def sub (bs : List Nat) (off n : Nat) : List Nat := (bs.drop off).take n

/-- A list cut or padded with zeros to `n`. -/
def padTo (n : Nat) (bs : List Nat) : List Nat := (bs ++ List.replicate n 0).take n

end Sys2Proof.Machine
end

