-- ==== Sys2Proof/Machine/Codes.lean ====
section
/-! DEFINITION. The check codes and the scrambler of the spec: CRC-16/CCITT (R59), CRC-32C (R113), CRC-32 (R323), CRC-8
(R390), the Reed–Solomon check symbols of SRAM words and DRAM lines (R334, R361), and the additive scrambler of the lanes
(R84). -/

namespace Sys2Proof.Machine

/-- `n` times `f`. -/
def times {α : Type} (f : α → α) : Nat → α → α
  | 0, x => x
  | n + 1, x => times f n (f x)

/-- One bit of an unreflected CRC of `w` bits. -/
def crcUp (w poly c : Nat) : Nat :=
  if c.testBit (w - 1) then Nat.xor ((c * 2) % 2 ^ w) poly else (c * 2) % 2 ^ w

/-- CRC-16/CCITT of R59: polynomial 0x1021, initial value 0xFFFF, no reflection, no inversion. -/
def crc16 (bs : List Nat) : Nat :=
  bs.foldl (fun c b => times (crcUp 16 0x1021) 8 (Nat.xor c ((b % 256) * 256))) 0xFFFF

/-- CRC-8 of R390: polynomial 0x07, initial value 0, no reflection, no final XOR. -/
def crc8 (bs : List Nat) : Nat :=
  bs.foldl (fun c b => times (crcUp 8 0x07) 8 (Nat.xor c (b % 256))) 0

/-- One bit of a reflected CRC of 32 bits; `poly` is the reflected polynomial. -/
def crcDown (poly c : Nat) : Nat := if c % 2 = 1 then Nat.xor (c / 2) poly else c / 2

/-- A reflected CRC of 32 bits in progress: initial value and final XOR are the caller's. -/
def crc32Run (poly c : Nat) (bs : List Nat) : Nat :=
  bs.foldl (fun c b => times (crcDown poly) 8 (Nat.xor c (b % 256))) c

/-- CRC-32C of R113: polynomial 0x1EDC_6F41 (reflected 0x82F6_3B78). -/
def crc32c (bs : List Nat) : Nat := Nat.xor (crc32Run 0x82F63B78 0xFFFFFFFF bs) 0xFFFFFFFF

/-- CRC-32 of R323 in progress: polynomial 0x04C1_1DB7 (reflected 0xEDB8_8320). -/
def crc32Step (c : Nat) (bs : List Nat) : Nat := crc32Run 0xEDB88320 c bs

/-- CRC-32 of R323. -/
def crc32 (bs : List Nat) : Nat := Nat.xor (crc32Step 0xFFFFFFFF bs) 0xFFFFFFFF

/-- Multiplication by α = 0x02 in GF(2^8) with the polynomial x^8 + x^4 + x^3 + x^2 + 1 (R334). -/
def gfDouble (a : Nat) : Nat := if 128 ≤ a then Nat.xor ((a * 2) % 256) 0x1D else a * 2

/-- Product in GF(2^8). -/
def gfMul (a b : Nat) : Nat :=
  ((List.range 8).foldl (fun (p : Nat × Nat) i =>
    (if b.testBit i then Nat.xor p.1 p.2 else p.1, gfDouble p.2)) (0, a % 256)).1

/-- α^n. -/
def gfPow (n : Nat) : Nat := times gfDouble n 1

/-- The generator of `n` roots α^0 to α^(n−1), highest power first, its leading 1 included. -/
def rsGenerator (n : Nat) : List Nat :=
  (List.range n).foldl (fun g i =>
    let r := gfPow i
    List.zipWith Nat.xor (g ++ [0]) (0 :: g.map (gfMul r))) [1]

/-- The `n` check symbols of a message: the remainder of message × x^n by the generator. -/
def rsCheck (n : Nat) (msg : List Nat) : List Nat :=
  let g := (rsGenerator n).drop 1
  msg.foldl (fun rem m =>
    let f := Nat.xor m (rem.headD 0)
    List.zipWith Nat.xor (rem.drop 1 ++ [0]) (g.map (gfMul f))) (List.replicate n 0)

/-- The address symbols of an SRAM word (R361): bank in bits 4:0 of the first, the word index in the 19 bits after it. -/
def sramAddressSymbols (bank offset : Nat) : List Nat :=
  let idx := (offset / 32) % 2 ^ 17
  [(idx / 65536) * 32 + bank % 32, (idx / 256) % 256, idx % 256]

/-- The check symbols of an SRAM word of 32 data bytes (R361). -/
def sramCheck (bank offset : Nat) (data : List Nat) : List Nat := rsCheck 5 (sramAddressSymbols bank offset ++ data)

/-- The check symbols of a DRAM line of 128 data bytes at usable line number `l` (R334). -/
def dramCheck (l : Nat) (data : List Nat) : List Nat := rsCheck 8 (toBE 4 l ++ data)

/-- The check symbols that poison a word or a line: each one inverted (R335, R362). -/
def poisonCheck (check : List Nat) : List Nat := check.map fun c => Nat.xor c 255

/-- The inverse of an element of GF(2^8): its power 254. -/
def gfInv (a : Nat) : Nat :=
  ((List.range 7).foldl (fun (x : Nat × Nat) _ => (gfMul x.1 (gfMul x.2 x.2), gfMul x.2 x.2)) (1, a)).1

/-- A sum in GF(2^8). -/
def gfSum (l : List Nat) : Nat := l.foldl Nat.xor 0

/-- A polynomial, lowest power first, at α^`k`. -/
def gfEval (p : List Nat) (k : Nat) : Nat := gfSum (p.zipIdx.map fun x => gfMul x.1 (gfPow (k * x.2 % 255)))

/-- The `checks` syndromes of symbols in error, by their place in a codeword of `total` symbols and their difference. -/
def syndromes (total checks : Nat) (es : List (Nat × Nat)) : List Nat :=
  (List.range checks).map fun i => gfSum (es.map fun e => gfMul e.2 (gfPow (i * (total - 1 - e.1) % 255)))

/-- What the search for the error locator (Berlekamp and Massey) carries: the locator, lowest power first, the one before its last change, its
length, the steps since that change and the discrepancy then. -/
structure Locator where
  poly : List Nat := [1]
  prev : List Nat := [1]
  len  : Nat := 0
  gap  : Nat := 1
  disc : Nat := 1
  deriving DecidableEq, Repr

/-- One step of the search, on syndrome `n`. -/
def locatorStep (syn : List Nat) (x : Locator) (n : Nat) : Locator :=
  let d := gfSum ((List.range (x.len + 1)).map fun i => gfMul (x.poly.getD i 0) (syn.getD (n - i) 0))
  if d = 0 then { x with gap := x.gap + 1 }
  else
    let f := gfMul d (gfInv x.disc)
    let p := (List.range 9).map fun i =>
      Nat.xor (x.poly.getD i 0) (if i < x.gap then 0 else gfMul f (x.prev.getD (i - x.gap) 0))
    if 2 * x.len ≤ n then ⟨p, x.poly, n + 1 - x.len, 1, d⟩ else { x with poly := p, gap := x.gap + 1 }

/-- What the decoder of a code of `total` symbols, `checks` of them check symbols, corrects: places and differences, none for a clean word, at
most `t`; `none` where the word is uncorrectable, also where a correction would change one of the first `address` symbols (R334, R361). -/
def rsCorrect (total checks t address : Nat) (es : List (Nat × Nat)) : Option (List (Nat × Nat)) :=
  let syn := syndromes total checks es
  let x := (List.range checks).foldl (locatorStep syn) {}
  let places := (List.range total).filter fun p => gfEval x.poly (256 - total + p) == 0
  if syn.all (· == 0) then some []
  else if t < x.len ∨ places.length ≠ x.len ∨ places.any (fun p => decide (p < address)) = true then none
  else
    let value := (List.range checks).map fun n => gfSum ((List.range (n + 1)).map fun i => gfMul (x.poly.getD i 0) (syn.getD (n - i) 0))
    let slope := x.poly.zipIdx.filterMap fun c => if c.2 = 0 then none else some (if c.2 % 2 = 1 then c.1 else 0)
    some (places.map fun p =>
      let k := 256 - total + p
      (p, gfMul (gfPow (total - 1 - p)) (gfMul (gfEval value k) (gfInv (gfEval slope k)))))

/-- Seed of the scrambler of source lane `k` after a SYNC block (R84). -/
def scramblerSeed (k : Nat) : Nat := (0x2AAAAAAA + k * 0x01111111) % 2 ^ 31

/-- One step of the scrambler's register: the output bit and the next state (R84). -/
def scramblerStep (st : Nat) : Bool × Nat :=
  let out := Bool.xor (st.testBit 30) (st.testBit 27)
  (out, (st * 2) % 2 ^ 31 + (if out then 1 else 0))

/-- `n` output bits of the scrambler and the state after them. -/
def scramblerBits : Nat → Nat → List Bool × Nat
  | 0, st => ([], st)
  | n + 1, st =>
    let (b, st') := scramblerStep st
    let (bs, st'') := scramblerBits n st'
    (b :: bs, st'')

end Sys2Proof.Machine
end

