-- ==== Sys2Proof/Machine/Blocks.lean ====
section
/-! DEFINITION. The 132-bit blocks of the lanes (R82, Table 3.2): type fields and their errors (R83), polarity (R86), the scrambler
applied to payloads (R84), the payloads of TRAIN and SYNC blocks (Table 3.3), block lock (Table 3.5), the checks of the VERIFY window
(R95) and the places of a packet's bytes on the lanes (R110). -/

namespace Sys2Proof.Machine

/-! ### Type fields -/

/-- The type codes of Table 3.2. -/
abbrev bTRAIN : Nat := 0x3
/-- packet bytes, scrambled -/
abbrev bDATA : Nat := 0x5
/-- rate matching -/
abbrev bFILLER : Nat := 0x6
/-- before electrical idle -/
abbrev bIDLE : Nat := 0x9
/-- a change of lane mode or rate, on an Otham lane (Table 10.2) -/
abbrev bSWITCH : Nat := 0x6
/-- alignment; the scrambler is seeded after it -/
abbrev bSYNC : Nat := 0xA
/-- reserved: an inverted TRAIN block in training -/
abbrev bRESERVED : Nat := 0xC

/-- Is a received type field a type error: of odd weight, or of weight 0 or 4 (R83)? -/
def typeError (t : Nat) : Bool := ((List.range 4).countP fun i => t.testBit i) != 2

/-- Is a block outside training discarded and counted: a type error, or the reserved type (R83)? -/
def typeBad (t : Nat) : Bool := typeError t || t % 16 == bRESERVED

/-- A block's bits inverted (R86). -/
def flipBlock (b : Block) : Block := ⟨15 - b.type % 16, b.payload.map fun x => 255 - x % 256⟩

/-- A block with its lane's polarity corrected (R86). -/
def upright (inverted : Bool) (b : Block) : Block := if inverted then flipBlock b else b

/-! ### The scrambler -/

/-- The number that bits spell, the first least significant. -/
def bitsNat : List Bool → Nat
  | [] => 0
  | b :: bs => (if b then 1 else 0) + 2 * bitsNat bs

/-- Payload bytes scrambled, or descrambled, from a register's state: bit 0 of each byte first (R84). -/
def scrambleBytes : Nat → List Nat → List Nat × Nat
  | st, [] => ([], st)
  | st, b :: bs =>
    let (k, st) := scramblerBits 8 st
    let (r, st) := scrambleBytes st bs
    (Nat.xor (b % 256) (bitsNat k) :: r, st)

/-! ### Payloads (Table 3.3) -/

/-- The presets P0 to P7 of a transmitter's taps (Table 3.4). -/
def presets : List (List Nat) :=
  [[0, 48, 0], [0, 44, 4], [0, 40, 8], [0, 36, 12], [2, 40, 6], [2, 36, 10], [4, 36, 8], [4, 32, 12]]

/-- `n` bytes that alternate. -/
def alternating (n a b : Nat) : List Nat := (List.range n).map fun i => if i % 2 = 0 then a else b

/-- A TRAIN block: subtype 1 TS1, 2 TS2, 3 VERIFY with its bytes 8 to 15 not yet scrambled. -/
def trainBlock (subtype source rate : Nat) (taps : List Nat) (attempt : Nat) : Block :=
  ⟨bTRAIN, [0x4B, subtype, source % 16, rate] ++ padTo 3 taps ++ [attempt]
    ++ if subtype = 3 then List.replicate 8 0 else alternating 8 0xE4 0x1B⟩

/-- A SYNC block of source lane `k` with a column count. -/
def linkSyncBlock (k count : Nat) : Block := ⟨bSYNC, [0xE1, k % 16, count % 256] ++ List.replicate 13 0⟩

/-- The FILLER and IDLE blocks (Table 3.2). -/
def fillerBlock : Block := ⟨bFILLER, alternating 16 0xC6 0x39⟩
/-- the block that fills time -/
def idleBlock : Block := ⟨bIDLE, alternating 16 0xE4 0x1B⟩

/-- Has a TRAIN block its marker and this subtype? -/
def isTrain (subtype : Nat) (b : Block) : Bool :=
  b.type == bTRAIN && b.payload.getD 0 0 == 0x4B && b.payload.getD 1 0 == subtype

/-- The polarity and the upright payload of a TS1 block, upright or inverted: type 0xC with marker 0xB4 (R86). -/
def ts1Of (b : Block) : Option (Bool × List Nat) :=
  if isTrain 1 b then some (false, b.payload)
  else if isTrain 1 (flipBlock b) then some (true, (flipBlock b).payload)
  else none

/-- Block lock (Table 3.5): the first 64 consecutive valid types that include a TS1; the lane's polarity and that TS1's payload. -/
def blockLock : List Block → Option (Bool × List Nat)
  | [] => none
  | b :: bs =>
    let w := (b :: bs).take 64
    if w.length = 64 ∧ (w.all fun x => !typeError x.type) = true ∧ (w.findSome? ts1Of).isSome = true then w.findSome? ts1Of
    else blockLock bs

/-- The count of a SYNC block, where the block is one (Table 3.3). -/
def syncCount (b : Block) : Option Nat :=
  if b.type = bSYNC ∧ b.payload.getD 0 0 = 0xE1 then some (b.payload.getD 2 0 % 256) else none

/-- Lanes to be aligned, as (lane, index of its SYNC block, count): those that agree on one column's count and arrived within the 8 blocks
that the deskew covers (R85, Table 3.5); of several such groups the largest, the first among equals (DESIGN CHOICE: log entry 13). -/
def alignedLanes (l : List (Nat × Nat × Nat)) : List Nat :=
  (l.map fun x => (l.filter fun y => y.2.2 == x.2.2 && decide (x.2.1 ≤ y.2.1) && decide (y.2.1 ≤ x.2.1 + 8)).map (·.1)).foldl
    (fun a g => if a.length < g.length then g else a) []

/-! ### The VERIFY window -/

/-- A lane in the VERIFY window: its descrambler's register, none before the window's SYNC column; an error seen; type errors. -/
structure VerifyLane where
  scr    : Option Nat := none
  bad    : Bool := false
  errors : Nat := 0
  deriving DecidableEq, Repr

/-- One block of the window of source lane `k` (R83, R84, R95): a type error is discarded and counted; a SYNC block seeds the register;
bytes 8 to 15 of a VERIFY block descramble to 0. -/
def verifyBlock (k : Nat) (v : VerifyLane) (b : Block) : VerifyLane :=
  if typeError b.type then { v with errors := v.errors + 1, bad := v.bad || v.scr.isSome }
  else if b.type = bSYNC then { v with scr := some (scramblerSeed k), bad := v.bad || (syncCount b).isNone }
  else match v.scr with
  | none => v
  | some st =>
    if b.type = bTRAIN then
      if b.payload.getD 0 0 ≠ 0x4B then { v with bad := true }
      else if isTrain 3 b then
        let (p, st) := scrambleBytes st (b.payload.drop 8)
        { v with scr := some st, bad := v.bad || p.any (· != 0) }
      else v
    else if b.type = bDATA then { v with scr := some (scrambleBytes st b.payload).2 }
    else v

/-- The window of a lane. -/
def verifyBlocks (k : Nat) (inverted : Bool) (bs : List Block) : VerifyLane :=
  bs.foldl (fun v b => verifyBlock k v (upright inverted b)) {}

/-- Has a lane passed the window (R95)? -/
def verifyPassed (v : VerifyLane) : Bool := v.scr.isSome && !v.bad

/-! ### Striping -/

/-- The block of a packet's bytes in DATA column `c` on logical lane `l` of `n` lanes: bytes 16·(n·c + l) to 16·(n·c + l) + 15, NULL after
the last byte (R110, R111). -/
def stripe (n : Nat) (bytes : List Nat) (c l : Nat) : List Nat := padTo 16 (sub bytes (16 * (n * c + l)) 16)

/-- DATA columns that bytes take on `n` lanes (R110). -/
def dataColumns (n : Nat) (bytes : List Nat) : Nat := (bytes.length + 16 * n - 1) / (16 * n)

end Sys2Proof.Machine
end

