-- ==== Sys2Proof/Machine/Crypto.lean ====
section
/-! DEFINITION. The public algorithms that the security chapters name, over lists of bytes: SHA-256 and SHA-512, HMAC, HKDF
and PBKDF2 (RFC 5869, RFC 8018), AES-256 in counter mode and CMAC (RFC 4493), Ed25519 verification (RFC 8032), and ECDSA and
ECDH on P-256.  PRESUMED (log entry 7): their definitions are those of the public standards that chapter 16 and R120, R121,
R325, R439 cite by name; the spec does not restate them. -/

namespace Sys2Proof.Machine

/-! ### Hash functions -/

/-- Rotation right of a word of `w` bits. -/
def rotr (w n x : Nat) : Nat := Nat.lor (x >>> n) ((x <<< (w - n)) % 2 ^ w)

/-- Integer root of degree `d` of `n`, at most `bits` bits, bit by bit from the top. -/
def iroot (d n : Nat) : Nat → Nat → Nat
  | 0, acc => acc
  | b + 1, acc => let t := acc + 2 ^ b; iroot d n b (if t ^ d ≤ n then t else acc)

/-- Is `n` a prime?  Used for the first 80 primes only. -/
def isPrime (n : Nat) : Bool := 2 ≤ n && (List.range n).all fun d => d < 2 || n % d ≠ 0

/-- The primes up to 409: the first 80. -/
def primes : List Nat := (List.range 410).filter isPrime

/-- The first `w` bits of the fractional part of the root of degree `d` of each of the first `n` primes. -/
def rootConstants (d w n : Nat) : List Nat :=
  (primes.take n).map fun p => iroot d (p <<< (d * w)) (w + 10) 0 % 2 ^ w

/-- The parameters of a SHA-2 function of word width `w`: rotations, rounds, and block bytes. -/
structure Sha2 where
  w : Nat
  rounds : Nat
  s0 : Nat × Nat × Nat
  s1 : Nat × Nat × Nat
  big0 : Nat × Nat × Nat
  big1 : Nat × Nat × Nat

/-- The parameters of SHA-256. -/
def sha256p : Sha2 := ⟨32, 64, (7, 18, 3), (17, 19, 10), (2, 13, 22), (6, 11, 25)⟩
/-- The parameters of SHA-512. -/
def sha512p : Sha2 := ⟨64, 80, (1, 8, 7), (19, 61, 6), (28, 34, 39), (14, 18, 41)⟩

/-- The message with its padding. -/
def shaPad (p : Sha2) (m : List Nat) : List Nat :=
  let blk := 2 * p.w
  let lb := p.w / 4
  m ++ 0x80 :: List.replicate ((2 * blk - 1 - lb - m.length % blk) % blk) 0 ++ toBE lb (8 * m.length)

/-- The message schedule of one block: the last word first. -/
def shaSchedule (p : Sha2) (blk : List Nat) : List Nat :=
  let w0 := (List.range 16).map fun i => beNat (sub blk (i * (p.w / 8)) (p.w / 8))
  let sig := fun (s : Nat × Nat × Nat) x => Nat.xor (Nat.xor (rotr p.w s.1 x) (rotr p.w s.2.1 x)) (x >>> s.2.2)
  (times (fun ws => ((ws.getD 15 0 + sig p.s0 (ws.getD 14 0) + ws.getD 6 0 + sig p.s1 (ws.getD 1 0)) % 2 ^ p.w) :: ws)
    (p.rounds - 16) w0.reverse).reverse

/-- One block of the compression. -/
def shaBlock (p : Sha2) (ks : List Nat) (h blk : List Nat) : List Nat :=
  let m := 2 ^ p.w
  let big := fun (s : Nat × Nat × Nat) x => Nat.xor (Nat.xor (rotr p.w s.1 x) (rotr p.w s.2.1 x)) (rotr p.w s.2.2 x)
  let v := (List.zip ks (shaSchedule p blk)).foldl (fun (v : List Nat) (kw : Nat × Nat) =>
    let a := v.getD 0 0; let b := v.getD 1 0; let c := v.getD 2 0; let d := v.getD 3 0
    let e := v.getD 4 0; let f := v.getD 5 0; let g := v.getD 6 0; let hh := v.getD 7 0
    let ch := Nat.xor (Nat.land e f) (Nat.land (m - 1 - e) g)
    let t1 := hh + big p.big1 e + ch + kw.1 + kw.2
    let maj := Nat.xor (Nat.xor (Nat.land a b) (Nat.land a c)) (Nat.land b c)
    let t2 := big p.big0 a + maj
    [(t1 + t2) % m, a, b, c, (d + t1) % m, e, f, g]) h
  List.zipWith (fun x y => (x + y) % m) h v

/-- SHA-2 over blocks, `n` of them. -/
def shaBlocks (p : Sha2) (ks : List Nat) : Nat → List Nat → List Nat → List Nat
  | 0, h, _ => h
  | n + 1, h, m => shaBlocks p ks n (shaBlock p ks h (m.take (2 * p.w))) (m.drop (2 * p.w))

/-- A SHA-2 function. -/
def sha2 (p : Sha2) (m : List Nat) : List Nat :=
  let pm := shaPad p m
  (shaBlocks p (rootConstants 3 p.w p.rounds) (pm.length / (2 * p.w)) (rootConstants 2 p.w 8) pm).flatMap (toBE (p.w / 8))

/-- SHA-256. -/
def sha256 (m : List Nat) : List Nat := sha2 sha256p m
/-- SHA-512. -/
def sha512 (m : List Nat) : List Nat := sha2 sha512p m

/-- HMAC-SHA-256. -/
def hmac (key m : List Nat) : List Nat :=
  let k := padTo 64 (if 64 < key.length then sha256 key else key)
  sha256 (k.map (Nat.xor 0x5C) ++ sha256 (k.map (Nat.xor 0x36) ++ m))

/-- The expand step of HKDF: `n` blocks of 32 bytes, from counter `i`. -/
def hkdfExpand (prk info : List Nat) : Nat → Nat → List Nat → List Nat
  | 0, _, _ => []
  | n + 1, i, prev => let t := hmac prk (prev ++ info ++ [i]); t ++ hkdfExpand prk info n (i + 1) t

/-- HKDF-SHA-256 (RFC 5869), `n` bytes. -/
def hkdf (n : Nat) (ikm salt info : List Nat) : List Nat :=
  (hkdfExpand (hmac salt ikm) info ((n + 31) / 32) 1 []).take n

/-- PBKDF2-HMAC-SHA-256 (RFC 8018) of 32 bytes. -/
def pbkdf2 (password salt : List Nat) (iterations : Nat) : List Nat :=
  let u1 := hmac password (salt ++ [0, 0, 0, 1])
  (times (fun (x : List Nat × List Nat) =>
    let u := hmac password x.1
    (u, List.zipWith Nat.xor x.2 u)) (iterations - 1) (u1, u1)).2


/-! ### AES-256 -/

/-- Multiplication by x in the field of AES. -/
def aesDouble (a : Nat) : Nat := if 128 ≤ a then Nat.xor ((a * 2) % 256) 0x1B else a * 2

/-- Product in the field of AES. -/
def aesMul (a b : Nat) : Nat :=
  ((List.range 8).foldl (fun (p : Nat × Nat) i =>
    (if b.testBit i then Nat.xor p.1 p.2 else p.1, aesDouble p.2)) (0, a % 256)).1

/-- Inverse in the field of AES: the 254th power. -/
def aesInv (a : Nat) : Nat := (List.range 253).foldl (fun x _ => aesMul x a) a

/-- The substitution of one byte. -/
def aesSub (a : Nat) : Nat :=
  let b := aesInv a
  let r := fun n => (b <<< n) % 256 ||| b >>> (8 - n)
  Nat.xor (Nat.xor (Nat.xor b (r 1)) (Nat.xor (r 2) (r 3))) (Nat.xor (r 4) 0x63)

/-- The 60 words of the key schedule of a 32-byte key, the last first. -/
def aesSchedule (key : List Nat) : List (List Nat) :=
  let w0 := ((List.range 8).map fun i => sub key (4 * i) 4).reverse
  (List.range 52).foldl (fun ws j =>
    let i := j + 8
    let t := ws.headD []
    let t := if i % 8 = 0 then
        let r := (t.drop 1 ++ t.take 1).map aesSub
        List.zipWith Nat.xor r [times aesDouble (i / 8 - 1) 1, 0, 0, 0]
      else if i % 8 = 4 then t.map aesSub else t
    List.zipWith Nat.xor (ws.getD 7 []) t :: ws) w0

/-- One block of AES-256. -/
def aesBlock (key block : List Nat) : List Nat :=
  let ks := (aesSchedule key).reverse
  let rk := fun r => (sub' ks (4 * r)).flatten
  let shift := fun (s : List Nat) => (List.range 16).map fun i => s.getD ((i + 4 * (i % 4)) % 16) 0
  let mix := fun (s : List Nat) => (List.range 4).flatMap fun c =>
    let x := fun i => s.getD (4 * c + i % 4) 0
    (List.range 4).map fun i =>
      Nat.xor (Nat.xor (aesDouble (x i)) (Nat.xor (aesDouble (x (i + 1))) (x (i + 1)))) (Nat.xor (x (i + 2)) (x (i + 3)))
  let s := List.zipWith Nat.xor (padTo 16 block) (rk 0)
  let s := (List.range 13).foldl (fun s r => List.zipWith Nat.xor (mix (shift (s.map aesSub))) (rk (r + 1))) s
  List.zipWith Nat.xor (shift (s.map aesSub)) (rk 14)
where
  /-- four words from word `i` -/
  sub' (ks : List (List Nat)) (i : Nat) : List (List Nat) := (ks.drop i).take 4

/-- The key stream blocks of counter mode: `ctr j` is the counter block of unit `j`. -/
def aesCtr (key : List Nat) (ctr : Nat → List Nat) (data : List Nat) : List Nat :=
  let ks := (List.range ((data.length + 15) / 16)).flatMap fun j => aesBlock key (ctr j)
  List.zipWith Nat.xor data ks

/-- Doubling in the field of CMAC: a 128-bit shift. -/
def cmacDouble (b : List Nat) : List Nat :=
  let v := beNat b
  toBE 16 (if v.testBit 127 then Nat.xor ((v * 2) % 2 ^ 128) 0x87 else v * 2)

/-- The chaining of CMAC over whole blocks, `n` of them. -/
def cmacChain (key : List Nat) : Nat → List Nat → List Nat → List Nat
  | 0, x, _ => x
  | n + 1, x, m => cmacChain key n (aesBlock key (List.zipWith Nat.xor x (m.take 16))) (m.drop 16)

/-- AES-CMAC (RFC 4493) with an AES-256 key. -/
def cmac (key m : List Nat) : List Nat :=
  let k1 := cmacDouble (aesBlock key (List.replicate 16 0))
  let n := (m.length + 15) / 16
  let last := m.drop (16 * (n - 1))
  let last := if last.length = 16 then List.zipWith Nat.xor last k1
    else List.zipWith Nat.xor (padTo 16 (last ++ [0x80])) (cmacDouble k1)
  cmacChain key n (List.replicate 16 0) (m.take (16 * (n - 1)) ++ last)

/-! ### Curves -/

/-- b^e mod m, `e` below 2^bits. -/
def powMod (b e m bits : Nat) : Nat :=
  ((List.range bits).foldl (fun (x : Nat × Nat) i =>
    (if e.testBit i then x.1 * x.2 % m else x.1, x.2 * x.2 % m)) (1 % m, b % m)).1

/-- Inverse modulo a prime of at most 256 bits. -/
def invMod (a p : Nat) : Nat := powMod a (p - 2) p 256

/-- P-256: its prime, order and base point. -/
def p256 : Nat := 2 ^ 256 - 2 ^ 224 + 2 ^ 192 + 2 ^ 96 - 1
/-- The order of P-256. -/
def n256 : Nat := 0xFFFFFFFF00000000FFFFFFFFFFFFFFFFBCE6FAADA7179E84F3B9CAC2FC632551
/-- The coefficient b of P-256. -/
def b256 : Nat := 0x5AC635D8AA3A93E7B3EBBD55769886BC651D06B0CC53B0F63BCE3C3E27D2604B
/-- The base point of P-256. -/
def g256 : Nat × Nat :=
  (0x6B17D1F2E12C4247F8BCE6E563A440F277037D812DEB33A0F4A13945D898C296,
   0x4FE342E2FE1A7F9B8EE7EB4A7C0F9E162BCE33576B315ECECBB6406837BF51F5)

/-- Is the point on P-256? -/
def onP256 (q : Nat × Nat) : Bool :=
  q.1 < p256 && q.2 < p256 && (q.2 * q.2) % p256 == (q.1 * q.1 * q.1 + (p256 - 3) * q.1 + b256) % p256

/-- Sum of two points of P-256; none is the point at infinity. -/
def addP256 : Option (Nat × Nat) → Option (Nat × Nat) → Option (Nat × Nat)
  | none, q => q
  | p, none => p
  | some (x1, y1), some (x2, y2) =>
    if x1 = x2 ∧ (y1 + y2) % p256 = 0 then none else
    let l := if x1 = x2 then (3 * x1 * x1 + (p256 - 3)) * invMod (2 * y1) p256 % p256
      else (y2 + p256 - y1) * invMod (x2 + p256 - x1) p256 % p256
    let x3 := (l * l + 2 * p256 - x1 - x2) % p256
    some (x3, (l * (x1 + p256 - x3) + p256 - y1) % p256)

/-- k times a point of P-256. -/
def mulP256 (k : Nat) (q : Nat × Nat) : Option (Nat × Nat) :=
  ((List.range 256).foldl (fun (x : Option (Nat × Nat) × Option (Nat × Nat)) i =>
    (if k.testBit i then addP256 x.1 x.2 else x.1, addP256 x.2 x.2)) (none, some q)).1

/-- The uncompressed form of a point: 0x04, X, Y, big-endian. -/
def pointBytes (q : Nat × Nat) : List Nat := 4 :: toBE 32 q.1 ++ toBE 32 q.2

/-- The point that 65 bytes spell, if it lies on P-256. -/
def pointOf (bs : List Nat) : Option (Nat × Nat) :=
  let q := (beNat (sub bs 1 32), beNat (sub bs 33 32))
  if bs.length = 65 ∧ bs.headD 0 = 4 ∧ onP256 q then some q else none

/-- The public point of a private scalar. -/
def publicPoint (d : Nat) : Nat × Nat := (mulP256 d g256).getD (0, 0)

/-- ECDSA P-256 over a digest, with the nonce `k` (drawn by the DRBG, R403): r ‖ s, 32 bytes each. -/
def ecdsaSign (d k : Nat) (digest : List Nat) : List Nat :=
  let k := k % (n256 - 1) + 1
  let r := (publicPoint k).1 % n256
  let s := invMod k n256 * (beNat digest + r * d) % n256
  toBE 32 r ++ toBE 32 s

/-- The prime of Curve25519, the order of the base point, and the constant d. -/
def p25519 : Nat := 2 ^ 255 - 19
/-- The order of the base point of Ed25519. -/
def l25519 : Nat := 2 ^ 252 + 27742317777372353535851937790883648493
/-- The constant d of Ed25519. -/
def d25519 : Nat := (p25519 - 121665) * invMod 121666 p25519 % p25519

/-- Sum of two points of Ed25519. -/
def addEd (a b : Nat × Nat) : Nat × Nat :=
  let p := p25519
  let t := d25519 * (a.1 * b.1 % p) % p * (a.2 * b.2 % p) % p
  ((a.1 * b.2 + b.1 * a.2) % p * invMod (1 + t) p % p, (a.2 * b.2 + a.1 * b.1) % p * invMod (p + 1 - t) p % p)

/-- k times a point of Ed25519. -/
def mulEd (k : Nat) (q : Nat × Nat) : Nat × Nat :=
  ((List.range 256).foldl (fun (x : (Nat × Nat) × (Nat × Nat)) i =>
    (if k.testBit i then addEd x.1 x.2 else x.1, addEd x.2 x.2)) ((0, 1), q)).1

/-- The point that 32 bytes spell (RFC 8032, 5.1.3). -/
def decodeEd (bs : List Nat) : Option (Nat × Nat) :=
  let p := p25519
  let v := leNat bs
  let y := v % 2 ^ 255
  let sign := v / 2 ^ 255
  let u := (y * y + p - 1) % p
  let w := (d25519 * (y * y % p) + 1) % p
  let x2 := u * invMod w p % p
  let x := powMod x2 ((p + 3) / 8) p 256
  let x := if x * x % p = x2 then x else x * powMod 2 ((p - 1) / 4) p 256 % p
  if p ≤ y ∨ bs.length ≠ 32 then none
  else if x * x % p ≠ x2 then none
  else if x = 0 ∧ sign = 1 then none
  else some (if x % 2 = sign then x else p - x, y)

/-- The base point of Ed25519: y = 4/5, x even. -/
def baseEd : Nat × Nat := (decodeEd (toLE 32 (4 * invMod 5 p25519 % p25519))).getD (0, 1)

/-- Ed25519 verification (RFC 8032, 5.1.7). -/
def ed25519Verify (key msg sig : List Nat) : Bool :=
  let s := leNat (sig.drop 32)
  match decodeEd key, decodeEd (sig.take 32) with
  | some a, some r =>
    let k := leNat (sha512 (sig.take 32 ++ key ++ msg)) % l25519
    sig.length == 64 && decide (s < l25519) && mulEd (8 * s) baseEd == addEd (mulEd 8 r) (mulEd 8 (mulEd k a))
  | _, _ => false

end Sys2Proof.Machine
end

