-- ==== Sys2Proof/Config.lean ====
section
/-! DEFINITION. The free values: constants with no body, for what the spec leaves open or draws at random.  Nothing can
evaluate them, so a claim holds whatever they are.  Log entry 2 lists them; most are applied to the counter `State.free`,
which every draw advances. -/

namespace Sys2Proof.Config

/-- A fresh unconstrained number for each draw: entropy (R403), the undefined bytes of a torn program (R380), the roundings
the spec leaves open, the outcome of a read beyond what a code detects. -/
opaque freeNat : Nat → Nat

/-- The order of the built-in blue-noise mask of a colour (R238): only its order matters, see `Dither.lean`. -/
opaque maskKey : Nat → Nat → Nat

/-- `0010:407`: the spec gives no value for the boot ROM's version. -/
opaque bootRomVersion : Nat

/-- The level of SYNC_IN at a tick where no edge tells it. -/
opaque pinLevel : Nat → Bool

/-- A period of the always-on oscillator, in ticks, which the spec does not give (R490). -/
opaque oscTicks : Nat

/-- What the output loopback measures of HALF1 against HALF0 with equal trims, in ticks (R151). -/
opaque pathSkew : Int

/-- The factory's spare-row repairs of a bank's sub-array (R360, R369): how many of the 8 spare rows it used. -/
opaque factorySpares : Nat → Nat → Nat

/-- The repairs that a DRAM die still offers in a bank of a channel (R351, `DCH:406`). -/
opaque dieRepairs : Nat → Nat → Nat

/-- What a tone step gives within its stated bounds where the spec allows more than one code: step, operand, draw. -/
opaque toneChoice : Nat → Nat → Nat → Nat

/-- The tokens that the codec chooses for a block where several decode to the same bytes (R313 to R318). -/
opaque tokenChoice : List Nat → Nat → List Nat

end Sys2Proof.Config
end

