-- ==== Sys2Proof/Machine/Params.lean ====
section
/-! DEFINITION. The names of the dictionary: unit handles (Table 1.3), and for each entry of each class the parameter
number that its chapter's table gives it (Tables 2.2, 2.14 and the tables of entries of chapters 03 to 19). -/

namespace Sys2Proof.Machine

/-! Handles of Table 1.3. -/
abbrev hDEV : Nat := 0x0000
abbrev hSTAG : Nat := 0x0010
abbrev hTHERM (n : Nat) : Nat := 0x0011 + n
abbrev hVMON (n : Nat) : Nat := 0x0021 + n
abbrev hNTC (n : Nat) : Nat := 0x0025 + n
abbrev hLOG : Nat := 0x0030
abbrev hUPDATE : Nat := 0x0031
abbrev hSEC : Nat := 0x0040
abbrev hPSTORE : Nat := 0x0050
abbrev hPWR : Nat := 0x0060
abbrev hRASTER : Nat := 0x0100
abbrev hHALF (n : Nat) : Nat := 0x0101 + n
abbrev hSTAND (s : Nat) : Nat := 0x0110 + s
abbrev hTILE (s t : Nat) : Nat := 0x0200 + 16 * s + t
abbrev hLINK : Nat := 0x0300
abbrev hLANE (n : Nat) : Nat := 0x0310 + n
abbrev hAUX : Nat := 0x0320
abbrev hOUTPUT : Nat := 0x0380
abbrev hPORT (p : Nat) : Nat := 0x0400 + p
abbrev hOLANE (p l : Nat) : Nat := 0x0500 + 2 * p + l
abbrev hPIPE : Nat := 0x0600
abbrev hTONE : Nat := 0x0610
abbrev hLAYERS : Nat := 0x0620
abbrev hLAYER (n : Nat) : Nat := 0x0621 + n
abbrev hOVERDRIVE : Nat := 0x0630
abbrev hCOMP : Nat := 0x0640
abbrev hDITHER : Nat := 0x0650
abbrev hROWDRV : Nat := 0x0700
abbrev hROWSET (n : Nat) : Nat := 0x0701 + n
abbrev hPANELPWR : Nat := 0x0710
abbrev hREFLADDER : Nat := 0x0720
abbrev hFSTORE : Nat := 0x0800
abbrev hCODEC (n : Nat) : Nat := 0x0810 + n
abbrev hDRAM : Nat := 0x0900
abbrev hDCH (n : Nat) : Nat := 0x0910 + n
abbrev hSRAM : Nat := 0x0A00
abbrev hBANK (b : Nat) : Nat := 0x0A10 + b
abbrev hCTRL : Nat := 0x0B00
abbrev hHOSTPORT : Nat := 0x0B10
abbrev hFIELDPORT : Nat := 0x0B11
abbrev hAUXPORT : Nat := 0x0B12

namespace Par

/-! The common block (Table 2.2). -/
abbrev CLASS_ID : Nat := 0x000
abbrev HANDLE : Nat := 0x001
abbrev PARENT : Nat := 0x002
abbrev CHILD_COUNT : Nat := 0x003
abbrev CHILDREN : Nat := 0x004
abbrev HEALTH : Nat := 0x008
abbrev POWER : Nat := 0x009
abbrev CE_COUNT : Nat := 0x00A
abbrev UE_COUNT : Nat := 0x00B
abbrev LAST_EVENT : Nat := 0x00C

/-! DEV. -/
abbrev DEV_COMMIT : Nat := 0x040
abbrev DEV_STORE : Nat := 0x041
abbrev DEV_RESTORE_DEFAULTS : Nat := 0x042
abbrev DEV_SHADOW_DISCARD : Nat := 0x043
abbrev DEV_UTC_SET : Nat := 0x080
abbrev DEV_POWER_REQUEST : Nat := 0x0C0
abbrev DEV_RESTART : Nat := 0x0C1
abbrev DEV_LIFECYCLE_REQUEST : Nat := 0x100
abbrev DEV_COMMIT_APPLIED : Nat := 0x440
abbrev DEV_COMMIT_COUNT : Nat := 0x441
abbrev DEV_LAST_CLAMPED : Nat := 0x442
abbrev DEV_CLAMP_COUNT : Nat := 0x443
abbrev DEV_STORE_DONE : Nat := 0x444
abbrev DEV_STORE_OUTCOME : Nat := 0x445
abbrev DEV_RESTORE_DONE : Nat := 0x446
abbrev DEV_COMMITS_PENDING : Nat := 0x447
abbrev DEV_SHADOW_USED : Nat := 0x448
abbrev DEV_UID : Nat := 0x480
abbrev DEV_LOT : Nat := 0x481
abbrev DEV_WAFER : Nat := 0x482
abbrev DEV_DIE_XY : Nat := 0x483
abbrev DEV_TEST_DATE : Nat := 0x484
abbrev DEV_STEPPING : Nat := 0x485
abbrev DEV_GRADE : Nat := 0x486
abbrev DEV_OP_SECONDS : Nat := 0x487
abbrev DEV_UTC_VALID : Nat := 0x488
abbrev DEV_UTC_NOW : Nat := 0x489
abbrev DEV_POWER_STATE : Nat := 0x4C0
abbrev DEV_TRANSITION : Nat := 0x4C1
abbrev DEV_WAKE_SOURCE : Nat := 0x4C2
abbrev DEV_WAKE_FROM : Nat := 0x4C3
abbrev DEV_WAKE_UTC : Nat := 0x4C4
abbrev DEV_WAKE_TO_LIGHT_MS : Nat := 0x4C5
abbrev DEV_RESTART_CAUSE : Nat := 0x4C6
abbrev DEV_BOOT_TO_LIGHT_MS : Nat := 0x4C7
abbrev DEV_LIFECYCLE : Nat := 0x500
abbrev DEV_RETURNS_LEFT : Nat := 0x501

/-! STAG. -/
abbrev STAG_MARGIN_RAISE : Nat := 0x040
abbrev STAG_MARGIN_FELL : Nat := 0x041
abbrev STAG_MARGIN_LOWER : Nat := 0x042
abbrev STAG_VCORE_FLOOR : Nat := 0x043
abbrev STAG_PLAN : Nat := 0x045
abbrev STAG_SLACK_GUARD : Nat := 0x046
abbrev STAG_OUTLIER_PCT : Nat := 0x047
abbrev STAG_FW_VERSION : Nat := 0x400
abbrev STAG_FW_SLOT : Nat := 0x401
abbrev STAG_FW_CONFIRMED : Nat := 0x402
abbrev STAG_RESTARTS : Nat := 0x403
abbrev STAG_LOCKSTEP_RESTARTS : Nat := 0x404
abbrev STAG_WATCHDOG_RESTARTS : Nat := 0x405
abbrev STAG_LAST_RESTART_MS : Nat := 0x406
abbrev STAG_BOOT_ROM_VERSION : Nat := 0x407
abbrev STAG_FAULT_CAUSES : Nat := 0x408
abbrev STAG_VCORE_MV : Nat := 0x409
abbrev STAG_MIN_MARGIN : Nat := 0x40A
abbrev STAG_MIN_MARGIN_UNIT : Nat := 0x40B
abbrev STAG_PERIODS : Nat := 0x40C
abbrev STAG_STEPS_UP : Nat := 0x40D
abbrev STAG_STEPS_DOWN : Nat := 0x40E
abbrev STAG_FELLINGS : Nat := 0x40F
abbrev STAG_FAST_RISES : Nat := 0x410
abbrev STAG_WITHHELD : Nat := 0x411
abbrev STAG_AVS_ERRORS : Nat := 0x412
abbrev STAG_SUBSTITUTIONS : Nat := 0x413
abbrev STAG_REINSTATE : Nat := 0xF00

/-! THERM. -/
abbrev THERM_WARN : Nat := 0x040
abbrev THERM_CRIT : Nat := 0x041
abbrev THERM_TEMP : Nat := 0x400
abbrev THERM_PEAK : Nat := 0x401

/-! VMON. -/
abbrev VMON_READING : Nat := 0x400
abbrev VMON_LOW : Nat := 0x401
abbrev VMON_HIGH : Nat := 0x402

/-! NTC. -/
abbrev NTC_ENABLE : Nat := 0x040
abbrev NTC_PULLUP_OHM : Nat := 0x041
abbrev NTC_NOMINAL_OHM : Nat := 0x042
abbrev NTC_BETA : Nat := 0x043
abbrev NTC_OFFSET : Nat := 0x044
abbrev NTC_TEMP : Nat := 0x400
abbrev NTC_CODE : Nat := 0x401
abbrev NTC_VALID : Nat := 0x402

/-! LOG. -/
abbrev LOG_OLDEST : Nat := 0x400
abbrev LOG_NEWEST : Nat := 0x401
abbrev LOG_RING : Nat := 0x402
abbrev LOG_NOT_LOGGED : Nat := 0x403

/-! UPDATE. -/
abbrev UPDATE_BEGIN : Nat := 0x040
abbrev UPDATE_IMAGE : Nat := 0x041
abbrev UPDATE_VERIFY : Nat := 0x042
abbrev UPDATE_ACTIVATE : Nat := 0x043
abbrev UPDATE_CONFIRM : Nat := 0x044
abbrev UPDATE_CONFIRM_S : Nat := 0x045
abbrev UPDATE_STATE : Nat := 0x400
abbrev UPDATE_RESULT : Nat := 0x401
abbrev UPDATE_STAGED_VERSION : Nat := 0x402
abbrev UPDATE_STAGED_ROLLBACK : Nat := 0x403
abbrev UPDATE_SLOT_VERSION : Nat := 0x404
abbrev UPDATE_SLOT_STATE : Nat := 0x405
abbrev UPDATE_ROLLBACK_COUNT : Nat := 0x406

/-! SEC. -/
abbrev SEC_OPERATOR_PASSWORD : Nat := 0x040
abbrev SEC_INTEGRATOR_KEY : Nat := 0x041
abbrev SEC_TAMPER_ENABLE : Nat := 0x043
abbrev SEC_ATTEST_CHALLENGE : Nat := 0x044
abbrev SEC_CERTIFICATE : Nat := 0x400
abbrev SEC_ATTESTATION : Nat := 0x401
abbrev SEC_TAMPER_ACTIVE : Nat := 0x402
abbrev SEC_TAMPER_LAST : Nat := 0x403
abbrev SEC_KEY_SETS : Nat := 0x404
abbrev SEC_EXCHANGES : Nat := 0x405
abbrev SEC_EXCHANGE_FAILS : Nat := 0x406
abbrev SEC_CREDENTIALS_SET : Nat := 0x407
abbrev SEC_LOCKOUT_S : Nat := 0x408
abbrev SEC_KEYSTORE_COPY : Nat := 0x409

/-! PSTORE. -/
abbrev PSTORE_LOG_GATHER_MS : Nat := 0x040
abbrev PSTORE_IMAGE_SLOT : Nat := 0x400
abbrev PSTORE_IMAGE_SEQUENCE : Nat := 0x401
abbrev PSTORE_IMAGE_BYTES : Nat := 0x402
abbrev PSTORE_BOOT_OUTCOME : Nat := 0x403
abbrev PSTORE_RECORDS_IGNORED : Nat := 0x404
abbrev PSTORE_PROGRAMS : Nat := 0x405
abbrev PSTORE_VERIFY_FAILS : Nat := 0x406
abbrev PSTORE_TALLY : Nat := 0x407
abbrev PSTORE_BLAZE_USED : Nat := 0x408
abbrev PSTORE_REPAIRS_PENDING : Nat := 0x409
abbrev PSTORE_LOG_NEXT : Nat := 0x40A
abbrev PSTORE_LOG_WAITING : Nat := 0x40B
abbrev PSTORE_WEAR : Nat := 0x40C
abbrev PSTORE_RAW : Nat := 0xF00

/-! PWR. -/
abbrev PWR_WAKE_ENABLE : Nat := 0x040
abbrev PWR_WAKE_POLARITY : Nat := 0x041
abbrev PWR_STANDBY_AFTER_S : Nat := 0x042
abbrev PWR_OFF_AFTER_MIN : Nat := 0x043
abbrev PWR_WAKE_TIMER_S : Nat := 0x044
abbrev PWR_STATE_SECONDS : Nat := 0x400
abbrev PWR_WAKES : Nat := 0x401
abbrev PWR_RESOURCE_FAILS : Nat := 0x402
abbrev PWR_LAST_RESOURCE : Nat := 0x403
abbrev PWR_TRANSITIONS : Nat := 0x404

/-! RASTER. -/
abbrev RASTER_TIMING_MODE : Nat := 0x040
abbrev RASTER_ACTIVE_WIDTH : Nat := 0x041
abbrev RASTER_ACTIVE_HEIGHT : Nat := 0x042
abbrev RASTER_SPLIT : Nat := 0x043
abbrev RASTER_REFRESH : Nat := 0x044
abbrev RASTER_REFRESH_MIN : Nat := 0x045
abbrev RASTER_VBLANK : Nat := 0x046
abbrev RASTER_ROWS_PER_LINE : Nat := 0x047
abbrev RASTER_H_REPLICATE : Nat := 0x048
abbrev RASTER_SELF_REFRESH : Nat := 0x049
abbrev RASTER_SYNC_POLARITY : Nat := 0x04A
abbrev RASTER_SYNC_DELAY : Nat := 0x04B
abbrev RASTER_SYNC_OUT_MODE : Nat := 0x04C
abbrev RASTER_SYNC_OUT_LEAD : Nat := 0x04D
abbrev RASTER_SYNC_OUT_WIDTH : Nat := 0x04E
abbrev RASTER_STATE : Nat := 0x400
abbrev RASTER_LOCK : Nat := 0x401
abbrev RASTER_LINE : Nat := 0x402
abbrev RASTER_FRAMES : Nat := 0x403
abbrev RASTER_LINE_PERIOD : Nat := 0x404
abbrev RASTER_FRAME_TIME : Nat := 0x405
abbrev RASTER_REPEATS : Nat := 0x406
abbrev RASTER_BRIDGES : Nat := 0x407
abbrev RASTER_SELF_FRAMES : Nat := 0x408
abbrev RASTER_DEFERRED : Nat := 0x409
abbrev RASTER_DROPPED : Nat := 0x40A
abbrev RASTER_LATE_STARTS : Nat := 0x40B
abbrev RASTER_PHASE_ERROR : Nat := 0x40C
abbrev RASTER_SYNC_PERIOD : Nat := 0x40D
abbrev RASTER_LOCK_LOSSES : Nat := 0x40E
abbrev RASTER_PANEL_ROWS : Nat := 0x40F
abbrev RASTER_SLICE_WIDTH : Nat := 0x410
abbrev RASTER_BLACK_FRAMES : Nat := 0x411

/-! HALF. -/
abbrev HALF_SKEW_TRIM : Nat := 0x040
abbrev HALF_SKEW : Nat := 0x400
abbrev HALF_ENABLED_PORTS : Nat := 0x401

/-! STAND. -/
abbrev STAND_SPARE_SLOT : Nat := 0x400
abbrev STAND_GLOBAL_MARGIN : Nat := 0x401
abbrev STAND_GLOBAL_CYCLE_PS : Nat := 0x402
abbrev STAND_BEAT_ERRORS : Nat := 0x403

/-! TILE. -/
abbrev TILE_MARGIN : Nat := 0x400
abbrev TILE_CYCLE_PS : Nat := 0x401
abbrev TILE_SLACK_MIN : Nat := 0x402
abbrev TILE_SLOT : Nat := 0x403
abbrev TILE_SUBST_INPUT : Nat := 0x404
abbrev TILE_SUBST_DEADLINE : Nat := 0x405
abbrev TILE_SUBST_STORE : Nat := 0x406
abbrev TILE_REPLAYS : Nat := 0x407
abbrev TILE_BEAT_ERRORS : Nat := 0x408
abbrev TILE_FELL : Nat := 0xF00

/-! LINK. -/
abbrev LINK_LANES_ENABLE : Nat := 0x040
abbrev LINK_RATE_MAX : Nat := 0x041
abbrev LINK_CLOCKING : Nat := 0x042
abbrev LINK_REFCLK_SPREAD : Nat := 0x043
abbrev LINK_EQ_MARGIN_MIN : Nat := 0x044
abbrev LINK_TX_EQ_FALLBACK : Nat := 0x045
abbrev LINK_FAST_EXIT : Nat := 0x046
abbrev LINK_RETRAIN : Nat := 0x047
abbrev LINK_IN_DEPTH : Nat := 0x048
abbrev LINK_IN_COLOUR : Nat := 0x049
abbrev LINK_STATE : Nat := 0x400
abbrev LINK_RATE : Nat := 0x401
abbrev LINK_ACTIVE_LANES : Nat := 0x402
abbrev LINK_PAYLOAD : Nat := 0x403
abbrev LINK_TRAININGS : Nat := 0x404
abbrev LINK_LAST_REASON : Nat := 0x405
abbrev LINK_FILLER_INSERTED : Nat := 0x406
abbrev LINK_FILLER_DELETED : Nat := 0x407
abbrev LINK_BACKOFF : Nat := 0x408
abbrev LINK_FAST_EXITS : Nat := 0x409
abbrev LINK_FAST_EXIT_FAILS : Nat := 0x40A
abbrev LINK_LANE_MAP : Nat := 0x40B
abbrev LINK_FRAMES : Nat := 0x40C
abbrev LINK_LAST_FRAME : Nat := 0x40D
abbrev LINK_LINES_FAILED : Nat := 0x40E
abbrev LINK_LINES_MISSING : Nat := 0x40F
abbrev LINK_LINES_LATE : Nat := 0x410
abbrev LINK_HEADER_ERRORS : Nat := 0x411
abbrev LINK_FRAMES_REJECTED : Nat := 0x412
abbrev LINK_PACKETS_IGNORED : Nat := 0x413
abbrev LINK_REGIONS_APPLIED : Nat := 0x414
abbrev LINK_REGIONS_DISCARDED : Nat := 0x415
abbrev LINK_REGION_LIMIT : Nat := 0x416
abbrev LINK_FIT_NEED_NS : Nat := 0x417
abbrev LINK_FIT_LINE_NS : Nat := 0x418
abbrev LINK_USER_DATA : Nat := 0x419
abbrev LINK_PROTECTED : Nat := 0x41A
abbrev LINK_BLACK_FRAMES : Nat := 0x41B

/-! LANE. -/
abbrev LANE_STATE : Nat := 0x400
abbrev LANE_SOURCE_LANE : Nat := 0x401
abbrev LANE_CTLE : Nat := 0x402
abbrev LANE_TX_TAPS : Nat := 0x403
abbrev LANE_MARGIN : Nat := 0x404
abbrev LANE_BLOCK_ERRORS : Nat := 0x405
abbrev LANE_LOCK_LOSSES : Nat := 0x406
abbrev LANE_EXCLUSIONS : Nat := 0x407
abbrev LANE_INVERTED : Nat := 0x408

/-! AUX. -/
abbrev AUX_WAKE_ENABLE : Nat := 0x040
abbrev AUX_RX_FRAMES : Nat := 0x400
abbrev AUX_TX_FRAMES : Nat := 0x401
abbrev AUX_CHECK_ERRORS : Nat := 0x402
abbrev AUX_RETRIES : Nat := 0x403
abbrev AUX_UNANSWERED : Nat := 0x404
abbrev AUX_DEFERRED : Nat := 0x405

/-! OUTPUT. -/
abbrev OUTPUT_PORT_ENABLE : Nat := 0x040
abbrev OUTPUT_RATE_SELECT : Nat := 0x041
abbrev OUTPUT_DRV_REGS : Nat := 0x042
abbrev OUTPUT_READBACK_ENABLE : Nat := 0x043
abbrev OUTPUT_STATUS_MISS_LIMIT : Nat := 0x044
abbrev OUTPUT_DRV_ERR_LIMIT : Nat := 0x045
abbrev OUTPUT_STRETCH_IDLE : Nat := 0x046
abbrev OUTPUT_RATE : Nat := 0x400
abbrev OUTPUT_BOOST : Nat := 0x401
abbrev OUTPUT_FIT_NEED_NS : Nat := 0x402
abbrev OUTPUT_PORTS_SINGLE : Nat := 0x403
abbrev OUTPUT_PORTS_FAILED : Nat := 0x404
abbrev OUTPUT_CONFIG_APPLIED : Nat := 0x405

/-! PORT. -/
abbrev PORT_TX_PRESET : Nat := 0x040
abbrev PORT_RETRAIN : Nat := 0x041
abbrev PORT_MODE : Nat := 0x400
abbrev PORT_LINES_SENT : Nat := 0x401
abbrev PORT_LINES_SKIPPED : Nat := 0x402
abbrev PORT_TRANSIT_LOST : Nat := 0x403
abbrev PORT_DRIVER_STATUS : Nat := 0x404
abbrev PORT_STATUS_MISSED : Nat := 0x405
abbrev PORT_CONFIG_RESENDS : Nat := 0x406
abbrev PORT_SENSE_MISSED : Nat := 0x407
abbrev PORT_MAX_LAG : Nat := 0x408

/-! OLANE. -/
abbrev OLANE_STATE : Nat := 0x400
abbrev OLANE_READBACK_ERRORS : Nat := 0x401
abbrev OLANE_DRIVER_LANE_ERRORS : Nat := 0x402
abbrev OLANE_TYPE_ERRORS : Nat := 0x403
abbrev OLANE_EXCLUSIONS : Nat := 0x404

/-! PIPE. -/
abbrev PIPE_SUBPIXELS : Nat := 0x040
abbrev PIPE_WHT_SHARE : Nat := 0x041
abbrev PIPE_WHT_MIX : Nat := 0x042

/-! TONE. -/
abbrev TONE_IN_RANGE : Nat := 0x040
abbrev TONE_YCC_MATRIX : Nat := 0x041
abbrev TONE_PRE_LUT_ENABLE : Nat := 0x042
abbrev TONE_PRE_LUT : Nat := 0x043
abbrev TONE_EOTF : Nat := 0x044
abbrev TONE_BT1886_BLACK : Nat := 0x045
abbrev TONE_HLG_GAMMA : Nat := 0x046
abbrev TONE_MATRIX : Nat := 0x047
abbrev TONE_OFFSET : Nat := 0x048
abbrev TONE_POST_LUT_ENABLE : Nat := 0x049
abbrev TONE_POST_LUT : Nat := 0x04A
abbrev TONE_LIMIT_ENABLE : Nat := 0x04B
abbrev TONE_APL_LIMIT : Nat := 0x04C
abbrev TONE_CURRENT_WEIGHT : Nat := 0x04D
abbrev TONE_GAIN_MIN : Nat := 0x04E
abbrev TONE_ATTACK_MS : Nat := 0x04F
abbrev TONE_RELEASE_MS : Nat := 0x050
abbrev TONE_LIMIT_GAIN : Nat := 0x400
abbrev TONE_FRAME_CURRENT : Nat := 0x401
abbrev TONE_DEMAND : Nat := 0x402
abbrev TONE_LIMITED_FRAMES : Nat := 0x403

/-! LAYERS. -/
abbrev LAYERS_OVL_MEM : Nat := 0x040
abbrev LAYERS_BUF_BASE : Nat := 0x041
abbrev LAYERS_BUF_SIZE : Nat := 0x042
abbrev LAYERS_BUF_STATE : Nat := 0x400
abbrev LAYERS_RELEASES : Nat := 0x402
abbrev LAYERS_BUSY_REFUSED : Nat := 0x403
abbrev LAYERS_HISTORY_DECODES : Nat := 0x404
abbrev LAYERS_CRC_UNCHECKED : Nat := 0x405

/-! LAYER. -/
abbrev LAYER_ENABLE : Nat := 0x040
abbrev LAYER_FORMAT : Nat := 0x041
abbrev LAYER_BUFFER : Nat := 0x042
abbrev LAYER_X : Nat := 0x043
abbrev LAYER_Y : Nat := 0x044
abbrev LAYER_WIDTH : Nat := 0x045
abbrev LAYER_HEIGHT : Nat := 0x046
abbrev LAYER_STRIDE : Nat := 0x047
abbrev LAYER_GLOBAL_ALPHA : Nat := 0x048
abbrev LAYER_OPAQUE : Nat := 0x049
abbrev LAYER_DECODE : Nat := 0x04A
abbrev LAYER_WHITE : Nat := 0x04B
abbrev LAYER_FILL : Nat := 0x04C
abbrev LAYER_PALETTE : Nat := 0x04D
abbrev LAYER_TABLE_RED : Nat := 0x04E
abbrev LAYER_TABLE_GRN : Nat := 0x04F
abbrev LAYER_TABLE_BLU : Nat := 0x050
abbrev LAYER_BASE_SOURCE : Nat := 0x051
abbrev LAYER_BASE_COLOUR : Nat := 0x052
abbrev LAYER_COVERED : Nat := 0x400
abbrev LAYER_ROWS_BEYOND : Nat := 0x401

/-! OVERDRIVE. -/
abbrev OVERDRIVE_ENABLE : Nat := 0x040
abbrev OVERDRIVE_STRENGTH : Nat := 0x041
abbrev OVERDRIVE_TABLE : Nat := 0x042
abbrev OVERDRIVE_TEMP_PLANE : Nat := 0x043
abbrev OVERDRIVE_TEMP_SOURCE : Nat := 0x044
abbrev OVERDRIVE_TEMP_DEFAULT : Nat := 0x045
abbrev OVERDRIVE_AGE_STRESS : Nat := 0x046
abbrev OVERDRIVE_PANEL_TEMP : Nat := 0x400
abbrev OVERDRIVE_TEMP_POSITION : Nat := 0x401
abbrev OVERDRIVE_AGE_MAP : Nat := 0x402
abbrev OVERDRIVE_OD_FRAMES : Nat := 0x403
abbrev OVERDRIVE_PLAIN_FRAMES : Nat := 0x404
abbrev OVERDRIVE_PREV_UNAVAILABLE : Nat := 0x405
abbrev OVERDRIVE_PLAIN_REASON : Nat := 0x406
abbrev OVERDRIVE_AGE_MAP_UPDATES : Nat := 0x407

/-! COMP. -/
abbrev COMP_ENABLE : Nat := 0x040
abbrev COMP_BLOCK_ENABLE : Nat := 0x041
abbrev COMP_AGE_ENABLE : Nat := 0x042
abbrev COMP_RES_ENABLE : Nat := 0x043
abbrev COMP_DEFECT_ENABLE : Nat := 0x044
abbrev COMP_BLOCK_MODEL : Nat := 0x045
abbrev COMP_RES_STEP : Nat := 0x046
abbrev COMP_RESIDUAL_MAP : Nat := 0x047
abbrev COMP_DEFECT_LIST : Nat := 0x048
abbrev COMP_DEFECT_WEIGHTS : Nat := 0x049
abbrev COMP_SRL_ENABLE : Nat := 0x04A
abbrev COMP_SRL_TIME : Nat := 0x04B
abbrev COMP_SRL_DEPTH : Nat := 0x04C
abbrev COMP_SRL_FADE_MS : Nat := 0x04D
abbrev COMP_SRL_RECOVER_MS : Nat := 0x04E
abbrev COMP_SRL_FLOOR : Nat := 0x04F
abbrev COMP_SRL_QUANT : Nat := 0x050
abbrev COMP_SWEEP_MODE : Nat := 0x051
abbrev COMP_SWEEP_INTERVAL : Nat := 0x052
abbrev COMP_SENSE_WINDOW : Nat := 0x053
abbrev COMP_SENSE_LEVEL : Nat := 0x054
abbrev COMP_SENSE_SCALE : Nat := 0x055
abbrev COMP_LOOP_GAIN : Nat := 0x056
abbrev COMP_DEADBAND : Nat := 0x057
abbrev COMP_STEP_MAX : Nat := 0x058
abbrev COMP_AUTO_DEFECT : Nat := 0x059
abbrev COMP_DARK_FRAC : Nat := 0x05A
abbrev COMP_BRIGHT_FRAC : Nat := 0x05B
abbrev COMP_HOLD_BATCH_RATE : Nat := 0x05C
abbrev COMP_SWEEP_START : Nat := 0x05D
abbrev COMP_PROBE : Nat := 0x05E
abbrev COMP_TEMP_FACTOR : Nat := 0x060
abbrev COMP_AGE_CURVE : Nat := 0x061
abbrev COMP_SAVE_INTERVAL : Nat := 0x062
abbrev COMP_SAVE_ON_OFF : Nat := 0x063
abbrev COMP_MAP_SAVE : Nat := 0x064
abbrev COMP_MAP_RELOAD : Nat := 0x065
abbrev COMP_SWEEP_STATE : Nat := 0x400
abbrev COMP_SWEEP_PROGRESS : Nat := 0x401
abbrev COMP_SWEEPS : Nat := 0x402
abbrev COMP_SENSE_RESULT : Nat := 0x403
abbrev COMP_SENSE_MISSED : Nat := 0x404
abbrev COMP_RES_UPDATES : Nat := 0x405
abbrev COMP_RES_SATURATED : Nat := 0x406
abbrev COMP_DEFECTS : Nat := 0x407
abbrev COMP_DEFECTS_AUTO : Nat := 0x408
abbrev COMP_DEFECTS_IGNORED : Nat := 0x409
abbrev COMP_SRL_BLOCKS : Nat := 0x40A
abbrev COMP_SRL_MAX_DIM : Nat := 0x40B
abbrev COMP_STRESS_PASSES : Nat := 0x40C
abbrev COMP_STRESS_PERIOD : Nat := 0x40D
abbrev COMP_AGE_GAIN : Nat := 0x40E
abbrev COMP_BLOCK_STRESS : Nat := 0x40F
abbrev COMP_MAP_STATE : Nat := 0x410
abbrev COMP_MAP_PROGRESS : Nat := 0x411
abbrev COMP_MAP_BANK : Nat := 0x412
abbrev COMP_LAST_SAVE : Nat := 0x413
abbrev COMP_RES_LINES_PENDING : Nat := 0x414
abbrev COMP_STRESS_DETAIL : Nat := 0x415
abbrev COMP_STRESS_MAP : Nat := 0x416
abbrev COMP_RES_LATE : Nat := 0x417
abbrev COMP_STRESS_SET : Nat := 0xF00

/-! DITHER. -/
abbrev DITHER_MODE : Nat := 0x040
abbrev DITHER_FREEZE_HZ : Nat := 0x041
abbrev DITHER_CODE_LUT : Nat := 0x042
abbrev DITHER_MASK : Nat := 0x043
abbrev DITHER_ZERO_CODE : Nat := 0x044
abbrev DITHER_CODE_MIN : Nat := 0x045
abbrev DITHER_CODE_MAX : Nat := 0x046
abbrev DITHER_PROBE : Nat := 0x047
abbrev DITHER_PHASE : Nat := 0x400
abbrev DITHER_FROZEN : Nat := 0x401
abbrev DITHER_CODE_PEAK : Nat := 0x402
abbrev DITHER_CLIPPED : Nat := 0x403
abbrev DITHER_PROBE_RESULT : Nat := 0x404
abbrev DITHER_FROZEN_FRAMES : Nat := 0x405
abbrev DITHER_LUT_REPAIRS : Nat := 0x406

/-! ROWDRV. -/
abbrev ROWDRV_ROWSET1_MODE : Nat := 0x040
abbrev ROWDRV_DUTY : Nat := 0x041
abbrev ROWDRV_FADE_MS : Nat := 0x042
abbrev ROWDRV_DUTY_BITS : Nat := 0x043
abbrev ROWDRV_DUTY_CAL : Nat := 0x044
abbrev ROWDRV_FADE_IN_MS : Nat := 0x045
abbrev ROWDRV_BIAS_MODE : Nat := 0x046
abbrev ROWDRV_BIAS_DELAY : Nat := 0x047
abbrev ROWDRV_BIAS_MAX_MS : Nat := 0x048
abbrev ROWDRV_DUTY_NOW : Nat := 0x400
abbrev ROWDRV_FADING : Nat := 0x401
abbrev ROWDRV_FRAME_DUTY : Nat := 0x402
abbrev ROWDRV_BIAS_BALANCE : Nat := 0x403
abbrev ROWDRV_BIAS_LEVEL : Nat := 0x404

/-! ROWSET. -/
abbrev ROWSET_OUT_CFG : Nat := 0x040
abbrev ROWSET_OUT_WIN : Nat := 0x041
abbrev ROWSET_OUT_EDGES : Nat := 0x042
abbrev ROWSET_EMIT_SPAN : Nat := 0x043
abbrev ROWSET_SENSE_STEP : Nat := 0x044
abbrev ROWSET_SENSE_ROW : Nat := 0x400
abbrev ROWSET_EDGES_IGNORED : Nat := 0x401
abbrev ROWSET_LEVELS : Nat := 0x402

/-! PANELPWR. -/
abbrev PANELPWR_ON_SEQ : Nat := 0x040
abbrev PANELPWR_OFF_SEQ : Nat := 0x041
abbrev PANELPWR_STEP_TIMEOUT : Nat := 0x042
abbrev PANELPWR_PGOOD_MONITOR : Nat := 0x043
abbrev PANELPWR_PMBUS_RATE : Nat := 0x044
abbrev PANELPWR_PMBUS_PEC : Nat := 0x045
abbrev PANELPWR_DISCH_ALL_MS : Nat := 0x046
abbrev PANELPWR_STATE : Nat := 0x400
abbrev PANELPWR_STEP : Nat := 0x401
abbrev PANELPWR_PGOOD : Nat := 0x402
abbrev PANELPWR_ON_TIME : Nat := 0x403
abbrev PANELPWR_SEQ_FAILURES : Nat := 0x404
abbrev PANELPWR_PMBUS_ERRORS : Nat := 0x405
abbrev PANELPWR_PGOOD_LOSSES : Nat := 0x406
abbrev PANELPWR_PANEL_CYCLES : Nat := 0x407

/-! REFLADDER. -/
abbrev REFLADDER_GREF_MV : Nat := 0x040
abbrev REFLADDER_GREF_ENABLE : Nat := 0x041
abbrev REFLADDER_SREF_N_MV : Nat := 0x042
abbrev REFLADDER_AVDD_REF_MV : Nat := 0x400
abbrev REFLADDER_SREF_N_MEAS : Nat := 0x401
abbrev REFLADDER_PUMP_STATE : Nat := 0x402
abbrev REFLADDER_GREF_CLIPPED : Nat := 0x403

/-! FSTORE. -/
abbrev FSTORE_TABLE_MODE : Nat := 0x040
abbrev FSTORE_ENCRYPT_ALL : Nat := 0x041
abbrev FSTORE_RESTART_LINES : Nat := 0x042
abbrev FSTORE_SLOT_ROLES : Nat := 0x400
abbrev FSTORE_SLOT_FRAME : Nat := 0x401
abbrev FSTORE_SLOT_STATE : Nat := 0x402
abbrev FSTORE_FRAMES_STORED : Nat := 0x403
abbrev FSTORE_LAST_STORED_KIB : Nat := 0x404
abbrev FSTORE_LAST_RATIO : Nat := 0x405
abbrev FSTORE_STORED_BLOCKS : Nat := 0x406
abbrev FSTORE_BLOCKS_FAILED : Nat := 0x407
abbrev FSTORE_CHAIN_LOST : Nat := 0x408
abbrev FSTORE_STAND_CRC_FAILS : Nat := 0x409
abbrev FSTORE_NO_KEY_BLACK : Nat := 0x40A
abbrev FSTORE_MERGES : Nat := 0x40B

/-! CODEC. -/
abbrev CODEC_BLOCKS_CODED : Nat := 0x400
abbrev CODEC_BLOCKS_DECODED : Nat := 0x401
abbrev CODEC_BYTE_BLOCKS : Nat := 0x402
abbrev CODEC_PREEMPTIONS : Nat := 0x403
abbrev CODEC_CRC_CHECKED : Nat := 0x404

/-! DRAM. -/
abbrev DRAM_MAP_ORDER : Nat := 0x040
abbrev DRAM_GRAIN : Nat := 0x041
abbrev DRAM_RD_THRESHOLD : Nat := 0x042
abbrev DRAM_SCRUB_HOURS : Nat := 0x043
abbrev DRAM_RETRAIN_MS : Nat := 0x044
abbrev DRAM_DRIFT_LIMIT : Nat := 0x045
abbrev DRAM_CE_ROW_LIMIT : Nat := 0x046
abbrev DRAM_REPAIR_ENABLE : Nat := 0x047
abbrev DRAM_CHANNELS : Nat := 0x400
abbrev DRAM_RETIRED_CHANNEL : Nat := 0x401
abbrev DRAM_MIGRATION : Nat := 0x402
abbrev DRAM_MIGRATED : Nat := 0x403
abbrev DRAM_USABLE_MIB : Nat := 0x404
abbrev DRAM_LOAD_MBS : Nat := 0x405
abbrev DRAM_SUSTAINED_MBS : Nat := 0x406
abbrev DRAM_STRESS_HALVED : Nat := 0x407
abbrev DRAM_POISONED : Nat := 0x408
abbrev DRAM_SCRUB_PASSES : Nat := 0x409
abbrev DRAM_THROTTLES : Nat := 0x40A
abbrev DRAM_SR_ENTRIES : Nat := 0x40B
abbrev DRAM_SR_ABORTS : Nat := 0x40C
abbrev DRAM_SR_EXIT_MAX : Nat := 0x40D
abbrev DRAM_MIRROR_READS : Nat := 0x40E
abbrev DRAM_RETIRE : Nat := 0xF00

/-! DCH. -/
abbrev DCH_STATE : Nat := 0x400
abbrev DCH_POISON_READS : Nat := 0x401
abbrev DCH_RETRIES : Nat := 0x402
abbrev DCH_RFM_ISSUED : Nat := 0x403
abbrev DCH_ROWS_HELD : Nat := 0x404
abbrev DCH_REPAIRS_DONE : Nat := 0x405
abbrev DCH_REPAIRS_LEFT : Nat := 0x406
abbrev DCH_FINE_RETRAINS : Nat := 0x407
abbrev DCH_FULL_RETRAINS : Nat := 0x408
abbrev DCH_DRIFT : Nat := 0x409
abbrev DCH_REFRESH_RATE : Nat := 0x40A
abbrev DCH_UE_ROWS_24H : Nat := 0x40B

/-! SRAM. -/
abbrev SRAM_SCRUB_S : Nat := 0x040
abbrev SRAM_ROW_CE_LIMIT : Nat := 0x041
abbrev SRAM_TEST_ENABLE : Nat := 0x042
abbrev SRAM_TEST_INTERVAL_US : Nat := 0x043
abbrev SRAM_SCRUB_PASSES : Nat := 0x400
abbrev SRAM_SPARES_USED : Nat := 0x401
abbrev SRAM_WRITES_LOST : Nat := 0x402
abbrev SRAM_TEST_PASSES : Nat := 0x403
abbrev SRAM_SECURE_WIPES : Nat := 0x404
abbrev SRAM_LAST_WIPE_US : Nat := 0x405

/-! BANK. -/
abbrev BANK_CONFLICT_STALLS : Nat := 0x400
abbrev BANK_WRITES_LOST : Nat := 0x401
abbrev BANK_ATOMICS : Nat := 0x402
abbrev BANK_POISONED : Nat := 0x403
abbrev BANK_SPARES_LEFT : Nat := 0x404
abbrev BANK_ROWS_SPARED : Nat := 0x405
abbrev BANK_WINDOW_HOLDS : Nat := 0x406
abbrev BANK_MAX_HOLD_NS : Nat := 0x407
abbrev BANK_SECURE_REFUSED : Nat := 0x408
abbrev BANK_RAW : Nat := 0xF00

/-! CTRLPORT. -/
abbrev CTRLPORT_MODE : Nat := 0x040
abbrev CTRLPORT_ENABLE : Nat := 0x041
abbrev CTRLPORT_NOTIFY_MASK : Nat := 0x042
abbrev CTRLPORT_IDLE_TIMEOUT : Nat := 0x043
abbrev CTRLPORT_STAGING : Nat := 0x044
abbrev CTRLPORT_IRQ_ENABLE : Nat := 0x045
abbrev CTRLPORT_I3C_STATIC : Nat := 0x046
abbrev CTRLPORT_NODE_OFFSET : Nat := 0x047
abbrev CTRLPORT_DATA_RATE : Nat := 0x048
abbrev CTRLPORT_BROADCAST : Nat := 0x049
abbrev CTRLPORT_RX_FRAMES : Nat := 0x400
abbrev CTRLPORT_TX_FRAMES : Nat := 0x401
abbrev CTRLPORT_CHECK_ERRORS : Nat := 0x402
abbrev CTRLPORT_SEQ_ERRORS : Nat := 0x403
abbrev CTRLPORT_NOT_TAKEN : Nat := 0x404
abbrev CTRLPORT_SESSION_LEVEL : Nat := 0x405
abbrev CTRLPORT_CREDITS : Nat := 0x406
abbrev CTRLPORT_NOTIFY_LOST : Nat := 0x407
abbrev CTRLPORT_TAG_FAILURES : Nat := 0x408
abbrev CTRLPORT_NODE_ID : Nat := 0x409

end Par
end Sys2Proof.Machine
end

