-- ==== Sys2Proof/Machine/Entries.lean ====
section
/-! DEFINITION. The dictionary's tables: the classes and the unit tree (Tables 1.3 and 2.1), and one row for each entry of
each class, written from the tables of entries of chapters 02 to 19: its parameter, type, number of elements (0: not an
array), the lowest level that reads it and the lowest that writes it (R6, R7; 4: none), default, range, apply class, the
mark p, whether it is a command entry (R6), and the one handle that holds it where only one unit of the class does. -/

namespace Sys2Proof.Machine

/-- Types of Table 2.4. `int signed bytes bits`: the plain and the fixed-point numbers, `bits` the format's width. -/
inductive Ty where
  | bool
  | enum
  | int (signed : Bool) (bytes bits : Nat)
  | blob (size : Nat)
  | str (size : Nat)
  deriving DecidableEq, Repr

/-- Ranges: `mask` names bits (R42), `mult` a multiple (R164), `halves` two S16 of OUT_WIN (R279). -/
inductive Rng where
  | any
  | span (lo hi : Int)
  | mult (lo hi step : Nat)
  | mask (m : Nat)
  | halves
  deriving DecidableEq, Repr

/-- Apply classes of Table 0.4; `none` for results. -/
inductive Apply where
  | none | now | vb | rst
  deriving DecidableEq, Repr

/-- One row of a table of entries. -/
structure Entry where
  param   : Nat
  ty      : Ty
  count   : Nat
  rd      : Nat
  wr      : Nat
  dflt    : Int
  rng     : Rng
  apply   : Apply
  persist : Bool
  command : Bool
  only    : Option Nat
  deriving DecidableEq, Repr

/-- A row, its fields in the order of the columns. -/
abbrev en (param : Nat) (ty : Ty) (count rd wr : Nat) (dflt : Int) (rng : Rng) (apply : Apply) (persist command : Bool)
    (only : Option Nat) : Entry :=
  ⟨param, ty, count, rd, wr, dflt, rng, apply, persist, command, only⟩


/-- Entries of class DEV. -/
def entriesDEV : List Entry := [
  en 0x040 (.int false 2 16) 0 0 1 0 (.span 0 65535) .now false true none, -- COMMIT
  en 0x041 (.int false 2 16) 0 0 1 0 (.span 0 65535) .now false true none, -- STORE
  en 0x042 (.int false 2 16) 0 0 2 0 (.span 0 65535) .now false true none, -- RESTORE_DEFAULTS
  en 0x043 (.int false 2 16) 0 0 1 0 (.span 0 65535) .now false true none, -- SHADOW_DISCARD
  en 0x080 (.int false 4 32) 0 0 1 0 (.span 0 4294967295) .now false true none, -- UTC_SET
  en 0x0C0 (.enum) 0 0 1 0 (.span 0 2) .now false true none, -- POWER_REQUEST
  en 0x0C1 (.int false 2 16) 0 2 2 0 (.span 0 65535) .now false true none, -- RESTART
  en 0x100 (.int false 1 8) 12 2 2 0 (.any) .now false true none, -- LIFECYCLE_REQUEST
  en 0x440 (.int false 2 16) 0 0 4 0 (.any) .none false false none, -- COMMIT_APPLIED
  en 0x441 (.int false 4 32) 0 0 4 0 (.any) .none false false none, -- COMMIT_COUNT
  en 0x442 (.int false 4 32) 0 0 4 0 (.any) .none false false none, -- LAST_CLAMPED
  en 0x443 (.int false 4 32) 0 0 4 0 (.any) .none false false none, -- CLAMP_COUNT
  en 0x444 (.int false 2 16) 0 0 4 0 (.any) .none false false none, -- STORE_DONE
  en 0x445 (.enum) 0 0 4 0 (.any) .none false false none, -- STORE_OUTCOME
  en 0x446 (.int false 2 16) 0 0 4 0 (.any) .none false false none, -- RESTORE_DONE
  en 0x447 (.int false 1 8) 0 0 4 0 (.any) .none false false none, -- COMMITS_PENDING
  en 0x448 (.int false 2 16) 0 0 4 0 (.any) .none false false none, -- SHADOW_USED
  en 0x480 (.int false 1 8) 8 0 4 0 (.any) .none false false none, -- UID
  en 0x481 (.str 8) 0 0 4 0 (.any) .none false false none, -- LOT
  en 0x482 (.int false 1 8) 0 0 4 0 (.any) .none false false none, -- WAFER
  en 0x483 (.int true 2 16) 2 0 4 0 (.any) .none false false none, -- DIE_XY
  en 0x484 (.int false 4 32) 0 0 4 0 (.any) .none false false none, -- TEST_DATE
  en 0x485 (.str 2) 0 0 4 0 (.any) .none false false none, -- STEPPING
  en 0x486 (.enum) 0 0 4 0 (.any) .none false false none, -- GRADE
  en 0x487 (.int false 4 32) 0 0 4 0 (.any) .none false false none, -- OP_SECONDS
  en 0x488 (.bool) 0 0 4 0 (.any) .none false false none, -- UTC_VALID
  en 0x489 (.int false 4 32) 0 0 4 0 (.any) .none false false none, -- UTC_NOW
  en 0x4C0 (.enum) 0 0 4 0 (.any) .none false false none, -- POWER_STATE
  en 0x4C1 (.enum) 0 0 4 0 (.any) .none false false none, -- TRANSITION
  en 0x4C2 (.enum) 0 0 4 0 (.any) .none false false none, -- WAKE_SOURCE
  en 0x4C3 (.enum) 0 0 4 0 (.any) .none false false none, -- WAKE_FROM
  en 0x4C4 (.int false 4 32) 0 0 4 0 (.any) .none false false none, -- WAKE_UTC
  en 0x4C5 (.int false 2 16) 0 0 4 0 (.any) .none false false none, -- WAKE_TO_LIGHT_MS
  en 0x4C6 (.enum) 0 0 4 0 (.any) .none false false none, -- RESTART_CAUSE
  en 0x4C7 (.int false 2 16) 0 0 4 0 (.any) .none false false none, -- BOOT_TO_LIGHT_MS
  en 0x500 (.enum) 0 0 4 0 (.any) .none false false none, -- LIFECYCLE
  en 0x501 (.int false 1 8) 0 0 4 0 (.any) .none false false none -- RETURNS_LEFT
  ]

/-- Entries of class STAG. -/
def entriesSTAG : List Entry := [
  en 0x040 (.int false 2 16) 0 0 3 4915 (.span 4096 8192) .now true false none, -- MARGIN_RAISE
  en 0x041 (.int false 2 16) 0 0 3 4506 (.span 4096 8192) .now true false none, -- MARGIN_FELL
  en 0x042 (.int false 2 16) 0 0 3 5734 (.span 4096 12288) .now true false none, -- MARGIN_LOWER
  en 0x043 (.int false 2 16) 0 0 3 620 (.span 620 900) .now true false none, -- VCORE_FLOOR
  en 0x045 (.enum) 0 0 2 1 (.span 0 1) .now true false none, -- PLAN
  en 0x046 (.int false 2 16) 0 0 3 64 (.span 0 4096) .now true false none, -- SLACK_GUARD
  en 0x047 (.int false 1 8) 0 0 3 5 (.span 0 50) .now true false none, -- OUTLIER_PCT
  en 0x400 (.int false 4 32) 0 0 4 0 (.any) .none false false none, -- FW_VERSION
  en 0x401 (.enum) 0 0 4 0 (.any) .none false false none, -- FW_SLOT
  en 0x402 (.bool) 0 0 4 0 (.any) .none false false none, -- FW_CONFIRMED
  en 0x403 (.int false 4 32) 0 0 4 0 (.any) .none false false none, -- RESTARTS
  en 0x404 (.int false 4 32) 0 0 4 0 (.any) .none false false none, -- LOCKSTEP_RESTARTS
  en 0x405 (.int false 4 32) 0 0 4 0 (.any) .none false false none, -- WATCHDOG_RESTARTS
  en 0x406 (.int false 2 16) 0 0 4 0 (.any) .none false false none, -- LAST_RESTART_MS
  en 0x407 (.int false 4 32) 0 0 4 0 (.any) .none false false none, -- BOOT_ROM_VERSION
  en 0x408 (.int false 4 32) 0 0 4 0 (.any) .none false false none, -- FAULT_CAUSES
  en 0x409 (.int false 2 16) 0 0 4 0 (.any) .none false false none, -- VCORE_MV
  en 0x40A (.int false 2 16) 0 0 4 0 (.any) .none false false none, -- MIN_MARGIN
  en 0x40B (.int false 2 16) 0 0 4 0 (.any) .none false false none, -- MIN_MARGIN_UNIT
  en 0x40C (.int false 4 32) 0 0 4 0 (.any) .none false false none, -- PERIODS
  en 0x40D (.int false 4 32) 0 0 4 0 (.any) .none false false none, -- STEPS_UP
  en 0x40E (.int false 4 32) 0 0 4 0 (.any) .none false false none, -- STEPS_DOWN
  en 0x40F (.int false 4 32) 0 0 4 0 (.any) .none false false none, -- FELLINGS
  en 0x410 (.int false 4 32) 0 0 4 0 (.any) .none false false none, -- FAST_RISES
  en 0x411 (.int false 4 32) 0 0 4 0 (.any) .none false false none, -- WITHHELD
  en 0x412 (.int false 4 32) 0 0 4 0 (.any) .none false false none, -- AVS_ERRORS
  en 0x413 (.int false 4 32) 0 0 4 0 (.any) .none false false none, -- SUBSTITUTIONS
  en 0xF00 (.int false 2 16) 0 3 3 0 (.any) .rst false true none -- REINSTATE
  ]

/-- Entries of class THERM. -/
def entriesTHERM : List Entry := [
  en 0x040 (.int true 2 16) 0 0 2 25600 (.span 15360 31744) .now true false none, -- WARN
  en 0x041 (.int true 2 16) 0 0 2 28160 (.span 15360 31744) .now true false none, -- CRIT
  en 0x400 (.int true 2 16) 0 0 4 0 (.any) .none false false none, -- TEMP
  en 0x401 (.int true 2 16) 0 0 4 0 (.any) .none false false none -- PEAK
  ]

/-- Entries of class VMON. -/
def entriesVMON : List Entry := [
  en 0x400 (.int false 2 16) 0 0 4 0 (.any) .none false false none, -- READING
  en 0x401 (.int false 2 16) 0 0 4 0 (.any) .none false false none, -- LOW
  en 0x402 (.int false 2 16) 0 0 4 0 (.any) .none false false none -- HIGH
  ]

/-- Entries of class NTC. -/
def entriesNTC : List Entry := [
  en 0x040 (.bool) 0 0 2 1 (.any) .now true false none, -- ENABLE
  en 0x041 (.int false 4 32) 0 0 2 10000 (.span 100 1000000) .now true false none, -- PULLUP_OHM
  en 0x042 (.int false 4 32) 0 0 2 10000 (.span 100 1000000) .now true false none, -- NOMINAL_OHM
  en 0x043 (.int false 2 16) 0 0 2 3435 (.span 1000 10000) .now true false none, -- BETA
  en 0x044 (.int true 2 16) 0 0 2 0 (.span (-2560) 2560) .now true false none, -- OFFSET
  en 0x400 (.int true 2 16) 0 0 4 0 (.any) .none false false none, -- TEMP
  en 0x401 (.int false 2 16) 0 0 4 0 (.any) .none false false none, -- CODE
  en 0x402 (.bool) 0 0 4 0 (.any) .none false false none -- VALID
  ]

/-- Entries of class LOG. -/
def entriesLOG : List Entry := [
  en 0x400 (.int false 4 32) 0 0 4 0 (.any) .none false false none, -- OLDEST
  en 0x401 (.int false 4 32) 0 0 4 0 (.any) .none false false none, -- NEWEST
  en 0x402 (.blob 131072) 0 0 4 0 (.any) .none false false none, -- RING
  en 0x403 (.int false 4 32) 0 0 4 0 (.any) .none false false none -- NOT_LOGGED
  ]

/-- Entries of class UPDATE. -/
def entriesUPDATE : List Entry := [
  en 0x040 (.int false 4 32) 0 2 2 0 (.span 257 4194560) .now false true none, -- BEGIN
  en 0x041 (.blob 4194560) 0 2 2 0 (.any) .now false true none, -- IMAGE
  en 0x042 (.int false 2 16) 0 2 2 0 (.any) .now false true none, -- VERIFY
  en 0x043 (.enum) 0 2 2 0 (.span 0 2) .now false true none, -- ACTIVATE
  en 0x044 (.int false 2 16) 0 2 2 0 (.any) .now false true none, -- CONFIRM
  en 0x045 (.int false 2 16) 0 0 2 30 (.span 0 3600) .now true false none, -- CONFIRM_S
  en 0x400 (.enum) 0 0 4 0 (.any) .none false false none, -- STATE
  en 0x401 (.enum) 0 0 4 0 (.any) .none false false none, -- RESULT
  en 0x402 (.int false 4 32) 0 0 4 0 (.any) .none false false none, -- STAGED_VERSION
  en 0x403 (.int false 4 32) 0 0 4 0 (.any) .none false false none, -- STAGED_ROLLBACK
  en 0x404 (.int false 4 32) 2 0 4 0 (.any) .none false false none, -- SLOT_VERSION
  en 0x405 (.int false 1 8) 2 0 4 0 (.any) .none false false none, -- SLOT_STATE
  en 0x406 (.int false 4 32) 0 0 4 0 (.any) .none false false none -- ROLLBACK_COUNT
  ]

/-- Entries of class SEC. -/
def entriesSEC : List Entry := [
  en 0x040 (.blob 32) 0 2 2 0 (.any) .now false true none, -- OPERATOR_PASSWORD
  en 0x041 (.int false 1 8) 32 2 2 0 (.any) .now false true none, -- INTEGRATOR_KEY
  en 0x043 (.bool) 0 0 2 1 (.any) .now true false none, -- TAMPER_ENABLE
  en 0x044 (.int false 1 8) 32 0 1 0 (.any) .now false true none, -- ATTEST_CHALLENGE
  en 0x400 (.blob 768) 0 0 4 0 (.any) .none false false none, -- CERTIFICATE
  en 0x401 (.int false 1 8) 68 0 4 0 (.any) .none false false none, -- ATTESTATION
  en 0x402 (.int false 1 8) 0 0 4 0 (.any) .none false false none, -- TAMPER_ACTIVE
  en 0x403 (.int false 1 8) 0 0 4 0 (.any) .none false false none, -- TAMPER_LAST
  en 0x404 (.int false 1 8) 0 0 4 0 (.any) .none false false none, -- KEY_SETS
  en 0x405 (.int false 4 32) 0 0 4 0 (.any) .none false false none, -- EXCHANGES
  en 0x406 (.int false 4 32) 0 0 4 0 (.any) .none false false none, -- EXCHANGE_FAILS
  en 0x407 (.int false 1 8) 0 0 4 0 (.any) .none false false none, -- CREDENTIALS_SET
  en 0x408 (.int false 2 16) 3 0 4 0 (.any) .none false false none, -- LOCKOUT_S
  en 0x409 (.enum) 0 0 4 0 (.any) .none false false none -- KEYSTORE_COPY
  ]

/-- Entries of class PSTORE. -/
def entriesPSTORE : List Entry := [
  en 0x040 (.int false 2 16) 0 0 2 10 (.span 1 1000) .now true false none, -- LOG_GATHER_MS
  en 0x400 (.enum) 0 0 4 0 (.any) .none false false none, -- IMAGE_SLOT
  en 0x401 (.int false 4 32) 0 0 4 0 (.any) .none false false none, -- IMAGE_SEQUENCE
  en 0x402 (.int false 4 32) 0 0 4 0 (.any) .none false false none, -- IMAGE_BYTES
  en 0x403 (.enum) 0 0 4 0 (.any) .none false false none, -- BOOT_OUTCOME
  en 0x404 (.int false 4 32) 0 0 4 0 (.any) .none false false none, -- RECORDS_IGNORED
  en 0x405 (.int false 4 32) 0 0 4 0 (.any) .none false false none, -- PROGRAMS
  en 0x406 (.int false 4 32) 0 0 4 0 (.any) .none false false none, -- VERIFY_FAILS
  en 0x407 (.int false 4 32) 64 0 4 0 (.any) .none false false none, -- TALLY
  en 0x408 (.int false 2 16) 0 0 4 0 (.any) .none false false none, -- BLAZE_USED
  en 0x409 (.int false 1 8) 0 0 4 0 (.any) .none false false none, -- REPAIRS_PENDING
  en 0x40A (.int false 4 32) 0 0 4 0 (.any) .none false false none, -- LOG_NEXT
  en 0x40B (.int false 2 16) 0 0 4 0 (.any) .none false false none, -- LOG_WAITING
  en 0x40C (.int false 2 16) 0 0 4 0 (.any) .none false false none, -- WEAR
  en 0xF00 (.blob 524288) 0 3 4 0 (.any) .none false false none -- RAW
  ]

/-- Entries of class PWR. -/
def entriesPWR : List Entry := [
  en 0x040 (.int false 1 8) 0 0 2 15 (.mask 15) .now true false none, -- WAKE_ENABLE
  en 0x041 (.enum) 0 0 2 1 (.span 0 1) .now true false none, -- WAKE_POLARITY
  en 0x042 (.int false 2 16) 0 0 1 300 (.span 0 65535) .now true false none, -- STANDBY_AFTER_S
  en 0x043 (.int false 2 16) 0 0 2 0 (.span 0 65535) .now true false none, -- OFF_AFTER_MIN
  en 0x044 (.int false 4 32) 0 0 2 0 (.span 0 31536000) .now true false none, -- WAKE_TIMER_S
  en 0x400 (.int false 4 32) 5 0 4 0 (.any) .none false false none, -- STATE_SECONDS
  en 0x401 (.int false 4 32) 9 0 4 0 (.any) .none false false none, -- WAKES
  en 0x402 (.int false 4 32) 0 0 4 0 (.any) .none false false none, -- RESOURCE_FAILS
  en 0x403 (.enum) 0 0 4 0 (.any) .none false false none, -- LAST_RESOURCE
  en 0x404 (.int false 4 32) 0 0 4 0 (.any) .none false false none -- TRANSITIONS
  ]

/-- Entries of class RASTER. -/
def entriesRASTER : List Entry := [
  en 0x040 (.enum) 0 0 2 1 (.span 0 2) .vb true false none, -- TIMING_MODE
  en 0x041 (.int false 2 16) 0 0 2 7680 (.span 640 10240) .vb true false none, -- ACTIVE_WIDTH
  en 0x042 (.int false 2 16) 0 0 2 4320 (.span 360 4320) .vb true false none, -- ACTIVE_HEIGHT
  en 0x043 (.bool) 0 0 2 0 (.any) .vb true false none, -- SPLIT
  en 0x044 (.int false 4 26) 0 0 2 15728640 (.span 65536 62914560) .vb true false none, -- REFRESH
  en 0x045 (.int false 4 26) 0 0 2 3145728 (.span 65536 62914560) .vb true false none, -- REFRESH_MIN
  en 0x046 (.int false 2 16) 0 0 2 80 (.span 8 65535) .vb true false none, -- VBLANK
  en 0x047 (.enum) 0 0 2 0 (.span 0 1) .vb true false none, -- ROWS_PER_LINE
  en 0x048 (.enum) 0 0 2 0 (.span 0 1) .vb true false none, -- H_REPLICATE
  en 0x049 (.int false 4 26) 0 0 1 3932160 (.span 65536 15728640) .vb true false none, -- SELF_REFRESH
  en 0x04A (.enum) 0 0 2 0 (.span 0 1) .vb true false none, -- SYNC_POLARITY
  en 0x04B (.int false 4 32) 0 0 2 0 (.span 0 800000000) .vb true false none, -- SYNC_DELAY
  en 0x04C (.enum) 0 0 2 0 (.span 0 2) .vb true false none, -- SYNC_OUT_MODE
  en 0x04D (.int false 4 32) 0 0 2 0 (.span 0 800000000) .vb true false none, -- SYNC_OUT_LEAD
  en 0x04E (.int false 2 16) 0 0 2 800 (.span 8 65535) .vb true false none, -- SYNC_OUT_WIDTH
  en 0x400 (.enum) 0 0 4 0 (.any) .none false false none, -- STATE
  en 0x401 (.enum) 0 0 4 0 (.any) .none false false none, -- LOCK
  en 0x402 (.int false 4 32) 0 0 4 0 (.any) .none false false none, -- LINE
  en 0x403 (.int false 4 32) 0 0 4 0 (.any) .none false false none, -- FRAMES
  en 0x404 (.int false 4 30) 0 0 4 0 (.any) .none false false none, -- LINE_PERIOD
  en 0x405 (.int false 4 32) 0 0 4 0 (.any) .none false false none, -- FRAME_TIME
  en 0x406 (.int false 4 32) 0 0 4 0 (.any) .none false false none, -- REPEATS
  en 0x407 (.int false 4 32) 0 0 4 0 (.any) .none false false none, -- BRIDGES
  en 0x408 (.int false 4 32) 0 0 4 0 (.any) .none false false none, -- SELF_FRAMES
  en 0x409 (.int false 4 32) 0 0 4 0 (.any) .none false false none, -- DEFERRED
  en 0x40A (.int false 4 32) 0 0 4 0 (.any) .none false false none, -- DROPPED
  en 0x40B (.int false 4 32) 0 0 4 0 (.any) .none false false none, -- LATE_STARTS
  en 0x40C (.int true 4 32) 0 0 4 0 (.any) .none false false none, -- PHASE_ERROR
  en 0x40D (.int false 4 32) 0 0 4 0 (.any) .none false false none, -- SYNC_PERIOD
  en 0x40E (.int false 4 32) 0 0 4 0 (.any) .none false false none, -- LOCK_LOSSES
  en 0x40F (.int false 2 16) 0 0 4 0 (.any) .none false false none, -- PANEL_ROWS
  en 0x410 (.int false 2 16) 0 0 4 0 (.any) .none false false none, -- SLICE_WIDTH
  en 0x411 (.int false 4 32) 0 0 4 0 (.any) .none false false none -- BLACK_FRAMES
  ]

/-- Entries of class HALF. -/
def entriesHALF : List Entry := [
  en 0x040 (.int false 1 8) 0 0 2 0 (.span 0 15) .vb true false none, -- SKEW_TRIM
  en 0x400 (.int true 2 16) 0 0 4 0 (.any) .none false false none, -- SKEW
  en 0x401 (.int false 1 8) 0 0 4 0 (.any) .none false false none -- ENABLED_PORTS
  ]

/-- Entries of class STAND. -/
def entriesSTAND : List Entry := [
  en 0x400 (.int false 1 8) 0 0 4 0 (.any) .none false false none, -- SPARE_SLOT
  en 0x401 (.int false 2 16) 0 0 4 0 (.any) .none false false none, -- GLOBAL_MARGIN
  en 0x402 (.int false 2 16) 0 0 4 0 (.any) .none false false none, -- GLOBAL_CYCLE_PS
  en 0x403 (.int false 4 32) 0 0 4 0 (.any) .none false false none -- BEAT_ERRORS
  ]

/-- Entries of class TILE. -/
def entriesTILE : List Entry := [
  en 0x400 (.int false 2 16) 0 0 4 0 (.any) .none false false none, -- MARGIN
  en 0x401 (.int false 2 16) 0 0 4 0 (.any) .none false false none, -- CYCLE_PS
  en 0x402 (.int true 4 32) 0 0 4 0 (.any) .none false false none, -- SLACK_MIN
  en 0x403 (.int false 1 8) 0 0 4 0 (.any) .none false false none, -- SLOT
  en 0x404 (.int false 4 32) 0 0 4 0 (.any) .none false false none, -- SUBST_INPUT
  en 0x405 (.int false 4 32) 0 0 4 0 (.any) .none false false none, -- SUBST_DEADLINE
  en 0x406 (.int false 4 32) 0 0 4 0 (.any) .none false false none, -- SUBST_STORE
  en 0x407 (.int false 4 32) 0 0 4 0 (.any) .none false false none, -- REPLAYS
  en 0x408 (.int false 4 32) 0 0 4 0 (.any) .none false false none, -- BEAT_ERRORS
  en 0xF00 (.int false 1 8) 0 3 3 0 (.any) .now false true none -- FELL
  ]

/-- Entries of class LINK. -/
def entriesLINK : List Entry := [
  en 0x040 (.int false 2 16) 0 0 2 65535 (.mask 65535) .vb true false none, -- LANES_ENABLE
  en 0x041 (.enum) 0 0 2 3 (.span 0 3) .vb true false none, -- RATE_MAX
  en 0x042 (.enum) 0 0 2 1 (.span 0 1) .vb true false none, -- CLOCKING
  en 0x043 (.bool) 0 0 2 0 (.any) .rst true false none, -- REFCLK_SPREAD
  en 0x044 (.int false 1 8) 0 0 2 77 (.span 26 128) .vb true false none, -- EQ_MARGIN_MIN
  en 0x045 (.bool) 0 0 2 1 (.any) .vb true false none, -- TX_EQ_FALLBACK
  en 0x046 (.bool) 0 0 2 1 (.any) .vb true false none, -- FAST_EXIT
  en 0x047 (.int false 2 16) 0 0 2 0 (.span 0 65535) .now false true none, -- RETRAIN
  en 0x048 (.enum) 0 0 2 1 (.span 0 3) .vb true false none, -- IN_DEPTH
  en 0x049 (.enum) 0 0 2 0 (.span 0 1) .vb true false none, -- IN_COLOUR
  en 0x400 (.enum) 0 0 4 0 (.any) .none false false none, -- STATE
  en 0x401 (.enum) 0 0 4 0 (.any) .none false false none, -- RATE
  en 0x402 (.int false 2 16) 0 0 4 0 (.any) .none false false none, -- ACTIVE_LANES
  en 0x403 (.int false 4 32) 0 0 4 0 (.any) .none false false none, -- PAYLOAD
  en 0x404 (.int false 4 32) 0 0 4 0 (.any) .none false false none, -- TRAININGS
  en 0x405 (.enum) 0 0 4 0 (.any) .none false false none, -- LAST_REASON
  en 0x406 (.int false 4 32) 0 0 4 0 (.any) .none false false none, -- FILLER_INSERTED
  en 0x407 (.int false 4 32) 0 0 4 0 (.any) .none false false none, -- FILLER_DELETED
  en 0x408 (.int false 2 16) 0 0 4 0 (.any) .none false false none, -- BACKOFF
  en 0x409 (.int false 4 32) 0 0 4 0 (.any) .none false false none, -- FAST_EXITS
  en 0x40A (.int false 4 32) 0 0 4 0 (.any) .none false false none, -- FAST_EXIT_FAILS
  en 0x40B (.int false 1 8) 16 0 4 0 (.any) .none false false none, -- LANE_MAP
  en 0x40C (.int false 4 32) 0 0 4 0 (.any) .none false false none, -- FRAMES
  en 0x40D (.int false 4 32) 0 0 4 0 (.any) .none false false none, -- LAST_FRAME
  en 0x40E (.int false 4 32) 0 0 4 0 (.any) .none false false none, -- LINES_FAILED
  en 0x40F (.int false 4 32) 0 0 4 0 (.any) .none false false none, -- LINES_MISSING
  en 0x410 (.int false 4 32) 0 0 4 0 (.any) .none false false none, -- LINES_LATE
  en 0x411 (.int false 4 32) 0 0 4 0 (.any) .none false false none, -- HEADER_ERRORS
  en 0x412 (.int false 4 32) 0 0 4 0 (.any) .none false false none, -- FRAMES_REJECTED
  en 0x413 (.int false 4 32) 0 0 4 0 (.any) .none false false none, -- PACKETS_IGNORED
  en 0x414 (.int false 4 32) 0 0 4 0 (.any) .none false false none, -- REGIONS_APPLIED
  en 0x415 (.int false 4 32) 0 0 4 0 (.any) .none false false none, -- REGIONS_DISCARDED
  en 0x416 (.int false 2 16) 0 0 4 0 (.any) .none false false none, -- REGION_LIMIT
  en 0x417 (.int false 2 16) 0 0 4 0 (.any) .none false false none, -- FIT_NEED_NS
  en 0x418 (.int false 2 16) 0 0 4 0 (.any) .none false false none, -- FIT_LINE_NS
  en 0x419 (.int false 1 8) 8 0 4 0 (.any) .none false false none, -- USER_DATA
  en 0x41A (.bool) 0 0 4 0 (.any) .none false false none, -- PROTECTED
  en 0x41B (.int false 4 32) 0 0 4 0 (.any) .none false false none -- BLACK_FRAMES
  ]

/-- Entries of class LANE. -/
def entriesLANE : List Entry := [
  en 0x400 (.enum) 0 0 4 0 (.any) .none false false none, -- STATE
  en 0x401 (.int false 1 8) 0 0 4 0 (.any) .none false false none, -- SOURCE_LANE
  en 0x402 (.int false 1 8) 0 0 4 0 (.any) .none false false none, -- CTLE
  en 0x403 (.int false 1 8) 3 0 4 0 (.any) .none false false none, -- TX_TAPS
  en 0x404 (.int false 1 8) 0 0 4 0 (.any) .none false false none, -- MARGIN
  en 0x405 (.int false 4 32) 0 0 4 0 (.any) .none false false none, -- BLOCK_ERRORS
  en 0x406 (.int false 4 32) 0 0 4 0 (.any) .none false false none, -- LOCK_LOSSES
  en 0x407 (.int false 1 8) 0 0 4 0 (.any) .none false false none, -- EXCLUSIONS
  en 0x408 (.bool) 0 0 4 0 (.any) .none false false none -- INVERTED
  ]

/-- Entries of class AUX. -/
def entriesAUX : List Entry := [
  en 0x040 (.bool) 0 0 2 1 (.any) .now true false none, -- WAKE_ENABLE
  en 0x400 (.int false 4 32) 0 0 4 0 (.any) .none false false none, -- RX_FRAMES
  en 0x401 (.int false 4 32) 0 0 4 0 (.any) .none false false none, -- TX_FRAMES
  en 0x402 (.int false 4 32) 0 0 4 0 (.any) .none false false none, -- CHECK_ERRORS
  en 0x403 (.int false 4 32) 0 0 4 0 (.any) .none false false none, -- RETRIES
  en 0x404 (.int false 1 8) 0 0 4 0 (.any) .none false false none, -- UNANSWERED
  en 0x405 (.int false 4 32) 0 0 4 0 (.any) .none false false none -- DEFERRED
  ]

/-- Entries of class OUTPUT. -/
def entriesOUTPUT : List Entry := [
  en 0x040 (.int false 4 32) 2 0 2 4294967295 (.any) .rst true false none, -- PORT_ENABLE
  en 0x041 (.enum) 0 0 2 0 (.span 0 2) .vb true false none, -- RATE_SELECT
  en 0x042 (.blob 1024) 0 0 2 0 (.any) .now true false none, -- DRV_REGS
  en 0x043 (.bool) 0 0 2 1 (.any) .vb true false none, -- READBACK_ENABLE
  en 0x044 (.int false 1 8) 0 0 2 8 (.span 2 255) .vb true false none, -- STATUS_MISS_LIMIT
  en 0x045 (.int false 1 8) 0 0 2 2 (.span 1 16) .vb true false none, -- DRV_ERR_LIMIT
  en 0x046 (.bool) 0 0 2 1 (.any) .vb true false none, -- STRETCH_IDLE
  en 0x400 (.enum) 0 0 4 0 (.any) .none false false none, -- RATE
  en 0x401 (.bool) 0 0 4 0 (.any) .none false false none, -- BOOST
  en 0x402 (.int false 2 16) 0 0 4 0 (.any) .none false false none, -- FIT_NEED_NS
  en 0x403 (.int false 1 8) 0 0 4 0 (.any) .none false false none, -- PORTS_SINGLE
  en 0x404 (.int false 1 8) 0 0 4 0 (.any) .none false false none, -- PORTS_FAILED
  en 0x405 (.int false 4 32) 0 0 4 0 (.any) .none false false none -- CONFIG_APPLIED
  ]

/-- Entries of class PORT. -/
def entriesPORT : List Entry := [
  en 0x040 (.enum) 0 0 2 0 (.span 0 7) .vb true false none, -- TX_PRESET
  en 0x041 (.int false 2 16) 0 0 2 0 (.span 0 65535) .now false true none, -- RETRAIN
  en 0x400 (.enum) 0 0 4 0 (.any) .none false false none, -- MODE
  en 0x401 (.int false 4 32) 0 0 4 0 (.any) .none false false none, -- LINES_SENT
  en 0x402 (.int false 4 32) 0 0 4 0 (.any) .none false false none, -- LINES_SKIPPED
  en 0x403 (.int false 4 32) 0 0 4 0 (.any) .none false false none, -- TRANSIT_LOST
  en 0x404 (.int false 1 8) 16 0 4 0 (.any) .none false false none, -- DRIVER_STATUS
  en 0x405 (.int false 4 32) 0 0 4 0 (.any) .none false false none, -- STATUS_MISSED
  en 0x406 (.int false 4 32) 0 0 4 0 (.any) .none false false none, -- CONFIG_RESENDS
  en 0x407 (.int false 4 32) 0 0 4 0 (.any) .none false false none, -- SENSE_MISSED
  en 0x408 (.int false 2 16) 0 0 4 0 (.any) .none false false none -- MAX_LAG
  ]

/-- Entries of class OLANE. -/
def entriesOLANE : List Entry := [
  en 0x400 (.enum) 0 0 4 0 (.any) .none false false none, -- STATE
  en 0x401 (.int false 4 32) 0 0 4 0 (.any) .none false false none, -- READBACK_ERRORS
  en 0x402 (.int false 4 32) 0 0 4 0 (.any) .none false false none, -- DRIVER_LANE_ERRORS
  en 0x403 (.int false 4 32) 0 0 4 0 (.any) .none false false none, -- TYPE_ERRORS
  en 0x404 (.int false 1 8) 0 0 4 0 (.any) .none false false none -- EXCLUSIONS
  ]

/-- Entries of class PIPE. -/
def entriesPIPE : List Entry := [
  en 0x040 (.enum) 0 0 2 0 (.span 0 1) .vb true false none, -- SUBPIXELS
  en 0x041 (.int false 2 16) 0 0 2 256 (.span 0 256) .vb true false none, -- WHT_SHARE
  en 0x042 (.int false 2 16) 3 0 2 32768 (.span 1 65535) .vb true false none -- WHT_MIX
  ]

/-- Entries of class TONE. -/
def entriesTONE : List Entry := [
  en 0x040 (.enum) 0 0 1 0 (.span 0 1) .vb true false none, -- IN_RANGE
  en 0x041 (.enum) 0 0 1 1 (.span 0 2) .vb true false none, -- YCC_MATRIX
  en 0x042 (.bool) 0 0 1 0 (.any) .vb true false none, -- PRE_LUT_ENABLE
  en 0x043 (.blob 24576) 0 0 1 0 (.any) .vb false false none, -- PRE_LUT
  en 0x044 (.enum) 0 0 1 2 (.span 0 4) .vb true false none, -- EOTF
  en 0x045 (.int false 2 16) 0 0 1 0 (.span 0 32768) .vb true false none, -- BT1886_BLACK
  en 0x046 (.int false 2 16) 0 0 1 39322 (.span 32768 49152) .vb true false none, -- HLG_GAMMA
  en 0x047 (.int true 2 16) 9 0 2 0 (.any) .vb true false none, -- MATRIX
  en 0x048 (.int true 4 32) 3 0 2 0 (.span (-1048575) 1048575) .vb true false none, -- OFFSET
  en 0x049 (.bool) 0 0 1 0 (.any) .vb true false none, -- POST_LUT_ENABLE
  en 0x04A (.blob 49152) 0 0 1 0 (.any) .vb false false none, -- POST_LUT
  en 0x04B (.bool) 0 0 2 1 (.any) .vb true false none, -- LIMIT_ENABLE
  en 0x04C (.int false 4 32) 0 0 2 600000 (.span 1 4194300) .vb true false none, -- APL_LIMIT
  en 0x04D (.int false 2 16) 4 0 2 32768 (.any) .vb true false none, -- CURRENT_WEIGHT
  en 0x04E (.int false 4 17) 0 0 2 16384 (.span 4096 65536) .vb true false none, -- GAIN_MIN
  en 0x04F (.int false 2 16) 0 0 2 500 (.span 1 10000) .vb true false none, -- ATTACK_MS
  en 0x050 (.int false 2 16) 0 0 2 2000 (.span 1 10000) .vb true false none, -- RELEASE_MS
  en 0x400 (.int false 4 17) 0 0 4 0 (.any) .none false false none, -- LIMIT_GAIN
  en 0x401 (.int false 4 32) 0 0 4 0 (.any) .none false false none, -- FRAME_CURRENT
  en 0x402 (.int false 4 32) 0 0 4 0 (.any) .none false false none, -- DEMAND
  en 0x403 (.int false 4 32) 0 0 4 0 (.any) .none false false none -- LIMITED_FRAMES
  ]

/-- Entries of class LAYERS. -/
def entriesLAYERS : List Entry := [
  en 0x040 (.blob 8388608) 0 0 1 0 (.any) .now false false none, -- OVL_MEM
  en 0x041 (.int false 4 32) 16 0 1 0 (.mult 0 8388576 32) .now false false none, -- BUF_BASE
  en 0x042 (.int false 4 32) 16 0 1 524288 (.mult 0 8388608 32) .now false false none, -- BUF_SIZE
  en 0x400 (.int false 1 8) 16 0 4 0 (.any) .none false false none, -- BUF_STATE
  en 0x402 (.int false 4 32) 0 0 4 0 (.any) .none false false none, -- RELEASES
  en 0x403 (.int false 4 32) 0 0 4 0 (.any) .none false false none, -- BUSY_REFUSED
  en 0x404 (.int false 4 32) 0 0 4 0 (.any) .none false false none, -- HISTORY_DECODES
  en 0x405 (.int false 4 32) 0 0 4 0 (.any) .none false false none -- CRC_UNCHECKED
  ]

/-- Entries of class LAYER. -/
def entriesLAYER : List Entry := [
  en 0x040 (.bool) 0 0 1 0 (.any) .vb false false none, -- ENABLE
  en 0x041 (.enum) 0 0 1 0 (.span 0 2) .vb false false none, -- FORMAT
  en 0x042 (.int false 1 8) 0 0 1 0 (.span 0 15) .vb false false none, -- BUFFER
  en 0x043 (.int false 2 16) 0 0 1 0 (.span 0 10239) .vb false false none, -- X
  en 0x044 (.int false 2 16) 0 0 1 0 (.span 0 4319) .vb false false none, -- Y
  en 0x045 (.int false 2 16) 0 0 1 640 (.span 1 10240) .vb false false none, -- WIDTH
  en 0x046 (.int false 2 16) 0 0 1 200 (.span 1 4320) .vb false false none, -- HEIGHT
  en 0x047 (.int false 2 16) 0 0 1 2560 (.span 1 65535) .vb false false none, -- STRIDE
  en 0x048 (.int false 1 8) 0 0 1 255 (.span 0 255) .vb false false none, -- GLOBAL_ALPHA
  en 0x049 (.bool) 0 0 1 0 (.any) .vb false false none, -- OPAQUE
  en 0x04A (.enum) 0 0 1 0 (.span 0 1) .vb false false none, -- DECODE
  en 0x04B (.int false 4 32) 0 0 1 262144 (.span 0 1048575) .vb false false none, -- WHITE
  en 0x04C (.int false 4 32) 0 0 1 4294967295 (.any) .vb false false none, -- FILL
  en 0x04D (.int false 4 32) 256 0 1 0 (.any) .vb false false none, -- PALETTE
  en 0x04E (.int false 4 32) 256 0 1 0 (.span 0 1048575) .vb false false none, -- TABLE_RED
  en 0x04F (.int false 4 32) 256 0 1 0 (.span 0 1048575) .vb false false none, -- TABLE_GRN
  en 0x050 (.int false 4 32) 256 0 1 0 (.span 0 1048575) .vb false false none, -- TABLE_BLU
  en 0x051 (.enum) 0 0 1 0 (.span 0 1) .vb false false (some 0x0621), -- BASE_SOURCE
  en 0x052 (.int false 4 32) 3 0 1 0 (.span 0 1048575) .vb false false (some 0x0621), -- BASE_COLOUR
  en 0x400 (.int false 4 32) 0 0 4 0 (.any) .none false false none, -- COVERED
  en 0x401 (.int false 4 32) 0 0 4 0 (.any) .none false false none -- ROWS_BEYOND
  ]

/-- Entries of class OVERDRIVE. -/
def entriesOVERDRIVE : List Entry := [
  en 0x040 (.bool) 0 0 1 1 (.any) .vb true false none, -- ENABLE
  en 0x041 (.int false 1 8) 0 0 1 128 (.span 0 255) .vb true false none, -- STRENGTH
  en 0x042 (.blob 104544) 0 0 2 0 (.any) .vb false false none, -- TABLE
  en 0x043 (.int true 2 16) 4 0 2 0 (.span (-10240) 32000) .vb true false none, -- TEMP_PLANE
  en 0x044 (.int false 1 8) 0 0 2 15 (.mask 15) .vb true false none, -- TEMP_SOURCE
  en 0x045 (.int true 2 16) 0 0 2 7680 (.span (-10240) 32000) .vb true false none, -- TEMP_DEFAULT
  en 0x046 (.int false 4 32) 3 0 2 0 (.any) .vb true false none, -- AGE_STRESS
  en 0x400 (.int true 2 16) 0 0 4 0 (.any) .none false false none, -- PANEL_TEMP
  en 0x401 (.int false 2 16) 0 0 4 0 (.any) .none false false none, -- TEMP_POSITION
  en 0x402 (.blob 172800) 0 0 4 0 (.any) .none false false none, -- AGE_MAP
  en 0x403 (.int false 4 32) 0 0 4 0 (.any) .none false false none, -- OD_FRAMES
  en 0x404 (.int false 4 32) 0 0 4 0 (.any) .none false false none, -- PLAIN_FRAMES
  en 0x405 (.int false 4 32) 0 0 4 0 (.any) .none false false none, -- PREV_UNAVAILABLE
  en 0x406 (.enum) 0 0 4 0 (.any) .none false false none, -- PLAIN_REASON
  en 0x407 (.int false 4 32) 0 0 4 0 (.any) .none false false none -- AGE_MAP_UPDATES
  ]

/-- Entries of class COMP. -/
def entriesCOMP : List Entry := [
  en 0x040 (.bool) 0 0 2 1 (.any) .vb true false none, -- ENABLE
  en 0x041 (.bool) 0 0 2 1 (.any) .vb true false none, -- BLOCK_ENABLE
  en 0x042 (.bool) 0 0 2 1 (.any) .vb true false none, -- AGE_ENABLE
  en 0x043 (.bool) 0 0 2 1 (.any) .vb true false none, -- RES_ENABLE
  en 0x044 (.bool) 0 0 2 1 (.any) .vb true false none, -- DEFECT_ENABLE
  en 0x045 (.blob 2779376) 0 0 2 0 (.any) .vb false false none, -- BLOCK_MODEL
  en 0x046 (.int false 2 16) 4 0 2 16 (.span 1 256) .vb true false none, -- RES_STEP
  en 0x047 (.blob 176947200) 0 0 2 0 (.any) .vb false false none, -- RESIDUAL_MAP
  en 0x048 (.blob 524288) 0 0 2 0 (.any) .vb false false none, -- DEFECT_LIST
  en 0x049 (.int false 1 8) 80 0 2 0 (.span 0 255) .vb true false none, -- DEFECT_WEIGHTS
  en 0x04A (.bool) 0 0 1 1 (.any) .vb true false none, -- SRL_ENABLE
  en 0x04B (.int false 2 16) 0 0 1 60 (.span 5 3600) .vb true false none, -- SRL_TIME
  en 0x04C (.int false 2 16) 0 0 1 16384 (.span 0 49152) .vb true false none, -- SRL_DEPTH
  en 0x04D (.int false 2 16) 0 0 1 10000 (.span 100 65535) .vb true false none, -- SRL_FADE_MS
  en 0x04E (.int false 2 16) 0 0 1 500 (.span 1 10000) .vb true false none, -- SRL_RECOVER_MS
  en 0x04F (.int false 4 32) 0 0 1 100000 (.span 0 1048575) .vb true false none, -- SRL_FLOOR
  en 0x050 (.int false 1 8) 0 0 2 8 (.span 0 16) .vb true false none, -- SRL_QUANT
  en 0x051 (.enum) 0 0 2 1 (.span 0 2) .vb true false none, -- SWEEP_MODE
  en 0x052 (.int false 2 16) 0 0 2 60 (.span 1 1440) .vb true false none, -- SWEEP_INTERVAL
  en 0x053 (.int false 2 16) 0 0 2 20 (.span 5 200) .vb true false none, -- SENSE_WINDOW
  en 0x054 (.int false 4 32) 4 0 2 262144 (.span 1 1048575) .vb true false none, -- SENSE_LEVEL
  en 0x055 (.int false 4 32) 4 0 2 65536 (.span 1 16777215) .vb true false none, -- SENSE_SCALE
  en 0x056 (.int false 1 8) 0 0 2 128 (.span 0 255) .vb true false none, -- LOOP_GAIN
  en 0x057 (.int false 4 32) 0 0 2 1024 (.span 0 65535) .vb true false none, -- DEADBAND
  en 0x058 (.int false 1 8) 0 0 2 4 (.span 1 127) .vb true false none, -- STEP_MAX
  en 0x059 (.int false 1 8) 0 0 2 1 (.mask 7) .vb true false none, -- AUTO_DEFECT
  en 0x05A (.int false 1 8) 0 0 2 32 (.span 1 255) .vb true false none, -- DARK_FRAC
  en 0x05B (.int false 2 16) 0 0 2 1024 (.span 257 4096) .vb true false none, -- BRIGHT_FRAC
  en 0x05C (.int false 2 16) 0 0 2 1000 (.span 0 10000) .vb true false none, -- HOLD_BATCH_RATE
  en 0x05D (.int false 2 16) 0 0 2 0 (.span 0 65535) .now false true none, -- SWEEP_START
  en 0x05E (.int false 4 32) 0 0 2 0 (.mask 536870911) .now false false none, -- PROBE
  en 0x060 (.int false 2 16) 68 0 2 4096 (.span 0 65535) .vb true false none, -- TEMP_FACTOR
  en 0x061 (.int false 2 16) 68 0 2 16384 (.span 0 65535) .vb true false none, -- AGE_CURVE
  en 0x062 (.int false 2 16) 0 0 2 240 (.span 60 1440) .now true false none, -- SAVE_INTERVAL
  en 0x063 (.bool) 0 0 2 1 (.any) .now true false none, -- SAVE_ON_OFF
  en 0x064 (.int false 2 16) 0 0 2 0 (.span 0 65535) .now false true none, -- MAP_SAVE
  en 0x065 (.int false 2 16) 0 0 2 0 (.span 0 65535) .now false true none, -- MAP_RELOAD
  en 0x400 (.enum) 0 0 4 0 (.any) .none false false none, -- SWEEP_STATE
  en 0x401 (.int false 4 32) 0 0 4 0 (.any) .none false false none, -- SWEEP_PROGRESS
  en 0x402 (.int false 4 32) 0 0 4 0 (.any) .none false false none -- SWEEPS
  ] ++ [
  en 0x403 (.int true 4 32) 3 0 4 0 (.any) .none false false none, -- SENSE_RESULT
  en 0x404 (.int false 4 32) 0 0 4 0 (.any) .none false false none, -- SENSE_MISSED
  en 0x405 (.int false 4 32) 0 0 4 0 (.any) .none false false none, -- RES_UPDATES
  en 0x406 (.int false 4 32) 0 0 4 0 (.any) .none false false none, -- RES_SATURATED
  en 0x407 (.int false 4 32) 0 0 4 0 (.any) .none false false none, -- DEFECTS
  en 0x408 (.int false 4 32) 0 0 4 0 (.any) .none false false none, -- DEFECTS_AUTO
  en 0x409 (.int false 4 32) 0 0 4 0 (.any) .none false false none, -- DEFECTS_IGNORED
  en 0x40A (.int false 4 32) 0 0 4 0 (.any) .none false false none, -- SRL_BLOCKS
  en 0x40B (.int false 2 16) 0 0 4 0 (.any) .none false false none, -- SRL_MAX_DIM
  en 0x40C (.int false 4 32) 0 0 4 0 (.any) .none false false none, -- STRESS_PASSES
  en 0x40D (.int false 2 16) 0 0 4 0 (.any) .none false false none, -- STRESS_PERIOD
  en 0x40E (.blob 1389688) 0 0 4 0 (.any) .none false false none, -- AGE_GAIN
  en 0x40F (.blob 691200) 0 0 4 0 (.any) .none false false none, -- BLOCK_STRESS
  en 0x410 (.enum) 0 0 4 0 (.any) .none false false none, -- MAP_STATE
  en 0x411 (.int false 1 8) 0 0 4 0 (.any) .none false false none, -- MAP_PROGRESS
  en 0x412 (.enum) 0 0 4 0 (.any) .none false false none, -- MAP_BANK
  en 0x413 (.int false 4 32) 0 0 4 0 (.any) .none false false none, -- LAST_SAVE
  en 0x414 (.int false 4 32) 0 0 4 0 (.any) .none false false none, -- RES_LINES_PENDING
  en 0x415 (.enum) 0 0 4 0 (.any) .none false false none, -- STRESS_DETAIL
  en 0x416 (.blob 707788800) 0 0 4 0 (.any) .none false false none, -- STRESS_MAP
  en 0x417 (.int false 4 32) 0 0 4 0 (.any) .none false false none, -- RES_LATE
  en 0xF00 (.blob 707788800) 0 3 3 0 (.any) .vb false true none -- STRESS_SET
  ]

/-- Entries of class DITHER. -/
def entriesDITHER : List Entry := [
  en 0x040 (.enum) 0 0 2 2 (.span 0 2) .vb true false none, -- MODE
  en 0x041 (.int false 4 26) 0 0 2 1966080 (.span 65536 15728640) .vb true false none, -- FREEZE_HZ
  en 0x042 (.blob 65536) 0 0 2 0 (.any) .vb false false none, -- CODE_LUT
  en 0x043 (.blob 16384) 0 0 2 0 (.any) .vb false false none, -- MASK
  en 0x044 (.int false 2 16) 4 0 2 0 (.span 0 16383) .vb true false none, -- ZERO_CODE
  en 0x045 (.int false 2 16) 4 0 2 0 (.span 0 16383) .vb true false none, -- CODE_MIN
  en 0x046 (.int false 2 16) 4 0 2 16383 (.span 0 16383) .vb true false none, -- CODE_MAX
  en 0x047 (.int false 4 32) 0 0 2 0 (.mask 536870911) .now false false none, -- PROBE
  en 0x400 (.int false 1 8) 0 0 4 0 (.any) .none false false none, -- PHASE
  en 0x401 (.bool) 0 0 4 0 (.any) .none false false none, -- FROZEN
  en 0x402 (.int false 2 16) 4 0 4 0 (.any) .none false false none, -- CODE_PEAK
  en 0x403 (.int false 4 32) 0 0 4 0 (.any) .none false false none, -- CLIPPED
  en 0x404 (.int false 4 32) 3 0 4 0 (.any) .none false false none, -- PROBE_RESULT
  en 0x405 (.int false 4 32) 0 0 4 0 (.any) .none false false none, -- FROZEN_FRAMES
  en 0x406 (.int false 4 32) 0 0 4 0 (.any) .none false false none -- LUT_REPAIRS
  ]

/-- Entries of class ROWDRV. -/
def entriesROWDRV : List Entry := [
  en 0x040 (.enum) 0 0 2 1 (.span 0 2) .vb true false none, -- ROWSET1_MODE
  en 0x041 (.int false 4 17) 0 0 1 65536 (.span 0 65536) .vb true false none, -- DUTY
  en 0x042 (.int false 2 16) 0 0 1 0 (.span 0 60000) .vb true false none, -- FADE_MS
  en 0x043 (.int false 1 8) 0 0 2 12 (.span 8 16) .vb true false none, -- DUTY_BITS
  en 0x044 (.int false 2 16) 4 0 2 32768 (.span 0 65535) .vb true false none, -- DUTY_CAL
  en 0x045 (.int false 2 16) 0 0 2 0 (.span 0 10000) .vb true false none, -- FADE_IN_MS
  en 0x046 (.enum) 0 0 2 1 (.span 0 1) .vb true false none, -- BIAS_MODE
  en 0x047 (.int false 2 16) 0 0 2 0 (.span 0 65535) .vb true false none, -- BIAS_DELAY
  en 0x048 (.int false 2 16) 0 0 2 100 (.span 10 10000) .vb true false none, -- BIAS_MAX_MS
  en 0x400 (.int false 4 17) 0 0 4 0 (.any) .none false false none, -- DUTY_NOW
  en 0x401 (.bool) 0 0 4 0 (.any) .none false false none, -- FADING
  en 0x402 (.int false 4 17) 4 0 4 0 (.any) .none false false none, -- FRAME_DUTY
  en 0x403 (.int true 4 32) 0 0 4 0 (.any) .none false false none, -- BIAS_BALANCE
  en 0x404 (.bool) 0 0 4 0 (.any) .none false false none -- BIAS_LEVEL
  ]

/-- Entries of class ROWSET. -/
def entriesROWSET : List Entry := [
  en 0x040 (.int false 4 32) 23 0 2 0 (.mask 0x37FFFF1F) .vb true false none, -- OUT_CFG
  en 0x041 (.int false 4 32) 23 0 2 0 (.halves) .vb true false none, -- OUT_WIN
  en 0x042 (.int false 4 32) 184 0 2 0 (.mask 0x81FFFFFF) .vb true false none, -- OUT_EDGES
  en 0x043 (.int false 4 32) 0 0 2 0 (.span 0 16777215) .vb true false none, -- EMIT_SPAN
  en 0x044 (.int false 2 16) 0 0 2 400 (.span 8 800) .vb true false none, -- SENSE_STEP
  en 0x400 (.int false 2 16) 0 0 4 0 (.any) .none false false none, -- SENSE_ROW
  en 0x401 (.int false 4 32) 0 0 4 0 (.any) .none false false none, -- EDGES_IGNORED
  en 0x402 (.int false 4 32) 0 0 4 0 (.any) .none false false none -- LEVELS
  ]

/-- Entries of class PANELPWR. -/
def entriesPANELPWR : List Entry := [
  en 0x040 (.blob 128) 0 0 2 0 (.any) .vb true false none, -- ON_SEQ
  en 0x041 (.blob 128) 0 0 2 0 (.any) .vb true false none, -- OFF_SEQ
  en 0x042 (.int false 2 16) 0 0 2 20 (.span 1 1000) .vb true false none, -- STEP_TIMEOUT
  en 0x043 (.int false 1 8) 0 0 2 31 (.mask 63) .vb true false none, -- PGOOD_MONITOR
  en 0x044 (.enum) 0 0 2 1 (.span 0 2) .rst true false none, -- PMBUS_RATE
  en 0x045 (.bool) 0 0 2 1 (.any) .rst true false none, -- PMBUS_PEC
  en 0x046 (.int false 2 16) 0 0 2 20 (.span 0 1000) .vb true false none, -- DISCH_ALL_MS
  en 0x400 (.enum) 0 0 4 0 (.any) .none false false none, -- STATE
  en 0x401 (.int false 1 8) 0 0 4 0 (.any) .none false false none, -- STEP
  en 0x402 (.int false 1 8) 0 0 4 0 (.any) .none false false none, -- PGOOD
  en 0x403 (.int false 2 16) 0 0 4 0 (.any) .none false false none, -- ON_TIME
  en 0x404 (.int false 4 32) 0 0 4 0 (.any) .none false false none, -- SEQ_FAILURES
  en 0x405 (.int false 4 32) 0 0 4 0 (.any) .none false false none, -- PMBUS_ERRORS
  en 0x406 (.int false 4 32) 0 0 4 0 (.any) .none false false none, -- PGOOD_LOSSES
  en 0x407 (.int false 4 32) 0 0 4 0 (.any) .none false false none -- PANEL_CYCLES
  ]

/-- Entries of class REFLADDER. -/
def entriesREFLADDER : List Entry := [
  en 0x040 (.int false 2 16) 18 0 2 200 (.span 200 4600) .vb true false none, -- GREF_MV
  en 0x041 (.int false 4 32) 0 0 2 262143 (.mask 262143) .vb true false none, -- GREF_ENABLE
  en 0x042 (.int true 2 16) 0 0 2 (-2000) (.span (-3000) (-1000)) .vb true false none, -- SREF_N_MV
  en 0x400 (.int false 2 16) 0 0 4 0 (.any) .none false false none, -- AVDD_REF_MV
  en 0x401 (.int true 2 16) 0 0 4 0 (.any) .none false false none, -- SREF_N_MEAS
  en 0x402 (.enum) 0 0 4 0 (.any) .none false false none, -- PUMP_STATE
  en 0x403 (.int false 4 32) 0 0 4 0 (.any) .none false false none -- GREF_CLIPPED
  ]

/-- Entries of class FSTORE. -/
def entriesFSTORE : List Entry := [
  en 0x040 (.enum) 0 0 2 1 (.span 0 1) .vb true false none, -- TABLE_MODE
  en 0x041 (.bool) 0 0 2 0 (.any) .vb true false none, -- ENCRYPT_ALL
  en 0x042 (.enum) 0 0 2 1 (.span 0 2) .vb true false none, -- RESTART_LINES
  en 0x400 (.int false 1 8) 4 0 4 0 (.any) .none false false none, -- SLOT_ROLES
  en 0x401 (.int false 4 32) 4 0 4 0 (.any) .none false false none, -- SLOT_FRAME
  en 0x402 (.int false 1 8) 4 0 4 0 (.any) .none false false none, -- SLOT_STATE
  en 0x403 (.int false 4 32) 0 0 4 0 (.any) .none false false none, -- FRAMES_STORED
  en 0x404 (.int false 4 32) 0 0 4 0 (.any) .none false false none, -- LAST_STORED_KIB
  en 0x405 (.int false 2 16) 0 0 4 0 (.any) .none false false none, -- LAST_RATIO
  en 0x406 (.int false 4 32) 0 0 4 0 (.any) .none false false none, -- STORED_BLOCKS
  en 0x407 (.int false 4 32) 0 0 4 0 (.any) .none false false none, -- BLOCKS_FAILED
  en 0x408 (.int false 4 32) 0 0 4 0 (.any) .none false false none, -- CHAIN_LOST
  en 0x409 (.int false 4 32) 0 0 4 0 (.any) .none false false none, -- STAND_CRC_FAILS
  en 0x40A (.int false 4 32) 0 0 4 0 (.any) .none false false none, -- NO_KEY_BLACK
  en 0x40B (.int false 4 32) 0 0 4 0 (.any) .none false false none -- MERGES
  ]

/-- Entries of class CODEC. -/
def entriesCODEC : List Entry := [
  en 0x400 (.int false 4 32) 0 0 4 0 (.any) .none false false none, -- BLOCKS_CODED
  en 0x401 (.int false 4 32) 0 0 4 0 (.any) .none false false none, -- BLOCKS_DECODED
  en 0x402 (.int false 4 32) 0 0 4 0 (.any) .none false false none, -- BYTE_BLOCKS
  en 0x403 (.int false 4 32) 0 0 4 0 (.any) .none false false none, -- PREEMPTIONS
  en 0x404 (.int false 4 32) 0 0 4 0 (.any) .none false false none -- CRC_CHECKED
  ]

/-- Entries of class DRAM. -/
def entriesDRAM : List Entry := [
  en 0x040 (.enum) 0 0 2 2 (.span 0 3) .rst true false none, -- MAP_ORDER
  en 0x041 (.enum) 0 0 2 3 (.span 0 8) .rst true false none, -- GRAIN
  en 0x042 (.int false 2 16) 0 0 2 4096 (.span 256 65535) .now true false none, -- RD_THRESHOLD
  en 0x043 (.int false 1 8) 0 0 2 1 (.span 1 24) .now true false none, -- SCRUB_HOURS
  en 0x044 (.int false 2 16) 0 0 2 100 (.span 10 1000) .now true false none, -- RETRAIN_MS
  en 0x045 (.int false 1 8) 0 0 2 30 (.span 5 60) .now true false none, -- DRIFT_LIMIT
  en 0x046 (.int false 1 8) 0 0 2 8 (.span 2 15) .now true false none, -- CE_ROW_LIMIT
  en 0x047 (.bool) 0 0 2 1 (.any) .now true false none, -- REPAIR_ENABLE
  en 0x400 (.int false 1 8) 0 0 4 0 (.any) .none false false none, -- CHANNELS
  en 0x401 (.int false 1 8) 0 0 4 0 (.any) .none false false none, -- RETIRED_CHANNEL
  en 0x402 (.enum) 0 0 4 0 (.any) .none false false none, -- MIGRATION
  en 0x403 (.int false 4 32) 0 0 4 0 (.any) .none false false none, -- MIGRATED
  en 0x404 (.int false 2 16) 0 0 4 0 (.any) .none false false none, -- USABLE_MIB
  en 0x405 (.int false 4 32) 0 0 4 0 (.any) .none false false none, -- LOAD_MBS
  en 0x406 (.int false 4 32) 0 0 4 0 (.any) .none false false none, -- SUSTAINED_MBS
  en 0x407 (.bool) 0 0 4 0 (.any) .none false false none, -- STRESS_HALVED
  en 0x408 (.int false 4 32) 0 0 4 0 (.any) .none false false none, -- POISONED
  en 0x409 (.int false 4 32) 0 0 4 0 (.any) .none false false none, -- SCRUB_PASSES
  en 0x40A (.int false 4 32) 0 0 4 0 (.any) .none false false none, -- THROTTLES
  en 0x40B (.int false 4 32) 0 0 4 0 (.any) .none false false none, -- SR_ENTRIES
  en 0x40C (.int false 4 32) 0 0 4 0 (.any) .none false false none, -- SR_ABORTS
  en 0x40D (.int false 2 16) 0 0 4 0 (.any) .none false false none, -- SR_EXIT_MAX
  en 0x40E (.int false 4 32) 0 0 4 0 (.any) .none false false none, -- MIRROR_READS
  en 0xF00 (.int false 1 8) 0 3 3 0 (.span 0 7) .now false true none -- RETIRE
  ]

/-- Entries of class DCH. -/
def entriesDCH : List Entry := [
  en 0x400 (.enum) 0 0 4 0 (.any) .none false false none, -- STATE
  en 0x401 (.int false 4 32) 0 0 4 0 (.any) .none false false none, -- POISON_READS
  en 0x402 (.int false 4 32) 0 0 4 0 (.any) .none false false none, -- RETRIES
  en 0x403 (.int false 4 32) 0 0 4 0 (.any) .none false false none, -- RFM_ISSUED
  en 0x404 (.int false 1 8) 0 0 4 0 (.any) .none false false none, -- ROWS_HELD
  en 0x405 (.int false 2 16) 0 0 4 0 (.any) .none false false none, -- REPAIRS_DONE
  en 0x406 (.int false 1 8) 16 0 4 0 (.any) .none false false none, -- REPAIRS_LEFT
  en 0x407 (.int false 4 32) 0 0 4 0 (.any) .none false false none, -- FINE_RETRAINS
  en 0x408 (.int false 4 32) 0 0 4 0 (.any) .none false false none, -- FULL_RETRAINS
  en 0x409 (.int true 2 16) 0 0 4 0 (.any) .none false false none, -- DRIFT
  en 0x40A (.int false 1 8) 0 0 4 0 (.any) .none false false none, -- REFRESH_RATE
  en 0x40B (.int false 1 8) 0 0 4 0 (.any) .none false false none -- UE_ROWS_24H
  ]

/-- Entries of class SRAM. -/
def entriesSRAM : List Entry := [
  en 0x040 (.int false 2 16) 0 0 2 60 (.span 10 3600) .now true false none, -- SCRUB_S
  en 0x041 (.int false 1 8) 0 0 2 3 (.span 2 32) .now true false none, -- ROW_CE_LIMIT
  en 0x042 (.bool) 0 0 2 1 (.any) .now true false none, -- TEST_ENABLE
  en 0x043 (.int false 2 16) 0 0 2 1000 (.span 100 60000) .now true false none, -- TEST_INTERVAL_US
  en 0x400 (.int false 4 32) 0 0 4 0 (.any) .none false false none, -- SCRUB_PASSES
  en 0x401 (.int false 2 16) 0 0 4 0 (.any) .none false false none, -- SPARES_USED
  en 0x402 (.int false 4 32) 0 0 4 0 (.any) .none false false none, -- WRITES_LOST
  en 0x403 (.int false 4 32) 0 0 4 0 (.any) .none false false none, -- TEST_PASSES
  en 0x404 (.int false 4 32) 0 0 4 0 (.any) .none false false none, -- SECURE_WIPES
  en 0x405 (.int false 2 16) 0 0 4 0 (.any) .none false false none -- LAST_WIPE_US
  ]

/-- Entries of class BANK. -/
def entriesBANK : List Entry := [
  en 0x400 (.int false 4 32) 0 0 4 0 (.any) .none false false none, -- CONFLICT_STALLS
  en 0x401 (.int false 4 32) 0 0 4 0 (.any) .none false false none, -- WRITES_LOST
  en 0x402 (.int false 4 32) 0 0 4 0 (.any) .none false false none, -- ATOMICS
  en 0x403 (.int false 4 32) 0 0 4 0 (.any) .none false false none, -- POISONED
  en 0x404 (.int false 1 8) 16 0 4 0 (.any) .none false false none, -- SPARES_LEFT
  en 0x405 (.int false 2 16) 0 0 4 0 (.any) .none false false none, -- ROWS_SPARED
  en 0x406 (.int false 4 32) 0 0 4 0 (.any) .none false false none, -- WINDOW_HOLDS
  en 0x407 (.int false 2 16) 0 0 4 0 (.any) .none false false none, -- MAX_HOLD_NS
  en 0x408 (.int false 4 32) 0 0 4 0 (.any) .none false false none, -- SECURE_REFUSED
  en 0xF00 (.blob 4194304) 0 3 4 0 (.any) .none false false none -- RAW
  ]

/-- Entries of class CTRLPORT. -/
def entriesCTRLPORT : List Entry := [
  en 0x040 (.enum) 0 0 4 0 (.span 0 3) .none false false none, -- MODE
  en 0x041 (.bool) 0 0 2 1 (.any) .now true false none, -- ENABLE
  en 0x042 (.int false 2 16) 0 0 1 10240 (.mask 32766) .now true false none, -- NOTIFY_MASK
  en 0x043 (.int false 2 16) 0 0 2 600 (.span 0 3600) .now true false none, -- IDLE_TIMEOUT
  en 0x044 (.int false 2 16) 0 0 2 256 (.span 256 1024) .rst true false none, -- STAGING
  en 0x045 (.bool) 0 0 2 1 (.any) .now true false (some 0x0B10), -- IRQ_ENABLE
  en 0x046 (.int false 1 8) 0 0 2 76 (.span 8 119) .rst true false (some 0x0B10), -- I3C_STATIC
  en 0x047 (.int false 1 8) 0 0 2 0 (.span 0 119) .rst true false (some 0x0B11), -- NODE_OFFSET
  en 0x048 (.enum) 0 0 2 1 (.span 0 3) .rst true false (some 0x0B11), -- DATA_RATE
  en 0x049 (.bool) 0 0 2 0 (.any) .now true false (some 0x0B11), -- BROADCAST
  en 0x400 (.int false 4 32) 0 0 4 0 (.any) .none false false none, -- RX_FRAMES
  en 0x401 (.int false 4 32) 0 0 4 0 (.any) .none false false none, -- TX_FRAMES
  en 0x402 (.int false 4 32) 0 0 4 0 (.any) .none false false none, -- CHECK_ERRORS
  en 0x403 (.int false 4 32) 0 0 4 0 (.any) .none false false none, -- SEQ_ERRORS
  en 0x404 (.int false 4 32) 0 0 4 0 (.any) .none false false none, -- NOT_TAKEN
  en 0x405 (.enum) 0 0 4 0 (.any) .none false false none, -- SESSION_LEVEL
  en 0x406 (.int false 1 8) 0 0 4 0 (.any) .none false false none, -- CREDITS
  en 0x407 (.int false 4 32) 0 0 4 0 (.any) .none false false none, -- NOTIFY_LOST
  en 0x408 (.int false 4 32) 0 0 4 0 (.any) .none false false none, -- TAG_FAILURES
  en 0x409 (.int false 1 8) 0 0 4 0 (.any) .none false false (some 0x0B11) -- NODE_ID
  ]

/-- The rows of a class of Table 2.1. -/
def entriesOf (cls : Nat) : List Entry :=
  match cls with
  | 1 => entriesDEV
  | 2 => entriesSTAG
  | 3 => entriesTHERM
  | 4 => entriesVMON
  | 5 => entriesNTC
  | 6 => entriesLOG
  | 7 => entriesUPDATE
  | 8 => entriesSEC
  | 9 => entriesPSTORE
  | 10 => entriesPWR
  | 11 => entriesRASTER
  | 12 => entriesHALF
  | 13 => entriesSTAND
  | 14 => entriesTILE
  | 15 => entriesLINK
  | 16 => entriesLANE
  | 17 => entriesAUX
  | 18 => entriesOUTPUT
  | 19 => entriesPORT
  | 20 => entriesOLANE
  | 21 => entriesPIPE
  | 22 => entriesTONE
  | 23 => entriesLAYERS
  | 24 => entriesLAYER
  | 25 => entriesOVERDRIVE
  | 26 => entriesCOMP
  | 27 => entriesDITHER
  | 28 => entriesROWDRV
  | 29 => entriesROWSET
  | 30 => entriesPANELPWR
  | 31 => entriesREFLADDER
  | 32 => entriesFSTORE
  | 33 => entriesCODEC
  | 34 => entriesDRAM
  | 35 => entriesDCH
  | 36 => entriesSRAM
  | 37 => entriesBANK
  | 39 => entriesCTRLPORT
  | _ => []

/-- The class of a handle (R39, Table 2.1); 0 where the handle names no unit. -/
def classOf (h : Nat) : Nat :=
  if h = 0x0000 then 1 else if h = 0x0010 then 2
  else if 0x0011 ≤ h ∧ h ≤ 0x0020 then 3
  else if 0x0021 ≤ h ∧ h ≤ 0x0024 then 4
  else if 0x0025 ≤ h ∧ h ≤ 0x0028 then 5
  else if h = 0x0030 then 6 else if h = 0x0031 then 7
  else if h = 0x0040 then 8 else if h = 0x0050 then 9 else if h = 0x0060 then 10
  else if h = 0x0100 then 11
  else if h = 0x0101 ∨ h = 0x0102 then 12
  else if 0x0110 ≤ h ∧ h ≤ 0x0117 then 13
  else if 0x0200 ≤ h ∧ h ≤ 0x0278 ∧ h % 16 ≤ 8 then 14
  else if h = 0x0300 then 15
  else if 0x0310 ≤ h ∧ h ≤ 0x031F then 16
  else if h = 0x0320 then 17 else if h = 0x0380 then 18
  else if 0x0400 ≤ h ∧ h ≤ 0x043F then 19
  else if 0x0500 ≤ h ∧ h ≤ 0x057F then 20
  else if h = 0x0600 then 21 else if h = 0x0610 then 22 else if h = 0x0620 then 23
  else if 0x0621 ≤ h ∧ h ≤ 0x0625 then 24
  else if h = 0x0630 then 25 else if h = 0x0640 then 26 else if h = 0x0650 then 27
  else if h = 0x0700 then 28
  else if h = 0x0701 ∨ h = 0x0702 then 29
  else if h = 0x0710 then 30 else if h = 0x0720 then 31 else if h = 0x0800 then 32
  else if 0x0810 ≤ h ∧ h ≤ 0x0817 then 33
  else if h = 0x0900 then 34
  else if 0x0910 ≤ h ∧ h ≤ 0x0917 then 35
  else if h = 0x0A00 then 36
  else if 0x0A10 ≤ h ∧ h ≤ 0x0A27 then 37
  else if h = 0x0B00 then 38
  else if 0x0B10 ≤ h ∧ h ≤ 0x0B12 then 39
  else 0

/-- `n` handles from `base`, `step` apart. -/
def handlesFrom (base step n : Nat) : List Nat := (List.range n).map fun i => base + step * i

/-- The children of a unit in ascending handle order (R23, Table 1.3). -/
def childrenOf (h : Nat) : List Nat :=
  if h = hDEV then [0x0010, 0x0030, 0x0031, 0x0040, 0x0050, 0x0060, 0x0100, 0x0300, 0x0380, 0x0600, 0x0700, 0x0800, 0x0900,
    0x0A00, 0x0B00]
  else if h = hSTAG then handlesFrom 0x0011 1 24
  else if h = hRASTER then [0x0101, 0x0102]
  else if h = 0x0101 then handlesFrom 0x0110 1 4
  else if h = 0x0102 then handlesFrom 0x0114 1 4
  else if classOf h = 13 then handlesFrom (0x0200 + 16 * (h - 0x0110)) 1 9
  else if h = hLINK then handlesFrom 0x0310 1 16 ++ [hAUX]
  else if h = hOUTPUT then handlesFrom 0x0400 1 64
  else if classOf h = 19 then handlesFrom (0x0500 + 2 * (h - 0x0400)) 1 2
  else if h = hPIPE then [hTONE, hLAYERS, hOVERDRIVE, hCOMP, hDITHER]
  else if h = hLAYERS then handlesFrom 0x0621 1 5
  else if h = hROWDRV then [0x0701, 0x0702, hPANELPWR, hREFLADDER]
  else if h = hFSTORE then handlesFrom 0x0810 1 8
  else if h = hDRAM then handlesFrom 0x0910 1 8
  else if h = hSRAM then handlesFrom 0x0A10 1 24
  else if h = hCTRL then handlesFrom 0x0B10 1 3
  else []

/-- The parent of a unit (Table 1.3); DEV reads 0xFFFF. -/
def parentOf (h : Nat) : Nat :=
  match classOf h with
  | 1 => 0xFFFF
  | 3 | 4 | 5 => hSTAG
  | 12 => hRASTER
  | 13 => 0x0101 + (h - 0x0110) / 4
  | 14 => 0x0110 + (h - 0x0200) / 16
  | 16 | 17 => hLINK
  | 19 => hOUTPUT
  | 20 => 0x0400 + (h - 0x0500) / 2
  | 22 | 23 | 25 | 26 | 27 => hPIPE
  | 24 => hLAYERS
  | 29 | 30 | 31 => hROWDRV
  | 33 => hFSTORE
  | 35 => hDRAM
  | 37 => hSRAM
  | 39 => hCTRL
  | _ => hDEV

/-- Every unit, in ascending handle order. -/
def allHandles : List Nat :=
  [0x0000] ++ handlesFrom 0x0010 1 25 ++ [0x0030, 0x0031, 0x0040, 0x0050, 0x0060, 0x0100, 0x0101, 0x0102]
  ++ handlesFrom 0x0110 1 8
  ++ (List.range 8).flatMap (fun s => handlesFrom (0x0200 + 16 * s) 1 9)
  ++ [0x0300] ++ handlesFrom 0x0310 1 17 ++ [0x0380] ++ handlesFrom 0x0400 1 64 ++ handlesFrom 0x0500 1 128
  ++ [0x0600, 0x0610, 0x0620] ++ handlesFrom 0x0621 1 5 ++ [0x0630, 0x0640, 0x0650, 0x0700, 0x0701, 0x0702, 0x0710, 0x0720,
    0x0800] ++ handlesFrom 0x0810 1 8 ++ [0x0900] ++ handlesFrom 0x0910 1 8 ++ [0x0A00] ++ handlesFrom 0x0A10 1 24
  ++ [0x0B00] ++ handlesFrom 0x0B10 1 3

/-- Is an entry of the class present on this handle?  The layer tables divide theirs between L0 and the other layers
(R179), and the BANK entries 0x406 to 0x408 exist on some banks only (R377). -/
def presentOn (h : Nat) (e : Entry) : Bool :=
  match e.only with
  | some o => o == h
  | none =>
    !(h == hLAYER 0 && (e.param == Par.LAYER_ROWS_BEYOND || (0x040 ≤ e.param && e.param ≤ 0x050)))
    && !(classOf h == 37 && (e.param == Par.BANK_WINDOW_HOLDS || e.param == Par.BANK_MAX_HOLD_NS) && h != hBANK 20
      && h != hBANK 21)
    && !(classOf h == 37 && e.param == Par.BANK_SECURE_REFUSED && h != hBANK 23)

/-- The row of an entry, if the unit holds it. -/
def entryOf (h p : Nat) : Option Entry :=
  (entriesOf (classOf h)).find? fun e => e.param == p && presentOn h e

/-- Address of one element of one entry: every sparse map of the dictionary uses it. -/
abbrev cell (h p i : Nat) : Nat := (h * 4096 + p) * 4294967296 + i

/-- Address of an entry in the map of generations. -/
abbrev keyOf (h p : Nat) : Nat := h * 4096 + p

end Sys2Proof.Machine
end

