-- ==== Sys2Proof/Machine/Operands.lean ====
section
/-! DEFINITION. The operand forms of the dictionary: the encodings of Table 2.4, the single-value clamp and its cause (R42,
R53), and the default of every entry and element (R6). -/

namespace Sys2Proof.Machine

/-- Bytes of one value of a type; a BLOB or a STRING has no fixed size. -/
def tyBytes : Ty → Nat
  | .bool => 1
  | .enum => 1
  | .int _ n _ => n
  | .blob _ => 0
  | .str _ => 0

/-- The value that bytes spell, bits above a fixed-point format's width ignored (R42). -/
def decodeValue (t : Ty) (bs : List Nat) : Int :=
  match t with
  | .int true _ bits => toSigned bits (leNat bs)
  | .int false _ bits => ((leNat bs % 2 ^ bits : Nat) : Int)
  | _ => (leNat bs : Int)

/-- The bytes of a value (R42). -/
def encodeValue (t : Ty) (v : Int) : List Nat := intLE (tyBytes t) v

/-- A value clamped on its own (R42, Table 2.4) and the cause of R53: 0 where the value stands. -/
def clampValue (t : Ty) (r : Rng) (dflt v : Int) : Int × Nat :=
  let w := match t, r with
    | .bool, _ => if v = 0 then 0 else 1
    | .enum, .span lo hi => if hi < v then hi else if v < lo then dflt else v
    | .enum, _ => v
    | _, .span lo hi => clampI v lo hi
    | _, .mask m => ((Nat.land v.toNat m : Nat) : Int)
    | _, .mult lo hi st => let c := (clampI v lo hi).toNat; ((c - c % st : Nat) : Int)
    | _, .halves =>
      let f := clampI (toSigned 16 v.toNat) (-6) 32767
      let l := clampI (toSigned 16 (v.toNat / 65536)) (-6) 32767
      ((ofSigned 16 f + 65536 * ofSigned 16 l : Nat) : Int)
    | _, .any => v
  (w, if w = v then 0 else match t with | .enum => 6 | _ => 1)

/-- One step of a sequence table (Table 11.3). -/
abbrev seqStep (action target value data wait delay : Nat) : List Nat :=
  [action, target, value, 0, data, 0, wait, delay]

/-- The default ON_SEQ (Table 11.5). -/
def defaultOnSeq : List Nat :=
  seqStep 0x04 0 0 0 0 0 ++ seqStep 0x06 0 0 0 3 0 ++ seqStep 0x01 0 1 0 1 1 ++ seqStep 0x01 1 1 0 1 1
  ++ seqStep 0x01 2 1 0 1 1 ++ seqStep 0x08 0 0 0 3 0 ++ seqStep 0x0A 0 0 0 3 0 ++ seqStep 0x01 3 1 0 1 1
  ++ seqStep 0x01 4 1 0 1 2 ++ seqStep 0x0B 0 0 0 0 0

/-- The default OFF_SEQ (Table 11.5). -/
def defaultOffSeq : List Nat :=
  seqStep 0x0C 0 0 0 3 0 ++ seqStep 0x01 4 0 0 2 1 ++ seqStep 0x01 3 0 0 2 1 ++ seqStep 0x09 0 0 0 3 0
  ++ seqStep 0x01 2 0 0 2 0 ++ seqStep 0x01 1 0 0 2 0 ++ seqStep 0x01 0 0 0 2 0 ++ seqStep 0x07 0 0 0 3 0
  ++ seqStep 0x05 0 0 0 0 0

/-- ROLE by default of a row output (Table 11.1): 0 SCAN, 1 SENSE, 2 EMIT. -/
def defaultRole (o : Nat) : Nat :=
  if o ≤ 7 then 0 else if o ≤ 11 then 1 else if o ≤ 13 then 0 else if o ≤ 15 then 1 else if o ≤ 21 then 2 else 0

/-- Position `i` of the order that `maskKey` gives the 4096 places of a colour's mask: a permutation whatever the keys. -/
def maskRank (c i : Nat) : Nat :=
  ((List.range 4096).filter fun j =>
    decide (Config.maskKey c j < Config.maskKey c i) || (Config.maskKey c j == Config.maskKey c i && decide (j < i))).length

/-- A permutation with the places of `x` and `y` exchanged. -/
def exchange (p : Nat → Nat) (x y : Nat) (i : Nat) : Nat :=
  if p i = x then y else if p i = y then x else p i

/-- The places that chapter 09's example gives of the GRN mask: (place, value). -/
def maskGiven : List (Nat × Nat) := [(16 * 64 + 40, 201), (40 * 64 + 47, 12), (47 * 64 + 23, 160), (23 * 64 + 16, 67)]

/-- The order of a mask with the given places moved to a rank that has their value. -/
def maskOrder (c : Nat) : Nat → Nat :=
  if c = 1 then
    (maskGiven.zip (List.range 4)).foldl (fun p (g : (Nat × Nat) × Nat) =>
      exchange p (p g.1.1) (16 * g.1.2 + g.2)) (maskRank c)
  else maskRank c

/-- One byte of the built-in blue-noise mask (R238): each value 16 times, the values of the example where it gives them,
free beyond that. -/
def maskDefault (c i : Nat) : Nat := maskOrder c i / 16

/-- Byte `b` of a table of `n`-byte numbers. -/
def tableByte (n : Nat) (f : Nat → Nat) (b : Nat) : Int := ((f (b / n) / 256 ^ (b % n) % 256 : Nat) : Int)

/-- Defaults that differ by element, byte or unit, or that are no single number; none where the row's default holds. -/
def specialDefault (gradeX : Bool) (h p i : Nat) : Option Int :=
  match classOf h with
  | 3 =>
    if gradeX && p == Par.THERM_WARN then some 28160
    else if gradeX && p == Par.THERM_CRIT then some 30720
    else none
  | 22 =>
    if p = Par.TONE_MATRIX then some (if i % 4 = 0 then 8192 else 0)
    else if p = Par.TONE_PRE_LUT then some (tableByte 2 (fun e => (e % 4096 * 65535 * 2 + 4095) / 8190) i)
    else if p = Par.TONE_POST_LUT then some (tableByte 4 (fun e => (e % 4096) * (e % 4096) / 16) i)
    else none
  | 23 => if p = Par.LAYERS_BUF_BASE then some ((i * 524288 : Nat) : Int) else none
  | 24 => if p = Par.LAYER_BUFFER then some ((h - 0x0622 : Nat) : Int) else none
  | 25 =>
    if p = Par.OVERDRIVE_TEMP_PLANE then some ((i * 5120 : Nat) : Int)
    else if p = Par.OVERDRIVE_AGE_STRESS then some ((i * 0x10000000 : Nat) : Int)
    else none
  | 26 =>
    if p = Par.COMP_BLOCK_MODEL then some (if i % 4 = 1 then 0x40 else 0)
    else if p = Par.COMP_DEFECT_LIST then some 255
    else if p = Par.COMP_DEFECT_WEIGHTS then some (([64, 64, 32, 64, 32] : List Int).getD i 0)
    else none
  | 27 =>
    if p = Par.DITHER_CODE_LUT then some (tableByte 4 (fun e => (e % 4096) * (e % 4096) / 4) i)
    else if p = Par.DITHER_MASK then some ((maskDefault (i / 4096) (i % 4096) : Nat) : Int)
    else none
  | 29 => if p = Par.ROWSET_OUT_CFG then some ((0xFF0000 + defaultRole i : Nat) : Int) else none
  | 30 =>
    if p = Par.PANELPWR_ON_SEQ then some ((defaultOnSeq.getD i 0 : Nat) : Int)
    else if p = Par.PANELPWR_OFF_SEQ then some ((defaultOffSeq.getD i 0 : Nat) : Int)
    else none
  | _ => none

/-- The default of an element of an entry, or a byte of a BLOB (R6). -/
def dflt (gradeX : Bool) (h p i : Nat) : Int :=
  match specialDefault gradeX h p i with
  | some v => v
  | none => match entryOf h p with
    | some e => e.dflt
    | none => 0

end Sys2Proof.Machine
end

