-- ==== Sys2Proof/Machine/State.lean ====
section
/-! DEFINITION. The state of the KL8640 as plain data: every register, queue, counter, mode and pin that the spec gives the
device, the queue of the commands that wait, and the state right after reset.  Dictionary entries live in four sparse maps
(`cfg`, `held`, `res`, `gens`) addressed by entry and element; everything the spec gives the device beside the dictionary has a
field of its own. -/

namespace Sys2Proof.Machine

/-- No command of this device stops it with a fault: a failure of the spec is a health code, an event and FAULT_N, all of
them state.  The one constructor is raised by nobody (safe: a fault would stop the model where the device goes on). -/
inductive Fault where
  /-- raised by nobody: kept so that the type names the absence of faults; safe -/
  | none
  deriving DecidableEq, Repr

/-- Reasons for which a command has no meaning. -/
inductive Refusal where
  /-- an arm of `exec` with no meaning yet; raised by nobody else; safe -/
  | notModelled (mnemonic : String)
  deriving DecidableEq, Repr

/-- A dictionary request at the arbiter (R61): the frame of Table 2.8 after its check has passed. -/
structure Req where
  port    : PortId
  op      : Nat
  seq     : Nat
  /-- the frame check it arrived with (R60) -/
  check   : Nat := 0
  handle  : Nat := 0
  param   : Nat := 0
  elem    : Option Nat := none
  /-- byte 6 as received: a response repeats it (Table 2.8) -/
  byte6   : Nat := 0
  tag     : Option (List Nat) := none
  payload : List Nat := []
  /-- bytes 0 to 11 + LEN as received, which the session tag covers (R411) -/
  body    : List Nat := []
  /-- 0, or what is wrong with the frame: 1 its check, 2 its form (orders 1 and 2 of Table 2.6) -/
  fault   : Nat := 0
  /-- sent to node 0 of the field bus (R74) -/
  cast    : Bool := false
  deriving DecidableEq, Repr

/-- A frame that waits to leave a control port (R66). -/
structure OutFrame where
  bytes  : List Nat
  notify : Bool
  deriving DecidableEq, Repr

/-- One control port (R60 to R71, R73, R410 to R412). -/
structure PortSt where
  /-- takes frames: from start-up step 6 (R479) while ENABLE is 1 -/
  enabled    : Bool := false
  /-- SEQ and frame check of the last request executed; none before the first (R60) -/
  last       : Option (Nat × Nat) := none
  /-- the response retained for a retry -/
  retained   : List Nat := []
  /-- 0 Observer, 1 Operator, 2 Integrator, 3 Vendor -/
  level      : Nat := 0
  /-- outstanding challenge: its bytes, its level and the tick at which it was issued (R410) -/
  challenge  : Option (List Nat × Nat × Nat) := none
  /-- session key of an Integrator or Vendor session, and the counts of its tagged requests and responses (R411) -/
  key        : Option (List Nat) := none
  reqCount   : Nat := 0
  rspCount   : Nat := 0
  /-- tick of the last request -/
  heard      : Nat := 0
  /-- frames that wait to leave (R66), and the number of the next notification -/
  outbound   : List OutFrame := []
  nseq       : Nat := 0
  /-- notifications discarded since the last event 0x0A09 -/
  lost       : Nat := 0
  /-- requests taken and not yet answered (R67) -/
  unanswered : Nat := 0
  /-- SPI STATUS bit 2 (R70) -/
  notTaken   : Bool := false
  /-- I3C dynamic address (R71) -/
  address    : Option Nat := none
  /-- the mandatory byte of the last IBI raised and not yet served (R71) -/
  ibi        : Option Nat := none
  /-- bytes of a partial segmented frame and the next count, 64 while segments are skipped up to the next first one (R73); and the
  same of a frame to node 0 (R74) -/
  partialIn  : Option (List Nat × Nat) := none
  castIn     : Option (List Nat × Nat) := none
  /-- frames still to leave before the port is disabled, the response to its own request for it the last of them (R79) -/
  closing    : Option Nat := none
  /-- consecutive credential failures (R412) and the tick of the last -/
  failures   : Nat := 0
  failedAt   : Nat := 0
  deriving DecidableEq, Repr

/-- What a request that is taken but not yet answered waits for (R407 to R409, R415, R457). -/
inductive Await where
  | keyStore     -- the key-store COMMIT program
  | blaze        -- the blaze record's program
  /-- steps 4 to 6 of R415, after the response: the states before and after -/
  | lifecycle (old new : Nat)
  deriving DecidableEq, Repr

/-- A commit made and not yet applied (R49, R50). -/
structure Commit where
  /-- none for the restore of R389 and for a staged map reload (R229), which carry no tag -/
  tag      : Option Nat
  patch    : NMap (Option Int)
  /-- the frame count whose boundary applies it -/
  boundary : Nat
  deriving DecidableEq, Repr

/-- An event as the hardware raises it: code, unit and data bytes. -/
structure Event where
  code   : Nat
  handle : Nat
  data   : List Nat
  deriving DecidableEq, Repr

/-- A log record with its number (Table 15.6). -/
structure LogRec where
  seq     : Nat
  seconds : Nat
  ev      : Event
  deriving DecidableEq, Repr

/-- The dictionary's own state (02). -/
structure DictSt where
  /-- values in force, by cell address; unlisted: the entry's default -/
  cfg    : NMap Int := []
  /-- values of rst entries written and held: read back, stored by a STORE, and lost at the restart where none was made (R10, R47;
  log entry 8) -/
  held   : NMap (Option Int) := []
  /-- the open shadow set: its items (entry, element) and the values (R47, R48) -/
  items  : List (Nat × Option Nat) := []
  patch  : NMap (Option Int) := []
  commits : List Commit := []
  /-- results, by cell address; unlisted: 0 -/
  res    : NMap Int := []
  /-- generations by entry (R43) -/
  gens   : NMap Nat := []
  /-- tick of the last record of a limited code: key code × 65 536 + unit (R517) -/
  limited : NMap (Option Nat) := []
  /-- last event of each unit: its ordinal and code (parameter 00C, R24) -/
  lastEvent : NMap (Nat × Nat) := []
  /-- the ordinal of the latest event (R24) -/
  ordinal : Nat := 0
  /-- CE_COUNT and UE_COUNT by unit (00A, 00B) -/
  ce : NMap Nat := []
  ue : NMap Nat := []
  deriving DecidableEq, Repr

/-- The control ports and the arbiter (R31, R38, R61). -/
structure CtrlSt where
  host     : PortSt := {}
  field    : PortSt := {}
  sideband : PortSt := {}
  /-- requests that wait behind a restart of Stag or behind `busy` -/
  waiting  : List Req := []
  /-- the request in progress and what its answer waits for -/
  busy     : Option (Req × Await) := none
  /-- a request whose program ended while Stag restarted, and whether it stands: answered after the restart (R38) -/
  passed   : Option (Req × Bool) := none
  /-- CAN FD data fields that wait to leave the field port: function (Table 2.11) and data (R72, R73) -/
  can      : List (Nat × List Nat) := []
  deriving DecidableEq, Repr

/-- Why a page is programmed (Table 15.1), and what its verify completes. -/
inductive Purpose where
  | blaze (handle kind : Nat)
  | repair (channel bank row : Nat) (add : Bool)
  | tally (n : Nat)
  | keyBody               -- a key-store page before COMMIT
  | keyTie                -- a page of the rewrite of copy B from copy A
  | keyCommit
  | log (upTo : Nat)      -- records numbered up to here
  | image                 -- a page of a STORE before COMMIT
  | imageCommit
  | tieImage              -- the tie rewrite of Table 15.4
  deriving DecidableEq, Repr

/-- One queued program: its class, its page and the loaded bytes (R379, R382). -/
structure Program where
  cls   : Nat
  page  : Nat
  bytes : List (Nat × Nat)
  why   : Purpose
  deriving DecidableEq, Repr

/-- The persistent store (15). -/
structure PstoreSt where
  mem        : Mem := []
  /-- programs waiting, in order of arrival, and the one in progress with its retry flag -/
  queue      : List Program := []
  current    : Option (Program × Bool) := none
  /-- a program is not begun after a power-fail warning (R381) -/
  warned     : Bool := false
  /-- STORE in progress: its TAG, whether it writes slot B, its length (R387) -/
  storeTag   : Nat := 0
  storeSlotB : Bool := false
  storeLen   : Nat := 0
  /-- the mirror of the log ring in BANK22 (R436) -/
  mirror     : Mem := []
  /-- records numbered and not yet queued (the gather), and those queued -/
  gathered   : List LogRec := []
  queued     : List LogRec := []
  /-- tick at which the gather began (R394) -/
  gatherAt   : Option Nat := none
  /-- events not logged since the last record programmed (R394) -/
  notLogged  : Nat := 0
  /-- the next log number (R393) -/
  nextSeq    : Nat := 1
  /-- log records programmed, for WEAR (R399) -/
  programmed : Nat := 0
  /-- tally values by counter (R391) -/
  tally      : NMap Nat := []
  /-- holder slot of each counter; unlisted: slot 0, the holder of an all-zero page (R390, R391) -/
  holder     : NMap Nat := []
  /-- counters whose saturation has been told (R391) -/
  tallyFull  : NMap Bool := []
  /-- blaze records (handle, kind, detail) in force order, this run (R396, R456) -/
  blaze      : List (Nat × Nat × Nat) := []
  /-- handles whose REINSTATE record was programmed and takes effect at the next restart (R457, event 0x0D0C) -/
  reinstated : List Nat := []
  /-- pending repairs (channel, bank, row) -/
  repairs    : List (Nat × Nat × Nat) := []
  /-- the identity record has passed its CHECK (R437) -/
  identityOk : Bool := false
  /-- the blaze region is full (R396) -/
  blazeFull  : Bool := false
  /-- event 0x0901 has been raised (R399) -/
  wearRaised : Bool := false
  /-- a verify failed or a record was found bad since the restart (R401) -/
  limited    : Bool := false
  /-- the store has been read (R398) -/
  read       : Bool := false
  deriving DecidableEq, Repr

/-- The key store's body (Table 16.1). -/
structure KeyBody where
  /-- OP_SALT, OP_HASH and OP_SET, INT_KEY and INT_SET, VEN_KEY, ID_PRIV, CERT, LOCKOUT, LC -/
  opSalt  : List Nat := []
  opHash  : List Nat := []
  opSet   : Bool := false
  intKey  : List Nat := []
  intSet  : Bool := false
  venKey  : List Nat := []
  idPriv  : List Nat := []
  cert    : List Nat := []
  lockout : List Nat := [0, 0, 0]
  lc      : Nat := 0
  deriving DecidableEq, Repr

/-- A change to the key store (R407, R408, R412, R414). -/
inductive KeyChange where
  | lockout
  | password (salt hash : List Nat)
  | noPassword
  | integrator (key : List Nat)
  | noIntegrator
  /-- the change of the lifecycle state that the fuses hold -/
  | lifecycle (code : Nat)
  deriving DecidableEq, Repr

/-- One link key set (R421): content key and MAC key. -/
structure KeySet where
  content : List Nat
  mac     : List Nat
  deriving DecidableEq, Repr

/-- The exchange in progress (R421). -/
structure Exchange where
  set   : Nat
  t     : List Nat
  keys  : List Nat
  since : Nat
  deriving DecidableEq, Repr

/-- The security engine (16). -/
structure SecSt where
  /-- fuses (R402, R413); of the Vendor key copy, the key that it restores -/
  huk        : List Nat := []
  rootHash   : List Nat := []
  venCopy    : List Nat := []
  lifecycle  : Nat := 0
  returnsLeft : Nat := 4
  /-- working copy in the secure region; none while wiped or not loaded (R406) -/
  work       : Option KeyBody := none
  /-- the certificate that CERTIFICATE reads -/
  shownCert  : List Nat := []
  /-- SEQUENCE of the copy in force -/
  keySeq     : Nat := 0
  /-- the change being written and the body it gives, and those that wait -/
  writing    : Option (KeyChange × KeyBody) := none
  changes    : List KeyChange := []
  /-- no valid key-store copy (R405) -/
  noStore    : Bool := false
  /-- the frame key (R326) -/
  frameKey   : Option (List Nat) := none
  /-- link key sets 0 and 1 (R421) -/
  set0       : Option KeySet := none
  set1       : Option KeySet := none
  /-- last protected FRAME under each set (R118) -/
  last0      : Option Nat := none
  last1      : Option Nat := none
  /-- the exchange in progress (R421) -/
  exchange   : Option Exchange := none
  /-- challenge of an attestation in progress (R420) -/
  attest     : Option (List Nat) := none
  /-- the entropy source has failed (R403) -/
  entropyBad : Bool := false
  /-- random values drawn since the last reseed (R403) -/
  drbgRequests : Nat := 0
  /-- tamper sources active (bits), and the moment of the last tamper event (R417, R419) -/
  active     : Nat := 0
  tamperAt   : Nat := 0
  /-- from a tamper event until the reload (R419) -/
  locked     : Bool := false
  /-- tamper steps 5 and 6 that wait for a wake from OFF (R418) -/
  deferred   : Option (Nat × Int) := none
  /-- test port: instruction register, challenge and debug opened (R416) -/
  testIr     : TestInstr := .idcode
  testChallenge : Option (List Nat) := none
  testOpen   : Bool := false
  deriving DecidableEq, Repr

/-- A thermal sensor (R432): the tick of its last reading, and the thresholds it stands above. -/
structure ThermSt where
  readAt : Option Nat := none
  warned : Bool := false
  crit   : Bool := false
  deriving DecidableEq, Repr

/-- A voltage monitor (R433): the tick of its last reading, since when the readings are outside or inside the limits, and whether
this excursion has been told. -/
structure VmonSt where
  readAt   : Option Nat := none
  badSince : Option Nat := none
  okSince  : Option Nat := none
  told     : Bool := false
  /-- the rail has been told outside and not since inside (R433) -/
  limited  : Bool := false
  deriving DecidableEq, Repr

/-- An NTC input (R434, R435): the last ten codes, the ticks of its last code and its last reading, and whether that reading was
judged valid. -/
structure NtcSt where
  codes   : List Nat := []
  codeAt  : Option Nat := none
  readAt  : Option Nat := none
  valid   : Bool := false
  /-- a reading has been judged since the input was started -/
  judged  : Bool := false
  deriving DecidableEq, Repr

/-- A firmware slot of map flash (R438, Tables 17.4 and 17.5): the activation block, and of the image what R439 asks: the
outcome of the checks that do not change with time as a code of RESULT (0: all pass), VERSION, ROLLBACK, BODY_LENGTH. -/
structure FwSlot where
  /-- ACT_SEQ, its check, COMMIT, ATTEMPTS, CONFIRMED -/
  actSeq    : Nat := 0xFFFFFFFF
  actOk     : Bool := false
  commit    : Bool := false
  attempts  : Nat := 0
  confirmed : Bool := false
  /-- RESULT of the image's checks, VERSION, ROLLBACK, BODY_LENGTH -/
  result    : Nat := 1
  version   : Nat := 0
  rollback  : Nat := 0
  length    : Nat := 0
  /-- the image as programmed: its header, then its body from byte 256 -/
  image     : Mem := []
  deriving DecidableEq, Repr

/-- A firmware activation in progress (R442): how it takes over (1 or 2), its step and the target slot. -/
structure Activation where
  mode : Nat
  step : Nat
  slot : Nat
  deriving DecidableEq, Repr

/-- Stag (17). -/
structure StagSt where
  /-- a restart in progress: its cause and its start (R38, R427) -/
  restarting : Option (Nat × Nat) := none
  /-- events raised during the restart, at most 256, and those beyond (R38) -/
  events     : List Event := []
  overflow   : Nat := 0
  /-- operating seconds of the restarts of cause 0 or 1 (R428) -/
  restarts   : List Nat := []
  /-- Stag runs; in recovery (R440) -/
  running    : Bool := false
  recovery   : Bool := false
  /-- running slot: 1 A, 2 B -/
  slot       : Nat := 0
  /-- the running image is on trial (R444), since this tick -/
  trial      : Bool := false
  trialSince : Nat := 0
  /-- sensors (R432), voltage monitors (R433), NTC inputs (R434) -/
  therm      : NMap ThermSt := []
  vmon       : NMap VmonSt := []
  ntc        : NMap NtcSt := []
  /-- operating seconds at `opAt` and whether they count; where they do not, `opAt` holds the ticks of the second begun (R430) -/
  opBase     : Nat := 0
  opAt       : Nat := 0
  opRuns     : Bool := false
  /-- the minutes behind have been told (R430) -/
  caughtUp   : Bool := false
  /-- UTC at `utcAt`, and whether it is valid (R431) -/
  utcBase    : Nat := 0
  utcAt      : Nat := 0
  utcValid   : Bool := false
  /-- firmware slots A and B in map flash (R438) -/
  slotA      : FwSlot := {}
  slotB      : FwSlot := {}
  /-- staged image (R441): its length and bytes -/
  imageLen   : Nat := 0
  image      : Mem := []
  activation : Option Activation := none
  deriving DecidableEq, Repr

/-- The states of Table 3.5, `0300:400`; `off` before start-up step 6 and while the receivers are powered off. -/
inductive LinkPhase where
  | off | detect | bitlock | blocklock | deskew | eqreq | verify | active | idle | backoff
  deriving DecidableEq, Repr

/-- One Swerok lane (R90 to R109). -/
structure LaneSt where
  /-- still in the training in progress, and not yet weak or excluded -/
  tried    : Bool := false
  /-- block lock, the weak set, excluded in this training, in the active set (R93, R95) -/
  locked   : Bool := false
  weak     : Bool := false
  excluded : Bool := false
  active   : Bool := false
  /-- CTLE setting in 0.5 dB steps (R90), margin, source lane (R96), polarity (R86), taps (R92) -/
  ctle     : Nat := 0
  margin   : Nat := 0
  source   : Nat := 255
  inverted : Bool := false
  taps     : List Nat := [0, 48, 0]
  /-- left out by its exclusion count (R98) -/
  retired  : Bool := false
  /-- consecutive low margins in ACTIVE (R94) -/
  low      : Nat := 0
  /-- the state, by the codes of Table 3.9, in which it failed in this training -/
  failedIn : Nat := 0
  /-- the CDR's state, a free value from each lock on, and the descrambler's register (R84, R101) -/
  cdr      : Nat := 0
  scr      : Nat := 0
  /-- snapshot of electrical idle: CTLE and CDR (R101) -/
  snapshot : Option (Nat × Nat) := none
  deriving DecidableEq, Repr

/-- The EQREQ procedure (R93): presets 0 to 7, then fine steps; per lane its best taps and margin, and the neighbours tried
without an improvement. -/
structure EqSt where
  /-- the preset asked for, the fine steps made, EQ_ACK received and its tick -/
  preset : Nat := 0
  evals  : Nat := 0
  acked  : Bool := false
  ackedAt : Nat := 0
  best   : NMap (Option (List Nat × Nat)) := []
  /-- the taps that a lane tries, and how many neighbours of its best set it has taken -/
  trying : NMap (List Nat) := []
  misses : NMap Nat := []
  deriving DecidableEq, Repr

/-- What the source declared in CAPS (Table 3.6). -/
structure SourceCaps where
  rate     : Nat
  mask     : Nat
  fastExit : Bool
  shared   : Bool
  spread   : Bool
  deriving DecidableEq, Repr

/-- The Swerok link's training side (03). -/
structure LinkSt where
  /-- state and attempt (Table 3.5), rate code (R97), reason of the training (Table 3.7) -/
  phase    : LinkPhase := .off
  attempt  : Nat := 0
  rate     : Nat := 0
  reason   : Nat := 0
  /-- what the source declared (R100) -/
  source   : Option SourceCaps := none
  /-- the lanes, and the EQREQ procedure -/
  lanes    : NMap LaneSt := []
  eq       : EqSt := {}
  /-- the partner is lost and has not been heard in DETECT since (R105, R106) -/
  lost     : Bool := true
  /-- lanes tried in the episode, some lane finished BITLOCK with lock, the greatest payload and its rate, whether the training in
  progress is the final one of R97 -/
  tried    : List Nat := []
  anyLock  : Bool := false
  best     : Option (Nat × Nat) := none
  final    : Bool := false
  /-- consecutive failures and the tick at which the wait ends (R99) -/
  failures : Nat := 0
  backoffTo : Nat := 0
  /-- logical lanes: the KL8640 lane of each (R96) -/
  map      : List Nat := []
  /-- the active lanes carry the committed mode (R122, R520) -/
  carries  : Bool := true
  /-- columns in the elastic buffers (R89), and the tick at which electrical idle began (R101) -/
  elastic  : Nat := 4
  idleAt   : Nat := 0
  /-- the receivers were powered down in idle (R101) -/
  powered  : Bool := true
  /-- tick at which the state began -/
  since    : Nat := 0
  /-- a retrain waits for the next frame boundary (R94) -/
  retrainAtBoundary : Bool := false
  /-- FAST_EXIT as it stood when the link became idle (R106) -/
  fastExit : Bool := true
  /-- tick from which the CTLE of the active lanes may take its next step (R91) -/
  adaptAt  : Nat := 0
  deriving DecidableEq, Repr

/-- An AUX request of the KL8640 (R126 to R130): channel and payload. -/
structure AuxReq where
  channel : Nat
  payload : List Nat
  deriving DecidableEq, Repr

/-- The AUX pair (04). -/
structure AuxSt where
  /-- own requests that wait (R127 to R130) -/
  queue    : List AuxReq := []
  /-- the request that awaits its answer: its ID, the request and the attempts made -/
  waiting  : Option (Nat × AuxReq × Nat) := none
  /-- the next request ID (R128) -/
  nextId   : Nat := 0
  /-- the last request answered: channel, ID, check and the answer's payload (R128) -/
  answered : Option (Nat × Nat × Nat × List Nat) := none
  /-- the frame being sent in segments on channel 1: bytes left and the next count -/
  sending  : Option (List Nat × Nat) := none
  /-- tick at which the request that awaits its answer was sent last -/
  sentAt   : Nat := 0
  deriving DecidableEq, Repr

/-- A queued Region-Update (R123). -/
structure Region where
  seq : Nat
  x : Nat
  y : Nat
  w : Nat
  h : Nat
  enc : Bool
  set : Nat
  pixels : List Nat
  /-- applied into the merge frame BASE and not yet freed (R328) -/
  merging : Bool := false
  deriving DecidableEq, Repr

/-- The input frame being received (R116 to R118). -/
structure RxFrame where
  frame  : Nat
  width  : Nat
  height : Nat
  depth  : Nat
  colour : Nat
  enc    : Bool
  set    : Nat
  /-- protected without keys: shown black (R118) -/
  black  : Bool
  t0     : Nat
  /-- the line in progress -/
  line   : Nat := 0
  /-- spans (first pixel, pixels) covered so far on the line in progress -/
  spans  : List (Nat × Nat) := []
  /-- spans whose PCHK failed -/
  bad    : List (Nat × Nat) := []
  /-- component codes of the line in progress, by component index -/
  codes  : NMap Nat := []
  packets : Nat := 0
  /-- accepted, and its anchor has come -/
  taken  : Bool := false
  ended  : Bool := false
  deriving DecidableEq, Repr

/-- A whole input line in the landing buffer (R13). -/
structure LandLine where
  codes : List Nat
  /-- spans of pixels that failed their check or are missing -/
  bad   : List (Nat × Nat) := []
  deriving DecidableEq, Repr

/-- The receiving side of the transport (04). -/
structure RxSt where
  /-- the input frame being received (R116) -/
  cur     : Option RxFrame := none
  /-- DATA columns skipped since an HCHK failure; none while in step (R118) -/
  skipped : Option Nat := none
  /-- columns of the stream received and not yet part of a whole packet, after an HCHK failure (R118) -/
  carry   : List Nat := []
  /-- lines in the landing buffers, by stand and line (R13) -/
  landing : NMap (Option LandLine) := []
  /-- queued Region-Updates and LAST (R123) -/
  regions : List Region := []
  lastRegion : Nat := 65535
  /-- FRAME of the last Frame-Start received (Table 4.5) -/
  lastStart : Nat := 0
  /-- a frame that is not taken is being received: rejected or dropped; its lines are discarded (R118, R144) -/
  refused : Bool := false
  deriving DecidableEq, Repr

/-- The kinds of a frame (R142), with the black frame of R154 and the black lines of STOPPED left out. -/
inductive FrameKind where
  | live | deferred | repeat_ | bridge | self | black
  deriving DecidableEq, Repr

/-- The timing mode in force (05): the raster entries and those of other units that a timing-mode change names. -/
structure Mode where
  /-- TIMING_MODE, ACTIVE_WIDTH, ACTIVE_HEIGHT, SPLIT -/
  timing    : Nat := 1
  width     : Nat := 7680
  height    : Nat := 4320
  split     : Bool := false
  /-- REFRESH and REFRESH_MIN, raw uQ10.16 -/
  refresh   : Nat := 15728640
  refreshMin : Nat := 3145728
  /-- VBLANK, ROWS_PER_LINE, H_REPLICATE, IN_DEPTH, IN_COLOUR, SUBPIXELS -/
  vblank    : Nat := 80
  rowsPerLine : Nat := 1
  hRep      : Nat := 1
  depth     : Nat := 1
  colour    : Nat := 0
  sub       : Nat := 3
  deriving DecidableEq, Repr

/-- An accepted input frame that waits for its anchor (R143). -/
structure Waiting where
  frame : Nat
  t0    : Nat
  deriving DecidableEq, Repr

/-- GENLOCK (R149, R150): step of Table 5.3 (0 not in GENLOCK, 1 to 4, 5 locked, 6 HOLDOVER), runs of valid and invalid
periods, frames since step 1 began, runs of frames within 4 ticks and beyond 1 line. -/
structure Genlock where
  lastEdge : Option Nat := none
  valid    : Nat := 0
  invalid  : Nat := 0
  frames   : Nat := 0
  good     : Nat := 0
  bad      : Nat := 0
  step     : Nat := 0
  /-- the last valid period, 0 before the first -/
  period   : Nat := 0
  /-- the trim of the raster clock, as the ticks by which 1/REFRESH is lengthened; kept in HOLDOVER -/
  trim     : Int := 0
  /-- ticks by which the frame being scanned is extended (step 2) -/
  extend   : Nat := 0
  /-- phase error of the last anchor -/
  err      : Int := 0
  deriving DecidableEq, Repr

/-- The record of a scanned frame (R22, R175, R192): the LAYER, PIPE and TONE values in force, the limiter gain, its kind. -/
structure FrameRec where
  cfg  : NMap Int
  gain : Nat
  kind : FrameKind
  mode : Mode
  deriving DecidableEq, Repr

/-- The raster timing generator (05). -/
structure RasterSt where
  /-- STOPPED (R157); the mode of the frame being scanned and its kind (R142) -/
  stopped   : Bool := true
  mode      : Mode := {}
  kind      : FrameKind := .self
  /-- anchors since the restart: the number of the frame being scanned, by which commits name their boundary (R153) -/
  index     : Nat := 0
  /-- anchor of the frame being scanned -/
  anchor    : Nat := 0
  /-- number of the next line start within the frame, from −6 -/
  next      : Int := 0
  /-- line period in ticks × 256 (R135) -/
  period    : Nat := 0
  /-- a line start and its number, from which the line starts to come are counted: the anchor's, or after a timing-mode
  change the boundary's (R136, R154) -/
  base      : Nat := 0
  baseLine  : Int := -6
  /-- tick of the frame boundary passed and not yet followed by an anchor -/
  boundary  : Option Nat := none
  /-- the raster's own next anchor, fixed at the boundary: FREE, GENLOCK, SELF and HOLD -/
  own       : Option Nat := none
  /-- the input frame that waits for an anchor (HOLD) -/
  waiting   : Option Waiting := none
  /-- insertions since the last live frame (R158) -/
  run       : Nat := 0
  /-- a SLEEP_NOTICE is pending (R119); the link has left ACTIVE (R484) -/
  sleep     : Bool := false
  linkLost  : Bool := false
  /-- bridge frames are due until a matching frame comes: one at the first new E where `bridgeDue`; told by event 0x0202 -/
  bridge    : Bool := false
  bridgeDue : Bool := false
  bridgeTold : Bool := false
  /-- old and new PANEL_ROWS of a black frame that is due (R154) -/
  blackDue  : Option (Nat × Nat) := none
  /-- the last anchor was a repeat for want of input: the tick of that anchor (R146) -/
  missed    : Option Nat := none
  /-- no legal width (R139) -/
  illegal   : Bool := false
  gen       : Genlock := {}
  /-- records of the current and the previous frame (R22) -/
  cur       : Option FrameRec := none
  prev      : Option FrameRec := none
  /-- geometry or SUBPIXELS changed since the last live or deferred frame (R156) -/
  changed   : Bool := false
  /-- the last frame anchored was a black frame, the next is the first after STOPPED -/
  wasBlack  : Bool := false
  /-- no frame has been scanned since STOPPED (R157) -/
  first     : Bool := true
  /-- repeats counted for event 0x0204 -/
  repeats   : Nat := 0
  /-- starts of the SYNC_OUT pulses placed, those that have ended left out (R152) -/
  syncOut   : List Nat := []
  /-- the raster is past the cut-off line of the frame being scanned (R153) -/
  closed    : Bool := false
  /-- line 0 of the first frame after STOPPED is still to come (R478, R492) -/
  lightDue  : Bool := false
  /-- the line that runs is a stretch line (R286) -/
  stretching : Bool := false
  deriving DecidableEq, Repr

/-- One queued line of an output queue (R13): line number and driver codes. -/
structure OutLine where
  line  : Nat
  codes : List Nat
  subst : Bool := false
  deriving DecidableEq, Repr

/-- A tile (R15, R18, R451 to R462). -/
structure TileSt where
  /-- felled, felling withheld, below the fell margin at the ceiling (R454, R473) -/
  felled   : Bool := false
  withheld : Bool := false
  failed   : Bool := false
  /-- beat failures kept for the rules of R454: tick and operating second -/
  beats    : List (Nat × Nat) := []
  /-- largest t_cyc and smallest slack reported in the period -/
  tcyc     : Nat := 0
  slack    : Int := 2147483647
  /-- the margin of the last period (R459) -/
  margin   : Nat := 0
  /-- the latest t_cyc reported, 0 before the first -/
  last     : Nat := 0
  /-- cause of a felling that is withheld and decided afresh in each period (R454) -/
  want     : Option Nat := none
  deriving DecidableEq, Repr

/-- A panel-map load in progress (R226, R229): a reload; the bank and its SEQUENCE; rows not loaded; a size mismatch; the
residual and stress rows still to stream, and how many there were. -/
structure MapLoad where
  /-- a load by MAP_RELOAD; the bank in force; its SEQUENCE -/
  reload   : Bool
  bank     : Nat
  seq      : Nat
  /-- rows not loaded -/
  lost     : List Nat := []
  mismatch : Bool := false
  residual : List Nat := []
  stress   : List Nat := []
  total    : Nat := 0
  deriving DecidableEq, Repr

/-- What waits in BANK11 of a sense batch (R214): the results of a port, raw values and VALID, or with no port the batch's end. -/
structure SenseHeld where
  port  : Option Nat
  first : Nat
  count : Nat
  raws  : List Nat := []
  valid : Nat := 0
  deriving DecidableEq, Repr

/-- The pixel path (01, 06, 07, 08, 09). -/
structure PipeSt where
  tiles    : NMap TileSt := []
  /-- per stand: the slot that its spare serves, if any (R18), and whether the takeover waits for the line boundary -/
  spare    : NMap (Option Nat) := []
  takeover : NMap (Option Nat) := []
  /-- per stand: the shared logic's largest t_cyc and margin (R458) -/
  standCyc : NMap Nat := []
  standLast : NMap Nat := []
  standLimited : NMap Bool := []
  /-- output queues by port: at most two lines (R13) -/
  queues   : NMap (List OutLine) := []
  /-- the last line substituted or queued by each port in this frame -/
  done     : NMap (Option Nat) := []
  /-- limiter (R187, R188) -/
  gain     : Nat := 65536
  /-- panel temperature (R194) -/
  temp     : Int := 7680
  /-- T0 and WT of the overdrive temperature (R194), and no valid temperature -/
  t0       : Nat := 0
  wt       : Nat := 0
  tempLost : Bool := false
  /-- age positions and block stress by block × 4 + colour (R195, R196, R222) -/
  ages     : NMap Nat := []
  nextAges : Option (NMap Nat) := none
  blockStress : NMap Nat := []
  /-- block stress that a reload has staged for the next boundary (R229) -/
  nextStress : Option (NMap Nat) := none
  /-- AGE_GAIN in force and staged (R206) -/
  ageGain  : NMap Nat := []
  nextAgeGain : Option (NMap Nat) := none
  /-- why the last frame ran without overdrive, none where it ran with it; and has a frame run since the restart (R199) -/
  odSuspended : Option Nat := none
  odBegan  : Bool := false
  /-- segments without a previous level in this frame, by line × 16 + stand column -/
  noPrev   : NMap Bool := []
  /-- slice lines of this frame, by line × 64 + port: values after the white split, driver codes, and whether substituted -/
  levels   : NMap (List Nat) := []
  codesNow : NMap (List Nat) := []
  substNow : NMap Bool := []
  /-- residual segments of this frame that could not be read, by line × 16 + stand column: 1 late, 2 late and counted (R208) -/
  resLate  : NMap Nat := []
  /-- segments decoded in this frame, by (slot × 8192 + line) × 16 + stand column (Table 12.8) -/
  decoded  : NMap Bool := []
  /-- stands whose stored-frame CRC is not checked in this frame: a read skipped, failed or cut (R171, R323) -/
  crcSkip  : NMap Bool := []
  /-- the working copy of CODE_LUT and MASK in force in every stand bank: 0 or 1 (R243) -/
  tableCopy : Nat := 0
  /-- words of working tables to be rewritten at the next line boundary: stand × 131 072 + word (R244) -/
  tableBad : NMap Bool := []
  /-- residual maps (R207): master, and lines of the working map still pending -/
  master   : NMap Int := []
  working  : NMap Int := []
  pendingRows : Nat := 0
  rebuild  : Option Nat := none
  /-- rows that take effect at the next boundary, in the master too where the flag says so (R218, R229) -/
  nextRows : List (Nat × Bool × NMap Int) := []
  /-- static-region records: signature, dim, static ms (R209) -/
  srl      : NMap (Nat × Nat × Nat) := []
  /-- some block is dimmed -/
  dimming  : Bool := false
  /-- defects added automatically and due at the boundary (R217) -/
  autoDefects : List (List Nat) := []
  /-- the defect list is full (R232) -/
  defectsFull : Bool := false
  /-- sweep (R215): running, next place per port, tick of the last sweep's begin; a start asked for: 0 SWEEP_START, 1 geometry,
  2 interval -/
  sweeping : Bool := false
  sweepNext : Nat := 0
  sweepAt  : Option Nat := none
  sweepAsk : Option Nat := none
  /-- the batch in progress: first place and count; ports whose results are in; tick at which the last batch began -/
  batch    : Option (Nat × Nat) := none
  batchPorts : List Nat := []
  batchAt  : Option Nat := none
  /-- results and ends of batches that wait in BANK11 until the DRAM leaves self-refresh, oldest first (R214) -/
  senseHeld : List SenseHeld := []
  /-- subpixels at 127 with err above the deadband in the last sweep (R217), by panel offset -/
  weakRun  : NMap Bool := []
  /-- stress accumulators by R207 offset, frames of the pass so far, times and duties of the last frames (R220 to R222) -/
  stress   : NMap Nat := []
  passFrames : Nat := 0
  passTimes : List (Nat × List Nat) := []
  passP    : Nat := 16
  /-- stress runs at half rate (R354) -/
  halved   : Bool := false
  /-- map state (R226 to R229): a load, a save and its begin, a save that waits for a firmware activation, the time in RUN, SELF
  or HOLD at which the last interval began -/
  load     : Option MapLoad := none
  saving   : Option Nat := none
  saveDue  : Bool := false
  saveBase : Nat := 0
  /-- no valid small bank (R226) -/
  noBank   : Bool := false
  /-- regions that the flash cannot hold: 1 stress rows, 2 residual rows too (R228) -/
  flashSmall : Nat := 0
  /-- the last load or save failed (R232) -/
  mapFailed : Bool := false
  /-- map flash, erased 0xFF where unlisted, and its size in bytes (R223) -/
  flash    : Mem := []
  flashSize : Nat := 268435456
  /-- dither (R239): phase, frozen -/
  phase    : Nat := 0
  frozen   : Bool := false
  /-- a master table word is uncorrectable (R244) -/
  ditherLimited : Bool := false
  /-- subpixels limited in this frame (Table 9.3), and the probe -/
  clipped  : Nat := 0
  probe    : Option (List Nat) := none
  deriving DecidableEq, Repr

/-- Lane modes of R250. -/
inductive LaneMode where
  | dual | singleA | singleB
  deriving DecidableEq, Repr

/-- The phases of a port training (Table 10.10). -/
inductive OPhase where
  | idle | ts1 | window1 | window2
  deriving DecidableEq, Repr

/-- One Otham port (10). -/
structure OPort where
  /-- transmitters powered, trained, stopped for good (R269), failed at BOOST, no back channel -/
  powered  : Bool := false
  trained  : Bool := false
  stopped  : Bool := false
  boostFailed : Bool := false
  backLost : Bool := false
  /-- lane mode (R250), phase of training (Table 10.10), the mode being tried, attempts -/
  mode     : LaneMode := .dual
  phase    : OPhase := .idle
  tryMode  : LaneMode := .dual
  attempts : Nat := 0
  /-- step 3 has been repeated -/
  repeat3  : Bool := false
  /-- tick at which the phase began -/
  since    : Nat := 0
  /-- rate code of the lanes in use -/
  rate     : Nat := 0
  /-- end of the transmission of the last line time, in half ticks (R253) -/
  busyTo   : Nat := 0
  /-- a failover is due: its mode, the failed lane and the cause (R268) -/
  switchTo : Option (LaneMode × Nat × Nat) := none
  /-- windows: open, STATUS in, results in -/
  window   : Bool := false
  status   : Bool := false
  results  : Bool := false
  /-- windows missed in a row (R258) -/
  missed   : Nat := 0
  /-- FLAGS bits 5:4 of the last STATUS -/
  flags    : Nat := 0
  /-- register image 0x00 to 0xFF by register (R261), registers staged and not yet applied, and those applied with the first
  line of the next frame -/
  image    : NMap Nat := []
  staged   : NMap (Option Nat) := []
  next     : NMap (Option Nat) := []
  /-- registers still to be sent (R260) -/
  todo     : List Nat := []
  /-- lines skipped in this frame (R253) -/
  skippedNow : Nat := 0
  /-- taps of the port's transmitters (R264) -/
  taps     : List Nat := [0, 48, 0]
  /-- register of the descrambler on the lane from the driver, none before a preamble (R248) -/
  rxScr    : Option Nat := none
  deriving DecidableEq, Repr

/-- One Otham lane (R265 to R267). -/
structure OLaneSt where
  /-- excluded in this training; left out by its count (R265) -/
  excluded : Bool := false
  retired  : Bool := false
  /-- active-line ordinals of the read-back mismatches kept (R267) -/
  mismatches : List Nat := []
  /-- STATUS in a row with lane errors (R267) -/
  errRun   : Nat := 0
  /-- running CRC-32C of the DATA payloads since the last SYNC; none before the first (LANE_CRC) -/
  crc      : Option Nat := none
  /-- register of the lane's scrambler towards the driver (R248) -/
  scr      : Nat := 0
  /-- the last two LINE packets on the lane: line, register before it, CRC-32C of its DATA payloads (R266) -/
  lines    : List (Nat × Nat × Nat) := []
  /-- what the lane sent since the end of the last line time's transmission, in order: groups of blocks and how often each came -/
  sent     : List (List Block × Nat) := []
  deriving DecidableEq, Repr

/-- The Otham ports as a whole. -/
structure OutSt where
  /-- ports and lanes -/
  ports   : NMap OPort := []
  lanes   : NMap OLaneSt := []
  /-- rate code in force, BOOST, no rate fits (R252) -/
  rate    : Nat := 1
  boost   : Bool := false
  noFit   : Bool := false
  /-- a delivery of DRV_REGS runs (R260) -/
  delivering : Bool := false
  /-- active lines since start, for R267, and the last one's number -/
  lines   : Nat := 0
  lastLine : Nat := 0
  /-- line starts counted from line 0 through blanking and stretch lines (Table 10.3) -/
  lineNo  : Nat := 0
  /-- the reverse windows of this blanking or stretch: first line and end line by `lineNo`, tick of the end -/
  win     : Option (Nat × Nat × Nat) := none
  /-- a further batch's request line (R259) -/
  plan    : Option Nat := none
  /-- lanes are in electrical idle in stretch lines (R259) -/
  idle    : Bool := false
  deriving DecidableEq, Repr

/-- How the row outputs stand (R276, R298). -/
inductive RowDrive where
  | floating | idle | blackScan | disch
  deriving DecidableEq, Repr

/-- What a sequence step waits for (R294). -/
inductive SeqWait where
  /-- WAIT 3: its action is done -/
  | action
  /-- a PGOOD pin at a level -/
  | pin (n : Nat) (level : Bool)
  /-- its DELAY -/
  | delay
  deriving DecidableEq, Repr

/-- A power sequence that runs (R294): the table it read, its step and the steps run, the retries of this step, what the step waits
for and since when. -/
structure SeqRun where
  off     : Bool
  table   : List Nat
  step    : Nat := 0
  count   : Nat := 0
  tries   : Nat := 0
  began   : Nat
  wait    : SeqWait := .delay
  since   : Nat := 0
  deriving DecidableEq, Repr

/-- A PMBus write in progress (R293): address, command, data, Write Word, retries made, and the tick of its failure while it waits
for its retry. -/
structure Pmbus where
  address : Nat
  command : Nat
  data    : Nat
  word    : Bool
  /-- the PEC byte that follows the data, where PMBUS_PEC is 1 -/
  pec     : Option Nat := none
  tries   : Nat := 0
  failedAt : Option Nat := none
  deriving DecidableEq, Repr

/-- One row set (R275 to R288). -/
structure RowSet where
  /-- levels at the last line start, and the edges since and to come: output (22 is BIAS_SEL), tick, level -/
  levels : NMap Bool := []
  edges  : List (Nat × Nat × Bool) := []
  /-- fractions of EMIT widths carried, by output (R282) -/
  acc    : NMap Nat := []
  /-- the token's row, none where unknown, and the ends of the sense steps to come: tick, whether of a START step (R287) -/
  token  : Option Nat := none
  moves  : List (Nat × Bool) := []
  deriving DecidableEq, Repr

/-- The panel's power and row drive. -/
structure PanelSt where
  /-- how the outputs stand (R276); the two row sets -/
  drive    : RowDrive := .floating
  set0     : RowSet := {}
  set1     : RowSet := {}
  /-- DUTY fade (R283): start, target, tick of its boundary and length in ticks -/
  fadeFrom : Nat := 0
  fadeTo   : Nat := 0
  fadeAt   : Nat := 0
  fadeLen  : Nat := 0
  /-- the duty in force (R283) -/
  duty     : Nat := 0
  /-- sums of Dq and line starts by colour for FRAME_DUTY (R284) -/
  dutySum  : NMap (Nat × Nat) := []
  /-- FRAME_DUTY of the last frame (R284) -/
  frameDuty : List Nat := [65536, 65536, 65536, 65536]
  /-- BIAS_SEL: its level, the balance B in ticks, since when it is held, the change that is due (R285, R286) -/
  bias     : Bool := false
  balance  : Int := 0
  biasAt   : Nat := 0
  biasDue  : Option (Nat × Bool) := none
  /-- panel power: 0 OFF, 1 POWERING_ON, 2 ON, 3 POWERING_OFF, 4 FAILED -/
  on       : Nat := 0
  /-- the sequence that runs (R294) -/
  seq      : Option SeqRun := none
  /-- the RASTER step has been reached (R157) -/
  rasterReached : Bool := false
  /-- a request to power the panel off, or on again, that waits for the sequence (R297) -/
  wantOff  : Bool := false
  wantOn   : Bool := false
  /-- the last sequence failed (R295) -/
  failed   : Bool := false
  /-- OFF_SEQ runs because of a failure under R295 or R296 -/
  failing  : Bool := false
  /-- a sequence has ended and the power states have not yet acted on it: true for ON_SEQ -/
  ended    : Option Bool := none
  /-- the PMBus write in progress (R293) -/
  pmbus    : Option Pmbus := none
  /-- PON0 to PON5 as driven, PGOOD pins as seen (R294) -/
  pon      : Nat := 0
  pgood    : Nat := 0
  /-- PGOOD pins that are monitored (R296), and ticks at which pins fell -/
  watched  : Nat := 0
  fellAt   : NMap Nat := []
  /-- reference outputs are driven (R290), and which are clipped -/
  refs     : Bool := false
  clipped  : Nat := 0
  /-- tick of the last AVDD_REF sample (R291) -/
  avddAt   : Option Nat := none
  /-- since when AVDD_REF is out of and within its limits, and whether that was told (R291) -/
  avddBad  : Option Nat := none
  avddOk   : Option Nat := none
  avddLimited : Bool := false
  /-- pump: 0 OFF, 1 SETTLING, 2 REGULATING, 3 FAULT -/
  pump     : Nat := 0
  /-- lines of a black scan still to be written (R298) -/
  scanLeft : Option Nat := none
  /-- start of the all-rows hold of DISCHARGE (R298) -/
  holdAt   : Option Nat := none
  /-- a sense window is open: its colours and lines count as duty 0 -/
  sensing  : Bool := false
  deriving DecidableEq, Repr

/-- A stored block of a segment or what stands for it (R305 to R325). -/
structure Segment where
  block  : List Nat
  /-- raw bytes that the block covers -/
  raw    : Nat
  deriving DecidableEq, Repr

/-- A frame slot (Table 12.1). -/
structure Slot where
  /-- 0 EMPTY, 1 WRITING, 2 COMPLETE -/
  state   : Nat := 0
  /-- G, FRAME, WIDTH, HEIGHT, DEPTH, COLOUR, ENC, SPLIT of Table 12.1 -/
  g       : Nat := 0
  frame   : Nat := 0
  width   : Nat := 0
  height  : Nat := 0
  depth   : Nat := 0
  colour  : Nat := 0
  enc     : Bool := false
  split   : Bool := false
  /-- P: stand-line segments per stand line, 1 or 2 -/
  parts   : Nat := 1
  /-- a merge frame; RESTART; STRIDE -/
  merged  : Bool := false
  restart : Nat := 16
  stride  : Nat := 0
  /-- X0 and W of each stand column -/
  columns : List (Nat × Nat) := []
  /-- stored segments by line × 16 + stand column, and the tables of each stand column (R317) -/
  segments : NMap (Option Segment) := []
  tables  : NMap (List Nat) := []
  /-- the running CRC-32 of each stand's raw data; STAND_CRC and CHECK as written at completion (R308, R323) -/
  standCrc : NMap Nat := []
  crcs     : NMap Nat := []
  check    : Nat := 0
  /-- written under a key that has been wiped (R326), and reported -/
  keyLost : Bool := false
  noted   : Bool := false
  /-- segments lost up to the next restart, by column: the line that failed in this read (R322) -/
  broken  : NMap (Option Nat) := []
  deriving DecidableEq, Repr

/-- The frame store (12). -/
structure StoreSt where
  /-- slots 0 to 3 and the roles (R305, R307), and G -/
  slots    : NMap Slot := []
  current  : Option Nat := none
  previous : Option Nat := none
  hold     : Option Nat := none
  base     : Option Nat := none
  g        : Nat := 0
  /-- geometry and format of the last frame written: width, height, depth, colour (R317) -/
  lastFormat : Option (Nat × Nat × Nat × Nat) := none
  /-- the compress side's column states: history (newest first), the line above, POSITION (R324) -/
  cols     : NMap (List Nat × List Nat × Nat) := []
  /-- the line of the frame being written that is coded next, and its block bytes and raw bytes so far -/
  nextLine : Nat := 0
  stored   : Nat := 0
  rawSoFar : Nat := 0
  /-- stand CRCs that did not match, by stand × 4 + slot, until the slot is written again (R323) -/
  codecBad : NMap Bool := []
  /-- updates that apply into BASE -/
  merging  : List Region := []
  deriving DecidableEq, Repr

/-- One DRAM channel (13). -/
structure ChanSt where
  /-- in service, felled, failed (R352, R353) -/
  service  : Bool := false
  felled   : Bool := false
  failed   : Bool := false
  /-- attempts and result of training (R345), its tick, pieces of a full retrain (R347), in self-refresh (R348) -/
  attempts : Nat := 0
  drift    : Int := 0
  trainedAt : Nat := 0
  pieces   : Option Nat := none
  selfRefresh : Bool := false
  /-- held rows: bank × 16384 + row (R351) -/
  held     : List Nat := []
  /-- repairs used by bank -/
  used     : NMap Nat := []
  /-- activations by bank × 16384 + row, and those made by each class (R343) -/
  acts     : NMap Nat := []
  actBy    : NMap Nat := []
  /-- rows that get RFM at half the threshold for the rest of the window (R344) -/
  halfRows : List Nat := []
  /-- rows with an uncorrectable line and the operating second it was found (R352) -/
  ueRows   : List (Nat × Nat) := []
  /-- failing rows not held, by bank (R352) -/
  unheld   : List Nat := []
  /-- corrected lines of this scrub pass by row × 16 + slot (R351) -/
  ceLines  : List Nat := []
  /-- tick of the last refresh of each bank (R342) -/
  refreshed : NMap Nat := []
  /-- the dies are powered; the channel is the source of a migration (R354) -/
  powered  : Bool := false
  migrating : Bool := false
  deriving DecidableEq, Repr

/-- The DRAM controller (13). -/
structure DramSt where
  chans    : NMap ChanSt := []
  /-- MAP_ORDER and GRAIN in force since the restart (R336) -/
  order    : Nat := 2
  grain    : Nat := 3
  /-- poisoned lines (R335) -/
  poison   : NMap Bool := []
  /-- line whose corrected-line write-back is queued at class 4 (R341, R349) -/
  writeBacks : List Nat := []
  /-- the channel retired (R352) -/
  retired  : Option Nat := none
  /-- migration: 0 none, 1 running, 2 done, 3 done with loss -/
  migration : Nat := 0
  /-- the next line of the patrol scrub (R350) -/
  scrub    : Nat := 0
  /-- tick at which the throttle of each class ends (R344) -/
  throttle : NMap (Option Nat) := []
  /-- training has failed; requests are served (R345) -/
  failed   : Bool := false
  ready    : Bool := false
  /-- the retired channel cannot be read (R355) -/
  noSource : Bool := false
  /-- tick at which the retirement began (R354) -/
  retiredAt : Nat := 0
  /-- from this line on, the lines homed on the retired channel were lost (R355); the lines written at their refuge line since the retirement
  began -/
  lostFrom : Option Nat := none
  rewritten : NMap Bool := []
  deriving DecidableEq, Repr

/-- A spare-row copy in progress (R368): sub-array, row, spare, cause. -/
structure SpareCopy where
  sub   : Nat
  row   : Nat
  spare : Nat
  cause : Nat
  deriving DecidableEq, Repr

/-- What an SRAM port answered to its last access: 0 performed, 1 uncorrectable, 2 refused, 3 write lost; and the data. -/
structure SramReply where
  status : Nat
  data   : List Nat := []
  deriving DecidableEq, Repr

/-- One SRAM bank (14). -/
structure BankSt where
  /-- spare rows used, by sub-array (factory and field), and rows spared in the field: sub × 256 + row -/
  used    : NMap Nat := []
  spared  : List Nat := []
  /-- copies onto spare rows in progress (R368) -/
  copying : List SpareCopy := []
  /-- failing rows for which no spare was left -/
  bad     : List Nat := []
  /-- the bank has failed (R377) -/
  failed  : Bool := false
  /-- the last reply at each port -/
  replyA  : Option SramReply := none
  replyB  : Option SramReply := none
  /-- next word of the scrub, and corrected words of the pass by row -/
  scrub   : Nat := 0
  ceWords : List (Nat × Nat) := []
  deriving DecidableEq, Repr

/-- The SRAM (14): all banks as one memory, bank b at b × 4 MiB. -/
structure SramSt where
  /-- bytes, poisoned words (R362), banks -/
  mem    : Mem := []
  poison : NMap Bool := []
  banks  : NMap BankSt := []
  /-- next test window (R373) and whether the last was abandoned -/
  window : Nat := 0
  /-- banks whose scrub pass is complete, until every bank has finished -/
  passed : NMap Bool := []
  /-- the banks are initialised (R370) -/
  accessible : Bool := false
  deriving DecidableEq, Repr

/-- Resilience (18). -/
structure ResilSt where
  /-- VCORE commanded, in mV (R464) -/
  vcore    : Nat := 900
  /-- start of the margin period (R458) -/
  periodAt : Nat := 0
  /-- last confirmed, and the highest confirmed ceiling (R460, R464) -/
  confirmed : Nat := 900
  vcoreOk  : Nat := 900
  /-- periods in a row that allow a lower VCORE (R460) -/
  low      : Nat := 0
  /-- an AVSBus write in progress: target and tries -/
  avs      : Option (Nat × Nat) := none
  /-- the regulator does not answer (R464) -/
  avsBad   : Bool := false
  /-- the mode that VCORE cannot carry has been told (R463) -/
  modeLimited : Option Nat := none
  /-- tick of the last fast rise (R462) -/
  lastRise : Option Nat := none
  /-- the highest confirmed ceiling is being searched (R465) -/
  searching : Bool := false
  /-- the required throughput that a ramp prepares for (R463) -/
  ramp     : Option Nat := none
  /-- FAULT_CAUSES and the level of FAULT_N, true for asserted (R470) -/
  faults   : Nat := 0
  faultN   : Bool := false
  /-- causes that held when the units powered off and whose units have not powered up since (R470) -/
  held     : Nat := 0
  deriving DecidableEq, Repr

/-- The power states of `0000:4C0`. -/
inductive PowerState where
  | run | self | hold | standby | off
  deriving DecidableEq, Repr

/-- Where the start-up of Table 19.3 or the wake of Table 19.8 stands. -/
inductive Phase where
  | reset | reference | bootRom | firmware | storeRead | dramTraining | smallBank | panelOn | up
  deriving DecidableEq, Repr

/-- An entry to OFF or to STANDBY (Table 19.6, R486): its step, 0 while a service wake from STANDBY powers up what it needs; `back`
for the return from a service wake (R491). -/
structure Transition where
  off     : Bool
  step    : Nat := 1
  back    : Bool := false
  deriving DecidableEq, Repr

/-- Wake settings kept by the always-on domain (R490). -/
structure WakeCfg where
  /-- PWR 0x040 to 0x044, AUX 0x040, LANES_ENABLE, BROADCAST -/
  enable   : Nat := 15
  polarity : Nat := 1
  standbyAfter : Nat := 300
  offAfter : Nat := 0
  timer    : Nat := 0
  aux      : Bool := true
  lanes    : Nat := 65535
  broadcast : Bool := false
  deriving DecidableEq, Repr

/-- Power states, reset and start-up (19). -/
structure PowerSt where
  /-- the step of start-up; the cause of the last restart (Table 19.2) -/
  phase     : Phase := .reset
  cause     : Nat := 0
  /-- POWER_STATE (R484) and the tick of its last change -/
  state     : PowerState := .self
  stateAt   : Nat := 0
  /-- seconds in ticks spent in each state before `stateAt` -/
  spent     : List Nat := [0, 0, 0, 0, 0]
  transition : Option Transition := none
  /-- a request and a wake held until the entry ends (R487) -/
  heldRequest : Option Nat := none
  heldWake  : Option Nat := none
  /-- the source of a full wake in progress (R492) -/
  waking    : Option Nat := none
  /-- step of Table 19.8 -/
  wakeStep  : Nat := 0
  wakeAt    : Nat := 0
  /-- the source of a service wake, and the state it came from (R491) -/
  service   : Option Nat := none
  serviceFrom : PowerState := .standby
  /-- a restart by command waits for OFF_SEQ and the store queue (R497) -/
  restarting : Bool := false
  /-- resource attempts in the change in progress -/
  tries     : Nat := 0
  /-- a resource has failed (R493); the power-fail warning (R495); the first line has been shown -/
  failed    : Bool := false
  warning   : Bool := false
  lit       : Bool := false
  /-- tick of the last accepted input (R485); tick at which STANDBY or OFF was entered -/
  quietAt   : Nat := 0
  asleepAt  : Nat := 0
  /-- the wake settings kept (R490) -/
  settings  : WakeCfg := {}
  /-- the reference and VCORE are ready (R493) -/
  refOk     : Bool := false
  vcoreOk   : Bool := false
  /-- tick of the end of reset -/
  bootAt    : Nat := 0
  deriving DecidableEq, Repr

/-- Straps and pins (20): HOSTSEL, NODE value, and whether XIN gives the reference.  IRQ_N is a function of the host
port's queue (R70), see `Ports.lean`. -/
structure PinSt where
  /-- levels sampled at the end of reset (R506, R512) -/
  hostsel : Bool := false
  node    : Nat := 0
  xin     : Bool := true
  deriving DecidableEq, Repr

/-- The whole device. -/
structure State where
  /-- raster ticks of 1.25 ns since the first reset; the 25 MHz time base is one count in 32 ticks -/
  now     : Nat := 0
  /-- tick of the last restart: the time base and every "since restart" count from here (R429) -/
  epoch   : Nat := 0
  dict    : DictSt := {}
  ctrl    : CtrlSt := {}
  pstore  : PstoreSt := {}
  sec     : SecSt := {}
  stag    : StagSt := {}
  link    : LinkSt := {}
  aux     : AuxSt := {}
  rx      : RxSt := {}
  raster  : RasterSt := {}
  pipe    : PipeSt := {}
  out     : OutSt := {}
  panel   : PanelSt := {}
  fstore  : StoreSt := {}
  dram    : DramSt := {}
  sram    : SramSt := {}
  resil   : ResilSt := {}
  power   : PowerSt := {}
  pins    : PinSt := {}
  /-- THE MODEL'S OWN: how many free values have been drawn (log entry 2) -/
  free    : Nat := 0
  /-- the commands that wait, first in, first out -/
  pending : List Instr := []
  deriving DecidableEq, Repr

/-- The identity record as the factory has left it (R437, Table 17.3): MAGIC, FORMAT 1, WAFER 1, STEPPING "B1", GRADE C and the CHECK;
every other byte 0 (log entry 6). -/
def factoryStore : Mem := [
  (0, 0x4B#8), (1, 0x4C#8), (2, 0x49#8), (3, 0x44#8), (4, 0x01#8), (14, 0x01#8), (22, 0x42#8), (23, 0x31#8), (24, 0x43#8),
  (4092, 0x4D#8), (4093, 0xB6#8), (4094, 0x40#8), (4095, 0x27#8)]

/-- Copy 0 of the flash directory as the factory has left it (R223, Table 8.4): SEQUENCE 1, firmware slots A at 0x0001_0000 and B at
0x0044_0000, 0x0043_0000 bytes each; unlisted bytes are erased, 0xFF (log entry 6). -/
def factoryFlash : Mem := [
  (0, 0x4B#8), (1, 0x4C#8), (2, 0x4D#8), (3, 0x44#8), (4, 0x01#8), (5, 0x00#8), (6, 0x00#8), (7, 0x00#8), (8, 0x02#8),
  (9, 0x00#8), (10, 0x00#8), (11, 0x00#8), (12, 0x01#8), (13, 0x00#8), (14, 0x00#8), (15, 0x00#8), (16, 0x00#8),
  (17, 0x00#8), (18, 0x01#8), (19, 0x00#8), (20, 0x00#8), (21, 0x00#8), (22, 0x43#8), (23, 0x00#8), (24, 0x00#8),
  (25, 0x00#8), (26, 0x00#8), (27, 0x00#8), (28, 0x02#8), (29, 0x00#8), (30, 0x00#8), (31, 0x00#8), (32, 0x00#8),
  (33, 0x00#8), (34, 0x44#8), (35, 0x00#8), (36, 0x00#8), (37, 0x00#8), (38, 0x43#8), (39, 0x00#8), (40, 0x00#8),
  (41, 0x00#8), (42, 0x00#8), (43, 0x00#8), (4092, 0x32#8), (4093, 0xDD#8), (4094, 0xAF#8), (4095, 0x73#8)]

/-- Firmware slot A as the factory has left it: a valid image, activated and confirmed (log entry 6). -/
def factorySlot : FwSlot :=
  { actSeq := 1, actOk := true, commit := true, confirmed := true, result := 0, version := 0x00010000, rollback := 0
    length := 1048576 }

/-- The device right after reset: held in reset with cause 0, every field at the value the spec states, or where it states
none at the value the assumption log names (entries 2, 3, 5, 6). -/
def State.reset : State :=
  { pstore := { mem := factoryStore }, stag := { slotA := factorySlot }, pipe := { flash := factoryFlash } }

end Sys2Proof.Machine
end

