-- ==== Sys2Proof/Machine/Ops.lean ====
section
/-! DEFINITION. The named operations that every meaning is built from: reading an entry's value in force, writing a result
with its generation (R43), the counters, drawing a free value, queueing a program of the persistent store (R379, R382),
numbering and gathering a log record (R393, R394), raising an event and notifying it (R24, R38, R65, R66, R517), tagging and
sending a frame (R58, R63, R411), and ending a session (R64). -/

namespace Sys2Proof.Machine

/-! ### Time -/

/-- Ticks of 1.25 ns in a microsecond, a millisecond and a second. -/
abbrev tickUs : Nat := 800
/-- ticks in a millisecond -/
abbrev tickMs : Nat := 800000
/-- ticks in a second -/
abbrev tickS : Nat := 800000000

/-- Time moves on to `t`, if it is not past it already. -/
def advanceTo (t : Nat) (s : State) : State := { s with now := max s.now t }

/-- Whole milliseconds since tick `t`, as a U16. -/
def msSince (s : State) (t : Nat) : Nat := min 65535 ((s.now - t) / tickMs)

/-- Operating seconds (R430). -/
def opSeconds (s : State) : Nat :=
  s.stag.opBase + (if s.stag.opRuns then (s.now - s.stag.opAt) / tickS else 0)

/-- UTC (R431): counts on through STANDBY and OFF. -/
def utcNow (s : State) : Nat := (s.stag.utcBase + (s.now - s.stag.utcAt) / tickS) % w32

/-! ### Free values -/

/-- Draws one free number. -/
def draw (s : State) : Nat × State := (Config.freeNat s.free, { s with free := s.free + 1 })

/-- Draws `n` free bytes. -/
def drawBytes (n : Nat) (s : State) : List Nat × State :=
  ((List.range n).map fun i => Config.freeNat (s.free + i) % 256, { s with free := s.free + n })

/-! ### Dictionary values in force -/

/-- Is the part of grade X?  Grade C stands where the identity is not valid (R437, R448). -/
def gradeX (s : State) : Bool := s.pstore.identityOk && mget 0#8 s.pstore.mem 24 == 0x58#8

/-- The value in force of an element in a map of values in force. -/
def cfgOf (m : NMap Int) (x : Bool) (h p i : Nat) : Int := mget (dflt x h p i) m (cell h p i)

/-- The value in force of an element of an entry, or of a byte of a BLOB. -/
def cfgI (s : State) (h p : Nat) (i : Nat := 0) : Int := cfgOf s.dict.cfg (gradeX s) h p i

/-- The same where the entry holds a number that is not negative. -/
def cfg (s : State) (h p : Nat) (i : Nat := 0) : Nat := (cfgI s h p i).toNat

/-- The same for a BOOL. -/
def cfgB (s : State) (h p : Nat) : Bool := cfgI s h p != 0

/-- Puts a value in force. -/
def setCfg (h p i : Nat) (v : Int) (s : State) : State :=
  { s with dict.cfg := mput (dflt (gradeX s) h p i) s.dict.cfg (cell h p i) v }

/-! ### Results and generations -/

/-- The next generation: from 0xFFFF to 0x0001 (R43). -/
def nextGen (g : Nat) : Nat := if g = 65535 then 1 else g + 1

/-- Raises the generation of an entry. -/
def bumpGen (h p : Nat) (s : State) : State :=
  { s with dict.gens := mput 0 s.dict.gens (keyOf h p) (nextGen (mget 0 s.dict.gens (keyOf h p))) }

/-- The value of a result. -/
def resI (s : State) (h p : Nat) (i : Nat := 0) : Int := mget 0 s.dict.res (cell h p i)

/-- The same as a number. -/
def res (s : State) (h p : Nat) (i : Nat := 0) : Nat := (resI s h p i).toNat

/-- A new value of one element of a result. -/
def setResAt (h p i : Nat) (v : Int) (s : State) : State :=
  bumpGen h p { s with dict.res := mput 0 s.dict.res (cell h p i) v }

/-- A new value of a result. -/
def setResI (h p : Nat) (v : Int) (s : State) : State := setResAt h p 0 v s

/-- A new value of a result that is a number. -/
def setRes (h p : Nat) (v : Nat) (s : State) : State := setResAt h p 0 (v : Int) s

/-- A new value of a result that is a flag. -/
def setResB (h p : Nat) (v : Bool) (s : State) : State := setRes h p (if v then 1 else 0) s

/-- A new value where it differs from the present one. -/
def changeRes (h p : Nat) (v : Nat) (s : State) : State := if res s h p = v then s else setRes h p v s

/-- The generation after `n` more values (R43). -/
def gensOn (g n : Nat) : Nat := if n = 0 then g else (g + n - 1) % 65535 + 1

/-- An element of a result that has taken `n` values since it was last brought up to date, the last of them `v`. -/
def stepRes (h p i : Nat) (v : Int) (n : Nat) (s : State) : State :=
  { s with
    dict.res := mput 0 s.dict.res (cell h p i) v
    dict.gens := mput 0 s.dict.gens (keyOf h p) (gensOn (mget 0 s.dict.gens (keyOf h p)) n) }

/-- A new value of a whole array result. -/
def setResList (h p : Nat) (vs : List Int) (s : State) : State :=
  bumpGen h p { s with dict.res := mputList 0 s.dict.res (cell h p 0) vs }

/-- Adds to a counter that saturates at 0xFFFF_FFFF. -/
def incSat (h p n : Nat) (s : State) : State :=
  if n = 0 then s else setRes h p (min (res s h p + n) max32) s

/-- Adds to an element of an array of such counters. -/
def incSatAt (h p i n : Nat) (s : State) : State :=
  if n = 0 then s else setResAt h p i (min (res s h p i + n) max32 : Nat) s

/-- Adds to a counter that wraps at 2^32. -/
def incWrap (h p n : Nat) (s : State) : State :=
  if n = 0 then s else setRes h p ((res s h p + n) % w32) s

/-- Adds to a unit's corrected-error count (00A). -/
def addCe (h n : Nat) (s : State) : State :=
  { s with dict.ce := mput 0 s.dict.ce h (min (mget 0 s.dict.ce h + n) max32) }

/-- Adds to a unit's uncorrected-error count (00B). -/
def addUe (h n : Nat) (s : State) : State :=
  { s with dict.ue := mput 0 s.dict.ue h (min (mget 0 s.dict.ue h + n) max32) }

/-! ### The persistent store's programs -/

/-- The programs waiting of a class. -/
def ofClass (c : Nat) (q : List Program) : Option Program := q.find? fun p => p.cls == c

/-- The program that R382 takes next: the lowest class, the oldest within it. -/
def nextProgram (q : List Program) : Option Program :=
  (ofClass 1 q).or ((ofClass 2 q).or ((ofClass 3 q).or ((ofClass 4 q).or (ofClass 5 q))))

/-- Begins a program where none is in progress; none begins after a power-fail warning (R381). -/
def startProgram (s : State) : State :=
  if s.pstore.current.isSome || s.pstore.warned then s
  else match nextProgram s.pstore.queue with
    | none => s
    | some p => { s with pstore.current := some (p, false), pstore.queue := s.pstore.queue.erase p }

/-- Queues a program (R382). -/
def queueProgram (p : Program) (s : State) : State :=
  startProgram { s with pstore.queue := s.pstore.queue ++ [p] }

/-! ### The log -/

/-- Bytes of a number of 1, 2 or 4 bytes, least significant first. -/
abbrev u8 (v : Nat) : List Nat := [v % 256]
/-- two bytes -/
abbrev u16 (v : Nat) : List Nat := toLE 2 v
/-- four bytes -/
abbrev u32 (v : Nat) : List Nat := toLE 4 v
/-- two bytes of a signed number, saturated to the S16 range -/
abbrev s16 (v : Int) : List Nat := intLE 2 (clampI v (-32768) 32767)

/-- A log record's 32 bytes (Table 15.6). -/
def recordBytes (r : LogRec) : List Nat :=
  let b := u32 r.seq ++ u32 r.seconds ++ u16 r.ev.code ++ u16 r.ev.handle ++ padTo 8 r.ev.data ++ List.replicate 8 0
  b ++ u32 (crc32c b)

/-- Records numbered and not programmed. -/
def logWaiting (s : State) : Nat := s.pstore.gathered.length + s.pstore.queued.length

/-- Queues the gathered records as one program (R394). -/
def flushGather (s : State) : State :=
  match s.pstore.gathered with
  | [] => s
  | r :: rs =>
    let g := r :: rs
    let bytes := g.flatMap fun r => (recordBytes r).zipIdx.map fun b => (32 * (r.seq % 8) + b.2, b.1)
    let last := (g.getLastD r).seq
    queueProgram ⟨4, 1024 + r.seq % 4096 / 8, bytes, .log last⟩
      { s with pstore.gathered := [], pstore.queued := s.pstore.queued ++ g, pstore.gatherAt := none }

/-- Places a numbered record in the mirror (R436) and gathers it (R394). -/
def placeRecord (r : LogRec) (s : State) : State :=
  { s with
    pstore.nextSeq := (r.seq + 1) % w32
    pstore.mirror := storeBytes 0#8 s.pstore.mirror (32 * (r.seq % 4096)) (recordBytes r)
    pstore.gathered := s.pstore.gathered ++ [r]
    pstore.gatherAt := some (s.pstore.gatherAt.getD s.now) }

/-- The results that tell of the log's ring, after record `n`. -/
def showLog (n : Nat) (s : State) : State :=
  let s := setRes hLOG Par.LOG_NEWEST n s
  let s := if res s hLOG Par.LOG_OLDEST < n - 4095 then setRes hLOG Par.LOG_OLDEST (n - 4095) s
    else if res s hLOG Par.LOG_OLDEST = 0 then setRes hLOG Par.LOG_OLDEST 1 s else s
  let s := setRes hPSTORE Par.PSTORE_LOG_NEXT s.pstore.nextSeq s
  bumpGen hLOG Par.LOG_RING (setRes hPSTORE Par.PSTORE_LOG_WAITING (logWaiting s) s)

/-- Numbers an event's record, places it and gathers it; with SEQ 7 modulo 8 its page is full (R393, R394). -/
def assignRecord (e : Event) (s : State) : State :=
  let r : LogRec := ⟨s.pstore.nextSeq, opSeconds s, e⟩
  showLog r.seq (if r.seq % 8 = 7 then flushGather (placeRecord r s) else placeRecord r s)

/-! ### Control ports -/

/-- The unit of a control port. -/
abbrev portUnit : PortId → Nat
  | .host => hHOSTPORT
  | .field => hFIELDPORT
  | .sideband => hAUXPORT

/-- The port code of R410. -/
abbrev portCode : PortId → Nat
  | .host => 0
  | .field => 1
  | .sideband => 2

/-- The three ports in the arbiter's order (R31). -/
abbrev ports : List PortId := [.host, .field, .sideband]

/-- A port's state. -/
def port (s : State) : PortId → PortSt
  | .host => s.ctrl.host
  | .field => s.ctrl.field
  | .sideband => s.ctrl.sideband

/-- A port's state replaced. -/
def setPort (i : PortId) (p : PortSt) (s : State) : State :=
  match i with
  | .host => { s with ctrl.host := p }
  | .field => { s with ctrl.field := p }
  | .sideband => { s with ctrl.sideband := p }

/-- A frame without its session tag and check (Table 2.8). -/
def frameBody (op seq handle pf elem status : Nat) (payload : List Nat) : List Nat :=
  [op % 256, seq % 256] ++ u16 handle ++ u16 pf ++ [elem % 256, status % 256] ++ u32 payload.length ++ payload

/-- The session tag of R411. -/
def sessionTag (key : List Nat) (dir count : Nat) (body : List Nat) : List Nat :=
  (hmac key ([dir] ++ u32 count ++ body)).take 8

/-- A response or a notification with its tag, where the session has one (R63), and its check (R59). -/
def sealFrame (p : PortSt) (op seq handle pf elem status : Nat) (payload : List Nat) : List Nat × PortSt :=
  match p.key with
  | none => let b := frameBody op seq handle pf elem status payload; (b ++ u16 (crc16 b), p)
  | some k =>
    let b := frameBody op seq handle (Nat.lor pf 0x2000) elem status payload
    let t := b ++ sessionTag k 1 p.rspCount b
    (t ++ u16 (crc16 t), { p with rspCount := (p.rspCount + 1) % w32 })

/-- A frame enters a port's outbound queue; an empty queue of an I3C host port raises an in-band interrupt (R71). -/
def pushOut (i : PortId) (f : OutFrame) (s : State) : State :=
  let p := port s i
  let ibi := if i = .host ∧ s.pins.hostsel = true ∧ p.outbound = [] then some (if f.notify then 2 else 1) else p.ibi
  setPort i { p with outbound := p.outbound ++ [f], ibi := ibi } s

/-- The notifications that wait on a port. -/
def notesWaiting (p : PortSt) : Nat := (p.outbound.filter (·.notify)).length

/-- A notification's payload (R65). -/
def notePayload (r : Nat) (e : Event) : List Nat := u16 e.code ++ u32 r ++ padTo 8 e.data

/-- A notification made and queued on one port, or counted as lost (R66). -/
def sendNote (i : PortId) (r : Nat) (e : Event) (s : State) : State :=
  let p := port s i
  if 64 ≤ notesWaiting p then
    incSat (portUnit i) Par.CTRLPORT_NOTIFY_LOST 1 (setPort i { p with lost := p.lost + 1 } s)
  else
    let (b, p') := sealFrame p 0xC0 p.nseq e.handle 0x00C 0 0 (notePayload r e)
    pushOut i ⟨b, true⟩ (setPort i { p' with nseq := (p'.nseq + 1) % 256 } s)

/-- Does a port's mask select an event's class (R65)? -/
def noteWanted (s : State) (i : PortId) (e : Event) : Bool :=
  (port s i).enabled && (cfg s (portUnit i) Par.CTRLPORT_NOTIFY_MASK).testBit (e.code / 256)

/-- The notifications of a logged event, on every port whose mask selects it. -/
def notifyAll (r : Nat) (e : Event) (s : State) : State :=
  ports.foldl (fun s i => if noteWanted s i e then sendNote i r e s else s) s

/-- LAST_EVENT of the event's own unit (R24). -/
def noteLast (code handle : Nat) (s : State) : State :=
  { s with
    dict.ordinal := s.dict.ordinal + 1
    dict.lastEvent := mput (0, 0) s.dict.lastEvent handle (s.dict.ordinal + 1, code) }

/-- Event 0x0A09 of a port that has lost `n` notifications (R66, R77). -/
abbrev lostEvent (i : PortId) (n : Nat) : Event := ⟨0x0A09, portUnit i, u32 n⟩

/-- Has a port lost notifications, with room for one now (R66)? -/
def owesLost (s : State) (i : PortId) : Bool := 0 < (port s i).lost && notesWaiting (port s i) < 64

/-- The ports that are told of their losses before event `e` reaches them: those whose mask selects it, and with any of them those
that an event 0x0A09 reaches. -/
def lostPorts (s : State) (e : Event) : List PortId :=
  if ports.any fun i => owesLost s i && noteWanted s i e then
    ports.filter fun i => owesLost s i && (noteWanted s i e || noteWanted s i (lostEvent i 0))
  else []

/-- A port's event 0x0A09 is recorded, and is the next notification that fits on the port itself (R66): the record's number, where
one could be made. -/
def recordLost (i : PortId) (s : State) : Option (Nat × Event) × State :=
  if 256 ≤ logWaiting s then (none, s)
  else
    let e := lostEvent i (port s i).lost
    let r := s.pstore.nextSeq
    (some (r, e), sendNote i r e (assignRecord e (noteLast 0x0A09 (portUnit i) (setPort i { port s i with lost := 0 } s))))

/-- The other ports whose masks select it are notified of a port's event 0x0A09 (R65). -/
def passLost (i : PortId) (x : Option (Nat × Event)) (s : State) : State :=
  match x with
  | none => s
  | some (r, e) => ports.foldl (fun s j => if j != i && noteWanted s j e then sendNote j r e s else s) s

/-- What the ports have lost is told before event `e` (R66): on the losing ports first, then on the others. -/
def tellLost (e : Event) (s : State) : State :=
  let l := lostPorts s e
  let x := l.foldl (fun x i => let y := recordLost i x.2; (x.1 ++ [(i, y.1)], y.2)) (([] : List (PortId × Option (Nat × Event))), s)
  x.1.foldl (fun s y => passLost y.1 y.2 s) x.2

/-- An event is recorded where there is room for its record, and notified (R65, R66). -/
def recordEvent (e : Event) (s : State) : State := notifyAll s.pstore.nextSeq e (tellLost e (assignRecord e s))

/-- The record of those not logged, before the next that is (R394): event 0x0907 at PSTORE. -/
def tellNotLogged (s : State) : State :=
  if 0 < s.pstore.notLogged ∧ logWaiting s < 256 then
    recordEvent ⟨0x0907, hPSTORE, u32 s.pstore.notLogged⟩ (noteLast 0x0907 hPSTORE { s with pstore.notLogged := 0 })
  else s

/-- The key under which R517 limits a code to one record in a second; none where no rule limits it.  Rules that name a
unit, a port, a layer, a bank, a tile or a resource limit each one apart. -/
def limitKey (e : Event) : Option Nat :=
  let c := e.code
  if c ∈ [0x0A01, 0x0A02, 0x0A03, 0x0A04, 0x0A08, 0x0320, 0x0321, 0x0407, 0x0408, 0x040B, 0x0801, 0x0804, 0x0805, 0x0809,
      0x0C23, 0x0C24, 0x0D07, 0x0D08, 0x0D09] then some (c * 65536 + e.handle)
  else if c ∈ [0x0120, 0x0121, 0x0122, 0x0123, 0x0124, 0x0128, 0x012C, 0x0204, 0x0205, 0x0206, 0x020B, 0x0301, 0x0302,
      0x0311, 0x0332, 0x0337, 0x0338, 0x033B, 0x0340, 0x0350, 0x0351, 0x0352, 0x0601, 0x0602, 0x0604, 0x0703, 0x0704,
      0x0705, 0x0706, 0x0904, 0x0906, 0x0B08, 0x0B0A, 0x0506, 0x0508] then some (c * 65536)
  else if c = 0x0E03 then some (c * 65536 + e.data.headD 0)
  else none

/-- Has a limited code been recorded within the last second (R517)? -/
def limitedNow (s : State) (e : Event) : Bool := match limitKey e with
  | none => false
  | some k => match mget none s.dict.limited k with
    | some t => decide (s.now < t + tickS)
    | none => false

/-- The second of a limited code's record begins. -/
def noteLimit (e : Event) (s : State) : State := match limitKey e with
  | none => s
  | some k => { s with dict.limited := mput none s.dict.limited k (some s.now) }

/-- Logs an event: first the record of those not logged (R394), then its own, then its notifications; within a second of its code's
last record nothing (R517). -/
def logEvent (e : Event) (s : State) : State :=
  if limitedNow s e then s
  else
    let s := tellNotLogged s
    if 256 ≤ logWaiting s then
      incSat hLOG Par.LOG_NOT_LOGGED 1 { s with pstore.notLogged := s.pstore.notLogged + 1 }
    else recordEvent e (noteLimit e s)

/-- Is Stag able to log: running, not restarting, and the store read (R38, R395)? -/
def logReady (s : State) : Bool := s.stag.running && s.stag.restarting.isNone && s.pstore.read

/-- An event that waits in the hardware queue of 256 entries (R38). -/
def holdEvent (e : Event) (s : State) : State :=
  if 256 ≤ s.stag.events.length then
    incSat hLOG Par.LOG_NOT_LOGGED 1 { s with stag.overflow := s.stag.overflow + 1 }
  else { s with stag.events := s.stag.events ++ [e] }

/-- An event is logged, or waits until Stag can log (R38). -/
def keepEvent (e : Event) (s : State) : State := if logReady s then logEvent e s else holdEvent e s

/-- Raises an event: LAST_EVENT of its unit, then its record and notifications, at once or once Stag can log. -/
def raise (code handle : Nat) (data : List Nat) (s : State) : State :=
  let s := noteLast code handle s
  if limitedNow s ⟨code, handle, data⟩ then s else keepEvent ⟨code, handle, data⟩ s

/-- Logs the events that waited for Stag, in order (R38). -/
def flushEvents (s : State) : State :=
  s.stag.events.foldl (fun s e => logEvent e s) { s with stag.events := [] }

/-! ### Sessions -/

/-- A port's session level and its result. -/
def setLevel (i : PortId) (l : Nat) (key : Option (List Nat)) (s : State) : State :=
  changeRes (portUnit i) Par.CTRLPORT_SESSION_LEVEL l
    (setPort i { port s i with level := l, key := key, reqCount := 0, rspCount := 0 } s)

/-- Ends a port's session (R64): event 0x0A06 where it was above Observer, made under the ending session's key. -/
def endSession (i : PortId) (reason : Nat) (s : State) : State :=
  let l := (port s i).level
  if l = 0 then s
  else setLevel i 0 none (raise 0x0A06 (portUnit i) [l, reason] s)

/-- Every session ends. -/
def endSessions (reason : Nat) (s : State) : State := ports.foldl (fun s i => endSession i reason s) s

/-- The credits of a port (R67). -/
def credits (s : State) (i : PortId) : Nat := if (port s i).enabled then 4 - (port s i).unanswered else 0

/-- A tally counter's increment: COUNT + 1 and its CRC-8 into the slot after the holder (R391). -/
def incTally (n : Nat) (s : State) : State :=
  let v := mget 0 s.pstore.tally n
  if 16777215 ≤ v then
    if mget false s.pstore.tallyFull n then s
    else raise 0x0909 hPSTORE [n] { s with pstore.tallyFull := mput false s.pstore.tallyFull n true }
  else
    let slot := (mget 0 s.pstore.holder n + 1) % 64
    let b := toLE 3 (v + 1)
    let bytes := (b ++ [crc8 b]).zipIdx.map fun x => (4 * slot + x.2, x.1)
    setResAt hPSTORE Par.PSTORE_TALLY n (v + 1 : Nat)
      (queueProgram ⟨2, 64 + n, bytes, .tally n⟩
        { s with pstore.tally := mput 0 s.pstore.tally n (v + 1), pstore.holder := mput 0 s.pstore.holder n slot })

end Sys2Proof.Machine
end

