-- ==== Sys2Proof/Machine/Flags.lean ====
section
/-! DEFINITION. The status of units: POWER and HEALTH of every unit (R40, R41, and the health paragraphs of the chapters), the
roll-up of groups (R24, R468, R469), and the causes of FAULT_N (R470). -/

namespace Sys2Proof.Machine

/-- The health codes of Table 2.3. -/
abbrev hGOOD : Nat := 0
/-- a spare or an alternative carries a failed child's work -/
abbrev hMASKED : Nat := 1
/-- idle reserve -/
abbrev hSPARE : Nat := 2
/-- permanently retired -/
abbrev hFELLED : Nat := 3
/-- powered off -/
abbrev hASLEEP : Nat := 4
/-- reduced headroom -/
abbrev hLIMITED : Nat := 5
/-- picture or function affected -/
abbrev hFAILED : Nat := 6

/-- Is the fabric, with Stag, powered (Table 19.4)?  In RUN, SELF and HOLD, which a full wake reads from
its step 2, from start-up step 2 on, and from step 2 of a service wake. -/
def fabricOn (s : State) : Bool :=
  match s.power.phase with
  | .reset | .reference => false
  | _ => match s.power.state with
    | .run | .self | .hold => true
    | _ => s.power.service.isSome && decide (2 ≤ s.power.wakeStep)

/-- Are the panel-side domains (raster, row outputs, references, Otham) powered?  Not in a service wake. -/
def panelDomainOn (s : State) : Bool := fabricOn s && s.power.service.isNone

/-- A lane of the link. -/
def lane (s : State) (n : Nat) : LaneSt := mget {} s.link.lanes n

/-- Is a Swerok lane enabled and not retired (R81)? -/
def laneUsable (s : State) (n : Nat) : Bool :=
  (cfg s hLINK Par.LINK_LANES_ENABLE).testBit n && !(lane s n).retired

/-- The lanes that train: enabled, with no blaze record, and in INDEPENDENT clocking the 8 lowest of them (R81, R87). -/
def lanesToTry (s : State) : List Nat :=
  let l := (List.range 16).filter (laneUsable s)
  if cfg s hLINK Par.LINK_CLOCKING = 0 then l.take 8 else l

/-- The two 25 MHz references of the device. -/
inductive Reference where
  | xin | refclk
  deriving DecidableEq, Repr

/-- The device reference: XIN/XOUT where oscillation was detected at the end of reset, else REFCLK (R88, R512). -/
def deviceReference (s : State) : Reference := if s.pins.xin then .xin else .refclk

/-- The reference of the Swerok receivers: REFCLK in SHARED clocking or with spread on it, else the device's (R87, R88). -/
def receiverReference (s : State) : Reference :=
  if cfg s hLINK Par.LINK_CLOCKING = 1 ∨ cfgB s hLINK Par.LINK_REFCLK_SPREAD = true then .refclk else deviceReference s

/-- Is an Otham port enabled (`0380:040`)? -/
def portEnabled (s : State) (p : Nat) : Bool := (cfg s hOUTPUT Par.OUTPUT_PORT_ENABLE (p / 32)).testBit (p % 32)

/-- An Otham port. -/
def oport (s : State) (p : Nat) : OPort := mget {} s.out.ports p

/-- An Otham lane, `l` 0 for A and 1 for B. -/
def olane (s : State) (p l : Nat) : OLaneSt := mget {} s.out.lanes (2 * p + l)

/-- A tile, by stand and number. -/
def tile (s : State) (st t : Nat) : TileSt := mget {} s.pipe.tiles (16 * st + t)

/-- A DRAM channel. -/
def chan (s : State) (n : Nat) : ChanSt := mget {} s.dram.chans n

/-- An SRAM bank. -/
def bank (s : State) (b : Nat) : BankSt := mget {} s.sram.banks b

/-- The slot that a stand's spare serves (R18). -/
def spareSlot (s : State) (st : Nat) : Option Nat := mget none s.pipe.spare st

/-- The slot that a tile serves: its own number for an active tile not felled, the spare's for tile 8 (R15, R18). -/
def tileSlot (s : State) (st t : Nat) : Option Nat :=
  if (tile s st t).felled then none
  else if t = 8 then spareSlot s st
  else if spareSlot s st = some t then none
  else some t

/-- The tile that serves a slot of a stand. -/
def slotTile (s : State) (st slot : Nat) : Nat := if spareSlot s st = some slot then 8 else slot

/-- Spare rows that a sub-array has left: the factory's use and the field's are taken off 8 (R360). -/
def sparesLeft (s : State) (b sub : Nat) : Nat :=
  8 - min 8 (Config.factorySpares b sub % 9 + mget 0 (bank s b).used sub)

/-- Restarts of cause 0 or 1 within the last hour of operating time (R428). -/
def recentRestarts (s : State) : Nat := (s.stag.restarts.filter fun t => decide (opSeconds s < t + 3600)).length

/-- POWER of a unit (R40): 0 ON, 1 IDLE, 2 OFF. -/
def unitPower (s : State) (h : Nat) : Nat :=
  let c := classOf h
  if c = 1 ∨ c = 10 then 0
  else if !fabricOn s then (if (c = 36 ∨ c = 37) ∧ s.power.state = .standby then 1
    else if (c = 34 ∨ c = 35) ∧ s.power.state = .standby ∧ (chan s (h - 0x0910)).felled = false then 1 else 2)
  else match c with
  | 15 => if s.link.phase = .off then 2 else if s.link.phase = .idle then 1 else 0
  | 16 =>
    if s.link.phase = .off ∨ (lanesToTry s).contains (h - 0x0310) = false then 2 else if s.link.phase = .idle then 1 else 0
  | 19 =>
    let p := h - 0x0400
    if !portEnabled s p ∨ !panelDomainOn s then 2 else if s.out.idle ∨ !(oport s p).powered then 1 else 0
  | 20 =>
    let p := (h - 0x0500) / 2
    if !portEnabled s p ∨ !panelDomainOn s ∨ (olane s p (h % 2)).retired then 2
    else if s.out.idle ∨ !(oport s p).powered then 1 else 0
  | 11 => if !panelDomainOn s then 2 else if s.raster.stopped then 1 else 0
  | 12 | 18 | 28 | 30 | 31 => if panelDomainOn s then 0 else 2
  | 29 => if !panelDomainOn s ∨ s.panel.drive = .floating then 2 else 0
  | 34 => if (List.range 8).all (fun n => (chan s n).selfRefresh || (chan s n).felled) then 1 else 0
  | 35 =>
    let ch := chan s (h - 0x0910)
    if ch.felled && !ch.migrating then 2 else if ch.selfRefresh then 1 else 0
  | _ => 0

/-- The health that a unit's own chapter gives it, its children left aside. -/
def ownHealth (s : State) (h : Nat) : Nat :=
  match classOf h with
  | 2 =>
    if s.stag.recovery ∨ 8 ≤ recentRestarts s then hFAILED
    else if 0 < recentRestarts s ∨ s.stag.trial then hLIMITED else hGOOD
  | 3 => let t := mget {} s.stag.therm (h - 0x0011); if t.crit then hFAILED else if t.warned then hLIMITED else hGOOD
  | 4 => if (mget {} s.stag.vmon (h - 0x0021)).limited then hLIMITED else hGOOD
  | 5 =>
    let n := mget {} s.stag.ntc (h - 0x0025)
    if cfgB s h Par.NTC_ENABLE && n.judged && !n.valid then hLIMITED else hGOOD
  | 6 => if s.pstore.wearRaised then hLIMITED else hGOOD
  | 7 => if s.stag.recovery then hFAILED else if res s h Par.UPDATE_STATE = 6 then hLIMITED else hGOOD
  | 8 => if s.sec.entropyBad then hFAILED else if s.sec.noStore ∨ s.sec.locked then hLIMITED else hGOOD
  | 9 =>
    if s.pstore.read ∧ !s.pstore.identityOk then hFAILED
    else if s.pstore.blazeFull ∨ s.pstore.wearRaised ∨ s.pstore.limited then hLIMITED else hGOOD
  | 10 => if s.power.failed then hFAILED else hGOOD
  | 11 =>
    if s.raster.illegal then hFAILED else if res s hRASTER Par.RASTER_LOCK = 3 then hLIMITED else hGOOD
  | 12 => if 1 < (resI s h Par.HALF_SKEW).natAbs then hLIMITED else hGOOD
  | 13 => if mget false s.pipe.standLimited (h - 0x0110) then hLIMITED else hGOOD
  | 14 =>
    let st := (h - 0x0200) / 16
    let t := h % 16
    let x := tile s st t
    if x.felled then hFELLED
    else if x.failed then hFAILED
    else if x.withheld then hLIMITED
    else if (tileSlot s st t).isNone then hSPARE else hGOOD
  | 15 => if s.link.carries then hGOOD else hLIMITED
  | 16 =>
    let l := lane s (h - 0x0310)
    if l.retired then hFELLED
    else if !(cfg s hLINK Par.LINK_LANES_ENABLE).testBit (h - 0x0310) then hASLEEP
    else if l.excluded then hLIMITED else hGOOD
  | 17 => if 0 < res s hAUX Par.AUX_UNANSWERED then hLIMITED else hGOOD
  | 18 => if s.out.noFit then hFAILED else if s.out.boost then hLIMITED else hGOOD
  | 19 =>
    let p := oport s (h - 0x0400)
    if p.stopped ∨ p.boostFailed then hFAILED
    else if p.backLost then hLIMITED
    else if p.mode ≠ .dual then hMASKED
    else if s.out.boost then hLIMITED else hGOOD
  | 20 =>
    let l := mget {} s.out.lanes (h - 0x0500)
    if l.retired then hFELLED else if l.excluded then hLIMITED else hGOOD
  | 21 => if s.resil.avsBad ∨ s.resil.modeLimited = some hPIPE then hLIMITED else hGOOD
  | 25 => if s.pipe.tempLost then hLIMITED else hGOOD
  | 26 =>
    if s.pipe.noBank ∨ s.pipe.flashSmall ≠ 0 ∨ s.pipe.defectsFull ∨ res s hCOMP Par.COMP_MAP_STATE = 3 then hLIMITED else hGOOD
  | 27 => if s.pipe.ditherLimited then hLIMITED else hGOOD
  | 29 => if s.panel.drive = .floating then hASLEEP else hGOOD
  | 30 => if s.panel.failed then hFAILED else hGOOD
  | 31 => if s.panel.clipped ≠ 0 ∨ s.panel.avddLimited ∨ s.panel.pump = 3 then hLIMITED else hGOOD
  | 32 =>
    let named := [s.fstore.current, s.fstore.previous, s.fstore.hold, s.fstore.base].filterMap id
    if named.any fun n => (mget {} s.fstore.slots n).keyLost then hLIMITED else hGOOD
  | 33 => if s.fstore.codecBad.any fun e => e.1 / 4 == h - 0x0810 then hLIMITED else hGOOD
  | 34 =>
    if s.dram.failed then hFAILED else if s.pipe.halved then hLIMITED
    else if s.dram.retired.isSome then hMASKED else hGOOD
  | 35 =>
    let n := h - 0x0910
    let ch := chan s n
    if ch.felled then hFELLED else if ch.failed then hFAILED
    else if ch.held ≠ [] ∨ ch.pieces.isSome
      ∨ (List.range 16).any (fun b => Config.dieRepairs n b ≤ mget 0 ch.used b) then hLIMITED
    else hGOOD
  | 37 =>
    let b := h - 0x0A10
    if (bank s b).failed then hFAILED
    else if 0 < res s h Par.BANK_POISONED ∨ (List.range 16).any (fun i => sparesLeft s b i < 2) then hLIMITED
    else if (bank s b).spared ≠ [] then hMASKED else hGOOD
  | _ => hGOOD

/-- The order in which R468 takes the worst. -/
def healthRank (x : Nat) : Nat :=
  if x = hFAILED then 3 else if x = hLIMITED then 2 else if x = hMASKED then 1 else 0

/-- The worse of two. -/
def worse (a b : Nat) : Nat := if healthRank a < healthRank b then b else a

/-- What a child's health contributes to its group (R468, R469). -/
def contribution (s : State) (group child : Nat) : Nat :=
  match classOf group with
  | 15 => if child = hFAILED then hFAILED
    else if child = hLIMITED ∨ child = hFELLED then (if s.link.carries then hMASKED else hLIMITED)
    else if child = hMASKED then hMASKED else hGOOD
  | 19 => hGOOD
  | _ =>
    if child = hFAILED then hFAILED
    else if child = hLIMITED then hLIMITED
    else if child = hMASKED ∨ child = hFELLED then hMASKED
    else hGOOD

/-- HEALTH of a unit, `fuel` levels of children deep (R41, R468). -/
def healthTo (s : State) : Nat → Nat → Nat
  | 0, h => if unitPower s h = 2 ∧ ownHealth s h ≠ hFELLED then hASLEEP else ownHealth s h
  | n + 1, h =>
    let kids := (childrenOf h).map (healthTo s n)
    let own := ownHealth s h
    if unitPower s h = 2 ∧ own ≠ hFELLED ∧ kids.all (fun k => k == hASLEEP) then hASLEEP
    else if unitPower s h = 2 ∧ own ≠ hFELLED then kids.foldl (fun a k => worse a (contribution s h k)) hGOOD
    else if kids = [] then own
    else kids.foldl (fun a k => worse a (contribution s h k)) own

/-- HEALTH of a unit: the tree is five levels deep. -/
def health (s : State) (h : Nat) : Nat := healthTo s 4 h

/-- The health of a port's lanes shows in the port by R273 alone; a stand is MASKED while its spare serves (R18). -/
abbrev isAsleep (s : State) (h : Nat) : Bool := unitPower s h == 2

/-- A unit's counts of the common block, its children's included (R24), `fuel` levels deep. -/
def countTo (m : NMap Nat) : Nat → Nat → Nat
  | 0, h => mget 0 m h
  | n + 1, h => min max32 ((childrenOf h).foldl (fun a c => a + countTo m n c) (mget 0 m h))

/-- LAST_EVENT of a unit: the most recent among its own and its children's (R24). -/
def lastEventTo (s : State) : Nat → Nat → Nat × Nat
  | 0, h => mget (0, 0) s.dict.lastEvent h
  | n + 1, h => (childrenOf h).foldl (fun a c =>
      let b := lastEventTo s n c
      if a.1 < b.1 then b else a) (mget (0, 0) s.dict.lastEvent h)

/-- The causes of FAULT_N that hold (Table 18.5). -/
def faultCauses (s : State) : Nat :=
  let b := fun (n : Nat) (c : Bool) => if c then 2 ^ n else 0
  b 0 s.raster.illegal
  + b 1 s.out.noFit
  + b 2 (s.out.ports.any fun p => p.2.stopped || p.2.boostFailed)
  + b 3 s.panel.failed
  + b 4 (s.dram.failed || s.dram.chans.any fun c => c.2.failed)
  + b 5 (s.sram.banks.any fun x => x.2.failed)
  + b 6 s.sec.entropyBad
  + b 7 (s.stag.recovery || decide (8 ≤ recentRestarts s))
  + b 8 (s.stag.therm.any fun t => t.2.crit)
  + b 9 (s.pstore.read && !s.pstore.identityOk)
  + b 10 (s.pipe.tiles.any fun t => t.2.failed)
  + b 11 s.power.failed

/-- The causes that hold, and the pin with them. -/
def showFaults (c : Nat) (s : State) : State :=
  setRes hSTAG Par.STAG_FAULT_CAUSES c { s with resil.faults := c, resil.faultN := c ≠ 0 }

/-- The units of the causes `bits` have powered up: what they held before no longer counts (R470). -/
def unitsUp (bits : Nat) (s : State) : State :=
  { s with resil.held := s.resil.held - Nat.land s.resil.held bits }

/-- FAULT_N and FAULT_CAUSES brought up to date; a change of the pin raises event 0x0D0D or 0x0D0E (R470).  A cause held by a unit that
powered off stays until the unit has powered up. -/
def settle (s : State) : State :=
  let c := Nat.lor (faultCauses s) s.resil.held
  if c = s.resil.faults then s
  else if s.resil.faults = 0 then raise 0x0D0D hSTAG (u32 c) (showFaults c s)
  else if c = 0 then raise 0x0D0E hSTAG [] (showFaults c s)
  else showFaults c s

end Sys2Proof.Machine
end

