-- ==== Sys2Proof/Machine/Dict.lean ====
section
/-! DEFINITION. The dictionary's values: what a read returns (R32, R45, R47, R49), the clamp counts (R53), the items of the open
shadow set (R48), and writing a clamped value by its apply class (R47, R54). -/

namespace Sys2Proof.Machine

/-- Elements of an entry: an array's count, else 1. -/
def elems (e : Entry) : Nat := max 1 e.count

/-- Bytes of a whole value; a BLOB's size is its table's. -/
def valueSize (e : Entry) : Nat :=
  match e.ty with
  | .blob n => n
  | .str n => n
  | t => tyBytes t * elems e

/-- Is it a BLOB? -/
def isBlob (e : Entry) : Bool := match e.ty with | .blob _ => true | _ => false

/-- Is it a STRING? -/
def isStr (e : Entry) : Bool := match e.ty with | .str _ => true | _ => false

/-- The value that the latest of a list of commits gives a cell. -/
def commitView : List Commit → Nat → Option Int
  | [], _ => none
  | c :: cs, k => match commitView cs k with
    | some v => some v
    | none => mget none c.patch k

/-- The value of a cell that waits: in the open shadow set, in a commit not yet applied, or for the restart. -/
def waitingView (s : State) (k : Nat) : Option Int :=
  match mget none s.dict.patch k with
  | some v => some v
  | none => match commitView s.dict.commits k with
    | some v => some v
    | none => mget none s.dict.held k

/-- The value that a read of a configuration element returns (R32, R47). -/
def view (s : State) (h p : Nat) (i : Nat := 0) : Int :=
  match waitingView s (cell h p i) with
  | some v => v
  | none => cfgI s h p i

/-- The bytes of a whole configuration value that is no BLOB. -/
def viewBytes (s : State) (h : Nat) (e : Entry) : List Nat :=
  (List.range (elems e)).flatMap fun i => encodeValue e.ty (view s h e.param i)

/-- The bytes of a BLOB kept as a configuration value. -/
def viewBlob (s : State) (h p off n : Nat) : List Nat :=
  (List.range n).map fun i => (view s h p (off + i)).toNat

/-! ### Clamps -/

/-- Counts one value changed by a clamp (R53). -/
def countClamp (h p cause : Nat) (s : State) : State :=
  incSat hDEV Par.DEV_CLAMP_COUNT 1 (setRes hDEV Par.DEV_LAST_CLAMPED (h * 65536 + cause * 4096 + p) s)

/-- Counts a clamp where the cause is not 0. -/
def noteClamp (h p cause : Nat) (s : State) : State := if cause = 0 then s else countClamp h p cause s

/-! ### The open shadow set -/

/-- The items after a write of a whole entry (`none`) or of one element (R48). -/
def addItem (items : List (Nat × Option Nat)) (k : Nat) (el : Option Nat) : List (Nat × Option Nat) :=
  match el with
  | none => items.filter (fun x => x.1 != k) ++ [(k, none)]
  | some _ => if items.contains (k, none) || items.contains (k, el) then items else items ++ [(k, el)]

/-- Most items of the open shadow set (R48). -/
abbrev shadowLimit : Nat := 2048

/-- Can the open set take the item (R48)? -/
def itemFits (s : State) (k : Nat) (el : Option Nat) : Bool :=
  decide ((addItem s.dict.items k el).length ≤ shadowLimit)

/-- The items of the open set replaced, with SHADOW_USED. -/
def setItems (l : List (Nat × Option Nat)) (s : State) : State :=
  changeRes hDEV Par.DEV_SHADOW_USED l.length { s with dict.items := l }

/-- Empties the open shadow set. -/
def clearShadow (s : State) : State := setItems [] { s with dict.patch := [] }

/-- One value already clamped goes where its apply class sends it (R47): in force, held for the restart, or into the set. -/
def putValue (a : Apply) (h p i : Nat) (v : Int) (s : State) : State :=
  match a with
  | .vb => { s with dict.patch := mput none s.dict.patch (cell h p i) (some v) }
  | .rst => { s with dict.held := mput none s.dict.held (cell h p i) (some v) }
  | _ => setCfg h p i v s

/-- Writes one element: its own clamp, its count, its place. -/
def writeElem (e : Entry) (h i : Nat) (v : Int) (s : State) : State :=
  let c := clampValue e.ty e.rng (dflt (gradeX s) h e.param i) v
  noteClamp h e.param c.2 (putValue e.apply h e.param i c.1 s)

/-- Writes elements from `i` on. -/
def writeElems (e : Entry) (h : Nat) : Nat → List Int → State → State
  | _, [], s => s
  | i, v :: vs, s => writeElems e h (i + 1) vs (writeElem e h i v s)

/-- The values that the bytes of a scalar, an element or an array spell; `n` is the number of bytes left. -/
def splitValues (t : Ty) : Nat → List Nat → List Int
  | 0, _ => []
  | n + 1, bs => decodeValue t (bs.take (tyBytes t)) :: splitValues t n (bs.drop (tyBytes t))

/-- Writes a scalar, an element or a whole array of an entry, item included (R42, R47, R48). -/
def writeValue (e : Entry) (h : Nat) (el : Option Nat) (bs : List Nat) (s : State) : State :=
  let s := if e.apply = .vb then
      let s := if el.isNone then
          { s with dict.patch := mdrop s.dict.patch (cell h e.param 0) (cell h e.param 0 + 4294967296) }
        else s
      setItems (addItem s.dict.items (keyOf h e.param) el) s
    else s
  match el with
  | some i => writeElems e h i (splitValues e.ty 1 bs) s
  | none => writeElems e h 0 (splitValues e.ty (elems e) bs) s

/-- Writes bytes of a BLOB from an offset; bytes beyond its size are discarded, a clamp of cause 7 (R45, R53). -/
def writeBlob (e : Entry) (h off : Nat) (bs : List Nat) (s : State) : State :=
  let n := valueSize e
  let kept := bs.take (n - off)
  let s := if e.apply = .vb then setItems (addItem s.dict.items (keyOf h e.param) none) s else s
  let s := kept.zipIdx.foldl (fun s b => putValue e.apply h e.param (off + b.2) (b.1 : Int) s) s
  if kept.length < bs.length then countClamp h e.param 7 s else s

/-- Values in force replaced by those of a patch. -/
def applyPatch (patch : NMap (Option Int)) (s : State) : State :=
  patch.foldl (fun s x => match x.2 with
    | some v =>
      let i := x.1 % 4294967296
      let k := x.1 / 4294967296
      setCfg (k / 4096) (k % 4096) i v s
    | none => s) s

/-- Does a patch hold a value of an entry? -/
def touches (patch : NMap (Option Int)) (h p : Nat) : Bool :=
  patch.any fun x => x.1 / 4294967296 == keyOf h p

/-- Does a patch hold a value of some entry of a unit from parameter `lo` to `hi`? -/
def touchesRange (patch : NMap (Option Int)) (h lo hi : Nat) : Bool :=
  patch.any fun x => decide (keyOf h lo ≤ x.1 / 4294967296) && decide (x.1 / 4294967296 ≤ keyOf h hi)

/-- A value of an entry as it will be once a patch is in force. -/
def patched (s : State) (patch : NMap (Option Int)) (h p : Nat) (i : Nat := 0) : Int :=
  match mget none patch (cell h p i) with
  | some v => v
  | none => cfgI s h p i

end Sys2Proof.Machine
end

