-- ==== Sys2Proof/Machine/Geometry.lean ====
section
/-! DEFINITION. The timing mode and what follows from it: the line period and the anchors E and L (R135, R136, R138), the slices
and the stand-line segments (R16, R17), the limits of a legal configuration and the joint clamp (R25, R27, R52, R139), and the
DRAM load (R28). -/

namespace Sys2Proof.Machine

/-- Raster ticks in a second. -/
abbrev rasterHz : Nat := 800000000

/-- The mode that values of the dictionary give (Tables 5.6, 4.14, 7.3). -/
def modeOf (f : Nat → Nat → Int) : Mode :=
  { timing := (f hRASTER Par.RASTER_TIMING_MODE).toNat
    width := (f hRASTER Par.RASTER_ACTIVE_WIDTH).toNat
    height := (f hRASTER Par.RASTER_ACTIVE_HEIGHT).toNat
    split := f hRASTER Par.RASTER_SPLIT != 0
    refresh := (f hRASTER Par.RASTER_REFRESH).toNat
    refreshMin := (f hRASTER Par.RASTER_REFRESH_MIN).toNat
    vblank := (f hRASTER Par.RASTER_VBLANK).toNat
    rowsPerLine := (f hRASTER Par.RASTER_ROWS_PER_LINE).toNat + 1
    hRep := (f hRASTER Par.RASTER_H_REPLICATE).toNat + 1
    depth := (f hLINK Par.LINK_IN_DEPTH).toNat
    colour := (f hLINK Par.LINK_IN_COLOUR).toNat
    sub := (f hPIPE Par.PIPE_SUBPIXELS).toNat + 3 }

/-- The mode in force. -/
def modeNow (s : State) : Mode := modeOf fun h p => cfgI s h p

/-- The entries whose change is a timing-mode change (chapter 05), SUBPIXELS left aside. -/
def sameTiming (a b : Mode) : Bool := { a with refreshMin := 0, sub := 0 } == { b with refreshMin := 0, sub := 0 }

/-- Bits of a component by IN_DEPTH (Table 4.14). -/
def depthBits (code : Nat) : Nat := [8, 10, 12, 16].getD code 10

/-- PANEL_ROWS (R140). -/
def panelRows (m : Mode) : Nat := m.height * m.rowsPerLine

/-! ### Line times and anchors -/

/-- T_line in ticks × 256, rounded down (R135). -/
def linePeriod (m : Mode) : Nat := rasterHz * 256 * 65536 / (m.refresh * (m.height + m.vblank))

/-- Ticks of one period of a rate in uQ10.16 Hz. -/
def periodTicks (rate : Nat) : Nat := rasterHz * 65536 / rate

/-- The latest anchor (R138). -/
def latestFrom (m : Mode) (earliest : Nat) : Nat :=
  earliest + (periodTicks (min m.refreshMin m.refresh) - periodTicks m.refresh)

/-- Ticks of 1/REFRESH. -/
def frameTicks (s : State) : Nat := periodTicks s.raster.mode.refresh

/-- What `x` ticks of the raster clock last in ticks of the reference: the clock is trimmed in GENLOCK alone (R135, R149). -/
def clockTicks (s : State) (x : Nat) : Nat :=
  ((x : Int) + ((x : Int) * s.raster.gen.trim).fdiv (max 1 (frameTicks s))).toNat

/-- Whole line times of the raster clock in `x` ticks of the reference. -/
def clockLines (s : State) (x : Nat) : Nat :=
  x * 256 * frameTicks s / max 1 (s.raster.period * ((frameTicks s : Int) + s.raster.gen.trim).toNat)

/-- The tick of line start `n` of the frame being scanned (R136). -/
def lineTick (s : State) (n : Int) : Nat := s.raster.anchor + clockTicks s ((n + 6).toNat * s.raster.period / 256)

/-- The earliest anchor after a boundary (R138). -/
def earliestAnchor (s : State) (boundary : Nat) : Nat :=
  boundary + clockTicks s ((s.raster.mode.vblank - 6) * linePeriod s.raster.mode / 256)

/-! ### Ports, slices, segments -/

/-- The enabled ports among `lo` to `hi − 1`, ascending. -/
def enabledPorts (s : State) (lo hi : Nat) : List Nat :=
  ((List.range hi).drop lo).filter fun p => portEnabled s p

/-- Enabled ports of the two halves. -/
def halfPorts (s : State) : Nat × Nat := ((enabledPorts s 0 32).length, (enabledPorts s 32 64).length)

/-- Slice width in pixels (R16). -/
def sliceWidth (m : Mode) (ports : Nat × Nat) : Nat :=
  if m.split then m.width / 2 / max 1 ports.1 else m.width / max 1 (ports.1 + ports.2)

/-- First pixel and width of a port's slice; none where the port is not enabled (R16). -/
def slice (s : State) (m : Mode) (p : Nat) : Option (Nat × Nat) :=
  if !portEnabled s p then none
  else
    let w := sliceWidth m (halfPorts s)
    if m.split && 32 ≤ p then some (m.width / 2 + (enabledPorts s 32 p).length * w, w)
    else some ((enabledPorts s 0 p).length * w, w)

/-- First pixel and width of what a stand serves (R16). -/
def standPart (s : State) (m : Mode) (st : Nat) : Nat × Nat :=
  let ps := enabledPorts s (8 * st) (8 * st + 8)
  match ps with
  | [] => (0, 0)
  | p :: _ => (((slice s m p).getD (0, 0)).1, ps.length * sliceWidth m (halfPorts s))

/-- P, the stand-line segments per stand line (R17). -/
def partsOf (s : State) (m : Mode) : Nat :=
  if (List.range 8).any (fun st => decide (960 < (standPart s m st).2)) then 2 else 1

/-- The stand columns of a frame: first pixel and width of each segment, by stand and then from left to right (R17). -/
def columnsOf (s : State) (m : Mode) : List (Nat × Nat) :=
  let parts := partsOf s m
  (List.range 8).flatMap fun st =>
    let (x, w) := standPart s m st
    if parts = 1 then [(x, w)] else [(x, w - w / 2), (x + (w - w / 2), w / 2)]

/-! ### Limits -/

/-- The pixel rate and the Otham payload fit (R25, R27); with no port enabled there is no payload to carry. -/
def rateFits (m : Mode) (ports : Nat) : Bool :=
  decide (m.width * m.height * m.refresh ≤ 8000000000 * 65536)
  && decide (ports = 0 ∨ m.width * m.height * m.refresh * m.sub * 14 * 132 ≤ 6400000000 * 128 * 65536 * ports)

/-- The highest refresh that meets both checks of step 1 of Table 2.7. -/
def rateLimit (m : Mode) (ports : Nat) : Nat :=
  if ports = 0 then 8000000000 * 65536 / (m.width * m.height)
  else min (8000000000 * 65536 / (m.width * m.height))
    (6400000000 * 128 * 65536 * ports / (m.width * m.height * m.sub * 14 * 132))

/-- The line rate fits (R25). -/
def lineRateFits (m : Mode) : Bool := decide ((m.height + m.vblank) * m.refresh ≤ 2200000 * 65536)

/-- Is a width legal for the ports (Table 5.1)? -/
def legalWidth (m : Mode) (ports : Nat × Nat) (w : Nat) : Bool :=
  if m.split then
    decide (1280 ≤ w ∧ w ≤ 10240 ∧ w * m.hRep ≤ 10240) && w % 2 == 0 && decide (0 < ports.1) && ports.1 == ports.2
    && w / 2 % max 1 ports.1 == 0 && decide (w / 2 / max 1 ports.1 ≤ 240)
  else
    let n := ports.1 + ports.2
    decide (640 ≤ w ∧ w ≤ 7680 ∧ w * m.hRep ≤ 7680) && decide (0 < n) && w % max 1 n == 0 && decide (w / max 1 n ≤ 240)

/-- The multiple of which every legal width is one. -/
def widthStep (m : Mode) (ports : Nat × Nat) : Nat :=
  if m.split then 2 * max 1 ports.1 else max 1 (ports.1 + ports.2)

/-- The legal widths in ascending order. -/
def legalWidths (m : Mode) (ports : Nat × Nat) : List Nat :=
  ((List.range 241).map (· * widthStep m ports)).filter (legalWidth m ports)

/-- The width that step 3 leaves: the nearest legal one below, else the lowest above; none where no width is legal. -/
def clampWidth (m : Mode) (ports : Nat × Nat) : Option Nat :=
  let l := legalWidths m ports
  match (l.filter fun w => decide (w ≤ m.width)).getLast? with
  | some w => some w
  | none => l.head?

/-- The height that step 3 leaves. -/
def clampHeight (m : Mode) : Nat := min m.height (4320 / m.rowsPerLine)

/-- Is the mode legal for the enabled ports, with its rates (R139)? -/
def legalMode (s : State) (m : Mode) : Bool :=
  let ports := halfPorts s
  legalWidth m ports m.width && decide (panelRows m ≤ 4320) && rateFits m (ports.1 + ports.2) && lineRateFits m

/-! ### The joint clamp -/

/-- A change that the joint clamp makes: entry, value, cause of R53. -/
abbrev Adjust := Nat × Nat × Int × Nat

/-- Step 1 of Table 2.7. -/
def clampRate (ports : Nat) (m : Mode) : Mode × List Adjust :=
  if rateFits m ports then (m, [])
  else
    let r := rateLimit m ports
    ({ m with refresh := r }, [(hRASTER, Par.RASTER_REFRESH, (r : Int), 2)])

/-- Step 2 of Table 2.7. -/
def clampLines (m : Mode) : Mode × List Adjust :=
  if lineRateFits m then (m, [])
  else
    let v := max 8 (2200000 * 65536 / m.refresh - m.height)
    let m' := { m with vblank := v }
    let a := if v = m.vblank then [] else [(hRASTER, Par.RASTER_VBLANK, (v : Int), 3)]
    if lineRateFits m' then (m', a)
    else
      let r := 2200000 * 65536 / (m.height + v)
      ({ m' with refresh := r }, a ++ [(hRASTER, Par.RASTER_REFRESH, (r : Int), 3)])

/-- Step 3 of Table 2.7, with the one repetition of step 1 after a raised width. -/
def clampGeometry (ports : Nat × Nat) (m : Mode) : Mode × List Adjust :=
  let h := clampHeight m
  let w := (clampWidth m ports).getD m.width
  let aw := if w = m.width then [] else [(hRASTER, Par.RASTER_ACTIVE_WIDTH, (w : Int), 4)]
  let ah := if h = m.height then [] else [(hRASTER, Par.RASTER_ACTIVE_HEIGHT, (h : Int), 4)]
  let m' := { m with width := w, height := h }
  if m.width < w then
    let (m'', ar) := clampRate (ports.1 + ports.2) m'
    (m'', aw ++ ah ++ ar)
  else (m', aw ++ ah)

/-- Step 4 of Table 2.7 for one layer: the position into the area, then the size. -/
def clampRect (m : Mode) (h : Nat) (f : Nat → Nat → Int) : List Adjust :=
  let x := (f h Par.LAYER_X).toNat
  let y := (f h Par.LAYER_Y).toNat
  let w := (f h Par.LAYER_WIDTH).toNat
  let ht := (f h Par.LAYER_HEIGHT).toNat
  let x' := min x (m.width - 1)
  let y' := min y (m.height - 1)
  let w' := min w (m.width - x')
  let ht' := min ht (m.height - y')
  let adj := fun (p a b : Nat) => if a = b then [] else [((h, p, (b : Int), 5) : Adjust)]
  adj Par.LAYER_X x x' ++ adj Par.LAYER_Y y y' ++ adj Par.LAYER_WIDTH w w' ++ adj Par.LAYER_HEIGHT ht ht'

/-- The joint clamp of R52 on values that will be in force: the adjustments in the order of Table 2.7. -/
def jointClamp (ports : Nat × Nat) (f : Nat → Nat → Int) : List Adjust :=
  let (m1, a1) := clampRate (ports.1 + ports.2) (modeOf f)
  let (m2, a2) := clampLines m1
  let (m3, a3) := clampGeometry ports m2
  a1 ++ a2 ++ a3 ++ (List.range 4).flatMap fun n => clampRect m3 (hLAYER (n + 1)) f

/-- The value an entry will have once a closing set, and before it every earlier commit, has applied. -/
def willBe (s : State) (patch : NMap (Option Int)) (h p : Nat) : Int :=
  match mget none patch (cell h p 0) with
  | some v => v
  | none => match commitView s.dict.commits (cell h p 0) with
    | some v => v
    | none => cfgI s h p

/-- The joint clamp applied to a closing set: the set as adjusted, each change counted (R49, R52, R53). -/
def clampPatch (patch : NMap (Option Int)) (s : State) : NMap (Option Int) × State :=
  (jointClamp (halfPorts s) (willBe s patch)).foldl
    (fun x a => (mput none x.1 (cell a.1 a.2.1 0) (some a.2.2.1), countClamp a.1 a.2.1 a.2.2.2 x.2)) (patch, s)

/-! ### DRAM load (R28, R29) -/

/-- The total of Table 1.6 in bytes per second × 64, frames of stress every `every`-th. -/
def dramLoad64 (m : Mode) (every : Nat) : Nat :=
  let px := m.width * m.height * m.refresh / 65536
  let bpp := 3 * depthBits m.depth
  2 * (px * bpp * 65 / 8) + px * m.sub * 65 + px * m.sub * 8 * 64 / every

/-- LOAD_MBS: the Table 1.6 total in MB/s. -/
def loadMbs (m : Mode) : Nat := dramLoad64 m 16 / 64 / 1000000

/-- Does the load exceed what seven channels sustain (R29)? -/
def overloads (m : Mode) : Bool := decide (131400000000 * 64 < dramLoad64 m 16)

/-- The check of R29: at each commit and at each retirement while a channel is retired; the change of the stress rate itself
takes effect at the boundary (Table 1.8). -/
def stressRateCheck (s : State) : State :=
  let beyond := s.dram.retired.isSome && overloads (modeNow s)
  let s := changeRes hDRAM Par.DRAM_LOAD_MBS (loadMbs (modeNow s)) s
  let s := changeRes hDRAM Par.DRAM_SUSTAINED_MBS (if s.dram.retired.isSome then 131400 else 150200) s
  if s.pipe.halved = beyond then s
  else changeRes hDRAM Par.DRAM_STRESS_HALVED (if beyond then 1 else 0) { s with pipe.halved := beyond }

end Sys2Proof.Machine
end

