-- ==== Sys2Proof/Machine/Tone.lean ====
section
/-! DEFINITION. The tone stage (07): normalisation, pre LUT, transfer decode, gamut matrix, post LUT and limiter gain of L0 (R180 to
R189), and the white split (R190).  Steps 1 and 3 lie within one code of the ideal value (R181); which code they give is free
but always the same for the same input, as R193 needs. -/

namespace Sys2Proof.Machine

/-- Values of the dictionary: handle, parameter, element or byte. -/
abbrev Vals := Nat → Nat → Nat → Int

/-- The values in force. -/
def valsNow (s : State) : Vals := fun h p i => cfgI s h p i

/-- The greatest linear current value. -/
abbrev maxLevel : Nat := 1048575

/-! ### Arithmetic -/

/-- Bits of a square root from 2^(`n` − 1) down. -/
def sqrtFrom : Nat → Nat → Nat → Nat
  | 0, _, r => r
  | n + 1, v, r => if (r + 2 ^ n) * (r + 2 ^ n) ≤ v then sqrtFrom n v (r + 2 ^ n) else sqrtFrom n v r

/-- The largest integer whose square does not exceed `v`, for `v` below 2^32 (R186). -/
def isqrt (v : Nat) : Nat := sqrtFrom 16 v 0

/-- 1 in the fixed-point numbers of the transfer functions: 64 fractional bits. -/
abbrev fx1 : Nat := 2 ^ 64

/-- Bits of a base-2 logarithm after the point. -/
def logBits : Nat → Nat → Nat → Nat
  | 0, _, acc => acc
  | n + 1, m, acc =>
    let q := m * m / fx1
    if 2 * fx1 ≤ q then logBits n (q / 2) (acc * 2 + 1) else logBits n q (acc * 2)

/-- Base-2 logarithm of a positive fixed-point number. -/
def fxLog2 (x : Nat) : Int :=
  let e := Nat.log2 x
  let m := if 64 ≤ e then x / 2 ^ (e - 64) else x * 2 ^ (64 - e)
  ((e : Int) - 64) * (fx1 : Int) + (logBits 64 m 0 : Nat)

/-- ln 2. -/
abbrev fxLn2 : Nat := 12786308645202655659

/-- The terms of the exponential series from the `k`-th on. -/
def expTerms : Nat → Nat → Nat → Nat → Nat
  | 0, _, _, _ => 0
  | n + 1, k, term, x => term + expTerms n (k + 1) (term * x / fx1 / (k + 1)) x

/-- 2 to a fixed-point power. -/
def fxExp2 (y : Int) : Nat :=
  let e := y.fdiv (fx1 : Int)
  let f := (y - e * (fx1 : Int)).toNat
  let m := expTerms 30 0 fx1 (f * fxLn2 / fx1)
  if 0 ≤ e then m * 2 ^ e.toNat else m / 2 ^ (-e).toNat

/-- `x` to the power `p` / `q`; 0 of 0. -/
def fxPow (x p q : Nat) : Nat := if x = 0 then 0 else fxExp2 ((fxLog2 x * (p : Int)).fdiv (q : Int))

/-! ### Step 1: normalise and convert (R182) -/

/-- A rational number: numerator and positive denominator. -/
structure Ratio where
  num : Int
  den : Nat
  deriving DecidableEq, Repr

/-- round(E × top) of a ratio clamped to 0 to 1. -/
def roundRatio (r : Ratio) (top : Nat) : Nat :=
  if r.num ≤ 0 then 0 else if (r.den : Int) ≤ r.num then top else (2 * r.num.toNat * top + r.den) / (2 * r.den)

/-- A code normalised as RED, GRN, BLU or Y (Table 7.2). -/
def normLuma (narrow : Bool) (d v : Nat) : Ratio :=
  if narrow then ⟨(v : Int) - 16 * (2 ^ (d - 8) : Nat), 219 * 2 ^ (d - 8)⟩ else ⟨v, 2 ^ d - 1⟩

/-- A code normalised as Cb or Cr (Table 7.2). -/
def normChroma (narrow : Bool) (d v : Nat) : Ratio :=
  if narrow then ⟨(v : Int) - 128 * (2 ^ (d - 8) : Nat), 224 * 2 ^ (d - 8)⟩
  else ⟨(v : Int) - (2 ^ (d - 1) : Nat), 2 ^ d - 1⟩

/-- Kr and Kb × 10 000 of YCC_MATRIX. -/
def yccCoeff (code : Nat) : Nat × Nat :=
  if code = 0 then (2126, 722) else if code = 1 then (2627, 593) else (2990, 1140)

/-- Sum of two ratios. -/
def addRatio (a b : Ratio) : Ratio := ⟨a.num * b.den + b.num * a.den, a.den * b.den⟩

/-- A ratio times `k` / 10 000. -/
def scaleRatio (k : Int) (a : Ratio) : Ratio := ⟨a.num * k, a.den * 10000⟩

/-- The normalised R′G′B′ of three component codes, before rounding (R182). -/
def normalise (narrow ycc : Bool) (matrix d : Nat) (c : List Nat) : List Ratio :=
  let c0 := c.getD 0 0
  let c1 := c.getD 1 0
  let c2 := c.getD 2 0
  if !ycc then [normLuma narrow d c0, normLuma narrow d c1, normLuma narrow d c2]
  else
    let (kr, kb) := yccCoeff matrix
    let y := normLuma narrow d c0
    let r := addRatio y (scaleRatio (2 * (10000 - kr)) (normChroma narrow d c2))
    let b := addRatio y (scaleRatio (2 * (10000 - kb)) (normChroma narrow d c1))
    let g := addRatio y (addRatio (scaleRatio (-(kr : Int)) r) (scaleRatio (-(kb : Int)) b))
    [r, ⟨g.num * 10000, g.den * (10000 - kr - kb)⟩, b]

/-- A number that names a list of numbers below 2^32. -/
def packKey (l : List Nat) : Nat := l.foldl (fun a x => a * 4294967296 + x) 1

/-- A value within one code of the ideal (R181): which one is free, and the same for the same step and operands. -/
def within1 (step key ideal top : Nat) : Nat :=
  min top (ideal + Config.toneChoice step key 0 % 3 - 1)

/-- Step 1 (R182). -/
def toneStep1 (f : Vals) (m : Mode) (c : List Nat) : List Nat :=
  let narrow := f hTONE Par.TONE_IN_RANGE 0 != 0
  let matrix := (f hTONE Par.TONE_YCC_MATRIX 0).toNat
  let key := packKey ([if narrow then 1 else 0, matrix, m.depth, m.colour] ++ c)
  (normalise narrow (m.colour == 1) matrix (depthBits m.depth) c).zipIdx.map fun r =>
    within1 1 (key * 4 + r.2) (roundRatio r.1 65535) 65535

/-! ### Step 2: pre LUT (R183) -/

/-- Two bytes of a table. -/
def table2 (f : Vals) (h p e : Nat) : Nat := (f h p (2 * e)).toNat + 256 * (f h p (2 * e + 1)).toNat

/-- Four bytes of a table. -/
def table4 (f : Vals) (h p e : Nat) : Nat := table2 f h p (2 * e) + 65536 * table2 f h p (2 * e + 1)

/-- Interpolation between two entries at `n` sixteenths. -/
def lerp16 (a b n : Nat) : Nat := ((a : Int) + (((b : Int) - a) * n + 8).fdiv 16).toNat

/-- Step 2 of one component. -/
def preLut (f : Vals) (c x : Nat) : Nat :=
  if f hTONE Par.TONE_PRE_LUT_ENABLE 0 = 0 then x
  else
    let i := x / 16
    lerp16 (table2 f hTONE Par.TONE_PRE_LUT (c * 4096 + i)) (table2 f hTONE Par.TONE_PRE_LUT (c * 4096 + min (i + 1) 4095))
      (x % 16)

/-! ### Step 3: transfer decode (R184, Table 7.3) -/

/-- x / 65 535 as a fixed-point number. -/
def fxOf (x : Nat) : Nat := x * fx1 / 65535

/-- The decoding function of IEC 61966-2-1. -/
def srgbF (x : Nat) : Nat :=
  if x * 100000 ≤ 4045 * fx1 then x * 100 / 1292 else fxPow ((x + fx1 * 55 / 1000) * 1000 / 1055) 12 5

/-- The EOTF of BT.1886 with L_W = 1 and L_B = `lb` / 65 536: its two constants reduce to one black level. -/
def bt1886F (lb x : Nat) : Nat :=
  let b := fxPow (lb * fx1 / 65536) 5 12
  fxPow (b + (fx1 - b) * x / fx1) 12 5

/-- The EOTF of SMPTE ST 2084 divided by 10 000. -/
def pqF (x : Nat) : Nat :=
  let e := fxPow x 32 2523
  let c1 := fx1 * 3424 / 4096
  let num := e - c1
  let den := fx1 * 2413 / 128 - e * 2392 / 128
  fxPow (num * fx1 / den) 8192 1305

/-- The inverse OETF of HLG (BT.2100). -/
def hlgE (x : Nat) : Nat :=
  if 2 * x ≤ fx1 then x * x / fx1 / 3
  else
    let t := ((x : Int) - (fx1 * 55991073 / 100000000 : Nat)) * 100000000
    let y := (t * (fx1 : Int)).fdiv ((17883277 * fxLn2 : Nat) : Int)
    (fxExp2 y + fx1 * 28466892 / 100000000) / 12

/-- A fixed-point number as a 20-bit code, rounded. -/
def level20 (x : Nat) : Nat := min maxLevel ((2 * x * maxLevel + fx1) / (2 * fx1))

/-- Ideal outputs of step 3 of a triple. -/
def transferIdeal (eotf black gamma : Nat) (xs : List Nat) : List Nat :=
  match eotf with
  | 0 => xs.map fun x => level20 (srgbF (fxOf x))
  | 1 => xs.map fun x => level20 (bt1886F black (fxOf x))
  | 2 => xs.map fun x => level20 (pqF (fxOf x))
  | 3 =>
    let es := xs.map fun x => hlgE (fxOf x)
    let ys := (2627 * es.getD 0 0 + 6780 * es.getD 1 0 + 593 * es.getD 2 0) / 10000
    let g := fxPow ys (gamma - 32768) 32768
    es.map fun e => level20 (e * g / fx1)
  | _ => xs.map fun x => level20 (fxOf x)

/-- Step 3 (R181, R184). -/
def toneStep3 (f : Vals) (xs : List Nat) : List Nat :=
  let eotf := (f hTONE Par.TONE_EOTF 0).toNat
  let black := (f hTONE Par.TONE_BT1886_BLACK 0).toNat
  let gamma := (f hTONE Par.TONE_HLG_GAMMA 0).toNat
  let key := packKey ([eotf, black, gamma] ++ xs)
  (transferIdeal eotf black gamma xs).zipIdx.map fun y => within1 3 (key * 4 + y.2) y.1 maxLevel

/-! ### Steps 4 to 6 -/

/-- Step 4: the gamut matrix and the offsets (R185). -/
def gamut (f : Vals) (v : List Nat) : List Nat :=
  (List.range 3).map fun r =>
    let m := fun c => f hTONE Par.TONE_MATRIX (3 * r + c) * ((v.getD c 0 : Nat) : Int)
    (clampI ((m 0 + m 1 + m 2 + 4096).fdiv 8192 + f hTONE Par.TONE_OFFSET r) 0 maxLevel).toNat

/-- Step 5 of one component (R186). -/
def postLut (f : Vals) (c v : Nat) : Nat :=
  if f hTONE Par.TONE_POST_LUT_ENABLE 0 = 0 then v
  else
    let q := isqrt (v * 4096)
    let i := q / 16
    let e := fun k => min maxLevel (table4 f hTONE Par.TONE_POST_LUT (c * 4096 + k))
    lerp16 (e i) (e (min (i + 1) 4095)) (q % 16)

/-- Step 6 (R189). -/
def limiterGain (g v : Nat) : Nat := (v * g + 32768) / 65536

/-- The tone stage of one pixel of L0: three component codes to three linear values (Table 7.1). -/
def tonePixel (f : Vals) (m : Mode) (gain : Nat) (c : List Nat) : List Nat :=
  let x := (toneStep1 f m c).zipIdx.map fun x => preLut f x.2 x.1
  let v := gamut f (toneStep3 f x)
  v.zipIdx.map fun x => limiterGain gain (postLut f x.2 x.1)

/-! ### White split (R190) -/

/-- The subpixel values of a composed pixel: three, or four with WHT. -/
def whiteSplit (f : Vals) (m : Mode) (v : List Nat) : List Nat :=
  if m.sub = 3 then v
  else
    let k := fun c => (f hPIPE Par.PIPE_WHT_MIX c).toNat
    let least := (List.range 3).foldl (fun a c => min a (v.getD c 0 * 32768 / k c)) (v.getD 0 0 * 32768 / k 0)
    let wht := min (least * (f hPIPE Par.PIPE_WHT_SHARE 0).toNat / 256) maxLevel
    (List.range 3).map (fun c => v.getD c 0 - (wht * k c + 16384) / 32768) ++ [wht]

/-! ### The limiter (R187, R188) -/

/-- Demand without limiting. -/
def limiterDemand (mk g : Nat) : Nat := mk * 65536 / g

/-- The target gain. -/
def limiterTarget (apl gainMin d : Nat) : Nat := max (if d = 0 then 65536 else min 65536 (apl * 65536 / d)) gainMin

/-- The gain of the next frame (R188). -/
def limiterNext (apl gainMin attack release ticks mk g : Nat) : Nat :=
  let t := limiterTarget apl gainMin (limiterDemand mk g)
  let tau := if t < g then attack else release
  let alpha := min 65536 (ticks * 65536 / (tau * 800000))
  ((g : Int) + (((t : Int) - g) * alpha).fdiv 65536).toNat

end Sys2Proof.Machine
end

