-- ==== Sys2Proof/Machine/Dither.lean ====
section
/-! DEFINITION. Dither and driver code (09): the driver code of a subpixel (R233, R234, R236), the dither threshold (R237, R238)
and the temporal phase (R239). -/

namespace Sys2Proof.Machine

/-- An entry of CODE_LUT as the stage uses it (R234). -/
def codeLut (f : Vals) (c i : Nat) : Nat := min 4194048 (table4 f hDITHER Par.DITHER_CODE_LUT (c * 4096 + i))

/-- y of R233: the code with 8 fractional bits. -/
def codeY (f : Vals) (c v : Nat) : Nat :=
  let q := isqrt (v * 4096)
  let i := q / 16
  lerp16 (codeLut f c i) (codeLut f c (min (i + 1) 4095)) (q % 16)

/-- The code limits, and whether they changed the code (R233, R236). -/
def limitCode (f : Vals) (c code : Nat) : Nat × Bool :=
  let new := min (max code (f hDITHER Par.DITHER_CODE_MIN c).toNat) (f hDITHER Par.DITHER_CODE_MAX c).toNat
  (new, new != code)

/-- ZERO_CODE of a colour (R240). -/
def zeroCode (f : Vals) (c : Nat) : Nat := (f hDITHER Par.DITHER_ZERO_CODE c).toNat

/-- The driver code of a compensated value with threshold `t`: the code, y, and whether a limit changed it (R233). -/
def driverCode (f : Vals) (c v t : Nat) : Nat × Nat × Bool :=
  if v = 0 then (zeroCode f c, 0, false)
  else
    let y := codeY f c v
    let r := limitCode f c ((y + t) / 256)
    (r.1, y, r.2)

/-- The mask's place of a driven position at a phase (Table 9.1). -/
def maskPlace (phase xd yd : Nat) : Nat × Nat :=
  let u := xd % 64
  let w := yd % 64
  match phase with
  | 0 => (u, w)
  | 1 => (63 - w, u)
  | 2 => (63 - u, 63 - w)
  | _ => (w, 63 - u)

/-- The threshold of R237. -/
def threshold (f : Vals) (phase c xd yd : Nat) : Nat :=
  let mode := f hDITHER Par.DITHER_MODE 0
  if mode = 0 then 128
  else
    let (mx, my) := maskPlace (if mode = 1 then 0 else phase) xd yd
    (f hDITHER Par.DITHER_MASK (c * 4096 + my * 64 + mx)).toNat

/-- The phase and whether the frame is frozen, after a frame of `d` ticks (R239). -/
def nextPhase (freezeHz phase d : Nat) : Nat × Bool :=
  if d * freezeHz ≤ rasterHz * 65536 then ((phase + 1) % 4, false) else (phase, true)

end Sys2Proof.Machine
end

