-- ==== Sys2Proof/Machine/Overdrive.lean ====
section
/-! DEFINITION. Overdrive (07): the panel temperature and its plane (R194), the age position (R195, R196) and the correction of a
subpixel from its previous level (R197, R198). -/

namespace Sys2Proof.Machine

/-- TEMP_PLANE of a plane, raw. -/
def tempPlane (f : Vals) (j : Nat) : Int := f hOVERDRIVE Par.OVERDRIVE_TEMP_PLANE j

/-- Plane t0 and weight wt of a temperature (R194). -/
def tempPosition (f : Vals) (t : Int) : Nat × Nat :=
  let t0 := [1, 2].foldl (fun a j => if tempPlane f j ≤ t then j else a) 0
  let p0 := tempPlane f t0
  let p1 := tempPlane f (t0 + 1)
  (t0, if p1 ≤ p0 then 0 else (clampI (((t - p0) * 256 + (p1 - p0) / 2).fdiv (p1 - p0)) 0 256).toNat)

/-- The age position of a block stress (R196). -/
def agePosition (f : Vals) (st : Nat) : Nat :=
  let a := fun k => (f hOVERDRIVE Par.OVERDRIVE_AGE_STRESS k).toNat
  if st ≤ a 0 then 0
  else if st < a 1 then (st - a 0) * 64 / (a 1 - a 0)
  else if st < a 2 then 64 + (st - a 1) * 64 / (a 2 - a 1)
  else 128

/-- Panel columns. -/
def panelColumns (m : Mode) : Nat := m.width * m.hRep

/-- A node of the overdrive table, signed (R197). -/
def odNode (f : Vals) (c tp ap i j : Nat) : Int :=
  let o := 2 * ((((c * 4 + tp) * 3 + ap) * 33 + i) * 33 + j)
  toSigned 16 ((f hOVERDRIVE Par.OVERDRIVE_TABLE o).toNat + 256 * (f hOVERDRIVE Par.OVERDRIVE_TABLE (o + 1)).toNat)

/-- The corrected value of a subpixel of colour `c` (R198). -/
def overdrive (f : Vals) (t0 wt ap strength c prev next : Nat) : Nat :=
  let pp := isqrt (4 * prev)
  let i := pp / 64
  let fi := pp % 64
  let pn := isqrt (4 * next)
  let j := pn / 64
  let fj := pn % 64
  let a0 := min (ap / 64) 1
  let wa := ap - 64 * a0
  let b := fun (dt da : Nat) =>
    odNode f c (t0 + dt) (a0 + da) i j * ((64 - fi) * (64 - fj) : Nat)
    + odNode f c (t0 + dt) (a0 + da) (i + 1) j * (fi * (64 - fj) : Nat)
    + odNode f c (t0 + dt) (a0 + da) i (j + 1) * ((64 - fi) * fj : Nat)
    + odNode f c (t0 + dt) (a0 + da) (i + 1) (j + 1) * (fi * fj : Nat)
  let m := fun (da : Nat) => b 0 da * (256 - wt : Nat) + b 1 da * (wt : Nat)
  let corr := m 0 * (64 - wa : Nat) + m 1 * (wa : Nat)
  (clampI ((next : Int) + (corr * (strength : Nat) + 268435456).fdiv 536870912) 0 maxLevel).toNat

end Sys2Proof.Machine
end

