-- ==== Sys2Proof/Machine/Comp.lean ====
section
/-! DEFINITION. The arithmetic of compensation (08): the current model (R204 to R206), the residual of a driven subpixel (R207), the
static-region limiter (R209, R210), the defect list (R211 to R213), sensing (R215, R216) and stress (R220, R221). -/

namespace Sys2Proof.Machine

/-! ### The current model -/

/-- bil of R204 over a grid of nodes. -/
def bil (t : Nat → Nat → Int) (nx ny fx fy : Nat) : Int :=
  (((16 - fx) * (16 - fy) : Nat) * t nx ny + (fx * (16 - fy) : Nat) * t (nx + 1) ny
    + ((16 - fx) * fy : Nat) * t nx (ny + 1) + (fx * fy : Nat) * t (nx + 1) (ny + 1) + 128).fdiv 256

/-- Number of a node and colour in the node grids (R205). -/
def nodeKey (nx ny c : Nat) : Nat := (ny * 641 + nx) * 4 + c

/-- Block gain of a node. -/
def nodeGain (f : Vals) (c nx ny : Nat) : Int :=
  let o := nodeKey nx ny c * 4
  f hCOMP Par.COMP_BLOCK_MODEL o + 256 * f hCOMP Par.COMP_BLOCK_MODEL (o + 1)

/-- Block offset of a node, signed. -/
def nodeOffset (f : Vals) (c nx ny : Nat) : Int :=
  let o := nodeKey nx ny c * 4
  toSigned 16 ((f hCOMP Par.COMP_BLOCK_MODEL (o + 2)).toNat + 256 * (f hCOMP Par.COMP_BLOCK_MODEL (o + 3)).toNat)

/-- Is a step of compensation on: ENABLE and its own enable (R202)? -/
def compOn (f : Vals) (p : Nat) : Bool := f hCOMP Par.COMP_ENABLE 0 != 0 && f hCOMP p 0 != 0

/-- Age gain of a node: 1.0 where none has been built. -/
def nodeAge (ages : NMap Nat) (c nx ny : Nat) : Int := ((mget 16384 ages (nodeKey nx ny c) : Nat) : Int)

/-- gt of R204 for residual `r`. -/
def gainTotal (f : Vals) (ages : NMap Nat) (x y c : Nat) (r : Int) : Int :=
  let g := if compOn f Par.COMP_BLOCK_ENABLE then bil (nodeGain f c) (x / 16) (y / 16) (x % 16) (y % 16) else 16384
  let a := if compOn f Par.COMP_AGE_ENABLE then bil (nodeAge ages c) (x / 16) (y / 16) (x % 16) (y % 16) else 16384
  let r := if compOn f Par.COMP_RES_ENABLE then r else 0
  (g * a + 8192).fdiv 16384 + r * f hCOMP Par.COMP_RES_STEP c

/-- Step 3 of Table 8.1 (R204). -/
def currentModel (f : Vals) (ages : NMap Nat) (x y c : Nat) (r v : Int) : Nat :=
  let o := if compOn f Par.COMP_BLOCK_ENABLE then bil (nodeOffset f c) (x / 16) (y / 16) (x % 16) (y % 16) else 0
  (clampI ((v * gainTotal f ages x y c r + 8192).fdiv 16384 + o) 0 maxLevel).toNat

/-- AGE_GAIN of a block stress by the 17-point curve of a colour (R206). -/
def ageGainOf (f : Vals) (c st : Nat) : Nat :=
  let k := st / 268435456
  let e := fun k => f hCOMP Par.COMP_AGE_CURVE (17 * c + k)
  (e k + ((e (k + 1) - e k) * (st % 268435456 : Nat)).fdiv 268435456).toNat

/-- Block of a 32 × 32 grid and colour: key of the maps of block stress and age positions. -/
def blockKey (bx by_ c : Nat) : Nat := (by_ * 320 + bx) * 4 + c

/-! ### Residuals -/

/-- Byte offset of a panel subpixel (R207). -/
def panelOffset (m : Mode) (x y c : Nat) : Nat := (y * panelColumns m + x) * m.sub + c

/-- The panel subpixels that driven pixel (xd, yd) drives: their columns and rows (R140, R203). -/
def drivenCells (m : Mode) (xd yd : Nat) : List (Nat × Nat) :=
  (List.range m.rowsPerLine).flatMap fun j => (List.range m.hRep).map fun i => (xd * m.hRep + i, yd * m.rowsPerLine + j)

/-- The residual of a driven subpixel: the mean of its panel subpixels', rounded down (R207). -/
def drivenResidual (map : NMap Int) (m : Mode) (xd yd c : Nat) : Int :=
  let rs := (drivenCells m xd yd).map fun p => mget 0 map (panelOffset m p.1 p.2 c)
  (rs.foldl (· + ·) 0).fdiv rs.length

/-! ### Static-region limiter -/

/-- Block counts of the panel, 16 × 16 (R209). -/
def srlBlocks (m : Mode) : Nat × Nat := ((panelColumns m + 15) / 16, (panelRows m + 15) / 16)

/-- Key of a block's record. -/
def srlKey (bx by_ : Nat) : Nat := by_ * 640 + bx

/-- The dim amount in force at a panel position (R210). -/
def dimAt (srl : NMap (Nat × Nat × Nat)) (m : Mode) (x y : Nat) : Int :=
  let (bw, bh) := srlBlocks m
  let u := x - 8
  let bx := min (u / 16) (bw - 2)
  let fx := min (u - 16 * bx) 16
  let w := y - 8
  let by_ := min (w / 16) (bh - 2)
  let fy := min (w - 16 * by_) 16
  bil (fun bx by_ => (((mget (0, 0, 0) srl (srlKey bx by_)).2.1 : Nat) : Int)) bx by_ fx fy

/-- Step 1 of Table 8.1 on one value (R210). -/
def dimValue (dd : Int) (v : Nat) : Nat := (((v : Int) * (65536 - dd) + 32768).fdiv 65536).toNat

/-- The new dim amount of a block (R210). -/
def nextDim (static peak srlTime floor depth fade recover ticks d : Nat) : Nat :=
  let target := if srlTime * 1000 ≤ static ∧ floor ≤ peak then depth else 0
  if d < target then min target (d + depth * ticks / (fade * 800000))
  else max target (d - depth * ticks / (recover * 800000))

/-! ### Defects -/

/-- An entry of the defect list (Table 8.2). -/
structure Defect where
  column : Nat
  row    : Nat
  colour : Nat
  type   : Nat
  redist : Bool
  auto   : Bool
  keep   : Nat
  wset   : Nat
  deriving DecidableEq, Repr

/-- An entry from its bytes. -/
def defectOf (b : List Nat) : Defect :=
  let k := b.getD 4 0
  ⟨leNat (b.take 2), leNat ((b.drop 2).take 2), k % 4, k / 4 % 4, k.testBit 4, k.testBit 5, b.getD 5 0, b.getD 6 0 % 16⟩

/-- Its bytes. -/
def defectBytes (d : Defect) : List Nat :=
  u16 d.column ++ u16 d.row
  ++ [d.colour + 4 * d.type + (if d.redist then 16 else 0) + (if d.auto then 32 else 0), d.keep, d.wset, 0]

/-- The entries of a list's bytes up to the first with row 0xFFFF or `n` entries, and the rest of an erased list is empty. -/
def readDefects (get : Nat → Nat) : Nat → Nat → List Defect
  | 0, _ => []
  | n + 1, i =>
    let d := defectOf ((List.range 8).map fun b => get (8 * i + b))
    if d.row = 0xFFFF then [] else d :: readDefects get n (i + 1)

/-- Place of an entry in the order of R211. -/
def defectOrder (d : Defect) : Nat := (d.row * 65536 + d.column) * 4 + d.colour

/-- Lies an entry on the panel (R211)? -/
def onPanel (m : Mode) (d : Defect) : Bool :=
  decide (d.column < panelColumns m) && decide (d.row < panelRows m) && decide (d.colour < m.sub)

/-- The entries of a list that stand, in order: none out of order, repeated or outside the panel (R211). -/
def validDefects (m : Mode) : Option Nat → List Defect → List Defect
  | _, [] => []
  | last, d :: ds =>
    let k := defectOrder d
    let after := match last with
      | none => true
      | some l => decide (l < k)
    if after && onPanel m d then d :: validDefects m (some k) ds
    else validDefects m (if after then some k else last) ds

/-- The driven subpixel of an entry: line, column, colour (R213). -/
def drivenOf (m : Mode) (d : Defect) : Nat × Nat × Nat := (d.row / m.rowsPerLine, d.column / m.hRep, d.colour)

/-- The entry that applies to a driven subpixel: an OFF entry wins, else the first (R213). -/
def defectAt (m : Mode) (ds : List Defect) (y x c : Nat) : Option Defect :=
  let here := ds.filter fun d => drivenOf m d == (y, x, c)
  (here.find? fun d => !d.redist).or here.head?

/-- The neighbours of a driven position: columns and lines, as offsets from it (R212). -/
def neighbourOf (x y n : Nat) : Option (Nat × Nat) :=
  match n with
  | 0 => if x = 0 then none else some (x - 1, y)
  | 1 => some (x + 1, y)
  | 2 => if x = 0 then none else some (x - 1, y + 1)
  | 3 => some (x, y + 1)
  | _ => some (x + 1, y + 1)

/-- The kept part of a REDIST defect, and what it hands on (R212). -/
def keptPart (d : Defect) (v1 : Nat) : Nat := v1 * d.keep / 256

/-- The share of neighbour `n` of a defect (R212). -/
def share (f : Vals) (d : Defect) (v1 n : Nat) : Nat :=
  ((v1 - keptPart d v1) * (f hCOMP Par.COMP_DEFECT_WEIGHTS (5 * d.wset + n)).toNat + 128) / 256

/-! ### Sensing -/

/-- Subpixels of a port's slice on one panel row. -/
def portRow (m : Mode) (ports : Nat × Nat) : Nat := sliceWidth m ports * m.hRep * m.sub

/-- The panel subpixel of a port's `k`-th place in the sweep: panel column, panel row, colour (R215). -/
def sweepPlace (s : State) (m : Mode) (p k : Nat) : Nat × Nat × Nat :=
  let n := max 1 (portRow m (halfPorts s))
  let i := k % n
  (((slice s m p).getD (0, 0)).1 * m.hRep + i / m.sub, k / n, i % m.sub)

/-- Places of a sweep of one port. -/
def sweepLength (s : State) (m : Mode) : Nat := portRow m (halfPorts s) * panelRows m

/-- The code of a sense request (R216, R241). -/
def senseCode (f : Vals) (ages : NMap Nat) (x y c : Nat) (r : Int) : Nat :=
  (driverCode f c (currentModel f ages x y c r (f hCOMP Par.COMP_SENSE_LEVEL c)) 128).1

/-- m of R216. -/
def senseCurrent (f : Vals) (c raw : Nat) : Nat := (raw * (f hCOMP Par.COMP_SENSE_SCALE c).toNat + 32768) / 65536

/-- The correction of a residual (R216). -/
def senseStep (f : Vals) (c m : Nat) (gt : Int) : Int :=
  let err := f hCOMP Par.COMP_SENSE_LEVEL c - (m : Int)
  let stepMax := f hCOMP Par.COMP_STEP_MAX 0
  if (err.natAbs : Int) ≤ f hCOMP Par.COMP_DEADBAND 0 ∨ m = 0 then 0
  else clampI ((gt * err * f hCOMP Par.COMP_LOOP_GAIN 0).fdiv ((m : Int) * f hCOMP Par.COMP_RES_STEP c * 256))
    (-stepMax) stepMax

/-- The types for which a sensed subpixel is a candidate: 0 dark, 1 bright, 2 weak (R217). -/
def candidateTypes (f : Vals) (c m : Nat) (weak : Bool) : List Nat :=
  let l := (f hCOMP Par.COMP_SENSE_LEVEL c).toNat
  (if m < l * (f hCOMP Par.COMP_DARK_FRAC 0).toNat / 256 then [0] else [])
  ++ (if l * (f hCOMP Par.COMP_BRIGHT_FRAC 0).toNat / 256 < m then [1] else []) ++ (if weak then [2] else [])

/-! ### Stress -/

/-- P of R220, with `p0` 16 or 32. -/
def stressPeriod (m : Mode) (p0 : Nat) : Nat := p0 * m.hRep * m.rowsPerLine

/-- The temperature factor of a colour, uQ4.12 (R221). -/
def tempFactor (f : Vals) (c : Nat) (t : Int) : Int :=
  let e := fun k => f hCOMP Par.COMP_TEMP_FACTOR (17 * c + k)
  let u := clampI (t + 40 * 256) 0 (160 * 256)
  let k := (u / 2560).toNat
  if k = 16 then e 16 else e k + ((e (k + 1) - e k) * (u % 2560)).fdiv 2560

/-- An accumulator after one update (R221): `rnd` is a fresh draw below 2^44. -/
def stressAdd (acc code : Nat) (factor : Int) (dt rnd : Nat) : Nat :=
  min (acc + ((code : Int) * factor * dt + rnd).toNat / 17592186044416) 4294967295

end Sys2Proof.Machine
end

