-- ==== Sys2Proof/Machine/Pstore.lean ====
section
/-! DEFINITION. The persistent store (15): the end of a page program and what it completes (R379, R382, R399), blaze and repair
records (R396, R397), STORE (R56, R384 to R387), and the reading of the store at a restart (R388 to R398). -/

namespace Sys2Proof.Machine

/-- Bytes of the store. -/
def storeAt (s : State) (a n : Nat) : List Nat := loadBytes 0#8 (mslice s.pstore.mem a (a + n)) a n

/-- The numbers of the records of `size` bytes from `base` that hold a byte other than 0, lowest first. -/
def touched (m : Mem) (base size n : Nat) : List Nat :=
  ((mslice m base (base + size * n)).map fun e => (e.1 - base) / size).eraseDups

/-- Bytes loaded into the page buffer from a place in the page. -/
def loadAt (off : Nat) (bs : List Nat) : List (Nat × Nat) := bs.zipIdx.map fun b => (off + b.2, b.1)

/-- The loaded bytes of a program reach its page. -/
def writeProgram (p : Program) (s : State) : State :=
  { s with pstore.mem := p.bytes.foldl (fun m b => mput 0#8 m (256 * p.page + b.1) (BitVec.ofNat 8 b.2)) s.pstore.mem }

/-- The loaded bytes of a program that failed or was torn: undefined (R380). -/
def tearProgram (p : Program) (s : State) : State :=
  let (vs, s) := drawBytes p.bytes.length s
  writeProgram { p with bytes := List.zipWith (fun b v => (b.1, v)) p.bytes vs } s

/-! ### Blaze and repair records -/

/-- Is a 16-byte record's CRC-16 right (R396, R397)? -/
def recordOk (bs : List Nat) : Bool := crc16 (bs.take 14) == leNat (bs.drop 14)

/-- The blaze slots that hold valid records. -/
def blazeSlots (s : State) : List Nat :=
  (touched s.pstore.mem 0x1000 16 256).filter fun i => recordOk (storeAt s (0x1000 + 16 * i) 16)

/-- The slots of a record region that a program in the queue, or in progress, will fill. -/
def awaited (s : State) (page0 : Nat) : List Nat :=
  (s.pstore.queue ++ (s.pstore.current.map (·.1)).toList).filterMap fun p =>
    match p.bytes with
    | b :: _ => if p.cls = 1 ∧ page0 ≤ p.page ∧ p.page < page0 + 16 then some ((256 * (p.page - page0) + b.1) / 16) else none
    | [] => none

/-- The lowest of `n` slots not among those used. -/
def lowestFree (n : Nat) (usedSlots : List Nat) : Option Nat := (List.range n).find? fun i => !usedSlots.contains i

/-- A blaze record's 16 bytes (Table 15.7). -/
def blazeBytes (handle kind cause detail seconds : Nat) : List Nat :=
  let b := u16 handle ++ [kind, cause] ++ u32 detail ++ u32 seconds ++ [0, 0]
  b ++ u16 (crc16 b)

/-- Can the blaze region take another record? -/
def blazeRoom (s : State) : Option Nat := lowestFree 256 (blazeSlots s ++ awaited s 16)

/-- Queues a blaze record (R396): with the region full it applies for this run only. -/
def addBlaze (handle kind cause detail : Nat) (s : State) : State :=
  match blazeRoom s with
  | none => raise 0x0905 hPSTORE (u16 handle ++ [kind]) { s with pstore.blazeFull := true }
  | some i =>
    queueProgram ⟨1, 16 + i / 16, loadAt (16 * (i % 16)) (blazeBytes handle kind cause detail (opSeconds s)),
      .blaze handle kind⟩ s

/-- Queues a blaze record and counts it among those in force in this run. -/
def fellRecord (handle kind cause detail : Nat) (s : State) : State :=
  let s := addBlaze handle kind cause detail s
  { s with pstore.blaze := s.pstore.blaze ++ [(handle, kind, detail)] }

/-- The record in force of a handle and detail: the last of KIND 0x01 or 0x03 (R456). -/
def inForce (s : State) (handle : Nat) : Bool :=
  match (s.pstore.blaze.filter fun b => b.1 == handle && (b.2.1 == 1 || b.2.1 == 3) && b.2.2 == 0).getLast? with
  | some b => b.2.1 == 1
  | none => false

/-- The repair slots that hold a pending record (R397). -/
def repairSlots (s : State) : List Nat :=
  (touched s.pstore.mem 0x8000 16 128).filter fun i =>
    let b := storeAt s (0x8000 + 16 * i) 16
    recordOk b && b.getD 4 0 == 0xA5

/-- A repair record (R397). -/
def repairBytes (channel bank row : Nat) : List Nat :=
  let b := [channel, bank] ++ u16 row ++ [0xA5] ++ List.replicate 9 0
  b ++ u16 (crc16 b)

/-- Can the repair region take another record? -/
def repairRoom (s : State) : Option Nat := lowestFree 128 (repairSlots s ++ awaited s 128)

/-- REPAIRS_PENDING. -/
def countRepairs (s : State) : State :=
  setRes hPSTORE Par.PSTORE_REPAIRS_PENDING (min 128 s.pstore.repairs.length) s

/-- Queues a repair record where there is room (R397). -/
def addRepair (channel bank row : Nat) (s : State) : State :=
  match repairRoom s with
  | none => raise 0x090A hPSTORE ([channel, bank] ++ u16 row) s
  | some i =>
    countRepairs (queueProgram ⟨1, 128 + i / 16, loadAt (16 * (i % 16)) (repairBytes channel bank row),
        .repair channel bank row true⟩
      { s with pstore.repairs := s.pstore.repairs ++ [(channel, bank, row)] })

/-- Queues the deletion of a row's repair record: STATE becomes 0x00 (R397). -/
def dropRepair (channel bank row : Nat) (s : State) : State :=
  let here := (repairSlots s).filter fun i =>
    storeAt s (0x8000 + 16 * i) 4 == [channel, bank] ++ u16 row
  let s := here.foldl (fun s i => queueProgram ⟨1, 128 + i / 16, [(16 * (i % 16) + 4, 0)], .repair channel bank row false⟩ s)
    { s with pstore.repairs := s.pstore.repairs.filter (· != (channel, bank, row)) }
  countRepairs s

/-! ### STORE -/

/-- One record of the image (R385). -/
def imageRecord (s : State) (h : Nat) (e : Entry) : List Nat :=
  let v := if isBlob e then viewBlob s h e.param 0 (valueSize e) else viewBytes s h e
  u16 h ++ u16 e.param ++ u16 v.length ++ v

/-- The persistent entries of a unit. -/
def persistent (h : Nat) : List Entry := (entriesOf (classOf h)).filter fun e => e.persist && presentOn h e

/-- The records of the capture, in ascending handle and parameter order. -/
def captureRecords (s : State) : List (List Nat) :=
  allHandles.flatMap fun h => (persistent h).map fun e => imageRecord s h e

/-- Most bytes of an image (R384). -/
abbrev imageMax : Nat := 98048

/-- First page of a dictionary slot. -/
def slotPage (slotB : Bool) : Nat := if slotB then 640 else 256

/-- Bytes 0 to 254 of a slot header (Table 15.3). -/
def headerBytes (seq len crc tag records seconds : Nat) : List Nat :=
  let b := [0x4B, 0x4C, 0x44, 0x49] ++ u32 seq ++ u32 len ++ u32 crc ++ u16 1 ++ u16 tag ++ u32 records ++ u32 seconds
    ++ List.replicate 220 0
  b ++ u32 (crc32c b) ++ [0, 0, 0]

/-- The pages of an image, in ascending order; `n` bounds their number. -/
def imagePages (page : Nat) (why : Purpose) : Nat → List Nat → List Program
  | 0, _ => []
  | n + 1, bs => if bs = [] then [] else
      ⟨5, page, loadAt 0 (bs.take 256), why⟩ :: imagePages (page + 1) why n (bs.drop 256)

/-- The programs of steps 1 to 4 of R387. -/
def storePrograms (slotB : Bool) (why last : Purpose) (header image : List Nat) : List Program :=
  let p := slotPage slotB
  [⟨5, p, [(255, 0)], why⟩] ++ imagePages (p + 1) why 383 image
  ++ [⟨5, p, loadAt 0 header, why⟩, ⟨5, p, [(255, 0xA5)], last⟩]

/-- STORE_DONE and STORE_OUTCOME of a STORE that ends, with its event. -/
def endStore (ok : Bool) (stage : List Nat) (s : State) : State :=
  let tag := s.pstore.storeTag
  let s := setRes hDEV Par.DEV_STORE_DONE tag (setRes hDEV Par.DEV_STORE_OUTCOME (if ok then 1 else 2) s)
  raise (if ok then 0x0A0A else 0x0A0B) hDEV (u16 tag ++ stage) s

/-- A STORE captures and queues its programs (R56, R387).  The target is the slot not in force; slot A, SEQUENCE 1, where
neither is valid. -/
def beginStore (tag : Nat) (s : State) : State :=
  let recs := captureRecords s
  let image := recs.flatten
  let inB := res s hPSTORE Par.PSTORE_IMAGE_SLOT == 1
  let s := setRes hDEV Par.DEV_STORE_OUTCOME 3
    { s with pstore.storeTag := tag, pstore.storeSlotB := inB, pstore.storeLen := image.length }
  if imageMax < image.length then endStore false [0] s
  else
    let seq := if res s hPSTORE Par.PSTORE_IMAGE_SLOT = 0 then 1 else (res s hPSTORE Par.PSTORE_IMAGE_SEQUENCE + 1) % w32
    let header := headerBytes seq image.length (crc32c image) tag recs.length (opSeconds s)
    (storePrograms inB .image .imageCommit header image).foldl (fun s p => queueProgram p s) s

/-- Does the tie rewrite of Table 15.4 run? -/
def tieRuns (s : State) : Bool :=
  (s.pstore.queue ++ (s.pstore.current.map (·.1)).toList).any fun p => p.why == .tieImage

/-! ### The end of a program -/

/-- WEAR in units of 0.01 % (R399). -/
def wear (s : State) : Nat :=
  let worst := (List.range 6).foldl (fun a n => max a (mget 0 s.pstore.tally n / 64 + 1))
    (max (mget 0 s.pstore.tally 3) (s.pstore.programmed / 4096 + 1))
  min 10000 (worst / 100)

/-- WEAR brought up to date; at 9000 event 0x0908 once, and PSTORE reads LIMITED (R399). -/
def updateWear (s : State) : State :=
  let w := wear s
  let s := changeRes hPSTORE Par.PSTORE_WEAR w s
  if 9000 ≤ w ∧ s.pstore.wearRaised = false then
    raise 0x0908 hPSTORE (u32 0xFFFFFFFF ++ u16 w) { s with pstore.wearRaised := true }
  else s

/-- The programs of a STORE or of the tie rewrite are dropped after a failed verify. -/
def dropImage (s : State) : State :=
  { s with pstore.queue := s.pstore.queue.filter fun p => p.cls != 5 }

/-- What the end of a program completes, key-store pages and the answers they give left aside (R387, R391, R394, R396, R397): a repair
record that failed leaves no pending repair. -/
def completeProgram (p : Program) (ok : Bool) (s : State) : State :=
  match p.why with
  | .log last =>
    let n := (s.pstore.queued.takeWhile fun r => r.seq != last).length + 1
    let s := { s with pstore.queued := s.pstore.queued.drop n, pstore.programmed := s.pstore.programmed + n }
    setRes hPSTORE Par.PSTORE_LOG_WAITING (logWaiting s) s
  | .repair c b r true =>
    if ok then s else countRepairs { s with pstore.repairs := s.pstore.repairs.filter (· != (c, b, r)) }
  | .blaze _ _ => if ok then setRes hPSTORE Par.PSTORE_BLAZE_USED (blazeSlots s).length s else s
  | .image | .imageCommit =>
    if !ok then endStore false [if p.why = .imageCommit then 4 else if p.page ≠ slotPage s.pstore.storeSlotB then 2
        else if p.bytes.length = 1 then 1 else 3] (dropImage s)
    else if p.why = .image then s
    else
      let h := storeAt s (256 * slotPage s.pstore.storeSlotB) 12
      let s := setRes hPSTORE Par.PSTORE_IMAGE_SLOT (if s.pstore.storeSlotB then 2 else 1) s
      let s := setRes hPSTORE Par.PSTORE_IMAGE_SEQUENCE (leNat ((h.drop 4).take 4)) s
      incTally 3 (endStore true [] (setRes hPSTORE Par.PSTORE_IMAGE_BYTES s.pstore.storeLen s))
  | .tieImage => if ok then s else dropImage s
  | _ => s

/-- A program's second try is told in event 0x0906 (R382). -/
def tellRetry (p : Program) (ok : Bool) (s : State) : State :=
  let s := if ok then s else incSat hPSTORE Par.PSTORE_VERIFY_FAILS 1 { s with pstore.limited := true }
  raise 0x0906 hPSTORE (u16 p.page ++ [p.cls, if ok then 0 else 1]) s

/-- What a program's last try leaves in the store, and what is told of it. -/
def programTried (p : Program) (again ok : Bool) (s : State) : State :=
  let s := if ok then writeProgram p s else tearProgram p s
  if again then tellRetry p ok s else s

/-- The verify of the program in progress ends (R379): a first mismatch programs it once more; otherwise the page has its
bytes, or undefined ones, and the program's effect follows by `done`.  The next queued program then starts (R382). -/
def endProgram (done : Program → Bool → State → State) (ok : Bool) (s : State) : State :=
  match s.pstore.current with
  | none => s
  | some (p, again) =>
    let s := incWrap hPSTORE Par.PSTORE_PROGRAMS 1 s
    if !ok && !again then { s with pstore.current := some (p, true) }
    else startProgram { updateWear (done p ok (programTried p again ok s)) with pstore.current := none }

/-- The gather's time has passed: the gathered records are queued (R394). -/
def execLogGatherTimeout (s : State) : Host.Outcome State Fault Refusal :=
  match s.pstore.gatherAt with
  | none => .next s
  | some t => .next (flushGather (advanceTo (t + cfg s hPSTORE Par.PSTORE_LOG_GATHER_MS * tickMs) s))

/-! ### Reading the store at a restart (R398) -/

/-- Is the identity record valid (R437)? -/
def identityOk (s : State) : Bool :=
  storeAt s 0 6 == [0x4B, 0x4C, 0x49, 0x44, 1, 0] && crc32c (storeAt s 0 4092) == leNat (storeAt s 4092 4)

/-- Reads the identity record (R437, R398). -/
def readIdentity (s : State) : State := { s with pstore.identityOk := identityOk s }

/-- Reads the blaze records in slot order (R396). -/
def readBlaze (s : State) : State :=
  let recs := (blazeSlots s).map fun i =>
    let b := storeAt s (0x1000 + 16 * i) 16
    (leNat (b.take 2), b.getD 2 0, leNat ((b.drop 4).take 4))
  setRes hPSTORE Par.PSTORE_BLAZE_USED recs.length { s with pstore.blaze := recs }

/-- Reads the repair records (R397). -/
def readRepairs (s : State) : State :=
  countRepairs { s with pstore.repairs := (repairSlots s).map fun i =>
    let b := storeAt s (0x8000 + 16 * i) 4
    (b.getD 0 0, b.getD 1 0, leNat (b.drop 2)) }

/-- The valid slots of a tally page: (slot, COUNT). -/
def tallySlots (s : State) (n : Nat) : List (Nat × Nat) :=
  let page := storeAt s (0x4000 + 256 * n) 256
  (List.range 64).filterMap fun i =>
    let b := (page.drop (4 * i)).take 4
    if crc8 (b.take 3) = b.getD 3 0 then some (i, leNat (b.take 3)) else none

/-- The largest COUNT, by the lowest slot. -/
def tallyTop (l : List (Nat × Nat)) : Option (Nat × Nat) :=
  l.foldl (fun a x => match a with
    | none => some x
    | some y => if y.2 < x.2 then some x else some y) none

/-- Holder and value of a counter (R391); none where no slot is valid. -/
def tallyValue (l : List (Nat × Nat)) : Option (Nat × Nat) :=
  match tallyTop l with
  | none => none
  | some t =>
    let rest := l.filter (· != t)
    if rest ≠ [] ∧ rest.all (fun x => decide (x.2 + 1 < t.2)) then tallyTop rest else some t

/-- Reads one tally counter; event 0x090B where no slot is valid (R391). -/
def readTally (s : State) (n : Nat) : State :=
  if mslice s.pstore.mem (0x4000 + 256 * n) (0x4100 + 256 * n) = [] then
    setResAt hPSTORE Par.PSTORE_TALLY n 0 { s with
      pstore.tally := mput 0 s.pstore.tally n 0, pstore.holder := mput 0 s.pstore.holder n 0 }
  else match tallyValue (tallySlots s n) with
    | some (i, v) => setResAt hPSTORE Par.PSTORE_TALLY n (v : Int) { s with
        pstore.tally := mput 0 s.pstore.tally n v, pstore.holder := mput 0 s.pstore.holder n i }
    | none =>
      let s := setResAt hPSTORE Par.PSTORE_TALLY n 0 { s with
        pstore.tally := mput 0 s.pstore.tally n 0, pstore.holder := mput 0 s.pstore.holder n 63
        pstore.limited := true }
      raise 0x090B hPSTORE [n] s

/-- Reads every tally counter. -/
def readTallies (s : State) : State := (List.range 64).foldl readTally s

/-- A slot's cause of Table 15.8, or none where it is valid (R386). -/
def slotCause (s : State) (slotB : Bool) : Option Nat :=
  let a := 256 * slotPage slotB
  let h := storeAt s a 256
  let len := leNat ((h.drop 8).take 4)
  if h.getD 255 0 ≠ 0xA5 then some 0
  else if h.take 4 ≠ [0x4B, 0x4C, 0x44, 0x49] ∨ leNat ((h.drop 16).take 2) ≠ 1 then some 1
  else if crc32c (h.take 248) ≠ leNat ((h.drop 248).take 4) then some 2
  else if imageMax < len ∨ crc32c (storeAt s (a + 256) len) ≠ leNat ((h.drop 12).take 4) then some 3
  else none

/-- SEQUENCE, LENGTH and RECORDS of a slot's header. -/
def slotHeader (s : State) (slotB : Bool) : Nat × Nat × Nat :=
  let h := storeAt s (256 * slotPage slotB) 256
  (leNat ((h.drop 4).take 4), leNat ((h.drop 8).take 4), leNat ((h.drop 20).take 4))

/-- A record that names no persistent entry, or has a wrong LEN, is ignored (R389). -/
def ignoreRecord (h p cause : Nat) (s : State) : State :=
  raise 0x0904 hPSTORE (u16 h ++ u16 p ++ [cause]) (incSat hPSTORE Par.PSTORE_RECORDS_IGNORED 1 s)

/-- Writes one record of the image: vb values wait in the open set, the others take effect (R389). -/
def restoreRecord (h p : Nat) (bs : List Nat) (s : State) : State :=
  if classOf h = 0 then ignoreRecord h p 0 s
  else match entryOf h p with
    | none => ignoreRecord h p 1 s
    | some e =>
      let e' := if e.apply = .rst then { e with apply := .now } else e
      if !e.persist then ignoreRecord h p 1 s
      else if isBlob e then
        if bs.length ≠ valueSize e then ignoreRecord h p 2 s else writeBlob e' h 0 bs s
      else if bs.length ≠ valueSize e then ignoreRecord h p 2 s
      else writeElems e' h 0 (splitValues e.ty (elems e) bs) s

/-- Writes the records of an image; `n` bounds their number. -/
def restoreRecords : Nat → List Nat → State → State
  | 0, _, s => s
  | n + 1, bs, s =>
    if bs.length < 6 then s
    else
      let len := leNat ((bs.drop 4).take 2)
      restoreRecords n (bs.drop (6 + len))
        (restoreRecord (leNat (bs.take 2)) (leNat ((bs.drop 2).take 2) % 4096) ((bs.drop 6).take len) s)

/-- Restores a slot: results, event 0x0901, the records. -/
def restoreSlot (slotB : Bool) (s : State) : State :=
  let (seq, len, records) := slotHeader s slotB
  let s := setRes hPSTORE Par.PSTORE_IMAGE_SLOT (if slotB then 2 else 1) s
  let s := setRes hPSTORE Par.PSTORE_IMAGE_SEQUENCE seq (setRes hPSTORE Par.PSTORE_IMAGE_BYTES len s)
  let s := raise 0x0901 hPSTORE ([if slotB then 2 else 1] ++ u32 seq ++ u16 records) s
  restoreRecords (len / 6 + 1) (storeAt s (256 * slotPage slotB + 256) len) s

/-- The rewrite of slot B from slot A (Table 15.4). -/
def rewriteTie (s : State) : State :=
  let (_, len, _) := slotHeader s false
  (storePrograms true .tieImage .tieImage (storeAt s 0x10000 255) (storeAt s 0x10100 len)).foldl
    (fun s p => queueProgram p s) s

/-- Chooses and restores the image (R388, R389). -/
def readImage (s : State) : State :=
  match slotCause s false, slotCause s true with
  | some a, some b =>
    raise 0x0903 hPSTORE [a, b] (setRes hPSTORE Par.PSTORE_BOOT_OUTCOME 3 (setRes hPSTORE Par.PSTORE_IMAGE_SLOT 0 s))
  | none, some _ => restoreSlot false (setRes hPSTORE Par.PSTORE_BOOT_OUTCOME 0 s)
  | some _, none => restoreSlot true (setRes hPSTORE Par.PSTORE_BOOT_OUTCOME 0 s)
  | none, none =>
    let (sa, la, _) := slotHeader s false
    let (sb, lb, _) := slotHeader s true
    if sa < sb then restoreSlot true (setRes hPSTORE Par.PSTORE_BOOT_OUTCOME 0 s)
    else if sb < sa then restoreSlot false (setRes hPSTORE Par.PSTORE_BOOT_OUTCOME 0 s)
    else if la = lb ∧ storeAt s 0x10000 248 = storeAt s 0x28000 248
        ∧ storeAt s 0x10100 la = storeAt s 0x28100 lb then
      restoreSlot false (setRes hPSTORE Par.PSTORE_BOOT_OUTCOME 1 s)
    else
      rewriteTie (restoreSlot false (raise 0x0902 hPSTORE (u32 sa) (setRes hPSTORE Par.PSTORE_BOOT_OUTCOME 2 s)))

/-- The valid records of the ring: (SEQ, SECONDS) (R393). -/
def logRecords (s : State) : List (Nat × Nat) :=
  (touched s.pstore.mem 0x40000 32 4096).filterMap fun i =>
    let b := storeAt s (0x40000 + 32 * i) 32
    if crc32c (b.take 28) = leNat (b.drop 28) ∧ leNat (b.take 4) % 4096 = i then
      some (leNat (b.take 4), leNat ((b.drop 4).take 4)) else none

/-- The mirror takes what the ring holds, and numbering goes on from `next` after the highest SEQ `top` (R395, R436).  The records
programmed before this run are taken to be as many as the numbers given (R399, log entry 35). -/
def mirrorRing (next top : Nat) (s : State) : State :=
  { s with
    pstore.programmed := s.pstore.programmed + top
    pstore.mirror := (mslice s.pstore.mem 0x40000 0x60000).map fun e => (e.1 - 0x40000, e.2)
    pstore.nextSeq := next }

/-- Reads the log ring: the mirror, the next SEQ, and the SECONDS that R430 asks for (R395, R430, R436). -/
def readLog (s : State) : Nat × Option Nat × State :=
  let recs := logRecords s
  let top := recs.foldl (fun (a : Option (Nat × Nat)) r => match a with
    | none => some r
    | some t => if t.1 < r.1 then some r else some t) none
  let low := recs.foldl (fun (a : Option Nat) r => match a with
    | none => some r.1
    | some t => some (min t r.1)) none
  let h := match top with
    | some t => t.1
    | none => 0
  let s := mirrorRing (match top with
    | some t => (t.1 + 257) % w32
    | none => 1) h s
  let s := match low with
    | some l => setRes hLOG Par.LOG_OLDEST l (setRes hLOG Par.LOG_NEWEST h s)
    | none => s
  (h, top.map (·.2), bumpGen hLOG Par.LOG_RING (setRes hPSTORE Par.PSTORE_LOG_NEXT s.pstore.nextSeq s))

end Sys2Proof.Machine
end

