-- ==== Sys2Proof/Machine/Sram.lean ====
section
/-! DEFINITION. The SRAM banks (14): accesses of the two ports, atomic operations, poison, scrubbing, spare rows, the wipe of the
secure region, initialisation and the background test windows. -/

namespace Sys2Proof.Machine

/-- Address in the SRAM's memory of a byte of a bank (R360). -/
abbrev bankAddr (b offset : Nat) : Nat := b * 4194304 + offset

/-- Sub-array and row of an offset (R360). -/
abbrev subOf (offset : Nat) : Nat := offset / 262144 % 16
/-- the row in its sub-array -/
abbrev rowOf (offset : Nat) : Nat := offset / 1024 % 256

/-- Does a word lie in the secure region (R371)? -/
abbrev isSecure (b offset : Nat) : Bool := b == 23 && decide (0x300000 ≤ offset)

/-- A bank's state replaced. -/
def setBank (b : Nat) (x : BankSt) (s : State) : State :=
  { s with sram.banks := mput {} s.sram.banks b x }

/-- Is a word poisoned (R362)? -/
def poisoned (s : State) (b offset : Nat) : Bool := mget false s.sram.poison (bankAddr b offset)

/-- Words of a bank now poisoned. -/
def poisonedWords (s : State) (b : Nat) : Nat := (mslice s.sram.poison (bankAddr b 0) (bankAddr (b + 1) 0)).length

/-- Poisons a word or clears its poison, with `BANK:403`. -/
def setPoison (b offset : Nat) (p : Bool) (s : State) : State :=
  if poisoned s b offset = p then s
  else
    let s := { s with sram.poison := mput false s.sram.poison (bankAddr b offset) p }
    setRes (hBANK b) Par.BANK_POISONED (poisonedWords s b) s

/-- What a port answered. -/
def sramReply (b : Nat) (portB : Bool) (r : SramReply) (s : State) : State :=
  if portB then setBank b { bank s b with replyB := some r } s else setBank b { bank s b with replyA := some r } s

/-- Stores one lane. -/
def storeLane (b offset lane v : Nat) (s : State) : State :=
  { s with sram.mem := storeBytes 0#8 s.sram.mem (bankAddr b offset + 4 * lane) (toLE 4 v) }

/-- An uncorrectable read is counted and told (R362). -/
def wordUncorrectable (b offset : Nat) (portB : Bool) (s : State) : State :=
  raise 0x0801 (hBANK b) ([b] ++ u32 offset ++ [if portB then 1 else 0]) (addUe (hBANK b) 1 s)

/-- A port-B access to the secure region is refused (R371). -/
def refuseSecure (b offset op : Nat) (s : State) : State :=
  let s := sramReply b true ⟨2, if op = 0 then List.replicate 8 0 else []⟩ (incSat (hBANK b) Par.BANK_SECURE_REFUSED 1 s)
  raise 0x0805 (hBANK b) (u32 offset ++ [op]) s

/-- Does a write carry all 8 lanes? -/
def fullWrite (ls : List (Nat × Nat)) : Bool := (List.range 8).all fun l => ls.any fun x => x.1 == l

/-! ### Spare rows -/

/-- A failing row: its copy into a spare begins, or none is left and the bank reads FAILED (R367, R368). -/
def rowFailing (b sub row cause : Nat) (s : State) : State :=
  let k := bank s b
  if k.copying.any (fun c => c.sub == sub && c.row == row) then s
  else if sparesLeft s b sub = 0 then
    if k.bad.contains (sub * 256 + row) then s
    else settle (raise 0x0803 (hBANK b) [b, sub, row]
      (setBank b { k with bad := k.bad ++ [sub * 256 + row], failed := true } s))
  else
    setBank b { k with
      used := mput 0 k.used sub (mget 0 k.used sub + 1)
      copying := k.copying ++ [⟨sub, row, 8 - sparesLeft s b sub, cause⟩] } s

/-- `BANK:404` of a bank's sub-array. -/
def showSpares (b sub : Nat) (s : State) : State :=
  setResAt (hBANK b) Par.BANK_SPARES_LEFT sub (sparesLeft s b sub : Nat) s

/-- The copy is complete: the row is spared (R368). -/
def execSpareCopyDone (b : Nat) (s : State) : Host.Outcome State Fault Refusal :=
  let k := bank s b
  match k.copying with
  | [] => .next s
  | c :: rest =>
    let s := setBank b { k with copying := rest, spared := k.spared ++ [c.sub * 256 + c.row] } s
    let s := fellRecord (hBANK b) 2 c.cause (c.sub + 16 * c.row + 4096 * c.spare) s
    let s := setRes (hBANK b) Par.BANK_ROWS_SPARED (min 65535 (res s (hBANK b) Par.BANK_ROWS_SPARED + 1)) s
    let s := setRes hSRAM Par.SRAM_SPARES_USED (min 65535 (res s hSRAM Par.SRAM_SPARES_USED + 1)) s
    .next (raise 0x0802 (hBANK b) [b, c.sub, c.row, c.spare, c.cause] (showSpares b c.sub s))

/-- A corrected word is counted, by its row within the scrub pass too (R362, R367). -/
def wordCorrected (b offset : Nat) (s : State) : State :=
  let k := bank s b
  let words := if k.ceWords.contains (offset / 1024, offset / 32 % 32) then k.ceWords
    else k.ceWords ++ [(offset / 1024, offset / 32 % 32)]
  let s := setBank b { k with ceWords := words } (addCe (hBANK b) 1 s)
  if cfg s hSRAM Par.SRAM_ROW_CE_LIMIT ≤ (words.filter fun w => w.1 == offset / 1024).length then
    rowFailing b (subOf offset) (rowOf offset) 1 s
  else s

/-! ### Reading a word -/

/-- The 32 bytes of a word. -/
def wordBytes (s : State) (b offset : Nat) : List Nat := loadBytes 0#8 s.sram.mem (bankAddr b offset) 32

/-- Bytes with symbol errors taken in: an error lies at its place in the codeword, in which the bytes begin at `first`. -/
def xorPlaces (first : Nat) (es : List (Nat × Nat)) (bs : List Nat) : List Nat :=
  bs.zipIdx.map fun x => es.foldl (fun v e => if e.1 = x.2 + first then v ^^^ e.2 else v) x.1

/-- A word read with symbols `es` in error, by the bank's code (R361): none where it is uncorrectable, else whether the code corrected it
and its bytes, which are not those stored where the errors are beyond what the code can tell. -/
def decodeWord (s : State) (b offset : Nat) (es : List (Nat × Nat)) : Option (Bool × List Nat) :=
  (rsCorrect 40 5 2 3 es).map fun fixes => (!fixes.isEmpty, xorPlaces 3 (es ++ fixes) (wordBytes s b offset))

/-- A word's bytes stored, where they differ from those it holds. -/
def keepWord (b offset : Nat) (bs : List Nat) (s : State) : State :=
  if bs = wordBytes s b offset then s else { s with sram.mem := storeBytes 0#8 s.sram.mem (bankAddr b offset) bs }

/-- The owning bank reads a word (R362): its bytes, or none where it is poisoned or uncorrectable, and then it is poisoned, and its row is
failing where a second read is uncorrectable too (R367).  A corrected word is written back. -/
def readWord (b offset : Nat) (portB : Bool) (reads : List (List (Nat × Nat))) (s : State) : Option (List Nat) × State :=
  if poisoned s b offset then (none, wordUncorrectable b offset portB s)
  else match decodeWord s b offset (reads.headD []) with
    | some (true, bs) => (some bs, wordCorrected b offset (keepWord b offset bs s))
    | some (false, bs) => (some bs, s)
    | none =>
      let s := setPoison b offset true (wordUncorrectable b offset portB s)
      match reads.tail with
      | again :: _ => (none, if (decodeWord s b offset again).isNone then rowFailing b (subOf offset) (rowOf offset) 0 s else s)
      | [] => (none, s)

/-! ### Accesses -/

/-- The 8 lanes of a word's bytes, each least significant byte first. -/
def wordLanes (bs : List Nat) : List Nat := (List.range 8).map fun l => leNat ((bs.drop (4 * l)).take 4)

/-- The new value of a lane (Table 14.2). -/
def atomicValue (old : Nat) : AtomicOp → Nat
  | .addWrap d => (((old : Int) + d) % 4294967296).toNat
  | .addSat d => (clampI ((old : Int) + d) 0 4294967295).toNat
  | .swap v => v % 4294967296

/-- One access performed (R361, R362, R365, R371). -/
def sramPerform (b : Nat) (portB : Bool) (op : SramOp) (s : State) : State :=
  match op with
  | .read o reads =>
    if portB && isSecure b o then refuseSecure b o 0 s
    else match readWord b o portB reads s with
      | (none, s) => sramReply b portB ⟨1, []⟩ s
      | (some bs, s) => sramReply b portB ⟨0, wordLanes bs⟩ s
  | .write o ls reads =>
    if portB && isSecure b o then refuseSecure b o 1 s
    else if fullWrite ls then
      sramReply b portB ⟨0, []⟩ (ls.foldl (fun s l => storeLane b o l.1 l.2 s) (setPoison b o false s))
    else match readWord b o portB reads s with
      | (none, s) => sramReply b portB ⟨1, []⟩ s
      | (some bs, s) => sramReply b portB ⟨0, []⟩ (ls.foldl (fun s l => storeLane b o l.1 l.2 s) (keepWord b o bs s))
  | .atomic o lane f reads =>
    if portB && isSecure b o then refuseSecure b o 2 s
    else match readWord b o portB reads s with
      | (none, s) => sramReply b portB ⟨1, []⟩ s
      | (some bs, s) =>
        let old := (wordLanes bs).getD lane 0
        sramReply b portB ⟨0, [old]⟩
          (incWrap (hBANK b) Par.BANK_ATOMICS 1 (storeLane b o lane (atomicValue old f) (keepWord b o bs s)))

/-- Where an access goes. -/
def sramOffset : SramOp → Nat
  | .read o _ => o
  | .write o _ _ => o
  | .atomic o _ _ _ => o

/-- The lanes an access writes, with their data: an atomic operation counts as a write of its lane (R364). -/
def lanesWritten (s : State) (b : Nat) : SramOp → List (Nat × Nat)
  | .read _ _ => []
  | .write _ ls _ => ls
  | .atomic o lane f _ => [(lane, atomicValue ((wordLanes (wordBytes s b o)).getD lane 0) f)]

/-- Is an access a write, and is it an atomic operation? -/
def isWrite : SramOp → Bool
  | .read _ _ => false
  | .write _ _ _ => true
  | .atomic _ _ _ _ => true
/-- an atomic operation -/
def isAtomic : SramOp → Bool
  | .read _ _ => false
  | .write _ _ _ => false
  | .atomic _ _ _ _ => true

/-- Two writes carry a lane in common. -/
def lanesMeet (la lb : List (Nat × Nat)) : Bool := la.any fun x => lb.any fun y => x.1 == y.1

/-- The lanes that two writes both carry with different data (R364). -/
def lanesDiffer (la lb : List (Nat × Nat)) : Bool := la.any fun x => lb.any fun y => x.1 == y.1 && x.2 != y.2

/-- Port A's access in its slot, port B's stalled and then performed (R363). -/
def sramStall (b : Nat) (x y : SramOp) (s : State) : State :=
  sramPerform b true y (incWrap (hBANK b) Par.BANK_CONFLICT_STALLS 1 (sramPerform b false x s))

/-- Two writes of one word in one slot (R364): merged, lost or, for a port-B atomic on a lane that port A writes, stalled. -/
def sramMeet (b : Nat) (x y : SramOp) (s : State) : State :=
  let la := lanesWritten s b x
  let lb := lanesWritten s b y
  if lanesMeet la lb && isAtomic y then sramStall b x y s
  else if lanesDiffer la lb then
    let s := sramReply b true ⟨3, []⟩ (sramPerform b false x s)
    let s := incSat hSRAM Par.SRAM_WRITES_LOST 1 (incSat (hBANK b) Par.BANK_WRITES_LOST 1 s)
    raise 0x0804 (hBANK b) ([b] ++ u32 (sramOffset x)) s
  else sramPerform b true y (sramPerform b false x s)

/-- The accesses of one slot settled (R363, R364).  An access to the secure region by port B is refused in its slot. -/
def sramSlot (b : Nat) (x y : SramOp) (s : State) : State :=
  if isSecure b (sramOffset y) then sramPerform b true y (sramPerform b false x s)
  else if isWrite x && isWrite y && sramOffset x == sramOffset y then sramMeet b x y s
  else if subOf (sramOffset x) = subOf (sramOffset y) then sramStall b x y s
  else sramPerform b true y (sramPerform b false x s)

/-- SRAM_ACCESS: the accesses that arrive at a bank in one slot, to their completion.  A bank that is not accessible accepts
none (R370). -/
def execSramAccess (b : Nat) (x y : Option SramOp) (s : State) : Host.Outcome State Fault Refusal :=
  .next (if !s.sram.accessible then s
    else match x, y with
      | some x, some y => sramSlot b x y s
      | some x, none => sramPerform b false x s
      | none, some y => sramPerform b true y s
      | none, none => s)

/-- An atomic operation given alone, while the banks are accessible (R365, R370). -/
def sramAtomic (b : Nat) (portB : Bool) (offset lane : Nat) (f : AtomicOp) (s : State) : State :=
  if s.sram.accessible then sramPerform b portB (.atomic offset lane f []) s else s

/-- ADD_WRAP (Table 14.2). -/
def execAddWrap (b : Nat) (portB : Bool) (offset lane : Nat) (delta : Int) (s : State) : Host.Outcome State Fault Refusal :=
  .next (sramAtomic b portB offset lane (.addWrap delta) s)

/-- ADD_SAT (Table 14.2). -/
def execAddSat (b : Nat) (portB : Bool) (offset lane : Nat) (delta : Int) (s : State) : Host.Outcome State Fault Refusal :=
  .next (sramAtomic b portB offset lane (.addSat delta) s)

/-- SWAP (Table 14.2). -/
def execSwap (b : Nat) (portB : Bool) (offset lane value : Nat) (s : State) : Host.Outcome State Fault Refusal :=
  .next (sramAtomic b portB offset lane (.swap value) s)

/-! ### Scrubbing -/

/-- Words of a bank. -/
abbrev bankWords : Nat := 131072

/-- The scrub goes on to the next word; at the end of a pass the counts of corrected words begin again, and once every bank
has passed `0A00:400` counts (R366). -/
def scrubOn (b : Nat) (s : State) : State :=
  let k := bank s b
  if k.scrub + 1 < bankWords then setBank b { k with scrub := k.scrub + 1 } s
  else
    let s := setBank b { k with scrub := 0, ceWords := [] } s
    let p := mput false s.sram.passed b true
    if (List.range 24).all (fun b => mget false p b) then
      incWrap hSRAM Par.SRAM_SCRUB_PASSES 1 { s with sram.passed := [] }
    else { s with sram.passed := p }

/-- SRAM_SCRUB_STEP: the word at the scrub's place is read, and the scrub goes on. -/
def scrubWord (b : Nat) (reads : List (List (Nat × Nat))) (s : State) : State :=
  scrubOn b (readWord b (32 * (bank s b).scrub) true reads s).2

/-- SRAM_SCRUB_STEP, in every power state in which the bank is accessible (R366). -/
def execSramScrubStep (b : Nat) (reads : List (List (Nat × Nat))) (s : State) : Host.Outcome State Fault Refusal :=
  .next (if s.sram.accessible then scrubWord b reads s else s)

/-! ### The secure region and initialisation -/

/-- The wipe of R372; `cause` 0 tamper, 1 lifecycle.  Its duration is free up to 50 µs, and whether a word of a row known bad
still fails the read-back is free. -/
def wipeSecure (cause : Nat) (s : State) : State :=
  let lo := bankAddr 23 0x300000
  let s := { s with sram.mem := mdrop s.sram.mem lo (bankAddr 24 0), sram.poison := mdrop s.sram.poison lo (bankAddr 24 0) }
  let s := setRes (hBANK 23) Par.BANK_POISONED (poisonedWords s 23) s
  let (n, s) := draw s
  let us := n % 51
  let s := setRes hSRAM Par.SRAM_LAST_WIPE_US us (incSat hSRAM Par.SRAM_SECURE_WIPES 1 s)
  let s := raise 0x0806 (hBANK 23) ([cause] ++ u16 us) s
  match (bank s 23).bad.find? (fun r => decide (12 * 256 ≤ r)) with
  | none => s
  | some r =>
    let (n, s) := draw s
    if n % 2 = 0 then s
    else settle (raise 0x0807 (hBANK 23) (u32 (1024 * r)) (setBank 23 { bank s 23 with failed := true } s))

/-- Every word of every bank is zero with valid check symbols (R370). -/
def clearSram (s : State) : State :=
  let s := { s with sram.mem := [], sram.poison := [], sram.accessible := true }
  (List.range 24).foldl (fun s b => changeRes (hBANK b) Par.BANK_POISONED 0 s) s

/-- Factory repairs and row blaze records are applied, then the banks are initialised (R369, R370). -/
def initSram (s : State) : State :=
  let rows := (blazeSlots s).filterMap fun i =>
    let x := storeAt s (0x1000 + 16 * i) 16
    let d := leNat ((x.drop 4).take 4)
    if x.getD 2 0 = 2 then some (leNat (x.take 2), d % 16, d / 16 % 256) else none
  let s := clearSram { s with sram.banks := [], sram.window := 0, sram.passed := [] }
  let s := rows.foldl (fun s r =>
    let k := bank s (r.1 - 0x0A10)
    setBank (r.1 - 0x0A10) { k with
      used := mput 0 k.used r.2.1 (mget 0 k.used r.2.1 + 1), spared := k.spared ++ [r.2.1 * 256 + r.2.2] } s) s
  (List.range 24).foldl (fun s b =>
    setResList (hBANK b) Par.BANK_SPARES_LEFT ((List.range 16).map fun i => ((sparesLeft s b i : Nat) : Int)) s) s

/-! ### Background test windows -/

/-- Bank and offset of a window (R373, R374): BANK20 whole, then BANK21 without the pinned window. -/
def windowAt (w : Nat) : Nat × Nat := if w < 16384 then (20, 256 * w) else (21, 256 * (w - 16384 + 256))

/-- TEST_WINDOW: `fault` found by the march, `held`: an access was held for so many ns and the march abandoned. -/
def testWindow (fault : Bool) (held : Option Nat) (s : State) : State :=
  let (b, o) := windowAt s.sram.window
  let s := if fault then
      rowFailing b (subOf o) (rowOf o) 2 (raise 0x0808 (hBANK b) ([b] ++ u32 o) s)
    else s
  match held with
  | some ns =>
    let s := incSat (hBANK b) Par.BANK_WINDOW_HOLDS 1 s
    let s := if res s (hBANK b) Par.BANK_MAX_HOLD_NS < ns then setRes (hBANK b) Par.BANK_MAX_HOLD_NS (min 65535 ns) s else s
    raise 0x0809 (hBANK b) ([b] ++ u32 o ++ u16 ns) s
  | none =>
    if s.sram.window + 1 < 32512 then { s with sram.window := s.sram.window + 1 }
    else incWrap hSRAM Par.SRAM_TEST_PASSES 1 { s with sram.window := 0 }

/-- TEST_WINDOW, where tests are enabled and the banks are accessible (R370, R373). -/
def execTestWindow (fault : Bool) (held : Option Nat) (s : State) : Host.Outcome State Fault Refusal :=
  .next (if s.sram.accessible && cfgB s hSRAM Par.SRAM_TEST_ENABLE then testWindow fault held s else s)

end Sys2Proof.Machine
end

