-- ==== Sys2Proof/Machine/Compose.lean ====
section
/-! DEFINITION. Layers and composition (06): overlay pixels and their decoding (R165 to R167), the blend (R168), coverage (R169),
and the states of the buffers (R172 to R174). -/

namespace Sys2Proof.Machine

/-- Bytes of the overlay memory. -/
abbrev overlaySize : Nat := 8388608

/-- Address in the SRAM's memory of a byte of the overlay memory: BANK16 and BANK17. -/
abbrev overlayAddr (a : Nat) : Nat := bankAddr 16 a

/-- Bits per pixel of a FORMAT (Table 6.1). -/
def formatBits (code : Nat) : Nat := if code = 0 then 32 else if code = 1 then 8 else 1

/-- Base and size of a buffer, its end limited to the overlay memory (R164). -/
def bufferSpan (f : Vals) (b : Nat) : Nat × Nat :=
  let base := (f hLAYERS Par.LAYERS_BUF_BASE b).toNat
  (base, min (base + (f hLAYERS Par.LAYERS_BUF_SIZE b).toNat) overlaySize - base)

/-- One overlay's configuration, as numbers. -/
structure Overlay where
  h      : Nat
  format : Nat
  buffer : Nat
  base   : Nat
  size   : Nat
  x      : Nat
  y      : Nat
  w      : Nat
  ht     : Nat
  stride : Nat
  alpha  : Nat
  opaque_ : Bool
  deriving DecidableEq, Repr

/-- Overlay `k` of a layer state, where it is enabled with a GLOBAL_ALPHA other than 0 (R161). -/
def overlay (f : Vals) (k : Nat) : Option Overlay :=
  let h := hLAYER k
  if f h Par.LAYER_ENABLE 0 = 0 ∨ f h Par.LAYER_GLOBAL_ALPHA 0 = 0 then none
  else
    let n := fun p => (f h p 0).toNat
    let (base, size) := bufferSpan f (n Par.LAYER_BUFFER)
    some ⟨h, n Par.LAYER_FORMAT, n Par.LAYER_BUFFER, base, size, n Par.LAYER_X, n Par.LAYER_Y, n Par.LAYER_WIDTH,
      n Par.LAYER_HEIGHT, n Par.LAYER_STRIDE, n Par.LAYER_GLOBAL_ALPHA, f h Par.LAYER_OPAQUE 0 != 0⟩

/-- The overlays that take part, bottom first. -/
def overlays (f : Vals) : List Overlay := [1, 2, 3, 4].filterMap fun k => overlay f k

/-- Is row `r` of a rectangle beyond its buffer (R166)? -/
def rowBeyond (o : Overlay) (r : Nat) : Bool := decide (o.size < r * o.stride + (o.w * formatBits o.format + 7) / 8)

/-- Does line `y` lie in the rectangle? -/
def lineIn (o : Overlay) (y : Nat) : Bool := decide (o.y ≤ y ∧ y < o.y + o.ht)

/-- An 8-bit component by the sRGB decoding function, exactly rounded (R167). -/
def srgb8 (white c : Nat) : Nat :=
  if c * 100000 ≤ 4045 * 255 then (2 * white * c * 100 + 1292 * 255) / (2 * 1292 * 255)
  else
    let p := c * 1000 + 55 * 255
    let q := 1055 * 255
    (iroot 5 ((2 * white) ^ 5 * p ^ 12 / q ^ 12) 24 0 + 1) / 2

/-- An 8-bit component in linear current units (R167): 0 RED, 1 GRN, 2 BLU. -/
def decode8 (f : Vals) (h c v : Nat) : Nat :=
  if f h Par.LAYER_DECODE 0 = 0 then srgb8 (f h Par.LAYER_WHITE 0).toNat v
  else (f h (Par.LAYER_TABLE_RED + c) v).toNat

/-- An ARGB8888 value as alpha and the three components. -/
def argb (v : Nat) : Nat × List Nat := (v / 16777216 % 256, [v / 65536 % 256, v / 256 % 256, v % 256])

/-- First and last byte of the pixel's data in the overlay memory. -/
def pixelBytes (o : Overlay) (i r : Nat) : Nat × Nat :=
  let a := o.base + r * o.stride + i * formatBits o.format / 8
  (a, if o.format = 0 then a + 3 else a)

/-- Is the pixel read from an uncorrectable word (R176)? -/
def pixelBad (s : State) (o : Overlay) (i r : Nat) : Bool :=
  let (a, b) := pixelBytes o i r
  mget false s.sram.poison (overlayAddr (a / 32 * 32)) || mget false s.sram.poison (overlayAddr (b / 32 * 32))

/-- Alpha and stored components of a pixel of an overlay (R165, R166). -/
def overlayPixel (s : State) (f : Vals) (o : Overlay) (i r : Nat) : Nat × List Nat :=
  let a := (pixelBytes o i r).1
  let b := loadBytes 0#8 s.sram.mem (overlayAddr a)
  let (al, c) :=
    if o.format = 0 then argb (leNat (b 4))
    else if o.format = 1 then argb (f o.h Par.LAYER_PALETTE (leNat (b 1))).toNat
    else if ((b 1).headD 0).testBit (i % 8) then argb (f o.h Par.LAYER_FILL 0).toNat
    else (0, [0, 0, 0])
  (if o.opaque_ && o.format ≠ 2 then 255 else al, c)

/-- One component of the blend (R168). -/
def blend (e c out : Nat) : Nat := (e * c + (255 - e) * out + 127) / 255

/-- One overlay drawn over a pixel at column `x` of line `y`. -/
def drawOverlay (s : State) (f : Vals) (o : Overlay) (x y : Nat) (v : List Nat) : List Nat :=
  if !lineIn o y ∨ x < o.x ∨ o.x + o.w ≤ x ∨ rowBeyond o (y - o.y) ∨ pixelBad s o (x - o.x) (y - o.y) then v
  else
    let (a, c) := overlayPixel s f o (x - o.x) (y - o.y)
    let e := (a * o.alpha + 127) / 255
    v.zipIdx.map fun z => blend e (decode8 f o.h z.2 (c.getD z.2 0)) z.1

/-- Composition of one pixel over its base with the overlays given, bottom first (R168). -/
def composePixel (s : State) (f : Vals) (os : List Overlay) (x y : Nat) (base : List Nat) : List Nat :=
  os.foldl (fun v o => drawOverlay s f o x y v) base

/-- Does an overlay cover columns `x0` to `x0 + w − 1` of a line (R169)? -/
def covers (o : Overlay) (x0 w y : Nat) : Bool :=
  o.format != 2 && o.opaque_ && o.alpha == 255 && lineIn o y && !rowBeyond o (y - o.y)
  && decide (o.x ≤ x0) && decide (x0 + w ≤ o.x + o.w)

/-- The covering layer of a tile-line segment (R170). -/
def coveringLayer (f : Vals) (x0 w y : Nat) : Option Overlay := ((overlays f).filter fun o => covers o x0 w y).getLast?

/-- The overlays fetched for a tile-line segment: none below the covering layer (R170). -/
def fetched (f : Vals) (x0 w y : Nat) : List Overlay := match coveringLayer f x0 w y with
  | some c => (overlays f).filter fun o => decide (c.h ≤ o.h)
  | none => overlays f

/-- The solid colour of BASE_SOURCE COLOUR (R162). -/
def baseColour (f : Vals) : List Nat := (List.range 3).map fun c => (f (hLAYER 0) Par.LAYER_BASE_COLOUR c).toNat

/-- Does L0 show BASE_COLOUR (R162)? -/
def baseIsColour (f : Vals) : Bool := f (hLAYER 0) Par.LAYER_BASE_SOURCE 0 != 0

/-! ### Buffers -/

/-- Does a layer state name a buffer: is it the BUFFER of an enabled overlay (R172)? -/
def namesBuffer (f : Vals) (b : Nat) : Bool :=
  [1, 2, 3, 4].any fun k => f (hLAYER k) Par.LAYER_ENABLE 0 != 0 && f (hLAYER k) Par.LAYER_BUFFER 0 == (b : Int)

/-- The layer state once the first `n` of the commits have applied. -/
def valsAfter (s : State) (n : Nat) : Vals := fun h p i =>
  match commitView (s.dict.commits.take n) (cell h p i) with
  | some v => v
  | none => cfgI s h p i

/-- Is a buffer PENDING (Table 6.2)? -/
def bufPending (s : State) (b : Nat) : Bool :=
  namesBuffer (fun h p i => view s h p i) b
  || (List.range s.dict.commits.length).any fun n => namesBuffer (valsAfter s (n + 1)) b

/-- Is it ATTACHED? -/
def bufAttached (s : State) (b : Nat) : Bool :=
  match s.raster.cur with
  | some r => namesBuffer (cfgOf r.cfg (gradeX s)) b || namesBuffer (valsNow s) b
  | none => namesBuffer (valsNow s) b

/-- Is it HELD? -/
def bufHeld (s : State) (b : Nat) : Bool :=
  match s.raster.prev with
  | some r => namesBuffer (cfgOf r.cfg (gradeX s)) b
  | none => false

/-- BUF_STATE of a buffer (R172): ATTACHED, PENDING and HELD in that order, else FREE. -/
def bufState (s : State) (b : Nat) : Nat :=
  if bufAttached s b then 2 else if bufPending s b then 1 else if bufHeld s b then 3 else 0

/-- BUF_STATE brought up to date; a buffer that becomes FREE is a release (R174). -/
def showBuffers (s : State) : State :=
  (List.range 16).foldl (fun s b =>
    let was := res s hLAYERS Par.LAYERS_BUF_STATE b
    let new := bufState s b
    if was = new then s
    else
      let s := setResAt hLAYERS Par.LAYERS_BUF_STATE b (new : Nat) s
      if new = 0 then incWrap hLAYERS Par.LAYERS_RELEASES 1 s else s) s

/-- Is every buffer that a write to bytes `off` to `off + n − 1` of OVL_MEM touches FREE (R173)? -/
def overlayFree (s : State) (off n : Nat) : Bool :=
  (List.range 16).all fun b =>
    let (base, size) := bufferSpan (valsNow s) b
    bufState s b == 0 || decide (n = 0) || decide (off + n ≤ base) || decide (base + size ≤ off)

/-- A refusal of R173 is counted. -/
def overlayRefused (s : State) : State := incSat hLAYERS Par.LAYERS_BUSY_REFUSED 1 s

/-- Writes bytes of OVL_MEM: whole words written clear their poison; a part of a poisoned word is not written (R362). -/
def writeOverlay (off : Nat) (bs : List Nat) (s : State) : State :=
  let words := (List.range ((off + bs.length + 31) / 32 - off / 32)).map (· + off / 32)
  words.foldl (fun s w =>
    let lo := max off (32 * w)
    let hi := min (off + bs.length) (32 * w + 32)
    let b := 16 + 32 * w / 4194304
    let o := 32 * w % 4194304
    if hi ≤ lo then s
    else if poisoned s b o && !decide (hi - lo = 32) then s
    else setPoison b o false
      { s with sram.mem := storeBytes 0#8 s.sram.mem (overlayAddr lo) (sub bs (lo - off) (hi - lo)) }) s

end Sys2Proof.Machine
end

