-- ==== Sys2Proof/Machine/Codec.lean ====
section
/-! DEFINITION. The Melug codec (12): packing of pixels (R115), prediction (R312), the token stream and its prefix codes (R314 to
R317), and blocks (R310, R319 to R321, R325).  The decoder is written out; the encoder's choice of tokens is free: it keeps
any payload that its decoder turns back into the residual bytes and that is shorter than the raw data, and stores the raw data
otherwise. -/

namespace Sys2Proof.Machine

/-! ### Packing -/

/-- Bits of a number, least significant first. -/
def bitsLE (n v : Nat) : List Bool := (List.range n).map v.testBit

/-- The number that bits spell, least significant first. -/
def natOfBits : List Bool → Nat
  | [] => 0
  | b :: bs => (if b then 1 else 0) + 2 * natOfBits bs

/-- Bytes of a bit string, the last padded with zeros; `n` bounds their number. -/
def bytesOfBits : Nat → List Bool → List Nat
  | 0, _ => []
  | n + 1, bs => if bs = [] then [] else natOfBits (bs.take 8) :: bytesOfBits n (bs.drop 8)

/-- The bits of bytes. -/
def bitsOfBytes (bs : List Nat) : List Bool := bs.flatMap (bitsLE 8)

/-- Component codes of `d` bits packed (R115). -/
def packCodes (d : Nat) (codes : List Nat) : List Nat :=
  bytesOfBits (codes.length * d / 8 + 1) (codes.flatMap (bitsLE d))

/-- `n` codes of `d` bits from a bit string. -/
def codesOfBits (d : Nat) : Nat → List Bool → List Nat
  | 0, _ => []
  | n + 1, bs => natOfBits (bs.take d) :: codesOfBits d n (bs.drop d)

/-- `n` codes of `d` bits unpacked (R115). -/
def unpackCodes (d n : Nat) (bs : List Nat) : List Nat := codesOfBits d n (bitsOfBytes bs)

/-- Bytes of `w` pixels of depth `d` (R115). -/
def packedSize (d w : Nat) : Nat := (w * 3 * d + 7) / 8

/-! ### Prediction (R312) -/

/-- The predictor. -/
def predict (a b c : Nat) : Nat :=
  if max a b ≤ c then min a b else if c ≤ min a b then max a b else a + b - c

/-- The residual of a value. -/
def residual (d x p : Nat) : Nat :=
  let e := (x + 2 ^ d - p) % 2 ^ d
  if e < 2 ^ (d - 1) then 2 * e else 2 * (2 ^ d - e) - 1

/-- The value of a residual. -/
def unresidual (d z p : Nat) : Nat :=
  let e := if z % 2 = 0 then z / 2 else 2 ^ d - (z + 1) / 2
  (p + e) % 2 ^ d

/-- The left, above and above-left values of component `i` with the edges of R312; `cur` are the values before it on its
line, newest first, and `above` the line above, none in a restart segment. -/
def context (i : Nat) (cur : List Nat) (above : Option (List Nat)) : Nat × Nat × Nat :=
  match above with
  | none => let a := if i < 3 then 0 else cur.getD 2 0
            (a, a, a)
  | some l =>
    let b := l.getD i 0
    if i < 3 then (b, b, b) else (cur.getD 2 0, b, l.getD (i - 3) 0)

/-- The residuals of a line; `cur` newest first. -/
def lineResiduals (d : Nat) (above : Option (List Nat)) : Nat → List Nat → List Nat → List Nat
  | _, _, [] => []
  | i, cur, x :: xs =>
    let (a, b, c) := context i cur above
    residual d x (predict a b c) :: lineResiduals d above (i + 1) (x :: cur) xs

/-- The values of a line from its residuals. -/
def lineValues (d : Nat) (above : Option (List Nat)) : Nat → List Nat → List Nat → List Nat
  | _, _, [] => []
  | i, cur, z :: zs =>
    let (a, b, c) := context i cur above
    let x := unresidual d z (predict a b c)
    x :: lineValues d above (i + 1) (x :: cur) zs

/-- The residual bytes: one for a depth of 8, else two, least significant first. -/
def residualBytes (d : Nat) (zs : List Nat) : List Nat := if d = 8 then zs else zs.flatMap fun z => [z % 256, z / 256]

/-- Pairs of bytes as numbers. -/
def pairBytes : List Nat → List Nat
  | a :: b :: r => (a + 256 * b) :: pairBytes r
  | _ => []

/-- The residuals of residual bytes. -/
def bytesResidual (d : Nat) (bs : List Nat) : List Nat := if d = 8 then bs else pairBytes bs

/-! ### Prefix codes (R316, R317) -/

/-- Number of symbols of a length. -/
def lengthCount (lens : List Nat) (n : Nat) : Nat := (lens.filter (· == n)).length

/-- First code of a length. -/
def firstCode (lens : List Nat) : Nat → Nat
  | 0 => 0
  | n + 1 => if n = 0 then 0 else (firstCode lens n + lengthCount lens n) * 2

/-- The symbols of a length in ascending order. -/
def symbolsOf (lens : List Nat) (n : Nat) : List Nat := (lens.zipIdx.filter fun x => x.1 == n).map (·.2)

/-- A decoding table: for lengths 1 to 15, the first code and the symbols. -/
def prefixTable (lens : List Nat) : List (Nat × List Nat) :=
  (List.range 15).map fun n => (firstCode lens (n + 1), symbolsOf lens (n + 1))

/-- One symbol from a bit string by the rows of a table, with the code so far. -/
def readSymbol : List (Nat × List Nat) → Nat → List Bool → Option (Nat × List Bool)
  | [], _, _ => none
  | _, _, [] => none
  | (first, syms) :: rows, code, b :: bs =>
    let code := code * 2 + (if b then 1 else 0)
    if first ≤ code ∧ code - first < syms.length then (syms[code - first]?).map fun x => (x, bs)
    else readSymbol rows code bs

/-- The lengths of the static table (R316). -/
def staticLiteral : List Nat := List.replicate 16 6 ++ List.replicate 240 9 ++ List.replicate 32 7
/-- distance codes of the static table -/
def staticDistance : List Nat := List.replicate 32 5

/-- The 320 lengths of TABLE c (R317). -/
def tableLengths (t : List Nat) : List Nat := t.flatMap fun b => [b % 16, b / 16 % 16]

/-- Is an alphabet's sum of 2^−length at most 1? -/
def kraftOk (lens : List Nat) : Bool :=
  decide ((lens.foldl (fun a n => if n = 0 then a else a + 2 ^ (15 - n)) 0) ≤ 2 ^ 15)

/-- Is a dynamic table valid (R317)? -/
def tableValid (t : List Nat) : Bool :=
  let l := tableLengths t
  let lit := l.take 288
  let dist := (l.drop 288).take 32
  l.length == 320 && (lit.take 287).all (fun n => n != 0) && lit.getD 287 1 == 0 && (dist.take 30).all (fun n => n != 0)
    && dist.drop 30 == [0, 0] && kraftOk lit && kraftOk dist

/-! ### Tokens (R314, R315) -/

/-- Base and extra bits of a length symbol 258 + k. -/
def lengthCode (k : Nat) : Nat × Nat :=
  if k ≤ 7 then (3 + k, 0)
  else if k ≤ 27 then
    let g := (k - 8) / 4 + 1
    ((4 + (k - 8) % 4) * 2 ^ g + 3, g)
  else (258, 0)

/-- Base and extra bits of a distance code. -/
def distanceCode (d : Nat) : Nat × Nat :=
  if d ≤ 3 then (d + 1, 0) else ((2 + d % 2) * 2 ^ (d / 2 - 1) + 1, d / 2 - 1)

/-- Copies `n` bytes from `dist` back; history newest first. -/
def copyBytes (dist : Nat) : Nat → List Nat → List Nat
  | 0, h => h
  | n + 1, h => copyBytes dist n (h.getD (dist - 1) 0 :: h)

/-- Decodes tokens up to END.  `h` is history with the output so far, newest first; `out` the bytes still expected.  The
result is the history, or none where the block fails (R321). -/
def decodeTokens (lit dist : List (Nat × List Nat)) : Nat → List Bool → List Nat → Nat → Option (List Nat)
  | 0, _, _, _ => none
  | n + 1, bs, h, out =>
    match readSymbol lit 0 bs with
    | none => none
    | some (sy, bs) =>
      if sy < 256 then (if out = 0 then none else decodeTokens lit dist n bs (sy :: h) (out - 1))
      else if sy = 256 then (if out = 0 ∧ bs.length < 8 then some h else none)
      else if sy = 257 ∨ 287 ≤ sy then none
      else
        let (lb, le) := lengthCode (sy - 258)
        let len := lb + natOfBits (bs.take le)
        match readSymbol dist 0 (bs.drop le) with
        | none => none
        | some (dc, bs) =>
          if 30 ≤ dc then none
          else
            let (db, de) := distanceCode dc
            let d := db + natOfBits (bs.take de)
            if h.length < d ∨ 32768 < d ∨ out < len then none
            else decodeTokens lit dist n (bs.drop de) (copyBytes d len h) (out - len)

/-- Decodes a payload: a block that is no restart begins with CONTINUE and its POSITION (R314).  `h` is the history, newest
first; `count` residual bytes are expected. -/
def decodePayload (litLens distLens : List Nat) (restart : Bool) (position : Nat) (h : List Nat) (count : Nat)
    (payload : List Nat) : Option (List Nat) :=
  let lit := prefixTable litLens
  let dist := prefixTable distLens
  let bs := bitsOfBytes payload
  let fuel := bs.length + 1
  if restart then decodeTokens lit dist fuel bs [] count
  else match readSymbol lit 0 bs with
    | some (257, bs) =>
      if natOfBits (bs.take 16) = position % 65536 ∧ 16 ≤ bs.length then decodeTokens lit dist fuel (bs.drop 16) h count
      else none
    | _ => none

/-! ### Blocks (R310, R319, R325) -/

/-- The column state: history newest first, the line above, POSITION (R324). -/
abbrev ColState := List Nat × List Nat × Nat

/-- A block in pixel mode: its place, the restart flag, the column state before it, its tables. -/
structure BlockCtx where
  c       : Nat
  y       : Nat
  g       : Nat
  d       : Nat
  w       : Nat
  restart : Bool
  state   : ColState
  table   : Option (List Nat)
  /-- frame key where the frame is encrypted -/
  enc     : Bool
  key     : Option (List Nat)
  deriving DecidableEq, Repr

/-- The line above in a block's context. -/
def ctxAbove (x : BlockCtx) : Option (List Nat) := if x.restart then none else some x.state.2.1

/-- The column state after a line of values. -/
def advanceCol (x : BlockCtx) (codes : List Nat) : ColState :=
  let r := residualBytes x.d (lineResiduals x.d (ctxAbove x) 0 [] codes)
  let h := if x.restart then [] else x.state.1
  ((r.reverse ++ h).take 32768, codes, (if x.restart then 0 else x.state.2.2) + r.length)

/-- Counter block of R325. -/
def storeCounter (g y c j : Nat) : List Nat := toBE 6 g ++ toBE 2 y ++ [c] ++ [0, 0, 0] ++ toBE 4 j

/-- The part after the header encrypted or decrypted under the frame key. -/
def blockCipher (x : BlockCtx) (body : List Nat) : List Nat :=
  match x.enc, x.key with
  | true, some k => aesCtr k (storeCounter x.g x.y x.c) body
  | _, _ => body

/-- A block's bytes. -/
def blockOf (x : BlockCtx) (form : Nat) (raw payload : List Nat) : List Nat :=
  [form + (if x.restart then 4 else 0) + (if x.enc then 8 else 0), x.c % 16 + 16 * (x.y % 16)]
  ++ toLE 2 raw.length ++ toLE 2 payload.length ++ toLE 6 x.g
  ++ blockCipher x (payload ++ toLE 4 (crc32c raw))

/-- Literal and distance lengths of a form. -/
def formLengths (x : BlockCtx) (form : Nat) : List Nat × List Nat :=
  match form, x.table with
  | 2, some t => let l := tableLengths t
                 (l.take 288, l.drop 288)
  | _, _ => (staticLiteral, staticDistance)

/-- Does a payload decode to the residual bytes of a line? -/
def payloadFits (x : BlockCtx) (form : Nat) (codes payload : List Nat) : Bool :=
  let r := residualBytes x.d (lineResiduals x.d (ctxAbove x) 0 [] codes)
  let (l, d) := formLengths x form
  match decodePayload l d x.restart x.state.2.2 x.state.1 r.length payload with
  | some h => (h.take r.length).reverse == r
  | none => false

/-- The block of a line of values (R319): compressed with a free payload that fits, else STORED. -/
def encodeBlock (x : BlockCtx) (codes : List Nat) : List Nat :=
  let raw := packCodes x.d codes
  let form := if x.table.isSome then 2 else 1
  let payload := (Config.tokenChoice raw x.y).map (· % 256)
  if payload ≠ [] ∧ payload.length < raw.length ∧ payloadFits x form codes payload then blockOf x form raw payload
  else blockOf x 0 raw raw

/-- A block decoded: the values, or the cause of Table 12.6 (1 header, 2 bitstream, 3 CHECK), 4 for a bitstream whose dynamic table is invalid
(R317, R321). -/
def decodeBlock (x : BlockCtx) (b : List Nat) : Except Nat (List Nat) :=
  let form := b.getD 0 0 % 4
  let rawLen := packedSize x.d x.w
  let payLen := leNat ((b.drop 4).take 2)
  if form = 3 ∨ b.getD 1 0 ≠ x.c % 16 + 16 * (x.y % 16) ∨ leNat ((b.drop 2).take 2) ≠ rawLen
      ∨ rawLen + rawLen / 64 < payLen then .error 1
  else
    let body := blockCipher x ((b.drop 12).take (payLen + 4))
    let payload := body.take payLen
    let check := leNat (body.drop payLen)
    if form = 0 then
      if payload.length = rawLen ∧ crc32c payload = check then .ok (unpackCodes x.d (3 * x.w) payload) else .error 3
    else if form = 2 ∧ (x.table.map tableValid).getD false = false then .error 4
    else
      let (l, d) := formLengths x form
      let count := if x.d = 8 then 3 * x.w else 6 * x.w
      match decodePayload l d x.restart x.state.2.2 x.state.1 count payload with
      | none => .error 2
      | some h =>
        let codes := lineValues x.d (ctxAbove x) 0 [] (bytesResidual x.d ((h.take count).reverse))
        if crc32c (packCodes x.d codes) = check then .ok codes else .error 3

/-! ### Byte mode (R320) -/

/-- The raw data of a series of byte-mode blocks, or none where one fails; `h` history newest first, `n` bounds the blocks. -/
def decodeBytes : Nat → List Nat → List Nat → Nat → Bool → Except Nat (List Nat)
  | 0, _, _, _, _ => .error 1
  | n + 1, b, h, pos, first =>
    if b = [] then .ok []
    else
      let form := b.getD 0 0 % 4
      let rawLen := leNat ((b.drop 2).take 2)
      let payLen := leNat ((b.drop 4).take 2)
      let payload := (b.drop 12).take payLen
      let check := leNat ((b.drop (12 + payLen)).take 4)
      if form = 3 ∨ b.getD 1 0 ≠ 0 ∨ rawLen + rawLen / 64 < payLen ∨ b.length < 16 + payLen
          ∨ (b.getD 0 0).testBit 4 = false ∨ (b.getD 0 0).testBit 2 ≠ first then .error 1
      else
        let raw := if form = 0 then (if payload.length = rawLen then some payload else none)
          else (decodePayload staticLiteral staticDistance first pos h rawLen payload).map fun h => (h.take rawLen).reverse
        match raw with
        | none => .error 2
        | some r =>
          if crc32c r ≠ check then .error 3
          else (decodeBytes n (b.drop (16 + payLen)) ((r.reverse ++ h).take 32768) (pos + rawLen) false).map (r ++ ·)

/-- Byte-mode blocks of at most 5760 raw bytes, stored or with a free payload that fits; `n` bounds the blocks. -/
def encodeBytes : Nat → List Nat → List Nat → Nat → Bool → List Nat
  | 0, _, _, _, _ => []
  | n + 1, data, h, pos, first =>
    if data = [] then []
    else
      let raw := data.take 5760
      let payload := (Config.tokenChoice raw (pos + 65536)).map (· % 256)
      let fits := match decodePayload staticLiteral staticDistance first pos h raw.length payload with
        | some h' => (h'.take raw.length).reverse == raw
        | none => false
      let (form, payload) := if payload ≠ [] ∧ payload.length < raw.length ∧ fits = true then (1, payload) else (0, raw)
      [form + (if first then 4 else 0) + 16, 0] ++ toLE 2 raw.length ++ toLE 2 payload.length ++ toLE 6 0 ++ payload
        ++ toLE 4 (crc32c raw)
        ++ encodeBytes n (data.drop 5760) ((raw.reverse ++ h).take 32768) (pos + raw.length) false

/-- An output-limited stream (R320): each block takes at most `limit` bytes.  How much input a block covers and its payload are the encoder's
choice, free, and kept where they fit; else the block is STORED and covers `limit` − 16 bytes. -/
def encodeLimited (limit : Nat) : Nat → List Nat → List Nat → Nat → Bool → List Nat
  | 0, _, _, _, _ => []
  | n + 1, data, h, pos, first =>
    if data = [] then []
    else
      let tokens := Config.tokenChoice data (pos + 131072)
      let covered := data.take (1 + tokens.headD 0)
      let payload := (tokens.drop 1).map (· % 256)
      let fits := match decodePayload staticLiteral staticDistance first pos h covered.length payload with
        | some h' => (h'.take covered.length).reverse == covered
        | none => false
      let coded := payload ≠ [] ∧ payload.length < covered.length ∧ payload.length + 16 ≤ limit ∧ fits = true
      let raw := if coded then covered else data.take (max 1 (limit - 16))
      let body := if coded then payload else raw
      [(if coded then 1 else 0) + (if first then 4 else 0) + 16, 0] ++ toLE 2 raw.length ++ toLE 2 body.length ++ toLE 6 0 ++ body
        ++ toLE 4 (crc32c raw)
        ++ encodeLimited limit n (data.drop raw.length) ((raw.reverse ++ h).take 32768) (pos + raw.length) false

end Sys2Proof.Machine
end

