-- ==== Sys2Proof/Machine/Dram.lean ====
section
/-! DEFINITION. The in-package DRAM controller (13): the address map and its redirection (R336, R353), read outcomes, retries and
poison (R349), scrub (R350), held rows (R351), retirement (R352, R354), row disturbance (R343, R344), retraining (R346, R347)
and self-refresh (R348). -/

namespace Sys2Proof.Machine

/-! ### The address map -/

/-- Where a line lies: channel, bank, row, slot. -/
structure Home where
  ch   : Nat
  bk   : Nat
  row  : Nat
  slot : Nat
  deriving DecidableEq, Repr

/-- Lines of a grain of code `g` (Table 13.6). -/
abbrev grainLines (g : Nat) : Nat := 2 ^ (g + 1)

/-- The map of R336 for a usable line `l` = a div 128. -/
def homeOf (order grain l : Nat) : Home :=
  let n := grainLines grain
  let k := l / n
  let o := l % n
  let (ch, bk, g) := match order with
    | 0 => (l / 3932160, k % (3932160 / n) % 16, k % (3932160 / n) / 16)
    | 1 => (k / 16 % 8, k % 16, k / 128)
    | 2 => (k % 8, k / 8 % 16, k / 128)
    | _ => (k % 8, k / 8 / (245760 / n), k / 8 % (245760 / n))
  let b := g * n + o
  ⟨ch, bk, b / 15, b % 15⟩

/-- Lines after which the channels of an interleaved order repeat, and the run of lines of one channel in them. -/
def interleave (order grain : Nat) : Nat × Nat :=
  if order = 1 then (128 * grainLines grain, 16 * grainLines grain) else (8 * grainLines grain, grainLines grain)

/-- How many lines below `l` are homed on channel `c`. -/
def homedBelow (order grain c l : Nat) : Nat :=
  let (p, n) := interleave order grain
  l / p * n + min n (l % p - c * n)

/-- The bursts of 64 bytes, by their place in the page, that reading a line takes: its data and the check symbols of its slot (R333). -/
def lineBursts (slot : Nat) : List Nat := [128 * slot, 128 * slot + 64, if slot < 8 then 1920 else 1984]

/-- First line of REFUGE (Table 13.2). -/
abbrev refugeLine : Nat := 27525120
/-- lines of the usable space with eight channels -/
abbrev usableLines : Nat := 31457280
/-- first line after STAG_DMA -/
abbrev dmaEndLine : Nat := 21856256
/-- first line of STAGE, and of STAGE_MIRROR -/
abbrev stageLine : Nat := 0x82C00000 / 128
/-- first line of STAGE_MIRROR -/
abbrev stageMirrorLine : Nat := 0x92C00000 / 128

/-- The `j`-th line of REFUGE homed on a surviving channel (R353). -/
def refugeOf (order grain c j : Nat) : Nat :=
  let (p, n) := interleave order grain
  let r := j % (7 * n)
  let q := if r / n < c then r / n else r / n + 1
  refugeLine + j / (7 * n) * p + q * n + r % n

/-- The line of STAGE_MIRROR that holds the second copy of a line of STAGE (R339). -/
def mirrorLine (s : State) (l : Nat) : Nat := stageMirrorLine + (l - stageLine + 17 * grainLines s.dram.grain) % 2097152

/-- Where a usable line is served: redirected once its channel is retired, while the migration runs only if it has been written since (R353,
R354). -/
def lineHome (s : State) (l : Nat) : Home :=
  let h := homeOf s.dram.order s.dram.grain l
  match s.dram.retired with
  | none => h
  | some c =>
    if h.ch = c ∧ (s.dram.migration ≠ 1 ∨ mget false s.dram.rewritten l = true) then
      homeOf s.dram.order s.dram.grain (refugeOf s.dram.order s.dram.grain c (homedBelow s.dram.order s.dram.grain c l))
    else h

/-- Lines of the usable space (R353). -/
def usableEnd (s : State) : Nat := if s.dram.retired.isSome then refugeLine else usableLines

/-- Was a line lost with the retired channel (R355)? -/
def lineLost (s : State) (l : Nat) : Bool :=
  match s.dram.lostFrom, s.dram.retired with
  | some from_, some c =>
    decide (from_ ≤ l) && decide (l < dmaEndLine) && (homeOf s.dram.order s.dram.grain l).ch == c
    && !mget false s.dram.rewritten l
  | _, _ => false

/-- Is a line poisoned (R335)? -/
def linePoisoned (s : State) (l : Nat) : Bool := mget false s.dram.poison l || lineLost s l

/-- Lines now poisoned. -/
def poisonCount (s : State) : Nat :=
  s.dram.poison.length + (match s.dram.lostFrom, s.dram.retired with
    | some from_, some c =>
      homedBelow s.dram.order s.dram.grain c dmaEndLine - homedBelow s.dram.order s.dram.grain c from_
        - (s.dram.rewritten.filter fun e => decide (from_ ≤ e.1) && !mget false s.dram.poison e.1).length
    | _, _ => 0)

/-- Poisons a line (R335, R349). -/
def poisonLine (l : Nat) (s : State) : State :=
  let s := { s with dram.poison := mput false s.dram.poison l true }
  setRes hDRAM Par.DRAM_POISONED (poisonCount s) s

/-- A write to a line clears its poison, and overtakes a queued write-back; of a retired channel it goes to the refuge line (R335, R341,
R354). -/
def lineWritten (l : Nat) (s : State) : State :=
  let was := linePoisoned s l
  let moved := match s.dram.retired with
    | some c => decide (l < dmaEndLine) && (homeOf s.dram.order s.dram.grain l).ch == c
        && (s.dram.migration == 1 || s.dram.lostFrom.isSome)
    | none => false
  let s := { s with
    dram.writeBacks := s.dram.writeBacks.filter (· != l)
    dram.poison := mput false s.dram.poison l false
    dram.rewritten := if moved then mput false s.dram.rewritten l true else s.dram.rewritten }
  if was then setRes hDRAM Par.DRAM_POISONED (poisonCount s) s else s

/-- `n` bytes of a vb BLOB are staged, each line in both copies (R339); where in STAGE the spec leaves open. -/
def stageBytes (n : Nat) (s : State) : State :=
  let (a, s) := draw s
  (List.range ((n + 127) / 128)).foldl (fun s i =>
    let l := stageLine + (a + i) % 2097152
    lineWritten (mirrorLine s l) (lineWritten l s)) s

/-! ### Channels -/

/-- A channel's state replaced. -/
def setChan (c : Nat) (x : ChanSt) (s : State) : State := { s with dram.chans := mput {} s.dram.chans c x }

/-- `DCH:400`. -/
def showChan (c st : Nat) (s : State) : State := changeRes (hDCH c) Par.DCH_STATE st s

/-- Does a channel serve requests: powered, in service or migrating, and not in self-refresh? -/
def chanServes (s : State) (c : Nat) : Bool :=
  let x := chan s c
  s.dram.ready && x.powered && !x.selfRefresh && (!x.felled || x.migrating)

/-- A row's number in its channel. -/
abbrev rowKey (bk row : Nat) : Nat := bk * 16384 + row

/-! ### Retirement -/

/-- CHANNELS: the channels in service. -/
def showChannels (s : State) : State :=
  changeRes hDRAM Par.DRAM_CHANNELS
    (((List.range 8).filter fun c => (chan s c).service).foldl (fun a c => a + 2 ^ c) 0) s

/-- A channel meets a trigger of R352: it is retired (step 1 of R354), or, where none may be, it reads FAILED. -/
def retireChannel (c trigger : Nat) (s : State) : State :=
  let x := chan s c
  if x.felled ∨ x.failed then s
  else if s.dram.order = 0 ∨ s.dram.retired.isSome then
    settle { setChan c { x with failed := true } s with dram.failed := true }
  else
    let s := fellRecord (hDCH c) 1 trigger 0 s
    let s := setChan c { x with migrating := true } { s with
      dram.retired := some c, dram.migration := 1, dram.retiredAt := s.now, dram.rewritten := [], dram.noSource := s.dram.noSource || trigger == 0 }
    let s := setRes hDRAM Par.DRAM_RETIRED_CHANNEL c (setRes hDRAM Par.DRAM_MIGRATION 1 s)
    let s := showChan c 4 (setRes hDRAM Par.DRAM_USABLE_MIB 3360 (setRes hDRAM Par.DRAM_MIGRATED 0 s))
    stressRateCheck (raise 0x070A hDRAM [c, trigger] s)

/-- The migration ends (step 3 of R354), or ends without its source (R355): lines not yet copied are lost, how many of
them is free. -/
def endMigration (lost : Bool) (s : State) : State :=
  match s.dram.retired with
  | none => s
  | some c =>
    if s.dram.migration ≠ 1 then s
    else
      let all := homedBelow s.dram.order s.dram.grain c dmaEndLine
      let gone := lost || s.dram.noSource
      let (n, s) := if gone then draw s else (0, s)
      let from_ := n % dmaEndLine
      let copied := if gone then homedBelow s.dram.order s.dram.grain c from_
          + (s.dram.rewritten.filter fun e => decide (from_ ≤ e.1)).length
        else all
      let x := chan s c
      let s := setChan c { x with migrating := false, felled := true, powered := false, service := false } { s with
        dram.migration := if gone then 3 else 2, dram.lostFrom := if gone then some from_ else s.dram.lostFrom }
      let s := setRes hDRAM Par.DRAM_MIGRATED copied (setRes hDRAM Par.DRAM_MIGRATION (if gone then 3 else 2) s)
      let s := showChannels (showChan c 5 s)
      let s := if gone then
          raise 0x070C hDRAM ([c] ++ u32 (all - copied)) (setRes hDRAM Par.DRAM_POISONED (poisonCount s) s)
        else s
      raise 0x070B hDRAM ([c] ++ u32 copied ++ u16 (msSince s s.dram.retiredAt)) s

/-! ### Failing rows -/

/-- Banks of a channel with a failing row that is not held (R352). -/
def unheldBanks (x : ChanSt) : Nat := ((List.range 16).filter fun b => x.unheld.any fun r => r / 16384 == b).length

/-- A row is not held: event 0x0709, and its failure may retire the channel (R351, R352). -/
def rowNotHeld (c bk row cause : Nat) (s : State) : State :=
  let x := chan s c
  let x := if x.unheld.contains (rowKey bk row) then x else { x with unheld := x.unheld ++ [rowKey bk row] }
  let s := raise 0x0709 (hDCH c) ([c, bk] ++ u16 row ++ [cause]) (setChan c x s)
  if 3 ≤ unheldBanks x then retireChannel c 2 s else s

/-- A failing row is held, or not held with its cause (R351). -/
def rowFails (c bk row cause : Nat) (s : State) : State :=
  let x := chan s c
  if x.held.contains (rowKey bk row) then s
  else if Config.dieRepairs c bk ≤ mget 0 x.used bk then rowNotHeld c bk row 0 s
  else if 16 ≤ x.held.length then rowNotHeld c bk row 1 s
  else if !cfgB s hDRAM Par.DRAM_REPAIR_ENABLE then rowNotHeld c bk row 2 s
  else if (repairRoom s).isNone then rowNotHeld c bk row 1 (addRepair c bk row s)
  else
    let s := addRepair c bk row (setChan c { x with held := x.held ++ [rowKey bk row] } s)
    let s := setRes (hDCH c) Par.DCH_ROWS_HELD (x.held.length + 1) s
    raise 0x0707 (hDCH c) ([c, bk] ++ u16 row ++ [cause]) s

/-- A corrected line counts towards its row (R349, R351). -/
def lineCorrected (l : Nat) (h : Home) (s : State) : State :=
  let x := chan s h.ch
  let key := rowKey h.bk h.row * 16 + h.slot
  let lines := if x.ceLines.contains key then x.ceLines else x.ceLines ++ [key]
  let s := setChan h.ch { x with ceLines := lines } (addCe (hDCH h.ch) 1 s)
  let s := { s with dram.writeBacks := if s.dram.writeBacks.contains l then s.dram.writeBacks else s.dram.writeBacks ++ [l] }
  if cfg s hDRAM Par.DRAM_CE_ROW_LIMIT ≤ (lines.filter fun k => k / 16 == rowKey h.bk h.row).length then
    rowFails h.ch h.bk h.row 1 s
  else s

/-- Rows with an uncorrectable line found in the last 24 hours of operating time (R352). -/
def recentUe (s : State) (x : ChanSt) : List (Nat × Nat) := x.ueRows.filter fun r => decide (opSeconds s < r.2 + 86400)

/-- A line stays uncorrectable after its retries (R349, R351, R352). -/
def lineDead (l : Nat) (h : Home) (code : Nat) (data : List Nat) (s : State) : State :=
  let s := poisonLine l (addUe (hDCH h.ch) 1 s)
  let s := raise code (hDCH h.ch) data s
  let x := chan s h.ch
  let rows := (recentUe s x).filter (fun r => r.1 != rowKey h.bk h.row) ++ [(rowKey h.bk h.row, opSeconds s)]
  let s := setRes (hDCH h.ch) Par.DCH_UE_ROWS_24H (min 255 rows.length) (setChan h.ch { x with ueRows := rows } s)
  let s := rowFails h.ch h.bk h.row 0 s
  if 4 ≤ rows.length then retireChannel h.ch 1 s else s

/-! ### Row disturbance -/

/-- The class that made most of a row's activations, the lowest among equals. -/
def mostClass (x : ChanSt) (key : Nat) : Nat :=
  (List.range 8).foldl (fun a c => if mget 0 x.actBy (key * 8 + a) < mget 0 x.actBy (key * 8 + c) then c else a) 0

/-- `n` activations of a row by a class (R343, R344). -/
def activate (c bk row cls n : Nat) (s : State) : State :=
  let x := chan s c
  let key := rowKey bk row
  let count := mget 0 x.acts key + n
  let x := { x with acts := mput 0 x.acts key count
                    actBy := mput 0 x.actBy (key * 8 + cls) (mget 0 x.actBy (key * 8 + cls) + n) }
  let most := mostClass x key
  let t := cfg s hDRAM Par.DRAM_RD_THRESHOLD
  let limit := if x.halfRows.contains key && most == 0 then t / 2 else t
  if count < limit then setChan c x s
  else
    let x := { x with
      acts := mput 0 x.acts key 0, actBy := mdrop x.actBy (key * 8) (key * 8 + 8)
      halfRows := if most = 0 ∧ !x.halfRows.contains key then x.halfRows ++ [key] else x.halfRows }
    let s := incWrap (hDCH c) Par.DCH_RFM_ISSUED 1 (setChan c x s)
    let s := raise 0x0705 (hDCH c) ([c, bk] ++ u16 row ++ [most]) s
    if most = 0 then s
    else
      let s := { s with dram.throttle := mput none s.dram.throttle most (some (s.now + tickMs)) }
      raise 0x0706 (hDCH c) [most, c] (incSat hDRAM Par.DRAM_THROTTLES 1 s)

/-! ### Reads -/

/-- What the decoder makes of symbols in error, given by their place in the codeword of 140 symbols and their difference: 0 clean,
1 corrected, 2 uncorrectable (R334). -/
def decodeLine (es : List (Nat × Nat)) : Nat := match rsCorrect 140 8 3 4 es with
  | some [] => 0
  | some _ => 1
  | none => 2

/-- Does a read show the poison pattern: every check symbol inverted, nothing else in error (R335)? -/
def showsPoison (es : List (Nat × Nat)) : Bool :=
  decide (es.length = 8) && (List.range 8).all fun i => es.contains (132 + i, 255)

/-- The read and its re-reads: the outcome, and how many re-reads were made. A re-read that the command does not report
fails as well. -/
def tryReads (attempts : List (List (Nat × Nat))) : Nat → Nat × Nat
  | 0 => (2, 0)
  | n + 1 =>
    let o := match attempts with
      | [] => 2
      | a :: _ => decodeLine a
    if o ≠ 2 ∨ n = 0 then (o, 0)
    else
      let (o, k) := tryReads (attempts.drop 1) n
      (o, k + 1)

/-- First line of RES_WORK, and the line after it (Table 13.2). -/
abbrev residualLine : Nat := 0x4C900000 / 128
/-- the line after RES_WORK -/
abbrev residualEnd : Nat := 0x58900000 / 128

/-- A line of RES_WORK that cannot be read, or whose block fails its CRC-32C: its segment is taken as zero, event 0x0340 with cause 0 or 1
(R208).  Which stand column and driven line a line of RES_WORK holds is not laid out: it is free. -/
def residualDead (l cause : Nat) (s : State) : State :=
  if l < residualLine ∨ residualEnd ≤ l then s
  else
    let (n, s) := draw s
    let parts := partsOf s s.raster.mode
    let c := n % (8 * parts)
    let y := n / 16 % max 1 s.raster.mode.height
    raise 0x0340 hCOMP ([c / parts] ++ u16 y ++ [cause]) { s with pipe.resLate := mput 0 s.pipe.resLate (16 * y + c) 1 }

/-- Did the attempt that a read ended with carry more symbol errors than the code detects (R334)? -/
def beyondDetection (attempts : List (List (Nat × Nat))) (k : Nat) : Bool := decide (6 ≤ (attempts.getD k []).length)

/-- Is a line one of STAGE, with its second copy in STAGE_MIRROR? -/
def isStage (l : Nat) : Bool := decide (stageLine ≤ l) && decide (l < stageMirrorLine)

/-- The mirror copy of a STAGE line is read in its place (R349, R355). -/
def readMirror (l cls : Nat) (s : State) : State :=
  let h := lineHome s (mirrorLine s l)
  activate h.ch h.bk h.row cls 1 (incSat hDRAM Par.DRAM_MIRROR_READS 1 s)

/-- DRAM_READ_COMPLETE (Table 13.4). The second re-read of a STAGE line takes the mirror copy; a STAGE line lost with its channel is read from the
mirror at once (R355). -/
def dramRead (l cls : Nat) (attempts : List (List (Nat × Nat))) (s : State) : State :=
  let h := lineHome s l
  let mirrored := isStage l && !linePoisoned s (mirrorLine s l)
  if lineLost s l ∧ mirrored = true then readMirror l cls s
  else if linePoisoned s l ∨ showsPoison (attempts.headD []) = true then
    residualDead l 0 (incSat (hDCH h.ch) Par.DCH_POISON_READS 1 s)
  else if (chan s h.ch).held.contains (rowKey h.bk h.row) then s
  else
    let (o, k) := tryReads (if isStage l && !mirrored then attempts.take 2 else attempts) 3
    let fromMirror := k = 2 ∧ isStage l = true
    let s := activate h.ch h.bk h.row cls (if fromMirror then k else k + 1) (incSat (hDCH h.ch) Par.DCH_RETRIES k s)
    let s := if fromMirror then readMirror l cls s else s
    let wrong := beyondDetection attempts k
    if o = 0 then (if wrong then residualDead l 1 s else s)
    else if o = 1 then
      let s := lineCorrected l h s
      if wrong then residualDead l 1 s else s
    else residualDead l 0 (lineDead l h 0x0703 ([h.ch, h.bk] ++ u16 h.row ++ [h.slot, cls]) s)

/-- DRAM_READ_COMPLETE, of a line of the usable space on a channel that serves. -/
def execDramReadComplete (l cls : Nat) (attempts : List (List (Nat × Nat))) (s : State) : Host.Outcome State Fault Refusal :=
  .next (if l < usableEnd s ∧ chanServes s (lineHome s l).ch then dramRead l cls attempts s else s)

/-- The scrub goes on to the next line; at the end of a pass the counts of corrected lines begin again (R350, R351). -/
def dramScrubOn (s : State) : State :=
  if s.dram.scrub + 1 < usableEnd s then { s with dram.scrub := s.dram.scrub + 1 }
  else
    let s := (List.range 8).foldl (fun s c => setChan c { chan s c with ceLines := [] } s) s
    incWrap hDRAM Par.DRAM_SCRUB_PASSES 1 { s with dram.scrub := 0 }

/-- One line scrubbed: `errors` are the symbols in error that the last of its reads showed (R349, R350). -/
def scrubLine (errors : List (Nat × Nat)) (s : State) : State :=
  let l := s.dram.scrub
  let h := lineHome s l
  let s := if linePoisoned s l then incSat (hDCH h.ch) Par.DCH_POISON_READS 1 s
    else if (chan s h.ch).held.contains (rowKey h.bk h.row) then s
    else
      let o := decodeLine errors
      let s := activate h.ch h.bk h.row 4 1 s
      if o = 0 then s
      else if o = 1 then lineCorrected l h s
      else lineDead l h 0x0704 ([h.ch, h.bk] ++ u16 h.row ++ [h.slot]) s
  dramScrubOn s

/-- DRAM_SCRUB_STEP, in RUN, SELF and HOLD outside self-refresh (R348, R350). -/
def execDramScrubStep (errors : List (Nat × Nat)) (s : State) : Host.Outcome State Fault Refusal :=
  .next (if chanServes s (lineHome s s.dram.scrub).ch then scrubLine errors s else s)

/-! ### Timers -/

/-- DRAM_REFRESH_DUE: a bank is refreshed; the die's indication is kept (R342). -/
def execDramRefreshDue (c bank rate : Nat) (s : State) : Host.Outcome State Fault Refusal :=
  .next (if chanServes s c then
      changeRes (hDCH c) Par.DCH_REFRESH_RATE rate
        (setChan c { chan s c with refreshed := mput 0 (chan s c).refreshed bank s.now } s)
    else s)

/-- RD_TABLE_CLEAR: the tracking tables are cleared every 32 ms (R343). -/
def execRdTableClear (s : State) : Host.Outcome State Fault Refusal :=
  .next ((List.range 8).foldl (fun s c => setChan c { chan s c with acts := [], actBy := [], halfRows := [] } s) s)

/-- THROTTLE_EXPIRY: the halved request rate of a class ends (R344). -/
def execThrottleExpiry (cls : Nat) (s : State) : Host.Outcome State Fault Refusal :=
  .next (match mget none s.dram.throttle cls with
    | none => s
    | some t => advanceTo t { s with dram.throttle := mput none s.dram.throttle cls none })

/-- DRAM_REQUEST_PROMOTION: the channel's oldest request of class 1 to 4 goes ahead of the others (R341): the write-back that
has waited longest is performed. -/
def execDramRequestPromotion (c : Nat) (s : State) : Host.Outcome State Fault Refusal :=
  .next (match s.dram.writeBacks.find? fun l => (lineHome s l).ch == c with
    | none => s
    | some l => if chanServes s c then { s with dram.writeBacks := s.dram.writeBacks.erase l } else s)

/-- Is the raster in vertical blanking or in a stretch line, or STOPPED: line 0 has yet to begin (R136)? -/
def inBlanking (s : State) : Bool := s.raster.stopped || s.raster.boundary.isSome || decide (s.raster.next ≤ 0)

/-- Does the blanking or stretch last 24 µs or more, as a piece of a full retrain needs (R347)? -/
def longBlanking (s : State) : Bool :=
  s.raster.stopped || s.raster.stretching || decide (24 * tickUs * 256 ≤ s.raster.mode.vblank * s.raster.period)

/-- FINE_RETRAIN_TIMER: RETRAIN_MS have passed, and the channel pauses within vertical blanking or stretch lines; `drift` is the drift since
the last full training, in ps (R346, R347). -/
def execFineRetrainTimer (c : Nat) (drift : Int) (s : State) : Host.Outcome State Fault Refusal :=
  .next (if !chanServes s c || !inBlanking s then s
    else
      let s := advanceTo ((chan s c).trainedAt + cfg s hDRAM Par.DRAM_RETRAIN_MS * tickMs) s
      let x := chan s c
      let beyond := decide (cfg s hDRAM Par.DRAM_DRIFT_LIMIT < drift.natAbs)
      let s := setChan c { x with drift := drift, trainedAt := s.now
                                  pieces := if beyond && x.pieces.isNone then some 0 else x.pieces } s
      incWrap (hDCH c) Par.DCH_FINE_RETRAINS 1 (setResI (hDCH c) Par.DCH_DRIFT (clampI drift (-32768) 32767) s))

/-- FULL_RETRAIN_PIECE: `last` ends the training, `failed` an attempt; the step that failed is free (R345, R347, R352). -/
def execFullRetrainPiece (c : Nat) (last failed : Bool) (s : State) : Host.Outcome State Fault Refusal :=
  .next (if !chanServes s c || !inBlanking s || !longBlanking s then s
    else match (chan s c).pieces with
    | none => s
    | some n =>
      let x := chan s c
      if failed then
        if x.attempts + 1 < 3 then setChan c { x with pieces := some (n + 1), attempts := x.attempts + 1 } s
        else
          let (k, s) := draw s
          let s := raise 0x0702 (hDCH c) [c, k % 5] (setChan c { x with pieces := none, attempts := 0 } s)
          retireChannel c 0 s
      else if !last then setChan c { x with pieces := some (n + 1) } s
      else
        let s := setChan c { x with pieces := none, attempts := 0, drift := 0, trainedAt := s.now } s
        let s := incSat (hDCH c) Par.DCH_FULL_RETRAINS 1 (setResI (hDCH c) Par.DCH_DRIFT 0 s)
        raise 0x070D (hDCH c) ([c] ++ s16 x.drift ++ [(n + 1) % 256]) s)

/-! ### Self-refresh -/

/-- Every channel in service enters self-refresh (R348). -/
def enterSelfRefresh (s : State) : State :=
  let s := incWrap hDRAM Par.DRAM_SR_ENTRIES 1 s
  (List.range 8).foldl (fun s c => if (chan s c).service then
    showChan c 2 (setChan c { chan s c with selfRefresh := true } s) else s) s

/-- DRAM_IDLE_TIMEOUT: in HOLD, between frames, no request has been queued for 10 µs.  A queued write-back aborts the entry (R348). -/
def execDramIdleTimeout (s : State) : Host.Outcome State Fault Refusal :=
  .next (if s.power.state ≠ .hold ∨ !s.dram.ready ∨ !inBlanking s ∨ (List.range 8).any (fun c => (chan s c).selfRefresh) then s
    else if s.dram.writeBacks ≠ [] then incSat hDRAM Par.DRAM_SR_ABORTS 1 s
    else enterSelfRefresh s)

/-- A channel leaves self-refresh after `ns`, with a fine retrain where RETRAIN_MS has passed (R348). -/
def leaveSelfRefresh (c ns : Nat) (s : State) : State :=
  let x := chan s c
  if !x.selfRefresh then s
  else
    let late := decide (x.trainedAt + cfg s hDRAM Par.DRAM_RETRAIN_MS * tickMs ≤ s.now)
    let s := showChan c 1 (setChan c { x with selfRefresh := false, trainedAt := if late then s.now else x.trainedAt } s)
    let s := if late then incWrap (hDCH c) Par.DCH_FINE_RETRAINS 1 s else s
    let s := if res s hDRAM Par.DRAM_SR_EXIT_MAX < ns then setRes hDRAM Par.DRAM_SR_EXIT_MAX (min 65535 ns) s else s
    if 1300 < ns then raise 0x070E (hDCH c) (u16 ns) s else s

/-- A row's hard repair is done (R351): it leaves the holding area and its record is deleted. -/
def repairRow (c bk row : Nat) (s : State) : State :=
  if !s.pstore.repairs.contains (c, bk, row) then s
  else
    let x := chan s c
    let x := { x with held := x.held.erase (rowKey bk row), used := mput 0 x.used bk (mget 0 x.used bk + 1) }
    let s := setRes (hDCH c) Par.DCH_ROWS_HELD x.held.length (setChan c x s)
    let s := setRes (hDCH c) Par.DCH_REPAIRS_DONE (min 65535 (res s (hDCH c) Par.DCH_REPAIRS_DONE + 1)) s
    let s := setResAt (hDCH c) Par.DCH_REPAIRS_LEFT bk ((Config.dieRepairs c bk - mget 0 x.used bk : Nat) : Int) s
    raise 0x0708 (hDCH c) ([c, bk] ++ u16 row) (dropRepair c bk row s)

end Sys2Proof.Machine
end

