-- ==== Sys2Proof/Machine/FrameStore.lean ====
section
/-! DEFINITION. The frame store (12): the four slots and their roles (R305 to R307), writing a frame line by line (R308, R317,
R319, R323, R325), reading its segments (R309, R321, R322, R326), and the nominal black of R519.  A slot's blocks are kept as the
bytes written; the decoder of Codec.lean reads them back. -/

namespace Sys2Proof.Machine

/-! ### Slots and roles -/

/-- A slot. -/
def slotAt (s : State) (n : Nat) : Slot := mget {} s.fstore.slots n

/-- A slot replaced. -/
def setSlot (n : Nat) (x : Slot) (s : State) : State := { s with fstore.slots := mput {} s.fstore.slots n x }

/-- The roles that name a slot, as the bits of SLOT_ROLES (Table 12.7). -/
def roleBits (s : State) (n : Nat) : Nat :=
  (if s.fstore.current = some n then 1 else 0) + (if s.fstore.previous = some n then 2 else 0)
  + (if s.fstore.hold = some n then 4 else 0) + (if s.fstore.base = some n then 8 else 0)

/-- The lowest slot that no role names (R307). -/
def unnamedSlot (s : State) : Nat := ((List.range 4).find? fun n => roleBits s n == 0).getD 3

/-- An array result of four elements, where it differs. -/
def changeFour (p : Nat) (f : Nat → Nat) (s : State) : State :=
  if (List.range 4).all fun n => res s hFSTORE p n == f n then s
  else setResList hFSTORE p ((List.range 4).map fun n => (f n : Int)) s

/-- SLOT_ROLES, SLOT_FRAME and SLOT_STATE brought up to date. -/
def showSlots (s : State) : State :=
  changeFour Par.FSTORE_SLOT_STATE (fun n => (slotAt s n).state)
    (changeFour Par.FSTORE_SLOT_FRAME (fun n => (slotAt s n).frame) (changeFour Par.FSTORE_SLOT_ROLES (roleBits s) s))

/-- First pixel and width of a stand column of a stored frame. -/
def columnAt (x : Slot) (c : Nat) : Nat × Nat := x.columns.getD c (0, 0)

/-- The stand of a stand column (R305). -/
def standOfColumn (x : Slot) (c : Nat) : Nat := c / max 1 x.parts

/-- STRIDE of a frame's columns at a component depth (R305). -/
def strideOf (d : Nat) (columns : List (Nat × Nat)) : Nat :=
  let m := columns.foldl (fun a c => max a (packedSize d c.2)) 0
  (m + m / 64 + 16 + 127) / 128 * 128

/-- The DRAM lines of the segment of line `y` in column `c`: the first, and how many for `len` bytes (R305). -/
def segmentLines (n : Nat) (x : Slot) (y c len : Nat) : List Nat :=
  let a := (n * 0x10800000 + 4096 + (y * 8 * x.parts + c) * x.stride) / 128
  (List.range ((len + 127) / 128)).map (a + ·)

/-! ### Nominal black (R519) -/

/-- Nominal black of component `c` at `d` bits. -/
def nominalBlack (f : Vals) (d colour c : Nat) : Nat :=
  if colour = 1 ∧ c ≠ 0 then 2 ^ (d - 1) else if f hTONE Par.TONE_IN_RANGE 0 != 0 then 16 * 2 ^ (d - 8) else 0

/-- `w` pixels of nominal black. -/
def blackCodes (f : Vals) (d colour w : Nat) : List Nat :=
  (List.range w).flatMap fun _ => (List.range 3).map (nominalBlack f d colour)

/-! ### Writing (R308) -/

/-- The dynamic tables of a frame's columns, whose lengths the spec leaves to the encoder: free, and kept where valid. -/
def dynamicTables (g columns : Nat) : NMap (List Nat) :=
  (List.range columns).foldl (fun t c =>
    let b := (Config.tokenChoice [c] (g + 4294967296)).map (· % 256)
    if b.length = 160 ∧ tableValid b = true then mput [] t c b else t) []

/-- The next value of G, of 48 bits (R307). -/
def nextG (s : State) : Nat := (s.fstore.g + 1) % 281474976710656

/-- A slot begins to receive the frame of write generation G: its header, STATE WRITING, the tables (R306, R307, R313, R317). -/
def openSlot (n frame width height depth colour : Nat) (enc merged : Bool) (m : Mode) (s : State) : State :=
  let columns := columnsOf s m
  let dynamic := cfg s hFSTORE Par.FSTORE_TABLE_MODE = 1 ∧ s.fstore.lastFormat = some (width, height, depth, colour)
  let g := s.fstore.g
  showSlots (setSlot n {
      state := 1, g := g, frame := frame, width := width, height := height, depth := depth, colour := colour
      enc := enc, split := m.split, parts := partsOf s m, merged := merged
      restart := 8 * 2 ^ cfg s hFSTORE Par.FSTORE_RESTART_LINES
      stride := strideOf (depthBits depth) columns, columns := columns
      tables := if dynamic then dynamicTables g columns.length else [] }
    { s with fstore.cols := [], fstore.nextLine := 0, fstore.stored := 0, fstore.rawSoFar := 0
             fstore.codecBad := s.fstore.codecBad.filter fun e => e.1 % 4 != n })

/-- Bytes 0 to 4091 of a slot's frame header (Table 12.1), a field not yet written reading 0. -/
def frameHead (x : Slot) : List Nat :=
  let b := fun (n : Nat) (c : Bool) => if c then n else 0
  padTo 4092 (padTo 256 (
    [0x4B, 0x4C, 0x46, 0x53] ++ toLE 6 x.g
    ++ [x.state, x.depth + 4 * x.colour + b 8 x.enc + b 16 x.split + b 32 (decide (x.parts = 2)) + b 64 x.merged]
    ++ u32 x.frame ++ u16 x.width ++ u16 x.height ++ u32 x.stride ++ [x.restart] ++ List.replicate 7 0
    ++ (List.range 16).flatMap (fun c => u16 (x.columns.getD c (0, 0)).1 ++ u16 (x.columns.getD c (0, 0)).2)
    ++ (List.range 8).flatMap fun st => u32 (mget 0 x.crcs st))
  ++ (List.range 16).flatMap fun c => padTo 160 (mget [] x.tables c))

/-- The frame header, CHECK included. -/
def frameHeader (x : Slot) : List Nat := frameHead x ++ u32 x.check

/-- The coding context of a block. -/
def blockCtx (s : State) (x : Slot) (y c : Nat) (st : ColState) : BlockCtx :=
  { c := c, y := y, g := x.g, d := depthBits x.depth, w := (columnAt x c).2, restart := y % x.restart == 0, state := st
    table := match mget [] x.tables c with
      | [] => none
      | t => some t
    enc := x.enc, key := s.sec.frameKey }

/-- One segment is coded and written: its block, the column state, the running stand CRC, the counts. -/
def writeSegment (n y c : Nat) (codes : List Nat) (s : State) : State :=
  let x := slotAt s n
  if (columnAt x c).2 = 0 then s
  else
    let ctx := blockCtx s x y c (mget ([], [], 0) s.fstore.cols c)
    let raw := packCodes ctx.d codes
    let block := encodeBlock ctx codes
    let st := standOfColumn x c
    let x' := { x with
      segments := mput none x.segments (16 * y + c) (some ⟨block, raw.length⟩)
      standCrc := mput 0xFFFFFFFF x.standCrc st (crc32Step (mget 0xFFFFFFFF x.standCrc st) raw) }
    let s := setSlot n x' { s with
      fstore.cols := mput ([], [], 0) s.fstore.cols c (advanceCol ctx codes)
      fstore.stored := s.fstore.stored + block.length
      fstore.rawSoFar := s.fstore.rawSoFar + raw.length }
    let s := (segmentLines n x' y c block.length).foldl (fun s l => lineWritten l s) s
    let s := incWrap (hCODEC st) Par.CODEC_BLOCKS_CODED 1 s
    if block.headD 0 % 4 = 0 then incSat hFSTORE Par.FSTORE_STORED_BLOCKS 1 s else s

/-- Every segment has been written: STAND_CRC, STATE COMPLETE and CHECK, and the results of the frame (R308, R323). -/
def completeSlot (n : Nat) (s : State) : State :=
  let x := slotAt s n
  let crcs := (List.range 8).filterMap fun st =>
    let v := mget 0xFFFFFFFF x.standCrc st ^^^ 0xFFFFFFFF
    if v = 0 then none else some (st, v)
  let x := { x with crcs := crcs, state := 2 }
  let s := setSlot n { x with check := crc32c (frameHead x) } { s with
    fstore.lastFormat := some (x.width, x.height, x.depth, x.colour) }
  let s := incWrap hFSTORE Par.FSTORE_FRAMES_STORED 1 s
  let s := setRes hFSTORE Par.FSTORE_LAST_STORED_KIB (s.fstore.stored / 1024) s
  showSlots (setRes hFSTORE Par.FSTORE_LAST_RATIO (min 65535 (s.fstore.stored * 32768 / max 1 s.fstore.rawSoFar)) s)

/-- The next line of the frame being written, all its pixels given (R308). -/
def writeStoreLine (n : Nat) (codes : List Nat) (s : State) : State :=
  let x := slotAt s n
  let y := s.fstore.nextLine
  if x.height ≤ y ∨ x.state ≠ 1 then s
  else
    let s := (List.range x.columns.length).foldl (fun s c =>
      writeSegment n y c (sub codes (3 * (columnAt x c).1) (3 * (columnAt x c).2)) s) s
    let s := { s with fstore.nextLine := y + 1 }
    if y + 1 = x.height then completeSlot n s else s

/-! ### Reading (R321, R322) -/

/-- Segments of a stand column that a read leaves out: column and line. -/
abbrev Skips := Nat → Nat → Bool

/-- A read that leaves nothing out. -/
def noSkips : Skips := fun _ _ => false

/-- Is the segment of line `y` decoded in a read that skips some: it is wanted, or it lies within the last 32 KiB of raw data before the next
that is, `raw` bytes a segment; the line directly above that one always does (R171)? -/
def decodedLine (raw height : Nat) (skip : Nat → Bool) (y : Nat) : Bool :=
  !skip y || match ((List.range height).drop (y + 1)).find? (fun k => !skip k) with
    | some k => decide ((k - y - 1) * raw < 32768)
    | none => false

/-- Does a line of a slot's header that holds a column's table stay uncorrectable (Table 12.1)? -/
def tableDead (s : State) (slot c : Nat) : Bool :=
  let a := slot * 0x10800000 + 256 + 160 * c
  linePoisoned s (a / 128) || linePoisoned s ((a + 159) / 128)

/-- One block read and decoded in its context: its values, or the cause of Table 12.6. -/
def readBlock (s : State) (slot : Nat) (x : Slot) (y c : Nat) (ctx : BlockCtx) : Except Nat (List Nat) :=
  match mget none x.segments (16 * y + c) with
  | none => .error 1
  | some g =>
    if (segmentLines slot x y c g.block.length).any fun l => linePoisoned s l then .error 0
    else decodeBlock (if tableDead s slot c then { ctx with table := none } else ctx) g.block

/-- Decodes a column from its restart line `y` on: `n` lines, the last one's values; or the line that failed and its cause.  A line that the
read does not decode cannot fail: nothing after it reaches back so far (R171, R313). -/
def decodeChain (s : State) (slot : Nat) (x : Slot) (c : Nat) (used : Nat → Bool) :
    Nat → Nat → ColState → Except (Nat × Nat) (List Nat)
  | 0, y, _ => .error (y, 1)
  | n + 1, y, st =>
    let ctx := blockCtx s x y c st
    match readBlock s slot x y c ctx with
    | .ok codes => if n = 0 then .ok codes else decodeChain s slot x c used n (y + 1) (advanceCol ctx codes)
    | .error e =>
      if n = 0 ∨ used y = true then .error (y, e)
      else decodeChain s slot x c used n (y + 1) (advanceCol ctx (List.replicate (3 * ctx.w) 0))

/-- The values of a segment, or the line that failed and the cause of Table 12.6 (R321, R326). -/
def readSegment (s : State) (skips : Skips) (slot y c : Nat) : Except (Nat × Nat) (List Nat) :=
  let x := slotAt s slot
  if (columnAt x c).2 = 0 then .ok []
  else if x.enc ∧ x.keyLost = true then .error (y, 3)
  else
    let y0 := y - y % x.restart
    decodeChain s slot x c (decodedLine (packedSize (depthBits x.depth) (columnAt x c).2) x.height (skips c)) (y - y0 + 1) y0
      ([], [], 0)

/-- Has the writer reached a line of a slot (R309)? -/
def lineStored (s : State) (slot y : Nat) : Bool :=
  let x := slotAt s slot
  x.state == 2 || (x.state == 1 && decide (y < s.fstore.nextLine))

/-- A block that fails loses the later blocks of its column up to the next restart segment; the first time in a read it is
counted and reported (R322, R329). -/
def blockFailed (slot c yf cause : Nat) (s : State) : State :=
  let x := slotAt s slot
  if x.enc ∧ x.keyLost = true then s
  else match mget none x.broken c with
  | some l => if l / x.restart = yf / x.restart then s else report x s
  | none => report x s
where
  /-- the counts and event 0x0601 -/
  report (x : Slot) (s : State) : State :=
    let lost := min x.height (yf - yf % x.restart + x.restart) - (yf + 1)
    let s := setSlot slot { x with broken := mput none x.broken c (some yf) } s
    let s := incSat hFSTORE Par.FSTORE_CHAIN_LOST lost (incSat hFSTORE Par.FSTORE_BLOCKS_FAILED 1 s)
    let s := if cause = 4 then raise 0x0608 hFSTORE [slot, c] s else s
    raise 0x0601 (hCODEC (standOfColumn x c)) ([slot, c] ++ u16 yf ++ [if cause = 4 then 2 else cause] ++ u16 lost) s

/-- The columns of a stored frame that hold pixels from `a` to `a + w − 1`. -/
def columnsOver (x : Slot) (a w : Nat) : List Nat :=
  (List.range x.columns.length).filter fun c =>
    let (x0, cw) := columnAt x c
    decide (x0 < a + w) && decide (a < x0 + cw)

/-- The component codes of each of pixels `a` to `a + w − 1` of a stored line; none for those of a segment that cannot be read. -/
def storedOptions (s : State) (skips : Skips) (slot y a w : Nat) : List (Option (List Nat)) :=
  let x := slotAt s slot
  (columnsOver x a w).flatMap fun c =>
    let (x0, cw) := columnAt x c
    let lo := max a x0
    let hi := min (a + w) (x0 + cw)
    match readSegment s skips slot y c with
    | .ok codes => (List.range (hi - lo)).map fun i => some (sub codes (3 * (lo - x0 + i)) 3)
    | .error _ => List.replicate (hi - lo) none

/-- The component codes of pixels `a` to `a + w − 1` of a stored line; none where a segment of them cannot be read. -/
def storedPixels (s : State) (skips : Skips) (slot y a w : Nat) : Option (List Nat) :=
  let l := storedOptions s skips slot y a w
  if l.any (·.isNone) then none else some (l.flatMap fun p => p.getD [])

/-- The counts of a read of those pixels: each block decoded, once in a frame, and the failures. -/
def countRead (skips : Skips) (slot y a w : Nat) (s : State) : State :=
  let x := slotAt s slot
  (columnsOver x a w).foldl (fun s c =>
    match readSegment s skips slot y c with
    | .ok _ =>
      let key := (8192 * slot + y) * 16 + c
      if mget false s.pipe.decoded key then s
      else incWrap (hCODEC (standOfColumn x c)) Par.CODEC_BLOCKS_DECODED 1 { s with pipe.decoded := mput false s.pipe.decoded key true }
    | .error (yf, cause) => blockFailed slot c yf cause s) s

/-- Does a stored frame have the geometry and format of an input frame (R309)? -/
def slotMatches (x : Slot) (width height depth colour : Nat) : Bool :=
  x.state == 2 && x.width == width && x.height == height && x.depth == depth && x.colour == colour

/-- A slice line of the substitution source: the slot given, where it has the format and can be read; none is base-layer
black (R309). -/
def substitute (s : State) (src : Option Nat) (m : Mode) (y a w : Nat) : Option (List Nat) :=
  match src with
  | none => none
  | some n => if slotMatches (slotAt s n) m.width m.height m.depth m.colour then storedPixels s noSkips n y a w else none

/-- The counts of such a read. -/
def countSubstitute (src : Option Nat) (m : Mode) (y a w : Nat) (s : State) : State :=
  match src with
  | none => s
  | some n => if slotMatches (slotAt s n) m.width m.height m.depth m.colour then countRead noSkips n y a w s else s

/-! ### Lines with substituted slices (R118, R308) -/

/-- Do spans (first pixel, pixels) touch pixels `a` to `a + w − 1`? -/
def spansTouch (spans : List (Nat × Nat)) (a w : Nat) : Bool :=
  spans.any fun b => decide (b.1 < a + w) && decide (a < b.1 + b.2)

/-- The slices of a mode: port, first pixel, width. -/
def slices (s : State) (m : Mode) : List (Nat × Nat × Nat) :=
  (List.range 64).filterMap fun p => (slice s m p).map fun x => (p, x.1, x.2)

/-- The codes of a line to be written: a slice that the input does not give whole takes its substitution, or nominal black. -/
def lineToWrite (s : State) (src : Option Nat) (m : Mode) (y : Nat) (codes : List Nat) (bad : List (Nat × Nat)) : List Nat :=
  if codes = [] then blackCodes (valsNow s) (depthBits m.depth) m.colour m.width
  else if bad = [] then codes
  else (slices s m).flatMap fun p =>
    if spansTouch bad p.2.1 p.2.2 then
      (substitute s src m y p.2.1 p.2.2).getD (blackCodes (valsNow s) (depthBits m.depth) m.colour p.2.2)
    else sub codes (3 * p.2.1) (3 * p.2.2)

/-- The slot of the frame that the link is sending: HOLD until its anchor, then CURRENT (R307). -/
def writerSlot (s : State) : Option Nat := match s.fstore.hold with
  | some n => some n
  | none => match s.fstore.current with
    | some n => if (slotAt s n).state = 1 then some n else none
    | none => none

/-- The frame before the one being written: CURRENT while that one is in HOLD, PREVIOUS once it is CURRENT. -/
def beforeWriter (s : State) : Option Nat := if s.fstore.hold.isSome then s.fstore.current else s.fstore.previous

/-- A whole input line, with its bad spans, reaches the frame-store write (R21, R118, R308). -/
def storeInputLine (m : Mode) (codes : List Nat) (bad : List (Nat × Nat)) (s : State) : State :=
  match writerSlot s with
  | none => s
  | some n =>
    let y := s.fstore.nextLine
    let s := if codes = [] then s else (slices s m).foldl (fun s p =>
      if spansTouch bad p.2.1 p.2.2 then countSubstitute (beforeWriter s) m y p.2.1 p.2.2 s else s) s
    writeStoreLine n (lineToWrite s (beforeWriter s) m y codes bad) s

/-! ### The frame key (R326) -/

/-- A frame key is drawn: frames stored encrypted under the one before it can no longer be read. -/
def drawFrameKey (cause : Nat) (s : State) : State :=
  let (k, s) := drawBytes 32 s
  let s := { s with sec.frameKey := some k }
  let s := (List.range 4).foldl (fun s n =>
    let x := slotAt s n
    if x.enc ∧ x.state ≠ 0 then setSlot n { x with keyLost := true } s else s) s
  raise 0x0605 hFSTORE [cause] s

/-- A restart makes every slot EMPTY, names no role and sets G to 0 (R327). -/
def clearStore (s : State) : State := showSlots { s with fstore := {} }

/-- A display read of a frame whose key is gone: counted once a frame, reported once a slot (R326). -/
def displayKeyLost (slot : Nat) (s : State) : State :=
  let x := slotAt s slot
  let s := incSat hFSTORE Par.FSTORE_NO_KEY_BLACK 1 s
  if x.noted then s else raise 0x0604 hFSTORE ([slot] ++ u32 x.frame) (setSlot slot { x with noted := true } s)

end Sys2Proof.Machine
end

