-- ==== Sys2Proof/Machine/Resil.lean ====
section
/-! DEFINITION. Resilience (18): VCORE commands (R464), margins and the margin algorithm (R458 to R461), the fast rise (R462), the
ramp ahead of a commit (R463), and felling a tile (R18, R454, R455). -/

namespace Sys2Proof.Machine

/-- A tile's state replaced. -/
def setTile (st t : Nat) (x : TileSt) (s : State) : State := { s with pipe.tiles := mput {} s.pipe.tiles (16 * st + t) x }

/-! ### VCORE -/

/-- The ceiling of R460, mV. -/
def vcoreCeiling (s : State) : Nat := min 900 s.resil.vcoreOk

/-- A new VCORE is commanded over AVSBus (R464). -/
def commandVcore (mv : Nat) (s : State) : State := { s with resil.vcore := mv, resil.avs := some (mv, 0) }

/-- The regulator reports the commanded value (R464). -/
def vcoreConfirmed (mv : Nat) (s : State) : State :=
  changeRes hSTAG Par.STAG_VCORE_MV mv { s with
    resil.avs := none, resil.confirmed := mv, resil.vcoreOk := max mv s.resil.vcoreOk, resil.avsBad := false }

/-- A write that is not acknowledged, or not reached in time: retried twice, then it has failed (R464). -/
def vcoreMissed (s : State) : State :=
  match s.resil.avs with
  | none => s
  | some (mv, n) =>
    if n < 2 then { s with resil.avs := some (mv, n + 1) }
    else
      let s := incSat hSTAG Par.STAG_AVS_ERRORS 1 { s with
        resil.avs := none, resil.vcoreOk := s.resil.confirmed, resil.vcore := s.resil.confirmed, resil.avsBad := true }
      raise 0x0D0A hSTAG (u16 mv ++ u16 s.resil.confirmed) s

/-! ### Margins -/

/-- Required throughput of a tile in a mode, subpixels per second (R459). -/
def required (s : State) (m : Mode) : Nat :=
  let req := sliceWidth m (halfPorts s) * m.sub * rasterHz * 256 / max 1 (linePeriod m)
  max 1 (if cfg s hSTAG Par.STAG_PLAN = 1 then max req 380159878 else req)

/-- The margin of a cycle time in ps against a requirement, uQ4.12 (R459). -/
def marginOf (req tcyc : Nat) : Nat := min 65535 (1000000000000 / (2 * tcyc) * 4096 / req)

/-- The active tiles: stand and number of the tile that serves each slot. -/
def activeTiles (s : State) : List (Nat × Nat) :=
  (List.range 8).flatMap fun st => (List.range 8).map fun slot => (st, slotTile s st slot)

/-- The units of the active tiles and of the global monitors that have reported, with their margins. -/
def margins (s : State) (req : Nat) (tileCyc : TileSt → Nat) (standCyc : NMap Nat) : List (Nat × Nat) :=
  (activeTiles s).filterMap (fun a =>
      let c := tileCyc (tile s a.1 a.2)
      if c = 0 then none else some (hTILE a.1 a.2, marginOf req c))
  ++ (List.range 8).filterMap fun st =>
      let c := mget 0 standCyc st
      if c = 0 then none else some (hSTAND st, marginOf req c)

/-- The smallest margin and the first unit that has it. -/
def slowest (l : List (Nat × Nat)) : Option (Nat × Nat) :=
  l.foldl (fun a x => match a with
    | none => some x
    | some y => if x.2 < y.2 then some x else some y) none

/-- Is a handle a tile's? -/
def isTile (u : Nat) : Bool := classOf u == 14

/-- The median of the active tiles' margins: of an even count, the lower of the two middle ones. -/
def medianMargin (l : List (Nat × Nat)) : Nat :=
  let t := ((l.filter fun x => isTile x.1).map (·.2)).foldr insertUp []
  t.getD ((t.length - 1) / 2) 0

/-- MONITOR_MEASUREMENT: a tile's or a stand's monitor reports its cycle time (R458). -/
def execMonitorMeasurement (u tcyc : Nat) (s : State) : Host.Outcome State Fault Refusal :=
  .next (if !fabricOn s ∨ s.power.service.isSome then s
    else if isTile u then
      let st := (u - 0x0200) / 16
      let t := u % 16
      let x := tile s st t
      setTile st t { x with tcyc := max x.tcyc tcyc, last := tcyc } s
    else if classOf u = 13 then
      let st := u - 0x0110
      { s with pipe.standCyc := mput 0 s.pipe.standCyc st (max (mget 0 s.pipe.standCyc st) tcyc)
               pipe.standLast := mput 0 s.pipe.standLast st tcyc }
    else s)

/-! ### Felling a tile -/

/-- Is the stand's spare in health SPARE? -/
def spareIdle (s : State) (st : Nat) : Bool :=
  let x := tile s st 8
  !x.felled && !x.failed && !x.withheld && (spareSlot s st).isNone && (mget none s.pipe.takeover st).isNone
  && (List.range 8).all fun t => !(tile s st t).felled

/-- SPARE_SLOT and the tiles' SLOT of a stand (R18): 0xFF for a spare that is idle or a tile without a slot, 0xFE for a spare
that is felled. -/
def showSpare (st : Nat) (s : State) : State :=
  let s := changeRes (hSTAND st) Par.STAND_SPARE_SLOT
    (if (tile s st 8).felled then 0xFE else (spareSlot s st).getD 0xFF) s
  (List.range 9).foldl (fun s t => changeRes (hTILE st t) Par.TILE_SLOT ((tileSlot s st t).getD 0xFF) s) s

/-- The spare takes the slot of the felled tile (R18). -/
def takeOver (st : Nat) (s : State) : State :=
  match mget none s.pipe.takeover st with
  | none => s
  | some t => showSpare st
      { s with pipe.takeover := mput none s.pipe.takeover st none, pipe.spare := mput none s.pipe.spare st (some t) }

/-- The takeovers that wait for the line boundary (R18). -/
def takeOvers (s : State) : State := (List.range 8).foldl (fun s st => takeOver st s) s

/-- The felling of tile `t` of stand `st` goes ahead (R454). -/
def fellNow (st t cause : Nat) (s : State) : State :=
  let x := tile s st t
  let s := setTile st t { x with felled := true, withheld := false, want := none } s
  let s := if t = 8 then s else { s with pipe.takeover := mput none s.pipe.takeover st (some t) }
  let s := fellRecord (hTILE st t) 1 cause 0 s
  let s := incSat hSTAG Par.STAG_FELLINGS 1 s
  let s := raise 0x0D04 (hTILE st t) (u16 (hTILE st t) ++ u16 (hTILE st 8) ++ [cause] ++ u16 x.margin) s
  showSpare st (if s.raster.stopped then takeOver st s else s)

/-- The felling is withheld (R454). -/
def withhold (st t cause why : Nat) (s : State) : State :=
  let s := setTile st t { tile s st t with withheld := true, want := some cause } s
  raise 0x0D05 (hTILE st t) (u16 (hTILE st t) ++ [why]) (incSat hSTAG Par.STAG_WITHHELD 1 s)

/-- The decision to fell a tile: causes 0 margin, 1 beat failures, 2 command (R454). -/
def fellTile (st t cause : Nat) (s : State) : State :=
  let x := tile s st t
  let sp := tile s st 8
  if x.felled then s
  else if !spareIdle s st then withhold st t cause 0 s
  else if sp.margin < cfg s hSTAG Par.STAG_MARGIN_RAISE then withhold st t cause 2 s
  else if cause = 0 ∧ sp.margin ≤ x.margin then withhold st t cause 1 s
  else fellNow st t cause s

/-- The tiles whose felling, for beat failures or by command, is withheld, with the cause. -/
def withheldTiles (s : State) : List (Nat × Nat × Nat) :=
  s.pipe.tiles.filterMap fun e => match e.2.want with
    | some (c + 1) => if e.2.felled then none else some (e.1 / 16, e.1 % 16, c + 1)
    | _ => none

/-- Withheld fellings are decided afresh, up to the first that goes ahead (R454, R460); whether one did. -/
def decideAfresh (s : State) : Bool × State :=
  (withheldTiles s).foldl (fun x y =>
    if x.1 then x
    else
      let s := fellTile y.1 y.2.1 y.2.2 x.2
      ((tile s y.1 y.2.1).felled, s)) (false, s)

/-- A felling withheld under the margin rule is one only while the rule names the tile (R454). -/
def dropWithheld (s : State) : State :=
  { s with pipe.tiles := (s.pipe.tiles.filter fun e => e.2.want == some 0).foldl (fun m e =>
      mput {} m e.1 { e.2 with withheld := false, want := none }) s.pipe.tiles }

/-! ### The margin period -/

/-- The results of a period of every monitor (R458, R473, R474). -/
def showMargins (req : Nat) (s : State) : State :=
  let s := (List.range 8).foldl (fun s st =>
    let s := (List.range 9).foldl (fun s t =>
      let x := tile s st t
      if x.tcyc = 0 then s
      else
        let m := marginOf req x.tcyc
        let h := hTILE st t
        let slack := if (tileSlot s st t).isNone then 2147483647 else x.slack
        setTile st t { x with margin := m }
          (setResI h Par.TILE_SLACK_MIN slack (setRes h Par.TILE_CYCLE_PS x.tcyc (setRes h Par.TILE_MARGIN m s)))) s
    let c := mget 0 s.pipe.standCyc st
    if c = 0 then s
    else setRes (hSTAND st) Par.STAND_GLOBAL_CYCLE_PS c (setRes (hSTAND st) Par.STAND_GLOBAL_MARGIN (marginOf req c) s)) s
  s

/-- The reports of the period are cleared. -/
def clearPeriod (s : State) : State :=
  { s with
    pipe.tiles := (List.range 128).foldl (fun m k =>
      let x := mget {} m k
      mput {} m k { x with tcyc := 0, slack := 2147483647 }) s.pipe.tiles
    pipe.standCyc := [] }

/-- A spare below MARGIN_FELL at the ceiling is felled without a takeover (R455), one in a period, the slowest first (R460). -/
def fellSpare (s : State) : State :=
  if s.resil.vcore < vcoreCeiling s then s
  else
    let l := (List.range 8).filterMap fun st =>
      let x := tile s st 8
      if spareIdle s st && x.tcyc != 0 && decide (x.margin < cfg s hSTAG Par.STAG_MARGIN_FELL) then some (st, x.margin) else none
    match slowest l with
    | some (st, _) => fellNow st 8 0 s
    | none => s

/-- The condition of R461, kept until it clears: no felling, and the event once. -/
def showModeLimit (limit : Option (Nat × Nat × Nat)) (s : State) : State :=
  let was := s.resil.modeLimited
  let s := { s with pipe.standLimited := [] }
  match limit with
  | none => { s with resil.modeLimited := none }
  | some (u, m, med) =>
    let s := { s with
      resil.modeLimited := some (if isTile u then hPIPE else u)
      pipe.standLimited := if isTile u then [] else mput false [] (u - 0x0110) true }
    if was.isSome then s else raise 0x0D06 u (u16 u ++ u16 m ++ u16 med) s

/-- Active tiles below 1.0 at the ceiling are failed, until a later period finds them at or above it (R460). -/
def markFailed (s : State) : State :=
  settle (unitsUp 1024 <| (activeTiles s).foldl (fun s a =>
    let x := tile s a.1 a.2
    if x.tcyc = 0 then s
    else if 4096 ≤ x.margin then setTile a.1 a.2 { x with failed := false } s
    else if s.resil.vcore < vcoreCeiling s ∨ x.failed = true then s
    else raise 0x0D0F (hTILE a.1 a.2) (u16 (hTILE a.1 a.2) ++ u16 x.margin) (setTile a.1 a.2 { x with failed := true } s)) s)

/-- The step of a period: one VCORE step or one felling at most (R460, R461). -/
def marginStep (s : State) : State :=
  let req := required s (modeNow s)
  let l := margins s req (·.tcyc) s.pipe.standCyc
  match slowest l with
  | none => s
  | some (u, m) =>
    let med := medianMargin l
    let s := setRes hSTAG Par.STAG_MIN_MARGIN_UNIT u (setRes hSTAG Par.STAG_MIN_MARGIN m s)
    let top := decide (vcoreCeiling s ≤ s.resil.vcore)
    let low := decide (m < cfg s hSTAG Par.STAG_MARGIN_FELL) && top
    let outlier := decide (m * 100 < med * (100 - cfg s hSTAG Par.STAG_OUTLIER_PCT))
    if isTile u && low && outlier then fellTile ((u - 0x0200) / 16) (u % 16) 0 (showModeLimit none s)
    else
      let s := showModeLimit (if low then some (u, m, med) else none) s
      if m < cfg s hSTAG Par.STAG_MARGIN_RAISE then
        if s.resil.vcore < vcoreCeiling s then
          let mv := s.resil.vcore + 5
          raise 0x0D01 u (u16 mv ++ u16 m ++ u16 u)
            (incSat hSTAG Par.STAG_STEPS_UP 1 (commandVcore mv { s with resil.low := 0 }))
        else s
      else if cfg s hSTAG Par.STAG_MARGIN_LOWER ≤ m then
        let n := s.resil.low + 1
        if 6 ≤ n ∧ cfg s hSTAG Par.STAG_VCORE_FLOOR < s.resil.vcore then
          let mv := s.resil.vcore - 5
          raise 0x0D02 hSTAG (u16 mv ++ u16 m)
            (incSat hSTAG Par.STAG_STEPS_DOWN 1 (commandVcore mv { s with resil.low := 0 }))
        else { s with resil.low := n }
      else { s with resil.low := 0 }

/-- The one action of a period at most (R460): a felling withheld before, else the margin rule's step, else the felling of a spare. -/
def periodAction (s : State) : State :=
  let (felled, s) := decideAfresh s
  if felled then s
  else
    let s' := marginStep (dropWithheld s)
    if s'.resil.vcore ≠ s.resil.vcore ∨ res s' hSTAG Par.STAG_FELLINGS ≠ res s hSTAG Par.STAG_FELLINGS then s' else fellSpare s'

/-- MARGIN_PERIOD: a 10 s period ends, in RUN, SELF and HOLD (R458, R460, R465). -/
def execMarginPeriod (s : State) : Host.Outcome State Fault Refusal :=
  .next (if !fabricOn s ∨ s.power.service.isSome ∨ s.power.transition.isSome then s
    else
      let s := advanceTo (s.resil.periodAt + 10 * tickS) s
      let s := showMargins (required s (modeNow s)) s
      let s := markFailed (periodAction (incWrap hSTAG Par.STAG_PERIODS 1 s))
      clearPeriod { s with resil.periodAt := s.now })

/-! ### Fast rise, ramp and search -/

/-- The fast rise of R462, by a tile with little slack or a missed deadline. -/
def fastRise (unit : Nat) (slack : Int) (s : State) : State :=
  let armed := match s.resil.lastRise with
    | some t => decide (t + 100 * tickMs ≤ s.now)
    | none => true
  if s.resil.vcore < vcoreCeiling s ∧ armed = true then
    let mv := s.resil.vcore + 5
    let s := commandVcore mv { s with resil.low := 0, resil.lastRise := some s.now }
    raise 0x0D03 unit (u16 mv ++ u16 unit ++ s16 slack) (incSat hSTAG Par.STAG_FAST_RISES 1 s)
  else s

/-- A commit under PLAN CURRENT whose mode raises the requirement begins a ramp (R463). -/
def planRamp (m : Mode) (s : State) : State :=
  let req := required s m
  if cfg s hSTAG Par.STAG_PLAN = 0 ∧ required s (modeNow s) < req then { s with resil.ramp := some req } else s

/-- VCORE_RAMP_STEP: 5 mV more, unless every predicted margin is reached or the ceiling is (R463). -/
def execVcoreRampStep (s : State) : Host.Outcome State Fault Refusal :=
  .next (match s.resil.ramp with
    | none => s
    | some req =>
      let l := margins s req (·.last) s.pipe.standLast
      let short := l.any fun x => decide (x.2 < cfg s hSTAG Par.STAG_MARGIN_RAISE)
      if short ∧ s.resil.vcore < vcoreCeiling s then commandVcore (s.resil.vcore + 5) s
      else { s with resil.ramp := none })

end Sys2Proof.Machine
end

