-- ==== Sys2Proof/Machine/Pipe.lean ====
section
/-! DEFINITION. The pixel path of a slice line (01, R13, R14, R19): its source (R142, R155, R309), tone, composition and white split
(R180, R168, R190), overdrive (R191, R193), compensation (R202 to R213), dither and code (R233, R244), the output queue, the
replay after a beat failure (R451, R452), and substitution (R34, R467). -/

namespace Sys2Proof.Machine

/-! ### Sources -/

/-- A slice of component codes as pixels; none is base-layer black (R519). -/
def pixelsOf (w : Nat) : Option (List Nat) → List (Option (List Nat))
  | none => List.replicate w none
  | some l => (List.range w).map fun i => some (sub l (3 * i) 3)

/-- Replication and offset of a stored axis in a new one (R155). -/
def placement (old new : Nat) : Nat × Int :=
  let f := if 2 * old ≤ new then 2 else 1
  (f, ((new : Int) - ((f * old : Nat) : Int)).fdiv 2)

/-- The stored coordinate that a new coordinate shows; none is fill. -/
def placedAt (old new d : Nat) : Option Nat :=
  let (f, o) := placement old new
  let k := (d : Int) - o
  if 0 ≤ k ∧ k.toNat / f < old then some (k.toNat / f) else none

/-- Has a stored frame the geometry of the mode? -/
def sameSize (x : Slot) (m : Mode) : Bool := x.width == m.width && x.height == m.height

/-- The stored line that a line of the mode shows. -/
def storedLine (x : Slot) (m : Mode) (y : Nat) : Option Nat := placedAt x.height m.height y

/-- Is a slice covered in a layer state, so that nothing of L0 is fetched for it (R170)? -/
def sliceCovered (f : Vals) (a w y : Nat) : Bool := (coveringLayer f a w y).isSome

/-- Does a slice take nothing of L0 from the input or the store: covered, or BASE_SOURCE COLOUR (R162, R170)? -/
def baseless (f : Vals) (a w y : Nat) : Bool := baseIsColour f || sliceCovered f a w y

/-- Is a stand-line segment skipped: every tile-line segment that lies wholly or partly in it covered (R171)? -/
def segmentSkipped (s : State) (f : Vals) (m : Mode) (y : Nat) (c : Nat × Nat) : Bool :=
  (slices s m).all fun p => !(decide (p.2.1 < c.1 + c.2) && decide (c.1 < p.2.1 + p.2.2)) || sliceCovered f p.2.1 p.2.2 y

/-- What a read of a stored frame leaves out in a layer state: nothing where it crops or replicates (R171). -/
def skipsOf (s : State) (f : Vals) (m : Mode) (x : Slot) : Skips :=
  if sameSize x m then fun c y => segmentSkipped s f m y (columnAt x c) else noSkips

/-- The part of a stored frame that slice pixels `a` to `a + w − 1` of a line show: stored line, first pixel, width (R155). -/
def placedSpan (x : Slot) (m : Mode) (y a w : Nat) : Option (Nat × Nat × Nat) :=
  match storedLine x m y with
  | none => none
  | some ys =>
    let used := ((List.range w).map fun i => placedAt x.width m.width (a + i)).filterMap id
    match used.head?, used.getLast? with
    | some lo, some hi => some (ys, lo, hi + 1 - lo)
    | _, _ => none

/-- The pixels of a slice from the part of a stored frame that it shows, in the geometry of the mode; none where that cannot be read. -/
def placedPixels (s : State) (skips : Skips) (slot : Nat) (m : Mode) (a w : Nat) (r : Nat × Nat × Nat) :
    Option (List (Option (List Nat))) :=
  (storedPixels s skips slot r.1 r.2.1 r.2.2).map fun l =>
    (List.range w).map fun i => (placedAt (slotAt s slot).width m.width (a + i)).map fun k => sub l (3 * (k - r.2.1)) 3

/-- Where the pixels of a slice line come from: whether they are there, why they are substituted if they are (0 input, 2 store),
the pixels, the depth and colour of their codes, and what the display reads of the store for them: slot, stored line, first pixel,
width. -/
structure SliceSrc where
  ready  : Bool := true
  read   : Option (Nat × Nat × Nat × Nat) := none
  subst  : Option Nat := none
  px     : List (Option (List Nat)) := []
  depth  : Nat := 1
  colour : Nat := 0
  deriving DecidableEq, Repr

/-- The substitution source of a slice line: PREVIOUS, or base-layer black (R309). -/
def substSrc (s : State) (m : Mode) (f : Vals) (y a w reason : Nat) : SliceSrc :=
  if baseless f a w y then { subst := some reason, px := List.replicate w none }
  else
    { subst := some reason, px := pixelsOf w (substitute s s.fstore.previous m y a w), depth := m.depth, colour := m.colour }

/-- The source of a slice line of the frame being scanned (R34, R142, R162, R326, R480). -/
def sliceSrc (s : State) (m : Mode) (f : Vals) (port y a w : Nat) : SliceSrc :=
  if mget false s.pipe.substNow (64 * y + port) then substSrc s m f y a w 1
  else if baseless f a w y then { px := List.replicate w none }
  else if s.raster.kind = .live then
    match mget none s.rx.landing y with
    | none => { ready := false }
    | some l =>
      if l.codes = [] then { px := List.replicate w none, depth := m.depth, colour := m.colour }
      else if spansTouch l.bad a w then substSrc s m f y a w 0
      else { px := pixelsOf w (some (sub l.codes (3 * a) (3 * w))), depth := m.depth, colour := m.colour }
  else match s.fstore.current with
  | none => substSrc s m f y a w 2
  | some n =>
    let x := slotAt s n
    let src : SliceSrc := { depth := x.depth, colour := x.colour }
    if x.enc ∧ x.keyLost = true then { src with px := List.replicate w none }
    else match placedSpan x m y a w with
    | none => { src with px := List.replicate w none }
    | some r =>
      if !lineStored s n r.1 then { src with ready := false }
      else match placedPixels s (skipsOf s f m x) n m a w r with
      | some px => { src with px := px, read := some (n, r) }
      | none => { substSrc s m f y a w 2 with read := some (n, r) }

/-! ### Levels -/

/-- L0 of a pixel: its Tone output, BASE_COLOUR, or base-layer black (R162, R180, R519). -/
def pixelBase (f : Vals) (m : Mode) (gain : Nat) (c : Option (List Nat)) : List Nat :=
  if baseIsColour f then baseColour f else match c with
    | some c => tonePixel f m gain c
    | none => [0, 0, 0]

/-- The values of a slice after the white split; below a covering layer nothing is processed (R168, R170, R180, R190). -/
def sliceLevels (s : State) (f : Vals) (m : Mode) (gain y a : Nat) (src : SliceSrc) : List (List Nat) :=
  let m' : Mode := { m with depth := src.depth, colour := src.colour }
  let w := src.px.length
  let covered := sliceCovered f a w y
  let os := fetched f a w y
  src.px.zipIdx.map fun p =>
    whiteSplit f m' (composePixel s f os (a + p.2) y (if covered then [0, 0, 0] else pixelBase f m' gain p.1))

/-- The slot that a slice's previous level reads, in its record's layer state: none where it needs no read or has none it can make (R170,
R193). -/
def previousSlot (s : State) (m : Mode) (f : Vals) (y a w : Nat) : Option Nat :=
  if baseless f a w y then none
  else match s.fstore.previous with
  | none => none
  | some n =>
    let x := slotAt s n
    if (x.enc && x.keyLost) || !sameSize x m then none else some n

/-- The previous level of each pixel of a slice: the input shown at the previous anchor, through the previous frame's records; none for
a pixel whose segment cannot be read (R191, R193). -/
def previousLevels (s : State) (m : Mode) (y a w : Nat) : List (Option (List Nat)) :=
  match s.raster.prev with
  | none => List.replicate w none
  | some r =>
    let f := cfgOf r.cfg (gradeX s)
    match previousSlot s m f y a w with
    | some n =>
      let x := slotAt s n
      let px := storedOptions s (skipsOf s f r.mode x) n y a w
      let ls := sliceLevels s f r.mode r.gain y a { px := px, depth := x.depth, colour := x.colour }
      px.zipIdx.map fun p => p.1.map fun _ => ls.getD p.2 []
    | none =>
      if baseless f a w y ∨ s.fstore.previous = none then
        (sliceLevels s f r.mode r.gain y a { px := List.replicate w none }).map some
      else List.replicate w none

/-- Overdrive of one pixel (R191, R198). -/
def pixelOverdrive (s : State) (f : Vals) (m : Mode) (x y : Nat) (prev next : List Nat) : List Nat :=
  let strength := (f hOVERDRIVE Par.OVERDRIVE_STRENGTH 0).toNat
  next.zipIdx.map fun v =>
    let ap := mget 0 s.pipe.ages (blockKey (x * m.hRep / 32) (y * m.rowsPerLine / 32) v.2)
    overdrive f s.pipe.t0 s.pipe.wt ap strength v.2 (prev.getD v.2 0) v.1

/-- The values of a slice after Overdrive, from its source: a substituted slice and the pixels without a previous level pass
unchanged (R191). -/
def sliceDriven (s : State) (f : Vals) (m : Mode) (y a : Nat) (src : SliceSrc) : List (List Nat) :=
  let now := sliceLevels s f m s.pipe.gain y a src
  if s.pipe.odSuspended.isSome ∨ src.subst.isSome then now
  else
    let prev := previousLevels s m y a src.px.length
    now.zipIdx.map fun v => match prev.getD v.2 none with
      | some p => pixelOverdrive s f m (a + v.2) y p v.1
      | none => v.1

/-! ### Compensation -/

/-- The list in force (R211). -/
def defectList (s : State) (m : Mode) : List Defect :=
  validDefects m none (readDefects (fun b => (cfgI s hCOMP Par.COMP_DEFECT_LIST b).toNat) 65536 0)

/-- The slice that holds a driven column: port, first pixel, width. -/
def sliceHolding (s : State) (m : Mode) (x : Nat) : Option (Nat × Nat × Nat) :=
  (slices s m).find? fun p => decide (p.2.1 ≤ x) && decide (x < p.2.1 + p.2.2)

/-- Step 1 of Table 8.1 on a value of a driven position (R203, R210). -/
def stepOne (s : State) (f : Vals) (m : Mode) (x y v : Nat) : Nat :=
  if compOn f Par.COMP_SRL_ENABLE then dimValue (dimAt s.pipe.srl m (x * m.hRep) (y * m.rowsPerLine)) v else v

/-- The step-1 value of a driven subpixel of the frame, wherever it lies. -/
def stepOneAt (s : State) (f : Vals) (m : Mode) (x y c : Nat) : Nat :=
  match sliceHolding s m x with
  | none => 0
  | some (p, a, w) =>
    let d := sliceDriven s f m y a (sliceSrc s m f p y a w)
    stepOne s f m x y ((d.getD (x - a) []).getD c 0)

/-- The driven positions that have (x, y) as a neighbour, with its number (R212). -/
def givers (x y : Nat) : List (Nat × Nat × Nat) :=
  [(x + 1, y, 0)] ++ (if x = 0 then [] else [(x - 1, y, 1)])
  ++ (if y = 0 then [] else [(x + 1, y - 1, 2), (x, y - 1, 3)] ++ (if x = 0 then [] else [(x - 1, y - 1, 4)]))

/-- The shares that a driven subpixel receives (R212, R213). -/
def sharesAt (s : State) (f : Vals) (m : Mode) (ds : List Defect) (x y c : Nat) : Nat :=
  let stand := fun x => (sliceHolding s m x).map fun p => p.1 / 8
  (givers x y).foldl (fun a g =>
    match defectAt m ds g.2.1 g.1 c with
    | some d =>
      if d.redist && stand g.1 == stand x && (stand x).isSome then a + share f d (stepOneAt s f m g.1 g.2.1 c) g.2.2 else a
    | none => a) 0

/-- Compensation of one driven subpixel whose overdriven value is `v` (Table 8.1). -/
def compensate (s : State) (f : Vals) (m : Mode) (ds : List Defect) (late : Bool) (x y c v : Nat) : Nat :=
  let v1 := stepOne s f m x y v
  let on := compOn f Par.COMP_DEFECT_ENABLE
  let own := if on then defectAt m ds y x c else none
  match own with
  | some d =>
    if !d.redist then 0
    else finish (min maxLevel (keptPart d v1 + sharesAt s f m ds x y c))
  | none => finish (if on && !ds.isEmpty then min maxLevel (v1 + sharesAt s f m ds x y c) else v1)
where
  /-- steps 3 and 4 -/
  finish (v2 : Nat) : Nat :=
    if v2 = 0 then 0
    else currentModel f s.pipe.ageGain (x * m.hRep) (y * m.rowsPerLine) c
      (if late then 0 else drivenResidual s.pipe.working m x y c) v2

/-! ### Tables of the stand banks (R243, R244) -/

/-- Offset of a byte of CODE_LUT within a copy of the tables: the model's own places. -/
abbrev lutOffset (b : Nat) : Nat := b
/-- the byte of MASK -/
abbrev maskOffset (b : Nat) : Nat := 65536 + b

/-- Offset in a bank of a byte of working copy `k`; the master, in BANK8, has one place (R243). -/
abbrev copyOffset (b k offset : Nat) : Nat := if b = 8 then offset else 131072 * k + offset

/-- Is the word of a byte of the tables uncorrectable in a bank: in the working copy in force, or in the master? -/
def wordBad (s : State) (b offset : Nat) : Bool := poisoned s b (copyOffset b s.pipe.tableCopy offset / 32 * 32)

/-- Does every byte of the two LUT entries that a value needs read from a bank? -/
def lutReads (s : State) (b c v : Nat) : Bool :=
  let i := isqrt (v * 4096) / 16
  !wordBad s b (lutOffset (c * 16384 + 4 * i)) && !wordBad s b (lutOffset (c * 16384 + 4 * min (i + 1) 4095))

/-- The place of a threshold in MASK. -/
def maskByte (f : Vals) (phase c x y : Nat) : Nat :=
  let (mx, my) := maskPlace (if f hDITHER Par.DITHER_MODE 0 = 1 then 0 else phase) x y
  c * 4096 + my * 64 + mx

/-- The threshold as the stand's tables give it: 128 where the word is uncorrectable (R237, R244). -/
def standThreshold (s : State) (f : Vals) (st c x y : Nat) : Nat :=
  if f hDITHER Par.DITHER_MODE 0 ≠ 0 ∧ wordBad s st (maskOffset (maskByte f s.pipe.phase c x y)) = true then 128
  else threshold f s.pipe.phase c x y

/-- Code, y, threshold and whether a limit changed it, for a compensated value; `last` the code of the nearest earlier subpixel
of the colour on the line (R233, R244). -/
def standCode (s : State) (f : Vals) (st c x y v last : Nat) : Nat × Nat × Nat × Bool :=
  let t := standThreshold s f st c x y
  if v = 0 then (zeroCode f c, 0, 0, false)
  else if !lutReads s st c v && !lutReads s 8 c v then (last, 0, t, false)
  else
    let (code, yv, cut) := driverCode f c v t
    (code, yv, t, cut)

/-- One coded subpixel: colour, code, y, threshold, limited. -/
abbrev Coded := Nat × Nat × Nat × Nat × Bool

/-- The codes of a slice, pixel after pixel; `last` the codes by colour before it. -/
def codeSlice (s : State) (f : Vals) (m : Mode) (st a y : Nat) : List Nat → List (List Nat × Nat) → List Coded
  | _, [] => []
  | last, (vs, i) :: rest =>
    let cs := vs.zipIdx.map fun v => (v.2, standCode s f st v.2 (a + i) y v.1 (last.getD v.2 (zeroCode f v.2)))
    cs ++ codeSlice s f m st a y (cs.map fun c => c.2.1) rest

/-- The stand column that holds a driven column. -/
def segmentAt (s : State) (m : Mode) (x : Nat) : Nat :=
  ((columnsOf s m).findIdx? fun c => decide (c.1 ≤ x) && decide (x < c.1 + c.2)).getD 0

/-- Is the residual segment of a driven column of a line late (R208)? -/
def residualLate (s : State) (m : Mode) (y x : Nat) : Bool := mget 0 s.pipe.resLate (16 * y + segmentAt s m x) != 0

/-- The compensated values of a slice. -/
def compSlice (s : State) (f : Vals) (m : Mode) (y a : Nat) (src : SliceSrc) : List (List Nat) :=
  let ds := if compOn f Par.COMP_DEFECT_ENABLE then defectList s m else []
  (sliceDriven s f m y a src).zipIdx.map fun p => p.1.zipIdx.map fun v =>
    compensate s f m ds (residualLate s m y (a + p.2)) (a + p.2) y v.2 v.1

/-- The codes by colour of the last pixel coded, after those of a slice. -/
def lastCodes (m : Mode) (last : List Nat) (cs : List Coded) : List Nat :=
  if cs = [] then last else (cs.drop (cs.length - m.sub)).map fun c => c.2.1

/-- The codes by colour of the line's pixel to the left of column `a` (R244). -/
def codesBefore (s : State) (f : Vals) (m : Mode) (y a : Nat) : List Nat :=
  ((slices s m).filter fun p => decide (p.2.1 < a)).foldl (fun last p =>
    lastCodes m last (codeSlice s f m (p.1 / 8) p.2.1 y last
      (compSlice s f m y p.2.1 (sliceSrc s m f p.1 y p.2.1 p.2.2)).zipIdx)) []

/-- All that a slice line becomes: levels after the white split, and coded subpixels. -/
def processSlice (s : State) (f : Vals) (m : Mode) (port y a : Nat) (src : SliceSrc) : List Nat × List Coded :=
  if s.raster.kind = .black then
    ([], src.px.flatMap fun _ => (List.range m.sub).map fun c => (c, zeroCode f c, 0, 0, false))
  else
    ((sliceLevels s f m s.pipe.gain y a src).flatten,
      codeSlice s f m (port / 8) a y (codesBefore s f m y a) (compSlice s f m y a src).zipIdx)

/-! ### Traces of errors -/

/-- The overlay words that a slice line reads and that are uncorrectable: layer, buffer, first pixel (R176). -/
def badOverlays (s : State) (f : Vals) (a w y : Nat) : List (Nat × Nat × Nat) :=
  (fetched f a w y).flatMap fun o =>
    if !lineIn o y ∨ rowBeyond o (y - o.y) then []
    else
      let words := fun x => let (p, q) := pixelBytes o (x - o.x) (y - o.y)
                            [p / 32, q / 32].filter fun k => mget false s.sram.poison (overlayAddr (32 * k))
      let xs := ((List.range w).map (a + ·)).filter fun x => decide (o.x ≤ x ∧ x < o.x + o.w)
      (xs.flatMap words).eraseDups.map fun k => (o.h, o.buffer, (xs.find? fun x => (words x).contains k).getD a)

/-- R176 for a slice line. -/
def noteOverlays (f : Vals) (a w y : Nat) (s : State) : State :=
  (badOverlays s f a w y).foldl (fun s e => raise 0x0321 e.1 ([e.2.1] ++ u16 y ++ u16 e.2.2) (addUe e.1 1 s)) s

/-- The words of a stand's working tables that a coded slice line found uncorrectable: offsets (R244). -/
def badTables (s : State) (f : Vals) (st a y : Nat) (values : List (List Nat)) : List Nat :=
  (values.zipIdx.flatMap fun p => p.1.zipIdx.flatMap fun v =>
    let i := isqrt (v.1 * 4096) / 16
    let lut := if v.1 = 0 then [] else
      [lutOffset (v.2 * 16384 + 4 * i), lutOffset (v.2 * 16384 + 4 * min (i + 1) 4095)]
    let mask := if v.1 = 0 ∨ f hDITHER Par.DITHER_MODE 0 = 0 then []
      else [maskOffset (maskByte f s.pipe.phase v.2 (a + p.2) y)]
    (lut ++ mask).filter fun o => wordBad s st o).map (· / 32 * 32) |>.eraseDups

/-- R244 for a slice line: each word is counted, reported and repaired at the next line boundary where its master reads. -/
def noteTables (st y : Nat) (words : List Nat) (s : State) : State :=
  words.foldl (fun s o =>
    if mget false s.pipe.tableBad (131072 * st + o / 32) then s
    else
      let s := addUe (hBANK st) 1 (addCe hDITHER 1 s)
      let master := wordBad s 8 o
      let table := if o < 65536 then 0 else 1
      let s := raise 0x0350 hDITHER ([st] ++ u16 y ++ [table, 0]) s
      let s := if master then
          let s := raise 0x0350 hDITHER ([st] ++ u16 y ++ [table, 1]) s
          if table = 0 then { s with pipe.ditherLimited := true } else s
        else s
      { s with pipe.tableBad := mput false s.pipe.tableBad (131072 * st + o / 32) true }) s

/-- The repairs due at a line boundary (R244). -/
def repairTables (s : State) : State :=
  s.pipe.tableBad.foldl (fun s e =>
    let st := e.1 / 131072
    let o := e.1 % 131072 * 32
    if wordBad s 8 o then s
    else incSat hDITHER Par.DITHER_LUT_REPAIRS 1 (setPoison st (copyOffset st s.pipe.tableCopy o) false s)) { s with pipe.tableBad := [] }

/-- The stand columns that a slice touches. -/
def segmentsOf (s : State) (m : Mode) (a w : Nat) : List Nat :=
  ((columnsOf s m).zipIdx.filter fun c => decide (c.1.1 < a + w) && decide (a < c.1.1 + c.1.2)).map (·.2)

/-- Residual segments that Compensation takes as zero: each is counted once (R208). -/
def noteResidual (m : Mode) (y a w : Nat) (s : State) : State :=
  if !cfgB s hCOMP Par.COMP_ENABLE || !cfgB s hCOMP Par.COMP_RES_ENABLE then s
  else (segmentsOf s m a w).foldl (fun s c =>
    if mget 0 s.pipe.resLate (16 * y + c) = 1 then
      incSat hCOMP Par.COMP_RES_LATE 1 { s with pipe.resLate := mput 0 s.pipe.resLate (16 * y + c) 2 }
    else s) s

/-- Segments of a line that pass without a previous level: each is counted once (R191, R199). -/
def previousMissing (m : Mode) (y cause : Nat) (cols : List Nat) (s : State) : State :=
  cols.foldl (fun s c =>
    let key := 16 * y + c
    if mget false s.pipe.noPrev key then s
    else
      let s := incSat hOVERDRIVE Par.OVERDRIVE_PREV_UNAVAILABLE 1 { s with pipe.noPrev := mput false s.pipe.noPrev key true }
      raise 0x0311 hOVERDRIVE ([c / max 1 (partsOf s m)] ++ u16 y ++ [cause]) s) s

/-- The read of a slice's previous level: the blocks decoded, the overlay words met, the segments that pass without it (R191, R193). -/
def notePrevious (m : Mode) (y a w : Nat) (src : SliceSrc) (s : State) : State :=
  if s.pipe.odSuspended.isSome then s
  else if src.subst.isSome then previousMissing m y 1 (segmentsOf s m a w) s
  else match s.raster.prev with
  | none => s
  | some r =>
    let f := cfgOf r.cfg (gradeX s)
    let s := noteOverlays f a w y s
    match previousSlot s m f y a w with
    | some n =>
      let x := slotAt s n
      let skips := skipsOf s f r.mode x
      let lost := (columnsOver x a w).filter fun c => match readSegment s skips n y c with
        | .ok _ => false
        | .error _ => true
      previousMissing m y 0 lost (countRead skips n y a w s)
    | none => if baseless f a w y ∨ s.fstore.previous = none then s else previousMissing m y 0 (segmentsOf s m a w) s

/-- The covering layer's count of a covered tile-line segment (R170). -/
def noteCovered (f : Vals) (a w y : Nat) (s : State) : State :=
  match coveringLayer f a w y with
  | some o => incWrap o.h Par.LAYER_COVERED 1 s
  | none => s

/-! ### Queueing -/

/-- The tick of a port's line deadline (R14). -/
def deadlineOf (s : State) (port line : Nat) : Nat :=
  lineTick s line + cfg s (hHALF (port / 32)) Par.HALF_SKEW_TRIM - 64

/-- The next line that a port's tile has not queued in this frame. -/
def nextLine (s : State) (port : Nat) : Nat := match mget none s.pipe.done port with
  | some l => l + 1
  | none => 0

/-- Landing lines that every enabled port is done with leave; the line above the last one is kept, since Compensation holds two lines (R13,
R19). -/
def freeLanding (m : Mode) (s : State) : State :=
  let ps := slices s m
  let least := ps.foldl (fun a p => min a (nextLine s p.1)) m.height
  { s with rx.landing := s.rx.landing.filter fun e => decide (65536 ≤ e.1) || decide (least ≤ e.1 + 1) }

/-- The subpixel that PROBE of DITHER names: column, line, colour (Table 9.3). -/
def probeOf (s : State) : Nat × Nat × Nat :=
  let p := cfg s hDITHER Par.DITHER_PROBE
  (p % 16384, p / 16384 % 8192, p / 134217728 % 4)

/-- A finished slice line enters the port's queue, with the records of its frame (R13, R187, R242). -/
def queueSlice (m : Mode) (port line a : Nat) (r : List Nat × List Coded) (subst : Bool) (s : State) : State :=
  let codes := r.2.map fun c => c.2.1
  let key := 64 * line + port
  let (px, py, pc) := probeOf s
  let w := codes.length / max 1 m.sub
  let probe := if py = line ∧ a ≤ px ∧ px < a + w ∧ pc < m.sub then
      (r.2[(px - a) * m.sub + pc]?).map fun c => [c.2.2.1, c.2.2.2.1, c.2.1]
    else none
  freeLanding m { s with
    pipe.queues := mput [] s.pipe.queues port (mget [] s.pipe.queues port ++ [⟨line, codes, subst⟩])
    pipe.done := mput none s.pipe.done port (some line)
    pipe.levels := mput [] s.pipe.levels key r.1
    pipe.codesNow := mput [] s.pipe.codesNow key codes
    pipe.substNow := if subst then mput false s.pipe.substNow key true else s.pipe.substNow
    pipe.clipped := s.pipe.clipped + (r.2.filter fun c => c.2.2.2.2).length
    pipe.probe := probe.or s.pipe.probe }

/-- Counts a substitution at the tile that served the slice: 0 input, 1 deadline, 2 store (R467). -/
def countSubst (port reason : Nat) (s : State) : State :=
  let st := port / 8
  let h := hTILE st (slotTile s st (port % 8))
  incSat hSTAG Par.STAG_SUBSTITUTIONS 1 (incSat h (Par.TILE_SUBST_INPUT + reason) 1 s)

/-- What the tile met and counts while it processed a slice line, its display read and its substitution included (R170, R171, R176, R191,
R208, R244, R322, R467). -/
def noteSlice (m : Mode) (port line a w : Nat) (src : SliceSrc) (s : State) : State :=
  let f := valsNow s
  let st := port / 8
  let bad := badTables s f st a line (compSlice s f m line a src)
  let s := noteCovered f a w line (noteOverlays f a w line s)
  let s := notePrevious m line a w src (noteResidual m line a w (noteTables st line bad s))
  let s := match src.read with
    | some (n, ys, lo, cnt) => countRead (skipsOf s f m (slotAt s n)) n ys lo cnt s
    | none => s
  let cut := match src.read with
    | some (n, _) => !sameSize (slotAt s n) m
    | none => !baseless f a w line
  let s := if cut || src.subst.isSome then { s with pipe.crcSkip := mput false s.pipe.crcSkip st true } else s
  match src.subst with
  | some k =>
    let s := if baseless f a w line then s else countSubstitute s.fstore.previous m line a w s
    countSubst port k s
  | none => s

/-- A slice line is sent from the substitution source (R34, R309, R467). -/
def substituteLine (m : Mode) (port line a w reason : Nat) (s : State) : State :=
  let f := valsNow s
  let src := substSrc s m f line a w reason
  let r := processSlice s f m port line a src
  queueSlice m port line a r true (noteSlice m port line a w src s)

/-- A line's deadline passes with the line not queued (R14, R462, R467). -/
def missDeadline (m : Mode) (port line a w : Nat) (s : State) : State :=
  let st := port / 8
  let t := slotTile s st (port % 8)
  let h := hTILE st t
  if s.raster.kind = .black then
    queueSlice m port line a (processSlice s (valsNow s) m port line a { px := List.replicate w none }) false s
  else
    let failed := (sliceSrc s m (valsNow s) port line a w).subst
    match failed with
    | some r => substituteLine m port line a w r s
    | none =>
      let s := raise 0x0D07 h (u16 h ++ u16 line ++ s16 (-32768)) s
      fastRise h (-32768) (substituteLine m port line a w 1 s)

/-- Every line of a port up to `line` that is not queued misses its deadline; `n` bounds their number. -/
def missUpTo (m : Mode) (port line a w : Nat) : Nat → State → State
  | 0, s => s
  | n + 1, s =>
    let l := nextLine s port
    if line < l ∨ m.height ≤ l then s else missUpTo m port line a w n (missDeadline m port l a w s)

/-- LINE_DEADLINE: a tile has not queued the line by its deadline (R14). -/
def execLineDeadline (port line : Nat) (s : State) : Host.Outcome State Fault Refusal :=
  .next (let m := s.raster.mode
    match slice s m port with
    | none => s
    | some (a, w) =>
      if s.raster.stopped ∨ m.height ≤ line ∨ line < nextLine s port ∨ s.raster.cur.isNone then s
      else missUpTo m port line a w (line + 1) (advanceTo (deadlineOf s port line) s))

/-! ### Beat failures -/

/-- A beat fails its CRC (R451). -/
def beatFails (port line place : Nat) (s : State) : State :=
  let st := port / 8
  let t := slotTile s st (port % 8)
  let h := if place = 0 then hTILE st t else hSTAND st
  let s := incSat h (if place = 0 then Par.TILE_BEAT_ERRORS else Par.STAND_BEAT_ERRORS) 1 s
  let s := raise 0x0D08 h (u16 h ++ u16 line ++ [place]) s
  let x := tile s st t
  setTile st t { x with beats := x.beats ++ [(s.now, opSeconds s)] } s

/-- Has a tile met the beat-failure rule: 3 within 1 s, or 16 within 24 hours of operating time (R454)?  Failures older than
24 hours are dropped. -/
def beatRule (port : Nat) (s : State) : State :=
  let st := port / 8
  let t := slotTile s st (port % 8)
  let x := tile s st t
  let day := x.beats.filter fun b => decide (opSeconds s < b.2 + 86400)
  let s := setTile st t { x with beats := day } s
  let second := day.filter fun b => decide (s.now < b.1 + tickS)
  if 3 ≤ second.length ∨ 16 ≤ day.length then fellTile st t 1 s else s

/-! ### TILE_LINE_QUEUED -/

/-- A slice line of a live frame whose input is unusable and of which the picture takes nothing: its substitution in the stored frame is
counted at the tile (R118, R467). -/
def noteUnshown (port line a w : Nat) (s : State) : State :=
  match s.raster.kind, mget none s.rx.landing line with
  | .live, some l => if baseless (valsNow s) a w line && spansTouch l.bad a w then countSubst port 0 s else s
  | _, _ => s

/-- The tile finishes a line: the picture, its records, the slack (R19, R458, R462). -/
def finishLine (m : Mode) (port line a w : Nat) (src : SliceSrc) (s : State) : State :=
  let st := port / 8
  let t := slotTile s st (port % 8)
  let h := hTILE st t
  let r := processSlice s (valsNow s) m port line a src
  let s := noteUnshown port line a w (noteSlice m port line a w src s)
  let slack := (deadlineOf s port line : Int) - s.now
  let x := tile s st t
  let s := setTile st t { x with slack := min x.slack slack } s
  let s := queueSlice m port line a r src.subst.isSome s
  if slack < cfgI s hSTAG Par.STAG_SLACK_GUARD then fastRise h slack s else s

/-- A slice line with its beat failures: the first is replayed, a second substitutes the line at once (R452). -/
def playLine (m : Mode) (port line a w : Nat) (beats : List Nat) (src : SliceSrc) (s : State) : State :=
  let st := port / 8
  let t := slotTile s st (port % 8)
  let h := hTILE st t
  match beats with
  | [] => finishLine m port line a w src s
  | [b] =>
    let s := finishLine m port line a w src (beatFails port line b s)
    beatRule port (raise 0x0D09 h (u16 h ++ u16 line) (incSat h Par.TILE_REPLAYS 1 (addCe h 1 s)))
  | b :: b' :: _ =>
    beatRule port (substituteLine m port line a w 1 (beatFails port line b' (beatFails port line b s)))

/-- TILE_LINE_QUEUED: the tile that serves a port finishes its next line, whose input has come, while the queue has room and
the deadline has not passed; a deadline that has passed is missed (R13, R14, R19, R452). -/
def execTileLineQueued (port line : Nat) (beats : List Nat) (s : State) : Host.Outcome State Fault Refusal :=
  .next (let m := s.raster.mode
    match slice s m port with
    | none => s
    | some (a, w) =>
      if s.raster.stopped ∨ s.raster.cur.isNone ∨ m.height ≤ line ∨ line ≠ nextLine s port
          ∨ 2 ≤ (mget [] s.pipe.queues port).length then s
      else if deadlineOf s port line < s.now then
        let late := missUpTo m port line a w (line + 1) s
        match beats with
        | [] => late
        | b :: _ =>
          let st := port / 8
          beatRule port (addUe (hTILE st (slotTile s st (port % 8))) 1 (beatFails port line b late))
      else if s.raster.kind = .black then
        queueSlice m port line a (processSlice s (valsNow s) m port line a { px := List.replicate w none }) false s
      else
        let src := sliceSrc s m (valsNow s) port line a w
        if !src.ready then s else playLine m port line a w beats src s)

end Sys2Proof.Machine
end

