-- ==== Sys2Proof/Machine/Input.lean ====
section
/-! DEFINITION. The lines of an input frame (R116 to R118): the spans of a line in progress, a whole or a missing line delivered to
the landing buffer and to the frame-store write, and the end of a frame's input. -/

namespace Sys2Proof.Machine

/-- A span put into a list of spans in ascending order. -/
def putSpan (x : Nat × Nat) : List (Nat × Nat) → List (Nat × Nat)
  | [] => [x]
  | y :: ys => if x.1 < y.1 then x :: y :: ys else y :: putSpan x ys

/-- The pixels from `a` to below `w` that ascending spans leave uncovered. -/
def spanGaps (w : Nat) : Nat → List (Nat × Nat) → List (Nat × Nat)
  | a, [] => if a < w then [(a, w - a)] else []
  | a, (x, n) :: r => (if a < x then [(a, x - a)] else []) ++ spanGaps w (max a (x + n)) r

/-- The ports of a stand that carry a slice, with their slices. -/
def standSlices (s : State) (m : Mode) (st : Nat) : List (Nat × Nat × Nat) := (slices s m).filter fun p => p.1 / 8 == st

/-- Bytes of the part of an input line that a stand's tiles need (R115). -/
def standBytes (s : State) (m : Mode) (st : Nat) : Nat :=
  packedSize (depthBits m.depth) ((standSlices s m st).foldl (fun a p => a + p.2.2) 0)

/-- Whole lines that a stand's landing buffer and its spill hold: those of the frame being scanned that some tile of the stand has not
queued, and those of a frame that waits (R13). -/
def standHeld (s : State) (m : Mode) (st : Nat) : Nat :=
  s.rx.landing.countP fun e => decide (65536 ≤ e.1) || (standSlices s m st).any fun p => decide (nextLine s p.1 ≤ e.1)

/-- Bytes of the queued Region-Updates, which share BANK18 with the spill (R13, R123). -/
def regionBytes (s : State) (m : Mode) : Nat :=
  s.rx.regions.foldl (fun a r => a + r.h * packedSize (depthBits m.depth) r.w) 0

/-- Is there room for one more whole line?  Each stand's landing buffer holds the line in progress and one earlier line, and what is beyond that
spills into what the Region-Updates leave of the 4 MiB of BANK18 (R13; DESIGN CHOICE: log entry 22). -/
def landingRoom (s : State) (m : Mode) : Bool :=
  decide ((List.range 8).foldl (fun a st => a + standHeld s m st * standBytes s m st) 0 + regionBytes s m ≤ 4194304)

/-- Is a line of the frame wanted in the landing buffer: of a live frame being scanned, or of one that is not yet too late for
a live anchor (R143)? -/
def landingWants (s : State) (r : RxFrame) : Bool :=
  if r.taken then s.raster.kind == .live
  else decide (s.now ≤ r.t0 + clockTicks s (16 * linePeriod s.raster.mode / 256))

/-- A line enters the landing buffer; when the spill is full too, the newest line counts as failed (R13). -/
def landLine (r : RxFrame) (y : Nat) (codes : List Nat) (bad : List (Nat × Nat)) (s : State) : State :=
  let key := if r.taken then y else 65536 + y
  { s with rx.landing := mput none s.rx.landing key (some ⟨codes, bad⟩) }

/-- The slices of a line that will not be shown live and that its input leaves unusable are counted as substituted where the line is written
(R118, R467). -/
def countStored (m : Mode) (bad : List (Nat × Nat)) (s : State) : State :=
  (slices s m).foldl (fun s p => if spansTouch bad p.2.1 p.2.2 then countSubst p.1 0 s else s) s

/-- A line, whole or with bad spans, is delivered (R21, R118). -/
def deliverLine (r : RxFrame) (y : Nat) (codes : List Nat) (bad : List (Nat × Nat)) (s : State) : State :=
  let m := s.raster.mode
  if r.black then
    let s := if landingWants s r then landLine r y [] [] s else s
    storeInputLine m [] [] s
  else if landingWants s r && !landingRoom s m then
    let s := raise 0x0120 hLINK (u16 r.frame ++ u16 y ++ u16 0 ++ u16 r.width) (incSat hLINK Par.LINK_LINES_FAILED 1 s)
    storeInputLine m codes [(0, r.width)] (landLine r y codes [(0, r.width)] s)
  else
    let s := if landingWants s r then landLine r y codes bad s else countStored m bad s
    storeInputLine m codes bad s

/-- The component codes of the line in progress. -/
def lineCodes (r : RxFrame) : List Nat := mgetList 0 r.codes 0 (3 * r.width)

/-- The line in progress is missing some pixels: counted, reported and delivered with them marked (R118). -/
def lineMissing (r : RxFrame) (y : Nat) (codes : List Nat) (bad gaps : List (Nat × Nat)) (s : State) : State :=
  let s := incSat hLINK Par.LINK_LINES_MISSING 1 s
  let s := raise 0x0121 hLINK (u16 r.frame ++ u16 y ++ u16 (gaps.headD (0, 0)).1) s
  deliverLine r y codes (bad ++ gaps) s

/-- `n` whole lines from `y` on are missing. -/
def linesMissing (r : RxFrame) : Nat → Nat → State → State
  | 0, _, s => s
  | n + 1, y, s =>
    linesMissing r n (y + 1) (lineMissing r y (List.replicate (3 * r.width) 0) [] [(0, r.width)] s)

/-- Every line below `upTo` that is not whole is missing; the line in progress becomes `upTo`. -/
def closeLines (r : RxFrame) (upTo : Nat) (s : State) : State :=
  if upTo ≤ r.line ∨ r.height ≤ r.line then s
  else
    let gaps := spanGaps r.width 0 r.spans
    let s := if gaps = [] then s else lineMissing r r.line (lineCodes r) r.bad gaps s
    let s := linesMissing r (min upTo r.height - (r.line + 1)) (r.line + 1) s
    { s with rx.cur := some { r with line := upTo, spans := [], bad := [], codes := [] } }

/-- The input of the frame in progress ends: its outstanding lines are missing (R118). -/
def endInput (s : State) : State :=
  match s.rx.cur with
  | none => s
  | some r =>
    if r.ended then { s with rx.cur := none }
    else
      let s := closeLines r r.height s
      { s with rx.cur := none }

/-- The frame whose input is in progress is dropped: its lines to come are discarded. -/
def forgetInput (s : State) : State :=
  match s.rx.cur with
  | none => s
  | some _ => { s with rx.cur := none, rx.refused := true }

end Sys2Proof.Machine
end

