-- ==== Sys2Proof/Machine/Sideband.lean ====
section
/-! DEFINITION. The AUX pair (04, R126 to R130): the requests of the KL8640 in the order of their channels, the segments of its
dictionary frames, the answers to the source's requests, and CREDIT. -/

namespace Sys2Proof.Machine

/-- Does the AUX pair carry requests?  From the start of DETECT until the pair is handed to its wake detector. -/
def auxAwake (s : State) : Bool := s.link.phase != .off

/-- Does a training hold the pair (R130)? -/
def auxHeld (s : State) : Bool := match s.link.phase with
  | .bitlock | .blocklock | .deskew | .eqreq | .verify => true
  | _ => false

/-- A data field of a segmented frame (R73, R129): segment `k` with `room` bytes of what is left, and the rest. -/
def segmentOf (bytes : List Nat) (k room : Nat) : List Nat × List Nat :=
  let rest := bytes.drop room
  (((if k = 0 then 128 else 0) + (if rest = [] then 64 else 0) + k % 64) :: bytes.take room, rest)

/-- The oldest request of a channel that waits. -/
def auxTake (c : Nat) (s : State) : Option (AuxReq × State) :=
  (s.aux.queue.find? fun r => r.channel == c).map fun r => (r, { s with aux.queue := s.aux.queue.erase r })

/-- The next segment of a dictionary frame of the sideband port (R129). -/
def auxSegment (s : State) : Option (AuxReq × State) :=
  let cut := fun (b : List Nat) (k : Nat) (s : State) =>
    let (d, rest) := segmentOf b k 1023
    some ((⟨1, d⟩ : AuxReq), { s with aux.sending := if rest = [] then none else some (rest, k + 1) })
  match s.aux.sending with
  | some (b, k) => cut b k s
  | none => match s.ctrl.sideband.outbound with
    | [] => none
    | f :: fs => cut f.bytes 0 (incWrap hAUXPORT Par.CTRLPORT_TX_FRAMES 1
        { s with ctrl.sideband := { s.ctrl.sideband with outbound := fs, closing := s.ctrl.sideband.closing.map (· - 1) } })

/-- The request that is due next: channels 0, 4, 2, 1 in this order, and only 0 and 4 while a training holds the pair (R129,
R130).  A segment that was not taken waits on channel 1 before the next one. -/
def auxNext (s : State) : Option (AuxReq × State) :=
  let held := auxHeld s
  (auxTake 0 s).or ((auxTake 4 s).or (if held then none else (auxTake 2 s).or ((auxTake 1 s).or (auxSegment s))))

/-- The next request starts where none awaits its answer (R126, R128). -/
def auxPump (s : State) : State :=
  if s.aux.waiting.isSome || !auxAwake s then s
  else match auxNext s with
  | none => s
  | some (r, s) => incWrap hAUX Par.AUX_TX_FRAMES 1
      { s with aux.waiting := some (s.aux.nextId, r, 1), aux.nextId := (s.aux.nextId + 1) % 256, aux.sentAt := s.now }

/-- A request of the KL8640 is due. -/
def auxPush (channel : Nat) (payload : List Nat) (s : State) : State :=
  auxPump { s with aux.queue := s.aux.queue ++ [⟨channel, payload⟩] }

/-- The request that awaits its answer is sent again, with its ID (R128). -/
def auxRepeat (s : State) : State :=
  match s.aux.waiting with
  | none => s
  | some (id, r, n) => incSat hAUX Par.AUX_RETRIES 1 (incWrap hAUX Par.AUX_TX_FRAMES 1
      { s with aux.waiting := some (id, r, n + 1), aux.sentAt := s.now })

/-- The request that awaits its answer is done with. -/
def auxDone (s : State) : State := { s with aux.waiting := none }

/-- The free entries of the queue of Region-Updates (R123). -/
def regionsFree (s : State) : Nat := 16 - s.rx.regions.length

/-- REGION_LIMIT brought up to date (R123). -/
def showRegionLimit (s : State) : State :=
  changeRes hLINK Par.LINK_REGION_LIMIT ((s.rx.lastRegion + regionsFree s) % 65536) s

/-- CREDIT is due, in place of one that still waits (R129). -/
def sendCredit (s : State) : State :=
  let s := showRegionLimit s
  let s := { s with aux.queue := s.aux.queue.filter fun r => r.channel != 2 }
  auxPush 2 ([credits s .sideband] ++ u16 (res s hLINK Par.LINK_REGION_LIMIT)) s

/-! ### What the source sends -/

/-- The wait of R99 returns to 10 ms, for the wait in progress too. -/
def shortWait (s : State) : State :=
  let s := { s with link.failures := 0 }
  if s.link.phase ≠ .backoff then s
  else changeRes hLINK Par.LINK_BACKOFF 10 { s with link.backoffTo := max s.now (s.link.since + 10 * tickMs) }

/-- A message of the source has arrived: counted, and the wait of R99 returns to 10 ms. -/
def auxHeard (s : State) : State := incWrap hAUX Par.AUX_RX_FRAMES 1 (shortWait s)

/-- The check of an AUX frame (Table 4.6). -/
def auxCheck (byte0 id : Nat) (payload : List Nat) : Nat := crc16 ([byte0, id] ++ u16 payload.length ++ payload)

/-- A frame as its sender makes it. -/
def auxFrame (byte0 id : Nat) (payload : List Nat) : AuxFrame := ⟨byte0, id, payload.length, payload, auxCheck byte0 id payload⟩

/-- Does a frame's check pass?  LEN is its payload's length, at most 1024 (Table 4.6). -/
def auxFrameOk (f : AuxFrame) : Bool :=
  f.len == f.payload.length && decide (f.len ≤ 1024) && auxCheck f.byte0 f.id f.payload == f.check

/-- CHANNEL of a frame, and is it an answer (Table 4.6)? -/
def auxChannel (f : AuxFrame) : Nat := f.byte0 % 16
/-- ACK -/
def auxIsAnswer (f : AuxFrame) : Bool := f.byte0.testBit 7

/-- A frame whose check fails is counted and not answered (R127). -/
def auxBroken (s : State) : State := incSat hAUX Par.AUX_CHECK_ERRORS 1 s

/-- The answer to the last request, where this one has the same channel, ID and check (R128). -/
def auxRepeated (s : State) (f : AuxFrame) : Bool :=
  match s.aux.answered with
  | some (c, i, k, _) => c == auxChannel f && i == f.id && k == f.check
  | none => false

/-- A request of the source is answered (R127); the answer is kept (R128). -/
def auxReply (f : AuxFrame) (answer : List Nat) (s : State) : State :=
  incWrap hAUX Par.AUX_TX_FRAMES 1 { s with aux.answered := some (auxChannel f, f.id, f.check, answer) }

/-- The same answer leaves again, without a second effect (R128). -/
def auxReplyAgain (s : State) : State := incWrap hAUX Par.AUX_TX_FRAMES 1 s

/-- A request of the source (R126 to R128): a frame whose check fails is counted and not answered, a repeated request gets the answer kept,
and any other the answer that `act` gives, status first. -/
def auxRequest (act : State → List Nat × State) (f : AuxFrame) (s : State) : State :=
  if !auxAwake s then s
  else if !auxFrameOk f then auxBroken s
  else if auxIsAnswer f then s
  else if auxRepeated s f then auxReplyAgain (auxHeard s)
  else
    let (a, s) := act (auxHeard s)
    auxReply f a s

/-! ### Link key sets (R422) -/

/-- KEY_SETS. -/
def keySetBits (s : State) : Nat := (if s.sec.set0.isSome then 1 else 0) + (if s.sec.set1.isSome then 2 else 0)

/-- The sets named that are held are discarded, with event 0x0B09. -/
def dropKeys (sets cause : Nat) (s : State) : State :=
  let lost := Nat.land sets (keySetBits s)
  if lost = 0 then s
  else
    let s := if lost.testBit 0 then { s with sec.set0 := none, sec.last0 := none } else s
    let s := if lost.testBit 1 then { s with sec.set1 := none, sec.last1 := none } else s
    raise 0x0B09 hSEC [lost, cause] (changeRes hSEC Par.SEC_KEY_SETS (keySetBits s) s)

/-- CP_KEYS_LOST is due (Table 16.5): it waits until the pair carries requests. -/
def tellKeysLost (sets cause : Nat) (s : State) : State := auxPush 4 [6, sets, cause] s

/-- What a request on a channel that the source has no use of is answered: UNKNOWN on channels 5 to 15 (R127), DEFER on channel 2 while a
training holds the pair (R130), and TAKEN without effect on channel 2 beside it (DESIGN CHOICE: log entry 14). -/
def otherChannel (f : AuxFrame) (s : State) : List Nat × State :=
  if 5 ≤ auxChannel f then ([3], s)
  else if auxHeld s then ([2], incSat hAUX Par.AUX_DEFERRED 1 s)
  else ([0], s)

/-- AUX_UNKNOWN_CHANNEL: a request on a reserved channel, or on channel 2, of which only the KL8640 makes requests (R127, R130). -/
def execAuxUnknownChannel (f : AuxFrame) (s : State) : Host.Outcome State Fault Refusal :=
  .next (if 5 ≤ auxChannel f ∨ auxChannel f = 2 then auxRequest (otherChannel f) f s else s)

end Sys2Proof.Machine
end

