-- ==== Sys2Proof/Machine/Link.lean ====
section
/-! DEFINITION. The Swerok link's lanes and training (03): the states of Table 3.5 (R95), weak and excluded lanes (R93, R98), the
episode and its end (R96, R97), backoff (R99, R105), idle and fast exit (R101 to R103), loss of lock (R104), committed changes
(R106), the fit rule (R122, R520), and the answers that AUX brings (R127, R128). -/

namespace Sys2Proof.Machine

/-! ### Lanes -/

/-- A lane replaced. -/
def setLane (n : Nat) (x : LaneSt) (s : State) : State := { s with link.lanes := mput {} s.link.lanes n x }

/-- The lanes still in the training in progress. -/
def lanesIn (s : State) : List Nat := (List.range 16).filter fun n => (lane s n).tried

/-- The active lanes. -/
def lanesActive (s : State) : List Nat := (List.range 16).filter fun n => (lane s n).active

/-- A mask of lanes. -/
def maskOf (l : List Nat) : Nat := l.foldl (fun m n => Nat.lor m (2 ^ n)) 0

/-- STATE of a lane (Table 3.10). -/
def laneState (s : State) (n : Nat) : Nat :=
  let x := lane s n
  if x.retired then 4
  else if !(cfg s hLINK Par.LINK_LANES_ENABLE).testBit n ∨ s.link.phase = .off then 0
  else if x.active then (if s.link.phase = .idle then 5 else 2)
  else if auxHeld s ∧ s.link.tried.contains n = true then (if x.tried then 1 else 3)
  else if x.excluded then 3 else 0

/-- STATE of every lane brought up to date. -/
def showLanes (s : State) : State :=
  (List.range 16).foldl (fun s n => changeRes (hLANE n) Par.LANE_STATE (laneState s n) s) s

/-- The codes of `0300:400` and of event 0x0103. -/
def phaseCode : LinkPhase → Nat
  | .off => 0
  | .detect => 0
  | .bitlock => 1
  | .blocklock => 2
  | .deskew => 3
  | .eqreq => 4
  | .verify => 5
  | .active => 6
  | .idle => 7
  | .backoff => 8

/-- The link passes to a state; `0300:408` reads 0 beside BACKOFF (DESIGN CHOICE: log entry 15). -/
def setPhase (p : LinkPhase) (s : State) : State :=
  let s := { s with link.phase := p, link.since := s.now }
  let s := changeRes hLINK Par.LINK_STATE (phaseCode p) s
  showLanes (if p = .backoff then s else changeRes hLINK Par.LINK_BACKOFF 0 s)

/-- The results of a lane's report. -/
def showLane (n : Nat) (s : State) : State :=
  let x := lane s n
  let s := changeRes (hLANE n) Par.LANE_CTLE x.ctle s
  let s := changeRes (hLANE n) Par.LANE_MARGIN x.margin s
  let s := changeRes (hLANE n) Par.LANE_SOURCE_LANE x.source s
  let s := changeRes (hLANE n) Par.LANE_INVERTED (if x.inverted then 1 else 0) s
  if (List.range 3).all fun i => res s (hLANE n) Par.LANE_TX_TAPS i == x.taps.getD i 0 then s
  else setResList (hLANE n) Par.LANE_TX_TAPS (x.taps.map Int.ofNat) s

/-! ### The fit rule (R122) -/

/-- Block time in ns × 8 (Table 3.1). -/
def linkBlockTime (rate : Nat) : Nat := 132 / (rate + 1)

/-- f of R122 as a fraction. -/
def fitFactor (shared : Bool) : Nat × Nat := if shared then (4097, 4096) else (4195327, 4190208)

/-- c × t_block of `lanes` lanes in ns × 8. -/
def fitColumns (m : Mode) (lanes rate : Nat) : Nat :=
  let b := (20 + packedSize (depthBits m.depth) m.width + 15) / 16
  (b + lanes - 1) / lanes * linkBlockTime rate

/-- Do `lanes` active lanes carry a mode? -/
def linkFits (m : Mode) (shared : Bool) (lanes rate : Nat) : Bool :=
  let (a, b) := fitFactor shared
  decide (0 < lanes)
    && decide (fitColumns m lanes rate * a * (m.height + m.vblank) * m.refresh ≤ 8 * b * 1000000000 * 65536)

/-- Is the clocking SHARED? -/
def sharedClock (s : State) : Bool := cfg s hLINK Par.LINK_CLOCKING == 1

/-- FIT_NEED_NS and FIT_LINE_NS (Table 4.10), rounded down and at most 65 535 (DESIGN CHOICE: log entry 16). -/
def showFit (s : State) : State :=
  let m := modeNow s
  let n := (lanesActive s).length
  let (a, b) := fitFactor (sharedClock s)
  let need := if n = 0 then 65535 else min 65535 (fitColumns m n s.link.rate * a / (8 * b))
  changeRes hLINK Par.LINK_FIT_LINE_NS (min 65535 (1000000000 * 65536 / ((m.height + m.vblank) * m.refresh)))
    (changeRes hLINK Par.LINK_FIT_NEED_NS need s)

/-- PAYLOAD of `n` lanes in Mbit/s (R26). -/
def payloadOf (n rate : Nat) : Nat := n * 8000 * (rate + 1) * 128 / 132

/-- RATE, ACTIVE_LANES, PAYLOAD and LANE_MAP brought up to date. -/
def showLink (s : State) : State :=
  let act := lanesActive s
  let s := changeRes hLINK Par.LINK_RATE s.link.rate s
  let s := changeRes hLINK Par.LINK_ACTIVE_LANES (maskOf act) s
  let s := changeRes hLINK Par.LINK_PAYLOAD (payloadOf act.length s.link.rate) s
  let s := if (List.range 16).all fun i => res s hLINK Par.LINK_LANE_MAP i == s.link.map.getD i 255 then s
    else setResList hLINK Par.LINK_LANE_MAP ((List.range 16).map fun i => ((s.link.map.getD i 255 : Nat) : Int)) s
  showFit s

/-! ### Messages (Table 3.6) -/

/-- CAPS of the KL8640. -/
def capsMessage (s : State) : List Nat :=
  [1, 1, cfg s hLINK Par.LINK_RATE_MAX] ++ u16 (cfg s hLINK Par.LINK_LANES_ENABLE)
    ++ [3 + (if cfgB s hLINK Par.LINK_REFCLK_SPREAD then 4 else 0)]

/-- The KL8640 lane among `l` that a source lane feeds. -/
def laneOfSource (s : State) (l : List Nat) (k : Nat) : Option Nat := l.find? fun n => (lane s n).source == k

/-- The taps of source lanes 0 to 15 in RESULT; a source lane that no logical lane takes is given P0 (DESIGN CHOICE: log entry 17). -/
def resultTaps (s : State) : List Nat :=
  (List.range 16).flatMap fun k => match laneOfSource s s.link.map k with
    | some n => (lane s n).taps
    | none => [0, 48, 0]

/-- RESULT. -/
def resultMessage (s : State) (outcome : Nat) : List Nat :=
  let sources := s.link.map.map fun n => (lane s n).source
  [6, s.link.attempt, s.link.rate, outcome] ++ u16 (maskOf sources)
    ++ (List.range 16).map (fun i => sources.getD i 255) ++ resultTaps s

/-- RESULT is sent; LAST returns to 0xFFFF and CREDIT follows (R123, R129). -/
def sendResult (outcome : Nat) (s : State) : State :=
  sendCredit { auxPush 0 (resultMessage s outcome) s with rx.lastRegion := 65535 }

/-! ### Losing the picture's input -/

/-- The link stops bringing input: outstanding lines end, and the raster passes to SELF at the next anchor (R95, R101, R104). -/
def linkDown (s : State) : State :=
  if s.link.phase = .active ∨ s.link.phase = .idle then
    let s := endInput s
    { s with raster.linkLost := true, rx.skipped := none, rx.carry := [] }
  else s

/-- Every lane is out of the active set. -/
def idleLanes (s : State) : State :=
  (List.range 16).foldl (fun s n => setLane n { lane s n with active := false, low := 0 } s) s

/-- No lane is active any more. -/
def dropLanes (s : State) : State := { idleLanes s with link.map := [], link.retrainAtBoundary := false }

/-! ### Training -/

/-- A lane in the training in progress is out of it. -/
def excludeFrom (state n : Nat) (s : State) : State :=
  setLane n { lane s n with tried := false, weak := false, failedIn := state } s

/-- The lanes as a training begins with those of `l`. -/
def armLanes (l : List Nat) (s : State) : State :=
  (List.range 16).foldl (fun s n =>
    setLane n { lane s n with tried := l.contains n, locked := false, weak := false, failedIn := 1 } s) s

/-- Lanes are out of the training in progress. -/
def excludeAll (state : Nat) (l : List Nat) (s : State) : State := l.foldl (fun s n => excludeFrom state n s) s

/-- TRAIN_REQ is sent and BITLOCK begins, with every enabled, unretired lane (R95, R97, R100). -/
def trainReq (s : State) : State :=
  let tryThese := lanesToTry s
  let s := armLanes tryThese s
  let s := { s with link.attempt := (s.link.attempt + 1) % 256, link.tried := tryThese, link.eq := {}, link.elastic := 4 }
  let s := setPhase .bitlock s
  let s := incWrap hLINK Par.LINK_TRAININGS 1 s
  let s := changeRes hLINK Par.LINK_LAST_REASON s.link.reason s
  let s := raise 0x0101 hLINK [s.link.attempt, s.link.rate, s.link.reason] s
  auxPush 0 [2, s.link.attempt, s.link.rate, s.link.reason] (showLink s)

/-- The highest rate that both sides allow (R81). -/
def targetRate (s : State) : Nat :=
  min (cfg s hLINK Par.LINK_RATE_MAX) (match s.link.source with
    | some c => c.rate
    | none => 3)

/-- The lanes take their snapshots back (R101). -/
def takeSnapshots (s : State) : State :=
  (List.range 16).foldl (fun s n => match (lane s n).snapshot with
    | some (c, d) => showLane n (setLane n { lane s n with ctle := c, cdr := d, snapshot := none } s)
    | none => s) s

/-- The receivers come back with their snapshots (R101). -/
def restoreLanes (s : State) : State := { takeSnapshots s with link.powered := true }

/-- A training episode begins (R97); an idle period that it ends gives the snapshots back (R101). -/
def startEpisode (reason : Nat) (s : State) : State :=
  let s := dropLanes (restoreLanes (linkDown s))
  trainReq { s with link.reason := reason, link.rate := targetRate s, link.best := none, link.final := false
                    link.anyLock := false, link.carries := true }

/-- DETECT begins: CAPS is sent (R95). -/
def enterDetect (reason : Nat) (s : State) : State :=
  let s := dropLanes { restoreLanes s with link.reason := reason, link.carries := true }
  auxPush 0 (capsMessage s) (showLink (setPhase .detect s))

/-- The wait of R99 after `n` consecutive failures, in ms. -/
def backoffMs (n : Nat) : Nat := 10 * 2 ^ min n 7

/-- The KL8640 waits (R99). -/
def enterBackoff (s : State) : State :=
  let w := backoffMs s.link.failures
  let s := dropLanes s
  let s := setPhase .backoff { s with link.failures := s.link.failures + 1, link.backoffTo := s.now + w * tickMs }
  changeRes hLINK Par.LINK_BACKOFF w (showLink s)

/-- A lane at the end of an episode with the final active set `act` (R98). -/
def endLane (act : List Nat) (n : Nat) (s : State) : State :=
  let x := lane s n
  let h := hLANE n
  if act.contains n then changeRes h Par.LANE_EXCLUSIONS 0 (setLane n { x with excluded := false } s)
  else
    let c := min 3 (res s h Par.LANE_EXCLUSIONS + 1)
    let s := setRes h Par.LANE_EXCLUSIONS c (setLane n { x with excluded := true } s)
    let s := raise 0x0104 h [n, x.failedIn, c] s
    if c < 3 ∨ x.retired = true then s
    else raise 0x0105 h [n, s.link.rate] (fellRecord h 1 0 0 (setLane n { lane s n with retired := true } s))

/-- The end of an episode for its lanes (R98): `act` is the final active set. -/
def endEpisode (act : List Nat) (s : State) : State :=
  if !s.link.anyLock then s else s.link.tried.foldl (fun s n => endLane act n s) s

/-- The training has failed (R97, R99). -/
def failTraining (s : State) : State := sendResult 2 (enterBackoff (endEpisode [] { s with link.map := [] }))

/-- The requests of channel 0 are dropped; the one that awaits its answer waits again at the front. -/
def recallRequests (s : State) : State :=
  let back := match s.aux.waiting with
    | some (_, r, _) => if r.channel = 0 then [] else [r]
    | none => []
  { s with aux.waiting := none, aux.queue := back ++ s.aux.queue.filter fun r => r.channel != 0 }

/-- CP_KEYS_LOST with cause 2 for the sets `held` waits until the pair carries requests again (Table 16.5). -/
def queueKeysLost (held : Nat) (s : State) : State :=
  if held = 0 then s else { s with aux.queue := s.aux.queue ++ [⟨4, [6, held, 2]⟩] }

/-- The partner is lost (R105, R422). -/
def partnerLost (cause : Nat) (s : State) : State :=
  let s := linkDown { s with link.lost := true }
  let s := if auxHeld s then endEpisode [] s else s
  let s := raise 0x010A hLINK ([cause] ++ u16 (backoffMs s.link.failures)) s
  let held := keySetBits s
  queueKeysLost held (enterBackoff (recallRequests (dropKeys 3 3 s)))

/-- Lanes that report a source lane number which another lane reports too are excluded (R96). -/
def dropTwins (s : State) : State :=
  let l := (lanesIn s).filter fun n => (lane s n).source != 255 && (lane s n).locked
  (l.filter fun n => l.any fun k => k != n && (lane s k).source == (lane s n).source).foldl (fun s n => excludeFrom 2 n s) s

/-- The lanes still weak are excluded. -/
def excludeWeak (s : State) : State :=
  ((lanesIn s).filter fun n => (lane s n).weak).foldl (fun s n =>
    excludeFrom (if s.link.phase = .eqreq then 4 else (lane s n).failedIn) n s) s

/-- VERIFY begins: lanes still weak are excluded, and PHASE is sent (Table 3.5). -/
def enterVerify (s : State) : State :=
  let s := excludeWeak s
  auxPush 0 [5, s.link.attempt, 1] (setPhase .verify s)

/-! ### EQREQ (R93) -/

/-- Neighbour `k` of a tap set: cpost+1, cpost−1, cpre+1, cpre−1, within the limits of R92. -/
def neighbour (t : List Nat) (k : Nat) : Option (List Nat) :=
  let a := t.getD 0 0
  let b := t.getD 2 0
  let mk := fun (a b : Nat) => some [a, 48 - a - b, b]
  match k with
  | 0 => if b < 16 then mk a (b + 1) else none
  | 1 => if 0 < b then mk a (b - 1) else none
  | 2 => if a < 8 then mk (a + 1) b else none
  | 3 => if 0 < a then mk (a - 1) b else none
  | _ => none

/-- The next neighbour from number `k` on, and the number after it. -/
def nextNeighbour (t : List Nat) (k : Nat) : Option (List Nat × Nat) :=
  ((List.range 4).drop k).findSome? fun i => (neighbour t i).map fun n => (n, i + 1)

/-- The weak lanes of the training. -/
def weakLanes (s : State) : List Nat := (lanesIn s).filter fun n => (lane s n).weak

/-- The taps that EQ_SET gives source lane `k`: what its lane tries, or `other`. -/
def eqTaps (s : State) (other : List Nat) (k : Nat) : List Nat :=
  match laneOfSource s (lanesIn s) k with
  | some n => if (lane s n).weak then mget other s.link.eq.trying n else (lane s n).taps
  | none => other

/-- The source lanes that EQ_SET changes: those of the weak lanes; where a weak lane's source lane is not known, also every
source lane that no lane is known to take. -/
def eqMask (s : State) (unknown : Bool) : Nat :=
  let weak := weakLanes s
  let anon := unknown && weak.any fun n => (lane s n).source == 255
  maskOf ((List.range 16).filter fun k =>
    match laneOfSource s (lanesIn s) k with
    | some n => (lane s n).weak
    | none => anon)

/-- EQ_SET is sent. -/
def sendEqSet (other : List Nat) (unknown : Bool) (s : State) : State :=
  let msg := [3, s.link.attempt] ++ u16 (eqMask s unknown) ++ (List.range 16).flatMap (eqTaps s other)
  auxPush 0 msg { s with link.eq.acked := false }

/-- Every weak lane tries preset `p`. -/
def tryPreset (p : Nat) (s : State) : State :=
  let t := presets.getD p [0, 48, 0]
  let s := (weakLanes s).foldl (fun s n => { s with link.eq.trying := mput [] s.link.eq.trying n t }) s
  sendEqSet t true { s with link.eq.preset := p }

/-- The best tap set of a weak lane so far and its margin; P0 with margin 0 before the first measurement. -/
def eqBest (s : State) (n : Nat) : List Nat × Nat := (mget none s.link.eq.best n).getD ([0, 48, 0], 0)

/-- EQREQ ends: weak lanes that locked, aligned and reached EQ_MARGIN_MIN join; VERIFY follows. -/
def finishEq (s : State) : State :=
  let least := cfg s hLINK Par.LINK_EQ_MARGIN_MIN
  let s := (weakLanes s).foldl (fun s n =>
    let (t, m) := eqBest s n
    if m < least then s else showLane n (setLane n { lane s n with weak := false, locked := true, taps := t, margin := m } s)) s
  enterVerify (dropTwins s)

/-- A fine step: each weak lane that has not stopped tries its next neighbour; none left, or no time, ends the procedure. -/
def fineStep (s : State) : State :=
  let moves := (weakLanes s).filterMap fun n => (nextNeighbour (eqBest s n).1 (mget 0 s.link.eq.misses n)).map fun x => (n, x.1, x.2)
  if moves = [] ∨ 8 ≤ s.link.eq.evals ∨ s.link.since + 5 * tickMs < s.now + 300 * tickUs then finishEq s
  else
    let s := (weakLanes s).foldl (fun s n =>
      let t := match moves.find? fun x => x.1 == n with
        | some x => x.2.1
        | none => (eqBest s n).1
      { s with link.eq.trying := mput [] s.link.eq.trying n t }) s
    let s := moves.foldl (fun s x => { s with link.eq.misses := mput 0 s.link.eq.misses x.1 x.2.2 }) s
    let anon := (weakLanes s).find? fun n => (lane s n).source == 255
    sendEqSet (match anon with
      | some n => mget [0, 48, 0] s.link.eq.trying n
      | none => [0, 48, 0]) true s

/-! ### What the receivers measure (R86, R90, Table 3.5) -/

/-- The report of a lane, where there is one. -/
def reportOf (rs : List LaneReport) (n : Nat) : Option LaneReport := rs.find? fun r => r.lane == n

/-- The margin that an eye monitor measured at a CTLE setting. -/
def eyeAt (eye : List (Nat × Nat)) (k : Nat) : Nat := ((eye.find? fun e => e.1 == k).map (·.2)).getD 0

/-- Of the settings measured in order, the one with the greatest margin; the first among equals (DESIGN CHOICE: log entry 18). -/
def bestSetting (eye : List (Nat × Nat)) (first : Nat) (others : List Nat) : Nat :=
  others.foldl (fun b k => if eyeAt eye b < eyeAt eye k then k else b) first

/-- The fine steps of R90: 0.5 dB and 1.0 dB on either side of a setting, which itself is measured first. -/
def fineSettings (c : Nat) : List Nat :=
  (List.range 41).filter fun k => decide (k ≠ c) && decide (k ≤ c + 2) && decide (c ≤ k + 2)

/-- The CTLE sweep of R90: 0 dB to 20 dB in 2 dB steps, then the fine steps around the best. -/
def sweepCtle (eye : List (Nat × Nat)) : Nat :=
  let c := bestSetting eye 0 ((List.range 11).map (4 * ·))
  bestSetting eye c (fineSettings c)

/-- The index and the count of the SYNC block that a lane is to be aligned on. -/
def syncAt (inverted : Bool) (r : LaneReport) : Option (Nat × Nat) :=
  r.sync.bind fun x => (syncCount (upright inverted x.2)).map fun c => (x.1, c)

/-- A lane's polarity as its blocks show it now, else as it was read. -/
def polarity (s : State) (r : LaneReport) : Bool := ((blockLock r.blocks).map (·.1)).getD (lane s r.lane).inverted

/-- The lanes that reports show aligned on one SYNC column (R85). -/
def alignedIn (s : State) (rs : List LaneReport) : List Nat :=
  alignedLanes (rs.filterMap fun r => (syncAt (polarity s r) r).map fun x => (r.lane, x.1, x.2))

/-- What a TS1's payload tells of a lane: source lane number, taps, polarity (Table 3.3, R86). -/
def readTs1 (x : Bool × List Nat) (l : LaneSt) : LaneSt :=
  { l with source := x.2.getD 2 0 % 16, taps := sub x.2 4 3, inverted := x.1 }

/-- One weak lane's measurement under the taps it tries (R93): the CTLE takes its fine steps; the margin counts where the lane has locked,
has block lock and is aligned, else as 0. -/
def measureWeak (rs : List LaneReport) (n : Nat) (s : State) : Nat × State :=
  match reportOf rs n with
  | none => (0, s)
  | some r => match blockLock r.blocks with
    | none => (0, s)
    | some x =>
      if !r.locked || !(alignedIn s rs).contains n then (0, s)
      else
        let l := lane s n
        let c := bestSetting r.eye l.ctle (fineSettings l.ctle)
        let m := eyeAt r.eye c
        (m, showLane n (setLane n { readTs1 x l with locked := true, ctle := c, margin := m } s))

/-- A weak lane's measurement is taken: an improvement is kept and its neighbours are tried afresh; a lane that has stopped stays so. -/
def keepBest (rs : List LaneReport) (n : Nat) (s : State) : State :=
  let (m, s) := measureWeak rs n s
  let t := mget [] s.link.eq.trying n
  match mget none s.link.eq.best n with
  | none => { s with link.eq.best := mput none s.link.eq.best n (some (t, m)) }
  | some (b, k) =>
    if t = b ∨ m ≤ k then s
    else { s with
      link.eq.best := mput none s.link.eq.best n (some (t, m))
      link.eq.misses := mput 0 s.link.eq.misses n 0 }

/-- A measurement of every weak lane is taken. -/
def keepAll (rs : List LaneReport) (s : State) : State := (weakLanes s).foldl (fun s n => keepBest rs n s) s

/-- EQREQ or VERIFY follows DESKEW (Table 3.5). -/
def afterDeskew (s : State) : State :=
  if weakLanes s ≠ [] ∧ cfgB s hLINK Par.LINK_TX_EQ_FALLBACK = true then
    tryPreset 0 (setPhase .eqreq { s with link.eq := {} })
  else enterVerify s

/-! ### The reports of the training states -/

/-- A lane becomes weak in a state. -/
def makeWeak (state n : Nat) (s : State) : State := setLane n { lane s n with weak := true, locked := false, failedIn := state } s

/-- A lane's outcome of BITLOCK: the setting that the sweep keeps and its margin, and on lock a CDR state. -/
def bitlockLane (rs : List LaneReport) (n : Nat) (s : State) : State :=
  match reportOf rs n with
  | none => makeWeak 1 n s
  | some r =>
    let c := sweepCtle r.eye
    let (d, s) := draw s
    let s := setLane n { lane s n with locked := r.locked, ctle := c, margin := eyeAt r.eye c, cdr := d } s
    showLane n (if r.locked then { s with link.anyLock := true } else makeWeak 1 n s)

/-- BITLOCK's outcome: lanes without lock are weak (R90, R93). -/
def takeBitlock (rs : List LaneReport) (s : State) : State :=
  setPhase .blocklock ((lanesIn s).foldl (fun s n => bitlockLane rs n s) s)

/-- A lane's outcome of BLOCKLOCK. -/
def blocklockLane (rs : List LaneReport) (n : Nat) (s : State) : State :=
  match (reportOf rs n).bind fun r => blockLock r.blocks with
  | none => makeWeak 2 n s
  | some x => showLane n (setLane n (readTs1 x (lane s n)) s)

/-- BLOCKLOCK's outcome: polarity, source lane numbers and taps are read; lanes without block lock are weak (R86, R93). -/
def takeBlocklock (rs : List LaneReport) (s : State) : State :=
  setPhase .deskew (dropTwins (((lanesIn s).filter fun n => (lane s n).locked).foldl (fun s n => blocklockLane rs n s) s))

/-- A lane's outcome of DESKEW, `aligned` being the lanes that align. -/
def deskewLane (least : Nat) (aligned : List Nat) (rs : List LaneReport) (n : Nat) (s : State) : State :=
  match reportOf rs n with
  | none => excludeFrom 3 n s
  | some r => if !aligned.contains n then excludeFrom 3 n s
    else
      let m := eyeAt r.eye (lane s n).ctle
      let s := showLane n (setLane n { lane s n with margin := m } s)
      if m < least then setLane n { lane s n with weak := true, failedIn := 3 } s else s

/-- DESKEW's outcome: unaligned lanes are excluded, lanes with too little margin are weak (R85, R93, Table 3.5). -/
def takeDeskew (rs : List LaneReport) (s : State) : State :=
  let least := cfg s hLINK Par.LINK_EQ_MARGIN_MIN
  let l := (lanesIn s).filter fun n => (lane s n).locked
  let aligned := alignedIn s (rs.filter fun r => l.contains r.lane)
  afterDeskew (l.foldl (fun s n => deskewLane least aligned rs n s) s)

/-- BITLOCK_COMPLETE (R90). -/
def execBitlockComplete (lanes : List LaneReport) (s : State) : Host.Outcome State Fault Refusal :=
  .next (if s.link.phase ≠ .bitlock then s else takeBitlock lanes s)

/-- BLOCKLOCK_COMPLETE (R95). -/
def execBlocklockComplete (lanes : List LaneReport) (s : State) : Host.Outcome State Fault Refusal :=
  .next (if s.link.phase ≠ .blocklock then s else takeBlocklock lanes s)

/-- DESKEW_COMPLETE (R95). -/
def execDeskewComplete (lanes : List LaneReport) (s : State) : Host.Outcome State Fault Refusal :=
  .next (if s.link.phase ≠ .deskew then s else takeDeskew lanes s)

/-- Lanes that a state has not finished. -/
def unfinished (s : State) (rs : List LaneReport) : List Nat :=
  (lanesIn s).filter fun n =>
    (reportOf rs n).isNone && match s.link.phase with
      | .bitlock => true
      | .eqreq => (lane s n).weak
      | _ => (lane s n).locked

/-- Event 0x0103 at the limit of a training state, with the lanes that have not finished. -/
def lateTraining (m : Nat) (s : State) : State :=
  raise 0x0103 hLINK ([phaseCode s.link.phase] ++ u16 m) (advanceTo (s.link.since + 5 * tickMs) s)

/-- TRAINING_STATE_TIMEOUT: a state reaches its 5 ms limit (Table 3.5); `finished` reports the lanes that finished. -/
def execTrainingStateTimeout (finished : List LaneReport) (s : State) : Host.Outcome State Fault Refusal :=
  .next (
    match s.link.phase with
    | .detect => partnerLost 2 (lateTraining (cfg s hLINK Par.LINK_LANES_ENABLE) s)
    | .bitlock => takeBitlock finished (lateTraining (maskOf (unfinished s finished)) s)
    | .blocklock => takeBlocklock finished (lateTraining (maskOf (unfinished s finished)) s)
    | .deskew => takeDeskew finished (lateTraining (maskOf (unfinished s finished)) s)
    | .eqreq => finishEq (keepAll finished (lateTraining (maskOf (unfinished s finished)) s))
    | _ => s)

/-- EQ_MEASUREMENT_DONE: the weak lanes have been measured over 200 µs under the taps acknowledged (R93). -/
def execEqMeasurementDone (lanes : List LaneReport) (s : State) : Host.Outcome State Fault Refusal :=
  .next (if s.link.phase ≠ .eqreq ∨ s.link.eq.acked = false then s
    else
      let s := advanceTo (s.link.eq.ackedAt + 200 * tickUs) s
      let s := keepAll lanes s
      if s.link.eq.preset < 7 then tryPreset (s.link.eq.preset + 1) s
      else if s.link.eq.preset = 7 then fineStep { s with link.eq.preset := 8 }
      else fineStep { s with link.eq.evals := s.link.eq.evals + 1 })

/-! ### The end of VERIFY (R96, R97) -/

/-- The lanes `act` become active: the map in ascending source lane number (R96), and whether they carry the mode (R97). -/
def activateLanes (act : List Nat) (carries : Bool) (s : State) : State :=
  let order := ((List.range 16).flatMap fun k => act.filter fun n => (lane s n).source == k)
  let s := (List.range 16).foldl (fun s n =>
    setLane n { lane s n with active := act.contains n, excluded := (lane s n).excluded && !act.contains n } s) s
  { s with link := { s.link with map := order, failures := 0, carries := carries, final := false, adaptAt := s.now } }

/-- What the link says when it goes ACTIVE with lanes `act`: RESULT, the show, 0x0102, and 0x0107 with the greatest payload of the
episode where the mode does not fit. -/
def tellActive (act : List Nat) (s : State) : State :=
  let fits := s.link.carries
  let s := sendResult (if fits then 0 else 1) s
  let s := raise 0x0102 hLINK ([s.link.rate] ++ u16 (maskOf act) ++ [act.length]) (showLink s)
  if fits then s else raise 0x0107 hLINK (u32 ((s.link.best.map (·.1)).getD 0)) s

/-- The link goes ACTIVE (R96, R97). -/
def goActive (act : List Nat) (carries : Bool) (s : State) : State :=
  tellActive act (setPhase .active (activateLanes act carries (endEpisode act s)))

/-- A lane's VERIFY window: its type errors are counted, its register is kept, and an error, or no window at all, excludes it (R83, R84,
R95). -/
def verifyLane (rs : List LaneReport) (n : Nat) (s : State) : State :=
  let l := lane s n
  let v := match reportOf rs n with
    | some r => verifyBlocks l.source l.inverted r.blocks
    | none => {}
  let s := incSat (hLANE n) Par.LANE_BLOCK_ERRORS v.errors (setLane n { l with scr := v.scr.getD l.scr } s)
  if verifyPassed v then s else excludeFrom 5 n s

/-- The greatest payload of the episode and its rate, after a VERIFY that brought `n` lanes through; the later rate among equals. -/
def betterPayload (best : Option (Nat × Nat)) (n rate : Nat) : Option (Nat × Nat) :=
  if n = 0 then best
  else match best with
    | some (b, r) => if b ≤ payloadOf n rate then some (payloadOf n rate, rate) else some (b, r)
    | none => some (payloadOf n rate, rate)

/-- The decision of R97 with the lanes `act` through VERIFY. -/
def afterVerify (act : List Nat) (s : State) : State :=
  if s.link.final then (if act = [] then failTraining s else goActive act false s)
  else if linkFits (modeNow s) (sharedClock s) act.length s.link.rate then goActive act true s
  else if 0 < s.link.rate then
    let s := raise 0x0106 hLINK [s.link.rate, s.link.rate - 1] s
    trainReq { s with link.rate := s.link.rate - 1 }
  else match s.link.best with
    | none => failTraining s
    | some (_, r) =>
      if r = s.link.rate then goActive act false s
      else trainReq { s with link.rate := r, link.final := true }

/-- VERIFY_WINDOW_END: lanes with errors are excluded, and the fit check decides (R95, R97). -/
def execVerifyWindowEnd (lanes : List LaneReport) (s : State) : Host.Outcome State Fault Refusal :=
  .next (if s.link.phase ≠ .verify then s
    else
      let s := advanceTo (s.link.since + tickMs) s
      let s := (lanesIn s).foldl (fun s n => verifyLane lanes n s) s
      let act := lanesIn s
      afterVerify act { s with link.best := betterPayload s.link.best act.length s.link.rate })

/-! ### DETECT, backoff and the source's messages -/

/-- CAPS of the source: kept, and in DETECT the training starts (R95). -/
def takeCaps (c : SourceCaps) (s : State) : State :=
  let s := { s with link.source := some c }
  if s.link.phase = .detect then startEpisode s.link.reason { s with link.lost := false } else s

/-- CAPS as a message's bytes spell it (Table 3.6). -/
def capsOf (m : List Nat) : SourceCaps :=
  let b := fun k => m.getD k 0
  ⟨b 2 % 4, b 3 + 256 * b 4, (b 5).testBit 0, (b 5).testBit 1, (b 5).testBit 2⟩

/-- EQ_ACK of the source (R92). -/
def takeEqAck (attempt : Nat) (s : State) : State :=
  if s.link.phase = .eqreq ∧ attempt = s.link.attempt then { s with link.eq.acked := true, link.eq.ackedAt := s.now } else s

/-- Does a channel-0 message with this code await its answer? -/
def awaiting (s : State) (code : Nat) : Bool := match s.aux.waiting with
  | some (_, r, _) => r.channel == 0 && r.payload.headD 0 == code
  | none => false

/-- A message of the source on channel 0 by its code (Table 3.6, Table 4.7): CAPS is answered with CAPS; RETRAIN_REQ starts a retrain with
reason 3 from ACTIVE and IDLE, and a training in progress absorbs it (R102, R106). -/
def linkMessage (m : List Nat) (s : State) : List Nat × State :=
  match m.headD 0 with
  | 1 => (0 :: capsMessage s, takeCaps (capsOf m) s)
  | 7 => ([0], if s.link.phase = .active ∨ s.link.phase = .idle then startEpisode 3 s else s)
  | _ => ([0], s)

/-- A request of the source on channel 0. -/
def linkRequest (f : AuxFrame) (s : State) : State :=
  if auxChannel f ≠ 0 then s else auxRequest (linkMessage f.payload) f s

/-- What an answer to request `r` brings after its status: CAPS to CAPS, EQ_ACK to EQ_SET (Table 4.7). -/
def takeReply (r : AuxReq) (m : List Nat) (s : State) : State :=
  if r.channel ≠ 0 then s
  else if m.headD 0 = 1 ∧ r.payload.headD 0 = 1 then takeCaps (capsOf m) s
  else if m.headD 0 = 4 ∧ r.payload.headD 0 = 3 ∧ sub m 2 2 = sub r.payload 2 2 then takeEqAck (m.getD 1 0) s
  else s

/-- An answer of the source arrives (R126 to R128): it ends the run of unanswered attempts; NOT_TAKEN and DEFER send the request again, in
its turn and with a new ID; UNKNOWN drops it. -/
def takeAnswer (f : AuxFrame) (s : State) : State :=
  if !auxAwake s then s
  else if !auxFrameOk f then auxBroken s
  else if !auxIsAnswer f then s
  else match s.aux.waiting with
  | none => s
  | some (i, r, _) =>
    if i ≠ f.id ∨ r.channel ≠ auxChannel f then s
    else
      let s := auxDone (changeRes hAUX Par.AUX_UNANSWERED 0 (auxHeard s))
      match f.payload.headD 0 with
      | 0 => auxPump (takeReply r (f.payload.drop 1) s)
      | 1 | 2 => auxPump { s with aux.queue := r :: s.aux.queue }
      | _ => auxPump s

/-- CAPS: the source's CAPS arrives, as the answer to the KL8640's or as a request of its own (R100). -/
def execCaps (f : AuxFrame) (s : State) : Host.Outcome State Fault Refusal :=
  .next (if auxIsAnswer f then takeAnswer f s else linkRequest f s)

/-- CAPS_RESEND_TIMER: in DETECT CAPS is sent every 1 ms (R95). -/
def execCapsResendTimer (s : State) : Host.Outcome State Fault Refusal :=
  .next (if s.link.phase ≠ .detect then s
    else if awaiting s 1 || s.aux.queue.any (fun r => r.channel == 0) then s
    else auxPush 0 (capsMessage s) s)

/-- EQ_ACK: the source has applied a tap set (R92). -/
def execEqAck (f : AuxFrame) (s : State) : Host.Outcome State Fault Refusal := .next (takeAnswer f s)

/-- RETRAIN_REQ of the source (R102, R106). -/
def execRetrainReq (f : AuxFrame) (s : State) : Host.Outcome State Fault Refusal := .next (linkRequest f s)

/-- A retrain begins from BACKOFF: from DETECT where the partner is lost, else from BITLOCK (R106). -/
def leaveBackoff (reason : Nat) (s : State) : State :=
  if s.link.lost then enterDetect reason s else startEpisode reason s

/-- A write of RETRAIN starts a retrain with reason 2, or is absorbed by a training in progress (R106); in BACKOFF it ends the wait (DEDUCED:
log entry 19). -/
def retrainEntry (s : State) : State :=
  match s.link.phase with
  | .active | .idle => startEpisode 2 s
  | .backoff => leaveBackoff 2 s
  | _ => s

/-- BACKOFF_EXPIRY (R99). -/
def execBackoffExpiry (s : State) : Host.Outcome State Fault Refusal :=
  .next (if s.link.phase ≠ .backoff then s else enterDetect 7 (advanceTo s.link.backoffTo s))

/-! ### Loss of lock (R104, R105) -/

/-- One active lane loses lock: counted and reported. -/
def noteLockLost (cause n : Nat) (s : State) : State :=
  raise 0x0108 (hLANE n) [n, cause] (incSat (hLANE n) Par.LANE_LOCK_LOSSES 1 s)

/-- Is a report of blocks in error among 64 a loss of lock?  Cause 0 asks for 4 type errors (R104). -/
def losesLock (cause : Nat) (types : List Nat) : Bool := cause != 0 || decide (4 ≤ types.countP typeError)

/-- LANE_LOCK_LOST: type errors, a missing SYNC column or an elastic limit on a lane.  The blocks in error are discarded and counted (R83); fewer
than 4 of them lose no lock (R104); during VERIFY the lane is excluded from the training (R106). -/
def execLaneLockLost (lane_ cause : Nat) (types : List Nat) (s : State) : Host.Outcome State Fault Refusal :=
  .next (if s.link.phase = .active ∧ (lane s lane_).active = true then
      let s := incSat (hLANE lane_) Par.LANE_BLOCK_ERRORS (types.countP typeBad) s
      if losesLock cause types then startEpisode 4 (noteLockLost cause lane_ s) else s
    else if s.link.phase = .verify ∧ (lane s lane_).tried = true then
      let s := incSat (hLANE lane_) Par.LANE_BLOCK_ERRORS (types.countP typeError) s
      if losesLock cause types then showLanes (excludeFrom 5 lane_ s) else s
    else s)

/-- LANE_SIGNAL_LOST: lanes lose signal without an IDLE column; every active lane at once means that the partner is lost
(R105). -/
def execLaneSignalLost (mask : Nat) (s : State) : Host.Outcome State Fault Refusal :=
  .next (
    if s.link.phase = .active then
      let act := lanesActive s
      let lost := act.filter fun n => mask.testBit n
      if lost = [] then s
      else
        let s := lost.foldl (fun s n => noteLockLost 3 n s) s
        if lost = act then partnerLost 0 s else startEpisode 4 s
    else if s.link.phase = .verify then
      showLanes (excludeAll 5 ((lanesIn s).filter fun n => mask.testBit n) s)
    else s)

/-- The elastic buffer stands at 0 or 8 columns: every active lane loses lock; in VERIFY every lane is excluded (R89, R104, R106; DEDUCED: log
entry 20). -/
def elasticLimit (s : State) : State :=
  if s.link.phase = .active then startEpisode 4 ((lanesActive s).foldl (fun s k => noteLockLost 2 k s) s)
  else showLanes (excludeAll 5 (lanesIn s) s)

/-- FILLER_COLUMN: the elastic buffer of INDEPENDENT clocking, which has drifted by `drift` columns, deletes or inserts one, in ACTIVE and in
VERIFY (R89). -/
def execFillerColumn (drift : Int) (s : State) : Host.Outcome State Fault Refusal :=
  .next (if (s.link.phase ≠ .active ∧ s.link.phase ≠ .verify) ∨ sharedClock s = true then s
    else
      let n := (clampI ((s.link.elastic : Int) + drift) 0 8).toNat
      if n = 0 ∨ n = 8 then elasticLimit { s with link.elastic := n }
      else if 6 ≤ n then incWrap hLINK Par.LINK_FILLER_DELETED 1 { s with link.elastic := n - 1 }
      else if n ≤ 2 then incWrap hLINK Par.LINK_FILLER_INSERTED 1 { s with link.elastic := n + 1 }
      else { s with link.elastic := n })

/-- LANE_MARGIN_CHECK: the margins measured every 10 s; a lane low 3 times asks for a retrain at the boundary (R94). -/
def execLaneMarginCheck (margins : List (Nat × Nat)) (s : State) : Host.Outcome State Fault Refusal :=
  .next (if s.link.phase ≠ .active then s
    else margins.foldl (fun s m =>
      let x := lane s m.1
      if !x.active then s
      else
        let low := if m.2 < cfg s hLINK Par.LINK_EQ_MARGIN_MIN then x.low + 1 else 0
        let s := changeRes (hLANE m.1) Par.LANE_MARGIN m.2 (setLane m.1 { x with margin := m.2, low := low } s)
        if low = 3 then raise 0x010B (hLANE m.1) [m.1, m.2] { s with link.retrainAtBoundary := true } else s) s)

/-! ### Electrical idle (R101 to R103) -/

/-- Can the source leave idle by fast exit (R102)? -/
def fastExitOk (s : State) : Bool :=
  s.link.fastExit && match s.link.source with
    | some c => c.fastExit
    | none => false

/-- IDLE_COLUMN: at least 2 of the 4 IDLE blocks have come on the lanes of `received`; with every active lane among them the link
is idle (R101). -/
def execIdleColumn (received : Nat) (s : State) : Host.Outcome State Fault Refusal :=
  .next (if s.link.phase = .active ∧ ((lanesActive s).all fun n => received.testBit n) = true then
      setPhase .idle { linkDown s with link.idleAt := s.now, link.fastExit := cfgB s hLINK Par.LINK_FAST_EXIT }
    else s)

/-- The active lanes keep their receivers' settings (R101). -/
def keepSnapshots (s : State) : State :=
  (lanesActive s).foldl (fun s n => setLane n { lane s n with snapshot := some ((lane s n).ctle, (lane s n).cdr) } s) s

/-- IDLE_POWER_DOWN: beyond 1 ms the receivers keep a snapshot and power down (R101). -/
def execIdlePowerDown (s : State) : Host.Outcome State Fault Refusal :=
  .next (if s.link.phase ≠ .idle ∨ s.link.powered = false then s
    else
      let s := advanceTo (s.link.idleAt + tickMs) s
      { keepSnapshots s with link.powered := false })

/-- FAST_EXIT: the SYNC column after the TS2 burst; `failed` are the lanes without block lock or alignment (R102, R103). -/
def execFastExit (failed : Nat) (s : State) : Host.Outcome State Fault Refusal :=
  .next (if s.link.phase ≠ .idle ∨ fastExitOk s = false then s
    else
      let s := restoreLanes s
      let bad := maskOf ((lanesActive s).filter fun n => failed.testBit n)
      if bad = 0 then incWrap hLINK Par.LINK_FAST_EXITS 1 (setPhase .active s)
      else startEpisode 5 (raise 0x0109 hLINK (u16 bad) (incSat hLINK Par.LINK_FAST_EXIT_FAILS 1 s)))

/-- IDLE_SIGNAL_DETECTED: signal for 1 µs on a lane of the active set, where the source cannot leave idle by fast exit (R102). -/
def execIdleSignalDetected (lane_ : Nat) (s : State) : Host.Outcome State Fault Refusal :=
  .next (if s.link.phase ≠ .idle ∨ fastExitOk s = true ∨ (lane s lane_).active = false then s
    else startEpisode 8 s)

/-- WAKE: answered TAKEN, and a training starts from an idle that only a training leaves (R102, R131). -/
def wakeMessage (s : State) : List Nat × State :=
  ([0], if s.link.phase = .idle ∧ fastExitOk s = false then startEpisode 8 s else s)

/-- WAKE_REQUEST on AUX channel 3 (R102, R130, R131). -/
def execWakeRequest (f : AuxFrame) (s : State) : Host.Outcome State Fault Refusal :=
  .next (if auxChannel f ≠ 3 then s else auxRequest wakeMessage f s)

/-! ### Answers on AUX (R127, R128) -/

/-- AUX_ANSWER: an answer to the request that waits. -/
def execAuxAnswer (f : AuxFrame) (s : State) : Host.Outcome State Fault Refusal := .next (takeAnswer f s)

/-- An attempt has been left unanswered: counted and reported; the third in a row loses the partner, and any other is repeated with the same
ID after 50 µs (R105, R128). -/
def unansweredAttempt (s : State) : State :=
  match s.aux.waiting with
  | none => s
  | some (id, r, _) =>
    let was := res s hAUX Par.AUX_UNANSWERED
    let n := min 3 (was + 1)
    let s := raise 0x012C hAUX [r.channel, id, n] (changeRes hAUX Par.AUX_UNANSWERED n s)
    if n = 3 ∧ was < 3 then partnerLost 1 s else auxRepeat (advanceTo (s.now + 50 * tickUs) s)

/-- AUX_REQUEST_TIMEOUT: no answer within 1 ms (R128). -/
def execAuxRequestTimeout (s : State) : Host.Outcome State Fault Refusal :=
  .next (if s.aux.waiting.isNone || !auxAwake s then s else unansweredAttempt (advanceTo (s.aux.sentAt + tickMs) s))

/-- AUX_COLLISION: the KL8640 sees transitions that it did not drive in its own preamble and releases the pair.  The overlapping frame fails its
check, and the attempt is left unanswered (R126, R128). -/
def execAuxCollision (s : State) : Host.Outcome State Fault Refusal :=
  .next (if s.aux.waiting.isNone || !auxAwake s then s else unansweredAttempt (auxBroken s))

/-! ### Commits (R106, R122, R520) -/

/-- What of the link a committed change can alter: lanes, rate, clocking, fallback. -/
def linkSettings (s : State) : List Nat × Nat × Nat × Nat :=
  (lanesToTry s, targetRate s, cfg s hLINK Par.LINK_CLOCKING, cfg s hLINK Par.LINK_TX_EQ_FALLBACK)

/-- A committed change to the entries of R106, `was` being the settings before it.  A training that it abandons raises no exclusion counts
(DEDUCED: log entry 21). -/
def linkCommit (was : List Nat × Nat × Nat × Nat) (touched : Bool) (s : State) : State :=
  if !touched || s.link.phase = .off then s
  else
    let s := shortWait s
    if linkSettings s = was then s
    else match s.link.phase with
      | .detect => enterDetect 1 s
      | .backoff => leaveBackoff 1 s
      | _ => startEpisode 1 s

/-- The fit rule at a commit (R122, R520). -/
def linkRefit (s : State) : State :=
  let s := showFit s
  if s.link.phase ≠ .active ∧ s.link.phase ≠ .idle then s
  else
    let n := (lanesActive s).length
    let fits := linkFits (modeNow s) (sharedClock s) n s.link.rate
    if fits = s.link.carries then s
    else
      let s := { s with link.carries := fits }
      let s := if fits then s
        else raise 0x0107 hLINK (u32 (payloadOf n s.link.rate)) { s with raster.linkLost := true }
      if fits then sendResult 0 s else if s.link.phase = .active then sendResult 1 s else s

/-- The retrain of R94 at a frame boundary. -/
def linkBoundary (s : State) : State :=
  if s.link.retrainAtBoundary ∧ s.link.phase = .active then startEpisode 6 s else s

/-- The link is powered off with its receivers (Table 19.6). -/
def linkOff (s : State) : State :=
  let s := dropLanes (linkDown s)
  let s := { s with aux.waiting := none, aux.queue := s.aux.queue.filter fun r => r.channel != 0, aux.sending := none }
  showLink (setPhase .off s)

/-- The step that a CTLE takes in ACTIVE where a free value says so: one up, one down or none (R91). -/
def adaptStep (d c : Nat) : Nat := if d % 3 = 0 then c - 1 else if d % 3 = 1 then min 40 (c + 1) else c

/-- A lane's CTLE adapts. -/
def adaptLane (n : Nat) (s : State) : State :=
  let (d, s) := draw s
  let x := lane s n
  let c := adaptStep d x.ctle
  changeRes (hLANE n) Par.LANE_CTLE c (setLane n { x with ctle := c } s)

/-- In ACTIVE the CTLE of each active lane moves by at most one step in 100 ms; it does not move in any other state (R91). -/
def linkAdapt (s : State) : State :=
  if s.link.phase ≠ .active ∨ s.now < s.link.adaptAt + 100 * tickMs then s
  else (lanesActive s).foldl (fun s n => adaptLane n s) { s with link.adaptAt := s.now }

end Sys2Proof.Machine
end

