-- ==== Sys2Proof/Machine/PanelMap.lean ====
section
/-! DEFINITION. The panel map and what keeps it true (08): sweeps, sense batches and the closed loop (R214 to R219), the static-region
limiter's records (R209, R210), stress passes and what they rebuild (R206, R220 to R222), the working residual map (R207, R218),
and map flash: its directory, banks and chunks, loading and saving (R223 to R229). -/

namespace Sys2Proof.Machine

/-- A sparse map with the keys from `lo` to below `hi` replaced by those of `new`. -/
def mreplace {α : Type} (m : NMap α) (lo hi : Nat) (new : NMap α) : NMap α :=
  (m.filter fun e => decide (e.1 < lo)) ++ mslice new lo hi ++ m.filter fun e => decide (hi ≤ e.1)

/-! ### The working residual map -/

/-- R207 offsets of a panel row: from its first to below its end. -/
def rowSpan (m : Mode) (row : Nat) : Nat × Nat := (panelOffset m 0 row 0, panelOffset m 0 (row + 1) 0)

/-- RES_LINES_PENDING brought up to date. -/
def showPending (n : Nat) (s : State) : State :=
  changeRes hCOMP Par.COMP_RES_LINES_PENDING n { s with pipe.pendingRows := n }

/-- A rebuild of the working map begins (R207): causes of event 0x033E.  Rows that waited for the boundary derive from the map
that it replaces. -/
def startRebuild (cause : Nat) (s : State) : State :=
  let s := { s with pipe.rebuild := some cause }
  if cause = 0 then s
  else showPending s.raster.mode.height { s with pipe.working := [], pipe.nextRows := [] }

/-- WORKING_MAP_REBUILT: the rebuild ends (R207). -/
def execWorkingMapRebuilt (s : State) : Host.Outcome State Fault Refusal :=
  .next (match s.pipe.rebuild with
    | none => s
    | some c => raise 0x033E hCOMP [c] (showPending (match s.pipe.load with
        | some l => l.residual.length
        | none => 0) { s with pipe.working := s.pipe.master, pipe.rebuild := none }))

/-- Rows that waited take effect, after the changes of Table 1.8 (R218, R229). -/
def applyRows (s : State) : State :=
  s.pipe.nextRows.foldl (fun s r =>
    let (lo, hi) := rowSpan s.raster.mode r.1
    { s with
      pipe.working := mreplace s.pipe.working lo hi r.2.2
      pipe.master := if r.2.1 then mreplace s.pipe.master lo hi r.2.2 else s.pipe.master }) { s with pipe.nextRows := [] }

/-! ### The defect list -/

/-- The bytes of the list's in-force value. -/
def defectByte (s : State) (b : Nat) : Nat := (cfgI s hCOMP Par.COMP_DEFECT_LIST b).toNat

/-- Entries of a list as written, none ignored. -/
def rawDefects (get : Nat → Nat) : List Defect := readDefects get 65536 0

/-- Does a list hold an entry at the position of `d`? -/
def holdsDefect (l : List Defect) (d : Defect) : Bool := l.any fun x => defectOrder x == defectOrder d

/-- Does a list hold no more entries (R211)? -/
def defectsAreFull (l : List Defect) : Bool := decide (65536 ≤ l.length)

/-- The bytes to write, from an offset, so that a list holds `d` in its place. -/
def insertDefect (l : List Defect) (d : Defect) : Nat × List Nat :=
  let before := l.takeWhile fun x => decide (defectOrder x < defectOrder d)
  let after := l.drop before.length
  let bytes := (d :: after).flatMap defectBytes
  (8 * before.length, bytes ++ if l.length + 1 < 65536 then List.replicate 8 255 else [])

/-- A staged patch with `d` in its list, where the patch writes the list and holds no entry at that position (R217). -/
def stageDefect (s : State) (d : Defect) (p : NMap (Option Int)) : NMap (Option Int) :=
  if !touches p hCOMP Par.COMP_DEFECT_LIST then p
  else
    let l := rawDefects fun b => (patched s p hCOMP Par.COMP_DEFECT_LIST b).toNat
    if holdsDefect l d || defectsAreFull l then p
    else
      let (off, bs) := insertDefect l d
      bs.zipIdx.foldl (fun p b => mput none p (cell hCOMP Par.COMP_DEFECT_LIST (off + b.2)) (some (b.1 : Int))) p

/-- DEFECTS and DEFECTS_IGNORED of the list in force (R211, R213). -/
def showDefects (s : State) : State :=
  let m := s.raster.mode
  let raw := rawDefects (defectByte s)
  let good := validDefects m none raw
  let apply := good.filter fun d => let (y, x, c) := drivenOf m d
                                    defectAt m good y x c == some d
  changeRes hCOMP Par.COMP_DEFECTS_IGNORED (raw.length - apply.length)
    (changeRes hCOMP Par.COMP_DEFECTS apply.length
      { s with pipe.defectsFull := defectsAreFull raw })

/-- The entries added automatically take effect (R217). -/
def applyAutoDefects (s : State) : State :=
  s.pipe.autoDefects.foldl (fun s b =>
    let l := rawDefects (defectByte s)
    let d := defectOf b
    if holdsDefect l d || defectsAreFull l then s
    else
      let (off, bs) := insertDefect l d
      bs.zipIdx.foldl (fun s b => setCfg hCOMP Par.COMP_DEFECT_LIST (off + b.2) (b.1 : Int) s) s)
    { s with pipe.autoDefects := [] }

/-- The entry of Table 8.3 for a candidate. -/
def autoDefect (x y c type : Nat) : Defect :=
  ⟨x, y, c, type, type != 1, true, if type = 2 then 192 else 0, 0⟩

/-- A candidate: its event, and its entry where AUTO_DEFECT asks for one (R217). -/
def candidate (x y c type : Nat) (s : State) : State :=
  let s := raise 0x0338 hCOMP (u16 x ++ u16 y ++ [c + 4 * type]) s
  let d := autoDefect x y c type
  let l := rawDefects (defectByte s)
  if !(cfg s hCOMP Par.COMP_AUTO_DEFECT).testBit type || holdsDefect l d
      || s.pipe.autoDefects.any (fun b => defectOrder (defectOf b) == defectOrder d) then s
  else if 65536 ≤ l.length + s.pipe.autoDefects.length then
    raise 0x033A hCOMP (u16 x ++ u16 y) { s with pipe.defectsFull := true }
  else
    raise 0x0339 hCOMP (u16 x ++ u16 y ++ [c + 4 * type]) (incSat hCOMP Par.COMP_DEFECTS_AUTO 1
      { s with
        pipe.autoDefects := s.pipe.autoDefects ++ [defectBytes d]
        dict.patch := stageDefect s d s.dict.patch
        dict.commits := s.dict.commits.map fun k => { k with patch := stageDefect s d k.patch } })

/-! ### Sensing -/

/-- SWEEP_STATE: 1 while a sweep runs, 0 while no sweep can begin, else 2 (waiting). -/
def showSweep (s : State) : State :=
  changeRes hCOMP Par.COMP_SWEEP_STATE (if s.pipe.sweeping then 1
    else if cfg s hCOMP Par.COMP_SWEEP_MODE = 0 ∧ s.pipe.sweepAsk.isNone then 0 else 2) s

/-- A sweep begins (R215). -/
def beginSweep (s : State) : State :=
  changeRes hCOMP Par.COMP_SWEEP_PROGRESS 0
    { s with pipe.sweeping := true, pipe.sweepNext := 0, pipe.sweepAt := some s.now, pipe.sweepAsk := none }

/-- What begins a sweep at a batch: a start asked for, CONTINUOUS mode, or PERIODIC with no sweep yet (R215, R219). -/
def sweepDue (s : State) : State :=
  match s.pipe.sweepAsk with
  | some 2 => if s.pipe.sweeping ∨ cfg s hCOMP Par.COMP_SWEEP_MODE ≠ 2 then s else beginSweep s
  | some c => if s.pipe.sweeping ∨ c = 1 then raise 0x033F hCOMP [c] (beginSweep s) else beginSweep s
  | none =>
    if s.pipe.sweeping then s
    else match cfg s hCOMP Par.COMP_SWEEP_MODE with
      | 0 => s
      | 1 => beginSweep s
      | _ => if s.pipe.sweepAt.isNone then beginSweep s else s

/-- A batch is chosen, as its request is sent: the next 32 places (R214, R215); none while the pump does not regulate (R292). -/
def beginBatch (s : State) : State :=
  let s := if s.panel.pump = 2 then sweepDue s else s
  if s.pipe.sweeping ∧ s.panel.pump = 2 then
    let n := min 32 (sweepLength s s.raster.mode - s.pipe.sweepNext)
    showSweep { s with pipe.batch := if n = 0 then none else some (s.pipe.sweepNext, n), pipe.batchPorts := [], pipe.batchAt := some s.now }
  else showSweep s

/-- The entries of a port's request: column, row, code and colour (R216, R241, R262). -/
def senseEntries (s : State) (p first n : Nat) : List (Nat × Nat × Nat × Nat) :=
  let m := s.raster.mode
  let f := valsNow s
  let x0 := ((slice s m p).getD (0, 0)).1 * m.hRep
  (List.range n).map fun i =>
    let (x, y, c) := sweepPlace s m p (first + i)
    (x - x0, y, senseCode f s.pipe.ageGain x y c (mget 0 s.pipe.master (panelOffset m x y c)), c)

/-- A measured subpixel: the residual, its counts, PROBE, the candidates (R216, R217). -/
def sensePixel (p k raw : Nat) (s : State) : State :=
  let m := s.raster.mode
  let f := valsNow s
  let (x, y, c) := sweepPlace s m p k
  let at_ := panelOffset m x y c
  let r := mget 0 s.pipe.master at_
  let cur := senseCurrent f c raw
  let r' := clampI (r + senseStep f c cur (gainTotal f s.pipe.ageGain x y c r)) (-128) 127
  let err := f hCOMP Par.COMP_SENSE_LEVEL c - (cur : Int)
  let stuck := decide (r = 127) && decide (f hCOMP Par.COMP_DEADBAND 0 < err)
  let weak := stuck && mget false s.pipe.weakRun at_
  let s := { s with pipe.master := mput 0 s.pipe.master at_ r', pipe.weakRun := mput false s.pipe.weakRun at_ stuck }
  let s := if r' = r then s else incWrap hCOMP Par.COMP_RES_UPDATES 1 s
  let s := if r' ≠ r ∧ (r' = -128 ∨ r' = 127) then
      raise 0x033B hCOMP (u16 x ++ u16 y ++ [c, ofSigned 8 r']) (incSat hCOMP Par.COMP_RES_SATURATED 1 s)
    else s
  let pr := cfg s hCOMP Par.COMP_PROBE
  let s := if pr % 16384 = x ∧ pr / 16384 % 8192 = y ∧ pr / 134217728 % 4 = c then
      setResList hCOMP Par.COMP_SENSE_RESULT [(cur : Int), r, r'] s
    else s
  (candidateTypes f c cur weak).foldl (fun s t => candidate x y c t s) s

/-- Results of a port that are missing (R218): counted, and event 0x0337. -/
def resultsMissing (p n : Nat) (s : State) : State :=
  if n = 0 then s
  else raise 0x0337 hCOMP [p, n]
    (incSat (hPORT p) Par.PORT_SENSE_MISSED n (incSat hCOMP Par.COMP_SENSE_MISSED n s))

/-- Does the DRAM rest in self-refresh, so that results wait (R214)? -/
def resultsWait (s : State) : Bool := (List.range 8).any fun c => (chan s c).service && (chan s c).selfRefresh

/-- The results of a port are applied (R216, R217). -/
def applyResults (p first n : Nat) (raws : List Nat) (valid : Nat) (s : State) : State :=
  let m := s.raster.mode
  (List.range n).foldl (fun s i =>
    if valid.testBit i then sensePixel p (first + i) (raws.getD i 0) s
    else
      let (x, y, c) := sweepPlace s m p (first + i)
      { s with pipe.weakRun := mput false s.pipe.weakRun (panelOffset m x y c) false }) s

/-- The results of a port's batch: raw values and VALID (R216, R262); they wait in BANK11 while the DRAM is in self-refresh (R214). -/
def takeResults (p : Nat) (raws : List Nat) (valid : Nat) (s : State) : State :=
  match s.pipe.batch with
  | none => s
  | some (first, n) =>
    if s.pipe.batchPorts.contains p then s
    else
      let s := { s with pipe.batchPorts := s.pipe.batchPorts ++ [p] }
      let s := if resultsWait s then { s with pipe.senseHeld := s.pipe.senseHeld ++ [⟨some p, first, n, raws, valid⟩] }
        else applyResults p first n raws valid s
      resultsMissing p (n - ((List.range n).filter fun i => valid.testBit i).length) s

/-- A port's results did not arrive. -/
def missResults (p : Nat) (s : State) : State := takeResults p [] 0 s

/-- The rows whose last subpixel every port has answered wait for the boundary (R218). -/
def finishRows (from_ to_ : Nat) (s : State) : State :=
  let m := s.raster.mode
  let n := max 1 (portRow m (halfPorts s))
  ((List.range (to_ / n)).filter fun r => decide (from_ / n ≤ r)).foldl (fun s r =>
    let (lo, hi) := rowSpan m r
    { s with pipe.nextRows := s.pipe.nextRows ++ [(r, false, mslice s.pipe.master lo hi)] }) s

/-- The results that waited are applied, in the order in which they came, once the DRAM has left self-refresh (R214). -/
def applyHeldResults (s : State) : State :=
  if resultsWait s then s
  else s.pipe.senseHeld.foldl (fun s h => match h.port with
    | some p => applyResults p h.first h.count h.raws h.valid s
    | none => finishRows h.first (h.first + h.count) s) { s with pipe.senseHeld := [] }

/-- A batch ends: ports not heard are missing, whole rows are re-encoded, the sweep goes on or ends (R215, R218). -/
def endBatch (s : State) : State :=
  match s.pipe.batch with
  | none => s
  | some (first, n) =>
    let s := (enabledPorts s 0 64).foldl (fun s p => missResults p s) s
    let s := { s with pipe.batch := none, pipe.batchPorts := [], pipe.sweepNext := first + n }
    let s := if resultsWait s then { s with pipe.senseHeld := s.pipe.senseHeld ++ [⟨none, first, n, [], 0⟩] }
      else finishRows first (first + n) s
    let s := changeRes hCOMP Par.COMP_SWEEP_PROGRESS (first + n) s
    if sweepLength s s.raster.mode ≤ first + n then
      let s := incWrap hCOMP Par.COMP_SWEEPS 1 { s with pipe.sweeping := false }
      showSweep (raise 0x0336 hCOMP (u32 (res s hCOMP Par.COMP_SWEEPS) ++
        u16 (min 65535 ((s.now - s.pipe.sweepAt.getD s.now) / tickS))) s)
    else s

/-- A change of slicing, PANEL_ROWS, H_REPLICATE or SUBPIXELS abandons the sweep (R219). -/
def abandonSweep (s : State) : State :=
  showSweep (if s.pipe.sweeping then
      { s with pipe.sweeping := false, pipe.batch := none, pipe.batchPorts := [], pipe.sweepAsk := some 1, pipe.weakRun := [] }
    else { s with pipe.weakRun := [] })

/-- A panel power-off abandons the sweep (R289): the next begins as SWEEP_MODE says. -/
def dropSweep (s : State) : State :=
  showSweep { s with pipe.sweeping := false, pipe.batch := none, pipe.batchPorts := [], pipe.weakRun := [] }

/-- SWEEP_START (R215). -/
def askSweep (s : State) : State :=
  showSweep { s with pipe.sweepAsk := if s.pipe.sweepAsk = some 1 then some 1 else some 0 }

/-- SWEEP_INTERVAL_EXPIRY: a PERIODIC sweep is due (R215). -/
def execSweepIntervalExpiry (s : State) : Host.Outcome State Fault Refusal :=
  .next (match s.pipe.sweepAt with
    | some t =>
      if cfg s hCOMP Par.COMP_SWEEP_MODE ≠ 2 ∨ s.pipe.sweepAsk.isSome ∨ !fabricOn s then s
      else showSweep { advanceTo (t + cfg s hCOMP Par.COMP_SWEEP_INTERVAL * 60 * tickS) s with pipe.sweepAsk := some 2 }
    | none => s)

/-! ### Static-region records -/

/-- The values after the white split of the driven subpixels whose position lies in a 16 × 16 block, in scan order. -/
def blockValues (s : State) (m : Mode) (ss : List (Nat × Nat × Nat)) (bx by_ : Nat) : List Nat :=
  let ys := (List.range m.height).filter fun y => y * m.rowsPerLine / 16 == by_
  let xs := (List.range m.width).filter fun x => x * m.hRep / 16 == bx
  ys.flatMap fun y => xs.flatMap fun x =>
    match ss.find? (fun p => decide (p.2.1 ≤ x) && decide (x < p.2.1 + p.2.2)) with
    | none => []
    | some (p, a, _) =>
      let l := mget [] s.pipe.levels (64 * y + p)
      (List.range m.sub).map fun c => l.getD ((x - a) * m.sub + c) 0

/-- The signature of R209: CRC-16 over the values shifted right, each as three bytes, least significant first. -/
def srlSignature (quant : Nat) (vs : List Nat) : Nat := crc16 (vs.flatMap fun v => toLE 3 (v / 2 ^ quant))

/-- The records and dim amounts of every block at a frame boundary (R209, R210). -/
def srlUpdate (s : State) : State :=
  let m := s.raster.mode
  let f := valsNow s
  let v := fun p => (f hCOMP p 0).toNat
  let ticks := res s hRASTER Par.RASTER_FRAME_TIME
  let ss := slices s m
  let (bw, bh) := srlBlocks m
  let recs := (List.range bh).flatMap fun by_ => (List.range bw).map fun bx =>
    let vs := blockValues s m ss bx by_
    let (sig0, d0, st0) := mget (0, 0, 0) s.pipe.srl (srlKey bx by_)
    let sig := srlSignature (v Par.COMP_SRL_QUANT) vs
    let peak := vs.foldl max 0
    let st := if sig = sig0 ∧ v Par.COMP_SRL_FLOOR ≤ peak then min max32 (st0 + ticks / tickMs) else 0
    (srlKey bx by_, (if st = 0 ∧ sig ≠ sig0 then sig else sig0,
      nextDim st peak (v Par.COMP_SRL_TIME) (v Par.COMP_SRL_FLOOR) (v Par.COMP_SRL_DEPTH) (v Par.COMP_SRL_FADE_MS)
        (v Par.COMP_SRL_RECOVER_MS) ticks d0, st))
  let recs := recs.filter fun r => r.2 != (0, 0, 0)
  let dims := (recs.map fun r => r.2.2.1).filter fun d => d != 0
  let s := { s with pipe.srl := recs }
  let s := changeRes hCOMP Par.COMP_SRL_MAX_DIM (dims.foldl max 0) (changeRes hCOMP Par.COMP_SRL_BLOCKS dims.length s)
  let s := if dims ≠ [] ∧ !s.pipe.dimming then raise 0x033C hCOMP (u32 dims.length) s else s
  { s with pipe.dimming := !dims.isEmpty }

/-! ### Stress -/

/-- P for the mode in force (R220). -/
def passLength (s : State) : Nat := stressPeriod s.raster.mode (if s.pipe.halved then 32 else 16)

/-- dt of R221 for a colour, in µs. -/
def exposure (s : State) (c : Nat) : Nat :=
  (((s.pipe.passTimes.reverse.take s.pipe.passP).map fun t => t.1 * t.2.getD c 65536).foldl (· + ·) 0) / (65536 * 800)

/-- The accumulators of the panel subpixels that one driven subpixel drives (R221). -/
def stressSub (m : Mode) (f : Vals) (dt : Nat) (xd yd c code : Nat) (s : State) : State :=
  (drivenCells m xd yd).foldl (fun s p =>
    let (r, s) := draw s
    let k := panelOffset m p.1 p.2 c
    let v := stressAdd (mget 0 s.pipe.stress k) code (tempFactor f c s.pipe.temp) dt (r % 17592186044416)
    { s with pipe.stress := mput 0 s.pipe.stress k v }) s

/-- The updates of the frame of count `k` (R220). -/
def stressFrame (k : Nat) (s : State) : State :=
  let m := s.raster.mode
  let f := valsNow s
  let dts := (List.range 4).map (exposure s)
  let ls := (List.range m.height).filter fun l => l % s.pipe.passP == k % s.pipe.passP
  ls.foldl (fun s l => (slices s m).foldl (fun s p =>
    ((mget [] s.pipe.codesNow (64 * l + p.1)).zipIdx).foldl (fun s v =>
      let c := v.2 % m.sub
      stressSub m f (dts.getD c 0) (p.2.1 + v.2 / m.sub) l c v.1 s) s) s) s

/-- The mean stress of a 32 × 32 block and colour (R196, R222). -/
def blockMean (s : State) (m : Mode) (bx by_ c : Nat) : Nat :=
  let xs := (List.range 32).filter fun i => decide (32 * bx + i < panelColumns m)
  let ys := (List.range 32).filter fun j => decide (32 * by_ + j < panelRows m)
  let n := xs.length * ys.length
  if n = 0 then 0
  else (ys.foldl (fun a j => xs.foldl (fun a i =>
    a + mget 0 s.pipe.stress (panelOffset m (32 * bx + i) (32 * by_ + j) c)) a) 0) / n

/-- BLOCK_STRESS of every block. -/
def blockMeans (s : State) (m : Mode) : NMap Nat :=
  (List.range (320 * 135 * 4)).filterMap fun k =>
    let v := if k % 4 < m.sub then blockMean s m (k / 4 % 320) (k / 1280) (k % 4) else 0
    if v = 0 then none else some (k, v)

/-- The age map of a map of block stress (R196). -/
def agesOf (s : State) (bs : NMap Nat) : NMap Nat :=
  (List.range (320 * 135 * 4)).filterMap fun k =>
    let v := agePosition (valsNow s) (mget 0 bs k)
    if v = 0 then none else some (k, v)

/-- AGE_GAIN of a map of block stress (R206). -/
def ageGainsOf (s : State) (bs : NMap Nat) : NMap Nat :=
  (List.range (641 * 271 * 4)).filterMap fun k =>
    let nx := k / 4 % 641
    let ny := k / 2564
    let v := ageGainOf (valsNow s) (k % 4) (mget 0 bs (blockKey (min (nx / 2) 319) (min (ny / 2) 134) (k % 4)))
    if v = 16384 then none else some (k, v)

/-- The age map and AGE_GAIN are rebuilt from the block stress; they take effect at the next boundary (R196, R206). -/
def rebuildAges (s : State) : State :=
  { s with pipe.nextAges := some (agesOf s s.pipe.blockStress), pipe.nextAgeGain := some (ageGainsOf s s.pipe.blockStress) }

/-- What waits of a reloaded block stress, of the age map and of AGE_GAIN takes effect (R196, R206, R229). -/
def applyAges (s : State) : State :=
  let s := match s.pipe.nextStress with
    | some b => bumpGen hCOMP Par.COMP_BLOCK_STRESS { s with pipe.blockStress := b, pipe.nextStress := none }
    | none => s
  match s.pipe.nextAges, s.pipe.nextAgeGain with
  | some a, some g =>
    bumpGen hCOMP Par.COMP_AGE_GAIN (bumpGen hOVERDRIVE Par.OVERDRIVE_AGE_MAP
      (incWrap hOVERDRIVE Par.OVERDRIVE_AGE_MAP_UPDATES 1
        { s with pipe.ages := a, pipe.ageGain := g, pipe.nextAges := none, pipe.nextAgeGain := none }))
  | _, _ => s

/-- The stress work of the frame of count `k` at its boundary; the pass's last frame ends the pass (R220 to R222). -/
def stressStep (k : Nat) (s : State) : State :=
  let s := bumpGen hCOMP Par.COMP_STRESS_MAP (stressFrame k s)
  if s.pipe.passFrames + 1 < s.pipe.passP then { s with pipe.passFrames := s.pipe.passFrames + 1 }
  else
    incWrap hCOMP Par.COMP_STRESS_PASSES 1 (bumpGen hCOMP Par.COMP_BLOCK_STRESS
      (rebuildAges { s with pipe.passFrames := 0, pipe.blockStress := blockMeans s s.raster.mode }))

/-- A change of P starts a new pass (R222). -/
def showPass (s : State) : State :=
  let p := passLength s
  let s := if p = s.pipe.passP then s
    else raise 0x033D hCOMP (u16 s.pipe.passP ++ u16 p) { s with pipe.passP := p, pipe.passFrames := 0 }
  changeRes hCOMP Par.COMP_STRESS_PERIOD p s

/-- A frame's time and duties join those of the last frames (R221). -/
def noteFrameTime (ticks : Nat) (s : State) : State :=
  { s with pipe.passTimes := (s.pipe.passTimes ++ [(ticks, s.panel.frameDuty)]).drop (s.pipe.passTimes.length + 1 - 128) }

/-! ### Map flash -/

/-- Bytes of map flash. -/
def flashAt (s : State) (a n : Nat) : List Nat := loadBytes 0xFF#8 (mslice s.pipe.flash a (a + n)) a n

/-- Writes bytes to map flash. -/
def flashPut (a : Nat) (bs : List Nat) (s : State) : State := { s with pipe.flash := storeBytes 0xFF#8 s.pipe.flash a bs }

/-- A directory copy: its SEQUENCE and regions (type, offset, size), none where it is not valid (R223). -/
def directoryCopy (s : State) (copy : Nat) : Option (Nat × List (Nat × Nat × Nat)) :=
  let b := flashAt s (copy * 4096) 4096
  if b.take 4 = [0x4B, 0x4C, 0x4D, 0x44] ∧ leNat (b.drop 4092) = crc32c (b.take 4092) then
    some (leNat (sub b 4 4), (List.range (min 254 (leNat (sub b 8 2)))).map fun i =>
      let r := sub b (12 + 16 * i) 16
      (leNat (r.take 2), leNat (sub r 4 4), leNat (sub r 8 4)))
  else none

/-- The directory in force and its copy: the higher SEQUENCE, copy 0 where they are equal (R223). -/
def directory (s : State) : Option (Nat × Nat × List (Nat × Nat × Nat)) :=
  match directoryCopy s 0, directoryCopy s 1 with
  | some a, some b => if a.1 < b.1 then some (1, b) else some (0, a)
  | some a, none => some (0, a)
  | none, some b => some (1, b)
  | none, none => none

/-- The region of a type: offset and size. -/
def region (s : State) (type : Nat) : Option (Nat × Nat) :=
  match directory s with
  | none => none
  | some (_, _, rs) => (rs.find? fun r => r.1 == type).map (·.2)

/-- A directory copy's bytes. -/
def directoryBytes (seq : Nat) (rs : List (Nat × Nat × Nat)) : List Nat :=
  let b := padTo 4092 ([0x4B, 0x4C, 0x4D, 0x44] ++ u32 seq ++ u16 rs.length ++ [0, 0]
    ++ rs.flatMap fun r => u16 r.1 ++ [0, 0] ++ u32 r.2.1 ++ u32 r.2.2 ++ [0, 0, 0, 0])
  b ++ u32 (crc32c b)

/-- Bytes of a slot of the row regions (R225). -/
def slotBytes (m : Mode) : Nat :=
  let n := panelColumns m * m.sub
  (32 + n + n / 64 + 16 * ((n + 5759) / 5760) + 4095) / 4096 * 4096

/-- The panel-map regions and their sizes, in order (R223 to R225). -/
def mapRegions (m : Mode) : List (Nat × Nat) :=
  [(0x10, 8388608), (0x11, 8388608), (0x12, panelRows m * slotBytes m), (0x13, panelRows m * slotBytes m)]

/-- Places the panel-map regions that the directory lacks, after the highest region, on 64 KiB boundaries: none of those
dropped (R223, R228). -/
def placeRegions (drop : Nat) (m : Mode) (rs : List (Nat × Nat × Nat)) : List (Nat × Nat × Nat) :=
  (mapRegions m).foldl (fun rs r =>
    if (r.1 = 0x13 ∧ 1 ≤ drop) ∨ (r.1 = 0x12 ∧ 2 ≤ drop) ∨ (rs.any fun x => x.1 == r.1 && decide (r.2 ≤ x.2.2)) = true then rs
    else
      let rs := rs.filter fun x => x.1 != r.1
      let top := rs.foldl (fun a x => max a (x.2.1 + x.2.2)) 8192
      rs ++ [(r.1, (top + 65535) / 65536 * 65536, r.2)]) rs

/-- Do the regions fit in the flash? -/
def regionsFit (size : Nat) (rs : List (Nat × Nat × Nat)) : Bool := rs.all fun r => decide (r.2.1 + r.2.2 ≤ size)

/-- The row regions that the flash cannot hold beside those of its directory: 0 none, 1 the stress rows, 2 the residual rows too; told where it
changes (R228). -/
def judgeFlash (rs : List (Nat × Nat × Nat)) (s : State) : Nat × State :=
  let m := s.raster.mode
  let drop := if regionsFit s.pipe.flashSize (placeRegions 0 m rs) then 0
    else if regionsFit s.pipe.flashSize (placeRegions 1 m rs) then 1 else 2
  let s := if drop = s.pipe.flashSmall then s
    else
      let s := { s with pipe.flashSmall := drop }
      let s := if drop = 0 then s else raise 0x0335 hCOMP [1] s
      if drop = 2 then raise 0x0335 hCOMP [2] s else s
  (drop, s)

/-- The missing regions are created, in the directory copy not in force; regions that do not fit are dropped (R223, R228). -/
def createRegions (s : State) : State :=
  match directory s with
  | none => s
  | some (copy, seq, rs) =>
    let (drop, s) := judgeFlash rs s
    let new := placeRegions drop s.raster.mode rs
    let s := changeRes hCOMP Par.COMP_STRESS_DETAIL (if drop = 0 then 0 else 1) s
    if new = rs then s else flashPut ((1 - copy) * 4096) (directoryBytes ((seq + 1) % w32) new) s

/-- The items of a small bank: type, entry and bytes; 0x08 is the block stress (Table 8.5). -/
def bankItems : List (Nat × Nat × Nat × Nat) :=
  [(1, hCOMP, Par.COMP_BLOCK_MODEL, 2779376), (2, hCOMP, Par.COMP_DEFECT_LIST, 524288), (3, hCOMP, Par.COMP_DEFECT_WEIGHTS, 80),
   (4, hTONE, Par.TONE_PRE_LUT, 24576), (5, hTONE, Par.TONE_POST_LUT, 49152),
   (6, hOVERDRIVE, Par.OVERDRIVE_TABLE, 104544),
   (7, hDITHER, Par.DITHER_CODE_LUT, 65536), (8, hCOMP, Par.COMP_BLOCK_STRESS, 691200)]

/-- The bytes of an item from the values in force. -/
def itemBytes (s : State) (i : Nat × Nat × Nat × Nat) : List Nat :=
  if i.1 = 8 then (List.range (320 * 135 * 4)).flatMap fun k => u32 (mget 0 s.pipe.blockStress k)
  else (List.range i.2.2.2).map fun b => (cfgI s i.2.1 i.2.2.1 b).toNat

/-- A small bank's bytes: header and items, COMMIT included (R224). -/
def bankBytes (s : State) (seq : Nat) : List Nat :=
  let m := s.raster.mode
  let head := padTo 63 ([0x4B, 0x4C, 0x53, 0x42] ++ u32 seq ++ u16 (panelColumns m) ++ u16 (panelRows m) ++ [m.sub, 8]) ++ [0xA5]
  head ++ bankItems.flatMap fun i =>
    let b := itemBytes s i
    u16 i.1 ++ [0, 0] ++ u32 b.length ++ u32 (crc32c b) ++ [0, 0, 0, 0] ++ b

/-- The items of a bank at offset `a`, `n` left: type, data address and length, none where a check fails. -/
def readItems (s : State) : Nat → Nat → Option (List (Nat × Nat × Nat))
  | 0, _ => some []
  | n + 1, a =>
    let h := flashAt s a 16
    let len := leNat (sub h 4 4)
    if 8388608 < len ∨ crc32c (flashAt s (a + 16) len) ≠ leNat (sub h 8 4) then none
    else (readItems s n (a + 16 + len)).map ((leNat (h.take 2), a + 16, len) :: ·)

/-- A small bank: SEQUENCE, panel columns, rows and SUB, items; or the cause of event 0x0331 (R224). -/
def readBank (s : State) (base : Nat) : Except Nat (Nat × List Nat × List (Nat × Nat × Nat)) :=
  let h := flashAt s base 64
  if h.take 4 ≠ [0x4B, 0x4C, 0x53, 0x42] then .error 2
  else if h.getD 63 0 ≠ 0xA5 then .error 0
  else match readItems s (h.getD 13 0) (base + 64) with
    | none => .error 1
    | some is => .ok (leNat (sub h 4 4), [leNat (sub h 8 2), leNat (sub h 10 2), h.getD 12 0], is)

/-- The small banks that are valid, as (1 A or 2 B, content), and the failures told (R224). -/
def readBanks (s : State) : List (Nat × Nat × List Nat × List (Nat × Nat × Nat)) × State :=
  [(1, 0x10), (2, 0x11)].foldl (fun x b =>
    match region x.2 b.2 with
    | none => x
    | some (off, _) => match readBank x.2 off with
      | .ok c => (x.1 ++ [(b.1, c)], x.2)
      | .error e => (x.1, raise 0x0331 hCOMP [b.1, e] x.2)) ([], s)

/-- The bank in force: the higher SEQUENCE, A where they are equal. -/
def bankInForce : List (Nat × Nat × List Nat × List (Nat × Nat × Nat)) → Option (Nat × Nat × List Nat × List (Nat × Nat × Nat))
  | [a, b] => if a.2.1 < b.2.1 then some b else some a
  | l => l.head?

/-- The values of a bank's items as a patch, its block stress apart. -/
def itemsPatch (s : State) (is : List (Nat × Nat × Nat)) : NMap (Option Int) :=
  is.foldl (fun p i => match bankItems.find? (fun b => b.1 == i.1 && b.1 != 8) with
    | none => p
    | some (_, h, par, n) => ((flashAt s i.2.1 (min n i.2.2)).zipIdx).foldl (fun p b =>
        mput none p (cell h par b.2) (some (b.1 : Int))) p) []

/-- The block stress of a bank's items. -/
def itemsStress (s : State) (is : List (Nat × Nat × Nat)) : Option (NMap Nat) :=
  (is.find? fun i => i.1 == 8).map fun i =>
    (List.range (min 172800 (i.2.2 / 4))).filterMap fun k =>
      let v := leNat (flashAt s (i.2.1 + 4 * k) 4)
      if v = 0 then none else some (k, v)

/-- MAP_STATE and MAP_PROGRESS. -/
def showMap (s : State) : State :=
  let st := if s.pipe.load.isSome then 1 else if s.pipe.saving.isSome then 2 else if s.pipe.mapFailed then 3 else 0
  let pr := match s.pipe.load with
    | some l => if l.total = 0 then 0 else (l.total - l.residual.length - l.stress.length) * 100 / l.total
    | none => if s.pipe.saving.isSome then 0 else 100
  changeRes hCOMP Par.COMP_MAP_PROGRESS pr (changeRes hCOMP Par.COMP_MAP_STATE st s)

/-- Time in RUN, SELF and HOLD, in ticks (R227). -/
def awakeTicks (s : State) : Nat :=
  (s.power.spent.take 3).foldl (· + ·) 0
    + (match s.power.state with
      | .run | .self | .hold => s.now - s.power.stateAt
      | _ => 0)

/-- A save begins, or waits where a firmware activation or a load runs (R227, and the flash rule of R442). -/
def startSave (s : State) : State :=
  if s.pipe.saving.isSome then s
  else if s.stag.activation.isSome ∨ s.pipe.load.isSome then { s with pipe.saveDue := true }
  else showMap (createRegions { s with pipe.saving := some s.now, pipe.saveDue := false, pipe.saveBase := awakeTicks s })

/-- A save that waited begins. -/
def saveAfter (s : State) : State := if s.pipe.saveDue then startSave s else s

/-- A load ends where no row is left: event 0x0330; a save that waited for it begins (R226). -/
def endLoad (s : State) : State :=
  match s.pipe.load with
  | none => s
  | some l =>
    if l.residual = [] ∧ l.stress = [] then
      saveAfter (showMap (raise 0x0330 hCOMP ([l.bank] ++ u32 l.seq ++ u16 l.lost.length ++ [if l.mismatch then 1 else 0])
        { s with pipe.load := none }))
    else showMap s

/-- The items of a bank take effect: at once, or staged like a commit for a reload (R229). -/
def takeItems (reload : Bool) (patch : NMap (Option Int)) (s : State) : State :=
  if reload then
    let s := stageBytes patch.length s
    { s with dict.commits := s.dict.commits ++ [⟨none, patch, s.raster.index + (if s.raster.closed then 1 else 0)⟩] }
  else applyPatch patch s

/-- The block stress of a bank, and the ages that follow from it, wait for the next boundary; with no frame scanned they take effect at once
(R226, R229). -/
def takeBlockStress (is : List (Nat × Nat × Nat)) (s : State) : State :=
  match itemsStress s is with
  | some bs =>
    let s := { s with pipe.nextStress := some bs, pipe.nextAges := some (agesOf s bs), pipe.nextAgeGain := some (ageGainsOf s bs) }
    if s.raster.stopped then applyAges s else s
  | none => s

/-- Every accumulator at the mean of its block (R226, R228). -/
def restoreMeans (s : State) : State :=
  let m := s.raster.mode
  let means := (List.range (panelColumns m * panelRows m * m.sub)).filterMap fun k =>
    let x := k / m.sub % panelColumns m
    let y := k / (m.sub * panelColumns m)
    let v := mget 0 s.pipe.blockStress (blockKey (x / 32) (y / 32) (k % m.sub))
    if v = 0 then none else some (k, v)
  bumpGen hCOMP Par.COMP_STRESS_MAP { s with pipe.stress := means }

/-- The rows of the residual map and of the stress map begin to stream, unless a bank of another geometry is loaded; without a stress region
the accumulators take their block means (R226, R228). -/
def startRows (reload : Bool) (b seq : Nat) (size : List Nat) (s : State) : State :=
  let m := s.raster.mode
  let mismatch := size != [panelColumns m, panelRows m, m.sub]
  let rows := List.range (panelRows m)
  let residual := if mismatch || decide ((region s 0x12) = none) then [] else rows
  let stress := if mismatch || reload || decide ((region s 0x13) = none) then [] else rows
  let s := changeRes hCOMP Par.COMP_MAP_BANK b (changeRes hCOMP Par.COMP_STRESS_DETAIL
    (if (region s 0x13).isNone then 1 else 0) { s with pipe.noBank := false })
  let s := if reload then s else showPending residual.length s
  let s := if !mismatch && !reload && (region s 0x13).isNone then restoreMeans s else s
  endLoad { s with pipe.load := some {
    reload := reload, bank := b, seq := seq, mismatch := mismatch, residual := residual, stress := stress,
    lost := if residual = [] ∨ (stress = [] ∧ reload = false) then rows else [], total := residual.length + stress.length } }

/-- Step 1 of R226, or a reload (R229): the small bank in force and its items.  The rows stream from then on; with no valid bank none does. -/
def loadSmallBank (reload : Bool) (s : State) : State :=
  let s := match directory s with
    | some (_, _, rs) => (judgeFlash rs s).2
    | none => s
  let (banks, s) := readBanks s
  match bankInForce banks with
  | none => endLoad (changeRes hCOMP Par.COMP_MAP_BANK 0
      { s with pipe.noBank := true
               pipe.load := some { reload := reload, bank := 0, seq := 0, lost := List.range (panelRows s.raster.mode) } })
  | some (b, seq, size, is) =>
    let s := takeBlockStress is (takeItems reload (itemsPatch s is) s)
    startRows reload b seq size s

/-- The data of a chunk, its header, its blocks and its row checked (R225); where the byte-mode job fails, its cause (Table 12.6). -/
def chunkData (kind row n : Nat) (b : List Nat) : Except (Option Nat) (List Nat) :=
  if b.take 2 = [0x52, 0x43] ∧ b.getD 2 0 = kind ∧ leNat (sub b 4 2) = row ∧ leNat (sub b 24 4) = crc32c (b.take 24)
      ∧ leNat (sub b 8 4) = n then
    match decodeBytes (n + 1) (sub b 32 (leNat (sub b 12 4))) [] 0 true with
    | .ok d => if d.length = n ∧ crc32c d = leNat (sub b 20 4) then .ok d else .error none
    | .error c => .error (some c)
  else .error none

/-- Raw bytes of a byte-mode block (R225). -/
abbrev byteBlock : Nat := 5760

/-- A byte-mode job of `n` raw bytes: its blocks count at a codec, which one the spec leaves open (R324, Table 12.8). -/
def byteJob (n : Nat) (s : State) : State :=
  let (d, s) := draw s
  incWrap (hCODEC (d % 8)) Par.CODEC_BYTE_BLOCKS ((n + byteBlock - 1) / byteBlock) s

/-- A row that could not be restored from its chunk: events 0x0609 and 0x0332 (R226, Table 12.6). -/
def chunkFailed (kind row : Nat) (cause : Option Nat) (s : State) : State :=
  let s := match cause with
    | some c => raise 0x0609 hFSTORE [0, c] s
    | none => s
  raise 0x0332 hCOMP ([kind] ++ u16 row) s

/-- A chunk's bytes (R225). -/
def chunkBytes (kind row seq : Nat) (data : List Nat) : List Nat :=
  let coded := encodeBytes (data.length + 1) data [] 0 true
  let h := [0x52, 0x43, kind, 0] ++ u16 row ++ [0, 0] ++ u32 data.length ++ u32 coded.length ++ u32 seq ++ u32 (crc32c data)
  h ++ u32 (crc32c h) ++ [0, 0, 0, 0] ++ coded

/-- A map from a row's list of values, from the R207 offset of its first subpixel. -/
def rowMap {α : Type} [DecidableEq α] (d : α) (lo : Nat) (vs : List α) : NMap α :=
  vs.zipIdx.filterMap fun v => if v.1 = d then none else some (lo + v.2, v.1)

/-- The block stress of the block of an R207 offset. -/
def stressOf (s : State) (m : Mode) (k : Nat) : Nat :=
  let x := k / m.sub % panelColumns m
  let y := k / (m.sub * panelColumns m)
  mget 0 s.pipe.blockStress (blockKey (x / 32) (y / 32) (k % m.sub))

/-- A row that was not loaded, counted once. -/
def rowLost (row : Nat) (l : List Nat) : List Nat := if l.contains row then l else l ++ [row]

/-- A residual row arrives; a reloaded one waits for the next boundary, or with no frame scanned takes effect at once (R226, R229). -/
def residualRow (l : MapLoad) (row : Nat) (chunk : List Nat) (s : State) : State :=
  let m := s.raster.mode
  let (lo, hi) := rowSpan m row
  let (data, s, lost) := match chunkData 1 row (hi - lo) chunk with
    | .ok d => (d.map (toSigned 8), byteJob (hi - lo) s, l.lost)
    | .error e => (List.replicate (hi - lo) 0, chunkFailed 1 row e s, rowLost row l.lost)
  let new := rowMap (0 : Int) lo data
  let s := if l.reload then
      let s := { s with pipe.nextRows := s.pipe.nextRows ++ [(row, true, new)] }
      if s.raster.stopped then applyRows s else s
    else showPending (s.pipe.pendingRows - 1)
      { s with pipe.master := mreplace s.pipe.master lo hi new, pipe.working := mreplace s.pipe.working lo hi new }
  let l' := { l with residual := l.residual.drop 1, lost := lost }
  let s := { s with pipe.load := some l' }
  endLoad (if l'.residual = [] ∧ !l.reload then startRebuild 0 s else s)

/-- A stress row arrives (R226). -/
def stressRow (l : MapLoad) (row : Nat) (chunk : List Nat) (s : State) : State :=
  let m := s.raster.mode
  let (lo, hi) := rowSpan m row
  let (data, s, lost) := match chunkData 2 row (hi - lo) chunk with
    | .ok d => ((List.range (hi - lo)).map fun i => (stressOf s m (lo + i) * d.getD i 0 + 64) / 128, byteJob (hi - lo) s, l.lost)
    | .error e => ((List.range (hi - lo)).map fun i => stressOf s m (lo + i), chunkFailed 2 row e s, rowLost row l.lost)
  endLoad (bumpGen hCOMP Par.COMP_STRESS_MAP { s with
    pipe.stress := mreplace s.pipe.stress lo hi (rowMap 0 lo data)
    pipe.load := some { l with stress := l.stress.drop 1, lost := lost } })

/-- MAP_ROW_LOADED: the next row of the stream arrives (R226). -/
def execMapRowLoaded (stress : Bool) (row : Nat) (chunk : List Nat) (s : State) : Host.Outcome State Fault Refusal :=
  .next (match s.pipe.load with
    | none => s
    | some l =>
      if !fabricOn s then s
      else match stress, l.residual, l.stress with
        | false, r :: _, _ => if r = row then residualRow l row chunk s else s
        | true, [], r :: _ => if r = row then stressRow l row chunk s else s
        | _, _, _ => s)

/-- Panel rows some of whose subpixels, of `n` bytes each from `base` on, lie on lines that were lost (R355). -/
def lostRows (s : State) (base n : Nat) : List Nat :=
  (List.range (panelRows s.raster.mode)).filter fun row =>
    let (lo, hi) := rowSpan s.raster.mode row
    let a := (base + n * lo) / 128
    (List.range ((base + n * hi + 127) / 128 - a)).any fun i => lineLost s (a + i)

/-- The rows of the master residuals and of the stress map that lay on lines lost with a channel: taken as zero and as their block means until
map flash gives them again, and the working map rebuilt from the masters (R355). -/
def recoverMaps (s : State) : State :=
  let m := s.raster.mode
  let residual := lostRows s 0x42000000 1
  let stress := lostRows s 0x58900000 4
  let s := residual.foldl (fun s row => let (lo, hi) := rowSpan m row
                                        { s with pipe.master := mreplace s.pipe.master lo hi [] }) s
  let s := stress.foldl (fun s row =>
    let (lo, hi) := rowSpan m row
    let means := (List.range (hi - lo)).map (fun i => stressOf s m (lo + i))
    { s with pipe.stress := mreplace s.pipe.stress lo hi (rowMap 0 lo means) }) s
  let s := if stress = [] then s else bumpGen hCOMP Par.COMP_STRESS_MAP s
  if s.pipe.load.isSome ∨ s.power.phase ≠ .up then s
  else
    let residual := if (region s 0x12).isNone then [] else residual
    let stress := if (region s 0x13).isNone then [] else stress
    if residual = [] ∧ stress = [] then startRebuild 0 s
    else
      let s := if residual = [] then startRebuild 0 s else { s with pipe.working := [] }
      endLoad { s with pipe.load := some {
        reload := false, bank := res s hCOMP Par.COMP_MAP_BANK, seq := 0, residual := residual, stress := stress,
        total := residual.length + stress.length }, pipe.pendingRows := residual.length }

/-- MAP_SAVE_INTERVAL: SAVE_INTERVAL minutes in RUN, SELF or HOLD have passed (R227). -/
def execMapSaveInterval (s : State) : Host.Outcome State Fault Refusal :=
  .next (match s.power.state with
    | .run | .self | .hold =>
      if s.power.phase ≠ .up ∨ s.pipe.saving.isSome ∨ s.pipe.saveDue then s
      else
        let due := s.pipe.saveBase + cfg s hCOMP Par.COMP_SAVE_INTERVAL * 60 * tickS
        let s := advanceTo (s.now + (due - awakeTicks s)) s
        startSave { s with pipe.saveBase := awakeTicks s }
    | _ => s)

/-- The stress row's byte of an accumulator (R225). -/
def stressByte (acc st : Nat) : Nat := if st = 0 then 0 else min 255 ((acc * 128 + st / 2) / st)

/-- The first `n` rows of a region written in place (R227). -/
def saveRows (kind base seq n : Nat) (s : State) (data : Nat → List Nat) : State :=
  let m := s.raster.mode
  (List.range (min n (panelRows m))).foldl (fun s r =>
    byteJob (data r).length (flashPut (base + r * slotBytes m) (chunkBytes kind r seq (data r)) s)) s

/-- The small bank that a save writes, 1 A or 2 B, and its SEQUENCE: the one not in force (R227). -/
def saveTarget (s : State) : Nat × Nat := match bankInForce (readBanks s).1 with
  | some (1, q, _) => (2, (q + 1) % w32)
  | some (_, q, _) => (1, (q + 1) % w32)
  | none => (1, 1)

/-- The first `n` residual rows saved. -/
def saveResidual (seq n : Nat) (s : State) : State :=
  let m := s.raster.mode
  match region s 0x12 with
  | some (off, _) => saveRows 1 off seq n s fun r =>
      let (lo, hi) := rowSpan m r
      (List.range (hi - lo)).map fun k => ofSigned 8 (mget 0 s.pipe.master (lo + k))
  | none => s

/-- The first `n` stress rows saved. -/
def saveStress (seq n : Nat) (s : State) : State :=
  let m := s.raster.mode
  match region s 0x13 with
  | some (off, _) => saveRows 2 off seq n s fun r =>
      let (lo, hi) := rowSpan m r
      (List.range (hi - lo)).map fun k => stressByte (mget 0 s.pipe.stress (lo + k)) (stressOf s m (lo + k))
  | none => s

/-- A save that succeeds: residual rows, stress rows, then the small bank not in force (R227). -/
def finishSave (since : Nat) (s : State) : State :=
  let (b, seq) := saveTarget s
  let rows := panelRows s.raster.mode
  let s := saveStress seq rows (saveResidual seq rows s)
  let s := match region s (0xF + b) with
    | some (off, _) => flashPut off (bankBytes s seq) s
    | none => s
  let s := setRes hCOMP Par.COMP_LAST_SAVE (opSeconds s) (changeRes hCOMP Par.COMP_MAP_BANK b
    { s with pipe.saving := none, pipe.mapFailed := false, pipe.noBank := false })
  showMap (raise 0x0333 hCOMP (u32 seq ++ u16 (min 65535 ((s.now - since) / tickS))) s)

/-- A save that fails in a stage: the stages before it are written, of its own rows a free number, and of a bank all but COMMIT (R227). -/
def failSave (stage status : Nat) (s : State) : State :=
  let (b, seq) := saveTarget s
  let rows := panelRows s.raster.mode
  let (n, s) := draw s
  let s := saveResidual seq (if stage = 0 then n % (rows + 1) else rows) s
  let s := if stage = 0 then s else saveStress seq (if stage = 1 then n % (rows + 1) else rows) s
  let s := if stage < 2 then s
    else match region s (0xF + b) with
      | some (off, _) => flashPut (off + 63) [0xFF] s
      | none => s
  showMap (raise 0x0334 hCOMP [stage, status] { s with pipe.saving := none, pipe.mapFailed := true })

/-- A save ends (R227): `failed` carries the stage and the flash's status; with no directory there is nowhere to write, and the status is free. -/
def endSave (failed : Option (Nat × Nat)) (s : State) : State :=
  match s.pipe.saving, failed with
  | none, _ => s
  | some t, none =>
    if (directory s).isSome then finishSave t s
    else
      let (n, s) := draw s
      failSave 0 (n % 256) s
  | some _, some (stage, status) => failSave stage status s

end Sys2Proof.Machine
end

