-- ==== Sys2Proof/Machine/RowDrive.lean ====
section
/-! DEFINITION. The row outputs (11): the waveform engine (R276 to R281), emission duty (R282 to R284), gate bias (R285, R286) and
the sense chain (R287, R288). -/

namespace Sys2Proof.Machine

/-- A row set's state. -/
def rowSet (s : State) (k : Nat) : RowSet := if k = 0 then s.panel.set0 else s.panel.set1

/-- A row set's state replaced. -/
def setRowSet (k : Nat) (r : RowSet) (s : State) : State :=
  if k = 0 then { s with panel.set0 := r } else { s with panel.set1 := r }

/-- Bits of a number from `lo`, `n` of them. -/
abbrev field (v lo n : Nat) : Nat := v / 2 ^ lo % 2 ^ n

/-- The row set whose entries a row set runs; none where it is OFF (R277). -/
def entriesRun (s : State) (k : Nat) : Option Nat :=
  if k = 0 then some 0 else match cfg s hROWDRV Par.ROWDRV_ROWSET1_MODE with
  | 0 => some 1
  | 1 => some 0
  | _ => none

/-- OUT_CFG of an output (R278). -/
def outCfg (s : State) (e o : Nat) : Nat := cfg s (hROWSET e) Par.ROWSET_OUT_CFG o

/-- Role, IDLE, DISCH and SENSE_HOLD of an OUT_CFG element. -/
abbrev cfgRole (c : Nat) : Nat := field c 0 2
/-- idle level -/
abbrev cfgIdle (c : Nat) : Bool := c.testBit 2
/-- level while discharge holds all rows on -/
abbrev cfgDisch (c : Nat) : Bool := c.testBit 3
/-- level during a sense window -/
abbrev cfgHold (c : Nat) : Bool := c.testBit 4

/-- COLOUR of an EMIT output, 4 for ALL. -/
def cfgColour (c : Nat) : Nat := min 4 (field c 24 3)

/-- Does the program of an output run at line `n` of a frame (R279)? -/
def programRuns (c win frame height : Nat) (anyFrame : Bool) (n : Int) : Bool :=
  let d0 := field c 8 4
  let d := if d0 = 0 then 1 else min 12 d0
  let phase := field c 12 4 % d
  (anyFrame || c.testBit (16 + frame % 8)) && (n + phase) % (d : Int) == 0
  && (match field c 28 2 with
    | 1 => true
    | 2 => decide (toSigned 16 win ≤ n) && decide (n ≤ toSigned 16 (win / 65536))
    | _ => decide (0 ≤ n) && decide (n < height))

/-! ### Duty -/

/-- D at tick `t` (R283). -/
def dutyAt (s : State) (t : Nat) : Nat :=
  let f := s.panel.fadeLen
  if f = 0 then s.panel.fadeTo
  else ((s.panel.fadeFrom : Int)
    + (((s.panel.fadeTo : Int) - s.panel.fadeFrom) * (min (t - s.panel.fadeAt) f : Nat)).fdiv f).toNat

/-- A fade from the D in force towards a target (R283). -/
def startFade (target ms : Nat) (s : State) : State :=
  { s with panel.fadeFrom := dutyAt s s.now, panel.fadeTo := target, panel.fadeAt := s.now, panel.fadeLen := ms * tickMs }

/-- Dq of a colour, 4 for ALL, at duty `d` (R282). -/
def dutyQ (s : State) (d c : Nat) : Nat :=
  let dc := if c = 4 then d else min 65536 ((d * cfg s hROWDRV Par.ROWDRV_DUTY_CAL c + 16384) / 32768)
  let q := 2 ^ (16 - cfg s hROWDRV Par.ROWDRV_DUTY_BITS)
  dc / q * q

/-! ### Line programs -/

/-- An edge element (R280): valid, offset, level. -/
def edgeOf (v : Nat) : Bool × Nat × Bool := (v.testBit 31, v % 16777216, v.testBit 24)

/-- The edges of an output's program that apply, and the elements ignored; `width` moves edge 1 of an EMIT output. -/
def outEdges (s : State) (e o : Nat) (width : Option Nat) : List (Nat × Bool) × List Nat :=
  let el := fun k => edgeOf (cfg s (hROWSET e) Par.ROWSET_OUT_EDGES (8 * o + k))
  let r := (List.range 8).foldl (fun (a : List (Nat × Bool) × List Nat × Nat) k =>
    let (valid, off, level) := el k
    let off := match width with
      | some w => if k = 1 then (el 0).2.1 + w else off
      | none => off
    if !valid then a
    else if off < a.2.2 then (a.1, a.2.1 ++ [8 * o + k], a.2.2)
    else (a.1 ++ [(off, level)], a.2.1, off)) ([], [], 0)
  (r.1, r.2.1)

/-- The ticks by which a row set's line starts, and its outputs with them, are delayed (R151, R277). -/
def rowTrim (s : State) (k : Nat) : Nat := cfg s (hHALF k) Par.HALF_SKEW_TRIM

/-- The levels of all outputs at tick `t`. -/
def levelsAt (r : RowSet) (t : Nat) : NMap Bool :=
  r.edges.foldl (fun m e => if e.2.1 ≤ t then mput false m e.1 e.2.2 else m) r.levels

/-- LEVELS for some levels of the outputs. -/
def levelBits (m : NMap Bool) : Nat := (List.range 23).foldl (fun a o => if mget false m o then a + 2 ^ o else a) 0

/-- LEVELS brought up to date; every edge so far is a value of its own. -/
def showLevels (k : Nat) (s : State) : State :=
  let r := rowSet s k
  let ticks := (r.edges.map fun e => e.2.1).filter fun t => decide (t ≤ s.now)
  (ticks.foldr insertUp [] ++ [s.now]).foldl
    (fun s t => changeRes (hROWSET k) Par.ROWSET_LEVELS (levelBits (levelsAt r t)) s) s

/-- The token after a sense step: a START step places it on row 0, an ADVANCE step moves it down a row (R287). -/
def tokenAfter (start : Bool) (token : Option Nat) : Option Nat := if start then some 0 else token.map (· + 1)

/-- The sense steps that have ended have moved the token (R287). -/
def settleToken (k : Nat) (s : State) : State :=
  let r := rowSet s k
  let s := setRowSet k { r with moves := r.moves.filter fun m => decide (s.now < m.1) } s
  (r.moves.filter fun m => decide (m.1 ≤ s.now)).foldl (fun s m =>
    let token := tokenAfter m.2 (rowSet s k).token
    changeRes (hROWSET k) Par.ROWSET_SENSE_ROW (token.getD 0xFFFF) (setRowSet k { rowSet s k with token := token } s)) s

/-- Every edge and step of a row set so far has come. -/
def settleSet (k : Nat) (s : State) : State :=
  let s := settleToken k (showLevels k s)
  let r := rowSet s k
  setRowSet k { r with levels := levelsAt r s.now, edges := r.edges.filter fun e => decide (s.now < e.2.1) } s

/-- An output takes a level at tick `t`. -/
def putEdge (k o t : Nat) (l : Bool) (s : State) : State :=
  let r := rowSet s k
  setRowSet k { r with edges := r.edges ++ [(o, t, l)] } s

/-- An output's program runs at the line start of tick `t`: its edges, those ignored counted (R280, R282). -/
def runOutput (k e o : Nat) (emit : Bool) (t : Nat) (s : State) : State :=
  let r := rowSet s k
  let c := outCfg s e o
  let acc := mget 0 r.acc o + dutyQ s s.panel.duty (cfgColour c) * cfg s (hROWSET e) Par.ROWSET_EMIT_SPAN
  let (es, ignored) := outEdges s e o (if emit then some (acc / 65536) else none)
  let s := setRowSet k { r with
    acc := if emit then mput 0 r.acc o (acc % 65536) else r.acc
    edges := r.edges ++ es.map (fun x => (o, t + x.1, x.2)) } s
  ignored.foldl (fun s i => raise 0x0508 (hROWSET k) ([k, o] ++ u16 i)
    (incSat (hROWSET k) Par.ROWSET_EDGES_IGNORED 1 s)) s

/-- One output at the line start of tick `t` (R278, R279, R287, R288): a SENSE output in a sense step goes on with it. -/
def lineOutput (k e o : Nat) (n : Int) (frame height t : Nat) (s : State) : State :=
  let c := outCfg s e o
  let win := cfg s (hROWSET e) Par.ROWSET_OUT_WIN o
  match cfgRole c with
  | 1 => if (rowSet s k).edges.any fun x => x.1 == o && decide (t < x.2.1) then s else putEdge k o t (cfgIdle c) s
  | 3 => putEdge k o t (cfgIdle c) s
  | role =>
    if s.panel.sensing then putEdge k o t (cfgHold c) s
    else if programRuns c win frame height false n then runOutput k e o (role == 2) t s
    else putEdge k o t (cfgIdle c) s

/-- Edges at or beyond the line start of tick `t` are not reached (R280), but for those of sense steps and of BIAS_SEL. -/
def dropEdges (k e t : Nat) (s : State) : State :=
  let r := rowSet s k
  let keeps : Nat × Nat × Bool → Bool := fun x => decide (x.2.1 < t) || x.1 == 22 || cfgRole (outCfg s e x.1) == 1
  setRowSet k { r with edges := r.edges.filter keeps } s

/-- A row set at line start `n` of a frame (R277, R279 to R281): an OFF set holds its IDLE levels. -/
def lineSet (k : Nat) (n : Int) (frame height : Nat) (s : State) : State :=
  let s := settleSet k s
  let t := s.now + rowTrim s k
  match entriesRun s k with
  | none =>
    let r := rowSet s k
    let s := setRowSet k { r with edges := r.edges.filter fun x => decide (x.2.1 < t) } s
    showLevels k ((List.range 23).foldl (fun s o => putEdge k o t (cfgIdle (outCfg s k o)) s) s)
  | some e => showLevels k ((List.range 22).foldl (fun s o => lineOutput k e o n frame height t s) (dropEdges k e t s))

/-- Colours of which an EMIT output runs at this line start (R284). -/
def emitting (s : State) (k : Nat) (n : Int) (frame height : Nat) : List Nat :=
  match entriesRun s k with
  | none => []
  | some e => ((List.range 22).filter fun o =>
      let c := outCfg s e o
      cfgRole c == 2 && programRuns c (cfg s (hROWSET e) Par.ROWSET_OUT_WIN o) frame height false n).map fun o =>
        cfgColour (outCfg s e o)

/-- The sums of R284 at a line start. -/
def sumDuty (n : Int) (frame height : Nat) (s : State) : State :=
  let run := emitting s 0 n frame height ++ emitting s 1 n frame height
  (List.range 4).foldl (fun s c =>
    if run.contains c || run.contains 4 then
      let (a, b) := mget (0, 0) s.panel.dutySum c
      let q := if s.panel.sensing then 0 else dutyQ s s.panel.duty (if run.contains c then c else 4)
      { s with panel.dutySum := mput (0, 0) s.panel.dutySum c (a + q, b + 1) }
    else s) s

/-- FRAME_DUTY of the frame that ends (R284). -/
def endDuty (s : State) : State :=
  let ds : List Nat := (List.range 4).map fun c =>
    let (a, b) := mget (0, 0) s.panel.dutySum c
    if b = 0 then 65536 else a / b
  setResList hROWDRV Par.ROWDRV_FRAME_DUTY (ds.map Int.ofNat)
    { s with panel.frameDuty := ds, panel.dutySum := [] }

/-- Whether a fade runs (R283). -/
def showFading (s : State) : State :=
  changeRes hROWDRV Par.ROWDRV_FADING
    (if s.panel.fadeLen ≠ 0 ∧ s.now < s.panel.fadeAt + s.panel.fadeLen then 1 else 0) s

/-- D at a line start (R283). -/
def showDuty (s : State) : State :=
  let d := dutyAt s s.now
  showFading (changeRes hROWDRV Par.ROWDRV_DUTY_NOW d { s with panel.duty := d })

/-- A fade in progress ends with the raster: D is its target from here on. -/
def endFade (s : State) : State := showFading { s with panel.fadeLen := 0 }

/-- Every row output of both sets takes a level now, given by its OUT_CFG element and whether the discharge levels apply to it: not to
BIAS_SEL, nor to a set that is OFF (R277, R298). -/
def allOutputs (f : Bool → Nat → Bool) (s : State) : State :=
  [0, 1].foldl (fun s k =>
    let s := settleSet k s
    let levels := (List.range 23).foldl (fun m o =>
      mput false m o (f (o != 22 && (entriesRun s k).isSome) (outCfg s ((entriesRun s k).getD k) o))) []
    showLevels k (setRowSet k { rowSet s k with levels := levels, edges := [], moves := [] } s)) s

/-- A line of the black scan: SCAN programs run with FRAME_MASK ignored, EMIT outputs hold DISCH (R298). -/
def blackScanLine (n : Int) (height : Nat) (s : State) : State :=
  [0, 1].foldl (fun s k =>
    let s := settleSet k s
    let t := s.now + rowTrim s k
    match entriesRun s k with
    | none => s
    | some e =>
      showLevels k <| (List.range 22).foldl (fun s o =>
        let c := outCfg s e o
        if cfgRole c = 0 ∧ programRuns c (cfg s (hROWSET e) Par.ROWSET_OUT_WIN o) 0 height true n = true then runOutput k e o false t s
        else putEdge k o t (if cfgRole c = 2 then cfgDisch c else cfgIdle c) s) (dropEdges k e t s)) s

/-! ### Gate bias -/

/-- Time at level 1 minus time at level 0, in ticks, up to tick `t`. -/
def biasBalance (s : State) (t : Nat) : Int :=
  s.panel.balance + (if s.panel.bias then 1 else -1) * ((t : Int) - s.panel.biasAt)

/-- BIAS_BALANCE at tick `t`, in whole µs towards zero: each µs counted on the way is a value of its own. -/
def showBalance (t : Nat) (s : State) : State :=
  let b := (biasBalance s t).tdiv tickUs
  stepRes hROWDRV Par.ROWDRV_BIAS_BALANCE 0 b (b - resI s hROWDRV Par.ROWDRV_BIAS_BALANCE).natAbs s

/-- BIAS_SEL is `l` from tick `t` on: B is summed up to it, and BIAS_LEVEL shows it (R285). -/
def biasTake (t : Nat) (l : Bool) (s : State) : State :=
  if s.panel.bias = l then s
  else
    let s := showBalance t s
    changeRes hROWDRV Par.ROWDRV_BIAS_LEVEL (if l then 1 else 0)
      { s with panel.balance := biasBalance s t, panel.bias := l, panel.biasAt := t }

/-- BIAS_SEL of every row set that runs is put to `l` at tick `t`, later by the trim of its half (R277, R285). -/
def biasEdge (t : Nat) (l : Bool) (s : State) : State :=
  if s.panel.drive = .floating then s
  else [0, 1].foldl (fun s k => if (entriesRun s k).isNone then s else showLevels k (putEdge k 22 (t + rowTrim s k) l s)) s

/-- A change of BIAS_SEL that waits for its delay has come (R285). -/
def biasDue (s : State) : State :=
  match s.panel.biasDue with
  | some (t, l) => if t ≤ s.now then biasTake t l { s with panel.biasDue := none } else s
  | none => s

/-- The level of the next frame, at its boundary (R285). -/
def biasBoundary (s : State) : State :=
  let s := biasDue s
  let b := biasBalance s s.now
  let l := if cfg s hROWDRV Par.ROWDRV_BIAS_MODE = 0 ∨ b = 0 then !s.panel.bias else decide (b < 0)
  let t := s.now + cfg s hROWDRV Par.ROWDRV_BIAS_DELAY
  biasDue (biasEdge t l { s with panel.biasDue := some (t, l) })

/-- The inversion of a long stretch, at the line start after a stretch line in which the level had been held long enough (R286). -/
def biasStretch (s : State) : State :=
  let s := biasDue s
  if s.panel.biasDue.isNone ∧ s.panel.biasAt + cfg s hROWDRV Par.ROWDRV_BIAS_MAX_MS * tickMs < s.now then
    biasTake s.now (!s.panel.bias) (biasEdge s.now (!s.panel.bias) s)
  else s

/-- BIAS_SEL holds a level given by its OUT_CFG element from now on (R286). -/
def biasHold (f : Nat → Bool) (s : State) : State :=
  biasTake s.now (f (outCfg s 0 22)) { biasDue s with panel.biasDue := none }

/-- B returns to 0 (R285). -/
def biasZero (s : State) : State :=
  setResI hROWDRV Par.ROWDRV_BIAS_BALANCE 0 { showBalance s.now s with panel.balance := 0, panel.biasAt := s.now }

/-! ### The row outputs as a whole -/

/-- Row outputs drive IDLE, BIAS_SEL too (R276, R286). -/
def rowsIdle (s : State) : State := biasHold cfgIdle (allOutputs (fun _ c => cfgIdle c) { s with panel.drive := .idle })

/-- Row outputs become high-impedance (R276). -/
def rowsFloat (s : State) : State := allOutputs (fun _ _ => false) { s with panel.drive := .floating }

/-- SCAN and EMIT outputs take their DISCH levels (R298). -/
def rowsDisch (s : State) : State :=
  if s.panel.drive = .floating then s
  else allOutputs (fun on c => if on && (cfgRole c == 0 || cfgRole c == 2) then cfgDisch c else cfgIdle c)
    { s with panel.drive := .disch }

/-- Every row output takes its DISCH level, BIAS_SEL too (R495). -/
def rowsEmergency (s : State) : State := biasHold cfgDisch (allOutputs (fun _ c => cfgDisch c) { s with panel.drive := .disch })

/-- The RASTER step of a panel power-on: the emission accumulators and B are 0, and D begins at 0 and fades to DUTY (R282, R283,
R285). -/
def rowsBegin (s : State) : State :=
  let s := [0, 1].foldl (fun s k => setRowSet k { rowSet s k with acc := [] } s) s
  { biasZero s with
    panel.fadeFrom := 0, panel.fadeTo := cfg s hROWDRV Par.ROWDRV_DUTY, panel.fadeAt := s.now
    panel.fadeLen := cfg s hROWDRV Par.ROWDRV_FADE_IN_MS * tickMs }

/-! ### The sense chain -/

/-- A sense step of row set `k` from tick `t`: SENSE outputs run their programs and return to IDLE at its end, in an ADVANCE step those
of GCK only (R287). -/
def senseStepAt (k : Nat) (start : Bool) (t : Nat) (s : State) : State :=
  match entriesRun s k with
  | none => s
  | some e =>
    let r := rowSet s k
    let len := cfg s (hROWSET e) Par.ROWSET_SENSE_STEP
    let outs := (List.range 22).filter fun o => cfgRole (outCfg s e o) == 1 && (start || decide (o < 12))
    let edges := outs.flatMap fun o =>
      ((outEdges s e o none).1.filter fun x => decide (x.1 < len)).map (fun x => (o, t + x.1, x.2))
        ++ [(o, t + len, cfgIdle (outCfg s e o))]
    setRowSet k { r with edges := r.edges ++ edges, moves := r.moves ++ [(t + len, start)] } s

/-- The steps of row set `k` at a window's first line start, back to back, and between the rows of a batch: first row, rows, whether a START
step comes first, the end of the TURN block and the sense time (R288). -/
def senseSteps (k r0 rows : Nat) (first : Bool) (turn sense : Nat) (s : State) : State :=
  let s := settleToken k s
  let len := cfg s (hROWSET ((entriesRun s k).getD k)) Par.ROWSET_SENSE_STEP
  let token := (rowSet s k).token
  let restart := first || token.isNone
  let steps := (if restart then [true] else []) ++ List.replicate (r0 - if restart then 0 else token.getD 0) false
  let s := steps.zipIdx.foldl (fun s x => senseStepAt k x.1 (s.now + rowTrim s k + x.2 * len) s) s
  (List.range (rows - 1)).foldl (fun s i => senseStepAt k false (turn + rowTrim s k + (i + 1) * sense / rows) s) s

/-- The sense pattern of a window on both row sets (R288). -/
def senseWindow (r0 rows : Nat) (first : Bool) (turn sense : Nat) (s : State) : State :=
  senseSteps 1 r0 rows first turn sense (senseSteps 0 r0 rows first turn sense s)

/-- The token's row becomes unknown (R287). -/
def senseUnknown (s : State) : State :=
  [0, 1].foldl (fun s k => changeRes (hROWSET k) Par.ROWSET_SENSE_ROW 0xFFFF (setRowSet k { rowSet s k with token := none, moves := [] } s)) s

end Sys2Proof.Machine
end

