-- ==== Sys2Proof/Machine/Otham.lean ====
section
/-! DEFINITION. The Otham ports (10): blocks and packets to and from the column drivers (R247 to R251, R254 to R256), the line fit
and its rate (R250, R252), lines and lag (R253), the blanking schedule and reverse windows (R257 to R259), driver configuration
(R260, R261), status and sense results (R262, R263), training (R264, R265), read-back and failover (R266 to R269). -/

namespace Sys2Proof.Machine

/-- A port's state replaced. -/
def setOport (p : Nat) (x : OPort) (s : State) : State := { s with out.ports := mput {} s.out.ports p x }

/-- A lane's state replaced, `l` 0 for A and 1 for B. -/
def setOlane (p l : Nat) (x : OLaneSt) (s : State) : State := { s with out.lanes := mput {} s.out.lanes (2 * p + l) x }

/-- Block time of a rate, in half ticks of 0.625 ns (Table 10.1). -/
def blockTime (rate : Nat) : Nat := [132, 66, 33].getD rate 33

/-- Rate code of the lanes in use: the OUTPUT rate in DUAL, else twice it, at most 6.4 Gbit/s (R250). -/
def laneRate (r : Nat) (m : LaneMode) : Nat := if m = .dual then r else min 2 (r + 1)

/-- Lane-mode code of SWITCH (Table 10.3). -/
def modeCode : LaneMode → Nat
  | .dual => 0
  | .singleA => 1
  | .singleB => 2

/-- The lanes that carry data in a mode. -/
def lanesOf : LaneMode → List Nat
  | .dual => [0, 1]
  | .singleA => [0]
  | .singleB => [1]

/-- The back-channel lane of a mode (R250). -/
def backLane : LaneMode → Nat
  | .singleA => 0
  | _ => 1

/-- The single-lane mode of a lane. -/
def singleOf (l : Nat) : LaneMode := if l = 0 then .singleA else .singleB

/-- Does a port send: enabled, trained and not stopped (R257, R269)? -/
def portWorks (s : State) (p : Nat) : Bool :=
  portEnabled s p && (oport s p).trained && !(oport s p).stopped && (oport s p).phase == .idle

/-- The ports that send, in order. -/
def workingPorts (s : State) : List Nat := (List.range 64).filter (portWorks s)

/-! ### What a unit shows -/

/-- PORT MODE (Table 10.13). -/
def portMode (s : State) (p : Nat) : Nat :=
  let x := oport s p
  if !portEnabled s p ∨ !x.powered then 0
  else if x.phase ≠ .idle then 1
  else if x.stopped then 5
  else if x.trained then 2 + modeCode x.mode
  else 0

/-- OLANE STATE (Table 10.14). -/
def olaneState (s : State) (p l : Nat) : Nat :=
  let x := oport s p
  let y := olane s p l
  if !portEnabled s p then 0
  else if y.retired then 4
  else if !x.powered then 0
  else if x.phase ≠ .idle then (if (lanesOf x.tryMode).contains l then
      (if x.phase ≠ .ts1 ∧ backLane x.tryMode = l then 2 else 1) else 3)
  else if x.stopped ∨ !x.trained then 0
  else if !(lanesOf x.mode).contains l then 3
  else if s.out.idle then 5
  else if x.window ∧ backLane x.mode = l then 2
  else 1

/-- The results of a port, its lanes and OUTPUT's counts. -/
def showPort (p : Nat) (s : State) : State :=
  let s := changeRes (hPORT p) Par.PORT_MODE (portMode s p) s
  let s := [0, 1].foldl (fun s l => changeRes (hOLANE p l) Par.OLANE_STATE (olaneState s p l) s) s
  let trained := s.out.ports.filter fun x => portEnabled s x.1 && x.2.powered && x.2.trained && !x.2.stopped
  let failed := s.out.ports.filter fun x => portEnabled s x.1 && (x.2.stopped || x.2.boostFailed)
  changeRes hOUTPUT Par.OUTPUT_PORTS_FAILED failed.length
    (changeRes hOUTPUT Par.OUTPUT_PORTS_SINGLE (trained.filter fun x => x.2.mode != .dual).length s)

/-- The results of every enabled port. -/
def showPorts (s : State) : State := (enabledPorts s 0 64).foldl (fun s p => showPort p s) s

/-! ### The line fit -/

/-- b of R252: blocks of a LINE packet. -/
def lineBlocks (w sub : Nat) : Nat := (20 + (w * sub * 14 + 7) / 8 + 15) / 16

/-- need(r) in half ticks (R252). -/
def needTime (w sub r : Nat) : Nat := max ((lineBlocks w sub + 1) / 2) 11 * blockTime r

/-- Does need(r) stay within the line period (R252)? -/
def needFits (m : Mode) (w r : Nat) : Bool := decide (needTime w m.sub r * 128 ≤ linePeriod m)

/-- A time in half ticks as nanoseconds, rounded down. -/
def halfNs (h : Nat) : Nat := h * 5 / 8

/-- The choice of R252 for the mode in force: the rate, BOOST, and whether the line does not fit at all. -/
def rateChoice (s : State) : Nat × Bool × Bool :=
  let m := s.raster.mode
  let w := sliceWidth m (halfPorts s)
  let lo := if cfg s hOUTPUT Par.OUTPUT_RATE_SELECT = 2 then 1 else 0
  match [0, 1].find? fun r => decide (lo ≤ r) && needFits m w r with
  | some r => (r, false, false)
  | none => (2, true, !needFits m w 2)

/-- The rate is chosen, at start-up and at a commit that changes the fit (R252). -/
def chooseRate (s : State) : State :=
  let m := s.raster.mode
  let w := sliceWidth m (halfPorts s)
  let (r, boost, noFit) := rateChoice s
  let old := s.out.rate
  let s := { s with out.rate := r, out.boost := boost, out.noFit := noFit }
  let s := changeRes hOUTPUT Par.OUTPUT_RATE r (changeRes hOUTPUT Par.OUTPUT_BOOST (if boost then 1 else 0)
    (changeRes hOUTPUT Par.OUTPUT_FIT_NEED_NS (min 65535 (halfNs (needTime w m.sub r))) s))
  let s := if old = r then s else raise 0x0406 hOUTPUT [old, r, if boost then 1 else 0] s
  let s := if noFit then
      raise 0x040C hOUTPUT (u16 (min 65535 (halfNs (needTime w m.sub 2))) ++ u16 (min 65535 (linePeriod m * 5 / 1024))) s
    else s
  settle s

/-! ### Packets (Table 4.1, Tables 10.5 and 10.6) -/

/-- The header bytes 0 to 13 of a packet. -/
def packetHead (type flags len : Nat) (fields : List Nat) : List Nat := [type, flags] ++ u16 len ++ padTo 10 fields

/-- A packet's bytes, with HCHK and PCHK. -/
def packetBytes (type flags : Nat) (fields body : List Nat) : List Nat :=
  let h := packetHead type flags (20 + body.length) fields
  let b := h ++ u16 (crc16 h) ++ body
  b ++ u32 (crc32c b)

/-- Does an input packet's HCHK pass? -/
def hchkOk (type : Nat) (p : Packet) : Bool := crc16 (packetHead type p.flags p.length p.fields) == p.hchk

/-- Does its PCHK pass, over LENGTH − 4 bytes? -/
def pchkOk (type : Nat) (p : Packet) : Bool :=
  p.length == 20 + p.body.length
    && crc32c (packetHead type p.flags p.length p.fields ++ u16 p.hchk ++ p.body) == p.pchk

/-- A LINE packet (R255): codes of 14 bits, pixel after pixel. -/
def linePacket (line frame w : Nat) (codes : List Nat) : List Nat :=
  packetBytes 0x61 0 (u16 line ++ u32 frame ++ u16 w) (packCodes 14 codes)

/-- Registers 0x00 to 0x05 for a port (Table 10.7). -/
def portRegisters (s : State) (p : Nat) : List Nat :=
  let m := s.raster.mode
  let x := oport s p
  let w := ((slice s m p).getD (0, 0)).2
  let zero := fun c => (cfg s hDITHER Par.DITHER_ZERO_CODE c) % 16384
  [p + (if m.split ∧ 32 ≤ p then 256 else 0),
   w + (if m.sub = 4 then 256 else 0) + (if m.hRep = 2 then 512 else 0) + 4096 * modeCode x.mode + 16384 * x.rate,
   zero 0 + 65536 * zero 1, zero 2 + 65536 * zero 3,
   linePeriod m * 1250 / 256 % w32, 0]

/-- A FRAME packet (Table 10.6). -/
def framePacket (s : State) (p : Nat) (apply batch : Bool) (frame windowNs : Nat) : List Nat :=
  packetBytes 0x62 ((if apply then 1 else 0) + if batch then 2 else 0) (u32 frame ++ u32 windowNs)
    ((portRegisters s p).flatMap u32)

/-- A CONFIG packet of consecutive registers. -/
def configPacket (first : Nat) (values : List Nat) : List Nat :=
  packetBytes 0x63 0 [first, values.length] (values.flatMap u32)

/-- A SENSE_REQ packet (R262). -/
def senseRequest (s : State) (p senseNs windowNs : Nat) : List Nat :=
  match s.pipe.batch with
  | none => []
  | some (first, n) =>
    packetBytes 0x64 0 ([n, 0] ++ u32 senseNs ++ u32 windowNs)
      ((senseEntries s p first n).flatMap fun e => u16 e.1 ++ u16 e.2.1 ++ u16 (e.2.2.1 % 16384 + 16384 * e.2.2.2))

/-- A received packet of a type whose HCHK and PCHK pass, with its bytes up to LENGTH (R254). -/
def rxPacket (type : Nat) (bs : List Nat) : Option (List Nat) :=
  let n := leNat (sub bs 2 2)
  if bs.headD 0 = type ∧ crc16 (bs.take 14) = leNat (sub bs 14 2) ∧ 20 ≤ n ∧ n ≤ bs.length
      ∧ crc32c (bs.take (n - 4)) = leNat (sub bs (n - 4) 4) then some (bs.take n)
  else none

/-- The bytes that a driver's blocks carry, and the descrambler's register after them: reset after each TRAIN block of the preamble
(R248); IDLE blocks carry nothing, and blocks with a bad type are discarded (R83). -/
def rxBlocks : Option Nat → List Block → Option Nat × List Nat
  | st, [] => (st, [])
  | st, b :: bs =>
    if typeBad b.type then rxBlocks st bs
    else if b.type = bTRAIN then rxBlocks (some (scramblerSeed 2)) bs
    else if b.type = bDATA then
      match st with
      | some r =>
        let (d, r) := scrambleBytes r b.payload
        let (st, ds) := rxBlocks (some r) bs
        (st, d ++ ds)
      | none => rxBlocks st bs
    else rxBlocks st bs

/-! ### Sending -/

/-- The moment, in half ticks, at which a port's half has this line start (R151). -/
def portStart (s : State) (p : Nat) : Nat := 2 * (s.now + cfg s (hHALF (p / 32)) Par.HALF_SKEW_TRIM)

/-- Does the KL8640 drive a lane of a port: in use, and not turned round? -/
def drives (x : OPort) (l : Nat) : Bool := (lanesOf x.mode).contains l && !(x.window && backLane x.mode == l)

/-- Blocks go out on a lane, `n` times. -/
def laneNote (p l : Nat) (g : List Block) (n : Nat) (s : State) : State :=
  let y := olane s p l
  if n = 0 then s else setOlane p l { y with sent := y.sent ++ [(g, n)] } s

/-- A lane's DATA blocks of some payload bytes: scrambled, the register advanced and LANE_CRC brought up (R248, Table 10.3). -/
def laneData (p l : Nat) (d : List Nat) (s : State) : State :=
  let y := olane s p l
  let (b, r) := scrambleBytes y.scr d
  let blocks : List Block := (List.range (d.length / 16)).map fun i => ⟨bDATA, sub b (16 * i) 16⟩
  if d = [] then s
  else laneNote p l blocks 1 (setOlane p l { y with scr := r, crc := some (crc32Run 0x82F63B78 (y.crc.getD 0xFFFFFFFF) d) } s)

/-- A line time's transmission begins: at the later of the line start and the end of the last one (R253), IDLE blocks having filled the
time between on the lanes driven (R251). -/
def txBegin (p : Nat) (s : State) : State :=
  let x := oport s p
  let at_ := max x.busyTo (portStart s p)
  let gap := if s.out.idle then 0 else (at_ - x.busyTo) / blockTime x.rate
  let s := setOport p { x with busyTo := at_, taps := presets.getD (cfg s (hPORT p) Par.PORT_TX_PRESET) [0, 48, 0] } s
  [0, 1].foldl (fun s l => setOlane p l { olane s p l with
    sent := if drives x l && gap != 0 then [([idleBlock], gap)] else [] } s) s

/-- The lag of a port's line time enters MAX_LAG (R253). -/
def noteLag (p : Nat) (s : State) : State :=
  let lag := halfNs ((oport s p).busyTo - portStart s p)
  if res s (hPORT p) Par.PORT_MAX_LAG < lag then setRes (hPORT p) Par.PORT_MAX_LAG (min 65535 lag) s else s

/-- `n` block columns are sent. -/
def txTime (p n : Nat) (s : State) : State :=
  let x := oport s p
  setOport p { x with busyTo := x.busyTo + n * blockTime x.rate } s

/-- A SWITCH block on the lanes that carry data after it, at the old rate; the scramblers stay as they are (R249). -/
def txSwitch (p : Nat) (new : LaneMode) (rate : Nat) (s : State) : State :=
  let b : Block := ⟨bSWITCH, [0x5A, modeCode new + 4 * rate] ++ List.replicate 14 0⟩
  let s := txTime p 1 ((lanesOf new).foldl (fun s l => laneNote p l [b] 1 s) s)
  setOport p { oport s p with mode := new, rate := rate } s

/-- A SYNC block of a lane: its LANE_CRC covers what was sent since the last (Table 10.3). -/
def syncBlock (s : State) (p l : Nat) (turn : Bool) : Block :=
  let c := match (olane s p l).crc with
    | none => 0
    | some c => Nat.xor c 0xFFFFFFFF
  ⟨bSYNC, [0xE1, l + (if turn then 16 else 0)] ++ u16 (min 65535 s.out.lineNo) ++ u32 c ++ List.replicate 8 0⟩

/-- A SYNC block goes out on a lane, and resets its scrambler. -/
def laneSync (p l : Nat) (turn : Bool) (s : State) : State :=
  laneNote p l [syncBlock s p l turn] 1 (setOlane p l { olane s p l with crc := none, scr := scramblerSeed l } s)

/-- A SYNC column on the lanes in use. -/
def txSync (p : Nat) (s : State) : State :=
  txTime p 1 ((lanesOf (oport s p).mode).foldl (fun s l => laneSync p l false s) s)

/-- The back-channel lane turns round: SYNC with TURN on it, IDLE on the other lane in use (Table 10.9, step 2). -/
def txTurn (p : Nat) (s : State) : State :=
  let x := oport s p
  let s := (lanesOf x.mode).foldl (fun s l =>
    if l = backLane x.mode then laneSync p l true s else laneNote p l [idleBlock] 1 s) s
  txTime p 1 (setOport p { oport s p with rxScr := none } s)

/-- A TRAIN block of a lane: subtype 1 TS1, 2 TS2 (Table 10.3). -/
def othamTrain (subtype l rate : Nat) : Block := ⟨bTRAIN, [0x4B, subtype, l, rate] ++ alternating 12 0xE4 0x1B⟩

/-- `n` TS2 blocks on every lane in use, then a SYNC column. -/
def txResume (p n : Nat) (s : State) : State :=
  let x := oport s p
  txSync p (txTime p n ((lanesOf x.mode).foldl (fun s l => laneNote p l [othamTrain 2 l x.rate] n s) s))

/-- The DATA payload bytes of a packet on the `i`-th of `n` lanes, in order: blocks of 16, the last filled with zeros (R251). -/
def laneBytes (n i : Nat) (bs : List Nat) : List Nat :=
  (List.range ((bs.length + 15) / 16)).flatMap fun b => if b % n = i then padTo 16 (sub bs (16 * b) 16) else []

/-- Columns that a packet takes. -/
def packetColumns (mode : LaneMode) (n : Nat) : Nat := if mode = .dual then (n + 31) / 32 else (n + 15) / 16

/-- A packet is sent: DATA blocks striped over the lanes in use, and IDLE to the end of its last column (R251). -/
def txPacket (p : Nat) (bs : List Nat) (s : State) : State :=
  let x := oport s p
  let ls := lanesOf x.mode
  let n := packetColumns x.mode bs.length
  let s := ls.zipIdx.foldl (fun s l =>
    let d := laneBytes ls.length l.2 bs
    laneNote p l.1 [idleBlock] (n - d.length / 16) (laneData p l.1 d s)) s
  txTime p n s

/-- A LINE packet is sent; what read-back compares is kept for each lane (R266). -/
def txLine (p line : Nat) (bs : List Nat) (s : State) : State :=
  let ls := lanesOf (oport s p).mode
  txPacket p bs (ls.zipIdx.foldl (fun s l =>
    let y := olane s p l.1
    setOlane p l.1 { y with lines := (line, y.scr, crc32c (laneBytes ls.length l.2 bs)) :: y.lines.take 1 } s) s)

/-! ### Lane retirement, failover, stopped ports -/

/-- A lane is left out: its count rises, and at 3 it is retired (R265). -/
def excludeLane (p l : Nat) (s : State) : State :=
  let h := hOLANE p l
  let n := res s h Par.OLANE_EXCLUSIONS + 1
  let y := olane s p l
  if y.retired then s
  else
    let s := setRes h Par.OLANE_EXCLUSIONS (min 3 n) (setOlane p l { y with excluded := true } s)
    if 3 ≤ n then raise 0x0404 (hPORT p) [p, l] (fellRecord h 1 0 0 (setOlane p l { olane s p l with retired := true } s)) else s

/-- A port stops (R269). -/
def stopPort (p cause : Nat) (s : State) : State :=
  let x := oport s p
  settle (raise 0x0405 (hPORT p) [p, cause]
    (showPort p (setOport p { x with stopped := true, window := false, switchTo := none } s)))

/-- A lane in use has failed (R267 to R269). -/
def laneFails (p l cause : Nat) (s : State) : State :=
  let x := oport s p
  if !portWorks s p || !(lanesOf x.mode).contains l then s
  else if x.mode = .dual then
    match x.switchTo with
    | none => setOport p { x with switchTo := some (singleOf (1 - l), l, cause) } s
    | some (_, l', _) => if l = l' then s else stopPort p 0 s
  else if cause = 4 then showPort p (setOport p { x with backLost := true } s)
  else stopPort p 0 s

/-- A port's failover takes place: the SWITCH block, what the port and lane read, in BOOST the port's failure (R268, R269). -/
def failover (p : Nat) (s : State) : State :=
  let x := oport s p
  match x.switchTo with
  | none => s
  | some (new, l, cause) =>
    let s := txSwitch p new (laneRate s.out.rate new) s
    let s := setOport p { oport s p with switchTo := none } s
    let s := showPort p (raise 0x0403 (hPORT p) [p, l, cause] (excludeLane p l s))
    if s.out.boost then
      settle (raise 0x0405 (hPORT p) [p, 1] (showPort p (setOport p { oport s p with boostFailed := true } s)))
    else s

/-! ### Lines -/

/-- What waits for the first line of a frame takes effect in the image of the driver's registers (R260, R270). -/
def imageNext (x : OPort) : OPort :=
  { x with image := x.next.foldl (fun m e => mput 0 m e.1 (e.2.getD 0)) x.image, next := [] }

/-- A port's LINE packet at its line start, or the line skipped for its lag (R253). -/
def sendLine (p line frame w : Nat) (codes : List Nat) (s : State) : State :=
  let s := failover p (txBegin p s)
  let x := oport s p
  if 160 < x.busyTo - portStart s p then
    incSat (hPORT p) Par.PORT_LINES_SKIPPED 1 (setOport p { x with skippedNow := x.skippedNow + 1 } s)
  else
    let s := noteLag p s
    incWrap (hPORT p) Par.PORT_LINES_SENT 1
      (txLine p line (linePacket line frame w codes) (setOport p (imageNext (oport s p)) s))

/-- Every port at an active line start: the head of its queue leaves, and a port that works sends it (R13, R253). -/
def othamActive (line : Nat) (s : State) : State :=
  let s := { s with out.lines := s.out.lines + 1, out.lastLine := line }
  let frame := res s hRASTER Par.RASTER_FRAMES
  (slices s s.raster.mode).foldl (fun s sl =>
    let p := sl.1
    match mget [] s.pipe.queues p with
    | q :: rest =>
      if q.line ≠ line then s
      else
        let s := { s with pipe.queues := mput [] s.pipe.queues p rest }
        if portWorks s p then sendLine p line frame sl.2.2 q.codes s else s
    | [] => s) s

/-- A line of the black scan (R298). -/
def othamScanLine (line : Nat) (s : State) : State :=
  let s := { s with out.lineNo := if line = 0 then 0 else s.out.lineNo + 1 }
  let zero := (List.range s.raster.mode.sub).map fun c => zeroCode (valsNow s) c
  (slices s s.raster.mode).foldl (fun s sl =>
    if portWorks s sl.1 then
      txLine sl.1 line (linePacket line 0xFFFFFFFF sl.2.2 ((List.range sl.2.2).flatMap fun _ => zero))
        (failover sl.1 (noteLag sl.1 (txBegin sl.1 s)))
    else s) s

/-! ### Driver configuration -/

/-- Value of a driver register in DRV_REGS (R260). -/
def drvReg (s : State) (i : Nat) : Nat := leNat ((List.range 4).map fun b => (cfgI s hOUTPUT Par.OUTPUT_DRV_REGS (4 * i + b)).toNat)

/-- Sorted registers with those of a list added. -/
def addRegs (have_ new : List Nat) : List Nat := (List.range 256).filter fun r => decide (8 ≤ r) && (have_.contains r || new.contains r)

/-- Changed registers go out to every port that works or whose training has sent its registers; training sends the rest their own
(R260). -/
def deliver (regs : List Nat) (s : State) : State :=
  if regs = [] then s
  else ((List.range 64).filter fun p => portWorks s p || (portEnabled s p && (oport s p).phase == .window2)).foldl (fun s p => let x := oport s p
                                          setOport p { x with todo := addRegs x.todo regs } s)
    { s with out.delivering := true }

/-- The run of consecutive registers at the head of a list, at most `n`. -/
def runOf : Nat → List Nat → List Nat
  | 0, _ => []
  | _, [] => []
  | n + 1, r :: rs => r :: (if rs.head? = some (r + 1) then runOf n rs else [])

/-- Most registers that a CONFIG packet may hold within a time (R260): none where not even one fits. -/
def configRoom (mode : LaneMode) (rate time : Nat) : Nat :=
  let bytes := time / blockTime rate * (if mode = .dual then 32 else 16)
  min 248 ((bytes - 20) / 4)

/-- CONFIG packets in the capacity left up to `end_` (half ticks); `n` bounds the packets. -/
def sendConfig (p end_ : Nat) : Nat → State → State
  | 0, s => s
  | n + 1, s =>
    let x := oport s p
    let run := runOf (configRoom x.mode x.rate (end_ - x.busyTo)) x.todo
    match run with
    | [] => s
    | r :: _ =>
      let vs := run.map (drvReg s)
      let x' := { x with
        todo := x.todo.drop run.length
        staged := (run.zip vs).foldl (fun m v => mput none m v.1 (some v.2)) x.staged }
      sendConfig p end_ n (txPacket p (configPacket r vs) (setOport p x' s))

/-! ### The blanking schedule -/

/-- Line times of a sense window: span of R214. -/
def senseSpan (s : State) : Nat :=
  (cfg s hCOMP Par.COMP_SENSE_WINDOW * tickUs * 256 + s.raster.period - 1) / max 1 s.raster.period

/-- Length of a reverse window of `n` line times after the TURN block, in ns. -/
def windowNs (s : State) (p n : Nat) : Nat := n * s.raster.period * 5 / 1024 - halfNs (blockTime (oport s p).rate)

/-- Each working port's step 1 of Table 10.9: SWITCH, SYNC, FRAME and SENSE_REQ. -/
def blankPort (apply batch : Bool) (lines : Nat) (p : Nat) (s : State) : State :=
  let s := noteLag p (txBegin p s)
  let x := oport s p
  let s := if x.skippedNow = 0 then s
    else raise 0x040B (hPORT p) ([p] ++ u16 (min 65535 x.skippedNow)) (setOport p { x with skippedNow := 0 } s)
  let s := match x.switchTo with
    | some _ => failover p s
    | none => if x.rate = laneRate s.out.rate x.mode then s else txSwitch p x.mode (laneRate s.out.rate x.mode) s
  let s := txSync p s
  let regs := portRegisters s p
  let x := oport s p
  let next := if apply then x.staged else []
  let s := setOport p { x with
    next := regs.zipIdx.foldl (fun m r => mput none m r.2 (some r.1)) next
    staged := if apply then [] else x.staged } s
  let s := txPacket p (framePacket s p apply batch ((res s hRASTER Par.RASTER_FRAMES + 1) % w32) (windowNs s p lines)) s
  if batch then
    txPacket p (senseRequest s p (cfg s hCOMP Par.COMP_SENSE_WINDOW * 1000) (windowNs s p lines)) s
  else s

/-- The reverse windows of this blanking or stretch, by line number, with the tick of their end. -/
def planWindow (first last : Nat) (s : State) : State :=
  { s with out.win := some (first, last, s.now + clockTicks s ((last - s.out.lineNo) * s.raster.period / 256)) }

/-- Line start ACTIVE_HEIGHT (Table 10.9, step 1; R214, R260). -/
def othamFirstBlank (s : State) : State :=
  let span := senseSpan s
  let s := if span + 3 ≤ s.raster.mode.vblank then beginBatch s else s
  let batch := s.pipe.batch.isSome
  let ps := workingPorts s
  let apply := s.out.delivering && ps.all fun p => (oport s p).todo.isEmpty
  let s := if apply then incWrap hOUTPUT Par.OUTPUT_CONFIG_APPLIED 1 { s with out.delivering := false } else s
  let lines := if batch then span + 1 else 2
  let s := ps.foldl (fun s p => blankPort apply batch lines p s) s
  planWindow (s.out.lineNo + 1) (s.out.lineNo + 1 + lines) s

/-- The rows of a batch: the first panel row and how many (R288). -/
def batchRows (s : State) : Nat × Nat :=
  match s.pipe.batch with
  | none => (0, 0)
  | some (first, n) =>
    let r := max 1 (portRow s.raster.mode (halfPorts s))
    (first / r, (first + n - 1) / r - first / r + 1)

/-- The windows open, after a failover that is due (Table 10.9, step 2; R268), and the sense pattern with a batch (R288). -/
def openWindows (s : State) : State :=
  let batch := s.pipe.batch.isSome
  let s := (workingPorts s).foldl (fun s p =>
    let s := txTurn p (failover p (noteLag p (txBegin p s)))
    showPort p (setOport p { oport s p with window := true, status := false, results := !batch } s)) s
  if batch then
    let (r0, rows) := batchRows s
    let turn := s.now + (blockTime s.out.rate + 1) / 2
    let first := match s.pipe.batch with
      | some (0, _) => true
      | _ => false
    senseWindow r0 rows first turn (cfg s hCOMP Par.COMP_SENSE_WINDOW * tickUs) { s with panel.sensing := true }
  else s

/-- A port's window ends: what is missing is counted, and the back-channel lane is driven again (Table 10.9, step 5; R258, R267). -/
def endWindow (p : Nat) (s : State) : State :=
  let x := oport s p
  if !x.window then s
  else
    let s := if portWorks s p then noteLag p (txBegin p s) else s
    let s := setOport p { oport s p with window := false } s
    let s := if x.results then s else missResults p s
    let s := if x.status then s
      else
        let n := x.missed + 1
        let s := setOport p { oport s p with missed := n } s
        let s := raise 0x0408 (hPORT p) [p, min 255 n] (incSat (hPORT p) Par.PORT_STATUS_MISSED 1 s)
        if cfg s hOUTPUT Par.OUTPUT_STATUS_MISS_LIMIT ≤ n then laneFails p (backLane x.mode) 4 s else s
    if portWorks s p then
      showPort p (if (oport s p).switchTo.isSome then failover p s else txResume p 4 s)
    else showPort p s

/-- Every window ends, with the batch and its sense pattern. -/
def closeWindows (s : State) : State :=
  let s := (List.range 64).foldl (fun s p => endWindow p s) s
  endBatch { s with out.win := none, panel.sensing := false }

/-- A later blanking or stretch line (Table 10.9, step 6): SYNC, after 16 TS2 blocks where the lanes leave electrical idle (R259), then
CONFIG in the capacity left; a failover that is due comes before the SYNC. -/
def othamLater (s : State) : State :=
  let end_ := fun p => portStart s p + s.raster.period / 128
  let wakes := s.out.idle
  (workingPorts s).foldl (fun s p =>
    let s := noteLag p (txBegin p s)
    let s := if wakes then failover p (txResume p 16 s) else txSync p (failover p s)
    sendConfig p (end_ p) 256 s) { s with out.idle := false }

/-- The lanes enter electrical idle, after 4 IDLE blocks (R259). -/
def enterIdle (s : State) : State :=
  if s.out.idle then s
  else showPorts { (workingPorts s).foldl (fun s p =>
    let s := noteLag p (txBegin p s)
    txTime p 4 ((lanesOf (oport s p).mode).foldl (fun s l => laneNote p l [idleBlock] 4 s) s)) s with out.idle := true }

/-- The lanes leave electrical idle at this line start, where they are in it (R259). -/
def leaveIdle (s : State) : State := if s.out.idle then showPorts (othamLater s) else s

/-- May a further batch be requested at the next line start (R214, R259)?  `left` is the number of line times from this line
start to the next anchor. -/
def furtherBatch (s : State) (left : Nat) : Bool :=
  let rate := cfg s hCOMP Par.COMP_HOLD_BATCH_RATE
  let t := s.now + 2 * s.raster.period / 256
  rate != 0 && (s.pipe.sweeping || s.pipe.sweepAsk.isSome || cfg s hCOMP Par.COMP_SWEEP_MODE == 1)
    && decide (senseSpan s + 2 + 64 ≤ left)
    && match s.pipe.batchAt with
      | some b => decide (b + tickS / rate ≤ t)
      | none => true

/-- A further batch is planned, with its request at the next line start, where one may begin (R259). -/
def planBatch (stretch : Bool) (left : Nat) (s : State) : State :=
  if stretch && furtherBatch s left then { s with out.plan := some (s.out.lineNo + 1) } else s

/-- The request line of a further batch (R259, step 1). -/
def requestBatch (s : State) : State :=
  let s := beginBatch { s with out.plan := none }
  if s.pipe.batch.isNone then othamLater s
  else
    let span := senseSpan s
    let s := (workingPorts s).foldl (fun s p =>
      let s := txSync p (failover p (noteLag p (txBegin p s)))
      txPacket p (senseRequest s p (cfg s hCOMP Par.COMP_SENSE_WINDOW * 1000) (windowNs s p (span + 1))) s) s
    planWindow (s.out.lineNo + 1) (s.out.lineNo + 2 + span) s

/-- The Otham side of a line start that is no active line.  `stretch` holds in stretch lines of SELF and HOLD, with the line
times left to the next anchor. -/
def othamQuiet (stretch : Bool) (left : Nat) (s : State) : State :=
  match s.out.win with
  | some (first, last, _) =>
    if s.out.lineNo = first then openWindows s
    else if last ≤ s.out.lineNo then planBatch stretch left (closeWindows s)
    else s
  | none =>
    if s.out.plan.isSome then requestBatch s
    else
      let t := planBatch stretch left s
      if t.out.plan.isNone && stretch && cfgB s hOUTPUT Par.OUTPUT_STRETCH_IDLE && decide (64 < left) then enterIdle t
      else showPorts (othamLater t)

/-- The ports at a line start: `n` the raster's line, 0 to ACTIVE_HEIGHT − 1 active. -/
def othamLine (n : Int) (stretch : Bool) (left : Nat) (s : State) : State :=
  let s := { s with out.lineNo := if n = 0 then 0 else s.out.lineNo + 1 }
  if 0 ≤ n ∧ n < s.raster.mode.height then
    othamActive n.toNat (leaveIdle (if s.out.win.isSome then closeWindows s else s))
  else if n = s.raster.mode.height then othamFirstBlank s
  else othamQuiet stretch left s

/-- REVERSE_WINDOW_END: a port's window ends (R257, R258). -/
def execReverseWindowEnd (p : Nat) (s : State) : Host.Outcome State Fault Refusal :=
  .next (match s.out.win with
    | some (_, _, t) => if (oport s p).window then endWindow p (advanceTo t s) else s
    | none => s)

/-! ### Status -/

/-- CRC-32C of the 1024-byte register space of a port's image (R261). -/
def imageCrc (x : OPort) : Nat := crc32c ((List.range 256).flatMap fun r => u32 (mget 0 x.image r))

/-- Counts of a lane in a STATUS body (R274). -/
def laneCounts (p l : Nat) (b : List Nat) (s : State) : State :=
  let h := hOLANE p l
  incSat h Par.OLANE_TYPE_ERRORS (b.getD (6 + l) 0) (incSat h Par.OLANE_DRIVER_LANE_ERRORS (b.getD (4 + l) 0) s)

/-- Cause 1 of R267: a lane's LANE_ERR in consecutive STATUS packets. -/
def laneStatus (p l err : Nat) (s : State) : State :=
  let y := olane s p l
  let n := if err = 0 then 0 else y.errRun + 1
  let s := setOlane p l { y with errRun := n } s
  if err ≠ 0 ∧ cfg s hOUTPUT Par.OUTPUT_DRV_ERR_LIMIT ≤ n then laneFails p l 1 s else s

/-- What every STATUS does: the counts of the lanes, the copy, LINES_REPEATED and the driver's flags (R263, R274). -/
def copyStatus (p : Nat) (b : List Nat) (s : State) : State :=
  let flags := leNat (b.take 2)
  let s := laneCounts p 1 b (laneCounts p 0 b s)
  let s := setResList (hPORT p) Par.PORT_DRIVER_STATUS (b.map Int.ofNat) s
  let s := incSat (hPORT p) Par.PORT_TRANSIT_LOST (leNat (sub b 8 2)) s
  let x := oport s p
  let s := setOport p { x with flags := flags / 16 % 4 } s
  if x.flags = flags / 16 % 4 then s else raise 0x040A (hPORT p) ([p] ++ u16 flags) s

/-- A STATUS in a reverse window (R261, R263, R267). -/
def takeStatus (p : Nat) (b : List Nat) (s : State) : State :=
  let s := copyStatus p b (setOport p { oport s p with status := true, missed := 0 } s)
  let s := laneStatus p 1 (b.getD 5 0) (laneStatus p 0 (b.getD 4 0) s)
  let flags := leNat (b.take 2)
  let s := if flags.testBit 0 then s else laneFails p 0 2 s
  let s := if flags.testBit 1 then s else laneFails p 1 2 s
  let crc := leNat (sub b 12 4)
  if crc = imageCrc (oport s p) ∨ portWorks s p = false then s
  else
    let x := oport s p
    raise 0x0409 (hPORT p) ([p] ++ u32 crc) (incSat (hPORT p) Par.PORT_CONFIG_RESENDS 1
      { setOport p { x with todo := addRegs x.todo (List.range 256) } s with out.delivering := true })

/-- What a port's receiver takes of the driver's blocks: the bytes, and the descrambler moved on. -/
def fromDriver (p : Nat) (bs : List Block) (s : State) : List Nat × State :=
  let x := oport s p
  let (st, d) := rxBlocks x.rxScr bs
  (d, setOport p { x with rxScr := st } s)

/-- Is a port's reverse window open, with 40 ns or more to its end (R258)? -/
def windowTakes (s : State) (p : Nat) : Bool := match s.out.win with
  | some (_, _, t) => (oport s p).window && decide (s.now + 32 ≤ t)
  | none => false

/-- SENSE_RESULT: a port's results of the batch, in its open window (R216, R254, R258, R262). -/
def execSenseResult (p : Nat) (bs : List Block) (s : State) : Host.Outcome State Fault Refusal :=
  .next (if !(oport s p).window then s
    else
      let (d, s) := fromDriver p bs s
      let x := oport s p
      match s.pipe.batch, rxPacket 0x72 d with
      | some (_, n), some k =>
        if windowTakes s p && !x.results && !x.backLost && k.getD 4 0 == n && k.length == 24 + 2 * n then
          let raws := (List.range n).map fun i => leNat (sub k (16 + 2 * i) 2)
          takeResults p raws (leNat (sub k (16 + 2 * n) 4)) (setOport p { x with results := true } s)
        else s
      | _, _ => s)

/-! ### Training -/

/-- The TS1 time of an attempt: TS1 on the lanes tried, a SYNC column after every 64 blocks (Table 10.10, step 1). -/
def sendTs1 (p : Nat) (s : State) : State :=
  let x := oport s p
  let columns := 500 * 2 * tickUs / blockTime x.rate
  let s := (lanesOf x.mode).foldl (fun s l =>
    let ts1 := othamTrain 1 l x.rate
    let y := olane s p l
    let s := setOlane p l { y with crc := none, scr := scramblerSeed l } s
    laneNote p l [ts1] (columns % 65) (laneNote p l (List.replicate 64 ts1 ++ [syncBlock s p l false]) (columns / 65) s)) s
  txTime p columns s

/-- A port's attempt begins (Table 10.10, step 1). -/
def beginAttempt (p : Nat) (mode : LaneMode) (s : State) : State :=
  let s := setOport p { oport s p with
    phase := .ts1, tryMode := mode, mode := mode, rate := laneRate s.out.rate mode, repeat3 := false, since := s.now } s
  showPort p (sendTs1 p (txBegin p { s with out.idle := false }))

/-- A training ends without a lane (R264, R269). -/
def trainingFailed (p cause : Nat) (s : State) : State :=
  let s := setOport p { oport s p with phase := .idle, trained := false } s
  stopPort p 2 (raise 0x0402 (hPORT p) [p, cause] s)

/-- A port's training begins: the first attempt is DUAL, or the mode of its only lane (R264). -/
def startTraining (p : Nat) (s : State) : State :=
  let x := oport s p
  let s := setOport p { x with
    powered := true, trained := false, attempts := 0, switchTo := none, window := false, missed := 0, todo := []
    busyTo := portStart s p } s
  match (olane s p 0).retired, (olane s p 1).retired with
  | true, true => trainingFailed p 1 s
  | true, false => beginAttempt p .singleB s
  | false, true => beginAttempt p .singleA s
  | false, false => beginAttempt p .dual s

/-- The mode of the attempt after one that failed without a STATUS (R264). -/
def nextMode (s : State) (p : Nat) : LaneMode → LaneMode
  | .dual => .singleA
  | .singleA => if (olane s p 1).retired then .singleA else .singleB
  | .singleB => if (olane s p 0).retired then .singleB else .singleA

/-- An attempt fails (R264): the next in `mode`, or the end after three. -/
def attemptFails (p cause : Nat) (mode : LaneMode) (s : State) : State :=
  let x := oport s p
  let s := setOport p { x with attempts := x.attempts + 1 } s
  if 3 ≤ x.attempts + 1 then trainingFailed p cause s else beginAttempt p mode s

/-- Step 3 begins: the lane driven again, registers 0x08 to 0xFF and FRAME with APPLY are sent, the second window opens (Table 10.10). -/
def trainConfig (p : Nat) (s : State) : State :=
  let s := setOport p { oport s p with phase := .window2, since := s.now } s
  let s := txPacket p (configPacket 8 ((List.range 248).map fun i => drvReg s (i + 8))) (txResume p 4 (txBegin p s))
  let s := txTurn p (txPacket p (framePacket s p true false ((res s hRASTER Par.RASTER_FRAMES + 1) % w32) 1000000) s)
  let regs := portRegisters s p ++ [0, 0] ++ (List.range 248).map fun i => drvReg s (i + 8)
  setOport p { oport s p with
    image := regs.zipIdx.foldl (fun m r => mput 0 m r.2 r.1) [], staged := [], next := [], todo := [] } s

/-- A lane's part in a training that ends well (R265). -/
def trainLane (p l : Nat) (s : State) : State :=
  if (lanesOf (oport s p).mode).contains l then
    changeRes (hOLANE p l) Par.OLANE_EXCLUSIONS 0
      (setOlane p l { olane s p l with excluded := false, errRun := 0, mismatches := [] } s)
  else excludeLane p l s

/-- A port is trained (Table 10.10, step 4): its lanes are driven again, and what DRV_REGS changed meanwhile is delivered. -/
def trainingDone (p : Nat) (s : State) : State :=
  let x := oport s p
  let s := setOport p { x with phase := .idle, trained := true, stopped := false, boostFailed := false, backLost := false } s
  let s := txResume p 4 (txBegin p { s with out.delivering := s.out.delivering || !x.todo.isEmpty })
  let s := trainLane p 1 (trainLane p 0 s)
  settle (raise 0x0401 (hPORT p) [p, modeCode x.mode, x.rate] (showPort p s))

/-- A STATUS in a training window (R264). -/
def trainStatus (p : Nat) (b : List Nat) (s : State) : State :=
  let s := copyStatus p b s
  let x := oport s p
  let flags := leNat (b.take 2)
  let a := flags.testBit 0
  let c := flags.testBit 1
  match x.phase with
  | .window1 =>
    match x.tryMode with
    | .dual =>
      if a && c then (if flags.testBit 2 then trainConfig p s else s)
      else if a then attemptFails p 1 .singleA s
      else if c then attemptFails p 1 .singleB s
      else attemptFails p 1 .singleA s
    | .singleA => if a then trainConfig p s else attemptFails p 1 (nextMode s p .singleA) s
    | .singleB => if c then trainConfig p s else attemptFails p 1 (nextMode s p .singleB) s
  | .window2 =>
    if leNat (sub b 12 4) = imageCrc x then trainingDone p s
    else if x.repeat3 then attemptFails p 2 x.tryMode s
    else
      let s := trainConfig p s
      setOport p { oport s p with repeat3 := true } s
  | _ => s

/-- A driver's STATUS packet: in training, in a window, or of no effect (R254, R258). -/
def driverStatus (p : Nat) (bs : List Block) (s : State) : State :=
  let training := (oport s p).phase == .window1 || (oport s p).phase == .window2
  if !training && !(oport s p).window then s
  else
    let (d, s) := fromDriver p bs s
    match rxPacket 0x71 d with
    | none => s
    | some k =>
      if k.length ≠ 36 then s
      else if training then trainStatus p (sub k 16 16) s
      else if windowTakes s p && !(oport s p).status then showPort p (takeStatus p (sub k 16 16) s)
      else s

/-- A port training phase reaches its time (Table 10.10). -/
def trainingTimer (p : Nat) (s : State) : State :=
  let x := oport s p
  match x.phase with
  | .idle => s
  | .ts1 =>
    let s := txTurn p (txBegin p (advanceTo (x.since + 500 * tickUs) s))
    showPort p (setOport p { oport s p with phase := .window1, since := s.now } s)
  | .window1 => attemptFails p 0 (nextMode s p x.tryMode) (advanceTo (x.since + 200 * tickUs) s)
  | .window2 => attemptFails p 0 (nextMode s p x.tryMode) (advanceTo (x.since + tickMs) s)

/-- Is every enabled port's training over? -/
def portsTrained (s : State) : Bool := (enabledPorts s 0 64).all fun p => (oport s p).phase == .idle

/-- The ports go off (Table 11.4, OTHAM_OFF). -/
def othamOff (s : State) : State :=
  let s := { s with
    out.ports := s.out.ports.map fun x => (x.1, { x.2 with
      powered := false, trained := false, phase := .idle, window := false, switchTo := none, busyTo := 0,
      todo := [], staged := [], next := [] })
    out.lanes := s.out.lanes.map fun y => (y.1, { y.2 with sent := [] })
    out.delivering := false, out.idle := false, out.win := none, out.plan := none }
  showPorts s

/-! ### Read-back -/

/-- Does the CRC-32C that a lane's loopback receiver computes over the DATA blocks of a LINE packet differ from the transmitter's (R266)?
The transmitter keeps its last two lines. -/
def readbackDiffers (s : State) (p l line : Nat) (bs : List Block) : Bool :=
  match (olane s p l).lines.find? (·.1 == line) with
  | none => false
  | some (_, scr, crc) =>
    let d := (bs.filter fun b => b.type == bDATA).flatMap (·.payload)
    crc32c (scrambleBytes scr d).1 != crc

/-- READBACK_COMPARE: a lane's loopback receiver has sampled a LINE packet (R266, R267). -/
def execReadbackCompare (p l line : Nat) (bs : List Block) (s : State) : Host.Outcome State Fault Refusal :=
  .next (if !cfgB s hOUTPUT Par.OUTPUT_READBACK_ENABLE || !portWorks s p || !(lanesOf (oport s p).mode).contains l
      || decide (1 < l) || !readbackDiffers s p l line bs then s
    else
      let h := hOLANE p l
      let s := raise 0x0407 (hPORT p) ([p, l] ++ u16 line) (incSat h Par.OLANE_READBACK_ERRORS 1 s)
      let at_ := s.out.lines - (s.out.lastLine - line)
      let y := olane s p l
      let near := y.mismatches.filter fun o => decide (o ≠ at_) && decide (at_ < o + 16)
      let s := setOlane p l { y with mismatches := near ++ [at_] } s
      if near = [] then s else laneFails p l 0 s)

/-- OLANE_LOCK_LOST: a transmitter loses lock, or a loopback receiver its signal (R267). -/
def execOlaneLockLost (p l : Nat) (s : State) : Host.Outcome State Fault Refusal :=
  .next (if l ≤ 1 then laneFails p l 3 s else s)

end Sys2Proof.Machine
end

