-- ==== Sys2Proof/Machine/PowerState.lean ====
section
/-! DEFINITION. What the raster and the power chapter share (19): the change of POWER_STATE (R484, R488), the wake settings that the
always-on domain keeps (R490), the time since which nothing has been accepted (R485), and the clipped references (R290). -/

namespace Sys2Proof.Machine

/-- Codes of `0000:4C0`. -/
def powerCode : PowerState → Nat
  | .run => 0
  | .self => 1
  | .hold => 2
  | .standby => 3
  | .off => 4

/-- Is the device in SELF or HOLD? -/
def selfing (s : State) : Bool := s.power.state == .self || s.power.state == .hold

/-- Is the device in RUN, SELF or HOLD? -/
def awake (s : State) : Bool := s.power.state == .run || selfing s

/-- Ticks spent in each state so far. -/
def spentNow (s : State) : List Nat :=
  let i := powerCode s.power.state
  setAt s.power.spent i (s.power.spent.getD i 0 + (s.now - s.power.stateAt))

/-- A clock of 32 bits is brought up to date: one new value for each count it has passed. -/
def clockTo (h p i v : Nat) (s : State) : State := stepRes h p i (v : Int) ((v + w32 - res s h p i) % w32) s

/-- The entries that count seconds brought up to date, each second a value of its own (R43, R430, R431, Table 19.10). -/
def showClocks (s : State) : State :=
  let s := (List.range 5).foldl (fun s i => clockTo hPWR Par.PWR_STATE_SECONDS i ((spentNow s).getD i 0 / tickS % w32) s) s
  let s := clockTo hDEV Par.DEV_UTC_NOW 0 (utcNow s) s
  if s.pstore.read then clockTo hDEV Par.DEV_OP_SECONDS 0 (opSeconds s % w32) s else s

/-- POWER_STATE changes: the time spent accumulates, event 0x0E01 (R488). -/
def enterState (p : PowerState) (s : State) : State :=
  if s.power.state = p then s
  else
    let from_ := powerCode s.power.state
    let quiet := if s.power.state = .run then s.now else s.power.quietAt
    let s := { s with power.spent := spentNow s, power.stateAt := s.now, power.state := p, power.quietAt := quiet }
    raise 0x0E01 hPWR [from_, powerCode p] (changeRes hDEV Par.DEV_POWER_STATE (powerCode p) s)

/-- A Frame-Start, a Region-Update or a dictionary write has been accepted: the wait for STANDBY begins afresh (R485). -/
def noteActivity (s : State) : State := { s with power.quietAt := s.now }

/-- The always-on domain's copy of the wake settings (R490). -/
def keepWake (s : State) : State :=
  { s with power.settings :=
      { enable := cfg s hPWR Par.PWR_WAKE_ENABLE, polarity := cfg s hPWR Par.PWR_WAKE_POLARITY
        standbyAfter := cfg s hPWR Par.PWR_STANDBY_AFTER_S, offAfter := cfg s hPWR Par.PWR_OFF_AFTER_MIN
        timer := cfg s hPWR Par.PWR_WAKE_TIMER_S, aux := cfgB s hAUX Par.AUX_WAKE_ENABLE
        lanes := cfg s hLINK Par.LINK_LANES_ENABLE, broadcast := cfgB s hFIELDPORT Par.CTRLPORT_BROADCAST } }

/-- The outputs that AVDD_REF clips: enabled, with a value above AVDD_REF − 0.40 V, while the ladder is on (R290). -/
def clippedRefs (s : State) : Nat :=
  if !s.panel.refs then 0
  else ((List.range 18).filter fun o => (cfg s hREFLADDER Par.REFLADDER_GREF_ENABLE).testBit o
      && decide (res s hREFLADDER Par.REFLADDER_AVDD_REF_MV < cfg s hREFLADDER Par.REFLADDER_GREF_MV o + 400)).foldl
    (fun a o => a + 2 ^ o) 0

/-- GREF_CLIPPED brought up to date, with event 0x050A where an output is clipped that was not. -/
def clipRefs (s : State) : State :=
  let c := clippedRefs s
  let was := s.panel.clipped
  let s := changeRes hREFLADDER Par.REFLADDER_GREF_CLIPPED c { s with panel.clipped := c }
  if Nat.land c was = c then s else raise 0x050A hREFLADDER (u32 c) s

/-- First light: line 0 of the first frame after STOPPED (R478, R492).  `live` says whether that frame is live. -/
def firstLight (live : Bool) (s : State) : State :=
  let s := if s.power.lit then s
    else
      let ms := msSince s s.power.bootAt
      raise 0x0E08 hDEV (u16 ms ++ [if live then 0 else 1])
        (setRes hDEV Par.DEV_BOOT_TO_LIGHT_MS ms { s with power.lit := true, power.phase := .up })
  match s.power.waking with
  | none => s
  | some w =>
    let ms := msSince s s.power.wakeAt
    raise 0x0E02 hPWR ([w, res s hDEV Par.DEV_WAKE_FROM] ++ u16 ms)
      (changeRes hDEV Par.DEV_TRANSITION 0 (setRes hDEV Par.DEV_WAKE_TO_LIGHT_MS ms { s with power.waking := none }))

end Sys2Proof.Machine
end

