-- ==== Sys2Proof/Machine/Boundary.lean ====
section
/-! DEFINITION. What a frame boundary does, its timing left aside (05, R36): the results of the frame that ends (R171, R187, R242,
R323), commits (R33, R50, R153) with the timing-mode change (R154, R155), region-updates (R124, R125), the limiter (R188), the panel
temperature (R194), and the records of frames (R22, R192). -/

namespace Sys2Proof.Machine

/-! ### Waiting frames and region-updates -/

/-- The input frame that waits for its anchor is dropped: counted, event 0x0206 (R144, R155). -/
def dropWaiting (s : State) : State :=
  match s.raster.waiting with
  | none => s
  | some w => raise 0x0206 hRASTER (u32 w.frame) (incSat hRASTER Par.RASTER_DROPPED 1
      { s with raster.waiting := none, rx.landing := s.rx.landing.filter fun e => decide (e.1 < 65536) })

/-- Region-updates are discarded, each counted and reported (R123, R125). -/
def discardRegions (cause : Nat) (rs : List Region) (s : State) : State :=
  rs.foldl (fun s r => raise 0x0128 hLINK (u16 r.seq ++ [cause]) (incSat hLINK Par.LINK_REGIONS_DISCARDED 1 s)) s

/-- Every queued region-update is discarded and its entry freed (R125). -/
def clearRegions (s : State) : State :=
  if s.rx.regions = [] then s
  else sendCredit (discardRegions 3 s.rx.regions { s with rx.regions := [] })

/-- The region-updates due at a boundary: BASE is named, or they are discarded while an input frame waits (R124, R125, R307). -/
def regionsDue (s : State) : State :=
  if s.rx.regions = [] then s
  else if s.fstore.hold.isSome then clearRegions s
  else showSlots { s with
    fstore.base := some (unnamedSlot s), fstore.g := nextG s
    rx.regions := s.rx.regions.map fun r => { r with merging := true } }

/-- A pixel of a line after the updates that cover it, the latest arrived first among them (R124, R328). -/
def patchPixel (rs : List Region) (x y : Nat) (old : List Nat) : List Nat :=
  match (rs.filter fun r => decide (r.x ≤ x ∧ x < r.x + r.w ∧ r.y ≤ y ∧ y < r.y + r.h)).getLast? with
  | some r => sub r.pixels (3 * ((y - r.y) * r.w + (x - r.x))) 3
  | none => old

/-- A line of the base, a column that cannot be read as nominal black. -/
def baseLine (s : State) (base : Option Nat) (m : Mode) (y : Nat) : List Nat :=
  match base with
  | none => blackCodes (valsNow s) (depthBits m.depth) m.colour m.width
  | some n =>
    let x := slotAt s n
    (List.range m.width).flatMap fun i =>
      match (columnsOver x i 1).head? with
      | none => (List.range 3).map (nominalBlack (valsNow s) (depthBits m.depth) m.colour)
      | some c => match readSegment s noSkips n y c with
        | .ok codes => sub codes (3 * (i - (columnAt x c).1)) 3
        | .error _ => (List.range 3).map (nominalBlack (valsNow s) (depthBits m.depth) m.colour)

/-- The merge frame is coded into BASE at its anchor, from the frame that was CURRENT until then (R328). -/
def writeMerge (slot : Nat) (old : Option Nat) (s : State) : State :=
  let m := s.raster.mode
  let rs := s.rx.regions.filter fun r => r.merging
  let fits := match old with
    | some n => slotMatches (slotAt s n) m.width m.height m.depth m.colour
    | none => false
  let base := if fits then old else none
  let frame := match base with
    | some n => (slotAt s n).frame
    | none => 0
  let enc := cfgB s hFSTORE Par.FSTORE_ENCRYPT_ALL || rs.any (fun r => r.enc) || match base with
    | some n => (slotAt s n).enc
    | none => false
  let lines := (List.range m.height).map fun y =>
    let l := baseLine s base m y
    (List.range m.width).flatMap fun x => patchPixel rs x y (sub l (3 * x) 3)
  let s := openSlot slot frame m.width m.height m.depth m.colour enc true m s
  let s := lines.foldl (fun s l => writeStoreLine slot l s) s
  let s := if fits then s else raise 0x0607 hFSTORE [rs.length, if old.isNone then 0 else 1] s
  let s := raise 0x0606 hFSTORE ([rs.length] ++ u32 frame) (incWrap hFSTORE Par.FSTORE_MERGES 1 s)
  let s := { s with rx.regions := s.rx.regions.filter fun r => !r.merging }
  let s := incWrap hLINK Par.LINK_REGIONS_APPLIED rs.length s
  sendCredit (raise 0x0129 hLINK (u16 rs.length ++ u16 ((rs.getLast?.map fun r => r.seq).getD 0)) s)

/-! ### The results of the frame that ends -/

/-- Does the frame being scanned read the frame store? -/
def readsStore (s : State) : Bool := match s.raster.kind with
  | .live | .black => false
  | _ => s.fstore.current.isSome

/-- The sum of weighted values of the frame (R187). -/
def currentSum (s : State) : Nat :=
  let m := s.raster.mode
  let w := (List.range 4).map fun c => cfg s hTONE Par.TONE_CURRENT_WEIGHT c
  s.pipe.levels.foldl (fun a e => e.2.zipIdx.foldl (fun a v => a + w.getD (v.2 % m.sub) 0 * v.1) a) 0

/-- M_k (R187). -/
def frameCurrent (s : State) : Nat :=
  let m := s.raster.mode
  currentSum s / (32768 * max 1 (m.width * m.height))

/-- The largest code sent, by colour. -/
def codePeak (s : State) : List Nat :=
  let m := s.raster.mode
  (List.range 4).map fun c => if c < m.sub then
    s.pipe.codesNow.foldl (fun a e => e.2.zipIdx.foldl (fun a v => if v.2 % m.sub = c then max a v.1 else a) a) 0 else 0

/-- CODE_PEAK, CLIPPED and PROBE_RESULT (R242, Table 9.3). -/
def showCodes (s : State) : State :=
  let s := setResList hDITHER Par.DITHER_CODE_PEAK ((codePeak s).map Int.ofNat) s
  let s := setRes hDITHER Par.DITHER_CLIPPED s.pipe.clipped s
  match s.pipe.probe with
  | some p => setResList hDITHER Par.DITHER_PROBE_RESULT (p.map Int.ofNat) s
  | none => s

/-- The segments that a read of a slot decodes for their history alone, counted (R171). -/
def noteHistory (n : Nat) (f : Vals) (m : Mode) (s : State) : State :=
  let x := slotAt s n
  let skips := skipsOf s f m x
  (List.range x.columns.length).foldl (fun s c =>
    let raw := packedSize (depthBits x.depth) (columnAt x c).2
    let h := ((List.range x.height).filter fun y => skips c y && decodedLine raw x.height (skips c) y).length
    if (columnAt x c).2 = 0 then s
    else incWrap (hCODEC (standOfColumn x c)) Par.CODEC_BLOCKS_DECODED h (incWrap hLAYERS Par.LAYERS_HISTORY_DECODES h s)) s

/-- The stand columns of a stand that hold pixels. -/
def standColumns (x : Slot) (st : Nat) : List Nat :=
  (List.range x.columns.length).filter fun c => standOfColumn x c == st && decide (0 < (columnAt x c).2)

/-- STAND_CRC as the segments read give it (R323). -/
def crcRead (s : State) (n st : Nat) : Nat :=
  let x := slotAt s n
  ((List.range x.height).flatMap fun y => (standColumns x st).map fun c => (y, c)).foldl (fun a p =>
    match readSegment s noSkips n p.1 p.2 with
    | .ok codes => crc32Step a (packCodes (depthBits x.depth) codes)
    | .error _ => a) 0xFFFFFFFF ^^^ 0xFFFFFFFF

/-- The check of a stand's STAND_CRC at the end of a display read: left out where a segment was skipped, none where the read was not whole
(R171, R323). -/
def checkStand (n : Nat) (f : Vals) (m : Mode) (st : Nat) (s : State) : State :=
  let x := slotAt s n
  let cols := standColumns x st
  if cols = [] then s
  else if cols.any fun c => (List.range x.height).any fun y => skipsOf s f m x c y then incWrap hLAYERS Par.LAYERS_CRC_UNCHECKED 1 s
  else if mget false s.pipe.crcSkip st then s
  else
    let s := incWrap (hCODEC st) Par.CODEC_CRC_CHECKED 1 s
    if crcRead s n st = mget 0 x.crcs st then s
    else
      let s := addUe (hCODEC st) 1 (incSat hFSTORE Par.FSTORE_STAND_CRC_FAILS 1 s)
      raise 0x0602 (hCODEC st) ([n, st] ++ u32 x.frame) { s with fstore.codecBad := mput false s.fstore.codecBad (4 * st + n) true }

/-- HISTORY_DECODES, CRC_CHECKED and CRC_UNCHECKED of the frame that ends: of its display read in the stored frame's own geometry, and of the
read of the frame before it (R170, R171, R323). -/
def showReads (s : State) : State :=
  let m := s.raster.mode
  let f := valsNow s
  let s := match s.fstore.current with
    | none => s
    | some n =>
      if !readsStore s || baseIsColour f || !sameSize (slotAt s n) m then s
      else (List.range 8).foldl (fun s st => checkStand n f m st s) (noteHistory n f m s)
  match s.pipe.odSuspended, s.raster.prev, s.fstore.previous with
  | none, some r, some n =>
    let f := cfgOf r.cfg (gradeX s)
    if baseIsColour f || !sameSize (slotAt s n) m then s else noteHistory n f r.mode s
  | _, _, _ => s

/-- Is a row of an overlay drawn in a frame: some tile-line segment that it crosses has no covering layer above (R166, R170)? -/
def rowDrawn (s : State) (f : Vals) (m : Mode) (o : Overlay) (y : Nat) : Bool :=
  (slices s m).any fun p => decide (p.2.1 < o.x + o.w) && decide (o.x < p.2.1 + p.2.2) &&
    match coveringLayer f p.2.1 p.2.2 y with
    | some c => decide (c.h ≤ o.h)
    | none => true

/-- ROWS_BEYOND of the layers (R166). -/
def showRowsBeyond (s : State) : State :=
  let f := valsNow s
  let m := s.raster.mode
  (overlays f).foldl (fun s o =>
    let n := ((List.range o.ht).filter fun r => rowBeyond o r && rowDrawn s f m o (o.y + r)).length
    if n = 0 then s
    else raise 0x0320 o.h ([o.buffer] ++ u16 n ++ u16 o.stride) (incSat o.h Par.LAYER_ROWS_BEYOND n s)) s

/-- What the frame that ends leaves, before anything changes (R166, R171, R209, R242). -/
def endFrame (s : State) : State :=
  srlUpdate (if s.raster.kind = .black then showCodes s else showReads (showRowsBeyond (showCodes s)))

/-! ### Commits -/

/-- Do two modes differ in their geometry, SUBPIXELS included (R156, R190)? -/
def geometryDiffers (a b : Mode) : Bool :=
  a.width != b.width || a.height != b.height || a.split != b.split || a.rowsPerLine != b.rowsPerLine || a.hRep != b.hRep
  || a.sub != b.sub

/-- Do they differ in the slicing (R16)? -/
def slicingDiffers (a b : Mode) : Bool := a.width != b.width || a.split != b.split

/-- Do they differ in the committed input format (R118)? -/
def formatDiffers (a b : Mode) : Bool :=
  a.width != b.width || a.height != b.height || a.depth != b.depth || a.colour != b.colour

/-- The cells of an entry in a patch. -/
def cellsOf (patch : NMap (Option Int)) (h p : Nat) : NMap (Option Int) :=
  mslice patch (cell h p 0) (cell h p 0 + 4294967296)

/-- A patch without the cells of an entry. -/
def withoutCells (patch : NMap (Option Int)) (h p : Nat) : NMap (Option Int) :=
  mdrop patch (cell h p 0) (cell h p 0 + 4294967296)

/-- One byte of an accumulator (STRESS_SET). -/
def stressByteSet (m : NMap Nat) (off v : Nat) : NMap Nat :=
  let b := setAt (toLE 4 (mget 0 m (off / 4))) (off % 4) v
  mput 0 m (off / 4) (leNat b)

/-- The maps of a patch that live outside the dictionary: RESIDUAL_MAP and STRESS_SET. -/
def applyMaps (patch : NMap (Option Int)) (s : State) : State :=
  let master := (cellsOf patch hCOMP Par.COMP_RESIDUAL_MAP).foldl
    (fun m e => mput 0 m (e.1 % 4294967296) (toSigned 8 (e.2.getD 0).toNat)) s.pipe.master
  let stress := (cellsOf patch hCOMP Par.COMP_STRESS_SET).foldl
    (fun m e => stressByteSet m (e.1 % 4294967296) (e.2.getD 0).toNat) s.pipe.stress
  let s := { s with pipe.master := master, pipe.stress := stress }
  if cellsOf patch hCOMP Par.COMP_STRESS_SET = [] then s else bumpGen hCOMP Par.COMP_STRESS_MAP s

/-- The masters of CODE_LUT and MASK that a commit writes (R243, R244). -/
def writeMasters (lut mask : Bool) (s : State) : State :=
  let stale := fun (k : Nat) =>
    let o := k - bankAddr 8 0
    decide (bankAddr 8 0 ≤ k) && ((lut && decide (o < 65536)) || (mask && decide (65536 ≤ o) && decide (o < 81920)))
  let s := { s with sram.poison := s.sram.poison.filter fun e => !stale e.1 }
  let s := changeRes (hBANK 8) Par.BANK_POISONED (poisonedWords s 8) s
  if lut then { s with pipe.ditherLimited := false } else s

/-- Every stand switches to its prepared copy, built from the masters: a word whose master is uncorrectable is so in the copy too (R243). -/
def switchTables (s : State) : State :=
  let k := 1 - s.pipe.tableCopy
  let s := (List.range 8).foldl (fun s b =>
    (List.range 2560).foldl (fun s w => setPoison b (copyOffset b k (32 * w)) (poisoned s 8 (32 * w)) s) s) s
  { s with pipe.tableCopy := k, pipe.tableBad := [] }

/-- Do commits change CODE_LUT, MASK, ZERO_CODE, CODE_MIN or CODE_MAX (R243)? -/
def touchesTables (cs : List Commit) : Bool := cs.any fun c =>
  [Par.DITHER_CODE_LUT, Par.DITHER_MASK, Par.DITHER_ZERO_CODE, Par.DITHER_CODE_MIN, Par.DITHER_CODE_MAX].any fun p =>
    touches c.patch hDITHER p

/-- A timing-mode change from `a` to `b` (R154, R155). -/
def timingChange (a b : Mode) (s : State) : State :=
  let s := raise 0x0201 hRASTER ([b.timing] ++ u16 b.width ++ u16 b.height ++ u16 (b.refresh / 65536)
    ++ [if b.split then 1 else 0]) s
  let s := if formatDiffers a b ∧ s.raster.waiting.isSome = true then
      showSlots { forgetInput (dropWaiting s) with fstore.hold := none }
    else s
  let s := if s.raster.stopped then s
    else
      let old := match s.raster.blackDue with
        | some (o, _) => o
        | none => panelRows a
      let black := if old ≠ panelRows b then some (old, panelRows b) else none
      { s with raster.blackDue := black, raster.bridge := !selfing s, raster.bridgeDue := !selfing s, raster.bridgeTold := false }
  if a.timing = b.timing ∧ (b.timing ≠ 2 ∨ a.refresh = b.refresh) then s
  else
    let edge := s.raster.gen.lastEdge
    let gen : Genlock := { lastEdge := edge, step := if b.timing = 2 then 1 else 0 }
    changeRes hRASTER Par.RASTER_LOCK (if b.timing = 2 then 1 else 0) { s with raster.gen := gen }

/-- The geometry's results (Tables 5.6 and 5.7). -/
def showGeometry (s : State) : State :=
  let m := s.raster.mode
  let (p0, p1) := halfPorts s
  let s := changeRes hRASTER Par.RASTER_PANEL_ROWS (panelRows m) s
  let s := changeRes hRASTER Par.RASTER_SLICE_WIDTH (sliceWidth m (p0, p1)) s
  let s := changeRes hRASTER Par.RASTER_LINE_PERIOD (linePeriod m) { s with raster.period := linePeriod m }
  changeRes (hHALF 0) Par.HALF_ENABLED_PORTS p0 (changeRes (hHALF 1) Par.HALF_ENABLED_PORTS p1 s)

/-- The settings of a commit that other units act on. -/
def commitTouches (patch : NMap (Option Int)) (l : List (Nat × Nat)) : Bool := l.any fun e => touches patch e.1 e.2

/-- A change of DUTY by the commits of one boundary starts a fade, with FADE_MS as they leave it; none while STOPPED (R283). -/
def fadeOn (old : Nat) (s : State) : State :=
  let new := cfg s hROWDRV Par.ROWDRV_DUTY
  if new = old then s
  else startFade new (if s.raster.stopped then 0 else cfg s hROWDRV Par.ROWDRV_FADE_MS) s

/-- One commit applies (R33, Table 1.8).  The values of a restored image or of a map load come without a tag: they announce no timing-mode
change and abandon or rebuild nothing. -/
def applyCommit (c : Commit) (s : State) : State :=
  let was := linkSettings s
  let a := modeNow s
  let limit := cfgB s hTONE Par.TONE_LIMIT_ENABLE
  let residual := touches c.patch hCOMP Par.COMP_RESIDUAL_MAP
  let s := applyMaps c.patch s
  let s := applyPatch (withoutCells (withoutCells c.patch hCOMP Par.COMP_RESIDUAL_MAP) hCOMP Par.COMP_STRESS_SET) s
  let b := modeNow s
  let change := c.tag.isSome
  let s := if sameTiming a b || !change then { s with raster.mode := b } else timingChange a b { s with raster.mode := b }
  let s := if geometryDiffers a b then { s with raster.changed := true } else s
  let s := if !change then s
    else if slicingDiffers a b ∨ a.hRep ≠ b.hRep ∨ a.rowsPerLine ≠ b.rowsPerLine then startRebuild 2 s
    else if residual then startRebuild 1 s else s
  let s := if change ∧ (slicingDiffers a b ∨ panelRows a ≠ panelRows b ∨ a.hRep ≠ b.hRep ∨ a.sub ≠ b.sub) then abandonSweep s else s
  let s := if cfgB s hTONE Par.TONE_LIMIT_ENABLE && !limit then { s with pipe.gain := 65536 } else s
  let s := linkCommit was (commitTouches c.patch [(hLINK, Par.LINK_LANES_ENABLE), (hLINK, Par.LINK_RATE_MAX),
    (hLINK, Par.LINK_CLOCKING), (hLINK, Par.LINK_TX_EQ_FALLBACK), (hLINK, Par.LINK_FAST_EXIT)]) s
  let lut := touches c.patch hDITHER Par.DITHER_CODE_LUT
  let mask := touches c.patch hDITHER Par.DITHER_MASK
  let s := if lut || mask then writeMasters lut mask s else s
  let s := if s.pipe.sweepAsk = some 2 ∧ cfg s hCOMP Par.COMP_SWEEP_MODE ≠ 2 then { s with pipe.sweepAsk := none } else s
  let s := showGeometry s
  let s := if commitTouches c.patch [(hRASTER, Par.RASTER_ACTIVE_WIDTH), (hRASTER, Par.RASTER_ACTIVE_HEIGHT),
      (hRASTER, Par.RASTER_SPLIT), (hRASTER, Par.RASTER_REFRESH), (hRASTER, Par.RASTER_VBLANK),
      (hRASTER, Par.RASTER_ROWS_PER_LINE), (hRASTER, Par.RASTER_H_REPLICATE), (hPIPE, Par.PIPE_SUBPIXELS),
      (hOUTPUT, Par.OUTPUT_RATE_SELECT)] then chooseRate s else s
  let s := if touches c.patch hCOMP Par.COMP_DEFECT_LIST || geometryDiffers a b then showDefects s else s
  let s := match c.tag with
    | some t => incWrap hDEV Par.DEV_COMMIT_COUNT 1 (setRes hDEV Par.DEV_COMMIT_APPLIED t s)
    | none => s
  showSweep (clipRefs (keepWake (linkRefit (stressRateCheck s))))

/-- COMMITS_PENDING brought up to date: the commits that carry a tag. -/
def showCommits (s : State) : State :=
  changeRes hDEV Par.DEV_COMMITS_PENDING (min 255 (s.dict.commits.filter fun c => c.tag.isSome).length) s

/-- The commits assigned to boundaries up to `k` apply, oldest first (R50, R153). -/
def applyCommits (k : Nat) (s : State) : State :=
  let due := s.dict.commits.filter fun c => decide (c.boundary ≤ k)
  if due = [] then s
  else
    let duty := cfg s hROWDRV Par.ROWDRV_DUTY
    let s := { s with dict.commits := s.dict.commits.filter fun c => decide (k < c.boundary) }
    let s := fadeOn duty (due.foldl (fun s c => applyCommit c s) s)
    showCommits (if touchesTables due then switchTables s else s)

/-- Every commit applies: the raster is STOPPED (R153), and outputs that drive IDLE take the levels it leaves (R276). -/
def applyAllCommits (s : State) : State :=
  let due := s.dict.commits
  if due = [] then s
  else
    let s := fadeOn (cfg s hROWDRV Par.ROWDRV_DUTY) (due.foldl (fun s c => applyCommit c s) { s with dict.commits := [] })
    let s := if s.panel.drive = .idle then rowsIdle s else s
    showBuffers (showCommits (showPass (if touchesTables due then switchTables s else s)))

/-- R139: with no legal width for the enabled ports, RASTER reads FAILED and event 0x020C is raised. -/
def checkLegal (s : State) : State :=
  let bad := (clampWidth s.raster.mode (halfPorts s)).isNone
  if bad = s.raster.illegal then s
  else
    let (p0, p1) := halfPorts s
    let s := { s with raster.illegal := bad }
    settle (if bad then raise 0x020C hRASTER [p0, p1] s else s)

/-! ### The limiter and the temperature -/

/-- FRAME_CURRENT, DEMAND and the gain of the next frame (R187, R188); `mk` is none for a black frame. -/
def limiterBoundary (mk : Option Nat) (s : State) : State :=
  match mk with
  | none => if cfgB s hTONE Par.TONE_LIMIT_ENABLE then s else { s with pipe.gain := 65536 }
  | some mk =>
    let g := s.pipe.gain
    let on := cfgB s hTONE Par.TONE_LIMIT_ENABLE
    let d := limiterDemand mk (if on then g else 65536)
    let s := setRes hTONE Par.TONE_DEMAND (min d max32) (setRes hTONE Par.TONE_FRAME_CURRENT mk s)
    if !on then { s with pipe.gain := 65536 }
    else
      let least := cfg s hTONE Par.TONE_GAIN_MIN
      let g' := limiterNext (cfg s hTONE Par.TONE_APL_LIMIT) least (cfg s hTONE Par.TONE_ATTACK_MS)
        (cfg s hTONE Par.TONE_RELEASE_MS) (res s hRASTER Par.RASTER_FRAME_TIME) mk g
      let s := { s with pipe.gain := g' }
      let s := if g = 65536 ∧ g' < 65536 then raise 0x0301 hTONE (u32 g' ++ u32 mk) s else s
      if g' ≤ least ∧ least < g then raise 0x0302 hTONE (u32 (min d max32) ++ u32 mk) s else s

/-- Is an NTC input's latest reading valid? -/
def ntcValid (s : State) (n : Nat) : Bool :=
  let x := mget {} s.stag.ntc n
  x.valid && cfgB s (hNTC n) Par.NTC_ENABLE && match x.readAt with
    | some t => decide (s.now < t + 500 * tickMs)
    | none => false

/-- The panel temperature of the next frame (R194). -/
def setTemperature (s : State) : State :=
  let sel := (List.range 4).filter fun n => (cfg s hOVERDRIVE Par.OVERDRIVE_TEMP_SOURCE).testBit n
  let ok := sel.filter (ntcValid s)
  let t := if ok = [] then cfgI s hOVERDRIVE Par.OVERDRIVE_TEMP_DEFAULT
    else (ok.foldl (fun a n => a + resI s (hNTC n) Par.NTC_TEMP) 0).fdiv ok.length
  let (t0, wt) := tempPosition (valsNow s) t
  let s := { s with pipe.temp := t, pipe.t0 := t0, pipe.wt := wt }
  if ok = [] ∧ s.pipe.tempLost = false then
    raise 0x0312 hOVERDRIVE ([sel.foldl (fun a n => a + 2 ^ n) 0] ++ s16 t) { s with pipe.tempLost := true }
  else if ok ≠ [] ∧ s.pipe.tempLost = true then raise 0x0313 hOVERDRIVE (s16 t) { s with pipe.tempLost := false }
  else s

/-! ### Records -/

/-- The record of the frame that follows, its kind still open (R22, R175, R192). -/
def nextRecord (s : State) : FrameRec := ⟨s.dict.cfg, s.pipe.gain, .self, s.raster.mode⟩

/-- The records pass on at a boundary, before the buffers are released (R172, R174). -/
def shiftRecords (s : State) : State :=
  showBuffers { s with raster.prev := s.raster.cur, raster.cur := some (nextRecord s) }

/-! ### The boundary's changes -/

/-- Everything of a boundary that Table 1.8 orders, and what follows it within the boundary's line start. -/
def boundaryWork (s : State) : State :=
  let k := res s hRASTER Par.RASTER_FRAMES
  let mk := if s.raster.kind = .black then none else some (frameCurrent s)
  let s := stressStep k (endFrame s)
  let s := applyCommits s.raster.index s
  let s := regionsDue s
  let s := showPass (stressRateCheck s)
  let s := setTemperature (limiterBoundary mk s)
  let s := applyAutoDefects (applyAges (applyRows s))
  let s := showDefects s
  let s := biasBoundary (shiftRecords s)
  let s := linkBoundary s
  let s := if selfing s then
      let m := s.raster.mode
      let rate := min (cfg s hRASTER Par.RASTER_SELF_REFRESH) (min m.refresh (240 * 65536))
      enterState (if rate ≤ 10 * 65536 then .hold else .self) s
    else s
  checkLegal s

end Sys2Proof.Machine
end

