-- ==== Sys2Proof/Machine/Raster.lean ====
section
/-! DEFINITION. The raster (05): line starts and the frame boundary (R136, R153), the anchors of the timing modes (R138, R141, R145 to
R148), the kinds of frames (R142, R143, R155), GENLOCK (R149, R150), SYNC_OUT (R152), starting and stopping (R157). -/

namespace Sys2Proof.Machine

/-! ### When anchors and line starts are due -/

/-- The commands by which an anchor comes. -/
inductive AnchorRow where
  | earliest | latest | free | self | genlock
  deriving DecidableEq, Repr

/-- The tick of line start `n` (R136). -/
def lineTime (s : State) (n : Int) : Nat :=
  s.raster.base + clockTicks s ((n - s.raster.baseLine).toNat * s.raster.period / 256)

/-- S of R147, uQ10.16. -/
def selfRate (s : State) : Nat :=
  min (cfg s hRASTER Par.RASTER_SELF_REFRESH) (min s.raster.mode.refresh (240 * 65536))

/-- The anchor that is due and the command that makes it; none before the boundary of the frame being scanned (R141, R145,
R147, R154, R155). -/
def anchorDue (s : State) : Option (Nat × AnchorRow) :=
  let r := s.raster
  match r.boundary with
  | none => none
  | some b =>
    let e := earliestAnchor s b
    let own := r.own.getD e
    if r.stopped then none
    else if r.blackDue.isSome then some (e, .earliest)
    else match r.mode.timing with
    | 0 => some (own, if selfing s then .self else .free)
    | 1 =>
      if r.waiting.isSome then some (e, .earliest)
      else if selfing s then some (own, .self)
      else if r.bridgeDue then some (e, .earliest)
      else if r.sleep || r.linkLost then some (if s.now ≤ e then e else lineTime s r.next, .earliest)
      else some (latestFrom r.mode e, .latest)
    | _ => some (own, if selfing s then .self else .genlock)

/-- The tick of the next line start; none while the raster is STOPPED or the next anchor comes first. -/
def lineDue (s : State) : Option Nat :=
  if s.raster.stopped then none
  else
    let t := lineTime s s.raster.next
    match anchorDue s with
    | some (a, _) => if a ≤ t then none else some t
    | none => some t

/-! ### GENLOCK -/

/-- One part in 2000 of the frame time: ±500 ppm. -/
def trimLimit (s : State) : Nat := frameTicks s / 2000

/-- Is a SYNC_IN period valid (R149)? -/
def periodValid (s : State) (p : Nat) : Bool :=
  let x := p * s.raster.mode.refresh
  let y := rasterHz * 65536
  decide ((if x ≤ y then y - x else x - y) * 2000 ≤ y)

/-- LOCK by the step (Table 5.6). -/
def showLock (s : State) : State :=
  changeRes hRASTER Par.RASTER_LOCK (match s.raster.gen.step with
    | 0 => 0
    | 5 => 2
    | 6 => 3
    | _ => 1) s

/-- The measured offset of event 0x0208, ppm × 10. -/
def syncOffset (s : State) : Int :=
  let g := s.raster.gen
  if g.period = 0 then 0 else (((g.period : Int) - frameTicks s) * 10000000).fdiv (max 1 (frameTicks s))

/-- GENLOCK loses lock or fails to acquire it: HOLDOVER, event 0x0208 (R150). -/
def loseLock (cause : Nat) (s : State) : State :=
  let off := syncOffset s
  let g := s.raster.gen
  showLock (raise 0x0208 hRASTER ([cause] ++ intLE 4 off) (incSat hRASTER Par.RASTER_LOCK_LOSSES 1
    { s with raster.gen := { g with step := 6, valid := 0, invalid := 0, frames := 0, good := 0, bad := 0, extend := 0 } }))

/-- The phase error of an anchor against the nearest target: an edge plus SYNC_DELAY, a whole number of periods away (R149). -/
def phaseError (s : State) (a : Nat) : Int :=
  let g := s.raster.gen
  match g.lastEdge with
  | none => g.err
  | some e =>
    let p : Int := if g.period = 0 then frameTicks s else g.period
    let d := ((a : Int) - e - cfg s hRASTER Par.RASTER_SYNC_DELAY) % p
    if p < 2 * d then d - p else d

/-- Ticks of the raster clock in whole line times that bring the next anchor within one line of its target (Table 5.3, step 2). -/
def stretchFor (s : State) (err : Int) : Nat :=
  let p : Int := if s.raster.gen.period = 0 then frameTicks s else s.raster.gen.period
  let need := if err < 0 then (-err).toNat else (p - err).toNat
  let n := need * 256 * frameTicks s / max 1 (s.raster.period * p.toNat)
  n * s.raster.period / 256

/-- The GENLOCK state moves on, and LOCK with it. -/
def putGen (g : Genlock) (s : State) : State := showLock { s with raster.gen := g }

/-- The step of Table 5.3 that an anchor's phase error leads to, for each step; `line` is a line time (R149, R150). -/
def genlockMove (g : Genlock) (err : Int) (line : Nat) (s : State) : State :=
  match g.step with
  | 1 => if g.valid < 4 then putGen g s
    else putGen { g with step := 3, extend := if line < err.natAbs then stretchFor s err else 0 } s
  | 3 => putGen (if err.natAbs ≤ 4 then { g with step := 4, good := 0 } else g) s
  | 4 =>
    if 4 < err.natAbs then putGen { g with step := 3, good := 0 } s
    else if g.good + 1 < 4 then putGen { g with good := g.good + 1 } s
    else raise 0x0207 hRASTER ([min 255 g.frames] ++ intLE 4 err) (putGen { g with step := 5, good := 0, bad := 0 } s)
  | 5 =>
    if err.natAbs ≤ line then putGen { g with bad := 0 } s
    else if g.bad + 1 < 2 then putGen { g with bad := g.bad + 1 } s
    else loseLock 3 (putGen g s)
  | _ => putGen g s

/-- The search for lock ends without it after 32 frames. -/
def genlockLimit (s : State) : State :=
  if s.raster.gen.step < 5 ∧ 32 ≤ s.raster.gen.frames then loseLock 2 s else s

/-- The trim of the raster clock for the frame that begins: the measured offset, and against the phase error up to 500 ppm of the frame in
steps 3 and 4, within 500 ppm in all once locked; the extended frame at the offset alone (R149). -/
def setTrim (s : State) : State :=
  let g := s.raster.gen
  let lim : Int := trimLimit s
  let off := (g.period : Int) - frameTicks s
  if g.extend ≠ 0 then { s with raster.gen.trim := off }
  else if g.step = 3 ∨ g.step = 4 then { s with raster.gen.trim := off - clampI g.err (-lim) lim }
  else if g.step = 5 then { s with raster.gen.trim := clampI (off - g.err) (-lim) lim }
  else s

/-- What an anchor does for GENLOCK (Table 5.3, R150). -/
def genlockAnchored (a : Nat) (s : State) : State :=
  let g := s.raster.gen
  if s.raster.mode.timing ≠ 2 ∨ g.step = 0 then s
  else
    let err := phaseError s a
    let line := s.raster.period / 256
    let s := if g.lastEdge.isSome then setResI hRASTER Par.RASTER_PHASE_ERROR err s else s
    setTrim (genlockLimit (genlockMove
      { g with err := err, extend := 0, frames := if g.step < 5 then g.frames + 1 else g.frames } err line s))

/-- The next anchor of GENLOCK's own cadence: whole frames of the trimmed clock, and what step 2 adds (R147, R149). -/
def genlockNext (s : State) : Nat :=
  let frames := if selfing s then (s.raster.mode.refresh + selfRate s - 1) / max 1 (selfRate s) else 1
  s.raster.anchor + clockTicks s (frames * frameTicks s + s.raster.gen.extend)

/-- SYNC_IN_EDGE: the period is measured (R149, R150). -/
def syncEdge (s : State) : State :=
  let g := s.raster.gen
  match g.lastEdge with
  | none => { s with raster.gen := { g with lastEdge := some s.now } }
  | some e =>
    let p := s.now - e
    let s := changeRes hRASTER Par.RASTER_SYNC_PERIOD p s
    let g := { g with lastEdge := some s.now }
    if periodValid s p then
      let g := { g with valid := min 4 (g.valid + 1), invalid := 0, period := p }
      let back := g.step = 6 ∧ 4 ≤ g.valid
      showLock { s with raster.gen := if back then { g with step := 1, frames := 0 } else g }
    else
      let g := { g with valid := 0, invalid := min 2 (g.invalid + 1) }
      let s := { s with raster.gen := g }
      if g.invalid < 2 then s
      else if g.step = 5 then loseLock 1 s
      else if 2 ≤ g.step ∧ g.step ≤ 4 then showLock { s with raster.gen := { g with step := 1, good := 0 } }
      else s

/-- SYNC_IN_EDGE (R149, R152). -/
def execSyncInEdge (s : State) : Host.Outcome State Fault Refusal := .next (if panelDomainOn s then syncEdge s else s)

/-- SYNC_IN_TIMEOUT: no edge within 1.5 expected periods (R150). -/
def execSyncInTimeout (s : State) : Host.Outcome State Fault Refusal :=
  .next (match s.raster.gen.lastEdge with
    | none => s
    | some e =>
      if s.raster.mode.timing ≠ 2 ∨ s.raster.gen.step = 0 then s
      else
        let s := advanceTo (e + frameTicks s * 3 / 2) s
        let lost := s.raster.gen.step = 5
        let s := changeRes hRASTER Par.RASTER_SYNC_PERIOD 0 s
        let s := { s with raster.gen.lastEdge := none, raster.gen.valid := 0, raster.gen.invalid := 0 }
        if lost then loseLock 0 s
        else if 2 ≤ s.raster.gen.step ∧ s.raster.gen.step ≤ 4 then showLock { s with raster.gen.step := 1, raster.gen.good := 0 }
        else s)

/-! ### Kinds of frames -/

/-- Ticks up to which an input frame that began at `t0` is live at its anchor (R143). -/
def liveUntil (s : State) (t0 : Nat) : Nat := t0 + clockTicks s (16 * s.raster.period / 256)

/-- Does the retained frame's geometry differ from the mode's (R157)? -/
def retainedDiffers (s : State) : Bool := match s.fstore.current with
  | some n => !sameSize (slotAt s n) s.raster.mode
  | none => false

/-- The kind of the frame anchored at `a`, with an input frame that the first anchor cannot take already dropped. -/
def kindAt (s : State) (a : Nat) : FrameKind :=
  let r := s.raster
  if r.blackDue.isSome then .black
  else match r.waiting with
  | some w => if a ≤ liveUntil s w.t0 then .live else .deferred
  | none =>
    if r.first && retainedDiffers s then .bridge
    else if selfing s || r.sleep || r.linkLost then .self
    else if r.bridge || r.bridgeDue then .bridge
    else .repeat_

/-- STATE of RASTER for a kind (Table 5.6). -/
def stateCode (s : State) : FrameKind → Nat
  | .live => 1
  | .repeat_ => 2
  | .bridge => 3
  | .deferred => 4
  | .self => if s.power.state = .hold then 6 else 5
  | .black => 7

/-- One more insertion. -/
def insertion (s : State) : State := { s with raster.run := min 65535 (s.raster.run + 1) }

/-- The role moves of an anchor (R307); a merge frame is coded into BASE (R328). -/
def moveRoles (k : FrameKind) (s : State) : State :=
  if k = .live ∨ k = .deferred then
    showSlots { s with fstore.previous := s.fstore.current, fstore.current := s.fstore.hold, fstore.hold := none }
  else match s.fstore.base with
  | none => s
  | some b =>
    let old := s.fstore.current
    showSlots (writeMerge b old { s with fstore.previous := old, fstore.current := some b, fstore.base := none })

/-- The landing buffer at an anchor: a live frame's lines stay, a deferred frame's come from the store, their unusable slices counted (R118,
R143). -/
def moveLanding (k : FrameKind) (s : State) : State :=
  let l := s.rx.landing.filter fun e => decide (65536 ≤ e.1)
  let s := if k = .deferred then
      l.foldl (fun s e => countStored s.raster.mode ((e.2.map (·.bad)).getD []) s) s
    else s
  let l := match k with
    | .live => l.map fun e => (e.1 - 65536, e.2)
    | .deferred => []
    | _ => l
  { s with rx.landing := l }

/-- An input frame is taken: RUN, and for a live one event 0x0203 after insertions (R148, R484, Table 5.5). -/
def takeFrame (a : Nat) (k : FrameKind) (w : Waiting) (s : State) : State :=
  let run := s.raster.run
  let s := { s with
    raster.waiting := none, raster.run := if k = .live then 0 else run, raster.bridge := false, raster.bridgeDue := false, raster.bridgeTold := false
    raster.missed := none
    rx.cur := s.rx.cur.map fun r => if r.frame = w.frame then { r with taken := true } else r }
  let s := enterState .run s
  let s := if run = 0 ∨ k ≠ .live then s else raise 0x0203 hRASTER (u32 w.frame ++ u16 run) s
  if k = .deferred then
    raise 0x0205 hRASTER (u32 w.frame ++ u32 ((a - w.t0) / tickUs)) (incSat hRASTER Par.RASTER_DEFERRED 1 s)
  else s

/-- A repeat is told: event 0x0204. -/
def tellRepeat (kind : Nat) (s : State) : State :=
  let n := min max32 (s.raster.repeats + 1)
  raise 0x0204 hRASTER ([kind] ++ u32 n) { s with raster.repeats := n }

/-- What a frame of a kind does as it is anchored. -/
def noteKind (a : Nat) (k : FrameKind) (s : State) : State :=
  match k with
  | .live | .deferred => match s.raster.waiting with
    | some w => takeFrame a k w s
    | none => s
  | .self =>
    let slept := s.raster.sleep
    let s := if s.power.state = .run then enterState .self s else s
    let s := insertion (incSat hRASTER Par.RASTER_SELF_FRAMES 1
      { s with raster.sleep := false, raster.linkLost := false, raster.bridge := false, raster.bridgeDue := false, raster.missed := none })
    if slept then tellRepeat 1 s else s
  | .bridge =>
    let told := s.raster.bridgeTold
    let s := insertion (incSat hRASTER Par.RASTER_BRIDGES 1
      { s with raster.bridge := !selfing s, raster.bridgeDue := false, raster.bridgeTold := true, raster.missed := none })
    if told then s
    else
      let (w, h) := match s.fstore.current with
        | some n => ((slotAt s n).width, (slotAt s n).height)
        | none => (0, 0)
      let m := s.raster.mode
      let x2 := (placement w m.width).1 == 2
      let y2 := (placement h m.height).1 == 2
      raise 0x0202 hRASTER (u16 w ++ u16 h ++ [(if x2 then 1 else 0) + if y2 then 2 else 0]) s
  | .repeat_ =>
    let link := s.raster.mode.timing == 1
    tellRepeat (if link then 0 else 2) (insertion (incSat hRASTER Par.RASTER_REPEATS 1
      { s with raster.missed := if link then none else some a }))
  | .black =>
    let (o, n) := s.raster.blackDue.getD (0, 0)
    insertion (raise 0x0209 hRASTER (u16 o ++ u16 n) (incSat hRASTER Par.RASTER_BLACK_FRAMES 1
      { s with raster.blackDue := none, raster.bridge := !selfing s, raster.bridgeDue := false, raster.missed := none }))

/-- Why the frame runs without overdrive (R191): none where it runs with it. -/
def plainReason (k : FrameKind) (s : State) : Option Nat :=
  if !cfgB s hOVERDRIVE Par.OVERDRIVE_ENABLE ∨ cfg s hOVERDRIVE Par.OVERDRIVE_STRENGTH = 0 then some 0
  else if (k ≠ .live ∧ k ≠ .deferred) ∨ selfing s = true then some 1
  else if s.raster.prev.isNone then some 2
  else if s.raster.changed then some 3
  else if s.raster.wasBlack then some 4
  else none

/-- The overdrive counts and event 0x0310 (R191, R199). -/
def noteOverdrive (k : FrameKind) (s : State) : State :=
  let was := if s.pipe.odBegan then s.pipe.odSuspended else plainReason k s
  let r := plainReason k s
  let s := { s with pipe.odSuspended := r, pipe.odBegan := true }
  match r with
  | none => incWrap hOVERDRIVE Par.OVERDRIVE_OD_FRAMES 1 s
  | some n =>
    let s := changeRes hOVERDRIVE Par.OVERDRIVE_PLAIN_REASON n (incWrap hOVERDRIVE Par.OVERDRIVE_PLAIN_FRAMES 1 s)
    if was = r then s else raise 0x0310 hOVERDRIVE ([n] ++ u32 (res s hRASTER Par.RASTER_FRAMES)) s

/-- The dither phase of the frame, after one of `d` ticks (R239). -/
def notePhase (d : Nat) (s : State) : State :=
  let (p, frozen) := nextPhase (cfg s hDITHER Par.DITHER_FREEZE_HZ) s.pipe.phase d
  let was := s.pipe.frozen
  let s := { s with pipe.phase := p, pipe.frozen := frozen }
  let s := changeRes hDITHER Par.DITHER_FROZEN (if frozen then 1 else 0) (changeRes hDITHER Par.DITHER_PHASE p s)
  let s := if frozen then incSat hDITHER Par.DITHER_FROZEN_FRAMES 1 s else s
  if frozen = was then s else raise (if frozen then 0x0351 else 0x0352) hDITHER ([p] ++ u32 (d / tickUs)) s

/-- What belongs to one frame's scan starts empty. -/
def clearFrame (s : State) : State :=
  { s with
    pipe.done := [], pipe.levels := [], pipe.codesNow := [], pipe.substNow := [], pipe.resLate := [], pipe.decoded := [], pipe.crcSkip := []
    pipe.noPrev := [], pipe.clipped := 0, pipe.probe := none, pipe.queues := []
    fstore.slots := s.fstore.slots.map fun e => (e.1, { e.2 with broken := [] }) }

/-- The end of the frame before: its time and its duties (R221, R284). -/
def endLast (a : Nat) (s : State) : State :=
  if s.raster.first then { s with panel.dutySum := [] }
  else
    let d := a - s.raster.anchor
    notePhase d (noteFrameTime d (endDuty (setRes hRASTER Par.RASTER_FRAME_TIME d s)))

/-- An anchor at tick `a` (R136, R142, R143). -/
def makeAnchor (a : Nat) (s : State) : State :=
  let s := advanceTo a s
  let s := if s.raster.first ∧ s.raster.blackDue = none ∧ kindAt s a = .deferred then
      showSlots { forgetInput (dropWaiting s) with fstore.hold := none }
    else s
  let k := kindAt s a
  let s := endLast a s
  let s := { s with
    raster.index := s.raster.index + 1
    raster.anchor := a, raster.base := a, raster.baseLine := -6, raster.next := -6
    raster.boundary := none, raster.own := none, raster.closed := false }
  let s := genlockAnchored a s
  let s := moveLanding k (moveRoles k s)
  let s := incWrap hRASTER Par.RASTER_FRAMES 1 (noteKind a k (clearFrame s))
  let s := noteOverdrive k { s with raster.kind := k }
  let s := { s with
    raster.changed := s.raster.changed && !(k == .live || k == .deferred)
    raster.wasBlack := k == .black, raster.lightDue := s.raster.lightDue || s.raster.first, raster.first := false
    raster.cur := s.raster.cur.map fun r => { r with kind := k, gain := s.pipe.gain } }
  let s := changeRes hRASTER Par.RASTER_STATE (stateCode s k) s
  let s := changeRes hTONE Par.TONE_LIMIT_GAIN s.pipe.gain s
  let s := if s.pipe.gain < 65536 then incSat hTONE Par.TONE_LIMITED_FRAMES 1 s else s
  let s := if resI s hOVERDRIVE Par.OVERDRIVE_PANEL_TEMP = s.pipe.temp then s
    else setResI hOVERDRIVE Par.OVERDRIVE_PANEL_TEMP s.pipe.temp s
  let s := changeRes hOVERDRIVE Par.OVERDRIVE_TEMP_POSITION (s.pipe.wt + 512 * s.pipe.t0) s
  match readsStore s, s.fstore.current with
  | true, some n => if (slotAt s n).enc ∧ (slotAt s n).keyLost = true then displayKeyLost n s else s
  | _, _ => s

/-! ### Stopping and starting -/

/-- The raster becomes STOPPED, and the commits that wait apply (R153, R157). -/
def rasterHalt (s : State) : State :=
  if s.raster.stopped then s
  else
    let s := dropSweep { s with
      pipe.frozen := false, raster.stopped := true, raster.boundary := none, raster.own := none, raster.cur := none, raster.prev := none
      raster.sleep := false, raster.linkLost := false, raster.bridge := false, raster.bridgeDue := false, raster.bridgeTold := false
      raster.blackDue := none, raster.missed := none, raster.stretching := false, raster.closed := false, raster.wasBlack := false, raster.lightDue := false
      pipe.queues := [], pipe.batch := none, pipe.batchPorts := [], out.win := none, out.plan := none, panel.sensing := false }
    let s := { s with out.ports := s.out.ports.map fun e => (e.1, { e.2 with window := false }) }
    let s := endFade (if s.panel.drive = .floating then biasHold cfgIdle s else rowsIdle s)
    let s := changeRes hDITHER Par.DITHER_FROZEN 0 (changeRes hRASTER Par.RASTER_STATE 0 (showPorts s))
    applyAllCommits (showBuffers s)

/-- `rasterHalt`, with the geometry that those commits leave judged anew (R139). -/
def rasterStop (s : State) : State := checkLegal (rasterHalt s)

/-- The SYNC_OUT pulse of an anchor at tick `t` is placed (R152). -/
def pulseAt (t : Nat) (s : State) : State :=
  let kept := s.raster.syncOut.filter fun x => decide (s.now < x + cfg s hRASTER Par.RASTER_SYNC_OUT_WIDTH)
  { s with raster.syncOut := if cfg s hRASTER Par.RASTER_SYNC_OUT_MODE = 1 then kept ++ [t] else kept }

/-- The raster leaves STOPPED with its first anchor (R157). -/
def rasterStart (s : State) : State :=
  if !s.raster.stopped then s
  else
    let s := showPass (stressRateCheck (checkLegal (showGeometry { s with raster.mode := modeNow s })))
    if s.raster.illegal then s
    else
      let s := setTemperature s
      let gen : Genlock := { lastEdge := s.raster.gen.lastEdge, step := if s.raster.mode.timing = 2 then 1 else 0 }
      let s := showLock { s with
        raster.stopped := false, raster.first := true, raster.prev := none, raster.cur := some (nextRecord s), raster.gen := gen }
      makeAnchor s.now (pulseAt s.now (showBuffers s))

/-- The RASTER step of the power-on sequence (R157, R282, R283, R285). -/
def rasterStep (s : State) : State :=
  let s := { s with panel.rasterReached := true }
  if s.raster.stopped then rasterStart (rowsBegin s) else s

/-- Commits applied while STOPPED: a width that has become legal lets the raster run again, where the panel is powering on or on and its
sequence has reached its RASTER step (R139, R157). -/
def rasterResume (s : State) : State :=
  if !s.raster.stopped then s
  else
    let was := s.raster.illegal
    let s := checkLegal s
    if was && !s.raster.illegal && s.panel.rasterReached && (s.panel.on == 1 || s.panel.on == 2) then rasterStart s else s

/-! ### The frame boundary's timing -/

/-- The raster's own next anchor, where it sets one (R141, R147, R149); `moved` after a timing-mode change. -/
def planOwn (moved : Bool) (s : State) : State :=
  match s.raster.boundary with
  | none => s
  | some b =>
    let m := s.raster.mode
    let e := earliestAnchor s b
    let a := s.raster.anchor
    let own := match m.timing with
      | 0 => some (max e (if selfing s then a + periodTicks (selfRate s) else if moved then e else a + frameTicks s))
      | 1 => if selfing s then some (max e (a + periodTicks (selfRate s))) else none
      | _ => some (max e (genlockNext s))
    { s with raster.own := own }

/-- The SYNC_OUT pulse before the next anchor: E in LINK mode and before a black frame, else the raster's own anchor (R152). -/
def placeSync (s : State) : State :=
  match s.raster.boundary with
  | none => s
  | some b =>
    let e := earliestAnchor s b
    let at_ := if s.raster.blackDue.isSome then e else s.raster.own.getD e
    pulseAt (max s.raster.anchor (at_ - cfg s hRASTER Par.RASTER_SYNC_OUT_LEAD)) s

/-- Is SYNC_IN at its active level at tick `t`? Within 80 ticks after an edge it is (R149); else as the pin stands. -/
def syncInActive (s : State) (t : Nat) : Bool := match s.raster.gen.lastEdge with
  | some e => (decide (e ≤ t) && decide (t < e + 80)) || Config.pinLevel t
  | none => Config.pinLevel t

/-- The level of SYNC_OUT (R152): active high where SYNC_POLARITY is 0, active low where it is 1. -/
def syncOutLevel (s : State) : Bool :=
  let active := match cfg s hRASTER Par.RASTER_SYNC_OUT_MODE with
    | 1 => s.raster.syncOut.any fun x =>
        decide (x ≤ s.now) && decide (s.now < x + cfg s hRASTER Par.RASTER_SYNC_OUT_WIDTH)
    | 2 => syncInActive s (s.now - min 16 (Config.freeNat s.now))
    | _ => false
  active == (cfg s hRASTER Par.RASTER_SYNC_POLARITY == 0)

/-- What the output loopback measures of HALF1 against HALF0, from the trims in force; beyond one tick it is told once (R151). -/
def measureSkew (s : State) : State :=
  let d : Int := Config.pathSkew + cfg s (hHALF 1) Par.HALF_SKEW_TRIM - cfg s (hHALF 0) Par.HALF_SKEW_TRIM
  let was := resI s (hHALF 1) Par.HALF_SKEW
  let s := if was = d then s else setResI (hHALF 1) Par.HALF_SKEW d s
  if 1 < d.natAbs ∧ was.natAbs ≤ 1 then settle (raise 0x020A (hHALF 1) ([1] ++ s16 d) s) else settle s

/-- The frame boundary (R136, R138, R139, R154). -/
def frameBoundary (s : State) : State :=
  let old := s.raster.mode
  let s := boundaryWork (measureSkew s)
  if s.raster.illegal then rasterResume (rasterHalt s)
  else
    let m := s.raster.mode
    let moved := !sameTiming old m
    let s := { s with
      raster.boundary := some s.now
      raster.base := if moved then s.now else s.raster.base
      raster.baseLine := if moved then m.height else s.raster.baseLine
      raster.next := m.height }
    placeSync (planOwn moved s)

/-! ### Line starts -/

/-- Deadlines of the active line that begins have passed (R14). -/
def closeDeadlines (n : Int) (s : State) : State :=
  let m := s.raster.mode
  if n < 0 ∨ (m.height : Int) ≤ n then s
  else (slices s m).foldl (fun s p => missUpTo m p.1 n.toNat p.2.1 p.2.2 (n.toNat + 1) s) s

/-- Line times from now to the anchor that is due. -/
def linesLeft (s : State) : Nat := match anchorDue s with
  | some (a, _) => clockLines s (a - s.now)
  | none => 0

/-- The line start of line `n` (R36, R136, R151, R253, R279, R282, R286). -/
def lineStart (n : Int) (s : State) : State :=
  let s := closeDeadlines n (repairTables (takeOvers s))
  let last := decide (n = s.raster.mode.height)
  let s := if last then frameBoundary s else s
  if s.raster.stopped || (last && s.raster.boundary.isNone) then s
  else
    let m := s.raster.mode
    let n := s.raster.next
    let stretch := s.raster.boundary.isSome && decide (((m.height + m.vblank : Nat) : Int) - 6 ≤ n)
    let s := othamLine n (stretch && selfing s) (linesLeft s) s
    let s := changeRes hRASTER Par.RASTER_LINE s.out.lineNo (showDuty s)
    let frame := res s hRASTER Par.RASTER_FRAMES
    let s := if s.panel.drive = .idle then lineSet 1 n frame m.height (lineSet 0 n frame m.height s) else s
    let s := biasDue (sumDuty n frame m.height s)
    let s : State := { (if s.raster.stretching then biasStretch s else s) with raster.stretching := stretch }
    let s := if n = 0 ∧ s.raster.lightDue = true then firstLight (s.raster.kind == .live) { s with raster.lightDue := false } else s
    { s with
      raster.next := n + 1
      raster.closed := s.raster.closed || decide ((m.height : Int) - 64 ≤ n) }

/-- A line of the black scan of DISCHARGE (R298): lines −6 to ACTIVE_HEIGHT − 1, with `left` of them still to come; the all-rows hold
begins at the end of the last. -/
def scanLine (left : Nat) (s : State) : State :=
  let m := s.raster.mode
  let total := m.height + 6
  let n : Int := ((total - left : Nat) : Int) - 6
  let at_ := s.raster.base + (total - left) * s.raster.period / 256
  let s := advanceTo at_ s
  if left = 0 then rowsDisch { s with panel.scanLeft := none, panel.holdAt := some s.now }
  else
    let s := if s.panel.drive = .blackScan then blackScanLine n m.height s else s
    let s := if n < 0 then s else othamScanLine n.toNat s
    { s with panel.scanLeft := some (left - 1) }

/-- LINE_START: the raster issues its next line start, unless the anchor that is due comes first; in the black scan of DISCHARGE, the
scan's next line. -/
def execLineStart (s : State) : Host.Outcome State Fault Refusal :=
  .next (match s.panel.scanLeft with
    | some l => scanLine l s
    | none => match lineDue s with
      | some t => lineStart s.raster.next (advanceTo t s)
      | none => s)

/-! ### Anchors -/

/-- The anchor that is due is made where this command makes it. -/
def anchorBy (row : AnchorRow) (s : State) : State :=
  match anchorDue s with
  | some (a, r) => if r = row then makeAnchor a s else s
  | none => s

/-- FREE_ANCHOR (R141, R146). -/
def execFreeAnchor (s : State) : Host.Outcome State Fault Refusal := .next (anchorBy .free s)

/-- EARLIEST_ANCHOR (R145, R154, R155). -/
def execEarliestAnchor (s : State) : Host.Outcome State Fault Refusal := .next (anchorBy .earliest s)

/-- LATEST_ANCHOR (R145). -/
def execLatestAnchor (s : State) : Host.Outcome State Fault Refusal := .next (anchorBy .latest s)

/-- SELF_ANCHOR (R147). -/
def execSelfAnchor (s : State) : Host.Outcome State Fault Refusal := .next (anchorBy .self s)

/-- GENLOCK_ANCHOR (R149). -/
def execGenlockAnchor (s : State) : Host.Outcome State Fault Refusal := .next (anchorBy .genlock s)

end Sys2Proof.Machine
end

