-- ==== Sys2Proof/Machine/Transport.lean ====
section
/-! DEFINITION. The packets of the Swerok link in ACTIVE (04): the header check (R118), Frame-Start with its protection (R116, R118,
R120, R121, R520), Line, Frame-End, Region-Update (R123 to R125) and Control (R119). -/

namespace Sys2Proof.Machine

/-- A little-endian number among the type fields: the field that begins at packet byte `at_`. -/
def fieldAt (p : Packet) (at_ n : Nat) : Nat := leNat (sub p.fields (at_ - 4) n)

/-- A packet is ignored: counted, event 0x0124. -/
def ignorePacket (type reason : Nat) (s : State) : State :=
  raise 0x0124 hLINK [type, reason] (incSat hLINK Par.LINK_PACKETS_IGNORED 1 s)

/-- The link key set that a key phase names. -/
def keySetOf (s : State) (phase : Nat) : Option KeySet := if phase = 0 then s.sec.set0 else s.sec.set1

/-- The FRAME of the last protected frame under a set. -/
def lastProtected (s : State) (phase : Nat) : Option Nat := if phase = 0 then s.sec.last0 else s.sec.last1

/-- The counter block of Table 4.5. -/
def linkCounter (frame a b s : Nat) : List Nat := toBE 4 frame ++ toBE 2 a ++ toBE 2 b ++ [0, 0, 0, 0] ++ toBE 4 s

/-- A packet's body in clear (R120). -/
def clearBody (key : Option KeySet) (frame a b : Nat) (body : List Nat) : List Nat :=
  match key with
  | none => body
  | some k => aesCtr k.content (linkCounter frame a b) body

/-! ### Frame-Start -/

/-- A frame is rejected: counted, event 0x0125; its lines are discarded (R118). -/
def rejectFrame (frame cause : Nat) (s : State) : State :=
  raise 0x0125 hLINK (u32 frame ++ [cause]) (incSat hLINK Par.LINK_FRAMES_REJECTED 1 { s with rx.refused := true })

/-- Does a Frame-Start's TAG match (R121)? -/
def tagOk (k : KeySet) (p : Packet) : Bool :=
  cmac k.mac (packetHead 0x11 p.flags p.length p.fields ++ u16 p.hchk) == p.body

/-- Why a Frame-Start is rejected, if it is (Table 4.4, R520). -/
def rejection (s : State) (p : Packet) : Option Nat :=
  let m := s.raster.mode
  let phase := p.flags / 2 % 2
  if !s.link.carries then some 3
  else if fieldAt p 8 2 ≠ m.width ∨ fieldAt p 10 2 ≠ m.height ∨ fieldAt p 12 1 % 4 ≠ m.depth ∨ fieldAt p 13 1 ≠ m.colour then some 0
  else if p.flags % 2 = 0 then none
  else match keySetOf s phase with
  | none => none
  | some k =>
    if !tagOk k p then some 1
    else match lastProtected s phase with
    | none => none
    | some l => if fieldAt p 4 4 ≤ l then some 2 else none

/-- The slot that receives the frame (R125, R144, R307): the merge frame's, the one of a frame that is dropped, or the lowest that
no role names. -/
def takeHold (s : State) : State :=
  let s := dropWaiting (clearRegions s)
  match s.fstore.base with
  | some b => { s with fstore.hold := some b, fstore.base := none }
  | none => match s.fstore.hold with
    | some _ => s
    | none => { s with fstore.hold := some (unnamedSlot s) }

/-- A protected frame under a held set advances the set's last FRAME (R118). -/
def noteProtected (phase frame : Nat) (s : State) : State :=
  if phase = 0 then { s with sec.last0 := some frame } else { s with sec.last1 := some frame }

/-- A frame accepted while the anchor that it misses was a repeat for want of input is late (R146). -/
def noteLate (frame : Nat) (s : State) : State :=
  match s.raster.missed with
  | none => s
  | some t => raise 0x020B hRASTER (u32 frame ++ u32 ((s.now - t) / tickUs)) (incSat hRASTER Par.RASTER_LATE_STARTS 1 s)

/-- In LINK mode a Frame-Start accepted at or after E brings the anchor at once (R145). -/
def anchorNow (s : State) : State :=
  match s.raster.boundary with
  | none => s
  | some b =>
    if s.raster.stopped ∨ s.raster.mode.timing ≠ 1 ∨ s.raster.blackDue.isSome then s
    else if s.now < earliestAnchor s b then s
    else makeAnchor s.now s

/-- A Frame-Start is accepted (R116, R118, R143, R144). -/
def acceptFrame (p : Packet) (s : State) : State :=
  let m := s.raster.mode
  let frame := fieldAt p 4 4
  let enc := p.flags % 2 = 1
  let phase := p.flags / 2 % 2
  let black := enc && (keySetOf s phase).isNone
  let s := takeHold s
  let s := { s with fstore.g := nextG s }
  let slot := s.fstore.hold.getD 0
  let s := openSlot slot frame m.width m.height m.depth m.colour
    (!black && (decide enc || cfgB s hFSTORE Par.FSTORE_ENCRYPT_ALL)) false m s
  let s := if enc && !black then noteProtected phase frame s else s
  let s := { s with
    rx.cur := some { frame := frame, width := m.width, height := m.height, depth := m.depth, colour := m.colour, enc := enc,
                     set := phase, black := black, t0 := s.now }
    rx.refused := false
    raster.waiting := some { frame := frame, t0 := s.now }
    raster.sleep := false, raster.linkLost := false }
  let s := incWrap hLINK Par.LINK_FRAMES 1 s
  let s := setRes hLINK Par.LINK_LAST_FRAME frame s
  let s := changeRes hLINK Par.LINK_PROTECTED (p.flags % 2) s
  let s := if black then raise 0x0126 hLINK (u32 frame) (incSat hLINK Par.LINK_BLACK_FRAMES 1 s) else s
  anchorNow (noteLate frame (noteActivity s))

/-- A Frame-Start whose header is good. -/
def takeFrameStart (p : Packet) (s : State) : State :=
  if p.length ≠ 36 ∨ p.body.length ≠ 16 then ignorePacket 0x11 1 s
  else
    let frame := fieldAt p 4 4
    let s := endInput { s with rx.lastStart := frame, rx.refused := false }
    match rejection s p with
    | some c => rejectFrame frame c s
    | none => acceptFrame p s

/-! ### Lines -/

/-- LENGTH agrees with a body of `n` bytes: 20 + n, at most 65 535 (R112). -/
def lengthOk (p : Packet) (n : Nat) : Bool := p.body.length == n && p.length == 20 + n && decide (p.length ≤ 65535)

/-- A Line packet is consistent with its frame (Table 4.4). -/
def lineFits (r : RxFrame) (p : Packet) : Bool :=
  let x := fieldAt p 6 2
  let n := fieldAt p 8 2
  decide (fieldAt p 4 2 < r.height) && decide (1 ≤ n) && decide (x + n ≤ r.width)
    && lengthOk p (packedSize (depthBits r.depth) n)
    && fieldAt p 10 4 == r.frame && (p.flags % 2 == 1) == r.enc

/-- The line in progress has all its pixels: it is delivered, and late after its window (R117, R118). -/
def lineWhole (r : RxFrame) (s : State) : State :=
  let due := r.t0 + (r.line + 1) * linePeriod s.raster.mode / 256
  let s := if s.now ≤ due then s
    else raise 0x0122 hLINK (u16 r.line ++ u32 ((s.now - due) * 5 / 4)) (incSat hLINK Par.LINK_LINES_LATE 1 s)
  deliverLine r r.line (lineCodes r) r.bad s

/-- The pixels of a good packet enter the line in progress. -/
def takeSpan (r : RxFrame) (p : Packet) (s : State) : State :=
  let x := fieldAt p 6 2
  let n := fieldAt p 8 2
  let ok := pchkOk 0x22 p && (r.black || !r.enc || (keySetOf s r.set).isSome)
  let s := if ok then s
    else raise 0x0120 hLINK (u16 r.frame ++ u16 r.line ++ u16 x ++ u16 n) (incSat hLINK Par.LINK_LINES_FAILED 1 s)
  let body := clearBody (if r.enc then keySetOf s r.set else none) r.frame r.line x p.body
  let codes := if r.black || !ok then r.codes
    else mputList 0 r.codes (3 * x) (unpackCodes (depthBits r.depth) (3 * n) body)
  let r := { r with
    spans := putSpan (x, n) r.spans, bad := if ok then r.bad else putSpan (x, n) r.bad, codes := codes, packets := r.packets + 1 }
  let s := { s with rx.cur := some r }
  if spanGaps r.width 0 r.spans = [] then lineWhole r s else s

/-- A Line packet that is discarded still counts as received (R118, event 0x0127). -/
def countPacket (s : State) : State :=
  { s with rx.cur := s.rx.cur.map fun r => { r with packets := r.packets + 1 } }

/-- A Line whose header is good. -/
def takeLine (p : Packet) (s : State) : State :=
  match s.rx.cur with
  | none => if s.rx.refused then s else ignorePacket 0x22 1 s
  | some r =>
    let y := fieldAt p 4 2
    if !lineFits r p then countPacket (ignorePacket 0x22 1 s)
    else if y < r.line then countPacket (ignorePacket 0x22 2 s)
    else
      let s := closeLines r y s
      let r := s.rx.cur.getD r
      if spansTouch r.spans (fieldAt p 6 2) (fieldAt p 8 2) then countPacket (ignorePacket 0x22 1 s)
      else takeSpan r p s

/-- A Frame-End whose header is good: outstanding lines are missing, LINES is compared (R116, R118). -/
def takeFrameEnd (p : Packet) (s : State) : State :=
  if !lengthOk p 0 then ignorePacket 0x44 1 s
  else match s.rx.cur with
  | none => { s with rx.refused := false }
  | some r =>
    let s := endInput s
    let lines := fieldAt p 8 2
    if lines = r.packets then s else raise 0x0127 hLINK (u16 r.frame ++ u16 lines ++ u16 r.packets) s

/-! ### Region-updates -/

/-- The bytes of one row of a Region-Update (R115). -/
def regionRow (s : State) (w : Nat) : Nat := packedSize (depthBits s.raster.mode.depth) w

/-- The component codes of a region, row by row. -/
def regionCodes (s : State) (w h : Nat) (body : List Nat) : List Nat :=
  let d := depthBits s.raster.mode.depth
  (List.range h).flatMap fun y => unpackCodes d (3 * w) (sub body (y * regionRow s w) (regionRow s w))

/-- The cause for which a Region-Update is discarded (R123, Table 4.9). -/
def regionCause (s : State) (p : Packet) : Option Nat :=
  let m := s.raster.mode
  let seq := fieldAt p 12 2
  let d := (seq + 65536 - s.rx.lastRegion % 65536) % 65536
  let w := fieldAt p 8 2
  let h := fieldAt p 10 2
  if s.raster.stopped ∨ !selfing s then some 0
  else if d = 0 ∨ regionsFree s < d then some 1
  else if w = 0 ∨ h = 0 ∨ m.width < fieldAt p 4 2 + w ∨ m.height < fieldAt p 6 2 + h
      ∨ lengthOk p (h * regionRow s w) = false then some 2
  else if !pchkOk 0x33 p then some 4
  else if p.flags % 2 = 1 ∧ (keySetOf s (p.flags / 2 % 2)).isNone = true then some 5
  else none

/-- A Region-Update whose header is good. -/
def takeRegion (p : Packet) (s : State) : State :=
  let seq := fieldAt p 12 2
  let w := fieldAt p 8 2
  let h := fieldAt p 10 2
  let enc := p.flags % 2 = 1
  let set := p.flags / 2 % 2
  match regionCause s p with
  | some c => raise 0x0128 hLINK (u16 seq ++ [c]) (incSat hLINK Par.LINK_REGIONS_DISCARDED 1 s)
  | none =>
    let body := clearBody (if enc then keySetOf s set else none) s.rx.lastStart 0xFFFF seq p.body
    let r : Region := { seq := seq, x := fieldAt p 4 2, y := fieldAt p 6 2, w := w, h := h, enc := enc, set := set,
                        pixels := regionCodes s w h body }
    showRegionLimit (noteActivity { s with rx.regions := s.rx.regions ++ [r], rx.lastRegion := seq })

/-! ### Control and reserved packets -/

/-- Is a frame being received: Frame-Start seen, Frame-End not? -/
def insideFrame (s : State) : Bool := s.rx.cur.isSome || s.rx.refused

/-- A Control packet whose header is good (R118, R119). -/
def takeControl (p : Packet) (s : State) : State :=
  if !lengthOk p 0 then ignorePacket 0x55 1 s
  else if insideFrame s then ignorePacket 0x55 3 s
  else match fieldAt p 4 1 with
  | 1 => raise 0x012A hLINK (u32 (fieldAt p 6 4)) { s with raster.sleep := !s.raster.stopped }
  | 2 =>
    let b := sub p.fields 2 8
    raise 0x012B hLINK b (setResList hLINK Par.LINK_USER_DATA (b.map Int.ofNat) s)
  | _ => ignorePacket 0x55 4 s

/-! ### The stream of packets (R110, R111, R118) -/

/-- The TYPE codes of Table 4.2; a block that begins with 0x00 starts no packet (R111). -/
def packetTypes : List Nat := [0x00, 0x11, 0x22, 0x33, 0x44, 0x55]

/-- A packet whose header is good, by its TYPE; a reserved one is skipped by its LENGTH and counted (Table 4.4). -/
def takePacket (type : Nat) (p : Packet) (s : State) : State :=
  match type with
  | 0x11 => takeFrameStart p s
  | 0x22 => takeLine p s
  | 0x33 => takeRegion p s
  | 0x44 => takeFrameEnd p s
  | 0x55 => takeControl p s
  | _ => ignorePacket type 0 s

/-- A packet's bytes as they travel (Table 4.1). -/
def streamBytes (type : Nat) (p : Packet) : List Nat :=
  packetHead type p.flags p.length p.fields ++ u16 p.hchk ++ p.body ++ u32 p.pchk

/-- The packet that `n` bytes spell (Table 4.1). -/
def packetOf (n : Nat) (bs : List Nat) : Packet :=
  { flags := bs.getD 1 0, length := leNat (sub bs 2 2), fields := sub bs 4 10, hchk := leNat (sub bs 14 2)
    body := sub bs 16 (n - 20), pchk := leNat (sub bs (n - 4) 4) }

/-- Is a lane-0 block a header that passes HCHK?  A block that begins with 0x00 starts no packet (R111). -/
def headerBlock (b : List Nat) : Bool := b.headD 0 != 0 && crc16 (b.take 14) == leNat (sub b 14 2)

/-- The logical lanes that carry the stream (R96, R110). -/
def streamLanes (s : State) : Nat := max 1 s.link.map.length

/-- A DATA column is skipped: the first after being in step counts as a header error (Table 4.4). -/
def skipColumn (s : State) : State :=
  match s.rx.skipped with
  | none => incSat hLINK Par.LINK_HEADER_ERRORS 1 { s with rx.skipped := some 1 }
  | some n => { s with rx.skipped := some (n + 1) }

/-- A good header ends a search: event 0x0123 with the columns skipped. -/
def resume (s : State) : State :=
  match s.rx.skipped with
  | none => s
  | some n => raise 0x0123 hLINK (u32 n) { s with rx.skipped := none }

/-- Whole DATA columns of `n` lanes are examined (R118): a NULL column between packets passes, a bad header is skipped by one column, and the
bytes of a good one are taken by LENGTH, in whole columns, or wait for the rest.  `k` bounds the columns. -/
def feed (n : Nat) : Nat → List Nat → State → State
  | 0, bs, s => { s with rx.carry := bs }
  | k + 1, bs, s =>
    if bs = [] then { s with rx.carry := [] }
    else
      let b := stripe n bs 0 0
      if s.rx.skipped.isNone ∧ b.headD 0 = 0 then feed n k (bs.drop (16 * n)) s
      else if !headerBlock b then feed n k (bs.drop (16 * n)) (skipColumn s)
      else
        let len := leNat (sub b 2 2)
        let c := 16 * n * dataColumns n (bs.take (max 20 len))
        if bs.length < max 20 len then { s with rx.carry := bs }
        else feed n k (bs.drop c) (takePacket (b.headD 0) (packetOf len bs) (resume s))

/-- A packet's arrival (R110, R111, R118): nothing outside ACTIVE; in step, a good header's packet is taken; a bad header is discarded and the
columns after it are examined. -/
def receive (type : Nat) (p : Packet) (s : State) : State :=
  if s.link.phase ≠ .active then s
  else if s.rx.carry = [] ∧ hchkOk type p = true then takePacket type p (resume s)
  else
    let n := streamLanes s
    let bs := streamBytes type p
    let all := s.rx.carry ++ padTo (16 * n * dataColumns n bs) bs
    feed n (dataColumns n all + 1) all s

/-- FRAME_START. -/
def execFrameStart (p : Packet) (s : State) : Host.Outcome State Fault Refusal := .next (receive 0x11 p s)

/-- LINE. -/
def execLine (p : Packet) (s : State) : Host.Outcome State Fault Refusal := .next (receive 0x22 p s)

/-- REGION_UPDATE. -/
def execRegionUpdate (p : Packet) (s : State) : Host.Outcome State Fault Refusal := .next (receive 0x33 p s)

/-- FRAME_END. -/
def execFrameEnd (p : Packet) (s : State) : Host.Outcome State Fault Refusal := .next (receive 0x44 p s)

/-- SLEEP_NOTICE. -/
def execSleepNotice (p : Packet) (s : State) : Host.Outcome State Fault Refusal := .next (receive 0x55 p s)

/-- CONTROL_USER. -/
def execControlUser (p : Packet) (s : State) : Host.Outcome State Fault Refusal := .next (receive 0x55 p s)

/-- RESERVED_PACKET: a packet of a TYPE that Table 4.2 reserves. -/
def execReservedPacket (type : Nat) (p : Packet) (s : State) : Host.Outcome State Fault Refusal :=
  .next (if packetTypes.contains type then s else receive type p s)

end Sys2Proof.Machine
end

