-- ==== Sys2Proof/Machine/PanelPower.lean ====
section
/-! DEFINITION. Panel power (11): the two programmed sequences (R294, R295, R297), PMBus writes (R293), PGOOD monitoring (R296), the
references and the pump (R291, R292), and DISCHARGE (R298, R299).  The commands of these stand in PanelRows.lean, since the end of
a sequence moves the power states on. -/

namespace Sys2Proof.Machine

/-! ### Steps -/

/-- Byte `i` of the step that runs (Table 11.3). -/
def seqByte (q : SeqRun) (i : Nat) : Nat := q.table.getD (8 * q.step + i) 0

/-- ACTION as programmed. -/
abbrev seqAction (q : SeqRun) : Nat := seqByte q 0

/-- Is the step taken as NOP (R294)? -/
def seqNop (q : SeqRun) : Bool :=
  let a := seqAction q
  let w := seqByte q 6
  decide (0x0D < a) || (q.off && (a == 0x0A || a == 0x0B)) || (!q.off && a == 0x0C)
  || (a == 1 && decide (5 < seqByte q 1)) || ((w == 1 || w == 2) && decide (5 < seqByte q 1))

/-- The action performed: NOP for a step taken as NOP. -/
def seqDoes (q : SeqRun) : Nat := if seqNop q then 0x0D else seqAction q

/-- Is the action a PMBus write? -/
def isPmb (a : Nat) : Bool := a == 2 || a == 3

/-- The PGOOD wait of the step, if it has one. -/
def pinWait (q : SeqRun) : Option (Nat × Bool) :=
  if seqNop q then none
  else match seqByte q 6 with
  | 1 => some (seqByte q 1, true)
  | 2 => some (seqByte q 1, false)
  | _ => none

/-- The sequence code of the events. -/
abbrev seqCode (q : SeqRun) : Nat := if q.off then 1 else 0

/-- The sequence that runs, changed. -/
def setSeq (q : SeqRun) (s : State) : State := { s with panel.seq := some q }

/-- STATE of PANELPWR. -/
def setPanel (n : Nat) (s : State) : State := changeRes hPANELPWR Par.PANELPWR_STATE n { s with panel.on := n }

/-- PUMP_STATE. -/
def setPump (n : Nat) (s : State) : State := changeRes hREFLADDER Par.REFLADDER_PUMP_STATE n { s with panel.pump := n }

/-- The black scan and the hold of DISCHARGE end where the row outputs are taken over. -/
def endScan (s : State) : State := { s with panel.scanLeft := none, panel.holdAt := none }

/-- Is every enabled port a stopped port (R269)? -/
def allStopped (s : State) : Bool := (enabledPorts s 0 64).all fun p => (oport s p).stopped

/-- The start of DISCHARGE (R298, R299); it is over at once where it is skipped. -/
def discharge (s : State) : Bool × State :=
  if !s.panel.rasterReached then (true, raise 0x050D hPANELPWR [0] s)
  else if allStopped s then (false, rowsDisch { s with panel.holdAt := some s.now })
  else (false, { s with
    panel.drive := if s.panel.drive = .floating then .floating else .blackScan
    panel.scanLeft := some (s.raster.mode.height + 6), raster.base := s.now })

/-- A byte into the CRC-8 of a PEC, polynomial x⁸ + x² + x + 1, most significant bit first. -/
def pecByte (c b : Nat) : Nat :=
  [7, 6, 5, 4, 3, 2, 1, 0].foldl (fun c i => Nat.xor (2 * c % 256) (if c.testBit 7 != b.testBit i then 7 else 0)) c

/-- The bytes of a write before its PEC: the address with the write bit, the command and the data, least significant byte first. -/
def pmbusBytes (address command data : Nat) (word : Bool) : List Nat :=
  [2 * address, command, data % 256] ++ if word then [data / 256] else []

/-- A PMBus write begins, with a PEC byte where PMBUS_PEC is 1 (R293). -/
def beginPmbus (address command data : Nat) (word : Bool) (s : State) : State :=
  let pec := if cfgB s hPANELPWR Par.PANELPWR_PMBUS_PEC then some ((pmbusBytes address command data word).foldl pecByte 0) else none
  { s with panel.pmbus := some ⟨address, command, data, word, pec, 0, none⟩ }

/-- The action of the step: whether WAIT 3 is met at once (Table 11.4). -/
def perform (q : SeqRun) (s : State) : Bool × State :=
  match seqDoes q with
  | 0x01 =>
    let bit := 2 ^ seqByte q 1
    let low := s.panel.pon - (if s.panel.pon.testBit (seqByte q 1) then bit else 0)
    (true, { s with panel.pon := low + if seqByte q 2 % 2 = 1 then bit else 0 })
  | 0x02 => (false, beginPmbus (seqByte q 1 % 128) (seqByte q 2) (seqByte q 4) false s)
  | 0x03 => (false, beginPmbus (seqByte q 1 % 128) (seqByte q 2) (seqByte q 4 + 256 * seqByte q 5) true s)
  | 0x04 => (true, rowsIdle (endScan s))
  | 0x05 => (true, rowsFloat (endScan s))
  | 0x06 => (false, clipRefs { s with panel.refs := true })
  | 0x07 => (false, clipRefs { s with panel.refs := false })
  | 0x08 => (decide (s.panel.pump = 2), if s.panel.pump = 2 then s else setPump 1 s)
  | 0x09 => (false, setPump 0 (setResI hREFLADDER Par.REFLADDER_SREF_N_MEAS 0 s))
  | 0x0A =>
    let s := (enabledPorts s 0 64).foldl (fun s p => startTraining p s) s
    (portsTrained s, s)
  | 0x0B => (true, rasterStep s)
  | 0x0C => discharge s
  | _ => (true, s)

/-- The step's condition has been met: its DELAY runs; in ON_SEQ a pin whose WAIT 1 is met is monitored from now on (R296). -/
def beginDelay (q : SeqRun) (s : State) : State :=
  let w := match pinWait q with
    | some (n, true) => if q.off then s.panel.watched else Nat.lor s.panel.watched (2 ^ n)
    | _ => s.panel.watched
  setSeq { q with wait := .delay, since := s.now } { s with panel.watched := w }

/-- The step waits for its pin, or its DELAY runs where the pin is there already or the step names none. -/
def beginPinWait (q : SeqRun) (s : State) : State :=
  match pinWait q with
  | some (n, l) => if s.panel.pgood.testBit n = l then beginDelay q s
      else setSeq { q with wait := .pin n l, since := s.now } s
  | none => beginDelay q s

/-- The step's action and its wait (R294). -/
def beginStep (q : SeqRun) (s : State) : State :=
  let s := if seqNop q && q.tries == 0 then raise 0x0507 hPANELPWR [seqCode q, q.step, seqAction q] s else s
  let s := setSeq q s
  let (met, s) := perform q s
  let q := { q with since := s.now }
  if !met && (isPmb (seqDoes q) || (!seqNop q && seqByte q 6 == 3)) then setSeq { q with wait := .action } s
  else beginPinWait q s

/-! ### Sequences -/

/-- A sequence begins (R294, R296, R297). -/
def beginSeq (off : Bool) (s : State) : State :=
  let table := (List.range 128).map fun i =>
    cfg s hPANELPWR (if off then Par.PANELPWR_OFF_SEQ else Par.PANELPWR_ON_SEQ) i
  let s := { s with panel.pmbus := none, panel.wantOff := false }
  let s := if off then setPanel 3 (rasterStop { s with panel.watched := 0 })
    else setPanel 1 { s with panel.rasterReached := false, panel.failing := false }
  setSeq { off := off, table := table, began := s.now, since := s.now } s

/-- PANELPWR fails (R295, R296). -/
def panelFails (s : State) : State := settle { s with panel.failed := true }

/-- ON_SEQ has run to its end (R303). -/
def onComplete (q : SeqRun) (s : State) : State :=
  let ms := msSince s q.began
  let s := setRes hPANELPWR Par.PANELPWR_ON_TIME ms (incWrap hPANELPWR Par.PANELPWR_PANEL_CYCLES 1 s)
  let s := settle (unitsUp 12 <| setPanel 2 { s with panel.seq := none, panel.failed := false, panel.ended := some true })
  raise 0x0501 hPANELPWR (u16 ms ++ [q.count]) s

/-- OFF_SEQ has run to its end. -/
def offComplete (q : SeqRun) (s : State) : State :=
  let s := senseUnknown (setPanel (if s.panel.failed then 4 else 0) { s with panel.seq := none, panel.ended := some false })
  raise 0x0502 hPANELPWR (u16 (msSince s q.began) ++ [q.count]) s

/-- The sequence moves from step to step while no step has to wait; `n` bounds the steps of the sequences that may follow each
other. -/
def runSeq : Nat → State → State
  | 0, s => s
  | n + 1, s =>
    match s.panel.seq with
    | none => s
    | some q =>
      if 16 ≤ q.step ∨ seqAction q = 0 then
        if !q.off then onComplete q s
        else
          let s := offComplete q s
          if s.panel.wantOn then runSeq n (beginSeq false { s with panel.wantOn := false, panel.ended := none }) else s
      else
        let s := changeRes hPANELPWR Par.PANELPWR_STEP q.step s
        let s := beginStep { q with count := q.count + 1, tries := 0 } s
        match s.panel.seq with
        | some q => match q.wait with
          | .delay => if seqByte q 7 = 0 then
              if s.panel.wantOff ∧ q.off = false then runSeq n (beginSeq true s)
              else runSeq n (setSeq { q with step := q.step + 1 } s)
            else s
          | _ => s
        | none => s

/-- Steps that can follow each other without a wait: an ON_SEQ, an OFF_SEQ and an ON_SEQ, with their ends. -/
abbrev seqFuel : Nat := 64

/-- The step's DELAY is over: the next step, or OFF_SEQ where power-off has been asked for (R297). -/
def nextStep (s : State) : State :=
  match s.panel.seq with
  | none => s
  | some q =>
    if s.panel.wantOff ∧ q.off = false then runSeq seqFuel (beginSeq true s)
    else runSeq seqFuel (setSeq { q with step := q.step + 1 } s)

/-- A step that has reached its DELAY goes on at once where the DELAY is 0. -/
def afterWait (s : State) : State :=
  match s.panel.seq with
  | some q => if q.wait = .delay ∧ seqByte q 7 = 0 then nextStep s else s
  | none => s

/-- WAIT 3 is met, or a PMBus write acknowledged (R294). -/
def actionDone (s : State) : State :=
  match s.panel.seq with
  | none => s
  | some q => if q.wait = .action then afterWait (beginPinWait q s) else s

/-- Does the step that waits for its action perform `a`? -/
def stepAwaits (s : State) (a : Nat) : Bool :=
  match s.panel.seq with
  | none => false
  | some q => q.wait == .action && seqDoes q == a

/-- The Otham step is met once every enabled port is trained or FAILED (Table 11.4). -/
def othamStep (s : State) : State := if stepAwaits s 0x0A && portsTrained s then actionDone s else s

/-- A wait reaches its limit or a PMBus write has failed (R295): causes 0 PGOOD wait, 1 PMBus, 2 resource not ready. -/
def stepFails (cause : Nat) (s : State) : State :=
  match s.panel.seq with
  | none => s
  | some q =>
    let s := { s with panel.pmbus := none }
    if !q.off && decide (q.tries < 2) then
      let s := raise 0x0503 hPANELPWR [0, q.step, cause] s
      afterWait (beginStep { q with tries := q.tries + 1 } s)
    else
      let s := raise 0x0504 hPANELPWR [seqCode q, q.step, cause] (incSat hPANELPWR Par.PANELPWR_SEQ_FAILURES 1 s)
      let s := panelFails s
      if q.off then runSeq seqFuel (setSeq { q with step := q.step + 1 } s)
      else runSeq seqFuel (beginSeq true { s with panel.failing := true })

/-- The panel is asked to power on (R294, R297). -/
def panelOn (s : State) : State :=
  match s.panel.seq with
  | some q => if q.off then { s with panel.wantOn := true } else s
  | none => if s.panel.on = 2 then s else runSeq seqFuel (beginSeq false s)

/-- The panel is asked to power off (R297). -/
def panelOff (s : State) : State :=
  match s.panel.seq with
  | some q => if q.off then { s with panel.wantOn := false } else { s with panel.wantOff := true }
  | none => if s.panel.on = 2 then runSeq seqFuel (beginSeq true s) else s

/-- Is the panel off, with no sequence running? -/
def panelIsOff (s : State) : Bool := s.panel.seq.isNone && (s.panel.on == 0 || s.panel.on == 4)

/-- The power-fail warning's part of the panel: PON pins low, every row output at its DISCH level, nothing sent (R495). -/
def panelEmergency (s : State) : State :=
  let s := { endScan s with
    panel.seq := none, panel.pmbus := none, panel.wantOn := false, panel.wantOff := false, panel.pon := 0, panel.watched := 0
    panel.ended := none, panel.failing := false }
  setPanel 0 (othamOff (rowsEmergency (rasterStop s)))

/-- The power-down of the panel's domains: row outputs and references high-impedance, PON pins low, the pump and the Otham transmitters off
(R276, Tables 19.4 and 19.5). -/
def panelDown (s : State) : State :=
  othamOff (setPump 0 (clipRefs { rowsFloat (endScan s) with panel.refs := false, panel.pon := 0 }))

end Sys2Proof.Machine
end

