-- ==== Sys2Proof/Machine/Security.lean ====
section
/-! DEFINITION. The security engine (16): the key store (R404 to R406), credentials and sessions (R410 to R412), the lifecycle
(R413 to R415), the test port (R416), tamper (R417 to R419), attestation (R420) and the key exchange of the link (R421, R422). -/

namespace Sys2Proof.Machine

/-- The characters of a string that the spec quotes. -/
def text (t : String) : List Nat := t.toList.map Char.toNat

/-- UID, most significant byte first (Table 17.3). -/
def uid (s : State) : List Nat := storeAt s 32 8

/-- `n` random bytes of the DRBG (R403). -/
def random (n : Nat) (s : State) : List Nat × State :=
  drawBytes n { s with sec.drbgRequests := (s.sec.drbgRequests + 1) % 1048576 }

/-! ### The key store -/

/-- The 3840 bytes of a body (Table 16.1). -/
def bodyBytes (k : KeyBody) : List Nat :=
  padTo 16 k.opSalt ++ padTo 32 k.opHash ++ [if k.opSet then 1 else 0, 0, 0, 0] ++ u32 16384
  ++ padTo 32 k.intKey ++ [if k.intSet then 1 else 0, 0, 0, 0] ++ padTo 32 k.venKey ++ padTo 32 k.idPriv
  ++ u16 k.cert.length ++ [0, 0] ++ padTo 768 k.cert ++ padTo 3 k.lockout ++ [k.lc % 256] ++ List.replicate 2908 0

/-- The body that 3840 bytes hold. -/
def bodyOf (b : List Nat) : KeyBody :=
  { opSalt := sub b 0 16, opHash := sub b 16 32, opSet := b.getD 48 0 % 2 == 1, intKey := sub b 56 32
    intSet := b.getD 88 0 % 2 == 1, venKey := sub b 92 32, idPriv := sub b 124 32
    cert := sub b 160 (min 768 (leNat (sub b 156 2))), lockout := sub b 928 3, lc := b.getD 931 0 }

/-- First page of a copy (R404). -/
def copyPage (b : Bool) : Nat := if b then 48 else 32

/-- Encryption key and CMAC key, 64 bytes in all (R404). -/
def storeKeys (s : State) : List Nat := hkdf 64 s.sec.huk [] (text "KL8640 keystore")

/-- A body's ciphertext, or its plaintext again. -/
def bodyCrypt (keys : List Nat) (seq : Nat) (body : List Nat) : List Nat :=
  aesCtr (keys.take 32) (fun j => toBE 4 seq ++ List.replicate 8 0 ++ toBE 4 j) body

/-- Header bytes 0 to 7. -/
def copyHead (seq : Nat) : List Nat := [0x4B, 0x4C, 0x4B, 0x53] ++ u32 seq

/-- TAG of a copy. -/
def copyTag (keys : List Nat) (seq : Nat) (cipher : List Nat) : List Nat := cmac (keys.drop 32) (copyHead seq ++ cipher)

/-- Why a copy is not valid: 0 COMMIT, 1 MAGIC, 2 TAG (R405). -/
def copyCause (s : State) (b : Bool) : Option Nat :=
  let h := storeAt s (256 * copyPage b) 256
  if h.getD 255 0 ≠ 0xA5 then some 0
  else if h.take 4 ≠ [0x4B, 0x4C, 0x4B, 0x53] then some 1
  else if copyTag (storeKeys s) (leNat (sub h 4 4)) (storeAt s (256 * copyPage b + 256) 3840) ≠ sub h 8 16 then some 2
  else none

/-- SEQUENCE of a copy. -/
def copySeq (s : State) (b : Bool) : Nat := leNat (storeAt s (256 * copyPage b + 4) 4)

/-- The body that a copy holds. -/
def copyBody (s : State) (b : Bool) : KeyBody :=
  bodyOf (bodyCrypt (storeKeys s) (copySeq s b) (storeAt s (256 * copyPage b + 256) 3840))

/-- The programs that write a copy, COMMIT last (R387, R405). -/
def copyPrograms (b : Bool) (why last : Purpose) (header cipher : List Nat) : List Program :=
  let p := copyPage b
  [⟨3, p, [(255, 0)], why⟩]
  ++ (List.range 15).map (fun i => (⟨3, p + 1 + i, loadAt 0 (sub cipher (256 * i) 256), why⟩ : Program))
  ++ [⟨3, p, loadAt 0 header, why⟩, ⟨3, p, [(255, 0xA5)], last⟩]

/-- Is an identity held? -/
def hasIdentity (k : KeyBody) : Bool := k.idPriv.any (· != 0)

/-- The working copy, or an empty one. -/
def keys (s : State) : KeyBody := s.sec.work.getD {}

/-- CREDENTIALS_SET, and CERTIFICATE's generation where the copy that has come in holds another. -/
def showCredentials (s : State) : State :=
  let k := keys s
  let s := if k.cert = s.sec.shownCert then s else bumpGen hSEC Par.SEC_CERTIFICATE { s with sec.shownCert := k.cert }
  changeRes hSEC Par.SEC_CREDENTIALS_SET
    ((if k.opSet then 1 else 0) + (if k.intSet then 2 else 0) + if hasIdentity k then 4 else 0) s

/-- Consecutive credential failures of the ports, as LOCKOUT holds them. -/
def lockouts (s : State) : List Nat := ports.map fun i => min 255 (port s i).failures

/-- A body after a change (R407, R408, R414). -/
def keyApply (s : State) (c : KeyChange) (k : KeyBody) : KeyBody :=
  let k := { k with lockout := lockouts s }
  match c with
  | .lockout => k
  | .password salt hash => { k with opSalt := salt, opHash := hash, opSet := true }
  | .noPassword => { k with opSet := false }
  | .integrator key => { k with intKey := key, intSet := true }
  | .noIntegrator => { k with intSet := false }
  | .lifecycle n =>
    let zero := List.replicate 32 0
    match n with
    | 2 => if k.lc = 3 then { k with venKey := zero, opSet := false, lc := n } else { k with venKey := zero, lc := n }
    | 3 => { k with opSet := false, intKey := zero, intSet := false, venKey := s.sec.venCopy, lc := n }
    | 4 => { lc := 4 }
    | _ => { k with lc := n }

/-- The body in force: the working copy's, or, while that is wiped, the one that the copy in force holds (R406). -/
def bodyInForce (s : State) : KeyBody :=
  match s.sec.work, res s hSEC Par.SEC_KEYSTORE_COPY with
  | some k, _ => k
  | none, 0 => {}
  | none, n => copyBody s (n == 2)

/-- The next change begins to be written to the copy that is not in force (R405). -/
def startKeyWrite (s : State) : State :=
  match s.sec.writing, s.sec.changes with
  | none, c :: cs =>
    let k := keyApply s c (bodyInForce s)
    let inForce := res s hSEC Par.SEC_KEYSTORE_COPY
    let seq := if inForce = 0 then 1 else (s.sec.keySeq + 1) % w32
    let cipher := bodyCrypt (storeKeys s) seq (bodyBytes k)
    let header := copyHead seq ++ copyTag (storeKeys s) seq cipher
    (copyPrograms (inForce == 1) .keyBody .keyCommit header cipher).foldl (fun s p => queueProgram p s)
      { s with sec.writing := some (c, k), sec.changes := cs }
  | _, _ => s

/-- A change to the key store is due. -/
def changeKeys (c : KeyChange) (s : State) : State := startKeyWrite { s with sec.changes := s.sec.changes ++ [c] }

/-- A key-store program has ended: the change that is done with, and whether it stands (R406, R409). -/
def keyProgramDone (p : Program) (ok : Bool) (s : State) : Option (KeyChange × Bool) × State :=
  match s.sec.writing with
  | none => (none, s)
  | some (c, k) =>
    if p.why = .keyCommit ∧ ok = true then
      let b := res s hSEC Par.SEC_KEYSTORE_COPY == 1
      let s := setRes hSEC Par.SEC_KEYSTORE_COPY (if b then 2 else 1)
        { s with sec.keySeq := copySeq s b, sec.writing := none, sec.noStore := false }
      let s := if s.sec.locked then s else showCredentials { s with sec.work := some k }
      (some (c, true), startKeyWrite s)
    else if (p.why = .keyBody ∨ p.why = .keyCommit) ∧ ok = false then
      let s := { s with
        sec.writing := none, pstore.queue := s.pstore.queue.filter fun q => q.why != .keyBody && q.why != .keyCommit }
      (some (c, false), startKeyWrite s)
    else (none, s)

/-- Seconds of a lockout delay after the `n`-th failure (R412). -/
def lockoutDelay (n : Nat) : Nat := if n < 5 then 0 else min 256 (2 ^ (n - 5))

/-- A lockout delay begins on a port: event 0x0B0A, LOCKOUT_S (R412). -/
def startLockout (i : PortId) (s : State) : State :=
  let n := (port s i).failures
  if n < 5 then s
  else raise 0x0B0A hSEC ([portCode i, n] ++ u16 (lockoutDelay n))
    (setResAt hSEC Par.SEC_LOCKOUT_S (portCode i) (lockoutDelay n : Nat) (setPort i { port s i with failedAt := s.now } s))

/-- A copy comes into force at a restart: event 0x0B05, the working copy, the lockouts (R405, R406, R412, R415). -/
def takeCopy (b : Bool) (outcome : Nat) (s : State) : State :=
  let k := copyBody s b
  let seq := copySeq s b
  let s := setRes hSEC Par.SEC_KEYSTORE_COPY (if b then 2 else 1) { s with sec.keySeq := seq, sec.noStore := false }
  let s := raise 0x0B05 hSEC ([if b then 2 else 1] ++ u32 seq ++ [outcome]) s
  let s := ports.foldl (fun s i => startLockout i (setPort i { port s i with failures := k.lockout.getD (portCode i) 0 } s)) s
  let s := showCredentials { s with sec.work := some k }
  if k.lc = s.sec.lifecycle then s
  else
    let (who, s) := draw s
    let c := KeyChange.lifecycle s.sec.lifecycle
    let s := changeKeys c s
    showCredentials (raise 0x0B04 hDEV [k.lc, s.sec.lifecycle, who % 4] { s with sec.work := some (keyApply s c k) })

/-- Reads the key store at a restart (R405). -/
def readKeyStore (s : State) : State :=
  match copyCause s false, copyCause s true with
  | some a, some b => showCredentials (raise 0x0B06 hSEC [a, b] { s with sec.work := none, sec.noStore := true })
  | none, some _ => takeCopy false 0 s
  | some _, none => takeCopy true 0 s
  | none, none =>
    if copySeq s false < copySeq s true then takeCopy true 0 s
    else if copySeq s true < copySeq s false then takeCopy false 0 s
    else if storeAt s (256 * 32) 248 = storeAt s (256 * 48) 248 ∧ storeAt s (256 * 33) 3840 = storeAt s (256 * 49) 3840 then
      takeCopy false 1 s
    else
      let programs := copyPrograms true .keyTie .keyTie (storeAt s (256 * 32) 255) (storeAt s (256 * 33) 3840)
      takeCopy false 2 (programs.foldl (fun s p => queueProgram p s) s)

/-- The working copy is made anew from the copy in force (R406). -/
def reloadKeys (s : State) : State :=
  match res s hSEC Par.SEC_KEYSTORE_COPY with
  | 0 => s
  | n => showCredentials { s with sec.work := some (copyBody s (n == 2)) }

/-! ### Sessions -/

/-- The status codes of Table 2.6. -/
abbrev stOK : Nat := 0x00
/-- no such unit -/
abbrev stNO_UNIT : Nat := 0x10
/-- no such parameter -/
abbrev stNO_PARAM : Nat := 0x11
/-- the level lacks the access -/
abbrev stDENIED : Nat := 0x12
/-- malformed -/
abbrev stBAD_FORM : Nat := 0x13
/-- the unit is off -/
abbrev stASLEEP : Nat := 0x14
/-- the resource is held -/
abbrev stBUSY : Nat := 0x15
/-- no level may write -/
abbrev stREAD_ONLY : Nat := 0x16
/-- no challenge, or a tag outside a session -/
abbrev stNO_SESSION : Nat := 0x17
/-- closed in the lifecycle state -/
abbrev stLIFECYCLE : Nat := 0x18
/-- frame check -/
abbrev stCHECK : Nat := 0x19
/-- sequence number -/
abbrev stSEQ : Nat := 0x1A

/-- A credential failure on a port (R410, R412). -/
def credentialFailed (i : PortId) (level : Nat) (s : State) : State :=
  let n := min 255 ((port s i).failures + 1)
  let s := raise 0x0A07 (portUnit i) [level, n] (setPort i { port s i with failures := n, failedAt := s.now } s)
  if n < 5 then s else changeKeys .lockout (startLockout i s)

/-- A success returns the count to 0; a count of 5 or more is cleared in the key store too (R412). -/
def credentialOk (i : PortId) (s : State) : State :=
  let n := (port s i).failures
  let s := setPort i { port s i with failures := 0 } s
  if n < 5 then s else changeKeys .lockout s

/-- Does a lockout delay run on a port? -/
def lockedOut (s : State) (i : PortId) : Bool :=
  let p := port s i
  decide (5 ≤ p.failures) && decide (s.now < p.failedAt + lockoutDelay p.failures * tickS)

/-- An OPEN that has passed the checks of Table 2.6: its status, its payload, and the level that it opens (R410, R412, R419). -/
def openEffect (i : PortId) (level : Nat) (password : List Nat) (s : State) : Nat × List Nat × Option (Nat × Option (List Nat)) × State :=
  let s := endSession i 5 s
  if s.sec.locked || lockedOut s i then (stDENIED, [], none, s)
  else if level = 1 then
    let k := keys s
    if k.opSet && pbkdf2 password k.opSalt 16384 == k.opHash then
      (stOK, [], some (1, none), raise 0x0A05 (portUnit i) [1] (credentialOk i s))
    else (stDENIED, [], none, credentialFailed i 1 s)
  else if s.sec.entropyBad then (stDENIED, [], none, s)
  else
    let (c, s) := random 32 s
    (stOK, c, none, setPort i { port s i with challenge := some (c, level, s.now) } s)

/-- A PROVE against the challenge that was outstanding (R410, R411); after a tamper event there is no key to try it with (R419). -/
def proveEffect (i : PortId) (challenge : List Nat) (level : Nat) (response : List Nat) (s : State) :
    Nat × List Nat × Option (Nat × Option (List Nat)) × State :=
  let k := keys s
  let key := if level = 2 then k.intKey else k.venKey
  let can := level != 2 || k.intSet
  if s.sec.locked then (stDENIED, [], none, s)
  else if can && hmac key (challenge ++ [level, portCode i] ++ uid s) == response then
    let ks := hkdf 32 key challenge (text "KL8640 session" ++ [level, portCode i])
    (stOK, [], some (level, some ks), raise 0x0A05 (portUnit i) [level] (credentialOk i s))
  else (stDENIED, [], none, credentialFailed i level s)

/-- CHALLENGE_EXPIRY: 10 s after it was issued. -/
def execChallengeExpiry (i : PortId) (s : State) : Host.Outcome State Fault Refusal :=
  .next (match (port s i).challenge with
    | none => s
    | some (_, _, t) =>
      let s := advanceTo (t + 10 * tickS) s
      setPort i { port s i with challenge := none } s)

/-- LOCKOUT_SECOND: one second of a delay passes (R412). -/
def execLockoutSecond (i : PortId) (s : State) : Host.Outcome State Fault Refusal :=
  .next (let left := res s hSEC Par.SEC_LOCKOUT_S (portCode i)
    if left = 0 then s
    else
      let p := port s i
      let s := advanceTo (p.failedAt + (lockoutDelay p.failures - left + 1) * tickS) s
      setResAt hSEC Par.SEC_LOCKOUT_S (portCode i) ((left - 1 : Nat) : Int) s)

/-! ### Tamper -/

/-- Steps 5 and 6 of R418. -/
def tamperTell (sources : Nat) (measured : Int) (s : State) : State :=
  raise 0x0B01 hSEC ([sources] ++ s16 measured) (incTally 4 (tellKeysLost 3 0 s))

/-- The secure region is wiped: working copy, key sets, exchange and attestation are gone (R372, R418). -/
def wipeKeys (cause : Nat) (s : State) : State :=
  wipeSecure cause { s with sec.work := none, sec.exchange := none, sec.attest := none, sec.testOpen := false, sec.testChallenge := none }

/-- Steps 5 and 6 of a tamper event wait for the wake from OFF (R418). -/
def tamperLater (bit : Nat) (measured : Int) (s : State) : State :=
  { s with sec.deferred := some (Nat.lor bit ((s.sec.deferred.map (·.1)).getD 0), measured) }

/-- A tamper source asserts (R417 to R419): while it is active it raises no further event, but for the test port's, whose every closed
debug instruction asserts it anew. -/
def tamperEvent (source : Nat) (measured : Int) (s : State) : State :=
  if 4 < source ∨ (source ≠ 4 ∧ s.sec.active.testBit source = true) then s
  else
    let bit := 2 ^ source
    let s := { s with sec.active := Nat.lor s.sec.active bit, sec.locked := true, sec.tamperAt := s.now }
    let s := setRes hSEC Par.SEC_TAMPER_LAST bit (setRes hSEC Par.SEC_TAMPER_ACTIVE s.sec.active s)
    if s.power.state = .off then tamperLater bit measured s
    else
      let s := drawFrameKey 1 (dropKeys 3 1 (endSessions 3 (wipeKeys 0 s)))
      if fabricOn s then tamperTell bit measured s else tamperLater bit measured s

/-- Steps 5 and 6 that have waited for a wake. -/
def tamperLate (s : State) : State :=
  match s.sec.deferred with
  | none => s
  | some (b, m) => tamperTell b m { s with sec.deferred := none }

/-- TAMPER, `measured` in the unit of event 0x0B01. -/
def execTamper (source : Nat) (measured : Int) (s : State) : Host.Outcome State Fault Refusal :=
  .next (if source = 0 ∧ cfgB s hSEC Par.SEC_TAMPER_ENABLE = false then s
    else if source = 1 ∧ s.power.warning = true then s
    else if source = 4 then s
    else tamperEvent source measured s)

/-- TAMPER_CLEAR: no source has been active for 100 ms (R419). -/
def execTamperClear (s : State) : Host.Outcome State Fault Refusal :=
  .next (if !s.sec.locked || !fabricOn s then s
    else
      let s := advanceTo (s.sec.tamperAt + 100 * tickMs) s
      let ms := (s.now - 100 * tickMs - s.sec.tamperAt) / tickMs
      let s := changeRes hSEC Par.SEC_TAMPER_ACTIVE 0 { s with sec.active := 0, sec.locked := false }
      raise 0x0B02 hSEC (u32 ms) (reloadKeys s))

/-- ENTROPY_FAILURE (R403). -/
def execEntropyFailure (test : Nat) (s : State) : Host.Outcome State Fault Refusal :=
  .next (settle (raise 0x0B0D hSEC [test] { s with sec.entropyBad := true }))

/-! ### The test port -/

/-- Is the debug module open (Table 16.3)? -/
def debugOpen (s : State) : Bool := match s.sec.lifecycle with
  | 0 => true
  | 1 | 3 => s.sec.testOpen
  | _ => false

/-- TEST_PORT_INSTRUCTION: a closed debug instruction selects BYPASS and is a tamper (R416). -/
def execTestPortInstruction (i : TestInstr) (s : State) : Host.Outcome State Fault Refusal :=
  .next (if i = .debug ∧ debugOpen s = false then tamperEvent 4 0 { s with sec.testIr := .bypass }
    else { s with sec.testIr := i })

/-- TEST_PORT_CHALLENGE: in FACTORY and RETURN, a first one asks for the challenge and the next answers it, with port code 3
(R416). -/
def execTestPortChallenge (response : List Nat) (s : State) : Host.Outcome State Fault Refusal :=
  .next (if (s.sec.lifecycle ≠ 1 ∧ s.sec.lifecycle ≠ 3) ∨ s.sec.work = none then s
    else match s.sec.testChallenge with
    | none =>
      if s.sec.entropyBad then s
      else
        let (c, s) := random 32 s
        { s with sec.testChallenge := some c }
    | some c =>
      let ok := hmac (keys s).venKey (c ++ [3, 3] ++ uid s) == response
      { s with sec.testChallenge := none, sec.testOpen := s.sec.testOpen || ok })

/-! ### Attestation -/

/-- VERSION of the running image. -/
def fwVersion (s : State) : Nat := match s.stag.slot with
  | 1 => s.stag.slotA.version
  | 2 => s.stag.slotB.version
  | _ => 0

/-- ATTESTATION_DONE: within 2 ms of the write (R420). -/
def execAttestationDone (s : State) : Host.Outcome State Fault Refusal :=
  .next (match s.sec.attest with
    | none => s
    | some c =>
      let v := fwVersion s
      let digest := sha256 (text "KL8640 attest" ++ c ++ uid s ++ [s.sec.lifecycle] ++ u32 v)
      let (k, s) := random 32 { s with sec.attest := none }
      let sig := ecdsaSign (beNat (keys s).idPriv) (beNat k) digest
      raise 0x0B0C hSEC [] (setResList hSEC Par.SEC_ATTESTATION ((sig ++ u32 v).map Int.ofNat) s))

/-! ### The key exchange -/

/-- A message of channel 4 is answered (R127, R128): an identical request again gets the same answer. -/
def cpAnswer (act : List Nat → State → List Nat × State) (f : AuxFrame) (s : State) : State :=
  if auxChannel f ≠ 4 then s
  else auxRequest (fun s => let (a, s) := act f.payload s; (0 :: a, s)) f s

/-- An exchange fails: counted, event 0x0B08 (R421). -/
def exchangeFails (set cause : Nat) (s : State) : State :=
  raise 0x0B08 hSEC [set, cause] (incSat hSEC Par.SEC_EXCHANGE_FAILS 1 s)

/-- CP_ERROR. -/
def cpError (set cause : Nat) (s : State) : List Nat × State := ([5, set, cause], exchangeFails set cause s)

/-- Is set `k` in use (R422)? -/
def setInUse (s : State) (k : Nat) : Bool :=
  (match s.rx.cur with
    | some r => r.enc && r.set == k && (decide (r.line + 1 < r.height) || spanGaps r.width 0 r.spans != [])
    | none => false)
  || s.rx.regions.any fun r => r.enc && r.set == k

/-- CP_HELLO's effect. -/
def takeHello (version k : Nat) (ns qs : List Nat) (s : State) : List Nat × State :=
  let s := { s with sec.exchange := none }
  if s.sec.locked then cpError k 4 s
  else if s.sec.lifecycle = 4 then cpError k 5 s
  else if version ≠ 1 ∨ 1 < k then cpError k 6 s
  else if !hasIdentity (keys s) || s.sec.entropyBad then cpError k 5 s
  else if setInUse s k then cpError k 1 s
  else match pointOf qs with
  | none => cpError k 2 s
  | some q =>
    let (nd, s) := random 32 s
    let (e, s) := random 32 s
    let (r, s) := random 32 s
    let d := beNat e % (n256 - 1) + 1
    let qd := pointBytes (publicPoint d)
    let z := toBE 32 ((mulP256 d q).getD (0, 0)).1
    let t := sha256 (text "SWEROK-CP1" ++ [version, k] ++ ns ++ qs ++ nd ++ qd ++ uid s)
    let ks := hkdf 96 z (ns ++ nd) (text "SWEROK-CP1 keys" ++ [k])
    let cert := (keys s).cert
    let sig := ecdsaSign (beNat (keys s).idPriv) (beNat r) t
    ([2, k] ++ nd ++ qd ++ sig ++ u16 cert.length ++ cert,
      { s with sec.exchange := some { set := k, t := t, keys := ks, since := s.now } })

/-- CP_CONFIRM's effect. -/
def takeConfirm (k : Nat) (mac : List Nat) (s : State) : List Nat × State :=
  if s.sec.locked then cpError k 4 s
  else if s.sec.lifecycle = 4 then cpError k 5 s
  else match s.sec.exchange with
  | none => cpError k 0 s
  | some e =>
    if e.set ≠ k then cpError k 0 s
    else
      let s := { s with sec.exchange := none }
      let kc := e.keys.drop 64
      if hmac kc (0x53 :: e.t) ≠ mac then cpError k 3 s
      else
        let set : KeySet := ⟨e.keys.take 32, sub e.keys 32 32⟩
        let s := if k = 0 then { s with sec.set0 := some set, sec.last0 := none }
          else { s with sec.set1 := some set, sec.last1 := none }
        let s := setRes hSEC Par.SEC_KEY_SETS (keySetBits s) (incWrap hSEC Par.SEC_EXCHANGES 1 s)
        ([4, k] ++ hmac kc (0x44 :: e.t), raise 0x0B07 hSEC [k] s)

/-- A message of the source on channel 4 by its code (Table 16.5): the reply and the effect. -/
def cpMessage (m : List Nat) (s : State) : List Nat × State :=
  match m.headD 0 with
  | 1 => takeHello (m.getD 1 0) (m.getD 2 0) (sub m 3 32) (m.drop 35) s
  | 3 => takeConfirm (m.getD 1 0) (m.drop 2) s
  | 7 => ([8], dropKeys (m.getD 1 0) 4 s)
  | _ => ([], s)

/-- CP_HELLO (R421, R422). -/
def execCpHello (f : AuxFrame) (s : State) : Host.Outcome State Fault Refusal := .next (cpAnswer cpMessage f s)

/-- CP_CONFIRM (R421). -/
def execCpConfirm (f : AuxFrame) (s : State) : Host.Outcome State Fault Refusal := .next (cpAnswer cpMessage f s)

/-- CP_CONFIRM_TIMEOUT: 100 ms after CP_CERT (R421). -/
def execCpConfirmTimeout (s : State) : Host.Outcome State Fault Refusal :=
  .next (match s.sec.exchange with
    | none => s
    | some e => exchangeFails e.set 0 { advanceTo (e.since + 100 * tickMs) s with sec.exchange := none })

/-- CP_DROP (R422). -/
def execCpDrop (f : AuxFrame) (s : State) : Host.Outcome State Fault Refusal := .next (cpAnswer cpMessage f s)

/-! ### The lifecycle -/

/-- May a session of a level ask for a transition (R414)? -/
def transitionOk (s : State) (level target : Nat) : Bool :=
  match s.sec.lifecycle, target with
  | 1, 2 => decide (2 ≤ level) && (keys s).intSet
  | 2, 3 => level == 2
  | 3, 2 => level == 3 && decide (0 < s.sec.returnsLeft) && (keys s).intSet
  | 4, _ => false
  | _, 4 => decide (2 ≤ level)
  | _, _ => false

/-- Steps 1 and 2 of R415: the fuses and tally counter 5. -/
def blowLifecycle (target : Nat) (s : State) : State :=
  let left := s.sec.returnsLeft - if s.sec.lifecycle = 3 ∧ target = 2 then 1 else 0
  let s := changeRes hDEV Par.DEV_RETURNS_LEFT left { s with sec.lifecycle := target, sec.returnsLeft := left }
  incTally 5 (setRes hDEV Par.DEV_LIFECYCLE target s)

/-- Steps 4 and 5 of R415: the wipe, the sessions, the key sets, the frame key, and the key-store change; SCRAP erases both
copies. -/
def enterLifecycle (target : Nat) (s : State) : State :=
  let held := keySetBits s
  let s := drawFrameKey 2 (dropKeys 3 2 (endSessions 2 (wipeKeys 1 s)))
  let s := if held = 0 then s else tellKeysLost held 1 s
  let s := changeKeys (.lifecycle target) s
  if target = 4 then changeKeys (.lifecycle 4) s else s

end Sys2Proof.Machine
end

