-- ==== Sys2Proof/Machine/Firmware.lean ====
section
/-! DEFINITION. Firmware (17): the slots and what the boot ROM does (R438 to R440), the staged image and its check (R439, R441),
activation (R442, R443), confirmation (R444), and restarts of Stag (R38, R427, R428, R440).  Of a slot the model keeps what these
rules ask of its bytes (log entry 6). -/

namespace Sys2Proof.Machine

/-! ### Slots -/

/-- A firmware slot, A or B. -/
def fwSlot (s : State) (b : Bool) : FwSlot := if b then s.stag.slotB else s.stag.slotA

/-- A firmware slot replaced. -/
def setFwSlot (b : Bool) (x : FwSlot) (s : State) : State :=
  if b then { s with stag.slotB := x } else { s with stag.slotA := x }

/-- Code of a slot in events and FW_SLOT. -/
abbrev fwCode (b : Bool) : Nat := if b then 2 else 1

/-- Bytes of a slot's region in the directory; 0 where it has none (R438). -/
def fwRoom (s : State) (b : Bool) : Nat := match region s (fwCode b) with
  | some (_, n) => n
  | none => 0

/-- Value of tally counter 0, ROLLBACK. -/
def rollbackCount (s : State) : Nat := mget 0 s.pstore.tally 0

/-- RESULT of a slot's image (R439). -/
def fwResult (s : State) (b : Bool) : Nat :=
  let x := fwSlot s b
  if fwRoom s b < 0x420000 then 7
  else if x.result ≠ 0 then x.result
  else if x.rollback < rollbackCount s then 6 else 0

/-- Why a slot is not bootable, 0 where it is: as RESULT, 9 not activated, 10 attempts used (R439, Table 17.6). -/
def fwRefusal (s : State) (b : Bool) : Nat :=
  let x := fwSlot s b
  if fwResult s b ≠ 0 then fwResult s b
  else if !x.actOk || !x.commit then 9
  else if decide (3 ≤ x.attempts) && !x.confirmed then 10 else 0

/-- Is a slot bootable? -/
def bootable (s : State) (b : Bool) : Bool := fwRefusal s b == 0

/-- The slot that the boot ROM chooses: the bootable one with the higher ACT_SEQUENCE, A where they are equal (R440). -/
def chooseSlot (s : State) : Option Bool :=
  match bootable s false, bootable s true with
  | true, true => some (decide ((fwSlot s false).actSeq < (fwSlot s true).actSeq))
  | true, false => some false
  | false, true => some true
  | false, false => none

/-- One element of an array result, where it differs. -/
def changeAt (h p i v : Nat) (s : State) : State := if res s h p i = v then s else setResAt h p i (v : Int) s

/-- SLOT_STATE of a slot. -/
def fwState (x : FwSlot) : Nat :=
  (if x.actOk && x.commit then 1 else 0) + (if x.confirmed then 2 else 0) + 4 * min 3 x.attempts

/-- SLOT_VERSION, SLOT_STATE and ROLLBACK_COUNT brought up to date. -/
def showFirmware (s : State) : State :=
  let s := [false, true].foldl (fun s b =>
    let i := if b then 1 else 0
    changeAt hUPDATE Par.UPDATE_SLOT_STATE i (fwState (fwSlot s b))
      (changeAt hUPDATE Par.UPDATE_SLOT_VERSION i (if fwResult s b = 0 then (fwSlot s b).version else 0) s)) s
  changeRes hUPDATE Par.UPDATE_ROLLBACK_COUNT (rollbackCount s) s

/-! ### The boot ROM -/

/-- Step 3 of R440: the body is loaded into BANK20, whole words of it no longer poisoned. -/
def loadBody (x : FwSlot) (s : State) : State :=
  let a := bankAddr 20 0
  let s := { s with
    sram.mem := storeBytes 0#8 s.sram.mem a (loadBytes 0#8 x.image 256 x.length)
    sram.poison := mdrop s.sram.poison a (a + x.length) }
  changeRes (hBANK 20) Par.BANK_POISONED (poisonedWords s 20) s

/-- Steps 2 and 3 of R440: the next ATTEMPT byte of a trial image is used, the image starts. -/
def startImage (b : Bool) (s : State) : State :=
  let x := fwSlot s b
  let n := if x.confirmed then 0 else x.attempts + 1
  let s := loadBody x (setFwSlot b { x with attempts := max x.attempts n } s)
  let s := { s with stag.slot := fwCode b, stag.trial := !x.confirmed, stag.trialSince := opSeconds s, stag.recovery := false }
  let s := changeRes hSTAG Par.STAG_FW_SLOT (fwCode b) (changeRes hSTAG Par.STAG_FW_VERSION x.version s)
  let s := showFirmware (changeRes hSTAG Par.STAG_FW_CONFIRMED (if x.confirmed then 1 else 0) s)
  raise 0x0C01 hSTAG ([fwCode b] ++ u32 x.version ++ [n]) s

/-- Step 4 of R440: recovery. -/
def enterRecovery (s : State) : State :=
  let s := { s with stag.slot := 0, stag.trial := false, stag.recovery := true }
  let s := changeRes hSTAG Par.STAG_FW_SLOT 0 (changeRes hSTAG Par.STAG_FW_VERSION 0 s)
  let s := showFirmware (changeRes hSTAG Par.STAG_FW_CONFIRMED 0 s)
  settle (raise 0x0C08 hSTAG [fwRefusal s false, fwRefusal s true] s)

/-- The boot ROM chooses, loads and starts an image (R440). -/
def bootFirmware (s : State) : State :=
  match chooseSlot s with
  | some b => startImage b s
  | none => enterRecovery s

/-! ### The staged image -/

/-- STATE of UPDATE. -/
def setUpdate (n : Nat) (s : State) : State := changeRes hUPDATE Par.UPDATE_STATE n s

/-- Bytes of the staged image. -/
def imageAt (s : State) (off n : Nat) : List Nat := loadBytes 0#8 s.stag.image off n

/-- RESULT of the staged image: the checks of R439 in their order, the length declared at BEGIN among them. -/
def imageCheck (s : State) : Nat :=
  let h := imageAt s 0 256
  let n := leNat (sub h 16 4)
  let signer := sub h 64 32
  if h.take 4 ≠ [0x4B, 0x4C, 0x46, 0x57] ∨ leNat (sub h 4 2) ≠ 1 then 1
  else if n = 0 ∨ 4194304 < n ∨ n ≤ leNat (sub h 20 4) ∨ s.stag.imageLen ≠ 256 + n then 2
  else if sha256 signer ≠ s.sec.rootHash then 4
  else if !ed25519Verify signer (h.take 128) (sub h 128 64) then 5
  else if sha256 (imageAt s 256 n) ≠ sub h 32 32 then 3
  else if leNat (sub h 12 4) < rollbackCount s then 6 else 0

/-- BEGIN: any staged image is discarded, an image of `n` bytes is received (R441). -/
def beginImage (n : Nat) (s : State) : State :=
  let s := changeRes hUPDATE Par.UPDATE_STAGED_VERSION 0 (changeRes hUPDATE Par.UPDATE_STAGED_ROLLBACK 0 s)
  setUpdate 1 { s with stag.imageLen := n, stag.image := [] }

/-- IMAGE: bytes within the image are placed, those beyond are a clamp (R45, R441). -/
def placeImage (off : Nat) (bs : List Nat) (s : State) : State :=
  let kept := bs.take (s.stag.imageLen - off)
  let s := { s with stag.image := storeBytes 0#8 s.stag.image off kept }
  if kept.length < bs.length then countClamp hUPDATE Par.UPDATE_IMAGE 7 s else s

/-- The check ends (R441). -/
def imageVerified (s : State) : State :=
  if res s hUPDATE Par.UPDATE_STATE ≠ 2 then s
  else
    let r := imageCheck s
    let h := imageAt s 0 256
    let v := leNat (sub h 8 4)
    let s := setRes hUPDATE Par.UPDATE_RESULT r (changeRes hUPDATE Par.UPDATE_STAGED_VERSION v s)
    let s := changeRes hUPDATE Par.UPDATE_STAGED_ROLLBACK (leNat (sub h 12 4)) s
    raise 0x0C03 hUPDATE ([r] ++ u32 v) (setUpdate (if r = 0 then 3 else 6) s)

/-! ### Activation -/

/-- The slot that an activation writes: the one not in force, A in recovery. -/
def targetSlot (s : State) : Bool := s.stag.slot == 1

/-- ACT_SEQUENCE of the next activation. -/
def nextActSeq (s : State) : Nat := match s.stag.slot with
  | 0 => 1
  | n => ((fwSlot s (n == 2)).actSeq + 1) % w32

/-- ACTIVATE begins (R442); with no room RESULT reads 7 and no flash is written. -/
def beginActivation (mode : Nat) (s : State) : State :=
  let b := targetSlot s
  let room := fwRoom s b
  if room < 0x420000 ∨ room < 0x10000 + s.stag.imageLen then setUpdate 6 (setRes hUPDATE Par.UPDATE_RESULT 7 s)
  else setUpdate 4 { s with stag.activation := some ⟨mode, 1, fwCode b⟩ }

/-- What an interrupted step leaves in the slot is open: the fields that it was writing are free. -/
def disturbSlot (a : Activation) (s : State) : State :=
  let b := a.slot == 2
  let x := fwSlot s b
  let (n, s) := draw s
  let x := match a.step with
    | 1 => { x with actOk := n.testBit 0, commit := n.testBit 1, attempts := n / 4 % 4, confirmed := n.testBit 4, actSeq := n / 32 % w32 }
    | 2 => { x with result := n % 6 }
    | 3 => { x with actOk := n.testBit 0, actSeq := n / 32 % w32 }
    | _ => { x with commit := n.testBit 0 }
  showFirmware (setFwSlot b x s)

/-- The activation goes on to its next step (R442). -/
def nextActivation (a : Activation) (s : State) : State :=
  showFirmware { s with stag.activation := some { a with step := a.step + 1 } }

/-- A map-flash operation of an activation ends: its next step, its end, or its failure with RESULT 8 (R442). -/
def flashDone (ok : Bool) (s : State) : State :=
  match s.stag.activation with
  | none => s
  | some a =>
    let b := a.slot == 2
    let x := fwSlot s b
    if !ok then
      let s := setUpdate 6 (setRes hUPDATE Par.UPDATE_RESULT 8 (disturbSlot a { s with stag.activation := none }))
      raise 0x0C05 hUPDATE [a.slot, a.step, 8] s
    else
      match a.step with
      | 1 => nextActivation a (setFwSlot b
          { x with actSeq := 0xFFFFFFFF, actOk := false, commit := false, attempts := 0, confirmed := false } s)
      | 2 =>
        let h := imageAt s 0 256
        nextActivation a (setFwSlot b { x with
          result := 0, version := leNat (sub h 8 4), rollback := leNat (sub h 12 4), length := leNat (sub h 16 4)
          image := s.stag.image } s)
      | 3 => nextActivation a (setFwSlot b { x with actSeq := nextActSeq s, actOk := true } s)
      | _ =>
        let s := showFirmware (setFwSlot b { x with commit := true } { s with stag.activation := none })
        raise 0x0C04 hUPDATE ([a.slot] ++ u32 x.version ++ u16 x.actSeq) (setUpdate 5 s)

/-! ### Confirmation -/

/-- The trial image is confirmed; tally counter 0 rises to its ROLLBACK (R444). -/
def confirmImage (s : State) : State :=
  if !s.stag.trial then s
  else
    let b := s.stag.slot == 2
    let x := fwSlot s b
    let s := setFwSlot b { x with confirmed := true } { s with stag.trial := false }
    let s := (List.range (x.rollback - rollbackCount s)).foldl (fun s _ => incTally 0 s) s
    let s := showFirmware (setRes hSTAG Par.STAG_FW_CONFIRMED 1 s)
    raise 0x0C06 hSTAG ([fwCode b] ++ u32 x.version ++ u16 x.rollback) s

/-! ### Restarts of Stag -/

/-- Does Stag run, not restarting? -/
def stagRuns (s : State) : Bool := s.stag.running && s.stag.restarting.isNone

/-- Stag restarts: causes 0 lockstep, 1 watchdog, 2 activation; 3 where a trial image has no attempt left (R38, R427, R428, R440). -/
def restartStag (cause : Nat) (s : State) : State :=
  if !stagRuns s then s
  else
    let x := fwSlot s (s.stag.slot == 2)
    let why := if cause ≤ 1 ∧ s.stag.trial = true ∧ 3 ≤ x.attempts then 3 else cause
    let s := incSat hSTAG Par.STAG_RESTARTS 1 { s with stag.restarting := some (why, s.now), stag.overflow := 0 }
    let s := match cause with
      | 0 => incSat hSTAG Par.STAG_LOCKSTEP_RESTARTS 1 s
      | 1 => incSat hSTAG Par.STAG_WATCHDOG_RESTARTS 1 s
      | _ => s
    if why ≤ 1 then
      let near := s.stag.restarts.filter fun t => decide (opSeconds s < t + 3600)
      settle { s with stag.restarts := near ++ [opSeconds s] }
    else s

/-- Longest restart, in ms: one that loads an image has 50 (R38, R443). -/
abbrev restartLimit (cause : Nat) : Nat := if cause ≤ 1 then 10 else 50

/-- What the boot ROM does in a restart of Stag (R440, R443). -/
def rebootImage (cause : Nat) (s : State) : State :=
  match cause with
  | 2 => bootFirmware s
  | 3 =>
    let b := s.stag.slot == 1
    if bootable s b then startImage b (raise 0x0C07 hSTAG [s.stag.slot, fwCode b] s) else enterRecovery s
  | _ => if s.stag.trial then startImage (s.stag.slot == 2) s else s

/-- A restart of Stag ends: event 0x0C02 first, then the events that waited (R38), then what the boot ROM tells.  Its duration is
free within its limit. -/
def stagRestarted (s : State) : State :=
  match s.stag.restarting with
  | none => s
  | some (cause, since) =>
    let (d, s) := draw s
    let s := advanceTo (since + d % (restartLimit cause * tickMs + 1)) s
    let ms := msSince s since
    let lost := s.stag.overflow
    let s := setRes hSTAG Par.STAG_LAST_RESTART_MS ms { s with stag.restarting := none, stag.overflow := 0 }
    let s := flushEvents (raise 0x0C02 hSTAG ([cause] ++ u16 ms ++ u32 lost) s)
    settle (rebootImage cause s)

end Sys2Proof.Machine
end

