-- ==== Sys2Proof/Machine/Power.lean ====
section
/-! DEFINITION. Power states, reset and start-up (19): what a restart keeps, cold start-up (R475 to R480), the entries to STANDBY and
OFF (R485 to R488), wakes (R489 to R492), resources that do not come up (R493, R494), the power-fail warning (R495), and the ports'
part in them (R479). -/

namespace Sys2Proof.Machine

/-! ### Control ports on and off -/

/-- CREDITS of a port brought up to date. -/
def showCredits (i : PortId) (s : State) : State := changeRes (portUnit i) Par.CTRLPORT_CREDITS (credits s i) s

/-- Credits that have risen are announced, as the port's transport does (R69, R72, R129). -/
def announceCredits (i : PortId) (s : State) : State :=
  let s := showCredits i s
  match i with
  | .host => s
  | .field => { s with ctrl.can := s.ctrl.can ++ [(1, [credits s .field])] }
  | .sideband => sendCredit s

/-- Does a port's ENABLE stand at 1?  The host port's always does (R79). -/
def portWanted (s : State) (i : PortId) : Bool := i == .host || cfgB s (portUnit i) Par.CTRLPORT_ENABLE

/-- A port begins to take frames; its next request may have any SEQ (R60, R479). -/
def enablePort (i : PortId) (s : State) : State :=
  let p := port s i
  if p.enabled || !portWanted s i then s
  else announceCredits i (setPort i { p with enabled := true, last := none, partialIn := none, castIn := none, unanswered := 0, closing := none } s)

/-- A port stops taking frames, its session kept: the entries to STANDBY and OFF. -/
def sleepPort (i : PortId) (s : State) : State :=
  showCredits i (setPort i { port s i with enabled := false, partialIn := none, castIn := none } s)

/-- A port is disabled by its ENABLE (R64, R79): what waits to leave it is discarded, and no request of it is unanswered (DESIGN
CHOICE: log entry 9). -/
def disablePort (i : PortId) (s : State) : State :=
  let s := endSession i 4 s
  showCredits i (setPort i { port s i with
    enabled := false, partialIn := none, castIn := none, challenge := none, outbound := [], unanswered := 0, lost := 0, ibi := none
    closing := none } s)

/-! ### Restarts -/

/-- What is left of the device while it is held in reset (R10, R377, R402, R413, R431, R438, R490): the persistent store, map
flash, the firmware slots and the fuses; but for power-on, UTC and what the always-on domain records.  A value held for the restart
is lost with every other value that no STORE has captured (R10; all settings of class rst are persistent: log entry 8); at a wake from OFF the events and the tamper steps that have waited too. -/
def resetState (cause : Nat) (s : State) : State :=
  let live := decide (cause ≠ 0)
  let r := State.reset
  { r with
    now := s.now, epoch := s.now, free := s.free, pending := s.pending, pins := s.pins
    pstore.mem := s.pstore.mem
    sec.huk := s.sec.huk, sec.rootHash := s.sec.rootHash, sec.venCopy := s.sec.venCopy, sec.lifecycle := s.sec.lifecycle
    sec.returnsLeft := s.sec.returnsLeft
    sec.deferred := if cause = 4 then s.sec.deferred else none
    stag.slotA := s.stag.slotA, stag.slotB := s.stag.slotB
    stag.utcBase := if live then utcNow s else 0
    stag.utcAt := s.now
    stag.utcValid := live && s.stag.utcValid
    stag.events := if cause = 4 then s.stag.events else []
    pipe.flash := s.pipe.flash, pipe.flashSize := s.pipe.flashSize
    resil.faults := if live then s.resil.faults else 0
    resil.held := if live then s.resil.faults else 0
    pstore.reinstated := s.pstore.reinstated
    resil.faultN := live && s.resil.faultN
    power.failed := live && s.power.failed
    power.cause := cause
    power.settings := if live then s.power.settings else r.power.settings
    power.state := if cause = 4 then s.power.state else r.power.state
    power.stateAt := s.now }

/-- LAST_RESOURCE is kept by the always-on domain (R493). -/
def keepResource (cause : Nat) (was s : State) : State :=
  if cause = 0 then s else changeRes hPWR Par.PWR_LAST_RESOURCE (res was hPWR Par.PWR_LAST_RESOURCE) s

/-- The device is held in reset (R476, R477): a program in progress is torn (R380), a firmware activation leaves its step open,
link keys are discarded (R422).  Table 16.5 has no cause for a restart in CP_KEYS_LOST: that byte is free. -/
def resetDevice (cause : Nat) (s : State) : State :=
  let s := match s.pstore.current with
    | some (p, _) => tearProgram p s
    | none => s
  let s := match s.stag.activation with
    | some a => disturbSlot a s
    | none => s
  let held := keySetBits s
  let r := keepResource cause s (resetState cause s)
  if held = 0 then r
  else
    let (c, r) := draw r
    tellKeysLost held (c % 256) (raise 0x0B09 hSEC [held, 0] r)

/-- POWER_ON_RESET: VAON falls below 1.60 V (R476). -/
def execPowerOnReset (s : State) : Host.Outcome State Fault Refusal := .next (resetDevice 0 s)

/-- RESET_N: low for 1 µs or more; reset holds until it has been high for 10 µs (R476). -/
def execResetN (s : State) : Host.Outcome State Fault Refusal :=
  .next (if s.power.phase = .reset then s else resetDevice 1 (advanceTo (s.now + 10 * tickUs) s))

/-! ### Sleep -/

/-- TRANSITION. -/
def setTransition (n : Nat) (s : State) : State := changeRes hDEV Par.DEV_TRANSITION n s

/-- Operating seconds stop, with the ticks of the second begun kept. -/
def stopOperating (s : State) : State :=
  if !s.stag.opRuns then s
  else { s with stag.opBase := opSeconds s, stag.opRuns := false, stag.opAt := (s.now - s.stag.opAt) % tickS }

/-- Operating seconds go on. -/
def runOperating (s : State) : State :=
  if s.stag.opRuns then s else { s with stag.opRuns := true, stag.opAt := s.now - s.stag.opAt }

/-- Step 5 of Table 19.6, or the last part of R486: everything but the always-on domain is off, and POWER_STATE changes. -/
def fallAsleep (off : Bool) (s : State) : State :=
  let s := panelDown (stopOperating s)
  let s := setTransition 0 { s with
    stag.running := false, sram.accessible := false, dram.ready := s.dram.ready && !off
    power.phase := .up, power.transition := none, power.waking := none, power.service := none, power.wakeStep := 0
    power.tries := 0, power.asleepAt := s.now, power.heldRequest := none, power.heldWake := none }
  enterState (if off then .off else .standby) s

/-! ### Wakes -/

/-- WAKE_SOURCE, WAKE_FROM, WAKE_UTC and WAKES (R490, Table 19.10). -/
def recordWake (n from_ : Nat) (s : State) : State :=
  let s := setRes hDEV Par.DEV_WAKE_SOURCE n (setRes hDEV Par.DEV_WAKE_FROM from_ s)
  let s := setRes hDEV Par.DEV_WAKE_UTC (if s.stag.utcValid then utcNow s else 0) s
  if n = 0 then s else incSatAt hPWR Par.PWR_WAKES (n - 1) 1 s

/-- Step 1 of Table 19.8: the reference starts, and VCORE is commanded at the value last commanded (R465). -/
def wakeBegins (s : State) : State :=
  { s with
    power.wakeStep := 1, power.wakeAt := s.now, power.tries := 0, power.refOk := false, power.vcoreOk := false
    resil.avs := some (s.resil.vcore, 0) }

/-- A wake from OFF is a restart with cause 4 (R491, R492). -/
def wakeFromOff (n : Nat) (service : Bool) (s : State) : State :=
  let s := recordWake n 4 (resetDevice 4 s)
  if service then { s with power.service := some n, power.serviceFrom := .off, power.wakeAt := s.now }
  else setTransition 3 { s with power.waking := some n, power.wakeAt := s.now }

/-- A full wake from STANDBY or OFF begins (R492). -/
def startWake (n : Nat) (s : State) : State :=
  match s.power.state with
  | .standby => wakeBegins (setTransition 3 (recordWake n 3 { s with power.waking := some n }))
  | .off => wakeFromOff n false s
  | _ => s

/-- A service wake from STANDBY or OFF begins (R491); source 0 for the entry to OFF from STANDBY (R486). -/
def startService (n : Nat) (s : State) : State :=
  match s.power.state with
  | .standby =>
    wakeBegins { (if n = 0 then s else recordWake n 3 s) with power.service := some n, power.serviceFrom := .standby }
  | .off => wakeFromOff n true s
  | _ => s

/-! ### Entries to STANDBY and OFF -/

/-- The step-1 record of an entry: TRANSITION, the count, event 0x0E07. -/
def noteEntry (off : Bool) (trigger : Nat) (s : State) : State :=
  let s := setTransition (if off then 2 else 1) (incWrap hPWR Par.PWR_TRANSITIONS 1 s)
  raise 0x0E07 hPWR [if off then 4 else 3, trigger] s

/-- Entry to OFF from STANDBY: a service wake first (R486). -/
def offFromStandby (trigger : Nat) (s : State) : State :=
  if s.power.state ≠ .standby ∨ s.power.transition.isSome ∨ s.power.waking.isSome ∨ s.power.service.isSome then s
  else startService 0 (noteEntry true trigger { s with power.transition := some { off := true, step := 0 } })

/-- An entry has ended: what was held applies, a wake before a request (R487). -/
def afterEntry (wake request : Option Nat) (s : State) : State :=
  match wake, request with
  | some n, _ => if n = 7 ∨ n = 8 then startService n s else startWake n s
  | none, some 0 => startWake 9 s
  | none, some 2 => offFromStandby 0 s
  | none, _ => s

/-- May an entry begin?  In RUN, SELF or HOLD from start-up step 6 on, with none under way. -/
def mayEnter (s : State) : Bool :=
  awake s && s.power.transition.isNone && s.power.service.isNone && !s.power.restarting && !s.power.warning
  && match s.power.phase with
    | .smallBank | .panelOn | .up => true
    | _ => false

/-- An entry to STANDBY or OFF begins (R485, R486): triggers 0 request, 1 idle timer, 2 thermal, 3 OFF timer.  A wake under way
ends. -/
def beginTransition (off : Bool) (trigger : Nat) (s : State) : State :=
  if !mayEnter s then s
  else noteEntry off trigger { s with power.transition := some { off := off }, power.waking := none, power.wakeStep := 0 }

/-- POWER_REQUEST. -/
def setRequest (n : Nat) (s : State) : State := setCfg hDEV Par.DEV_POWER_REQUEST 0 (n : Int) s

/-- An entry in step 1 is cancelled: causes 0 wake, 1 new request (R487). -/
def cancelEntry (t : Transition) (cause : Nat) (s : State) : State :=
  raise 0x0E09 hPWR [if t.off then 4 else 3, cause]
    (setRequest 0 (setTransition 0 { s with power.transition := none, power.heldRequest := none, power.heldWake := none }))

/-- Step 3 of Table 19.6: receivers and transmitters off, ports to their wake detectors, the margin period abandoned.  Entry to OFF
asks for the map save of R227 here. -/
def stepThree (t : Transition) (s : State) : State :=
  let s := sleepPort .host (sleepPort .field (sleepPort .sideband (othamOff (linkOff s))))
  let s := clearPeriod s
  if t.off && !t.back && cfgB s hCOMP Par.COMP_SAVE_ON_OFF then startSave s else s

/-- Repairs that an entry to OFF applies: those of channels that are not retired (R351). -/
def repairsDue (s : State) : Bool := s.pstore.repairs.any fun r => !(chan s r.1).felled

/-- Is the persistent-store queue empty, with nothing gathered (R382)? -/
def storeIdle (s : State) : Bool := s.pstore.queue.isEmpty && s.pstore.current.isNone && s.pstore.gathered.isEmpty

/-- May an entry leave step 4, with Stag there to save its context?  An entry to OFF waits for the activation, the map save and the repairs too (R486). -/
def stepFourDone (t : Transition) (s : State) : Bool :=
  storeIdle s && s.stag.restarting.isNone && (!t.off || t.back
    || (s.stag.activation.isNone && s.pipe.saving.isNone && !s.pipe.saveDue && !repairsDue s))

/-- Steps 4 and 5 of Table 19.6, as far as they have come. -/
def stepFour (t : Transition) (s : State) : State :=
  let s := flushGather { s with power.transition := some t }
  if !stepFourDone t s then s
  else
    let s := if t.off || (List.range 8).all (fun c => !(chan s c).service || (chan s c).selfRefresh) then s else enterSelfRefresh s
    afterEntry s.power.heldWake s.power.heldRequest (fallAsleep t.off s)

/-- A RESTART command goes on: the panel off, the store queue empty, then the restart (R497). -/
def advanceRestart (s : State) : State :=
  if !panelIsOff s then s
  else
    let s := flushGather s
    if storeIdle s then resetDevice 2 s else s

/-- An entry, or a restart by command, moves on where what it waits for has come. -/
def advanceEntry (s : State) : State :=
  if s.power.restarting then advanceRestart s
  else match s.power.transition with
  | none => s
  | some t => match t.step with
    | 2 => if panelIsOff s then stepFour { t with step := 4 } (stepThree t s) else s
    | 4 => stepFour t s
    | _ => s

/-- Step 1 of an entry ends: OFF_SEQ starts, at start-up once the small bank is loaded. -/
def leaveStepOne (s : State) : State :=
  match s.power.transition with
  | none => s
  | some t => if t.step = 1 ∧ s.power.phase ≠ .smallBank then advanceEntry (panelOff { s with power.transition := some { t with step := 2 } }) else s

/-- ON_SEQ has failed or a PGOOD was lost: STANDBY by steps 3 to 5 (R494, R296). -/
def failToStandby (s : State) : State :=
  let t : Transition := { off := false, step := 4 }
  stepFour t (stepThree t (setTransition 1 (incWrap hPWR Par.PWR_TRANSITIONS 1
    { s with power.transition := some t, power.waking := none, power.wakeStep := 0 })))

/-- What the end of a panel sequence moves on (R478, R486, R492, R494). -/
def afterPanel (s : State) : State :=
  match s.panel.ended with
  | none => advanceEntry s
  | some true =>
    let s := { s with panel.ended := none }
    if s.power.waking.isSome && !s.panel.rasterReached then setTransition 0 { s with power.waking := none } else s
  | some false =>
    let failing := s.panel.failing
    let s := { s with panel.ended := none, panel.failing := false }
    if s.power.restarting || s.power.transition.isSome || !failing then advanceEntry s else failToStandby s

/-- A write to POWER_REQUEST (R485 to R487): 0 ON, 1 STANDBY, 2 OFF. -/
def powerRequest (n : Nat) (s : State) : State :=
  let s := setRequest n s
  match s.power.transition with
  | some t =>
    if n = 0 ∧ t.step = 1 then cancelEntry t 1 s
    else if n = (if t.off then 2 else 1) then { s with power.heldRequest := none }
    else { s with power.heldRequest := some n }
  | none => match n with
    | 0 => s
    | 1 => beginTransition false 0 s
    | _ => beginTransition true 0 s

/-- A write to RESTART, once it has been answered (R497): the restart itself comes with a later step, so that the response can
leave. -/
def restartCommand (s : State) : State := panelOff { s with power.restarting := true }

/-- STANDBY_TIMER (R485). -/
def execStandbyTimer (s : State) : Host.Outcome State Fault Refusal :=
  .next (let n := cfg s hPWR Par.PWR_STANDBY_AFTER_S
    if n = 0 || !selfing s || !mayEnter s then s
    else beginTransition false 1 (advanceTo (s.power.quietAt + n * tickS) s))

/-- OFF_TIMER (R486). -/
def execOffTimer (s : State) : Host.Outcome State Fault Refusal :=
  .next (let n := s.power.settings.offAfter
    if n = 0 ∨ s.power.state ≠ .standby ∨ s.power.transition.isSome ∨ s.power.waking.isSome ∨ s.power.service.isSome then s
    else offFromStandby 3 (advanceTo (s.power.asleepAt + n * 60 * tickS) s))

/-! ### Start-up -/

/-- Results that stand at something other than 0 before their first new value: unknown, none, or all there is. -/
def firstResults : List (Nat × Nat × Nat × Int) :=
  (List.range 16).flatMap (fun n => [(hLANE n, Par.LANE_SOURCE_LANE, 0, 255), (hLANE n, Par.LANE_TX_TAPS, 1, 48),
    (hLINK, Par.LINK_LANE_MAP, n, 255)])
  ++ (List.range 8).map (fun st => (hTILE st 8, Par.TILE_SLACK_MIN, 0, 2147483647))
  ++ [(hLINK, Par.LINK_FIT_NEED_NS, 0, 65535), (hROWSET 0, Par.ROWSET_SENSE_ROW, 0, 65535),
    (hROWSET 1, Par.ROWSET_SENSE_ROW, 0, 65535), (hDRAM, Par.DRAM_RETIRED_CHANNEL, 0, 255),
    (hDRAM, Par.DRAM_USABLE_MIB, 0, 3840), (hSTAG, Par.STAG_VCORE_MV, 0, 900)]

/-- They stand so, with generation 0. -/
def putFirst (s : State) : State :=
  { s with dict.res := firstResults.foldl (fun m x => mput 0 m (cell x.1 x.2.1 x.2.2.1) x.2.2.2) s.dict.res }

/-- RESET_RELEASE: reset ends (R476, R478 step 1, R484). -/
def release (hostsel : Bool) (node : Nat) (xin : Bool) (s : State) : State :=
  let s := { s with
    pins := { hostsel := hostsel, node := node, xin := xin }
    epoch := s.now, power.phase := .reference, power.bootAt := s.now, power.quietAt := s.now, power.tries := 0
    dict.res := mput 0 s.dict.res (cell hSTAG Par.STAG_BOOT_ROM_VERSION 0) ((Config.bootRomVersion % w32 : Nat) : Int) }
  let s := putFirst s
  let s := setRes hDEV Par.DEV_RESTART_CAUSE s.power.cause s
  let s := setResList hPWR Par.PWR_STATE_SECONDS [0, 0, 0, 0, 0] (setRes hDEV Par.DEV_UTC_NOW (utcNow s) s)
  let s := changeRes hDEV Par.DEV_RETURNS_LEFT s.sec.returnsLeft (changeRes hDEV Par.DEV_LIFECYCLE s.sec.lifecycle s)
  let s := if s.power.state = .self then setRes hDEV Par.DEV_POWER_STATE 1 { s with power.stateAt := s.now } else enterState .self s
  raise 0x0E06 hPWR [s.power.cause, res s hDEV Par.DEV_WAKE_SOURCE] s

/-- RESET_RELEASE. -/
def execResetRelease (hostsel : Bool) (node : Nat) (xin : Bool) (s : State) : Host.Outcome State Fault Refusal :=
  .next (if s.power.phase = .reset then release hostsel node xin s else s)

/-- FIRMWARE_STARTED: the boot ROM has chosen and started an image, or is in recovery (R440). -/
def execFirmwareStarted (s : State) : Host.Outcome State Fault Refusal :=
  .next (if s.power.phase ≠ .bootRom then s
    else
      let v := match tallyValue (tallySlots s 0) with
        | some (_, v) => v
        | none => 0
      let s := { s with power.phase := .firmware, pstore.tally := mput 0 s.pstore.tally 0 v }
      bootFirmware { s with stag.running := true })

/-- A blaze record in force takes effect at a restart (R456). -/
def applyRecord (handle : Nat) (s : State) : State :=
  match classOf handle with
  | 14 =>
    let st := (handle - 0x0200) / 16
    let t := handle % 16
    if (List.range 9).any fun k => (tile s st k).felled then raise 0x0D0B hSTAG (u16 handle ++ [1]) s
    else
      let s := setTile st t { tile s st t with felled := true } s
      if t = 8 then s else { s with pipe.spare := mput none s.pipe.spare st (some t) }
  | 16 => showLane (handle - 0x0310) (setLane (handle - 0x0310) { lane s (handle - 0x0310) with retired := true } s)
  | 20 =>
    let p := (handle - 0x0500) / 2
    showPort p (setOlane p (handle % 2) { olane s p (handle % 2) with retired := true } s)
  | 35 =>
    let c := handle - 0x0910
    let s := setChan c { chan s c with felled := true } { s with dram.retired := some c }
    showChan c 5 (setRes hDRAM Par.DRAM_USABLE_MIB 3360 (setRes hDRAM Par.DRAM_RETIRED_CHANNEL c s))
  | 37 => s
  | _ => raise 0x0D0B hSTAG (u16 handle ++ [0]) s

/-- The records in force, each handle once, in the order of its record in force; then the reinstatements that take effect (R456, R471). -/
def applyBlaze (s : State) : State :=
  let l := s.pstore.blaze
  let now_ := l.zipIdx.filter fun x => x.1.2.1 == 1
    && (l.drop (x.2 + 1)).all fun y => y.1 != x.1.1 || y.2.2 != x.1.2.2 || (y.2.1 != 1 && y.2.1 != 3)
  let s := now_.foldl (fun s x => applyRecord x.1.1 s) s
  (s.pstore.reinstated.filter fun h => !inForce s h).foldl (fun s h => raise 0x0D0C hSTAG (u16 h) s)
    { s with pstore.reinstated := [] }

/-- The image's vb values apply as one commit without a tag, the joint clamp included (R389). -/
def applyImage (s : State) : State :=
  let (patch, s) := clampPatch s.dict.patch s
  applyCommit ⟨none, patch, 0⟩ (clearShadow s)

/-- Operating seconds start (R430). -/
def startOperating (last : Option Nat) (s : State) : State :=
  let minutes := 60 * mget 0 s.pstore.tally 1
  let base := match last with
    | some t => max minutes (t + 1)
    | none => minutes
  { s with stag.opBase := base, stag.opAt := s.power.bootAt, stag.opRuns := true, stag.caughtUp := false }

/-- Step 5 of Table 19.3 begins: VCORE 0.90 V and its search, DRAM training (R345, R465). -/
def beginTraining (s : State) : State :=
  let s := commandVcore 900 { s with power.phase := .dramTraining, power.tries := 0, resil.searching := true }
  (List.range 8).foldl (fun s c => if (chan s c).felled then s
    else showChan c 3 (setChan c { chan s c with powered := true } s)) s

/-- What a service wake logs and notifies (R491): the tamper steps that waited, and the wake. -/
def tellService (s : State) : State :=
  match s.power.service with
  | none => s
  | some n =>
    let s := tamperLate s
    if n = 0 then s else raise 0x0E02 hPWR ([n, powerCode s.power.serviceFrom] ++ u16 0xFFFF) s

/-- The identity entries of Table 17.7: from the identity record, zero where it is not valid (R437, R446). -/
def showIdentity (s : State) : State :=
  let b := if s.pstore.identityOk then storeAt s 0 40 else List.replicate 40 0
  let s := setResList hDEV Par.DEV_UID ((sub b 32 8).map Int.ofNat) s
  let s := bumpGen hDEV Par.DEV_LOT (bumpGen hDEV Par.DEV_STEPPING (setRes hDEV Par.DEV_WAFER (b.getD 14 0) s))
  let s := setResList hDEV Par.DEV_DIE_XY [toSigned 8 (b.getD 15 0), toSigned 8 (b.getD 16 0)] s
  setRes hDEV Par.DEV_GRADE (if b.getD 24 0 = 0x58 then 1 else 0) (setRes hDEV Par.DEV_TEST_DATE (leNat (sub b 18 4)) s)

/-- The field port's node ID (R72). -/
def showNode (s : State) : State :=
  setRes hFIELDPORT Par.CTRLPORT_NODE_ID (min 127 (1 + s.pins.node + cfg s hFIELDPORT Par.CTRLPORT_NODE_OFFSET)) s

/-- The records are read and the store serves: WEAR, the events that waited, blaze records, key store, frame key; `h` is the newest
record's number (R38, R398). -/
def storeServes (h : Nat) (s : State) : State :=
  let s := { s with dram.order := cfg s hDRAM Par.DRAM_MAP_ORDER, dram.grain := cfg s hDRAM Par.DRAM_GRAIN, pstore.read := true }
  let s := flushEvents (raise 0x0908 hPSTORE (u32 h) s)
  let s := updateWear (incTally 2 s)
  drawFrameKey 0 (readKeyStore (applyBlaze s))

/-- The entries that follow from what the store holds stand. -/
def storeShown (s : State) : State :=
  let s := showFirmware (showSlots (showGeometry { s with raster.mode := modeNow s }))
  let s := showPass { s with pipe.passP := passLength s }
  let s := stressRateCheck (keepWake (chooseRate s))
  let s := showNode (showIdentity ((List.range 8).foldl (fun s st => showSpare st s) s))
  let s := showClocks (setRes hDEV Par.DEV_OP_SECONDS (opSeconds s % w32) s)
  settle (unitsUp 0x2E3 (if selfRate s ≤ 10 * 65536 then enterState .hold s else s))

/-- STORE_READ_DONE (R389, R395, R398, R430, R456): the store is read, the dictionary restored, Stag can log. -/
def storeRead (s : State) : State :=
  let (h, last, s) := readLog (readImage (readTallies (readRepairs (readBlaze (readIdentity s)))))
  storeShown (storeServes h (applyImage (startOperating last s)))

/-- STORE_READ_DONE: DRAM training follows, but for a service wake from OFF, which only logs its cause (R491). -/
def execStoreReadDone (s : State) : Host.Outcome State Fault Refusal :=
  .next (if s.power.phase ≠ .firmware then s
    else
      let s := storeRead s
      if s.power.service.isSome then tellService { s with power.phase := .storeRead } else beginTraining (tamperLate s))

/-- The end of a channel's training (R345). -/
def channelTrained (r : ChannelReport) (s : State) : State :=
  let x := chan s r.channel
  if x.felled then s
  else match r.failed with
    | none =>
      let s := showChan r.channel 1 (setChan r.channel { x with
        powered := true, service := true, failed := false, attempts := 0, drift := 0, trainedAt := s.now } s)
      raise 0x0701 (hDCH r.channel) ([r.channel, r.attempts] ++ u16 (min 65535 r.ms)) s
    | some step => retireChannel r.channel 0 (raise 0x0702 (hDCH r.channel) [r.channel, step] s)

/-- Step 6 of Table 19.3, once training and search are done: the ports, the link, and PWR reads GOOD again (R479, R493). -/
def afterTraining (s : State) : State :=
  if s.power.phase ≠ .dramTraining || !s.dram.ready || s.resil.searching || s.resil.avs.isSome then s
  else
    let s := settle (unitsUp 0x810 { s with power.phase := .smallBank, power.failed := false, power.tries := 0 })
    let s := enterDetect 0 s
    enablePort .sideband (enablePort .field (enablePort .host (setRequest 0 s)))

/-- DRAM_TRAINING_DONE: a channel that the command does not report has trained at its first attempt; a repair that is pending comes
first (R345, R351). -/
def execDramTrainingDone (rs : List ChannelReport) (s : State) : Host.Outcome State Fault Refusal :=
  .next (if s.power.phase ≠ .dramTraining ∨ s.dram.ready = true ∨ repairsDue s = true then s
    else
      let s := (List.range 8).foldl (fun s c =>
        channelTrained ((rs.find? fun r => r.channel == c).getD { channel := c, attempts := 1 }) s) { s with dram.ready := true }
      let s := (List.range 8).foldl (fun s c => setResList (hDCH c) Par.DCH_REPAIRS_LEFT
        ((List.range 16).map fun b => ((Config.dieRepairs c b - mget 0 (chan s c).used b : Nat) : Int)) s) s
      afterTraining (showChannels s))

/-- SMALL_BANK_LOADED: the small bank's items are in force, ON_SEQ and the row streams start (R226, R478); in recovery the panel stays
off (R440). -/
def execSmallBankLoaded (s : State) : Host.Outcome State Fault Refusal :=
  .next (if s.power.phase ≠ .smallBank then s
    else
      let s := loadSmallBank false { s with power.phase := .panelOn, resil.periodAt := s.now }
      if s.stag.recovery || s.power.restarting || s.power.warning then s else afterPanel (panelOn s))

/-! ### VCORE -/

/-- The step of R465's search: at a restart, 5 mV less while every margin stays at or above MARGIN_LOWER; the step that goes
below it is taken back. -/
def vcoreSearch (s : State) : State :=
  if !s.resil.searching ∨ s.resil.avs.isSome then s
  else
    let l := margins s (required s (modeNow s)) (·.last) s.pipe.standLast
    if l.any fun x => decide (x.2 < cfg s hSTAG Par.STAG_MARGIN_LOWER) then
      let s := { s with resil.searching := false }
      if s.resil.vcore < 900 then commandVcore (s.resil.vcore + 5) s else s
    else if s.resil.vcore ≤ cfg s hSTAG Par.STAG_VCORE_FLOOR then { s with resil.searching := false }
    else commandVcore (s.resil.vcore - 5) s

/-- VCORE_SEARCH_STEP. -/
def execVcoreSearchStep (s : State) : Host.Outcome State Fault Refusal := .next (afterTraining (vcoreSearch s))

/-! ### Table 19.8 -/

/-- Step 2 of Table 19.8, once the reference and VCORE are ready: in a full wake POWER_STATE reads SELF, or HOLD (R484). -/
def advanceWake (s : State) : State :=
  if s.power.wakeStep ≠ 1 || !s.power.refOk || !s.power.vcoreOk then s
  else
    let s := { s with power.wakeStep := 2, power.tries := 0, sram.accessible := true }
    if s.power.waking.isNone then s
    else runOperating (enterState (if selfRate s ≤ 10 * 65536 then .hold else .self) s)

/-- Step 5 of Table 19.8, once DRAM is out of self-refresh: ON_SEQ. -/
def lastWakeStep (s : State) : State :=
  if s.power.wakeStep ≠ 4 || s.power.waking.isNone || (List.range 8).any (fun c => (chan s c).service && (chan s c).selfRefresh) then s
  else
    let s := { s with power.wakeStep := 0 }
    if s.stag.recovery then s else afterPanel (panelOn s)

/-- Step 4 of Table 19.8: ports, link, POWER_REQUEST; the margin periods and the fast rise begin afresh (R466, R493). -/
def wakeStepFour (s : State) : State :=
  let s := settle { s with
    power.wakeStep := 4, power.failed := false, resil.periodAt := s.now, resil.lastRise := none, resil.low := 0 }
  let s := enterDetect 0 (setRequest 0 s)
  lastWakeStep (enablePort .sideband (enablePort .field (enablePort .host s)))

/-- Step 3 of Table 19.8: Stag runs again; what waited is logged (R485, R491). -/
def stagResumes (s : State) : State :=
  let s := flushEvents { s with power.wakeStep := 3, power.tries := 0, stag.running := true }
  if s.power.waking.isSome then wakeStepFour (tamperLate s)
  else
    let s := settle (tellService { s with power.failed := false })
    match s.power.transition with
    | some t => if t.step = 0 then
        let t := { t with step := 4 }
        stepFour t (if cfgB s hCOMP Par.COMP_SAVE_ON_OFF then startSave s else s)
      else s
    | none => s

/-- DOMAIN_POWER_GOOD: of an on-die domain, or with `dram` of the DRAM dies, which a wake from STANDBY never switched off. -/
def execDomainPowerGood (dram : Bool) (s : State) : Host.Outcome State Fault Refusal :=
  .next (if s.power.wakeStep = 2 ∧ dram = false then stagResumes s else s)

/-- REFERENCE_READY: step 2 of Table 19.3, or the reference of a wake. -/
def execReferenceReady (s : State) : Host.Outcome State Fault Refusal :=
  .next (if s.power.phase = .reference then initSram { s with power.phase := .bootRom, power.tries := 0 }
    else if s.power.wakeStep = 1 then advanceWake { s with power.refOk := true } else s)

/-- AVS_STATUS: the regulator reports a voltage (R464). -/
def execAvsStatus (mv : Nat) (s : State) : Host.Outcome State Fault Refusal :=
  .next (match s.resil.avs with
    | none => s
    | some (t, _) =>
      if t ≠ mv then s
      else
        let s := vcoreConfirmed mv s
        if s.power.wakeStep = 1 then advanceWake { s with power.vcoreOk := true } else afterTraining s)

/-- AVS_TIMEOUT: a VCORE write is not confirmed within 100 µs (R464). -/
def execAvsTimeout (s : State) : Host.Outcome State Fault Refusal :=
  .next (let s := vcoreMissed s
    if s.power.wakeStep = 1 then s else afterTraining s)

/-- SELF_REFRESH_EXIT: a channel's exit is complete (R348), and the wake moves on. -/
def execSelfRefreshExit (c ns : Nat) (s : State) : Host.Outcome State Fault Refusal :=
  .next (if fabricOn s then lastWakeStep (applyHeldResults (leaveSelfRefresh c ns s)) else s)

/-- ROW_REPAIRED: before training at start-up, or in an entry to OFF (R351). -/
def execRowRepaired (c bk row : Nat) (s : State) : Host.Outcome State Fault Refusal :=
  .next (let due := (s.power.phase == .dramTraining && !s.dram.ready)
      || match s.power.transition with
        | some t => t.off && t.step == 4 && !t.back
        | none => false
    if due then advanceEntry (repairRow c bk row s) else s)

/-! ### Wake sources -/

/-- Is a source of Table 19.7 enabled, by the always-on domain's copies (R490)? -/
def sourceEnabled (w : WakeCfg) (n : Nat) : Bool :=
  match n with
  | 1 => w.enable.testBit 0
  | 2 => w.aux
  | 3 => w.enable.testBit 1
  | 4 => w.enable.testBit 2
  | 5 => w.enable.testBit 3
  | 6 => decide (w.timer ≠ 0)
  | _ => false

/-- A second wake within one period of the always-on oscillator: the lower code is the one recorded (R490). -/
def alsoWakes (n : Nat) (s : State) : State :=
  match s.power.waking with
  | none => s
  | some k =>
    if k ≤ n ∨ s.power.wakeAt + Config.oscTicks ≤ s.now then s
    else
      let s := setRes hDEV Par.DEV_WAKE_SOURCE n { s with power.waking := some n }
      incSatAt hPWR Par.PWR_WAKES (n - 1) 1
        (setResAt hPWR Par.PWR_WAKES (k - 1) (resI s hPWR Par.PWR_WAKES (k - 1) - 1) s)

/-- A full wake is detected (R487, R490): it cancels an entry in step 1, waits for the end of a later one, turns a service wake
into a full wake, or begins. -/
def fullWake (n : Nat) (s : State) : State :=
  match s.power.transition with
  | some t =>
    if t.step = 1 then cancelEntry t 0 s
    else match s.power.heldWake with
      | some k => if k = 7 ∨ k = 8 then { s with power.heldWake := some n } else s
      | none => { s with power.heldWake := some n, power.heldRequest := none }
  | none =>
    if s.power.waking.isSome then alsoWakes n s
    else match s.power.service with
      | some _ =>
        let s := incSatAt hPWR Par.PWR_WAKES (n - 1) 1 (setTransition 3
          { s with power.service := none, power.waking := some n, power.wakeAt := s.now })
        if s.power.serviceFrom = .off then (if s.power.phase = .storeRead then beginTraining s else s)
        else
          let s := if 2 ≤ s.power.wakeStep then
              runOperating (enterState (if selfRate s ≤ 10 * 65536 then .hold else .self) s) else s
          if s.power.wakeStep = 3 then wakeStepFour s else s
      | none => startWake n s

/-- Do the wake detectors of Table 19.7 watch: asleep, or on the way there? -/
def watching (s : State) : Bool :=
  s.power.state == .standby || s.power.state == .off || s.power.transition.isSome || s.power.service.isSome

/-- FULL_WAKE, by a detector (sources 1 to 5); the timer has WAKE_TIMER, and source 9 comes of a request. -/
def execFullWake (n : Nat) (s : State) : Host.Outcome State Fault Refusal :=
  .next (if decide (n = 0 ∨ 5 < n) || !sourceEnabled s.power.settings n || !watching s || s.power.phase == .reset then s else fullWake n s)

/-- WAKE_TIMER: counted from the end of the entry (R489). -/
def execWakeTimer (s : State) : Host.Outcome State Fault Refusal :=
  .next (if !sourceEnabled s.power.settings 6 || (s.power.state != .standby && s.power.state != .off)
      || s.power.waking.isSome then s
    else fullWake 6 (advanceTo (s.power.asleepAt + s.power.settings.timer * tickS) s))

/-- SERVICE_WAKE: 7 thermal, 8 tamper (R489, R491).  During an entry to OFF it waits; while the fabric is on Stag needs no wake. -/
def execServiceWake (n : Nat) (s : State) : Host.Outcome State Fault Refusal :=
  .next (if (n ≠ 7 ∧ n ≠ 8) ∨ (n = 8 ∧ s.sec.deferred = none) then s
    else match s.power.transition with
    | some t => if t.off && s.power.heldWake.isNone then { s with power.heldWake := some n } else s
    | none =>
      if s.power.waking.isSome || s.power.service.isSome || s.power.phase == .reset then s
      else startService n s)

/-- SERVICE_WAKE_TIMEOUT: 1 s without a full wake; back by steps 3 to 5 of Table 19.6, or the last part of R486 (R491). -/
def execServiceWakeTimeout (s : State) : Host.Outcome State Fault Refusal :=
  .next (match s.power.service, s.power.transition with
    | some n, none =>
      if n = 0 then s
      else
        let s := advanceTo (s.power.wakeAt + tickS) s
        let s := raise 0x0E0A hPWR [n, powerCode s.power.serviceFrom] s
        stepFour { off := s.power.serviceFrom == .off, step := 4, back := true } s
    | _, _ => s)

/-! ### Resources -/

/-- Codes of `0060:403`. -/
def resourceCode : Resource → Nat
  | .reference => 1
  | .pll => 2
  | .vcore => 3
  | .domainSwitch => 4
  | .dramSwitch => 5

/-- Does the state change under way wait for a resource? -/
def awaitsResource (s : State) (r : Resource) : Bool :=
  match s.power.phase, s.power.wakeStep with
  | .reference, _ => r == .reference || r == .pll || r == .domainSwitch
  | .dramTraining, _ => (r == .vcore && s.resil.avs.isSome) || (r == .dramSwitch && !s.dram.ready)
  | .up, 1 | .panelOn, 1 => (r == .reference && !s.power.refOk) || (r == .vcore && !s.power.vcoreOk)
  | .up, 2 | .panelOn, 2 => r == .pll || r == .domainSwitch
  | _, _ => false

/-- The third attempt has failed too (R493): back to STANDBY from a wake out of it, else to OFF. -/
def resourceFails (r : Resource) (s : State) : State :=
  let off := decide (s.power.wakeStep = 0)
  let c := resourceCode r
  let s := incSat hPWR Par.PWR_RESOURCE_FAILS 1 (setRes hPWR Par.PWR_LAST_RESOURCE c s)
  let s := fallAsleep off { s with power.failed := true, resil.avs := none, resil.searching := false }
  settle (raise 0x0E04 hPWR [c, if off then 4 else 3] s)

/-- RESOURCE_READY_TIMEOUT: not ready within 20 ms (R493). -/
def execResourceReadyTimeout (r : Resource) (s : State) : Host.Outcome State Fault Refusal :=
  .next (if !awaitsResource s r then s
    else if s.power.tries < 2 then
      let s := { s with power.tries := s.power.tries + 1 }
      let s := if r = .vcore then { s with resil.avs := some (s.resil.vcore, 0) } else s
      raise 0x0E03 hPWR [resourceCode r, s.power.tries + 1] s
    else resourceFails r s)

/-! ### Power fail -/

/-- The log page that R381 still programs: the newest queued, where no program is in progress. -/
def lastProgram (s : State) : State :=
  if s.pstore.current.isSome then s
  else match (s.pstore.queue.filter fun p => p.cls == 4).getLast? with
    | none => s
    | some p => { s with pstore.current := some (p, false), pstore.queue := s.pstore.queue.erase p }

/-- POWER_FAIL_WARNING: VAON below 1.71 V for 2 µs, and not below 1.50 V, which is a tamper (R381, R495). -/
def execPowerFailWarning (mv : Nat) (s : State) : Host.Outcome State Fault Refusal :=
  .next (if s.power.warning || s.power.phase == .reset || decide (mv < 1500) || decide (1710 ≤ mv) then s
    else
      let s := if panelDomainOn s then panelEmergency s else s
      let s := { s with power.warning := true, pstore.warned := true }
      let s := lastProgram (flushGather (raise 0x0E05 hPWR (u16 mv ++ [powerCode s.power.state]) s))
      setTransition 0 { s with
        power.transition := none, power.waking := none, power.heldRequest := none, power.heldWake := none
        power.restarting := false, power.wakeStep := 0 })

/-- POWER_FAIL_RECOVERY: VAON back for 10 ms: a restart with cause 3 (R495). -/
def execPowerFailRecovery (s : State) : Host.Outcome State Fault Refusal :=
  .next (if s.power.warning then resetDevice 3 (advanceTo (s.now + 10 * tickMs) s) else s)

end Sys2Proof.Machine
end

