-- ==== Sys2Proof/Machine/PanelRows.lean ====
section
/-! DEFINITION. The commands of panel power (11): PGOOD pins (R294, R296), the waits of a sequence (R294, R295), PMBus (R293), the
references and the pump (R291, R292), DISCHARGE (R298), and the driver's STATUS and the port training timer, which the OTHAM step waits
for.  Each may end a sequence, which moves the power states on. -/

namespace Sys2Proof.Machine

/-- PGOOD_CHANGE: a pin changes level (R294). -/
def execPgoodChange (pin : Nat) (level : Bool) (s : State) : Host.Outcome State Fault Refusal :=
  .next (if 5 < pin ∨ s.panel.pgood.testBit pin = level then s
    else
      let v := if level then s.panel.pgood + 2 ^ pin else s.panel.pgood - 2 ^ pin
      let s := changeRes hPANELPWR Par.PANELPWR_PGOOD v
        { s with panel.pgood := v, panel.fellAt := mput 0 s.panel.fellAt pin (if level then 0 else s.now) }
      match s.panel.seq with
      | some q => if q.wait = .pin pin level then afterPanel (afterWait (beginDelay q s)) else s
      | none => s)

/-- A monitored pin has been low for 10 µs (R296). -/
def pgoodLost (pin : Nat) (s : State) : State :=
  if !s.panel.watched.testBit pin || !(cfg s hPANELPWR Par.PANELPWR_PGOOD_MONITOR).testBit pin || s.panel.pgood.testBit pin then s
  else
    let s := advanceTo (mget 0 s.panel.fellAt pin + 10 * tickUs) s
    let s := raise 0x0505 hPANELPWR [pin] (incSat hPANELPWR Par.PANELPWR_PGOOD_LOSSES 1 s)
    afterPanel (runSeq seqFuel (beginSeq true { panelFails s with panel.failing := true }))

/-- PGOOD_LOST (R296). -/
def execPgoodLost (pin : Nat) (s : State) : Host.Outcome State Fault Refusal := .next (pgoodLost pin s)

/-- SEQ_DELAY_EXPIRY: a step's DELAY ends (R294). -/
def execSeqDelayExpiry (s : State) : Host.Outcome State Fault Refusal :=
  .next (match s.panel.seq with
    | some q => if q.wait = .delay then afterPanel (nextStep (advanceTo (q.since + seqByte q 7 * 400000) s)) else s
    | none => s)

/-- The cause of 0x0503 and 0x0504 for a wait that reaches its limit; none where no limit applies (R295). -/
def waitCause (q : SeqRun) : Option Nat :=
  match q.wait with
  | .delay => none
  | .pin _ _ => some 0
  | .action =>
    if seqDoes q = 0x0A ∨ seqDoes q = 0x0C then none else if isPmb (seqDoes q) then some 1 else some 2

/-- SEQ_STEP_TIMEOUT: a wait reaches STEP_TIMEOUT (R295). -/
def execSeqStepTimeout (s : State) : Host.Outcome State Fault Refusal :=
  .next (match s.panel.seq with
    | none => s
    | some q => match waitCause q with
      | none => s
      | some c => afterPanel (stepFails c (advanceTo (q.since + cfg s hPANELPWR Par.PANELPWR_STEP_TIMEOUT * tickMs) s)))

/-- The cause of event 0x0506. -/
def pmbusCause : PmbusResult → Nat
  | .pec => 1
  | .low => 2
  | _ => 0

/-- PMBUS_WRITE_DONE (R293): a PEC counts only where PMBUS_PEC is 1. -/
def execPmbusWriteDone (r : PmbusResult) (s : State) : Host.Outcome State Fault Refusal :=
  .next (match s.panel.pmbus with
    | none => s
    | some p =>
      if p.failedAt.isSome then s
      else if r = .ack ∨ (r = .pec ∧ cfgB s hPANELPWR Par.PANELPWR_PMBUS_PEC = false) then
        afterPanel (actionDone { s with panel.pmbus := none })
      else if p.tries < 2 then { s with panel.pmbus := some { p with failedAt := some s.now } }
      else
        let s := incSat hPANELPWR Par.PANELPWR_PMBUS_ERRORS 1 s
        afterPanel (stepFails 1 (raise 0x0506 hPANELPWR [p.address, p.command, pmbusCause r] s)))

/-- PMBUS_RETRY_TIMER: 1 ms after the failure the write is made again (R293). -/
def execPmbusRetryTimer (s : State) : Host.Outcome State Fault Refusal :=
  .next (match s.panel.pmbus with
    | none => s
    | some p => match p.failedAt with
      | none => s
      | some t => { advanceTo (t + tickMs) s with panel.pmbus := some { p with tries := p.tries + 1, failedAt := none } })

/-- REF_SETTLED: every enabled output is within 1 % (Table 11.4, REF_ON). -/
def execRefSettled (s : State) : Host.Outcome State Fault Refusal :=
  .next (if stepAwaits s 0x06 then afterPanel (actionDone s) else s)

/-- MET_AFTER_1_MS: REF_OFF and PUMP_OFF (Table 11.4). -/
def execMetAfter1Ms (s : State) : Host.Outcome State Fault Refusal :=
  .next (match s.panel.seq with
    | none => s
    | some q => if stepAwaits s 0x07 || stepAwaits s 0x09 then afterPanel (actionDone (advanceTo (q.since + tickMs) s)) else s)

/-- PUMP_OUT_OF_REGULATION: SREF_N more than 100 mV off for 100 µs while it was regulating (R292). -/
def execPumpOutOfRegulation (mv : Int) (s : State) : Host.Outcome State Fault Refusal :=
  .next (if s.panel.pump ≠ 2 then s
    else
      let s := setPump 3 (setResI hREFLADDER Par.REFLADDER_SREF_N_MEAS mv s)
      raise 0x050B hREFLADDER (s16 (cfgI s hREFLADDER Par.REFLADDER_SREF_N_MV) ++ s16 mv) s)

/-- PUMP_REGULATING: within 10 mV for 1 ms (R292). -/
def execPumpRegulating (mv : Int) (s : State) : Host.Outcome State Fault Refusal :=
  .next (if s.panel.pump ≠ 1 ∧ s.panel.pump ≠ 3 then s
    else
      let s := raise 0x050C hREFLADDER (s16 mv) (setPump 2 (setResI hREFLADDER Par.REFLADDER_SREF_N_MEAS mv s))
      if stepAwaits s 0x08 then afterPanel (actionDone s) else s)

/-- DISCHARGE_HOLD_END (R298). -/
def execDischargeHoldEnd (s : State) : Host.Outcome State Fault Refusal :=
  .next (match s.panel.holdAt with
    | none => s
    | some t =>
      let s := { advanceTo (t + cfg s hPANELPWR Par.PANELPWR_DISCH_ALL_MS * tickMs) s with panel.holdAt := none }
      if stepAwaits s 0x0C then afterPanel (actionDone s) else s)

/-- A reading of AVDD_REF (R290, R291). -/
def avddSample (mv : Nat) (s : State) : State :=
  let s := { s with panel.avddAt := some s.now }
  let s := clipRefs (setRes hREFLADDER Par.REFLADDER_AVDD_REF_MV mv s)
  if mv < 4900 ∨ 6200 < mv then
    let since := s.panel.avddBad.getD s.now
    let s := { s with panel.avddBad := some since, panel.avddOk := none }
    if s.panel.avddLimited || decide (s.now < since + tickMs) then s
    else raise 0x0509 hREFLADDER (u16 mv) { s with panel.avddLimited := true }
  else
    let since := s.panel.avddOk.getD s.now
    let s := { s with panel.avddBad := none, panel.avddOk := some since }
    if s.now < since + 10 * tickMs then s else { s with panel.avddLimited := false }

/-- AVDD_REF_SAMPLE: every 1 ms (R291). -/
def execAvddRefSample (mv : Nat) (s : State) : Host.Outcome State Fault Refusal :=
  .next (if !panelDomainOn s then s
    else avddSample mv (match s.panel.avddAt with
      | some t => advanceTo (t + tickMs) s
      | none => s))

/-- DRIVER_STATUS: a driver's STATUS packet (R263, R264). -/
def execDriverStatus (p : Nat) (bs : List Block) (s : State) : Host.Outcome State Fault Refusal :=
  .next (afterPanel (othamStep (driverStatus p bs s)))

/-- OTHAM_TRAINING_TIMER: a port training phase reaches its time (R264). -/
def execOthamTrainingTimer (p : Nat) (s : State) : Host.Outcome State Fault Refusal :=
  .next (afterPanel (othamStep (trainingTimer p s)))

end Sys2Proof.Machine
end

