-- ==== Sys2Proof/Machine/Stag.lean ====
section
/-! DEFINITION. The commands of the Stag chapter (17) that need no control port: restarts (R427), confirmation by time (R444), the
sensors (R432 to R435), operating time (R430), the steps of an update (R441 to R443), and what the ends of a map save (R227) and of a
migration (R354) move on. -/

namespace Sys2Proof.Machine

/-! ### Restarts and updates -/

/-- LOCKSTEP_MISMATCH (R427). -/
def execLockstepMismatch (s : State) : Host.Outcome State Fault Refusal := .next (if fabricOn s then restartStag 0 s else s)

/-- WATCHDOG_EXPIRY (R427). -/
def execWatchdogExpiry (s : State) : Host.Outcome State Fault Refusal := .next (if fabricOn s then restartStag 1 s else s)

/-- CONFIRM_TIMEOUT: CONFIRM_S seconds of operating time as a trial image (R444). -/
def execConfirmTimeout (s : State) : Host.Outcome State Fault Refusal :=
  .next (let n := cfg s hUPDATE Par.UPDATE_CONFIRM_S
    if !s.stag.trial || n = 0 || !stagRuns s || !s.stag.opRuns then s
    else settle (confirmImage (advanceTo (s.stag.opAt + (s.stag.trialSince + n - s.stag.opBase) * tickS) s)))

/-- IMAGE_VERIFIED (R441). -/
def execImageVerified (s : State) : Host.Outcome State Fault Refusal := .next (if stagRuns s then imageVerified s else s)

/-- FLASH_OPERATION_COMPLETE (R442, R443): the end of the last step of ACTIVATE 2 restarts Stag; a map save and an entry to OFF that
waited go on. -/
def execFlashOperationComplete (ok : Bool) (s : State) : Host.Outcome State Fault Refusal :=
  .next (match s.stag.activation with
    | none => s
    | some a =>
      if !fabricOn s then s
      else
        let s := flashDone ok s
        let s := if ok && a.step == 4 && a.mode == 2 then restartStag 2 s else s
        advanceEntry (if s.stag.activation.isNone then saveAfter s else s))

/-- MAP_SAVE_COMPLETE (R227): an entry to OFF that waited goes on. -/
def execMapSaveComplete (failed : Option (Nat × Nat)) (s : State) : Host.Outcome State Fault Refusal :=
  .next (if fabricOn s then advanceEntry (endSave failed s) else s)

/-- MIGRATION_COMPLETE (R354, R355). -/
def execMigrationComplete (lost : Bool) (s : State) : Host.Outcome State Fault Refusal :=
  .next (if fabricOn s && s.dram.ready && s.dram.migration == 1 then
      let s := endMigration lost s
      if s.dram.lostFrom.isSome then recoverMaps s else s
    else s)

/-! ### Thermal sensors and voltage monitors -/

/-- A threshold's flag after a reading: set at or above it, cleared 5 °C below (R432). -/
def thermFlag (was : Bool) (t limit : Int) : Bool := decide (limit ≤ t) || (was && decide (limit - 1280 < t))

/-- The event of a flag that changes. -/
def thermEvent (was now_ : Bool) (code h n : Nat) (t : Int) (s : State) : State :=
  if was = now_ then s else raise (if now_ then code else 0x0C22) h ([n] ++ s16 t) s

/-- A reading of a thermal sensor, sQ7.8 (R432). -/
def thermSample (n : Nat) (t : Int) (s : State) : State :=
  let h := hTHERM n
  let x := mget {} s.stag.therm n
  let peak := if x.readAt.isNone then t else max t (resI s h Par.THERM_PEAK)
  let s := setResI h Par.THERM_TEMP t s
  let s := if x.readAt.isSome ∧ peak = resI s h Par.THERM_PEAK then s else setResI h Par.THERM_PEAK peak s
  let warned := thermFlag x.warned t (cfgI s h Par.THERM_WARN)
  let crit := thermFlag x.crit t (cfgI s h Par.THERM_CRIT)
  let s := { s with stag.therm := mput {} s.stag.therm n { readAt := some s.now, warned := warned, crit := crit } }
  let s := if (List.range 16).all fun k => (mget {} s.stag.therm k).readAt.isSome then unitsUp 256 s else s
  let s := settle (thermEvent x.crit crit 0x0C21 h n t (thermEvent x.warned warned 0x0C20 h n t s))
  if cfgI s h Par.THERM_CRIT ≤ t then beginTransition false 2 s else s

/-- THERMAL_SAMPLE: every 10 ms (R432). -/
def execThermalSample (n : Nat) (t : Int) (s : State) : Host.Outcome State Fault Refusal :=
  .next (if !stagRuns s || !fabricOn s || decide (15 < n) then s
    else thermSample n t (match (mget {} s.stag.therm n).readAt with
      | some r => advanceTo (r + 10 * tickMs) s
      | none => s))

/-- The limits of Table 17.2, mV. -/
def railLimits (s : State) (n : Nat) : Nat × Nat :=
  match n with
  | 0 => (s.resil.vcore - 30, s.resil.vcore + 30)
  | 1 => (760, 840)
  | 2 => (810, 890)
  | _ => (1000, 1100)

/-- A rail's sampling state, replaced. -/
def setVmon (n : Nat) (x : VmonSt) (s : State) : State := { s with stag.vmon := mput {} s.stag.vmon n x }

/-- A reading of a rail, and the extremes with it (R433). -/
def showRail (h mv : Nat) (first : Bool) (s : State) : State :=
  let s := setRes h Par.VMON_READING mv s
  let s := if first ∨ mv < res s h Par.VMON_LOW then setRes h Par.VMON_LOW mv s else s
  if first ∨ res s h Par.VMON_HIGH < mv then setRes h Par.VMON_HIGH mv s else s

/-- A reading of a voltage monitor (R433). -/
def railSample (n mv : Nat) (s : State) : State :=
  let x := mget {} s.stag.vmon n
  let s := showRail (hVMON n) mv x.readAt.isNone s
  let x := { x with readAt := some s.now }
  let (lo, hi) := railLimits s n
  if mv < lo ∨ hi < mv then
    let since := x.badSince.getD s.now
    let x := { x with badSince := some since, okSince := none }
    if x.told || decide (s.now < since + tickMs) then setVmon n x s
    else raise 0x0C23 (hVMON n) ([n] ++ u16 mv) (setVmon n { x with told := true, limited := true } s)
  else
    let since := x.okSince.getD s.now
    let x := { x with badSince := none, told := false, okSince := some since }
    setVmon n (if s.now < since + 100 * tickMs then x else { x with limited := false }) s

/-- VOLTAGE_SAMPLE: every 1 ms (R433). -/
def execVoltageSample (n mv : Nat) (s : State) : Host.Outcome State Fault Refusal :=
  .next (if !stagRuns s || !fabricOn s || decide (3 < n) then s
    else railSample n mv (match (mget {} s.stag.vmon n).readAt with
      | some r => advanceTo (r + tickMs) s
      | none => s))

/-! ### NTC inputs -/

/-- Scale of the fixed-point numbers of the conversion. -/
abbrev lnOne : Nat := 2 ^ 96

/-- 2 × Σ y^(2i+1) / (2i+1) for `n` terms from `i`; `p` is y^(2i+1), all scaled by `lnOne`. -/
def atanhSum (y2 : Nat) : Nat → Nat → Nat → Nat
  | 0, _, _ => 0
  | n + 1, i, p => 2 * p / (2 * i + 1) + atanhSum y2 n (i + 1) (p * y2 / lnOne)

/-- ln of a / b for b ≤ a ≤ 2 b, scaled. -/
def lnNear (a b : Nat) : Nat :=
  let y := (a - b) * lnOne / (a + b)
  atanhSum (y * y / lnOne) 48 0 y

/-- ln of a / b for positive a and b, scaled, good to far more places than sQ7.8 keeps. -/
def lnScaled (a b : Nat) : Int :=
  let k : Int := (Nat.log2 a : Int) - Nat.log2 b
  let a' := if k < 0 then a * 2 ^ (-k).toNat else a
  let b' := if k < 0 then b else b * 2 ^ k.toNat
  let (a', k) := if a' < b' then (2 * a', k - 1) else (a', k)
  (lnNear a' b' : Int) + k * lnNear 2 1

/-- The temperature of R434 in sQ7.8 for a sum of ten codes, rounded to the nearest; none where the formula gives none. -/
def ntcTemp (pullup nominal beta : Nat) (offset : Int) (sum : Nat) : Option Int :=
  if sum = 0 ∨ 40950 ≤ sum then none
  else
    let l := lnScaled (pullup * sum) (nominal * (40950 - sum))
    let d : Int := 100 * beta * lnOne + 29815 * l
    if d ≤ 0 then none
    else
      let n : Int := 256 * 29815 * beta * lnOne
      some ((10 * n - 699264 * d + 5 * d).fdiv (10 * d) + offset)

/-- Why a reading is not valid, none where it is (R435). -/
def ntcCause (sum : Nat) (t : Option Int) : Option Nat :=
  if 40550 < sum then some 0
  else if sum < 400 then some 1
  else match t with
    | none => some 2
    | some t => if t < -40 * 256 ∨ 125 * 256 < t then some 2 else none

/-- An NTC input's state replaced. -/
def setNtc (n : Nat) (x : NtcSt) (s : State) : State := { s with stag.ntc := mput {} s.stag.ntc n x }

/-- A reading becomes valid, or not, with its event (R435). -/
def judgeNtc (n : Nat) (cause : Option Nat) (code : Nat) (t : Int) (s : State) : State :=
  let h := hNTC n
  let x := mget {} s.stag.ntc n
  let s := changeRes h Par.NTC_VALID (if cause.isNone then 1 else 0) (setNtc n { x with valid := cause.isNone, judged := true } s)
  match cause with
  | none => if x.judged && x.valid then s else raise 0x0C25 h ([n] ++ s16 t) s
  | some c => if x.judged && !x.valid then s else raise 0x0C24 h ([n, c] ++ u16 code) s

/-- A reading that has become 500 ms old is not valid any more: cause 3. -/
def ntcStale (n : Nat) (s : State) : State :=
  let x := mget {} s.stag.ntc n
  match x.readAt with
  | none => s
  | some t =>
    if x.valid && cfgB s (hNTC n) Par.NTC_ENABLE && decide (t + 500 * tickMs ≤ s.now) then
      judgeNtc n (some 3) (res s (hNTC n) Par.NTC_CODE) 0 s
    else s

/-- A code of an NTC input: from the tenth on each makes a reading (R434, R435).  Which way CODE rounds the mean is free, and so is a
TEMP that sQ7.8 cannot hold. -/
def takeCode (n code : Nat) (s : State) : State :=
  let h := hNTC n
  let x := mget {} s.stag.ntc n
  let codes := (x.codes ++ [code]).drop (x.codes.length + 1 - 10)
  let s := setNtc n { x with codes := codes, codeAt := some s.now } s
  if codes.length < 10 then s
  else
    let sum := codes.foldl (· + ·) 0
    let (r, s) := draw s
    let c := (sum + r % 10) / 10
    let t := ntcTemp (cfg s h Par.NTC_PULLUP_OHM) (cfg s h Par.NTC_NOMINAL_OHM) (cfg s h Par.NTC_BETA)
      (cfgI s h Par.NTC_OFFSET) sum
    let (f, s) := draw s
    let shown := match t with
      | some t => if -32768 ≤ t ∧ t ≤ 32767 then t else toSigned 16 f
      | none => toSigned 16 f
    let s := setResI h Par.NTC_TEMP shown (setRes h Par.NTC_CODE c s)
    let x := mget {} s.stag.ntc n
    judgeNtc n (ntcCause sum t) c shown (setNtc n { x with readAt := some s.now } s)

/-- NTC_SAMPLE: every 10 ms while ENABLE is 1 (R434, R435). -/
def execNtcSample (n code : Nat) (s : State) : Host.Outcome State Fault Refusal :=
  .next (if !stagRuns s || !fabricOn s || decide (3 < n) || !cfgB s (hNTC n) Par.NTC_ENABLE then s
    else
      let s := match (mget {} s.stag.ntc n).codeAt with
        | some t => advanceTo (t + 10 * tickMs) s
        | none => s
      takeCode n code (ntcStale n s))

/-- A write of ENABLE stops the input, or starts it afresh with no reading (R435). -/
def restartNtc (n : Nat) (s : State) : State := changeRes (hNTC n) Par.NTC_VALID 0 (setNtc n {} s)

/-! ### Time -/

/-- OPERATING_MINUTE: the next whole minute, or a minute of a counter that has to catch up (R430). -/
def execOperatingMinute (s : State) : Host.Outcome State Fault Refusal :=
  .next (if !stagRuns s || !s.stag.opRuns || !s.pstore.read then s
    else
      let due := 60 * (mget 0 s.pstore.tally 1 + 1)
      if opSeconds s ≤ due then incTally 1 (advanceTo (s.stag.opAt + (due - s.stag.opBase) * tickS) s)
      else
        let behind := opSeconds s / 60 - mget 0 s.pstore.tally 1
        let s := if s.stag.caughtUp then s else raise 0x0C0A hSTAG (u16 (min 65535 behind)) { s with stag.caughtUp := true }
        incTally 1 (advanceTo (s.now + tickS) s))

/-- UTC_SET (R431). -/
def setUtc (v : Nat) (s : State) : State :=
  let old := utcNow s
  let s := setRes hDEV Par.DEV_UTC_NOW v (showClocks s)
  let s := setRes hDEV Par.DEV_UTC_VALID 1 { s with stag.utcBase := v, stag.utcAt := s.now, stag.utcValid := true }
  raise 0x0C09 hDEV (u32 old ++ u32 v) s

end Sys2Proof.Machine
end

