-- ==== Sys2Proof/Machine/Requests.lean ====
section
/-! DEFINITION. Dictionary requests (02): the checks of Table 2.6, what READ returns (R32, R43, R45), what each WRITE does (R47 to
R57, and the command entries of the other chapters), sessions (R62 to R64), sequence numbers and credits (R60, R67), and the commands
that carry one request each. -/

namespace Sys2Proof.Machine

/-! ### Entries -/

/-- The rows of the common block (Table 2.2). -/
def commonEntry (h p : Nat) : Option Entry :=
  let one := fun (t : Ty) => some (en p t 0 0 4 0 .any .none false false none)
  if p ≤ 3 ∨ p = 0x00C then one (.int false 2 16)
  else if p = 4 then one (.blob (2 * (childrenOf h).length))
  else if p = 8 ∨ p = 9 then one .enum
  else if p = 10 ∨ p = 11 then one (.int false 4 32)
  else none

/-- Bytes of a BLOB or STRING as it stands: some follow the geometry, the certificate or the stored password (R195, R207, R222,
R407, R420). -/
def blobSize (s : State) (h : Nat) (e : Entry) : Nat :=
  let m := s.raster.mode
  let panel := panelColumns m * panelRows m * m.sub
  if h = hCOMP ∧ e.param = Par.COMP_RESIDUAL_MAP then panel
  else if h = hCOMP ∧ (e.param = Par.COMP_STRESS_MAP ∨ e.param = Par.COMP_STRESS_SET) then 4 * panel
  else if h = hOVERDRIVE ∧ e.param = Par.OVERDRIVE_AGE_MAP then
    4 * ((panelColumns m + 31) / 32) * ((panelRows m + 31) / 32)
  else if h = hSEC ∧ e.param = Par.SEC_CERTIFICATE then s.sec.shownCert.length
  else valueSize e

/-- An entry of a unit, a BLOB at its present size. -/
def entryAny (s : State) (h p : Nat) : Option Entry :=
  if p < 0x040 then commonEntry h p
  else (entryOf h p).map fun e => if isBlob e then { e with ty := .blob (blobSize s h e) } else e

/-! ### Reading -/

/-- A byte of the stress accumulators as STRESS_MAP reads them (R222). -/
def stressMapByte (s : State) (b : Nat) : Nat := mget 0 s.pipe.stress (b / 4) / 256 ^ (b % 4) % 256

/-- A byte of AGE_MAP (R195). -/
def ageMapByte (s : State) (b : Nat) : Nat :=
  let bw := (panelColumns s.raster.mode + 31) / 32
  mget 0 s.pipe.ages (blockKey (b / 4 % bw) (b / 4 / bw) (b % 4))

/-- The value of a byte of a vb BLOB kept outside the dictionary: what waits for it, else what it is. -/
def waitingByte (s : State) (h p b : Nat) (now_ : Nat) : Nat := match waitingView s (cell h p b) with
  | some v => v.toNat
  | none => now_

/-- The first byte of a poisoned word of the overlay memory that bytes `off` to `off + n − 1` touch, by word. -/
def overlayBad (s : State) (off n : Nat) : List Nat :=
  (s.sram.poison.filter fun e => decide (overlayAddr 0 ≤ e.1) && decide (e.1 + 32 > overlayAddr off)
    && decide (e.1 < overlayAddr (off + n)) && decide (e.1 < overlayAddr overlaySize)).map (·.1)

/-- A read of the overlay memory: a word that cannot be corrected is told (R362), and its bytes are free. -/
def readOverlay (off n : Nat) (s : State) : List Nat × State :=
  let bad := overlayBad s off n
  let s' := bad.foldl (fun s a => wordUncorrectable (a / 4194304) (a % 4194304) true s) s
  if bad = [] then (loadBytes 0#8 s.sram.mem (overlayAddr off) n, s)
  else
    let (vs, s') := drawBytes n s'
    (((loadBytes 0#8 s.sram.mem (overlayAddr off) n).zip vs).zipIdx.map fun x =>
      if bad.contains ((overlayAddr off + x.2) / 32 * 32) then x.1.2 else x.1.1, s')

/-- Bytes `off` to `off + n − 1` of a BLOB or STRING, within its size. -/
def blobBytes (s : State) (h p off n : Nat) : List Nat :=
  let at_ := fun (f : Nat → Nat) => (List.range n).map fun i => f (off + i)
  if p = 4 then sub ((childrenOf h).flatMap u16) off n
  else if h = hDEV ∧ p = Par.DEV_LOT then
    if s.pstore.identityOk then sub (storeAt s 6 8) off n else List.replicate n 0
  else if h = hDEV ∧ p = Par.DEV_STEPPING then
    if s.pstore.identityOk then sub (storeAt s 22 2) off n else List.replicate n 0
  else if h = hLOG then loadBytes 0#8 s.pstore.mirror off n
  else if h = hUPDATE then imageAt s off n
  else if h = hSEC then if p = Par.SEC_CERTIFICATE then sub s.sec.shownCert off n else []
  else if h = hPSTORE then at_ fun a => if 0x2000 ≤ a ∧ a < 0x4000 then 0 else (mget 0#8 s.pstore.mem a).toNat
  else if classOf h = 37 then
    let b := h - hBANK 0
    at_ fun a => if poisoned s b (a / 32 * 32) || isSecure b a then 0 else (mget 0#8 s.sram.mem (bankAddr b a)).toNat
  else if h = hOVERDRIVE ∧ p = Par.OVERDRIVE_AGE_MAP then at_ (ageMapByte s)
  else if h = hCOMP then
    if p = Par.COMP_RESIDUAL_MAP then at_ fun b => waitingByte s h p b (ofSigned 8 (mget 0 s.pipe.master b))
    else if p = Par.COMP_STRESS_MAP then at_ (stressMapByte s)
    else if p = Par.COMP_STRESS_SET then at_ fun b => waitingByte s h p b (stressMapByte s b)
    else if p = Par.COMP_AGE_GAIN then at_ fun b => mget 16384 s.pipe.ageGain (b / 2) / 256 ^ (b % 2) % 256
    else if p = Par.COMP_BLOCK_STRESS then at_ fun b => mget 0 s.pipe.blockStress (b / 4) / 256 ^ (b % 4) % 256
    else viewBlob s h p off n
  else viewBlob s h p off n

/-- A READ of a BLOB or STRING (R45). -/
def readBlob (h : Nat) (e : Entry) (off count : Nat) (s : State) : List Nat × State :=
  let n := min count (valueSize e - off)
  if h = hSEC ∧ e.param = Par.SEC_OPERATOR_PASSWORD then ([], s)
  else if h = hLAYERS ∧ e.param = Par.LAYERS_OVL_MEM then readOverlay off n s
  else (blobBytes s h e.param off n, s)

/-- MODE of a control port (Table 2.15). -/
def ctrlMode (s : State) (h : Nat) : Nat :=
  if h = hFIELDPORT then 2 else if h = hAUXPORT then 3 else if s.pins.hostsel then 1 else 0

/-- A scalar of the common block (Table 2.2). -/
def commonValue (s : State) (h p : Nat) : Nat :=
  if p = 0 then classOf h
  else if p = 1 then h
  else if p = 2 then parentOf h
  else if p = 3 then (childrenOf h).length
  else if p = 8 then health s h
  else if p = 9 then unitPower s h
  else if p = 10 then countTo s.dict.ce 4 h
  else if p = 11 then countTo s.dict.ue 4 h
  else (lastEventTo s 4 h).2

/-- The value of one element that a READ returns. -/
def elementValue (s : State) (h : Nat) (e : Entry) (i : Nat) : Int :=
  let p := e.param
  if p < 0x040 then (commonValue s h p : Int)
  else if 0x400 ≤ p ∧ p < 0x800 then resI s h p i
  else if h = hSEC ∧ p = Par.SEC_INTEGRATOR_KEY then 0
  else if classOf h = 39 ∧ p = Par.CTRLPORT_MODE then (ctrlMode s h : Int)
  else if h = hHOSTPORT ∧ p = Par.CTRLPORT_ENABLE then 1
  else view s h p i

/-- What changes with time alone is brought up to date. -/
def freshen (h : Nat) (s : State) : State :=
  if h = hDEV ∨ h = hPWR then showClocks s
  else if h = hROWDRV then showFading (showBalance s.now (biasDue s))
  else if classOf h = 35 then
    changeRes h Par.DCH_UE_ROWS_24H (min 255 (recentUe s (chan s (h - hDCH 0))).length) s
  else if h = hROWSET 0 ∨ h = hROWSET 1 then settleToken (h - hROWSET 0) (showLevels (h - hROWSET 0) s)
  else s

/-- A READ that passes its checks: the payload of its response (R43, R45). -/
def readEntry (h : Nat) (e : Entry) (el : Option Nat) (payload : List Nat) (s : State) : List Nat × State :=
  let s := freshen h s
  let gen := if 0x400 ≤ e.param ∧ e.param < 0x800 then u16 (mget 0 s.dict.gens (keyOf h e.param)) else []
  if isBlob e || isStr e then
    let (bs, s) := readBlob h e (leNat (payload.take 4)) (leNat (payload.drop 4)) s
    (gen ++ bs, s)
  else match el with
    | some i => (gen ++ encodeValue e.ty (elementValue s h e i), s)
    | none => (gen ++ (List.range (elems e)).flatMap fun i => encodeValue e.ty (elementValue s h e i), s)

/-! ### Answers -/

/-- What a request is answered, and what follows once its response is queued; `await` where the response waits for a program. -/
structure Answer where
  status  : Nat := stOK
  payload : List Nat := []
  await   : Option Await := none
  after   : State → State := id

/-- OK, with the effect. -/
abbrev ok (s : State) : Answer × State := ({}, s)

/-- OK, and something that follows the response. -/
abbrev okThen (f : State → State) (s : State) : Answer × State := ({ after := f }, s)

/-- Refused, with no effect. -/
abbrev refuse (status : Nat) (s : State) : Answer × State := ({ status := status }, s)

/-- The parameter word of a response: as in the request. -/
def reqParam (r : Req) : Nat := r.param % 4096 + (if r.elem.isSome then 4096 else 0)

/-- A response is made and queued; its credit returns (R60, R63, R66, R67). -/
def respond (r : Req) (status : Nat) (payload : List Nat) (keep : Bool) (s : State) : State :=
  let p := port s r.port
  let (b, p) := sealFrame p (Nat.lor r.op 128) r.seq r.handle (reqParam r) r.byte6 status payload
  let p := { p with unanswered := p.unanswered - 1, retained := if keep then b else p.retained }
  announceCredits r.port (pushOut r.port ⟨b, false⟩ (setPort r.port p s))

/-- Event 0x0A02. -/
def malformed (r : Req) (s : State) : State :=
  raise 0x0A02 (portUnit r.port) ([r.op] ++ u16 r.handle ++ u16 (r.param % 4096)) s

/-- An executed request is answered, or waits for its program. -/
def finishRequest (r : Req) (x : Answer × State) : State :=
  let (a, s) := x
  match a.await with
  | some w => { s with ctrl.busy := some (r, w) }
  | none => a.after (respond r a.status a.payload true (if a.status = stBAD_FORM then malformed r s else s))

/-! ### Checks of Table 2.6 -/

/-- What recovery answers (R440). -/
def inRecovery (h p : Nat) : Bool :=
  decide (p < 0x040) || h == hUPDATE || (h == hDEV && decide (0x480 ≤ p) && decide (p ≤ 0x486))

/-- Is the payload of a READ malformed? -/
def readForm (e : Entry) (el : Option Nat) (payload : List Nat) : Bool :=
  (el.isSome && decide (e.count = 0))
  || (if isBlob e || isStr e then payload.length != 8 || decide (65536 < leNat (payload.drop 4)) else payload != [])

/-- Is a password write malformed (R407)? -/
def passwordForm (payload : List Nat) : Bool :=
  let n := payload.length - 4
  leNat (payload.take 4) != 0 || (decide (1 ≤ n) && decide (n ≤ 7))

/-- Is the payload of a WRITE malformed? -/
def writeForm (h : Nat) (e : Entry) (el : Option Nat) (payload : List Nat) : Bool :=
  (el.isSome && decide (e.count = 0))
  || (if isBlob e then decide (payload.length < 4)
        || (h == hSEC && e.param == Par.SEC_OPERATOR_PASSWORD && passwordForm payload)
      else if isStr e then false
      else payload.length != tyBytes e.ty * (if el.isSome then 1 else elems e)
        || (el.isSome && ((h == hDEV && e.param == Par.DEV_LIFECYCLE_REQUEST)
          || (h == hSEC && (e.param == Par.SEC_INTEGRATOR_KEY || e.param == Par.SEC_ATTEST_CHALLENGE)))))

/-- Closed in the lifecycle state (R414, R420, R441)? -/
def lifecycleClosed (s : State) (level h p : Nat) (payload : List Nat) : Bool :=
  if h = hDEV ∧ p = Par.DEV_LIFECYCLE_REQUEST then
    payload.drop 4 != uid s || !transitionOk s level (payload.headD 0)
  else if h = hSEC ∧ p = Par.SEC_ATTEST_CHALLENGE then !hasIdentity (keys s)
  else if h = hUPDATE ∧ (p = Par.UPDATE_BEGIN ∨ p = Par.UPDATE_ACTIVATE) then s.sec.lifecycle == 4
  else false

/-- Orders 5 to 11 of Table 2.6 for a READ or a WRITE: the entry, or the status that refuses it. -/
def checkRequest (s : State) (level : Nat) (r : Req) : Except Nat Entry :=
  let h := r.handle
  let p := r.param % 4096
  let wr := decide (r.op = 2)
  if classOf h = 0 ∨ (s.stag.recovery = true ∧ inRecovery h p = false) then .error stNO_UNIT
  else match entryAny s h p with
  | none => .error stNO_PARAM
  | some e =>
    if decide (0 < e.count) && r.elem.any (fun i => decide (e.count ≤ i)) then .error stNO_PARAM
    else if (if wr then writeForm h e r.elem r.payload else readForm e r.elem r.payload) then .error stBAD_FORM
    else if (if wr then decide (e.wr < 4) && decide (level < e.wr) else decide (level < e.rd)) then .error stDENIED
    else if wr && decide (e.wr = 4) then .error stREAD_ONLY
    else if wr && lifecycleClosed s level h p r.payload then .error stLIFECYCLE
    else if decide (0x400 ≤ p) && unitPower s h == 2 then .error stASLEEP
    else .ok e

/-- Orders 5 to 7 of Table 2.6 for an operation that names no entry: its handle, its parameter and its element are checked as any
request's are (log entry 10). -/
def checkPlain (s : State) (r : Req) : Option Nat :=
  match entryAny s r.handle (r.param % 4096) with
  | none => some (if classOf r.handle = 0 then stNO_UNIT else stNO_PARAM)
  | some e =>
    if classOf r.handle = 0 then some stNO_UNIT
    else match r.elem with
    | none => none
    | some i => if e.count = 0 then some stBAD_FORM else if e.count ≤ i then some stNO_PARAM else none

/-! ### Commands of DEV -/

/-- COMMIT (R33, R49, R153, R463). -/
def commitNow (tag : Nat) (s : State) : State :=
  let (patch, s) := clampPatch s.dict.patch s
  let s := planRamp (modeOf (willBe s patch)) (clearShadow s)
  let boundary := s.raster.index + (if s.raster.closed then 1 else 0)
  let s := showCommits { s with dict.commits := s.dict.commits ++ [⟨some tag, patch, boundary⟩] }
  if s.raster.stopped then rasterResume (applyAllCommits s) else showBuffers s

/-- SHADOW_DISCARD (R51). -/
def discardShadow (s : State) : State := showBuffers (clearShadow s)

/-- The settings that RESTORE_DEFAULTS writes for a session of a level, in order (R57). -/
def restored (level : Nat) : List (Nat × Entry) :=
  (allHandles.filter fun h => classOf h != 8 && classOf h != 38 && classOf h != 39).flatMap fun h =>
    ((entriesOf (classOf h)).filter fun e => presentOn h e && decide (0x040 ≤ e.param) && decide (e.param < 0x400)
      && !e.command && decide (e.wr ≤ level)).map fun e => (h, e)

/-- The items of the open set after a restore. -/
def restoreItems (level : Nat) (items : List (Nat × Option Nat)) : List (Nat × Option Nat) :=
  (restored level).foldl (fun l x => if x.2.apply = .vb then addItem l (keyOf x.1 x.2.param) none else l) items

/-- An element that its owner would refuse (R173) keeps its value in a restore; OVL_MEM's default is what it holds (Table 6.6). -/
def restoreKeeps (s : State) (h p i : Nat) : Bool :=
  h == hLAYERS && (p == Par.LAYERS_OVL_MEM
    || ((p == Par.LAYERS_BUF_BASE || p == Par.LAYERS_BUF_SIZE) && bufState s i != 0))

/-- Registers of DRV_REGS from 8 on that differ between two states (R260). -/
def changedRegs (a b : State) : List Nat := (List.range 256).filter fun i => decide (8 ≤ i) && drvReg a i != drvReg b i

/-- What a write in force at once sets going. -/
def afterNow (h p : Nat) (was s : State) : State :=
  if h = hOUTPUT ∧ p = Par.OUTPUT_DRV_REGS then deliver (changedRegs was s) s
  else if classOf h = 5 ∧ p = Par.NTC_ENABLE then restartNtc (h - hNTC 0) s
  else if h = hLAYERS then showBuffers s
  else if h = hPWR ∨ h = hAUX ∨ h = hFIELDPORT then keepWake s
  else if h = hREFLADDER then clipRefs s
  else s

/-- The item of the open set that an entry becomes in a restore, its written values dropped (R57). -/
def restoreItem (h : Nat) (e : Entry) (s : State) : State :=
  if e.apply = .vb then setItems (addItem s.dict.items (keyOf h e.param) none)
    { s with dict.patch := mdrop s.dict.patch (cell h e.param 0) (cell h e.param 0 + 4294967296) }
  else s

/-- The elements of an entry that a restore sets to their defaults. -/
def restoreElems (s : State) (h : Nat) (e : Entry) : List Nat :=
  (List.range (if isBlob e then blobSize s h e else elems e)).filter fun i => !restoreKeeps s h e.param i

/-- One entry takes its default (R57). -/
def restoreEntry (x : Nat × Entry) (s : State) : State :=
  let (h, e) := x
  let s' := (restoreElems s h e).foldl (fun s i => putValue e.apply h e.param i (dflt (gradeX s) h e.param i) s) (restoreItem h e s)
  if e.apply = .now then afterNow h e.param s s' else s'

/-- RESTORE_DEFAULTS: BUSY where the open set cannot take its items (R57). -/
def restoreDefaults (level tag : Nat) (s : State) : Answer × State :=
  if shadowLimit < (restoreItems level s.dict.items).length then refuse stBUSY s
  else
    let s := (restored level).foldl (fun s x => restoreEntry x s) s
    ok (raise 0x0A0C hDEV (u16 tag) (setRes hDEV Par.DEV_RESTORE_DONE tag (showBuffers s)))

/-- STORE (R56, R387). -/
def storeNow (tag : Nat) (s : State) : Answer × State :=
  if res s hDEV Par.DEV_STORE_OUTCOME = 3 || tieRuns s then refuse stBUSY s else ok (beginStore tag s)

/-- Code of a port in event 0x0B04. -/
def portRequester : PortId → Nat
  | .host => 1
  | .field => 2
  | .sideband => 3

/-- LIFECYCLE_REQUEST: steps 1 to 3 of R415, and from step 4 on after the response. -/
def lifecycleRequest (r : Req) (target : Nat) (s : State) : Answer × State :=
  if s.sec.locked then refuse stBUSY s
  else
    let old := s.sec.lifecycle
    okThen (fun s => enterLifecycle target { s with ctrl.busy := some (r, .lifecycle old target) }) (blowLifecycle target s)

/-- A write to a command entry of DEV, its value clamped. -/
def writeDev (r : Req) (level p v : Nat) (s was : State) : Answer × State :=
  if p = Par.DEV_COMMIT then ok (commitNow v s)
  else if p = Par.DEV_STORE then
    match storeNow v s with
    | (a, s') => if a.status = stOK then (a, s') else (a, was)
  else if p = Par.DEV_RESTORE_DEFAULTS then
    match restoreDefaults level v s with
    | (a, s') => if a.status = stOK then (a, s') else (a, was)
  else if p = Par.DEV_SHADOW_DISCARD then ok (discardShadow s)
  else if p = Par.DEV_UTC_SET then ok (setUtc v s)
  else if p = Par.DEV_POWER_REQUEST then ok (powerRequest v s)
  else if p = Par.DEV_RESTART then okThen restartCommand s
  else
    match lifecycleRequest r (r.payload.headD 0) s with
    | (a, s') => if a.status = stOK then (a, s') else (a, was)

/-! ### Commands of the other units -/

/-- INTEGRATOR_KEY (R408, R409). -/
def writeIntegratorKey (key : List Nat) (s : State) : Answer × State :=
  if s.sec.locked then refuse stBUSY s
  else ({ await := some .keyStore }, changeKeys (if key.all (· == 0) then .noIntegrator else .integrator key) s)

/-- OPERATOR_PASSWORD (R407, R409): what follows the first 32 bytes is a clamp. -/
def writePassword (bs : List Nat) (s : State) : Answer × State :=
  if s.sec.locked then refuse stBUSY s
  else if bs = [] then ({ await := some .keyStore }, changeKeys .noPassword s)
  else if s.sec.entropyBad then refuse stBUSY s
  else
    let s := if 32 < bs.length then countClamp hSEC Par.SEC_OPERATOR_PASSWORD 7 s else s
    let (salt, s) := random 16 s
    ({ await := some .keyStore }, changeKeys (.password salt (pbkdf2 (bs.take 32) salt 16384)) s)

/-- ATTEST_CHALLENGE (R420): the attestation follows within 2 ms. -/
def writeChallenge (c : List Nat) (s : State) : Answer × State :=
  if s.sec.locked || s.sec.entropyBad then refuse stBUSY s else ok { s with sec.attest := some c }

/-- Does a map save or a map load run? -/
def mapBusy (s : State) : Bool := s.pipe.saving.isSome || s.pipe.load.isSome

/-- PORT RETRAIN: at once where the port reads FAILED, else at the next power-on sequence, which trains it in any case (R264). -/
def retrainPort (p : Nat) (s : State) : State :=
  let x := oport s p
  if (x.stopped || x.boostFailed) && portEnabled s p && panelDomainOn s then startTraining p s else s

/-- ACTIVATE (R442). -/
def writeActivate (mode : Nat) (s was : State) : Answer × State :=
  if mode = 0 then ok s
  else if res s hUPDATE Par.UPDATE_STATE ≠ 3 ∨ mapBusy s = true then refuse stBUSY was
  else ok (beginActivation mode s)

/-- A write to a command entry of UPDATE. -/
def writeUpdate (p v : Nat) (s was : State) : Answer × State :=
  let st := res s hUPDATE Par.UPDATE_STATE
  if p = Par.UPDATE_BEGIN then if st = 2 ∨ st = 4 then refuse stBUSY was else ok (beginImage v s)
  else if p = Par.UPDATE_VERIFY then if st = 2 ∨ st = 4 then refuse stBUSY was else ok (setUpdate 2 s)
  else if p = Par.UPDATE_ACTIVATE then writeActivate v s was
  else ok (settle (confirmImage s))

/-- REINSTATE (R457): answered once the blaze record's program has verified. -/
def writeReinstate (h : Nat) (s was : State) : Answer × State :=
  if !inForce s h then ok (countClamp hSTAG Par.STAG_REINSTATE 1 s)
  else match blazeRoom s with
  | none => refuse stBUSY (raise 0x0905 hPSTORE (u16 h ++ [3]) { was with pstore.blazeFull := true })
  | some _ => ({ await := some .blaze }, addBlaze h 3 0 0 s)

/-- A write to a command entry that is neither a BLOB nor of DEV; `was` before its value was noted. -/
def writeCommand (r : Req) (h p v : Nat) (s was : State) : Answer × State :=
  if h = hSEC then
    if p = Par.SEC_INTEGRATOR_KEY then writeIntegratorKey r.payload was
    else match writeChallenge r.payload s with
      | (a, s') => if a.status = stOK then (a, s') else (a, was)
  else if h = hUPDATE then writeUpdate p v s was
  else if h = hLINK then okThen retrainEntry s
  else if classOf h = 19 then ok (retrainPort (h - hPORT 0) s)
  else if h = hCOMP then
    if p = Par.COMP_SWEEP_START then ok (askSweep s)
    else if mapBusy s then refuse stBUSY was
    else if p = Par.COMP_MAP_SAVE then ok (startSave s)
    else
      let s := loadSmallBank true s
      ok (if s.raster.stopped then rasterResume (applyAllCommits s) else s)
  else if h = hDRAM then ok (retireChannel v 3 s)
  else if classOf h = 14 then ok (fellTile ((h - 0x0200) / 16) (h % 16) 2 s)
  else writeReinstate v s was

/-! ### Settings -/

/-- A write of a control port's ENABLE: in force before it is answered (R47), but for the port that carried it, which is disabled once
the response has left (R79); the host port's reads 1 always. -/
def writeEnable (i : PortId) (r : Req) (s : State) : Answer × State :=
  if i = .host then ok (setCfg hHOSTPORT Par.CTRLPORT_ENABLE 0 1 s)
  else if portWanted s i then ok (enablePort i (setPort i { port s i with closing := none } s))
  else if i = r.port then
    okThen (fun s => setPort i { port s i with closing := some (port s i).outbound.length } s) s
  else ok (disablePort i s)

/-- Would a write of BUF_BASE or BUF_SIZE change an element whose buffer is not FREE (R173)? -/
def tableRefused (h : Nat) (e : Entry) (was s : State) : Bool :=
  (List.range 16).any fun b => bufState was b != 0 && cfgI was h e.param b != cfgI s h e.param b

/-- A write of a setting that is no BLOB (R47, R48, R173). -/
def writeSetting (r : Req) (h : Nat) (e : Entry) (s : State) : Answer × State :=
  if e.apply = .vb ∧ itemFits s (keyOf h e.param) r.elem = false then refuse stBUSY s
  else
    let s' := writeValue e h r.elem r.payload s
    if e.apply = .vb then ok (showBuffers s')
    else if h = hLAYERS ∧ tableRefused h e s s' = true then refuse stBUSY (overlayRefused s)
    else if classOf h = 39 ∧ e.param = Par.CTRLPORT_ENABLE then
      writeEnable (if h = hHOSTPORT then .host else if h = hFIELDPORT then .field else .sideband) r s'
    else if e.apply = .now then ok (afterNow h e.param s s')
    else ok s'

/-- A write of a BLOB (R45, R47, R48). -/
def writeBlobEntry (h : Nat) (e : Entry) (off : Nat) (bs : List Nat) (s : State) : Answer × State :=
  if h = hSEC then writePassword bs s
  else if h = hUPDATE then
    if res s hUPDATE Par.UPDATE_STATE ≠ 1 then refuse stBUSY s else ok (placeImage off bs s)
  else if h = hLAYERS then
    let kept := bs.take (overlaySize - off)
    if !overlayFree s off kept.length then refuse stBUSY (overlayRefused s)
    else
      let s := writeOverlay off kept s
      ok (if kept.length < bs.length then countClamp h e.param 7 s else s)
  else if e.apply = .vb ∧ itemFits s (keyOf h e.param) none = false then refuse stBUSY s
  else
    let s' := writeBlob e h off bs (if e.apply = .vb then stageBytes bs.length s else s)
    if e.apply = .now then ok (afterNow h e.param s s') else ok s'

/-- A WRITE that has passed orders 5 to 11. -/
def writeEntry (r : Req) (level : Nat) (e : Entry) (s : State) : Answer × State :=
  let h := r.handle
  let p := e.param
  if isBlob e then writeBlobEntry h e (leNat (r.payload.take 4)) (r.payload.drop 4) s
  else if e.command then
    let s' := writeElems { e with apply := .now } h 0 (splitValues e.ty (elems e) r.payload) s
    let v := cfg s' h p
    if h = hDEV then writeDev r level p v s' s else writeCommand r h p v s' s
  else writeSetting r h e s

/-! ### Sessions -/

/-- OPEN (R410). -/
def openRequest (r : Req) (s : State) : Answer × State :=
  let level := r.payload.headD 0
  let rest := r.payload.drop 1
  if level < 1 ∨ 3 < level ∨ (level = 1 ∧ (rest.length < 8 ∨ 32 < rest.length)) ∨ (level ≠ 1 ∧ rest ≠ []) then
    refuse stBAD_FORM s
  else if level = 3 ∧ s.sec.lifecycle ≠ 1 ∧ s.sec.lifecycle ≠ 3 then refuse stLIFECYCLE s
  else match openEffect r.port level rest s with
  | (st, payload, opened, s) =>
    ({ status := st, payload := payload, after := match opened with
        | some (l, k) => setLevel r.port l k
        | none => id }, s)

/-- PROVE against the outstanding challenge (R410). -/
def proveRequest (r : Req) (c : List Nat) (level : Nat) (s : State) : Answer × State :=
  if r.payload.length ≠ 32 then refuse stBAD_FORM s
  else match proveEffect r.port c level r.payload s with
  | (st, payload, opened, s) =>
    ({ status := st, payload := payload, after := match opened with
        | some (l, k) => setLevel r.port l k
        | none => id }, s)

/-- The level with which a request is executed, its session tag checked and counted (R63, R411). -/
def requestLevel (r : Req) (s : State) : Nat × State :=
  let p := port s r.port
  match p.key with
  | none => (p.level, s)
  | some k =>
    let s' := setPort r.port { p with reqCount := (p.reqCount + 1) % w32 } s
    if r.tag = some (sessionTag k 0 p.reqCount r.body) then (p.level, s')
    else (0, raise 0x0A08 (portUnit r.port) [r.seq] (incSat (portUnit r.port) Par.CTRLPORT_TAG_FAILURES 1 s'))

/-- The challenge that is outstanding on a port: 10 s at most (R410). -/
def outstanding (s : State) (i : PortId) : Option (List Nat × Nat) := match (port s i).challenge with
  | some (c, l, t) => if s.now < t + 10 * tickS then some (c, l) else none
  | none => none

/-- Orders 4 to 12 of Table 2.6 and the effect. -/
def execute (r : Req) (level : Nat) (tagged : Bool) (challenge : Option (List Nat × Nat)) (s : State) : Answer × State :=
  if tagged ∨ (r.op = 0x11 ∧ challenge = none) then refuse stNO_SESSION s
  else if r.op = 1 ∨ r.op = 2 then
    match checkRequest s level r with
    | .error st => refuse st s
    | .ok e =>
      if r.op = 1 then
        let (bs, s) := readEntry r.handle e r.elem r.payload s
        ({ payload := bs }, s)
      else match writeEntry r level e s with
        | (a, s) => (a, if a.status = stOK then noteActivity s else s)
  else match checkPlain s r with
  | some st => refuse st s
  | none => match r.op with
    | 0x10 => openRequest r s
    | 0x11 => proveRequest r (challenge.getD ([], 0)).1 (challenge.getD ([], 0)).2 s
    | 0x12 => if r.payload ≠ [] then refuse stBAD_FORM s else ok (endSession r.port 0 s)
    | _ => if r.payload ≠ [] then refuse stBAD_FORM s else ({ payload := [credits s r.port] }, s)

/-- A request whose SEQ is accepted (R60). -/
def accept (r : Req) (s : State) : State :=
  let p := port s r.port
  let challenge := outstanding s r.port
  let tagged := p.key.isNone && r.tag.isSome
  let (level, s) := requestLevel r (setPort r.port { p with last := some (r.seq, r.check), challenge := none } s)
  finishRequest r (execute r level tagged challenge s)

/-! ### Arrival -/

/-- A request sent to node 0 (R74): only a COMMIT, by the level of the field port's session. -/
def serveCast (r : Req) (s : State) : State :=
  if !cfgB s hFIELDPORT Par.CTRLPORT_BROADCAST then s
  else if r.op = 2 ∧ r.handle = hDEV ∧ r.param % 4096 = Par.DEV_COMMIT ∧ r.elem = none ∧ r.payload.length = 2
      ∧ r.fault = 0 ∧ 1 ≤ s.ctrl.field.level ∧ s.stag.recovery = false then
    noteActivity (commitNow (leNat r.payload) (setCfg hDEV Par.DEV_COMMIT 0 (leNat r.payload : Nat) s))
  else raise 0x0A0D hFIELDPORT ([r.op] ++ u16 r.handle ++ u16 (r.param % 4096)) s

/-- The retained response is sent again (R60). -/
def resend (r : Req) (s : State) : State :=
  let p := port s r.port
  announceCredits r.port (pushOut r.port ⟨p.retained, false⟩ (setPort r.port { p with unanswered := p.unanswered - 1 } s))

/-- The arbiter takes a request (Table 2.6, R60). -/
def serve (r : Req) (s : State) : State :=
  if r.cast then serveCast r s
  else if r.fault = 1 then respond r stCHECK [] false s
  else if r.fault = 2 then respond r stBAD_FORM [] false (malformed r s)
  else match (port s r.port).last with
  | none => accept r s
  | some (seq, check) =>
    if r.seq = (seq + 1) % 256 then accept r s
    else if r.seq = seq ∧ r.check = check then resend r s
    else
      let want := (seq + 1) % 256
      let s := incSat (portUnit r.port) Par.CTRLPORT_SEQ_ERRORS 1 s
      respond r stSEQ [want] false (raise 0x0A03 (portUnit r.port) [r.seq, want] s)

/-- Does a request read the page of the store that is being programmed (R379)? -/
def readsProgram (r : Req) (s : State) : Bool :=
  match s.pstore.current with
  | none => false
  | some (p, _) =>
    let off := leNat (r.payload.take 4)
    let n := leNat (r.payload.drop 4)
    r.op == 1 && r.handle == hPSTORE && r.param % 4096 == Par.PSTORE_RAW && !r.cast && r.fault == 0
      && decide (off < 256 * p.page + 256) && decide (256 * p.page < off + n)

/-- A request is executed in its turn: it waits behind a restart of Stag, behind a request in progress, behind the program of a page that
it reads, and behind those that wait (R31, R38, R379). -/
def inTurn (r : Req) (s : State) : State :=
  if stagRuns s && s.ctrl.busy.isNone && s.ctrl.waiting.isEmpty && !readsProgram r s then serve r s
  else { s with ctrl.waiting := s.ctrl.waiting ++ [r] }

/-- What has waited is executed, as far as it goes. -/
def drain (s : State) : State :=
  s.ctrl.waiting.foldl (fun s r => inTurn r s) { s with ctrl.waiting := [] }

/-- A request is taken: it holds a credit until it is answered (R67). -/
def takeReq (r : Req) (s : State) : State :=
  let p := port s r.port
  inTurn r (showCredits r.port (setPort r.port { p with unanswered := p.unanswered + 1 } s))

/-- A frame without credit is not taken (R67, R70). -/
def notTakenFrame (i : PortId) (s : State) : State :=
  let p := port s i
  let s := setPort i { p with notTaken := p.notTaken || (i == .host && !s.pins.hostsel) } s
  raise 0x0A04 (portUnit i) [] (incSat (portUnit i) Par.CTRLPORT_NOT_TAKEN 1 s)

/-- Has a port no credit? -/
def noCredit (s : State) (i : PortId) : Bool := !(port s i).enabled || decide (4 ≤ (port s i).unanswered)

/-- A frame has reached a port: RX_FRAMES, and the idle time of R64 begins afresh. -/
def frameHeard (i : PortId) (s : State) : State :=
  incWrap (portUnit i) Par.CTRLPORT_RX_FRAMES 1 (setPort i { port s i with heard := s.now } s)

/-- A request arrives at a port whole (R61, R67); without its power the port receives nothing. -/
def arrive (r : Req) (s : State) : State :=
  if !fabricOn s then s
  else
    let s := frameHeard r.port s
    if noCredit s r.port then notTakenFrame r.port s else takeReq r s

/-- The request that a frame of Table 2.8 with this header, operation and payload carries. -/
def mkReq (h : Hdr) (op handle param : Nat) (elem : Option Nat) (payload : List Nat) : Req :=
  let pf := param % 4096 + (if elem.isSome then 4096 else 0) + (if h.tag.isSome then 8192 else 0)
  let body := frameBody op h.seq handle pf (elem.getD 0) 0 payload
  { port := h.port, op := op, seq := h.seq, check := crc16 (body ++ h.tag.getD []), handle := handle, param := param % 4096
    elem := elem, byte6 := elem.getD 0 % 256, tag := h.tag, payload := payload, body := body, fault := if 65540 < payload.length then 2 else 0 }

/-- A WRITE of a whole entry. -/
abbrev mkWrite (h : Hdr) (handle param : Nat) (payload : List Nat) : Req := mkReq h 2 handle param none payload

/-- READ (R45). -/
def execRead (h : Hdr) (handle param : Nat) (elem : Option Nat) (payload : List Nat) (s : State) :
    Host.Outcome State Fault Refusal := .next (arrive (mkReq h 1 handle param elem payload) s)

/-- WRITE (R47). -/
def execWrite (h : Hdr) (handle param : Nat) (elem : Option Nat) (payload : List Nat) (s : State) :
    Host.Outcome State Fault Refusal := .next (arrive (mkReq h 2 handle param elem payload) s)

/-- OPEN (R410). -/
def execOpenReq (h : Hdr) (level : Nat) (password : List Nat) (s : State) : Host.Outcome State Fault Refusal :=
  .next (arrive (mkReq h 0x10 0 0 none (level :: password)) s)

/-- PROVE (R410). -/
def execProve (h : Hdr) (response : List Nat) (s : State) : Host.Outcome State Fault Refusal :=
  .next (arrive (mkReq h 0x11 0 0 none response) s)

/-- CLOSE (R62, R64). -/
def execClose (h : Hdr) (s : State) : Host.Outcome State Fault Refusal := .next (arrive (mkReq h 0x12 0 0 none []) s)

/-- NOP (R44). -/
def execNop (h : Hdr) (s : State) : Host.Outcome State Fault Refusal := .next (arrive (mkReq h 0x20 0 0 none []) s)

/-- COMMIT (R49). -/
def execCommit (h : Hdr) (tag : Nat) (s : State) : Host.Outcome State Fault Refusal :=
  .next (arrive (mkWrite h hDEV Par.DEV_COMMIT (u16 tag)) s)

/-- STORE (R56). -/
def execStore (h : Hdr) (tag : Nat) (s : State) : Host.Outcome State Fault Refusal :=
  .next (arrive (mkWrite h hDEV Par.DEV_STORE (u16 tag)) s)

/-- RESTORE_DEFAULTS (R57). -/
def execRestoreDefaults (h : Hdr) (tag : Nat) (s : State) : Host.Outcome State Fault Refusal :=
  .next (arrive (mkWrite h hDEV Par.DEV_RESTORE_DEFAULTS (u16 tag)) s)

/-- SHADOW_DISCARD (R51). -/
def execShadowDiscard (h : Hdr) (v : Nat) (s : State) : Host.Outcome State Fault Refusal :=
  .next (arrive (mkWrite h hDEV Par.DEV_SHADOW_DISCARD (u16 v)) s)

/-- UTC_SET (R431). -/
def execUtcSet (h : Hdr) (seconds : Nat) (s : State) : Host.Outcome State Fault Refusal :=
  .next (arrive (mkWrite h hDEV Par.DEV_UTC_SET (u32 seconds)) s)

/-- POWER_REQUEST_ON (R487). -/
def execPowerRequestOn (h : Hdr) (s : State) : Host.Outcome State Fault Refusal :=
  .next (arrive (mkWrite h hDEV Par.DEV_POWER_REQUEST [0]) s)

/-- POWER_REQUEST_STANDBY (R485). -/
def execPowerRequestStandby (h : Hdr) (s : State) : Host.Outcome State Fault Refusal :=
  .next (arrive (mkWrite h hDEV Par.DEV_POWER_REQUEST [1]) s)

/-- POWER_REQUEST_OFF (R486). -/
def execPowerRequestOff (h : Hdr) (s : State) : Host.Outcome State Fault Refusal :=
  .next (arrive (mkWrite h hDEV Par.DEV_POWER_REQUEST [2]) s)

/-- RESTART (R497). -/
def execRestart (h : Hdr) (v : Nat) (s : State) : Host.Outcome State Fault Refusal :=
  .next (arrive (mkWrite h hDEV Par.DEV_RESTART (u16 v)) s)

/-- LIFECYCLE_REQUEST (R414, R415). -/
def execLifecycleRequest (h : Hdr) (target : Nat) (id : List Nat) (s : State) : Host.Outcome State Fault Refusal :=
  .next (arrive (mkWrite h hDEV Par.DEV_LIFECYCLE_REQUEST ([target, 0, 0, 0] ++ id)) s)

/-- OPERATOR_PASSWORD (R407). -/
def execOperatorPassword (h : Hdr) (off : Nat) (bs : List Nat) (s : State) : Host.Outcome State Fault Refusal :=
  .next (arrive (mkWrite h hSEC Par.SEC_OPERATOR_PASSWORD (u32 off ++ bs)) s)

/-- INTEGRATOR_KEY (R408). -/
def execIntegratorKey (h : Hdr) (bs : List Nat) (s : State) : Host.Outcome State Fault Refusal :=
  .next (arrive (mkWrite h hSEC Par.SEC_INTEGRATOR_KEY bs) s)

/-- ATTEST_CHALLENGE (R420). -/
def execAttestChallenge (h : Hdr) (bs : List Nat) (s : State) : Host.Outcome State Fault Refusal :=
  .next (arrive (mkWrite h hSEC Par.SEC_ATTEST_CHALLENGE bs) s)

/-- LINK_RETRAIN (R106). -/
def execLinkRetrain (h : Hdr) (v : Nat) (s : State) : Host.Outcome State Fault Refusal :=
  .next (arrive (mkWrite h hLINK Par.LINK_RETRAIN (u16 v)) s)

/-- PORT_RETRAIN (R264). -/
def execPortRetrain (h : Hdr) (p v : Nat) (s : State) : Host.Outcome State Fault Refusal :=
  .next (arrive (mkWrite h (hPORT p) Par.PORT_RETRAIN (u16 v)) s)

/-- SWEEP_START (R215). -/
def execSweepStart (h : Hdr) (v : Nat) (s : State) : Host.Outcome State Fault Refusal :=
  .next (arrive (mkWrite h hCOMP Par.COMP_SWEEP_START (u16 v)) s)

/-- MAP_SAVE (R227). -/
def execMapSave (h : Hdr) (v : Nat) (s : State) : Host.Outcome State Fault Refusal :=
  .next (arrive (mkWrite h hCOMP Par.COMP_MAP_SAVE (u16 v)) s)

/-- MAP_RELOAD (R229). -/
def execMapReload (h : Hdr) (v : Nat) (s : State) : Host.Outcome State Fault Refusal :=
  .next (arrive (mkWrite h hCOMP Par.COMP_MAP_RELOAD (u16 v)) s)

/-- UPDATE_BEGIN (R441). -/
def execUpdateBegin (h : Hdr) (n : Nat) (s : State) : Host.Outcome State Fault Refusal :=
  .next (arrive (mkWrite h hUPDATE Par.UPDATE_BEGIN (u32 n)) s)

/-- UPDATE_IMAGE (R441). -/
def execUpdateImage (h : Hdr) (off : Nat) (bs : List Nat) (s : State) : Host.Outcome State Fault Refusal :=
  .next (arrive (mkWrite h hUPDATE Par.UPDATE_IMAGE (u32 off ++ bs)) s)

/-- UPDATE_VERIFY (R441). -/
def execUpdateVerify (h : Hdr) (v : Nat) (s : State) : Host.Outcome State Fault Refusal :=
  .next (arrive (mkWrite h hUPDATE Par.UPDATE_VERIFY (u16 v)) s)

/-- ACTIVATE_AT_RESTART (R442). -/
def execActivateAtRestart (h : Hdr) (s : State) : Host.Outcome State Fault Refusal :=
  .next (arrive (mkWrite h hUPDATE Par.UPDATE_ACTIVATE [1]) s)

/-- ACTIVATE_NOW (R442, R443). -/
def execActivateNow (h : Hdr) (s : State) : Host.Outcome State Fault Refusal :=
  .next (arrive (mkWrite h hUPDATE Par.UPDATE_ACTIVATE [2]) s)

/-- CONFIRM (R444). -/
def execConfirm (h : Hdr) (v : Nat) (s : State) : Host.Outcome State Fault Refusal :=
  .next (arrive (mkWrite h hUPDATE Par.UPDATE_CONFIRM (u16 v)) s)

/-- RETIRE (R352). -/
def execRetire (h : Hdr) (c : Nat) (s : State) : Host.Outcome State Fault Refusal :=
  .next (arrive (mkWrite h hDRAM Par.DRAM_RETIRE [c]) s)

/-- FELL (R454). -/
def execFell (h : Hdr) (st t v : Nat) (s : State) : Host.Outcome State Fault Refusal :=
  .next (arrive (mkWrite h (hTILE st t) Par.TILE_FELL [v]) s)

/-- REINSTATE (R457). -/
def execReinstate (h : Hdr) (handle : Nat) (s : State) : Host.Outcome State Fault Refusal :=
  .next (arrive (mkWrite h hSTAG Par.STAG_REINSTATE (u16 handle)) s)

/-- STRESS_SET (R231). -/
def execStressSet (h : Hdr) (off : Nat) (bs : List Nat) (s : State) : Host.Outcome State Fault Refusal :=
  .next (arrive (mkWrite h hCOMP Par.COMP_STRESS_SET (u32 off ++ bs)) s)

/-- OVL_MEM_WRITE (R173). -/
def execOvlMemWrite (h : Hdr) (off : Nat) (bs : List Nat) (s : State) : Host.Outcome State Fault Refusal :=
  .next (arrive (mkWrite h hLAYERS Par.LAYERS_OVL_MEM (u32 off ++ bs)) s)

/-- BUF_TABLE_WRITE (R164, R173). -/
def execBufTableWrite (h : Hdr) (size : Bool) (elem : Option Nat) (vs : List Nat) (s : State) :
    Host.Outcome State Fault Refusal :=
  .next (arrive (mkReq h 2 hLAYERS (if size then Par.LAYERS_BUF_SIZE else Par.LAYERS_BUF_BASE) elem (vs.flatMap u32)) s)

/-- DRV_REGS_WRITE (R260). -/
def execDrvRegsWrite (h : Hdr) (off : Nat) (bs : List Nat) (s : State) : Host.Outcome State Fault Refusal :=
  .next (arrive (mkWrite h hOUTPUT Par.OUTPUT_DRV_REGS (u32 off ++ bs)) s)

/-- NTC_ENABLE_WRITE (R435). -/
def execNtcEnableWrite (h : Hdr) (n v : Nat) (s : State) : Host.Outcome State Fault Refusal :=
  .next (arrive (mkWrite h (hNTC n) Par.NTC_ENABLE [v]) s)

/-- CTRLPORT_ENABLE_WRITE (R79). -/
def execCtrlportEnableWrite (h : Hdr) (i : PortId) (v : Nat) (s : State) : Host.Outcome State Fault Refusal :=
  .next (arrive (mkWrite h (portUnit i) Par.CTRLPORT_ENABLE [v]) s)

/-! ### What requests wait for -/

/-- A request in progress is answered; while Stag restarts, its answer waits for the end of the restart (R38). -/
def answerBusy (r : Req) (ok : Bool) (s : State) : State :=
  if stagRuns s then respond r (if ok then stOK else stCHECK) [] true { s with ctrl.busy := none }
  else { s with ctrl.busy := none, ctrl.passed := some (r, ok) }

/-- A request whose program has not ended when Stag has restarted is executed again from the start (R38): what it asked of the store and
is not begun is withdrawn, and its tag, which was found right, is not looked at again. -/
def executeAgain (r : Req) (s : State) : State :=
  let s := { s with
    ctrl.busy := none
    pstore.queue := s.pstore.queue.filter (fun p => p.why != .blaze r.handle 3)
    sec.changes := s.sec.changes.filter fun c => match c with
      | .lockout => true
      | .lifecycle _ => true
      | _ => false }
  finishRequest r (execute r (port s r.port).level false none s)

/-- The request in progress, after a restart of Stag (R38). -/
def resumeRequest (s : State) : State :=
  match s.ctrl.passed, s.ctrl.busy with
  | some (r, ok), _ => answerBusy r ok { s with ctrl.passed := none }
  | none, some (_, .lifecycle _ _) => s
  | none, some (r, _) => executeAgain r s
  | none, none => s

/-- Does a key-store change wait, or is one being written, that a lifecycle transition asked for? -/
def lifecycleWaits (s : State) : Bool :=
  let l := fun (c : KeyChange) => match c with
    | .lifecycle _ => true
    | _ => false
  s.sec.changes.any l || match s.sec.writing with
    | some (c, _) => l c
    | none => false

/-- What the end of a key-store change answers or completes (R409, R415). -/
def keyChangeDone (c : KeyChange) (ok : Bool) (s : State) : State :=
  match s.ctrl.busy, c with
  | some (_, .lifecycle old new), .lifecycle _ =>
    if lifecycleWaits s then s
    else match s.ctrl.busy with
      | some (r, _) => raise 0x0B04 hDEV [old, new, portRequester r.port] { s with ctrl.busy := none }
      | none => s
  | some (_, .keyStore), .lockout => s
  | some (r, .keyStore), _ => answerBusy r ok s
  | _, _ => s

/-- What the end of a program completes, the answers that wait for it included (R387, R406, R409, R415, R457). -/
def programCompletes (p : Program) (ok : Bool) (s : State) : State :=
  let s := completeProgram p ok s
  match keyProgramDone p ok s with
  | (some (c, done), s) => keyChangeDone c done s
  | (none, s) => match p.why, s.ctrl.busy with
    | .blaze h 3, some (r, .blaze) =>
      answerBusy r ok (if ok then
        { s with pstore.blaze := s.pstore.blaze ++ [(h, 3, 0)], pstore.reinstated := (s.pstore.reinstated ++ [h]).eraseDups } else s)
    | _, _ => s

/-- PROGRAM_DONE (R379, R382): then what waited for the store goes on. -/
def execProgramDone (ok : Bool) (s : State) : Host.Outcome State Fault Refusal :=
  .next (if s.pstore.current.isNone then s
    else settle (advanceEntry (drain (endProgram programCompletes ok s))))

/-- STAG_RESTART_COMPLETE (R38, R443): then the request in progress goes on, and the requests that waited are executed. -/
def execStagRestartComplete (s : State) : Host.Outcome State Fault Refusal :=
  .next (if fabricOn s && s.stag.restarting.isSome then advanceEntry (drain (resumeRequest (stagRestarted s))) else s)

/-- SESSION_IDLE_TIMEOUT (R64). -/
def execSessionIdleTimeout (i : PortId) (s : State) : Host.Outcome State Fault Refusal :=
  .next (let n := cfg s (portUnit i) Par.CTRLPORT_IDLE_TIMEOUT
    if n = 0 ∨ (port s i).level = 0 then s
    else endSession i 1 (advanceTo ((port s i).heard + n * tickS) s))

end Sys2Proof.Machine
end

