-- ==== Sys2Proof/Machine/Ports.lean ====
section
/-! DEFINITION. How frames reach the control ports and leave them (02): SPI (R69, R70), I3C (R71), the field port's segments and
broadcasts (R72 to R74), and the dictionary channel of AUX (R75, R128 to R130). -/

namespace Sys2Proof.Machine

/-! ### Frames -/

/-- The opcodes of Table 2.5. -/
abbrev opcodes : List Nat := [0x01, 0x02, 0x10, 0x11, 0x12, 0x20]

/-- The request that the bytes of a frame spell, with what is wrong with it (Table 2.8, orders 1 and 2 of Table 2.6). -/
def frameReq (i : PortId) (bs : List Nat) : Req :=
  let n := bs.length
  let hd := bs.take (n - 2)
  let pf := leNat (sub hd 4 2)
  let len := leNat (sub hd 8 4)
  let tagged := pf.testBit 13
  let extra := if tagged then 8 else 0
  let check := leNat (bs.drop (n - 2))
  let badCheck := decide (n < 2) || crc16 (bs.take (n - 2)) != check
  let badForm := n != 14 + extra + len || decide (65540 < len) || !opcodes.contains (hd.getD 0 0)
  { port := i, op := hd.getD 0 0, seq := hd.getD 1 0, check := check, handle := leNat (sub hd 2 2), param := pf % 4096
    elem := if pf.testBit 12 then some (hd.getD 6 0) else none, byte6 := hd.getD 6 0
    tag := if tagged then some (sub bs (n - 10) 8) else none
    payload := sub bs 12 (n - 14 - extra), body := bs.take (n - 2 - extra)
    fault := if badCheck then 1 else if badForm then 2 else 0 }

/-- A frame's length by its own header: what follows in the last segment is padding (R73). -/
def frameLength (bs : List Nat) : Nat := 14 + leNat (sub bs 8 4) + (if (leNat (sub bs 4 2)).testBit 13 then 8 else 0)

/-- A frame whose check fails, or of which a segment is missing: counted, event 0x0A01 (R77). -/
def checkFailed (i : PortId) (n : Nat) (s : State) : State :=
  raise 0x0A01 (portUnit i) (u32 n) (incSat (portUnit i) Par.CTRLPORT_CHECK_ERRORS 1 s)

/-- A frame received whole, for which there is credit. -/
def frameTaken (i : PortId) (bs : List Nat) (s : State) : State :=
  let r := frameReq i bs
  let s := frameHeard i s
  takeReq r (if r.fault = 1 then checkFailed i bs.length s else s)

/-- A frame sent whole arrives at the host port. -/
def arriveFrame (i : PortId) (bs : List Nat) (s : State) : State :=
  if !fabricOn s then s
  else if noCredit s i then notTakenFrame i (frameHeard i s)
  else frameTaken i bs s

/-- The frame at the head of a port's queue has left: TX_FRAMES. -/
def frameLeft (i : PortId) (s : State) : State :=
  let p := port s i
  incWrap (portUnit i) Par.CTRLPORT_TX_FRAMES 1
    (setPort i { p with outbound := p.outbound.drop 1, closing := p.closing.map (· - 1) } s)

/-! ### SPI -/

/-- Is the host port in this mode, and powered (R69, R71)? -/
def hostIs (i3c : Bool) (s : State) : Bool := s.pins.hostsel == i3c && fabricOn s

/-- The two bytes that STATUS returns (Table 2.10). -/
def spiStatusBytes (s : State) : List Nat :=
  let p := s.ctrl.host
  [(if p.outbound.any fun f => !f.notify then 1 else 0) + (if p.outbound.any (·.notify) then 2 else 0)
    + (if p.notTaken then 4 else 0), credits s .host]

/-- SPI_STATUS: the read clears bit 2 (R70). -/
def execSpiStatus (s : State) : Host.Outcome State Fault Refusal :=
  .next (if hostIs false s then setPort .host { s.ctrl.host with notTaken := false } s else s)

/-- SPI_WRITE_FRAME: one frame, or none without credit (R70). -/
def execSpiWriteFrame (bs : List Nat) (s : State) : Host.Outcome State Fault Refusal :=
  .next (if hostIs false s then arriveFrame .host bs s else s)

/-- What READ_FRAME returns in `count` bytes: a dummy byte, the frame at the head of the queue, then 0x00 (Table 2.10, R70). -/
def spiReadBytes (s : State) (count : Nat) : List Nat :=
  padTo count (0 :: match s.ctrl.host.outbound with
    | [] => []
    | f :: _ => f.bytes)

/-- SPI_READ_FRAME: the frame leaves where it has been read whole (R70). -/
def execSpiReadFrame (count : Nat) (s : State) : Host.Outcome State Fault Refusal :=
  .next (match s.ctrl.host.outbound with
    | [] => s
    | f :: _ => if hostIs false s && decide (f.bytes.length + 1 ≤ count) then frameLeft .host s else s)

/-- Is IRQ_N driven low (R70)? -/
def irqLow (s : State) : Bool := cfgB s hHOSTPORT Par.CTRLPORT_IRQ_ENABLE && s.ctrl.host.outbound != []

/-! ### I3C -/

/-- I3C_PRIVATE_WRITE: a request, or a NACK of the address without credit (R71). -/
def execI3cPrivateWrite (bs : List Nat) (s : State) : Host.Outcome State Fault Refusal :=
  .next (if !hostIs true s || s.ctrl.host.address.isNone then s
    else if noCredit s .host then notTakenFrame .host s
    else arriveFrame .host bs s)

/-- I3C_PRIVATE_READ: the frame at the head of the queue; with none, a NACK (R71).  A read shorter than the frame leaves it at the head
(DESIGN CHOICE: log entry 11). -/
def execI3cPrivateRead (count : Nat) (s : State) : Host.Outcome State Fault Refusal :=
  .next (match s.ctrl.host.outbound with
    | [] => s
    | f :: _ => if !hostIs true s || s.ctrl.host.address.isNone then s
      else
        let s := setPort .host { s.ctrl.host with ibi := none } s
        if f.bytes.length ≤ count then frameLeft .host s else s)

/-- I3C_ENTDAA: a dynamic address for a target that has none (R71). -/
def execI3cEntdaa (a : Nat) (s : State) : Host.Outcome State Fault Refusal :=
  .next (if hostIs true s && s.ctrl.host.address.isNone then setPort .host { s.ctrl.host with address := some a } s else s)

/-- I3C_SETDASA: a dynamic address by the static address of `0B10:046` (R71). -/
def execI3cSetdasa (static_ dynamic : Nat) (s : State) : Host.Outcome State Fault Refusal :=
  .next (if hostIs true s && static_ == cfg s hHOSTPORT Par.CTRLPORT_I3C_STATIC then
      setPort .host { s.ctrl.host with address := some dynamic } s else s)

/-! ### Segments -/

/-- The partial frame of a port, or that of node 0. -/
def partialFrame (s : State) (i : PortId) (cast : Bool) : Option (List Nat × Nat) :=
  if cast then (port s i).castIn else (port s i).partialIn

/-- A partial frame replaced. -/
def setPartial (i : PortId) (cast : Bool) (b : Option (List Nat × Nat)) (s : State) : State :=
  let p := port s i
  setPort i (if cast then { p with castIn := b } else { p with partialIn := b }) s

/-- A partial frame is discarded, and answered CHECK but to node 0 (R73, R74).  Header fields that have not come are answered as 0, and a
segment that belongs to no frame is answered like a partial frame (DESIGN CHOICE: log entry 12). -/
def dropPartial (i : PortId) (cast : Bool) (b : List Nat) (s : State) : State :=
  if cast || noCredit s i then s else takeReq { frameReq i (b ++ [0, 0]) with fault := 1 } (checkFailed i b.length s)

/-- A frame whose last segment has come: to node 0 it counts, and executes only with BROADCAST at 1 (R74). -/
def frameDone (i : PortId) (cast : Bool) (b : List Nat) (s : State) : State :=
  let b := if i = .field then b.take (frameLength b) else b
  if !cast then frameTaken i b s
  else
    let s := incWrap (portUnit i) Par.CTRLPORT_RX_FRAMES 1 s
    let r := frameReq i b
    if r.fault = 1 || !cfgB s (portUnit i) Par.CTRLPORT_BROADCAST then s else inTurn { r with cast := true } s

/-- A segment joins its frame; the next count is `n + 1`. -/
def joinSegment (i : PortId) (cast : Bool) (b : List Nat) (n : Nat) (last : Bool) (s : State) : State :=
  if last then frameDone i cast b (setPartial i cast none s) else setPartial i cast (some (b, (n + 1) % 64)) s

/-- A first segment, credit permitting; with no credit the frame is skipped up to the next first segment (R67, R129). -/
def firstSegment (i : PortId) (cast : Bool) (b : List Nat) (n : Nat) (last : Bool) (s : State) : State :=
  if !cast && noCredit s i then notTakenFrame i (setPartial i cast (some ([], 64)) s)
  else if n ≠ 0 then dropPartial i cast b (setPartial i cast (some ([], 64)) s)
  else joinSegment i cast b n last s

/-- A segment of a request frame (R73). -/
def takeSegment (i : PortId) (cast : Bool) (data : List Nat) (s : State) : State :=
  let h := data.headD 0
  let first := h.testBit 7
  let last := h.testBit 6
  let n := h % 64
  let bs := data.drop 1
  match partialFrame s i cast with
  | none =>
    if first then firstSegment i cast bs n last s
    else dropPartial i cast [] (setPartial i cast (some ([], 64)) s)
  | some (b, k) =>
    if k = 64 then if first then firstSegment i cast bs n last s else s
    else if first then firstSegment i cast bs n last (dropPartial i cast b (setPartial i cast none s))
    else if n = k then joinSegment i cast (b ++ bs) n last s
    else dropPartial i cast b (setPartial i cast (some ([], 64)) s)

/-- The field port's node ID (R72). -/
def nodeId (s : State) : Nat := res s hFIELDPORT Par.CTRLPORT_NODE_ID

/-- FIELD_REQUEST_SEGMENT: to this node, or to every node (R72 to R74). -/
def execFieldRequestSegment (node : Nat) (data : List Nat) (s : State) : Host.Outcome State Fault Refusal :=
  .next (if !fabricOn s || data == [] || (node != 0 && node != nodeId s) then s
    else if node = 0 ∧ s.ctrl.field.enabled = false then s
    else takeSegment .field (node == 0) data s)

/-! ### AUX -/

/-- A request of the source on channel 1 (R128 to R130): DEFER while a training holds the pair, NOT_TAKEN for a first segment without
credit, else TAKEN. -/
def auxDictionary (data : List Nat) (s : State) : List Nat × State :=
  if auxHeld s then ([2], incSat hAUX Par.AUX_DEFERRED 1 s)
  else if (data.headD 0).testBit 7 && noCredit s .sideband then ([1], takeSegment .sideband false data s)
  else ([0], takeSegment .sideband false data s)

/-- AUX_DICTIONARY_SEGMENT (R129). -/
def execAuxDictionarySegment (f : AuxFrame) (s : State) : Host.Outcome State Fault Refusal :=
  .next (if auxChannel f ≠ 1 || !fabricOn s then s else auxRequest (auxDictionary f.payload) f s)

/-! ### What leaves by itself -/

/-- A data field padded to the smallest length of CAN FD that holds it (R73). -/
def canPad (d : List Nat) : List Nat :=
  padTo ((([12, 16, 20, 24, 32, 48, 64] : List Nat).find? fun n => decide (d.length ≤ n)).getD 64
    |> fun n => if d.length ≤ 8 then d.length else n) d

/-- The CAN FD data fields of a frame: 63 bytes each after the segment header (R73); `n` bounds them. -/
def canFields (f : Nat) : Nat → Nat → List Nat → List (Nat × List Nat)
  | 0, _, _ => []
  | n + 1, k, bs =>
    let (d, rest) := segmentOf bs k 63
    (f, canPad d) :: if rest = [] then [] else canFields f n (k + 1) rest

/-- A frame of the field port becomes data fields, in order (R72, R73). -/
def fieldPump (s : State) : State :=
  match s.ctrl.field.outbound with
  | [] => s
  | f :: _ =>
    let ds := canFields (if f.notify then 4 else 3) (f.bytes.length / 63 + 1) 0 f.bytes
    frameLeft .field { s with ctrl.can := s.ctrl.can ++ ds }

/-- A port whose own request disabled it is disabled once its response has left (R79). -/
def lateDisable (i : PortId) (s : State) : State :=
  let p := port s i
  let sending := i == .sideband && s.aux.sending.isSome
  if p.enabled && !portWanted s i && p.closing == some 0 && !sending then disablePort i s else s

end Sys2Proof.Machine
end

