-- ==== Sys2Proof/Machine/Dispatch.lean ====
section
/-! DEFINITION. The dispatch of a command to its meaning: one arm per constructor of `Instr`. -/

namespace Sys2Proof.Machine

/-- The effect of a command on everything but the queue. -/
def exec (i : Instr) (s : State) : Host.Outcome State Fault Refusal :=
  match i with
  | .read h handle param elem payload => Sys2Proof.Machine.execRead h handle param elem payload s
  | .write h handle param elem payload => Sys2Proof.Machine.execWrite h handle param elem payload s
  | .openReq h lvl password => Sys2Proof.Machine.execOpenReq h lvl password s
  | .prove h response => Sys2Proof.Machine.execProve h response s
  | .close h => Sys2Proof.Machine.execClose h s
  | .nop h => Sys2Proof.Machine.execNop h s
  | .commit h tag => Sys2Proof.Machine.execCommit h tag s
  | .store h tag => Sys2Proof.Machine.execStore h tag s
  | .restoreDefaults h tag => Sys2Proof.Machine.execRestoreDefaults h tag s
  | .shadowDiscard h value => Sys2Proof.Machine.execShadowDiscard h value s
  | .utcSet h seconds => Sys2Proof.Machine.execUtcSet h seconds s
  | .powerRequestOn h => Sys2Proof.Machine.execPowerRequestOn h s
  | .powerRequestStandby h => Sys2Proof.Machine.execPowerRequestStandby h s
  | .powerRequestOff h => Sys2Proof.Machine.execPowerRequestOff h s
  | .restart h value => Sys2Proof.Machine.execRestart h value s
  | .lifecycleRequest h target id => Sys2Proof.Machine.execLifecycleRequest h target id s
  | .operatorPassword h offset bytes => Sys2Proof.Machine.execOperatorPassword h offset bytes s
  | .integratorKey h bytes => Sys2Proof.Machine.execIntegratorKey h bytes s
  | .attestChallenge h bytes => Sys2Proof.Machine.execAttestChallenge h bytes s
  | .attestationDone => Sys2Proof.Machine.execAttestationDone s
  | .linkRetrain h value => Sys2Proof.Machine.execLinkRetrain h value s
  | .portRetrain h p value => Sys2Proof.Machine.execPortRetrain h p value s
  | .sweepStart h value => Sys2Proof.Machine.execSweepStart h value s
  | .mapSave h value => Sys2Proof.Machine.execMapSave h value s
  | .mapReload h value => Sys2Proof.Machine.execMapReload h value s
  | .updateBegin h length => Sys2Proof.Machine.execUpdateBegin h length s
  | .updateImage h offset bytes => Sys2Proof.Machine.execUpdateImage h offset bytes s
  | .updateVerify h tag => Sys2Proof.Machine.execUpdateVerify h tag s
  | .imageVerified => Sys2Proof.Machine.execImageVerified s
  | .activateAtRestart h => Sys2Proof.Machine.execActivateAtRestart h s
  | .activateNow h => Sys2Proof.Machine.execActivateNow h s
  | .flashOperationComplete ok => Sys2Proof.Machine.execFlashOperationComplete ok s
  | .confirm h tag => Sys2Proof.Machine.execConfirm h tag s
  | .retire h channel => Sys2Proof.Machine.execRetire h channel s
  | .fell h stand tile value => Sys2Proof.Machine.execFell h stand tile value s
  | .reinstate h handle => Sys2Proof.Machine.execReinstate h handle s
  | .stressSet h offset bytes => Sys2Proof.Machine.execStressSet h offset bytes s
  | .ovlMemWrite h offset bytes => Sys2Proof.Machine.execOvlMemWrite h offset bytes s
  | .bufTableWrite h isSize elem values => Sys2Proof.Machine.execBufTableWrite h isSize elem values s
  | .drvRegsWrite h offset bytes => Sys2Proof.Machine.execDrvRegsWrite h offset bytes s
  | .ntcEnableWrite h input value => Sys2Proof.Machine.execNtcEnableWrite h input value s
  | .ctrlportEnableWrite h target value => Sys2Proof.Machine.execCtrlportEnableWrite h target value s
  | .spiStatus => Sys2Proof.Machine.execSpiStatus s
  | .spiWriteFrame bytes => Sys2Proof.Machine.execSpiWriteFrame bytes s
  | .spiReadFrame count => Sys2Proof.Machine.execSpiReadFrame count s
  | .i3cPrivateWrite bytes => Sys2Proof.Machine.execI3cPrivateWrite bytes s
  | .i3cPrivateRead count => Sys2Proof.Machine.execI3cPrivateRead count s
  | .i3cEntdaa address => Sys2Proof.Machine.execI3cEntdaa address s
  | .i3cSetdasa sta dynamic => Sys2Proof.Machine.execI3cSetdasa sta dynamic s
  | .fieldRequestSegment node data => Sys2Proof.Machine.execFieldRequestSegment node data s
  | .auxDictionarySegment f => Sys2Proof.Machine.execAuxDictionarySegment f s
  | .sessionIdleTimeout port => Sys2Proof.Machine.execSessionIdleTimeout port s
  | .challengeExpiry port => Sys2Proof.Machine.execChallengeExpiry port s
  | .lockoutSecond port => Sys2Proof.Machine.execLockoutSecond port s
  | .lockstepMismatch => Sys2Proof.Machine.execLockstepMismatch s
  | .watchdogExpiry => Sys2Proof.Machine.execWatchdogExpiry s
  | .stagRestartComplete => Sys2Proof.Machine.execStagRestartComplete s
  | .confirmTimeout => Sys2Proof.Machine.execConfirmTimeout s
  | .thermalSample sensor temp => Sys2Proof.Machine.execThermalSample sensor temp s
  | .voltageSample monitor mv => Sys2Proof.Machine.execVoltageSample monitor mv s
  | .ntcSample input code => Sys2Proof.Machine.execNtcSample input code s
  | .operatingMinute => Sys2Proof.Machine.execOperatingMinute s
  | .caps f => Sys2Proof.Machine.execCaps f s
  | .capsResendTimer => Sys2Proof.Machine.execCapsResendTimer s
  | .trainingStateTimeout finished => Sys2Proof.Machine.execTrainingStateTimeout finished s
  | .bitlockComplete lanes => Sys2Proof.Machine.execBitlockComplete lanes s
  | .blocklockComplete lanes => Sys2Proof.Machine.execBlocklockComplete lanes s
  | .deskewComplete lanes => Sys2Proof.Machine.execDeskewComplete lanes s
  | .eqAck f => Sys2Proof.Machine.execEqAck f s
  | .eqMeasurementDone lanes => Sys2Proof.Machine.execEqMeasurementDone lanes s
  | .verifyWindowEnd lanes => Sys2Proof.Machine.execVerifyWindowEnd lanes s
  | .backoffExpiry => Sys2Proof.Machine.execBackoffExpiry s
  | .retrainReq f => Sys2Proof.Machine.execRetrainReq f s
  | .laneLockLost lane cause types => Sys2Proof.Machine.execLaneLockLost lane cause types s
  | .laneSignalLost mask => Sys2Proof.Machine.execLaneSignalLost mask s
  | .idleColumn received => Sys2Proof.Machine.execIdleColumn received s
  | .idlePowerDown => Sys2Proof.Machine.execIdlePowerDown s
  | .fastExit failed => Sys2Proof.Machine.execFastExit failed s
  | .idleSignalDetected lane => Sys2Proof.Machine.execIdleSignalDetected lane s
  | .wakeRequest f => Sys2Proof.Machine.execWakeRequest f s
  | .laneMarginCheck margins => Sys2Proof.Machine.execLaneMarginCheck margins s
  | .fillerColumn drift => Sys2Proof.Machine.execFillerColumn drift s
  | .frameStart p => Sys2Proof.Machine.execFrameStart p s
  | .line p => Sys2Proof.Machine.execLine p s
  | .regionUpdate p => Sys2Proof.Machine.execRegionUpdate p s
  | .frameEnd p => Sys2Proof.Machine.execFrameEnd p s
  | .sleepNotice p => Sys2Proof.Machine.execSleepNotice p s
  | .controlUser p => Sys2Proof.Machine.execControlUser p s
  | .reservedPacket type p => Sys2Proof.Machine.execReservedPacket type p s
  | .lineDeadline port line => Sys2Proof.Machine.execLineDeadline port line s
  | .auxAnswer f => Sys2Proof.Machine.execAuxAnswer f s
  | .auxRequestTimeout => Sys2Proof.Machine.execAuxRequestTimeout s
  | .auxUnknownChannel f => Sys2Proof.Machine.execAuxUnknownChannel f s
  | .cpHello f => Sys2Proof.Machine.execCpHello f s
  | .cpConfirm f => Sys2Proof.Machine.execCpConfirm f s
  | .cpConfirmTimeout => Sys2Proof.Machine.execCpConfirmTimeout s
  | .cpDrop f => Sys2Proof.Machine.execCpDrop f s
  | .lineStart => Sys2Proof.Machine.execLineStart s
  | .freeAnchor => Sys2Proof.Machine.execFreeAnchor s
  | .earliestAnchor => Sys2Proof.Machine.execEarliestAnchor s
  | .latestAnchor => Sys2Proof.Machine.execLatestAnchor s
  | .selfAnchor => Sys2Proof.Machine.execSelfAnchor s
  | .syncInEdge => Sys2Proof.Machine.execSyncInEdge s
  | .syncInTimeout => Sys2Proof.Machine.execSyncInTimeout s
  | .tileLineQueued port line beats => Sys2Proof.Machine.execTileLineQueued port line beats s
  | .driverStatus port blocks => Sys2Proof.Machine.execDriverStatus port blocks s
  | .senseResult port blocks => Sys2Proof.Machine.execSenseResult port blocks s
  | .reverseWindowEnd port => Sys2Proof.Machine.execReverseWindowEnd port s
  | .readbackCompare port lane line blocks => Sys2Proof.Machine.execReadbackCompare port lane line blocks s
  | .olaneLockLost port lane => Sys2Proof.Machine.execOlaneLockLost port lane s
  | .othamTrainingTimer port => Sys2Proof.Machine.execOthamTrainingTimer port s
  | .pgoodChange pin lvl => Sys2Proof.Machine.execPgoodChange pin lvl s
  | .pgoodLost pin => Sys2Proof.Machine.execPgoodLost pin s
  | .seqDelayExpiry => Sys2Proof.Machine.execSeqDelayExpiry s
  | .seqStepTimeout => Sys2Proof.Machine.execSeqStepTimeout s
  | .pmbusWriteDone result => Sys2Proof.Machine.execPmbusWriteDone result s
  | .pmbusRetryTimer => Sys2Proof.Machine.execPmbusRetryTimer s
  | .refSettled => Sys2Proof.Machine.execRefSettled s
  | .pumpOutOfRegulation mv => Sys2Proof.Machine.execPumpOutOfRegulation mv s
  | .pumpRegulating mv => Sys2Proof.Machine.execPumpRegulating mv s
  | .dischargeHoldEnd => Sys2Proof.Machine.execDischargeHoldEnd s
  | .avddRefSample mv => Sys2Proof.Machine.execAvddRefSample mv s
  | .sweepIntervalExpiry => Sys2Proof.Machine.execSweepIntervalExpiry s
  | .mapSaveInterval => Sys2Proof.Machine.execMapSaveInterval s
  | .mapSaveComplete failed => Sys2Proof.Machine.execMapSaveComplete failed s
  | .mapRowLoaded stress row chunk => Sys2Proof.Machine.execMapRowLoaded stress row chunk s
  | .workingMapRebuilt => Sys2Proof.Machine.execWorkingMapRebuilt s
  | .dramReadComplete line cls attempts => Sys2Proof.Machine.execDramReadComplete line cls attempts s
  | .migrationComplete lost => Sys2Proof.Machine.execMigrationComplete lost s
  | .dramRefreshDue channel bank rate => Sys2Proof.Machine.execDramRefreshDue channel bank rate s
  | .rdTableClear => Sys2Proof.Machine.execRdTableClear s
  | .throttleExpiry cls => Sys2Proof.Machine.execThrottleExpiry cls s
  | .dramRequestPromotion channel => Sys2Proof.Machine.execDramRequestPromotion channel s
  | .fineRetrainTimer channel drift => Sys2Proof.Machine.execFineRetrainTimer channel drift s
  | .fullRetrainPiece channel last failed => Sys2Proof.Machine.execFullRetrainPiece channel last failed s
  | .dramIdleTimeout => Sys2Proof.Machine.execDramIdleTimeout s
  | .dramScrubStep errors => Sys2Proof.Machine.execDramScrubStep errors s
  | .dramTrainingDone reports => Sys2Proof.Machine.execDramTrainingDone reports s
  | .sramAccess bank a b => Sys2Proof.Machine.execSramAccess bank a b s
  | .addWrap bank portB offset lane delta => Sys2Proof.Machine.execAddWrap bank portB offset lane delta s
  | .addSat bank portB offset lane delta => Sys2Proof.Machine.execAddSat bank portB offset lane delta s
  | .swap bank portB offset lane value => Sys2Proof.Machine.execSwap bank portB offset lane value s
  | .sramScrubStep bank reads => Sys2Proof.Machine.execSramScrubStep bank reads s
  | .spareCopyDone bank => Sys2Proof.Machine.execSpareCopyDone bank s
  | .testWindow fault held => Sys2Proof.Machine.execTestWindow fault held s
  | .programDone verified => Sys2Proof.Machine.execProgramDone verified s
  | .logGatherTimeout => Sys2Proof.Machine.execLogGatherTimeout s
  | .tamper source measured => Sys2Proof.Machine.execTamper source measured s
  | .tamperClear => Sys2Proof.Machine.execTamperClear s
  | .entropyFailure test => Sys2Proof.Machine.execEntropyFailure test s
  | .testPortInstruction word => Sys2Proof.Machine.execTestPortInstruction word s
  | .testPortChallenge response => Sys2Proof.Machine.execTestPortChallenge response s
  | .monitorMeasurement unit tcyc => Sys2Proof.Machine.execMonitorMeasurement unit tcyc s
  | .marginPeriod => Sys2Proof.Machine.execMarginPeriod s
  | .avsStatus mv => Sys2Proof.Machine.execAvsStatus mv s
  | .avsTimeout => Sys2Proof.Machine.execAvsTimeout s
  | .vcoreRampStep => Sys2Proof.Machine.execVcoreRampStep s
  | .vcoreSearchStep => Sys2Proof.Machine.execVcoreSearchStep s
  | .powerOnReset => Sys2Proof.Machine.execPowerOnReset s
  | .resetN => Sys2Proof.Machine.execResetN s
  | .resetRelease hostsel node xin => Sys2Proof.Machine.execResetRelease hostsel node xin s
  | .referenceReady => Sys2Proof.Machine.execReferenceReady s
  | .firmwareStarted => Sys2Proof.Machine.execFirmwareStarted s
  | .storeReadDone => Sys2Proof.Machine.execStoreReadDone s
  | .smallBankLoaded => Sys2Proof.Machine.execSmallBankLoaded s
  | .standbyTimer => Sys2Proof.Machine.execStandbyTimer s
  | .offTimer => Sys2Proof.Machine.execOffTimer s
  | .fullWake source => Sys2Proof.Machine.execFullWake source s
  | .serviceWake source => Sys2Proof.Machine.execServiceWake source s
  | .wakeTimer => Sys2Proof.Machine.execWakeTimer s
  | .serviceWakeTimeout => Sys2Proof.Machine.execServiceWakeTimeout s
  | .resourceReadyTimeout r => Sys2Proof.Machine.execResourceReadyTimeout r s
  | .powerFailWarning mv => Sys2Proof.Machine.execPowerFailWarning mv s
  | .powerFailRecovery => Sys2Proof.Machine.execPowerFailRecovery s
  | .genlockAnchor => Sys2Proof.Machine.execGenlockAnchor s
  | .selfRefreshExit channel ns => Sys2Proof.Machine.execSelfRefreshExit channel ns s
  | .rowRepaired channel bank row => Sys2Proof.Machine.execRowRepaired channel bank row s
  | .domainPowerGood dram => Sys2Proof.Machine.execDomainPowerGood dram s
  | .auxCollision => Sys2Proof.Machine.execAuxCollision s
  | .metAfter1Ms => Sys2Proof.Machine.execMetAfter1Ms s

end Sys2Proof.Machine
end

