-- ==== Sys2Proof/Machine/Tick.lean ====
section
/-! DEFINITION. What passes while no command waits (log entry 1): one raster tick, and what the device does by itself as soon as it
can. -/

namespace Sys2Proof.Machine

/-- The oldest corrected line whose channel serves is written back (R341, R349). -/
def writeBack (s : State) : State :=
  match s.dram.writeBacks.find? fun l => chanServes s (lineHome s l).ch with
  | some l => { s with dram.writeBacks := s.dram.writeBacks.erase l }
  | none => s

/-- Readings of the NTC inputs that have become stale (R435). -/
def staleReadings (s : State) : State :=
  if stagRuns s then (List.range 4).foldl (fun s n => ntcStale n s) s else s

/-- An entry to STANDBY or OFF leaves step 1, a restart by command goes on (R486, R497). -/
def powerPump (s : State) : State :=
  if s.power.restarting then advanceRestart s else leaveStepOne s

/-- What the control ports send and finish by themselves. -/
def portPump (s : State) : State :=
  lateDisable .sideband (lateDisable .field (auxPump (fieldPump s)))

/-- One raster tick passes. -/
def tick (s : State) : State :=
  let s := { s with now := s.now + 1 }
  if !fabricOn s then s else powerPump (portPump (linkAdapt (staleReadings (writeBack s))))

end Sys2Proof.Machine
end

