-- ==== Sys2Proof/Machine/Pins.lean ====
section
/-! DEFINITION. The package's balls and the pins (20): the names and places of the signal balls (R499 to R501), what every other ball
carries (R502), and what each pin does in a state (R416, R483, R504, R506).  No command's effect rests on a ball's place. -/

namespace Sys2Proof.Machine

/-! ### Balls -/

/-- A rail of Table 20.2, or ground. -/
inductive Rail where
  | vcore | vddSram | vddSer | vddIo18 | vddIo33 | vdd1 | vdd2h | vddq | vaon | avddRef | vss
  deriving DecidableEq, Repr

/-- A signal of Table 20.1; `neg` for the second ball of a differential pair. -/
inductive Signal where
  | xspiDq (n : Nat) | xspiClk | xspiDqs | xspiCsN | xspiResetN
  | hostSclk | hostCsN | hostMosi | hostMiso
  | canTxd | canRxd
  | hostsel | node (n : Nat)
  | swk (lane : Nat) (neg : Bool)
  | refclk (neg : Bool) | aux (neg : Bool)
  | syncIn | syncOut
  | wake | faultN | resetN | tamperN | irqN
  | xin | xout
  | tck | tms | tdi | tdo | trstN
  | pon (n : Nat) | pgood (n : Nat)
  | pmbClk | pmbData | avsClk | avsMdata | avsSdata
  | ntc (n : Nat) | gref (n : Nat) | srefN
  | row (set : Nat) (output : Nat)
  | otham (port lane : Nat) (neg : Bool)
  deriving DecidableEq, Repr

/-- The row names by row index (R499). -/
def rowNames : List String :=
  ["A", "B", "C", "D", "E", "F", "G", "H", "J", "K", "L", "M", "N", "P", "T", "U", "V", "W", "Y"]
  ++ ["AA", "AB", "AC", "AD", "AE", "AF", "AG", "AH", "AJ", "AK", "AL", "AM", "AN", "AP"]
  ++ ["AT", "AU", "AV", "AW", "AY", "BA"]

/-- A ball: row index and column (R499). -/
structure Ball where
  row : Nat
  col : Nat
  deriving DecidableEq, Repr

/-- A ball's name, as in AU35 (R499). -/
def ballName (b : Ball) : String := rowNames.getD b.row "" ++ toString b.col

/-- The column of a port's ball: lane A or B, positive or negative (R501). -/
def portColumn (port lane : Nat) (neg : Bool) : Nat :=
  if port < 32 then 1 + 3 * lane + (if neg then 1 else 0) else 39 - 3 * lane - (if neg then 1 else 0)

/-- The ball of a signal (Table 20.1, R501). -/
def signalBall : Signal → Ball
  | .xspiDq n => ⟨0, 1 + n⟩
  | .xspiClk => ⟨0, 9⟩
  | .xspiDqs => ⟨0, 10⟩
  | .xspiCsN => ⟨0, 11⟩
  | .xspiResetN => ⟨1, 1⟩
  | .hostSclk => ⟨1, 2⟩
  | .hostCsN => ⟨1, 3⟩
  | .hostMosi => ⟨1, 4⟩
  | .hostMiso => ⟨1, 5⟩
  | .canTxd => ⟨1, 6⟩
  | .canRxd => ⟨1, 7⟩
  | .hostsel => ⟨1, 8⟩
  | .node n => ⟨1, 9 + n⟩
  | .swk n neg => ⟨if neg then 1 else 0, 12 + n⟩
  | .refclk neg => ⟨if neg then 1 else 0, 29⟩
  | .aux neg => ⟨if neg then 1 else 0, 31⟩
  | .syncIn => ⟨0, 32⟩
  | .syncOut => ⟨0, 33⟩
  | .wake => ⟨0, 34⟩
  | .irqN => ⟨0, 35⟩
  | .faultN => ⟨0, 36⟩
  | .resetN => ⟨0, 37⟩
  | .tamperN => ⟨0, 38⟩
  | .xin => ⟨0, 39⟩
  | .xout => ⟨1, 39⟩
  | .tck => ⟨1, 32⟩
  | .tms => ⟨1, 33⟩
  | .tdi => ⟨1, 34⟩
  | .tdo => ⟨1, 35⟩
  | .trstN => ⟨1, 36⟩
  | .pon n => ⟨35, 9 + n⟩
  | .pgood n => ⟨35, 15 + n⟩
  | .pmbClk => ⟨35, 21⟩
  | .pmbData => ⟨35, 22⟩
  | .avsClk => ⟨35, 23⟩
  | .avsMdata => ⟨35, 24⟩
  | .avsSdata => ⟨35, 25⟩
  | .ntc n => ⟨35, 26 + n⟩
  | .gref n => ⟨36, 9 + n⟩
  | .srefN => ⟨36, 27⟩
  | .row set o => ⟨37 + set, 9 + o⟩
  | .otham p lane neg => ⟨3 + p % 32, portColumn p lane neg⟩

/-- The rail that powers a signal's driver or receiver (Table 20.1). -/
def signalRail : Signal → Rail
  | .xspiDq _ | .xspiClk | .xspiDqs | .xspiCsN | .xspiResetN => .vddIo18
  | .hostSclk | .hostCsN | .hostMosi | .hostMiso | .hostsel | .node _ => .vddIo18
  | .irqN | .tck | .tms | .tdi | .tdo | .trstN | .ntc _ => .vddIo18
  | .canTxd | .canRxd | .syncIn | .syncOut | .pgood _ | .pmbClk | .pmbData | .row _ _ => .vddIo33
  | .swk _ _ | .refclk _ | .aux _ | .otham _ _ _ => .vddSer
  | .wake | .faultN | .resetN | .tamperN | .xin | .xout | .pon _ | .avsClk | .avsMdata | .avsSdata => .vaon
  | .gref _ | .srefN => .avddRef

/-- Both balls of a pair. -/
def bothBalls (f : Bool → Signal) : List Signal := [f false, f true]

/-- Every signal of the package (Table 20.1). -/
def allSignals : List Signal :=
  (List.range 8).map .xspiDq ++ [.xspiClk, .xspiDqs, .xspiCsN, .xspiResetN, .hostSclk, .hostCsN, .hostMosi, .hostMiso]
  ++ [.canTxd, .canRxd, .hostsel] ++ (List.range 3).map .node
  ++ (List.range 16).flatMap (fun n => bothBalls (.swk n)) ++ bothBalls .refclk ++ bothBalls .aux
  ++ [.syncIn, .syncOut, .wake, .faultN, .resetN, .tamperN, .irqN, .xin, .xout, .tck, .tms, .tdi, .tdo, .trstN]
  ++ (List.range 6).map .pon ++ (List.range 6).map .pgood ++ [.pmbClk, .pmbData, .avsClk, .avsMdata, .avsSdata]
  ++ (List.range 4).map .ntc ++ (List.range 18).map .gref ++ [.srefN]
  ++ (List.range 2).flatMap (fun set => (List.range 23).map (.row set))
  ++ (List.range 64).flatMap (fun p => bothBalls (.otham p 0) ++ bothBalls (.otham p 1))

/-- The rail of a row's band in the core field (R502). -/
def bandRail (row : Nat) : Rail :=
  if row = 3 then .vdd1 else if row < 6 then .vdd2h else if row < 8 then .vddq else if row < 13 then .vddSram
  else if row < 34 then .vcore else .vddIo33

/-- What a ball that is no signal's carries (Table 20.2). -/
def supplyBall (b : Ball) : Rail :=
  if 3 ≤ b.row ∧ b.row ≤ 34 then
    if 9 ≤ b.col ∧ b.col ≤ 31 then (if (b.row + b.col) % 2 = 0 then .vss else bandRail b.row)
    else if b.col = 7 ∨ b.col = 33 then .vddSer else .vss
  else match b.row with
  | 1 => if b.col = 37 ∨ b.col = 38 then .vaon else .vss
  | 2 =>
    if 28 ≤ b.col ∧ b.col ≤ 31 then .vddSer
    else if b.col = 38 ∨ b.col = 39 then .vaon
    else if b.col ∈ [1, 3, 5, 7, 9, 11, 32, 34, 36] then .vddIo18 else .vss
  | 36 => if 28 ≤ b.col ∧ b.col ≤ 31 then .avddRef else .vss
  | _ => .vss

/-- What a ball carries: a signal, or a supply. -/
def ballCarries (b : Ball) : Signal ⊕ Rail :=
  match allSignals.find? fun x => signalBall x == b with
  | some x => .inl x
  | none => .inr (supplyBall b)

/-! ### What a pin does -/

/-- What the device does at a pin: nothing, a level, what the pin's own rules give, termination or squelch detection of a receiver, or
what the boundary cells give. -/
inductive PinDrive where
  | highZ | low | high | owned | terminated | squelch | receive | boundary
  deriving DecidableEq, Repr

/-- Does the test port's instruction give the pins to the boundary cells (R416)? -/
def boundaryDrives (s : State) : Bool := s.sec.testIr == .extest || s.sec.testIr == .intest || s.sec.testIr == .clamp

/-- What a signal pin does in RUN, SELF and HOLD (Table 19.5). -/
def pinAwake (s : State) : Signal → PinDrive
  | .pon n => if s.panel.pon.testBit n then .high else .low
  | .irqN => if irqLow s then .low else .highZ
  | .row _ _ => if s.panel.drive = .floating then .highZ else .owned
  | .gref n => if s.panel.refs && (cfg s hREFLADDER Par.REFLADDER_GREF_ENABLE).testBit n then .owned else .highZ
  | .otham p _ _ => if (oport s p).powered then .owned else .highZ
  | .swk n _ => if (cfg s hLINK Par.LINK_LANES_ENABLE).testBit n then .terminated else .highZ
  | .hostsel | .node _ | .wake | .resetN | .tamperN | .pgood _ | .syncIn | .ntc _ | .xin | .refclk _ => .receive
  | _ => .owned

/-- What a signal pin does in STANDBY and OFF (Table 19.5). -/
def pinAsleep : Signal → PinDrive
  | .pon _ => .low
  | .swk _ _ => .squelch
  | .aux _ => .receive
  | .avsClk | .avsMdata | .avsSdata => .owned
  | .wake | .resetN | .tamperN | .hostCsN | .canRxd => .receive
  | _ => .highZ

/-- What a signal pin does (R416, R470, R476, R483, R504): in reset every one is high-impedance; FAULT_N is driven from the always-on
domain. -/
def pinDrive (s : State) (x : Signal) : PinDrive :=
  if s.power.phase = .reset then .highZ
  else if boundaryDrives s then .boundary
  else if x = .faultN then (if s.resil.faultN then .low else .highZ)
  else if awake s then pinAwake s x else pinAsleep x

end Sys2Proof.Machine
end

