-- ==== Sys2Proof/Safety.lean ====
section
/-! DEFINITION. The terms in which claims about a step are made: the parts of the state, what it means that a step changes
some of them alone, the canonical form of every memory and table, and a step that goes on.  A failure of the spec is state (a
health code, an event, FAULT_N), so a step that goes on may well record a failure. -/

namespace Sys2Proof.Machine

/-- An outcome that goes on. -/
def Outcome.goesOn (o : Host.Outcome State Fault Refusal) : Prop := ∃ t, o = .next t

/-- The device goes on from a state. -/
def State.safe (s : State) : Prop := Outcome.goesOn (step s)

/-! ### Parts -/

/-- The parts of the state that frames speak of. -/
inductive Part where
  | now | epoch | config | shadow | results | events | counts | requests | ports | can
  | store | storeState | storeQueue | tallies | fuses | security | heldEvents | stag | clocks | sensors | slots | image
  | link | aux | rx | raster | flash | pipe | out | panel | fstore | dram | sramMem | sram | resil | power | pins | free | pending
  deriving DecidableEq, Repr

/-- The two states have the same part. -/
def Part.same (s t : State) : Part → Prop
  | .now => t.now = s.now
  | .epoch => t.epoch = s.epoch
  | .config => t.dict.cfg = s.dict.cfg
  | .shadow => (t.dict.held, t.dict.items, t.dict.patch, t.dict.commits) = (s.dict.held, s.dict.items, s.dict.patch, s.dict.commits)
  | .results => (t.dict.res, t.dict.gens) = (s.dict.res, s.dict.gens)
  | .events => (t.dict.limited, t.dict.lastEvent, t.dict.ordinal) = (s.dict.limited, s.dict.lastEvent, s.dict.ordinal)
  | .counts => (t.dict.ce, t.dict.ue) = (s.dict.ce, s.dict.ue)
  | .requests => (t.ctrl.waiting, t.ctrl.busy, t.ctrl.passed) = (s.ctrl.waiting, s.ctrl.busy, s.ctrl.passed)
  | .ports => (t.ctrl.host, t.ctrl.field, t.ctrl.sideband) = (s.ctrl.host, s.ctrl.field, s.ctrl.sideband)
  | .can => t.ctrl.can = s.ctrl.can
  | .store => t.pstore.mem = s.pstore.mem
  | .storeQueue => (t.pstore.queue, t.pstore.current, t.pstore.mirror, t.pstore.gathered, t.pstore.queued, t.pstore.gatherAt,
      t.pstore.notLogged, t.pstore.nextSeq, t.pstore.programmed)
      = (s.pstore.queue, s.pstore.current, s.pstore.mirror, s.pstore.gathered, s.pstore.queued, s.pstore.gatherAt,
      s.pstore.notLogged, s.pstore.nextSeq, s.pstore.programmed)
  | .tallies => (t.pstore.tally, t.pstore.holder, t.pstore.tallyFull) = (s.pstore.tally, s.pstore.holder, s.pstore.tallyFull)
  | .storeState => (t.pstore.warned, t.pstore.storeTag, t.pstore.storeSlotB, t.pstore.storeLen, t.pstore.blaze, t.pstore.reinstated, t.pstore.repairs,
      t.pstore.identityOk, t.pstore.blazeFull, t.pstore.wearRaised, t.pstore.limited, t.pstore.read)
      = (s.pstore.warned, s.pstore.storeTag, s.pstore.storeSlotB, s.pstore.storeLen, s.pstore.blaze, s.pstore.reinstated, s.pstore.repairs,
      s.pstore.identityOk, s.pstore.blazeFull, s.pstore.wearRaised, s.pstore.limited, s.pstore.read)
  | .fuses => (t.sec.huk, t.sec.rootHash, t.sec.venCopy, t.sec.lifecycle, t.sec.returnsLeft)
      = (s.sec.huk, s.sec.rootHash, s.sec.venCopy, s.sec.lifecycle, s.sec.returnsLeft)
  | .security => { t.sec with huk := [], rootHash := [], venCopy := [], lifecycle := 0, returnsLeft := 0 }
      = { s.sec with huk := [], rootHash := [], venCopy := [], lifecycle := 0, returnsLeft := 0 }
  | .heldEvents => (t.stag.events, t.stag.overflow) = (s.stag.events, s.stag.overflow)
  | .stag => (t.stag.restarting, t.stag.restarts, t.stag.running, t.stag.recovery, t.stag.slot, t.stag.trial, t.stag.trialSince)
      = (s.stag.restarting, s.stag.restarts, s.stag.running, s.stag.recovery, s.stag.slot, s.stag.trial, s.stag.trialSince)
  | .clocks => (t.stag.opBase, t.stag.opAt, t.stag.opRuns, t.stag.caughtUp, t.stag.utcBase, t.stag.utcAt, t.stag.utcValid)
      = (s.stag.opBase, s.stag.opAt, s.stag.opRuns, s.stag.caughtUp, s.stag.utcBase, s.stag.utcAt, s.stag.utcValid)
  | .sensors => (t.stag.therm, t.stag.vmon, t.stag.ntc) = (s.stag.therm, s.stag.vmon, s.stag.ntc)
  | .slots => (t.stag.slotA, t.stag.slotB, t.stag.activation) = (s.stag.slotA, s.stag.slotB, s.stag.activation)
  | .image => (t.stag.imageLen, t.stag.image) = (s.stag.imageLen, s.stag.image)
  | .link => t.link = s.link
  | .aux => t.aux = s.aux
  | .rx => t.rx = s.rx
  | .raster => t.raster = s.raster
  | .flash => t.pipe.flash = s.pipe.flash
  | .pipe => { t.pipe with flash := [] } = { s.pipe with flash := [] }
  | .out => t.out = s.out
  | .panel => t.panel = s.panel
  | .fstore => t.fstore = s.fstore
  | .dram => t.dram = s.dram
  | .sramMem => t.sram.mem = s.sram.mem
  | .sram => { t.sram with mem := [] } = { s.sram with mem := [] }
  | .resil => t.resil = s.resil
  | .power => t.power = s.power
  | .pins => t.pins = s.pins
  | .free => t.free = s.free
  | .pending => t.pending = s.pending

/-- Every part. -/
def Part.all : List Part :=
  [.now, .epoch, .config, .shadow, .results, .events, .counts, .requests, .ports, .can, .store, .storeState, .storeQueue, .tallies] ++
  [.fuses, .security, .heldEvents, .stag, .clocks, .sensors, .slots, .image, .link, .aux, .rx, .raster, .flash, .pipe] ++
  [.out, .panel, .fstore, .dram, .sramMem, .sram, .resil, .power, .pins, .free, .pending]

/-- Every part but those listed. -/
def Part.but (qs : List Part) : List Part := Part.all.filter fun p => !qs.contains p

/-- `t` differs from `s` in the parts listed alone. -/
def State.differsIn (ps : List Part) (s t : State) : Prop := ∀ p, ps.contains p = false → p.same s t

/-- What the raising of an event changes: the results and LAST_EVENT, the queues of notifications, and the log or the events held
for it. -/
abbrev Part.told : List Part := [.results, .events, .ports, .storeQueue, .heldEvents]

/-- The parts of the state that a command may change. -/
def footprint : Instr → List Part
  | .rdTableClear | .dramRequestPromotion .. =>
    [.dram]
  | .monitorMeasurement .. =>
    [.pipe]
  | .spiStatus | .i3cEntdaa .. | .i3cSetdasa .. =>
    [.ports]
  | .vcoreRampStep =>
    [.resil]
  | .throttleExpiry .. =>
    [.now, .dram]
  | .idlePowerDown =>
    [.now, .link]
  | .pmbusRetryTimer =>
    [.now, .panel]
  | .challengeExpiry .. =>
    [.now, .ports]
  | .lockoutSecond .. =>
    [.now, .results]
  | .logGatherTimeout =>
    [.now, .storeQueue]
  | .dramRefreshDue .. | .dramIdleTimeout =>
    [.results, .dram]
  | .blocklockComplete .. =>
    [.results, .link]
  | .spiReadFrame .. | .i3cPrivateRead .. =>
    [.results, .ports]
  | .testPortChallenge .. =>
    [.security, .free]
  | .fineRetrainTimer .. =>
    [.now, .results, .dram]
  | .sweepIntervalExpiry =>
    [.now, .results, .pipe]
  | .auxUnknownChannel .. =>
    [.results, .link, .aux]
  | .bitlockComplete .. =>
    [.results, .link, .free]
  | .capsResendTimer =>
    [.results, .ports, .aux]
  | .deskewComplete .. =>
    [.results, .ports, .link, .aux]
  | .eqMeasurementDone .. | .backoffExpiry =>
    [.now, .results, .ports, .link, .aux]
  | .imageVerified =>
    Part.told
  | .sessionIdleTimeout .. =>
    Part.told ++ [.now]
  | .laneMarginCheck .. =>
    Part.told ++ [.link]
  | .pumpOutOfRegulation .. =>
    Part.told ++ [.panel]
  | .workingMapRebuilt =>
    Part.told ++ [.pipe]
  | .syncInEdge =>
    Part.told ++ [.raster]
  | .avddRefSample .. =>
    Part.told ++ [.now, .panel]
  | .standbyTimer =>
    Part.told ++ [.now, .power]
  | .syncInTimeout =>
    Part.told ++ [.now, .raster]
  | .voltageSample .. =>
    Part.told ++ [.now, .sensors]
  | .cpConfirmTimeout | .tamperClear =>
    Part.told ++ [.now, .security]
  | .readbackCompare .. | .olaneLockLost .. =>
    Part.told ++ [.out, .resil]
  | .testWindow .. =>
    Part.told ++ [.sram, .resil]
  | .lockstepMismatch | .watchdogExpiry =>
    Part.told ++ [.stag, .resil]
  | .attestationDone =>
    Part.told ++ [.security, .free]
  | .entropyFailure .. =>
    Part.told ++ [.security, .resil]
  | .spareCopyDone .. =>
    Part.told ++ [.storeState, .sram]
  | .resetRelease .. =>
    Part.told ++ [.epoch, .power, .pins]
  | .mapSaveInterval =>
    Part.told ++ [.now, .flash, .pipe]
  | .ntcSample .. =>
    Part.told ++ [.now, .sensors, .free]
  | .operatingMinute =>
    Part.told ++ [.now, .tallies, .clocks]
  | .mapRowLoaded .. =>
    Part.told ++ [.flash, .pipe, .free]
  | .senseResult .. =>
    Part.told ++ [.shadow, .pipe, .out]
  | .thermalSample .. =>
    Part.told ++ [.now, .sensors, .resil, .power]
  | .marginPeriod =>
    Part.told ++ [.now, .storeState, .pipe, .resil]
  | .sramAccess .. | .addWrap .. | .addSat .. | .swap .. | .sramScrubStep .. =>
    Part.told ++ [.counts, .sramMem, .sram, .resil]
  | .referenceReady =>
    Part.told ++ [.clocks, .sramMem, .sram, .power]
  | .migrationComplete .. =>
    Part.told ++ [.flash, .pipe, .dram, .free]
  | .cpHello .. | .cpConfirm .. | .cpDrop .. =>
    Part.told ++ [.security, .link, .aux, .free]
  | .confirmTimeout =>
    Part.told ++ [.now, .tallies, .stag, .slots, .resil]
  | .verifyWindowEnd .. =>
    Part.told ++ [.now, .storeState, .link, .aux, .rx]
  | .dramScrubStep .. =>
    Part.told ++ [.counts, .storeState, .pipe, .dram, .resil]
  | .fullRetrainPiece .. =>
    Part.told ++ [.storeState, .pipe, .dram, .resil, .free]
  | .avsTimeout | .vcoreSearchStep =>
    Part.told ++ [.config, .can, .link, .aux, .resil, .power]
  | .lineDeadline .. =>
    Part.told ++ [.now, .counts, .rx, .pipe, .fstore, .resil]
  | .reverseWindowEnd .. =>
    Part.told ++ [.now, .shadow, .storeState, .pipe, .out, .resil]
  | .dramReadComplete .. =>
    Part.told ++ [.counts, .storeState, .pipe, .dram, .resil, .free]
  | .tileLineQueued .. =>
    Part.told ++ [.counts, .storeState, .rx, .pipe, .fstore, .resil]
  | .idleColumn .. =>
    Part.told ++ [.link, .rx, .raster, .pipe, .fstore, .dram]
  | .caps .. | .eqAck .. | .retrainReq .. | .laneLockLost .. | .fastExit .. | .idleSignalDetected ..
  | .wakeRequest .. | .fillerColumn .. | .auxAnswer .. =>
    Part.told ++ [.link, .aux, .rx, .raster, .pipe, .fstore, .dram]
  | .firmwareStarted =>
    Part.told ++ [.tallies, .stag, .slots, .sramMem, .sram, .resil, .power]
  | .avsStatus .. =>
    Part.told ++ [.config, .can, .clocks, .link, .aux, .sram, .resil, .power]
  | .resourceReadyTimeout .. =>
    Part.told ++ [.stag, .clocks, .out, .panel, .dram, .sram, .resil, .power]
  | .tamper .. | .testPortInstruction .. =>
    Part.told ++ [.tallies, .security, .aux, .fstore, .sramMem, .sram, .resil, .free]
  | .dramTrainingDone .. =>
    Part.told ++ [.config, .can, .storeState, .link, .aux, .pipe, .dram, .resil, .power]
  | .freeAnchor | .earliestAnchor | .latestAnchor | .selfAnchor | .genlockAnchor =>
    Part.told ++ [.now, .aux, .rx, .raster, .pipe, .panel, .fstore, .dram, .power]
  | .laneSignalLost .. =>
    Part.told ++ [.storeState, .security, .link, .aux, .rx, .raster, .pipe, .fstore, .dram]
  | .frameStart .. | .line .. | .regionUpdate .. | .frameEnd .. | .sleepNotice .. | .controlUser ..
  | .reservedPacket .. =>
    Part.told ++ [.now, .security, .aux, .rx, .raster, .pipe, .panel, .fstore, .dram, .power]
  | .auxRequestTimeout | .auxCollision =>
    Part.told ++ [.now, .storeState, .security, .link, .aux, .rx, .raster, .pipe, .fstore, .dram]
  | .trainingStateTimeout .. =>
    Part.told ++ [.now, .storeState, .security, .link, .aux, .rx, .raster, .pipe, .fstore, .dram, .free]
  | .powerFailWarning .. =>
    Part.told ++ [.config, .shadow, .storeState, .link, .aux, .rx, .raster, .pipe, .out, .panel, .fstore, .dram,
      .sram, .resil, .power]
  | .lineStart =>
    Part.but [.epoch, .requests, .can, .store, .tallies, .fuses, .security, .stag, .clocks, .sensors, .slots,
      .image, .flash, .sramMem, .pins, .pending]
  | .storeReadDone =>
    Part.but [.now, .epoch, .counts, .requests, .can, .store, .fuses, .stag, .sensors, .slots, .image, .flash,
      .sramMem, .pins, .pending]
  | .powerOnReset | .serviceWake .. =>
    Part.but [.now, .fuses, .flash, .pins, .pending]
  | .flashOperationComplete .. | .mapSaveComplete .. | .rowRepaired .. =>
    Part.but [.now, .fuses, .pins, .pending]
  | .read .. | .write .. | .openReq .. | .prove .. | .close .. | .nop .. | .commit .. | .store ..
  | .restoreDefaults .. | .shadowDiscard .. | .utcSet .. | .powerRequestOn .. | .powerRequestStandby ..
  | .powerRequestOff .. | .restart .. | .lifecycleRequest .. | .operatorPassword .. | .integratorKey ..
  | .attestChallenge .. | .linkRetrain .. | .portRetrain .. | .sweepStart .. | .mapSave .. | .mapReload ..
  | .updateBegin .. | .updateImage .. | .updateVerify .. | .activateAtRestart .. | .activateNow .. | .confirm ..
  | .retire .. | .fell .. | .reinstate .. | .stressSet .. | .ovlMemWrite .. | .bufTableWrite .. | .drvRegsWrite ..
  | .ntcEnableWrite .. | .ctrlportEnableWrite .. | .spiWriteFrame .. | .i3cPrivateWrite .. | .fieldRequestSegment ..
  | .auxDictionarySegment .. =>
    Part.but [.epoch, .store, .pins, .pending]
  | .resetN | .offTimer | .serviceWakeTimeout | .powerFailRecovery =>
    Part.but [.fuses, .flash, .pins, .pending]
  | .driverStatus .. | .othamTrainingTimer .. | .pgoodChange .. | .pgoodLost .. | .seqDelayExpiry | .seqStepTimeout
  | .pmbusWriteDone .. | .refSettled | .pumpRegulating .. | .dischargeHoldEnd | .smallBankLoaded | .fullWake ..
  | .wakeTimer | .selfRefreshExit .. | .domainPowerGood .. | .metAfter1Ms =>
    Part.but [.fuses, .pins, .pending]
  | .stagRestartComplete | .programDone .. =>
    Part.but [.pins, .pending]

/-! ### Canonical form -/

/-- Every addressed memory and every table of the dictionary is in its canonical form. -/
structure State.Canonical (s : State) : Prop where
  /-- the persistent store -/
  store   : Memory.wf 0#8 s.pstore.mem = true
  /-- the mirror of the log ring -/
  mirror  : Memory.wf 0#8 s.pstore.mirror = true
  /-- the staged image -/
  image   : Memory.wf 0#8 s.stag.image = true
  /-- the flash of the compensation maps -/
  flash   : Memory.wf 0xFF#8 s.pipe.flash = true
  /-- the SRAM banks -/
  sram    : Memory.wf 0#8 s.sram.mem = true
  results : mwf 0 s.dict.res = true
  gens    : mwf 0 s.dict.gens = true
  limited : mwf none s.dict.limited = true
  last    : mwf (0, 0) s.dict.lastEvent = true
  ce      : mwf 0 s.dict.ce = true
  ue      : mwf 0 s.dict.ue = true
  patch   : mwf none s.dict.patch = true
  held    : mwf none s.dict.held = true
  config  : mrising 0 s.dict.cfg = true

/-! ### What shows -/

/-- The code of a unit's own LAST_EVENT (parameter 00C), its children's left aside. -/
def lastCode (s : State) (h : Nat) : Nat := (mget (0, 0) s.dict.lastEvent h).2

/-! ### The link and its AUX pair -/

/-- A new request of the source on AUX channel `c`, whose check passes (Table 4.6, R126 to R128). -/
def freshRequest (s : State) (f : AuxFrame) (c : Nat) : Bool :=
  auxAwake s && auxFrameOk f && !auxIsAnswer f && !auxRepeated s f && auxChannel f == c

/-- An answer of the source to the request that waits (Table 4.6, R126 to R128). -/
def answersWaiting (s : State) (f : AuxFrame) : Bool :=
  auxAwake s && auxFrameOk f && auxIsAnswer f && match s.aux.waiting with
    | some (i, r, _) => i == f.id && r.channel == auxChannel f
    | none => false

/-- Do the blocks reported of a lane pass the VERIFY window (R95)? -/
def passesWindow (s : State) (rs : List LaneReport) (n : Nat) : Bool := match reportOf rs n with
  | some r => verifyPassed (verifyBlocks (lane s n).source (lane s n).inverted r.blocks)
  | none => false

/-- A packet's bytes, filled up to whole DATA columns with NULL (R110, R111). -/
def columnBytes (s : State) (type : Nat) (p : Packet) : List Nat :=
  let n := streamLanes s
  padTo (16 * n * dataColumns n (streamBytes type p)) (streamBytes type p)

/-- Does no DATA column of a packet begin with a good header (R118)? -/
def noGoodHeader (s : State) (type : Nat) (p : Packet) : Bool :=
  let bs := columnBytes s type p
  (List.range (dataColumns (streamLanes s) bs)).all fun k => !headerBlock (stripe (streamLanes s) bs k 0)

/-! ### Requests -/

/-- Can a request that arrives be executed at once, with the access of its port's session?  Its port is powered and has a credit,
Stag runs, no request is in progress or waits, it reads no page that is being programmed, its form is right, its SEQ follows, and it carries the tag of a session that has a key,
and no tag without one (R31, R38, R60, R63, R67, R379, R411). -/
def State.serves (s : State) (r : Req) : Bool :=
  let p := port s r.port
  fabricOn s && !noCredit s r.port && stagRuns s && s.ctrl.busy.isNone && s.ctrl.waiting.isEmpty && !readsProgram r s
  && !r.cast && r.fault == 0
  && (match p.key with
    | none => r.tag.isNone
    | some k => r.tag == some (sessionTag k 0 p.reqCount r.body))
  && match p.last with
    | none => true
    | some (seq, _) => r.seq == (seq + 1) % 256

/-- A request of a port has been heard and holds a credit (R61, R67). -/
def credited (i : PortId) (s : State) : State :=
  let s := frameHeard i s
  showCredits i (setPort i { port s i with unanswered := (port s i).unanswered + 1 } s)

/-- The state in which such a request is executed: it holds a credit, its SEQ and check are noted, and it counts in a session with a key;
a challenge is outstanding no longer (R60, R67, R410, R411). -/
def begun (r : Req) (s : State) : State :=
  let s := credited r.port s
  let p := port s r.port
  setPort r.port { p with last := some (r.seq, r.check), challenge := none
                          reqCount := if p.key.isSome then (p.reqCount + 1) % w32 else p.reqCount } s

/-- Does a READ or a WRITE that is served pass the checks of Table 2.6? -/
def State.accepts (s : State) (r : Req) : Bool :=
  s.serves r && match checkRequest (begun r s) (port s r.port).level r with
    | .ok _ => true
    | .error _ => false

/-- A response (Table 2.8), in a session with this key, if any, as its `count`-th tagged frame. -/
def response (key : Option (List Nat)) (count : Nat) (r : Req) (status : Nat) (payload : List Nat) : List Nat :=
  (sealFrame { key := key, rspCount := count } (Nat.lor r.op 128) r.seq r.handle (reqParam r) r.byte6 status payload).1

/-- The request was answered with a status: the response is the one retained for a retry (R60). -/
def State.answeredBy (t : State) (key : Option (List Nat)) (r : Req) (status : Nat) (payload : List Nat) : Prop :=
  ∃ count, (port t r.port).retained = response key count r status payload

/-- The request was answered OK, with a payload. -/
def State.answered (t : State) (key : Option (List Nat)) (r : Req) (payload : List Nat := []) : Prop :=
  t.answeredBy key r stOK payload

/-- The bytes of one element, or of a whole value, whose elements are these (R42). -/
def valueBytes (e : Entry) (el : Option Nat) (f : Nat → Int) : List Nat := match el with
  | some i => encodeValue e.ty (f i)
  | none => (List.range (elems e)).flatMap fun i => encodeValue e.ty (f i)

/-- The value that the payload of a WRITE of one element, or of a whole value, gives element `i`. -/
def valueAt (e : Entry) (el : Option Nat) (bs : List Nat) (i : Nat) : Int :=
  decodeValue e.ty ((bs.drop (if el.isNone then tyBytes e.ty * i else 0)).take (tyBytes e.ty))

/-- The programs of a STORE with a tag that begins now, to the slot not in force (R56, R387). -/
def imageOf (s : State) (tag : Nat) : List Program :=
  let recs := captureRecords s
  let image := recs.flatten
  let slot := res s hPSTORE Par.PSTORE_IMAGE_SLOT
  let seq := if slot = 0 then 1 else (res s hPSTORE Par.PSTORE_IMAGE_SEQUENCE + 1) % w32
  storePrograms (slot == 1) .image .imageCommit (headerBytes seq image.length (crc32c image) tag recs.length (opSeconds s)) image

/-- The bytes of an untagged NOP frame (Table 2.8), its check after them. -/
def nopFrame (seq : Nat) : List Nat :=
  let b := frameBody 0x20 seq 0 0 0 0 []
  b ++ u16 (crc16 b)

end Sys2Proof.Machine
end

