-- ==== Sys2Proof/Certificates/Slice0/Obligations.lean ====
section
/-! DEFINITION. The statements for the provers.  Each says what a command of the device does to its state, in every state that meets the
hypotheses named; its docstring gives the chapters and rules of spec/ that it rests on.  `t` is always the state that the command
answers.  What a command leaves alone is said once for every command, by `EveryCommandFrame`. -/

open Sys2Proof Sys2Proof.Machine

/-! ### The machine -/

/-- One step runs the command at the front of the queue, with the queue's rest; with none waiting one tick passes (log entry 1, the model's
own choice). -/
def Obligations.StepRunsFront : Prop := ∀ (s : State) (c : Instr) (rest : List Instr),
  step { s with pending := c :: rest } = exec c { s with pending := rest }
  ∧ (s.pending = [] → step s = .next (tick s))

/-- Every command answers a next state, whatever the state and its operands: no command stops the model.  What it changes lies in the
parts of the state that its footprint lists (Safety.lean); the queue is in none of them. -/
def Obligations.EveryCommandFrame : Prop := ∀ (c : Instr) (s : State),
  ∃ t, exec c s = .next t ∧ s.differsIn (footprint c) t ∧ t.pending = s.pending

/-- Every step, a command's or the tick's, keeps every memory and every table of the dictionary in canonical form, and the time never runs
back. -/
def Obligations.StepKeepsCanonical : Prop := ∀ (s t : State), step s = .next t →
  s.now ≤ t.now ∧ (s.Canonical → t.Canonical)

/-- The state after reset is canonical, with nothing waiting: the device is held in reset with the power-on cause, its log of writes empty,
its sessions at Observer and no key set. -/
def Obligations.ResetState : Prop :=
  State.reset.Canonical ∧ State.reset.pending = [] ∧ State.reset.power.phase = .reset ∧ State.reset.power.cause = 0
    ∧ State.reset.dict.patch = [] ∧ State.reset.dict.commits = [] ∧ (∀ i, (port State.reset i).level = 0)
    ∧ State.reset.sec.set0 = none ∧ State.reset.sec.set1 = none ∧ State.reset.link.phase = .off

/-! ### The dictionary and its ports (02) -/

/-- 02, R44, R60, R62, R64, R67; 16, R410: NOP is answered with the credits the port has once it is executed, and its credit returns with
the answer; CLOSE returns the port to Observer.  OPEN ends the session; with the Operator password it opens level 1, and for
levels 2 and 3 it draws a challenge of 32 bytes, which is its answer; PROVE with the response that the level's key makes of that
challenge opens its level, with a session key. -/
def Obligations.SessionRequests : Prop := ∀ (s : State) (h : Hdr),
  (s.serves (mkReq h 0x20 0 0 none []) = true →
    ∃ t, exec (.nop h) s = .next t ∧ t.answered (port s h.port).key (mkReq h 0x20 0 0 none []) [3 - (port s h.port).unanswered]
      ∧ (port t h.port).unanswered = (port s h.port).unanswered)
  ∧ (s.serves (mkReq h 0x12 0 0 none []) = true →
    ∃ t, exec (.close h) s = .next t ∧ (port t h.port).level = 0 ∧ t.answered (if (port s h.port).level = 0 then (port s h.port).key else none) (mkReq h 0x12 0 0 none []))
  ∧ (∀ pw, s.serves (mkReq h 0x10 0 0 none (1 :: pw)) = true → 8 ≤ pw.length → pw.length ≤ 32 → s.sec.locked = false →
    lockedOut s h.port = false → (keys s).opSet = true → pbkdf2 pw (keys s).opSalt 16384 = (keys s).opHash →
    ∃ t, exec (.openReq h 1 pw) s = .next t ∧ (port t h.port).level = 1 ∧ (port t h.port).key = none ∧ (port t h.port).failures = 0
      ∧ t.answered (if (port s h.port).level = 0 then (port s h.port).key else none) (mkReq h 0x10 0 0 none (1 :: pw)))
  ∧ (∀ level, s.serves (mkReq h 0x10 0 0 none [level]) = true →
    (level = 2 ∨ (level = 3 ∧ (s.sec.lifecycle = 1 ∨ s.sec.lifecycle = 3))) → s.sec.locked = false → lockedOut s h.port = false →
    s.sec.entropyBad = false →
    ∃ t c, exec (.openReq h level []) s = .next t ∧ c.length = 32 ∧ (port t h.port).challenge = some (c, level, s.now)
      ∧ (port t h.port).level = 0 ∧ t.answered (if (port s h.port).level = 0 then (port s h.port).key else none) (mkReq h 0x10 0 0 none [level]) c)
  ∧ (∀ c level, outstanding s h.port = some (c, level) → s.sec.work.isSome = true → (level = 2 → (keys s).intSet = true) →
    let proof := hmac (if level = 2 then (keys s).intKey else (keys s).venKey) (c ++ [level, portCode h.port] ++ uid s)
    s.serves (mkReq h 0x11 0 0 none proof) = true →
    ∃ t, exec (.prove h proof) s = .next t ∧ (port t h.port).level = level ∧ (port t h.port).key.isSome = true
      ∧ (port t h.port).challenge = none ∧ t.answered (port s h.port).key (mkReq h 0x11 0 0 none proof))

/-- 02, R32, R42, R43, R45, R47, Table 2.5: READ of an element, or of the whole, of a configuration entry answers what it reads as, of a
result the same with its generation before it, and of the log ring its bytes from the offset on; WRITE of an entry that is no command
puts each element, clamped, where its apply class says: into the open set, aside for the restart, or in force. -/
def Obligations.ReadsAnswerAndWritesKeep : Prop := ∀ (s : State) (h : Hdr) (u p : Nat) (el : Option Nat) (e : Entry), s.Canonical →
  (s.accepts (mkReq h 1 u p el []) = true → entryOf u p = some e → isBlob e = false → isStr e = false → classOf u ≠ 39 →
    (0x040 ≤ p → p < 0x400 → u ≠ hSEC →
      ∃ t, exec (.read h u p el []) s = .next t
        ∧ t.answered (port s h.port).key (mkReq h 1 u p el []) (valueBytes e el fun i => view s u p i))
    ∧ (0x400 ≤ p → p < 0x800 → u ≠ hDEV → u ≠ hPWR → u ≠ hROWDRV → u ≠ hROWSET 0 → u ≠ hROWSET 1 → classOf u ≠ 35 →
      ∃ t, exec (.read h u p el []) s = .next t
        ∧ t.answered (port s h.port).key (mkReq h 1 u p el [])
          (u16 (mget 0 s.dict.gens (keyOf u p)) ++ valueBytes e el fun i => resI s u p i)))
  ∧ (∀ off n, s.accepts (mkReq h 1 hLOG Par.LOG_RING none (u32 off ++ u32 n)) = true → off < 2 ^ 32 → n < 2 ^ 32 →
    ∃ t, exec (.read h hLOG Par.LOG_RING none (u32 off ++ u32 n)) s = .next t
      ∧ t.answered (port s h.port).key (mkReq h 1 hLOG Par.LOG_RING none (u32 off ++ u32 n))
        (u16 (mget 0 s.dict.gens (keyOf hLOG Par.LOG_RING)) ++ loadBytes 0#8 s.pstore.mirror off (min n (131072 - off))))
  ∧ (∀ bs, s.accepts (mkReq h 2 u p el bs) = true → entryOf u p = some e → isBlob e = false → isStr e = false →
    e.command = false → 0x040 ≤ p →
    let v := fun i => (clampValue e.ty e.rng (dflt (gradeX s) u p i) (valueAt e el bs i)).1
    let written := fun i => i < elems e ∧ (el = none ∨ el = some i)
    (e.apply = .vb → itemFits s (keyOf u p) el = true →
      ∃ t, exec (.write h u p el bs) s = .next t ∧ (∀ i, written i → mget none t.dict.patch (cell u p i) = some (v i))
        ∧ ((keyOf u p, el) ∈ t.dict.items ∨ (keyOf u p, none) ∈ t.dict.items) ∧ t.dict.cfg = s.dict.cfg
        ∧ t.answered (port s h.port).key (mkReq h 2 u p el bs))
    ∧ (e.apply = .rst → u ≠ hLAYERS → classOf u ≠ 39 →
      ∃ t, exec (.write h u p el bs) s = .next t ∧ (∀ i, written i → mget none t.dict.held (cell u p i) = some (v i))
        ∧ t.dict.cfg = s.dict.cfg ∧ t.answered (port s h.port).key (mkReq h 2 u p el bs))
    ∧ (e.apply = .now → u ≠ hLAYERS → u ≠ hREFLADDER → classOf u ≠ 39 →
      ∃ t, exec (.write h u p el bs) s = .next t ∧ (∀ i, written i → cfgI t u p i = v i)
        ∧ t.dict.patch = s.dict.patch ∧ t.answered (port s h.port).key (mkReq h 2 u p el bs)))

/-- 02, R8, R31, R53, R67, R70, Table 2.6: a frame without credit is not taken: it counts in NOT_TAKEN, and nothing else of the
configuration or of its port's session moves; a READ or a WRITE that a check of Table 2.6 refuses is answered with that status and has
no effect on the configuration or on the session; a request that comes while Stag restarts waits in its place. -/
def Obligations.RequestsTurnedAway : Prop := ∀ (s : State) (h : Hdr) (u p : Nat) (el : Option Nat) (bs : List Nat), s.Canonical →
  fabricOn s = true →
  (∀ wr : Bool, noCredit s h.port = true →
    ∃ t, exec (if wr then .write h u p el bs else .read h u p el bs) s = .next t
      ∧ res t (portUnit h.port) Par.CTRLPORT_NOT_TAKEN = min (res s (portUnit h.port) Par.CTRLPORT_NOT_TAKEN + 1) max32
      ∧ ((port s h.port).lost = 0 → lastCode t (portUnit h.port) = 0x0A04) ∧ t.dict.cfg = s.dict.cfg ∧ t.dict.patch = s.dict.patch
      ∧ t.ctrl.waiting = s.ctrl.waiting ∧ (port t h.port).retained = (port s h.port).retained)
  ∧ (∀ (wr : Bool) (st : Nat), let r := mkReq h (if wr then 2 else 1) u p el bs
    s.serves r = true → checkRequest (begun r s) (port s h.port).level r = .error st →
    ∃ t, exec (if wr then .write h u p el bs else .read h u p el bs) s = .next t
      ∧ t.answeredBy (port s h.port).key r st [] ∧ (port t h.port).level = (port s h.port).level
      ∧ t.dict.cfg = s.dict.cfg ∧ t.dict.patch = s.dict.patch ∧ t.dict.held = s.dict.held ∧ t.dict.commits = s.dict.commits
      ∧ t.power = s.power ∧ t.sec = s.sec ∧ t.pipe = s.pipe ∧ t.dram = s.dram ∧ t.sram = s.sram)
  ∧ (∀ wr : Bool, noCredit s h.port = false → s.stag.restarting.isSome = true →
    ∃ t, exec (if wr then .write h u p el bs else .read h u p el bs) s = .next t
      ∧ t.ctrl.waiting = s.ctrl.waiting ++ [mkReq h (if wr then 2 else 1) u p el bs]
      ∧ (port t h.port).unanswered = (port s h.port).unanswered + 1 ∧ t.dict.cfg = s.dict.cfg ∧ t.dict.patch = s.dict.patch)

/-- 02, R51: SHADOW_DISCARD, whatever the value written, empties the open shadow set, and an element that was written in it, and that no
value held for the restart hides, then reads the value that it will have once every earlier commit has applied. -/
def Obligations.ShadowDiscardReadsCommitted : Prop := ∀ (s : State) (h : Hdr) (value : Nat), s.Canonical →
  s.accepts (mkWrite h hDEV Par.DEV_SHADOW_DISCARD (u16 value)) = true →
  ∃ t, exec (.shadowDiscard h value) s = .next t ∧ t.dict.patch = [] ∧ t.dict.items = []
    ∧ t.answered (port s h.port).key (mkWrite h hDEV Par.DEV_SHADOW_DISCARD (u16 value))
    ∧ ∀ u p i, (mget none s.dict.patch (cell u p i)).isSome = true → cell u p i ≠ cell hDEV Par.DEV_SHADOW_DISCARD 0 →
      mget none s.dict.held (cell u p i) = none →
      view t u p i = (match commitView s.dict.commits (cell u p i) with | some v => v | none => cfgI s u p i)

/-- 02, R33, R49, R56, R57; 17, R431: COMMIT, while the raster runs, closes the open set, as the joint clamp leaves it, into a commit with its
tag, behind those that wait; while the raster is STOPPED it applies at once, with its tag in COMMIT_APPLIED and every setting of the set in
force, those of COMP aside.  STORE captures an image and queues its programs, or where the image is too long ends with outcome 2 and event
0x0A0B.  RESTORE_DEFAULTS, whose items the open set can take, gives each setting that the session may write its default, where its apply
class sends it, those of LAYERS aside, and ends with its tag and event 0x0A0C.  UTC_SET sets the clock, which reads its value and is valid,
with event 0x0C09. -/
def Obligations.ConfigurationRequests : Prop := ∀ (s : State) (h : Hdr) (tag : Nat), s.Canonical → tag < 65536 →
  (s.accepts (mkWrite h hDEV Par.DEV_COMMIT (u16 tag)) = true → s.raster.stopped = false →
    ∃ t, exec (.commit h tag) s = .next t ∧ t.dict.patch = [] ∧ t.dict.items = []
      ∧ t.dict.commits = s.dict.commits ++ [⟨some tag, (clampPatch s.dict.patch s).1, s.raster.index + (if s.raster.closed then 1 else 0)⟩]
      ∧ t.answered (port s h.port).key (mkWrite h hDEV Par.DEV_COMMIT (u16 tag)))
  ∧ (s.accepts (mkWrite h hDEV Par.DEV_COMMIT (u16 tag)) = true → s.raster.stopped = true →
    ∃ t, exec (.commit h tag) s = .next t ∧ t.dict.patch = [] ∧ t.dict.items = [] ∧ t.dict.commits = []
      ∧ res t hDEV Par.DEV_COMMIT_APPLIED = tag
      ∧ (∀ u p i v, p < 4096 → i < 2 ^ 32 → u ≠ hCOMP → mget none (clampPatch s.dict.patch s).1 (cell u p i) = some v → cfgI t u p i = v)
      ∧ t.answered (port s h.port).key (mkWrite h hDEV Par.DEV_COMMIT (u16 tag)))
  ∧ (s.accepts (mkWrite h hDEV Par.DEV_STORE (u16 tag)) = true → res s hDEV Par.DEV_STORE_OUTCOME ≠ 3 → tieRuns s = false →
    ∃ t, exec (.store h tag) s = .next t ∧ t.pstore.storeTag = tag
      ∧ t.answered (port s h.port).key (mkWrite h hDEV Par.DEV_STORE (u16 tag))
      ∧ (if (captureRecords s).flatten.length ≤ imageMax then
          res t hDEV Par.DEV_STORE_OUTCOME = 3
            ∧ ∀ p ∈ imageOf s tag, p ∈ t.pstore.queue ++ (t.pstore.current.map (·.1)).toList
        else res t hDEV Par.DEV_STORE_OUTCOME = 2 ∧ res t hDEV Par.DEV_STORE_DONE = tag ∧ lastCode t hDEV = 0x0A0B))
  ∧ (s.accepts (mkWrite h hDEV Par.DEV_RESTORE_DEFAULTS (u16 tag)) = true →
    (restoreItems (port s h.port).level s.dict.items).length ≤ shadowLimit →
    ∃ t, exec (.restoreDefaults h tag) s = .next t ∧ res t hDEV Par.DEV_RESTORE_DONE = tag ∧ lastCode t hDEV = 0x0A0C
      ∧ (∀ x ∈ restored (port s h.port).level, x.1 ≠ hLAYERS → ∀ i ∈ restoreElems s x.1 x.2,
        let d := dflt (gradeX s) x.1 x.2.param i
        (x.2.apply = .now → cfgI t x.1 x.2.param i = d)
        ∧ (x.2.apply = .rst → mget none t.dict.held (cell x.1 x.2.param i) = some d)
        ∧ (x.2.apply = .vb → mget none t.dict.patch (cell x.1 x.2.param i) = some d))
      ∧ t.answered (port s h.port).key (mkWrite h hDEV Par.DEV_RESTORE_DEFAULTS (u16 tag)))
  ∧ (∀ v, s.accepts (mkWrite h hDEV Par.DEV_UTC_SET (u32 v)) = true → v < 2 ^ 32 →
    ∃ t, exec (.utcSet h v) s = .next t ∧ t.stag.utcBase = v ∧ t.stag.utcAt = s.now ∧ t.stag.utcValid = true
      ∧ res t hDEV Par.DEV_UTC_NOW = v ∧ res t hDEV Par.DEV_UTC_VALID = 1
      ∧ lastCode t hDEV = 0x0C09 ∧ t.answered (port s h.port).key (mkWrite h hDEV Par.DEV_UTC_SET (u32 v)))

/-- 06, R173; 08, R231; 10, R260; 17, R435; 02, R79: a write of STRESS_SET waits in the open set, byte by byte; one of OVL_MEM, where its
buffers are FREE and no word of it is poisoned, stores its bytes and no others; one of an element of BUF_BASE or BUF_SIZE, while every
buffer is FREE, is in force as clamped; one of DRV_REGS is in force; one of an NTC input's ENABLE starts the input afresh; ENABLE of
another control port enables it at 1 and disables it at 0; the host port's reads 1 whatever is written; a port that disables itself stays
enabled until what waits to leave it, its response last, has left. -/
def Obligations.TableWrites : Prop := ∀ (s : State) (h : Hdr), s.Canonical →
  (∀ off bs, off < 2 ^ 32 → s.accepts (mkWrite h hCOMP Par.COMP_STRESS_SET (u32 off ++ bs)) = true →
    itemFits s (keyOf hCOMP Par.COMP_STRESS_SET) none = true →
    ∃ t, exec (.stressSet h off bs) s = .next t
      ∧ (∀ i < bs.length, off + i < 4 * (panelColumns s.raster.mode * panelRows s.raster.mode * s.raster.mode.sub) →
        mget none t.dict.patch (cell hCOMP Par.COMP_STRESS_SET (off + i)) = some (bs.getD i 0 : Int))
      ∧ t.pipe.stress = s.pipe.stress ∧ t.answered (port s h.port).key (mkWrite h hCOMP Par.COMP_STRESS_SET (u32 off ++ bs)))
  ∧ (∀ off bs, off + bs.length ≤ overlaySize → (∀ b ∈ bs, b < 256) →
    s.accepts (mkWrite h hLAYERS Par.LAYERS_OVL_MEM (u32 off ++ bs)) = true → overlayFree s off bs.length = true →
    overlayBad s off bs.length = [] →
    ∃ t, exec (.ovlMemWrite h off bs) s = .next t ∧ loadBytes 0#8 t.sram.mem (overlayAddr off) bs.length = bs
      ∧ (∀ a, (a < overlayAddr off ∨ overlayAddr off + bs.length ≤ a) → mget 0#8 t.sram.mem a = mget 0#8 s.sram.mem a)
      ∧ t.answered (port s h.port).key (mkWrite h hLAYERS Par.LAYERS_OVL_MEM (u32 off ++ bs)))
  ∧ (∀ size el vs e, (∀ v ∈ vs, v < 2 ^ 32) →
    let p := if size then Par.LAYERS_BUF_SIZE else Par.LAYERS_BUF_BASE
    s.accepts (mkReq h 2 hLAYERS p el (vs.flatMap u32)) = true → entryOf hLAYERS p = some e → (∀ b < 16, bufState s b = 0) →
    ∃ t, exec (.bufTableWrite h size el vs) s = .next t
      ∧ (∀ i < 16, (el = none ∨ el = some i) →
        cfgI t hLAYERS p i = (clampValue e.ty e.rng (dflt (gradeX s) hLAYERS p i) (vs.getD (if el.isNone then i else 0) 0 : Nat)).1)
      ∧ t.answered (port s h.port).key (mkReq h 2 hLAYERS p el (vs.flatMap u32)))
  ∧ (∀ off bs, off < 2 ^ 32 → s.accepts (mkWrite h hOUTPUT Par.OUTPUT_DRV_REGS (u32 off ++ bs)) = true →
    ∃ t, exec (.drvRegsWrite h off bs) s = .next t
      ∧ (∀ i < bs.length, off + i < 1024 → cfgI t hOUTPUT Par.OUTPUT_DRV_REGS (off + i) = (bs.getD i 0 : Int))
      ∧ t.answered (port s h.port).key (mkWrite h hOUTPUT Par.OUTPUT_DRV_REGS (u32 off ++ bs)))
  ∧ (∀ n v, n < 4 → v < 2 → s.accepts (mkWrite h (hNTC n) Par.NTC_ENABLE [v]) = true → mwf {} s.stag.ntc = true →
    ∃ t, exec (.ntcEnableWrite h n v) s = .next t ∧ cfg t (hNTC n) Par.NTC_ENABLE = v ∧ mget {} t.stag.ntc n = {}
      ∧ res t (hNTC n) Par.NTC_VALID = 0 ∧ t.answered (port s h.port).key (mkWrite h (hNTC n) Par.NTC_ENABLE [v]))
  ∧ (∀ target, target ≠ .host → target ≠ h.port →
    (s.accepts (mkWrite h (portUnit target) Par.CTRLPORT_ENABLE [0]) = true →
      ∃ t, exec (.ctrlportEnableWrite h target 0) s = .next t ∧ (port t target).enabled = false ∧ (port t target).level = 0
        ∧ (port t target).outbound = [] ∧ t.answered (port s h.port).key (mkWrite h (portUnit target) Par.CTRLPORT_ENABLE [0]))
    ∧ (s.accepts (mkWrite h (portUnit target) Par.CTRLPORT_ENABLE [1]) = true → (port s target).enabled = false →
      ∃ t, exec (.ctrlportEnableWrite h target 1) s = .next t ∧ (port t target).enabled = true ∧ (port t target).last = none
        ∧ (port t target).unanswered = 0 ∧ t.answered (port s h.port).key (mkWrite h (portUnit target) Par.CTRLPORT_ENABLE [1])))
  ∧ (∀ v, v < 2 → s.accepts (mkWrite h hHOSTPORT Par.CTRLPORT_ENABLE [v]) = true →
    ∃ t, exec (.ctrlportEnableWrite h .host v) s = .next t ∧ cfg t hHOSTPORT Par.CTRLPORT_ENABLE = 1
      ∧ (port t .host).enabled = (port s .host).enabled
      ∧ t.answered (port s h.port).key (mkWrite h hHOSTPORT Par.CTRLPORT_ENABLE [v]))
  ∧ (h.port ≠ .host → s.accepts (mkWrite h (portUnit h.port) Par.CTRLPORT_ENABLE [0]) = true →
    ∃ t, exec (.ctrlportEnableWrite h h.port 0) s = .next t ∧ (port t h.port).enabled = true
      ∧ (port t h.port).closing = some (port t h.port).outbound.length
      ∧ t.answered (port s h.port).key (mkWrite h (portUnit h.port) Par.CTRLPORT_ENABLE [0]))

/-- 02, R70, R71, R73, Table 2.8: a NOP frame, sent whole over SPI, or over I3C with a credit and an address, or in one segment to the field
port's node, is the NOP command of its port. -/
def Obligations.FramesCarryCommands : Prop := ∀ (s : State) (seq : Nat), seq < 256 → fabricOn s = true →
  (s.pins.hostsel = false →
    ∃ t, exec (.spiWriteFrame (nopFrame seq)) s = .next t ∧ exec (.nop ⟨.host, seq, none⟩) s = .next t)
  ∧ (s.pins.hostsel = true → s.ctrl.host.address.isSome = true → noCredit s .host = false →
    ∃ t, exec (.i3cPrivateWrite (nopFrame seq)) s = .next t ∧ exec (.nop ⟨.host, seq, none⟩) s = .next t)
  ∧ (s.ctrl.field.partialIn = none → noCredit s .field = false → nodeId s ≠ 0 →
    ∃ t, exec (.fieldRequestSegment (nodeId s) (0xC0 :: nopFrame seq)) s = .next t
      ∧ exec (.nop ⟨.field, seq, none⟩) s = .next t)

/-- 02, R70, R71, R73; 04, R127 to R130: an SPI STATUS read clears the not-taken bit; a frame read whole, over SPI with its dummy byte
or over I3C, has left the queue, and an I3C read serves the interrupt; ENTDAA gives a target without one its dynamic address, SETDASA the
one with that static address.  A first segment that is not the last, with a credit and no frame in progress, begins a frame, whose next
segment has count 1; on AUX it is answered TAKEN, while no training holds the pair. -/
def Obligations.TransportsCarryFrames : Prop := ∀ (s : State) (data : List Nat), fabricOn s = true →
  (s.pins.hostsel = false →
    ∃ t, exec .spiStatus s = .next t ∧ t.ctrl.host.notTaken = false ∧ t.ctrl.host.outbound = s.ctrl.host.outbound)
  ∧ (∀ f rest count, s.pins.hostsel = false → s.ctrl.host.outbound = f :: rest → f.bytes.length + 1 ≤ count →
    ∃ t, exec (.spiReadFrame count) s = .next t ∧ t.ctrl.host.outbound = rest)
  ∧ (∀ f rest count, s.pins.hostsel = true → s.ctrl.host.address.isSome = true → s.ctrl.host.outbound = f :: rest →
    f.bytes.length ≤ count →
    ∃ t, exec (.i3cPrivateRead count) s = .next t ∧ t.ctrl.host.outbound = rest ∧ t.ctrl.host.ibi = none)
  ∧ (∀ a, s.pins.hostsel = true → s.ctrl.host.address = none →
    ∃ t, exec (.i3cEntdaa a) s = .next t ∧ t.ctrl.host.address = some a)
  ∧ (∀ a, s.pins.hostsel = true →
    ∃ t, exec (.i3cSetdasa (cfg s hHOSTPORT Par.CTRLPORT_I3C_STATIC) a) s = .next t ∧ t.ctrl.host.address = some a)
  ∧ (s.ctrl.field.partialIn = none → noCredit s .field = false → nodeId s ≠ 0 →
    ∃ t, exec (.fieldRequestSegment (nodeId s) (0x80 :: data)) s = .next t ∧ t.ctrl.field.partialIn = some (data, 1))
  ∧ (∀ f, freshRequest s f 1 = true → f.payload = 0x80 :: data → auxHeld s = false → s.ctrl.sideband.partialIn = none →
    noCredit s .sideband = false →
    ∃ t, exec (.auxDictionarySegment f) s = .next t ∧ t.ctrl.sideband.partialIn = some (data, 1)
      ∧ t.aux.answered = some (1, f.id, f.check, [0]))

/-! ### The Swerok link (03, 04) -/

/-- 03, R95 (Table 3.5), R97, R99: the training states follow one another.  BITLOCK_COMPLETE leads to BLOCKLOCK, BLOCKLOCK_COMPLETE
to DESKEW, DESKEW_COMPLETE with TX_EQ_FALLBACK off to VERIFY; the 5 ms limit of BITLOCK is told in event 0x0103 and leads to
BLOCKLOCK, and DETECT's leads to BACKOFF for the wait of R99; BACKOFF_EXPIRY leads to DETECT with reason 7. -/
def Obligations.TrainingStatesFollow : Prop := ∀ (s : State) (rs : List LaneReport),
  (s.link.phase = .bitlock → ∃ t, exec (.bitlockComplete rs) s = .next t ∧ t.link.phase = .blocklock ∧ t.link.since = s.now)
  ∧ (s.link.phase = .blocklock → ∃ t, exec (.blocklockComplete rs) s = .next t ∧ t.link.phase = .deskew ∧ t.link.since = s.now)
  ∧ (s.link.phase = .deskew → cfgB s hLINK Par.LINK_TX_EQ_FALLBACK = false →
      ∃ t, exec (.deskewComplete rs) s = .next t ∧ t.link.phase = .verify ∧ t.link.since = s.now)
  ∧ (s.link.phase = .bitlock → s.Canonical → ∃ t, exec (.trainingStateTimeout rs) s = .next t ∧ t.link.phase = .blocklock
      ∧ t.link.since = max s.now (s.link.since + 5 * tickMs) ∧ lastCode t hLINK = 0x0103)
  ∧ (s.link.phase = .detect → ∃ t, exec (.trainingStateTimeout rs) s = .next t ∧ t.link.phase = .backoff
      ∧ t.link.backoffTo = max s.now (s.link.since + 5 * tickMs) + backoffMs s.link.failures * tickMs)
  ∧ (s.link.phase = .backoff → ∃ t, exec (.backoffExpiry) s = .next t ∧ t.link.phase = .detect ∧ t.link.reason = 7
      ∧ t.now = max s.now s.link.backoffTo)

/-- 03, R89, R102 to R106: each of these starts a training episode, in BITLOCK, with the next attempt and its own REASON: RETRAIN_REQ 3;
the loss of lock of an active lane, of the signal of some but not all active lanes, and an elastic buffer at 0 or 8 columns 4; a fast
exit that fails 5; the signal of a lane in an idle that only a training leaves 8.
Where every active lane loses its signal at once the partner is lost: the link waits in BACKOFF for the time of R99.  WAKE_REQUEST, new
on the pair, starts an episode with reason 8 from an idle that only a training leaves. -/
def Obligations.EpisodesBegin : Prop := ∀ (s : State),
  (∀ f, freshRequest s f 0 = true → f.payload.headD 0 = 7 → (s.link.phase = .active ∨ s.link.phase = .idle) →
    ∃ t, exec (.retrainReq f) s = .next t ∧ t.link.phase = .bitlock ∧ t.link.reason = 3
      ∧ t.link.attempt = (s.link.attempt + 1) % 256)
  ∧ (∀ n cause types, s.link.phase = .active → (lane s n).active = true → losesLock cause types = true →
    ∃ t, exec (.laneLockLost n cause types) s = .next t ∧ t.link.phase = .bitlock ∧ t.link.reason = 4
      ∧ t.link.attempt = (s.link.attempt + 1) % 256)
  ∧ (∀ mask, s.link.phase = .active → ((lanesActive s).filter fun n => mask.testBit n) ≠ [] →
    ((lanesActive s).filter fun n => mask.testBit n) ≠ lanesActive s →
    ∃ t, exec (.laneSignalLost mask) s = .next t ∧ t.link.phase = .bitlock ∧ t.link.reason = 4
      ∧ t.link.attempt = (s.link.attempt + 1) % 256)
  ∧ (∀ drift : Int, s.link.phase = .active → sharedClock s = false →
    ((s.link.elastic : Int) + drift ≤ 0 ∨ 8 ≤ (s.link.elastic : Int) + drift) →
    ∃ t, exec (.fillerColumn drift) s = .next t ∧ t.link.phase = .bitlock ∧ t.link.reason = 4
      ∧ t.link.attempt = (s.link.attempt + 1) % 256)
  ∧ (∀ n, s.link.phase = .idle → fastExitOk s = false → (lane s n).active = true →
    ∃ t, exec (.idleSignalDetected n) s = .next t ∧ t.link.phase = .bitlock ∧ t.link.reason = 8
      ∧ t.link.attempt = (s.link.attempt + 1) % 256)
  ∧ (∀ mask, s.link.phase = .active → lanesActive s ≠ [] → ((lanesActive s).filter fun n => mask.testBit n) = lanesActive s →
    ∃ t, exec (.laneSignalLost mask) s = .next t ∧ t.link.phase = .backoff
      ∧ t.link.backoffTo = s.now + backoffMs s.link.failures * tickMs)
  ∧ (∀ f, s.link.phase = .idle → fastExitOk s = false → freshRequest s f 3 = true →
    ∃ t, exec (.wakeRequest f) s = .next t ∧ t.link.phase = .bitlock ∧ t.link.reason = 8
      ∧ t.link.attempt = (s.link.attempt + 1) % 256)

/-- 03, R92, R93, R95 to R97, R100; 04, R127: CAPS of the source in DETECT, as a request of its own or as the answer to the CAPS sent, is kept
and starts BITLOCK; CAPS is sent again every 1 ms in DETECT; EQ_ACK with the taps and the attempt sent begins the measurement, whose end
after 200 µs tries the next preset; a VERIFY window that lanes pass which carry the mode, or that ends the final training, makes the link
ACTIVE. -/
def Obligations.TrainingMessages : Prop := ∀ (s : State),
  (∀ f, s.link.phase = .detect → freshRequest s f 0 = true → f.payload.headD 0 = 1 →
    ∃ t, exec (.caps f) s = .next t ∧ t.link.phase = .bitlock ∧ t.link.source = some (capsOf f.payload))
  ∧ (∀ f m id r n, s.link.phase = .detect → answersWaiting s f = true → s.aux.waiting = some (id, r, n) → r.channel = 0 →
    r.payload.headD 0 = 1 → f.payload = 0 :: 1 :: m →
    ∃ t, exec (.caps f) s = .next t ∧ t.link.phase = .bitlock ∧ t.link.source = some (capsOf (1 :: m)))
  ∧ (s.link.phase = .detect → s.aux.waiting = none → (s.aux.queue.all fun r => r.channel != 0) = true →
    ∃ t, exec .capsResendTimer s = .next t ∧ t.aux.waiting = some (s.aux.nextId, ⟨0, capsMessage s⟩, 1) ∧ t.aux.sentAt = s.now)
  ∧ (∀ f id r n, s.link.phase = .eqreq → answersWaiting s f = true → s.aux.waiting = some (id, r, n) → r.channel = 0 →
    r.payload.headD 0 = 3 → f.payload = 0 :: 4 :: s.link.attempt :: sub r.payload 2 2 → 4 ≤ r.payload.length →
    ∃ t, exec (.eqAck f) s = .next t ∧ t.link.eq.acked = true ∧ t.link.eq.ackedAt = s.now)
  ∧ (∀ lanes, s.link.phase = .eqreq → s.link.eq.acked = true → s.link.eq.preset < 7 →
    ∃ t, exec (.eqMeasurementDone lanes) s = .next t ∧ t.link.eq.preset = s.link.eq.preset + 1 ∧ t.link.eq.acked = false
      ∧ t.now = max s.now (s.link.eq.ackedAt + 200 * tickUs))
  ∧ (∀ rs, s.link.phase = .verify → mwf {} s.link.lanes = true →
    let passed := (lanesIn s).filter fun n => passesWindow s rs n
    passed ≠ [] → (s.link.final = true ∨ linkFits (modeNow s) (sharedClock s) passed.length s.link.rate = true) →
    ∃ t, exec (.verifyWindowEnd rs) s = .next t ∧ t.link.phase = .active ∧ t.link.failures = 0 ∧ lanesActive t = passed)

/-- 03, R101 to R103: once every active lane has its IDLE blocks the link is idle and FAST_EXIT is taken; 1 ms later the receivers power
down; a fast exit without a failed lane makes the link ACTIVE with no training, so that the attempt number stays. -/
def Obligations.IdleEntryAndExit : Prop := ∀ (s : State),
  (∀ received, s.link.phase = .active → (∀ n ∈ lanesActive s, received.testBit n = true) →
    ∃ t, exec (.idleColumn received) s = .next t ∧ t.link.phase = .idle ∧ t.link.idleAt = s.now
      ∧ t.link.fastExit = cfgB s hLINK Par.LINK_FAST_EXIT)
  ∧ (s.link.phase = .idle → s.link.powered = true →
    ∃ t, exec .idlePowerDown s = .next t ∧ t.link.powered = false ∧ t.link.phase = .idle
      ∧ t.now = max s.now (s.link.idleAt + tickMs))
  ∧ (∀ failed, s.link.phase = .idle → fastExitOk s = true → (∀ n < 16, failed.testBit n = false) →
    ∃ t, exec (.fastExit failed) s = .next t ∧ t.link.phase = .active ∧ t.link.powered = true
      ∧ t.link.attempt = s.link.attempt)

/-- 03, R89, R94: in INDEPENDENT clocking a filler column is deleted from an elastic buffer of 6 columns or more and inserted into one
of 2 or fewer, as long as the drift leaves it between 1 and 7.  A margin check keeps the margin of an active lane, and the third low one
in a row asks for a retrain at the frame boundary. -/
def Obligations.LinkUpkeep : Prop := ∀ (s : State), s.link.phase = .active →
  (∀ (drift : Int) (n : Nat), sharedClock s = false → (s.link.elastic : Int) + drift = n → 1 ≤ n → n ≤ 7 →
    ∃ t, exec (.fillerColumn drift) s = .next t ∧ t.link.phase = .active
      ∧ t.link.elastic = if 6 ≤ n then n - 1 else if n ≤ 2 then n + 1 else n)
  ∧ (∀ n m, (lane s n).active = true → mwf {} s.link.lanes = true →
    ∃ t, exec (.laneMarginCheck [(n, m)]) s = .next t ∧ (lane t n).margin = m
      ∧ (lane t n).low = (if m < cfg s hLINK Par.LINK_EQ_MARGIN_MIN then (lane s n).low + 1 else 0)
      ∧ ((lane t n).low = 3 → t.link.retrainAtBoundary = true)
      ∧ ((lane t n).low ≠ 3 → t.link.retrainAtBoundary = s.link.retrainAtBoundary))

/-- 04, R126 to R128, R105: an answer NOT_TAKEN or DEFER to a message of channel 0 sends it again, in its turn, as a new request with the next
ID; a collision, and a request unanswered for 1 ms, are sent again 50 µs later with the same ID, and the third time in a row loses the
partner, which leads to BACKOFF; a new request on a reserved channel is answered UNKNOWN. -/
def Obligations.SidebandRepeats : Prop := ∀ (s : State) (id n : Nat) (r : AuxReq), s.link.phase ≠ .off →
  (∀ f, s.aux.waiting = some (id, r, n) → answersWaiting s f = true → r.channel = 0 →
    (f.payload.headD 0 = 1 ∨ f.payload.headD 0 = 2) →
    ∃ t, exec (.auxAnswer f) s = .next t ∧ t.aux.waiting = some (s.aux.nextId, r, 1) ∧ t.aux.sentAt = s.now)
  ∧ (s.aux.waiting = some (id, r, n) → res s hAUX Par.AUX_UNANSWERED < 2 →
    ∃ t, exec .auxCollision s = .next t ∧ t.aux.waiting = some (id, r, n + 1) ∧ t.now = s.now + 50 * tickUs)
  ∧ (s.aux.waiting = some (id, r, n) → res s hAUX Par.AUX_UNANSWERED < 2 →
    ∃ t, exec .auxRequestTimeout s = .next t ∧ t.aux.waiting = some (id, r, n + 1)
      ∧ t.now = max s.now (s.aux.sentAt + tickMs) + 50 * tickUs)
  ∧ (s.aux.waiting = some (id, r, n) → res s hAUX Par.AUX_UNANSWERED = 2 →
    (∃ t, exec .auxRequestTimeout s = .next t ∧ t.link.phase = .backoff)
    ∧ ∃ t, exec .auxCollision s = .next t ∧ t.link.phase = .backoff)
  ∧ (∀ f, freshRequest s f (auxChannel f) = true → 5 ≤ auxChannel f →
    ∃ t, exec (.auxUnknownChannel f) s = .next t ∧ t.aux.answered = some (auxChannel f, f.id, f.check, [3]))

/-- 04, R110, R118: in ACTIVE, in step, a packet whose header fails its check is discarded, whatever its type, and its DATA columns are
examined; where none of them begins with a good header they are skipped and counted, and nothing else of the input or of the raster
moves. -/
def Obligations.BadHeaderSkipped : Prop := ∀ (s : State) (p : Packet), s.link.phase = .active → s.rx.skipped = none → s.rx.carry = [] →
  let skip := fun (type : Nat) (c : Instr) => hchkOk type p = false → noGoodHeader s type p = true →
    ∃ t, exec c s = .next t ∧ t.raster = s.raster
      ∧ t.rx = { s.rx with skipped := some (dataColumns (streamLanes s) (columnBytes s type p)) }
  skip 0x11 (.frameStart p) ∧ skip 0x22 (.line p) ∧ skip 0x44 (.frameEnd p) ∧ skip 0x33 (.regionUpdate p)
  ∧ skip 0x55 (.sleepNotice p) ∧ skip 0x55 (.controlUser p)
  ∧ (∀ type, packetTypes.contains type = false → skip type (.reservedPacket type p))

/-- 04, R116 to R118, R520: a Frame-Start with a good header of the right length begins its frame, unless a cause of Table 4.4 rejects it:
then its lines are refused, and event 0x0125 says so. -/
def Obligations.FrameStartBeginsOrRejects : Prop := ∀ (s : State) (p : Packet), s.link.phase = .active → s.rx.skipped = none → s.rx.carry = [] →
  hchkOk 0x11 p = true → p.length = 36 → p.body.length = 16 →
  (rejection s p = none →
    ∃ t r, exec (.frameStart p) s = .next t ∧ t.rx.lastStart = fieldAt p 4 4 ∧ t.rx.refused = false ∧ t.rx.cur = some r
      ∧ r.frame = fieldAt p 4 4 ∧ r.line = 0 ∧ r.t0 = s.now ∧ r.width = s.raster.mode.width ∧ r.height = s.raster.mode.height)
  ∧ (∀ c, rejection s p = some c → s.Canonical →
    ∃ t, exec (.frameStart p) s = .next t ∧ t.rx.lastStart = fieldAt p 4 4 ∧ t.rx.refused = true ∧ t.rx.cur = none
      ∧ lastCode t hLINK = 0x0125)

/-- 04, R116 to R118: a Line packet of the line in progress that fits its frame and touches none of the pixels already there adds its span;
a Frame-End ends the frame's input, with event 0x0127 where LINES is not the number of Line packets received. -/
def Obligations.LinesAndFrameEnd : Prop := ∀ (s : State) (p : Packet) (r : RxFrame), s.link.phase = .active → s.rx.skipped = none → s.rx.carry = [] →
  s.rx.cur = some r →
  (hchkOk 0x22 p = true → lineFits r p = true → fieldAt p 4 2 = r.line →
    spansTouch r.spans (fieldAt p 6 2) (fieldAt p 8 2) = false →
    ∃ t r', exec (.line p) s = .next t ∧ t.rx.cur = some r' ∧ r'.frame = r.frame ∧ r'.line = r.line
      ∧ r'.spans = putSpan (fieldAt p 6 2, fieldAt p 8 2) r.spans ∧ r'.packets = r.packets + 1)
  ∧ (hchkOk 0x44 p = true → p.length = 20 → p.body = [] → s.Canonical →
    ∃ t, exec (.frameEnd p) s = .next t ∧ t.rx.cur = none
      ∧ (fieldAt p 8 2 ≠ r.packets → lastCode t hLINK = 0x0127))

/-- 04, R119, R123 to R125: a Region-Update to which no cause of Table 4.9 applies is queued with its number, and one to which a cause
applies leaves the queue as it is, with event 0x0128; a sleep notice and user data, outside a frame, are taken; a packet of a reserved
type is ignored with event 0x0124. -/
def Obligations.OtherPacketsTaken : Prop := ∀ (s : State) (p : Packet), s.link.phase = .active → s.rx.skipped = none → s.rx.carry = [] → s.Canonical →
  (hchkOk 0x33 p = true → regionCause s p = none →
    ∃ t q, exec (.regionUpdate p) s = .next t ∧ t.rx.lastRegion = fieldAt p 12 2 ∧ t.rx.regions = s.rx.regions ++ [q]
      ∧ q.seq = fieldAt p 12 2 ∧ q.x = fieldAt p 4 2 ∧ q.y = fieldAt p 6 2 ∧ q.w = fieldAt p 8 2 ∧ q.h = fieldAt p 10 2)
  ∧ (∀ c, hchkOk 0x33 p = true → regionCause s p = some c →
    ∃ t, exec (.regionUpdate p) s = .next t ∧ t.rx = s.rx ∧ lastCode t hLINK = 0x0128)
  ∧ (hchkOk 0x55 p = true → p.length = 20 → p.body = [] → insideFrame s = false → fieldAt p 4 1 = 1 →
    ∃ t, exec (.sleepNotice p) s = .next t ∧ t.raster.sleep = !s.raster.stopped ∧ lastCode t hLINK = 0x012A)
  ∧ (hchkOk 0x55 p = true → p.length = 20 → p.body = [] → insideFrame s = false → fieldAt p 4 1 = 2 →
    ∃ t, exec (.controlUser p) s = .next t ∧ lastCode t hLINK = 0x012B
      ∧ ∀ i < 8, i < p.fields.length - 2 → res t hLINK Par.LINK_USER_DATA i = p.fields.getD (i + 2) 0)
  ∧ (∀ type, packetTypes.contains type = false → hchkOk type p = true →
    ∃ t, exec (.reservedPacket type p) s = .next t ∧ lastCode t hLINK = 0x0124 ∧ t.rx = s.rx)

/-! ### The raster and what it scans (05 to 09) -/

/-- 05, R136, R138, R141, R145 to R149: the anchor that is due is made by the command of its kind, at its tick: the raster is anchored there,
the frame count moves on, and line start -6 is next. -/
def Obligations.AnchorsMadeWhenDue : Prop := ∀ (s : State) (a : Nat),
  let made := fun (c : Instr) => ∃ t, exec c s = .next t ∧ t.now = max s.now a ∧ t.raster.anchor = a
    ∧ t.raster.index = s.raster.index + 1 ∧ t.raster.next = -6 ∧ t.raster.boundary = none ∧ t.raster.first = false
  (anchorDue s = some (a, .free) → made .freeAnchor) ∧ (anchorDue s = some (a, .earliest) → made .earliestAnchor)
  ∧ (anchorDue s = some (a, .latest) → made .latestAnchor) ∧ (anchorDue s = some (a, .self) → made .selfAnchor)
  ∧ (anchorDue s = some (a, .genlock) → made .genlockAnchor)

/-- 05, R149, R150: an edge of SYNC_IN with a valid period takes that period and counts it, at most 4 of them; where no edge comes for 1.5
expected periods in GENLOCK, a raster that was locked is in HOLDOVER (step 6). -/
def Obligations.SyncInMeasured : Prop := ∀ (s : State) (e : Nat), s.raster.gen.lastEdge = some e →
  (panelDomainOn s = true → periodValid s (s.now - e) = true →
    ∃ t, exec .syncInEdge s = .next t ∧ t.raster.gen.lastEdge = some s.now ∧ t.raster.gen.period = s.now - e
      ∧ t.raster.gen.valid = min 4 (s.raster.gen.valid + 1) ∧ t.raster.gen.invalid = 0)
  ∧ (s.raster.mode.timing = 2 → s.raster.gen.step ≠ 0 →
    ∃ t, exec .syncInTimeout s = .next t ∧ t.raster.gen.lastEdge = none ∧ t.now = max s.now (e + frameTicks s * 3 / 2)
      ∧ (s.raster.gen.step = 5 → t.raster.gen.step = 6))

/-- 05, R136; 11, R298: a line start that is due, other than the first of the blanking, is issued at its tick, and the one after it is
next; a line of the black scan leaves one line fewer. -/
def Obligations.LineStartsIssued : Prop := ∀ (s : State),
  (∀ d, s.panel.scanLeft = none → lineDue s = some d → s.raster.next ≠ s.raster.mode.height →
    ∃ t, exec .lineStart s = .next t ∧ t.now = max s.now d ∧ t.raster.next = s.raster.next + 1 ∧ t.raster.anchor = s.raster.anchor)
  ∧ (∀ n, s.panel.scanLeft = some (n + 2) →
    ∃ t, exec .lineStart s = .next t ∧ t.panel.scanLeft = some (n + 1))

/-- 01, R13, R14, R19; 18, R452: a deadline that passes leaves no line of the port up to it to be queued; a line whose input has come, or one
of a black frame, with room in the queue and before its deadline, is queued, whatever beats of it fail, and the port's next line follows
it; where no beat fails and its source is no substitution, it is not substituted, and its codes are those of the slice. -/
def Obligations.TileQueueFilled : Prop := ∀ (s : State) (port line a w : Nat), slice s s.raster.mode port = some (a, w) →
  s.raster.stopped = false → s.raster.cur.isSome = true → line < s.raster.mode.height → mwf none s.pipe.done = true →
  (nextLine s port ≤ line → ∃ t, exec (.lineDeadline port line) s = .next t ∧ nextLine t port = line + 1)
  ∧ (∀ beats, line = nextLine s port → (mget [] s.pipe.queues port).length < 2 → s.now ≤ deadlineOf s port line →
    (s.raster.kind = .black ∨ (sliceSrc s s.raster.mode (valsNow s) port line a w).ready = true) → mwf [] s.pipe.queues = true →
    ∃ t q, exec (.tileLineQueued port line beats) s = .next t ∧ nextLine t port = line + 1
      ∧ mget [] t.pipe.queues port = mget [] s.pipe.queues port ++ [q] ∧ q.line = line
      ∧ (s.raster.kind ≠ .black → beats = [] → (sliceSrc s s.raster.mode (valsNow s) port line a w).subst = none →
        q.subst = false
        ∧ q.codes = (processSlice s (valsNow s) s.raster.mode port line a
            (sliceSrc s s.raster.mode (valsNow s) port line a w)).2.map fun c => c.2.1))

/-- 07, R183: with PRE_LUT_ENABLE at 0 step 2 passes its input unchanged; at 1 each component x is mapped by the table of its colour, of
which each entry is uQ0.16, in two bytes: y = e[i] + ((e[k] - e[i]) * f + 8) div 16. -/
def Obligations.PreLut : Prop := ∀ (v : Vals) (c x : Nat),
  let e := fun i => ((table2 v hTONE Par.TONE_PRE_LUT (c * 4096 + i) : Nat) : Int)
  let i := x / 16
  let f := x % 16
  let k := min (i + 1) 4095
  (v hTONE Par.TONE_PRE_LUT_ENABLE 0 = 0 → preLut v c x = x)
  ∧ (v hTONE Par.TONE_PRE_LUT_ENABLE 0 = 1 → preLut v c x = (e i + ((e k - e i) * f + 8).fdiv 16).toNat)

/-- 08, R207, R215, R226, R227: a rebuild that ends makes the working map the master map; a periodic sweep that is due is asked for; a row
that arrives in its turn leaves the rows behind it to load; a save begins once SAVE_INTERVAL minutes have passed, unless an activation
or a load has the flash, and ends with event 0x0333, or where it failed, or the flash has no directory, with event 0x0334. -/
def Obligations.MapsMaintained : Prop := ∀ (s : State),
  (∀ c, s.pipe.rebuild = some c → s.Canonical →
    ∃ t, exec .workingMapRebuilt s = .next t ∧ t.pipe.working = s.pipe.master ∧ t.pipe.rebuild = none ∧ lastCode t hCOMP = 0x033E)
  ∧ (∀ b, s.pipe.sweepAt = some b → cfg s hCOMP Par.COMP_SWEEP_MODE = 2 → s.pipe.sweepAsk = none → fabricOn s = true →
    ∃ t, exec .sweepIntervalExpiry s = .next t ∧ t.pipe.sweepAsk = some 2
      ∧ t.now = max s.now (b + cfg s hCOMP Par.COMP_SWEEP_INTERVAL * 60 * tickS))
  ∧ (∀ l row rest chunk, s.pipe.load = some l → l.residual = row :: rest → rest ≠ [] → fabricOn s = true →
    ∃ t l', exec (.mapRowLoaded false row chunk) s = .next t ∧ t.pipe.load = some l' ∧ l'.residual = rest ∧ l'.stress = l.stress)
  ∧ (∀ l row rest chunk, s.pipe.load = some l → l.residual = [] → l.stress = row :: rest → rest ≠ [] → fabricOn s = true →
    ∃ t l', exec (.mapRowLoaded true row chunk) s = .next t ∧ t.pipe.load = some l' ∧ l'.residual = [] ∧ l'.stress = rest)
  ∧ (s.power.state = .run → s.power.phase = .up → s.pipe.saving = none → s.pipe.saveDue = false → s.stag.activation = none →
    s.pipe.load = none →
    ∃ t, exec .mapSaveInterval s = .next t ∧ t.pipe.saving = some t.now
      ∧ t.now = s.now + (s.pipe.saveBase + cfg s hCOMP Par.COMP_SAVE_INTERVAL * 60 * tickS - awakeTicks s))
  ∧ (∀ b failed, s.pipe.saving = some b → fabricOn s = true → s.power.transition = none → s.power.restarting = false → s.Canonical →
    ∃ t, exec (.mapSaveComplete failed) s = .next t ∧ t.pipe.saving = none
      ∧ (if failed = none ∧ (directory s).isSome = true then t.pipe.mapFailed = false ∧ t.pipe.noBank = false ∧ lastCode t hCOMP = 0x0333
        else t.pipe.mapFailed = true ∧ lastCode t hCOMP = 0x0334))

/-! ### The Otham ports (10) -/

/-- 10, R257, R261 to R264, R266 to R268: a port's window ends with the reverse-window period; a STATUS and sense results that come in it, whole
and of the right length, are taken: the STATUS shows in DRIVER_STATUS, and the port's part of the batch is there; the first training phase
ends after 500 µs in the first window; an attempt without a STATUS in a window, which is not the third, is followed by another after
the window's 200 µs or 1 ms, and the third leaves the port stopped.  A loopback CRC that differs from the transmitter's for that line
counts a read-back error of its lane; in DUAL a transmitter that loses lock lets the port fail over to the other lane. -/
def Obligations.OthamPortsServe : Prop := ∀ (s : State) (p : Nat), mwf {} s.out.ports = true →
  s.panel.seq = none → s.panel.ended = none → s.power.transition = none → s.power.restarting = false →
  (∀ a b e, s.out.win = some (a, b, e) → (oport s p).window = true →
    ∃ t, exec (.reverseWindowEnd p) s = .next t ∧ (oport t p).window = false ∧ t.now = max s.now e)
  ∧ (∀ a b e bs k, s.out.win = some (a, b, e) → (oport s p).window = true → (oport s p).phase = .idle → (oport s p).status = false →
    s.now + 32 ≤ e → rxPacket 0x71 (rxBlocks (oport s p).rxScr bs).2 = some k → k.length = 36 → s.Canonical →
    ∃ t, exec (.driverStatus p bs) s = .next t ∧ (oport t p).status = true ∧ (oport t p).missed = 0
      ∧ ∀ i < 16, res t (hPORT p) Par.PORT_DRIVER_STATUS i = k.getD (16 + i) 0)
  ∧ (∀ a b e f n bs k, s.out.win = some (a, b, e) → s.pipe.batch = some (f, n) → (oport s p).window = true →
    (oport s p).results = false → (oport s p).backLost = false → s.now + 32 ≤ e →
    rxPacket 0x72 (rxBlocks (oport s p).rxScr bs).2 = some k → k.getD 4 0 = n → k.length = 24 + 2 * n →
    ∃ t, exec (.senseResult p bs) s = .next t ∧ (oport t p).results = true ∧ p ∈ t.pipe.batchPorts)
  ∧ ((oport s p).phase = .ts1 →
    ∃ t, exec (.othamTrainingTimer p) s = .next t ∧ (oport t p).phase = .window1
      ∧ t.now = max s.now ((oport s p).since + 500 * tickUs) ∧ (oport t p).since = t.now)
  ∧ (∀ limit, ((oport s p).phase = .window1 ∧ limit = 200 * tickUs ∨ (oport s p).phase = .window2 ∧ limit = tickMs) →
    ∃ t, exec (.othamTrainingTimer p) s = .next t ∧ t.now = max s.now ((oport s p).since + limit)
      ∧ (if (oport s p).attempts < 2 then
          (oport t p).phase = .ts1 ∧ (oport t p).attempts = (oport s p).attempts + 1
            ∧ (oport t p).tryMode = nextMode s p (oport s p).tryMode
        else (oport t p).phase = .idle ∧ (oport t p).trained = false ∧ (oport t p).stopped = true))
  ∧ (∀ l, l ≤ 1 → portWorks s p = true → (oport s p).mode = .dual → (oport s p).switchTo = none →
    ∃ t, exec (.olaneLockLost p l) s = .next t ∧ (oport t p).switchTo = some (singleOf (1 - l), l, 3))
  ∧ (∀ l line bs, l ≤ 1 → (lanesOf (oport s p).mode).contains l = true → portWorks s p = true → (oport s p).switchTo = none →
    cfgB s hOUTPUT Par.OUTPUT_READBACK_ENABLE = true → readbackDiffers s p l line bs = true → s.Canonical →
    ∃ t, exec (.readbackCompare p l line bs) s = .next t
      ∧ res t (hOLANE p l) Par.OLANE_READBACK_ERRORS = min (res s (hOLANE p l) Par.OLANE_READBACK_ERRORS + 1) max32)

/-! ### Panel power (11) -/

/-- 11, R294, R303: a PGOOD pin's new level shows, and the step that waits for it goes on to its DELAY; the DELAY of the last step of ON_SEQ
ends with the panel on and event 0x0501, that of OFF_SEQ with the panel off. -/
def Obligations.PanelSequenceMoves : Prop := ∀ (s : State), s.panel.ended = none → s.power.transition = none →
  s.power.restarting = false →
  (∀ pin level, pin ≤ 5 → s.panel.pgood.testBit pin ≠ level → s.panel.seq = none →
    ∃ t, exec (.pgoodChange pin level) s = .next t
      ∧ t.panel.pgood = if level then s.panel.pgood + 2 ^ pin else s.panel.pgood - 2 ^ pin)
  ∧ (∀ pin level q, pin ≤ 5 → s.panel.pgood.testBit pin ≠ level → s.panel.seq = some q → q.wait = .pin pin level →
    seqByte q 7 ≠ 0 →
    ∃ t, exec (.pgoodChange pin level) s = .next t ∧ t.panel.seq = some { q with wait := .delay, since := s.now })
  ∧ (∀ q, s.panel.seq = some q → q.wait = .delay → q.step = 15 → q.off = false → s.panel.wantOff = false → s.Canonical →
    ∃ t, exec .seqDelayExpiry s = .next t ∧ t.panel.seq = none ∧ t.panel.on = 2 ∧ lastCode t hPANELPWR = 0x0501
      ∧ t.now = max s.now (q.since + seqByte q 7 * 400000))
  ∧ (∀ q, s.panel.seq = some q → q.wait = .delay → q.step = 15 → q.off = true → s.panel.wantOn = false → s.panel.failing = false →
    s.Canonical →
    ∃ t, exec .seqDelayExpiry s = .next t ∧ t.panel.seq = none ∧ t.panel.on = (if s.panel.failed then 4 else 0)
      ∧ lastCode t hPANELPWR = 0x0502)

/-- 11, R293, R294, Table 11.4: a step that waits for its action, has no pin to wait for and a DELAY, goes on to that DELAY when the action's
event comes: an acknowledged PMBus write, the references settled, 1 ms after REF_OFF or PUMP_OFF, the pump regulating, the hold of
DISCHARGE over. -/
def Obligations.StepsMetByTheirEvents : Prop := ∀ (s : State) (q : SeqRun), s.panel.ended = none → s.power.transition = none →
  s.power.restarting = false → s.panel.seq = some q → q.wait = .action → pinWait q = none → seqByte q 7 ≠ 0 →
  (∀ p, s.panel.pmbus = some p → p.failedAt = none →
    ∃ t, exec (.pmbusWriteDone .ack) s = .next t ∧ t.panel.seq = some { q with wait := .delay, since := s.now } ∧ t.panel.pmbus = none)
  ∧ (seqDoes q = 0x06 →
    ∃ t, exec .refSettled s = .next t ∧ t.panel.seq = some { q with wait := .delay, since := s.now })
  ∧ (seqDoes q = 0x07 ∨ seqDoes q = 0x09 →
    ∃ t, exec .metAfter1Ms s = .next t ∧ t.panel.seq = some { q with wait := .delay, since := max s.now (q.since + tickMs) })
  ∧ (∀ mv, seqDoes q = 0x08 → (s.panel.pump = 1 ∨ s.panel.pump = 3) →
    ∃ t, exec (.pumpRegulating mv) s = .next t ∧ t.panel.seq = some { q with wait := .delay, since := s.now } ∧ t.panel.pump = 2)
  ∧ (∀ h, seqDoes q = 0x0C → s.panel.holdAt = some h →
    ∃ t, exec .dischargeHoldEnd s = .next t ∧ t.panel.holdAt = none
      ∧ t.panel.seq = some { q with wait := .delay, since := max s.now (h + cfg s hPANELPWR Par.PANELPWR_DISCH_ALL_MS * tickMs) })

/-- 11, R293, R295, R296: a PMBus write that fails is made again 1 ms later, twice at most; a step of ON_SEQ whose pin has not come by
STEP_TIMEOUT is tried again, twice at most; a monitored pin that has been low for 10 µs is a PGOOD loss. -/
def Obligations.PanelSequenceRetries : Prop := ∀ (s : State), s.panel.ended = none → s.power.transition = none →
  s.power.restarting = false →
  (∀ p, s.panel.pmbus = some p → p.failedAt = none → p.tries < 2 →
    exec (.pmbusWriteDone .nack) s = .next { s with panel := { s.panel with pmbus := some { p with failedAt := some s.now } } })
  ∧ (∀ p f, s.panel.pmbus = some p → p.failedAt = some f →
    ∃ t, exec .pmbusRetryTimer s = .next t ∧ t.panel.pmbus = some { p with tries := p.tries + 1, failedAt := none }
      ∧ t.now = max s.now (f + tickMs))
  ∧ (∀ q n l, s.panel.seq = some q → q.wait = .pin n l → pinWait q = some (n, l) → s.panel.pgood.testBit n ≠ l → q.off = false →
    q.tries < 2 →
    ∃ t q', exec .seqStepTimeout s = .next t ∧ t.panel.seq = some q' ∧ q'.step = q.step ∧ q'.tries = q.tries + 1)
  ∧ (∀ pin, s.panel.watched.testBit pin = true → (cfg s hPANELPWR Par.PANELPWR_PGOOD_MONITOR).testBit pin = true →
    s.panel.pgood.testBit pin = false → s.Canonical →
    ∃ t, exec (.pgoodLost pin) s = .next t
      ∧ res t hPANELPWR Par.PANELPWR_PGOOD_LOSSES = min (res s hPANELPWR Par.PANELPWR_PGOOD_LOSSES + 1) max32)

/-- 11, R291, R292: SREF_N out of regulation while the pump regulated is pump state 3 with event 0x050B, and regulating again is state 2 with
event 0x050C; the AVDD_REF measurement shows. -/
def Obligations.PumpAndReference : Prop := ∀ (s : State), s.Canonical →
  (∀ mv, s.panel.pump = 2 →
    ∃ t, exec (.pumpOutOfRegulation mv) s = .next t ∧ t.panel.pump = 3 ∧ resI t hREFLADDER Par.REFLADDER_SREF_N_MEAS = mv
      ∧ lastCode t hREFLADDER = 0x050B)
  ∧ (∀ mv, (s.panel.pump = 1 ∨ s.panel.pump = 3) → s.panel.seq = none →
    ∃ t, exec (.pumpRegulating mv) s = .next t ∧ t.panel.pump = 2 ∧ resI t hREFLADDER Par.REFLADDER_SREF_N_MEAS = mv
      ∧ lastCode t hREFLADDER = 0x050C)
  ∧ (∀ mv, panelDomainOn s = true →
    ∃ t, exec (.avddRefSample mv) s = .next t ∧ res t hREFLADDER Par.REFLADDER_AVDD_REF_MV = mv
      ∧ t.panel.avddAt = some t.now)

/-! ### DRAM and SRAM (13, 14) -/

/-- 13, R334, R335, R341, R349, R350, R355: a read of a poisoned line, or of one that shows the poison pattern, counts at its channel, but of a
line of STAGE lost with its channel the mirror is read; one that the code corrects has the line written back; one that stays
uncorrectable through its retries poisons the line.  A scrub step goes on to the next line, whatever the line shows, and after the last line
of the usable space begins a new pass. -/
def Obligations.DramReadsAndScrub : Prop := ∀ (s : State) (l : Nat), s.Canonical → mwf false s.dram.poison = true →
  let h := lineHome s l
  (∀ cls attempts, l < usableEnd s → chanServes s h.ch = true → (isStage l = true → lineLost s l = false) →
    (linePoisoned s l = true ∨ showsPoison (attempts.headD []) = true) →
    ∃ t, exec (.dramReadComplete l cls attempts) s = .next t
      ∧ res t (hDCH h.ch) Par.DCH_POISON_READS = min (res s (hDCH h.ch) Par.DCH_POISON_READS + 1) max32)
  ∧ (∀ cls attempts, l < usableEnd s → chanServes s h.ch = true → isStage l = true → lineLost s l = true →
    linePoisoned s (mirrorLine s l) = false →
    ∃ t, exec (.dramReadComplete l cls attempts) s = .next t
      ∧ res t hDRAM Par.DRAM_MIRROR_READS = min (res s hDRAM Par.DRAM_MIRROR_READS + 1) max32)
  ∧ (∀ cls es rest, l < usableEnd s → chanServes s h.ch = true → linePoisoned s l = false →
    (chan s h.ch).held.contains (rowKey h.bk h.row) = false → showsPoison es = false → decodeLine es = 1 →
    ∃ t, exec (.dramReadComplete l cls (es :: rest)) s = .next t ∧ l ∈ t.dram.writeBacks)
  ∧ (∀ cls attempts, l < usableEnd s → chanServes s h.ch = true → linePoisoned s l = false →
    (chan s h.ch).held.contains (rowKey h.bk h.row) = false → showsPoison (attempts.headD []) = false →
    (∀ a ∈ attempts, decodeLine a = 2) →
    ∃ t, exec (.dramReadComplete l cls attempts) s = .next t ∧ mget false t.dram.poison l = true)
  ∧ (∀ errors, chanServes s (lineHome s s.dram.scrub).ch = true → s.dram.scrub + 1 < refugeLine →
    ∃ t, exec (.dramScrubStep errors) s = .next t ∧ t.dram.scrub = s.dram.scrub + 1)
  ∧ (chanServes s (lineHome s s.dram.scrub).ch = true → usableEnd s ≤ s.dram.scrub + 1 →
    ∃ t, exec (.dramScrubStep []) s = .next t ∧ t.dram.scrub = 0
      ∧ res t hDRAM Par.DRAM_SCRUB_PASSES = (res s hDRAM Par.DRAM_SCRUB_PASSES + 1) % w32)

/-- 13, R341 to R344, R346, R347: a refresh keeps the die's rate and the bank's time; every 32 ms the counts of activations of the channels
are cleared; the halved rate of a class ends when its time has come; the write-back that has waited longest on a channel is performed; in
blanking, RETRAIN_MS after the last training, a fine retrain takes the drift, and asks for a full one where it is beyond DRIFT_LIMIT. -/
def Obligations.DramChannelUpkeep : Prop := ∀ (s : State) (c : Nat), mwf {} s.dram.chans = true →
  (∀ bank rate, chanServes s c = true → s.Canonical → mwf 0 (chan s c).refreshed = true →
    ∃ t, exec (.dramRefreshDue c bank rate) s = .next t ∧ res t (hDCH c) Par.DCH_REFRESH_RATE = rate
      ∧ mget 0 (chan t c).refreshed bank = s.now)
  ∧ (c < 8 → ∃ t, exec .rdTableClear s = .next t ∧ (chan t c).acts = [] ∧ (chan t c).halfRows = [] ∧ (chan t c).held = (chan s c).held)
  ∧ (∀ cls e, mget none s.dram.throttle cls = some e → mwf none s.dram.throttle = true →
    ∃ t, exec (.throttleExpiry cls) s = .next t ∧ mget none t.dram.throttle cls = none ∧ t.now = max s.now e)
  ∧ (∀ l, s.dram.writeBacks.find? (fun l => (lineHome s l).ch == c) = some l → chanServes s c = true →
    ∃ t, exec (.dramRequestPromotion c) s = .next t ∧ t.dram.writeBacks = s.dram.writeBacks.erase l)
  ∧ (∀ drift, chanServes s c = true → inBlanking s = true → s.Canonical →
    ∃ t, exec (.fineRetrainTimer c drift) s = .next t ∧ (chan t c).drift = drift ∧ (chan t c).trainedAt = t.now
      ∧ t.now = max s.now ((chan s c).trainedAt + cfg s hDRAM Par.DRAM_RETRAIN_MS * tickMs)
      ∧ resI t (hDCH c) Par.DCH_DRIFT = clampI drift (-32768) 32767
      ∧ res t (hDCH c) Par.DCH_FINE_RETRAINS = (res s (hDCH c) Par.DCH_FINE_RETRAINS + 1) % w32
      ∧ (cfg s hDRAM Par.DRAM_DRIFT_LIMIT < drift.natAbs → (chan t c).pieces.isSome = true)
      ∧ (drift.natAbs ≤ cfg s hDRAM Par.DRAM_DRIFT_LIMIT → (chan t c).pieces = (chan s c).pieces))

/-- 13, R345, R347, R348, R351, R354, R355: in blanking or stretch lines long enough, a piece of a full training goes on with it, a failed attempt
is made again, twice at most, and its last piece ends it, with no drift left and event 0x070D; at start-up the training of the channels
ends with DRAM ready.  In HOLD, between frames, with nothing to write back, every channel in service enters self-refresh after its idle
time, and leaves it when its exit completes; a migration ends with its channel felled, completed or with its source lost; a row that is
repaired has no repair record any more. -/
def Obligations.DramTrainingAndService : Prop := ∀ (s : State) (c : Nat), mwf {} s.dram.chans = true →
  (∀ n, chanServes s c = true → inBlanking s = true → longBlanking s = true → (chan s c).pieces = some n →
    (∃ t, exec (.fullRetrainPiece c false false) s = .next t ∧ (chan t c).pieces = some (n + 1) ∧ (chan t c).attempts = (chan s c).attempts)
    ∧ (s.Canonical →
      ∃ t, exec (.fullRetrainPiece c true false) s = .next t ∧ (chan t c).pieces = none ∧ (chan t c).drift = 0
        ∧ (chan t c).attempts = 0 ∧ (chan t c).trainedAt = s.now ∧ resI t (hDCH c) Par.DCH_DRIFT = 0 ∧ lastCode t (hDCH c) = 0x070D)
    ∧ (∀ last, (chan s c).attempts < 2 →
      ∃ t, exec (.fullRetrainPiece c last true) s = .next t ∧ (chan t c).pieces = some (n + 1)
        ∧ (chan t c).attempts = (chan s c).attempts + 1)
    ∧ (∀ last, 2 ≤ (chan s c).attempts →
      ∃ t, exec (.fullRetrainPiece c last true) s = .next t ∧ (chan t c).pieces = none ∧ (chan t c).attempts = 0))
  ∧ (∀ rs, s.power.phase = .dramTraining → s.dram.ready = false → repairsDue s = false →
    ∃ t, exec (.dramTrainingDone rs) s = .next t ∧ t.dram.ready = true)
  ∧ (s.power.state = .hold → s.dram.ready = true → inBlanking s = true → (∀ k < 8, (chan s k).selfRefresh = false) →
    s.dram.writeBacks = [] → c < 8 → (chan s c).service = true →
    ∃ t, exec .dramIdleTimeout s = .next t ∧ (chan t c).selfRefresh = true)
  ∧ (∀ ns, fabricOn s = true → (chan s c).selfRefresh = true → s.power.wakeStep = 0 →
    ∃ t, exec (.selfRefreshExit c ns) s = .next t ∧ (chan t c).selfRefresh = false ∧ (chan t c).service = (chan s c).service)
  ∧ (∀ lost, fabricOn s = true → s.dram.ready = true → s.dram.retired = some c → s.dram.migration = 1 →
    ∃ t, exec (.migrationComplete lost) s = .next t ∧ t.dram.migration = (if lost || s.dram.noSource then 3 else 2)
      ∧ (chan t c).felled = true ∧ (chan t c).migrating = false)
  ∧ (∀ bk row, s.power.phase = .dramTraining → s.dram.ready = false → s.power.transition = none → s.power.restarting = false →
    s.pstore.repairs.contains (c, bk, row) = true →
    ∃ t, exec (.rowRepaired c bk row) s = .next t ∧ t.pstore.repairs.contains (c, bk, row) = false)

/-- 14, R361, R362, R365, Table 14.2: a read of a word that is not poisoned, and shows no symbol in error, answers its eight lanes; an
atomic operation answers the lane's value before it, stores the sum modulo 2^32, the sum limited to 0 and 2^32 - 1, or the new value,
changes no byte but the lane's four, and counts in BANK:402. -/
def Obligations.SramAccessesAndAtomics : Prop := ∀ (s : State) (b : Nat) (portB : Bool) (offset : Nat), s.sram.accessible = true →
  poisoned s b offset = false → (portB = true → isSecure b offset = false) → mwf {} s.sram.banks = true → s.Canonical →
  let old := wordLanes (wordBytes s b offset)
  let reply := fun (t : State) => if portB then (bank t b).replyB else (bank t b).replyA
  let stores := fun (c : Instr) (lane v : Nat) => ∃ t, exec c s = .next t ∧ reply t = some ⟨0, [old.getD lane 0]⟩
    ∧ res t (hBANK b) Par.BANK_ATOMICS = (res s (hBANK b) Par.BANK_ATOMICS + 1) % w32
    ∧ (∀ i < 4, mget 0#8 t.sram.mem (bankAddr b offset + 4 * lane + i) = BitVec.ofNat 8 (v / 256 ^ i))
    ∧ ∀ a, (a < bankAddr b offset + 4 * lane ∨ bankAddr b offset + 4 * lane + 4 ≤ a) → mget 0#8 t.sram.mem a = mget 0#8 s.sram.mem a
  (∀ reads : List (List (Nat × Nat)), reads.headD [] = [] →
    ∃ t, exec (.sramAccess b (if portB then none else some (.read offset reads)) (if portB then some (.read offset reads) else none)) s = .next t
      ∧ reply t = some ⟨0, old⟩ ∧ t.sram.mem = s.sram.mem)
  ∧ (∀ lane < 8, ∀ delta : Int, stores (.addWrap b portB offset lane delta) lane (((old.getD lane 0 : Int) + delta) % 4294967296).toNat)
  ∧ (∀ lane < 8, ∀ delta : Int, stores (.addSat b portB offset lane delta) lane
      (clampI ((old.getD lane 0 : Int) + delta) 0 4294967295).toNat)
  ∧ (∀ lane < 8, ∀ value, stores (.swap b portB offset lane value) lane (value % 4294967296))

/-- 14, R362 to R364, R371: a write of a whole word clears its poison and stores exactly its lanes' bytes; of two writes to one word in a
slot with different data in a lane, port B's is lost; port B never reads the secure region. -/
def Obligations.SramWritesOrdered : Prop := ∀ (s : State) (b offset : Nat) (lanes : List (Nat × Nat)) (reads : List (List (Nat × Nat))),
  s.sram.accessible = true → Memory.wf 0#8 s.sram.mem = true → mwf {} s.sram.banks = true → mwf false s.sram.poison = true →
  (fullWrite lanes = true →
    ∃ t, exec (.sramAccess b (some (.write offset lanes reads)) none) s = .next t ∧ poisoned t b offset = false
      ∧ (bank t b).replyA = some ⟨0, []⟩
      ∧ ((lanes.map Prod.fst).Nodup → ∀ x ∈ lanes, ∀ i < 4,
        mget 0#8 t.sram.mem (bankAddr b offset + 4 * x.1 + i) = BitVec.ofNat 8 (x.2 / 256 ^ i))
      ∧ ∀ a, (∀ x ∈ lanes, a < bankAddr b offset + 4 * x.1 ∨ bankAddr b offset + 4 * x.1 + 4 ≤ a) →
        mget 0#8 t.sram.mem a = mget 0#8 s.sram.mem a)
  ∧ (∀ other readsB, isSecure b offset = false → lanesDiffer lanes other = true →
    ∃ t u, exec (.sramAccess b (some (.write offset lanes reads)) (some (.write offset other readsB))) s = .next t
      ∧ exec (.sramAccess b (some (.write offset lanes reads)) none) s = .next u ∧ t.sram.mem = u.sram.mem
      ∧ (bank t b).replyB = some ⟨3, []⟩)
  ∧ (isSecure b offset = true →
    ∃ t, exec (.sramAccess b none (some (.read offset reads))) s = .next t ∧ (bank t b).replyB = some ⟨2, List.replicate 8 0⟩
      ∧ t.sram.mem = s.sram.mem)

/-- 14, R366 to R368, R373: a spare row whose copy is complete serves its row, and is counted and told in event 0x0802; a scrub step goes on to
the next word, and after the last to the first; a test window goes on to the next window, and after the last to the first with its pass
counted, unless an access was held, which event 0x0809 tells. -/
def Obligations.SramMaintenance : Prop := ∀ (s : State) (b : Nat), mwf {} s.sram.banks = true →
  (∀ c rest, (bank s b).copying = c :: rest → s.Canonical →
    ∃ t, exec (.spareCopyDone b) s = .next t ∧ (bank t b).copying = rest
      ∧ (bank t b).spared = (bank s b).spared ++ [c.sub * 256 + c.row] ∧ lastCode t (hBANK b) = 0x0802
      ∧ res t (hBANK b) Par.BANK_ROWS_SPARED = min 65535 (res s (hBANK b) Par.BANK_ROWS_SPARED + 1))
  ∧ (∀ reads, s.sram.accessible = true →
    ∃ t, exec (.sramScrubStep b reads) s = .next t
      ∧ (bank t b).scrub = (if (bank s b).scrub + 1 < bankWords then (bank s b).scrub + 1 else 0))
  ∧ (∀ fault, s.sram.accessible = true → cfgB s hSRAM Par.SRAM_TEST_ENABLE = true → s.Canonical →
    (∃ t, exec (.testWindow fault none) s = .next t
      ∧ (if s.sram.window + 1 < 32512 then t.sram.window = s.sram.window + 1
        else t.sram.window = 0 ∧ res t hSRAM Par.SRAM_TEST_PASSES = (res s hSRAM Par.SRAM_TEST_PASSES + 1) % w32))
    ∧ ∀ ns, ∃ t, exec (.testWindow fault (some ns)) s = .next t ∧ t.sram.window = s.sram.window
      ∧ lastCode t (hBANK (windowAt s.sram.window).1) = 0x0809
      ∧ res t (hBANK (windowAt s.sram.window).1) Par.BANK_WINDOW_HOLDS
        = min (res s (hBANK (windowAt s.sram.window).1) Par.BANK_WINDOW_HOLDS + 1) max32)

/-! ### The persistent store and management (15, 17) -/

/-- 15, R379, R382, R394: the program in progress, when it ends well, has left its bytes in its page and every other byte of the store as it
was; a first failed verify programs it once more; records gathered when LOG_GATHER_MS has passed are queued. -/
def Obligations.StorePrograms : Prop := ∀ (s : State), s.Canonical → s.ctrl.waiting = [] → s.power.transition = none →
  s.power.restarting = false →
  (∀ p again, s.pstore.current = some (p, again) → (p.bytes.map Prod.fst).Nodup →
    ∃ t, exec (.programDone true) s = .next t
      ∧ (∀ x ∈ p.bytes, mget 0#8 t.pstore.mem (256 * p.page + x.1) = BitVec.ofNat 8 x.2)
      ∧ res t hPSTORE Par.PSTORE_PROGRAMS = (res s hPSTORE Par.PSTORE_PROGRAMS + 1) % w32
      ∧ ∀ a, (∀ x ∈ p.bytes, a ≠ 256 * p.page + x.1) → mget 0#8 t.pstore.mem a = mget 0#8 s.pstore.mem a)
  ∧ (∀ p, s.pstore.current = some (p, false) →
    ∃ t, exec (.programDone false) s = .next t ∧ t.pstore.current = some (p, true) ∧ t.pstore.mem = s.pstore.mem)
  ∧ (∀ p, s.pstore.current = some (p, true) →
    ∃ t, exec (.programDone false) s = .next t
      ∧ ∀ a, (∀ x ∈ p.bytes, a ≠ 256 * p.page + x.1) → mget 0#8 t.pstore.mem a = mget 0#8 s.pstore.mem a)
  ∧ (∀ g, s.pstore.gatherAt = some g → s.pstore.gathered ≠ [] →
    ∃ t, exec .logGatherTimeout s = .next t ∧ t.pstore.gathered = [] ∧ t.pstore.gatherAt = none
      ∧ t.pstore.queued = s.pstore.queued ++ s.pstore.gathered
      ∧ t.now = max s.now (g + cfg s hPSTORE Par.PSTORE_LOG_GATHER_MS * tickMs))

/-- 17, R38, R427: a lockstep mismatch or a watchdog expiry, while Stag runs, restarts it with that cause (3 for a trial image that has
used its attempts); the restart's end lets it run again. -/
def Obligations.StagRestarts : Prop := ∀ (s : State), fabricOn s = true →
  let why := fun (c : Nat) => if s.stag.trial = true ∧ 3 ≤ (fwSlot s (s.stag.slot == 2)).attempts then 3 else c
  (stagRuns s = true → ∃ t, exec .lockstepMismatch s = .next t ∧ t.stag.restarting = some (why 0, s.now) ∧ t.stag.running = true)
  ∧ (stagRuns s = true → ∃ t, exec .watchdogExpiry s = .next t ∧ t.stag.restarting = some (why 1, s.now) ∧ t.stag.running = true)
  ∧ (∀ c since, s.stag.restarting = some (c, since) → s.ctrl.waiting = [] → s.power.transition = none → s.power.restarting = false →
    ∃ t, exec .stagRestartComplete s = .next t ∧ t.stag.restarting = none ∧ s.now ≤ t.now
      ∧ t.now ≤ max s.now (since + restartLimit c * tickMs))

/-- 17, R439, R441, R442, R444: the check of a staged image ends in STATE READY, or FAILED with its RESULT; a flash operation that ends well
takes an activation to its next step, and the last one ends it with event 0x0C04; one that fails ends it with event 0x0C05; after
CONFIRM_S seconds the trial image is confirmed. -/
def Obligations.FirmwareUpdate : Prop := ∀ (s : State), s.Canonical →
  (stagRuns s = true → res s hUPDATE Par.UPDATE_STATE = 2 →
    ∃ t, exec .imageVerified s = .next t ∧ res t hUPDATE Par.UPDATE_RESULT = imageCheck s
      ∧ res t hUPDATE Par.UPDATE_STATE = (if imageCheck s = 0 then 3 else 6) ∧ lastCode t hUPDATE = 0x0C03)
  ∧ (∀ a, s.stag.activation = some a → fabricOn s = true → s.power.transition = none → s.power.restarting = false →
    (1 ≤ a.step → a.step ≤ 3 →
      ∃ t, exec (.flashOperationComplete true) s = .next t ∧ t.stag.activation = some { a with step := a.step + 1 })
    ∧ (a.step = 4 → ∃ t, exec (.flashOperationComplete true) s = .next t ∧ t.stag.activation = none ∧ lastCode t hUPDATE = 0x0C04)
    ∧ (∃ t, exec (.flashOperationComplete false) s = .next t ∧ t.stag.activation = none ∧ lastCode t hUPDATE = 0x0C05))
  ∧ (s.stag.trial = true → cfg s hUPDATE Par.UPDATE_CONFIRM_S ≠ 0 → stagRuns s = true → s.stag.opRuns = true →
    ∃ t, exec .confirmTimeout s = .next t ∧ t.stag.trial = false ∧ (fwSlot t (s.stag.slot == 2)).confirmed = true
      ∧ t.now = max s.now (s.stag.opAt + (s.stag.trialSince + cfg s hUPDATE Par.UPDATE_CONFIRM_S - s.stag.opBase) * tickS))

/-- 17, R441, R442, R444: BEGIN discards the staged image and receives one of the length given; IMAGE places its bytes, those within the
length, and no others change; VERIFY starts the check; ACTIVATE of a READY image begins an activation in its mode, or fails with
RESULT 7 where the target slot has no room for it; CONFIRM confirms the trial image. -/
def Obligations.UpdateRequests : Prop := ∀ (s : State) (h : Hdr), s.Canonical →
  (∀ n, s.accepts (mkWrite h hUPDATE Par.UPDATE_BEGIN (u32 n)) = true → 257 ≤ n → n ≤ 4194560 →
    res s hUPDATE Par.UPDATE_STATE ≠ 2 → res s hUPDATE Par.UPDATE_STATE ≠ 4 →
    ∃ t, exec (.updateBegin h n) s = .next t ∧ t.stag.imageLen = n ∧ t.stag.image = [] ∧ res t hUPDATE Par.UPDATE_STATE = 1
      ∧ t.answered (port s h.port).key (mkWrite h hUPDATE Par.UPDATE_BEGIN (u32 n)))
  ∧ (∀ off bs, off < 2 ^ 32 → s.accepts (mkWrite h hUPDATE Par.UPDATE_IMAGE (u32 off ++ bs)) = true →
    res s hUPDATE Par.UPDATE_STATE = 1 →
    ∃ t, exec (.updateImage h off bs) s = .next t
      ∧ (∀ i < bs.length, off + i < s.stag.imageLen → mget 0#8 t.stag.image (off + i) = BitVec.ofNat 8 (bs.getD i 0))
      ∧ (∀ a, (a < off ∨ off + bs.length ≤ a ∨ s.stag.imageLen ≤ a) → mget 0#8 t.stag.image a = mget 0#8 s.stag.image a)
      ∧ t.answered (port s h.port).key (mkWrite h hUPDATE Par.UPDATE_IMAGE (u32 off ++ bs)))
  ∧ (∀ tag, tag < 65536 → s.accepts (mkWrite h hUPDATE Par.UPDATE_VERIFY (u16 tag)) = true →
    res s hUPDATE Par.UPDATE_STATE ≠ 2 → res s hUPDATE Par.UPDATE_STATE ≠ 4 →
    ∃ t, exec (.updateVerify h tag) s = .next t ∧ res t hUPDATE Par.UPDATE_STATE = 2
      ∧ t.answered (port s h.port).key (mkWrite h hUPDATE Par.UPDATE_VERIFY (u16 tag)))
  ∧ (∀ mode c, (mode = 1 ∧ c = Instr.activateAtRestart h ∨ mode = 2 ∧ c = Instr.activateNow h) →
    s.accepts (mkWrite h hUPDATE Par.UPDATE_ACTIVATE [mode]) = true → res s hUPDATE Par.UPDATE_STATE = 3 → mapBusy s = false →
    ∃ t, exec c s = .next t ∧ t.answered (port s h.port).key (mkWrite h hUPDATE Par.UPDATE_ACTIVATE [mode])
      ∧ (if fwRoom s (targetSlot s) < 0x420000 ∨ fwRoom s (targetSlot s) < 0x10000 + s.stag.imageLen then
          t.stag.activation = s.stag.activation ∧ res t hUPDATE Par.UPDATE_RESULT = 7 ∧ res t hUPDATE Par.UPDATE_STATE = 6
        else t.stag.activation = some ⟨mode, 1, fwCode (targetSlot s)⟩ ∧ res t hUPDATE Par.UPDATE_STATE = 4))
  ∧ (∀ tag, tag < 65536 → s.accepts (mkWrite h hUPDATE Par.UPDATE_CONFIRM (u16 tag)) = true → s.stag.trial = true →
    ∃ t, exec (.confirm h tag) s = .next t ∧ t.stag.trial = false ∧ (fwSlot t (s.stag.slot == 2)).confirmed = true
      ∧ t.answered (port s h.port).key (mkWrite h hUPDATE Par.UPDATE_CONFIRM (u16 tag)))

/-- 17, R430, R432 to R435: a sample of a thermal sensor, of a voltage monitor and of an enabled NTC input is taken, and an operating minute
counts in tally counter 1. -/
def Obligations.SensorsSampled : Prop := ∀ (s : State), s.Canonical → stagRuns s = true →
  (∀ n temp, n ≤ 15 → fabricOn s = true → mwf {} s.stag.therm = true →
    ∃ t, exec (.thermalSample n temp) s = .next t ∧ resI t (hTHERM n) Par.THERM_TEMP = temp
      ∧ (mget {} t.stag.therm n).readAt = some t.now)
  ∧ (∀ n mv, n ≤ 3 → fabricOn s = true → mwf {} s.stag.vmon = true →
    ∃ t, exec (.voltageSample n mv) s = .next t ∧ res t (hVMON n) Par.VMON_READING = mv
      ∧ (mget {} t.stag.vmon n).readAt = some t.now)
  ∧ (∀ n code, n ≤ 3 → fabricOn s = true → mwf {} s.stag.ntc = true → cfgB s (hNTC n) Par.NTC_ENABLE = true →
    ∃ t, exec (.ntcSample n code) s = .next t ∧ (mget {} t.stag.ntc n).codeAt = some t.now
      ∧ (mget {} t.stag.ntc n).codes.getLast? = some code)
  ∧ (s.stag.opRuns = true → s.pstore.read = true → mget 0 s.pstore.tally 1 < 16777215 → mwf 0 s.pstore.tally = true →
    ∃ t, exec .operatingMinute s = .next t ∧ mget 0 t.pstore.tally 1 = mget 0 s.pstore.tally 1 + 1)

/-! ### Security (16) -/

/-- 16, R421, R422: CP_HELLO with version 1, for a set that is not in use and with a point of the curve, is answered and opens an exchange
for that set; CP_CONFIRM with the right MAC makes the set's content and MAC keys and ends the exchange; 100 ms without it end the
exchange with event 0x0B08; CP_DROP discards the sets it names and leaves the other. -/
def Obligations.KeyExchange : Prop := ∀ (s : State),
  (∀ f k ns qs q, freshRequest s f 4 = true → f.payload = [1, 1, k] ++ ns ++ qs → ns.length = 32 → s.sec.locked = false →
    s.sec.lifecycle ≠ 4 → k ≤ 1 → hasIdentity (keys s) = true → s.sec.entropyBad = false → setInUse s k = false → pointOf qs = some q →
    ∃ t e, exec (.cpHello f) s = .next t ∧ t.sec.exchange = some e ∧ e.set = k ∧ e.since = s.now)
  ∧ (∀ f e, freshRequest s f 4 = true → s.sec.exchange = some e →
    f.payload = 3 :: e.set :: hmac (e.keys.drop 64) (0x53 :: e.t) → s.sec.locked = false → s.sec.lifecycle ≠ 4 →
    ∃ t, exec (.cpConfirm f) s = .next t ∧ t.sec.exchange = none
      ∧ t.aux.answered = some (4, f.id, f.check, [0, 4, e.set] ++ hmac (e.keys.drop 64) (0x44 :: e.t))
      ∧ (e.set = 0 → t.sec.set0 = some ⟨e.keys.take 32, sub e.keys 32 32⟩ ∧ t.sec.set1 = s.sec.set1)
      ∧ (e.set ≠ 0 → t.sec.set1 = some ⟨e.keys.take 32, sub e.keys 32 32⟩ ∧ t.sec.set0 = s.sec.set0))
  ∧ (∀ e, s.sec.exchange = some e → s.Canonical →
    ∃ t, exec .cpConfirmTimeout s = .next t ∧ t.sec.exchange = none ∧ t.now = max s.now (e.since + 100 * tickMs)
      ∧ lastCode t hSEC = 0x0B08)
  ∧ (∀ f sets, freshRequest s f 4 = true → f.payload = [7, sets] →
    ∃ t, exec (.cpDrop f) s = .next t ∧ t.sec.set0 = (if sets.testBit 0 then none else s.sec.set0)
      ∧ t.sec.set1 = (if sets.testBit 1 then none else s.sec.set1))

/-- 16, R403, R417 to R419: a tamper source that asserts, enabled where it can be disabled, and not in a power failure where it is voltage, is
active, and locks the device; but in OFF, where the rest waits for the wake, the working copy and both link key sets are gone at once.  100 ms after the last
source the lock ends with event 0x0B02.  A failed health test of the entropy source is
kept and told in event 0x0B0D. -/
def Obligations.TamperLocks : Prop := ∀ (s : State),
  (∀ source measured, source ≤ 3 → (source = 0 → cfgB s hSEC Par.SEC_TAMPER_ENABLE = true) → (source = 1 → s.power.warning = false) →
    s.sec.active.testBit source = false →
    ∃ t, exec (.tamper source measured) s = .next t ∧ t.sec.locked = true ∧ t.sec.active = s.sec.active + 2 ^ source
      ∧ t.sec.tamperAt = s.now
      ∧ (s.power.state ≠ .off → t.sec.work = none ∧ t.sec.set0 = none ∧ t.sec.set1 = none ∧ t.sec.exchange = none)
      ∧ (s.power.state = .off → t.sec.deferred = some (Nat.lor (2 ^ source) ((s.sec.deferred.map (·.1)).getD 0), measured)))
  ∧ (s.sec.locked = true → fabricOn s = true → s.Canonical →
    ∃ t, exec .tamperClear s = .next t ∧ t.sec.locked = false ∧ t.sec.active = 0
      ∧ t.now = max s.now (s.sec.tamperAt + 100 * tickMs) ∧ lastCode t hSEC = 0x0B02)
  ∧ (∀ test, s.Canonical →
    ∃ t, exec (.entropyFailure test) s = .next t ∧ t.sec.entropyBad = true ∧ lastCode t hSEC = 0x0B0D)

/-- 16, R416: the test port takes an instruction that is open to it; a debug instruction that is closed selects BYPASS and is tamper
source 4.  In FACTORY and RETURN, where the key store can be read, a first challenge command draws a challenge and the second answers
it, which opens the debug module where the response is that of the vendor key. -/
def Obligations.TestPort : Prop := ∀ (s : State),
  (∀ i, (i = .debug → debugOpen s = true) → exec (.testPortInstruction i) s = .next { s with sec := { s.sec with testIr := i } })
  ∧ (debugOpen s = false → s.sec.active.testBit 4 = false →
    ∃ t, exec (.testPortInstruction .debug) s = .next t ∧ t.sec.testIr = .bypass ∧ t.sec.locked = true
      ∧ t.sec.active = s.sec.active + 16)
  ∧ (∀ response, (s.sec.lifecycle = 1 ∨ s.sec.lifecycle = 3) → s.sec.work.isSome = true → s.sec.testChallenge = none →
    s.sec.entropyBad = false →
    ∃ t c, exec (.testPortChallenge response) s = .next t ∧ t.sec.testChallenge = some c ∧ t.sec.testOpen = s.sec.testOpen)
  ∧ (∀ response c, (s.sec.lifecycle = 1 ∨ s.sec.lifecycle = 3) → s.sec.work.isSome = true → s.sec.testChallenge = some c →
    ∃ t, exec (.testPortChallenge response) s = .next t ∧ t.sec.testChallenge = none
      ∧ t.sec.testOpen = (s.sec.testOpen || hmac (keys s).venKey (c ++ [3, 3] ++ uid s) == response))

/-- 16, R410, R412, R420; 02, R64: a challenge expires 10 s after it was issued; a second of a lockout delay takes 1 from LOCKOUT_S; an
attestation asked for is made and told in event 0x0B0C; a session that has been idle for IDLE_TIMEOUT ends. -/
def Obligations.SecurityTimers : Prop := ∀ (s : State),
  (∀ i c l at_, (port s i).challenge = some (c, l, at_) →
    ∃ t, exec (.challengeExpiry i) s = .next t ∧ (port t i).challenge = none ∧ t.now = max s.now (at_ + 10 * tickS))
  ∧ (∀ i n, res s hSEC Par.SEC_LOCKOUT_S (portCode i) = n + 1 → s.Canonical →
    ∃ t, exec (.lockoutSecond i) s = .next t ∧ res t hSEC Par.SEC_LOCKOUT_S (portCode i) = n)
  ∧ (∀ c, s.sec.attest = some c → s.Canonical →
    ∃ t, exec .attestationDone s = .next t ∧ t.sec.attest = none ∧ lastCode t hSEC = 0x0B0C)
  ∧ (∀ i, cfg s (portUnit i) Par.CTRLPORT_IDLE_TIMEOUT ≠ 0 → (port s i).level ≠ 0 →
    ∃ t, exec (.sessionIdleTimeout i) s = .next t ∧ (port t i).level = 0 ∧ (port t i).key = none
      ∧ t.now = max s.now ((port s i).heard + cfg s (portUnit i) Par.CTRLPORT_IDLE_TIMEOUT * tickS))

/-- 16, R407 to R409, R420: OPERATOR_PASSWORD and INTEGRATOR_KEY queue a change of the key store and are answered once it is written; a
challenge of the attestation is kept until its answer is made. -/
def Obligations.SecurityRequests : Prop := ∀ (s : State) (h : Hdr), s.sec.locked = false → s.sec.writing = none →
  s.sec.changes = [] →
  (∀ bs, let r := mkWrite h hSEC Par.SEC_OPERATOR_PASSWORD (u32 0 ++ bs)
    s.accepts r = true → (bs = [] ∨ s.sec.entropyBad = false) →
    ∃ t c k, exec (.operatorPassword h 0 bs) s = .next t ∧ t.ctrl.busy = some (r, .keyStore) ∧ t.sec.writing = some (c, k)
      ∧ (bs = [] → c = .noPassword) ∧ (bs ≠ [] → k.opSet = true ∧ k.opHash = pbkdf2 (bs.take 32) k.opSalt 16384))
  ∧ (∀ bs, let r := mkWrite h hSEC Par.SEC_INTEGRATOR_KEY bs
    s.accepts r = true →
    ∃ t c k, exec (.integratorKey h bs) s = .next t ∧ t.ctrl.busy = some (r, .keyStore) ∧ t.sec.writing = some (c, k)
      ∧ c = (if bs.all (· == 0) then .noIntegrator else .integrator bs))
  ∧ (∀ bs, let r := mkWrite h hSEC Par.SEC_ATTEST_CHALLENGE bs
    s.accepts r = true → s.sec.entropyBad = false →
    ∃ t, exec (.attestChallenge h bs) s = .next t ∧ t.sec.attest = some bs ∧ t.answered (port s h.port).key r)

/-! ### Resilience and power (18, 19) -/

/-- 18, R458, R464: a monitor's report of a tile or a stand counts for its period, whose end counts in PERIODS and begins the next; the
regulator's report of the voltage commanded confirms it, and a write not confirmed in time is made again, twice at most, after which VCORE is
what was last confirmed. -/
def Obligations.MonitorsAndRegulator : Prop := ∀ (s : State), s.Canonical →
  (∀ u cyc, fabricOn s = true → s.power.service = none →
    (isTile u = true → mwf {} s.pipe.tiles = true →
      ∃ t, exec (.monitorMeasurement u cyc) s = .next t ∧ (tile t ((u - 0x0200) / 16) (u % 16)).last = cyc
        ∧ (tile t ((u - 0x0200) / 16) (u % 16)).tcyc = max (tile s ((u - 0x0200) / 16) (u % 16)).tcyc cyc)
    ∧ (∀ st < 8, u = hSTAND st → mwf 0 s.pipe.standLast = true → mwf 0 s.pipe.standCyc = true →
      ∃ t, exec (.monitorMeasurement u cyc) s = .next t ∧ mget 0 t.pipe.standLast st = cyc
        ∧ mget 0 t.pipe.standCyc st = max (mget 0 s.pipe.standCyc st) cyc))
  ∧ (fabricOn s = true → s.power.service = none → s.power.transition = none →
    ∃ t, exec .marginPeriod s = .next t ∧ res t hSTAG Par.STAG_PERIODS = (res s hSTAG Par.STAG_PERIODS + 1) % w32
      ∧ t.resil.periodAt = t.now ∧ t.now = max s.now (s.resil.periodAt + 10 * tickS))
  ∧ (∀ mv n, s.resil.avs = some (mv, n) →
    ∃ t, exec (.avsStatus mv) s = .next t ∧ t.resil.avs = none ∧ t.resil.confirmed = mv
      ∧ res t hSTAG Par.STAG_VCORE_MV = mv)
  ∧ (∀ mv n, s.resil.avs = some (mv, n) → n < 2 →
    ∃ t, exec .avsTimeout s = .next t ∧ t.resil.avs = some (mv, n + 1))
  ∧ (∀ mv n, s.resil.avs = some (mv, n) → 2 ≤ n →
    ∃ t, exec .avsTimeout s = .next t ∧ t.resil.avs = none ∧ t.resil.vcore = s.resil.confirmed
      ∧ res t hSTAG Par.STAG_AVS_ERRORS = min (res s hSTAG Par.STAG_AVS_ERRORS + 1) max32)

/-- 18, R463, R465: the ramp of a commit raises VCORE by 5 mV as long as a predicted margin is short and the ceiling is not reached, and then
ends; the search at start-up lowers it by 5 mV as long as no margin is below MARGIN_LOWER and the floor is not reached, and a step that
went below is taken back. -/
def Obligations.VcoreRampAndSearch : Prop := ∀ (s : State),
  (∀ req, s.resil.ramp = some req →
    let short := (margins s req (·.last) s.pipe.standLast).any fun x => decide (x.2 < cfg s hSTAG Par.STAG_MARGIN_RAISE)
    (short = true → s.resil.vcore < vcoreCeiling s →
      ∃ t, exec .vcoreRampStep s = .next t ∧ t.resil.vcore = s.resil.vcore + 5 ∧ t.resil.avs = some (s.resil.vcore + 5, 0)
        ∧ t.resil.ramp = some req)
    ∧ (short = false ∨ vcoreCeiling s ≤ s.resil.vcore →
      ∃ t, exec .vcoreRampStep s = .next t ∧ t.resil.vcore = s.resil.vcore ∧ t.resil.ramp = none))
  ∧ (s.resil.searching = true → s.resil.avs = none →
    let low := (margins s (required s (modeNow s)) (·.last) s.pipe.standLast).any fun x =>
      decide (x.2 < cfg s hSTAG Par.STAG_MARGIN_LOWER)
    ∃ t, exec .vcoreSearchStep s = .next t
      ∧ (if low = true then t.resil.searching = false
            ∧ (s.resil.vcore < 900 → t.resil.vcore = s.resil.vcore + 5 ∧ t.resil.avs = some (s.resil.vcore + 5, 0))
        else if cfg s hSTAG Par.STAG_VCORE_FLOOR < s.resil.vcore then
          t.resil.vcore = s.resil.vcore - 5 ∧ t.resil.avs = some (s.resil.vcore - 5, 0) ∧ t.resil.searching = true
        else t.resil.vcore = s.resil.vcore ∧ t.resil.searching = false))

/-- 13, R352, R354; 18, R454, R457: RETIRE of a channel in service, where an order is left and none is retired, begins its migration; where none
may be retired the channel reads FAILED; of one that is felled or failed it changes nothing of the DRAM.  FELL of a tile, where the stand's
spare is in health SPARE with margin enough, fells it, and counts it; else it is withheld with event 0x0D05.  REINSTATE of a unit with a
blaze record in force, where the region has room, is answered once a record of kind 3 is programmed; where the region is full it is
answered BUSY; of a unit without one it is a clamp of cause 1. -/
def Obligations.ResilienceRequests : Prop := ∀ (s : State) (h : Hdr), s.Canonical →
  (∀ c, c < 8 → s.accepts (mkWrite h hDRAM Par.DRAM_RETIRE [c]) = true → mwf {} s.dram.chans = true →
    ∃ t, exec (.retire h c) s = .next t ∧ t.answered (port s h.port).key (mkWrite h hDRAM Par.DRAM_RETIRE [c])
      ∧ (if (chan s c).felled = true ∨ (chan s c).failed = true then t.dram = s.dram
        else if s.dram.order = 0 ∨ s.dram.retired ≠ none then (chan t c).failed = true ∧ t.dram.failed = true
        else t.dram.retired = some c ∧ t.dram.migration = 1 ∧ (chan t c).migrating = true ∧ lastCode t hDRAM = 0x070A))
  ∧ (∀ st n v, st < 8 → n < 9 → v < 256 → s.accepts (mkWrite h (hTILE st n) Par.TILE_FELL [v]) = true →
    (tile s st n).felled = false → mwf {} s.pipe.tiles = true →
    ∃ t, exec (.fell h st n v) s = .next t ∧ t.answered (port s h.port).key (mkWrite h (hTILE st n) Par.TILE_FELL [v])
      ∧ (if spareIdle s st = true ∧ cfg s hSTAG Par.STAG_MARGIN_RAISE ≤ (tile s st 8).margin then
          (tile t st n).felled = true ∧ lastCode t (hTILE st n) = 0x0D04
            ∧ res t hSTAG Par.STAG_FELLINGS = min (res s hSTAG Par.STAG_FELLINGS + 1) max32
        else (tile t st n).felled = false ∧ (tile t st n).withheld = true ∧ lastCode t (hTILE st n) = 0x0D05
            ∧ res t hSTAG Par.STAG_WITHHELD = min (res s hSTAG Par.STAG_WITHHELD + 1) max32))
  ∧ (∀ u, u < 65536 → let r := mkWrite h hSTAG Par.STAG_REINSTATE (u16 u)
    s.accepts r = true →
    ∃ t, exec (.reinstate h u) s = .next t
      ∧ (if inForce s u = false then t.answered (port s h.port).key r
            ∧ res t hDEV Par.DEV_LAST_CLAMPED = hSTAG * 65536 + 4096 + Par.STAG_REINSTATE
            ∧ res t hDEV Par.DEV_CLAMP_COUNT = min (res s hDEV Par.DEV_CLAMP_COUNT + 1) max32
        else if blazeRoom s = none then t.answeredBy (port s h.port).key r stBUSY [] ∧ t.pstore.blazeFull = true
        else t.ctrl.busy = some (r, .blaze)
            ∧ (t.pstore.queue ++ (t.pstore.current.map (·.1)).toList).any (fun p => p.why == .blaze u 3) = true))

/-- 03, R106; 10, R264; 08, R215, R227, R229: LINK_RETRAIN in ACTIVE or IDLE starts an episode with reason 2; in BACKOFF it ends the wait, with
DETECT where the partner is lost and an episode where it is not (DEDUCED: log entry 19); in any other state it changes nothing of the link.
PORT_RETRAIN of a FAILED, enabled port with a lane in service starts its training; of any other port it changes nothing of the ports.
SWEEP_START asks for a sweep.  MAP_SAVE begins a save, or where an activation has the flash one that waits.  MAP_RELOAD begins to load
the residual rows from the bank in force, where its geometry is the panel's, and with no valid bank ends at once with event 0x0330. -/
def Obligations.LinkAndMapRequests : Prop := ∀ (s : State) (h : Hdr) (value : Nat), value < 65536 →
  (s.accepts (mkWrite h hLINK Par.LINK_RETRAIN (u16 value)) = true →
    ∃ t, exec (.linkRetrain h value) s = .next t ∧ t.answered (port s h.port).key (mkWrite h hLINK Par.LINK_RETRAIN (u16 value))
      ∧ (if s.link.phase = .active ∨ s.link.phase = .idle ∨ (s.link.phase = .backoff ∧ s.link.lost = false) then
          t.link.phase = .bitlock ∧ t.link.reason = 2 ∧ t.link.attempt = (s.link.attempt + 1) % 256
        else if s.link.phase = .backoff then t.link.phase = .detect ∧ t.link.reason = 2
        else t.link = s.link))
  ∧ (∀ p, p < 64 → s.accepts (mkWrite h (hPORT p) Par.PORT_RETRAIN (u16 value)) = true →
    (((oport s p).stopped = true ∨ (oport s p).boostFailed = true) → portEnabled s p = true → panelDomainOn s = true →
      ((olane s p 0).retired = false ∨ (olane s p 1).retired = false) → mwf {} s.out.ports = true →
      ∃ t, exec (.portRetrain h p value) s = .next t ∧ (oport t p).phase = .ts1 ∧ (oport t p).since = s.now
        ∧ (oport t p).attempts = 0 ∧ t.answered (port s h.port).key (mkWrite h (hPORT p) Par.PORT_RETRAIN (u16 value)))
    ∧ ((oport s p).stopped = false → (oport s p).boostFailed = false →
      ∃ t, exec (.portRetrain h p value) s = .next t ∧ t.out = s.out
        ∧ t.answered (port s h.port).key (mkWrite h (hPORT p) Par.PORT_RETRAIN (u16 value))))
  ∧ (s.accepts (mkWrite h hCOMP Par.COMP_SWEEP_START (u16 value)) = true →
    ∃ t, exec (.sweepStart h value) s = .next t ∧ t.pipe.sweepAsk = (if s.pipe.sweepAsk = some 1 then some 1 else some 0)
      ∧ t.answered (port s h.port).key (mkWrite h hCOMP Par.COMP_SWEEP_START (u16 value)))
  ∧ (s.accepts (mkWrite h hCOMP Par.COMP_MAP_SAVE (u16 value)) = true → mapBusy s = false →
    ∃ t, exec (.mapSave h value) s = .next t ∧ t.answered (port s h.port).key (mkWrite h hCOMP Par.COMP_MAP_SAVE (u16 value))
      ∧ (if s.stag.activation = none then t.pipe.saving = some s.now ∧ t.pipe.saveDue = false
        else t.pipe.saving = none ∧ t.pipe.saveDue = true))
  ∧ (s.accepts (mkWrite h hCOMP Par.COMP_MAP_RELOAD (u16 value)) = true → mapBusy s = false → s.Canonical →
    (bankInForce (readBanks s).1 = none → s.pipe.saveDue = false →
      ∃ t, exec (.mapReload h value) s = .next t ∧ t.pipe.noBank = true ∧ t.pipe.load = none ∧ res t hCOMP Par.COMP_MAP_BANK = 0
        ∧ (s.raster.stopped = false → lastCode t hCOMP = 0x0330)
        ∧ t.answered (port s h.port).key (mkWrite h hCOMP Par.COMP_MAP_RELOAD (u16 value)))
    ∧ (∀ b seq is, let m := s.raster.mode
      bankInForce (readBanks s).1 = some (b, seq, [panelColumns m, panelRows m, m.sub], is) → (region s 0x12).isSome = true →
      panelRows m ≠ 0 →
      ∃ t l, exec (.mapReload h value) s = .next t ∧ t.pipe.noBank = false ∧ res t hCOMP Par.COMP_MAP_BANK = b
        ∧ t.pipe.load = some l ∧ l.reload = true ∧ l.bank = b ∧ l.seq = seq ∧ l.residual = List.range (panelRows m) ∧ l.stress = []
        ∧ t.answered (port s h.port).key (mkWrite h hCOMP Par.COMP_MAP_RELOAD (u16 value))))

/-- 19, R476, R477, R495; 15, R377: power-on, RESET_N and the recovery from a power-fail warning hold the device in reset, with their causes;
the fuses, the firmware slots and map flash are kept, and the store too but for a program in progress. -/
def Obligations.ResetsHoldDevice : Prop := ∀ (s : State),
  let held := fun (c : Instr) (cause : Nat) => ∃ t, exec c s = .next t ∧ t.power.phase = .reset ∧ t.power.cause = cause
    ∧ t.sec.huk = s.sec.huk ∧ t.sec.lifecycle = s.sec.lifecycle ∧ t.pipe.flash = s.pipe.flash
    ∧ (s.pstore.current = none → t.pstore.mem = s.pstore.mem)
    ∧ (s.stag.activation = none → t.stag.slotA = s.stag.slotA ∧ t.stag.slotB = s.stag.slotB)
  held .powerOnReset 0
  ∧ (s.power.phase ≠ .reset → held .resetN 1)
  ∧ (s.power.warning = true → held .powerFailRecovery 3)

/-- 19, Table 19.3, R478: the steps of a start-up follow one another: the release of reset starts the reference; then the boot ROM with the SRAM
cleared; the firmware; DRAM training with VCORE commanded at 900 mV, once the store is read; and the panel, once the small bank is loaded. -/
def Obligations.StartupStepsFollow : Prop := ∀ (s : State),
  (∀ hostsel node xin, s.power.phase = .reset →
    ∃ t, exec (.resetRelease hostsel node xin) s = .next t ∧ t.power.phase = .reference ∧ t.pins = ⟨hostsel, node, xin⟩
      ∧ t.epoch = s.now ∧ t.power.state = .self)
  ∧ (s.power.phase = .reference →
    ∃ t, exec .referenceReady s = .next t ∧ t.power.phase = .bootRom ∧ t.sram.accessible = true ∧ t.sram.mem = [] ∧ t.sram.poison = [])
  ∧ (s.power.phase = .bootRom →
    ∃ t, exec .firmwareStarted s = .next t ∧ t.power.phase = .firmware ∧ t.stag.running = true)
  ∧ (s.power.phase = .firmware → s.power.service = none →
    ∃ t, exec .storeReadDone s = .next t ∧ t.power.phase = .dramTraining ∧ t.pstore.read = true ∧ t.resil.avs = some (900, 0)
      ∧ t.resil.searching = true)
  ∧ (s.power.phase = .smallBank → s.stag.recovery = true →
    ∃ t, exec .smallBankLoaded s = .next t ∧ t.power.phase = .panelOn ∧ t.panel.seq = s.panel.seq)
  ∧ (s.power.phase = .smallBank → s.stag.recovery = false → s.power.restarting = false → s.power.warning = false →
    s.power.transition = none → s.panel.seq = none → s.panel.on = 0 → cfg s hPANELPWR Par.PANELPWR_ON_SEQ 0 = 0x06 →
    cfg s hPANELPWR Par.PANELPWR_ON_SEQ 6 = 3 → s.Canonical →
    ∃ t q, exec .smallBankLoaded s = .next t ∧ t.power.phase = .panelOn ∧ t.panel.seq = some q ∧ q.off = false ∧ q.step = 0
      ∧ t.panel.refs = true)

/-- 19, R485 to R487: after STANDBY_AFTER_S quiet seconds in SELF or HOLD an entry to STANDBY begins, with event 0x0E07; after OFF_AFTER_MIN
minutes in STANDBY the entry to OFF begins with a service wake. -/
def Obligations.SleepTimers : Prop := ∀ (s : State),
  (cfg s hPWR Par.PWR_STANDBY_AFTER_S ≠ 0 → selfing s = true → mayEnter s = true → s.Canonical →
    ∃ t, exec .standbyTimer s = .next t ∧ t.power.transition = some { off := false } ∧ lastCode t hPWR = 0x0E07
      ∧ t.now = max s.now (s.power.quietAt + cfg s hPWR Par.PWR_STANDBY_AFTER_S * tickS))
  ∧ (s.power.settings.offAfter ≠ 0 → s.power.state = .standby → s.power.transition = none → s.power.waking = none →
    s.power.service = none →
    ∃ t, exec .offTimer s = .next t ∧ t.power.transition = some { off := true, step := 0 } ∧ t.power.service = some 0
      ∧ t.power.wakeStep = 1 ∧ t.now = max s.now (s.power.asleepAt + s.power.settings.offAfter * 60 * tickS))

/-- 19, R487, R489 to R492: in STANDBY an enabled source, or the wake timer, wakes the device, and the thermal source wakes it for service;
in the first step of an entry a full wake cancels the entry; a service wake that no full wake has joined ends after 1 s. -/
def Obligations.WakesBegin : Prop := ∀ (s : State),
  (∀ n, 1 ≤ n → n ≤ 5 → sourceEnabled s.power.settings n = true → s.power.phase ≠ .reset → s.power.state = .standby →
    s.power.transition = none → s.power.waking = none → s.power.service = none →
    ∃ t, exec (.fullWake n) s = .next t ∧ t.power.waking = some n ∧ t.power.wakeStep = 1 ∧ t.resil.avs = some (s.resil.vcore, 0))
  ∧ (∀ n e, 1 ≤ n → n ≤ 5 → sourceEnabled s.power.settings n = true → s.power.phase ≠ .reset → s.power.transition = some e →
    e.step = 1 → s.Canonical →
    ∃ t, exec (.fullWake n) s = .next t ∧ t.power.transition = none ∧ lastCode t hPWR = 0x0E09)
  ∧ (s.power.settings.timer ≠ 0 → s.power.state = .standby → s.power.transition = none → s.power.waking = none →
    s.power.service = none →
    ∃ t, exec .wakeTimer s = .next t ∧ t.power.waking = some 6 ∧ t.power.wakeStep = 1
      ∧ t.now = max s.now (s.power.asleepAt + s.power.settings.timer * tickS))
  ∧ (s.power.state = .standby → s.power.phase ≠ .reset → s.power.transition = none → s.power.waking = none → s.power.service = none →
    ∃ t, exec (.serviceWake 7) s = .next t ∧ t.power.service = some 7 ∧ t.power.wakeStep = 1 ∧ t.power.waking = none)
  ∧ (∀ n, s.power.service = some n → n ≠ 0 → s.power.transition = none → s.power.heldWake = none → s.power.heldRequest = none →
    (s.power.serviceFrom = .standby ∨ s.power.serviceFrom = .off) →
    ∃ t, exec .serviceWakeTimeout s = .next t ∧ t.now = max s.now (s.power.wakeAt + tickS)
      ∧ (t.power.transition = some { off := s.power.serviceFrom == .off, step := 4, back := true }
        ∨ (t.power.service = none ∧ t.power.state = s.power.serviceFrom)))

/-- 19, Table 19.8, R493, R495: power good of the on-die domains in a full wake starts Stag and takes the wake to its fourth step, where
it waits for DRAM to leave self-refresh; a resource not ready in time is tried again, twice at most, with event 0x0E03; the power-fail warning is told in event 0x0E05 and ends
entries and wakes. -/
def Obligations.WakeProgressAndWarning : Prop := ∀ (s : State), s.Canonical →
  (∀ n, s.power.wakeStep = 2 → s.power.waking = some n → (List.range 8).any (fun c => (chan s c).service && (chan s c).selfRefresh) = true →
    ∃ t, exec (.domainPowerGood false) s = .next t ∧ t.stag.running = true ∧ t.power.failed = false ∧ t.power.wakeStep = 4)
  ∧ (∀ r, awaitsResource s r = true → s.power.tries < 2 →
    ∃ t, exec (.resourceReadyTimeout r) s = .next t ∧ t.power.tries = s.power.tries + 1 ∧ lastCode t hPWR = 0x0E03)
  ∧ (∀ r, awaitsResource s r = true → 2 ≤ s.power.tries →
    ∃ t, exec (.resourceReadyTimeout r) s = .next t ∧ t.power.failed = true ∧ lastCode t hPWR = 0x0E04
      ∧ t.power.state = (if s.power.wakeStep = 0 then .off else .standby))
  ∧ (∀ mv, s.power.warning = false → s.power.phase ≠ .reset → 1500 ≤ mv → mv < 1710 →
    ∃ t, exec (.powerFailWarning mv) s = .next t ∧ t.power.warning = true ∧ t.pstore.warned = true ∧ t.power.transition = none
      ∧ t.power.waking = none ∧ lastCode t hPWR = 0x0E05)

/-- 19, R485 to R487, R497; 16, R414, R415: POWER_REQUEST STANDBY and OFF begin their entries where one may begin, with event 0x0E07; ON
cancels an entry in its first step, with event 0x0E09; RESTART, answered first, sets the restart going; LIFECYCLE_REQUEST changes the
lifecycle state at once, and goes on until its key-store changes are done. -/
def Obligations.PowerAndLifecycleRequests : Prop := ∀ (s : State) (h : Hdr), s.Canonical →
  (∀ e, s.accepts (mkWrite h hDEV Par.DEV_POWER_REQUEST [0]) = true → s.power.transition = some e → e.step = 1 →
    ∃ t, exec (.powerRequestOn h) s = .next t ∧ t.power.transition = none ∧ lastCode t hPWR = 0x0E09
      ∧ t.answered (port s h.port).key (mkWrite h hDEV Par.DEV_POWER_REQUEST [0]))
  ∧ (s.accepts (mkWrite h hDEV Par.DEV_POWER_REQUEST [1]) = true → mayEnter s = true →
    ∃ t, exec (.powerRequestStandby h) s = .next t ∧ t.power.transition = some { off := false } ∧ lastCode t hPWR = 0x0E07
      ∧ t.answered (port s h.port).key (mkWrite h hDEV Par.DEV_POWER_REQUEST [1]))
  ∧ (s.accepts (mkWrite h hDEV Par.DEV_POWER_REQUEST [2]) = true → mayEnter s = true →
    ∃ t, exec (.powerRequestOff h) s = .next t ∧ t.power.transition = some { off := true } ∧ lastCode t hPWR = 0x0E07
      ∧ t.answered (port s h.port).key (mkWrite h hDEV Par.DEV_POWER_REQUEST [2]))
  ∧ (∀ v, v < 65536 → s.accepts (mkWrite h hDEV Par.DEV_RESTART (u16 v)) = true →
    ∃ t, exec (.restart h v) s = .next t ∧ t.power.restarting = true ∧ t.answered (port s h.port).key (mkWrite h hDEV Par.DEV_RESTART (u16 v)))
  ∧ (∀ target id, let r := mkWrite h hDEV Par.DEV_LIFECYCLE_REQUEST ([target, 0, 0, 0] ++ id)
    s.accepts r = true → s.sec.locked = false →
    ∃ t, exec (.lifecycleRequest h target id) s = .next t ∧ t.sec.lifecycle = target
      ∧ t.ctrl.busy = some (r, .lifecycle s.sec.lifecycle target) ∧ (port t h.port).level = 0 ∧ t.answered (port s h.port).key r)
end

