-- ==== Sys2Proof/Laws/Maps.lean ====
section
/-! SUPPORT. Laws of sparse maps and of addressed memories: what is written is read back, nothing else changes, and every
operation keeps the canonical form. -/

set_option Elab.async false

namespace Sys2Proof.Machine

variable {α : Type} [DecidableEq α]

/-! ### Reading and writing -/

omit [DecidableEq α] in
theorem mget_head_lt (d : α) (m : NMap α) (k k' : Nat) (v : α) (h : k < k') : mget d ((k', v) :: m) k = d := by
  have h1 : ¬k = k' := by omega
  simp [mget, h1, h]

theorem mwfFrom_le (d : α) {lo lo' : Nat} (hl : lo' ≤ lo) (m : NMap α) (hm : mwfFrom d lo m = true) :
    mwfFrom d lo' m = true := by
  cases m with
  | nil => rfl
  | cons e m =>
    obtain ⟨a, b⟩ := e
    simp only [mwfFrom, Bool.and_eq_true, decide_eq_true_eq] at hm ⊢
    exact ⟨⟨Nat.le_trans hl hm.1.1, hm.1.2⟩, hm.2⟩

theorem mget_below (d : α) {lo k : Nat} (hk : k < lo) (m : NMap α) (hm : mwfFrom d lo m = true) : mget d m k = d := by
  cases m with
  | nil => rfl
  | cons e m =>
    obtain ⟨a, b⟩ := e
    simp only [mwfFrom, Bool.and_eq_true, decide_eq_true_eq] at hm
    exact mget_head_lt d m k a b (by omega)

/-- A write reads back. -/
theorem mget_mput_self (d : α) (m : NMap α) (k : Nat) (v : α) (h : mwf d m = true) : mget d (mput d m k v) k = v := by
  suffices H : ∀ lo, mwfFrom d lo m = true → mget d (mput d m k v) k = v from H 0 h
  clear h
  induction m with
  | nil => intro lo _; by_cases hv : v = d <;> simp [mput, mget, hv]
  | cons e m ih =>
    obtain ⟨k', v'⟩ := e
    intro lo hw
    simp only [mwfFrom, Bool.and_eq_true] at hw
    simp only [mput]
    split
    · subst k'
      split
      · subst v
        exact mget_below d (Nat.lt_succ_self k) m hw.2
      · simp [mget]
    · split
      · split
        · subst v; simp [mget, *]
        · simp [mget]
      · rename_i h1 h2
        simp [mget, h1, h2, ih _ hw.2]

/-- A write leaves every other key as it was. -/
theorem mget_mput_other (d : α) (m : NMap α) (k j : Nat) (v : α) (hj : j ≠ k) (h : mwf d m = true) :
    mget d (mput d m k v) j = mget d m j := by
  suffices H : ∀ lo, mwfFrom d lo m = true → mget d (mput d m k v) j = mget d m j from H 0 h
  induction m with
  | nil =>
    intro lo _
    by_cases hv : v = d
    · simp [mput, hv]
    · by_cases hl : j < k <;> simp [mput, mget, hv, hj, hl]
  | cons e m ih =>
    obtain ⟨k', v'⟩ := e
    intro lo hw
    simp only [mwfFrom, Bool.and_eq_true] at hw
    have ih := ih (mwfFrom_le d (Nat.zero_le _) m hw.2) (k' + 1) hw.2
    simp only [mput]
    split
    · subst k'
      split
      · by_cases hl : j < k
        · rw [mget_head_lt d m j k v' hl, mget_below d (Nat.lt_succ_of_lt hl) m hw.2]
        · simp [mget, hj, hl]
      · by_cases hl : j < k <;> simp [mget, hj, hl]
    · split
      · rename_i h1 h2
        split
        · rfl
        · by_cases hl : j < k
          · rw [mget_head_lt d _ j k v hl, mget_head_lt d m j k' v' (by omega)]
          · simp [mget, hj, hl]
      · simp [mget, ih]

/-! ### The canonical form is kept -/

theorem mwfFrom_mput (d : α) (m : NMap α) (k : Nat) (v : α) : ∀ lo, lo ≤ k → mwfFrom d lo m = true →
    mwfFrom d lo (mput d m k v) = true := by
  induction m with
  | nil =>
    intro lo hl _
    by_cases hv : v = d <;> simp [mput, mwfFrom, hv, hl]
  | cons e m ih =>
    obtain ⟨k', v'⟩ := e
    intro lo hl hw
    simp only [mwfFrom, Bool.and_eq_true, decide_eq_true_eq] at hw
    simp only [mput]
    split
    · subst k'
      split
      · exact mwfFrom_le d (Nat.le_succ_of_le hl) m hw.2
      · simp [mwfFrom, hw.2, *]
    · split
      · split
        · simp [mwfFrom, hw.1.1, hw.1.2, hw.2]
        · rename_i h1 h2 h3
          simp [mwfFrom, hl, h3, hw.1.2, hw.2]
          omega
      · have := ih (k' + 1) (by omega) hw.2
        simp [mwfFrom, hw.1.1, hw.1.2, this]

theorem mwf_nil (d : α) : mwf d [] = true := rfl

theorem mwf_mput (d : α) (m : NMap α) (k : Nat) (v : α) (h : mwf d m = true) : mwf d (mput d m k v) = true :=
  mwfFrom_mput d m k v 0 (Nat.zero_le k) h

theorem mwf_mputList (d : α) (vs : List α) : ∀ (m : NMap α) (k : Nat), mwf d m = true → mwf d (mputList d m k vs) = true := by
  induction vs with
  | nil => exact fun _ _ h => h
  | cons v vs ih => exact fun m k h => ih _ _ (mwf_mput d m k v h)

/-- A sequence of writes. -/
theorem mwf_foldl_mput {β : Type} (d : α) (key : β → Nat) (val : β → α) (l : List β) :
    ∀ m : NMap α, mwf d m = true → mwf d (l.foldl (fun m b => mput d m (key b) (val b)) m) = true := by
  induction l with
  | nil => exact fun _ h => h
  | cons b l ih => exact fun m h => ih _ (mwf_mput d m _ _ h)

theorem mwfFrom_filter (d : α) (p : Nat × α → Bool) (m : NMap α) : ∀ lo, mwfFrom d lo m = true →
    mwfFrom d lo (m.filter p) = true := by
  induction m with
  | nil => exact fun _ h => h
  | cons e m ih =>
    obtain ⟨k, v⟩ := e
    intro lo hw
    simp only [mwfFrom, Bool.and_eq_true, decide_eq_true_eq] at hw
    rw [List.filter_cons]
    split
    · simp [mwfFrom, hw.1.1, hw.1.2, ih _ hw.2]
    · exact mwfFrom_le d (by omega) _ (ih _ hw.2)

theorem mwf_mdrop (d : α) (m : NMap α) (lo hi : Nat) (h : mwf d m = true) : mwf d (mdrop m lo hi) = true :=
  mwfFrom_filter d _ m 0 h

theorem mwf_mslice (d : α) (m : NMap α) (lo hi : Nat) (h : mwf d m = true) : mwf d (mslice m lo hi) = true :=
  mwfFrom_filter d _ m 0 h

theorem mwfFrom_shift (d : α) (c : Nat) (m : NMap α) : ∀ lo, c ≤ lo → mwfFrom d lo m = true →
    mwfFrom d (lo - c) (m.map fun e => (e.1 - c, e.2)) = true := by
  induction m with
  | nil => exact fun _ _ _ => rfl
  | cons e m ih =>
    obtain ⟨k, v⟩ := e
    intro lo hc hw
    simp only [mwfFrom, Bool.and_eq_true, decide_eq_true_eq] at hw
    have := ih (k + 1) (by omega) hw.2
    rw [show k + 1 - c = k - c + 1 by omega] at this
    simp only [List.map_cons, mwfFrom, Bool.and_eq_true, decide_eq_true_eq]
    exact ⟨⟨by omega, hw.1.2⟩, this⟩

/-- A slice, its keys counted from its start. -/
theorem mwf_slice_shift (d : α) (m : NMap α) (lo hi : Nat) (h : mwf d m = true) :
    mwf d ((mslice m lo hi).map fun e => (e.1 - lo, e.2)) = true := by
  have key : ∀ (m : NMap α) (a : Nat), mwfFrom d a m = true → mwfFrom d (max a lo) (mslice m lo hi) = true := by
    intro m
    induction m with
    | nil => exact fun _ _ => rfl
    | cons e m ih =>
      obtain ⟨k, v⟩ := e
      intro a hw
      simp only [mwfFrom, Bool.and_eq_true, decide_eq_true_eq] at hw
      have hm := ih (k + 1) hw.2
      unfold mslice at hm ⊢
      rw [List.filter_cons]
      split
      · rename_i hin
        simp only [decide_eq_true_eq] at hin
        simp only [mwfFrom, Bool.and_eq_true, decide_eq_true_eq]
        exact ⟨⟨by omega, hw.1.2⟩, mwfFrom_le d (by omega) _ hm⟩
      · exact mwfFrom_le d (by omega) _ hm
  have h1 := mwfFrom_shift d lo (mslice m lo hi) (max 0 lo) (by omega) (key m 0 h)
  exact mwfFrom_le d (Nat.zero_le _) _ h1

omit [DecidableEq α] in
theorem mrising_le {lo lo' : Nat} (hl : lo' ≤ lo) (m : NMap α) (hm : mrising lo m = true) : mrising lo' m = true := by
  cases m with
  | nil => rfl
  | cons e m =>
    obtain ⟨a, b⟩ := e
    simp only [mrising, Bool.and_eq_true, decide_eq_true_eq] at hm ⊢
    exact ⟨Nat.le_trans hl hm.1, hm.2⟩

theorem mrisingFrom_mput (d : α) (m : NMap α) (k : Nat) (v : α) : ∀ lo, lo ≤ k → mrising lo m = true →
    mrising lo (mput d m k v) = true := by
  induction m with
  | nil =>
    intro lo hl _
    by_cases hv : v = d <;> simp [mput, mrising, hv, hl]
  | cons e m ih =>
    obtain ⟨k', v'⟩ := e
    intro lo hl hw
    simp only [mrising, Bool.and_eq_true, decide_eq_true_eq] at hw
    simp only [mput]
    split
    · subst k'
      split
      · exact mrising_le (Nat.le_succ_of_le hl) m hw.2
      · simp [mrising, hl, hw.2]
    · split
      · split
        · simp [mrising, hw.1, hw.2]
        · simp [mrising, hl, hw.2]
          omega
      · have := ih (k' + 1) (by omega) hw.2
        simp [mrising, hw.1, this]

theorem mrising_mput (d : α) (m : NMap α) (k : Nat) (v : α) (h : mrising 0 m = true) : mrising 0 (mput d m k v) = true :=
  mrisingFrom_mput d m k v 0 (Nat.zero_le k) h

/-! ### Addressed memories -/

/-- A run of bytes written into a memory in canonical form leaves it so. -/
theorem storeBytes_wf (d : Byte) (m : Mem) (a : Nat) (bs : List Nat) (h : Memory.wf d m = true) :
    Memory.wf d (storeBytes d m a bs) = true := mwf_mputList d _ m a h

/-- Every memory operation keeps the canonical form. -/
theorem wf_nil (d : Byte) : Memory.wf d [] = true := rfl
theorem mput_wf (d : Byte) (m : Mem) (k : Nat) (v : Byte) (h : Memory.wf d m = true) : Memory.wf d (mput d m k v) = true :=
  mwf_mput d m k v h
theorem mdrop_wf (d : Byte) (m : Mem) (lo hi : Nat) (h : Memory.wf d m = true) : Memory.wf d (mdrop m lo hi) = true :=
  mwf_mdrop d m lo hi h
theorem slice_wf (d : Byte) (m : Mem) (lo hi : Nat) (h : Memory.wf d m = true) :
    Memory.wf d ((mslice m lo hi).map fun e => (e.1 - lo, e.2)) = true := mwf_slice_shift d m lo hi h

theorem mget_mputList_outside (d : α) (vs : List α) : ∀ (m : NMap α) (k j : Nat), (j < k ∨ k + vs.length ≤ j) →
    mwf d m = true → mget d (mputList d m k vs) j = mget d m j := by
  induction vs with
  | nil => intros; rfl
  | cons v vs ih =>
    intro m k j hj h
    simp only [List.length_cons] at hj
    rw [mputList, ih _ _ _ (by omega) (mwf_mput d m k v h), mget_mput_other d m k j v (by omega) h]

theorem mget_mputList_inside (d : α) (vs : List α) : ∀ (m : NMap α) (k i : Nat) (hi : i < vs.length),
    mwf d m = true → mget d (mputList d m k vs) (k + i) = vs[i] := by
  induction vs with
  | nil => intro _ _ i hi; simp at hi
  | cons v vs ih =>
    intro m k i hi h
    cases i with
    | zero =>
      rw [mputList, Nat.add_zero, mget_mputList_outside d vs _ _ _ (by omega) (mwf_mput d m k v h)]
      simpa using mget_mput_self d m k v h
    | succ i =>
      simp only [List.length_cons] at hi
      rw [mputList, show k + (i + 1) = k + 1 + i by omega, ih _ _ _ (by omega) (mwf_mput d m k v h)]
      simp

/-- Every byte outside a run of stored bytes reads as before. -/
theorem storeBytes_outside (d : Byte) (m : Mem) (a j : Nat) (bs : List Nat) (h : Memory.wf d m = true)
    (hj : j < a ∨ a + bs.length ≤ j) : mget d (storeBytes d m a bs) j = mget d m j :=
  mget_mputList_outside d _ m a j (by simpa using hj) h

/-- A stored byte reads back. -/
theorem storeBytes_inside (d : Byte) (m : Mem) (a i : Nat) (bs : List Nat) (h : Memory.wf d m = true) (hi : i < bs.length) :
    mget d (storeBytes d m a bs) (a + i) = BitVec.ofNat 8 bs[i] := by
  have := mget_mputList_inside d (bs.map fun b => BitVec.ofNat 8 b) m a i (by simpa using hi) h
  simpa [storeBytes] using this

/-- A slice reads as the map inside its bounds. -/
theorem mget_mslice (d : α) {lo hi k : Nat} (h1 : lo ≤ k) (h2 : k < hi) (m : NMap α) (h : mwf d m = true) :
    mget d (mslice m lo hi) k = mget d m k := by
  suffices H : ∀ b, mwfFrom d b m = true → mget d (mslice m lo hi) k = mget d m k from H 0 h
  clear h
  induction m with
  | nil => exact fun _ _ => rfl
  | cons e m ih =>
    obtain ⟨k', v⟩ := e
    intro b hw
    simp only [mwfFrom, Bool.and_eq_true] at hw
    have hs : mwfFrom d (k' + 1) (mslice m lo hi) = true := mwfFrom_filter d _ m (k' + 1) hw.2
    rw [mslice, List.filter_cons]
    change mget d (if _ then _ :: mslice m lo hi else mslice m lo hi) k = _
    split
    · rw [mget, mget, ih _ hw.2]
    · rename_i hk
      have hne : ¬(lo ≤ k' ∧ k' < hi) := by simpa using hk
      rw [ih _ hw.2, mget, if_neg (by omega)]
      split
      · exact mget_below d (by omega) m hw.2
      · rfl

/-- A run of stored bytes reads back whole. -/
theorem loadBytes_storeBytes (d : Byte) (m : Mem) (a : Nat) (bs : List Nat) (h : Memory.wf d m = true) (hb : ∀ b ∈ bs, b < 256) :
    loadBytes d (storeBytes d m a bs) a bs.length = bs := by
  apply List.ext_getElem
  · simp [loadBytes, mgetList]
  · intro i h1 h2
    simp only [loadBytes, mgetList, List.getElem_map, List.getElem_range]
    rw [storeBytes_inside d m a i bs h h2, BitVec.toNat_ofNat]
    exact Nat.mod_eq_of_lt (hb _ (List.getElem_mem h2))

/-- A read of bytes sees only what lies under them. -/
theorem loadBytes_congr (d : Byte) (m m' : Mem) (a n : Nat) (h : ∀ i < n, mget d m (a + i) = mget d m' (a + i)) :
    loadBytes d m a n = loadBytes d m' a n := by
  simp only [loadBytes, mgetList]
  rw [List.map_congr_left fun i hi => h i (List.mem_range.1 hi)]

end Sys2Proof.Machine
end

