-- ==== Sys2Proof/Laws/Frames.lean ====
section
/-! SUPPORT. Frames: what a definition changes, and that it keeps every memory and table canonical and the time from running
back.  `Only ps s t` says so of two states, and the files Frames*.lean prove it of every definition of the machine. -/

namespace Sys2Proof.Machine

/-- What every change keeps. -/
structure Kept (s t : State) : Prop where
  now   : s.now ≤ t.now
  canon : s.Canonical → t.Canonical

/-- `t` comes from `s` by a change of the parts listed alone, which keeps what every change keeps. -/
structure Only (ps : List Part) (s t : State) : Prop where
  same : s.differsIn ps t
  kept : Kept s t

theorem Kept.refl (s : State) : Kept s s := ⟨Nat.le_refl _, id⟩
theorem Kept.trans {s t u : State} (h : Kept s t) (h' : Kept t u) : Kept s u :=
  ⟨Nat.le_trans h.now h'.now, fun c => h'.canon (h.canon c)⟩
theorem Kept.of_eq {s t : State} (hn : t.now = s.now) (h1 : t.pstore.mem = s.pstore.mem) (h2 : t.pstore.mirror = s.pstore.mirror)
    (h3 : t.stag.image = s.stag.image) (h4 : t.pipe.flash = s.pipe.flash) (h5 : t.sram.mem = s.sram.mem)
    (h6 : t.dict.res = s.dict.res) (h7 : t.dict.gens = s.dict.gens) (h8 : t.dict.limited = s.dict.limited)
    (h9 : t.dict.lastEvent = s.dict.lastEvent) (h10 : t.dict.ce = s.dict.ce) (h11 : t.dict.ue = s.dict.ue)
    (h12 : t.dict.patch = s.dict.patch) (h13 : t.dict.held = s.dict.held) (h14 : t.dict.cfg = s.dict.cfg) : Kept s t :=
  ⟨Nat.le_of_eq hn.symm, fun c => ⟨h1 ▸ c.store, h2 ▸ c.mirror, h3 ▸ c.image, h4 ▸ c.flash, h5 ▸ c.sram, h6 ▸ c.results,
    h7 ▸ c.gens, h8 ▸ c.limited, h9 ▸ c.last, h10 ▸ c.ce, h11 ▸ c.ue, h12 ▸ c.patch, h13 ▸ c.held, h14 ▸ c.config⟩⟩
theorem Part.same_refl (s : State) (p : Part) : p.same s s := by cases p <;> rfl
theorem Part.same_trans {s t u : State} {p : Part} (h : p.same s t) (h' : p.same t u) : p.same s u := by
  cases p <;> exact Eq.trans h' h
theorem Only.refl {ps : List Part} (s : State) : Only ps s s := ⟨fun p _ => p.same_refl s, Kept.refl s⟩
theorem Only.trans {ps : List Part} {s t u : State} (h : Only ps s t) (h' : Only ps t u) : Only ps s u :=
  ⟨fun p hp => Part.same_trans (h.same p hp) (h'.same p hp), h.kept.trans h'.kept⟩
theorem Only.mono {ps qs : List Part} {s t : State} (h : Only ps s t) (hs : ps.all (qs.contains ·) = true) : Only qs s t := by
  refine ⟨fun p hp => ?_, h.kept⟩
  cases hq : ps.contains p with
  | false => exact h.same p hq
  | true =>
    simp only [List.all_eq_true, List.contains_iff_mem] at hs hq
    have := hs p hq
    simp_all
/-- A function that changes only `ps`, after a state that differs only in `qs`. -/
theorem Only.step {ps qs : List Part} {s t u : State} (h : Only ps t u) (hs : ps.all (qs.contains ·) = true) (h' : Only qs s t) :
    Only qs s u := h'.trans (h.mono hs)
/-- The same, the inclusion decided. -/
theorem Only.after {ps qs : List Part} {s t u : State} (h : Only ps t u) (h' : Only qs s t)
    (hs : ps.all (qs.contains ·) = true := by decide) : Only qs s u := h.step hs h'
theorem Only.have_ {ps : List Part} {s t : State} (y : State) (hy : Only ps s y) (h : Only ps s y → Only ps s t) : Only ps s t := h hy
theorem Only.snd {α : Type} {ps : List Part} {s b : State} {a : α} {x : α × State} (h : Only ps s x.2) (e : x = (a, b)) : Only ps s b := by
  subst e; exact h
theorem Only.snd3 {α β : Type} {ps : List Part} {s b : State} {a : α} {c : β} {x : α × β × State} (h : Only ps s x.2.2)
    (e : x = (a, c, b)) : Only ps s b := by
  subst e; exact h
theorem Only.foldl2 {α β : Type} {ps : List Part} {s : State} {g : β × State → α → β × State}
    (hg : ∀ x a, Only ps s x.2 → Only ps s (g x a).2) :
    ∀ (l : List α) (x : β × State), Only ps s x.2 → Only ps s (l.foldl g x).2
  | [], _, h => h
  | a :: l, x, h => Only.foldl2 hg l (g x a) (hg x a h)
theorem Only.foldl {α : Type} {ps : List Part} {s : State} {g : State → α → State} (hg : ∀ t a, Only ps s t → Only ps s (g t a)) :
    ∀ (l : List α) (t : State), Only ps s t → Only ps s (l.foldl g t)
  | [], _, h => h
  | a :: l, t, h => Only.foldl hg l (g t a) (hg t a h)

/-! ### Updates of parts -/

theorem Only.upd_now {ps : List Part} {s x : State} {v_now} (h : Only ps s x)
    (hp : ps.contains .now = true := by decide)
    (k_now : x.now ≤ v_now := by first | with_reducible exact Nat.le_refl _ | with_reducible exact Nat.le_succ _ | with_reducible exact Nat.le_max_left _ _) :
    Only ps s { x with
      now := v_now } := by
  refine h.trans ⟨fun p hq => ?_, ⟨k_now, fun c => ⟨c.store, c.mirror, c.image, c.flash, c.sram, c.results, c.gens, c.limited, c.last, c.ce, c.ue, c.patch, c.held, c.config⟩⟩⟩
  cases p <;> first | exact absurd (hp.symm.trans hq) (by decide) | rfl

theorem Only.upd_epoch {ps : List Part} {s x : State} {v_epoch} (h : Only ps s x)
    (hp : ps.contains .epoch = true := by decide) :
    Only ps s { x with
      epoch := v_epoch } := by
  refine h.trans ⟨fun p hq => ?_, .of_eq rfl rfl rfl rfl rfl rfl rfl rfl rfl rfl rfl rfl rfl rfl rfl⟩
  cases p <;> first | exact absurd (hp.symm.trans hq) (by decide) | rfl

theorem Only.upd_config {ps : List Part} {s x : State} {v_cfg} (h : Only ps s x)
    (hp : ps.contains .config = true := by decide)
    (k_cfg : mrising 0 x.dict.cfg = true → mrising 0 v_cfg = true := by first | with_reducible exact id | with_reducible apply mrising_mput) :
    Only ps s { x with
      dict := { x.dict with
        cfg := v_cfg } } := by
  refine h.trans ⟨fun p hq => ?_, ⟨Nat.le_refl _, fun c => ⟨c.store, c.mirror, c.image, c.flash, c.sram, c.results, c.gens, c.limited, c.last, c.ce, c.ue, c.patch, c.held, k_cfg c.config⟩⟩⟩
  cases p <;> first | exact absurd (hp.symm.trans hq) (by decide) | rfl

theorem Only.upd_shadow {ps : List Part} {s x : State} {v_held v_items v_patch v_commits} (h : Only ps s x)
    (hp : ps.contains .shadow = true := by decide)
    (k_patch : mwf none x.dict.patch = true → mwf none v_patch = true := by first | with_reducible exact id | with_reducible apply mwf_mput | with_reducible exact fun _ => mwf_nil _ | with_reducible apply mwf_mdrop | with_reducible apply mwf_mputList)
    (k_held : mwf none x.dict.held = true → mwf none v_held = true := by first | with_reducible exact id | with_reducible apply mwf_mput | with_reducible exact fun _ => mwf_nil _ | with_reducible apply mwf_mdrop | with_reducible apply mwf_mputList) :
    Only ps s { x with
      dict := { x.dict with
        held := v_held, items := v_items, patch := v_patch, commits := v_commits } } := by
  refine h.trans ⟨fun p hq => ?_, ⟨Nat.le_refl _, fun c => ⟨c.store, c.mirror, c.image, c.flash, c.sram, c.results, c.gens, c.limited, c.last, c.ce, c.ue, k_patch c.patch, k_held c.held, c.config⟩⟩⟩
  cases p <;> first | exact absurd (hp.symm.trans hq) (by decide) | rfl

theorem Only.upd_results {ps : List Part} {s x : State} {v_res v_gens} (h : Only ps s x)
    (hp : ps.contains .results = true := by decide)
    (k_res : mwf 0 x.dict.res = true → mwf 0 v_res = true := by first | with_reducible exact id | with_reducible apply mwf_mput | with_reducible exact fun _ => mwf_nil _ | with_reducible apply mwf_mdrop | with_reducible apply mwf_mputList)
    (k_gens : mwf 0 x.dict.gens = true → mwf 0 v_gens = true := by first | with_reducible exact id | with_reducible apply mwf_mput | with_reducible exact fun _ => mwf_nil _ | with_reducible apply mwf_mdrop | with_reducible apply mwf_mputList) :
    Only ps s { x with
      dict := { x.dict with
        res := v_res, gens := v_gens } } := by
  refine h.trans ⟨fun p hq => ?_, ⟨Nat.le_refl _, fun c => ⟨c.store, c.mirror, c.image, c.flash, c.sram, k_res c.results, k_gens c.gens, c.limited, c.last, c.ce, c.ue, c.patch, c.held, c.config⟩⟩⟩
  cases p <;> first | exact absurd (hp.symm.trans hq) (by decide) | rfl

theorem Only.upd_events {ps : List Part} {s x : State} {v_limited v_lastEvent v_ordinal} (h : Only ps s x)
    (hp : ps.contains .events = true := by decide)
    (k_limited : mwf none x.dict.limited = true → mwf none v_limited = true := by first | with_reducible exact id | with_reducible apply mwf_mput | with_reducible exact fun _ => mwf_nil _ | with_reducible apply mwf_mdrop | with_reducible apply mwf_mputList)
    (k_lastEvent : mwf (0, 0) x.dict.lastEvent = true → mwf (0, 0) v_lastEvent = true := by first | with_reducible exact id | with_reducible apply mwf_mput | with_reducible exact fun _ => mwf_nil _ | with_reducible apply mwf_mdrop | with_reducible apply mwf_mputList) :
    Only ps s { x with
      dict := { x.dict with
        limited := v_limited, lastEvent := v_lastEvent, ordinal := v_ordinal } } := by
  refine h.trans ⟨fun p hq => ?_, ⟨Nat.le_refl _, fun c => ⟨c.store, c.mirror, c.image, c.flash, c.sram, c.results, c.gens, k_limited c.limited, k_lastEvent c.last, c.ce, c.ue, c.patch, c.held, c.config⟩⟩⟩
  cases p <;> first | exact absurd (hp.symm.trans hq) (by decide) | rfl

theorem Only.upd_counts {ps : List Part} {s x : State} {v_ce v_ue} (h : Only ps s x)
    (hp : ps.contains .counts = true := by decide)
    (k_ce : mwf 0 x.dict.ce = true → mwf 0 v_ce = true := by first | with_reducible exact id | with_reducible apply mwf_mput | with_reducible exact fun _ => mwf_nil _ | with_reducible apply mwf_mdrop | with_reducible apply mwf_mputList)
    (k_ue : mwf 0 x.dict.ue = true → mwf 0 v_ue = true := by first | with_reducible exact id | with_reducible apply mwf_mput | with_reducible exact fun _ => mwf_nil _ | with_reducible apply mwf_mdrop | with_reducible apply mwf_mputList) :
    Only ps s { x with
      dict := { x.dict with
        ce := v_ce, ue := v_ue } } := by
  refine h.trans ⟨fun p hq => ?_, ⟨Nat.le_refl _, fun c => ⟨c.store, c.mirror, c.image, c.flash, c.sram, c.results, c.gens, c.limited, c.last, k_ce c.ce, k_ue c.ue, c.patch, c.held, c.config⟩⟩⟩
  cases p <;> first | exact absurd (hp.symm.trans hq) (by decide) | rfl

theorem Only.upd_requests {ps : List Part} {s x : State} {v_waiting v_busy v_passed} (h : Only ps s x)
    (hp : ps.contains .requests = true := by decide) :
    Only ps s { x with
      ctrl := { x.ctrl with
        waiting := v_waiting, busy := v_busy, passed := v_passed } } := by
  refine h.trans ⟨fun p hq => ?_, .of_eq rfl rfl rfl rfl rfl rfl rfl rfl rfl rfl rfl rfl rfl rfl rfl⟩
  cases p <;> first | exact absurd (hp.symm.trans hq) (by decide) | rfl

theorem Only.upd_ports {ps : List Part} {s x : State} {v_host v_field v_sideband} (h : Only ps s x)
    (hp : ps.contains .ports = true := by decide) :
    Only ps s { x with
      ctrl := { x.ctrl with
        host := v_host, field := v_field, sideband := v_sideband } } := by
  refine h.trans ⟨fun p hq => ?_, .of_eq rfl rfl rfl rfl rfl rfl rfl rfl rfl rfl rfl rfl rfl rfl rfl⟩
  cases p <;> first | exact absurd (hp.symm.trans hq) (by decide) | rfl

theorem Only.upd_can {ps : List Part} {s x : State} {v_can} (h : Only ps s x)
    (hp : ps.contains .can = true := by decide) :
    Only ps s { x with
      ctrl := { x.ctrl with
        can := v_can } } := by
  refine h.trans ⟨fun p hq => ?_, .of_eq rfl rfl rfl rfl rfl rfl rfl rfl rfl rfl rfl rfl rfl rfl rfl⟩
  cases p <;> first | exact absurd (hp.symm.trans hq) (by decide) | rfl

theorem Only.upd_store {ps : List Part} {s x : State} {v_mem} (h : Only ps s x)
    (hp : ps.contains .store = true := by decide)
    (k_mem : Memory.wf 0#8 x.pstore.mem = true → Memory.wf 0#8 v_mem = true := by first | with_reducible exact id | with_reducible apply storeBytes_wf | with_reducible apply mdrop_wf | with_reducible exact fun _ => wf_nil _) :
    Only ps s { x with
      pstore := { x.pstore with
        mem := v_mem } } := by
  refine h.trans ⟨fun p hq => ?_, ⟨Nat.le_refl _, fun c => ⟨k_mem c.store, c.mirror, c.image, c.flash, c.sram, c.results, c.gens, c.limited, c.last, c.ce, c.ue, c.patch, c.held, c.config⟩⟩⟩
  cases p <;> first | exact absurd (hp.symm.trans hq) (by decide) | rfl

theorem Only.upd_storeState {ps : List Part} {s x : State} {v_warned v_storeTag v_storeSlotB v_storeLen v_blaze
    v_reinstated v_repairs v_identityOk v_blazeFull v_wearRaised v_limited v_read} (h : Only ps s x)
    (hp : ps.contains .storeState = true := by decide) :
    Only ps s { x with
      pstore := { x.pstore with
        warned := v_warned, storeTag := v_storeTag, storeSlotB := v_storeSlotB, storeLen := v_storeLen, blaze := v_blaze
        reinstated := v_reinstated, repairs := v_repairs, identityOk := v_identityOk, blazeFull := v_blazeFull
        wearRaised := v_wearRaised, limited := v_limited, read := v_read } } := by
  refine h.trans ⟨fun p hq => ?_, .of_eq rfl rfl rfl rfl rfl rfl rfl rfl rfl rfl rfl rfl rfl rfl rfl⟩
  cases p <;> first | exact absurd (hp.symm.trans hq) (by decide) | rfl

theorem Only.upd_storeQueue {ps : List Part} {s x : State} {v_queue v_current v_mirror v_gathered v_queued
    v_gatherAt v_notLogged v_nextSeq v_programmed} (h : Only ps s x)
    (hp : ps.contains .storeQueue = true := by decide)
    (k_mirror : Memory.wf 0#8 x.pstore.mirror = true → Memory.wf 0#8 v_mirror = true := by first | with_reducible exact id | with_reducible apply storeBytes_wf | with_reducible apply mdrop_wf | with_reducible exact fun _ => wf_nil _) :
    Only ps s { x with
      pstore := { x.pstore with
        queue := v_queue, current := v_current, mirror := v_mirror, gathered := v_gathered, queued := v_queued
        gatherAt := v_gatherAt, notLogged := v_notLogged, nextSeq := v_nextSeq, programmed := v_programmed } } := by
  refine h.trans ⟨fun p hq => ?_, ⟨Nat.le_refl _, fun c => ⟨c.store, k_mirror c.mirror, c.image, c.flash, c.sram, c.results, c.gens, c.limited, c.last, c.ce, c.ue, c.patch, c.held, c.config⟩⟩⟩
  cases p <;> first | exact absurd (hp.symm.trans hq) (by decide) | rfl

theorem Only.upd_tallies {ps : List Part} {s x : State} {v_tally v_holder v_tallyFull} (h : Only ps s x)
    (hp : ps.contains .tallies = true := by decide) :
    Only ps s { x with
      pstore := { x.pstore with
        tally := v_tally, holder := v_holder, tallyFull := v_tallyFull } } := by
  refine h.trans ⟨fun p hq => ?_, .of_eq rfl rfl rfl rfl rfl rfl rfl rfl rfl rfl rfl rfl rfl rfl rfl⟩
  cases p <;> first | exact absurd (hp.symm.trans hq) (by decide) | rfl

theorem Only.upd_fuses {ps : List Part} {s x : State} {v_huk v_rootHash v_venCopy v_lifecycle v_returnsLeft}
    (h : Only ps s x) (hp : ps.contains .fuses = true := by decide) :
    Only ps s { x with
      sec := { x.sec with
        huk := v_huk, rootHash := v_rootHash, venCopy := v_venCopy, lifecycle := v_lifecycle
        returnsLeft := v_returnsLeft } } := by
  refine h.trans ⟨fun p hq => ?_, .of_eq rfl rfl rfl rfl rfl rfl rfl rfl rfl rfl rfl rfl rfl rfl rfl⟩
  cases p <;> first | exact absurd (hp.symm.trans hq) (by decide) | rfl

theorem Only.upd_security {ps : List Part} {s x : State} {v_work v_shownCert v_keySeq v_writing v_changes v_noStore
    v_frameKey v_set0 v_set1 v_last0 v_last1 v_exchange v_attest v_entropyBad v_drbgRequests v_active v_tamperAt
    v_locked v_deferred v_testIr v_testChallenge v_testOpen} (h : Only ps s x)
    (hp : ps.contains .security = true := by decide) :
    Only ps s { x with
      sec := { x.sec with
        work := v_work, shownCert := v_shownCert, keySeq := v_keySeq, writing := v_writing, changes := v_changes
        noStore := v_noStore, frameKey := v_frameKey, set0 := v_set0, set1 := v_set1, last0 := v_last0, last1 := v_last1
        exchange := v_exchange, attest := v_attest, entropyBad := v_entropyBad, drbgRequests := v_drbgRequests
        active := v_active, tamperAt := v_tamperAt, locked := v_locked, deferred := v_deferred, testIr := v_testIr
        testChallenge := v_testChallenge, testOpen := v_testOpen } } := by
  refine h.trans ⟨fun p hq => ?_, .of_eq rfl rfl rfl rfl rfl rfl rfl rfl rfl rfl rfl rfl rfl rfl rfl⟩
  cases p <;> first | exact absurd (hp.symm.trans hq) (by decide) | rfl

theorem Only.upd_heldEvents {ps : List Part} {s x : State} {v_events v_overflow} (h : Only ps s x)
    (hp : ps.contains .heldEvents = true := by decide) :
    Only ps s { x with
      stag := { x.stag with
        events := v_events, overflow := v_overflow } } := by
  refine h.trans ⟨fun p hq => ?_, .of_eq rfl rfl rfl rfl rfl rfl rfl rfl rfl rfl rfl rfl rfl rfl rfl⟩
  cases p <;> first | exact absurd (hp.symm.trans hq) (by decide) | rfl

theorem Only.upd_stag {ps : List Part} {s x : State} {v_restarting v_restarts v_running v_recovery v_slot v_trial
    v_trialSince} (h : Only ps s x) (hp : ps.contains .stag = true := by decide) :
    Only ps s { x with
      stag := { x.stag with
        restarting := v_restarting, restarts := v_restarts, running := v_running, recovery := v_recovery, slot := v_slot
        trial := v_trial, trialSince := v_trialSince } } := by
  refine h.trans ⟨fun p hq => ?_, .of_eq rfl rfl rfl rfl rfl rfl rfl rfl rfl rfl rfl rfl rfl rfl rfl⟩
  cases p <;> first | exact absurd (hp.symm.trans hq) (by decide) | rfl

theorem Only.upd_clocks {ps : List Part} {s x : State} {v_opBase v_opAt v_opRuns v_caughtUp v_utcBase v_utcAt
    v_utcValid} (h : Only ps s x) (hp : ps.contains .clocks = true := by decide) :
    Only ps s { x with
      stag := { x.stag with
        opBase := v_opBase, opAt := v_opAt, opRuns := v_opRuns, caughtUp := v_caughtUp, utcBase := v_utcBase
        utcAt := v_utcAt, utcValid := v_utcValid } } := by
  refine h.trans ⟨fun p hq => ?_, .of_eq rfl rfl rfl rfl rfl rfl rfl rfl rfl rfl rfl rfl rfl rfl rfl⟩
  cases p <;> first | exact absurd (hp.symm.trans hq) (by decide) | rfl

theorem Only.upd_sensors {ps : List Part} {s x : State} {v_therm v_vmon v_ntc} (h : Only ps s x)
    (hp : ps.contains .sensors = true := by decide) :
    Only ps s { x with
      stag := { x.stag with
        therm := v_therm, vmon := v_vmon, ntc := v_ntc } } := by
  refine h.trans ⟨fun p hq => ?_, .of_eq rfl rfl rfl rfl rfl rfl rfl rfl rfl rfl rfl rfl rfl rfl rfl⟩
  cases p <;> first | exact absurd (hp.symm.trans hq) (by decide) | rfl

theorem Only.upd_slots {ps : List Part} {s x : State} {v_slotA v_slotB v_activation} (h : Only ps s x)
    (hp : ps.contains .slots = true := by decide) :
    Only ps s { x with
      stag := { x.stag with
        slotA := v_slotA, slotB := v_slotB, activation := v_activation } } := by
  refine h.trans ⟨fun p hq => ?_, .of_eq rfl rfl rfl rfl rfl rfl rfl rfl rfl rfl rfl rfl rfl rfl rfl⟩
  cases p <;> first | exact absurd (hp.symm.trans hq) (by decide) | rfl

theorem Only.upd_image {ps : List Part} {s x : State} {v_imageLen v_image} (h : Only ps s x)
    (hp : ps.contains .image = true := by decide)
    (k_image : Memory.wf 0#8 x.stag.image = true → Memory.wf 0#8 v_image = true := by first | with_reducible exact id | with_reducible apply storeBytes_wf | with_reducible apply mdrop_wf | with_reducible exact fun _ => wf_nil _) :
    Only ps s { x with
      stag := { x.stag with
        imageLen := v_imageLen, image := v_image } } := by
  refine h.trans ⟨fun p hq => ?_, ⟨Nat.le_refl _, fun c => ⟨c.store, c.mirror, k_image c.image, c.flash, c.sram, c.results, c.gens, c.limited, c.last, c.ce, c.ue, c.patch, c.held, c.config⟩⟩⟩
  cases p <;> first | exact absurd (hp.symm.trans hq) (by decide) | rfl

theorem Only.upd_link {ps : List Part} {s x : State} {v_link} (h : Only ps s x)
    (hp : ps.contains .link = true := by decide) :
    Only ps s { x with
      link := v_link } := by
  refine h.trans ⟨fun p hq => ?_, .of_eq rfl rfl rfl rfl rfl rfl rfl rfl rfl rfl rfl rfl rfl rfl rfl⟩
  cases p <;> first | exact absurd (hp.symm.trans hq) (by decide) | rfl

theorem Only.upd_aux {ps : List Part} {s x : State} {v_aux} (h : Only ps s x)
    (hp : ps.contains .aux = true := by decide) :
    Only ps s { x with
      aux := v_aux } := by
  refine h.trans ⟨fun p hq => ?_, .of_eq rfl rfl rfl rfl rfl rfl rfl rfl rfl rfl rfl rfl rfl rfl rfl⟩
  cases p <;> first | exact absurd (hp.symm.trans hq) (by decide) | rfl

theorem Only.upd_rx {ps : List Part} {s x : State} {v_rx} (h : Only ps s x)
    (hp : ps.contains .rx = true := by decide) :
    Only ps s { x with
      rx := v_rx } := by
  refine h.trans ⟨fun p hq => ?_, .of_eq rfl rfl rfl rfl rfl rfl rfl rfl rfl rfl rfl rfl rfl rfl rfl⟩
  cases p <;> first | exact absurd (hp.symm.trans hq) (by decide) | rfl

theorem Only.upd_raster {ps : List Part} {s x : State} {v_raster} (h : Only ps s x)
    (hp : ps.contains .raster = true := by decide) :
    Only ps s { x with
      raster := v_raster } := by
  refine h.trans ⟨fun p hq => ?_, .of_eq rfl rfl rfl rfl rfl rfl rfl rfl rfl rfl rfl rfl rfl rfl rfl⟩
  cases p <;> first | exact absurd (hp.symm.trans hq) (by decide) | rfl

theorem Only.upd_flash {ps : List Part} {s x : State} {v_flash} (h : Only ps s x)
    (hp : ps.contains .flash = true := by decide)
    (k_flash : Memory.wf 0xFF#8 x.pipe.flash = true → Memory.wf 0xFF#8 v_flash = true := by first | with_reducible exact id | with_reducible apply storeBytes_wf | with_reducible apply mdrop_wf | with_reducible exact fun _ => wf_nil _) :
    Only ps s { x with
      pipe := { x.pipe with
        flash := v_flash } } := by
  refine h.trans ⟨fun p hq => ?_, ⟨Nat.le_refl _, fun c => ⟨c.store, c.mirror, c.image, k_flash c.flash, c.sram, c.results, c.gens, c.limited, c.last, c.ce, c.ue, c.patch, c.held, c.config⟩⟩⟩
  cases p <;> first | exact absurd (hp.symm.trans hq) (by decide) | rfl

theorem Only.upd_pipe {ps : List Part} {s x : State} {v_tiles v_spare v_takeover v_standCyc v_standLast
    v_standLimited v_queues v_done v_gain v_temp v_t0 v_wt v_tempLost v_ages v_nextAges v_blockStress v_nextStress
    v_ageGain v_nextAgeGain v_odSuspended v_odBegan v_noPrev v_levels v_codesNow v_substNow v_resLate v_decoded
    v_crcSkip v_tableCopy v_tableBad v_master v_working v_pendingRows v_rebuild v_nextRows v_srl v_dimming
    v_autoDefects v_defectsFull v_sweeping v_sweepNext v_sweepAt v_sweepAsk v_batch v_batchPorts v_batchAt
    v_senseHeld v_weakRun v_stress v_passFrames v_passTimes v_passP v_halved v_load v_saving v_saveDue v_saveBase
    v_noBank v_flashSmall v_mapFailed v_flashSize v_phase v_frozen v_ditherLimited v_clipped v_probe}
    (h : Only ps s x) (hp : ps.contains .pipe = true := by decide) :
    Only ps s { x with
      pipe := { x.pipe with
        tiles := v_tiles, spare := v_spare, takeover := v_takeover, standCyc := v_standCyc, standLast := v_standLast
        standLimited := v_standLimited, queues := v_queues, done := v_done, gain := v_gain, temp := v_temp, t0 := v_t0
        wt := v_wt, tempLost := v_tempLost, ages := v_ages, nextAges := v_nextAges, blockStress := v_blockStress
        nextStress := v_nextStress, ageGain := v_ageGain, nextAgeGain := v_nextAgeGain, odSuspended := v_odSuspended
        odBegan := v_odBegan, noPrev := v_noPrev, levels := v_levels, codesNow := v_codesNow, substNow := v_substNow
        resLate := v_resLate, decoded := v_decoded, crcSkip := v_crcSkip, tableCopy := v_tableCopy
        tableBad := v_tableBad, master := v_master, working := v_working, pendingRows := v_pendingRows
        rebuild := v_rebuild, nextRows := v_nextRows, srl := v_srl, dimming := v_dimming, autoDefects := v_autoDefects
        defectsFull := v_defectsFull, sweeping := v_sweeping, sweepNext := v_sweepNext, sweepAt := v_sweepAt
        sweepAsk := v_sweepAsk, batch := v_batch, batchPorts := v_batchPorts, batchAt := v_batchAt
        senseHeld := v_senseHeld, weakRun := v_weakRun, stress := v_stress, passFrames := v_passFrames
        passTimes := v_passTimes, passP := v_passP, halved := v_halved, load := v_load, saving := v_saving
        saveDue := v_saveDue, saveBase := v_saveBase, noBank := v_noBank, flashSmall := v_flashSmall
        mapFailed := v_mapFailed, flashSize := v_flashSize, phase := v_phase, frozen := v_frozen
        ditherLimited := v_ditherLimited, clipped := v_clipped, probe := v_probe } } := by
  refine h.trans ⟨fun p hq => ?_, .of_eq rfl rfl rfl rfl rfl rfl rfl rfl rfl rfl rfl rfl rfl rfl rfl⟩
  cases p <;> first | exact absurd (hp.symm.trans hq) (by decide) | rfl

theorem Only.upd_out {ps : List Part} {s x : State} {v_out} (h : Only ps s x)
    (hp : ps.contains .out = true := by decide) :
    Only ps s { x with
      out := v_out } := by
  refine h.trans ⟨fun p hq => ?_, .of_eq rfl rfl rfl rfl rfl rfl rfl rfl rfl rfl rfl rfl rfl rfl rfl⟩
  cases p <;> first | exact absurd (hp.symm.trans hq) (by decide) | rfl

theorem Only.upd_panel {ps : List Part} {s x : State} {v_panel} (h : Only ps s x)
    (hp : ps.contains .panel = true := by decide) :
    Only ps s { x with
      panel := v_panel } := by
  refine h.trans ⟨fun p hq => ?_, .of_eq rfl rfl rfl rfl rfl rfl rfl rfl rfl rfl rfl rfl rfl rfl rfl⟩
  cases p <;> first | exact absurd (hp.symm.trans hq) (by decide) | rfl

theorem Only.upd_fstore {ps : List Part} {s x : State} {v_fstore} (h : Only ps s x)
    (hp : ps.contains .fstore = true := by decide) :
    Only ps s { x with
      fstore := v_fstore } := by
  refine h.trans ⟨fun p hq => ?_, .of_eq rfl rfl rfl rfl rfl rfl rfl rfl rfl rfl rfl rfl rfl rfl rfl⟩
  cases p <;> first | exact absurd (hp.symm.trans hq) (by decide) | rfl

theorem Only.upd_dram {ps : List Part} {s x : State} {v_dram} (h : Only ps s x)
    (hp : ps.contains .dram = true := by decide) :
    Only ps s { x with
      dram := v_dram } := by
  refine h.trans ⟨fun p hq => ?_, .of_eq rfl rfl rfl rfl rfl rfl rfl rfl rfl rfl rfl rfl rfl rfl rfl⟩
  cases p <;> first | exact absurd (hp.symm.trans hq) (by decide) | rfl

theorem Only.upd_sramMem {ps : List Part} {s x : State} {v_mem} (h : Only ps s x)
    (hp : ps.contains .sramMem = true := by decide)
    (k_sram : Memory.wf 0#8 x.sram.mem = true → Memory.wf 0#8 v_mem = true := by first | with_reducible exact id | with_reducible apply storeBytes_wf | with_reducible apply mdrop_wf | with_reducible exact fun _ => wf_nil _) :
    Only ps s { x with
      sram := { x.sram with
        mem := v_mem } } := by
  refine h.trans ⟨fun p hq => ?_, ⟨Nat.le_refl _, fun c => ⟨c.store, c.mirror, c.image, c.flash, k_sram c.sram, c.results, c.gens, c.limited, c.last, c.ce, c.ue, c.patch, c.held, c.config⟩⟩⟩
  cases p <;> first | exact absurd (hp.symm.trans hq) (by decide) | rfl

theorem Only.upd_sram {ps : List Part} {s x : State} {v_poison v_banks v_window v_passed v_accessible}
    (h : Only ps s x) (hp : ps.contains .sram = true := by decide) :
    Only ps s { x with
      sram := { x.sram with
        poison := v_poison, banks := v_banks, window := v_window, passed := v_passed, accessible := v_accessible } } := by
  refine h.trans ⟨fun p hq => ?_, .of_eq rfl rfl rfl rfl rfl rfl rfl rfl rfl rfl rfl rfl rfl rfl rfl⟩
  cases p <;> first | exact absurd (hp.symm.trans hq) (by decide) | rfl

theorem Only.upd_resil {ps : List Part} {s x : State} {v_resil} (h : Only ps s x)
    (hp : ps.contains .resil = true := by decide) :
    Only ps s { x with
      resil := v_resil } := by
  refine h.trans ⟨fun p hq => ?_, .of_eq rfl rfl rfl rfl rfl rfl rfl rfl rfl rfl rfl rfl rfl rfl rfl⟩
  cases p <;> first | exact absurd (hp.symm.trans hq) (by decide) | rfl

theorem Only.upd_power {ps : List Part} {s x : State} {v_power} (h : Only ps s x)
    (hp : ps.contains .power = true := by decide) :
    Only ps s { x with
      power := v_power } := by
  refine h.trans ⟨fun p hq => ?_, .of_eq rfl rfl rfl rfl rfl rfl rfl rfl rfl rfl rfl rfl rfl rfl rfl⟩
  cases p <;> first | exact absurd (hp.symm.trans hq) (by decide) | rfl

theorem Only.upd_pins {ps : List Part} {s x : State} {v_pins} (h : Only ps s x)
    (hp : ps.contains .pins = true := by decide) :
    Only ps s { x with
      pins := v_pins } := by
  refine h.trans ⟨fun p hq => ?_, .of_eq rfl rfl rfl rfl rfl rfl rfl rfl rfl rfl rfl rfl rfl rfl rfl⟩
  cases p <;> first | exact absurd (hp.symm.trans hq) (by decide) | rfl

theorem Only.upd_free {ps : List Part} {s x : State} {v_free} (h : Only ps s x)
    (hp : ps.contains .free = true := by decide) :
    Only ps s { x with
      free := v_free } := by
  refine h.trans ⟨fun p hq => ?_, .of_eq rfl rfl rfl rfl rfl rfl rfl rfl rfl rfl rfl rfl rfl rfl rfl⟩
  cases p <;> first | exact absurd (hp.symm.trans hq) (by decide) | rfl

theorem Only.upd_pending {ps : List Part} {s x : State} {v_pending} (h : Only ps s x)
    (hp : ps.contains .pending = true := by decide) :
    Only ps s { x with
      pending := v_pending } := by
  refine h.trans ⟨fun p hq => ?_, .of_eq rfl rfl rfl rfl rfl rfl rfl rfl rfl rfl rfl rfl rfl rfl rfl⟩
  cases p <;> first | exact absurd (hp.symm.trans hq) (by decide) | rfl

theorem Only.upd_shadow_pipe {ps : List Part} {s x : State} {v_held v_items v_patch v_commits v_tiles v_spare
    v_takeover v_standCyc v_standLast v_standLimited v_queues v_done v_gain v_temp v_t0 v_wt v_tempLost v_ages
    v_nextAges v_blockStress v_nextStress v_ageGain v_nextAgeGain v_odSuspended v_odBegan v_noPrev v_levels
    v_codesNow v_substNow v_resLate v_decoded v_crcSkip v_tableCopy v_tableBad v_master v_working v_pendingRows
    v_rebuild v_nextRows v_srl v_dimming v_autoDefects v_defectsFull v_sweeping v_sweepNext v_sweepAt v_sweepAsk
    v_batch v_batchPorts v_batchAt v_senseHeld v_weakRun v_stress v_passFrames v_passTimes v_passP v_halved v_load
    v_saving v_saveDue v_saveBase v_noBank v_flashSmall v_mapFailed v_flashSize v_phase v_frozen v_ditherLimited
    v_clipped v_probe} (h : Only ps s x) (h_shadow : ps.contains .shadow = true := by decide)
    (h_pipe : ps.contains .pipe = true := by decide)
    (k_patch : mwf none x.dict.patch = true → mwf none v_patch = true := by first | with_reducible exact id | with_reducible apply mwf_mput | with_reducible exact fun _ => mwf_nil _ | with_reducible apply mwf_mdrop | with_reducible apply mwf_mputList)
    (k_held : mwf none x.dict.held = true → mwf none v_held = true := by first | with_reducible exact id | with_reducible apply mwf_mput | with_reducible exact fun _ => mwf_nil _ | with_reducible apply mwf_mdrop | with_reducible apply mwf_mputList) :
    Only ps s { x with
      dict := { x.dict with
        held := v_held, items := v_items, patch := v_patch, commits := v_commits }
      pipe := { x.pipe with
        tiles := v_tiles, spare := v_spare, takeover := v_takeover, standCyc := v_standCyc, standLast := v_standLast
        standLimited := v_standLimited, queues := v_queues, done := v_done, gain := v_gain, temp := v_temp, t0 := v_t0
        wt := v_wt, tempLost := v_tempLost, ages := v_ages, nextAges := v_nextAges, blockStress := v_blockStress
        nextStress := v_nextStress, ageGain := v_ageGain, nextAgeGain := v_nextAgeGain, odSuspended := v_odSuspended
        odBegan := v_odBegan, noPrev := v_noPrev, levels := v_levels, codesNow := v_codesNow, substNow := v_substNow
        resLate := v_resLate, decoded := v_decoded, crcSkip := v_crcSkip, tableCopy := v_tableCopy
        tableBad := v_tableBad, master := v_master, working := v_working, pendingRows := v_pendingRows
        rebuild := v_rebuild, nextRows := v_nextRows, srl := v_srl, dimming := v_dimming, autoDefects := v_autoDefects
        defectsFull := v_defectsFull, sweeping := v_sweeping, sweepNext := v_sweepNext, sweepAt := v_sweepAt
        sweepAsk := v_sweepAsk, batch := v_batch, batchPorts := v_batchPorts, batchAt := v_batchAt
        senseHeld := v_senseHeld, weakRun := v_weakRun, stress := v_stress, passFrames := v_passFrames
        passTimes := v_passTimes, passP := v_passP, halved := v_halved, load := v_load, saving := v_saving
        saveDue := v_saveDue, saveBase := v_saveBase, noBank := v_noBank, flashSmall := v_flashSmall
        mapFailed := v_mapFailed, flashSize := v_flashSize, phase := v_phase, frozen := v_frozen
        ditherLimited := v_ditherLimited, clipped := v_clipped, probe := v_probe } } := by
  refine h.trans ⟨fun p hq => ?_, ⟨Nat.le_refl _, fun c => ⟨c.store, c.mirror, c.image, c.flash, c.sram, c.results, c.gens, c.limited, c.last, c.ce, c.ue, k_patch c.patch, k_held c.held, c.config⟩⟩⟩
  cases p <;> first | exact absurd (h_shadow.symm.trans hq) (by decide) | exact absurd (h_pipe.symm.trans hq) (by decide) | rfl

theorem Only.upd_storeState_tallies {ps : List Part} {s x : State} {v_warned v_storeTag v_storeSlotB v_storeLen
    v_blaze v_reinstated v_repairs v_identityOk v_blazeFull v_wearRaised v_limited v_read v_tally v_holder
    v_tallyFull} (h : Only ps s x) (h_storeState : ps.contains .storeState = true := by decide)
    (h_tallies : ps.contains .tallies = true := by decide) :
    Only ps s { x with
      pstore := { x.pstore with
        warned := v_warned, storeTag := v_storeTag, storeSlotB := v_storeSlotB, storeLen := v_storeLen, blaze := v_blaze
        reinstated := v_reinstated, repairs := v_repairs, identityOk := v_identityOk, blazeFull := v_blazeFull
        wearRaised := v_wearRaised, limited := v_limited, read := v_read, tally := v_tally, holder := v_holder
        tallyFull := v_tallyFull } } := by
  refine h.trans ⟨fun p hq => ?_, .of_eq rfl rfl rfl rfl rfl rfl rfl rfl rfl rfl rfl rfl rfl rfl rfl⟩
  cases p <;> first | exact absurd (h_storeState.symm.trans hq) (by decide) | exact absurd (h_tallies.symm.trans hq) (by decide) | rfl

theorem Only.upd_storeState_dram {ps : List Part} {s x : State} {v_warned v_storeTag v_storeSlotB v_storeLen v_blaze
    v_reinstated v_repairs v_identityOk v_blazeFull v_wearRaised v_limited v_read v_dram} (h : Only ps s x)
    (h_storeState : ps.contains .storeState = true := by decide) (h_dram : ps.contains .dram = true := by decide) :
    Only ps s { x with
      pstore := { x.pstore with
        warned := v_warned, storeTag := v_storeTag, storeSlotB := v_storeSlotB, storeLen := v_storeLen, blaze := v_blaze
        reinstated := v_reinstated, repairs := v_repairs, identityOk := v_identityOk, blazeFull := v_blazeFull
        wearRaised := v_wearRaised, limited := v_limited, read := v_read }
      dram := v_dram } := by
  refine h.trans ⟨fun p hq => ?_, .of_eq rfl rfl rfl rfl rfl rfl rfl rfl rfl rfl rfl rfl rfl rfl rfl⟩
  cases p <;> first | exact absurd (h_storeState.symm.trans hq) (by decide) | exact absurd (h_dram.symm.trans hq) (by decide) | rfl

theorem Only.upd_storeState_power {ps : List Part} {s x : State} {v_warned v_storeTag v_storeSlotB v_storeLen
    v_blaze v_reinstated v_repairs v_identityOk v_blazeFull v_wearRaised v_limited v_read v_power} (h : Only ps s x)
    (h_storeState : ps.contains .storeState = true := by decide) (h_power : ps.contains .power = true := by decide) :
    Only ps s { x with
      pstore := { x.pstore with
        warned := v_warned, storeTag := v_storeTag, storeSlotB := v_storeSlotB, storeLen := v_storeLen, blaze := v_blaze
        reinstated := v_reinstated, repairs := v_repairs, identityOk := v_identityOk, blazeFull := v_blazeFull
        wearRaised := v_wearRaised, limited := v_limited, read := v_read }
      power := v_power } := by
  refine h.trans ⟨fun p hq => ?_, .of_eq rfl rfl rfl rfl rfl rfl rfl rfl rfl rfl rfl rfl rfl rfl rfl⟩
  cases p <;> first | exact absurd (h_storeState.symm.trans hq) (by decide) | exact absurd (h_power.symm.trans hq) (by decide) | rfl

theorem Only.upd_storeQueue_security {ps : List Part} {s x : State} {v_queue v_current v_mirror v_gathered v_queued
    v_gatherAt v_notLogged v_nextSeq v_programmed v_work v_shownCert v_keySeq v_writing v_changes v_noStore
    v_frameKey v_set0 v_set1 v_last0 v_last1 v_exchange v_attest v_entropyBad v_drbgRequests v_active v_tamperAt
    v_locked v_deferred v_testIr v_testChallenge v_testOpen} (h : Only ps s x)
    (h_storeQueue : ps.contains .storeQueue = true := by decide)
    (h_security : ps.contains .security = true := by decide)
    (k_mirror : Memory.wf 0#8 x.pstore.mirror = true → Memory.wf 0#8 v_mirror = true := by first | with_reducible exact id | with_reducible apply storeBytes_wf | with_reducible apply mdrop_wf | with_reducible exact fun _ => wf_nil _) :
    Only ps s { x with
      pstore := { x.pstore with
        queue := v_queue, current := v_current, mirror := v_mirror, gathered := v_gathered, queued := v_queued
        gatherAt := v_gatherAt, notLogged := v_notLogged, nextSeq := v_nextSeq, programmed := v_programmed }
      sec := { x.sec with
        work := v_work, shownCert := v_shownCert, keySeq := v_keySeq, writing := v_writing, changes := v_changes
        noStore := v_noStore, frameKey := v_frameKey, set0 := v_set0, set1 := v_set1, last0 := v_last0, last1 := v_last1
        exchange := v_exchange, attest := v_attest, entropyBad := v_entropyBad, drbgRequests := v_drbgRequests
        active := v_active, tamperAt := v_tamperAt, locked := v_locked, deferred := v_deferred, testIr := v_testIr
        testChallenge := v_testChallenge, testOpen := v_testOpen } } := by
  refine h.trans ⟨fun p hq => ?_, ⟨Nat.le_refl _, fun c => ⟨c.store, k_mirror c.mirror, c.image, c.flash, c.sram, c.results, c.gens, c.limited, c.last, c.ce, c.ue, c.patch, c.held, c.config⟩⟩⟩
  cases p <;> first | exact absurd (h_storeQueue.symm.trans hq) (by decide) | exact absurd (h_security.symm.trans hq) (by decide) | rfl

theorem Only.upd_tallies_power {ps : List Part} {s x : State} {v_tally v_holder v_tallyFull v_power}
    (h : Only ps s x) (h_tallies : ps.contains .tallies = true := by decide)
    (h_power : ps.contains .power = true := by decide) :
    Only ps s { x with
      pstore := { x.pstore with
        tally := v_tally, holder := v_holder, tallyFull := v_tallyFull }
      power := v_power } := by
  refine h.trans ⟨fun p hq => ?_, .of_eq rfl rfl rfl rfl rfl rfl rfl rfl rfl rfl rfl rfl rfl rfl rfl⟩
  cases p <;> first | exact absurd (h_tallies.symm.trans hq) (by decide) | exact absurd (h_power.symm.trans hq) (by decide) | rfl

theorem Only.upd_heldEvents_stag {ps : List Part} {s x : State} {v_events v_overflow v_restarting v_restarts
    v_running v_recovery v_slot v_trial v_trialSince} (h : Only ps s x)
    (h_heldEvents : ps.contains .heldEvents = true := by decide) (h_stag : ps.contains .stag = true := by decide) :
    Only ps s { x with
      stag := { x.stag with
        events := v_events, overflow := v_overflow, restarting := v_restarting, restarts := v_restarts
        running := v_running, recovery := v_recovery, slot := v_slot, trial := v_trial, trialSince := v_trialSince } } := by
  refine h.trans ⟨fun p hq => ?_, .of_eq rfl rfl rfl rfl rfl rfl rfl rfl rfl rfl rfl rfl rfl rfl rfl⟩
  cases p <;> first | exact absurd (h_heldEvents.symm.trans hq) (by decide) | exact absurd (h_stag.symm.trans hq) (by decide) | rfl

theorem Only.upd_stag_power {ps : List Part} {s x : State} {v_restarting v_restarts v_running v_recovery v_slot
    v_trial v_trialSince v_power} (h : Only ps s x) (h_stag : ps.contains .stag = true := by decide)
    (h_power : ps.contains .power = true := by decide) :
    Only ps s { x with
      stag := { x.stag with
        restarting := v_restarting, restarts := v_restarts, running := v_running, recovery := v_recovery, slot := v_slot
        trial := v_trial, trialSince := v_trialSince }
      power := v_power } := by
  refine h.trans ⟨fun p hq => ?_, .of_eq rfl rfl rfl rfl rfl rfl rfl rfl rfl rfl rfl rfl rfl rfl rfl⟩
  cases p <;> first | exact absurd (h_stag.symm.trans hq) (by decide) | exact absurd (h_power.symm.trans hq) (by decide) | rfl

theorem Only.upd_rx_raster {ps : List Part} {s x : State} {v_rx v_raster} (h : Only ps s x)
    (h_rx : ps.contains .rx = true := by decide) (h_raster : ps.contains .raster = true := by decide) :
    Only ps s { x with
      rx := v_rx
      raster := v_raster } := by
  refine h.trans ⟨fun p hq => ?_, .of_eq rfl rfl rfl rfl rfl rfl rfl rfl rfl rfl rfl rfl rfl rfl rfl⟩
  cases p <;> first | exact absurd (h_rx.symm.trans hq) (by decide) | exact absurd (h_raster.symm.trans hq) (by decide) | rfl

theorem Only.upd_rx_fstore {ps : List Part} {s x : State} {v_rx v_fstore} (h : Only ps s x)
    (h_rx : ps.contains .rx = true := by decide) (h_fstore : ps.contains .fstore = true := by decide) :
    Only ps s { x with
      rx := v_rx
      fstore := v_fstore } := by
  refine h.trans ⟨fun p hq => ?_, .of_eq rfl rfl rfl rfl rfl rfl rfl rfl rfl rfl rfl rfl rfl rfl rfl⟩
  cases p <;> first | exact absurd (h_rx.symm.trans hq) (by decide) | exact absurd (h_fstore.symm.trans hq) (by decide) | rfl

theorem Only.upd_raster_panel {ps : List Part} {s x : State} {v_raster v_panel} (h : Only ps s x)
    (h_raster : ps.contains .raster = true := by decide) (h_panel : ps.contains .panel = true := by decide) :
    Only ps s { x with
      raster := v_raster
      panel := v_panel } := by
  refine h.trans ⟨fun p hq => ?_, .of_eq rfl rfl rfl rfl rfl rfl rfl rfl rfl rfl rfl rfl rfl rfl rfl⟩
  cases p <;> first | exact absurd (h_raster.symm.trans hq) (by decide) | exact absurd (h_panel.symm.trans hq) (by decide) | rfl

theorem Only.upd_pipe_fstore {ps : List Part} {s x : State} {v_tiles v_spare v_takeover v_standCyc v_standLast
    v_standLimited v_queues v_done v_gain v_temp v_t0 v_wt v_tempLost v_ages v_nextAges v_blockStress v_nextStress
    v_ageGain v_nextAgeGain v_odSuspended v_odBegan v_noPrev v_levels v_codesNow v_substNow v_resLate v_decoded
    v_crcSkip v_tableCopy v_tableBad v_master v_working v_pendingRows v_rebuild v_nextRows v_srl v_dimming
    v_autoDefects v_defectsFull v_sweeping v_sweepNext v_sweepAt v_sweepAsk v_batch v_batchPorts v_batchAt
    v_senseHeld v_weakRun v_stress v_passFrames v_passTimes v_passP v_halved v_load v_saving v_saveDue v_saveBase
    v_noBank v_flashSmall v_mapFailed v_flashSize v_phase v_frozen v_ditherLimited v_clipped v_probe v_fstore}
    (h : Only ps s x) (h_pipe : ps.contains .pipe = true := by decide)
    (h_fstore : ps.contains .fstore = true := by decide) :
    Only ps s { x with
      pipe := { x.pipe with
        tiles := v_tiles, spare := v_spare, takeover := v_takeover, standCyc := v_standCyc, standLast := v_standLast
        standLimited := v_standLimited, queues := v_queues, done := v_done, gain := v_gain, temp := v_temp, t0 := v_t0
        wt := v_wt, tempLost := v_tempLost, ages := v_ages, nextAges := v_nextAges, blockStress := v_blockStress
        nextStress := v_nextStress, ageGain := v_ageGain, nextAgeGain := v_nextAgeGain, odSuspended := v_odSuspended
        odBegan := v_odBegan, noPrev := v_noPrev, levels := v_levels, codesNow := v_codesNow, substNow := v_substNow
        resLate := v_resLate, decoded := v_decoded, crcSkip := v_crcSkip, tableCopy := v_tableCopy
        tableBad := v_tableBad, master := v_master, working := v_working, pendingRows := v_pendingRows
        rebuild := v_rebuild, nextRows := v_nextRows, srl := v_srl, dimming := v_dimming, autoDefects := v_autoDefects
        defectsFull := v_defectsFull, sweeping := v_sweeping, sweepNext := v_sweepNext, sweepAt := v_sweepAt
        sweepAsk := v_sweepAsk, batch := v_batch, batchPorts := v_batchPorts, batchAt := v_batchAt
        senseHeld := v_senseHeld, weakRun := v_weakRun, stress := v_stress, passFrames := v_passFrames
        passTimes := v_passTimes, passP := v_passP, halved := v_halved, load := v_load, saving := v_saving
        saveDue := v_saveDue, saveBase := v_saveBase, noBank := v_noBank, flashSmall := v_flashSmall
        mapFailed := v_mapFailed, flashSize := v_flashSize, phase := v_phase, frozen := v_frozen
        ditherLimited := v_ditherLimited, clipped := v_clipped, probe := v_probe }
      fstore := v_fstore } := by
  refine h.trans ⟨fun p hq => ?_, .of_eq rfl rfl rfl rfl rfl rfl rfl rfl rfl rfl rfl rfl rfl rfl rfl⟩
  cases p <;> first | exact absurd (h_pipe.symm.trans hq) (by decide) | exact absurd (h_fstore.symm.trans hq) (by decide) | rfl

theorem Only.upd_pipe_resil {ps : List Part} {s x : State} {v_tiles v_spare v_takeover v_standCyc v_standLast
    v_standLimited v_queues v_done v_gain v_temp v_t0 v_wt v_tempLost v_ages v_nextAges v_blockStress v_nextStress
    v_ageGain v_nextAgeGain v_odSuspended v_odBegan v_noPrev v_levels v_codesNow v_substNow v_resLate v_decoded
    v_crcSkip v_tableCopy v_tableBad v_master v_working v_pendingRows v_rebuild v_nextRows v_srl v_dimming
    v_autoDefects v_defectsFull v_sweeping v_sweepNext v_sweepAt v_sweepAsk v_batch v_batchPorts v_batchAt
    v_senseHeld v_weakRun v_stress v_passFrames v_passTimes v_passP v_halved v_load v_saving v_saveDue v_saveBase
    v_noBank v_flashSmall v_mapFailed v_flashSize v_phase v_frozen v_ditherLimited v_clipped v_probe v_resil}
    (h : Only ps s x) (h_pipe : ps.contains .pipe = true := by decide)
    (h_resil : ps.contains .resil = true := by decide) :
    Only ps s { x with
      pipe := { x.pipe with
        tiles := v_tiles, spare := v_spare, takeover := v_takeover, standCyc := v_standCyc, standLast := v_standLast
        standLimited := v_standLimited, queues := v_queues, done := v_done, gain := v_gain, temp := v_temp, t0 := v_t0
        wt := v_wt, tempLost := v_tempLost, ages := v_ages, nextAges := v_nextAges, blockStress := v_blockStress
        nextStress := v_nextStress, ageGain := v_ageGain, nextAgeGain := v_nextAgeGain, odSuspended := v_odSuspended
        odBegan := v_odBegan, noPrev := v_noPrev, levels := v_levels, codesNow := v_codesNow, substNow := v_substNow
        resLate := v_resLate, decoded := v_decoded, crcSkip := v_crcSkip, tableCopy := v_tableCopy
        tableBad := v_tableBad, master := v_master, working := v_working, pendingRows := v_pendingRows
        rebuild := v_rebuild, nextRows := v_nextRows, srl := v_srl, dimming := v_dimming, autoDefects := v_autoDefects
        defectsFull := v_defectsFull, sweeping := v_sweeping, sweepNext := v_sweepNext, sweepAt := v_sweepAt
        sweepAsk := v_sweepAsk, batch := v_batch, batchPorts := v_batchPorts, batchAt := v_batchAt
        senseHeld := v_senseHeld, weakRun := v_weakRun, stress := v_stress, passFrames := v_passFrames
        passTimes := v_passTimes, passP := v_passP, halved := v_halved, load := v_load, saving := v_saving
        saveDue := v_saveDue, saveBase := v_saveBase, noBank := v_noBank, flashSmall := v_flashSmall
        mapFailed := v_mapFailed, flashSize := v_flashSize, phase := v_phase, frozen := v_frozen
        ditherLimited := v_ditherLimited, clipped := v_clipped, probe := v_probe }
      resil := v_resil } := by
  refine h.trans ⟨fun p hq => ?_, .of_eq rfl rfl rfl rfl rfl rfl rfl rfl rfl rfl rfl rfl rfl rfl rfl⟩
  cases p <;> first | exact absurd (h_pipe.symm.trans hq) (by decide) | exact absurd (h_resil.symm.trans hq) (by decide) | rfl

theorem Only.upd_out_panel {ps : List Part} {s x : State} {v_out v_panel} (h : Only ps s x)
    (h_out : ps.contains .out = true := by decide) (h_panel : ps.contains .panel = true := by decide) :
    Only ps s { x with
      out := v_out
      panel := v_panel } := by
  refine h.trans ⟨fun p hq => ?_, .of_eq rfl rfl rfl rfl rfl rfl rfl rfl rfl rfl rfl rfl rfl rfl rfl⟩
  cases p <;> first | exact absurd (h_out.symm.trans hq) (by decide) | exact absurd (h_panel.symm.trans hq) (by decide) | rfl

theorem Only.upd_sramMem_sram {ps : List Part} {s x : State} {v_mem v_poison v_banks v_window v_passed v_accessible}
    (h : Only ps s x) (h_sramMem : ps.contains .sramMem = true := by decide)
    (h_sram : ps.contains .sram = true := by decide)
    (k_sram : Memory.wf 0#8 x.sram.mem = true → Memory.wf 0#8 v_mem = true := by first | with_reducible exact id | with_reducible apply storeBytes_wf | with_reducible apply mdrop_wf | with_reducible exact fun _ => wf_nil _) :
    Only ps s { x with
      sram := { x.sram with
        mem := v_mem, poison := v_poison, banks := v_banks, window := v_window, passed := v_passed
        accessible := v_accessible } } := by
  refine h.trans ⟨fun p hq => ?_, ⟨Nat.le_refl _, fun c => ⟨c.store, c.mirror, c.image, c.flash, k_sram c.sram, c.results, c.gens, c.limited, c.last, c.ce, c.ue, c.patch, c.held, c.config⟩⟩⟩
  cases p <;> first | exact absurd (h_sramMem.symm.trans hq) (by decide) | exact absurd (h_sram.symm.trans hq) (by decide) | rfl

theorem Only.upd_sram_power {ps : List Part} {s x : State} {v_poison v_banks v_window v_passed v_accessible v_power}
    (h : Only ps s x) (h_sram : ps.contains .sram = true := by decide)
    (h_power : ps.contains .power = true := by decide) :
    Only ps s { x with
      sram := { x.sram with
        poison := v_poison, banks := v_banks, window := v_window, passed := v_passed, accessible := v_accessible }
      power := v_power } := by
  refine h.trans ⟨fun p hq => ?_, .of_eq rfl rfl rfl rfl rfl rfl rfl rfl rfl rfl rfl rfl rfl rfl rfl⟩
  cases p <;> first | exact absurd (h_sram.symm.trans hq) (by decide) | exact absurd (h_power.symm.trans hq) (by decide) | rfl

theorem Only.upd_resil_power {ps : List Part} {s x : State} {v_resil v_power} (h : Only ps s x)
    (h_resil : ps.contains .resil = true := by decide) (h_power : ps.contains .power = true := by decide) :
    Only ps s { x with
      resil := v_resil
      power := v_power } := by
  refine h.trans ⟨fun p hq => ?_, .of_eq rfl rfl rfl rfl rfl rfl rfl rfl rfl rfl rfl rfl rfl rfl rfl⟩
  cases p <;> first | exact absurd (h_resil.symm.trans hq) (by decide) | exact absurd (h_power.symm.trans hq) (by decide) | rfl

theorem Only.upd_requests_storeQueue_security {ps : List Part} {s x : State} {v_waiting v_busy v_passed v_queue
    v_current v_mirror v_gathered v_queued v_gatherAt v_notLogged v_nextSeq v_programmed v_work v_shownCert v_keySeq
    v_writing v_changes v_noStore v_frameKey v_set0 v_set1 v_last0 v_last1 v_exchange v_attest v_entropyBad
    v_drbgRequests v_active v_tamperAt v_locked v_deferred v_testIr v_testChallenge v_testOpen} (h : Only ps s x)
    (h_requests : ps.contains .requests = true := by decide)
    (h_storeQueue : ps.contains .storeQueue = true := by decide)
    (h_security : ps.contains .security = true := by decide)
    (k_mirror : Memory.wf 0#8 x.pstore.mirror = true → Memory.wf 0#8 v_mirror = true := by first | with_reducible exact id | with_reducible apply storeBytes_wf | with_reducible apply mdrop_wf | with_reducible exact fun _ => wf_nil _) :
    Only ps s { x with
      ctrl := { x.ctrl with
        waiting := v_waiting, busy := v_busy, passed := v_passed }
      pstore := { x.pstore with
        queue := v_queue, current := v_current, mirror := v_mirror, gathered := v_gathered, queued := v_queued
        gatherAt := v_gatherAt, notLogged := v_notLogged, nextSeq := v_nextSeq, programmed := v_programmed }
      sec := { x.sec with
        work := v_work, shownCert := v_shownCert, keySeq := v_keySeq, writing := v_writing, changes := v_changes
        noStore := v_noStore, frameKey := v_frameKey, set0 := v_set0, set1 := v_set1, last0 := v_last0, last1 := v_last1
        exchange := v_exchange, attest := v_attest, entropyBad := v_entropyBad, drbgRequests := v_drbgRequests
        active := v_active, tamperAt := v_tamperAt, locked := v_locked, deferred := v_deferred, testIr := v_testIr
        testChallenge := v_testChallenge, testOpen := v_testOpen } } := by
  refine h.trans ⟨fun p hq => ?_, ⟨Nat.le_refl _, fun c => ⟨c.store, k_mirror c.mirror, c.image, c.flash, c.sram, c.results, c.gens, c.limited, c.last, c.ce, c.ue, c.patch, c.held, c.config⟩⟩⟩
  cases p <;> first | exact absurd (h_requests.symm.trans hq) (by decide) | exact absurd (h_storeQueue.symm.trans hq) (by decide) | exact absurd (h_security.symm.trans hq) (by decide) | rfl

theorem Only.upd_epoch_results_power_pins {ps : List Part} {s x : State} {v_epoch v_res v_gens v_power v_pins}
    (h : Only ps s x) (h_epoch : ps.contains .epoch = true := by decide)
    (h_results : ps.contains .results = true := by decide) (h_power : ps.contains .power = true := by decide)
    (h_pins : ps.contains .pins = true := by decide)
    (k_res : mwf 0 x.dict.res = true → mwf 0 v_res = true := by first | with_reducible exact id | with_reducible apply mwf_mput | with_reducible exact fun _ => mwf_nil _ | with_reducible apply mwf_mdrop | with_reducible apply mwf_mputList)
    (k_gens : mwf 0 x.dict.gens = true → mwf 0 v_gens = true := by first | with_reducible exact id | with_reducible apply mwf_mput | with_reducible exact fun _ => mwf_nil _ | with_reducible apply mwf_mdrop | with_reducible apply mwf_mputList) :
    Only ps s { x with
      epoch := v_epoch
      dict := { x.dict with
        res := v_res, gens := v_gens }
      power := v_power
      pins := v_pins } := by
  refine h.trans ⟨fun p hq => ?_, ⟨Nat.le_refl _, fun c => ⟨c.store, c.mirror, c.image, c.flash, c.sram, k_res c.results, k_gens c.gens, c.limited, c.last, c.ce, c.ue, c.patch, c.held, c.config⟩⟩⟩
  cases p <;> first | exact absurd (h_epoch.symm.trans hq) (by decide) | exact absurd (h_results.symm.trans hq) (by decide) | exact absurd (h_power.symm.trans hq) (by decide) | exact absurd (h_pins.symm.trans hq) (by decide) | rfl

theorem Only.upd_stag_dram_sram_power {ps : List Part} {s x : State} {v_restarting v_restarts v_running v_recovery
    v_slot v_trial v_trialSince v_dram v_poison v_banks v_window v_passed v_accessible v_power} (h : Only ps s x)
    (h_stag : ps.contains .stag = true := by decide) (h_dram : ps.contains .dram = true := by decide)
    (h_sram : ps.contains .sram = true := by decide) (h_power : ps.contains .power = true := by decide) :
    Only ps s { x with
      stag := { x.stag with
        restarting := v_restarting, restarts := v_restarts, running := v_running, recovery := v_recovery, slot := v_slot
        trial := v_trial, trialSince := v_trialSince }
      dram := v_dram
      sram := { x.sram with
        poison := v_poison, banks := v_banks, window := v_window, passed := v_passed, accessible := v_accessible }
      power := v_power } := by
  refine h.trans ⟨fun p hq => ?_, .of_eq rfl rfl rfl rfl rfl rfl rfl rfl rfl rfl rfl rfl rfl rfl rfl⟩
  cases p <;> first | exact absurd (h_stag.symm.trans hq) (by decide) | exact absurd (h_dram.symm.trans hq) (by decide) | exact absurd (h_sram.symm.trans hq) (by decide) | exact absurd (h_power.symm.trans hq) (by decide) | rfl

theorem Only.upd_raster_pipe_out_panel {ps : List Part} {s x : State} {v_raster v_tiles v_spare v_takeover
    v_standCyc v_standLast v_standLimited v_queues v_done v_gain v_temp v_t0 v_wt v_tempLost v_ages v_nextAges
    v_blockStress v_nextStress v_ageGain v_nextAgeGain v_odSuspended v_odBegan v_noPrev v_levels v_codesNow
    v_substNow v_resLate v_decoded v_crcSkip v_tableCopy v_tableBad v_master v_working v_pendingRows v_rebuild
    v_nextRows v_srl v_dimming v_autoDefects v_defectsFull v_sweeping v_sweepNext v_sweepAt v_sweepAsk v_batch
    v_batchPorts v_batchAt v_senseHeld v_weakRun v_stress v_passFrames v_passTimes v_passP v_halved v_load v_saving
    v_saveDue v_saveBase v_noBank v_flashSmall v_mapFailed v_flashSize v_phase v_frozen v_ditherLimited v_clipped
    v_probe v_out v_panel} (h : Only ps s x) (h_raster : ps.contains .raster = true := by decide)
    (h_pipe : ps.contains .pipe = true := by decide) (h_out : ps.contains .out = true := by decide)
    (h_panel : ps.contains .panel = true := by decide) :
    Only ps s { x with
      raster := v_raster
      pipe := { x.pipe with
        tiles := v_tiles, spare := v_spare, takeover := v_takeover, standCyc := v_standCyc, standLast := v_standLast
        standLimited := v_standLimited, queues := v_queues, done := v_done, gain := v_gain, temp := v_temp, t0 := v_t0
        wt := v_wt, tempLost := v_tempLost, ages := v_ages, nextAges := v_nextAges, blockStress := v_blockStress
        nextStress := v_nextStress, ageGain := v_ageGain, nextAgeGain := v_nextAgeGain, odSuspended := v_odSuspended
        odBegan := v_odBegan, noPrev := v_noPrev, levels := v_levels, codesNow := v_codesNow, substNow := v_substNow
        resLate := v_resLate, decoded := v_decoded, crcSkip := v_crcSkip, tableCopy := v_tableCopy
        tableBad := v_tableBad, master := v_master, working := v_working, pendingRows := v_pendingRows
        rebuild := v_rebuild, nextRows := v_nextRows, srl := v_srl, dimming := v_dimming, autoDefects := v_autoDefects
        defectsFull := v_defectsFull, sweeping := v_sweeping, sweepNext := v_sweepNext, sweepAt := v_sweepAt
        sweepAsk := v_sweepAsk, batch := v_batch, batchPorts := v_batchPorts, batchAt := v_batchAt
        senseHeld := v_senseHeld, weakRun := v_weakRun, stress := v_stress, passFrames := v_passFrames
        passTimes := v_passTimes, passP := v_passP, halved := v_halved, load := v_load, saving := v_saving
        saveDue := v_saveDue, saveBase := v_saveBase, noBank := v_noBank, flashSmall := v_flashSmall
        mapFailed := v_mapFailed, flashSize := v_flashSize, phase := v_phase, frozen := v_frozen
        ditherLimited := v_ditherLimited, clipped := v_clipped, probe := v_probe }
      out := v_out
      panel := v_panel } := by
  refine h.trans ⟨fun p hq => ?_, .of_eq rfl rfl rfl rfl rfl rfl rfl rfl rfl rfl rfl rfl rfl rfl rfl⟩
  cases p <;> first | exact absurd (h_raster.symm.trans hq) (by decide) | exact absurd (h_pipe.symm.trans hq) (by decide) | exact absurd (h_out.symm.trans hq) (by decide) | exact absurd (h_panel.symm.trans hq) (by decide) | rfl

theorem Only.upd_epoch_security_heldEvents_clocks_resil_power {ps : List Part} {s x : State} {v_epoch v_work
    v_shownCert v_keySeq v_writing v_changes v_noStore v_frameKey v_set0 v_set1 v_last0 v_last1 v_exchange v_attest
    v_entropyBad v_drbgRequests v_active v_tamperAt v_locked v_deferred v_testIr v_testChallenge v_testOpen v_events
    v_overflow v_opBase v_opAt v_opRuns v_caughtUp v_utcBase v_utcAt v_utcValid v_resil v_power} (h : Only ps s x)
    (h_epoch : ps.contains .epoch = true := by decide) (h_security : ps.contains .security = true := by decide)
    (h_heldEvents : ps.contains .heldEvents = true := by decide)
    (h_clocks : ps.contains .clocks = true := by decide) (h_resil : ps.contains .resil = true := by decide)
    (h_power : ps.contains .power = true := by decide) :
    Only ps s { x with
      epoch := v_epoch
      sec := { x.sec with
        work := v_work, shownCert := v_shownCert, keySeq := v_keySeq, writing := v_writing, changes := v_changes
        noStore := v_noStore, frameKey := v_frameKey, set0 := v_set0, set1 := v_set1, last0 := v_last0, last1 := v_last1
        exchange := v_exchange, attest := v_attest, entropyBad := v_entropyBad, drbgRequests := v_drbgRequests
        active := v_active, tamperAt := v_tamperAt, locked := v_locked, deferred := v_deferred, testIr := v_testIr
        testChallenge := v_testChallenge, testOpen := v_testOpen }
      stag := { x.stag with
        events := v_events, overflow := v_overflow, opBase := v_opBase, opAt := v_opAt, opRuns := v_opRuns
        caughtUp := v_caughtUp, utcBase := v_utcBase, utcAt := v_utcAt, utcValid := v_utcValid }
      resil := v_resil
      power := v_power } := by
  refine h.trans ⟨fun p hq => ?_, .of_eq rfl rfl rfl rfl rfl rfl rfl rfl rfl rfl rfl rfl rfl rfl rfl⟩
  cases p <;> first | exact absurd (h_epoch.symm.trans hq) (by decide) | exact absurd (h_security.symm.trans hq) (by decide) | exact absurd (h_heldEvents.symm.trans hq) (by decide) | exact absurd (h_clocks.symm.trans hq) (by decide) | exact absurd (h_resil.symm.trans hq) (by decide) | exact absurd (h_power.symm.trans hq) (by decide) | rfl

/-! ### Answers -/

/-- What an answer changes, now and once its response is queued. -/
structure AnsOnly (ps : List Part) (s : State) (x : Answer × State) : Prop where
  now : Only ps s x.2
  after : ∀ t, Only ps t (x.1.after t)

theorem AnsOnly.plain {ps : List Part} {s t : State} {st : Nat} {pl : List Nat} {aw : Option Await} (h : Only ps s t) :
    AnsOnly ps s (⟨st, pl, aw, id⟩, t) := ⟨h, fun u => Only.refl u⟩
theorem AnsOnly.then_ {ps : List Part} {s t : State} {st : Nat} {pl : List Nat} {aw : Option Await} {f : State → State}
    (hf : ∀ u, Only ps u (f u)) (h : Only ps s t) : AnsOnly ps s (⟨st, pl, aw, f⟩, t) := ⟨h, hf⟩
theorem AnsOnly.step {ps qs : List Part} {s t : State} {x : Answer × State} (h : AnsOnly ps t x)
    (hs : ps.all (qs.contains ·) = true) (h' : Only qs s t) : AnsOnly qs s x :=
  ⟨h.now.step hs h', fun u => (h.after u).mono hs⟩
theorem AnsOnly.mono {ps qs : List Part} {s : State} {x : Answer × State} (h : AnsOnly ps s x)
    (hs : ps.all (qs.contains ·) = true) : AnsOnly qs s x := h.step hs (Only.refl s)
theorem AnsOnly.with_ {ps : List Part} {s t u : State} {a : Answer} (h : AnsOnly ps s (a, t)) (hu : Only ps s u) :
    AnsOnly ps s (a, u) := ⟨hu, h.after⟩
theorem AnsOnly.have_ {ps : List Part} {s : State} {x : Answer × State} (y : State) (hy : Only ps s y)
    (h : Only ps s y → AnsOnly ps s x) : AnsOnly ps s x := h hy
/-- An answer that is given where it is OK, and else leaves the state `u`. -/
theorem AnsOnly.orElse {ps : List Part} {s u : State} {x : Answer × State} (h : AnsOnly ps s x) (hu : Only ps s u) :
    AnsOnly ps s (match x with
      | (a, t) => if a.status = stOK then (a, t) else (a, u)) := by
  obtain ⟨a, t⟩ := x
  dsimp only
  split
  · exact h
  · exact h.with_ hu
/-- What an answer changes, now and once its response is queued, of one of two states. -/
structure AnsOnly2 (ps : List Part) (s was : State) (x : Answer × State) : Prop where
  now : Only ps s x.2 ∨ Only ps was x.2
  after : ∀ t, Only ps t (x.1.after t)

theorem AnsOnly2.left {ps : List Part} {s was : State} {x : Answer × State} (h : AnsOnly ps s x) : AnsOnly2 ps s was x :=
  ⟨.inl h.now, h.after⟩
theorem AnsOnly2.right {ps : List Part} {s was : State} {x : Answer × State} (h : AnsOnly ps was x) : AnsOnly2 ps s was x :=
  ⟨.inr h.now, h.after⟩
theorem AnsOnly2.mono {ps qs : List Part} {s was : State} {x : Answer × State} (h : AnsOnly2 ps s was x)
    (hs : ps.all (qs.contains ·) = true) : AnsOnly2 qs s was x :=
  ⟨h.now.imp (·.mono hs) (·.mono hs), fun u => (h.after u).mono hs⟩
theorem AnsOnly2.orElse {ps : List Part} {s was : State} {x : Answer × State} (h : AnsOnly ps s x) :
    AnsOnly2 ps s was (match x with
      | (a, t) => if a.status = stOK then (a, t) else (a, was)) := by
  obtain ⟨a, t⟩ := x
  dsimp only
  split
  · exact .left h
  · exact ⟨.inr (Only.refl _), h.after⟩
/-- From one state both came. -/
theorem AnsOnly2.both {ps qs : List Part} {b s was : State} {x : Answer × State} (h : AnsOnly2 ps s was x)
    (hq : ps.all (qs.contains ·) = true) (hs : Only qs b s) (hw : Only qs b was) : AnsOnly qs b x :=
  ⟨h.now.elim (fun h => h.step hq hs) (fun h => h.step hq hw), fun u => (h.after u).mono hq⟩
/-- The outcome is a next state, which differs from `s` in `ps` alone. -/
def Runs (ps : List Part) (s : State) (o : Host.Outcome State Fault Refusal) : Prop := ∃ t, o = .next t ∧ Only ps s t
theorem Runs.next {ps : List Part} {s t : State} (h : Only ps s t) : Runs ps s (.next t) := ⟨t, rfl, h⟩
theorem Runs.mono {ps qs : List Part} {s : State} {o : Host.Outcome State Fault Refusal} (h : Runs ps s o)
    (hs : ps.all (qs.contains ·) = true) : Runs qs s o := by
  obtain ⟨t, e, h⟩ := h
  exact ⟨t, e, h.mono hs⟩

end Sys2Proof.Machine
end

