-- ==== Sys2Proof/Laws/FramesOps.lean ====
section
/-! SUPPORT. What each definition of Machine/Ops.lean changes. -/

set_option Elab.async false

set_option linter.tactic.unusedName false

namespace Sys2Proof.Machine

theorem advanceTo_only (t : Nat) (s : State) :
    Only [.now] s (advanceTo t s) := by
  unfold advanceTo
  repeat' first
    | with_reducible exact Only.refl _
    | with_reducible assumption
    | (extract_lets +onlyGivenNames y
       first
         | (refine Only.have_ y ?_ fun _ => ?_; subst y; rotate_left; clear_value y)
         | clear_value y | skip)
    | with_reducible refine Only.upd_now ?_

theorem draw_only (s : State) :
    Only [.free] s (draw s).2 := by
  unfold draw
  repeat' first
    | with_reducible exact Only.refl _
    | with_reducible assumption
    | (extract_lets +onlyGivenNames y
       first
         | (refine Only.have_ y ?_ fun _ => ?_; subst y; rotate_left; clear_value y)
         | clear_value y | skip)
    | with_reducible refine Only.upd_free ?_

theorem drawBytes_only (n : Nat) (s : State) :
    Only [.free] s (drawBytes n s).2 := by
  unfold drawBytes
  repeat' first
    | with_reducible exact Only.refl _
    | with_reducible assumption
    | (extract_lets +onlyGivenNames y
       first
         | (refine Only.have_ y ?_ fun _ => ?_; subst y; rotate_left; clear_value y)
         | clear_value y | skip)
    | with_reducible refine Only.upd_free ?_

theorem setCfg_only (h : Nat) (p : Nat) (i : Nat) (v : Int) (s : State) :
    Only [.config] s (setCfg h p i v s) := by
  unfold setCfg
  repeat' first
    | with_reducible exact Only.refl _
    | with_reducible assumption
    | (extract_lets +onlyGivenNames y
       first
         | (refine Only.have_ y ?_ fun _ => ?_; subst y; rotate_left; clear_value y)
         | (have _z : DictSt := y; subst y) | clear_value y | skip)
    | with_reducible refine Only.upd_config ?_

theorem bumpGen_only (h : Nat) (p : Nat) (s : State) :
    Only [.results] s (bumpGen h p s) := by
  unfold bumpGen
  repeat' first
    | with_reducible exact Only.refl _
    | with_reducible assumption
    | (extract_lets +onlyGivenNames y
       first
         | (refine Only.have_ y ?_ fun _ => ?_; subst y; rotate_left; clear_value y)
         | (have _z : DictSt := y; subst y) | clear_value y | skip)
    | with_reducible refine Only.upd_results ?_

theorem setResAt_only (h : Nat) (p : Nat) (i : Nat) (v : Int) (s : State) :
    Only [.results] s (setResAt h p i v s) := by
  unfold setResAt
  repeat' first
    | with_reducible exact Only.refl _
    | with_reducible assumption
    | (extract_lets +onlyGivenNames y
       first
         | (refine Only.have_ y ?_ fun _ => ?_; subst y; rotate_left; clear_value y)
         | (have _z : DictSt := y; subst y) | clear_value y | skip)
    | ((with_reducible apply Only.step (bumpGen_only ..)); (case hs => decide))
    | with_reducible refine Only.upd_results ?_

theorem setResI_only (h : Nat) (p : Nat) (v : Int) (s : State) :
    Only [.results] s (setResI h p v s) := by
  unfold setResI
  repeat' first
    | with_reducible exact Only.refl _
    | with_reducible assumption
    | (extract_lets +onlyGivenNames y
       first
         | (refine Only.have_ y ?_ fun _ => ?_; subst y; rotate_left; clear_value y)
         | clear_value y | skip)
    | ((with_reducible apply Only.step (setResAt_only ..)); (case hs => decide))

theorem setRes_only (h : Nat) (p : Nat) (v : Nat) (s : State) :
    Only [.results] s (setRes h p v s) := by
  unfold setRes
  repeat' first
    | with_reducible exact Only.refl _
    | with_reducible assumption
    | (extract_lets +onlyGivenNames y
       first
         | (refine Only.have_ y ?_ fun _ => ?_; subst y; rotate_left; clear_value y)
         | clear_value y | skip)
    | ((with_reducible apply Only.step (setResAt_only ..)); (case hs => decide))

theorem setResB_only (h : Nat) (p : Nat) (v : Bool) (s : State) :
    Only [.results] s (setResB h p v s) := by
  unfold setResB
  repeat' first
    | with_reducible exact Only.refl _
    | with_reducible assumption
    | (extract_lets +onlyGivenNames y
       first
         | (refine Only.have_ y ?_ fun _ => ?_; subst y; rotate_left; clear_value y)
         | clear_value y | skip)
    | ((with_reducible apply Only.step (setRes_only ..)); (case hs => decide))
    | split

theorem changeRes_only (h : Nat) (p : Nat) (v : Nat) (s : State) :
    Only [.results] s (changeRes h p v s) := by
  unfold changeRes
  repeat' first
    | with_reducible exact Only.refl _
    | with_reducible assumption
    | (extract_lets +onlyGivenNames y
       first
         | (refine Only.have_ y ?_ fun _ => ?_; subst y; rotate_left; clear_value y)
         | clear_value y | skip)
    | ((with_reducible apply Only.step (setRes_only ..)); (case hs => decide))
    | split

theorem stepRes_only (h : Nat) (p : Nat) (i : Nat) (v : Int) (n : Nat) (s : State) :
    Only [.results] s (stepRes h p i v n s) := by
  unfold stepRes
  repeat' first
    | with_reducible exact Only.refl _
    | with_reducible assumption
    | (extract_lets +onlyGivenNames y
       first
         | (refine Only.have_ y ?_ fun _ => ?_; subst y; rotate_left; clear_value y)
         | (have _z : DictSt := y; subst y) | clear_value y | skip)
    | with_reducible refine Only.upd_results ?_

theorem setResList_only (h : Nat) (p : Nat) (vs : List Int) (s : State) :
    Only [.results] s (setResList h p vs s) := by
  unfold setResList
  repeat' first
    | with_reducible exact Only.refl _
    | with_reducible assumption
    | (extract_lets +onlyGivenNames y
       first
         | (refine Only.have_ y ?_ fun _ => ?_; subst y; rotate_left; clear_value y)
         | (have _z : DictSt := y; subst y) | clear_value y | skip)
    | ((with_reducible apply Only.step (bumpGen_only ..)); (case hs => decide))
    | with_reducible refine Only.upd_results ?_

theorem incSat_only (h : Nat) (p : Nat) (n : Nat) (s : State) :
    Only [.results] s (incSat h p n s) := by
  unfold incSat
  repeat' first
    | with_reducible exact Only.refl _
    | with_reducible assumption
    | (extract_lets +onlyGivenNames y
       first
         | (refine Only.have_ y ?_ fun _ => ?_; subst y; rotate_left; clear_value y)
         | clear_value y | skip)
    | ((with_reducible apply Only.step (setRes_only ..)); (case hs => decide))
    | split

theorem incSatAt_only (h : Nat) (p : Nat) (i : Nat) (n : Nat) (s : State) :
    Only [.results] s (incSatAt h p i n s) := by
  unfold incSatAt
  repeat' first
    | with_reducible exact Only.refl _
    | with_reducible assumption
    | (extract_lets +onlyGivenNames y
       first
         | (refine Only.have_ y ?_ fun _ => ?_; subst y; rotate_left; clear_value y)
         | clear_value y | skip)
    | ((with_reducible apply Only.step (setResAt_only ..)); (case hs => decide))
    | split

theorem incWrap_only (h : Nat) (p : Nat) (n : Nat) (s : State) :
    Only [.results] s (incWrap h p n s) := by
  unfold incWrap
  repeat' first
    | with_reducible exact Only.refl _
    | with_reducible assumption
    | (extract_lets +onlyGivenNames y
       first
         | (refine Only.have_ y ?_ fun _ => ?_; subst y; rotate_left; clear_value y)
         | clear_value y | skip)
    | ((with_reducible apply Only.step (setRes_only ..)); (case hs => decide))
    | split

theorem addCe_only (h : Nat) (n : Nat) (s : State) :
    Only [.counts] s (addCe h n s) := by
  unfold addCe
  repeat' first
    | with_reducible exact Only.refl _
    | with_reducible assumption
    | (extract_lets +onlyGivenNames y
       first
         | (refine Only.have_ y ?_ fun _ => ?_; subst y; rotate_left; clear_value y)
         | (have _z : DictSt := y; subst y) | clear_value y | skip)
    | with_reducible refine Only.upd_counts ?_

theorem addUe_only (h : Nat) (n : Nat) (s : State) :
    Only [.counts] s (addUe h n s) := by
  unfold addUe
  repeat' first
    | with_reducible exact Only.refl _
    | with_reducible assumption
    | (extract_lets +onlyGivenNames y
       first
         | (refine Only.have_ y ?_ fun _ => ?_; subst y; rotate_left; clear_value y)
         | (have _z : DictSt := y; subst y) | clear_value y | skip)
    | with_reducible refine Only.upd_counts ?_

theorem startProgram_only (s : State) :
    Only [.storeQueue] s (startProgram s) := by
  unfold startProgram
  repeat' first
    | with_reducible exact Only.refl _
    | with_reducible assumption
    | (extract_lets +onlyGivenNames y
       first
         | (refine Only.have_ y ?_ fun _ => ?_; subst y; rotate_left; clear_value y)
         | (have _z : PstoreSt := y; subst y) | clear_value y | skip)
    | split
    | with_reducible refine Only.upd_storeQueue ?_

theorem queueProgram_only (p : Program) (s : State) :
    Only [.storeQueue] s (queueProgram p s) := by
  unfold queueProgram
  repeat' first
    | with_reducible exact Only.refl _
    | with_reducible assumption
    | (extract_lets +onlyGivenNames y
       first
         | (refine Only.have_ y ?_ fun _ => ?_; subst y; rotate_left; clear_value y)
         | (have _z : PstoreSt := y; subst y) | clear_value y | skip)
    | ((with_reducible apply Only.step (startProgram_only ..)); (case hs => decide))
    | with_reducible refine Only.upd_storeQueue ?_

theorem flushGather_only (s : State) :
    Only [.storeQueue] s (flushGather s) := by
  unfold flushGather
  repeat' first
    | with_reducible exact Only.refl _
    | with_reducible assumption
    | (extract_lets +onlyGivenNames y
       first
         | (refine Only.have_ y ?_ fun _ => ?_; subst y; rotate_left; clear_value y)
         | (have _z : PstoreSt := y; subst y) | clear_value y | skip)
    | ((with_reducible apply Only.step (queueProgram_only ..)); (case hs => decide))
    | split
    | with_reducible refine Only.upd_storeQueue ?_

theorem placeRecord_only (r : LogRec) (s : State) :
    Only [.storeQueue] s (placeRecord r s) := by
  unfold placeRecord
  repeat' first
    | with_reducible exact Only.refl _
    | with_reducible assumption
    | (extract_lets +onlyGivenNames y
       first
         | (refine Only.have_ y ?_ fun _ => ?_; subst y; rotate_left; clear_value y)
         | (have _z : PstoreSt := y; subst y) | clear_value y | skip)
    | with_reducible refine Only.upd_storeQueue ?_

theorem showLog_only (n : Nat) (s : State) :
    Only [.results] s (showLog n s) := by
  unfold showLog
  repeat' first
    | with_reducible exact Only.refl _
    | with_reducible assumption
    | (extract_lets +onlyGivenNames y
       first
         | (refine Only.have_ y ?_ fun _ => ?_; subst y; rotate_left; clear_value y)
         | clear_value y | skip)
    | ((with_reducible apply Only.step (setRes_only ..)); (case hs => decide))
    | ((with_reducible apply Only.step (bumpGen_only ..)); (case hs => decide))
    | split

theorem assignRecord_only (e : Event) (s : State) :
    Only [.results, .storeQueue] s (assignRecord e s) := by
  unfold assignRecord
  repeat' first
    | with_reducible exact Only.refl _
    | with_reducible assumption
    | (extract_lets +onlyGivenNames y
       first
         | (refine Only.have_ y ?_ fun _ => ?_; subst y; rotate_left; clear_value y)
         | clear_value y | skip)
    | ((with_reducible apply Only.step (showLog_only ..)); (case hs => decide))
    | ((with_reducible apply Only.step (placeRecord_only ..)); (case hs => decide))
    | ((with_reducible apply Only.step (flushGather_only ..)); (case hs => decide))
    | split

theorem setPort_only (i : PortId) (p : PortSt) (s : State) :
    Only [.ports] s (setPort i p s) := by
  unfold setPort
  repeat' first
    | with_reducible exact Only.refl _
    | with_reducible assumption
    | (extract_lets +onlyGivenNames y
       first
         | (refine Only.have_ y ?_ fun _ => ?_; subst y; rotate_left; clear_value y)
         | (have _z : CtrlSt := y; subst y) | clear_value y | skip)
    | split
    | with_reducible refine Only.upd_ports ?_

theorem pushOut_only (i : PortId) (f : OutFrame) (s : State) :
    Only [.ports] s (pushOut i f s) := by
  unfold pushOut
  repeat' first
    | with_reducible exact Only.refl _
    | with_reducible assumption
    | (extract_lets +onlyGivenNames y
       first
         | (refine Only.have_ y ?_ fun _ => ?_; subst y; rotate_left; clear_value y)
         | clear_value y | skip)
    | ((with_reducible apply Only.step (setPort_only ..)); (case hs => decide))
    | split

theorem sendNote_only (i : PortId) (r : Nat) (e : Event) (s : State) :
    Only [.results, .ports] s (sendNote i r e s) := by
  unfold sendNote
  repeat' first
    | with_reducible exact Only.refl _
    | with_reducible assumption
    | (extract_lets +onlyGivenNames y
       first
         | (refine Only.have_ y ?_ fun _ => ?_; subst y; rotate_left; clear_value y)
         | clear_value y | skip)
    | ((with_reducible apply Only.step (pushOut_only ..)); (case hs => decide))
    | ((with_reducible apply Only.step (setPort_only ..)); (case hs => decide))
    | ((with_reducible apply Only.step (incSat_only ..)); (case hs => decide))
    | split

theorem notifyAll_only (r : Nat) (e : Event) (s : State) :
    Only [.results, .ports] s (notifyAll r e s) := by
  unfold notifyAll
  repeat' first
    | with_reducible exact Only.refl _
    | with_reducible assumption
    | (extract_lets +onlyGivenNames y
       first
         | (refine Only.have_ y ?_ fun _ => ?_; subst y; rotate_left; clear_value y)
         | clear_value y | skip)
    | ((with_reducible apply Only.step (sendNote_only ..)); (case hs => decide))
    | (with_reducible apply Only.foldl)
    | intro t a ht
    | split

theorem noteLast_only (code : Nat) (handle : Nat) (s : State) :
    Only [.events] s (noteLast code handle s) := by
  unfold noteLast
  repeat' first
    | with_reducible exact Only.refl _
    | with_reducible assumption
    | (extract_lets +onlyGivenNames y
       first
         | (refine Only.have_ y ?_ fun _ => ?_; subst y; rotate_left; clear_value y)
         | (have _z : DictSt := y; subst y) | clear_value y | skip)
    | with_reducible refine Only.upd_events ?_

theorem recordLost_only (i : PortId) (s : State) :
    Only [.results, .events, .ports, .storeQueue] s (recordLost i s).2 := by
  unfold recordLost
  repeat' first
    | with_reducible exact Only.refl _
    | with_reducible assumption
    | (extract_lets +onlyGivenNames y
       first
         | (refine Only.have_ y ?_ fun _ => ?_; subst y; rotate_left; clear_value y)
         | clear_value y | skip)
    | ((with_reducible apply Only.step (noteLast_only ..)); (case hs => decide))
    | ((with_reducible apply Only.step (sendNote_only ..)); (case hs => decide))
    | ((with_reducible apply Only.step (setPort_only ..)); (case hs => decide))
    | ((with_reducible apply Only.step (assignRecord_only ..)); (case hs => decide))
    | split

theorem passLost_only (i : PortId) (x : Option (Nat × Event)) (s : State) :
    Only [.results, .ports] s (passLost i x s) := by
  unfold passLost
  repeat' first
    | with_reducible exact Only.refl _
    | with_reducible assumption
    | (extract_lets +onlyGivenNames y
       first
         | (refine Only.have_ y ?_ fun _ => ?_; subst y; rotate_left; clear_value y)
         | clear_value y | skip)
    | ((with_reducible apply Only.step (sendNote_only ..)); (case hs => decide))
    | (with_reducible apply Only.foldl)
    | intro t a ht
    | split

theorem tellLost_only (e : Event) (s : State) :
    Only [.results, .events, .ports, .storeQueue] s (tellLost e s) := by
  unfold tellLost
  extract_lets l x
  have hx : Only [.results, .events, .ports, .storeQueue] s x.2 := by
    refine Only.foldl2 (fun x i h => ?_) _ _ (Only.refl _)
    exact h.trans ((recordLost_only i x.2).mono (by decide))
  exact Only.foldl (fun _ _ h => h.trans ((passLost_only ..).mono (by decide))) _ _ hx

theorem recordEvent_only (e : Event) (s : State) :
    Only [.results, .events, .ports, .storeQueue] s (recordEvent e s) := by
  unfold recordEvent
  repeat' first
    | with_reducible exact Only.refl _
    | with_reducible assumption
    | (extract_lets +onlyGivenNames y
       first
         | (refine Only.have_ y ?_ fun _ => ?_; subst y; rotate_left; clear_value y)
         | clear_value y | skip)
    | ((with_reducible apply Only.step (tellLost_only ..)); (case hs => decide))
    | ((with_reducible apply Only.step (notifyAll_only ..)); (case hs => decide))
    | ((with_reducible apply Only.step (assignRecord_only ..)); (case hs => decide))

theorem tellNotLogged_only (s : State) :
    Only [.results, .events, .ports, .storeQueue] s (tellNotLogged s) := by
  unfold tellNotLogged
  repeat' first
    | with_reducible exact Only.refl _
    | with_reducible assumption
    | (extract_lets +onlyGivenNames y
       first
         | (refine Only.have_ y ?_ fun _ => ?_; subst y; rotate_left; clear_value y)
         | (have _z : PstoreSt := y; subst y) | clear_value y | skip)
    | ((with_reducible apply Only.step (recordEvent_only ..)); (case hs => decide))
    | ((with_reducible apply Only.step (noteLast_only ..)); (case hs => decide))
    | split
    | with_reducible refine Only.upd_storeQueue ?_

theorem noteLimit_only (e : Event) (s : State) :
    Only [.events] s (noteLimit e s) := by
  unfold noteLimit
  repeat' first
    | with_reducible exact Only.refl _
    | with_reducible assumption
    | (extract_lets +onlyGivenNames y
       first
         | (refine Only.have_ y ?_ fun _ => ?_; subst y; rotate_left; clear_value y)
         | (have _z : DictSt := y; subst y) | clear_value y | skip)
    | split
    | with_reducible refine Only.upd_events ?_

theorem logEvent_only (e : Event) (s : State) :
    Only [.results, .events, .ports, .storeQueue] s (logEvent e s) := by
  unfold logEvent
  repeat' first
    | with_reducible exact Only.refl _
    | with_reducible assumption
    | (extract_lets +onlyGivenNames y
       first
         | (refine Only.have_ y ?_ fun _ => ?_; subst y; rotate_left; clear_value y)
         | (have _z : PstoreSt := y; subst y) | clear_value y | skip)
    | ((with_reducible apply Only.step (noteLimit_only ..)); (case hs => decide))
    | ((with_reducible apply Only.step (tellNotLogged_only ..)); (case hs => decide))
    | ((with_reducible apply Only.step (recordEvent_only ..)); (case hs => decide))
    | ((with_reducible apply Only.step (incSat_only ..)); (case hs => decide))
    | split
    | with_reducible refine Only.upd_storeQueue ?_

theorem holdEvent_only (e : Event) (s : State) :
    Only [.results, .heldEvents] s (holdEvent e s) := by
  unfold holdEvent
  repeat' first
    | with_reducible exact Only.refl _
    | with_reducible assumption
    | (extract_lets +onlyGivenNames y
       first
         | (refine Only.have_ y ?_ fun _ => ?_; subst y; rotate_left; clear_value y)
         | (have _z : StagSt := y; subst y) | clear_value y | skip)
    | ((with_reducible apply Only.step (incSat_only ..)); (case hs => decide))
    | split
    | with_reducible refine Only.upd_heldEvents ?_

theorem keepEvent_only (e : Event) (s : State) :
    Only [.results, .events, .ports, .storeQueue, .heldEvents] s (keepEvent e s) := by
  unfold keepEvent
  repeat' first
    | with_reducible exact Only.refl _
    | with_reducible assumption
    | (extract_lets +onlyGivenNames y
       first
         | (refine Only.have_ y ?_ fun _ => ?_; subst y; rotate_left; clear_value y)
         | clear_value y | skip)
    | ((with_reducible apply Only.step (holdEvent_only ..)); (case hs => decide))
    | ((with_reducible apply Only.step (logEvent_only ..)); (case hs => decide))
    | split

theorem raise_only (code : Nat) (handle : Nat) (data : List Nat) (s : State) :
    Only [.results, .events, .ports, .storeQueue, .heldEvents] s (raise code handle data s) := by
  unfold raise
  repeat' first
    | with_reducible exact Only.refl _
    | with_reducible assumption
    | (extract_lets +onlyGivenNames y
       first
         | (refine Only.have_ y ?_ fun _ => ?_; subst y; rotate_left; clear_value y)
         | clear_value y | skip)
    | ((with_reducible apply Only.step (keepEvent_only ..)); (case hs => decide))
    | ((with_reducible apply Only.step (noteLast_only ..)); (case hs => decide))
    | split

theorem flushEvents_only (s : State) :
    Only [.results, .events, .ports, .storeQueue, .heldEvents] s (flushEvents s) := by
  unfold flushEvents
  repeat' first
    | with_reducible exact Only.refl _
    | with_reducible assumption
    | (extract_lets +onlyGivenNames y
       first
         | (refine Only.have_ y ?_ fun _ => ?_; subst y; rotate_left; clear_value y)
         | (have _z : StagSt := y; subst y) | clear_value y | skip)
    | ((with_reducible apply Only.step (logEvent_only ..)); (case hs => decide))
    | (with_reducible apply Only.foldl)
    | intro t a ht
    | with_reducible refine Only.upd_heldEvents ?_

theorem setLevel_only (i : PortId) (l : Nat) (key : Option (List Nat)) (s : State) :
    Only [.results, .ports] s (setLevel i l key s) := by
  unfold setLevel
  repeat' first
    | with_reducible exact Only.refl _
    | with_reducible assumption
    | (extract_lets +onlyGivenNames y
       first
         | (refine Only.have_ y ?_ fun _ => ?_; subst y; rotate_left; clear_value y)
         | clear_value y | skip)
    | ((with_reducible apply Only.step (setPort_only ..)); (case hs => decide))
    | ((with_reducible apply Only.step (changeRes_only ..)); (case hs => decide))

theorem endSession_only (i : PortId) (reason : Nat) (s : State) :
    Only [.results, .events, .ports, .storeQueue, .heldEvents] s (endSession i reason s) := by
  unfold endSession
  repeat' first
    | with_reducible exact Only.refl _
    | with_reducible assumption
    | (extract_lets +onlyGivenNames y
       first
         | (refine Only.have_ y ?_ fun _ => ?_; subst y; rotate_left; clear_value y)
         | clear_value y | skip)
    | ((with_reducible apply Only.step (setLevel_only ..)); (case hs => decide))
    | ((with_reducible apply Only.step (raise_only ..)); (case hs => decide))
    | split

theorem endSessions_only (reason : Nat) (s : State) :
    Only [.results, .events, .ports, .storeQueue, .heldEvents] s (endSessions reason s) := by
  unfold endSessions
  repeat' first
    | with_reducible exact Only.refl _
    | with_reducible assumption
    | (extract_lets +onlyGivenNames y
       first
         | (refine Only.have_ y ?_ fun _ => ?_; subst y; rotate_left; clear_value y)
         | clear_value y | skip)
    | ((with_reducible apply Only.step (endSession_only ..)); (case hs => decide))
    | (with_reducible apply Only.foldl)
    | intro t a ht

theorem incTally_only (n : Nat) (s : State) :
    Only [.results, .events, .ports, .storeQueue, .tallies, .heldEvents] s (incTally n s) := by
  unfold incTally
  repeat' first
    | with_reducible exact Only.refl _
    | with_reducible assumption
    | (extract_lets +onlyGivenNames y
       first
         | (refine Only.have_ y ?_ fun _ => ?_; subst y; rotate_left; clear_value y)
         | (have _z : PstoreSt := y; subst y) | clear_value y | skip)
    | ((with_reducible apply Only.step (raise_only ..)); (case hs => decide))
    | ((with_reducible apply Only.step (queueProgram_only ..)); (case hs => decide))
    | ((with_reducible apply Only.step (setResAt_only ..)); (case hs => decide))
    | split
    | with_reducible refine Only.upd_tallies ?_

end Sys2Proof.Machine
end

