-- ==== Sys2Proof/Laws/FramesFlags.lean ====
section
/-! SUPPORT. What each definition of Machine/Flags.lean changes. -/

set_option Elab.async false

set_option linter.tactic.unusedName false

namespace Sys2Proof.Machine

theorem showFaults_only (c : Nat) (s : State) :
    Only [.results, .resil] s (showFaults c s) := by
  unfold showFaults
  repeat' first
    | with_reducible exact Only.refl _
    | with_reducible assumption
    | (extract_lets +onlyGivenNames y
       first
         | (refine Only.have_ y ?_ fun _ => ?_; subst y; rotate_left; clear_value y)
         | (have _z : ResilSt := y; subst y) | clear_value y | skip)
    | ((with_reducible apply Only.step (setRes_only ..)); (case hs => decide))
    | with_reducible refine Only.upd_resil ?_

theorem unitsUp_only (bits : Nat) (s : State) :
    Only [.resil] s (unitsUp bits s) := by
  unfold unitsUp
  repeat' first
    | with_reducible exact Only.refl _
    | with_reducible assumption
    | (extract_lets +onlyGivenNames y
       first
         | (refine Only.have_ y ?_ fun _ => ?_; subst y; rotate_left; clear_value y)
         | (have _z : ResilSt := y; subst y) | clear_value y | skip)
    | with_reducible refine Only.upd_resil ?_

theorem settle_only (s : State) :
    Only [.results, .events, .ports, .storeQueue, .heldEvents, .resil] s (settle s) := by
  unfold settle
  repeat' first
    | with_reducible exact Only.refl _
    | with_reducible assumption
    | (extract_lets +onlyGivenNames y
       first
         | (refine Only.have_ y ?_ fun _ => ?_; subst y; rotate_left; clear_value y)
         | clear_value y | skip)
    | ((with_reducible apply Only.step (showFaults_only ..)); (case hs => decide))
    | ((with_reducible apply Only.step (raise_only ..)); (case hs => decide))
    | split

end Sys2Proof.Machine
end

