-- ==== Sys2Proof/Laws/FramesDict.lean ====
section
/-! SUPPORT. What each definition of Machine/Dict.lean changes. -/

set_option Elab.async false

set_option linter.tactic.unusedName false

namespace Sys2Proof.Machine

theorem countClamp_only (h : Nat) (p : Nat) (cause : Nat) (s : State) :
    Only [.results] s (countClamp h p cause s) := by
  unfold countClamp
  repeat' first
    | with_reducible exact Only.refl _
    | with_reducible assumption
    | (extract_lets +onlyGivenNames y
       first
         | (refine Only.have_ y ?_ fun _ => ?_; subst y; rotate_left; clear_value y)
         | clear_value y | skip)
    | ((with_reducible apply Only.step (incSat_only ..)); (case hs => decide))
    | ((with_reducible apply Only.step (setRes_only ..)); (case hs => decide))

theorem noteClamp_only (h : Nat) (p : Nat) (cause : Nat) (s : State) :
    Only [.results] s (noteClamp h p cause s) := by
  unfold noteClamp
  repeat' first
    | with_reducible exact Only.refl _
    | with_reducible assumption
    | (extract_lets +onlyGivenNames y
       first
         | (refine Only.have_ y ?_ fun _ => ?_; subst y; rotate_left; clear_value y)
         | clear_value y | skip)
    | ((with_reducible apply Only.step (countClamp_only ..)); (case hs => decide))
    | split

theorem setItems_only (l : List (Nat × Option Nat)) (s : State) :
    Only [.shadow, .results] s (setItems l s) := by
  unfold setItems
  repeat' first
    | with_reducible exact Only.refl _
    | with_reducible assumption
    | (extract_lets +onlyGivenNames y
       first
         | (refine Only.have_ y ?_ fun _ => ?_; subst y; rotate_left; clear_value y)
         | (have _z : DictSt := y; subst y) | clear_value y | skip)
    | ((with_reducible apply Only.step (changeRes_only ..)); (case hs => decide))
    | with_reducible refine Only.upd_shadow ?_

theorem clearShadow_only (s : State) :
    Only [.shadow, .results] s (clearShadow s) := by
  unfold clearShadow
  repeat' first
    | with_reducible exact Only.refl _
    | with_reducible assumption
    | (extract_lets +onlyGivenNames y
       first
         | (refine Only.have_ y ?_ fun _ => ?_; subst y; rotate_left; clear_value y)
         | (have _z : DictSt := y; subst y) | clear_value y | skip)
    | ((with_reducible apply Only.step (setItems_only ..)); (case hs => decide))
    | with_reducible refine Only.upd_shadow ?_

theorem putValue_only (a : Apply) (h : Nat) (p : Nat) (i : Nat) (v : Int) (s : State) :
    Only [.config, .shadow] s (putValue a h p i v s) := by
  unfold putValue
  repeat' first
    | with_reducible exact Only.refl _
    | with_reducible assumption
    | (extract_lets +onlyGivenNames y
       first
         | (refine Only.have_ y ?_ fun _ => ?_; subst y; rotate_left; clear_value y)
         | (have _z : DictSt := y; subst y) | clear_value y | skip)
    | ((with_reducible apply Only.step (setCfg_only ..)); (case hs => decide))
    | split
    | with_reducible refine Only.upd_shadow ?_

theorem writeElem_only (e : Entry) (h : Nat) (i : Nat) (v : Int) (s : State) :
    Only [.config, .shadow, .results] s (writeElem e h i v s) := by
  unfold writeElem
  repeat' first
    | with_reducible exact Only.refl _
    | with_reducible assumption
    | (extract_lets +onlyGivenNames y
       first
         | (refine Only.have_ y ?_ fun _ => ?_; subst y; rotate_left; clear_value y)
         | clear_value y | skip)
    | ((with_reducible apply Only.step (putValue_only ..)); (case hs => decide))
    | ((with_reducible apply Only.step (noteClamp_only ..)); (case hs => decide))

theorem writeElems_only (e : Entry) (h i : Nat) (vs : List Int) (s : State) :
    Only [.config, .shadow, .results] s (writeElems e h i vs s) := by
  induction vs generalizing i s with
  | nil => exact Only.refl _
  | cons v vs ih => exact (writeElem_only ..).trans (ih ..)

theorem writeValue_only (e : Entry) (h : Nat) (el : Option Nat) (bs : List Nat) (s : State) :
    Only [.config, .shadow, .results] s (writeValue e h el bs s) := by
  unfold writeValue
  repeat' first
    | with_reducible exact Only.refl _
    | with_reducible assumption
    | (extract_lets +onlyGivenNames y
       first
         | (refine Only.have_ y ?_ fun _ => ?_; subst y; rotate_left; clear_value y)
         | (have _z : DictSt := y; subst y) | clear_value y | skip)
    | ((with_reducible apply Only.step (writeElems_only ..)); (case hs => decide))
    | ((with_reducible apply Only.step (setItems_only ..)); (case hs => decide))
    | split
    | with_reducible refine Only.upd_shadow ?_

theorem writeBlob_only (e : Entry) (h : Nat) (off : Nat) (bs : List Nat) (s : State) :
    Only [.config, .shadow, .results] s (writeBlob e h off bs s) := by
  unfold writeBlob
  repeat' first
    | with_reducible exact Only.refl _
    | with_reducible assumption
    | (extract_lets +onlyGivenNames y
       first
         | (refine Only.have_ y ?_ fun _ => ?_; subst y; rotate_left; clear_value y)
         | clear_value y | skip)
    | ((with_reducible apply Only.step (putValue_only ..)); (case hs => decide))
    | ((with_reducible apply Only.step (setItems_only ..)); (case hs => decide))
    | ((with_reducible apply Only.step (countClamp_only ..)); (case hs => decide))
    | (with_reducible apply Only.foldl)
    | intro t a ht
    | split

theorem applyPatch_only (patch : NMap (Option Int)) (s : State) :
    Only [.config] s (applyPatch patch s) := by
  unfold applyPatch
  repeat' first
    | with_reducible exact Only.refl _
    | with_reducible assumption
    | (extract_lets +onlyGivenNames y
       first
         | (refine Only.have_ y ?_ fun _ => ?_; subst y; rotate_left; clear_value y)
         | clear_value y | skip)
    | ((with_reducible apply Only.step (setCfg_only ..)); (case hs => decide))
    | (with_reducible apply Only.foldl)
    | intro t a ht
    | split

end Sys2Proof.Machine
end

