-- ==== Sys2Proof/Laws/FramesGeometry.lean ====
section
/-! SUPPORT. What each definition of Machine/Geometry.lean changes. -/

set_option Elab.async false

set_option linter.tactic.unusedName false

namespace Sys2Proof.Machine

theorem clampPatch_only (patch : NMap (Option Int)) (s : State) :
    Only [.results] s (clampPatch patch s).2 :=
  Only.foldl2 (fun _ _ h => Only.step (countClamp_only ..) (by decide) h) _ _ (Only.refl _)

theorem stressRateCheck_only (s : State) :
    Only [.results, .pipe] s (stressRateCheck s) := by
  unfold stressRateCheck
  repeat' first
    | with_reducible exact Only.refl _
    | with_reducible assumption
    | (extract_lets +onlyGivenNames y
       first
         | (refine Only.have_ y ?_ fun _ => ?_; subst y; rotate_left; clear_value y)
         | (have _z : PipeSt := y; subst y) | clear_value y | skip)
    | ((with_reducible apply Only.step (changeRes_only ..)); (case hs => decide))
    | split
    | with_reducible refine Only.upd_pipe ?_

end Sys2Proof.Machine
end

