-- ==== Sys2Proof/Laws/FramesPstore.lean ====
section
/-! SUPPORT. What each definition of Machine/Pstore.lean changes. -/

set_option Elab.async false

set_option linter.tactic.unusedName false

namespace Sys2Proof.Machine

theorem writeProgram_only (p : Program) (s : State) :
    Only [.store] s (writeProgram p s) :=
  Only.upd_store (Only.refl _) (by decide) (mwf_foldl_mput _ _ _ _ _)

theorem tearProgram_only (p : Program) (s : State) :
    Only [.store, .free] s (tearProgram p s) := by
  unfold tearProgram
  repeat' first
    | with_reducible exact Only.refl _
    | with_reducible assumption
    | (extract_lets +onlyGivenNames y
       first
         | (refine Only.have_ y ?_ fun _ => ?_; subst y; rotate_left; clear_value y)
         | clear_value y | skip)
    | ((with_reducible apply Only.step (writeProgram_only ..)); (case hs => decide))
    | ((with_reducible apply Only.step (drawBytes_only ..)); (case hs => decide))
    | (split <;> refine Only.have_ _ (Only.snd ?_ (by assumption)) fun _ => ?_)
    | split

theorem addBlaze_only (handle : Nat) (kind : Nat) (cause : Nat) (detail : Nat) (s : State) :
    Only [.results, .events, .ports, .storeState, .storeQueue, .heldEvents] s (addBlaze handle kind cause detail s) := by
  unfold addBlaze
  repeat' first
    | with_reducible exact Only.refl _
    | with_reducible assumption
    | (extract_lets +onlyGivenNames y
       first
         | (refine Only.have_ y ?_ fun _ => ?_; subst y; rotate_left; clear_value y)
         | (have _z : PstoreSt := y; subst y) | clear_value y | skip)
    | ((with_reducible apply Only.step (raise_only ..)); (case hs => decide))
    | ((with_reducible apply Only.step (queueProgram_only ..)); (case hs => decide))
    | split
    | with_reducible refine Only.upd_storeState ?_

theorem fellRecord_only (handle : Nat) (kind : Nat) (cause : Nat) (detail : Nat) (s : State) :
    Only [.results, .events, .ports, .storeState, .storeQueue, .heldEvents] s (fellRecord handle kind cause detail s) := by
  unfold fellRecord
  repeat' first
    | with_reducible exact Only.refl _
    | with_reducible assumption
    | (extract_lets +onlyGivenNames y
       first
         | (refine Only.have_ y ?_ fun _ => ?_; subst y; rotate_left; clear_value y)
         | (have _z : PstoreSt := y; subst y) | clear_value y | skip)
    | ((with_reducible apply Only.step (addBlaze_only ..)); (case hs => decide))
    | with_reducible refine Only.upd_storeState ?_

theorem countRepairs_only (s : State) :
    Only [.results] s (countRepairs s) := by
  unfold countRepairs
  repeat' first
    | with_reducible exact Only.refl _
    | with_reducible assumption
    | (extract_lets +onlyGivenNames y
       first
         | (refine Only.have_ y ?_ fun _ => ?_; subst y; rotate_left; clear_value y)
         | clear_value y | skip)
    | ((with_reducible apply Only.step (setRes_only ..)); (case hs => decide))

theorem addRepair_only (channel : Nat) (bank : Nat) (row : Nat) (s : State) :
    Only [.results, .events, .ports, .storeState, .storeQueue, .heldEvents] s (addRepair channel bank row s) := by
  unfold addRepair
  repeat' first
    | with_reducible exact Only.refl _
    | with_reducible assumption
    | (extract_lets +onlyGivenNames y
       first
         | (refine Only.have_ y ?_ fun _ => ?_; subst y; rotate_left; clear_value y)
         | (have _z : PstoreSt := y; subst y) | clear_value y | skip)
    | ((with_reducible apply Only.step (countRepairs_only ..)); (case hs => decide))
    | ((with_reducible apply Only.step (raise_only ..)); (case hs => decide))
    | ((with_reducible apply Only.step (queueProgram_only ..)); (case hs => decide))
    | split
    | with_reducible refine Only.upd_storeState ?_

theorem dropRepair_only (channel : Nat) (bank : Nat) (row : Nat) (s : State) :
    Only [.results, .storeState, .storeQueue] s (dropRepair channel bank row s) := by
  unfold dropRepair
  repeat' first
    | with_reducible exact Only.refl _
    | with_reducible assumption
    | (extract_lets +onlyGivenNames y
       first
         | (refine Only.have_ y ?_ fun _ => ?_; subst y; rotate_left; clear_value y)
         | (have _z : PstoreSt := y; subst y) | clear_value y | skip)
    | ((with_reducible apply Only.step (countRepairs_only ..)); (case hs => decide))
    | ((with_reducible apply Only.step (queueProgram_only ..)); (case hs => decide))
    | (with_reducible apply Only.foldl)
    | intro t a ht
    | with_reducible refine Only.upd_storeState ?_

theorem endStore_only (ok : Bool) (stage : List Nat) (s : State) :
    Only [.results, .events, .ports, .storeQueue, .heldEvents] s (endStore ok stage s) := by
  unfold endStore
  repeat' first
    | with_reducible exact Only.refl _
    | with_reducible assumption
    | (extract_lets +onlyGivenNames y
       first
         | (refine Only.have_ y ?_ fun _ => ?_; subst y; rotate_left; clear_value y)
         | clear_value y | skip)
    | ((with_reducible apply Only.step (raise_only ..)); (case hs => decide))
    | ((with_reducible apply Only.step (setRes_only ..)); (case hs => decide))
    | split

theorem beginStore_only (tag : Nat) (s : State) :
    Only [.results, .events, .ports, .storeState, .storeQueue, .heldEvents] s (beginStore tag s) := by
  unfold beginStore
  repeat' first
    | with_reducible exact Only.refl _
    | with_reducible assumption
    | (extract_lets +onlyGivenNames y
       first
         | (refine Only.have_ y ?_ fun _ => ?_; subst y; rotate_left; clear_value y)
         | (have _z : PstoreSt := y; subst y) | clear_value y | skip)
    | ((with_reducible apply Only.step (endStore_only ..)); (case hs => decide))
    | ((with_reducible apply Only.step (queueProgram_only ..)); (case hs => decide))
    | ((with_reducible apply Only.step (setRes_only ..)); (case hs => decide))
    | (with_reducible apply Only.foldl)
    | intro t a ht
    | split
    | with_reducible refine Only.upd_storeState ?_

theorem updateWear_only (s : State) :
    Only [.results, .events, .ports, .storeState, .storeQueue, .heldEvents] s (updateWear s) := by
  unfold updateWear
  repeat' first
    | with_reducible exact Only.refl _
    | with_reducible assumption
    | (extract_lets +onlyGivenNames y
       first
         | (refine Only.have_ y ?_ fun _ => ?_; subst y; rotate_left; clear_value y)
         | (have _z : PstoreSt := y; subst y) | clear_value y | skip)
    | ((with_reducible apply Only.step (raise_only ..)); (case hs => decide))
    | ((with_reducible apply Only.step (changeRes_only ..)); (case hs => decide))
    | split
    | with_reducible refine Only.upd_storeState ?_

theorem dropImage_only (s : State) :
    Only [.storeQueue] s (dropImage s) := by
  unfold dropImage
  repeat' first
    | with_reducible exact Only.refl _
    | with_reducible assumption
    | (extract_lets +onlyGivenNames y
       first
         | (refine Only.have_ y ?_ fun _ => ?_; subst y; rotate_left; clear_value y)
         | (have _z : PstoreSt := y; subst y) | clear_value y | skip)
    | with_reducible refine Only.upd_storeQueue ?_

theorem completeProgram_only (p : Program) (ok : Bool) (s : State) :
    Only [.results, .events, .ports, .storeState, .storeQueue, .tallies, .heldEvents] s (completeProgram p ok s) := by
  unfold completeProgram
  repeat' first
    | with_reducible exact Only.refl _
    | with_reducible assumption
    | (extract_lets +onlyGivenNames y
       first
         | (refine Only.have_ y ?_ fun _ => ?_; subst y; rotate_left; clear_value y)
         | (have _z : PstoreSt := y; subst y) | clear_value y | skip)
    | ((with_reducible apply Only.step (dropImage_only ..)); (case hs => decide))
    | ((with_reducible apply Only.step (endStore_only ..)); (case hs => decide))
    | ((with_reducible apply Only.step (countRepairs_only ..)); (case hs => decide))
    | ((with_reducible apply Only.step (incTally_only ..)); (case hs => decide))
    | ((with_reducible apply Only.step (setRes_only ..)); (case hs => decide))
    | split
    | with_reducible refine Only.upd_storeState ?_
    | with_reducible refine Only.upd_storeQueue ?_

theorem tellRetry_only (p : Program) (ok : Bool) (s : State) :
    Only [.results, .events, .ports, .storeState, .storeQueue, .heldEvents] s (tellRetry p ok s) := by
  unfold tellRetry
  repeat' first
    | with_reducible exact Only.refl _
    | with_reducible assumption
    | (extract_lets +onlyGivenNames y
       first
         | (refine Only.have_ y ?_ fun _ => ?_; subst y; rotate_left; clear_value y)
         | (have _z : PstoreSt := y; subst y) | clear_value y | skip)
    | ((with_reducible apply Only.step (raise_only ..)); (case hs => decide))
    | ((with_reducible apply Only.step (incSat_only ..)); (case hs => decide))
    | split
    | with_reducible refine Only.upd_storeState ?_

theorem programTried_only (p : Program) (again : Bool) (ok : Bool) (s : State) :
    Only [.results, .events, .ports, .store, .storeState, .storeQueue, .heldEvents, .free] s (programTried p again ok s) := by
  unfold programTried
  repeat' first
    | with_reducible exact Only.refl _
    | with_reducible assumption
    | (extract_lets +onlyGivenNames y
       first
         | (refine Only.have_ y ?_ fun _ => ?_; subst y; rotate_left; clear_value y)
         | clear_value y | skip)
    | ((with_reducible apply Only.step (tellRetry_only ..)); (case hs => decide))
    | ((with_reducible apply Only.step (tearProgram_only ..)); (case hs => decide))
    | ((with_reducible apply Only.step (writeProgram_only ..)); (case hs => decide))
    | split

theorem endProgram_only {ps : List Part} {done : Program → Bool → State → State} (ok : Bool) (s : State)
    (hs : [.results, .events, .ports, .store, .storeState, .storeQueue, .heldEvents, .free].all (ps.contains ·) = true) (hf : ∀ p t, Only ps t (done p ok t)) : Only ps s (endProgram done ok s) := by
  have key : ∀ {a b : State}, Only [.results, .events, .ports, .store, .storeState, .storeQueue, .heldEvents, .free] a b → Only ps a b := fun h => h.mono hs
  unfold endProgram
  split
  · exact Only.refl _
  · extract_lets t
    have ht : Only [.results, .events, .ports, .store, .storeState, .storeQueue, .heldEvents, .free] s t := (incWrap_only ..).mono (by decide)
    clear_value t
    split
    · exact key (Only.upd_storeQueue ht (by decide) id)
    · refine Only.trans ?_ (key ((startProgram_only ..).mono (by decide)))
      refine Only.trans ?_ (key (Only.upd_storeQueue (Only.refl _) (by decide) id))
      exact Only.trans ((key ((programTried_only ..).step (by decide) ht)).trans (hf _ _)) (key ((updateWear_only ..).mono (by decide)))

theorem readIdentity_only (s : State) :
    Only [.storeState] s (readIdentity s) := by
  unfold readIdentity
  repeat' first
    | with_reducible exact Only.refl _
    | with_reducible assumption
    | (extract_lets +onlyGivenNames y
       first
         | (refine Only.have_ y ?_ fun _ => ?_; subst y; rotate_left; clear_value y)
         | (have _z : PstoreSt := y; subst y) | clear_value y | skip)
    | with_reducible refine Only.upd_storeState ?_

theorem readBlaze_only (s : State) :
    Only [.results, .storeState] s (readBlaze s) := by
  unfold readBlaze
  repeat' first
    | with_reducible exact Only.refl _
    | with_reducible assumption
    | (extract_lets +onlyGivenNames y
       first
         | (refine Only.have_ y ?_ fun _ => ?_; subst y; rotate_left; clear_value y)
         | (have _z : PstoreSt := y; subst y) | clear_value y | skip)
    | ((with_reducible apply Only.step (setRes_only ..)); (case hs => decide))
    | with_reducible refine Only.upd_storeState ?_

theorem readRepairs_only (s : State) :
    Only [.results, .storeState] s (readRepairs s) := by
  unfold readRepairs
  repeat' first
    | with_reducible exact Only.refl _
    | with_reducible assumption
    | (extract_lets +onlyGivenNames y
       first
         | (refine Only.have_ y ?_ fun _ => ?_; subst y; rotate_left; clear_value y)
         | (have _z : PstoreSt := y; subst y) | clear_value y | skip)
    | ((with_reducible apply Only.step (countRepairs_only ..)); (case hs => decide))
    | with_reducible refine Only.upd_storeState ?_

theorem readTally_only (s : State) (n : Nat) :
    Only [.results, .events, .ports, .storeState, .storeQueue, .tallies, .heldEvents] s (readTally s n) := by
  unfold readTally
  repeat' first
    | with_reducible exact Only.refl _
    | with_reducible assumption
    | (extract_lets +onlyGivenNames y
       first
         | (refine Only.have_ y ?_ fun _ => ?_; subst y; rotate_left; clear_value y)
         | (have _z : PstoreSt := y; subst y) | clear_value y | skip)
    | ((with_reducible apply Only.step (raise_only ..)); (case hs => decide))
    | ((with_reducible apply Only.step (setResAt_only ..)); (case hs => decide))
    | split
    | with_reducible refine Only.upd_storeState_tallies ?_
    | with_reducible refine Only.upd_tallies ?_

theorem readTallies_only (s : State) :
    Only [.results, .events, .ports, .storeState, .storeQueue, .tallies, .heldEvents] s (readTallies s) := by
  unfold readTallies
  repeat' first
    | with_reducible exact Only.refl _
    | with_reducible assumption
    | (extract_lets +onlyGivenNames y
       first
         | (refine Only.have_ y ?_ fun _ => ?_; subst y; rotate_left; clear_value y)
         | clear_value y | skip)
    | ((with_reducible apply Only.step (readTally_only ..)); (case hs => decide))
    | (with_reducible apply Only.foldl)
    | intro t a ht

theorem ignoreRecord_only (h : Nat) (p : Nat) (cause : Nat) (s : State) :
    Only [.results, .events, .ports, .storeQueue, .heldEvents] s (ignoreRecord h p cause s) := by
  unfold ignoreRecord
  repeat' first
    | with_reducible exact Only.refl _
    | with_reducible assumption
    | (extract_lets +onlyGivenNames y
       first
         | (refine Only.have_ y ?_ fun _ => ?_; subst y; rotate_left; clear_value y)
         | clear_value y | skip)
    | ((with_reducible apply Only.step (raise_only ..)); (case hs => decide))
    | ((with_reducible apply Only.step (incSat_only ..)); (case hs => decide))

theorem restoreRecord_only (h : Nat) (p : Nat) (bs : List Nat) (s : State) :
    Only [.config, .shadow, .results, .events, .ports, .storeQueue, .heldEvents] s (restoreRecord h p bs s) := by
  unfold restoreRecord
  repeat' first
    | with_reducible exact Only.refl _
    | with_reducible assumption
    | (extract_lets +onlyGivenNames y
       first
         | (refine Only.have_ y ?_ fun _ => ?_; subst y; rotate_left; clear_value y)
         | clear_value y | skip)
    | ((with_reducible apply Only.step (ignoreRecord_only ..)); (case hs => decide))
    | ((with_reducible apply Only.step (writeBlob_only ..)); (case hs => decide))
    | ((with_reducible apply Only.step (writeElems_only ..)); (case hs => decide))
    | split

theorem restoreRecords_only (n : Nat) (bs : List Nat) (s : State) :
    Only [.config, .shadow, .results, .events, .ports, .storeQueue, .heldEvents] s (restoreRecords n bs s) := by
  induction n generalizing bs s with
  | zero => exact Only.refl _
  | succ n ih =>
    unfold restoreRecords
    split
    · exact Only.refl _
    · exact (restoreRecord_only ..).trans (ih ..)

theorem restoreSlot_only (slotB : Bool) (s : State) :
    Only [.config, .shadow, .results, .events, .ports, .storeQueue, .heldEvents] s (restoreSlot slotB s) := by
  unfold restoreSlot
  repeat' first
    | with_reducible exact Only.refl _
    | with_reducible assumption
    | (extract_lets +onlyGivenNames y
       first
         | (refine Only.have_ y ?_ fun _ => ?_; subst y; rotate_left; clear_value y)
         | clear_value y | skip)
    | ((with_reducible apply Only.step (restoreRecords_only ..)); (case hs => decide))
    | ((with_reducible apply Only.step (raise_only ..)); (case hs => decide))
    | ((with_reducible apply Only.step (setRes_only ..)); (case hs => decide))
    | split

theorem rewriteTie_only (s : State) :
    Only [.storeQueue] s (rewriteTie s) := by
  unfold rewriteTie
  repeat' first
    | with_reducible exact Only.refl _
    | with_reducible assumption
    | (extract_lets +onlyGivenNames y
       first
         | (refine Only.have_ y ?_ fun _ => ?_; subst y; rotate_left; clear_value y)
         | clear_value y | skip)
    | ((with_reducible apply Only.step (queueProgram_only ..)); (case hs => decide))
    | (with_reducible apply Only.foldl)
    | intro t a ht
    | split

theorem readImage_only (s : State) :
    Only [.config, .shadow, .results, .events, .ports, .storeQueue, .heldEvents] s (readImage s) := by
  unfold readImage
  repeat' first
    | with_reducible exact Only.refl _
    | with_reducible assumption
    | (extract_lets +onlyGivenNames y
       first
         | (refine Only.have_ y ?_ fun _ => ?_; subst y; rotate_left; clear_value y)
         | clear_value y | skip)
    | ((with_reducible apply Only.step (rewriteTie_only ..)); (case hs => decide))
    | ((with_reducible apply Only.step (restoreSlot_only ..)); (case hs => decide))
    | ((with_reducible apply Only.step (raise_only ..)); (case hs => decide))
    | ((with_reducible apply Only.step (setRes_only ..)); (case hs => decide))
    | split

theorem mirrorRing_only (next top : Nat) (s : State) :
    Only [.storeQueue] s (mirrorRing next top s) := by
  refine ⟨fun p hp => ?_, Nat.le_refl _, fun c => { c with mirror := slice_wf _ _ _ _ c.store }⟩
  cases p <;> first | exact absurd hp (by decide) | exact rfl

theorem readLog_only (s : State) :
    Only [.results, .storeQueue] s (readLog s).2.2 := by
  unfold readLog
  repeat' first
    | with_reducible exact Only.refl _
    | with_reducible assumption
    | (extract_lets +onlyGivenNames y
       first
         | (refine Only.have_ y ?_ fun _ => ?_; subst y; rotate_left; clear_value y)
         | clear_value y | skip)
    | ((with_reducible apply Only.step (mirrorRing_only ..)); (case hs => decide))
    | ((with_reducible apply Only.step (setRes_only ..)); (case hs => decide))
    | ((with_reducible apply Only.step (bumpGen_only ..)); (case hs => decide))
    | (with_reducible apply Only.foldl)
    | intro t a ht
    | split

theorem execLogGatherTimeout_only (s : State) :
    Runs [.now, .storeQueue] s (execLogGatherTimeout s) := by
  unfold execLogGatherTimeout
  repeat' first
    | with_reducible apply Runs.next
    | with_reducible exact Only.refl _
    | with_reducible assumption
    | (extract_lets +onlyGivenNames y
       first
         | (refine Only.have_ y ?_ fun _ => ?_; subst y; rotate_left; clear_value y)
         | clear_value y | skip)
    | ((with_reducible apply Only.step (flushGather_only ..)); (case hs => decide))
    | ((with_reducible apply Only.step (advanceTo_only ..)); (case hs => decide))
    | split

end Sys2Proof.Machine
end

