-- ==== Sys2Proof/Laws/FramesDram.lean ====
section
/-! SUPPORT. What each definition of Machine/Dram.lean changes. -/

set_option Elab.async false

set_option linter.tactic.unusedName false

namespace Sys2Proof.Machine

theorem poisonLine_only (l : Nat) (s : State) :
    Only [.results, .dram] s (poisonLine l s) := by
  unfold poisonLine
  repeat' first
    | with_reducible exact Only.refl _
    | with_reducible assumption
    | (extract_lets +onlyGivenNames y
       first
         | (refine Only.have_ y ?_ fun _ => ?_; subst y; rotate_left; clear_value y)
         | (have _z : DramSt := y; subst y) | clear_value y | skip)
    | ((with_reducible apply Only.step (setRes_only ..)); (case hs => decide))
    | with_reducible refine Only.upd_dram ?_

theorem lineWritten_only (l : Nat) (s : State) :
    Only [.results, .dram] s (lineWritten l s) := by
  unfold lineWritten
  repeat' first
    | with_reducible exact Only.refl _
    | with_reducible assumption
    | (extract_lets +onlyGivenNames y
       first
         | (refine Only.have_ y ?_ fun _ => ?_; subst y; rotate_left; clear_value y)
         | (have _z : DramSt := y; subst y) | clear_value y | skip)
    | ((with_reducible apply Only.step (setRes_only ..)); (case hs => decide))
    | split
    | with_reducible refine Only.upd_dram ?_

theorem stageBytes_only (n : Nat) (s : State) :
    Only [.results, .dram, .free] s (stageBytes n s) := by
  unfold stageBytes
  repeat' first
    | with_reducible exact Only.refl _
    | with_reducible assumption
    | (extract_lets +onlyGivenNames y
       first
         | (refine Only.have_ y ?_ fun _ => ?_; subst y; rotate_left; clear_value y)
         | clear_value y | skip)
    | ((with_reducible apply Only.step (lineWritten_only ..)); (case hs => decide))
    | ((with_reducible apply Only.step (draw_only ..)); (case hs => decide))
    | (with_reducible apply Only.foldl)
    | intro t a ht
    | (split <;> refine Only.have_ _ (Only.snd ?_ (by assumption)) fun _ => ?_)
    | split

theorem setChan_only (c : Nat) (x : ChanSt) (s : State) :
    Only [.dram] s (setChan c x s) := by
  unfold setChan
  repeat' first
    | with_reducible exact Only.refl _
    | with_reducible assumption
    | (extract_lets +onlyGivenNames y
       first
         | (refine Only.have_ y ?_ fun _ => ?_; subst y; rotate_left; clear_value y)
         | (have _z : DramSt := y; subst y) | clear_value y | skip)
    | with_reducible refine Only.upd_dram ?_

theorem showChan_only (c : Nat) (st : Nat) (s : State) :
    Only [.results] s (showChan c st s) := by
  unfold showChan
  repeat' first
    | with_reducible exact Only.refl _
    | with_reducible assumption
    | (extract_lets +onlyGivenNames y
       first
         | (refine Only.have_ y ?_ fun _ => ?_; subst y; rotate_left; clear_value y)
         | clear_value y | skip)
    | ((with_reducible apply Only.step (changeRes_only ..)); (case hs => decide))

theorem showChannels_only (s : State) :
    Only [.results] s (showChannels s) := by
  unfold showChannels
  repeat' first
    | with_reducible exact Only.refl _
    | with_reducible assumption
    | (extract_lets +onlyGivenNames y
       first
         | (refine Only.have_ y ?_ fun _ => ?_; subst y; rotate_left; clear_value y)
         | clear_value y | skip)
    | ((with_reducible apply Only.step (changeRes_only ..)); (case hs => decide))
    | (with_reducible apply Only.foldl)
    | intro t a ht

theorem retireChannel_only (c : Nat) (trigger : Nat) (s : State) :
    Only [.results, .events, .ports, .storeState, .storeQueue, .heldEvents, .pipe, .dram, .resil] s (retireChannel c trigger s) := by
  unfold retireChannel
  repeat' first
    | with_reducible exact Only.refl _
    | with_reducible assumption
    | (extract_lets +onlyGivenNames y
       first
         | (refine Only.have_ y ?_ fun _ => ?_; subst y; rotate_left; clear_value y)
         | (have _z : DramSt := y; subst y) | clear_value y | skip)
    | ((with_reducible apply Only.step (showChan_only ..)); (case hs => decide))
    | ((with_reducible apply Only.step (setChan_only ..)); (case hs => decide))
    | ((with_reducible apply Only.step (stressRateCheck_only ..)); (case hs => decide))
    | ((with_reducible apply Only.step (fellRecord_only ..)); (case hs => decide))
    | ((with_reducible apply Only.step (settle_only ..)); (case hs => decide))
    | ((with_reducible apply Only.step (raise_only ..)); (case hs => decide))
    | ((with_reducible apply Only.step (setRes_only ..)); (case hs => decide))
    | split
    | with_reducible refine Only.upd_dram ?_

theorem endMigration_only (lost : Bool) (s : State) :
    Only [.results, .events, .ports, .storeQueue, .heldEvents, .dram, .free] s (endMigration lost s) := by
  unfold endMigration
  repeat' first
    | with_reducible exact Only.refl _
    | with_reducible assumption
    | (extract_lets +onlyGivenNames y
       first
         | (refine Only.have_ y ?_ fun _ => ?_; subst y; rotate_left; clear_value y)
         | (have _z : DramSt := y; subst y) | clear_value y | skip)
    | ((with_reducible apply Only.step (showChannels_only ..)); (case hs => decide))
    | ((with_reducible apply Only.step (showChan_only ..)); (case hs => decide))
    | ((with_reducible apply Only.step (setChan_only ..)); (case hs => decide))
    | ((with_reducible apply Only.step (raise_only ..)); (case hs => decide))
    | ((with_reducible apply Only.step (setRes_only ..)); (case hs => decide))
    | ((with_reducible apply Only.step (draw_only ..)); (case hs => decide))
    | (split <;> refine Only.have_ _ (Only.snd ?_ (by assumption)) fun _ => ?_)
    | split
    | with_reducible refine Only.upd_dram ?_

theorem rowNotHeld_only (c : Nat) (bk : Nat) (row : Nat) (cause : Nat) (s : State) :
    Only [.results, .events, .ports, .storeState, .storeQueue, .heldEvents, .pipe, .dram, .resil] s (rowNotHeld c bk row cause s) := by
  unfold rowNotHeld
  repeat' first
    | with_reducible exact Only.refl _
    | with_reducible assumption
    | (extract_lets +onlyGivenNames y
       first
         | (refine Only.have_ y ?_ fun _ => ?_; subst y; rotate_left; clear_value y)
         | clear_value y | skip)
    | ((with_reducible apply Only.step (retireChannel_only ..)); (case hs => decide))
    | ((with_reducible apply Only.step (setChan_only ..)); (case hs => decide))
    | ((with_reducible apply Only.step (raise_only ..)); (case hs => decide))
    | split

theorem rowFails_only (c : Nat) (bk : Nat) (row : Nat) (cause : Nat) (s : State) :
    Only [.results, .events, .ports, .storeState, .storeQueue, .heldEvents, .pipe, .dram, .resil] s (rowFails c bk row cause s) := by
  unfold rowFails
  repeat' first
    | with_reducible exact Only.refl _
    | with_reducible assumption
    | (extract_lets +onlyGivenNames y
       first
         | (refine Only.have_ y ?_ fun _ => ?_; subst y; rotate_left; clear_value y)
         | clear_value y | skip)
    | ((with_reducible apply Only.step (rowNotHeld_only ..)); (case hs => decide))
    | ((with_reducible apply Only.step (setChan_only ..)); (case hs => decide))
    | ((with_reducible apply Only.step (addRepair_only ..)); (case hs => decide))
    | ((with_reducible apply Only.step (raise_only ..)); (case hs => decide))
    | ((with_reducible apply Only.step (setRes_only ..)); (case hs => decide))
    | split

theorem lineCorrected_only (l : Nat) (h : Home) (s : State) :
    Only [.results, .events, .counts, .ports, .storeState, .storeQueue, .heldEvents, .pipe, .dram, .resil] s (lineCorrected l h s) := by
  unfold lineCorrected
  repeat' first
    | with_reducible exact Only.refl _
    | with_reducible assumption
    | (extract_lets +onlyGivenNames y
       first
         | (refine Only.have_ y ?_ fun _ => ?_; subst y; rotate_left; clear_value y)
         | (have _z : DramSt := y; subst y) | clear_value y | skip)
    | ((with_reducible apply Only.step (rowFails_only ..)); (case hs => decide))
    | ((with_reducible apply Only.step (setChan_only ..)); (case hs => decide))
    | ((with_reducible apply Only.step (addCe_only ..)); (case hs => decide))
    | split
    | with_reducible refine Only.upd_dram ?_

theorem lineDead_only (l : Nat) (h : Home) (code : Nat) (data : List Nat) (s : State) :
    Only [.results, .events, .counts, .ports, .storeState, .storeQueue, .heldEvents, .pipe, .dram, .resil] s (lineDead l h code data s) := by
  unfold lineDead
  repeat' first
    | with_reducible exact Only.refl _
    | with_reducible assumption
    | (extract_lets +onlyGivenNames y
       first
         | (refine Only.have_ y ?_ fun _ => ?_; subst y; rotate_left; clear_value y)
         | clear_value y | skip)
    | ((with_reducible apply Only.step (rowFails_only ..)); (case hs => decide))
    | ((with_reducible apply Only.step (retireChannel_only ..)); (case hs => decide))
    | ((with_reducible apply Only.step (setChan_only ..)); (case hs => decide))
    | ((with_reducible apply Only.step (poisonLine_only ..)); (case hs => decide))
    | ((with_reducible apply Only.step (raise_only ..)); (case hs => decide))
    | ((with_reducible apply Only.step (addUe_only ..)); (case hs => decide))
    | ((with_reducible apply Only.step (setRes_only ..)); (case hs => decide))
    | split

theorem activate_only (c : Nat) (bk : Nat) (row : Nat) (cls : Nat) (n : Nat) (s : State) :
    Only [.results, .events, .ports, .storeQueue, .heldEvents, .dram] s (activate c bk row cls n s) := by
  unfold activate
  repeat' first
    | with_reducible exact Only.refl _
    | with_reducible assumption
    | (extract_lets +onlyGivenNames y
       first
         | (refine Only.have_ y ?_ fun _ => ?_; subst y; rotate_left; clear_value y)
         | (have _z : DramSt := y; subst y) | clear_value y | skip)
    | ((with_reducible apply Only.step (setChan_only ..)); (case hs => decide))
    | ((with_reducible apply Only.step (raise_only ..)); (case hs => decide))
    | ((with_reducible apply Only.step (incWrap_only ..)); (case hs => decide))
    | ((with_reducible apply Only.step (incSat_only ..)); (case hs => decide))
    | split
    | with_reducible refine Only.upd_dram ?_

theorem residualDead_only (l : Nat) (cause : Nat) (s : State) :
    Only [.results, .events, .ports, .storeQueue, .heldEvents, .pipe, .free] s (residualDead l cause s) := by
  unfold residualDead
  repeat' first
    | with_reducible exact Only.refl _
    | with_reducible assumption
    | (extract_lets +onlyGivenNames y
       first
         | (refine Only.have_ y ?_ fun _ => ?_; subst y; rotate_left; clear_value y)
         | (have _z : PipeSt := y; subst y) | clear_value y | skip)
    | ((with_reducible apply Only.step (raise_only ..)); (case hs => decide))
    | ((with_reducible apply Only.step (draw_only ..)); (case hs => decide))
    | (split <;> refine Only.have_ _ (Only.snd ?_ (by assumption)) fun _ => ?_)
    | split
    | with_reducible refine Only.upd_pipe ?_

theorem readMirror_only (l : Nat) (cls : Nat) (s : State) :
    Only [.results, .events, .ports, .storeQueue, .heldEvents, .dram] s (readMirror l cls s) := by
  unfold readMirror
  repeat' first
    | with_reducible exact Only.refl _
    | with_reducible assumption
    | (extract_lets +onlyGivenNames y
       first
         | (refine Only.have_ y ?_ fun _ => ?_; subst y; rotate_left; clear_value y)
         | clear_value y | skip)
    | ((with_reducible apply Only.step (activate_only ..)); (case hs => decide))
    | ((with_reducible apply Only.step (incSat_only ..)); (case hs => decide))

theorem dramRead_only (l : Nat) (cls : Nat) (attempts : List (List (Nat × Nat))) (s : State) :
    Only [.results, .events, .counts, .ports, .storeState, .storeQueue, .heldEvents, .pipe, .dram, .resil, .free] s (dramRead l cls attempts s) := by
  unfold dramRead
  repeat' first
    | with_reducible exact Only.refl _
    | with_reducible assumption
    | (extract_lets +onlyGivenNames y
       first
         | (refine Only.have_ y ?_ fun _ => ?_; subst y; rotate_left; clear_value y)
         | clear_value y | skip)
    | ((with_reducible apply Only.step (readMirror_only ..)); (case hs => decide))
    | ((with_reducible apply Only.step (residualDead_only ..)); (case hs => decide))
    | ((with_reducible apply Only.step (activate_only ..)); (case hs => decide))
    | ((with_reducible apply Only.step (lineDead_only ..)); (case hs => decide))
    | ((with_reducible apply Only.step (lineCorrected_only ..)); (case hs => decide))
    | ((with_reducible apply Only.step (incSat_only ..)); (case hs => decide))
    | split

theorem dramScrubOn_only (s : State) :
    Only [.results, .dram] s (dramScrubOn s) := by
  unfold dramScrubOn
  repeat' first
    | with_reducible exact Only.refl _
    | with_reducible assumption
    | (extract_lets +onlyGivenNames y
       first
         | (refine Only.have_ y ?_ fun _ => ?_; subst y; rotate_left; clear_value y)
         | (have _z : DramSt := y; subst y) | clear_value y | skip)
    | ((with_reducible apply Only.step (setChan_only ..)); (case hs => decide))
    | ((with_reducible apply Only.step (incWrap_only ..)); (case hs => decide))
    | (with_reducible apply Only.foldl)
    | intro t a ht
    | split
    | with_reducible refine Only.upd_dram ?_

theorem scrubLine_only (errors : List (Nat × Nat)) (s : State) :
    Only [.results, .events, .counts, .ports, .storeState, .storeQueue, .heldEvents, .pipe, .dram, .resil] s (scrubLine errors s) := by
  unfold scrubLine
  repeat' first
    | with_reducible exact Only.refl _
    | with_reducible assumption
    | (extract_lets +onlyGivenNames y
       first
         | (refine Only.have_ y ?_ fun _ => ?_; subst y; rotate_left; clear_value y)
         | clear_value y | skip)
    | ((with_reducible apply Only.step (dramScrubOn_only ..)); (case hs => decide))
    | ((with_reducible apply Only.step (activate_only ..)); (case hs => decide))
    | ((with_reducible apply Only.step (lineDead_only ..)); (case hs => decide))
    | ((with_reducible apply Only.step (lineCorrected_only ..)); (case hs => decide))
    | ((with_reducible apply Only.step (incSat_only ..)); (case hs => decide))
    | split

theorem enterSelfRefresh_only (s : State) :
    Only [.results, .dram] s (enterSelfRefresh s) := by
  unfold enterSelfRefresh
  repeat' first
    | with_reducible exact Only.refl _
    | with_reducible assumption
    | (extract_lets +onlyGivenNames y
       first
         | (refine Only.have_ y ?_ fun _ => ?_; subst y; rotate_left; clear_value y)
         | clear_value y | skip)
    | ((with_reducible apply Only.step (showChan_only ..)); (case hs => decide))
    | ((with_reducible apply Only.step (setChan_only ..)); (case hs => decide))
    | ((with_reducible apply Only.step (incWrap_only ..)); (case hs => decide))
    | (with_reducible apply Only.foldl)
    | intro t a ht
    | split

theorem leaveSelfRefresh_only (c : Nat) (ns : Nat) (s : State) :
    Only [.results, .events, .ports, .storeQueue, .heldEvents, .dram] s (leaveSelfRefresh c ns s) := by
  unfold leaveSelfRefresh
  repeat' first
    | with_reducible exact Only.refl _
    | with_reducible assumption
    | (extract_lets +onlyGivenNames y
       first
         | (refine Only.have_ y ?_ fun _ => ?_; subst y; rotate_left; clear_value y)
         | clear_value y | skip)
    | ((with_reducible apply Only.step (showChan_only ..)); (case hs => decide))
    | ((with_reducible apply Only.step (setChan_only ..)); (case hs => decide))
    | ((with_reducible apply Only.step (raise_only ..)); (case hs => decide))
    | ((with_reducible apply Only.step (incWrap_only ..)); (case hs => decide))
    | ((with_reducible apply Only.step (setRes_only ..)); (case hs => decide))
    | split

theorem repairRow_only (c : Nat) (bk : Nat) (row : Nat) (s : State) :
    Only [.results, .events, .ports, .storeState, .storeQueue, .heldEvents, .dram] s (repairRow c bk row s) := by
  unfold repairRow
  repeat' first
    | with_reducible exact Only.refl _
    | with_reducible assumption
    | (extract_lets +onlyGivenNames y
       first
         | (refine Only.have_ y ?_ fun _ => ?_; subst y; rotate_left; clear_value y)
         | clear_value y | skip)
    | ((with_reducible apply Only.step (setChan_only ..)); (case hs => decide))
    | ((with_reducible apply Only.step (dropRepair_only ..)); (case hs => decide))
    | ((with_reducible apply Only.step (raise_only ..)); (case hs => decide))
    | ((with_reducible apply Only.step (setRes_only ..)); (case hs => decide))
    | ((with_reducible apply Only.step (setResAt_only ..)); (case hs => decide))
    | split

theorem execDramReadComplete_only (l : Nat) (cls : Nat) (attempts : List (List (Nat × Nat))) (s : State) :
    Runs [.results, .events, .counts, .ports, .storeState, .storeQueue, .heldEvents, .pipe, .dram, .resil, .free] s (execDramReadComplete l cls attempts s) := by
  unfold execDramReadComplete
  repeat' first
    | with_reducible apply Runs.next
    | with_reducible exact Only.refl _
    | with_reducible assumption
    | (extract_lets +onlyGivenNames y
       first
         | (refine Only.have_ y ?_ fun _ => ?_; subst y; rotate_left; clear_value y)
         | clear_value y | skip)
    | ((with_reducible apply Only.step (dramRead_only ..)); (case hs => decide))
    | split

theorem execDramScrubStep_only (errors : List (Nat × Nat)) (s : State) :
    Runs [.results, .events, .counts, .ports, .storeState, .storeQueue, .heldEvents, .pipe, .dram, .resil] s (execDramScrubStep errors s) := by
  unfold execDramScrubStep
  repeat' first
    | with_reducible apply Runs.next
    | with_reducible exact Only.refl _
    | with_reducible assumption
    | (extract_lets +onlyGivenNames y
       first
         | (refine Only.have_ y ?_ fun _ => ?_; subst y; rotate_left; clear_value y)
         | clear_value y | skip)
    | ((with_reducible apply Only.step (scrubLine_only ..)); (case hs => decide))
    | split

theorem execDramRefreshDue_only (c : Nat) (bank : Nat) (rate : Nat) (s : State) :
    Runs [.results, .dram] s (execDramRefreshDue c bank rate s) := by
  unfold execDramRefreshDue
  repeat' first
    | with_reducible apply Runs.next
    | with_reducible exact Only.refl _
    | with_reducible assumption
    | (extract_lets +onlyGivenNames y
       first
         | (refine Only.have_ y ?_ fun _ => ?_; subst y; rotate_left; clear_value y)
         | clear_value y | skip)
    | ((with_reducible apply Only.step (setChan_only ..)); (case hs => decide))
    | ((with_reducible apply Only.step (changeRes_only ..)); (case hs => decide))
    | split

theorem execRdTableClear_only (s : State) :
    Runs [.dram] s (execRdTableClear s) := by
  unfold execRdTableClear
  repeat' first
    | with_reducible apply Runs.next
    | with_reducible exact Only.refl _
    | with_reducible assumption
    | (extract_lets +onlyGivenNames y
       first
         | (refine Only.have_ y ?_ fun _ => ?_; subst y; rotate_left; clear_value y)
         | clear_value y | skip)
    | ((with_reducible apply Only.step (setChan_only ..)); (case hs => decide))
    | (with_reducible apply Only.foldl)
    | intro t a ht

theorem execThrottleExpiry_only (cls : Nat) (s : State) :
    Runs [.now, .dram] s (execThrottleExpiry cls s) := by
  unfold execThrottleExpiry
  repeat' first
    | with_reducible apply Runs.next
    | with_reducible exact Only.refl _
    | with_reducible assumption
    | (extract_lets +onlyGivenNames y
       first
         | (refine Only.have_ y ?_ fun _ => ?_; subst y; rotate_left; clear_value y)
         | (have _z : DramSt := y; subst y) | clear_value y | skip)
    | ((with_reducible apply Only.step (advanceTo_only ..)); (case hs => decide))
    | split
    | with_reducible refine Only.upd_dram ?_

theorem execDramRequestPromotion_only (c : Nat) (s : State) :
    Runs [.dram] s (execDramRequestPromotion c s) := by
  unfold execDramRequestPromotion
  repeat' first
    | with_reducible apply Runs.next
    | with_reducible exact Only.refl _
    | with_reducible assumption
    | (extract_lets +onlyGivenNames y
       first
         | (refine Only.have_ y ?_ fun _ => ?_; subst y; rotate_left; clear_value y)
         | (have _z : DramSt := y; subst y) | clear_value y | skip)
    | split
    | with_reducible refine Only.upd_dram ?_

theorem execFineRetrainTimer_only (c : Nat) (drift : Int) (s : State) :
    Runs [.now, .results, .dram] s (execFineRetrainTimer c drift s) := by
  unfold execFineRetrainTimer
  repeat' first
    | with_reducible apply Runs.next
    | with_reducible exact Only.refl _
    | with_reducible assumption
    | (extract_lets +onlyGivenNames y
       first
         | (refine Only.have_ y ?_ fun _ => ?_; subst y; rotate_left; clear_value y)
         | clear_value y | skip)
    | ((with_reducible apply Only.step (setChan_only ..)); (case hs => decide))
    | ((with_reducible apply Only.step (incWrap_only ..)); (case hs => decide))
    | ((with_reducible apply Only.step (setResI_only ..)); (case hs => decide))
    | ((with_reducible apply Only.step (advanceTo_only ..)); (case hs => decide))
    | split

theorem execFullRetrainPiece_only (c : Nat) (last : Bool) (failed : Bool) (s : State) :
    Runs [.results, .events, .ports, .storeState, .storeQueue, .heldEvents, .pipe, .dram, .resil, .free] s (execFullRetrainPiece c last failed s) := by
  unfold execFullRetrainPiece
  repeat' first
    | with_reducible apply Runs.next
    | with_reducible exact Only.refl _
    | with_reducible assumption
    | (extract_lets +onlyGivenNames y
       first
         | (refine Only.have_ y ?_ fun _ => ?_; subst y; rotate_left; clear_value y)
         | clear_value y | skip)
    | ((with_reducible apply Only.step (retireChannel_only ..)); (case hs => decide))
    | ((with_reducible apply Only.step (setChan_only ..)); (case hs => decide))
    | ((with_reducible apply Only.step (raise_only ..)); (case hs => decide))
    | ((with_reducible apply Only.step (incSat_only ..)); (case hs => decide))
    | ((with_reducible apply Only.step (setResI_only ..)); (case hs => decide))
    | ((with_reducible apply Only.step (draw_only ..)); (case hs => decide))
    | (split <;> refine Only.have_ _ (Only.snd ?_ (by assumption)) fun _ => ?_)
    | split

theorem execDramIdleTimeout_only (s : State) :
    Runs [.results, .dram] s (execDramIdleTimeout s) := by
  unfold execDramIdleTimeout
  repeat' first
    | with_reducible apply Runs.next
    | with_reducible exact Only.refl _
    | with_reducible assumption
    | (extract_lets +onlyGivenNames y
       first
         | (refine Only.have_ y ?_ fun _ => ?_; subst y; rotate_left; clear_value y)
         | clear_value y | skip)
    | ((with_reducible apply Only.step (enterSelfRefresh_only ..)); (case hs => decide))
    | ((with_reducible apply Only.step (incSat_only ..)); (case hs => decide))
    | split

end Sys2Proof.Machine
end

