-- ==== Sys2Proof/Laws/FramesFrameStore.lean ====
section
/-! SUPPORT. What each definition of Machine/FrameStore.lean changes. -/

set_option Elab.async false

set_option linter.tactic.unusedName false

namespace Sys2Proof.Machine

theorem setSlot_only (n : Nat) (x : Slot) (s : State) :
    Only [.fstore] s (setSlot n x s) := by
  unfold setSlot
  repeat' first
    | with_reducible exact Only.refl _
    | with_reducible assumption
    | (extract_lets +onlyGivenNames y
       first
         | (refine Only.have_ y ?_ fun _ => ?_; subst y; rotate_left; clear_value y)
         | (have _z : StoreSt := y; subst y) | clear_value y | skip)
    | with_reducible refine Only.upd_fstore ?_

theorem changeFour_only (p : Nat) (f : Nat → Nat) (s : State) :
    Only [.results] s (changeFour p f s) := by
  unfold changeFour
  repeat' first
    | with_reducible exact Only.refl _
    | with_reducible assumption
    | (extract_lets +onlyGivenNames y
       first
         | (refine Only.have_ y ?_ fun _ => ?_; subst y; rotate_left; clear_value y)
         | clear_value y | skip)
    | ((with_reducible apply Only.step (setResList_only ..)); (case hs => decide))
    | split

theorem showSlots_only (s : State) :
    Only [.results] s (showSlots s) := by
  unfold showSlots
  repeat' first
    | with_reducible exact Only.refl _
    | with_reducible assumption
    | (extract_lets +onlyGivenNames y
       first
         | (refine Only.have_ y ?_ fun _ => ?_; subst y; rotate_left; clear_value y)
         | clear_value y | skip)
    | ((with_reducible apply Only.step (changeFour_only ..)); (case hs => decide))

theorem openSlot_only (n : Nat) (frame : Nat) (width : Nat) (height : Nat) (depth : Nat) (colour : Nat) (enc : Bool) (merged : Bool) (m : Mode) (s : State) :
    Only [.results, .fstore] s (openSlot n frame width height depth colour enc merged m s) := by
  unfold openSlot
  repeat' first
    | with_reducible exact Only.refl _
    | with_reducible assumption
    | (extract_lets +onlyGivenNames y
       first
         | (refine Only.have_ y ?_ fun _ => ?_; subst y; rotate_left; clear_value y)
         | (have _z : StoreSt := y; subst y) | clear_value y | skip)
    | ((with_reducible apply Only.step (showSlots_only ..)); (case hs => decide))
    | ((with_reducible apply Only.step (setSlot_only ..)); (case hs => decide))
    | split
    | with_reducible refine Only.upd_fstore ?_

theorem writeSegment_only (n : Nat) (y : Nat) (c : Nat) (codes : List Nat) (s : State) :
    Only [.results, .fstore, .dram] s (writeSegment n y c codes s) := by
  unfold writeSegment
  repeat' first
    | with_reducible exact Only.refl _
    | with_reducible assumption
    | (extract_lets +onlyGivenNames y
       first
         | (refine Only.have_ y ?_ fun _ => ?_; subst y; rotate_left; clear_value y)
         | (have _z : StoreSt := y; subst y) | clear_value y | skip)
    | ((with_reducible apply Only.step (setSlot_only ..)); (case hs => decide))
    | ((with_reducible apply Only.step (lineWritten_only ..)); (case hs => decide))
    | ((with_reducible apply Only.step (incWrap_only ..)); (case hs => decide))
    | ((with_reducible apply Only.step (incSat_only ..)); (case hs => decide))
    | (with_reducible apply Only.foldl)
    | intro t a ht
    | split
    | with_reducible refine Only.upd_fstore ?_

theorem completeSlot_only (n : Nat) (s : State) :
    Only [.results, .fstore] s (completeSlot n s) := by
  unfold completeSlot
  repeat' first
    | with_reducible exact Only.refl _
    | with_reducible assumption
    | (extract_lets +onlyGivenNames y
       first
         | (refine Only.have_ y ?_ fun _ => ?_; subst y; rotate_left; clear_value y)
         | (have _z : StoreSt := y; subst y) | clear_value y | skip)
    | ((with_reducible apply Only.step (showSlots_only ..)); (case hs => decide))
    | ((with_reducible apply Only.step (setSlot_only ..)); (case hs => decide))
    | ((with_reducible apply Only.step (incWrap_only ..)); (case hs => decide))
    | ((with_reducible apply Only.step (setRes_only ..)); (case hs => decide))
    | split
    | with_reducible refine Only.upd_fstore ?_

theorem writeStoreLine_only (n : Nat) (codes : List Nat) (s : State) :
    Only [.results, .fstore, .dram] s (writeStoreLine n codes s) := by
  unfold writeStoreLine
  repeat' first
    | with_reducible exact Only.refl _
    | with_reducible assumption
    | (extract_lets +onlyGivenNames y
       first
         | (refine Only.have_ y ?_ fun _ => ?_; subst y; rotate_left; clear_value y)
         | (have _z : StoreSt := y; subst y) | clear_value y | skip)
    | ((with_reducible apply Only.step (completeSlot_only ..)); (case hs => decide))
    | ((with_reducible apply Only.step (writeSegment_only ..)); (case hs => decide))
    | (with_reducible apply Only.foldl)
    | intro t a ht
    | split
    | with_reducible refine Only.upd_fstore ?_

theorem blockFailed.report_only (slot : Nat) (c : Nat) (yf : Nat) (cause : Nat) (x : Slot) (s : State) :
    Only [.results, .events, .ports, .storeQueue, .heldEvents, .fstore] s (blockFailed.report slot c yf cause x s) := by
  unfold blockFailed.report
  repeat' first
    | with_reducible exact Only.refl _
    | with_reducible assumption
    | (extract_lets +onlyGivenNames y
       first
         | (refine Only.have_ y ?_ fun _ => ?_; subst y; rotate_left; clear_value y)
         | clear_value y | skip)
    | ((with_reducible apply Only.step (setSlot_only ..)); (case hs => decide))
    | ((with_reducible apply Only.step (raise_only ..)); (case hs => decide))
    | ((with_reducible apply Only.step (incSat_only ..)); (case hs => decide))
    | split

theorem blockFailed_only (slot : Nat) (c : Nat) (yf : Nat) (cause : Nat) (s : State) :
    Only [.results, .events, .ports, .storeQueue, .heldEvents, .fstore] s (blockFailed slot c yf cause s) := by
  unfold blockFailed
  repeat' first
    | with_reducible exact Only.refl _
    | with_reducible assumption
    | (extract_lets +onlyGivenNames y
       first
         | (refine Only.have_ y ?_ fun _ => ?_; subst y; rotate_left; clear_value y)
         | clear_value y | skip)
    | ((with_reducible apply Only.step (blockFailed.report_only ..)); (case hs => decide))
    | split

theorem countRead_only (skips : Skips) (slot : Nat) (y : Nat) (a : Nat) (w : Nat) (s : State) :
    Only [.results, .events, .ports, .storeQueue, .heldEvents, .pipe, .fstore] s (countRead skips slot y a w s) := by
  unfold countRead
  repeat' first
    | with_reducible exact Only.refl _
    | with_reducible assumption
    | (extract_lets +onlyGivenNames y
       first
         | (refine Only.have_ y ?_ fun _ => ?_; subst y; rotate_left; clear_value y)
         | (have _z : PipeSt := y; subst y) | clear_value y | skip)
    | ((with_reducible apply Only.step (blockFailed_only ..)); (case hs => decide))
    | ((with_reducible apply Only.step (incWrap_only ..)); (case hs => decide))
    | (with_reducible apply Only.foldl)
    | intro t a ht
    | split
    | with_reducible refine Only.upd_pipe ?_

theorem countSubstitute_only (src : Option Nat) (m : Mode) (y : Nat) (a : Nat) (w : Nat) (s : State) :
    Only [.results, .events, .ports, .storeQueue, .heldEvents, .pipe, .fstore] s (countSubstitute src m y a w s) := by
  unfold countSubstitute
  repeat' first
    | with_reducible exact Only.refl _
    | with_reducible assumption
    | (extract_lets +onlyGivenNames y
       first
         | (refine Only.have_ y ?_ fun _ => ?_; subst y; rotate_left; clear_value y)
         | clear_value y | skip)
    | ((with_reducible apply Only.step (countRead_only ..)); (case hs => decide))
    | split

theorem storeInputLine_only (m : Mode) (codes : List Nat) (bad : List (Nat × Nat)) (s : State) :
    Only [.results, .events, .ports, .storeQueue, .heldEvents, .pipe, .fstore, .dram] s (storeInputLine m codes bad s) := by
  unfold storeInputLine
  repeat' first
    | with_reducible exact Only.refl _
    | with_reducible assumption
    | (extract_lets +onlyGivenNames y
       first
         | (refine Only.have_ y ?_ fun _ => ?_; subst y; rotate_left; clear_value y)
         | clear_value y | skip)
    | ((with_reducible apply Only.step (countSubstitute_only ..)); (case hs => decide))
    | ((with_reducible apply Only.step (writeStoreLine_only ..)); (case hs => decide))
    | (with_reducible apply Only.foldl)
    | intro t a ht
    | split

theorem drawFrameKey_only (cause : Nat) (s : State) :
    Only [.results, .events, .ports, .storeQueue, .security, .heldEvents, .fstore, .free] s (drawFrameKey cause s) := by
  unfold drawFrameKey
  repeat' first
    | with_reducible exact Only.refl _
    | with_reducible assumption
    | (extract_lets +onlyGivenNames y
       first
         | (refine Only.have_ y ?_ fun _ => ?_; subst y; rotate_left; clear_value y)
         | (have _z : SecSt := y; subst y) | clear_value y | skip)
    | ((with_reducible apply Only.step (setSlot_only ..)); (case hs => decide))
    | ((with_reducible apply Only.step (raise_only ..)); (case hs => decide))
    | ((with_reducible apply Only.step (drawBytes_only ..)); (case hs => decide))
    | (with_reducible apply Only.foldl)
    | intro t a ht
    | (split <;> refine Only.have_ _ (Only.snd ?_ (by assumption)) fun _ => ?_)
    | split
    | with_reducible refine Only.upd_security ?_

theorem clearStore_only (s : State) :
    Only [.results, .fstore] s (clearStore s) := by
  unfold clearStore
  repeat' first
    | with_reducible exact Only.refl _
    | with_reducible assumption
    | (extract_lets +onlyGivenNames y
       first
         | (refine Only.have_ y ?_ fun _ => ?_; subst y; rotate_left; clear_value y)
         | (have _z : StoreSt := y; subst y) | clear_value y | skip)
    | ((with_reducible apply Only.step (showSlots_only ..)); (case hs => decide))
    | with_reducible refine Only.upd_fstore ?_

theorem displayKeyLost_only (slot : Nat) (s : State) :
    Only [.results, .events, .ports, .storeQueue, .heldEvents, .fstore] s (displayKeyLost slot s) := by
  unfold displayKeyLost
  repeat' first
    | with_reducible exact Only.refl _
    | with_reducible assumption
    | (extract_lets +onlyGivenNames y
       first
         | (refine Only.have_ y ?_ fun _ => ?_; subst y; rotate_left; clear_value y)
         | clear_value y | skip)
    | ((with_reducible apply Only.step (setSlot_only ..)); (case hs => decide))
    | ((with_reducible apply Only.step (raise_only ..)); (case hs => decide))
    | ((with_reducible apply Only.step (incSat_only ..)); (case hs => decide))
    | split

end Sys2Proof.Machine
end

