-- ==== Sys2Proof/Laws/FramesSram.lean ====
section
/-! SUPPORT. What each definition of Machine/Sram.lean changes. -/

set_option Elab.async false

set_option linter.tactic.unusedName false

namespace Sys2Proof.Machine

theorem setBank_only (b : Nat) (x : BankSt) (s : State) :
    Only [.sram] s (setBank b x s) := by
  unfold setBank
  repeat' first
    | with_reducible exact Only.refl _
    | with_reducible assumption
    | (extract_lets +onlyGivenNames y
       first
         | (refine Only.have_ y ?_ fun _ => ?_; subst y; rotate_left; clear_value y)
         | (have _z : SramSt := y; subst y) | clear_value y | skip)
    | with_reducible refine Only.upd_sram ?_

theorem setPoison_only (b : Nat) (offset : Nat) (p : Bool) (s : State) :
    Only [.results, .sram] s (setPoison b offset p s) := by
  unfold setPoison
  repeat' first
    | with_reducible exact Only.refl _
    | with_reducible assumption
    | (extract_lets +onlyGivenNames y
       first
         | (refine Only.have_ y ?_ fun _ => ?_; subst y; rotate_left; clear_value y)
         | (have _z : SramSt := y; subst y) | clear_value y | skip)
    | ((with_reducible apply Only.step (setRes_only ..)); (case hs => decide))
    | split
    | with_reducible refine Only.upd_sram ?_

theorem sramReply_only (b : Nat) (portB : Bool) (r : SramReply) (s : State) :
    Only [.sram] s (sramReply b portB r s) := by
  unfold sramReply
  repeat' first
    | with_reducible exact Only.refl _
    | with_reducible assumption
    | (extract_lets +onlyGivenNames y
       first
         | (refine Only.have_ y ?_ fun _ => ?_; subst y; rotate_left; clear_value y)
         | clear_value y | skip)
    | ((with_reducible apply Only.step (setBank_only ..)); (case hs => decide))
    | split

theorem storeLane_only (b : Nat) (offset : Nat) (lane : Nat) (v : Nat) (s : State) :
    Only [.sramMem] s (storeLane b offset lane v s) := by
  unfold storeLane
  repeat' first
    | with_reducible exact Only.refl _
    | with_reducible assumption
    | (extract_lets +onlyGivenNames y
       first
         | (refine Only.have_ y ?_ fun _ => ?_; subst y; rotate_left; clear_value y)
         | (have _z : SramSt := y; subst y) | clear_value y | skip)
    | with_reducible refine Only.upd_sramMem ?_

theorem wordUncorrectable_only (b : Nat) (offset : Nat) (portB : Bool) (s : State) :
    Only [.results, .events, .counts, .ports, .storeQueue, .heldEvents] s (wordUncorrectable b offset portB s) := by
  unfold wordUncorrectable
  repeat' first
    | with_reducible exact Only.refl _
    | with_reducible assumption
    | (extract_lets +onlyGivenNames y
       first
         | (refine Only.have_ y ?_ fun _ => ?_; subst y; rotate_left; clear_value y)
         | clear_value y | skip)
    | ((with_reducible apply Only.step (raise_only ..)); (case hs => decide))
    | ((with_reducible apply Only.step (addUe_only ..)); (case hs => decide))
    | split

theorem refuseSecure_only (b : Nat) (offset : Nat) (op : Nat) (s : State) :
    Only [.results, .events, .ports, .storeQueue, .heldEvents, .sram] s (refuseSecure b offset op s) := by
  unfold refuseSecure
  repeat' first
    | with_reducible exact Only.refl _
    | with_reducible assumption
    | (extract_lets +onlyGivenNames y
       first
         | (refine Only.have_ y ?_ fun _ => ?_; subst y; rotate_left; clear_value y)
         | clear_value y | skip)
    | ((with_reducible apply Only.step (sramReply_only ..)); (case hs => decide))
    | ((with_reducible apply Only.step (raise_only ..)); (case hs => decide))
    | ((with_reducible apply Only.step (incSat_only ..)); (case hs => decide))
    | split

theorem rowFailing_only (b : Nat) (sub : Nat) (row : Nat) (cause : Nat) (s : State) :
    Only [.results, .events, .ports, .storeQueue, .heldEvents, .sram, .resil] s (rowFailing b sub row cause s) := by
  unfold rowFailing
  repeat' first
    | with_reducible exact Only.refl _
    | with_reducible assumption
    | (extract_lets +onlyGivenNames y
       first
         | (refine Only.have_ y ?_ fun _ => ?_; subst y; rotate_left; clear_value y)
         | clear_value y | skip)
    | ((with_reducible apply Only.step (setBank_only ..)); (case hs => decide))
    | ((with_reducible apply Only.step (settle_only ..)); (case hs => decide))
    | ((with_reducible apply Only.step (raise_only ..)); (case hs => decide))
    | split

theorem showSpares_only (b : Nat) (sub : Nat) (s : State) :
    Only [.results] s (showSpares b sub s) := by
  unfold showSpares
  repeat' first
    | with_reducible exact Only.refl _
    | with_reducible assumption
    | (extract_lets +onlyGivenNames y
       first
         | (refine Only.have_ y ?_ fun _ => ?_; subst y; rotate_left; clear_value y)
         | clear_value y | skip)
    | ((with_reducible apply Only.step (setResAt_only ..)); (case hs => decide))

theorem wordCorrected_only (b : Nat) (offset : Nat) (s : State) :
    Only [.results, .events, .counts, .ports, .storeQueue, .heldEvents, .sram, .resil] s (wordCorrected b offset s) := by
  unfold wordCorrected
  repeat' first
    | with_reducible exact Only.refl _
    | with_reducible assumption
    | (extract_lets +onlyGivenNames y
       first
         | (refine Only.have_ y ?_ fun _ => ?_; subst y; rotate_left; clear_value y)
         | clear_value y | skip)
    | ((with_reducible apply Only.step (rowFailing_only ..)); (case hs => decide))
    | ((with_reducible apply Only.step (setBank_only ..)); (case hs => decide))
    | ((with_reducible apply Only.step (addCe_only ..)); (case hs => decide))
    | split

theorem keepWord_only (b : Nat) (offset : Nat) (bs : List Nat) (s : State) :
    Only [.sramMem] s (keepWord b offset bs s) := by
  unfold keepWord
  repeat' first
    | with_reducible exact Only.refl _
    | with_reducible assumption
    | (extract_lets +onlyGivenNames y
       first
         | (refine Only.have_ y ?_ fun _ => ?_; subst y; rotate_left; clear_value y)
         | (have _z : SramSt := y; subst y) | clear_value y | skip)
    | split
    | with_reducible refine Only.upd_sramMem ?_

theorem readWord_only (b : Nat) (offset : Nat) (portB : Bool) (reads : List (List (Nat × Nat))) (s : State) :
    Only [.results, .events, .counts, .ports, .storeQueue, .heldEvents, .sramMem, .sram, .resil] s (readWord b offset portB reads s).2 := by
  unfold readWord
  repeat' first
    | with_reducible exact Only.refl _
    | with_reducible assumption
    | (extract_lets +onlyGivenNames y
       first
         | (refine Only.have_ y ?_ fun _ => ?_; subst y; rotate_left; clear_value y)
         | clear_value y | skip)
    | ((with_reducible apply Only.step (keepWord_only ..)); (case hs => decide))
    | ((with_reducible apply Only.step (wordCorrected_only ..)); (case hs => decide))
    | ((with_reducible apply Only.step (rowFailing_only ..)); (case hs => decide))
    | ((with_reducible apply Only.step (wordUncorrectable_only ..)); (case hs => decide))
    | ((with_reducible apply Only.step (setPoison_only ..)); (case hs => decide))
    | split

theorem sramPerform_only (b : Nat) (portB : Bool) (op : SramOp) (s : State) :
    Only [.results, .events, .counts, .ports, .storeQueue, .heldEvents, .sramMem, .sram, .resil] s (sramPerform b portB op s) := by
  unfold sramPerform
  repeat' first
    | with_reducible exact Only.refl _
    | with_reducible assumption
    | (extract_lets +onlyGivenNames y
       first
         | (refine Only.have_ y ?_ fun _ => ?_; subst y; rotate_left; clear_value y)
         | clear_value y | skip)
    | ((with_reducible apply Only.step (readWord_only ..)); (case hs => decide))
    | ((with_reducible apply Only.step (keepWord_only ..)); (case hs => decide))
    | ((with_reducible apply Only.step (refuseSecure_only ..)); (case hs => decide))
    | ((with_reducible apply Only.step (storeLane_only ..)); (case hs => decide))
    | ((with_reducible apply Only.step (sramReply_only ..)); (case hs => decide))
    | ((with_reducible apply Only.step (setPoison_only ..)); (case hs => decide))
    | ((with_reducible apply Only.step (incWrap_only ..)); (case hs => decide))
    | (with_reducible apply Only.foldl)
    | intro t a ht
    | (split <;> refine Only.have_ _ (Only.snd ?_ (by assumption)) fun _ => ?_)
    | split

theorem sramStall_only (b : Nat) (x : SramOp) (y : SramOp) (s : State) :
    Only [.results, .events, .counts, .ports, .storeQueue, .heldEvents, .sramMem, .sram, .resil] s (sramStall b x y s) := by
  unfold sramStall
  repeat' first
    | with_reducible exact Only.refl _
    | with_reducible assumption
    | (extract_lets +onlyGivenNames y
       first
         | (refine Only.have_ y ?_ fun _ => ?_; subst y; rotate_left; clear_value y)
         | clear_value y | skip)
    | ((with_reducible apply Only.step (sramPerform_only ..)); (case hs => decide))
    | ((with_reducible apply Only.step (incWrap_only ..)); (case hs => decide))

theorem sramMeet_only (b : Nat) (x : SramOp) (y : SramOp) (s : State) :
    Only [.results, .events, .counts, .ports, .storeQueue, .heldEvents, .sramMem, .sram, .resil] s (sramMeet b x y s) := by
  unfold sramMeet
  repeat' first
    | with_reducible exact Only.refl _
    | with_reducible assumption
    | (extract_lets +onlyGivenNames y
       first
         | (refine Only.have_ y ?_ fun _ => ?_; subst y; rotate_left; clear_value y)
         | clear_value y | skip)
    | ((with_reducible apply Only.step (sramStall_only ..)); (case hs => decide))
    | ((with_reducible apply Only.step (sramPerform_only ..)); (case hs => decide))
    | ((with_reducible apply Only.step (sramReply_only ..)); (case hs => decide))
    | ((with_reducible apply Only.step (raise_only ..)); (case hs => decide))
    | ((with_reducible apply Only.step (incSat_only ..)); (case hs => decide))
    | split

theorem sramSlot_only (b : Nat) (x : SramOp) (y : SramOp) (s : State) :
    Only [.results, .events, .counts, .ports, .storeQueue, .heldEvents, .sramMem, .sram, .resil] s (sramSlot b x y s) := by
  unfold sramSlot
  repeat' first
    | with_reducible exact Only.refl _
    | with_reducible assumption
    | (extract_lets +onlyGivenNames y
       first
         | (refine Only.have_ y ?_ fun _ => ?_; subst y; rotate_left; clear_value y)
         | clear_value y | skip)
    | ((with_reducible apply Only.step (sramMeet_only ..)); (case hs => decide))
    | ((with_reducible apply Only.step (sramStall_only ..)); (case hs => decide))
    | ((with_reducible apply Only.step (sramPerform_only ..)); (case hs => decide))
    | split

theorem sramAtomic_only (b : Nat) (portB : Bool) (offset : Nat) (lane : Nat) (f : AtomicOp) (s : State) :
    Only [.results, .events, .counts, .ports, .storeQueue, .heldEvents, .sramMem, .sram, .resil] s (sramAtomic b portB offset lane f s) := by
  unfold sramAtomic
  repeat' first
    | with_reducible exact Only.refl _
    | with_reducible assumption
    | (extract_lets +onlyGivenNames y
       first
         | (refine Only.have_ y ?_ fun _ => ?_; subst y; rotate_left; clear_value y)
         | clear_value y | skip)
    | ((with_reducible apply Only.step (sramPerform_only ..)); (case hs => decide))
    | split

theorem scrubOn_only (b : Nat) (s : State) :
    Only [.results, .sram] s (scrubOn b s) := by
  unfold scrubOn
  repeat' first
    | with_reducible exact Only.refl _
    | with_reducible assumption
    | (extract_lets +onlyGivenNames y
       first
         | (refine Only.have_ y ?_ fun _ => ?_; subst y; rotate_left; clear_value y)
         | (have _z : SramSt := y; subst y) | clear_value y | skip)
    | ((with_reducible apply Only.step (setBank_only ..)); (case hs => decide))
    | ((with_reducible apply Only.step (incWrap_only ..)); (case hs => decide))
    | split
    | with_reducible refine Only.upd_sram ?_

theorem scrubWord_only (b : Nat) (reads : List (List (Nat × Nat))) (s : State) :
    Only [.results, .events, .counts, .ports, .storeQueue, .heldEvents, .sramMem, .sram, .resil] s (scrubWord b reads s) := by
  unfold scrubWord
  repeat' first
    | with_reducible exact Only.refl _
    | with_reducible assumption
    | (extract_lets +onlyGivenNames y
       first
         | (refine Only.have_ y ?_ fun _ => ?_; subst y; rotate_left; clear_value y)
         | clear_value y | skip)
    | ((with_reducible apply Only.step (scrubOn_only ..)); (case hs => decide))
    | ((with_reducible apply Only.step (readWord_only ..)); (case hs => decide))
    | (split <;> refine Only.have_ _ (Only.snd ?_ (by assumption)) fun _ => ?_)

theorem wipeSecure_only (cause : Nat) (s : State) :
    Only [.results, .events, .ports, .storeQueue, .heldEvents, .sramMem, .sram, .resil, .free] s (wipeSecure cause s) := by
  unfold wipeSecure
  repeat' first
    | with_reducible exact Only.refl _
    | with_reducible assumption
    | (extract_lets +onlyGivenNames y
       first
         | (refine Only.have_ y ?_ fun _ => ?_; subst y; rotate_left; clear_value y)
         | (have _z : SramSt := y; subst y) | clear_value y | skip)
    | ((with_reducible apply Only.step (setBank_only ..)); (case hs => decide))
    | ((with_reducible apply Only.step (settle_only ..)); (case hs => decide))
    | ((with_reducible apply Only.step (raise_only ..)); (case hs => decide))
    | ((with_reducible apply Only.step (incSat_only ..)); (case hs => decide))
    | ((with_reducible apply Only.step (setRes_only ..)); (case hs => decide))
    | ((with_reducible apply Only.step (draw_only ..)); (case hs => decide))
    | (split <;> refine Only.have_ _ (Only.snd ?_ (by assumption)) fun _ => ?_)
    | split
    | with_reducible refine Only.upd_sramMem_sram ?_

theorem clearSram_only (s : State) :
    Only [.results, .sramMem, .sram] s (clearSram s) := by
  unfold clearSram
  repeat' first
    | with_reducible exact Only.refl _
    | with_reducible assumption
    | (extract_lets +onlyGivenNames y
       first
         | (refine Only.have_ y ?_ fun _ => ?_; subst y; rotate_left; clear_value y)
         | (have _z : SramSt := y; subst y) | clear_value y | skip)
    | ((with_reducible apply Only.step (changeRes_only ..)); (case hs => decide))
    | (with_reducible apply Only.foldl)
    | intro t a ht
    | with_reducible refine Only.upd_sramMem_sram ?_

theorem initSram_only (s : State) :
    Only [.results, .sramMem, .sram] s (initSram s) := by
  unfold initSram
  repeat' first
    | with_reducible exact Only.refl _
    | with_reducible assumption
    | (extract_lets +onlyGivenNames y
       first
         | (refine Only.have_ y ?_ fun _ => ?_; subst y; rotate_left; clear_value y)
         | (have _z : SramSt := y; subst y) | clear_value y | skip)
    | ((with_reducible apply Only.step (clearSram_only ..)); (case hs => decide))
    | ((with_reducible apply Only.step (setBank_only ..)); (case hs => decide))
    | ((with_reducible apply Only.step (setResList_only ..)); (case hs => decide))
    | (with_reducible apply Only.foldl)
    | intro t a ht
    | split
    | with_reducible refine Only.upd_sram ?_

theorem testWindow_only (fault : Bool) (held : Option Nat) (s : State) :
    Only [.results, .events, .ports, .storeQueue, .heldEvents, .sram, .resil] s (testWindow fault held s) := by
  unfold testWindow
  repeat' first
    | with_reducible exact Only.refl _
    | with_reducible assumption
    | (extract_lets +onlyGivenNames y
       first
         | (refine Only.have_ y ?_ fun _ => ?_; subst y; rotate_left; clear_value y)
         | (have _z : SramSt := y; subst y) | clear_value y | skip)
    | ((with_reducible apply Only.step (rowFailing_only ..)); (case hs => decide))
    | ((with_reducible apply Only.step (raise_only ..)); (case hs => decide))
    | ((with_reducible apply Only.step (incWrap_only ..)); (case hs => decide))
    | ((with_reducible apply Only.step (incSat_only ..)); (case hs => decide))
    | ((with_reducible apply Only.step (setRes_only ..)); (case hs => decide))
    | split
    | with_reducible refine Only.upd_sram ?_

theorem execSpareCopyDone_only (b : Nat) (s : State) :
    Runs [.results, .events, .ports, .storeState, .storeQueue, .heldEvents, .sram] s (execSpareCopyDone b s) := by
  unfold execSpareCopyDone
  repeat' first
    | with_reducible apply Runs.next
    | with_reducible exact Only.refl _
    | with_reducible assumption
    | (extract_lets +onlyGivenNames y
       first
         | (refine Only.have_ y ?_ fun _ => ?_; subst y; rotate_left; clear_value y)
         | clear_value y | skip)
    | ((with_reducible apply Only.step (showSpares_only ..)); (case hs => decide))
    | ((with_reducible apply Only.step (setBank_only ..)); (case hs => decide))
    | ((with_reducible apply Only.step (fellRecord_only ..)); (case hs => decide))
    | ((with_reducible apply Only.step (raise_only ..)); (case hs => decide))
    | ((with_reducible apply Only.step (setRes_only ..)); (case hs => decide))
    | split

theorem execSramAccess_only (b : Nat) (x : Option SramOp) (y : Option SramOp) (s : State) :
    Runs [.results, .events, .counts, .ports, .storeQueue, .heldEvents, .sramMem, .sram, .resil] s (execSramAccess b x y s) := by
  unfold execSramAccess
  repeat' first
    | with_reducible apply Runs.next
    | with_reducible exact Only.refl _
    | with_reducible assumption
    | (extract_lets +onlyGivenNames y
       first
         | (refine Only.have_ y ?_ fun _ => ?_; subst y; rotate_left; clear_value y)
         | clear_value y | skip)
    | ((with_reducible apply Only.step (sramSlot_only ..)); (case hs => decide))
    | ((with_reducible apply Only.step (sramPerform_only ..)); (case hs => decide))
    | split

theorem execAddWrap_only (b : Nat) (portB : Bool) (offset : Nat) (lane : Nat) (delta : Int) (s : State) :
    Runs [.results, .events, .counts, .ports, .storeQueue, .heldEvents, .sramMem, .sram, .resil] s (execAddWrap b portB offset lane delta s) := by
  unfold execAddWrap
  repeat' first
    | with_reducible apply Runs.next
    | with_reducible exact Only.refl _
    | with_reducible assumption
    | (extract_lets +onlyGivenNames y
       first
         | (refine Only.have_ y ?_ fun _ => ?_; subst y; rotate_left; clear_value y)
         | clear_value y | skip)
    | ((with_reducible apply Only.step (sramAtomic_only ..)); (case hs => decide))

theorem execAddSat_only (b : Nat) (portB : Bool) (offset : Nat) (lane : Nat) (delta : Int) (s : State) :
    Runs [.results, .events, .counts, .ports, .storeQueue, .heldEvents, .sramMem, .sram, .resil] s (execAddSat b portB offset lane delta s) := by
  unfold execAddSat
  repeat' first
    | with_reducible apply Runs.next
    | with_reducible exact Only.refl _
    | with_reducible assumption
    | (extract_lets +onlyGivenNames y
       first
         | (refine Only.have_ y ?_ fun _ => ?_; subst y; rotate_left; clear_value y)
         | clear_value y | skip)
    | ((with_reducible apply Only.step (sramAtomic_only ..)); (case hs => decide))

theorem execSwap_only (b : Nat) (portB : Bool) (offset : Nat) (lane : Nat) (value : Nat) (s : State) :
    Runs [.results, .events, .counts, .ports, .storeQueue, .heldEvents, .sramMem, .sram, .resil] s (execSwap b portB offset lane value s) := by
  unfold execSwap
  repeat' first
    | with_reducible apply Runs.next
    | with_reducible exact Only.refl _
    | with_reducible assumption
    | (extract_lets +onlyGivenNames y
       first
         | (refine Only.have_ y ?_ fun _ => ?_; subst y; rotate_left; clear_value y)
         | clear_value y | skip)
    | ((with_reducible apply Only.step (sramAtomic_only ..)); (case hs => decide))

theorem execSramScrubStep_only (b : Nat) (reads : List (List (Nat × Nat))) (s : State) :
    Runs [.results, .events, .counts, .ports, .storeQueue, .heldEvents, .sramMem, .sram, .resil] s (execSramScrubStep b reads s) := by
  unfold execSramScrubStep
  repeat' first
    | with_reducible apply Runs.next
    | with_reducible exact Only.refl _
    | with_reducible assumption
    | (extract_lets +onlyGivenNames y
       first
         | (refine Only.have_ y ?_ fun _ => ?_; subst y; rotate_left; clear_value y)
         | clear_value y | skip)
    | ((with_reducible apply Only.step (scrubWord_only ..)); (case hs => decide))
    | split

theorem execTestWindow_only (fault : Bool) (held : Option Nat) (s : State) :
    Runs [.results, .events, .ports, .storeQueue, .heldEvents, .sram, .resil] s (execTestWindow fault held s) := by
  unfold execTestWindow
  repeat' first
    | with_reducible apply Runs.next
    | with_reducible exact Only.refl _
    | with_reducible assumption
    | (extract_lets +onlyGivenNames y
       first
         | (refine Only.have_ y ?_ fun _ => ?_; subst y; rotate_left; clear_value y)
         | clear_value y | skip)
    | ((with_reducible apply Only.step (testWindow_only ..)); (case hs => decide))
    | split

end Sys2Proof.Machine
end

