-- ==== Sys2Proof/Laws/FramesCompose.lean ====
section
/-! SUPPORT. What each definition of Machine/Compose.lean changes. -/

set_option Elab.async false

set_option linter.tactic.unusedName false

namespace Sys2Proof.Machine

theorem showBuffers_only (s : State) :
    Only [.results] s (showBuffers s) := by
  unfold showBuffers
  repeat' first
    | with_reducible exact Only.refl _
    | with_reducible assumption
    | (extract_lets +onlyGivenNames y
       first
         | (refine Only.have_ y ?_ fun _ => ?_; subst y; rotate_left; clear_value y)
         | clear_value y | skip)
    | ((with_reducible apply Only.step (incWrap_only ..)); (case hs => decide))
    | ((with_reducible apply Only.step (setResAt_only ..)); (case hs => decide))
    | (with_reducible apply Only.foldl)
    | intro t a ht
    | split

theorem overlayRefused_only (s : State) :
    Only [.results] s (overlayRefused s) := by
  unfold overlayRefused
  repeat' first
    | with_reducible exact Only.refl _
    | with_reducible assumption
    | (extract_lets +onlyGivenNames y
       first
         | (refine Only.have_ y ?_ fun _ => ?_; subst y; rotate_left; clear_value y)
         | clear_value y | skip)
    | ((with_reducible apply Only.step (incSat_only ..)); (case hs => decide))

theorem writeOverlay_only (off : Nat) (bs : List Nat) (s : State) :
    Only [.results, .sramMem, .sram] s (writeOverlay off bs s) := by
  unfold writeOverlay
  repeat' first
    | with_reducible exact Only.refl _
    | with_reducible assumption
    | (extract_lets +onlyGivenNames y
       first
         | (refine Only.have_ y ?_ fun _ => ?_; subst y; rotate_left; clear_value y)
         | (have _z : SramSt := y; subst y) | clear_value y | skip)
    | ((with_reducible apply Only.step (setPoison_only ..)); (case hs => decide))
    | (with_reducible apply Only.foldl)
    | intro t a ht
    | split
    | with_reducible refine Only.upd_sramMem ?_

end Sys2Proof.Machine
end

