-- ==== Sys2Proof/Laws/FramesResil.lean ====
section
/-! SUPPORT. What each definition of Machine/Resil.lean changes. -/

set_option Elab.async false

set_option linter.tactic.unusedName false

namespace Sys2Proof.Machine

theorem setTile_only (st : Nat) (t : Nat) (x : TileSt) (s : State) :
    Only [.pipe] s (setTile st t x s) := by
  unfold setTile
  repeat' first
    | with_reducible exact Only.refl _
    | with_reducible assumption
    | (extract_lets +onlyGivenNames y
       first
         | (refine Only.have_ y ?_ fun _ => ?_; subst y; rotate_left; clear_value y)
         | (have _z : PipeSt := y; subst y) | clear_value y | skip)
    | with_reducible refine Only.upd_pipe ?_

theorem commandVcore_only (mv : Nat) (s : State) :
    Only [.resil] s (commandVcore mv s) := by
  unfold commandVcore
  repeat' first
    | with_reducible exact Only.refl _
    | with_reducible assumption
    | (extract_lets +onlyGivenNames y
       first
         | (refine Only.have_ y ?_ fun _ => ?_; subst y; rotate_left; clear_value y)
         | (have _z : ResilSt := y; subst y) | clear_value y | skip)
    | with_reducible refine Only.upd_resil ?_

theorem vcoreConfirmed_only (mv : Nat) (s : State) :
    Only [.results, .resil] s (vcoreConfirmed mv s) := by
  unfold vcoreConfirmed
  repeat' first
    | with_reducible exact Only.refl _
    | with_reducible assumption
    | (extract_lets +onlyGivenNames y
       first
         | (refine Only.have_ y ?_ fun _ => ?_; subst y; rotate_left; clear_value y)
         | (have _z : ResilSt := y; subst y) | clear_value y | skip)
    | ((with_reducible apply Only.step (changeRes_only ..)); (case hs => decide))
    | with_reducible refine Only.upd_resil ?_

theorem vcoreMissed_only (s : State) :
    Only [.results, .events, .ports, .storeQueue, .heldEvents, .resil] s (vcoreMissed s) := by
  unfold vcoreMissed
  repeat' first
    | with_reducible exact Only.refl _
    | with_reducible assumption
    | (extract_lets +onlyGivenNames y
       first
         | (refine Only.have_ y ?_ fun _ => ?_; subst y; rotate_left; clear_value y)
         | (have _z : ResilSt := y; subst y) | clear_value y | skip)
    | ((with_reducible apply Only.step (raise_only ..)); (case hs => decide))
    | ((with_reducible apply Only.step (incSat_only ..)); (case hs => decide))
    | split
    | with_reducible refine Only.upd_resil ?_

theorem showSpare_only (st : Nat) (s : State) :
    Only [.results] s (showSpare st s) := by
  unfold showSpare
  repeat' first
    | with_reducible exact Only.refl _
    | with_reducible assumption
    | (extract_lets +onlyGivenNames y
       first
         | (refine Only.have_ y ?_ fun _ => ?_; subst y; rotate_left; clear_value y)
         | clear_value y | skip)
    | ((with_reducible apply Only.step (changeRes_only ..)); (case hs => decide))
    | (with_reducible apply Only.foldl)
    | intro t a ht
    | split

theorem takeOver_only (st : Nat) (s : State) :
    Only [.results, .pipe] s (takeOver st s) := by
  unfold takeOver
  repeat' first
    | with_reducible exact Only.refl _
    | with_reducible assumption
    | (extract_lets +onlyGivenNames y
       first
         | (refine Only.have_ y ?_ fun _ => ?_; subst y; rotate_left; clear_value y)
         | (have _z : PipeSt := y; subst y) | clear_value y | skip)
    | ((with_reducible apply Only.step (showSpare_only ..)); (case hs => decide))
    | split
    | with_reducible refine Only.upd_pipe ?_

theorem takeOvers_only (s : State) :
    Only [.results, .pipe] s (takeOvers s) := by
  unfold takeOvers
  repeat' first
    | with_reducible exact Only.refl _
    | with_reducible assumption
    | (extract_lets +onlyGivenNames y
       first
         | (refine Only.have_ y ?_ fun _ => ?_; subst y; rotate_left; clear_value y)
         | clear_value y | skip)
    | ((with_reducible apply Only.step (takeOver_only ..)); (case hs => decide))
    | (with_reducible apply Only.foldl)
    | intro t a ht

theorem fellNow_only (st : Nat) (t : Nat) (cause : Nat) (s : State) :
    Only [.results, .events, .ports, .storeState, .storeQueue, .heldEvents, .pipe] s (fellNow st t cause s) := by
  unfold fellNow
  repeat' first
    | with_reducible exact Only.refl _
    | with_reducible assumption
    | (extract_lets +onlyGivenNames y
       first
         | (refine Only.have_ y ?_ fun _ => ?_; subst y; rotate_left; clear_value y)
         | (have _z : PipeSt := y; subst y) | clear_value y | skip)
    | ((with_reducible apply Only.step (takeOver_only ..)); (case hs => decide))
    | ((with_reducible apply Only.step (showSpare_only ..)); (case hs => decide))
    | ((with_reducible apply Only.step (setTile_only ..)); (case hs => decide))
    | ((with_reducible apply Only.step (fellRecord_only ..)); (case hs => decide))
    | ((with_reducible apply Only.step (raise_only ..)); (case hs => decide))
    | ((with_reducible apply Only.step (incSat_only ..)); (case hs => decide))
    | split
    | with_reducible refine Only.upd_pipe ?_

theorem withhold_only (st : Nat) (t : Nat) (cause : Nat) (why : Nat) (s : State) :
    Only [.results, .events, .ports, .storeQueue, .heldEvents, .pipe] s (withhold st t cause why s) := by
  unfold withhold
  repeat' first
    | with_reducible exact Only.refl _
    | with_reducible assumption
    | (extract_lets +onlyGivenNames y
       first
         | (refine Only.have_ y ?_ fun _ => ?_; subst y; rotate_left; clear_value y)
         | clear_value y | skip)
    | ((with_reducible apply Only.step (setTile_only ..)); (case hs => decide))
    | ((with_reducible apply Only.step (raise_only ..)); (case hs => decide))
    | ((with_reducible apply Only.step (incSat_only ..)); (case hs => decide))

theorem fellTile_only (st : Nat) (t : Nat) (cause : Nat) (s : State) :
    Only [.results, .events, .ports, .storeState, .storeQueue, .heldEvents, .pipe] s (fellTile st t cause s) := by
  unfold fellTile
  repeat' first
    | with_reducible exact Only.refl _
    | with_reducible assumption
    | (extract_lets +onlyGivenNames y
       first
         | (refine Only.have_ y ?_ fun _ => ?_; subst y; rotate_left; clear_value y)
         | clear_value y | skip)
    | ((with_reducible apply Only.step (withhold_only ..)); (case hs => decide))
    | ((with_reducible apply Only.step (fellNow_only ..)); (case hs => decide))
    | split

theorem decideAfresh_only (s : State) :
    Only [.results, .events, .ports, .storeState, .storeQueue, .heldEvents, .pipe] s (decideAfresh s).2 := by
  refine Only.foldl2 (fun x y h => ?_) _ _ (Only.refl _)
  split
  · exact h
  · exact h.trans ((fellTile_only ..).mono (by decide))

theorem dropWithheld_only (s : State) :
    Only [.pipe] s (dropWithheld s) := by
  unfold dropWithheld
  exact Only.upd_pipe (Only.refl _) (by decide)

theorem showMargins_only (req : Nat) (s : State) :
    Only [.results, .pipe] s (showMargins req s) := by
  unfold showMargins
  repeat' first
    | with_reducible exact Only.refl _
    | with_reducible assumption
    | (extract_lets +onlyGivenNames y
       first
         | (refine Only.have_ y ?_ fun _ => ?_; subst y; rotate_left; clear_value y)
         | clear_value y | skip)
    | ((with_reducible apply Only.step (setTile_only ..)); (case hs => decide))
    | ((with_reducible apply Only.step (setRes_only ..)); (case hs => decide))
    | ((with_reducible apply Only.step (setResI_only ..)); (case hs => decide))
    | (with_reducible apply Only.foldl)
    | intro t a ht
    | split

theorem clearPeriod_only (s : State) :
    Only [.pipe] s (clearPeriod s) := by
  unfold clearPeriod
  repeat' first
    | with_reducible exact Only.refl _
    | with_reducible assumption
    | (extract_lets +onlyGivenNames y
       first
         | (refine Only.have_ y ?_ fun _ => ?_; subst y; rotate_left; clear_value y)
         | (have _z : PipeSt := y; subst y) | clear_value y | skip)
    | (with_reducible apply Only.foldl)
    | intro t a ht
    | with_reducible refine Only.upd_pipe ?_

theorem fellSpare_only (s : State) :
    Only [.results, .events, .ports, .storeState, .storeQueue, .heldEvents, .pipe] s (fellSpare s) := by
  unfold fellSpare
  repeat' first
    | with_reducible exact Only.refl _
    | with_reducible assumption
    | (extract_lets +onlyGivenNames y
       first
         | (refine Only.have_ y ?_ fun _ => ?_; subst y; rotate_left; clear_value y)
         | clear_value y | skip)
    | ((with_reducible apply Only.step (fellNow_only ..)); (case hs => decide))
    | split

theorem showModeLimit_only (limit : Option (Nat × Nat × Nat)) (s : State) :
    Only [.results, .events, .ports, .storeQueue, .heldEvents, .pipe, .resil] s (showModeLimit limit s) := by
  unfold showModeLimit
  repeat' first
    | with_reducible exact Only.refl _
    | with_reducible assumption
    | (extract_lets +onlyGivenNames y
       first
         | (refine Only.have_ y ?_ fun _ => ?_; subst y; rotate_left; clear_value y)
         | (have _z : PipeSt := y; subst y) | (have _z : ResilSt := y; subst y) | clear_value y | skip)
    | ((with_reducible apply Only.step (raise_only ..)); (case hs => decide))
    | split
    | with_reducible refine Only.upd_pipe_resil ?_
    | with_reducible refine Only.upd_pipe ?_
    | with_reducible refine Only.upd_resil ?_

theorem markFailed_only (s : State) :
    Only [.results, .events, .ports, .storeQueue, .heldEvents, .pipe, .resil] s (markFailed s) := by
  unfold markFailed
  repeat' first
    | with_reducible exact Only.refl _
    | with_reducible assumption
    | (extract_lets +onlyGivenNames y
       first
         | (refine Only.have_ y ?_ fun _ => ?_; subst y; rotate_left; clear_value y)
         | clear_value y | skip)
    | ((with_reducible apply Only.step (setTile_only ..)); (case hs => decide))
    | ((with_reducible apply Only.step (settle_only ..)); (case hs => decide))
    | ((with_reducible apply Only.step (unitsUp_only ..)); (case hs => decide))
    | ((with_reducible apply Only.step (raise_only ..)); (case hs => decide))
    | (with_reducible apply Only.foldl)
    | intro t a ht
    | split

theorem marginStep_only (s : State) :
    Only [.results, .events, .ports, .storeState, .storeQueue, .heldEvents, .pipe, .resil] s (marginStep s) := by
  unfold marginStep
  repeat' first
    | with_reducible exact Only.refl _
    | with_reducible assumption
    | (extract_lets +onlyGivenNames y
       first
         | (refine Only.have_ y ?_ fun _ => ?_; subst y; rotate_left; clear_value y)
         | (have _z : ResilSt := y; subst y) | clear_value y | skip)
    | ((with_reducible apply Only.step (showModeLimit_only ..)); (case hs => decide))
    | ((with_reducible apply Only.step (fellTile_only ..)); (case hs => decide))
    | ((with_reducible apply Only.step (commandVcore_only ..)); (case hs => decide))
    | ((with_reducible apply Only.step (raise_only ..)); (case hs => decide))
    | ((with_reducible apply Only.step (incSat_only ..)); (case hs => decide))
    | ((with_reducible apply Only.step (setRes_only ..)); (case hs => decide))
    | split
    | with_reducible refine Only.upd_resil ?_

theorem periodAction_only (s : State) :
    Only [.results, .events, .ports, .storeState, .storeQueue, .heldEvents, .pipe, .resil] s (periodAction s) := by
  unfold periodAction
  repeat' first
    | with_reducible exact Only.refl _
    | with_reducible assumption
    | (extract_lets +onlyGivenNames y
       first
         | (refine Only.have_ y ?_ fun _ => ?_; subst y; rotate_left; clear_value y)
         | clear_value y | skip)
    | ((with_reducible apply Only.step (marginStep_only ..)); (case hs => decide))
    | ((with_reducible apply Only.step (fellSpare_only ..)); (case hs => decide))
    | ((with_reducible apply Only.step (dropWithheld_only ..)); (case hs => decide))
    | ((with_reducible apply Only.step (decideAfresh_only ..)); (case hs => decide))
    | (split <;> refine Only.have_ _ (Only.snd ?_ (by assumption)) fun _ => ?_)
    | split

theorem fastRise_only (unit : Nat) (slack : Int) (s : State) :
    Only [.results, .events, .ports, .storeQueue, .heldEvents, .resil] s (fastRise unit slack s) := by
  unfold fastRise
  repeat' first
    | with_reducible exact Only.refl _
    | with_reducible assumption
    | (extract_lets +onlyGivenNames y
       first
         | (refine Only.have_ y ?_ fun _ => ?_; subst y; rotate_left; clear_value y)
         | (have _z : ResilSt := y; subst y) | clear_value y | skip)
    | ((with_reducible apply Only.step (commandVcore_only ..)); (case hs => decide))
    | ((with_reducible apply Only.step (raise_only ..)); (case hs => decide))
    | ((with_reducible apply Only.step (incSat_only ..)); (case hs => decide))
    | split
    | with_reducible refine Only.upd_resil ?_

theorem planRamp_only (m : Mode) (s : State) :
    Only [.resil] s (planRamp m s) := by
  unfold planRamp
  repeat' first
    | with_reducible exact Only.refl _
    | with_reducible assumption
    | (extract_lets +onlyGivenNames y
       first
         | (refine Only.have_ y ?_ fun _ => ?_; subst y; rotate_left; clear_value y)
         | (have _z : ResilSt := y; subst y) | clear_value y | skip)
    | split
    | with_reducible refine Only.upd_resil ?_

theorem execMonitorMeasurement_only (u : Nat) (tcyc : Nat) (s : State) :
    Runs [.pipe] s (execMonitorMeasurement u tcyc s) := by
  unfold execMonitorMeasurement
  repeat' first
    | with_reducible apply Runs.next
    | with_reducible exact Only.refl _
    | with_reducible assumption
    | (extract_lets +onlyGivenNames y
       first
         | (refine Only.have_ y ?_ fun _ => ?_; subst y; rotate_left; clear_value y)
         | (have _z : PipeSt := y; subst y) | clear_value y | skip)
    | ((with_reducible apply Only.step (setTile_only ..)); (case hs => decide))
    | split
    | with_reducible refine Only.upd_pipe ?_

theorem execMarginPeriod_only (s : State) :
    Runs [.now, .results, .events, .ports, .storeState, .storeQueue, .heldEvents, .pipe, .resil] s (execMarginPeriod s) := by
  unfold execMarginPeriod
  repeat' first
    | with_reducible apply Runs.next
    | with_reducible exact Only.refl _
    | with_reducible assumption
    | (extract_lets +onlyGivenNames y
       first
         | (refine Only.have_ y ?_ fun _ => ?_; subst y; rotate_left; clear_value y)
         | (have _z : ResilSt := y; subst y) | clear_value y | skip)
    | ((with_reducible apply Only.step (periodAction_only ..)); (case hs => decide))
    | ((with_reducible apply Only.step (markFailed_only ..)); (case hs => decide))
    | ((with_reducible apply Only.step (clearPeriod_only ..)); (case hs => decide))
    | ((with_reducible apply Only.step (showMargins_only ..)); (case hs => decide))
    | ((with_reducible apply Only.step (incWrap_only ..)); (case hs => decide))
    | ((with_reducible apply Only.step (advanceTo_only ..)); (case hs => decide))
    | split
    | with_reducible refine Only.upd_resil ?_

theorem execVcoreRampStep_only (s : State) :
    Runs [.resil] s (execVcoreRampStep s) := by
  unfold execVcoreRampStep
  repeat' first
    | with_reducible apply Runs.next
    | with_reducible exact Only.refl _
    | with_reducible assumption
    | (extract_lets +onlyGivenNames y
       first
         | (refine Only.have_ y ?_ fun _ => ?_; subst y; rotate_left; clear_value y)
         | (have _z : ResilSt := y; subst y) | clear_value y | skip)
    | ((with_reducible apply Only.step (commandVcore_only ..)); (case hs => decide))
    | split
    | with_reducible refine Only.upd_resil ?_

end Sys2Proof.Machine
end

