-- ==== Sys2Proof/Laws/FramesPipe.lean ====
section
/-! SUPPORT. What each definition of Machine/Pipe.lean changes. -/

set_option Elab.async false

set_option linter.tactic.unusedName false

namespace Sys2Proof.Machine

theorem noteOverlays_only (f : Vals) (a : Nat) (w : Nat) (y : Nat) (s : State) :
    Only [.results, .events, .counts, .ports, .storeQueue, .heldEvents] s (noteOverlays f a w y s) := by
  unfold noteOverlays
  repeat' first
    | with_reducible exact Only.refl _
    | with_reducible assumption
    | (extract_lets +onlyGivenNames y
       first
         | (refine Only.have_ y ?_ fun _ => ?_; subst y; rotate_left; clear_value y)
         | clear_value y | skip)
    | ((with_reducible apply Only.step (raise_only ..)); (case hs => decide))
    | ((with_reducible apply Only.step (addUe_only ..)); (case hs => decide))
    | (with_reducible apply Only.foldl)
    | intro t a ht

theorem noteTables_only (st : Nat) (y : Nat) (words : List Nat) (s : State) :
    Only [.results, .events, .counts, .ports, .storeQueue, .heldEvents, .pipe] s (noteTables st y words s) := by
  unfold noteTables
  repeat' first
    | with_reducible exact Only.refl _
    | with_reducible assumption
    | (extract_lets +onlyGivenNames y
       first
         | (refine Only.have_ y ?_ fun _ => ?_; subst y; rotate_left; clear_value y)
         | (have _z : PipeSt := y; subst y) | clear_value y | skip)
    | ((with_reducible apply Only.step (raise_only ..)); (case hs => decide))
    | ((with_reducible apply Only.step (addUe_only ..)); (case hs => decide))
    | ((with_reducible apply Only.step (addCe_only ..)); (case hs => decide))
    | (with_reducible apply Only.foldl)
    | intro t a ht
    | split
    | with_reducible refine Only.upd_pipe ?_

theorem repairTables_only (s : State) :
    Only [.results, .pipe, .sram] s (repairTables s) := by
  unfold repairTables
  repeat' first
    | with_reducible exact Only.refl _
    | with_reducible assumption
    | (extract_lets +onlyGivenNames y
       first
         | (refine Only.have_ y ?_ fun _ => ?_; subst y; rotate_left; clear_value y)
         | (have _z : PipeSt := y; subst y) | clear_value y | skip)
    | ((with_reducible apply Only.step (setPoison_only ..)); (case hs => decide))
    | ((with_reducible apply Only.step (incSat_only ..)); (case hs => decide))
    | (with_reducible apply Only.foldl)
    | intro t a ht
    | split
    | with_reducible refine Only.upd_pipe ?_

theorem noteResidual_only (m : Mode) (y : Nat) (a : Nat) (w : Nat) (s : State) :
    Only [.results, .pipe] s (noteResidual m y a w s) := by
  unfold noteResidual
  repeat' first
    | with_reducible exact Only.refl _
    | with_reducible assumption
    | (extract_lets +onlyGivenNames y
       first
         | (refine Only.have_ y ?_ fun _ => ?_; subst y; rotate_left; clear_value y)
         | (have _z : PipeSt := y; subst y) | clear_value y | skip)
    | ((with_reducible apply Only.step (incSat_only ..)); (case hs => decide))
    | (with_reducible apply Only.foldl)
    | intro t a ht
    | split
    | with_reducible refine Only.upd_pipe ?_

theorem previousMissing_only (m : Mode) (y : Nat) (cause : Nat) (cols : List Nat) (s : State) :
    Only [.results, .events, .ports, .storeQueue, .heldEvents, .pipe] s (previousMissing m y cause cols s) := by
  unfold previousMissing
  repeat' first
    | with_reducible exact Only.refl _
    | with_reducible assumption
    | (extract_lets +onlyGivenNames y
       first
         | (refine Only.have_ y ?_ fun _ => ?_; subst y; rotate_left; clear_value y)
         | (have _z : PipeSt := y; subst y) | clear_value y | skip)
    | ((with_reducible apply Only.step (raise_only ..)); (case hs => decide))
    | ((with_reducible apply Only.step (incSat_only ..)); (case hs => decide))
    | (with_reducible apply Only.foldl)
    | intro t a ht
    | split
    | with_reducible refine Only.upd_pipe ?_

theorem notePrevious_only (m : Mode) (y : Nat) (a : Nat) (w : Nat) (src : SliceSrc) (s : State) :
    Only [.results, .events, .counts, .ports, .storeQueue, .heldEvents, .pipe, .fstore] s (notePrevious m y a w src s) := by
  unfold notePrevious
  repeat' first
    | with_reducible exact Only.refl _
    | with_reducible assumption
    | (extract_lets +onlyGivenNames y
       first
         | (refine Only.have_ y ?_ fun _ => ?_; subst y; rotate_left; clear_value y)
         | clear_value y | skip)
    | ((with_reducible apply Only.step (previousMissing_only ..)); (case hs => decide))
    | ((with_reducible apply Only.step (noteOverlays_only ..)); (case hs => decide))
    | ((with_reducible apply Only.step (countRead_only ..)); (case hs => decide))
    | split

theorem noteCovered_only (f : Vals) (a : Nat) (w : Nat) (y : Nat) (s : State) :
    Only [.results] s (noteCovered f a w y s) := by
  unfold noteCovered
  repeat' first
    | with_reducible exact Only.refl _
    | with_reducible assumption
    | (extract_lets +onlyGivenNames y
       first
         | (refine Only.have_ y ?_ fun _ => ?_; subst y; rotate_left; clear_value y)
         | clear_value y | skip)
    | ((with_reducible apply Only.step (incWrap_only ..)); (case hs => decide))
    | split

theorem freeLanding_only (m : Mode) (s : State) :
    Only [.rx] s (freeLanding m s) := by
  unfold freeLanding
  repeat' first
    | with_reducible exact Only.refl _
    | with_reducible assumption
    | (extract_lets +onlyGivenNames y
       first
         | (refine Only.have_ y ?_ fun _ => ?_; subst y; rotate_left; clear_value y)
         | (have _z : RxSt := y; subst y) | clear_value y | skip)
    | (with_reducible apply Only.foldl)
    | intro t a ht
    | with_reducible refine Only.upd_rx ?_

theorem queueSlice_only (m : Mode) (port : Nat) (line : Nat) (a : Nat) (r : List Nat × List Coded) (subst : Bool) (s : State) :
    Only [.rx, .pipe] s (queueSlice m port line a r subst s) := by
  unfold queueSlice
  repeat' first
    | with_reducible exact Only.refl _
    | with_reducible assumption
    | (extract_lets +onlyGivenNames y
       first
         | (refine Only.have_ y ?_ fun _ => ?_; subst y; rotate_left; clear_value y)
         | (have _z : PipeSt := y; subst y) | clear_value y | skip)
    | ((with_reducible apply Only.step (freeLanding_only ..)); (case hs => decide))
    | split
    | with_reducible refine Only.upd_pipe ?_

theorem countSubst_only (port : Nat) (reason : Nat) (s : State) :
    Only [.results] s (countSubst port reason s) := by
  unfold countSubst
  repeat' first
    | with_reducible exact Only.refl _
    | with_reducible assumption
    | (extract_lets +onlyGivenNames y
       first
         | (refine Only.have_ y ?_ fun _ => ?_; subst y; rotate_left; clear_value y)
         | clear_value y | skip)
    | ((with_reducible apply Only.step (incSat_only ..)); (case hs => decide))

theorem noteSlice_only (m : Mode) (port : Nat) (line : Nat) (a : Nat) (w : Nat) (src : SliceSrc) (s : State) :
    Only [.results, .events, .counts, .ports, .storeQueue, .heldEvents, .pipe, .fstore] s (noteSlice m port line a w src s) := by
  unfold noteSlice
  repeat' first
    | with_reducible exact Only.refl _
    | with_reducible assumption
    | (extract_lets +onlyGivenNames y
       first
         | (refine Only.have_ y ?_ fun _ => ?_; subst y; rotate_left; clear_value y)
         | (have _z : PipeSt := y; subst y) | clear_value y | skip)
    | ((with_reducible apply Only.step (countSubst_only ..)); (case hs => decide))
    | ((with_reducible apply Only.step (noteCovered_only ..)); (case hs => decide))
    | ((with_reducible apply Only.step (notePrevious_only ..)); (case hs => decide))
    | ((with_reducible apply Only.step (noteResidual_only ..)); (case hs => decide))
    | ((with_reducible apply Only.step (noteTables_only ..)); (case hs => decide))
    | ((with_reducible apply Only.step (noteOverlays_only ..)); (case hs => decide))
    | ((with_reducible apply Only.step (countSubstitute_only ..)); (case hs => decide))
    | ((with_reducible apply Only.step (countRead_only ..)); (case hs => decide))
    | split
    | with_reducible refine Only.upd_pipe ?_

theorem substituteLine_only (m : Mode) (port : Nat) (line : Nat) (a : Nat) (w : Nat) (reason : Nat) (s : State) :
    Only [.results, .events, .counts, .ports, .storeQueue, .heldEvents, .rx, .pipe, .fstore] s (substituteLine m port line a w reason s) := by
  unfold substituteLine
  repeat' first
    | with_reducible exact Only.refl _
    | with_reducible assumption
    | (extract_lets +onlyGivenNames y
       first
         | (refine Only.have_ y ?_ fun _ => ?_; subst y; rotate_left; clear_value y)
         | clear_value y | skip)
    | ((with_reducible apply Only.step (noteSlice_only ..)); (case hs => decide))
    | ((with_reducible apply Only.step (queueSlice_only ..)); (case hs => decide))

theorem missDeadline_only (m : Mode) (port : Nat) (line : Nat) (a : Nat) (w : Nat) (s : State) :
    Only [.results, .events, .counts, .ports, .storeQueue, .heldEvents, .rx, .pipe, .fstore, .resil] s (missDeadline m port line a w s) := by
  unfold missDeadline
  repeat' first
    | with_reducible exact Only.refl _
    | with_reducible assumption
    | (extract_lets +onlyGivenNames y
       first
         | (refine Only.have_ y ?_ fun _ => ?_; subst y; rotate_left; clear_value y)
         | clear_value y | skip)
    | ((with_reducible apply Only.step (substituteLine_only ..)); (case hs => decide))
    | ((with_reducible apply Only.step (queueSlice_only ..)); (case hs => decide))
    | ((with_reducible apply Only.step (fastRise_only ..)); (case hs => decide))
    | ((with_reducible apply Only.step (raise_only ..)); (case hs => decide))
    | split

theorem missUpTo_only (m : Mode) (port line a w n : Nat) (s : State) :
    Only [.results, .events, .counts, .ports, .storeQueue, .heldEvents, .rx, .pipe, .fstore, .resil] s (missUpTo m port line a w n s) := by
  induction n generalizing s with
  | zero => exact Only.refl _
  | succ n ih =>
    unfold missUpTo
    extract_lets
    split
    · exact Only.refl _
    · exact (missDeadline_only ..).trans (ih _)

theorem beatFails_only (port : Nat) (line : Nat) (place : Nat) (s : State) :
    Only [.results, .events, .ports, .storeQueue, .heldEvents, .pipe] s (beatFails port line place s) := by
  unfold beatFails
  repeat' first
    | with_reducible exact Only.refl _
    | with_reducible assumption
    | (extract_lets +onlyGivenNames y
       first
         | (refine Only.have_ y ?_ fun _ => ?_; subst y; rotate_left; clear_value y)
         | clear_value y | skip)
    | ((with_reducible apply Only.step (setTile_only ..)); (case hs => decide))
    | ((with_reducible apply Only.step (raise_only ..)); (case hs => decide))
    | ((with_reducible apply Only.step (incSat_only ..)); (case hs => decide))
    | split

theorem beatRule_only (port : Nat) (s : State) :
    Only [.results, .events, .ports, .storeState, .storeQueue, .heldEvents, .pipe] s (beatRule port s) := by
  unfold beatRule
  repeat' first
    | with_reducible exact Only.refl _
    | with_reducible assumption
    | (extract_lets +onlyGivenNames y
       first
         | (refine Only.have_ y ?_ fun _ => ?_; subst y; rotate_left; clear_value y)
         | clear_value y | skip)
    | ((with_reducible apply Only.step (fellTile_only ..)); (case hs => decide))
    | ((with_reducible apply Only.step (setTile_only ..)); (case hs => decide))
    | split

theorem noteUnshown_only (port : Nat) (line : Nat) (a : Nat) (w : Nat) (s : State) :
    Only [.results] s (noteUnshown port line a w s) := by
  unfold noteUnshown
  repeat' first
    | with_reducible exact Only.refl _
    | with_reducible assumption
    | (extract_lets +onlyGivenNames y
       first
         | (refine Only.have_ y ?_ fun _ => ?_; subst y; rotate_left; clear_value y)
         | clear_value y | skip)
    | ((with_reducible apply Only.step (countSubst_only ..)); (case hs => decide))
    | split

theorem finishLine_only (m : Mode) (port : Nat) (line : Nat) (a : Nat) (w : Nat) (src : SliceSrc) (s : State) :
    Only [.results, .events, .counts, .ports, .storeQueue, .heldEvents, .rx, .pipe, .fstore, .resil] s (finishLine m port line a w src s) := by
  unfold finishLine
  repeat' first
    | with_reducible exact Only.refl _
    | with_reducible assumption
    | (extract_lets +onlyGivenNames y
       first
         | (refine Only.have_ y ?_ fun _ => ?_; subst y; rotate_left; clear_value y)
         | clear_value y | skip)
    | ((with_reducible apply Only.step (noteUnshown_only ..)); (case hs => decide))
    | ((with_reducible apply Only.step (noteSlice_only ..)); (case hs => decide))
    | ((with_reducible apply Only.step (queueSlice_only ..)); (case hs => decide))
    | ((with_reducible apply Only.step (fastRise_only ..)); (case hs => decide))
    | ((with_reducible apply Only.step (setTile_only ..)); (case hs => decide))
    | split

theorem playLine_only (m : Mode) (port : Nat) (line : Nat) (a : Nat) (w : Nat) (beats : List Nat) (src : SliceSrc) (s : State) :
    Only [.results, .events, .counts, .ports, .storeState, .storeQueue, .heldEvents, .rx, .pipe, .fstore, .resil] s (playLine m port line a w beats src s) := by
  unfold playLine
  repeat' first
    | with_reducible exact Only.refl _
    | with_reducible assumption
    | (extract_lets +onlyGivenNames y
       first
         | (refine Only.have_ y ?_ fun _ => ?_; subst y; rotate_left; clear_value y)
         | clear_value y | skip)
    | ((with_reducible apply Only.step (finishLine_only ..)); (case hs => decide))
    | ((with_reducible apply Only.step (beatRule_only ..)); (case hs => decide))
    | ((with_reducible apply Only.step (beatFails_only ..)); (case hs => decide))
    | ((with_reducible apply Only.step (substituteLine_only ..)); (case hs => decide))
    | ((with_reducible apply Only.step (raise_only ..)); (case hs => decide))
    | ((with_reducible apply Only.step (addCe_only ..)); (case hs => decide))
    | ((with_reducible apply Only.step (incSat_only ..)); (case hs => decide))
    | split

theorem execLineDeadline_only (port : Nat) (line : Nat) (s : State) :
    Runs [.now, .results, .events, .counts, .ports, .storeQueue, .heldEvents, .rx, .pipe, .fstore, .resil] s (execLineDeadline port line s) := by
  unfold execLineDeadline
  repeat' first
    | with_reducible apply Runs.next
    | with_reducible exact Only.refl _
    | with_reducible assumption
    | (extract_lets +onlyGivenNames y
       first
         | (refine Only.have_ y ?_ fun _ => ?_; subst y; rotate_left; clear_value y)
         | clear_value y | skip)
    | ((with_reducible apply Only.step (missUpTo_only ..)); (case hs => decide))
    | ((with_reducible apply Only.step (advanceTo_only ..)); (case hs => decide))
    | split

theorem execTileLineQueued_only (port : Nat) (line : Nat) (beats : List Nat) (s : State) :
    Runs [.results, .events, .counts, .ports, .storeState, .storeQueue, .heldEvents, .rx, .pipe, .fstore, .resil] s (execTileLineQueued port line beats s) := by
  unfold execTileLineQueued
  repeat' first
    | with_reducible apply Runs.next
    | with_reducible exact Only.refl _
    | with_reducible assumption
    | (extract_lets +onlyGivenNames y
       first
         | (refine Only.have_ y ?_ fun _ => ?_; subst y; rotate_left; clear_value y)
         | clear_value y | skip)
    | ((with_reducible apply Only.step (playLine_only ..)); (case hs => decide))
    | ((with_reducible apply Only.step (beatRule_only ..)); (case hs => decide))
    | ((with_reducible apply Only.step (beatFails_only ..)); (case hs => decide))
    | ((with_reducible apply Only.step (missUpTo_only ..)); (case hs => decide))
    | ((with_reducible apply Only.step (queueSlice_only ..)); (case hs => decide))
    | ((with_reducible apply Only.step (addUe_only ..)); (case hs => decide))
    | split

end Sys2Proof.Machine
end

