-- ==== Sys2Proof/Laws/FramesPanelMap.lean ====
section
/-! SUPPORT. What each definition of Machine/PanelMap.lean changes. -/

set_option Elab.async false

set_option linter.tactic.unusedName false

namespace Sys2Proof.Machine

theorem showPending_only (n : Nat) (s : State) :
    Only [.results, .pipe] s (showPending n s) := by
  unfold showPending
  repeat' first
    | with_reducible exact Only.refl _
    | with_reducible assumption
    | (extract_lets +onlyGivenNames y
       first
         | (refine Only.have_ y ?_ fun _ => ?_; subst y; rotate_left; clear_value y)
         | (have _z : PipeSt := y; subst y) | clear_value y | skip)
    | ((with_reducible apply Only.step (changeRes_only ..)); (case hs => decide))
    | with_reducible refine Only.upd_pipe ?_

theorem startRebuild_only (cause : Nat) (s : State) :
    Only [.results, .pipe] s (startRebuild cause s) := by
  unfold startRebuild
  repeat' first
    | with_reducible exact Only.refl _
    | with_reducible assumption
    | (extract_lets +onlyGivenNames y
       first
         | (refine Only.have_ y ?_ fun _ => ?_; subst y; rotate_left; clear_value y)
         | (have _z : PipeSt := y; subst y) | clear_value y | skip)
    | ((with_reducible apply Only.step (showPending_only ..)); (case hs => decide))
    | split
    | with_reducible refine Only.upd_pipe ?_

theorem applyRows_only (s : State) :
    Only [.pipe] s (applyRows s) := by
  unfold applyRows
  repeat' first
    | with_reducible exact Only.refl _
    | with_reducible assumption
    | (extract_lets +onlyGivenNames y
       first
         | (refine Only.have_ y ?_ fun _ => ?_; subst y; rotate_left; clear_value y)
         | (have _z : PipeSt := y; subst y) | clear_value y | skip)
    | (with_reducible apply Only.foldl)
    | intro t a ht
    | split
    | with_reducible refine Only.upd_pipe ?_

theorem showDefects_only (s : State) :
    Only [.results, .pipe] s (showDefects s) := by
  unfold showDefects
  repeat' first
    | with_reducible exact Only.refl _
    | with_reducible assumption
    | (extract_lets +onlyGivenNames y
       first
         | (refine Only.have_ y ?_ fun _ => ?_; subst y; rotate_left; clear_value y)
         | (have _z : PipeSt := y; subst y) | clear_value y | skip)
    | ((with_reducible apply Only.step (changeRes_only ..)); (case hs => decide))
    | split
    | with_reducible refine Only.upd_pipe ?_

theorem applyAutoDefects_only (s : State) :
    Only [.config, .pipe] s (applyAutoDefects s) := by
  unfold applyAutoDefects
  repeat' first
    | with_reducible exact Only.refl _
    | with_reducible assumption
    | (extract_lets +onlyGivenNames y
       first
         | (refine Only.have_ y ?_ fun _ => ?_; subst y; rotate_left; clear_value y)
         | (have _z : PipeSt := y; subst y) | clear_value y | skip)
    | ((with_reducible apply Only.step (setCfg_only ..)); (case hs => decide))
    | (with_reducible apply Only.foldl)
    | intro t a ht
    | split
    | with_reducible refine Only.upd_pipe ?_

theorem stageDefect_wf (s : State) (d : Defect) (p : NMap (Option Int)) (h : mwf none p = true) :
    mwf none (stageDefect s d p) = true := by
  unfold stageDefect
  split
  · exact h
  · extract_lets l
    split
    · exact h
    · exact mwf_foldl_mput none _ _ _ _ h

/-- What a new defect of automatic detection leaves. -/
theorem candidate_only (x y c type : Nat) (s : State) :
    Only [.shadow, .results, .events, .ports, .storeQueue, .heldEvents, .pipe] s (candidate x y c type s) := by
  unfold candidate
  extract_lets a d l
  have ha : Only [.shadow, .results, .events, .ports, .storeQueue, .heldEvents, .pipe] s a := (raise_only ..).mono (by decide)
  clear_value a
  split
  · exact ha
  · split
    · exact Only.step (raise_only ..) (by decide) (Only.upd_pipe ha (by decide))
    · exact Only.step (raise_only ..) (by decide) (Only.step (incSat_only ..) (by decide)
        (Only.upd_shadow_pipe ha (by decide) (by decide) (stageDefect_wf _ _ _) id))

theorem showSweep_only (s : State) :
    Only [.results] s (showSweep s) := by
  unfold showSweep
  repeat' first
    | with_reducible exact Only.refl _
    | with_reducible assumption
    | (extract_lets +onlyGivenNames y
       first
         | (refine Only.have_ y ?_ fun _ => ?_; subst y; rotate_left; clear_value y)
         | clear_value y | skip)
    | ((with_reducible apply Only.step (changeRes_only ..)); (case hs => decide))
    | split

theorem beginSweep_only (s : State) :
    Only [.results, .pipe] s (beginSweep s) := by
  unfold beginSweep
  repeat' first
    | with_reducible exact Only.refl _
    | with_reducible assumption
    | (extract_lets +onlyGivenNames y
       first
         | (refine Only.have_ y ?_ fun _ => ?_; subst y; rotate_left; clear_value y)
         | (have _z : PipeSt := y; subst y) | clear_value y | skip)
    | ((with_reducible apply Only.step (changeRes_only ..)); (case hs => decide))
    | with_reducible refine Only.upd_pipe ?_

theorem sweepDue_only (s : State) :
    Only [.results, .events, .ports, .storeQueue, .heldEvents, .pipe] s (sweepDue s) := by
  unfold sweepDue
  repeat' first
    | with_reducible exact Only.refl _
    | with_reducible assumption
    | (extract_lets +onlyGivenNames y
       first
         | (refine Only.have_ y ?_ fun _ => ?_; subst y; rotate_left; clear_value y)
         | clear_value y | skip)
    | ((with_reducible apply Only.step (beginSweep_only ..)); (case hs => decide))
    | ((with_reducible apply Only.step (raise_only ..)); (case hs => decide))
    | split

theorem beginBatch_only (s : State) :
    Only [.results, .events, .ports, .storeQueue, .heldEvents, .pipe] s (beginBatch s) := by
  unfold beginBatch
  repeat' first
    | with_reducible exact Only.refl _
    | with_reducible assumption
    | (extract_lets +onlyGivenNames y
       first
         | (refine Only.have_ y ?_ fun _ => ?_; subst y; rotate_left; clear_value y)
         | (have _z : PipeSt := y; subst y) | clear_value y | skip)
    | ((with_reducible apply Only.step (sweepDue_only ..)); (case hs => decide))
    | ((with_reducible apply Only.step (showSweep_only ..)); (case hs => decide))
    | split
    | with_reducible refine Only.upd_pipe ?_

theorem sensePixel_only (p : Nat) (k : Nat) (raw : Nat) (s : State) :
    Only [.shadow, .results, .events, .ports, .storeQueue, .heldEvents, .pipe] s (sensePixel p k raw s) := by
  unfold sensePixel
  repeat' first
    | with_reducible exact Only.refl _
    | with_reducible assumption
    | (extract_lets +onlyGivenNames y
       first
         | (refine Only.have_ y ?_ fun _ => ?_; subst y; rotate_left; clear_value y)
         | (have _z : PipeSt := y; subst y) | clear_value y | skip)
    | ((with_reducible apply Only.step (candidate_only ..)); (case hs => decide))
    | ((with_reducible apply Only.step (raise_only ..)); (case hs => decide))
    | ((with_reducible apply Only.step (incWrap_only ..)); (case hs => decide))
    | ((with_reducible apply Only.step (incSat_only ..)); (case hs => decide))
    | ((with_reducible apply Only.step (setResList_only ..)); (case hs => decide))
    | (with_reducible apply Only.foldl)
    | intro t a ht
    | split
    | with_reducible refine Only.upd_pipe ?_

theorem resultsMissing_only (p : Nat) (n : Nat) (s : State) :
    Only [.results, .events, .ports, .storeQueue, .heldEvents] s (resultsMissing p n s) := by
  unfold resultsMissing
  repeat' first
    | with_reducible exact Only.refl _
    | with_reducible assumption
    | (extract_lets +onlyGivenNames y
       first
         | (refine Only.have_ y ?_ fun _ => ?_; subst y; rotate_left; clear_value y)
         | clear_value y | skip)
    | ((with_reducible apply Only.step (raise_only ..)); (case hs => decide))
    | ((with_reducible apply Only.step (incSat_only ..)); (case hs => decide))
    | split

theorem applyResults_only (p : Nat) (first : Nat) (n : Nat) (raws : List Nat) (valid : Nat) (s : State) :
    Only [.shadow, .results, .events, .ports, .storeQueue, .heldEvents, .pipe] s (applyResults p first n raws valid s) := by
  unfold applyResults
  repeat' first
    | with_reducible exact Only.refl _
    | with_reducible assumption
    | (extract_lets +onlyGivenNames y
       first
         | (refine Only.have_ y ?_ fun _ => ?_; subst y; rotate_left; clear_value y)
         | (have _z : PipeSt := y; subst y) | clear_value y | skip)
    | ((with_reducible apply Only.step (sensePixel_only ..)); (case hs => decide))
    | (with_reducible apply Only.foldl)
    | intro t a ht
    | split
    | with_reducible refine Only.upd_pipe ?_

theorem takeResults_only (p : Nat) (raws : List Nat) (valid : Nat) (s : State) :
    Only [.shadow, .results, .events, .ports, .storeQueue, .heldEvents, .pipe] s (takeResults p raws valid s) := by
  unfold takeResults
  repeat' first
    | with_reducible exact Only.refl _
    | with_reducible assumption
    | (extract_lets +onlyGivenNames y
       first
         | (refine Only.have_ y ?_ fun _ => ?_; subst y; rotate_left; clear_value y)
         | (have _z : PipeSt := y; subst y) | clear_value y | skip)
    | ((with_reducible apply Only.step (applyResults_only ..)); (case hs => decide))
    | ((with_reducible apply Only.step (resultsMissing_only ..)); (case hs => decide))
    | split
    | with_reducible refine Only.upd_pipe ?_

theorem missResults_only (p : Nat) (s : State) :
    Only [.shadow, .results, .events, .ports, .storeQueue, .heldEvents, .pipe] s (missResults p s) := by
  unfold missResults
  repeat' first
    | with_reducible exact Only.refl _
    | with_reducible assumption
    | (extract_lets +onlyGivenNames y
       first
         | (refine Only.have_ y ?_ fun _ => ?_; subst y; rotate_left; clear_value y)
         | clear_value y | skip)
    | ((with_reducible apply Only.step (takeResults_only ..)); (case hs => decide))

theorem finishRows_only (from_ : Nat) (to_ : Nat) (s : State) :
    Only [.pipe] s (finishRows from_ to_ s) := by
  unfold finishRows
  repeat' first
    | with_reducible exact Only.refl _
    | with_reducible assumption
    | (extract_lets +onlyGivenNames y
       first
         | (refine Only.have_ y ?_ fun _ => ?_; subst y; rotate_left; clear_value y)
         | (have _z : PipeSt := y; subst y) | clear_value y | skip)
    | (with_reducible apply Only.foldl)
    | intro t a ht
    | split
    | with_reducible refine Only.upd_pipe ?_

theorem applyHeldResults_only (s : State) :
    Only [.shadow, .results, .events, .ports, .storeQueue, .heldEvents, .pipe] s (applyHeldResults s) := by
  unfold applyHeldResults
  repeat' first
    | with_reducible exact Only.refl _
    | with_reducible assumption
    | (extract_lets +onlyGivenNames y
       first
         | (refine Only.have_ y ?_ fun _ => ?_; subst y; rotate_left; clear_value y)
         | (have _z : PipeSt := y; subst y) | clear_value y | skip)
    | ((with_reducible apply Only.step (finishRows_only ..)); (case hs => decide))
    | ((with_reducible apply Only.step (applyResults_only ..)); (case hs => decide))
    | (with_reducible apply Only.foldl)
    | intro t a ht
    | split
    | with_reducible refine Only.upd_pipe ?_

theorem endBatch_only (s : State) :
    Only [.shadow, .results, .events, .ports, .storeQueue, .heldEvents, .pipe] s (endBatch s) := by
  unfold endBatch
  repeat' first
    | with_reducible exact Only.refl _
    | with_reducible assumption
    | (extract_lets +onlyGivenNames y
       first
         | (refine Only.have_ y ?_ fun _ => ?_; subst y; rotate_left; clear_value y)
         | (have _z : PipeSt := y; subst y) | clear_value y | skip)
    | ((with_reducible apply Only.step (finishRows_only ..)); (case hs => decide))
    | ((with_reducible apply Only.step (missResults_only ..)); (case hs => decide))
    | ((with_reducible apply Only.step (showSweep_only ..)); (case hs => decide))
    | ((with_reducible apply Only.step (raise_only ..)); (case hs => decide))
    | ((with_reducible apply Only.step (incWrap_only ..)); (case hs => decide))
    | ((with_reducible apply Only.step (changeRes_only ..)); (case hs => decide))
    | (with_reducible apply Only.foldl)
    | intro t a ht
    | split
    | with_reducible refine Only.upd_pipe ?_

theorem abandonSweep_only (s : State) :
    Only [.results, .pipe] s (abandonSweep s) := by
  unfold abandonSweep
  repeat' first
    | with_reducible exact Only.refl _
    | with_reducible assumption
    | (extract_lets +onlyGivenNames y
       first
         | (refine Only.have_ y ?_ fun _ => ?_; subst y; rotate_left; clear_value y)
         | (have _z : PipeSt := y; subst y) | clear_value y | skip)
    | ((with_reducible apply Only.step (showSweep_only ..)); (case hs => decide))
    | split
    | with_reducible refine Only.upd_pipe ?_

theorem dropSweep_only (s : State) :
    Only [.results, .pipe] s (dropSweep s) := by
  unfold dropSweep
  repeat' first
    | with_reducible exact Only.refl _
    | with_reducible assumption
    | (extract_lets +onlyGivenNames y
       first
         | (refine Only.have_ y ?_ fun _ => ?_; subst y; rotate_left; clear_value y)
         | (have _z : PipeSt := y; subst y) | clear_value y | skip)
    | ((with_reducible apply Only.step (showSweep_only ..)); (case hs => decide))
    | with_reducible refine Only.upd_pipe ?_

theorem askSweep_only (s : State) :
    Only [.results, .pipe] s (askSweep s) := by
  unfold askSweep
  repeat' first
    | with_reducible exact Only.refl _
    | with_reducible assumption
    | (extract_lets +onlyGivenNames y
       first
         | (refine Only.have_ y ?_ fun _ => ?_; subst y; rotate_left; clear_value y)
         | (have _z : PipeSt := y; subst y) | clear_value y | skip)
    | ((with_reducible apply Only.step (showSweep_only ..)); (case hs => decide))
    | split
    | with_reducible refine Only.upd_pipe ?_

theorem srlUpdate_only (s : State) :
    Only [.results, .events, .ports, .storeQueue, .heldEvents, .pipe] s (srlUpdate s) := by
  unfold srlUpdate
  repeat' first
    | with_reducible exact Only.refl _
    | with_reducible assumption
    | (extract_lets +onlyGivenNames y
       first
         | (refine Only.have_ y ?_ fun _ => ?_; subst y; rotate_left; clear_value y)
         | (have _z : PipeSt := y; subst y) | clear_value y | skip)
    | ((with_reducible apply Only.step (raise_only ..)); (case hs => decide))
    | ((with_reducible apply Only.step (changeRes_only ..)); (case hs => decide))
    | (with_reducible apply Only.foldl)
    | intro t a ht
    | split
    | with_reducible refine Only.upd_pipe ?_

theorem stressSub_only (m : Mode) (f : Vals) (dt : Nat) (xd : Nat) (yd : Nat) (c : Nat) (code : Nat) (s : State) :
    Only [.pipe, .free] s (stressSub m f dt xd yd c code s) := by
  unfold stressSub
  repeat' first
    | with_reducible exact Only.refl _
    | with_reducible assumption
    | (extract_lets +onlyGivenNames y
       first
         | (refine Only.have_ y ?_ fun _ => ?_; subst y; rotate_left; clear_value y)
         | (have _z : PipeSt := y; subst y) | clear_value y | skip)
    | ((with_reducible apply Only.step (draw_only ..)); (case hs => decide))
    | (with_reducible apply Only.foldl)
    | intro t a ht
    | (split <;> refine Only.have_ _ (Only.snd ?_ (by assumption)) fun _ => ?_)
    | split
    | with_reducible refine Only.upd_pipe ?_

theorem stressFrame_only (k : Nat) (s : State) :
    Only [.pipe, .free] s (stressFrame k s) := by
  unfold stressFrame
  repeat' first
    | with_reducible exact Only.refl _
    | with_reducible assumption
    | (extract_lets +onlyGivenNames y
       first
         | (refine Only.have_ y ?_ fun _ => ?_; subst y; rotate_left; clear_value y)
         | clear_value y | skip)
    | ((with_reducible apply Only.step (stressSub_only ..)); (case hs => decide))
    | (with_reducible apply Only.foldl)
    | intro t a ht

theorem rebuildAges_only (s : State) :
    Only [.pipe] s (rebuildAges s) := by
  unfold rebuildAges
  repeat' first
    | with_reducible exact Only.refl _
    | with_reducible assumption
    | (extract_lets +onlyGivenNames y
       first
         | (refine Only.have_ y ?_ fun _ => ?_; subst y; rotate_left; clear_value y)
         | (have _z : PipeSt := y; subst y) | clear_value y | skip)
    | with_reducible refine Only.upd_pipe ?_

theorem applyAges_only (s : State) :
    Only [.results, .pipe] s (applyAges s) := by
  unfold applyAges
  repeat' first
    | with_reducible exact Only.refl _
    | with_reducible assumption
    | (extract_lets +onlyGivenNames y
       first
         | (refine Only.have_ y ?_ fun _ => ?_; subst y; rotate_left; clear_value y)
         | (have _z : PipeSt := y; subst y) | clear_value y | skip)
    | ((with_reducible apply Only.step (incWrap_only ..)); (case hs => decide))
    | ((with_reducible apply Only.step (bumpGen_only ..)); (case hs => decide))
    | split
    | with_reducible refine Only.upd_pipe ?_

theorem stressStep_only (k : Nat) (s : State) :
    Only [.results, .pipe, .free] s (stressStep k s) := by
  unfold stressStep
  repeat' first
    | with_reducible exact Only.refl _
    | with_reducible assumption
    | (extract_lets +onlyGivenNames y
       first
         | (refine Only.have_ y ?_ fun _ => ?_; subst y; rotate_left; clear_value y)
         | (have _z : PipeSt := y; subst y) | clear_value y | skip)
    | ((with_reducible apply Only.step (rebuildAges_only ..)); (case hs => decide))
    | ((with_reducible apply Only.step (stressFrame_only ..)); (case hs => decide))
    | ((with_reducible apply Only.step (incWrap_only ..)); (case hs => decide))
    | ((with_reducible apply Only.step (bumpGen_only ..)); (case hs => decide))
    | split
    | with_reducible refine Only.upd_pipe ?_

theorem showPass_only (s : State) :
    Only [.results, .events, .ports, .storeQueue, .heldEvents, .pipe] s (showPass s) := by
  unfold showPass
  repeat' first
    | with_reducible exact Only.refl _
    | with_reducible assumption
    | (extract_lets +onlyGivenNames y
       first
         | (refine Only.have_ y ?_ fun _ => ?_; subst y; rotate_left; clear_value y)
         | (have _z : PipeSt := y; subst y) | clear_value y | skip)
    | ((with_reducible apply Only.step (raise_only ..)); (case hs => decide))
    | ((with_reducible apply Only.step (changeRes_only ..)); (case hs => decide))
    | split
    | with_reducible refine Only.upd_pipe ?_

theorem noteFrameTime_only (ticks : Nat) (s : State) :
    Only [.pipe] s (noteFrameTime ticks s) := by
  unfold noteFrameTime
  repeat' first
    | with_reducible exact Only.refl _
    | with_reducible assumption
    | (extract_lets +onlyGivenNames y
       first
         | (refine Only.have_ y ?_ fun _ => ?_; subst y; rotate_left; clear_value y)
         | (have _z : PipeSt := y; subst y) | clear_value y | skip)
    | with_reducible refine Only.upd_pipe ?_

theorem flashPut_only (a : Nat) (bs : List Nat) (s : State) :
    Only [.flash] s (flashPut a bs s) := by
  unfold flashPut
  repeat' first
    | with_reducible exact Only.refl _
    | with_reducible assumption
    | (extract_lets +onlyGivenNames y
       first
         | (refine Only.have_ y ?_ fun _ => ?_; subst y; rotate_left; clear_value y)
         | (have _z : PipeSt := y; subst y) | clear_value y | skip)
    | with_reducible refine Only.upd_flash ?_

theorem judgeFlash_only (rs : List (Nat × Nat × Nat)) (s : State) :
    Only [.results, .events, .ports, .storeQueue, .heldEvents, .pipe] s (judgeFlash rs s).2 := by
  unfold judgeFlash
  repeat' first
    | with_reducible exact Only.refl _
    | with_reducible assumption
    | (extract_lets +onlyGivenNames y
       first
         | (refine Only.have_ y ?_ fun _ => ?_; subst y; rotate_left; clear_value y)
         | (have _z : PipeSt := y; subst y) | clear_value y | skip)
    | ((with_reducible apply Only.step (raise_only ..)); (case hs => decide))
    | split
    | with_reducible refine Only.upd_pipe ?_

theorem createRegions_only (s : State) :
    Only [.results, .events, .ports, .storeQueue, .heldEvents, .flash, .pipe] s (createRegions s) := by
  unfold createRegions
  split
  · exact Only.refl _
  · rename_i copy seq rs _
    have h := judgeFlash_only rs s
    generalize judgeFlash rs s = x at h ⊢
    obtain ⟨drop, t⟩ := x
    dsimp only at h ⊢
    replace h := h.mono (qs := [.results, .events, .ports, .storeQueue, .heldEvents, .flash, .pipe]) (by decide)
    split
    · exact Only.step (changeRes_only ..) (by decide) h
    · exact Only.step (flashPut_only ..) (by decide) (Only.step (changeRes_only ..) (by decide) h)

theorem readBanks_only (s : State) :
    Only [.results, .events, .ports, .storeQueue, .heldEvents] s (readBanks s).2 := by
  refine Only.foldl2 (fun x b h => ?_) _ _ (Only.refl _)
  split
  · exact h
  · split
    · exact h
    · dsimp only
      exact Only.step (raise_only ..) (by decide) h

theorem showMap_only (s : State) :
    Only [.results] s (showMap s) := by
  unfold showMap
  repeat' first
    | with_reducible exact Only.refl _
    | with_reducible assumption
    | (extract_lets +onlyGivenNames y
       first
         | (refine Only.have_ y ?_ fun _ => ?_; subst y; rotate_left; clear_value y)
         | clear_value y | skip)
    | ((with_reducible apply Only.step (changeRes_only ..)); (case hs => decide))
    | split

theorem startSave_only (s : State) :
    Only [.results, .events, .ports, .storeQueue, .heldEvents, .flash, .pipe] s (startSave s) := by
  unfold startSave
  repeat' first
    | with_reducible exact Only.refl _
    | with_reducible assumption
    | (extract_lets +onlyGivenNames y
       first
         | (refine Only.have_ y ?_ fun _ => ?_; subst y; rotate_left; clear_value y)
         | (have _z : PipeSt := y; subst y) | clear_value y | skip)
    | ((with_reducible apply Only.step (showMap_only ..)); (case hs => decide))
    | ((with_reducible apply Only.step (createRegions_only ..)); (case hs => decide))
    | split
    | with_reducible refine Only.upd_pipe ?_

theorem saveAfter_only (s : State) :
    Only [.results, .events, .ports, .storeQueue, .heldEvents, .flash, .pipe] s (saveAfter s) := by
  unfold saveAfter
  repeat' first
    | with_reducible exact Only.refl _
    | with_reducible assumption
    | (extract_lets +onlyGivenNames y
       first
         | (refine Only.have_ y ?_ fun _ => ?_; subst y; rotate_left; clear_value y)
         | clear_value y | skip)
    | ((with_reducible apply Only.step (startSave_only ..)); (case hs => decide))
    | split

theorem endLoad_only (s : State) :
    Only [.results, .events, .ports, .storeQueue, .heldEvents, .flash, .pipe] s (endLoad s) := by
  unfold endLoad
  repeat' first
    | with_reducible exact Only.refl _
    | with_reducible assumption
    | (extract_lets +onlyGivenNames y
       first
         | (refine Only.have_ y ?_ fun _ => ?_; subst y; rotate_left; clear_value y)
         | (have _z : PipeSt := y; subst y) | clear_value y | skip)
    | ((with_reducible apply Only.step (saveAfter_only ..)); (case hs => decide))
    | ((with_reducible apply Only.step (showMap_only ..)); (case hs => decide))
    | ((with_reducible apply Only.step (raise_only ..)); (case hs => decide))
    | split
    | with_reducible refine Only.upd_pipe ?_

theorem takeItems_only (reload : Bool) (patch : NMap (Option Int)) (s : State) :
    Only [.config, .shadow, .results, .dram, .free] s (takeItems reload patch s) := by
  unfold takeItems
  repeat' first
    | with_reducible exact Only.refl _
    | with_reducible assumption
    | (extract_lets +onlyGivenNames y
       first
         | (refine Only.have_ y ?_ fun _ => ?_; subst y; rotate_left; clear_value y)
         | (have _z : DictSt := y; subst y) | clear_value y | skip)
    | ((with_reducible apply Only.step (stageBytes_only ..)); (case hs => decide))
    | ((with_reducible apply Only.step (applyPatch_only ..)); (case hs => decide))
    | split
    | with_reducible refine Only.upd_shadow ?_

theorem takeBlockStress_only (is : List (Nat × Nat × Nat)) (s : State) :
    Only [.results, .pipe] s (takeBlockStress is s) := by
  unfold takeBlockStress
  repeat' first
    | with_reducible exact Only.refl _
    | with_reducible assumption
    | (extract_lets +onlyGivenNames y
       first
         | (refine Only.have_ y ?_ fun _ => ?_; subst y; rotate_left; clear_value y)
         | (have _z : PipeSt := y; subst y) | clear_value y | skip)
    | ((with_reducible apply Only.step (applyAges_only ..)); (case hs => decide))
    | split
    | with_reducible refine Only.upd_pipe ?_

theorem restoreMeans_only (s : State) :
    Only [.results, .pipe] s (restoreMeans s) := by
  unfold restoreMeans
  repeat' first
    | with_reducible exact Only.refl _
    | with_reducible assumption
    | (extract_lets +onlyGivenNames y
       first
         | (refine Only.have_ y ?_ fun _ => ?_; subst y; rotate_left; clear_value y)
         | (have _z : PipeSt := y; subst y) | clear_value y | skip)
    | ((with_reducible apply Only.step (bumpGen_only ..)); (case hs => decide))
    | split
    | with_reducible refine Only.upd_pipe ?_

theorem startRows_only (reload : Bool) (b : Nat) (seq : Nat) (size : List Nat) (s : State) :
    Only [.results, .events, .ports, .storeQueue, .heldEvents, .flash, .pipe] s (startRows reload b seq size s) := by
  unfold startRows
  repeat' first
    | with_reducible exact Only.refl _
    | with_reducible assumption
    | (extract_lets +onlyGivenNames y
       first
         | (refine Only.have_ y ?_ fun _ => ?_; subst y; rotate_left; clear_value y)
         | (have _z : PipeSt := y; subst y) | clear_value y | skip)
    | ((with_reducible apply Only.step (restoreMeans_only ..)); (case hs => decide))
    | ((with_reducible apply Only.step (endLoad_only ..)); (case hs => decide))
    | ((with_reducible apply Only.step (showPending_only ..)); (case hs => decide))
    | ((with_reducible apply Only.step (changeRes_only ..)); (case hs => decide))
    | split
    | with_reducible refine Only.upd_pipe ?_

theorem loadSmallBank_only (reload : Bool) (s : State) :
    Only [.config, .shadow, .results, .events, .ports, .storeQueue, .heldEvents, .flash, .pipe, .dram, .free] s (loadSmallBank reload s) := by
  unfold loadSmallBank
  extract_lets t
  have ht : Only [.config, .shadow, .results, .events, .ports, .storeQueue, .heldEvents, .flash, .pipe, .dram, .free] s t := by
    unfold t
    split
    · exact (judgeFlash_only ..).mono (by decide)
    · exact Only.refl _
  clear_value t
  have h := readBanks_only t
  generalize readBanks t = x at h ⊢
  obtain ⟨banks, u⟩ := x
  dsimp only at h ⊢
  replace h := h.mono (qs := [.config, .shadow, .results, .events, .ports, .storeQueue, .heldEvents, .flash, .pipe, .dram, .free]) (by decide)
  have hu := ht.trans h
  split
  · exact Only.step (endLoad_only ..) (by decide) (Only.step (changeRes_only ..) (by decide) (Only.upd_pipe hu (by decide)))
  · exact Only.step (startRows_only ..) (by decide) (Only.step (takeBlockStress_only ..) (by decide)
      (Only.step (takeItems_only ..) (by decide) hu))

theorem byteJob_only (n : Nat) (s : State) :
    Only [.results, .free] s (byteJob n s) := by
  unfold byteJob
  repeat' first
    | with_reducible exact Only.refl _
    | with_reducible assumption
    | (extract_lets +onlyGivenNames y
       first
         | (refine Only.have_ y ?_ fun _ => ?_; subst y; rotate_left; clear_value y)
         | clear_value y | skip)
    | ((with_reducible apply Only.step (incWrap_only ..)); (case hs => decide))
    | ((with_reducible apply Only.step (draw_only ..)); (case hs => decide))
    | (split <;> refine Only.have_ _ (Only.snd ?_ (by assumption)) fun _ => ?_)
    | split

theorem chunkFailed_only (kind : Nat) (row : Nat) (cause : Option Nat) (s : State) :
    Only [.results, .events, .ports, .storeQueue, .heldEvents] s (chunkFailed kind row cause s) := by
  unfold chunkFailed
  repeat' first
    | with_reducible exact Only.refl _
    | with_reducible assumption
    | (extract_lets +onlyGivenNames y
       first
         | (refine Only.have_ y ?_ fun _ => ?_; subst y; rotate_left; clear_value y)
         | clear_value y | skip)
    | ((with_reducible apply Only.step (raise_only ..)); (case hs => decide))
    | split

theorem residualRow_only (l : MapLoad) (row : Nat) (chunk : List Nat) (s : State) :
    Only [.results, .events, .ports, .storeQueue, .heldEvents, .flash, .pipe, .free] s (residualRow l row chunk s) := by
  unfold residualRow
  repeat' first
    | with_reducible exact Only.refl _
    | with_reducible assumption
    | (extract_lets +onlyGivenNames y
       first
         | (refine Only.have_ y ?_ fun _ => ?_; subst y; rotate_left; clear_value y)
         | (have _z : PipeSt := y; subst y) | clear_value y | skip)
    | ((with_reducible apply Only.step (chunkFailed_only ..)); (case hs => decide))
    | ((with_reducible apply Only.step (byteJob_only ..)); (case hs => decide))
    | ((with_reducible apply Only.step (endLoad_only ..)); (case hs => decide))
    | ((with_reducible apply Only.step (applyRows_only ..)); (case hs => decide))
    | ((with_reducible apply Only.step (startRebuild_only ..)); (case hs => decide))
    | ((with_reducible apply Only.step (showPending_only ..)); (case hs => decide))
    | split
    | with_reducible refine Only.upd_pipe ?_

theorem stressRow_only (l : MapLoad) (row : Nat) (chunk : List Nat) (s : State) :
    Only [.results, .events, .ports, .storeQueue, .heldEvents, .flash, .pipe, .free] s (stressRow l row chunk s) := by
  unfold stressRow
  repeat' first
    | with_reducible exact Only.refl _
    | with_reducible assumption
    | (extract_lets +onlyGivenNames y
       first
         | (refine Only.have_ y ?_ fun _ => ?_; subst y; rotate_left; clear_value y)
         | (have _z : PipeSt := y; subst y) | clear_value y | skip)
    | ((with_reducible apply Only.step (chunkFailed_only ..)); (case hs => decide))
    | ((with_reducible apply Only.step (byteJob_only ..)); (case hs => decide))
    | ((with_reducible apply Only.step (endLoad_only ..)); (case hs => decide))
    | ((with_reducible apply Only.step (bumpGen_only ..)); (case hs => decide))
    | split
    | with_reducible refine Only.upd_pipe ?_

theorem recoverMaps_only (s : State) :
    Only [.results, .events, .ports, .storeQueue, .heldEvents, .flash, .pipe] s (recoverMaps s) := by
  unfold recoverMaps
  repeat' first
    | with_reducible exact Only.refl _
    | with_reducible assumption
    | (extract_lets +onlyGivenNames y
       first
         | (refine Only.have_ y ?_ fun _ => ?_; subst y; rotate_left; clear_value y)
         | (have _z : PipeSt := y; subst y) | clear_value y | skip)
    | ((with_reducible apply Only.step (endLoad_only ..)); (case hs => decide))
    | ((with_reducible apply Only.step (startRebuild_only ..)); (case hs => decide))
    | ((with_reducible apply Only.step (bumpGen_only ..)); (case hs => decide))
    | (with_reducible apply Only.foldl)
    | intro t a ht
    | split
    | with_reducible refine Only.upd_pipe ?_

theorem saveRows_only (kind : Nat) (base : Nat) (seq : Nat) (n : Nat) (s : State) (data : Nat → List Nat) :
    Only [.results, .flash, .free] s (saveRows kind base seq n s data) := by
  unfold saveRows
  repeat' first
    | with_reducible exact Only.refl _
    | with_reducible assumption
    | (extract_lets +onlyGivenNames y
       first
         | (refine Only.have_ y ?_ fun _ => ?_; subst y; rotate_left; clear_value y)
         | clear_value y | skip)
    | ((with_reducible apply Only.step (byteJob_only ..)); (case hs => decide))
    | ((with_reducible apply Only.step (flashPut_only ..)); (case hs => decide))
    | (with_reducible apply Only.foldl)
    | intro t a ht

theorem saveResidual_only (seq : Nat) (n : Nat) (s : State) :
    Only [.results, .flash, .free] s (saveResidual seq n s) := by
  unfold saveResidual
  repeat' first
    | with_reducible exact Only.refl _
    | with_reducible assumption
    | (extract_lets +onlyGivenNames y
       first
         | (refine Only.have_ y ?_ fun _ => ?_; subst y; rotate_left; clear_value y)
         | clear_value y | skip)
    | ((with_reducible apply Only.step (saveRows_only ..)); (case hs => decide))
    | split

theorem saveStress_only (seq : Nat) (n : Nat) (s : State) :
    Only [.results, .flash, .free] s (saveStress seq n s) := by
  unfold saveStress
  repeat' first
    | with_reducible exact Only.refl _
    | with_reducible assumption
    | (extract_lets +onlyGivenNames y
       first
         | (refine Only.have_ y ?_ fun _ => ?_; subst y; rotate_left; clear_value y)
         | clear_value y | skip)
    | ((with_reducible apply Only.step (saveRows_only ..)); (case hs => decide))
    | split

theorem finishSave_only (since : Nat) (s : State) :
    Only [.results, .events, .ports, .storeQueue, .heldEvents, .flash, .pipe, .free] s (finishSave since s) := by
  unfold finishSave
  generalize saveTarget s = k
  obtain ⟨b, seq⟩ := k
  dsimp only
  repeat' first
    | with_reducible exact Only.refl _
    | with_reducible assumption
    | (extract_lets +onlyGivenNames y; first | (refine Only.have_ y ?_ fun _ => ?_; subst y; rotate_left; clear_value y) | (have _z : PipeSt := y; subst y) | (have _z : DictSt := y; subst y) | clear_value y)
    | ((with_reducible apply Only.step (showMap_only ..)); (case hs => decide))
    | ((with_reducible apply Only.step (raise_only ..)); (case hs => decide))
    | ((with_reducible apply Only.step (saveStress_only ..)); (case hs => decide))
    | ((with_reducible apply Only.step (saveResidual_only ..)); (case hs => decide))
    | ((with_reducible apply Only.step (flashPut_only ..)); (case hs => decide))
    | ((with_reducible apply Only.step (changeRes_only ..)); (case hs => decide))
    | ((with_reducible apply Only.step (setRes_only ..)); (case hs => decide))
    | split
    | with_reducible refine Only.upd_pipe ?_

theorem failSave_only (stage status : Nat) (s : State) :
    Only [.results, .events, .ports, .storeQueue, .heldEvents, .flash, .pipe, .free] s (failSave stage status s) := by
  unfold failSave
  generalize saveTarget s = k
  obtain ⟨b, seq⟩ := k
  dsimp only
  have h := draw_only s
  generalize draw s = x at h ⊢
  obtain ⟨n, t⟩ := x
  dsimp only at h ⊢
  replace h := h.mono (qs := [.results, .events, .ports, .storeQueue, .heldEvents, .flash, .pipe, .free]) (by decide)
  repeat' first
    | with_reducible exact Only.refl _
    | with_reducible assumption
    | (extract_lets +onlyGivenNames y; first | (refine Only.have_ y ?_ fun _ => ?_; subst y; rotate_left; clear_value y) | (have _z : PipeSt := y; subst y) | (have _z : DictSt := y; subst y) | clear_value y)
    | ((with_reducible apply Only.step (showMap_only ..)); (case hs => decide))
    | ((with_reducible apply Only.step (raise_only ..)); (case hs => decide))
    | ((with_reducible apply Only.step (flashPut_only ..)); (case hs => decide))
    | ((with_reducible apply Only.step (saveStress_only ..)); (case hs => decide))
    | ((with_reducible apply Only.step (saveResidual_only ..)); (case hs => decide))
    | split
    | with_reducible refine Only.upd_pipe ?_

theorem endSave_only (failed : Option (Nat × Nat)) (s : State) :
    Only [.results, .events, .ports, .storeQueue, .heldEvents, .flash, .pipe, .free] s (endSave failed s) := by
  unfold endSave
  split
  · exact Only.refl _
  · split
    · exact (finishSave_only ..).mono (by decide)
    · exact Only.step (failSave_only ..) (by decide) ((draw_only ..).mono (by decide))
  · exact (failSave_only ..).mono (by decide)

theorem execWorkingMapRebuilt_only (s : State) :
    Runs [.results, .events, .ports, .storeQueue, .heldEvents, .pipe] s (execWorkingMapRebuilt s) := by
  unfold execWorkingMapRebuilt
  repeat' first
    | with_reducible apply Runs.next
    | with_reducible exact Only.refl _
    | with_reducible assumption
    | (extract_lets +onlyGivenNames y
       first
         | (refine Only.have_ y ?_ fun _ => ?_; subst y; rotate_left; clear_value y)
         | (have _z : PipeSt := y; subst y) | clear_value y | skip)
    | ((with_reducible apply Only.step (showPending_only ..)); (case hs => decide))
    | ((with_reducible apply Only.step (raise_only ..)); (case hs => decide))
    | split
    | with_reducible refine Only.upd_pipe ?_

theorem execSweepIntervalExpiry_only (s : State) :
    Runs [.now, .results, .pipe] s (execSweepIntervalExpiry s) := by
  unfold execSweepIntervalExpiry
  repeat' first
    | with_reducible apply Runs.next
    | with_reducible exact Only.refl _
    | with_reducible assumption
    | (extract_lets +onlyGivenNames y
       first
         | (refine Only.have_ y ?_ fun _ => ?_; subst y; rotate_left; clear_value y)
         | (have _z : PipeSt := y; subst y) | clear_value y | skip)
    | ((with_reducible apply Only.step (showSweep_only ..)); (case hs => decide))
    | ((with_reducible apply Only.step (advanceTo_only ..)); (case hs => decide))
    | split
    | with_reducible refine Only.upd_pipe ?_

theorem execMapRowLoaded_only (stress : Bool) (row : Nat) (chunk : List Nat) (s : State) :
    Runs [.results, .events, .ports, .storeQueue, .heldEvents, .flash, .pipe, .free] s (execMapRowLoaded stress row chunk s) := by
  unfold execMapRowLoaded
  repeat' first
    | with_reducible apply Runs.next
    | with_reducible exact Only.refl _
    | with_reducible assumption
    | (extract_lets +onlyGivenNames y
       first
         | (refine Only.have_ y ?_ fun _ => ?_; subst y; rotate_left; clear_value y)
         | clear_value y | skip)
    | ((with_reducible apply Only.step (stressRow_only ..)); (case hs => decide))
    | ((with_reducible apply Only.step (residualRow_only ..)); (case hs => decide))
    | split

theorem execMapSaveInterval_only (s : State) :
    Runs [.now, .results, .events, .ports, .storeQueue, .heldEvents, .flash, .pipe] s (execMapSaveInterval s) := by
  unfold execMapSaveInterval
  repeat' first
    | with_reducible apply Runs.next
    | with_reducible exact Only.refl _
    | with_reducible assumption
    | (extract_lets +onlyGivenNames y
       first
         | (refine Only.have_ y ?_ fun _ => ?_; subst y; rotate_left; clear_value y)
         | (have _z : PipeSt := y; subst y) | clear_value y | skip)
    | ((with_reducible apply Only.step (startSave_only ..)); (case hs => decide))
    | ((with_reducible apply Only.step (advanceTo_only ..)); (case hs => decide))
    | split
    | with_reducible refine Only.upd_pipe ?_

end Sys2Proof.Machine
end

