-- ==== Sys2Proof/Laws/FramesRowDrive.lean ====
section
/-! SUPPORT. What each definition of Machine/RowDrive.lean changes. -/

set_option Elab.async false

set_option linter.tactic.unusedName false

namespace Sys2Proof.Machine

theorem setRowSet_only (k : Nat) (r : RowSet) (s : State) :
    Only [.panel] s (setRowSet k r s) := by
  unfold setRowSet
  repeat' first
    | with_reducible exact Only.refl _
    | with_reducible assumption
    | (extract_lets +onlyGivenNames y
       first
         | (refine Only.have_ y ?_ fun _ => ?_; subst y; rotate_left; clear_value y)
         | (have _z : PanelSt := y; subst y) | clear_value y | skip)
    | split
    | with_reducible refine Only.upd_panel ?_

theorem startFade_only (target : Nat) (ms : Nat) (s : State) :
    Only [.panel] s (startFade target ms s) := by
  unfold startFade
  repeat' first
    | with_reducible exact Only.refl _
    | with_reducible assumption
    | (extract_lets +onlyGivenNames y
       first
         | (refine Only.have_ y ?_ fun _ => ?_; subst y; rotate_left; clear_value y)
         | (have _z : PanelSt := y; subst y) | clear_value y | skip)
    | with_reducible refine Only.upd_panel ?_

theorem showLevels_only (k : Nat) (s : State) :
    Only [.results] s (showLevels k s) := by
  unfold showLevels
  repeat' first
    | with_reducible exact Only.refl _
    | with_reducible assumption
    | (extract_lets +onlyGivenNames y
       first
         | (refine Only.have_ y ?_ fun _ => ?_; subst y; rotate_left; clear_value y)
         | clear_value y | skip)
    | ((with_reducible apply Only.step (changeRes_only ..)); (case hs => decide))
    | (with_reducible apply Only.foldl)
    | intro t a ht

theorem settleToken_only (k : Nat) (s : State) :
    Only [.results, .panel] s (settleToken k s) := by
  unfold settleToken
  repeat' first
    | with_reducible exact Only.refl _
    | with_reducible assumption
    | (extract_lets +onlyGivenNames y
       first
         | (refine Only.have_ y ?_ fun _ => ?_; subst y; rotate_left; clear_value y)
         | clear_value y | skip)
    | ((with_reducible apply Only.step (setRowSet_only ..)); (case hs => decide))
    | ((with_reducible apply Only.step (changeRes_only ..)); (case hs => decide))
    | (with_reducible apply Only.foldl)
    | intro t a ht

theorem settleSet_only (k : Nat) (s : State) :
    Only [.results, .panel] s (settleSet k s) := by
  unfold settleSet
  repeat' first
    | with_reducible exact Only.refl _
    | with_reducible assumption
    | (extract_lets +onlyGivenNames y
       first
         | (refine Only.have_ y ?_ fun _ => ?_; subst y; rotate_left; clear_value y)
         | clear_value y | skip)
    | ((with_reducible apply Only.step (settleToken_only ..)); (case hs => decide))
    | ((with_reducible apply Only.step (showLevels_only ..)); (case hs => decide))
    | ((with_reducible apply Only.step (setRowSet_only ..)); (case hs => decide))

theorem putEdge_only (k : Nat) (o : Nat) (t : Nat) (l : Bool) (s : State) :
    Only [.panel] s (putEdge k o t l s) := by
  unfold putEdge
  repeat' first
    | with_reducible exact Only.refl _
    | with_reducible assumption
    | (extract_lets +onlyGivenNames y
       first
         | (refine Only.have_ y ?_ fun _ => ?_; subst y; rotate_left; clear_value y)
         | clear_value y | skip)
    | ((with_reducible apply Only.step (setRowSet_only ..)); (case hs => decide))

theorem runOutput_only (k : Nat) (e : Nat) (o : Nat) (emit : Bool) (t : Nat) (s : State) :
    Only [.results, .events, .ports, .storeQueue, .heldEvents, .panel] s (runOutput k e o emit t s) := by
  unfold runOutput
  repeat' first
    | with_reducible exact Only.refl _
    | with_reducible assumption
    | (extract_lets +onlyGivenNames y
       first
         | (refine Only.have_ y ?_ fun _ => ?_; subst y; rotate_left; clear_value y)
         | clear_value y | skip)
    | ((with_reducible apply Only.step (setRowSet_only ..)); (case hs => decide))
    | ((with_reducible apply Only.step (raise_only ..)); (case hs => decide))
    | ((with_reducible apply Only.step (incSat_only ..)); (case hs => decide))
    | (with_reducible apply Only.foldl)
    | intro t a ht
    | split

theorem lineOutput_only (k : Nat) (e : Nat) (o : Nat) (n : Int) (frame : Nat) (height : Nat) (t : Nat) (s : State) :
    Only [.results, .events, .ports, .storeQueue, .heldEvents, .panel] s (lineOutput k e o n frame height t s) := by
  unfold lineOutput
  repeat' first
    | with_reducible exact Only.refl _
    | with_reducible assumption
    | (extract_lets +onlyGivenNames y
       first
         | (refine Only.have_ y ?_ fun _ => ?_; subst y; rotate_left; clear_value y)
         | clear_value y | skip)
    | ((with_reducible apply Only.step (runOutput_only ..)); (case hs => decide))
    | ((with_reducible apply Only.step (putEdge_only ..)); (case hs => decide))
    | split

theorem dropEdges_only (k : Nat) (e : Nat) (t : Nat) (s : State) :
    Only [.panel] s (dropEdges k e t s) := by
  unfold dropEdges
  repeat' first
    | with_reducible exact Only.refl _
    | with_reducible assumption
    | (extract_lets +onlyGivenNames y
       first
         | (refine Only.have_ y ?_ fun _ => ?_; subst y; rotate_left; clear_value y)
         | clear_value y | skip)
    | ((with_reducible apply Only.step (setRowSet_only ..)); (case hs => decide))

theorem lineSet_only (k : Nat) (n : Int) (frame : Nat) (height : Nat) (s : State) :
    Only [.results, .events, .ports, .storeQueue, .heldEvents, .panel] s (lineSet k n frame height s) := by
  unfold lineSet
  repeat' first
    | with_reducible exact Only.refl _
    | with_reducible assumption
    | (extract_lets +onlyGivenNames y
       first
         | (refine Only.have_ y ?_ fun _ => ?_; subst y; rotate_left; clear_value y)
         | clear_value y | skip)
    | ((with_reducible apply Only.step (dropEdges_only ..)); (case hs => decide))
    | ((with_reducible apply Only.step (lineOutput_only ..)); (case hs => decide))
    | ((with_reducible apply Only.step (putEdge_only ..)); (case hs => decide))
    | ((with_reducible apply Only.step (settleSet_only ..)); (case hs => decide))
    | ((with_reducible apply Only.step (showLevels_only ..)); (case hs => decide))
    | ((with_reducible apply Only.step (setRowSet_only ..)); (case hs => decide))
    | (with_reducible apply Only.foldl)
    | intro t a ht
    | split

theorem sumDuty_only (n : Int) (frame : Nat) (height : Nat) (s : State) :
    Only [.panel] s (sumDuty n frame height s) := by
  unfold sumDuty
  repeat' first
    | with_reducible exact Only.refl _
    | with_reducible assumption
    | (extract_lets +onlyGivenNames y
       first
         | (refine Only.have_ y ?_ fun _ => ?_; subst y; rotate_left; clear_value y)
         | (have _z : PanelSt := y; subst y) | clear_value y | skip)
    | (with_reducible apply Only.foldl)
    | intro t a ht
    | split
    | with_reducible refine Only.upd_panel ?_

theorem endDuty_only (s : State) :
    Only [.results, .panel] s (endDuty s) := by
  unfold endDuty
  repeat' first
    | with_reducible exact Only.refl _
    | with_reducible assumption
    | (extract_lets +onlyGivenNames y
       first
         | (refine Only.have_ y ?_ fun _ => ?_; subst y; rotate_left; clear_value y)
         | (have _z : PanelSt := y; subst y) | clear_value y | skip)
    | ((with_reducible apply Only.step (setResList_only ..)); (case hs => decide))
    | split
    | with_reducible refine Only.upd_panel ?_

theorem showFading_only (s : State) :
    Only [.results] s (showFading s) := by
  unfold showFading
  repeat' first
    | with_reducible exact Only.refl _
    | with_reducible assumption
    | (extract_lets +onlyGivenNames y
       first
         | (refine Only.have_ y ?_ fun _ => ?_; subst y; rotate_left; clear_value y)
         | clear_value y | skip)
    | ((with_reducible apply Only.step (changeRes_only ..)); (case hs => decide))
    | split

theorem showDuty_only (s : State) :
    Only [.results, .panel] s (showDuty s) := by
  unfold showDuty
  repeat' first
    | with_reducible exact Only.refl _
    | with_reducible assumption
    | (extract_lets +onlyGivenNames y
       first
         | (refine Only.have_ y ?_ fun _ => ?_; subst y; rotate_left; clear_value y)
         | (have _z : PanelSt := y; subst y) | clear_value y | skip)
    | ((with_reducible apply Only.step (showFading_only ..)); (case hs => decide))
    | ((with_reducible apply Only.step (changeRes_only ..)); (case hs => decide))
    | with_reducible refine Only.upd_panel ?_

theorem endFade_only (s : State) :
    Only [.results, .panel] s (endFade s) := by
  unfold endFade
  repeat' first
    | with_reducible exact Only.refl _
    | with_reducible assumption
    | (extract_lets +onlyGivenNames y
       first
         | (refine Only.have_ y ?_ fun _ => ?_; subst y; rotate_left; clear_value y)
         | (have _z : PanelSt := y; subst y) | clear_value y | skip)
    | ((with_reducible apply Only.step (showFading_only ..)); (case hs => decide))
    | with_reducible refine Only.upd_panel ?_

theorem allOutputs_only (f : Bool → Nat → Bool) (s : State) :
    Only [.results, .panel] s (allOutputs f s) := by
  unfold allOutputs
  repeat' first
    | with_reducible exact Only.refl _
    | with_reducible assumption
    | (extract_lets +onlyGivenNames y
       first
         | (refine Only.have_ y ?_ fun _ => ?_; subst y; rotate_left; clear_value y)
         | clear_value y | skip)
    | ((with_reducible apply Only.step (settleSet_only ..)); (case hs => decide))
    | ((with_reducible apply Only.step (showLevels_only ..)); (case hs => decide))
    | ((with_reducible apply Only.step (setRowSet_only ..)); (case hs => decide))
    | (with_reducible apply Only.foldl)
    | intro t a ht

theorem blackScanLine_only (n : Int) (height : Nat) (s : State) :
    Only [.results, .events, .ports, .storeQueue, .heldEvents, .panel] s (blackScanLine n height s) := by
  unfold blackScanLine
  repeat' first
    | with_reducible exact Only.refl _
    | with_reducible assumption
    | (extract_lets +onlyGivenNames y
       first
         | (refine Only.have_ y ?_ fun _ => ?_; subst y; rotate_left; clear_value y)
         | clear_value y | skip)
    | ((with_reducible apply Only.step (dropEdges_only ..)); (case hs => decide))
    | ((with_reducible apply Only.step (runOutput_only ..)); (case hs => decide))
    | ((with_reducible apply Only.step (putEdge_only ..)); (case hs => decide))
    | ((with_reducible apply Only.step (settleSet_only ..)); (case hs => decide))
    | ((with_reducible apply Only.step (showLevels_only ..)); (case hs => decide))
    | (with_reducible apply Only.foldl)
    | intro t a ht
    | split

theorem showBalance_only (t : Nat) (s : State) :
    Only [.results] s (showBalance t s) := by
  unfold showBalance
  repeat' first
    | with_reducible exact Only.refl _
    | with_reducible assumption
    | (extract_lets +onlyGivenNames y
       first
         | (refine Only.have_ y ?_ fun _ => ?_; subst y; rotate_left; clear_value y)
         | clear_value y | skip)
    | ((with_reducible apply Only.step (stepRes_only ..)); (case hs => decide))

theorem biasTake_only (t : Nat) (l : Bool) (s : State) :
    Only [.results, .panel] s (biasTake t l s) := by
  unfold biasTake
  repeat' first
    | with_reducible exact Only.refl _
    | with_reducible assumption
    | (extract_lets +onlyGivenNames y
       first
         | (refine Only.have_ y ?_ fun _ => ?_; subst y; rotate_left; clear_value y)
         | (have _z : PanelSt := y; subst y) | clear_value y | skip)
    | ((with_reducible apply Only.step (showBalance_only ..)); (case hs => decide))
    | ((with_reducible apply Only.step (changeRes_only ..)); (case hs => decide))
    | split
    | with_reducible refine Only.upd_panel ?_

theorem biasEdge_only (t : Nat) (l : Bool) (s : State) :
    Only [.results, .panel] s (biasEdge t l s) := by
  unfold biasEdge
  repeat' first
    | with_reducible exact Only.refl _
    | with_reducible assumption
    | (extract_lets +onlyGivenNames y
       first
         | (refine Only.have_ y ?_ fun _ => ?_; subst y; rotate_left; clear_value y)
         | clear_value y | skip)
    | ((with_reducible apply Only.step (putEdge_only ..)); (case hs => decide))
    | ((with_reducible apply Only.step (showLevels_only ..)); (case hs => decide))
    | (with_reducible apply Only.foldl)
    | intro t a ht
    | split

theorem biasDue_only (s : State) :
    Only [.results, .panel] s (biasDue s) := by
  unfold biasDue
  repeat' first
    | with_reducible exact Only.refl _
    | with_reducible assumption
    | (extract_lets +onlyGivenNames y
       first
         | (refine Only.have_ y ?_ fun _ => ?_; subst y; rotate_left; clear_value y)
         | (have _z : PanelSt := y; subst y) | clear_value y | skip)
    | ((with_reducible apply Only.step (biasTake_only ..)); (case hs => decide))
    | split
    | with_reducible refine Only.upd_panel ?_

theorem biasBoundary_only (s : State) :
    Only [.results, .panel] s (biasBoundary s) := by
  unfold biasBoundary
  repeat' first
    | with_reducible exact Only.refl _
    | with_reducible assumption
    | (extract_lets +onlyGivenNames y
       first
         | (refine Only.have_ y ?_ fun _ => ?_; subst y; rotate_left; clear_value y)
         | (have _z : PanelSt := y; subst y) | clear_value y | skip)
    | ((with_reducible apply Only.step (biasDue_only ..)); (case hs => decide))
    | ((with_reducible apply Only.step (biasEdge_only ..)); (case hs => decide))
    | split
    | with_reducible refine Only.upd_panel ?_

theorem biasStretch_only (s : State) :
    Only [.results, .panel] s (biasStretch s) := by
  unfold biasStretch
  repeat' first
    | with_reducible exact Only.refl _
    | with_reducible assumption
    | (extract_lets +onlyGivenNames y
       first
         | (refine Only.have_ y ?_ fun _ => ?_; subst y; rotate_left; clear_value y)
         | clear_value y | skip)
    | ((with_reducible apply Only.step (biasDue_only ..)); (case hs => decide))
    | ((with_reducible apply Only.step (biasEdge_only ..)); (case hs => decide))
    | ((with_reducible apply Only.step (biasTake_only ..)); (case hs => decide))
    | split

theorem biasHold_only (f : Nat → Bool) (s : State) :
    Only [.results, .panel] s (biasHold f s) := by
  unfold biasHold
  repeat' first
    | with_reducible exact Only.refl _
    | with_reducible assumption
    | (extract_lets +onlyGivenNames y
       first
         | (refine Only.have_ y ?_ fun _ => ?_; subst y; rotate_left; clear_value y)
         | (have _z : PanelSt := y; subst y) | clear_value y | skip)
    | ((with_reducible apply Only.step (biasDue_only ..)); (case hs => decide))
    | ((with_reducible apply Only.step (biasTake_only ..)); (case hs => decide))
    | with_reducible refine Only.upd_panel ?_

theorem biasZero_only (s : State) :
    Only [.results, .panel] s (biasZero s) := by
  unfold biasZero
  repeat' first
    | with_reducible exact Only.refl _
    | with_reducible assumption
    | (extract_lets +onlyGivenNames y
       first
         | (refine Only.have_ y ?_ fun _ => ?_; subst y; rotate_left; clear_value y)
         | (have _z : PanelSt := y; subst y) | clear_value y | skip)
    | ((with_reducible apply Only.step (showBalance_only ..)); (case hs => decide))
    | ((with_reducible apply Only.step (setResI_only ..)); (case hs => decide))
    | with_reducible refine Only.upd_panel ?_

theorem rowsIdle_only (s : State) :
    Only [.results, .panel] s (rowsIdle s) := by
  unfold rowsIdle
  repeat' first
    | with_reducible exact Only.refl _
    | with_reducible assumption
    | (extract_lets +onlyGivenNames y
       first
         | (refine Only.have_ y ?_ fun _ => ?_; subst y; rotate_left; clear_value y)
         | (have _z : PanelSt := y; subst y) | clear_value y | skip)
    | ((with_reducible apply Only.step (biasHold_only ..)); (case hs => decide))
    | ((with_reducible apply Only.step (allOutputs_only ..)); (case hs => decide))
    | with_reducible refine Only.upd_panel ?_

theorem rowsFloat_only (s : State) :
    Only [.results, .panel] s (rowsFloat s) := by
  unfold rowsFloat
  repeat' first
    | with_reducible exact Only.refl _
    | with_reducible assumption
    | (extract_lets +onlyGivenNames y
       first
         | (refine Only.have_ y ?_ fun _ => ?_; subst y; rotate_left; clear_value y)
         | (have _z : PanelSt := y; subst y) | clear_value y | skip)
    | ((with_reducible apply Only.step (allOutputs_only ..)); (case hs => decide))
    | with_reducible refine Only.upd_panel ?_

theorem rowsDisch_only (s : State) :
    Only [.results, .panel] s (rowsDisch s) := by
  unfold rowsDisch
  repeat' first
    | with_reducible exact Only.refl _
    | with_reducible assumption
    | (extract_lets +onlyGivenNames y
       first
         | (refine Only.have_ y ?_ fun _ => ?_; subst y; rotate_left; clear_value y)
         | (have _z : PanelSt := y; subst y) | clear_value y | skip)
    | ((with_reducible apply Only.step (allOutputs_only ..)); (case hs => decide))
    | split
    | with_reducible refine Only.upd_panel ?_

theorem rowsEmergency_only (s : State) :
    Only [.results, .panel] s (rowsEmergency s) := by
  unfold rowsEmergency
  repeat' first
    | with_reducible exact Only.refl _
    | with_reducible assumption
    | (extract_lets +onlyGivenNames y
       first
         | (refine Only.have_ y ?_ fun _ => ?_; subst y; rotate_left; clear_value y)
         | (have _z : PanelSt := y; subst y) | clear_value y | skip)
    | ((with_reducible apply Only.step (biasHold_only ..)); (case hs => decide))
    | ((with_reducible apply Only.step (allOutputs_only ..)); (case hs => decide))
    | with_reducible refine Only.upd_panel ?_

theorem rowsBegin_only (s : State) :
    Only [.results, .panel] s (rowsBegin s) := by
  unfold rowsBegin
  repeat' first
    | with_reducible exact Only.refl _
    | with_reducible assumption
    | (extract_lets +onlyGivenNames y
       first
         | (refine Only.have_ y ?_ fun _ => ?_; subst y; rotate_left; clear_value y)
         | (have _z : PanelSt := y; subst y) | clear_value y | skip)
    | ((with_reducible apply Only.step (biasZero_only ..)); (case hs => decide))
    | ((with_reducible apply Only.step (setRowSet_only ..)); (case hs => decide))
    | (with_reducible apply Only.foldl)
    | intro t a ht
    | with_reducible refine Only.upd_panel ?_

theorem senseStepAt_only (k : Nat) (start : Bool) (t : Nat) (s : State) :
    Only [.panel] s (senseStepAt k start t s) := by
  unfold senseStepAt
  repeat' first
    | with_reducible exact Only.refl _
    | with_reducible assumption
    | (extract_lets +onlyGivenNames y
       first
         | (refine Only.have_ y ?_ fun _ => ?_; subst y; rotate_left; clear_value y)
         | clear_value y | skip)
    | ((with_reducible apply Only.step (setRowSet_only ..)); (case hs => decide))
    | split

theorem senseSteps_only (k : Nat) (r0 : Nat) (rows : Nat) (first : Bool) (turn : Nat) (sense : Nat) (s : State) :
    Only [.results, .panel] s (senseSteps k r0 rows first turn sense s) := by
  unfold senseSteps
  repeat' first
    | with_reducible exact Only.refl _
    | with_reducible assumption
    | (extract_lets +onlyGivenNames y
       first
         | (refine Only.have_ y ?_ fun _ => ?_; subst y; rotate_left; clear_value y)
         | clear_value y | skip)
    | ((with_reducible apply Only.step (senseStepAt_only ..)); (case hs => decide))
    | ((with_reducible apply Only.step (settleToken_only ..)); (case hs => decide))
    | (with_reducible apply Only.foldl)
    | intro t a ht
    | split

theorem senseWindow_only (r0 : Nat) (rows : Nat) (first : Bool) (turn : Nat) (sense : Nat) (s : State) :
    Only [.results, .panel] s (senseWindow r0 rows first turn sense s) := by
  unfold senseWindow
  repeat' first
    | with_reducible exact Only.refl _
    | with_reducible assumption
    | (extract_lets +onlyGivenNames y
       first
         | (refine Only.have_ y ?_ fun _ => ?_; subst y; rotate_left; clear_value y)
         | clear_value y | skip)
    | ((with_reducible apply Only.step (senseSteps_only ..)); (case hs => decide))

theorem senseUnknown_only (s : State) :
    Only [.results, .panel] s (senseUnknown s) := by
  unfold senseUnknown
  repeat' first
    | with_reducible exact Only.refl _
    | with_reducible assumption
    | (extract_lets +onlyGivenNames y
       first
         | (refine Only.have_ y ?_ fun _ => ?_; subst y; rotate_left; clear_value y)
         | clear_value y | skip)
    | ((with_reducible apply Only.step (setRowSet_only ..)); (case hs => decide))
    | ((with_reducible apply Only.step (changeRes_only ..)); (case hs => decide))
    | (with_reducible apply Only.foldl)
    | intro t a ht

end Sys2Proof.Machine
end

