-- ==== Sys2Proof/Laws/FramesOtham.lean ====
section
/-! SUPPORT. What each definition of Machine/Otham.lean changes. -/

set_option Elab.async false

set_option linter.tactic.unusedName false

namespace Sys2Proof.Machine

theorem setOport_only (p : Nat) (x : OPort) (s : State) :
    Only [.out] s (setOport p x s) := by
  unfold setOport
  repeat' first
    | with_reducible exact Only.refl _
    | with_reducible assumption
    | (extract_lets +onlyGivenNames y
       first
         | (refine Only.have_ y ?_ fun _ => ?_; subst y; rotate_left; clear_value y)
         | (have _z : OutSt := y; subst y) | clear_value y | skip)
    | with_reducible refine Only.upd_out ?_

theorem setOlane_only (p : Nat) (l : Nat) (x : OLaneSt) (s : State) :
    Only [.out] s (setOlane p l x s) := by
  unfold setOlane
  repeat' first
    | with_reducible exact Only.refl _
    | with_reducible assumption
    | (extract_lets +onlyGivenNames y
       first
         | (refine Only.have_ y ?_ fun _ => ?_; subst y; rotate_left; clear_value y)
         | (have _z : OutSt := y; subst y) | clear_value y | skip)
    | with_reducible refine Only.upd_out ?_

theorem showPort_only (p : Nat) (s : State) :
    Only [.results] s (showPort p s) := by
  unfold showPort
  repeat' first
    | with_reducible exact Only.refl _
    | with_reducible assumption
    | (extract_lets +onlyGivenNames y
       first
         | (refine Only.have_ y ?_ fun _ => ?_; subst y; rotate_left; clear_value y)
         | clear_value y | skip)
    | ((with_reducible apply Only.step (changeRes_only ..)); (case hs => decide))
    | (with_reducible apply Only.foldl)
    | intro t a ht

theorem showPorts_only (s : State) :
    Only [.results] s (showPorts s) := by
  unfold showPorts
  repeat' first
    | with_reducible exact Only.refl _
    | with_reducible assumption
    | (extract_lets +onlyGivenNames y
       first
         | (refine Only.have_ y ?_ fun _ => ?_; subst y; rotate_left; clear_value y)
         | clear_value y | skip)
    | ((with_reducible apply Only.step (showPort_only ..)); (case hs => decide))
    | (with_reducible apply Only.foldl)
    | intro t a ht

theorem chooseRate_only (s : State) :
    Only [.results, .events, .ports, .storeQueue, .heldEvents, .out, .resil] s (chooseRate s) := by
  unfold chooseRate
  repeat' first
    | with_reducible exact Only.refl _
    | with_reducible assumption
    | (extract_lets +onlyGivenNames y
       first
         | (refine Only.have_ y ?_ fun _ => ?_; subst y; rotate_left; clear_value y)
         | (have _z : OutSt := y; subst y) | clear_value y | skip)
    | ((with_reducible apply Only.step (settle_only ..)); (case hs => decide))
    | ((with_reducible apply Only.step (raise_only ..)); (case hs => decide))
    | ((with_reducible apply Only.step (changeRes_only ..)); (case hs => decide))
    | split
    | with_reducible refine Only.upd_out ?_

theorem laneNote_only (p : Nat) (l : Nat) (g : List Block) (n : Nat) (s : State) :
    Only [.out] s (laneNote p l g n s) := by
  unfold laneNote
  repeat' first
    | with_reducible exact Only.refl _
    | with_reducible assumption
    | (extract_lets +onlyGivenNames y
       first
         | (refine Only.have_ y ?_ fun _ => ?_; subst y; rotate_left; clear_value y)
         | clear_value y | skip)
    | ((with_reducible apply Only.step (setOlane_only ..)); (case hs => decide))
    | split

theorem laneData_only (p : Nat) (l : Nat) (d : List Nat) (s : State) :
    Only [.out] s (laneData p l d s) := by
  unfold laneData
  repeat' first
    | with_reducible exact Only.refl _
    | with_reducible assumption
    | (extract_lets +onlyGivenNames y
       first
         | (refine Only.have_ y ?_ fun _ => ?_; subst y; rotate_left; clear_value y)
         | clear_value y | skip)
    | ((with_reducible apply Only.step (laneNote_only ..)); (case hs => decide))
    | ((with_reducible apply Only.step (setOlane_only ..)); (case hs => decide))
    | split

theorem txBegin_only (p : Nat) (s : State) :
    Only [.out] s (txBegin p s) := by
  unfold txBegin
  repeat' first
    | with_reducible exact Only.refl _
    | with_reducible assumption
    | (extract_lets +onlyGivenNames y
       first
         | (refine Only.have_ y ?_ fun _ => ?_; subst y; rotate_left; clear_value y)
         | clear_value y | skip)
    | ((with_reducible apply Only.step (setOlane_only ..)); (case hs => decide))
    | ((with_reducible apply Only.step (setOport_only ..)); (case hs => decide))
    | (with_reducible apply Only.foldl)
    | intro t a ht
    | split

theorem noteLag_only (p : Nat) (s : State) :
    Only [.results] s (noteLag p s) := by
  unfold noteLag
  repeat' first
    | with_reducible exact Only.refl _
    | with_reducible assumption
    | (extract_lets +onlyGivenNames y
       first
         | (refine Only.have_ y ?_ fun _ => ?_; subst y; rotate_left; clear_value y)
         | clear_value y | skip)
    | ((with_reducible apply Only.step (setRes_only ..)); (case hs => decide))
    | split

theorem txTime_only (p : Nat) (n : Nat) (s : State) :
    Only [.out] s (txTime p n s) := by
  unfold txTime
  repeat' first
    | with_reducible exact Only.refl _
    | with_reducible assumption
    | (extract_lets +onlyGivenNames y
       first
         | (refine Only.have_ y ?_ fun _ => ?_; subst y; rotate_left; clear_value y)
         | clear_value y | skip)
    | ((with_reducible apply Only.step (setOport_only ..)); (case hs => decide))

theorem txSwitch_only (p : Nat) (new : LaneMode) (rate : Nat) (s : State) :
    Only [.out] s (txSwitch p new rate s) := by
  unfold txSwitch
  repeat' first
    | with_reducible exact Only.refl _
    | with_reducible assumption
    | (extract_lets +onlyGivenNames y
       first
         | (refine Only.have_ y ?_ fun _ => ?_; subst y; rotate_left; clear_value y)
         | clear_value y | skip)
    | ((with_reducible apply Only.step (txTime_only ..)); (case hs => decide))
    | ((with_reducible apply Only.step (laneNote_only ..)); (case hs => decide))
    | ((with_reducible apply Only.step (setOport_only ..)); (case hs => decide))
    | (with_reducible apply Only.foldl)
    | intro t a ht

theorem laneSync_only (p : Nat) (l : Nat) (turn : Bool) (s : State) :
    Only [.out] s (laneSync p l turn s) := by
  unfold laneSync
  repeat' first
    | with_reducible exact Only.refl _
    | with_reducible assumption
    | (extract_lets +onlyGivenNames y
       first
         | (refine Only.have_ y ?_ fun _ => ?_; subst y; rotate_left; clear_value y)
         | clear_value y | skip)
    | ((with_reducible apply Only.step (laneNote_only ..)); (case hs => decide))
    | ((with_reducible apply Only.step (setOlane_only ..)); (case hs => decide))

theorem txSync_only (p : Nat) (s : State) :
    Only [.out] s (txSync p s) := by
  unfold txSync
  repeat' first
    | with_reducible exact Only.refl _
    | with_reducible assumption
    | (extract_lets +onlyGivenNames y
       first
         | (refine Only.have_ y ?_ fun _ => ?_; subst y; rotate_left; clear_value y)
         | clear_value y | skip)
    | ((with_reducible apply Only.step (laneSync_only ..)); (case hs => decide))
    | ((with_reducible apply Only.step (txTime_only ..)); (case hs => decide))
    | (with_reducible apply Only.foldl)
    | intro t a ht

theorem txTurn_only (p : Nat) (s : State) :
    Only [.out] s (txTurn p s) := by
  unfold txTurn
  repeat' first
    | with_reducible exact Only.refl _
    | with_reducible assumption
    | (extract_lets +onlyGivenNames y
       first
         | (refine Only.have_ y ?_ fun _ => ?_; subst y; rotate_left; clear_value y)
         | clear_value y | skip)
    | ((with_reducible apply Only.step (laneSync_only ..)); (case hs => decide))
    | ((with_reducible apply Only.step (txTime_only ..)); (case hs => decide))
    | ((with_reducible apply Only.step (laneNote_only ..)); (case hs => decide))
    | ((with_reducible apply Only.step (setOport_only ..)); (case hs => decide))
    | (with_reducible apply Only.foldl)
    | intro t a ht
    | split

theorem txResume_only (p : Nat) (n : Nat) (s : State) :
    Only [.out] s (txResume p n s) := by
  unfold txResume
  repeat' first
    | with_reducible exact Only.refl _
    | with_reducible assumption
    | (extract_lets +onlyGivenNames y
       first
         | (refine Only.have_ y ?_ fun _ => ?_; subst y; rotate_left; clear_value y)
         | clear_value y | skip)
    | ((with_reducible apply Only.step (txSync_only ..)); (case hs => decide))
    | ((with_reducible apply Only.step (txTime_only ..)); (case hs => decide))
    | ((with_reducible apply Only.step (laneNote_only ..)); (case hs => decide))
    | (with_reducible apply Only.foldl)
    | intro t a ht

theorem txPacket_only (p : Nat) (bs : List Nat) (s : State) :
    Only [.out] s (txPacket p bs s) := by
  unfold txPacket
  repeat' first
    | with_reducible exact Only.refl _
    | with_reducible assumption
    | (extract_lets +onlyGivenNames y
       first
         | (refine Only.have_ y ?_ fun _ => ?_; subst y; rotate_left; clear_value y)
         | clear_value y | skip)
    | ((with_reducible apply Only.step (txTime_only ..)); (case hs => decide))
    | ((with_reducible apply Only.step (laneData_only ..)); (case hs => decide))
    | ((with_reducible apply Only.step (laneNote_only ..)); (case hs => decide))
    | (with_reducible apply Only.foldl)
    | intro t a ht

theorem txLine_only (p : Nat) (line : Nat) (bs : List Nat) (s : State) :
    Only [.out] s (txLine p line bs s) := by
  unfold txLine
  repeat' first
    | with_reducible exact Only.refl _
    | with_reducible assumption
    | (extract_lets +onlyGivenNames y
       first
         | (refine Only.have_ y ?_ fun _ => ?_; subst y; rotate_left; clear_value y)
         | clear_value y | skip)
    | ((with_reducible apply Only.step (txPacket_only ..)); (case hs => decide))
    | ((with_reducible apply Only.step (setOlane_only ..)); (case hs => decide))
    | (with_reducible apply Only.foldl)
    | intro t a ht

theorem excludeLane_only (p : Nat) (l : Nat) (s : State) :
    Only [.results, .events, .ports, .storeState, .storeQueue, .heldEvents, .out] s (excludeLane p l s) := by
  unfold excludeLane
  repeat' first
    | with_reducible exact Only.refl _
    | with_reducible assumption
    | (extract_lets +onlyGivenNames y
       first
         | (refine Only.have_ y ?_ fun _ => ?_; subst y; rotate_left; clear_value y)
         | clear_value y | skip)
    | ((with_reducible apply Only.step (setOlane_only ..)); (case hs => decide))
    | ((with_reducible apply Only.step (fellRecord_only ..)); (case hs => decide))
    | ((with_reducible apply Only.step (raise_only ..)); (case hs => decide))
    | ((with_reducible apply Only.step (setRes_only ..)); (case hs => decide))
    | split

theorem stopPort_only (p : Nat) (cause : Nat) (s : State) :
    Only [.results, .events, .ports, .storeQueue, .heldEvents, .out, .resil] s (stopPort p cause s) := by
  unfold stopPort
  repeat' first
    | with_reducible exact Only.refl _
    | with_reducible assumption
    | (extract_lets +onlyGivenNames y
       first
         | (refine Only.have_ y ?_ fun _ => ?_; subst y; rotate_left; clear_value y)
         | clear_value y | skip)
    | ((with_reducible apply Only.step (showPort_only ..)); (case hs => decide))
    | ((with_reducible apply Only.step (setOport_only ..)); (case hs => decide))
    | ((with_reducible apply Only.step (settle_only ..)); (case hs => decide))
    | ((with_reducible apply Only.step (raise_only ..)); (case hs => decide))

theorem laneFails_only (p : Nat) (l : Nat) (cause : Nat) (s : State) :
    Only [.results, .events, .ports, .storeQueue, .heldEvents, .out, .resil] s (laneFails p l cause s) := by
  unfold laneFails
  repeat' first
    | with_reducible exact Only.refl _
    | with_reducible assumption
    | (extract_lets +onlyGivenNames y
       first
         | (refine Only.have_ y ?_ fun _ => ?_; subst y; rotate_left; clear_value y)
         | clear_value y | skip)
    | ((with_reducible apply Only.step (stopPort_only ..)); (case hs => decide))
    | ((with_reducible apply Only.step (showPort_only ..)); (case hs => decide))
    | ((with_reducible apply Only.step (setOport_only ..)); (case hs => decide))
    | split

theorem failover_only (p : Nat) (s : State) :
    Only [.results, .events, .ports, .storeState, .storeQueue, .heldEvents, .out, .resil] s (failover p s) := by
  unfold failover
  repeat' first
    | with_reducible exact Only.refl _
    | with_reducible assumption
    | (extract_lets +onlyGivenNames y
       first
         | (refine Only.have_ y ?_ fun _ => ?_; subst y; rotate_left; clear_value y)
         | clear_value y | skip)
    | ((with_reducible apply Only.step (excludeLane_only ..)); (case hs => decide))
    | ((with_reducible apply Only.step (txSwitch_only ..)); (case hs => decide))
    | ((with_reducible apply Only.step (showPort_only ..)); (case hs => decide))
    | ((with_reducible apply Only.step (setOport_only ..)); (case hs => decide))
    | ((with_reducible apply Only.step (settle_only ..)); (case hs => decide))
    | ((with_reducible apply Only.step (raise_only ..)); (case hs => decide))
    | split

theorem sendLine_only (p : Nat) (line : Nat) (frame : Nat) (w : Nat) (codes : List Nat) (s : State) :
    Only [.results, .events, .ports, .storeState, .storeQueue, .heldEvents, .out, .resil] s (sendLine p line frame w codes s) := by
  unfold sendLine
  repeat' first
    | with_reducible exact Only.refl _
    | with_reducible assumption
    | (extract_lets +onlyGivenNames y
       first
         | (refine Only.have_ y ?_ fun _ => ?_; subst y; rotate_left; clear_value y)
         | clear_value y | skip)
    | ((with_reducible apply Only.step (failover_only ..)); (case hs => decide))
    | ((with_reducible apply Only.step (txLine_only ..)); (case hs => decide))
    | ((with_reducible apply Only.step (noteLag_only ..)); (case hs => decide))
    | ((with_reducible apply Only.step (txBegin_only ..)); (case hs => decide))
    | ((with_reducible apply Only.step (setOport_only ..)); (case hs => decide))
    | ((with_reducible apply Only.step (incWrap_only ..)); (case hs => decide))
    | ((with_reducible apply Only.step (incSat_only ..)); (case hs => decide))
    | split

theorem othamActive_only (line : Nat) (s : State) :
    Only [.results, .events, .ports, .storeState, .storeQueue, .heldEvents, .pipe, .out, .resil] s (othamActive line s) := by
  unfold othamActive
  repeat' first
    | with_reducible exact Only.refl _
    | with_reducible assumption
    | (extract_lets +onlyGivenNames y
       first
         | (refine Only.have_ y ?_ fun _ => ?_; subst y; rotate_left; clear_value y)
         | (have _z : OutSt := y; subst y) | (have _z : PipeSt := y; subst y) | clear_value y | skip)
    | ((with_reducible apply Only.step (sendLine_only ..)); (case hs => decide))
    | (with_reducible apply Only.foldl)
    | intro t a ht
    | split
    | with_reducible refine Only.upd_out ?_
    | with_reducible refine Only.upd_pipe ?_

theorem othamScanLine_only (line : Nat) (s : State) :
    Only [.results, .events, .ports, .storeState, .storeQueue, .heldEvents, .out, .resil] s (othamScanLine line s) := by
  unfold othamScanLine
  repeat' first
    | with_reducible exact Only.refl _
    | with_reducible assumption
    | (extract_lets +onlyGivenNames y
       first
         | (refine Only.have_ y ?_ fun _ => ?_; subst y; rotate_left; clear_value y)
         | (have _z : OutSt := y; subst y) | clear_value y | skip)
    | ((with_reducible apply Only.step (failover_only ..)); (case hs => decide))
    | ((with_reducible apply Only.step (txLine_only ..)); (case hs => decide))
    | ((with_reducible apply Only.step (noteLag_only ..)); (case hs => decide))
    | ((with_reducible apply Only.step (txBegin_only ..)); (case hs => decide))
    | (with_reducible apply Only.foldl)
    | intro t a ht
    | split
    | with_reducible refine Only.upd_out ?_

theorem deliver_only (regs : List Nat) (s : State) :
    Only [.out] s (deliver regs s) := by
  unfold deliver
  repeat' first
    | with_reducible exact Only.refl _
    | with_reducible assumption
    | (extract_lets +onlyGivenNames y
       first
         | (refine Only.have_ y ?_ fun _ => ?_; subst y; rotate_left; clear_value y)
         | (have _z : OutSt := y; subst y) | clear_value y | skip)
    | ((with_reducible apply Only.step (setOport_only ..)); (case hs => decide))
    | (with_reducible apply Only.foldl)
    | intro t a ht
    | split
    | with_reducible refine Only.upd_out ?_

theorem sendConfig_only (p end_ n : Nat) (s : State) :
    Only [.out] s (sendConfig p end_ n s) := by
  induction n generalizing s with
  | zero => exact Only.refl _
  | succ n ih =>
    unfold sendConfig
    dsimp only
    split
    · exact Only.refl _
    · exact Only.trans ((txPacket_only ..).step (by decide) (setOport_only ..)) (ih _)

theorem blankPort_only (apply : Bool) (batch : Bool) (lines : Nat) (p : Nat) (s : State) :
    Only [.results, .events, .ports, .storeState, .storeQueue, .heldEvents, .out, .resil] s (blankPort apply batch lines p s) := by
  unfold blankPort
  repeat' first
    | with_reducible exact Only.refl _
    | with_reducible assumption
    | (extract_lets +onlyGivenNames y
       first
         | (refine Only.have_ y ?_ fun _ => ?_; subst y; rotate_left; clear_value y)
         | clear_value y | skip)
    | ((with_reducible apply Only.step (failover_only ..)); (case hs => decide))
    | ((with_reducible apply Only.step (txPacket_only ..)); (case hs => decide))
    | ((with_reducible apply Only.step (txSync_only ..)); (case hs => decide))
    | ((with_reducible apply Only.step (txSwitch_only ..)); (case hs => decide))
    | ((with_reducible apply Only.step (noteLag_only ..)); (case hs => decide))
    | ((with_reducible apply Only.step (txBegin_only ..)); (case hs => decide))
    | ((with_reducible apply Only.step (setOport_only ..)); (case hs => decide))
    | ((with_reducible apply Only.step (raise_only ..)); (case hs => decide))
    | (with_reducible apply Only.foldl)
    | intro t a ht
    | split

theorem planWindow_only (first : Nat) (last : Nat) (s : State) :
    Only [.out] s (planWindow first last s) := by
  unfold planWindow
  repeat' first
    | with_reducible exact Only.refl _
    | with_reducible assumption
    | (extract_lets +onlyGivenNames y
       first
         | (refine Only.have_ y ?_ fun _ => ?_; subst y; rotate_left; clear_value y)
         | (have _z : OutSt := y; subst y) | clear_value y | skip)
    | with_reducible refine Only.upd_out ?_

theorem othamFirstBlank_only (s : State) :
    Only [.results, .events, .ports, .storeState, .storeQueue, .heldEvents, .pipe, .out, .resil] s (othamFirstBlank s) := by
  unfold othamFirstBlank
  repeat' first
    | with_reducible exact Only.refl _
    | with_reducible assumption
    | (extract_lets +onlyGivenNames y
       first
         | (refine Only.have_ y ?_ fun _ => ?_; subst y; rotate_left; clear_value y)
         | (have _z : OutSt := y; subst y) | clear_value y | skip)
    | ((with_reducible apply Only.step (planWindow_only ..)); (case hs => decide))
    | ((with_reducible apply Only.step (blankPort_only ..)); (case hs => decide))
    | ((with_reducible apply Only.step (beginBatch_only ..)); (case hs => decide))
    | ((with_reducible apply Only.step (incWrap_only ..)); (case hs => decide))
    | (with_reducible apply Only.foldl)
    | intro t a ht
    | split
    | with_reducible refine Only.upd_out ?_

theorem openWindows_only (s : State) :
    Only [.results, .events, .ports, .storeState, .storeQueue, .heldEvents, .out, .panel, .resil] s (openWindows s) := by
  unfold openWindows
  repeat' first
    | with_reducible exact Only.refl _
    | with_reducible assumption
    | (extract_lets +onlyGivenNames y
       first
         | (refine Only.have_ y ?_ fun _ => ?_; subst y; rotate_left; clear_value y)
         | (have _z : PanelSt := y; subst y) | clear_value y | skip)
    | ((with_reducible apply Only.step (failover_only ..)); (case hs => decide))
    | ((with_reducible apply Only.step (txTurn_only ..)); (case hs => decide))
    | ((with_reducible apply Only.step (noteLag_only ..)); (case hs => decide))
    | ((with_reducible apply Only.step (txBegin_only ..)); (case hs => decide))
    | ((with_reducible apply Only.step (showPort_only ..)); (case hs => decide))
    | ((with_reducible apply Only.step (setOport_only ..)); (case hs => decide))
    | ((with_reducible apply Only.step (senseWindow_only ..)); (case hs => decide))
    | (with_reducible apply Only.foldl)
    | intro t a ht
    | split
    | with_reducible refine Only.upd_panel ?_

theorem endWindow_only (p : Nat) (s : State) :
    Only [.shadow, .results, .events, .ports, .storeState, .storeQueue, .heldEvents, .pipe, .out, .resil] s (endWindow p s) := by
  unfold endWindow
  repeat' first
    | with_reducible exact Only.refl _
    | with_reducible assumption
    | (extract_lets +onlyGivenNames y
       first
         | (refine Only.have_ y ?_ fun _ => ?_; subst y; rotate_left; clear_value y)
         | clear_value y | skip)
    | ((with_reducible apply Only.step (failover_only ..)); (case hs => decide))
    | ((with_reducible apply Only.step (laneFails_only ..)); (case hs => decide))
    | ((with_reducible apply Only.step (txResume_only ..)); (case hs => decide))
    | ((with_reducible apply Only.step (noteLag_only ..)); (case hs => decide))
    | ((with_reducible apply Only.step (txBegin_only ..)); (case hs => decide))
    | ((with_reducible apply Only.step (showPort_only ..)); (case hs => decide))
    | ((with_reducible apply Only.step (setOport_only ..)); (case hs => decide))
    | ((with_reducible apply Only.step (missResults_only ..)); (case hs => decide))
    | ((with_reducible apply Only.step (raise_only ..)); (case hs => decide))
    | ((with_reducible apply Only.step (incSat_only ..)); (case hs => decide))
    | split

theorem closeWindows_only (s : State) :
    Only [.shadow, .results, .events, .ports, .storeState, .storeQueue, .heldEvents, .pipe, .out, .panel, .resil] s (closeWindows s) := by
  unfold closeWindows
  repeat' first
    | with_reducible exact Only.refl _
    | with_reducible assumption
    | (extract_lets +onlyGivenNames y
       first
         | (refine Only.have_ y ?_ fun _ => ?_; subst y; rotate_left; clear_value y)
         | (have _z : OutSt := y; subst y) | (have _z : PanelSt := y; subst y) | clear_value y | skip)
    | ((with_reducible apply Only.step (endWindow_only ..)); (case hs => decide))
    | ((with_reducible apply Only.step (endBatch_only ..)); (case hs => decide))
    | (with_reducible apply Only.foldl)
    | intro t a ht
    | with_reducible refine Only.upd_out_panel ?_

theorem othamLater_only (s : State) :
    Only [.results, .events, .ports, .storeState, .storeQueue, .heldEvents, .out, .resil] s (othamLater s) := by
  unfold othamLater
  repeat' first
    | with_reducible exact Only.refl _
    | with_reducible assumption
    | (extract_lets +onlyGivenNames y
       first
         | (refine Only.have_ y ?_ fun _ => ?_; subst y; rotate_left; clear_value y)
         | (have _z : OutSt := y; subst y) | clear_value y | skip)
    | ((with_reducible apply Only.step (sendConfig_only ..)); (case hs => decide))
    | ((with_reducible apply Only.step (failover_only ..)); (case hs => decide))
    | ((with_reducible apply Only.step (txResume_only ..)); (case hs => decide))
    | ((with_reducible apply Only.step (txSync_only ..)); (case hs => decide))
    | ((with_reducible apply Only.step (noteLag_only ..)); (case hs => decide))
    | ((with_reducible apply Only.step (txBegin_only ..)); (case hs => decide))
    | (with_reducible apply Only.foldl)
    | intro t a ht
    | split
    | with_reducible refine Only.upd_out ?_

theorem enterIdle_only (s : State) :
    Only [.results, .out] s (enterIdle s) := by
  unfold enterIdle
  repeat' first
    | with_reducible exact Only.refl _
    | with_reducible assumption
    | (extract_lets +onlyGivenNames y
       first
         | (refine Only.have_ y ?_ fun _ => ?_; subst y; rotate_left; clear_value y)
         | (have _z : OutSt := y; subst y) | clear_value y | skip)
    | ((with_reducible apply Only.step (txTime_only ..)); (case hs => decide))
    | ((with_reducible apply Only.step (noteLag_only ..)); (case hs => decide))
    | ((with_reducible apply Only.step (txBegin_only ..)); (case hs => decide))
    | ((with_reducible apply Only.step (laneNote_only ..)); (case hs => decide))
    | ((with_reducible apply Only.step (showPorts_only ..)); (case hs => decide))
    | (with_reducible apply Only.foldl)
    | intro t a ht
    | split
    | with_reducible refine Only.upd_out ?_

theorem leaveIdle_only (s : State) :
    Only [.results, .events, .ports, .storeState, .storeQueue, .heldEvents, .out, .resil] s (leaveIdle s) := by
  unfold leaveIdle
  repeat' first
    | with_reducible exact Only.refl _
    | with_reducible assumption
    | (extract_lets +onlyGivenNames y
       first
         | (refine Only.have_ y ?_ fun _ => ?_; subst y; rotate_left; clear_value y)
         | clear_value y | skip)
    | ((with_reducible apply Only.step (othamLater_only ..)); (case hs => decide))
    | ((with_reducible apply Only.step (showPorts_only ..)); (case hs => decide))
    | split

theorem planBatch_only (stretch : Bool) (left : Nat) (s : State) :
    Only [.out] s (planBatch stretch left s) := by
  unfold planBatch
  repeat' first
    | with_reducible exact Only.refl _
    | with_reducible assumption
    | (extract_lets +onlyGivenNames y
       first
         | (refine Only.have_ y ?_ fun _ => ?_; subst y; rotate_left; clear_value y)
         | (have _z : OutSt := y; subst y) | clear_value y | skip)
    | split
    | with_reducible refine Only.upd_out ?_

theorem requestBatch_only (s : State) :
    Only [.results, .events, .ports, .storeState, .storeQueue, .heldEvents, .pipe, .out, .resil] s (requestBatch s) := by
  unfold requestBatch
  repeat' first
    | with_reducible exact Only.refl _
    | with_reducible assumption
    | (extract_lets +onlyGivenNames y
       first
         | (refine Only.have_ y ?_ fun _ => ?_; subst y; rotate_left; clear_value y)
         | (have _z : OutSt := y; subst y) | clear_value y | skip)
    | ((with_reducible apply Only.step (othamLater_only ..)); (case hs => decide))
    | ((with_reducible apply Only.step (planWindow_only ..)); (case hs => decide))
    | ((with_reducible apply Only.step (failover_only ..)); (case hs => decide))
    | ((with_reducible apply Only.step (txPacket_only ..)); (case hs => decide))
    | ((with_reducible apply Only.step (txSync_only ..)); (case hs => decide))
    | ((with_reducible apply Only.step (noteLag_only ..)); (case hs => decide))
    | ((with_reducible apply Only.step (txBegin_only ..)); (case hs => decide))
    | ((with_reducible apply Only.step (beginBatch_only ..)); (case hs => decide))
    | (with_reducible apply Only.foldl)
    | intro t a ht
    | split
    | with_reducible refine Only.upd_out ?_

theorem othamQuiet_only (stretch : Bool) (left : Nat) (s : State) :
    Only [.shadow, .results, .events, .ports, .storeState, .storeQueue, .heldEvents, .pipe, .out, .panel, .resil] s (othamQuiet stretch left s) := by
  unfold othamQuiet
  repeat' first
    | with_reducible exact Only.refl _
    | with_reducible assumption
    | (extract_lets +onlyGivenNames y
       first
         | (refine Only.have_ y ?_ fun _ => ?_; subst y; rotate_left; clear_value y)
         | clear_value y | skip)
    | ((with_reducible apply Only.step (requestBatch_only ..)); (case hs => decide))
    | ((with_reducible apply Only.step (planBatch_only ..)); (case hs => decide))
    | ((with_reducible apply Only.step (enterIdle_only ..)); (case hs => decide))
    | ((with_reducible apply Only.step (othamLater_only ..)); (case hs => decide))
    | ((with_reducible apply Only.step (closeWindows_only ..)); (case hs => decide))
    | ((with_reducible apply Only.step (openWindows_only ..)); (case hs => decide))
    | ((with_reducible apply Only.step (showPorts_only ..)); (case hs => decide))
    | split

theorem othamLine_only (n : Int) (stretch : Bool) (left : Nat) (s : State) :
    Only [.shadow, .results, .events, .ports, .storeState, .storeQueue, .heldEvents, .pipe, .out, .panel, .resil] s (othamLine n stretch left s) := by
  unfold othamLine
  repeat' first
    | with_reducible exact Only.refl _
    | with_reducible assumption
    | (extract_lets +onlyGivenNames y
       first
         | (refine Only.have_ y ?_ fun _ => ?_; subst y; rotate_left; clear_value y)
         | (have _z : OutSt := y; subst y) | clear_value y | skip)
    | ((with_reducible apply Only.step (othamQuiet_only ..)); (case hs => decide))
    | ((with_reducible apply Only.step (leaveIdle_only ..)); (case hs => decide))
    | ((with_reducible apply Only.step (closeWindows_only ..)); (case hs => decide))
    | ((with_reducible apply Only.step (othamFirstBlank_only ..)); (case hs => decide))
    | ((with_reducible apply Only.step (othamActive_only ..)); (case hs => decide))
    | split
    | with_reducible refine Only.upd_out ?_

theorem laneCounts_only (p : Nat) (l : Nat) (b : List Nat) (s : State) :
    Only [.results] s (laneCounts p l b s) := by
  unfold laneCounts
  repeat' first
    | with_reducible exact Only.refl _
    | with_reducible assumption
    | (extract_lets +onlyGivenNames y
       first
         | (refine Only.have_ y ?_ fun _ => ?_; subst y; rotate_left; clear_value y)
         | clear_value y | skip)
    | ((with_reducible apply Only.step (incSat_only ..)); (case hs => decide))

theorem laneStatus_only (p : Nat) (l : Nat) (err : Nat) (s : State) :
    Only [.results, .events, .ports, .storeQueue, .heldEvents, .out, .resil] s (laneStatus p l err s) := by
  unfold laneStatus
  repeat' first
    | with_reducible exact Only.refl _
    | with_reducible assumption
    | (extract_lets +onlyGivenNames y
       first
         | (refine Only.have_ y ?_ fun _ => ?_; subst y; rotate_left; clear_value y)
         | clear_value y | skip)
    | ((with_reducible apply Only.step (laneFails_only ..)); (case hs => decide))
    | ((with_reducible apply Only.step (setOlane_only ..)); (case hs => decide))
    | split

theorem copyStatus_only (p : Nat) (b : List Nat) (s : State) :
    Only [.results, .events, .ports, .storeQueue, .heldEvents, .out] s (copyStatus p b s) := by
  unfold copyStatus
  repeat' first
    | with_reducible exact Only.refl _
    | with_reducible assumption
    | (extract_lets +onlyGivenNames y
       first
         | (refine Only.have_ y ?_ fun _ => ?_; subst y; rotate_left; clear_value y)
         | clear_value y | skip)
    | ((with_reducible apply Only.step (laneCounts_only ..)); (case hs => decide))
    | ((with_reducible apply Only.step (setOport_only ..)); (case hs => decide))
    | ((with_reducible apply Only.step (raise_only ..)); (case hs => decide))
    | ((with_reducible apply Only.step (incSat_only ..)); (case hs => decide))
    | ((with_reducible apply Only.step (setResList_only ..)); (case hs => decide))
    | split

theorem takeStatus_only (p : Nat) (b : List Nat) (s : State) :
    Only [.results, .events, .ports, .storeQueue, .heldEvents, .out, .resil] s (takeStatus p b s) := by
  unfold takeStatus
  repeat' first
    | with_reducible exact Only.refl _
    | with_reducible assumption
    | (extract_lets +onlyGivenNames y
       first
         | (refine Only.have_ y ?_ fun _ => ?_; subst y; rotate_left; clear_value y)
         | (have _z : OutSt := y; subst y) | clear_value y | skip)
    | ((with_reducible apply Only.step (copyStatus_only ..)); (case hs => decide))
    | ((with_reducible apply Only.step (laneStatus_only ..)); (case hs => decide))
    | ((with_reducible apply Only.step (laneFails_only ..)); (case hs => decide))
    | ((with_reducible apply Only.step (setOport_only ..)); (case hs => decide))
    | ((with_reducible apply Only.step (raise_only ..)); (case hs => decide))
    | ((with_reducible apply Only.step (incSat_only ..)); (case hs => decide))
    | split
    | with_reducible refine Only.upd_out ?_

theorem fromDriver_only (p : Nat) (bs : List Block) (s : State) :
    Only [.out] s (fromDriver p bs s).2 := by
  unfold fromDriver
  repeat' first
    | with_reducible exact Only.refl _
    | with_reducible assumption
    | (extract_lets +onlyGivenNames y
       first
         | (refine Only.have_ y ?_ fun _ => ?_; subst y; rotate_left; clear_value y)
         | clear_value y | skip)
    | ((with_reducible apply Only.step (setOport_only ..)); (case hs => decide))
    | split

theorem sendTs1_only (p : Nat) (s : State) :
    Only [.out] s (sendTs1 p s) := by
  unfold sendTs1
  repeat' first
    | with_reducible exact Only.refl _
    | with_reducible assumption
    | (extract_lets +onlyGivenNames y
       first
         | (refine Only.have_ y ?_ fun _ => ?_; subst y; rotate_left; clear_value y)
         | clear_value y | skip)
    | ((with_reducible apply Only.step (txTime_only ..)); (case hs => decide))
    | ((with_reducible apply Only.step (laneNote_only ..)); (case hs => decide))
    | ((with_reducible apply Only.step (setOlane_only ..)); (case hs => decide))
    | (with_reducible apply Only.foldl)
    | intro t a ht

theorem beginAttempt_only (p : Nat) (mode : LaneMode) (s : State) :
    Only [.results, .out] s (beginAttempt p mode s) := by
  unfold beginAttempt
  repeat' first
    | with_reducible exact Only.refl _
    | with_reducible assumption
    | (extract_lets +onlyGivenNames y
       first
         | (refine Only.have_ y ?_ fun _ => ?_; subst y; rotate_left; clear_value y)
         | (have _z : OutSt := y; subst y) | clear_value y | skip)
    | ((with_reducible apply Only.step (sendTs1_only ..)); (case hs => decide))
    | ((with_reducible apply Only.step (txBegin_only ..)); (case hs => decide))
    | ((with_reducible apply Only.step (showPort_only ..)); (case hs => decide))
    | ((with_reducible apply Only.step (setOport_only ..)); (case hs => decide))
    | with_reducible refine Only.upd_out ?_

theorem trainingFailed_only (p : Nat) (cause : Nat) (s : State) :
    Only [.results, .events, .ports, .storeQueue, .heldEvents, .out, .resil] s (trainingFailed p cause s) := by
  unfold trainingFailed
  repeat' first
    | with_reducible exact Only.refl _
    | with_reducible assumption
    | (extract_lets +onlyGivenNames y
       first
         | (refine Only.have_ y ?_ fun _ => ?_; subst y; rotate_left; clear_value y)
         | clear_value y | skip)
    | ((with_reducible apply Only.step (stopPort_only ..)); (case hs => decide))
    | ((with_reducible apply Only.step (setOport_only ..)); (case hs => decide))
    | ((with_reducible apply Only.step (raise_only ..)); (case hs => decide))

theorem startTraining_only (p : Nat) (s : State) :
    Only [.results, .events, .ports, .storeQueue, .heldEvents, .out, .resil] s (startTraining p s) := by
  unfold startTraining
  repeat' first
    | with_reducible exact Only.refl _
    | with_reducible assumption
    | (extract_lets +onlyGivenNames y
       first
         | (refine Only.have_ y ?_ fun _ => ?_; subst y; rotate_left; clear_value y)
         | clear_value y | skip)
    | ((with_reducible apply Only.step (trainingFailed_only ..)); (case hs => decide))
    | ((with_reducible apply Only.step (beginAttempt_only ..)); (case hs => decide))
    | ((with_reducible apply Only.step (setOport_only ..)); (case hs => decide))
    | split

theorem attemptFails_only (p : Nat) (cause : Nat) (mode : LaneMode) (s : State) :
    Only [.results, .events, .ports, .storeQueue, .heldEvents, .out, .resil] s (attemptFails p cause mode s) := by
  unfold attemptFails
  repeat' first
    | with_reducible exact Only.refl _
    | with_reducible assumption
    | (extract_lets +onlyGivenNames y
       first
         | (refine Only.have_ y ?_ fun _ => ?_; subst y; rotate_left; clear_value y)
         | clear_value y | skip)
    | ((with_reducible apply Only.step (trainingFailed_only ..)); (case hs => decide))
    | ((with_reducible apply Only.step (beginAttempt_only ..)); (case hs => decide))
    | ((with_reducible apply Only.step (setOport_only ..)); (case hs => decide))
    | split

theorem trainConfig_only (p : Nat) (s : State) :
    Only [.out] s (trainConfig p s) := by
  unfold trainConfig
  repeat' first
    | with_reducible exact Only.refl _
    | with_reducible assumption
    | (extract_lets +onlyGivenNames y
       first
         | (refine Only.have_ y ?_ fun _ => ?_; subst y; rotate_left; clear_value y)
         | clear_value y | skip)
    | ((with_reducible apply Only.step (txPacket_only ..)); (case hs => decide))
    | ((with_reducible apply Only.step (txResume_only ..)); (case hs => decide))
    | ((with_reducible apply Only.step (txTurn_only ..)); (case hs => decide))
    | ((with_reducible apply Only.step (txBegin_only ..)); (case hs => decide))
    | ((with_reducible apply Only.step (setOport_only ..)); (case hs => decide))
    | (with_reducible apply Only.foldl)
    | intro t a ht

theorem trainLane_only (p : Nat) (l : Nat) (s : State) :
    Only [.results, .events, .ports, .storeState, .storeQueue, .heldEvents, .out] s (trainLane p l s) := by
  unfold trainLane
  repeat' first
    | with_reducible exact Only.refl _
    | with_reducible assumption
    | (extract_lets +onlyGivenNames y
       first
         | (refine Only.have_ y ?_ fun _ => ?_; subst y; rotate_left; clear_value y)
         | clear_value y | skip)
    | ((with_reducible apply Only.step (excludeLane_only ..)); (case hs => decide))
    | ((with_reducible apply Only.step (setOlane_only ..)); (case hs => decide))
    | ((with_reducible apply Only.step (changeRes_only ..)); (case hs => decide))
    | split

theorem trainingDone_only (p : Nat) (s : State) :
    Only [.results, .events, .ports, .storeState, .storeQueue, .heldEvents, .out, .resil] s (trainingDone p s) := by
  unfold trainingDone
  repeat' first
    | with_reducible exact Only.refl _
    | with_reducible assumption
    | (extract_lets +onlyGivenNames y
       first
         | (refine Only.have_ y ?_ fun _ => ?_; subst y; rotate_left; clear_value y)
         | (have _z : OutSt := y; subst y) | clear_value y | skip)
    | ((with_reducible apply Only.step (trainLane_only ..)); (case hs => decide))
    | ((with_reducible apply Only.step (txResume_only ..)); (case hs => decide))
    | ((with_reducible apply Only.step (txBegin_only ..)); (case hs => decide))
    | ((with_reducible apply Only.step (showPort_only ..)); (case hs => decide))
    | ((with_reducible apply Only.step (setOport_only ..)); (case hs => decide))
    | ((with_reducible apply Only.step (settle_only ..)); (case hs => decide))
    | ((with_reducible apply Only.step (raise_only ..)); (case hs => decide))
    | with_reducible refine Only.upd_out ?_

theorem trainStatus_only (p : Nat) (b : List Nat) (s : State) :
    Only [.results, .events, .ports, .storeState, .storeQueue, .heldEvents, .out, .resil] s (trainStatus p b s) := by
  unfold trainStatus
  repeat' first
    | with_reducible exact Only.refl _
    | with_reducible assumption
    | (extract_lets +onlyGivenNames y
       first
         | (refine Only.have_ y ?_ fun _ => ?_; subst y; rotate_left; clear_value y)
         | clear_value y | skip)
    | ((with_reducible apply Only.step (trainingDone_only ..)); (case hs => decide))
    | ((with_reducible apply Only.step (trainConfig_only ..)); (case hs => decide))
    | ((with_reducible apply Only.step (attemptFails_only ..)); (case hs => decide))
    | ((with_reducible apply Only.step (copyStatus_only ..)); (case hs => decide))
    | ((with_reducible apply Only.step (setOport_only ..)); (case hs => decide))
    | split

theorem driverStatus_only (p : Nat) (bs : List Block) (s : State) :
    Only [.results, .events, .ports, .storeState, .storeQueue, .heldEvents, .out, .resil] s (driverStatus p bs s) := by
  unfold driverStatus
  repeat' first
    | with_reducible exact Only.refl _
    | with_reducible assumption
    | (extract_lets +onlyGivenNames y
       first
         | (refine Only.have_ y ?_ fun _ => ?_; subst y; rotate_left; clear_value y)
         | clear_value y | skip)
    | ((with_reducible apply Only.step (trainStatus_only ..)); (case hs => decide))
    | ((with_reducible apply Only.step (fromDriver_only ..)); (case hs => decide))
    | ((with_reducible apply Only.step (takeStatus_only ..)); (case hs => decide))
    | ((with_reducible apply Only.step (showPort_only ..)); (case hs => decide))
    | (split <;> refine Only.have_ _ (Only.snd ?_ (by assumption)) fun _ => ?_)
    | split

theorem trainingTimer_only (p : Nat) (s : State) :
    Only [.now, .results, .events, .ports, .storeQueue, .heldEvents, .out, .resil] s (trainingTimer p s) := by
  unfold trainingTimer
  repeat' first
    | with_reducible exact Only.refl _
    | with_reducible assumption
    | (extract_lets +onlyGivenNames y
       first
         | (refine Only.have_ y ?_ fun _ => ?_; subst y; rotate_left; clear_value y)
         | clear_value y | skip)
    | ((with_reducible apply Only.step (attemptFails_only ..)); (case hs => decide))
    | ((with_reducible apply Only.step (txTurn_only ..)); (case hs => decide))
    | ((with_reducible apply Only.step (txBegin_only ..)); (case hs => decide))
    | ((with_reducible apply Only.step (showPort_only ..)); (case hs => decide))
    | ((with_reducible apply Only.step (setOport_only ..)); (case hs => decide))
    | ((with_reducible apply Only.step (advanceTo_only ..)); (case hs => decide))
    | split

theorem othamOff_only (s : State) :
    Only [.results, .out] s (othamOff s) := by
  unfold othamOff
  repeat' first
    | with_reducible exact Only.refl _
    | with_reducible assumption
    | (extract_lets +onlyGivenNames y
       first
         | (refine Only.have_ y ?_ fun _ => ?_; subst y; rotate_left; clear_value y)
         | (have _z : OutSt := y; subst y) | clear_value y | skip)
    | ((with_reducible apply Only.step (showPorts_only ..)); (case hs => decide))
    | with_reducible refine Only.upd_out ?_

theorem execReverseWindowEnd_only (p : Nat) (s : State) :
    Runs [.now, .shadow, .results, .events, .ports, .storeState, .storeQueue, .heldEvents, .pipe, .out, .resil] s (execReverseWindowEnd p s) := by
  unfold execReverseWindowEnd
  repeat' first
    | with_reducible apply Runs.next
    | with_reducible exact Only.refl _
    | with_reducible assumption
    | (extract_lets +onlyGivenNames y
       first
         | (refine Only.have_ y ?_ fun _ => ?_; subst y; rotate_left; clear_value y)
         | clear_value y | skip)
    | ((with_reducible apply Only.step (endWindow_only ..)); (case hs => decide))
    | ((with_reducible apply Only.step (advanceTo_only ..)); (case hs => decide))
    | split

theorem execSenseResult_only (p : Nat) (bs : List Block) (s : State) :
    Runs [.shadow, .results, .events, .ports, .storeQueue, .heldEvents, .pipe, .out] s (execSenseResult p bs s) := by
  unfold execSenseResult
  repeat' first
    | with_reducible apply Runs.next
    | with_reducible exact Only.refl _
    | with_reducible assumption
    | (extract_lets +onlyGivenNames y
       first
         | (refine Only.have_ y ?_ fun _ => ?_; subst y; rotate_left; clear_value y)
         | clear_value y | skip)
    | ((with_reducible apply Only.step (fromDriver_only ..)); (case hs => decide))
    | ((with_reducible apply Only.step (setOport_only ..)); (case hs => decide))
    | ((with_reducible apply Only.step (takeResults_only ..)); (case hs => decide))
    | (split <;> refine Only.have_ _ (Only.snd ?_ (by assumption)) fun _ => ?_)
    | split

theorem execReadbackCompare_only (p : Nat) (l : Nat) (line : Nat) (bs : List Block) (s : State) :
    Runs [.results, .events, .ports, .storeQueue, .heldEvents, .out, .resil] s (execReadbackCompare p l line bs s) := by
  unfold execReadbackCompare
  repeat' first
    | with_reducible apply Runs.next
    | with_reducible exact Only.refl _
    | with_reducible assumption
    | (extract_lets +onlyGivenNames y
       first
         | (refine Only.have_ y ?_ fun _ => ?_; subst y; rotate_left; clear_value y)
         | clear_value y | skip)
    | ((with_reducible apply Only.step (laneFails_only ..)); (case hs => decide))
    | ((with_reducible apply Only.step (setOlane_only ..)); (case hs => decide))
    | ((with_reducible apply Only.step (raise_only ..)); (case hs => decide))
    | ((with_reducible apply Only.step (incSat_only ..)); (case hs => decide))
    | split

theorem execOlaneLockLost_only (p : Nat) (l : Nat) (s : State) :
    Runs [.results, .events, .ports, .storeQueue, .heldEvents, .out, .resil] s (execOlaneLockLost p l s) := by
  unfold execOlaneLockLost
  repeat' first
    | with_reducible apply Runs.next
    | with_reducible exact Only.refl _
    | with_reducible assumption
    | (extract_lets +onlyGivenNames y
       first
         | (refine Only.have_ y ?_ fun _ => ?_; subst y; rotate_left; clear_value y)
         | clear_value y | skip)
    | ((with_reducible apply Only.step (laneFails_only ..)); (case hs => decide))
    | split

end Sys2Proof.Machine
end

