-- ==== Sys2Proof/Laws/FramesSideband.lean ====
section
/-! SUPPORT. What each definition of Machine/Sideband.lean changes. -/

set_option Elab.async false

set_option linter.tactic.unusedName false

namespace Sys2Proof.Machine

theorem auxSegment_only (s : State) (x : AuxReq × State) (h : auxSegment s = some x) :
    Only [.results, .ports, .aux] s x.2 := by
  unfold auxSegment at h
  extract_lets cut at h
  split at h
  · cases h; exact Only.upd_aux (Only.refl _) (by decide)
  · split at h
    · cases h
    · rename_i f fs _
      cases h
      refine Only.upd_aux ?_ (by decide)
      refine Only.step (incWrap_only ..) (by decide) ?_
      exact ⟨fun p hp => by cases p <;> first | exact rfl | exact absurd hp (by decide),
        .of_eq rfl rfl rfl rfl rfl rfl rfl rfl rfl rfl rfl rfl rfl rfl rfl⟩

theorem auxTake_only (channel : Nat) (s : State) (x : AuxReq × State) (h : auxTake channel s = some x) :
    Only [.aux] s x.2 := by
  unfold auxTake at h
  obtain ⟨r, _, rfl⟩ := Option.map_eq_some_iff.mp h
  exact Only.upd_aux (Only.refl _) (by decide)

theorem auxNext_only (s : State) (x : AuxReq × State) (h : auxNext s = some x) :
    Only [.results, .ports, .aux] s x.2 := by
  unfold auxNext at h
  simp only [Option.or_eq_some_iff] at h
  rcases h with h | ⟨_, h | ⟨_, h⟩⟩
  · exact (auxTake_only _ _ _ h).mono (by decide)
  · exact (auxTake_only _ _ _ h).mono (by decide)
  · split at h
    · cases h
    · simp only [Option.or_eq_some_iff] at h
      rcases h with h | ⟨_, h | ⟨_, h⟩⟩
      · exact (auxTake_only _ _ _ h).mono (by decide)
      · exact (auxTake_only _ _ _ h).mono (by decide)
      · exact auxSegment_only _ _ h

theorem auxPump_only (s : State) :
    Only [.results, .ports, .aux] s (auxPump s) := by
  unfold auxPump
  split
  · exact Only.refl _
  · split
    · exact Only.refl _
    · rename_i r t h
      exact Only.step (incWrap_only ..) (by decide) (Only.upd_aux (auxNext_only _ _ h) (by decide))

theorem auxPush_only (channel : Nat) (payload : List Nat) (s : State) :
    Only [.results, .ports, .aux] s (auxPush channel payload s) := by
  unfold auxPush
  repeat' first
    | with_reducible exact Only.refl _
    | with_reducible assumption
    | (extract_lets +onlyGivenNames y
       first
         | (refine Only.have_ y ?_ fun _ => ?_; subst y; rotate_left; clear_value y)
         | (have _z : AuxSt := y; subst y) | clear_value y | skip)
    | ((with_reducible apply Only.step (auxPump_only ..)); (case hs => decide))
    | with_reducible refine Only.upd_aux ?_

theorem showRegionLimit_only (s : State) :
    Only [.results] s (showRegionLimit s) := by
  unfold showRegionLimit
  repeat' first
    | with_reducible exact Only.refl _
    | with_reducible assumption
    | (extract_lets +onlyGivenNames y
       first
         | (refine Only.have_ y ?_ fun _ => ?_; subst y; rotate_left; clear_value y)
         | clear_value y | skip)
    | ((with_reducible apply Only.step (changeRes_only ..)); (case hs => decide))

theorem sendCredit_only (s : State) :
    Only [.results, .ports, .aux] s (sendCredit s) := by
  unfold sendCredit
  repeat' first
    | with_reducible exact Only.refl _
    | with_reducible assumption
    | (extract_lets +onlyGivenNames y
       first
         | (refine Only.have_ y ?_ fun _ => ?_; subst y; rotate_left; clear_value y)
         | (have _z : AuxSt := y; subst y) | clear_value y | skip)
    | ((with_reducible apply Only.step (showRegionLimit_only ..)); (case hs => decide))
    | ((with_reducible apply Only.step (auxPush_only ..)); (case hs => decide))
    | with_reducible refine Only.upd_aux ?_

theorem auxRepeat_only (s : State) :
    Only [.results, .aux] s (auxRepeat s) := by
  unfold auxRepeat
  repeat' first
    | with_reducible exact Only.refl _
    | with_reducible assumption
    | (extract_lets +onlyGivenNames y
       first
         | (refine Only.have_ y ?_ fun _ => ?_; subst y; rotate_left; clear_value y)
         | (have _z : AuxSt := y; subst y) | clear_value y | skip)
    | ((with_reducible apply Only.step (incWrap_only ..)); (case hs => decide))
    | ((with_reducible apply Only.step (incSat_only ..)); (case hs => decide))
    | split
    | with_reducible refine Only.upd_aux ?_

theorem auxDone_only (s : State) :
    Only [.aux] s (auxDone s) := by
  unfold auxDone
  repeat' first
    | with_reducible exact Only.refl _
    | with_reducible assumption
    | (extract_lets +onlyGivenNames y
       first
         | (refine Only.have_ y ?_ fun _ => ?_; subst y; rotate_left; clear_value y)
         | (have _z : AuxSt := y; subst y) | clear_value y | skip)
    | with_reducible refine Only.upd_aux ?_

theorem shortWait_only (s : State) :
    Only [.results, .link] s (shortWait s) := by
  unfold shortWait
  repeat' first
    | with_reducible exact Only.refl _
    | with_reducible assumption
    | (extract_lets +onlyGivenNames y
       first
         | (refine Only.have_ y ?_ fun _ => ?_; subst y; rotate_left; clear_value y)
         | (have _z : LinkSt := y; subst y) | clear_value y | skip)
    | ((with_reducible apply Only.step (changeRes_only ..)); (case hs => decide))
    | split
    | with_reducible refine Only.upd_link ?_

theorem auxHeard_only (s : State) :
    Only [.results, .link] s (auxHeard s) := by
  unfold auxHeard
  repeat' first
    | with_reducible exact Only.refl _
    | with_reducible assumption
    | (extract_lets +onlyGivenNames y
       first
         | (refine Only.have_ y ?_ fun _ => ?_; subst y; rotate_left; clear_value y)
         | clear_value y | skip)
    | ((with_reducible apply Only.step (shortWait_only ..)); (case hs => decide))
    | ((with_reducible apply Only.step (incWrap_only ..)); (case hs => decide))

theorem auxBroken_only (s : State) :
    Only [.results] s (auxBroken s) := by
  unfold auxBroken
  repeat' first
    | with_reducible exact Only.refl _
    | with_reducible assumption
    | (extract_lets +onlyGivenNames y
       first
         | (refine Only.have_ y ?_ fun _ => ?_; subst y; rotate_left; clear_value y)
         | clear_value y | skip)
    | ((with_reducible apply Only.step (incSat_only ..)); (case hs => decide))

theorem auxReply_only (f : AuxFrame) (answer : List Nat) (s : State) :
    Only [.results, .aux] s (auxReply f answer s) := by
  unfold auxReply
  repeat' first
    | with_reducible exact Only.refl _
    | with_reducible assumption
    | (extract_lets +onlyGivenNames y
       first
         | (refine Only.have_ y ?_ fun _ => ?_; subst y; rotate_left; clear_value y)
         | (have _z : AuxSt := y; subst y) | clear_value y | skip)
    | ((with_reducible apply Only.step (incWrap_only ..)); (case hs => decide))
    | with_reducible refine Only.upd_aux ?_

theorem auxReplyAgain_only (s : State) :
    Only [.results] s (auxReplyAgain s) := by
  unfold auxReplyAgain
  repeat' first
    | with_reducible exact Only.refl _
    | with_reducible assumption
    | (extract_lets +onlyGivenNames y
       first
         | (refine Only.have_ y ?_ fun _ => ?_; subst y; rotate_left; clear_value y)
         | clear_value y | skip)
    | ((with_reducible apply Only.step (incWrap_only ..)); (case hs => decide))

theorem auxRequest_only {ps : List Part} {act : State → List Nat × State} (f : AuxFrame) (s : State)
    (hs : [.results, .link, .aux].all (ps.contains ·) = true) (hf : ∀ t, Only ps t (act t).2) :
    Only ps s (auxRequest act f s) := by
  have heard : Only ps s (auxHeard s) := Only.mono ((auxHeard_only ..).mono (qs := [.results, .link, .aux]) (by decide)) hs
  unfold auxRequest
  split
  · exact Only.refl _
  · split
    · exact Only.mono ((auxBroken_only ..).mono (qs := [.results, .link, .aux]) (by decide)) hs
    · split
      · exact Only.refl _
      · split
        · exact heard.trans (Only.mono ((auxReplyAgain_only ..).mono (qs := [.results, .link, .aux]) (by decide)) hs)
        · exact (heard.trans (hf _)).trans (Only.mono ((auxReply_only ..).mono (qs := [.results, .link, .aux]) (by decide)) hs)

theorem dropKeys_only (sets : Nat) (cause : Nat) (s : State) :
    Only [.results, .events, .ports, .storeQueue, .security, .heldEvents] s (dropKeys sets cause s) := by
  unfold dropKeys
  repeat' first
    | with_reducible exact Only.refl _
    | with_reducible assumption
    | (extract_lets +onlyGivenNames y
       first
         | (refine Only.have_ y ?_ fun _ => ?_; subst y; rotate_left; clear_value y)
         | (have _z : SecSt := y; subst y) | clear_value y | skip)
    | ((with_reducible apply Only.step (raise_only ..)); (case hs => decide))
    | ((with_reducible apply Only.step (changeRes_only ..)); (case hs => decide))
    | split
    | with_reducible refine Only.upd_security ?_

theorem tellKeysLost_only (sets : Nat) (cause : Nat) (s : State) :
    Only [.results, .ports, .aux] s (tellKeysLost sets cause s) := by
  unfold tellKeysLost
  repeat' first
    | with_reducible exact Only.refl _
    | with_reducible assumption
    | (extract_lets +onlyGivenNames y
       first
         | (refine Only.have_ y ?_ fun _ => ?_; subst y; rotate_left; clear_value y)
         | clear_value y | skip)
    | ((with_reducible apply Only.step (auxPush_only ..)); (case hs => decide))

theorem otherChannel_only (f : AuxFrame) (s : State) :
    Only [.results] s (otherChannel f s).2 := by
  unfold otherChannel
  repeat' first
    | with_reducible exact Only.refl _
    | with_reducible assumption
    | (extract_lets +onlyGivenNames y
       first
         | (refine Only.have_ y ?_ fun _ => ?_; subst y; rotate_left; clear_value y)
         | clear_value y | skip)
    | ((with_reducible apply Only.step (incSat_only ..)); (case hs => decide))
    | split

theorem execAuxUnknownChannel_only (f : AuxFrame) (s : State) :
    Runs [.results, .link, .aux] s (execAuxUnknownChannel f s) := by
  unfold execAuxUnknownChannel
  repeat' first
    | with_reducible apply Runs.next
    | with_reducible exact Only.refl _
    | with_reducible assumption
    | (extract_lets +onlyGivenNames y
       first
         | (refine Only.have_ y ?_ fun _ => ?_; subst y; rotate_left; clear_value y)
         | clear_value y | skip)
    | ((with_reducible apply Only.step (otherChannel_only ..)); (case hs => decide))
    | (refine auxRequest_only _ _ (by decide) (fun _t => ?_); try dsimp only)
    | (split <;> refine Only.have_ _ (Only.snd ?_ (by assumption)) fun _ => ?_)
    | split

end Sys2Proof.Machine
end

