-- ==== Sys2Proof/Laws/FramesInput.lean ====
section
/-! SUPPORT. What each definition of Machine/Input.lean changes. -/

set_option Elab.async false

set_option linter.tactic.unusedName false

namespace Sys2Proof.Machine

theorem landLine_only (r : RxFrame) (y : Nat) (codes : List Nat) (bad : List (Nat × Nat)) (s : State) :
    Only [.rx] s (landLine r y codes bad s) := by
  unfold landLine
  repeat' first
    | with_reducible exact Only.refl _
    | with_reducible assumption
    | (extract_lets +onlyGivenNames y
       first
         | (refine Only.have_ y ?_ fun _ => ?_; subst y; rotate_left; clear_value y)
         | (have _z : RxSt := y; subst y) | clear_value y | skip)
    | split
    | with_reducible refine Only.upd_rx ?_

theorem countStored_only (m : Mode) (bad : List (Nat × Nat)) (s : State) :
    Only [.results] s (countStored m bad s) := by
  unfold countStored
  repeat' first
    | with_reducible exact Only.refl _
    | with_reducible assumption
    | (extract_lets +onlyGivenNames y
       first
         | (refine Only.have_ y ?_ fun _ => ?_; subst y; rotate_left; clear_value y)
         | clear_value y | skip)
    | ((with_reducible apply Only.step (countSubst_only ..)); (case hs => decide))
    | (with_reducible apply Only.foldl)
    | intro t a ht
    | split

theorem deliverLine_only (r : RxFrame) (y : Nat) (codes : List Nat) (bad : List (Nat × Nat)) (s : State) :
    Only [.results, .events, .ports, .storeQueue, .heldEvents, .rx, .pipe, .fstore, .dram] s (deliverLine r y codes bad s) := by
  unfold deliverLine
  repeat' first
    | with_reducible exact Only.refl _
    | with_reducible assumption
    | (extract_lets +onlyGivenNames y
       first
         | (refine Only.have_ y ?_ fun _ => ?_; subst y; rotate_left; clear_value y)
         | clear_value y | skip)
    | ((with_reducible apply Only.step (countStored_only ..)); (case hs => decide))
    | ((with_reducible apply Only.step (landLine_only ..)); (case hs => decide))
    | ((with_reducible apply Only.step (storeInputLine_only ..)); (case hs => decide))
    | ((with_reducible apply Only.step (raise_only ..)); (case hs => decide))
    | ((with_reducible apply Only.step (incSat_only ..)); (case hs => decide))
    | split

theorem lineMissing_only (r : RxFrame) (y : Nat) (codes : List Nat) (bad : List (Nat × Nat)) (gaps : List (Nat × Nat)) (s : State) :
    Only [.results, .events, .ports, .storeQueue, .heldEvents, .rx, .pipe, .fstore, .dram] s (lineMissing r y codes bad gaps s) := by
  unfold lineMissing
  repeat' first
    | with_reducible exact Only.refl _
    | with_reducible assumption
    | (extract_lets +onlyGivenNames y
       first
         | (refine Only.have_ y ?_ fun _ => ?_; subst y; rotate_left; clear_value y)
         | clear_value y | skip)
    | ((with_reducible apply Only.step (deliverLine_only ..)); (case hs => decide))
    | ((with_reducible apply Only.step (raise_only ..)); (case hs => decide))
    | ((with_reducible apply Only.step (incSat_only ..)); (case hs => decide))

theorem linesMissing_only (r : RxFrame) (n y : Nat) (s : State) :
    Only [.results, .events, .ports, .storeQueue, .heldEvents, .rx, .pipe, .fstore, .dram] s (linesMissing r n y s) := by
  induction n generalizing y s with
  | zero => exact Only.refl _
  | succ n ih => exact (lineMissing_only ..).trans (ih ..)

theorem closeLines_only (r : RxFrame) (upTo : Nat) (s : State) :
    Only [.results, .events, .ports, .storeQueue, .heldEvents, .rx, .pipe, .fstore, .dram] s (closeLines r upTo s) := by
  unfold closeLines
  repeat' first
    | with_reducible exact Only.refl _
    | with_reducible assumption
    | (extract_lets +onlyGivenNames y
       first
         | (refine Only.have_ y ?_ fun _ => ?_; subst y; rotate_left; clear_value y)
         | (have _z : RxSt := y; subst y) | clear_value y | skip)
    | ((with_reducible apply Only.step (linesMissing_only ..)); (case hs => decide))
    | ((with_reducible apply Only.step (lineMissing_only ..)); (case hs => decide))
    | split
    | with_reducible refine Only.upd_rx ?_

theorem endInput_only (s : State) :
    Only [.results, .events, .ports, .storeQueue, .heldEvents, .rx, .pipe, .fstore, .dram] s (endInput s) := by
  unfold endInput
  repeat' first
    | with_reducible exact Only.refl _
    | with_reducible assumption
    | (extract_lets +onlyGivenNames y
       first
         | (refine Only.have_ y ?_ fun _ => ?_; subst y; rotate_left; clear_value y)
         | (have _z : RxSt := y; subst y) | clear_value y | skip)
    | ((with_reducible apply Only.step (closeLines_only ..)); (case hs => decide))
    | split
    | with_reducible refine Only.upd_rx ?_

theorem forgetInput_only (s : State) :
    Only [.rx] s (forgetInput s) := by
  unfold forgetInput
  repeat' first
    | with_reducible exact Only.refl _
    | with_reducible assumption
    | (extract_lets +onlyGivenNames y
       first
         | (refine Only.have_ y ?_ fun _ => ?_; subst y; rotate_left; clear_value y)
         | (have _z : RxSt := y; subst y) | clear_value y | skip)
    | split
    | with_reducible refine Only.upd_rx ?_

end Sys2Proof.Machine
end

