-- ==== Sys2Proof/Laws/FramesLink.lean ====
section
/-! SUPPORT. What each definition of Machine/Link.lean changes. -/

set_option Elab.async false

set_option linter.tactic.unusedName false

namespace Sys2Proof.Machine

theorem setLane_only (n : Nat) (x : LaneSt) (s : State) :
    Only [.link] s (setLane n x s) := by
  unfold setLane
  repeat' first
    | with_reducible exact Only.refl _
    | with_reducible assumption
    | (extract_lets +onlyGivenNames y
       first
         | (refine Only.have_ y ?_ fun _ => ?_; subst y; rotate_left; clear_value y)
         | (have _z : LinkSt := y; subst y) | clear_value y | skip)
    | with_reducible refine Only.upd_link ?_

theorem showLanes_only (s : State) :
    Only [.results] s (showLanes s) := by
  unfold showLanes
  repeat' first
    | with_reducible exact Only.refl _
    | with_reducible assumption
    | (extract_lets +onlyGivenNames y
       first
         | (refine Only.have_ y ?_ fun _ => ?_; subst y; rotate_left; clear_value y)
         | clear_value y | skip)
    | ((with_reducible apply Only.step (changeRes_only ..)); (case hs => decide))
    | (with_reducible apply Only.foldl)
    | intro t a ht

theorem setPhase_only (p : LinkPhase) (s : State) :
    Only [.results, .link] s (setPhase p s) := by
  unfold setPhase
  repeat' first
    | with_reducible exact Only.refl _
    | with_reducible assumption
    | (extract_lets +onlyGivenNames y
       first
         | (refine Only.have_ y ?_ fun _ => ?_; subst y; rotate_left; clear_value y)
         | (have _z : LinkSt := y; subst y) | clear_value y | skip)
    | ((with_reducible apply Only.step (showLanes_only ..)); (case hs => decide))
    | ((with_reducible apply Only.step (changeRes_only ..)); (case hs => decide))
    | split
    | with_reducible refine Only.upd_link ?_

theorem showLane_only (n : Nat) (s : State) :
    Only [.results] s (showLane n s) := by
  unfold showLane
  repeat' first
    | with_reducible exact Only.refl _
    | with_reducible assumption
    | (extract_lets +onlyGivenNames y
       first
         | (refine Only.have_ y ?_ fun _ => ?_; subst y; rotate_left; clear_value y)
         | clear_value y | skip)
    | ((with_reducible apply Only.step (setResList_only ..)); (case hs => decide))
    | ((with_reducible apply Only.step (changeRes_only ..)); (case hs => decide))
    | split

theorem showFit_only (s : State) :
    Only [.results] s (showFit s) := by
  unfold showFit
  repeat' first
    | with_reducible exact Only.refl _
    | with_reducible assumption
    | (extract_lets +onlyGivenNames y
       first
         | (refine Only.have_ y ?_ fun _ => ?_; subst y; rotate_left; clear_value y)
         | clear_value y | skip)
    | ((with_reducible apply Only.step (changeRes_only ..)); (case hs => decide))
    | split

theorem showLink_only (s : State) :
    Only [.results] s (showLink s) := by
  unfold showLink
  repeat' first
    | with_reducible exact Only.refl _
    | with_reducible assumption
    | (extract_lets +onlyGivenNames y
       first
         | (refine Only.have_ y ?_ fun _ => ?_; subst y; rotate_left; clear_value y)
         | clear_value y | skip)
    | ((with_reducible apply Only.step (showFit_only ..)); (case hs => decide))
    | ((with_reducible apply Only.step (setResList_only ..)); (case hs => decide))
    | ((with_reducible apply Only.step (changeRes_only ..)); (case hs => decide))
    | split

theorem sendResult_only (outcome : Nat) (s : State) :
    Only [.results, .ports, .aux, .rx] s (sendResult outcome s) := by
  unfold sendResult
  repeat' first
    | with_reducible exact Only.refl _
    | with_reducible assumption
    | (extract_lets +onlyGivenNames y
       first
         | (refine Only.have_ y ?_ fun _ => ?_; subst y; rotate_left; clear_value y)
         | (have _z : RxSt := y; subst y) | clear_value y | skip)
    | ((with_reducible apply Only.step (sendCredit_only ..)); (case hs => decide))
    | ((with_reducible apply Only.step (auxPush_only ..)); (case hs => decide))
    | with_reducible refine Only.upd_rx ?_

theorem linkDown_only (s : State) :
    Only [.results, .events, .ports, .storeQueue, .heldEvents, .rx, .raster, .pipe, .fstore, .dram] s (linkDown s) := by
  unfold linkDown
  repeat' first
    | with_reducible exact Only.refl _
    | with_reducible assumption
    | (extract_lets +onlyGivenNames y
       first
         | (refine Only.have_ y ?_ fun _ => ?_; subst y; rotate_left; clear_value y)
         | (have _z : RasterSt := y; subst y) | (have _z : RxSt := y; subst y) | clear_value y | skip)
    | ((with_reducible apply Only.step (endInput_only ..)); (case hs => decide))
    | split
    | with_reducible refine Only.upd_rx_raster ?_

theorem idleLanes_only (s : State) :
    Only [.link] s (idleLanes s) := by
  unfold idleLanes
  repeat' first
    | with_reducible exact Only.refl _
    | with_reducible assumption
    | (extract_lets +onlyGivenNames y
       first
         | (refine Only.have_ y ?_ fun _ => ?_; subst y; rotate_left; clear_value y)
         | clear_value y | skip)
    | ((with_reducible apply Only.step (setLane_only ..)); (case hs => decide))
    | (with_reducible apply Only.foldl)
    | intro t a ht

theorem dropLanes_only (s : State) :
    Only [.link] s (dropLanes s) := by
  unfold dropLanes
  repeat' first
    | with_reducible exact Only.refl _
    | with_reducible assumption
    | (extract_lets +onlyGivenNames y
       first
         | (refine Only.have_ y ?_ fun _ => ?_; subst y; rotate_left; clear_value y)
         | (have _z : LinkSt := y; subst y) | clear_value y | skip)
    | ((with_reducible apply Only.step (idleLanes_only ..)); (case hs => decide))
    | with_reducible refine Only.upd_link ?_

theorem excludeFrom_only (state : Nat) (n : Nat) (s : State) :
    Only [.link] s (excludeFrom state n s) := by
  unfold excludeFrom
  repeat' first
    | with_reducible exact Only.refl _
    | with_reducible assumption
    | (extract_lets +onlyGivenNames y
       first
         | (refine Only.have_ y ?_ fun _ => ?_; subst y; rotate_left; clear_value y)
         | clear_value y | skip)
    | ((with_reducible apply Only.step (setLane_only ..)); (case hs => decide))

theorem armLanes_only (l : List Nat) (s : State) :
    Only [.link] s (armLanes l s) := by
  unfold armLanes
  repeat' first
    | with_reducible exact Only.refl _
    | with_reducible assumption
    | (extract_lets +onlyGivenNames y
       first
         | (refine Only.have_ y ?_ fun _ => ?_; subst y; rotate_left; clear_value y)
         | clear_value y | skip)
    | ((with_reducible apply Only.step (setLane_only ..)); (case hs => decide))
    | (with_reducible apply Only.foldl)
    | intro t a ht

theorem excludeAll_only (state : Nat) (l : List Nat) (s : State) :
    Only [.link] s (excludeAll state l s) := by
  unfold excludeAll
  repeat' first
    | with_reducible exact Only.refl _
    | with_reducible assumption
    | (extract_lets +onlyGivenNames y
       first
         | (refine Only.have_ y ?_ fun _ => ?_; subst y; rotate_left; clear_value y)
         | clear_value y | skip)
    | ((with_reducible apply Only.step (excludeFrom_only ..)); (case hs => decide))
    | (with_reducible apply Only.foldl)
    | intro t a ht

theorem trainReq_only (s : State) :
    Only [.results, .events, .ports, .storeQueue, .heldEvents, .link, .aux] s (trainReq s) := by
  unfold trainReq
  repeat' first
    | with_reducible exact Only.refl _
    | with_reducible assumption
    | (extract_lets +onlyGivenNames y
       first
         | (refine Only.have_ y ?_ fun _ => ?_; subst y; rotate_left; clear_value y)
         | (have _z : LinkSt := y; subst y) | clear_value y | skip)
    | ((with_reducible apply Only.step (armLanes_only ..)); (case hs => decide))
    | ((with_reducible apply Only.step (showLink_only ..)); (case hs => decide))
    | ((with_reducible apply Only.step (setPhase_only ..)); (case hs => decide))
    | ((with_reducible apply Only.step (auxPush_only ..)); (case hs => decide))
    | ((with_reducible apply Only.step (raise_only ..)); (case hs => decide))
    | ((with_reducible apply Only.step (incWrap_only ..)); (case hs => decide))
    | ((with_reducible apply Only.step (changeRes_only ..)); (case hs => decide))
    | with_reducible refine Only.upd_link ?_

theorem takeSnapshots_only (s : State) :
    Only [.results, .link] s (takeSnapshots s) := by
  unfold takeSnapshots
  repeat' first
    | with_reducible exact Only.refl _
    | with_reducible assumption
    | (extract_lets +onlyGivenNames y
       first
         | (refine Only.have_ y ?_ fun _ => ?_; subst y; rotate_left; clear_value y)
         | clear_value y | skip)
    | ((with_reducible apply Only.step (showLane_only ..)); (case hs => decide))
    | ((with_reducible apply Only.step (setLane_only ..)); (case hs => decide))
    | (with_reducible apply Only.foldl)
    | intro t a ht
    | split

theorem restoreLanes_only (s : State) :
    Only [.results, .link] s (restoreLanes s) := by
  unfold restoreLanes
  repeat' first
    | with_reducible exact Only.refl _
    | with_reducible assumption
    | (extract_lets +onlyGivenNames y
       first
         | (refine Only.have_ y ?_ fun _ => ?_; subst y; rotate_left; clear_value y)
         | (have _z : LinkSt := y; subst y) | clear_value y | skip)
    | ((with_reducible apply Only.step (takeSnapshots_only ..)); (case hs => decide))
    | with_reducible refine Only.upd_link ?_

theorem startEpisode_only (reason : Nat) (s : State) :
    Only [.results, .events, .ports, .storeQueue, .heldEvents, .link, .aux, .rx, .raster, .pipe, .fstore, .dram] s (startEpisode reason s) := by
  unfold startEpisode
  repeat' first
    | with_reducible exact Only.refl _
    | with_reducible assumption
    | (extract_lets +onlyGivenNames y
       first
         | (refine Only.have_ y ?_ fun _ => ?_; subst y; rotate_left; clear_value y)
         | (have _z : LinkSt := y; subst y) | clear_value y | skip)
    | ((with_reducible apply Only.step (restoreLanes_only ..)); (case hs => decide))
    | ((with_reducible apply Only.step (trainReq_only ..)); (case hs => decide))
    | ((with_reducible apply Only.step (dropLanes_only ..)); (case hs => decide))
    | ((with_reducible apply Only.step (linkDown_only ..)); (case hs => decide))
    | with_reducible refine Only.upd_link ?_

theorem enterDetect_only (reason : Nat) (s : State) :
    Only [.results, .ports, .link, .aux] s (enterDetect reason s) := by
  unfold enterDetect
  repeat' first
    | with_reducible exact Only.refl _
    | with_reducible assumption
    | (extract_lets +onlyGivenNames y
       first
         | (refine Only.have_ y ?_ fun _ => ?_; subst y; rotate_left; clear_value y)
         | (have _z : LinkSt := y; subst y) | clear_value y | skip)
    | ((with_reducible apply Only.step (restoreLanes_only ..)); (case hs => decide))
    | ((with_reducible apply Only.step (dropLanes_only ..)); (case hs => decide))
    | ((with_reducible apply Only.step (showLink_only ..)); (case hs => decide))
    | ((with_reducible apply Only.step (setPhase_only ..)); (case hs => decide))
    | ((with_reducible apply Only.step (auxPush_only ..)); (case hs => decide))
    | with_reducible refine Only.upd_link ?_

theorem enterBackoff_only (s : State) :
    Only [.results, .link] s (enterBackoff s) := by
  unfold enterBackoff
  repeat' first
    | with_reducible exact Only.refl _
    | with_reducible assumption
    | (extract_lets +onlyGivenNames y
       first
         | (refine Only.have_ y ?_ fun _ => ?_; subst y; rotate_left; clear_value y)
         | (have _z : LinkSt := y; subst y) | clear_value y | skip)
    | ((with_reducible apply Only.step (dropLanes_only ..)); (case hs => decide))
    | ((with_reducible apply Only.step (showLink_only ..)); (case hs => decide))
    | ((with_reducible apply Only.step (setPhase_only ..)); (case hs => decide))
    | ((with_reducible apply Only.step (changeRes_only ..)); (case hs => decide))
    | with_reducible refine Only.upd_link ?_

theorem endLane_only (act : List Nat) (n : Nat) (s : State) :
    Only [.results, .events, .ports, .storeState, .storeQueue, .heldEvents, .link] s (endLane act n s) := by
  unfold endLane
  repeat' first
    | with_reducible exact Only.refl _
    | with_reducible assumption
    | (extract_lets +onlyGivenNames y
       first
         | (refine Only.have_ y ?_ fun _ => ?_; subst y; rotate_left; clear_value y)
         | clear_value y | skip)
    | ((with_reducible apply Only.step (setLane_only ..)); (case hs => decide))
    | ((with_reducible apply Only.step (fellRecord_only ..)); (case hs => decide))
    | ((with_reducible apply Only.step (raise_only ..)); (case hs => decide))
    | ((with_reducible apply Only.step (changeRes_only ..)); (case hs => decide))
    | ((with_reducible apply Only.step (setRes_only ..)); (case hs => decide))
    | split

theorem endEpisode_only (act : List Nat) (s : State) :
    Only [.results, .events, .ports, .storeState, .storeQueue, .heldEvents, .link] s (endEpisode act s) := by
  unfold endEpisode
  repeat' first
    | with_reducible exact Only.refl _
    | with_reducible assumption
    | (extract_lets +onlyGivenNames y
       first
         | (refine Only.have_ y ?_ fun _ => ?_; subst y; rotate_left; clear_value y)
         | clear_value y | skip)
    | ((with_reducible apply Only.step (endLane_only ..)); (case hs => decide))
    | (with_reducible apply Only.foldl)
    | intro t a ht
    | split

theorem failTraining_only (s : State) :
    Only [.results, .events, .ports, .storeState, .storeQueue, .heldEvents, .link, .aux, .rx] s (failTraining s) := by
  unfold failTraining
  repeat' first
    | with_reducible exact Only.refl _
    | with_reducible assumption
    | (extract_lets +onlyGivenNames y
       first
         | (refine Only.have_ y ?_ fun _ => ?_; subst y; rotate_left; clear_value y)
         | (have _z : LinkSt := y; subst y) | clear_value y | skip)
    | ((with_reducible apply Only.step (endEpisode_only ..)); (case hs => decide))
    | ((with_reducible apply Only.step (enterBackoff_only ..)); (case hs => decide))
    | ((with_reducible apply Only.step (sendResult_only ..)); (case hs => decide))
    | with_reducible refine Only.upd_link ?_

theorem recallRequests_only (s : State) :
    Only [.aux] s (recallRequests s) := by
  unfold recallRequests
  repeat' first
    | with_reducible exact Only.refl _
    | with_reducible assumption
    | (extract_lets +onlyGivenNames y
       first
         | (refine Only.have_ y ?_ fun _ => ?_; subst y; rotate_left; clear_value y)
         | (have _z : AuxSt := y; subst y) | clear_value y | skip)
    | split
    | with_reducible refine Only.upd_aux ?_

theorem queueKeysLost_only (held : Nat) (s : State) :
    Only [.aux] s (queueKeysLost held s) := by
  unfold queueKeysLost
  repeat' first
    | with_reducible exact Only.refl _
    | with_reducible assumption
    | (extract_lets +onlyGivenNames y
       first
         | (refine Only.have_ y ?_ fun _ => ?_; subst y; rotate_left; clear_value y)
         | (have _z : AuxSt := y; subst y) | clear_value y | skip)
    | split
    | with_reducible refine Only.upd_aux ?_

theorem partnerLost_only (cause : Nat) (s : State) :
    Only [.results, .events, .ports, .storeState, .storeQueue, .security, .heldEvents, .link, .aux, .rx, .raster, .pipe, .fstore, .dram] s (partnerLost cause s) := by
  unfold partnerLost
  repeat' first
    | with_reducible exact Only.refl _
    | with_reducible assumption
    | (extract_lets +onlyGivenNames y
       first
         | (refine Only.have_ y ?_ fun _ => ?_; subst y; rotate_left; clear_value y)
         | (have _z : LinkSt := y; subst y) | clear_value y | skip)
    | ((with_reducible apply Only.step (queueKeysLost_only ..)); (case hs => decide))
    | ((with_reducible apply Only.step (recallRequests_only ..)); (case hs => decide))
    | ((with_reducible apply Only.step (endEpisode_only ..)); (case hs => decide))
    | ((with_reducible apply Only.step (enterBackoff_only ..)); (case hs => decide))
    | ((with_reducible apply Only.step (linkDown_only ..)); (case hs => decide))
    | ((with_reducible apply Only.step (dropKeys_only ..)); (case hs => decide))
    | ((with_reducible apply Only.step (raise_only ..)); (case hs => decide))
    | split
    | with_reducible refine Only.upd_link ?_

theorem dropTwins_only (s : State) :
    Only [.link] s (dropTwins s) := by
  unfold dropTwins
  repeat' first
    | with_reducible exact Only.refl _
    | with_reducible assumption
    | (extract_lets +onlyGivenNames y
       first
         | (refine Only.have_ y ?_ fun _ => ?_; subst y; rotate_left; clear_value y)
         | clear_value y | skip)
    | ((with_reducible apply Only.step (excludeFrom_only ..)); (case hs => decide))
    | (with_reducible apply Only.foldl)
    | intro t a ht

theorem excludeWeak_only (s : State) :
    Only [.link] s (excludeWeak s) := by
  unfold excludeWeak
  repeat' first
    | with_reducible exact Only.refl _
    | with_reducible assumption
    | (extract_lets +onlyGivenNames y
       first
         | (refine Only.have_ y ?_ fun _ => ?_; subst y; rotate_left; clear_value y)
         | clear_value y | skip)
    | ((with_reducible apply Only.step (excludeFrom_only ..)); (case hs => decide))
    | (with_reducible apply Only.foldl)
    | intro t a ht
    | split

theorem enterVerify_only (s : State) :
    Only [.results, .ports, .link, .aux] s (enterVerify s) := by
  unfold enterVerify
  repeat' first
    | with_reducible exact Only.refl _
    | with_reducible assumption
    | (extract_lets +onlyGivenNames y
       first
         | (refine Only.have_ y ?_ fun _ => ?_; subst y; rotate_left; clear_value y)
         | clear_value y | skip)
    | ((with_reducible apply Only.step (excludeWeak_only ..)); (case hs => decide))
    | ((with_reducible apply Only.step (setPhase_only ..)); (case hs => decide))
    | ((with_reducible apply Only.step (auxPush_only ..)); (case hs => decide))

theorem sendEqSet_only (other : List Nat) (unknown : Bool) (s : State) :
    Only [.results, .ports, .link, .aux] s (sendEqSet other unknown s) := by
  unfold sendEqSet
  repeat' first
    | with_reducible exact Only.refl _
    | with_reducible assumption
    | (extract_lets +onlyGivenNames y
       first
         | (refine Only.have_ y ?_ fun _ => ?_; subst y; rotate_left; clear_value y)
         | (have _z : LinkSt := y; subst y) | clear_value y | skip)
    | ((with_reducible apply Only.step (auxPush_only ..)); (case hs => decide))
    | with_reducible refine Only.upd_link ?_

theorem tryPreset_only (p : Nat) (s : State) :
    Only [.results, .ports, .link, .aux] s (tryPreset p s) := by
  unfold tryPreset
  repeat' first
    | with_reducible exact Only.refl _
    | with_reducible assumption
    | (extract_lets +onlyGivenNames y
       first
         | (refine Only.have_ y ?_ fun _ => ?_; subst y; rotate_left; clear_value y)
         | (have _z : LinkSt := y; subst y) | clear_value y | skip)
    | ((with_reducible apply Only.step (sendEqSet_only ..)); (case hs => decide))
    | (with_reducible apply Only.foldl)
    | intro t a ht
    | with_reducible refine Only.upd_link ?_

theorem finishEq_only (s : State) :
    Only [.results, .ports, .link, .aux] s (finishEq s) := by
  unfold finishEq
  repeat' first
    | with_reducible exact Only.refl _
    | with_reducible assumption
    | (extract_lets +onlyGivenNames y
       first
         | (refine Only.have_ y ?_ fun _ => ?_; subst y; rotate_left; clear_value y)
         | clear_value y | skip)
    | ((with_reducible apply Only.step (enterVerify_only ..)); (case hs => decide))
    | ((with_reducible apply Only.step (dropTwins_only ..)); (case hs => decide))
    | ((with_reducible apply Only.step (showLane_only ..)); (case hs => decide))
    | ((with_reducible apply Only.step (setLane_only ..)); (case hs => decide))
    | (with_reducible apply Only.foldl)
    | intro t a ht
    | split

theorem fineStep_only (s : State) :
    Only [.results, .ports, .link, .aux] s (fineStep s) := by
  unfold fineStep
  repeat' first
    | with_reducible exact Only.refl _
    | with_reducible assumption
    | (extract_lets +onlyGivenNames y
       first
         | (refine Only.have_ y ?_ fun _ => ?_; subst y; rotate_left; clear_value y)
         | (have _z : LinkSt := y; subst y) | clear_value y | skip)
    | ((with_reducible apply Only.step (finishEq_only ..)); (case hs => decide))
    | ((with_reducible apply Only.step (sendEqSet_only ..)); (case hs => decide))
    | (with_reducible apply Only.foldl)
    | intro t a ht
    | split
    | with_reducible refine Only.upd_link ?_

theorem measureWeak_only (rs : List LaneReport) (n : Nat) (s : State) :
    Only [.results, .link] s (measureWeak rs n s).2 := by
  unfold measureWeak
  repeat' first
    | with_reducible exact Only.refl _
    | with_reducible assumption
    | (extract_lets +onlyGivenNames y
       first
         | (refine Only.have_ y ?_ fun _ => ?_; subst y; rotate_left; clear_value y)
         | clear_value y | skip)
    | ((with_reducible apply Only.step (showLane_only ..)); (case hs => decide))
    | ((with_reducible apply Only.step (setLane_only ..)); (case hs => decide))
    | split

theorem keepBest_only (rs : List LaneReport) (n : Nat) (s : State) :
    Only [.results, .link] s (keepBest rs n s) := by
  unfold keepBest
  repeat' first
    | with_reducible exact Only.refl _
    | with_reducible assumption
    | (extract_lets +onlyGivenNames y
       first
         | (refine Only.have_ y ?_ fun _ => ?_; subst y; rotate_left; clear_value y)
         | (have _z : LinkSt := y; subst y) | clear_value y | skip)
    | ((with_reducible apply Only.step (measureWeak_only ..)); (case hs => decide))
    | (split <;> refine Only.have_ _ (Only.snd ?_ (by assumption)) fun _ => ?_)
    | split
    | with_reducible refine Only.upd_link ?_

theorem keepAll_only (rs : List LaneReport) (s : State) :
    Only [.results, .link] s (keepAll rs s) := by
  unfold keepAll
  repeat' first
    | with_reducible exact Only.refl _
    | with_reducible assumption
    | (extract_lets +onlyGivenNames y
       first
         | (refine Only.have_ y ?_ fun _ => ?_; subst y; rotate_left; clear_value y)
         | clear_value y | skip)
    | ((with_reducible apply Only.step (keepBest_only ..)); (case hs => decide))
    | (with_reducible apply Only.foldl)
    | intro t a ht

theorem afterDeskew_only (s : State) :
    Only [.results, .ports, .link, .aux] s (afterDeskew s) := by
  unfold afterDeskew
  repeat' first
    | with_reducible exact Only.refl _
    | with_reducible assumption
    | (extract_lets +onlyGivenNames y
       first
         | (refine Only.have_ y ?_ fun _ => ?_; subst y; rotate_left; clear_value y)
         | (have _z : LinkSt := y; subst y) | clear_value y | skip)
    | ((with_reducible apply Only.step (tryPreset_only ..)); (case hs => decide))
    | ((with_reducible apply Only.step (enterVerify_only ..)); (case hs => decide))
    | ((with_reducible apply Only.step (setPhase_only ..)); (case hs => decide))
    | split
    | with_reducible refine Only.upd_link ?_

theorem makeWeak_only (state : Nat) (n : Nat) (s : State) :
    Only [.link] s (makeWeak state n s) := by
  unfold makeWeak
  repeat' first
    | with_reducible exact Only.refl _
    | with_reducible assumption
    | (extract_lets +onlyGivenNames y
       first
         | (refine Only.have_ y ?_ fun _ => ?_; subst y; rotate_left; clear_value y)
         | clear_value y | skip)
    | ((with_reducible apply Only.step (setLane_only ..)); (case hs => decide))

theorem bitlockLane_only (rs : List LaneReport) (n : Nat) (s : State) :
    Only [.results, .link, .free] s (bitlockLane rs n s) := by
  unfold bitlockLane
  repeat' first
    | with_reducible exact Only.refl _
    | with_reducible assumption
    | (extract_lets +onlyGivenNames y
       first
         | (refine Only.have_ y ?_ fun _ => ?_; subst y; rotate_left; clear_value y)
         | (have _z : LinkSt := y; subst y) | clear_value y | skip)
    | ((with_reducible apply Only.step (makeWeak_only ..)); (case hs => decide))
    | ((with_reducible apply Only.step (showLane_only ..)); (case hs => decide))
    | ((with_reducible apply Only.step (setLane_only ..)); (case hs => decide))
    | ((with_reducible apply Only.step (draw_only ..)); (case hs => decide))
    | (split <;> refine Only.have_ _ (Only.snd ?_ (by assumption)) fun _ => ?_)
    | split
    | with_reducible refine Only.upd_link ?_

theorem takeBitlock_only (rs : List LaneReport) (s : State) :
    Only [.results, .link, .free] s (takeBitlock rs s) := by
  unfold takeBitlock
  repeat' first
    | with_reducible exact Only.refl _
    | with_reducible assumption
    | (extract_lets +onlyGivenNames y
       first
         | (refine Only.have_ y ?_ fun _ => ?_; subst y; rotate_left; clear_value y)
         | clear_value y | skip)
    | ((with_reducible apply Only.step (bitlockLane_only ..)); (case hs => decide))
    | ((with_reducible apply Only.step (setPhase_only ..)); (case hs => decide))
    | (with_reducible apply Only.foldl)
    | intro t a ht

theorem blocklockLane_only (rs : List LaneReport) (n : Nat) (s : State) :
    Only [.results, .link] s (blocklockLane rs n s) := by
  unfold blocklockLane
  repeat' first
    | with_reducible exact Only.refl _
    | with_reducible assumption
    | (extract_lets +onlyGivenNames y
       first
         | (refine Only.have_ y ?_ fun _ => ?_; subst y; rotate_left; clear_value y)
         | clear_value y | skip)
    | ((with_reducible apply Only.step (makeWeak_only ..)); (case hs => decide))
    | ((with_reducible apply Only.step (showLane_only ..)); (case hs => decide))
    | ((with_reducible apply Only.step (setLane_only ..)); (case hs => decide))
    | split

theorem takeBlocklock_only (rs : List LaneReport) (s : State) :
    Only [.results, .link] s (takeBlocklock rs s) := by
  unfold takeBlocklock
  repeat' first
    | with_reducible exact Only.refl _
    | with_reducible assumption
    | (extract_lets +onlyGivenNames y
       first
         | (refine Only.have_ y ?_ fun _ => ?_; subst y; rotate_left; clear_value y)
         | clear_value y | skip)
    | ((with_reducible apply Only.step (blocklockLane_only ..)); (case hs => decide))
    | ((with_reducible apply Only.step (dropTwins_only ..)); (case hs => decide))
    | ((with_reducible apply Only.step (setPhase_only ..)); (case hs => decide))
    | (with_reducible apply Only.foldl)
    | intro t a ht

theorem deskewLane_only (least : Nat) (aligned : List Nat) (rs : List LaneReport) (n : Nat) (s : State) :
    Only [.results, .link] s (deskewLane least aligned rs n s) := by
  unfold deskewLane
  repeat' first
    | with_reducible exact Only.refl _
    | with_reducible assumption
    | (extract_lets +onlyGivenNames y
       first
         | (refine Only.have_ y ?_ fun _ => ?_; subst y; rotate_left; clear_value y)
         | clear_value y | skip)
    | ((with_reducible apply Only.step (excludeFrom_only ..)); (case hs => decide))
    | ((with_reducible apply Only.step (showLane_only ..)); (case hs => decide))
    | ((with_reducible apply Only.step (setLane_only ..)); (case hs => decide))
    | split

theorem takeDeskew_only (rs : List LaneReport) (s : State) :
    Only [.results, .ports, .link, .aux] s (takeDeskew rs s) := by
  unfold takeDeskew
  repeat' first
    | with_reducible exact Only.refl _
    | with_reducible assumption
    | (extract_lets +onlyGivenNames y
       first
         | (refine Only.have_ y ?_ fun _ => ?_; subst y; rotate_left; clear_value y)
         | clear_value y | skip)
    | ((with_reducible apply Only.step (deskewLane_only ..)); (case hs => decide))
    | ((with_reducible apply Only.step (afterDeskew_only ..)); (case hs => decide))
    | (with_reducible apply Only.foldl)
    | intro t a ht

theorem lateTraining_only (m : Nat) (s : State) :
    Only [.now, .results, .events, .ports, .storeQueue, .heldEvents] s (lateTraining m s) := by
  unfold lateTraining
  repeat' first
    | with_reducible exact Only.refl _
    | with_reducible assumption
    | (extract_lets +onlyGivenNames y
       first
         | (refine Only.have_ y ?_ fun _ => ?_; subst y; rotate_left; clear_value y)
         | clear_value y | skip)
    | ((with_reducible apply Only.step (raise_only ..)); (case hs => decide))
    | ((with_reducible apply Only.step (advanceTo_only ..)); (case hs => decide))

theorem activateLanes_only (act : List Nat) (carries : Bool) (s : State) :
    Only [.link] s (activateLanes act carries s) := by
  unfold activateLanes
  repeat' first
    | with_reducible exact Only.refl _
    | with_reducible assumption
    | (extract_lets +onlyGivenNames y
       first
         | (refine Only.have_ y ?_ fun _ => ?_; subst y; rotate_left; clear_value y)
         | (have _z : LinkSt := y; subst y) | clear_value y | skip)
    | ((with_reducible apply Only.step (setLane_only ..)); (case hs => decide))
    | (with_reducible apply Only.foldl)
    | intro t a ht
    | with_reducible refine Only.upd_link ?_

theorem tellActive_only (act : List Nat) (s : State) :
    Only [.results, .events, .ports, .storeQueue, .heldEvents, .aux, .rx] s (tellActive act s) := by
  unfold tellActive
  repeat' first
    | with_reducible exact Only.refl _
    | with_reducible assumption
    | (extract_lets +onlyGivenNames y
       first
         | (refine Only.have_ y ?_ fun _ => ?_; subst y; rotate_left; clear_value y)
         | clear_value y | skip)
    | ((with_reducible apply Only.step (sendResult_only ..)); (case hs => decide))
    | ((with_reducible apply Only.step (showLink_only ..)); (case hs => decide))
    | ((with_reducible apply Only.step (raise_only ..)); (case hs => decide))
    | split

theorem goActive_only (act : List Nat) (carries : Bool) (s : State) :
    Only [.results, .events, .ports, .storeState, .storeQueue, .heldEvents, .link, .aux, .rx] s (goActive act carries s) := by
  unfold goActive
  repeat' first
    | with_reducible exact Only.refl _
    | with_reducible assumption
    | (extract_lets +onlyGivenNames y
       first
         | (refine Only.have_ y ?_ fun _ => ?_; subst y; rotate_left; clear_value y)
         | clear_value y | skip)
    | ((with_reducible apply Only.step (tellActive_only ..)); (case hs => decide))
    | ((with_reducible apply Only.step (activateLanes_only ..)); (case hs => decide))
    | ((with_reducible apply Only.step (endEpisode_only ..)); (case hs => decide))
    | ((with_reducible apply Only.step (setPhase_only ..)); (case hs => decide))

theorem verifyLane_only (rs : List LaneReport) (n : Nat) (s : State) :
    Only [.results, .link] s (verifyLane rs n s) := by
  unfold verifyLane
  repeat' first
    | with_reducible exact Only.refl _
    | with_reducible assumption
    | (extract_lets +onlyGivenNames y
       first
         | (refine Only.have_ y ?_ fun _ => ?_; subst y; rotate_left; clear_value y)
         | clear_value y | skip)
    | ((with_reducible apply Only.step (excludeFrom_only ..)); (case hs => decide))
    | ((with_reducible apply Only.step (setLane_only ..)); (case hs => decide))
    | ((with_reducible apply Only.step (incSat_only ..)); (case hs => decide))
    | split

theorem afterVerify_only (act : List Nat) (s : State) :
    Only [.results, .events, .ports, .storeState, .storeQueue, .heldEvents, .link, .aux, .rx] s (afterVerify act s) := by
  unfold afterVerify
  repeat' first
    | with_reducible exact Only.refl _
    | with_reducible assumption
    | (extract_lets +onlyGivenNames y
       first
         | (refine Only.have_ y ?_ fun _ => ?_; subst y; rotate_left; clear_value y)
         | (have _z : LinkSt := y; subst y) | clear_value y | skip)
    | ((with_reducible apply Only.step (goActive_only ..)); (case hs => decide))
    | ((with_reducible apply Only.step (failTraining_only ..)); (case hs => decide))
    | ((with_reducible apply Only.step (trainReq_only ..)); (case hs => decide))
    | ((with_reducible apply Only.step (raise_only ..)); (case hs => decide))
    | split
    | with_reducible refine Only.upd_link ?_

theorem takeCaps_only (c : SourceCaps) (s : State) :
    Only [.results, .events, .ports, .storeQueue, .heldEvents, .link, .aux, .rx, .raster, .pipe, .fstore, .dram] s (takeCaps c s) := by
  unfold takeCaps
  repeat' first
    | with_reducible exact Only.refl _
    | with_reducible assumption
    | (extract_lets +onlyGivenNames y
       first
         | (refine Only.have_ y ?_ fun _ => ?_; subst y; rotate_left; clear_value y)
         | (have _z : LinkSt := y; subst y) | clear_value y | skip)
    | ((with_reducible apply Only.step (startEpisode_only ..)); (case hs => decide))
    | split
    | with_reducible refine Only.upd_link ?_

theorem takeEqAck_only (attempt : Nat) (s : State) :
    Only [.link] s (takeEqAck attempt s) := by
  unfold takeEqAck
  repeat' first
    | with_reducible exact Only.refl _
    | with_reducible assumption
    | (extract_lets +onlyGivenNames y
       first
         | (refine Only.have_ y ?_ fun _ => ?_; subst y; rotate_left; clear_value y)
         | (have _z : LinkSt := y; subst y) | clear_value y | skip)
    | split
    | with_reducible refine Only.upd_link ?_

theorem linkMessage_only (m : List Nat) (s : State) :
    Only [.results, .events, .ports, .storeQueue, .heldEvents, .link, .aux, .rx, .raster, .pipe, .fstore, .dram] s (linkMessage m s).2 := by
  unfold linkMessage
  repeat' first
    | with_reducible exact Only.refl _
    | with_reducible assumption
    | (extract_lets +onlyGivenNames y
       first
         | (refine Only.have_ y ?_ fun _ => ?_; subst y; rotate_left; clear_value y)
         | clear_value y | skip)
    | ((with_reducible apply Only.step (takeCaps_only ..)); (case hs => decide))
    | ((with_reducible apply Only.step (startEpisode_only ..)); (case hs => decide))
    | split

theorem linkRequest_only (f : AuxFrame) (s : State) :
    Only [.results, .events, .ports, .storeQueue, .heldEvents, .link, .aux, .rx, .raster, .pipe, .fstore, .dram] s (linkRequest f s) := by
  unfold linkRequest
  repeat' first
    | with_reducible exact Only.refl _
    | with_reducible assumption
    | (extract_lets +onlyGivenNames y
       first
         | (refine Only.have_ y ?_ fun _ => ?_; subst y; rotate_left; clear_value y)
         | clear_value y | skip)
    | ((with_reducible apply Only.step (linkMessage_only ..)); (case hs => decide))
    | (refine auxRequest_only _ _ (by decide) (fun _t => ?_); try dsimp only)
    | (split <;> refine Only.have_ _ (Only.snd ?_ (by assumption)) fun _ => ?_)
    | split

theorem takeReply_only (r : AuxReq) (m : List Nat) (s : State) :
    Only [.results, .events, .ports, .storeQueue, .heldEvents, .link, .aux, .rx, .raster, .pipe, .fstore, .dram] s (takeReply r m s) := by
  unfold takeReply
  repeat' first
    | with_reducible exact Only.refl _
    | with_reducible assumption
    | (extract_lets +onlyGivenNames y
       first
         | (refine Only.have_ y ?_ fun _ => ?_; subst y; rotate_left; clear_value y)
         | clear_value y | skip)
    | ((with_reducible apply Only.step (takeEqAck_only ..)); (case hs => decide))
    | ((with_reducible apply Only.step (takeCaps_only ..)); (case hs => decide))
    | split

theorem takeAnswer_only (f : AuxFrame) (s : State) :
    Only [.results, .events, .ports, .storeQueue, .heldEvents, .link, .aux, .rx, .raster, .pipe, .fstore, .dram] s (takeAnswer f s) := by
  unfold takeAnswer
  repeat' first
    | with_reducible exact Only.refl _
    | with_reducible assumption
    | (extract_lets +onlyGivenNames y
       first
         | (refine Only.have_ y ?_ fun _ => ?_; subst y; rotate_left; clear_value y)
         | (have _z : AuxSt := y; subst y) | clear_value y | skip)
    | ((with_reducible apply Only.step (takeReply_only ..)); (case hs => decide))
    | ((with_reducible apply Only.step (auxBroken_only ..)); (case hs => decide))
    | ((with_reducible apply Only.step (auxHeard_only ..)); (case hs => decide))
    | ((with_reducible apply Only.step (auxDone_only ..)); (case hs => decide))
    | ((with_reducible apply Only.step (auxPump_only ..)); (case hs => decide))
    | ((with_reducible apply Only.step (changeRes_only ..)); (case hs => decide))
    | split
    | with_reducible refine Only.upd_aux ?_

theorem leaveBackoff_only (reason : Nat) (s : State) :
    Only [.results, .events, .ports, .storeQueue, .heldEvents, .link, .aux, .rx, .raster, .pipe, .fstore, .dram] s (leaveBackoff reason s) := by
  unfold leaveBackoff
  repeat' first
    | with_reducible exact Only.refl _
    | with_reducible assumption
    | (extract_lets +onlyGivenNames y
       first
         | (refine Only.have_ y ?_ fun _ => ?_; subst y; rotate_left; clear_value y)
         | clear_value y | skip)
    | ((with_reducible apply Only.step (enterDetect_only ..)); (case hs => decide))
    | ((with_reducible apply Only.step (startEpisode_only ..)); (case hs => decide))
    | split

theorem retrainEntry_only (s : State) :
    Only [.results, .events, .ports, .storeQueue, .heldEvents, .link, .aux, .rx, .raster, .pipe, .fstore, .dram] s (retrainEntry s) := by
  unfold retrainEntry
  repeat' first
    | with_reducible exact Only.refl _
    | with_reducible assumption
    | (extract_lets +onlyGivenNames y
       first
         | (refine Only.have_ y ?_ fun _ => ?_; subst y; rotate_left; clear_value y)
         | clear_value y | skip)
    | ((with_reducible apply Only.step (leaveBackoff_only ..)); (case hs => decide))
    | ((with_reducible apply Only.step (startEpisode_only ..)); (case hs => decide))
    | split

theorem noteLockLost_only (cause : Nat) (n : Nat) (s : State) :
    Only [.results, .events, .ports, .storeQueue, .heldEvents] s (noteLockLost cause n s) := by
  unfold noteLockLost
  repeat' first
    | with_reducible exact Only.refl _
    | with_reducible assumption
    | (extract_lets +onlyGivenNames y
       first
         | (refine Only.have_ y ?_ fun _ => ?_; subst y; rotate_left; clear_value y)
         | clear_value y | skip)
    | ((with_reducible apply Only.step (raise_only ..)); (case hs => decide))
    | ((with_reducible apply Only.step (incSat_only ..)); (case hs => decide))

theorem elasticLimit_only (s : State) :
    Only [.results, .events, .ports, .storeQueue, .heldEvents, .link, .aux, .rx, .raster, .pipe, .fstore, .dram] s (elasticLimit s) := by
  unfold elasticLimit
  repeat' first
    | with_reducible exact Only.refl _
    | with_reducible assumption
    | (extract_lets +onlyGivenNames y
       first
         | (refine Only.have_ y ?_ fun _ => ?_; subst y; rotate_left; clear_value y)
         | clear_value y | skip)
    | ((with_reducible apply Only.step (noteLockLost_only ..)); (case hs => decide))
    | ((with_reducible apply Only.step (startEpisode_only ..)); (case hs => decide))
    | ((with_reducible apply Only.step (excludeAll_only ..)); (case hs => decide))
    | ((with_reducible apply Only.step (showLanes_only ..)); (case hs => decide))
    | (with_reducible apply Only.foldl)
    | intro t a ht
    | split

theorem keepSnapshots_only (s : State) :
    Only [.link] s (keepSnapshots s) := by
  unfold keepSnapshots
  repeat' first
    | with_reducible exact Only.refl _
    | with_reducible assumption
    | (extract_lets +onlyGivenNames y
       first
         | (refine Only.have_ y ?_ fun _ => ?_; subst y; rotate_left; clear_value y)
         | clear_value y | skip)
    | ((with_reducible apply Only.step (setLane_only ..)); (case hs => decide))
    | (with_reducible apply Only.foldl)
    | intro t a ht

theorem wakeMessage_only (s : State) :
    Only [.results, .events, .ports, .storeQueue, .heldEvents, .link, .aux, .rx, .raster, .pipe, .fstore, .dram] s (wakeMessage s).2 := by
  unfold wakeMessage
  repeat' first
    | with_reducible exact Only.refl _
    | with_reducible assumption
    | (extract_lets +onlyGivenNames y
       first
         | (refine Only.have_ y ?_ fun _ => ?_; subst y; rotate_left; clear_value y)
         | clear_value y | skip)
    | ((with_reducible apply Only.step (startEpisode_only ..)); (case hs => decide))
    | split

theorem unansweredAttempt_only (s : State) :
    Only [.now, .results, .events, .ports, .storeState, .storeQueue, .security, .heldEvents, .link, .aux, .rx, .raster, .pipe, .fstore, .dram] s (unansweredAttempt s) := by
  unfold unansweredAttempt
  repeat' first
    | with_reducible exact Only.refl _
    | with_reducible assumption
    | (extract_lets +onlyGivenNames y
       first
         | (refine Only.have_ y ?_ fun _ => ?_; subst y; rotate_left; clear_value y)
         | clear_value y | skip)
    | ((with_reducible apply Only.step (partnerLost_only ..)); (case hs => decide))
    | ((with_reducible apply Only.step (auxRepeat_only ..)); (case hs => decide))
    | ((with_reducible apply Only.step (raise_only ..)); (case hs => decide))
    | ((with_reducible apply Only.step (changeRes_only ..)); (case hs => decide))
    | ((with_reducible apply Only.step (advanceTo_only ..)); (case hs => decide))
    | split

theorem linkCommit_only (was : List Nat × Nat × Nat × Nat) (touched : Bool) (s : State) :
    Only [.results, .events, .ports, .storeQueue, .heldEvents, .link, .aux, .rx, .raster, .pipe, .fstore, .dram] s (linkCommit was touched s) := by
  unfold linkCommit
  repeat' first
    | with_reducible exact Only.refl _
    | with_reducible assumption
    | (extract_lets +onlyGivenNames y
       first
         | (refine Only.have_ y ?_ fun _ => ?_; subst y; rotate_left; clear_value y)
         | clear_value y | skip)
    | ((with_reducible apply Only.step (leaveBackoff_only ..)); (case hs => decide))
    | ((with_reducible apply Only.step (enterDetect_only ..)); (case hs => decide))
    | ((with_reducible apply Only.step (startEpisode_only ..)); (case hs => decide))
    | ((with_reducible apply Only.step (shortWait_only ..)); (case hs => decide))
    | split

theorem linkRefit_only (s : State) :
    Only [.results, .events, .ports, .storeQueue, .heldEvents, .link, .aux, .rx, .raster] s (linkRefit s) := by
  unfold linkRefit
  repeat' first
    | with_reducible exact Only.refl _
    | with_reducible assumption
    | (extract_lets +onlyGivenNames y
       first
         | (refine Only.have_ y ?_ fun _ => ?_; subst y; rotate_left; clear_value y)
         | (have _z : LinkSt := y; subst y) | (have _z : RasterSt := y; subst y) | clear_value y | skip)
    | ((with_reducible apply Only.step (sendResult_only ..)); (case hs => decide))
    | ((with_reducible apply Only.step (showFit_only ..)); (case hs => decide))
    | ((with_reducible apply Only.step (raise_only ..)); (case hs => decide))
    | split
    | with_reducible refine Only.upd_link ?_
    | with_reducible refine Only.upd_raster ?_

theorem linkBoundary_only (s : State) :
    Only [.results, .events, .ports, .storeQueue, .heldEvents, .link, .aux, .rx, .raster, .pipe, .fstore, .dram] s (linkBoundary s) := by
  unfold linkBoundary
  repeat' first
    | with_reducible exact Only.refl _
    | with_reducible assumption
    | (extract_lets +onlyGivenNames y
       first
         | (refine Only.have_ y ?_ fun _ => ?_; subst y; rotate_left; clear_value y)
         | clear_value y | skip)
    | ((with_reducible apply Only.step (startEpisode_only ..)); (case hs => decide))
    | split

theorem linkOff_only (s : State) :
    Only [.results, .events, .ports, .storeQueue, .heldEvents, .link, .aux, .rx, .raster, .pipe, .fstore, .dram] s (linkOff s) := by
  unfold linkOff
  repeat' first
    | with_reducible exact Only.refl _
    | with_reducible assumption
    | (extract_lets +onlyGivenNames y
       first
         | (refine Only.have_ y ?_ fun _ => ?_; subst y; rotate_left; clear_value y)
         | (have _z : AuxSt := y; subst y) | clear_value y | skip)
    | ((with_reducible apply Only.step (dropLanes_only ..)); (case hs => decide))
    | ((with_reducible apply Only.step (linkDown_only ..)); (case hs => decide))
    | ((with_reducible apply Only.step (showLink_only ..)); (case hs => decide))
    | ((with_reducible apply Only.step (setPhase_only ..)); (case hs => decide))
    | with_reducible refine Only.upd_aux ?_

theorem adaptLane_only (n : Nat) (s : State) :
    Only [.results, .link, .free] s (adaptLane n s) := by
  unfold adaptLane
  repeat' first
    | with_reducible exact Only.refl _
    | with_reducible assumption
    | (extract_lets +onlyGivenNames y
       first
         | (refine Only.have_ y ?_ fun _ => ?_; subst y; rotate_left; clear_value y)
         | clear_value y | skip)
    | ((with_reducible apply Only.step (setLane_only ..)); (case hs => decide))
    | ((with_reducible apply Only.step (changeRes_only ..)); (case hs => decide))
    | ((with_reducible apply Only.step (draw_only ..)); (case hs => decide))
    | (split <;> refine Only.have_ _ (Only.snd ?_ (by assumption)) fun _ => ?_)
    | split

theorem linkAdapt_only (s : State) :
    Only [.results, .link, .free] s (linkAdapt s) := by
  unfold linkAdapt
  repeat' first
    | with_reducible exact Only.refl _
    | with_reducible assumption
    | (extract_lets +onlyGivenNames y
       first
         | (refine Only.have_ y ?_ fun _ => ?_; subst y; rotate_left; clear_value y)
         | (have _z : LinkSt := y; subst y) | clear_value y | skip)
    | ((with_reducible apply Only.step (adaptLane_only ..)); (case hs => decide))
    | (with_reducible apply Only.foldl)
    | intro t a ht
    | split
    | with_reducible refine Only.upd_link ?_

theorem execBitlockComplete_only (lanes : List LaneReport) (s : State) :
    Runs [.results, .link, .free] s (execBitlockComplete lanes s) := by
  unfold execBitlockComplete
  repeat' first
    | with_reducible apply Runs.next
    | with_reducible exact Only.refl _
    | with_reducible assumption
    | (extract_lets +onlyGivenNames y
       first
         | (refine Only.have_ y ?_ fun _ => ?_; subst y; rotate_left; clear_value y)
         | clear_value y | skip)
    | ((with_reducible apply Only.step (takeBitlock_only ..)); (case hs => decide))
    | split

theorem execBlocklockComplete_only (lanes : List LaneReport) (s : State) :
    Runs [.results, .link] s (execBlocklockComplete lanes s) := by
  unfold execBlocklockComplete
  repeat' first
    | with_reducible apply Runs.next
    | with_reducible exact Only.refl _
    | with_reducible assumption
    | (extract_lets +onlyGivenNames y
       first
         | (refine Only.have_ y ?_ fun _ => ?_; subst y; rotate_left; clear_value y)
         | clear_value y | skip)
    | ((with_reducible apply Only.step (takeBlocklock_only ..)); (case hs => decide))
    | split

theorem execDeskewComplete_only (lanes : List LaneReport) (s : State) :
    Runs [.results, .ports, .link, .aux] s (execDeskewComplete lanes s) := by
  unfold execDeskewComplete
  repeat' first
    | with_reducible apply Runs.next
    | with_reducible exact Only.refl _
    | with_reducible assumption
    | (extract_lets +onlyGivenNames y
       first
         | (refine Only.have_ y ?_ fun _ => ?_; subst y; rotate_left; clear_value y)
         | clear_value y | skip)
    | ((with_reducible apply Only.step (takeDeskew_only ..)); (case hs => decide))
    | split

theorem execTrainingStateTimeout_only (finished : List LaneReport) (s : State) :
    Runs [.now, .results, .events, .ports, .storeState, .storeQueue, .security, .heldEvents, .link, .aux, .rx, .raster, .pipe, .fstore, .dram, .free] s (execTrainingStateTimeout finished s) := by
  unfold execTrainingStateTimeout
  repeat' first
    | with_reducible apply Runs.next
    | with_reducible exact Only.refl _
    | with_reducible assumption
    | (extract_lets +onlyGivenNames y
       first
         | (refine Only.have_ y ?_ fun _ => ?_; subst y; rotate_left; clear_value y)
         | clear_value y | skip)
    | ((with_reducible apply Only.step (lateTraining_only ..)); (case hs => decide))
    | ((with_reducible apply Only.step (takeDeskew_only ..)); (case hs => decide))
    | ((with_reducible apply Only.step (takeBlocklock_only ..)); (case hs => decide))
    | ((with_reducible apply Only.step (takeBitlock_only ..)); (case hs => decide))
    | ((with_reducible apply Only.step (keepAll_only ..)); (case hs => decide))
    | ((with_reducible apply Only.step (finishEq_only ..)); (case hs => decide))
    | ((with_reducible apply Only.step (partnerLost_only ..)); (case hs => decide))
    | split

theorem execEqMeasurementDone_only (lanes : List LaneReport) (s : State) :
    Runs [.now, .results, .ports, .link, .aux] s (execEqMeasurementDone lanes s) := by
  unfold execEqMeasurementDone
  repeat' first
    | with_reducible apply Runs.next
    | with_reducible exact Only.refl _
    | with_reducible assumption
    | (extract_lets +onlyGivenNames y
       first
         | (refine Only.have_ y ?_ fun _ => ?_; subst y; rotate_left; clear_value y)
         | (have _z : LinkSt := y; subst y) | clear_value y | skip)
    | ((with_reducible apply Only.step (keepAll_only ..)); (case hs => decide))
    | ((with_reducible apply Only.step (fineStep_only ..)); (case hs => decide))
    | ((with_reducible apply Only.step (tryPreset_only ..)); (case hs => decide))
    | ((with_reducible apply Only.step (advanceTo_only ..)); (case hs => decide))
    | split
    | with_reducible refine Only.upd_link ?_

theorem execVerifyWindowEnd_only (lanes : List LaneReport) (s : State) :
    Runs [.now, .results, .events, .ports, .storeState, .storeQueue, .heldEvents, .link, .aux, .rx] s (execVerifyWindowEnd lanes s) := by
  unfold execVerifyWindowEnd
  repeat' first
    | with_reducible apply Runs.next
    | with_reducible exact Only.refl _
    | with_reducible assumption
    | (extract_lets +onlyGivenNames y
       first
         | (refine Only.have_ y ?_ fun _ => ?_; subst y; rotate_left; clear_value y)
         | (have _z : LinkSt := y; subst y) | clear_value y | skip)
    | ((with_reducible apply Only.step (afterVerify_only ..)); (case hs => decide))
    | ((with_reducible apply Only.step (verifyLane_only ..)); (case hs => decide))
    | ((with_reducible apply Only.step (advanceTo_only ..)); (case hs => decide))
    | (with_reducible apply Only.foldl)
    | intro t a ht
    | split
    | with_reducible refine Only.upd_link ?_

theorem execCaps_only (f : AuxFrame) (s : State) :
    Runs [.results, .events, .ports, .storeQueue, .heldEvents, .link, .aux, .rx, .raster, .pipe, .fstore, .dram] s (execCaps f s) := by
  unfold execCaps
  repeat' first
    | with_reducible apply Runs.next
    | with_reducible exact Only.refl _
    | with_reducible assumption
    | (extract_lets +onlyGivenNames y
       first
         | (refine Only.have_ y ?_ fun _ => ?_; subst y; rotate_left; clear_value y)
         | clear_value y | skip)
    | ((with_reducible apply Only.step (takeAnswer_only ..)); (case hs => decide))
    | ((with_reducible apply Only.step (linkRequest_only ..)); (case hs => decide))
    | split

theorem execCapsResendTimer_only (s : State) :
    Runs [.results, .ports, .aux] s (execCapsResendTimer s) := by
  unfold execCapsResendTimer
  repeat' first
    | with_reducible apply Runs.next
    | with_reducible exact Only.refl _
    | with_reducible assumption
    | (extract_lets +onlyGivenNames y
       first
         | (refine Only.have_ y ?_ fun _ => ?_; subst y; rotate_left; clear_value y)
         | clear_value y | skip)
    | ((with_reducible apply Only.step (auxPush_only ..)); (case hs => decide))
    | split

theorem execEqAck_only (f : AuxFrame) (s : State) :
    Runs [.results, .events, .ports, .storeQueue, .heldEvents, .link, .aux, .rx, .raster, .pipe, .fstore, .dram] s (execEqAck f s) := by
  unfold execEqAck
  repeat' first
    | with_reducible apply Runs.next
    | with_reducible exact Only.refl _
    | with_reducible assumption
    | (extract_lets +onlyGivenNames y
       first
         | (refine Only.have_ y ?_ fun _ => ?_; subst y; rotate_left; clear_value y)
         | clear_value y | skip)
    | ((with_reducible apply Only.step (takeAnswer_only ..)); (case hs => decide))

theorem execRetrainReq_only (f : AuxFrame) (s : State) :
    Runs [.results, .events, .ports, .storeQueue, .heldEvents, .link, .aux, .rx, .raster, .pipe, .fstore, .dram] s (execRetrainReq f s) := by
  unfold execRetrainReq
  repeat' first
    | with_reducible apply Runs.next
    | with_reducible exact Only.refl _
    | with_reducible assumption
    | (extract_lets +onlyGivenNames y
       first
         | (refine Only.have_ y ?_ fun _ => ?_; subst y; rotate_left; clear_value y)
         | clear_value y | skip)
    | ((with_reducible apply Only.step (linkRequest_only ..)); (case hs => decide))

theorem execBackoffExpiry_only (s : State) :
    Runs [.now, .results, .ports, .link, .aux] s (execBackoffExpiry s) := by
  unfold execBackoffExpiry
  repeat' first
    | with_reducible apply Runs.next
    | with_reducible exact Only.refl _
    | with_reducible assumption
    | (extract_lets +onlyGivenNames y
       first
         | (refine Only.have_ y ?_ fun _ => ?_; subst y; rotate_left; clear_value y)
         | clear_value y | skip)
    | ((with_reducible apply Only.step (enterDetect_only ..)); (case hs => decide))
    | ((with_reducible apply Only.step (advanceTo_only ..)); (case hs => decide))
    | split

theorem execLaneLockLost_only (lane_ : Nat) (cause : Nat) (types : List Nat) (s : State) :
    Runs [.results, .events, .ports, .storeQueue, .heldEvents, .link, .aux, .rx, .raster, .pipe, .fstore, .dram] s (execLaneLockLost lane_ cause types s) := by
  unfold execLaneLockLost
  repeat' first
    | with_reducible apply Runs.next
    | with_reducible exact Only.refl _
    | with_reducible assumption
    | (extract_lets +onlyGivenNames y
       first
         | (refine Only.have_ y ?_ fun _ => ?_; subst y; rotate_left; clear_value y)
         | clear_value y | skip)
    | ((with_reducible apply Only.step (noteLockLost_only ..)); (case hs => decide))
    | ((with_reducible apply Only.step (startEpisode_only ..)); (case hs => decide))
    | ((with_reducible apply Only.step (excludeFrom_only ..)); (case hs => decide))
    | ((with_reducible apply Only.step (showLanes_only ..)); (case hs => decide))
    | ((with_reducible apply Only.step (incSat_only ..)); (case hs => decide))
    | split

theorem execLaneSignalLost_only (mask : Nat) (s : State) :
    Runs [.results, .events, .ports, .storeState, .storeQueue, .security, .heldEvents, .link, .aux, .rx, .raster, .pipe, .fstore, .dram] s (execLaneSignalLost mask s) := by
  unfold execLaneSignalLost
  repeat' first
    | with_reducible apply Runs.next
    | with_reducible exact Only.refl _
    | with_reducible assumption
    | (extract_lets +onlyGivenNames y
       first
         | (refine Only.have_ y ?_ fun _ => ?_; subst y; rotate_left; clear_value y)
         | clear_value y | skip)
    | ((with_reducible apply Only.step (noteLockLost_only ..)); (case hs => decide))
    | ((with_reducible apply Only.step (partnerLost_only ..)); (case hs => decide))
    | ((with_reducible apply Only.step (startEpisode_only ..)); (case hs => decide))
    | ((with_reducible apply Only.step (excludeAll_only ..)); (case hs => decide))
    | ((with_reducible apply Only.step (showLanes_only ..)); (case hs => decide))
    | (with_reducible apply Only.foldl)
    | intro t a ht
    | split

theorem execFillerColumn_only (drift : Int) (s : State) :
    Runs [.results, .events, .ports, .storeQueue, .heldEvents, .link, .aux, .rx, .raster, .pipe, .fstore, .dram] s (execFillerColumn drift s) := by
  unfold execFillerColumn
  repeat' first
    | with_reducible apply Runs.next
    | with_reducible exact Only.refl _
    | with_reducible assumption
    | (extract_lets +onlyGivenNames y
       first
         | (refine Only.have_ y ?_ fun _ => ?_; subst y; rotate_left; clear_value y)
         | (have _z : LinkSt := y; subst y) | clear_value y | skip)
    | ((with_reducible apply Only.step (elasticLimit_only ..)); (case hs => decide))
    | ((with_reducible apply Only.step (incWrap_only ..)); (case hs => decide))
    | split
    | with_reducible refine Only.upd_link ?_

theorem execLaneMarginCheck_only (margins : List (Nat × Nat)) (s : State) :
    Runs [.results, .events, .ports, .storeQueue, .heldEvents, .link] s (execLaneMarginCheck margins s) := by
  unfold execLaneMarginCheck
  repeat' first
    | with_reducible apply Runs.next
    | with_reducible exact Only.refl _
    | with_reducible assumption
    | (extract_lets +onlyGivenNames y
       first
         | (refine Only.have_ y ?_ fun _ => ?_; subst y; rotate_left; clear_value y)
         | (have _z : LinkSt := y; subst y) | clear_value y | skip)
    | ((with_reducible apply Only.step (setLane_only ..)); (case hs => decide))
    | ((with_reducible apply Only.step (raise_only ..)); (case hs => decide))
    | ((with_reducible apply Only.step (changeRes_only ..)); (case hs => decide))
    | (with_reducible apply Only.foldl)
    | intro t a ht
    | split
    | with_reducible refine Only.upd_link ?_

theorem execIdleColumn_only (received : Nat) (s : State) :
    Runs [.results, .events, .ports, .storeQueue, .heldEvents, .link, .rx, .raster, .pipe, .fstore, .dram] s (execIdleColumn received s) := by
  unfold execIdleColumn
  repeat' first
    | with_reducible apply Runs.next
    | with_reducible exact Only.refl _
    | with_reducible assumption
    | (extract_lets +onlyGivenNames y
       first
         | (refine Only.have_ y ?_ fun _ => ?_; subst y; rotate_left; clear_value y)
         | (have _z : LinkSt := y; subst y) | clear_value y | skip)
    | ((with_reducible apply Only.step (linkDown_only ..)); (case hs => decide))
    | ((with_reducible apply Only.step (setPhase_only ..)); (case hs => decide))
    | split
    | with_reducible refine Only.upd_link ?_

theorem execIdlePowerDown_only (s : State) :
    Runs [.now, .link] s (execIdlePowerDown s) := by
  unfold execIdlePowerDown
  repeat' first
    | with_reducible apply Runs.next
    | with_reducible exact Only.refl _
    | with_reducible assumption
    | (extract_lets +onlyGivenNames y
       first
         | (refine Only.have_ y ?_ fun _ => ?_; subst y; rotate_left; clear_value y)
         | (have _z : LinkSt := y; subst y) | clear_value y | skip)
    | ((with_reducible apply Only.step (keepSnapshots_only ..)); (case hs => decide))
    | ((with_reducible apply Only.step (advanceTo_only ..)); (case hs => decide))
    | split
    | with_reducible refine Only.upd_link ?_

theorem execFastExit_only (failed : Nat) (s : State) :
    Runs [.results, .events, .ports, .storeQueue, .heldEvents, .link, .aux, .rx, .raster, .pipe, .fstore, .dram] s (execFastExit failed s) := by
  unfold execFastExit
  repeat' first
    | with_reducible apply Runs.next
    | with_reducible exact Only.refl _
    | with_reducible assumption
    | (extract_lets +onlyGivenNames y
       first
         | (refine Only.have_ y ?_ fun _ => ?_; subst y; rotate_left; clear_value y)
         | clear_value y | skip)
    | ((with_reducible apply Only.step (startEpisode_only ..)); (case hs => decide))
    | ((with_reducible apply Only.step (restoreLanes_only ..)); (case hs => decide))
    | ((with_reducible apply Only.step (setPhase_only ..)); (case hs => decide))
    | ((with_reducible apply Only.step (raise_only ..)); (case hs => decide))
    | ((with_reducible apply Only.step (incWrap_only ..)); (case hs => decide))
    | ((with_reducible apply Only.step (incSat_only ..)); (case hs => decide))
    | split

theorem execIdleSignalDetected_only (lane_ : Nat) (s : State) :
    Runs [.results, .events, .ports, .storeQueue, .heldEvents, .link, .aux, .rx, .raster, .pipe, .fstore, .dram] s (execIdleSignalDetected lane_ s) := by
  unfold execIdleSignalDetected
  repeat' first
    | with_reducible apply Runs.next
    | with_reducible exact Only.refl _
    | with_reducible assumption
    | (extract_lets +onlyGivenNames y
       first
         | (refine Only.have_ y ?_ fun _ => ?_; subst y; rotate_left; clear_value y)
         | clear_value y | skip)
    | ((with_reducible apply Only.step (startEpisode_only ..)); (case hs => decide))
    | split

theorem execWakeRequest_only (f : AuxFrame) (s : State) :
    Runs [.results, .events, .ports, .storeQueue, .heldEvents, .link, .aux, .rx, .raster, .pipe, .fstore, .dram] s (execWakeRequest f s) := by
  unfold execWakeRequest
  repeat' first
    | with_reducible apply Runs.next
    | with_reducible exact Only.refl _
    | with_reducible assumption
    | (extract_lets +onlyGivenNames y
       first
         | (refine Only.have_ y ?_ fun _ => ?_; subst y; rotate_left; clear_value y)
         | clear_value y | skip)
    | ((with_reducible apply Only.step (wakeMessage_only ..)); (case hs => decide))
    | (refine auxRequest_only _ _ (by decide) (fun _t => ?_); try dsimp only)
    | (split <;> refine Only.have_ _ (Only.snd ?_ (by assumption)) fun _ => ?_)
    | split

theorem execAuxAnswer_only (f : AuxFrame) (s : State) :
    Runs [.results, .events, .ports, .storeQueue, .heldEvents, .link, .aux, .rx, .raster, .pipe, .fstore, .dram] s (execAuxAnswer f s) := by
  unfold execAuxAnswer
  repeat' first
    | with_reducible apply Runs.next
    | with_reducible exact Only.refl _
    | with_reducible assumption
    | (extract_lets +onlyGivenNames y
       first
         | (refine Only.have_ y ?_ fun _ => ?_; subst y; rotate_left; clear_value y)
         | clear_value y | skip)
    | ((with_reducible apply Only.step (takeAnswer_only ..)); (case hs => decide))

theorem execAuxRequestTimeout_only (s : State) :
    Runs [.now, .results, .events, .ports, .storeState, .storeQueue, .security, .heldEvents, .link, .aux, .rx, .raster, .pipe, .fstore, .dram] s (execAuxRequestTimeout s) := by
  unfold execAuxRequestTimeout
  repeat' first
    | with_reducible apply Runs.next
    | with_reducible exact Only.refl _
    | with_reducible assumption
    | (extract_lets +onlyGivenNames y
       first
         | (refine Only.have_ y ?_ fun _ => ?_; subst y; rotate_left; clear_value y)
         | clear_value y | skip)
    | ((with_reducible apply Only.step (unansweredAttempt_only ..)); (case hs => decide))
    | ((with_reducible apply Only.step (advanceTo_only ..)); (case hs => decide))
    | split

theorem execAuxCollision_only (s : State) :
    Runs [.now, .results, .events, .ports, .storeState, .storeQueue, .security, .heldEvents, .link, .aux, .rx, .raster, .pipe, .fstore, .dram] s (execAuxCollision s) := by
  unfold execAuxCollision
  repeat' first
    | with_reducible apply Runs.next
    | with_reducible exact Only.refl _
    | with_reducible assumption
    | (extract_lets +onlyGivenNames y
       first
         | (refine Only.have_ y ?_ fun _ => ?_; subst y; rotate_left; clear_value y)
         | clear_value y | skip)
    | ((with_reducible apply Only.step (unansweredAttempt_only ..)); (case hs => decide))
    | ((with_reducible apply Only.step (auxBroken_only ..)); (case hs => decide))
    | split

end Sys2Proof.Machine
end

