-- ==== Sys2Proof/Laws/FramesPowerState.lean ====
section
/-! SUPPORT. What each definition of Machine/PowerState.lean changes. -/

set_option Elab.async false

set_option linter.tactic.unusedName false

namespace Sys2Proof.Machine

theorem clockTo_only (h : Nat) (p : Nat) (i : Nat) (v : Nat) (s : State) :
    Only [.results] s (clockTo h p i v s) := by
  unfold clockTo
  repeat' first
    | with_reducible exact Only.refl _
    | with_reducible assumption
    | (extract_lets +onlyGivenNames y
       first
         | (refine Only.have_ y ?_ fun _ => ?_; subst y; rotate_left; clear_value y)
         | clear_value y | skip)
    | ((with_reducible apply Only.step (stepRes_only ..)); (case hs => decide))

theorem showClocks_only (s : State) :
    Only [.results] s (showClocks s) := by
  unfold showClocks
  repeat' first
    | with_reducible exact Only.refl _
    | with_reducible assumption
    | (extract_lets +onlyGivenNames y
       first
         | (refine Only.have_ y ?_ fun _ => ?_; subst y; rotate_left; clear_value y)
         | clear_value y | skip)
    | ((with_reducible apply Only.step (clockTo_only ..)); (case hs => decide))
    | (with_reducible apply Only.foldl)
    | intro t a ht
    | split

theorem enterState_only (p : PowerState) (s : State) :
    Only [.results, .events, .ports, .storeQueue, .heldEvents, .power] s (enterState p s) := by
  unfold enterState
  repeat' first
    | with_reducible exact Only.refl _
    | with_reducible assumption
    | (extract_lets +onlyGivenNames y
       first
         | (refine Only.have_ y ?_ fun _ => ?_; subst y; rotate_left; clear_value y)
         | (have _z : PowerSt := y; subst y) | clear_value y | skip)
    | ((with_reducible apply Only.step (raise_only ..)); (case hs => decide))
    | ((with_reducible apply Only.step (changeRes_only ..)); (case hs => decide))
    | split
    | with_reducible refine Only.upd_power ?_

theorem noteActivity_only (s : State) :
    Only [.power] s (noteActivity s) := by
  unfold noteActivity
  repeat' first
    | with_reducible exact Only.refl _
    | with_reducible assumption
    | (extract_lets +onlyGivenNames y
       first
         | (refine Only.have_ y ?_ fun _ => ?_; subst y; rotate_left; clear_value y)
         | (have _z : PowerSt := y; subst y) | clear_value y | skip)
    | with_reducible refine Only.upd_power ?_

theorem keepWake_only (s : State) :
    Only [.power] s (keepWake s) := by
  unfold keepWake
  repeat' first
    | with_reducible exact Only.refl _
    | with_reducible assumption
    | (extract_lets +onlyGivenNames y
       first
         | (refine Only.have_ y ?_ fun _ => ?_; subst y; rotate_left; clear_value y)
         | (have _z : PowerSt := y; subst y) | clear_value y | skip)
    | with_reducible refine Only.upd_power ?_

theorem clipRefs_only (s : State) :
    Only [.results, .events, .ports, .storeQueue, .heldEvents, .panel] s (clipRefs s) := by
  unfold clipRefs
  repeat' first
    | with_reducible exact Only.refl _
    | with_reducible assumption
    | (extract_lets +onlyGivenNames y
       first
         | (refine Only.have_ y ?_ fun _ => ?_; subst y; rotate_left; clear_value y)
         | (have _z : PanelSt := y; subst y) | clear_value y | skip)
    | ((with_reducible apply Only.step (raise_only ..)); (case hs => decide))
    | ((with_reducible apply Only.step (changeRes_only ..)); (case hs => decide))
    | split
    | with_reducible refine Only.upd_panel ?_

theorem firstLight_only (live : Bool) (s : State) :
    Only [.results, .events, .ports, .storeQueue, .heldEvents, .power] s (firstLight live s) := by
  unfold firstLight
  repeat' first
    | with_reducible exact Only.refl _
    | with_reducible assumption
    | (extract_lets +onlyGivenNames y
       first
         | (refine Only.have_ y ?_ fun _ => ?_; subst y; rotate_left; clear_value y)
         | (have _z : PowerSt := y; subst y) | clear_value y | skip)
    | ((with_reducible apply Only.step (raise_only ..)); (case hs => decide))
    | ((with_reducible apply Only.step (changeRes_only ..)); (case hs => decide))
    | ((with_reducible apply Only.step (setRes_only ..)); (case hs => decide))
    | split
    | with_reducible refine Only.upd_power ?_

end Sys2Proof.Machine
end

