-- ==== Sys2Proof/Laws/FramesBoundary.lean ====
section
/-! SUPPORT. What each definition of Machine/Boundary.lean changes. -/

set_option Elab.async false

set_option linter.tactic.unusedName false

namespace Sys2Proof.Machine

theorem dropWaiting_only (s : State) :
    Only [.results, .events, .ports, .storeQueue, .heldEvents, .rx, .raster] s (dropWaiting s) := by
  unfold dropWaiting
  repeat' first
    | with_reducible exact Only.refl _
    | with_reducible assumption
    | (extract_lets +onlyGivenNames y
       first
         | (refine Only.have_ y ?_ fun _ => ?_; subst y; rotate_left; clear_value y)
         | (have _z : RasterSt := y; subst y) | (have _z : RxSt := y; subst y) | clear_value y | skip)
    | ((with_reducible apply Only.step (raise_only ..)); (case hs => decide))
    | ((with_reducible apply Only.step (incSat_only ..)); (case hs => decide))
    | split
    | with_reducible refine Only.upd_rx_raster ?_

theorem discardRegions_only (cause : Nat) (rs : List Region) (s : State) :
    Only [.results, .events, .ports, .storeQueue, .heldEvents] s (discardRegions cause rs s) := by
  unfold discardRegions
  repeat' first
    | with_reducible exact Only.refl _
    | with_reducible assumption
    | (extract_lets +onlyGivenNames y
       first
         | (refine Only.have_ y ?_ fun _ => ?_; subst y; rotate_left; clear_value y)
         | clear_value y | skip)
    | ((with_reducible apply Only.step (raise_only ..)); (case hs => decide))
    | ((with_reducible apply Only.step (incSat_only ..)); (case hs => decide))
    | (with_reducible apply Only.foldl)
    | intro t a ht

theorem clearRegions_only (s : State) :
    Only [.results, .events, .ports, .storeQueue, .heldEvents, .aux, .rx] s (clearRegions s) := by
  unfold clearRegions
  repeat' first
    | with_reducible exact Only.refl _
    | with_reducible assumption
    | (extract_lets +onlyGivenNames y
       first
         | (refine Only.have_ y ?_ fun _ => ?_; subst y; rotate_left; clear_value y)
         | (have _z : RxSt := y; subst y) | clear_value y | skip)
    | ((with_reducible apply Only.step (discardRegions_only ..)); (case hs => decide))
    | ((with_reducible apply Only.step (sendCredit_only ..)); (case hs => decide))
    | split
    | with_reducible refine Only.upd_rx ?_

theorem regionsDue_only (s : State) :
    Only [.results, .events, .ports, .storeQueue, .heldEvents, .aux, .rx, .fstore] s (regionsDue s) := by
  unfold regionsDue
  repeat' first
    | with_reducible exact Only.refl _
    | with_reducible assumption
    | (extract_lets +onlyGivenNames y
       first
         | (refine Only.have_ y ?_ fun _ => ?_; subst y; rotate_left; clear_value y)
         | (have _z : StoreSt := y; subst y) | (have _z : RxSt := y; subst y) | clear_value y | skip)
    | ((with_reducible apply Only.step (clearRegions_only ..)); (case hs => decide))
    | ((with_reducible apply Only.step (showSlots_only ..)); (case hs => decide))
    | split
    | with_reducible refine Only.upd_rx_fstore ?_

theorem writeMerge_only (slot : Nat) (old : Option Nat) (s : State) :
    Only [.results, .events, .ports, .storeQueue, .heldEvents, .aux, .rx, .fstore, .dram] s (writeMerge slot old s) := by
  unfold writeMerge
  repeat' first
    | with_reducible exact Only.refl _
    | with_reducible assumption
    | (extract_lets +onlyGivenNames y
       first
         | (refine Only.have_ y ?_ fun _ => ?_; subst y; rotate_left; clear_value y)
         | (have _z : RxSt := y; subst y) | clear_value y | skip)
    | ((with_reducible apply Only.step (writeStoreLine_only ..)); (case hs => decide))
    | ((with_reducible apply Only.step (openSlot_only ..)); (case hs => decide))
    | ((with_reducible apply Only.step (sendCredit_only ..)); (case hs => decide))
    | ((with_reducible apply Only.step (raise_only ..)); (case hs => decide))
    | ((with_reducible apply Only.step (incWrap_only ..)); (case hs => decide))
    | (with_reducible apply Only.foldl)
    | intro t a ht
    | split
    | with_reducible refine Only.upd_rx ?_

theorem showCodes_only (s : State) :
    Only [.results] s (showCodes s) := by
  unfold showCodes
  repeat' first
    | with_reducible exact Only.refl _
    | with_reducible assumption
    | (extract_lets +onlyGivenNames y
       first
         | (refine Only.have_ y ?_ fun _ => ?_; subst y; rotate_left; clear_value y)
         | clear_value y | skip)
    | ((with_reducible apply Only.step (setResList_only ..)); (case hs => decide))
    | ((with_reducible apply Only.step (setRes_only ..)); (case hs => decide))
    | split

theorem noteHistory_only (n : Nat) (f : Vals) (m : Mode) (s : State) :
    Only [.results] s (noteHistory n f m s) := by
  unfold noteHistory
  repeat' first
    | with_reducible exact Only.refl _
    | with_reducible assumption
    | (extract_lets +onlyGivenNames y
       first
         | (refine Only.have_ y ?_ fun _ => ?_; subst y; rotate_left; clear_value y)
         | clear_value y | skip)
    | ((with_reducible apply Only.step (incWrap_only ..)); (case hs => decide))
    | (with_reducible apply Only.foldl)
    | intro t a ht
    | split

theorem checkStand_only (n : Nat) (f : Vals) (m : Mode) (st : Nat) (s : State) :
    Only [.results, .events, .counts, .ports, .storeQueue, .heldEvents, .fstore] s (checkStand n f m st s) := by
  unfold checkStand
  repeat' first
    | with_reducible exact Only.refl _
    | with_reducible assumption
    | (extract_lets +onlyGivenNames y
       first
         | (refine Only.have_ y ?_ fun _ => ?_; subst y; rotate_left; clear_value y)
         | (have _z : StoreSt := y; subst y) | clear_value y | skip)
    | ((with_reducible apply Only.step (raise_only ..)); (case hs => decide))
    | ((with_reducible apply Only.step (addUe_only ..)); (case hs => decide))
    | ((with_reducible apply Only.step (incWrap_only ..)); (case hs => decide))
    | ((with_reducible apply Only.step (incSat_only ..)); (case hs => decide))
    | split
    | with_reducible refine Only.upd_fstore ?_

theorem showReads_only (s : State) :
    Only [.results, .events, .counts, .ports, .storeQueue, .heldEvents, .fstore] s (showReads s) := by
  unfold showReads
  repeat' first
    | with_reducible exact Only.refl _
    | with_reducible assumption
    | (extract_lets +onlyGivenNames y
       first
         | (refine Only.have_ y ?_ fun _ => ?_; subst y; rotate_left; clear_value y)
         | clear_value y | skip)
    | ((with_reducible apply Only.step (checkStand_only ..)); (case hs => decide))
    | ((with_reducible apply Only.step (noteHistory_only ..)); (case hs => decide))
    | (with_reducible apply Only.foldl)
    | intro t a ht
    | split

theorem showRowsBeyond_only (s : State) :
    Only [.results, .events, .ports, .storeQueue, .heldEvents] s (showRowsBeyond s) := by
  unfold showRowsBeyond
  repeat' first
    | with_reducible exact Only.refl _
    | with_reducible assumption
    | (extract_lets +onlyGivenNames y
       first
         | (refine Only.have_ y ?_ fun _ => ?_; subst y; rotate_left; clear_value y)
         | clear_value y | skip)
    | ((with_reducible apply Only.step (raise_only ..)); (case hs => decide))
    | ((with_reducible apply Only.step (incSat_only ..)); (case hs => decide))
    | (with_reducible apply Only.foldl)
    | intro t a ht
    | split

theorem endFrame_only (s : State) :
    Only [.results, .events, .counts, .ports, .storeQueue, .heldEvents, .pipe, .fstore] s (endFrame s) := by
  unfold endFrame
  repeat' first
    | with_reducible exact Only.refl _
    | with_reducible assumption
    | (extract_lets +onlyGivenNames y
       first
         | (refine Only.have_ y ?_ fun _ => ?_; subst y; rotate_left; clear_value y)
         | clear_value y | skip)
    | ((with_reducible apply Only.step (showRowsBeyond_only ..)); (case hs => decide))
    | ((with_reducible apply Only.step (showReads_only ..)); (case hs => decide))
    | ((with_reducible apply Only.step (showCodes_only ..)); (case hs => decide))
    | ((with_reducible apply Only.step (srlUpdate_only ..)); (case hs => decide))
    | split

theorem applyMaps_only (patch : NMap (Option Int)) (s : State) :
    Only [.results, .pipe] s (applyMaps patch s) := by
  unfold applyMaps
  repeat' first
    | with_reducible exact Only.refl _
    | with_reducible assumption
    | (extract_lets +onlyGivenNames y
       first
         | (refine Only.have_ y ?_ fun _ => ?_; subst y; rotate_left; clear_value y)
         | (have _z : PipeSt := y; subst y) | clear_value y | skip)
    | ((with_reducible apply Only.step (bumpGen_only ..)); (case hs => decide))
    | (with_reducible apply Only.foldl)
    | intro t a ht
    | split
    | with_reducible refine Only.upd_pipe ?_

theorem writeMasters_only (lut : Bool) (mask : Bool) (s : State) :
    Only [.results, .pipe, .sram] s (writeMasters lut mask s) := by
  unfold writeMasters
  repeat' first
    | with_reducible exact Only.refl _
    | with_reducible assumption
    | (extract_lets +onlyGivenNames y
       first
         | (refine Only.have_ y ?_ fun _ => ?_; subst y; rotate_left; clear_value y)
         | (have _z : PipeSt := y; subst y) | (have _z : SramSt := y; subst y) | clear_value y | skip)
    | ((with_reducible apply Only.step (changeRes_only ..)); (case hs => decide))
    | split
    | with_reducible refine Only.upd_pipe ?_
    | with_reducible refine Only.upd_sram ?_

theorem switchTables_only (s : State) :
    Only [.results, .pipe, .sram] s (switchTables s) := by
  unfold switchTables
  repeat' first
    | with_reducible exact Only.refl _
    | with_reducible assumption
    | (extract_lets +onlyGivenNames y
       first
         | (refine Only.have_ y ?_ fun _ => ?_; subst y; rotate_left; clear_value y)
         | (have _z : PipeSt := y; subst y) | clear_value y | skip)
    | ((with_reducible apply Only.step (setPoison_only ..)); (case hs => decide))
    | (with_reducible apply Only.foldl)
    | intro t a ht
    | with_reducible refine Only.upd_pipe ?_

theorem timingChange_only (a : Mode) (b : Mode) (s : State) :
    Only [.results, .events, .ports, .storeQueue, .heldEvents, .rx, .raster, .fstore] s (timingChange a b s) := by
  unfold timingChange
  repeat' first
    | with_reducible exact Only.refl _
    | with_reducible assumption
    | (extract_lets +onlyGivenNames y
       first
         | (refine Only.have_ y ?_ fun _ => ?_; subst y; rotate_left; clear_value y)
         | (have _z : StoreSt := y; subst y) | (have _z : RasterSt := y; subst y) | clear_value y | skip)
    | ((with_reducible apply Only.step (dropWaiting_only ..)); (case hs => decide))
    | ((with_reducible apply Only.step (forgetInput_only ..)); (case hs => decide))
    | ((with_reducible apply Only.step (showSlots_only ..)); (case hs => decide))
    | ((with_reducible apply Only.step (raise_only ..)); (case hs => decide))
    | ((with_reducible apply Only.step (changeRes_only ..)); (case hs => decide))
    | split
    | with_reducible refine Only.upd_raster ?_
    | with_reducible refine Only.upd_fstore ?_

theorem showGeometry_only (s : State) :
    Only [.results, .raster] s (showGeometry s) := by
  unfold showGeometry
  repeat' first
    | with_reducible exact Only.refl _
    | with_reducible assumption
    | (extract_lets +onlyGivenNames y
       first
         | (refine Only.have_ y ?_ fun _ => ?_; subst y; rotate_left; clear_value y)
         | (have _z : RasterSt := y; subst y) | clear_value y | skip)
    | ((with_reducible apply Only.step (changeRes_only ..)); (case hs => decide))
    | split
    | with_reducible refine Only.upd_raster ?_

theorem fadeOn_only (old : Nat) (s : State) :
    Only [.panel] s (fadeOn old s) := by
  unfold fadeOn
  repeat' first
    | with_reducible exact Only.refl _
    | with_reducible assumption
    | (extract_lets +onlyGivenNames y
       first
         | (refine Only.have_ y ?_ fun _ => ?_; subst y; rotate_left; clear_value y)
         | clear_value y | skip)
    | ((with_reducible apply Only.step (startFade_only ..)); (case hs => decide))
    | split

theorem applyCommit_only (c : Commit) (s : State) :
    Only [.config, .results, .events, .ports, .storeQueue, .heldEvents, .link, .aux, .rx, .raster, .pipe, .out, .panel, .fstore, .dram, .sram, .resil, .power] s (applyCommit c s) := by
  unfold applyCommit
  repeat' first
    | with_reducible exact Only.refl _
    | with_reducible assumption
    | (extract_lets +onlyGivenNames y
       first
         | (refine Only.have_ y ?_ fun _ => ?_; subst y; rotate_left; clear_value y)
         | (have _z : PipeSt := y; subst y) | (have _z : RasterSt := y; subst y) | clear_value y | skip)
    | ((with_reducible apply Only.step (showGeometry_only ..)); (case hs => decide))
    | ((with_reducible apply Only.step (timingChange_only ..)); (case hs => decide))
    | ((with_reducible apply Only.step (writeMasters_only ..)); (case hs => decide))
    | ((with_reducible apply Only.step (applyMaps_only ..)); (case hs => decide))
    | ((with_reducible apply Only.step (clipRefs_only ..)); (case hs => decide))
    | ((with_reducible apply Only.step (keepWake_only ..)); (case hs => decide))
    | ((with_reducible apply Only.step (linkRefit_only ..)); (case hs => decide))
    | ((with_reducible apply Only.step (linkCommit_only ..)); (case hs => decide))
    | ((with_reducible apply Only.step (chooseRate_only ..)); (case hs => decide))
    | ((with_reducible apply Only.step (abandonSweep_only ..)); (case hs => decide))
    | ((with_reducible apply Only.step (showSweep_only ..)); (case hs => decide))
    | ((with_reducible apply Only.step (showDefects_only ..)); (case hs => decide))
    | ((with_reducible apply Only.step (startRebuild_only ..)); (case hs => decide))
    | ((with_reducible apply Only.step (stressRateCheck_only ..)); (case hs => decide))
    | ((with_reducible apply Only.step (applyPatch_only ..)); (case hs => decide))
    | ((with_reducible apply Only.step (incWrap_only ..)); (case hs => decide))
    | ((with_reducible apply Only.step (setRes_only ..)); (case hs => decide))
    | split
    | with_reducible refine Only.upd_raster ?_
    | with_reducible refine Only.upd_pipe ?_

theorem showCommits_only (s : State) :
    Only [.results] s (showCommits s) := by
  unfold showCommits
  repeat' first
    | with_reducible exact Only.refl _
    | with_reducible assumption
    | (extract_lets +onlyGivenNames y
       first
         | (refine Only.have_ y ?_ fun _ => ?_; subst y; rotate_left; clear_value y)
         | clear_value y | skip)
    | ((with_reducible apply Only.step (changeRes_only ..)); (case hs => decide))

theorem applyCommits_only (k : Nat) (s : State) :
    Only [.config, .shadow, .results, .events, .ports, .storeQueue, .heldEvents, .link, .aux, .rx, .raster, .pipe, .out, .panel, .fstore, .dram, .sram, .resil, .power] s (applyCommits k s) := by
  unfold applyCommits
  repeat' first
    | with_reducible exact Only.refl _
    | with_reducible assumption
    | (extract_lets +onlyGivenNames y
       first
         | (refine Only.have_ y ?_ fun _ => ?_; subst y; rotate_left; clear_value y)
         | (have _z : DictSt := y; subst y) | clear_value y | skip)
    | ((with_reducible apply Only.step (showCommits_only ..)); (case hs => decide))
    | ((with_reducible apply Only.step (applyCommit_only ..)); (case hs => decide))
    | ((with_reducible apply Only.step (fadeOn_only ..)); (case hs => decide))
    | ((with_reducible apply Only.step (switchTables_only ..)); (case hs => decide))
    | (with_reducible apply Only.foldl)
    | intro t a ht
    | split
    | with_reducible refine Only.upd_shadow ?_

theorem applyAllCommits_only (s : State) :
    Only [.config, .shadow, .results, .events, .ports, .storeQueue, .heldEvents, .link, .aux, .rx, .raster, .pipe, .out, .panel, .fstore, .dram, .sram, .resil, .power] s (applyAllCommits s) := by
  unfold applyAllCommits
  repeat' first
    | with_reducible exact Only.refl _
    | with_reducible assumption
    | (extract_lets +onlyGivenNames y
       first
         | (refine Only.have_ y ?_ fun _ => ?_; subst y; rotate_left; clear_value y)
         | (have _z : DictSt := y; subst y) | clear_value y | skip)
    | ((with_reducible apply Only.step (showCommits_only ..)); (case hs => decide))
    | ((with_reducible apply Only.step (applyCommit_only ..)); (case hs => decide))
    | ((with_reducible apply Only.step (fadeOn_only ..)); (case hs => decide))
    | ((with_reducible apply Only.step (switchTables_only ..)); (case hs => decide))
    | ((with_reducible apply Only.step (showPass_only ..)); (case hs => decide))
    | ((with_reducible apply Only.step (rowsIdle_only ..)); (case hs => decide))
    | ((with_reducible apply Only.step (showBuffers_only ..)); (case hs => decide))
    | (with_reducible apply Only.foldl)
    | intro t a ht
    | split
    | with_reducible refine Only.upd_shadow ?_

theorem checkLegal_only (s : State) :
    Only [.results, .events, .ports, .storeQueue, .heldEvents, .raster, .resil] s (checkLegal s) := by
  unfold checkLegal
  repeat' first
    | with_reducible exact Only.refl _
    | with_reducible assumption
    | (extract_lets +onlyGivenNames y
       first
         | (refine Only.have_ y ?_ fun _ => ?_; subst y; rotate_left; clear_value y)
         | (have _z : RasterSt := y; subst y) | clear_value y | skip)
    | ((with_reducible apply Only.step (settle_only ..)); (case hs => decide))
    | ((with_reducible apply Only.step (raise_only ..)); (case hs => decide))
    | split
    | with_reducible refine Only.upd_raster ?_

theorem limiterBoundary_only (mk : Option Nat) (s : State) :
    Only [.results, .events, .ports, .storeQueue, .heldEvents, .pipe] s (limiterBoundary mk s) := by
  unfold limiterBoundary
  repeat' first
    | with_reducible exact Only.refl _
    | with_reducible assumption
    | (extract_lets +onlyGivenNames y
       first
         | (refine Only.have_ y ?_ fun _ => ?_; subst y; rotate_left; clear_value y)
         | (have _z : PipeSt := y; subst y) | clear_value y | skip)
    | ((with_reducible apply Only.step (raise_only ..)); (case hs => decide))
    | ((with_reducible apply Only.step (setRes_only ..)); (case hs => decide))
    | split
    | with_reducible refine Only.upd_pipe ?_

theorem setTemperature_only (s : State) :
    Only [.results, .events, .ports, .storeQueue, .heldEvents, .pipe] s (setTemperature s) := by
  unfold setTemperature
  repeat' first
    | with_reducible exact Only.refl _
    | with_reducible assumption
    | (extract_lets +onlyGivenNames y
       first
         | (refine Only.have_ y ?_ fun _ => ?_; subst y; rotate_left; clear_value y)
         | (have _z : PipeSt := y; subst y) | clear_value y | skip)
    | ((with_reducible apply Only.step (raise_only ..)); (case hs => decide))
    | (with_reducible apply Only.foldl)
    | intro t a ht
    | split
    | with_reducible refine Only.upd_pipe ?_

theorem shiftRecords_only (s : State) :
    Only [.results, .raster] s (shiftRecords s) := by
  unfold shiftRecords
  repeat' first
    | with_reducible exact Only.refl _
    | with_reducible assumption
    | (extract_lets +onlyGivenNames y
       first
         | (refine Only.have_ y ?_ fun _ => ?_; subst y; rotate_left; clear_value y)
         | (have _z : RasterSt := y; subst y) | clear_value y | skip)
    | ((with_reducible apply Only.step (showBuffers_only ..)); (case hs => decide))
    | with_reducible refine Only.upd_raster ?_

theorem boundaryWork_only (s : State) :
    Only (Part.but [.now, .epoch, .requests, .can, .store, .storeState, .tallies, .fuses, .security, .stag, .clocks, .sensors, .slots, .image, .flash, .sramMem, .pins, .pending]) s (boundaryWork s) := by
  unfold boundaryWork
  repeat' first
    | with_reducible exact Only.refl _
    | with_reducible assumption
    | (extract_lets +onlyGivenNames y
       first
         | (refine Only.have_ y ?_ fun _ => ?_; subst y; rotate_left; clear_value y)
         | clear_value y | skip)
    | ((with_reducible apply Only.step (shiftRecords_only ..)); (case hs => decide))
    | ((with_reducible apply Only.step (setTemperature_only ..)); (case hs => decide))
    | ((with_reducible apply Only.step (limiterBoundary_only ..)); (case hs => decide))
    | ((with_reducible apply Only.step (checkLegal_only ..)); (case hs => decide))
    | ((with_reducible apply Only.step (applyCommits_only ..)); (case hs => decide))
    | ((with_reducible apply Only.step (endFrame_only ..)); (case hs => decide))
    | ((with_reducible apply Only.step (regionsDue_only ..)); (case hs => decide))
    | ((with_reducible apply Only.step (enterState_only ..)); (case hs => decide))
    | ((with_reducible apply Only.step (linkBoundary_only ..)); (case hs => decide))
    | ((with_reducible apply Only.step (showPass_only ..)); (case hs => decide))
    | ((with_reducible apply Only.step (stressStep_only ..)); (case hs => decide))
    | ((with_reducible apply Only.step (applyAges_only ..)); (case hs => decide))
    | ((with_reducible apply Only.step (applyAutoDefects_only ..)); (case hs => decide))
    | ((with_reducible apply Only.step (showDefects_only ..)); (case hs => decide))
    | ((with_reducible apply Only.step (applyRows_only ..)); (case hs => decide))
    | ((with_reducible apply Only.step (biasBoundary_only ..)); (case hs => decide))
    | ((with_reducible apply Only.step (stressRateCheck_only ..)); (case hs => decide))
    | split

end Sys2Proof.Machine
end

