-- ==== Sys2Proof/Laws/FramesRaster.lean ====
section
/-! SUPPORT. What each definition of Machine/Raster.lean changes. -/

set_option Elab.async false

set_option linter.tactic.unusedName false

namespace Sys2Proof.Machine

theorem showLock_only (s : State) :
    Only [.results] s (showLock s) := by
  unfold showLock
  repeat' first
    | with_reducible exact Only.refl _
    | with_reducible assumption
    | (extract_lets +onlyGivenNames y
       first
         | (refine Only.have_ y ?_ fun _ => ?_; subst y; rotate_left; clear_value y)
         | clear_value y | skip)
    | ((with_reducible apply Only.step (changeRes_only ..)); (case hs => decide))
    | split

theorem loseLock_only (cause : Nat) (s : State) :
    Only [.results, .events, .ports, .storeQueue, .heldEvents, .raster] s (loseLock cause s) := by
  unfold loseLock
  repeat' first
    | with_reducible exact Only.refl _
    | with_reducible assumption
    | (extract_lets +onlyGivenNames y
       first
         | (refine Only.have_ y ?_ fun _ => ?_; subst y; rotate_left; clear_value y)
         | (have _z : RasterSt := y; subst y) | clear_value y | skip)
    | ((with_reducible apply Only.step (showLock_only ..)); (case hs => decide))
    | ((with_reducible apply Only.step (raise_only ..)); (case hs => decide))
    | ((with_reducible apply Only.step (incSat_only ..)); (case hs => decide))
    | with_reducible refine Only.upd_raster ?_

theorem putGen_only (g : Genlock) (s : State) :
    Only [.results, .raster] s (putGen g s) := by
  unfold putGen
  repeat' first
    | with_reducible exact Only.refl _
    | with_reducible assumption
    | (extract_lets +onlyGivenNames y
       first
         | (refine Only.have_ y ?_ fun _ => ?_; subst y; rotate_left; clear_value y)
         | (have _z : RasterSt := y; subst y) | clear_value y | skip)
    | ((with_reducible apply Only.step (showLock_only ..)); (case hs => decide))
    | with_reducible refine Only.upd_raster ?_

theorem genlockMove_only (g : Genlock) (err : Int) (line : Nat) (s : State) :
    Only [.results, .events, .ports, .storeQueue, .heldEvents, .raster] s (genlockMove g err line s) := by
  unfold genlockMove
  repeat' first
    | with_reducible exact Only.refl _
    | with_reducible assumption
    | (extract_lets +onlyGivenNames y
       first
         | (refine Only.have_ y ?_ fun _ => ?_; subst y; rotate_left; clear_value y)
         | clear_value y | skip)
    | ((with_reducible apply Only.step (putGen_only ..)); (case hs => decide))
    | ((with_reducible apply Only.step (loseLock_only ..)); (case hs => decide))
    | ((with_reducible apply Only.step (raise_only ..)); (case hs => decide))
    | split

theorem genlockLimit_only (s : State) :
    Only [.results, .events, .ports, .storeQueue, .heldEvents, .raster] s (genlockLimit s) := by
  unfold genlockLimit
  repeat' first
    | with_reducible exact Only.refl _
    | with_reducible assumption
    | (extract_lets +onlyGivenNames y
       first
         | (refine Only.have_ y ?_ fun _ => ?_; subst y; rotate_left; clear_value y)
         | clear_value y | skip)
    | ((with_reducible apply Only.step (loseLock_only ..)); (case hs => decide))
    | split

theorem setTrim_only (s : State) :
    Only [.raster] s (setTrim s) := by
  unfold setTrim
  repeat' first
    | with_reducible exact Only.refl _
    | with_reducible assumption
    | (extract_lets +onlyGivenNames y
       first
         | (refine Only.have_ y ?_ fun _ => ?_; subst y; rotate_left; clear_value y)
         | (have _z : RasterSt := y; subst y) | clear_value y | skip)
    | split
    | with_reducible refine Only.upd_raster ?_

theorem genlockAnchored_only (a : Nat) (s : State) :
    Only [.results, .events, .ports, .storeQueue, .heldEvents, .raster] s (genlockAnchored a s) := by
  unfold genlockAnchored
  repeat' first
    | with_reducible exact Only.refl _
    | with_reducible assumption
    | (extract_lets +onlyGivenNames y
       first
         | (refine Only.have_ y ?_ fun _ => ?_; subst y; rotate_left; clear_value y)
         | clear_value y | skip)
    | ((with_reducible apply Only.step (setTrim_only ..)); (case hs => decide))
    | ((with_reducible apply Only.step (genlockLimit_only ..)); (case hs => decide))
    | ((with_reducible apply Only.step (genlockMove_only ..)); (case hs => decide))
    | ((with_reducible apply Only.step (setResI_only ..)); (case hs => decide))
    | split

theorem syncEdge_only (s : State) :
    Only [.results, .events, .ports, .storeQueue, .heldEvents, .raster] s (syncEdge s) := by
  unfold syncEdge
  repeat' first
    | with_reducible exact Only.refl _
    | with_reducible assumption
    | (extract_lets +onlyGivenNames y
       first
         | (refine Only.have_ y ?_ fun _ => ?_; subst y; rotate_left; clear_value y)
         | (have _z : RasterSt := y; subst y) | clear_value y | skip)
    | ((with_reducible apply Only.step (loseLock_only ..)); (case hs => decide))
    | ((with_reducible apply Only.step (showLock_only ..)); (case hs => decide))
    | ((with_reducible apply Only.step (changeRes_only ..)); (case hs => decide))
    | split
    | with_reducible refine Only.upd_raster ?_

theorem insertion_only (s : State) :
    Only [.raster] s (insertion s) := by
  unfold insertion
  repeat' first
    | with_reducible exact Only.refl _
    | with_reducible assumption
    | (extract_lets +onlyGivenNames y
       first
         | (refine Only.have_ y ?_ fun _ => ?_; subst y; rotate_left; clear_value y)
         | (have _z : RasterSt := y; subst y) | clear_value y | skip)
    | with_reducible refine Only.upd_raster ?_

theorem moveRoles_only (k : FrameKind) (s : State) :
    Only [.results, .events, .ports, .storeQueue, .heldEvents, .aux, .rx, .fstore, .dram] s (moveRoles k s) := by
  unfold moveRoles
  repeat' first
    | with_reducible exact Only.refl _
    | with_reducible assumption
    | (extract_lets +onlyGivenNames y
       first
         | (refine Only.have_ y ?_ fun _ => ?_; subst y; rotate_left; clear_value y)
         | (have _z : StoreSt := y; subst y) | clear_value y | skip)
    | ((with_reducible apply Only.step (writeMerge_only ..)); (case hs => decide))
    | ((with_reducible apply Only.step (showSlots_only ..)); (case hs => decide))
    | split
    | with_reducible refine Only.upd_fstore ?_

theorem moveLanding_only (k : FrameKind) (s : State) :
    Only [.results, .rx] s (moveLanding k s) := by
  unfold moveLanding
  repeat' first
    | with_reducible exact Only.refl _
    | with_reducible assumption
    | (extract_lets +onlyGivenNames y
       first
         | (refine Only.have_ y ?_ fun _ => ?_; subst y; rotate_left; clear_value y)
         | (have _z : RxSt := y; subst y) | clear_value y | skip)
    | ((with_reducible apply Only.step (countStored_only ..)); (case hs => decide))
    | (with_reducible apply Only.foldl)
    | intro t a ht
    | split
    | with_reducible refine Only.upd_rx ?_

theorem takeFrame_only (a : Nat) (k : FrameKind) (w : Waiting) (s : State) :
    Only [.results, .events, .ports, .storeQueue, .heldEvents, .rx, .raster, .power] s (takeFrame a k w s) := by
  unfold takeFrame
  repeat' first
    | with_reducible exact Only.refl _
    | with_reducible assumption
    | (extract_lets +onlyGivenNames y
       first
         | (refine Only.have_ y ?_ fun _ => ?_; subst y; rotate_left; clear_value y)
         | (have _z : RasterSt := y; subst y) | (have _z : RxSt := y; subst y) | clear_value y | skip)
    | ((with_reducible apply Only.step (enterState_only ..)); (case hs => decide))
    | ((with_reducible apply Only.step (raise_only ..)); (case hs => decide))
    | ((with_reducible apply Only.step (incSat_only ..)); (case hs => decide))
    | split
    | with_reducible refine Only.upd_rx_raster ?_

theorem tellRepeat_only (kind : Nat) (s : State) :
    Only [.results, .events, .ports, .storeQueue, .heldEvents, .raster] s (tellRepeat kind s) := by
  unfold tellRepeat
  repeat' first
    | with_reducible exact Only.refl _
    | with_reducible assumption
    | (extract_lets +onlyGivenNames y
       first
         | (refine Only.have_ y ?_ fun _ => ?_; subst y; rotate_left; clear_value y)
         | (have _z : RasterSt := y; subst y) | clear_value y | skip)
    | ((with_reducible apply Only.step (raise_only ..)); (case hs => decide))
    | with_reducible refine Only.upd_raster ?_

theorem noteKind_only (a : Nat) (k : FrameKind) (s : State) :
    Only [.results, .events, .ports, .storeQueue, .heldEvents, .rx, .raster, .power] s (noteKind a k s) := by
  unfold noteKind
  repeat' first
    | with_reducible exact Only.refl _
    | with_reducible assumption
    | (extract_lets +onlyGivenNames y
       first
         | (refine Only.have_ y ?_ fun _ => ?_; subst y; rotate_left; clear_value y)
         | (have _z : RasterSt := y; subst y) | clear_value y | skip)
    | ((with_reducible apply Only.step (tellRepeat_only ..)); (case hs => decide))
    | ((with_reducible apply Only.step (takeFrame_only ..)); (case hs => decide))
    | ((with_reducible apply Only.step (insertion_only ..)); (case hs => decide))
    | ((with_reducible apply Only.step (enterState_only ..)); (case hs => decide))
    | ((with_reducible apply Only.step (raise_only ..)); (case hs => decide))
    | ((with_reducible apply Only.step (incSat_only ..)); (case hs => decide))
    | split
    | with_reducible refine Only.upd_raster ?_

theorem noteOverdrive_only (k : FrameKind) (s : State) :
    Only [.results, .events, .ports, .storeQueue, .heldEvents, .pipe] s (noteOverdrive k s) := by
  unfold noteOverdrive
  repeat' first
    | with_reducible exact Only.refl _
    | with_reducible assumption
    | (extract_lets +onlyGivenNames y
       first
         | (refine Only.have_ y ?_ fun _ => ?_; subst y; rotate_left; clear_value y)
         | (have _z : PipeSt := y; subst y) | clear_value y | skip)
    | ((with_reducible apply Only.step (raise_only ..)); (case hs => decide))
    | ((with_reducible apply Only.step (incWrap_only ..)); (case hs => decide))
    | ((with_reducible apply Only.step (changeRes_only ..)); (case hs => decide))
    | split
    | with_reducible refine Only.upd_pipe ?_

theorem notePhase_only (d : Nat) (s : State) :
    Only [.results, .events, .ports, .storeQueue, .heldEvents, .pipe] s (notePhase d s) := by
  unfold notePhase
  repeat' first
    | with_reducible exact Only.refl _
    | with_reducible assumption
    | (extract_lets +onlyGivenNames y
       first
         | (refine Only.have_ y ?_ fun _ => ?_; subst y; rotate_left; clear_value y)
         | (have _z : PipeSt := y; subst y) | clear_value y | skip)
    | ((with_reducible apply Only.step (raise_only ..)); (case hs => decide))
    | ((with_reducible apply Only.step (incSat_only ..)); (case hs => decide))
    | ((with_reducible apply Only.step (changeRes_only ..)); (case hs => decide))
    | split
    | with_reducible refine Only.upd_pipe ?_

theorem clearFrame_only (s : State) :
    Only [.pipe, .fstore] s (clearFrame s) := by
  unfold clearFrame
  repeat' first
    | with_reducible exact Only.refl _
    | with_reducible assumption
    | (extract_lets +onlyGivenNames y
       first
         | (refine Only.have_ y ?_ fun _ => ?_; subst y; rotate_left; clear_value y)
         | (have _z : StoreSt := y; subst y) | (have _z : PipeSt := y; subst y) | clear_value y | skip)
    | with_reducible refine Only.upd_pipe_fstore ?_

theorem endLast_only (a : Nat) (s : State) :
    Only [.results, .events, .ports, .storeQueue, .heldEvents, .pipe, .panel] s (endLast a s) := by
  unfold endLast
  repeat' first
    | with_reducible exact Only.refl _
    | with_reducible assumption
    | (extract_lets +onlyGivenNames y
       first
         | (refine Only.have_ y ?_ fun _ => ?_; subst y; rotate_left; clear_value y)
         | (have _z : PanelSt := y; subst y) | clear_value y | skip)
    | ((with_reducible apply Only.step (notePhase_only ..)); (case hs => decide))
    | ((with_reducible apply Only.step (noteFrameTime_only ..)); (case hs => decide))
    | ((with_reducible apply Only.step (endDuty_only ..)); (case hs => decide))
    | ((with_reducible apply Only.step (setRes_only ..)); (case hs => decide))
    | split
    | with_reducible refine Only.upd_panel ?_

theorem makeAnchor_only (a : Nat) (s : State) :
    Only [.now, .results, .events, .ports, .storeQueue, .heldEvents, .aux, .rx, .raster, .pipe, .panel, .fstore, .dram, .power] s (makeAnchor a s) := by
  unfold makeAnchor
  repeat' first
    | with_reducible exact Only.refl _
    | with_reducible assumption
    | (extract_lets +onlyGivenNames y
       first
         | (refine Only.have_ y ?_ fun _ => ?_; subst y; rotate_left; clear_value y)
         | (have _z : StoreSt := y; subst y) | (have _z : RasterSt := y; subst y) | clear_value y | skip)
    | ((with_reducible apply Only.step (endLast_only ..)); (case hs => decide))
    | ((with_reducible apply Only.step (clearFrame_only ..)); (case hs => decide))
    | ((with_reducible apply Only.step (noteOverdrive_only ..)); (case hs => decide))
    | ((with_reducible apply Only.step (noteKind_only ..)); (case hs => decide))
    | ((with_reducible apply Only.step (moveLanding_only ..)); (case hs => decide))
    | ((with_reducible apply Only.step (moveRoles_only ..)); (case hs => decide))
    | ((with_reducible apply Only.step (genlockAnchored_only ..)); (case hs => decide))
    | ((with_reducible apply Only.step (dropWaiting_only ..)); (case hs => decide))
    | ((with_reducible apply Only.step (forgetInput_only ..)); (case hs => decide))
    | ((with_reducible apply Only.step (displayKeyLost_only ..)); (case hs => decide))
    | ((with_reducible apply Only.step (showSlots_only ..)); (case hs => decide))
    | ((with_reducible apply Only.step (incWrap_only ..)); (case hs => decide))
    | ((with_reducible apply Only.step (incSat_only ..)); (case hs => decide))
    | ((with_reducible apply Only.step (changeRes_only ..)); (case hs => decide))
    | ((with_reducible apply Only.step (setResI_only ..)); (case hs => decide))
    | ((with_reducible apply Only.step (advanceTo_only ..)); (case hs => decide))
    | split
    | with_reducible refine Only.upd_raster ?_
    | with_reducible refine Only.upd_fstore ?_

theorem rasterHalt_only (s : State) :
    Only [.config, .shadow, .results, .events, .ports, .storeQueue, .heldEvents, .link, .aux, .rx, .raster, .pipe, .out, .panel, .fstore, .dram, .sram, .resil, .power] s (rasterHalt s) := by
  unfold rasterHalt
  repeat' first
    | with_reducible exact Only.refl _
    | with_reducible assumption
    | (extract_lets +onlyGivenNames y
       first
         | (refine Only.have_ y ?_ fun _ => ?_; subst y; rotate_left; clear_value y)
         | (have _z : OutSt := y; subst y) | (have _z : PanelSt := y; subst y) | (have _z : PipeSt := y; subst y) | (have _z : RasterSt := y; subst y) | clear_value y | skip)
    | ((with_reducible apply Only.step (applyAllCommits_only ..)); (case hs => decide))
    | ((with_reducible apply Only.step (showPorts_only ..)); (case hs => decide))
    | ((with_reducible apply Only.step (dropSweep_only ..)); (case hs => decide))
    | ((with_reducible apply Only.step (rowsIdle_only ..)); (case hs => decide))
    | ((with_reducible apply Only.step (biasHold_only ..)); (case hs => decide))
    | ((with_reducible apply Only.step (endFade_only ..)); (case hs => decide))
    | ((with_reducible apply Only.step (showBuffers_only ..)); (case hs => decide))
    | ((with_reducible apply Only.step (changeRes_only ..)); (case hs => decide))
    | split
    | with_reducible refine Only.upd_raster_pipe_out_panel ?_
    | with_reducible refine Only.upd_out ?_

theorem rasterStop_only (s : State) :
    Only [.config, .shadow, .results, .events, .ports, .storeQueue, .heldEvents, .link, .aux, .rx, .raster, .pipe, .out, .panel, .fstore, .dram, .sram, .resil, .power] s (rasterStop s) := by
  unfold rasterStop
  repeat' first
    | with_reducible exact Only.refl _
    | with_reducible assumption
    | (extract_lets +onlyGivenNames y
       first
         | (refine Only.have_ y ?_ fun _ => ?_; subst y; rotate_left; clear_value y)
         | clear_value y | skip)
    | ((with_reducible apply Only.step (rasterHalt_only ..)); (case hs => decide))
    | ((with_reducible apply Only.step (checkLegal_only ..)); (case hs => decide))

theorem pulseAt_only (t : Nat) (s : State) :
    Only [.raster] s (pulseAt t s) := by
  unfold pulseAt
  repeat' first
    | with_reducible exact Only.refl _
    | with_reducible assumption
    | (extract_lets +onlyGivenNames y
       first
         | (refine Only.have_ y ?_ fun _ => ?_; subst y; rotate_left; clear_value y)
         | (have _z : RasterSt := y; subst y) | clear_value y | skip)
    | split
    | with_reducible refine Only.upd_raster ?_

theorem rasterStart_only (s : State) :
    Only [.now, .results, .events, .ports, .storeQueue, .heldEvents, .aux, .rx, .raster, .pipe, .panel, .fstore, .dram, .resil, .power] s (rasterStart s) := by
  unfold rasterStart
  repeat' first
    | with_reducible exact Only.refl _
    | with_reducible assumption
    | (extract_lets +onlyGivenNames y
       first
         | (refine Only.have_ y ?_ fun _ => ?_; subst y; rotate_left; clear_value y)
         | (have _z : RasterSt := y; subst y) | clear_value y | skip)
    | ((with_reducible apply Only.step (pulseAt_only ..)); (case hs => decide))
    | ((with_reducible apply Only.step (makeAnchor_only ..)); (case hs => decide))
    | ((with_reducible apply Only.step (showLock_only ..)); (case hs => decide))
    | ((with_reducible apply Only.step (setTemperature_only ..)); (case hs => decide))
    | ((with_reducible apply Only.step (checkLegal_only ..)); (case hs => decide))
    | ((with_reducible apply Only.step (showGeometry_only ..)); (case hs => decide))
    | ((with_reducible apply Only.step (showPass_only ..)); (case hs => decide))
    | ((with_reducible apply Only.step (showBuffers_only ..)); (case hs => decide))
    | ((with_reducible apply Only.step (stressRateCheck_only ..)); (case hs => decide))
    | split
    | with_reducible refine Only.upd_raster ?_

theorem rasterStep_only (s : State) :
    Only [.now, .results, .events, .ports, .storeQueue, .heldEvents, .aux, .rx, .raster, .pipe, .panel, .fstore, .dram, .resil, .power] s (rasterStep s) := by
  unfold rasterStep
  repeat' first
    | with_reducible exact Only.refl _
    | with_reducible assumption
    | (extract_lets +onlyGivenNames y
       first
         | (refine Only.have_ y ?_ fun _ => ?_; subst y; rotate_left; clear_value y)
         | (have _z : PanelSt := y; subst y) | clear_value y | skip)
    | ((with_reducible apply Only.step (rasterStart_only ..)); (case hs => decide))
    | ((with_reducible apply Only.step (rowsBegin_only ..)); (case hs => decide))
    | split
    | with_reducible refine Only.upd_panel ?_

theorem rasterResume_only (s : State) :
    Only [.now, .results, .events, .ports, .storeQueue, .heldEvents, .aux, .rx, .raster, .pipe, .panel, .fstore, .dram, .resil, .power] s (rasterResume s) := by
  unfold rasterResume
  repeat' first
    | with_reducible exact Only.refl _
    | with_reducible assumption
    | (extract_lets +onlyGivenNames y
       first
         | (refine Only.have_ y ?_ fun _ => ?_; subst y; rotate_left; clear_value y)
         | clear_value y | skip)
    | ((with_reducible apply Only.step (rasterStart_only ..)); (case hs => decide))
    | ((with_reducible apply Only.step (checkLegal_only ..)); (case hs => decide))
    | split

theorem planOwn_only (moved : Bool) (s : State) :
    Only [.raster] s (planOwn moved s) := by
  unfold planOwn
  repeat' first
    | with_reducible exact Only.refl _
    | with_reducible assumption
    | (extract_lets +onlyGivenNames y
       first
         | (refine Only.have_ y ?_ fun _ => ?_; subst y; rotate_left; clear_value y)
         | (have _z : RasterSt := y; subst y) | clear_value y | skip)
    | split
    | with_reducible refine Only.upd_raster ?_

theorem placeSync_only (s : State) :
    Only [.raster] s (placeSync s) := by
  unfold placeSync
  repeat' first
    | with_reducible exact Only.refl _
    | with_reducible assumption
    | (extract_lets +onlyGivenNames y
       first
         | (refine Only.have_ y ?_ fun _ => ?_; subst y; rotate_left; clear_value y)
         | clear_value y | skip)
    | ((with_reducible apply Only.step (pulseAt_only ..)); (case hs => decide))
    | split

theorem measureSkew_only (s : State) :
    Only [.results, .events, .ports, .storeQueue, .heldEvents, .resil] s (measureSkew s) := by
  unfold measureSkew
  repeat' first
    | with_reducible exact Only.refl _
    | with_reducible assumption
    | (extract_lets +onlyGivenNames y
       first
         | (refine Only.have_ y ?_ fun _ => ?_; subst y; rotate_left; clear_value y)
         | clear_value y | skip)
    | ((with_reducible apply Only.step (settle_only ..)); (case hs => decide))
    | ((with_reducible apply Only.step (raise_only ..)); (case hs => decide))
    | ((with_reducible apply Only.step (setResI_only ..)); (case hs => decide))
    | split

theorem frameBoundary_only (s : State) :
    Only (Part.but [.epoch, .requests, .can, .store, .storeState, .tallies, .fuses, .security, .stag, .clocks, .sensors, .slots, .image, .flash, .sramMem, .pins, .pending]) s (frameBoundary s) := by
  unfold frameBoundary
  repeat' first
    | with_reducible exact Only.refl _
    | with_reducible assumption
    | (extract_lets +onlyGivenNames y
       first
         | (refine Only.have_ y ?_ fun _ => ?_; subst y; rotate_left; clear_value y)
         | (have _z : RasterSt := y; subst y) | clear_value y | skip)
    | ((with_reducible apply Only.step (measureSkew_only ..)); (case hs => decide))
    | ((with_reducible apply Only.step (placeSync_only ..)); (case hs => decide))
    | ((with_reducible apply Only.step (planOwn_only ..)); (case hs => decide))
    | ((with_reducible apply Only.step (rasterResume_only ..)); (case hs => decide))
    | ((with_reducible apply Only.step (rasterHalt_only ..)); (case hs => decide))
    | ((with_reducible apply Only.step (boundaryWork_only ..)); (case hs => decide))
    | split
    | with_reducible refine Only.upd_raster ?_

theorem closeDeadlines_only (n : Int) (s : State) :
    Only [.results, .events, .counts, .ports, .storeQueue, .heldEvents, .rx, .pipe, .fstore, .resil] s (closeDeadlines n s) := by
  unfold closeDeadlines
  repeat' first
    | with_reducible exact Only.refl _
    | with_reducible assumption
    | (extract_lets +onlyGivenNames y
       first
         | (refine Only.have_ y ?_ fun _ => ?_; subst y; rotate_left; clear_value y)
         | clear_value y | skip)
    | ((with_reducible apply Only.step (missUpTo_only ..)); (case hs => decide))
    | (with_reducible apply Only.foldl)
    | intro t a ht
    | split

theorem lineStart_only (n : Int) (s : State) :
    Only (Part.but [.epoch, .requests, .can, .store, .tallies, .fuses, .security, .stag, .clocks, .sensors, .slots, .image, .flash, .sramMem, .pins, .pending]) s (lineStart n s) := by
  unfold lineStart
  repeat' first
    | with_reducible exact Only.refl _
    | with_reducible assumption
    | (extract_lets +onlyGivenNames y
       first
         | (refine Only.have_ y ?_ fun _ => ?_; subst y; rotate_left; clear_value y)
         | (have _z : RasterSt := y; subst y) | clear_value y | skip)
    | ((with_reducible apply Only.step (closeDeadlines_only ..)); (case hs => decide))
    | ((with_reducible apply Only.step (frameBoundary_only ..)); (case hs => decide))
    | ((with_reducible apply Only.step (firstLight_only ..)); (case hs => decide))
    | ((with_reducible apply Only.step (othamLine_only ..)); (case hs => decide))
    | ((with_reducible apply Only.step (biasStretch_only ..)); (case hs => decide))
    | ((with_reducible apply Only.step (biasDue_only ..)); (case hs => decide))
    | ((with_reducible apply Only.step (showDuty_only ..)); (case hs => decide))
    | ((with_reducible apply Only.step (sumDuty_only ..)); (case hs => decide))
    | ((with_reducible apply Only.step (lineSet_only ..)); (case hs => decide))
    | ((with_reducible apply Only.step (repairTables_only ..)); (case hs => decide))
    | ((with_reducible apply Only.step (takeOvers_only ..)); (case hs => decide))
    | ((with_reducible apply Only.step (changeRes_only ..)); (case hs => decide))
    | split
    | with_reducible refine Only.upd_raster ?_

theorem scanLine_only (left : Nat) (s : State) :
    Only [.now, .results, .events, .ports, .storeState, .storeQueue, .heldEvents, .out, .panel, .resil] s (scanLine left s) := by
  unfold scanLine
  repeat' first
    | with_reducible exact Only.refl _
    | with_reducible assumption
    | (extract_lets +onlyGivenNames y
       first
         | (refine Only.have_ y ?_ fun _ => ?_; subst y; rotate_left; clear_value y)
         | (have _z : PanelSt := y; subst y) | clear_value y | skip)
    | ((with_reducible apply Only.step (othamScanLine_only ..)); (case hs => decide))
    | ((with_reducible apply Only.step (rowsDisch_only ..)); (case hs => decide))
    | ((with_reducible apply Only.step (blackScanLine_only ..)); (case hs => decide))
    | ((with_reducible apply Only.step (advanceTo_only ..)); (case hs => decide))
    | split
    | with_reducible refine Only.upd_panel ?_

theorem anchorBy_only (row : AnchorRow) (s : State) :
    Only [.now, .results, .events, .ports, .storeQueue, .heldEvents, .aux, .rx, .raster, .pipe, .panel, .fstore, .dram, .power] s (anchorBy row s) := by
  unfold anchorBy
  repeat' first
    | with_reducible exact Only.refl _
    | with_reducible assumption
    | (extract_lets +onlyGivenNames y
       first
         | (refine Only.have_ y ?_ fun _ => ?_; subst y; rotate_left; clear_value y)
         | clear_value y | skip)
    | ((with_reducible apply Only.step (makeAnchor_only ..)); (case hs => decide))
    | split

theorem execSyncInEdge_only (s : State) :
    Runs [.results, .events, .ports, .storeQueue, .heldEvents, .raster] s (execSyncInEdge s) := by
  unfold execSyncInEdge
  repeat' first
    | with_reducible apply Runs.next
    | with_reducible exact Only.refl _
    | with_reducible assumption
    | (extract_lets +onlyGivenNames y
       first
         | (refine Only.have_ y ?_ fun _ => ?_; subst y; rotate_left; clear_value y)
         | clear_value y | skip)
    | ((with_reducible apply Only.step (syncEdge_only ..)); (case hs => decide))
    | split

theorem execSyncInTimeout_only (s : State) :
    Runs [.now, .results, .events, .ports, .storeQueue, .heldEvents, .raster] s (execSyncInTimeout s) := by
  unfold execSyncInTimeout
  repeat' first
    | with_reducible apply Runs.next
    | with_reducible exact Only.refl _
    | with_reducible assumption
    | (extract_lets +onlyGivenNames y
       first
         | (refine Only.have_ y ?_ fun _ => ?_; subst y; rotate_left; clear_value y)
         | (have _z : RasterSt := y; subst y) | clear_value y | skip)
    | ((with_reducible apply Only.step (loseLock_only ..)); (case hs => decide))
    | ((with_reducible apply Only.step (showLock_only ..)); (case hs => decide))
    | ((with_reducible apply Only.step (changeRes_only ..)); (case hs => decide))
    | ((with_reducible apply Only.step (advanceTo_only ..)); (case hs => decide))
    | split
    | with_reducible refine Only.upd_raster ?_

theorem execLineStart_only (s : State) :
    Runs (Part.but [.epoch, .requests, .can, .store, .tallies, .fuses, .security, .stag, .clocks, .sensors, .slots, .image, .flash, .sramMem, .pins, .pending]) s (execLineStart s) := by
  unfold execLineStart
  repeat' first
    | with_reducible apply Runs.next
    | with_reducible exact Only.refl _
    | with_reducible assumption
    | (extract_lets +onlyGivenNames y
       first
         | (refine Only.have_ y ?_ fun _ => ?_; subst y; rotate_left; clear_value y)
         | clear_value y | skip)
    | ((with_reducible apply Only.step (scanLine_only ..)); (case hs => decide))
    | ((with_reducible apply Only.step (lineStart_only ..)); (case hs => decide))
    | ((with_reducible apply Only.step (advanceTo_only ..)); (case hs => decide))
    | split

theorem execFreeAnchor_only (s : State) :
    Runs [.now, .results, .events, .ports, .storeQueue, .heldEvents, .aux, .rx, .raster, .pipe, .panel, .fstore, .dram, .power] s (execFreeAnchor s) := by
  unfold execFreeAnchor
  repeat' first
    | with_reducible apply Runs.next
    | with_reducible exact Only.refl _
    | with_reducible assumption
    | (extract_lets +onlyGivenNames y
       first
         | (refine Only.have_ y ?_ fun _ => ?_; subst y; rotate_left; clear_value y)
         | clear_value y | skip)
    | ((with_reducible apply Only.step (anchorBy_only ..)); (case hs => decide))

theorem execEarliestAnchor_only (s : State) :
    Runs [.now, .results, .events, .ports, .storeQueue, .heldEvents, .aux, .rx, .raster, .pipe, .panel, .fstore, .dram, .power] s (execEarliestAnchor s) := by
  unfold execEarliestAnchor
  repeat' first
    | with_reducible apply Runs.next
    | with_reducible exact Only.refl _
    | with_reducible assumption
    | (extract_lets +onlyGivenNames y
       first
         | (refine Only.have_ y ?_ fun _ => ?_; subst y; rotate_left; clear_value y)
         | clear_value y | skip)
    | ((with_reducible apply Only.step (anchorBy_only ..)); (case hs => decide))

theorem execLatestAnchor_only (s : State) :
    Runs [.now, .results, .events, .ports, .storeQueue, .heldEvents, .aux, .rx, .raster, .pipe, .panel, .fstore, .dram, .power] s (execLatestAnchor s) := by
  unfold execLatestAnchor
  repeat' first
    | with_reducible apply Runs.next
    | with_reducible exact Only.refl _
    | with_reducible assumption
    | (extract_lets +onlyGivenNames y
       first
         | (refine Only.have_ y ?_ fun _ => ?_; subst y; rotate_left; clear_value y)
         | clear_value y | skip)
    | ((with_reducible apply Only.step (anchorBy_only ..)); (case hs => decide))

theorem execSelfAnchor_only (s : State) :
    Runs [.now, .results, .events, .ports, .storeQueue, .heldEvents, .aux, .rx, .raster, .pipe, .panel, .fstore, .dram, .power] s (execSelfAnchor s) := by
  unfold execSelfAnchor
  repeat' first
    | with_reducible apply Runs.next
    | with_reducible exact Only.refl _
    | with_reducible assumption
    | (extract_lets +onlyGivenNames y
       first
         | (refine Only.have_ y ?_ fun _ => ?_; subst y; rotate_left; clear_value y)
         | clear_value y | skip)
    | ((with_reducible apply Only.step (anchorBy_only ..)); (case hs => decide))

theorem execGenlockAnchor_only (s : State) :
    Runs [.now, .results, .events, .ports, .storeQueue, .heldEvents, .aux, .rx, .raster, .pipe, .panel, .fstore, .dram, .power] s (execGenlockAnchor s) := by
  unfold execGenlockAnchor
  repeat' first
    | with_reducible apply Runs.next
    | with_reducible exact Only.refl _
    | with_reducible assumption
    | (extract_lets +onlyGivenNames y
       first
         | (refine Only.have_ y ?_ fun _ => ?_; subst y; rotate_left; clear_value y)
         | clear_value y | skip)
    | ((with_reducible apply Only.step (anchorBy_only ..)); (case hs => decide))

end Sys2Proof.Machine
end

