-- ==== Sys2Proof/Laws/FramesTransport.lean ====
section
/-! SUPPORT. What each definition of Machine/Transport.lean changes. -/

set_option Elab.async false

set_option linter.tactic.unusedName false

namespace Sys2Proof.Machine

theorem ignorePacket_only (type : Nat) (reason : Nat) (s : State) :
    Only [.results, .events, .ports, .storeQueue, .heldEvents] s (ignorePacket type reason s) := by
  unfold ignorePacket
  repeat' first
    | with_reducible exact Only.refl _
    | with_reducible assumption
    | (extract_lets +onlyGivenNames y
       first
         | (refine Only.have_ y ?_ fun _ => ?_; subst y; rotate_left; clear_value y)
         | clear_value y | skip)
    | ((with_reducible apply Only.step (raise_only ..)); (case hs => decide))
    | ((with_reducible apply Only.step (incSat_only ..)); (case hs => decide))

theorem rejectFrame_only (frame : Nat) (cause : Nat) (s : State) :
    Only [.results, .events, .ports, .storeQueue, .heldEvents, .rx] s (rejectFrame frame cause s) := by
  unfold rejectFrame
  repeat' first
    | with_reducible exact Only.refl _
    | with_reducible assumption
    | (extract_lets +onlyGivenNames y
       first
         | (refine Only.have_ y ?_ fun _ => ?_; subst y; rotate_left; clear_value y)
         | (have _z : RxSt := y; subst y) | clear_value y | skip)
    | ((with_reducible apply Only.step (raise_only ..)); (case hs => decide))
    | ((with_reducible apply Only.step (incSat_only ..)); (case hs => decide))
    | with_reducible refine Only.upd_rx ?_

theorem takeHold_only (s : State) :
    Only [.results, .events, .ports, .storeQueue, .heldEvents, .aux, .rx, .raster, .fstore] s (takeHold s) := by
  unfold takeHold
  repeat' first
    | with_reducible exact Only.refl _
    | with_reducible assumption
    | (extract_lets +onlyGivenNames y
       first
         | (refine Only.have_ y ?_ fun _ => ?_; subst y; rotate_left; clear_value y)
         | (have _z : StoreSt := y; subst y) | clear_value y | skip)
    | ((with_reducible apply Only.step (clearRegions_only ..)); (case hs => decide))
    | ((with_reducible apply Only.step (dropWaiting_only ..)); (case hs => decide))
    | split
    | with_reducible refine Only.upd_fstore ?_

theorem noteProtected_only (phase : Nat) (frame : Nat) (s : State) :
    Only [.security] s (noteProtected phase frame s) := by
  unfold noteProtected
  repeat' first
    | with_reducible exact Only.refl _
    | with_reducible assumption
    | (extract_lets +onlyGivenNames y
       first
         | (refine Only.have_ y ?_ fun _ => ?_; subst y; rotate_left; clear_value y)
         | (have _z : SecSt := y; subst y) | clear_value y | skip)
    | split
    | with_reducible refine Only.upd_security ?_

theorem noteLate_only (frame : Nat) (s : State) :
    Only [.results, .events, .ports, .storeQueue, .heldEvents] s (noteLate frame s) := by
  unfold noteLate
  repeat' first
    | with_reducible exact Only.refl _
    | with_reducible assumption
    | (extract_lets +onlyGivenNames y
       first
         | (refine Only.have_ y ?_ fun _ => ?_; subst y; rotate_left; clear_value y)
         | clear_value y | skip)
    | ((with_reducible apply Only.step (raise_only ..)); (case hs => decide))
    | ((with_reducible apply Only.step (incSat_only ..)); (case hs => decide))
    | split

theorem anchorNow_only (s : State) :
    Only [.now, .results, .events, .ports, .storeQueue, .heldEvents, .aux, .rx, .raster, .pipe, .panel, .fstore, .dram, .power] s (anchorNow s) := by
  unfold anchorNow
  repeat' first
    | with_reducible exact Only.refl _
    | with_reducible assumption
    | (extract_lets +onlyGivenNames y
       first
         | (refine Only.have_ y ?_ fun _ => ?_; subst y; rotate_left; clear_value y)
         | clear_value y | skip)
    | ((with_reducible apply Only.step (makeAnchor_only ..)); (case hs => decide))
    | split

theorem acceptFrame_only (p : Packet) (s : State) :
    Only [.now, .results, .events, .ports, .storeQueue, .security, .heldEvents, .aux, .rx, .raster, .pipe, .panel, .fstore, .dram, .power] s (acceptFrame p s) := by
  unfold acceptFrame
  repeat' first
    | with_reducible exact Only.refl _
    | with_reducible assumption
    | (extract_lets +onlyGivenNames y
       first
         | (refine Only.have_ y ?_ fun _ => ?_; subst y; rotate_left; clear_value y)
         | (have _z : StoreSt := y; subst y) | (have _z : RasterSt := y; subst y) | (have _z : RxSt := y; subst y) | clear_value y | skip)
    | ((with_reducible apply Only.step (anchorNow_only ..)); (case hs => decide))
    | ((with_reducible apply Only.step (noteLate_only ..)); (case hs => decide))
    | ((with_reducible apply Only.step (noteProtected_only ..)); (case hs => decide))
    | ((with_reducible apply Only.step (takeHold_only ..)); (case hs => decide))
    | ((with_reducible apply Only.step (noteActivity_only ..)); (case hs => decide))
    | ((with_reducible apply Only.step (openSlot_only ..)); (case hs => decide))
    | ((with_reducible apply Only.step (raise_only ..)); (case hs => decide))
    | ((with_reducible apply Only.step (incWrap_only ..)); (case hs => decide))
    | ((with_reducible apply Only.step (incSat_only ..)); (case hs => decide))
    | ((with_reducible apply Only.step (changeRes_only ..)); (case hs => decide))
    | ((with_reducible apply Only.step (setRes_only ..)); (case hs => decide))
    | split
    | with_reducible refine Only.upd_rx_raster ?_
    | with_reducible refine Only.upd_fstore ?_

theorem takeFrameStart_only (p : Packet) (s : State) :
    Only [.now, .results, .events, .ports, .storeQueue, .security, .heldEvents, .aux, .rx, .raster, .pipe, .panel, .fstore, .dram, .power] s (takeFrameStart p s) := by
  unfold takeFrameStart
  repeat' first
    | with_reducible exact Only.refl _
    | with_reducible assumption
    | (extract_lets +onlyGivenNames y
       first
         | (refine Only.have_ y ?_ fun _ => ?_; subst y; rotate_left; clear_value y)
         | (have _z : RxSt := y; subst y) | clear_value y | skip)
    | ((with_reducible apply Only.step (acceptFrame_only ..)); (case hs => decide))
    | ((with_reducible apply Only.step (rejectFrame_only ..)); (case hs => decide))
    | ((with_reducible apply Only.step (ignorePacket_only ..)); (case hs => decide))
    | ((with_reducible apply Only.step (endInput_only ..)); (case hs => decide))
    | split
    | with_reducible refine Only.upd_rx ?_

theorem lineWhole_only (r : RxFrame) (s : State) :
    Only [.results, .events, .ports, .storeQueue, .heldEvents, .rx, .pipe, .fstore, .dram] s (lineWhole r s) := by
  unfold lineWhole
  repeat' first
    | with_reducible exact Only.refl _
    | with_reducible assumption
    | (extract_lets +onlyGivenNames y
       first
         | (refine Only.have_ y ?_ fun _ => ?_; subst y; rotate_left; clear_value y)
         | clear_value y | skip)
    | ((with_reducible apply Only.step (deliverLine_only ..)); (case hs => decide))
    | ((with_reducible apply Only.step (raise_only ..)); (case hs => decide))
    | ((with_reducible apply Only.step (incSat_only ..)); (case hs => decide))
    | split

theorem takeSpan_only (r : RxFrame) (p : Packet) (s : State) :
    Only [.results, .events, .ports, .storeQueue, .heldEvents, .rx, .pipe, .fstore, .dram] s (takeSpan r p s) := by
  unfold takeSpan
  repeat' first
    | with_reducible exact Only.refl _
    | with_reducible assumption
    | (extract_lets +onlyGivenNames y
       first
         | (refine Only.have_ y ?_ fun _ => ?_; subst y; rotate_left; clear_value y)
         | (have _z : RxSt := y; subst y) | clear_value y | skip)
    | ((with_reducible apply Only.step (lineWhole_only ..)); (case hs => decide))
    | ((with_reducible apply Only.step (raise_only ..)); (case hs => decide))
    | ((with_reducible apply Only.step (incSat_only ..)); (case hs => decide))
    | split
    | with_reducible refine Only.upd_rx ?_

theorem countPacket_only (s : State) :
    Only [.rx] s (countPacket s) := by
  unfold countPacket
  repeat' first
    | with_reducible exact Only.refl _
    | with_reducible assumption
    | (extract_lets +onlyGivenNames y
       first
         | (refine Only.have_ y ?_ fun _ => ?_; subst y; rotate_left; clear_value y)
         | (have _z : RxSt := y; subst y) | clear_value y | skip)
    | with_reducible refine Only.upd_rx ?_

theorem takeLine_only (p : Packet) (s : State) :
    Only [.results, .events, .ports, .storeQueue, .heldEvents, .rx, .pipe, .fstore, .dram] s (takeLine p s) := by
  unfold takeLine
  repeat' first
    | with_reducible exact Only.refl _
    | with_reducible assumption
    | (extract_lets +onlyGivenNames y
       first
         | (refine Only.have_ y ?_ fun _ => ?_; subst y; rotate_left; clear_value y)
         | clear_value y | skip)
    | ((with_reducible apply Only.step (countPacket_only ..)); (case hs => decide))
    | ((with_reducible apply Only.step (takeSpan_only ..)); (case hs => decide))
    | ((with_reducible apply Only.step (ignorePacket_only ..)); (case hs => decide))
    | ((with_reducible apply Only.step (closeLines_only ..)); (case hs => decide))
    | split

theorem takeFrameEnd_only (p : Packet) (s : State) :
    Only [.results, .events, .ports, .storeQueue, .heldEvents, .rx, .pipe, .fstore, .dram] s (takeFrameEnd p s) := by
  unfold takeFrameEnd
  repeat' first
    | with_reducible exact Only.refl _
    | with_reducible assumption
    | (extract_lets +onlyGivenNames y
       first
         | (refine Only.have_ y ?_ fun _ => ?_; subst y; rotate_left; clear_value y)
         | (have _z : RxSt := y; subst y) | clear_value y | skip)
    | ((with_reducible apply Only.step (ignorePacket_only ..)); (case hs => decide))
    | ((with_reducible apply Only.step (endInput_only ..)); (case hs => decide))
    | ((with_reducible apply Only.step (raise_only ..)); (case hs => decide))
    | split
    | with_reducible refine Only.upd_rx ?_

theorem takeRegion_only (p : Packet) (s : State) :
    Only [.results, .events, .ports, .storeQueue, .heldEvents, .rx, .power] s (takeRegion p s) := by
  unfold takeRegion
  repeat' first
    | with_reducible exact Only.refl _
    | with_reducible assumption
    | (extract_lets +onlyGivenNames y
       first
         | (refine Only.have_ y ?_ fun _ => ?_; subst y; rotate_left; clear_value y)
         | (have _z : RxSt := y; subst y) | clear_value y | skip)
    | ((with_reducible apply Only.step (noteActivity_only ..)); (case hs => decide))
    | ((with_reducible apply Only.step (showRegionLimit_only ..)); (case hs => decide))
    | ((with_reducible apply Only.step (raise_only ..)); (case hs => decide))
    | ((with_reducible apply Only.step (incSat_only ..)); (case hs => decide))
    | split
    | with_reducible refine Only.upd_rx ?_

theorem takeControl_only (p : Packet) (s : State) :
    Only [.results, .events, .ports, .storeQueue, .heldEvents, .raster] s (takeControl p s) := by
  unfold takeControl
  repeat' first
    | with_reducible exact Only.refl _
    | with_reducible assumption
    | (extract_lets +onlyGivenNames y
       first
         | (refine Only.have_ y ?_ fun _ => ?_; subst y; rotate_left; clear_value y)
         | (have _z : RasterSt := y; subst y) | clear_value y | skip)
    | ((with_reducible apply Only.step (ignorePacket_only ..)); (case hs => decide))
    | ((with_reducible apply Only.step (raise_only ..)); (case hs => decide))
    | ((with_reducible apply Only.step (setResList_only ..)); (case hs => decide))
    | split
    | with_reducible refine Only.upd_raster ?_

theorem takePacket_only (type : Nat) (p : Packet) (s : State) :
    Only [.now, .results, .events, .ports, .storeQueue, .security, .heldEvents, .aux, .rx, .raster, .pipe, .panel, .fstore, .dram, .power] s (takePacket type p s) := by
  unfold takePacket
  repeat' first
    | with_reducible exact Only.refl _
    | with_reducible assumption
    | (extract_lets +onlyGivenNames y
       first
         | (refine Only.have_ y ?_ fun _ => ?_; subst y; rotate_left; clear_value y)
         | clear_value y | skip)
    | ((with_reducible apply Only.step (takeControl_only ..)); (case hs => decide))
    | ((with_reducible apply Only.step (takeRegion_only ..)); (case hs => decide))
    | ((with_reducible apply Only.step (takeFrameEnd_only ..)); (case hs => decide))
    | ((with_reducible apply Only.step (takeLine_only ..)); (case hs => decide))
    | ((with_reducible apply Only.step (takeFrameStart_only ..)); (case hs => decide))
    | ((with_reducible apply Only.step (ignorePacket_only ..)); (case hs => decide))
    | split

theorem skipColumn_only (s : State) :
    Only [.results, .rx] s (skipColumn s) := by
  unfold skipColumn
  repeat' first
    | with_reducible exact Only.refl _
    | with_reducible assumption
    | (extract_lets +onlyGivenNames y
       first
         | (refine Only.have_ y ?_ fun _ => ?_; subst y; rotate_left; clear_value y)
         | (have _z : RxSt := y; subst y) | clear_value y | skip)
    | ((with_reducible apply Only.step (incSat_only ..)); (case hs => decide))
    | split
    | with_reducible refine Only.upd_rx ?_

theorem resume_only (s : State) :
    Only [.results, .events, .ports, .storeQueue, .heldEvents, .rx] s (resume s) := by
  unfold resume
  repeat' first
    | with_reducible exact Only.refl _
    | with_reducible assumption
    | (extract_lets +onlyGivenNames y
       first
         | (refine Only.have_ y ?_ fun _ => ?_; subst y; rotate_left; clear_value y)
         | (have _z : RxSt := y; subst y) | clear_value y | skip)
    | ((with_reducible apply Only.step (raise_only ..)); (case hs => decide))
    | split
    | with_reducible refine Only.upd_rx ?_

theorem feed_only (n k : Nat) (bs : List Nat) (s : State) :
    Only [.now, .results, .events, .ports, .storeQueue, .security, .heldEvents, .aux, .rx, .raster, .pipe, .panel, .fstore, .dram, .power] s (feed n k bs s) := by
  induction k generalizing bs s with
  | zero => exact Only.upd_rx (Only.refl _) (by decide)
  | succ k ih =>
    unfold feed
    dsimp only
    split
    · exact Only.upd_rx (Only.refl _) (by decide)
    split
    · exact ih ..
    split
    · exact ((skipColumn_only ..).mono (by decide)).trans (ih ..)
    split
    · exact Only.upd_rx (Only.refl _) (by decide)
    · refine Only.trans ?_ (ih ..)
      exact Only.step (takePacket_only ..) (by decide) ((resume_only ..).mono (by decide))

theorem receive_only (type : Nat) (p : Packet) (s : State) :
    Only [.now, .results, .events, .ports, .storeQueue, .security, .heldEvents, .aux, .rx, .raster, .pipe, .panel, .fstore, .dram, .power] s (receive type p s) := by
  unfold receive
  repeat' first
    | with_reducible exact Only.refl _
    | with_reducible assumption
    | (extract_lets +onlyGivenNames y
       first
         | (refine Only.have_ y ?_ fun _ => ?_; subst y; rotate_left; clear_value y)
         | clear_value y | skip)
    | ((with_reducible apply Only.step (feed_only ..)); (case hs => decide))
    | ((with_reducible apply Only.step (resume_only ..)); (case hs => decide))
    | ((with_reducible apply Only.step (takePacket_only ..)); (case hs => decide))
    | split

theorem execFrameStart_only (p : Packet) (s : State) :
    Runs [.now, .results, .events, .ports, .storeQueue, .security, .heldEvents, .aux, .rx, .raster, .pipe, .panel, .fstore, .dram, .power] s (execFrameStart p s) := by
  unfold execFrameStart
  repeat' first
    | with_reducible apply Runs.next
    | with_reducible exact Only.refl _
    | with_reducible assumption
    | (extract_lets +onlyGivenNames y
       first
         | (refine Only.have_ y ?_ fun _ => ?_; subst y; rotate_left; clear_value y)
         | clear_value y | skip)
    | ((with_reducible apply Only.step (receive_only ..)); (case hs => decide))

theorem execLine_only (p : Packet) (s : State) :
    Runs [.now, .results, .events, .ports, .storeQueue, .security, .heldEvents, .aux, .rx, .raster, .pipe, .panel, .fstore, .dram, .power] s (execLine p s) := by
  unfold execLine
  repeat' first
    | with_reducible apply Runs.next
    | with_reducible exact Only.refl _
    | with_reducible assumption
    | (extract_lets +onlyGivenNames y
       first
         | (refine Only.have_ y ?_ fun _ => ?_; subst y; rotate_left; clear_value y)
         | clear_value y | skip)
    | ((with_reducible apply Only.step (receive_only ..)); (case hs => decide))

theorem execRegionUpdate_only (p : Packet) (s : State) :
    Runs [.now, .results, .events, .ports, .storeQueue, .security, .heldEvents, .aux, .rx, .raster, .pipe, .panel, .fstore, .dram, .power] s (execRegionUpdate p s) := by
  unfold execRegionUpdate
  repeat' first
    | with_reducible apply Runs.next
    | with_reducible exact Only.refl _
    | with_reducible assumption
    | (extract_lets +onlyGivenNames y
       first
         | (refine Only.have_ y ?_ fun _ => ?_; subst y; rotate_left; clear_value y)
         | clear_value y | skip)
    | ((with_reducible apply Only.step (receive_only ..)); (case hs => decide))

theorem execFrameEnd_only (p : Packet) (s : State) :
    Runs [.now, .results, .events, .ports, .storeQueue, .security, .heldEvents, .aux, .rx, .raster, .pipe, .panel, .fstore, .dram, .power] s (execFrameEnd p s) := by
  unfold execFrameEnd
  repeat' first
    | with_reducible apply Runs.next
    | with_reducible exact Only.refl _
    | with_reducible assumption
    | (extract_lets +onlyGivenNames y
       first
         | (refine Only.have_ y ?_ fun _ => ?_; subst y; rotate_left; clear_value y)
         | clear_value y | skip)
    | ((with_reducible apply Only.step (receive_only ..)); (case hs => decide))

theorem execSleepNotice_only (p : Packet) (s : State) :
    Runs [.now, .results, .events, .ports, .storeQueue, .security, .heldEvents, .aux, .rx, .raster, .pipe, .panel, .fstore, .dram, .power] s (execSleepNotice p s) := by
  unfold execSleepNotice
  repeat' first
    | with_reducible apply Runs.next
    | with_reducible exact Only.refl _
    | with_reducible assumption
    | (extract_lets +onlyGivenNames y
       first
         | (refine Only.have_ y ?_ fun _ => ?_; subst y; rotate_left; clear_value y)
         | clear_value y | skip)
    | ((with_reducible apply Only.step (receive_only ..)); (case hs => decide))

theorem execControlUser_only (p : Packet) (s : State) :
    Runs [.now, .results, .events, .ports, .storeQueue, .security, .heldEvents, .aux, .rx, .raster, .pipe, .panel, .fstore, .dram, .power] s (execControlUser p s) := by
  unfold execControlUser
  repeat' first
    | with_reducible apply Runs.next
    | with_reducible exact Only.refl _
    | with_reducible assumption
    | (extract_lets +onlyGivenNames y
       first
         | (refine Only.have_ y ?_ fun _ => ?_; subst y; rotate_left; clear_value y)
         | clear_value y | skip)
    | ((with_reducible apply Only.step (receive_only ..)); (case hs => decide))

theorem execReservedPacket_only (type : Nat) (p : Packet) (s : State) :
    Runs [.now, .results, .events, .ports, .storeQueue, .security, .heldEvents, .aux, .rx, .raster, .pipe, .panel, .fstore, .dram, .power] s (execReservedPacket type p s) := by
  unfold execReservedPacket
  repeat' first
    | with_reducible apply Runs.next
    | with_reducible exact Only.refl _
    | with_reducible assumption
    | (extract_lets +onlyGivenNames y
       first
         | (refine Only.have_ y ?_ fun _ => ?_; subst y; rotate_left; clear_value y)
         | clear_value y | skip)
    | ((with_reducible apply Only.step (receive_only ..)); (case hs => decide))
    | split

end Sys2Proof.Machine
end

