-- ==== Sys2Proof/Laws/FramesPanelPower.lean ====
section
/-! SUPPORT. What each definition of Machine/PanelPower.lean changes. -/

set_option Elab.async false

set_option linter.tactic.unusedName false

namespace Sys2Proof.Machine

theorem setSeq_only (q : SeqRun) (s : State) :
    Only [.panel] s (setSeq q s) := by
  unfold setSeq
  repeat' first
    | with_reducible exact Only.refl _
    | with_reducible assumption
    | (extract_lets +onlyGivenNames y
       first
         | (refine Only.have_ y ?_ fun _ => ?_; subst y; rotate_left; clear_value y)
         | (have _z : PanelSt := y; subst y) | clear_value y | skip)
    | with_reducible refine Only.upd_panel ?_

theorem setPanel_only (n : Nat) (s : State) :
    Only [.results, .panel] s (setPanel n s) := by
  unfold setPanel
  repeat' first
    | with_reducible exact Only.refl _
    | with_reducible assumption
    | (extract_lets +onlyGivenNames y
       first
         | (refine Only.have_ y ?_ fun _ => ?_; subst y; rotate_left; clear_value y)
         | (have _z : PanelSt := y; subst y) | clear_value y | skip)
    | ((with_reducible apply Only.step (changeRes_only ..)); (case hs => decide))
    | with_reducible refine Only.upd_panel ?_

theorem setPump_only (n : Nat) (s : State) :
    Only [.results, .panel] s (setPump n s) := by
  unfold setPump
  repeat' first
    | with_reducible exact Only.refl _
    | with_reducible assumption
    | (extract_lets +onlyGivenNames y
       first
         | (refine Only.have_ y ?_ fun _ => ?_; subst y; rotate_left; clear_value y)
         | (have _z : PanelSt := y; subst y) | clear_value y | skip)
    | ((with_reducible apply Only.step (changeRes_only ..)); (case hs => decide))
    | with_reducible refine Only.upd_panel ?_

theorem endScan_only (s : State) :
    Only [.panel] s (endScan s) := by
  unfold endScan
  repeat' first
    | with_reducible exact Only.refl _
    | with_reducible assumption
    | (extract_lets +onlyGivenNames y
       first
         | (refine Only.have_ y ?_ fun _ => ?_; subst y; rotate_left; clear_value y)
         | (have _z : PanelSt := y; subst y) | clear_value y | skip)
    | with_reducible refine Only.upd_panel ?_

theorem discharge_only (s : State) :
    Only [.results, .events, .ports, .storeQueue, .heldEvents, .raster, .panel] s (discharge s).2 := by
  unfold discharge
  repeat' first
    | with_reducible exact Only.refl _
    | with_reducible assumption
    | (extract_lets +onlyGivenNames y
       first
         | (refine Only.have_ y ?_ fun _ => ?_; subst y; rotate_left; clear_value y)
         | (have _z : PanelSt := y; subst y) | (have _z : RasterSt := y; subst y) | clear_value y | skip)
    | ((with_reducible apply Only.step (rowsDisch_only ..)); (case hs => decide))
    | ((with_reducible apply Only.step (raise_only ..)); (case hs => decide))
    | split
    | with_reducible refine Only.upd_raster_panel ?_
    | with_reducible refine Only.upd_panel ?_

theorem beginPmbus_only (address : Nat) (command : Nat) (data : Nat) (word : Bool) (s : State) :
    Only [.panel] s (beginPmbus address command data word s) := by
  unfold beginPmbus
  repeat' first
    | with_reducible exact Only.refl _
    | with_reducible assumption
    | (extract_lets +onlyGivenNames y
       first
         | (refine Only.have_ y ?_ fun _ => ?_; subst y; rotate_left; clear_value y)
         | (have _z : PanelSt := y; subst y) | clear_value y | skip)
    | (with_reducible apply Only.foldl)
    | intro t a ht
    | split
    | with_reducible refine Only.upd_panel ?_

theorem perform_only (q : SeqRun) (s : State) :
    Only [.now, .results, .events, .ports, .storeQueue, .heldEvents, .aux, .rx, .raster, .pipe, .out, .panel, .fstore, .dram, .resil, .power] s (perform q s).2 := by
  unfold perform
  repeat' first
    | with_reducible exact Only.refl _
    | with_reducible assumption
    | (extract_lets +onlyGivenNames y
       first
         | (refine Only.have_ y ?_ fun _ => ?_; subst y; rotate_left; clear_value y)
         | (have _z : PanelSt := y; subst y) | clear_value y | skip)
    | ((with_reducible apply Only.step (beginPmbus_only ..)); (case hs => decide))
    | ((with_reducible apply Only.step (discharge_only ..)); (case hs => decide))
    | ((with_reducible apply Only.step (endScan_only ..)); (case hs => decide))
    | ((with_reducible apply Only.step (setPump_only ..)); (case hs => decide))
    | ((with_reducible apply Only.step (rasterStep_only ..)); (case hs => decide))
    | ((with_reducible apply Only.step (clipRefs_only ..)); (case hs => decide))
    | ((with_reducible apply Only.step (startTraining_only ..)); (case hs => decide))
    | ((with_reducible apply Only.step (rowsFloat_only ..)); (case hs => decide))
    | ((with_reducible apply Only.step (rowsIdle_only ..)); (case hs => decide))
    | ((with_reducible apply Only.step (setResI_only ..)); (case hs => decide))
    | (with_reducible apply Only.foldl)
    | intro t a ht
    | (split <;> refine Only.have_ _ (Only.snd ?_ (by assumption)) fun _ => ?_)
    | split
    | with_reducible refine Only.upd_panel ?_

theorem beginDelay_only (q : SeqRun) (s : State) :
    Only [.panel] s (beginDelay q s) := by
  unfold beginDelay
  repeat' first
    | with_reducible exact Only.refl _
    | with_reducible assumption
    | (extract_lets +onlyGivenNames y
       first
         | (refine Only.have_ y ?_ fun _ => ?_; subst y; rotate_left; clear_value y)
         | (have _z : PanelSt := y; subst y) | clear_value y | skip)
    | ((with_reducible apply Only.step (setSeq_only ..)); (case hs => decide))
    | split
    | with_reducible refine Only.upd_panel ?_

theorem beginPinWait_only (q : SeqRun) (s : State) :
    Only [.panel] s (beginPinWait q s) := by
  unfold beginPinWait
  repeat' first
    | with_reducible exact Only.refl _
    | with_reducible assumption
    | (extract_lets +onlyGivenNames y
       first
         | (refine Only.have_ y ?_ fun _ => ?_; subst y; rotate_left; clear_value y)
         | clear_value y | skip)
    | ((with_reducible apply Only.step (beginDelay_only ..)); (case hs => decide))
    | ((with_reducible apply Only.step (setSeq_only ..)); (case hs => decide))
    | split

theorem beginStep_only (q : SeqRun) (s : State) :
    Only [.now, .results, .events, .ports, .storeQueue, .heldEvents, .aux, .rx, .raster, .pipe, .out, .panel, .fstore, .dram, .resil, .power] s (beginStep q s) := by
  unfold beginStep
  repeat' first
    | with_reducible exact Only.refl _
    | with_reducible assumption
    | (extract_lets +onlyGivenNames y
       first
         | (refine Only.have_ y ?_ fun _ => ?_; subst y; rotate_left; clear_value y)
         | clear_value y | skip)
    | ((with_reducible apply Only.step (beginPinWait_only ..)); (case hs => decide))
    | ((with_reducible apply Only.step (perform_only ..)); (case hs => decide))
    | ((with_reducible apply Only.step (setSeq_only ..)); (case hs => decide))
    | ((with_reducible apply Only.step (raise_only ..)); (case hs => decide))
    | (split <;> refine Only.have_ _ (Only.snd ?_ (by assumption)) fun _ => ?_)
    | split

theorem beginSeq_only (off : Bool) (s : State) :
    Only [.config, .shadow, .results, .events, .ports, .storeQueue, .heldEvents, .link, .aux, .rx, .raster, .pipe, .out, .panel, .fstore, .dram, .sram, .resil, .power] s (beginSeq off s) := by
  unfold beginSeq
  repeat' first
    | with_reducible exact Only.refl _
    | with_reducible assumption
    | (extract_lets +onlyGivenNames y
       first
         | (refine Only.have_ y ?_ fun _ => ?_; subst y; rotate_left; clear_value y)
         | (have _z : PanelSt := y; subst y) | clear_value y | skip)
    | ((with_reducible apply Only.step (setPanel_only ..)); (case hs => decide))
    | ((with_reducible apply Only.step (setSeq_only ..)); (case hs => decide))
    | ((with_reducible apply Only.step (rasterStop_only ..)); (case hs => decide))
    | split
    | with_reducible refine Only.upd_panel ?_

theorem panelFails_only (s : State) :
    Only [.results, .events, .ports, .storeQueue, .heldEvents, .panel, .resil] s (panelFails s) := by
  unfold panelFails
  repeat' first
    | with_reducible exact Only.refl _
    | with_reducible assumption
    | (extract_lets +onlyGivenNames y
       first
         | (refine Only.have_ y ?_ fun _ => ?_; subst y; rotate_left; clear_value y)
         | (have _z : PanelSt := y; subst y) | clear_value y | skip)
    | ((with_reducible apply Only.step (settle_only ..)); (case hs => decide))
    | with_reducible refine Only.upd_panel ?_

theorem onComplete_only (q : SeqRun) (s : State) :
    Only [.results, .events, .ports, .storeQueue, .heldEvents, .panel, .resil] s (onComplete q s) := by
  unfold onComplete
  repeat' first
    | with_reducible exact Only.refl _
    | with_reducible assumption
    | (extract_lets +onlyGivenNames y
       first
         | (refine Only.have_ y ?_ fun _ => ?_; subst y; rotate_left; clear_value y)
         | (have _z : PanelSt := y; subst y) | clear_value y | skip)
    | ((with_reducible apply Only.step (setPanel_only ..)); (case hs => decide))
    | ((with_reducible apply Only.step (settle_only ..)); (case hs => decide))
    | ((with_reducible apply Only.step (unitsUp_only ..)); (case hs => decide))
    | ((with_reducible apply Only.step (raise_only ..)); (case hs => decide))
    | ((with_reducible apply Only.step (incWrap_only ..)); (case hs => decide))
    | ((with_reducible apply Only.step (setRes_only ..)); (case hs => decide))
    | with_reducible refine Only.upd_panel ?_

theorem offComplete_only (q : SeqRun) (s : State) :
    Only [.results, .events, .ports, .storeQueue, .heldEvents, .panel] s (offComplete q s) := by
  unfold offComplete
  repeat' first
    | with_reducible exact Only.refl _
    | with_reducible assumption
    | (extract_lets +onlyGivenNames y
       first
         | (refine Only.have_ y ?_ fun _ => ?_; subst y; rotate_left; clear_value y)
         | (have _z : PanelSt := y; subst y) | clear_value y | skip)
    | ((with_reducible apply Only.step (setPanel_only ..)); (case hs => decide))
    | ((with_reducible apply Only.step (senseUnknown_only ..)); (case hs => decide))
    | ((with_reducible apply Only.step (raise_only ..)); (case hs => decide))
    | split
    | with_reducible refine Only.upd_panel ?_

theorem runSeq_only (n : Nat) (s : State) :
    Only [.now, .config, .shadow, .results, .events, .ports, .storeQueue, .heldEvents, .link, .aux, .rx, .raster, .pipe, .out, .panel, .fstore, .dram, .sram, .resil, .power] s (runSeq n s) := by
  induction n generalizing s with
  | zero => exact Only.refl _
  | succ n ih =>
    unfold runSeq
    split
    · exact Only.refl _
    · split
      · split
        · exact (onComplete_only ..).mono (by decide)
        · extract_lets t
          have ht : Only [.now, .config, .shadow, .results, .events, .ports, .storeQueue, .heldEvents, .link, .aux, .rx, .raster, .pipe, .out, .panel, .fstore, .dram, .sram, .resil, .power] s t := (offComplete_only ..).mono (by decide)
          clear_value t
          split
          · exact Only.trans (Only.step (beginSeq_only ..) (by decide) (Only.upd_panel ht (by decide))) (ih _)
          · exact ht
      · extract_lets t u
        have hu : Only [.now, .config, .shadow, .results, .events, .ports, .storeQueue, .heldEvents, .link, .aux, .rx, .raster, .pipe, .out, .panel, .fstore, .dram, .sram, .resil, .power] s u :=
          Only.step (beginStep_only ..) (by decide) ((changeRes_only ..).mono (by decide))
        clear_value u
        split
        · split
          · split
            · split
              · exact Only.trans (Only.step (beginSeq_only ..) (by decide) hu) (ih _)
              · exact Only.trans (Only.step (setSeq_only ..) (by decide) hu) (ih _)
            · exact hu
          · exact hu
        · exact hu

theorem nextStep_only (s : State) :
    Only [.now, .config, .shadow, .results, .events, .ports, .storeQueue, .heldEvents, .link, .aux, .rx, .raster, .pipe, .out, .panel, .fstore, .dram, .sram, .resil, .power] s (nextStep s) := by
  unfold nextStep
  repeat' first
    | with_reducible exact Only.refl _
    | with_reducible assumption
    | (extract_lets +onlyGivenNames y
       first
         | (refine Only.have_ y ?_ fun _ => ?_; subst y; rotate_left; clear_value y)
         | clear_value y | skip)
    | ((with_reducible apply Only.step (runSeq_only ..)); (case hs => decide))
    | ((with_reducible apply Only.step (beginSeq_only ..)); (case hs => decide))
    | ((with_reducible apply Only.step (setSeq_only ..)); (case hs => decide))
    | split

theorem afterWait_only (s : State) :
    Only [.now, .config, .shadow, .results, .events, .ports, .storeQueue, .heldEvents, .link, .aux, .rx, .raster, .pipe, .out, .panel, .fstore, .dram, .sram, .resil, .power] s (afterWait s) := by
  unfold afterWait
  repeat' first
    | with_reducible exact Only.refl _
    | with_reducible assumption
    | (extract_lets +onlyGivenNames y
       first
         | (refine Only.have_ y ?_ fun _ => ?_; subst y; rotate_left; clear_value y)
         | clear_value y | skip)
    | ((with_reducible apply Only.step (nextStep_only ..)); (case hs => decide))
    | split

theorem actionDone_only (s : State) :
    Only [.now, .config, .shadow, .results, .events, .ports, .storeQueue, .heldEvents, .link, .aux, .rx, .raster, .pipe, .out, .panel, .fstore, .dram, .sram, .resil, .power] s (actionDone s) := by
  unfold actionDone
  repeat' first
    | with_reducible exact Only.refl _
    | with_reducible assumption
    | (extract_lets +onlyGivenNames y
       first
         | (refine Only.have_ y ?_ fun _ => ?_; subst y; rotate_left; clear_value y)
         | clear_value y | skip)
    | ((with_reducible apply Only.step (afterWait_only ..)); (case hs => decide))
    | ((with_reducible apply Only.step (beginPinWait_only ..)); (case hs => decide))
    | split

theorem othamStep_only (s : State) :
    Only [.now, .config, .shadow, .results, .events, .ports, .storeQueue, .heldEvents, .link, .aux, .rx, .raster, .pipe, .out, .panel, .fstore, .dram, .sram, .resil, .power] s (othamStep s) := by
  unfold othamStep
  repeat' first
    | with_reducible exact Only.refl _
    | with_reducible assumption
    | (extract_lets +onlyGivenNames y
       first
         | (refine Only.have_ y ?_ fun _ => ?_; subst y; rotate_left; clear_value y)
         | clear_value y | skip)
    | ((with_reducible apply Only.step (actionDone_only ..)); (case hs => decide))
    | split

theorem stepFails_only (cause : Nat) (s : State) :
    Only [.now, .config, .shadow, .results, .events, .ports, .storeQueue, .heldEvents, .link, .aux, .rx, .raster, .pipe, .out, .panel, .fstore, .dram, .sram, .resil, .power] s (stepFails cause s) := by
  unfold stepFails
  repeat' first
    | with_reducible exact Only.refl _
    | with_reducible assumption
    | (extract_lets +onlyGivenNames y
       first
         | (refine Only.have_ y ?_ fun _ => ?_; subst y; rotate_left; clear_value y)
         | (have _z : PanelSt := y; subst y) | clear_value y | skip)
    | ((with_reducible apply Only.step (afterWait_only ..)); (case hs => decide))
    | ((with_reducible apply Only.step (runSeq_only ..)); (case hs => decide))
    | ((with_reducible apply Only.step (panelFails_only ..)); (case hs => decide))
    | ((with_reducible apply Only.step (beginSeq_only ..)); (case hs => decide))
    | ((with_reducible apply Only.step (beginStep_only ..)); (case hs => decide))
    | ((with_reducible apply Only.step (setSeq_only ..)); (case hs => decide))
    | ((with_reducible apply Only.step (raise_only ..)); (case hs => decide))
    | ((with_reducible apply Only.step (incSat_only ..)); (case hs => decide))
    | split
    | with_reducible refine Only.upd_panel ?_

theorem panelOn_only (s : State) :
    Only [.now, .config, .shadow, .results, .events, .ports, .storeQueue, .heldEvents, .link, .aux, .rx, .raster, .pipe, .out, .panel, .fstore, .dram, .sram, .resil, .power] s (panelOn s) := by
  unfold panelOn
  repeat' first
    | with_reducible exact Only.refl _
    | with_reducible assumption
    | (extract_lets +onlyGivenNames y
       first
         | (refine Only.have_ y ?_ fun _ => ?_; subst y; rotate_left; clear_value y)
         | (have _z : PanelSt := y; subst y) | clear_value y | skip)
    | ((with_reducible apply Only.step (runSeq_only ..)); (case hs => decide))
    | ((with_reducible apply Only.step (beginSeq_only ..)); (case hs => decide))
    | split
    | with_reducible refine Only.upd_panel ?_

theorem panelOff_only (s : State) :
    Only [.now, .config, .shadow, .results, .events, .ports, .storeQueue, .heldEvents, .link, .aux, .rx, .raster, .pipe, .out, .panel, .fstore, .dram, .sram, .resil, .power] s (panelOff s) := by
  unfold panelOff
  repeat' first
    | with_reducible exact Only.refl _
    | with_reducible assumption
    | (extract_lets +onlyGivenNames y
       first
         | (refine Only.have_ y ?_ fun _ => ?_; subst y; rotate_left; clear_value y)
         | (have _z : PanelSt := y; subst y) | clear_value y | skip)
    | ((with_reducible apply Only.step (runSeq_only ..)); (case hs => decide))
    | ((with_reducible apply Only.step (beginSeq_only ..)); (case hs => decide))
    | split
    | with_reducible refine Only.upd_panel ?_

theorem panelEmergency_only (s : State) :
    Only [.config, .shadow, .results, .events, .ports, .storeQueue, .heldEvents, .link, .aux, .rx, .raster, .pipe, .out, .panel, .fstore, .dram, .sram, .resil, .power] s (panelEmergency s) := by
  unfold panelEmergency
  repeat' first
    | with_reducible exact Only.refl _
    | with_reducible assumption
    | (extract_lets +onlyGivenNames y
       first
         | (refine Only.have_ y ?_ fun _ => ?_; subst y; rotate_left; clear_value y)
         | (have _z : PanelSt := y; subst y) | clear_value y | skip)
    | ((with_reducible apply Only.step (endScan_only ..)); (case hs => decide))
    | ((with_reducible apply Only.step (setPanel_only ..)); (case hs => decide))
    | ((with_reducible apply Only.step (rasterStop_only ..)); (case hs => decide))
    | ((with_reducible apply Only.step (othamOff_only ..)); (case hs => decide))
    | ((with_reducible apply Only.step (rowsEmergency_only ..)); (case hs => decide))
    | with_reducible refine Only.upd_panel ?_

theorem panelDown_only (s : State) :
    Only [.results, .events, .ports, .storeQueue, .heldEvents, .out, .panel] s (panelDown s) := by
  unfold panelDown
  repeat' first
    | with_reducible exact Only.refl _
    | with_reducible assumption
    | (extract_lets +onlyGivenNames y
       first
         | (refine Only.have_ y ?_ fun _ => ?_; subst y; rotate_left; clear_value y)
         | (have _z : PanelSt := y; subst y) | clear_value y | skip)
    | ((with_reducible apply Only.step (endScan_only ..)); (case hs => decide))
    | ((with_reducible apply Only.step (setPump_only ..)); (case hs => decide))
    | ((with_reducible apply Only.step (clipRefs_only ..)); (case hs => decide))
    | ((with_reducible apply Only.step (othamOff_only ..)); (case hs => decide))
    | ((with_reducible apply Only.step (rowsFloat_only ..)); (case hs => decide))
    | with_reducible refine Only.upd_panel ?_

end Sys2Proof.Machine
end

