-- ==== Sys2Proof/Laws/FramesSecurity.lean ====
section
/-! SUPPORT. What each definition of Machine/Security.lean changes. -/

set_option Elab.async false

set_option linter.tactic.unusedName false

namespace Sys2Proof.Machine

theorem showCredentials_only (s : State) :
    Only [.results, .security] s (showCredentials s) := by
  unfold showCredentials
  repeat' first
    | with_reducible exact Only.refl _
    | with_reducible assumption
    | (extract_lets +onlyGivenNames y
       first
         | (refine Only.have_ y ?_ fun _ => ?_; subst y; rotate_left; clear_value y)
         | (have _z : SecSt := y; subst y) | clear_value y | skip)
    | ((with_reducible apply Only.step (changeRes_only ..)); (case hs => decide))
    | ((with_reducible apply Only.step (bumpGen_only ..)); (case hs => decide))
    | split
    | with_reducible refine Only.upd_security ?_

theorem startKeyWrite_only (s : State) :
    Only [.storeQueue, .security] s (startKeyWrite s) := by
  unfold startKeyWrite
  repeat' first
    | with_reducible exact Only.refl _
    | with_reducible assumption
    | (extract_lets +onlyGivenNames y
       first
         | (refine Only.have_ y ?_ fun _ => ?_; subst y; rotate_left; clear_value y)
         | (have _z : SecSt := y; subst y) | clear_value y | skip)
    | ((with_reducible apply Only.step (queueProgram_only ..)); (case hs => decide))
    | (with_reducible apply Only.foldl)
    | intro t a ht
    | split
    | with_reducible refine Only.upd_security ?_

theorem keyProgramDone_only (p : Program) (ok : Bool) (s : State) :
    Only [.results, .storeQueue, .security] s (keyProgramDone p ok s).2 := by
  unfold keyProgramDone
  repeat' first
    | with_reducible exact Only.refl _
    | with_reducible assumption
    | (extract_lets +onlyGivenNames y
       first
         | (refine Only.have_ y ?_ fun _ => ?_; subst y; rotate_left; clear_value y)
         | (have _z : PstoreSt := y; subst y) | (have _z : SecSt := y; subst y) | clear_value y | skip)
    | ((with_reducible apply Only.step (startKeyWrite_only ..)); (case hs => decide))
    | ((with_reducible apply Only.step (showCredentials_only ..)); (case hs => decide))
    | ((with_reducible apply Only.step (setRes_only ..)); (case hs => decide))
    | split
    | with_reducible refine Only.upd_storeQueue_security ?_
    | with_reducible refine Only.upd_security ?_

theorem random_only (n : Nat) (s : State) :
    Only [.security, .free] s (random n s).2 := by
  unfold random
  repeat' first
    | with_reducible exact Only.refl _
    | with_reducible assumption
    | (extract_lets +onlyGivenNames y
       first
         | (refine Only.have_ y ?_ fun _ => ?_; subst y; rotate_left; clear_value y)
         | (have _z : SecSt := y; subst y) | clear_value y | skip)
    | ((with_reducible apply Only.step (drawBytes_only ..)); (case hs => decide))
    | (split <;> refine Only.have_ _ (Only.snd ?_ (by assumption)) fun _ => ?_)
    | with_reducible refine Only.upd_security ?_

theorem changeKeys_only (c : KeyChange) (s : State) :
    Only [.storeQueue, .security] s (changeKeys c s) := by
  unfold changeKeys
  repeat' first
    | with_reducible exact Only.refl _
    | with_reducible assumption
    | (extract_lets +onlyGivenNames y
       first
         | (refine Only.have_ y ?_ fun _ => ?_; subst y; rotate_left; clear_value y)
         | (have _z : SecSt := y; subst y) | clear_value y | skip)
    | ((with_reducible apply Only.step (startKeyWrite_only ..)); (case hs => decide))
    | with_reducible refine Only.upd_security ?_

theorem startLockout_only (i : PortId) (s : State) :
    Only [.results, .events, .ports, .storeQueue, .heldEvents] s (startLockout i s) := by
  unfold startLockout
  repeat' first
    | with_reducible exact Only.refl _
    | with_reducible assumption
    | (extract_lets +onlyGivenNames y
       first
         | (refine Only.have_ y ?_ fun _ => ?_; subst y; rotate_left; clear_value y)
         | clear_value y | skip)
    | ((with_reducible apply Only.step (raise_only ..)); (case hs => decide))
    | ((with_reducible apply Only.step (setPort_only ..)); (case hs => decide))
    | ((with_reducible apply Only.step (setResAt_only ..)); (case hs => decide))
    | split

theorem takeCopy_only (b : Bool) (outcome : Nat) (s : State) :
    Only [.results, .events, .ports, .storeQueue, .security, .heldEvents, .free] s (takeCopy b outcome s) := by
  unfold takeCopy
  repeat' first
    | with_reducible exact Only.refl _
    | with_reducible assumption
    | (extract_lets +onlyGivenNames y
       first
         | (refine Only.have_ y ?_ fun _ => ?_; subst y; rotate_left; clear_value y)
         | (have _z : SecSt := y; subst y) | clear_value y | skip)
    | ((with_reducible apply Only.step (startLockout_only ..)); (case hs => decide))
    | ((with_reducible apply Only.step (changeKeys_only ..)); (case hs => decide))
    | ((with_reducible apply Only.step (showCredentials_only ..)); (case hs => decide))
    | ((with_reducible apply Only.step (raise_only ..)); (case hs => decide))
    | ((with_reducible apply Only.step (setPort_only ..)); (case hs => decide))
    | ((with_reducible apply Only.step (setRes_only ..)); (case hs => decide))
    | ((with_reducible apply Only.step (draw_only ..)); (case hs => decide))
    | (with_reducible apply Only.foldl)
    | intro t a ht
    | (split <;> refine Only.have_ _ (Only.snd ?_ (by assumption)) fun _ => ?_)
    | split
    | with_reducible refine Only.upd_security ?_

theorem readKeyStore_only (s : State) :
    Only [.results, .events, .ports, .storeQueue, .security, .heldEvents, .free] s (readKeyStore s) := by
  unfold readKeyStore
  repeat' first
    | with_reducible exact Only.refl _
    | with_reducible assumption
    | (extract_lets +onlyGivenNames y
       first
         | (refine Only.have_ y ?_ fun _ => ?_; subst y; rotate_left; clear_value y)
         | (have _z : SecSt := y; subst y) | clear_value y | skip)
    | ((with_reducible apply Only.step (takeCopy_only ..)); (case hs => decide))
    | ((with_reducible apply Only.step (showCredentials_only ..)); (case hs => decide))
    | ((with_reducible apply Only.step (raise_only ..)); (case hs => decide))
    | ((with_reducible apply Only.step (queueProgram_only ..)); (case hs => decide))
    | (with_reducible apply Only.foldl)
    | intro t a ht
    | split
    | with_reducible refine Only.upd_security ?_

theorem reloadKeys_only (s : State) :
    Only [.results, .security] s (reloadKeys s) := by
  unfold reloadKeys
  repeat' first
    | with_reducible exact Only.refl _
    | with_reducible assumption
    | (extract_lets +onlyGivenNames y
       first
         | (refine Only.have_ y ?_ fun _ => ?_; subst y; rotate_left; clear_value y)
         | (have _z : SecSt := y; subst y) | clear_value y | skip)
    | ((with_reducible apply Only.step (showCredentials_only ..)); (case hs => decide))
    | split
    | with_reducible refine Only.upd_security ?_

theorem credentialFailed_only (i : PortId) (level : Nat) (s : State) :
    Only [.results, .events, .ports, .storeQueue, .security, .heldEvents] s (credentialFailed i level s) := by
  unfold credentialFailed
  repeat' first
    | with_reducible exact Only.refl _
    | with_reducible assumption
    | (extract_lets +onlyGivenNames y
       first
         | (refine Only.have_ y ?_ fun _ => ?_; subst y; rotate_left; clear_value y)
         | clear_value y | skip)
    | ((with_reducible apply Only.step (startLockout_only ..)); (case hs => decide))
    | ((with_reducible apply Only.step (changeKeys_only ..)); (case hs => decide))
    | ((with_reducible apply Only.step (raise_only ..)); (case hs => decide))
    | ((with_reducible apply Only.step (setPort_only ..)); (case hs => decide))
    | split

theorem credentialOk_only (i : PortId) (s : State) :
    Only [.ports, .storeQueue, .security] s (credentialOk i s) := by
  unfold credentialOk
  repeat' first
    | with_reducible exact Only.refl _
    | with_reducible assumption
    | (extract_lets +onlyGivenNames y
       first
         | (refine Only.have_ y ?_ fun _ => ?_; subst y; rotate_left; clear_value y)
         | clear_value y | skip)
    | ((with_reducible apply Only.step (changeKeys_only ..)); (case hs => decide))
    | ((with_reducible apply Only.step (setPort_only ..)); (case hs => decide))
    | split

theorem openEffect_only (i : PortId) (level : Nat) (password : List Nat) (s : State) :
    Only [.results, .events, .ports, .storeQueue, .security, .heldEvents, .free] s (openEffect i level password s).2.2.2 := by
  unfold openEffect
  repeat' first
    | with_reducible exact Only.refl _
    | with_reducible assumption
    | (extract_lets +onlyGivenNames y
       first
         | (refine Only.have_ y ?_ fun _ => ?_; subst y; rotate_left; clear_value y)
         | clear_value y | skip)
    | ((with_reducible apply Only.step (credentialOk_only ..)); (case hs => decide))
    | ((with_reducible apply Only.step (credentialFailed_only ..)); (case hs => decide))
    | ((with_reducible apply Only.step (random_only ..)); (case hs => decide))
    | ((with_reducible apply Only.step (endSession_only ..)); (case hs => decide))
    | ((with_reducible apply Only.step (raise_only ..)); (case hs => decide))
    | ((with_reducible apply Only.step (setPort_only ..)); (case hs => decide))
    | (split <;> refine Only.have_ _ (Only.snd ?_ (by assumption)) fun _ => ?_)
    | split

theorem proveEffect_only (i : PortId) (challenge : List Nat) (level : Nat) (response : List Nat) (s : State) :
    Only [.results, .events, .ports, .storeQueue, .security, .heldEvents] s (proveEffect i challenge level response s).2.2.2 := by
  unfold proveEffect
  repeat' first
    | with_reducible exact Only.refl _
    | with_reducible assumption
    | (extract_lets +onlyGivenNames y
       first
         | (refine Only.have_ y ?_ fun _ => ?_; subst y; rotate_left; clear_value y)
         | clear_value y | skip)
    | ((with_reducible apply Only.step (credentialOk_only ..)); (case hs => decide))
    | ((with_reducible apply Only.step (credentialFailed_only ..)); (case hs => decide))
    | ((with_reducible apply Only.step (raise_only ..)); (case hs => decide))
    | split

theorem tamperTell_only (sources : Nat) (measured : Int) (s : State) :
    Only [.results, .events, .ports, .storeQueue, .tallies, .heldEvents, .aux] s (tamperTell sources measured s) := by
  unfold tamperTell
  repeat' first
    | with_reducible exact Only.refl _
    | with_reducible assumption
    | (extract_lets +onlyGivenNames y
       first
         | (refine Only.have_ y ?_ fun _ => ?_; subst y; rotate_left; clear_value y)
         | clear_value y | skip)
    | ((with_reducible apply Only.step (tellKeysLost_only ..)); (case hs => decide))
    | ((with_reducible apply Only.step (incTally_only ..)); (case hs => decide))
    | ((with_reducible apply Only.step (raise_only ..)); (case hs => decide))

theorem wipeKeys_only (cause : Nat) (s : State) :
    Only [.results, .events, .ports, .storeQueue, .security, .heldEvents, .sramMem, .sram, .resil, .free] s (wipeKeys cause s) := by
  unfold wipeKeys
  repeat' first
    | with_reducible exact Only.refl _
    | with_reducible assumption
    | (extract_lets +onlyGivenNames y
       first
         | (refine Only.have_ y ?_ fun _ => ?_; subst y; rotate_left; clear_value y)
         | (have _z : SecSt := y; subst y) | clear_value y | skip)
    | ((with_reducible apply Only.step (wipeSecure_only ..)); (case hs => decide))
    | with_reducible refine Only.upd_security ?_

theorem tamperLater_only (bit : Nat) (measured : Int) (s : State) :
    Only [.security] s (tamperLater bit measured s) := by
  unfold tamperLater
  repeat' first
    | with_reducible exact Only.refl _
    | with_reducible assumption
    | (extract_lets +onlyGivenNames y
       first
         | (refine Only.have_ y ?_ fun _ => ?_; subst y; rotate_left; clear_value y)
         | (have _z : SecSt := y; subst y) | clear_value y | skip)
    | with_reducible refine Only.upd_security ?_

theorem tamperEvent_only (source : Nat) (measured : Int) (s : State) :
    Only [.results, .events, .ports, .storeQueue, .tallies, .security, .heldEvents, .aux, .fstore, .sramMem, .sram, .resil, .free] s (tamperEvent source measured s) := by
  unfold tamperEvent
  repeat' first
    | with_reducible exact Only.refl _
    | with_reducible assumption
    | (extract_lets +onlyGivenNames y
       first
         | (refine Only.have_ y ?_ fun _ => ?_; subst y; rotate_left; clear_value y)
         | (have _z : SecSt := y; subst y) | clear_value y | skip)
    | ((with_reducible apply Only.step (tamperLater_only ..)); (case hs => decide))
    | ((with_reducible apply Only.step (wipeKeys_only ..)); (case hs => decide))
    | ((with_reducible apply Only.step (tamperTell_only ..)); (case hs => decide))
    | ((with_reducible apply Only.step (dropKeys_only ..)); (case hs => decide))
    | ((with_reducible apply Only.step (drawFrameKey_only ..)); (case hs => decide))
    | ((with_reducible apply Only.step (endSessions_only ..)); (case hs => decide))
    | ((with_reducible apply Only.step (setRes_only ..)); (case hs => decide))
    | split
    | with_reducible refine Only.upd_security ?_

theorem tamperLate_only (s : State) :
    Only [.results, .events, .ports, .storeQueue, .tallies, .security, .heldEvents, .aux] s (tamperLate s) := by
  unfold tamperLate
  repeat' first
    | with_reducible exact Only.refl _
    | with_reducible assumption
    | (extract_lets +onlyGivenNames y
       first
         | (refine Only.have_ y ?_ fun _ => ?_; subst y; rotate_left; clear_value y)
         | (have _z : SecSt := y; subst y) | clear_value y | skip)
    | ((with_reducible apply Only.step (tamperTell_only ..)); (case hs => decide))
    | split
    | with_reducible refine Only.upd_security ?_

theorem cpAnswer_only {ps : List Part} {act : List Nat → State → List Nat × State} (f : AuxFrame) (s : State)
    (hs : [.results, .link, .aux].all (ps.contains ·) = true) (hf : ∀ p t, Only ps t (act p t).2) :
    Only ps s (cpAnswer act f s) := by
  unfold cpAnswer
  split
  · exact Only.refl _
  · exact auxRequest_only f s hs fun t => hf f.payload t

theorem exchangeFails_only (set : Nat) (cause : Nat) (s : State) :
    Only [.results, .events, .ports, .storeQueue, .heldEvents] s (exchangeFails set cause s) := by
  unfold exchangeFails
  repeat' first
    | with_reducible exact Only.refl _
    | with_reducible assumption
    | (extract_lets +onlyGivenNames y
       first
         | (refine Only.have_ y ?_ fun _ => ?_; subst y; rotate_left; clear_value y)
         | clear_value y | skip)
    | ((with_reducible apply Only.step (raise_only ..)); (case hs => decide))
    | ((with_reducible apply Only.step (incSat_only ..)); (case hs => decide))

theorem cpError_only (set : Nat) (cause : Nat) (s : State) :
    Only [.results, .events, .ports, .storeQueue, .heldEvents] s (cpError set cause s).2 := by
  unfold cpError
  repeat' first
    | with_reducible exact Only.refl _
    | with_reducible assumption
    | (extract_lets +onlyGivenNames y
       first
         | (refine Only.have_ y ?_ fun _ => ?_; subst y; rotate_left; clear_value y)
         | clear_value y | skip)
    | ((with_reducible apply Only.step (exchangeFails_only ..)); (case hs => decide))

theorem takeHello_only (version : Nat) (k : Nat) (ns : List Nat) (qs : List Nat) (s : State) :
    Only [.results, .events, .ports, .storeQueue, .security, .heldEvents, .free] s (takeHello version k ns qs s).2 := by
  unfold takeHello
  repeat' first
    | with_reducible exact Only.refl _
    | with_reducible assumption
    | (extract_lets +onlyGivenNames y
       first
         | (refine Only.have_ y ?_ fun _ => ?_; subst y; rotate_left; clear_value y)
         | (have _z : SecSt := y; subst y) | clear_value y | skip)
    | ((with_reducible apply Only.step (cpError_only ..)); (case hs => decide))
    | ((with_reducible apply Only.step (random_only ..)); (case hs => decide))
    | (split <;> refine Only.have_ _ (Only.snd ?_ (by assumption)) fun _ => ?_)
    | split
    | with_reducible refine Only.upd_security ?_

theorem takeConfirm_only (k : Nat) (mac : List Nat) (s : State) :
    Only [.results, .events, .ports, .storeQueue, .security, .heldEvents] s (takeConfirm k mac s).2 := by
  unfold takeConfirm
  repeat' first
    | with_reducible exact Only.refl _
    | with_reducible assumption
    | (extract_lets +onlyGivenNames y
       first
         | (refine Only.have_ y ?_ fun _ => ?_; subst y; rotate_left; clear_value y)
         | (have _z : SecSt := y; subst y) | clear_value y | skip)
    | ((with_reducible apply Only.step (cpError_only ..)); (case hs => decide))
    | ((with_reducible apply Only.step (raise_only ..)); (case hs => decide))
    | ((with_reducible apply Only.step (incWrap_only ..)); (case hs => decide))
    | ((with_reducible apply Only.step (setRes_only ..)); (case hs => decide))
    | (split <;> refine Only.have_ _ (Only.snd ?_ (by assumption)) fun _ => ?_)
    | split
    | with_reducible refine Only.upd_security ?_

theorem cpMessage_only (m : List Nat) (s : State) :
    Only [.results, .events, .ports, .storeQueue, .security, .heldEvents, .free] s (cpMessage m s).2 := by
  unfold cpMessage
  repeat' first
    | with_reducible exact Only.refl _
    | with_reducible assumption
    | (extract_lets +onlyGivenNames y
       first
         | (refine Only.have_ y ?_ fun _ => ?_; subst y; rotate_left; clear_value y)
         | clear_value y | skip)
    | ((with_reducible apply Only.step (takeConfirm_only ..)); (case hs => decide))
    | ((with_reducible apply Only.step (takeHello_only ..)); (case hs => decide))
    | ((with_reducible apply Only.step (dropKeys_only ..)); (case hs => decide))
    | (split <;> refine Only.have_ _ (Only.snd ?_ (by assumption)) fun _ => ?_)
    | split

theorem blowLifecycle_only (target : Nat) (s : State) :
    Only [.results, .events, .ports, .storeQueue, .tallies, .fuses, .heldEvents] s (blowLifecycle target s) := by
  unfold blowLifecycle
  repeat' first
    | with_reducible exact Only.refl _
    | with_reducible assumption
    | (extract_lets +onlyGivenNames y
       first
         | (refine Only.have_ y ?_ fun _ => ?_; subst y; rotate_left; clear_value y)
         | (have _z : SecSt := y; subst y) | clear_value y | skip)
    | ((with_reducible apply Only.step (incTally_only ..)); (case hs => decide))
    | ((with_reducible apply Only.step (changeRes_only ..)); (case hs => decide))
    | ((with_reducible apply Only.step (setRes_only ..)); (case hs => decide))
    | split
    | with_reducible refine Only.upd_fuses ?_

theorem enterLifecycle_only (target : Nat) (s : State) :
    Only [.results, .events, .ports, .storeQueue, .security, .heldEvents, .aux, .fstore, .sramMem, .sram, .resil, .free] s (enterLifecycle target s) := by
  unfold enterLifecycle
  repeat' first
    | with_reducible exact Only.refl _
    | with_reducible assumption
    | (extract_lets +onlyGivenNames y
       first
         | (refine Only.have_ y ?_ fun _ => ?_; subst y; rotate_left; clear_value y)
         | clear_value y | skip)
    | ((with_reducible apply Only.step (wipeKeys_only ..)); (case hs => decide))
    | ((with_reducible apply Only.step (changeKeys_only ..)); (case hs => decide))
    | ((with_reducible apply Only.step (tellKeysLost_only ..)); (case hs => decide))
    | ((with_reducible apply Only.step (dropKeys_only ..)); (case hs => decide))
    | ((with_reducible apply Only.step (drawFrameKey_only ..)); (case hs => decide))
    | ((with_reducible apply Only.step (endSessions_only ..)); (case hs => decide))
    | split

theorem execChallengeExpiry_only (i : PortId) (s : State) :
    Runs [.now, .ports] s (execChallengeExpiry i s) := by
  unfold execChallengeExpiry
  repeat' first
    | with_reducible apply Runs.next
    | with_reducible exact Only.refl _
    | with_reducible assumption
    | (extract_lets +onlyGivenNames y
       first
         | (refine Only.have_ y ?_ fun _ => ?_; subst y; rotate_left; clear_value y)
         | clear_value y | skip)
    | ((with_reducible apply Only.step (setPort_only ..)); (case hs => decide))
    | ((with_reducible apply Only.step (advanceTo_only ..)); (case hs => decide))
    | split

theorem execLockoutSecond_only (i : PortId) (s : State) :
    Runs [.now, .results] s (execLockoutSecond i s) := by
  unfold execLockoutSecond
  repeat' first
    | with_reducible apply Runs.next
    | with_reducible exact Only.refl _
    | with_reducible assumption
    | (extract_lets +onlyGivenNames y
       first
         | (refine Only.have_ y ?_ fun _ => ?_; subst y; rotate_left; clear_value y)
         | clear_value y | skip)
    | ((with_reducible apply Only.step (setResAt_only ..)); (case hs => decide))
    | ((with_reducible apply Only.step (advanceTo_only ..)); (case hs => decide))
    | split

theorem execTamper_only (source : Nat) (measured : Int) (s : State) :
    Runs [.results, .events, .ports, .storeQueue, .tallies, .security, .heldEvents, .aux, .fstore, .sramMem, .sram, .resil, .free] s (execTamper source measured s) := by
  unfold execTamper
  repeat' first
    | with_reducible apply Runs.next
    | with_reducible exact Only.refl _
    | with_reducible assumption
    | (extract_lets +onlyGivenNames y
       first
         | (refine Only.have_ y ?_ fun _ => ?_; subst y; rotate_left; clear_value y)
         | clear_value y | skip)
    | ((with_reducible apply Only.step (tamperEvent_only ..)); (case hs => decide))
    | split

theorem execTamperClear_only (s : State) :
    Runs [.now, .results, .events, .ports, .storeQueue, .security, .heldEvents] s (execTamperClear s) := by
  unfold execTamperClear
  repeat' first
    | with_reducible apply Runs.next
    | with_reducible exact Only.refl _
    | with_reducible assumption
    | (extract_lets +onlyGivenNames y
       first
         | (refine Only.have_ y ?_ fun _ => ?_; subst y; rotate_left; clear_value y)
         | (have _z : SecSt := y; subst y) | clear_value y | skip)
    | ((with_reducible apply Only.step (reloadKeys_only ..)); (case hs => decide))
    | ((with_reducible apply Only.step (raise_only ..)); (case hs => decide))
    | ((with_reducible apply Only.step (changeRes_only ..)); (case hs => decide))
    | ((with_reducible apply Only.step (advanceTo_only ..)); (case hs => decide))
    | split
    | with_reducible refine Only.upd_security ?_

theorem execEntropyFailure_only (test : Nat) (s : State) :
    Runs [.results, .events, .ports, .storeQueue, .security, .heldEvents, .resil] s (execEntropyFailure test s) := by
  unfold execEntropyFailure
  repeat' first
    | with_reducible apply Runs.next
    | with_reducible exact Only.refl _
    | with_reducible assumption
    | (extract_lets +onlyGivenNames y
       first
         | (refine Only.have_ y ?_ fun _ => ?_; subst y; rotate_left; clear_value y)
         | (have _z : SecSt := y; subst y) | clear_value y | skip)
    | ((with_reducible apply Only.step (settle_only ..)); (case hs => decide))
    | ((with_reducible apply Only.step (raise_only ..)); (case hs => decide))
    | with_reducible refine Only.upd_security ?_

theorem execTestPortInstruction_only (i : TestInstr) (s : State) :
    Runs [.results, .events, .ports, .storeQueue, .tallies, .security, .heldEvents, .aux, .fstore, .sramMem, .sram, .resil, .free] s (execTestPortInstruction i s) := by
  unfold execTestPortInstruction
  repeat' first
    | with_reducible apply Runs.next
    | with_reducible exact Only.refl _
    | with_reducible assumption
    | (extract_lets +onlyGivenNames y
       first
         | (refine Only.have_ y ?_ fun _ => ?_; subst y; rotate_left; clear_value y)
         | (have _z : SecSt := y; subst y) | clear_value y | skip)
    | ((with_reducible apply Only.step (tamperEvent_only ..)); (case hs => decide))
    | split
    | with_reducible refine Only.upd_security ?_

theorem execTestPortChallenge_only (response : List Nat) (s : State) :
    Runs [.security, .free] s (execTestPortChallenge response s) := by
  unfold execTestPortChallenge
  repeat' first
    | with_reducible apply Runs.next
    | with_reducible exact Only.refl _
    | with_reducible assumption
    | (extract_lets +onlyGivenNames y
       first
         | (refine Only.have_ y ?_ fun _ => ?_; subst y; rotate_left; clear_value y)
         | (have _z : SecSt := y; subst y) | clear_value y | skip)
    | ((with_reducible apply Only.step (random_only ..)); (case hs => decide))
    | (split <;> refine Only.have_ _ (Only.snd ?_ (by assumption)) fun _ => ?_)
    | split
    | with_reducible refine Only.upd_security ?_

theorem execAttestationDone_only (s : State) :
    Runs [.results, .events, .ports, .storeQueue, .security, .heldEvents, .free] s (execAttestationDone s) := by
  unfold execAttestationDone
  repeat' first
    | with_reducible apply Runs.next
    | with_reducible exact Only.refl _
    | with_reducible assumption
    | (extract_lets +onlyGivenNames y
       first
         | (refine Only.have_ y ?_ fun _ => ?_; subst y; rotate_left; clear_value y)
         | (have _z : SecSt := y; subst y) | clear_value y | skip)
    | ((with_reducible apply Only.step (random_only ..)); (case hs => decide))
    | ((with_reducible apply Only.step (raise_only ..)); (case hs => decide))
    | ((with_reducible apply Only.step (setResList_only ..)); (case hs => decide))
    | (split <;> refine Only.have_ _ (Only.snd ?_ (by assumption)) fun _ => ?_)
    | split
    | with_reducible refine Only.upd_security ?_

theorem execCpHello_only (f : AuxFrame) (s : State) :
    Runs [.results, .events, .ports, .storeQueue, .security, .heldEvents, .link, .aux, .free] s (execCpHello f s) := by
  unfold execCpHello
  repeat' first
    | with_reducible apply Runs.next
    | with_reducible exact Only.refl _
    | with_reducible assumption
    | (extract_lets +onlyGivenNames y
       first
         | (refine Only.have_ y ?_ fun _ => ?_; subst y; rotate_left; clear_value y)
         | clear_value y | skip)
    | ((with_reducible apply Only.step (cpMessage_only ..)); (case hs => decide))
    | (refine cpAnswer_only _ _ (by decide) (fun _p _t => ?_); try dsimp only)
    | (split <;> refine Only.have_ _ (Only.snd ?_ (by assumption)) fun _ => ?_)

theorem execCpConfirm_only (f : AuxFrame) (s : State) :
    Runs [.results, .events, .ports, .storeQueue, .security, .heldEvents, .link, .aux, .free] s (execCpConfirm f s) := by
  unfold execCpConfirm
  repeat' first
    | with_reducible apply Runs.next
    | with_reducible exact Only.refl _
    | with_reducible assumption
    | (extract_lets +onlyGivenNames y
       first
         | (refine Only.have_ y ?_ fun _ => ?_; subst y; rotate_left; clear_value y)
         | clear_value y | skip)
    | ((with_reducible apply Only.step (cpMessage_only ..)); (case hs => decide))
    | (refine cpAnswer_only _ _ (by decide) (fun _p _t => ?_); try dsimp only)
    | (split <;> refine Only.have_ _ (Only.snd ?_ (by assumption)) fun _ => ?_)

theorem execCpConfirmTimeout_only (s : State) :
    Runs [.now, .results, .events, .ports, .storeQueue, .security, .heldEvents] s (execCpConfirmTimeout s) := by
  unfold execCpConfirmTimeout
  repeat' first
    | with_reducible apply Runs.next
    | with_reducible exact Only.refl _
    | with_reducible assumption
    | (extract_lets +onlyGivenNames y
       first
         | (refine Only.have_ y ?_ fun _ => ?_; subst y; rotate_left; clear_value y)
         | (have _z : SecSt := y; subst y) | clear_value y | skip)
    | ((with_reducible apply Only.step (exchangeFails_only ..)); (case hs => decide))
    | ((with_reducible apply Only.step (advanceTo_only ..)); (case hs => decide))
    | split
    | with_reducible refine Only.upd_security ?_

theorem execCpDrop_only (f : AuxFrame) (s : State) :
    Runs [.results, .events, .ports, .storeQueue, .security, .heldEvents, .link, .aux, .free] s (execCpDrop f s) := by
  unfold execCpDrop
  repeat' first
    | with_reducible apply Runs.next
    | with_reducible exact Only.refl _
    | with_reducible assumption
    | (extract_lets +onlyGivenNames y
       first
         | (refine Only.have_ y ?_ fun _ => ?_; subst y; rotate_left; clear_value y)
         | clear_value y | skip)
    | ((with_reducible apply Only.step (cpMessage_only ..)); (case hs => decide))
    | (refine cpAnswer_only _ _ (by decide) (fun _p _t => ?_); try dsimp only)
    | (split <;> refine Only.have_ _ (Only.snd ?_ (by assumption)) fun _ => ?_)

end Sys2Proof.Machine
end

