-- ==== Sys2Proof/Laws/FramesFirmware.lean ====
section
/-! SUPPORT. What each definition of Machine/Firmware.lean changes. -/

set_option Elab.async false

set_option linter.tactic.unusedName false

namespace Sys2Proof.Machine

theorem setFwSlot_only (b : Bool) (x : FwSlot) (s : State) :
    Only [.slots] s (setFwSlot b x s) := by
  unfold setFwSlot
  repeat' first
    | with_reducible exact Only.refl _
    | with_reducible assumption
    | (extract_lets +onlyGivenNames y
       first
         | (refine Only.have_ y ?_ fun _ => ?_; subst y; rotate_left; clear_value y)
         | (have _z : StagSt := y; subst y) | clear_value y | skip)
    | split
    | with_reducible refine Only.upd_slots ?_

theorem changeAt_only (h : Nat) (p : Nat) (i : Nat) (v : Nat) (s : State) :
    Only [.results] s (changeAt h p i v s) := by
  unfold changeAt
  repeat' first
    | with_reducible exact Only.refl _
    | with_reducible assumption
    | (extract_lets +onlyGivenNames y
       first
         | (refine Only.have_ y ?_ fun _ => ?_; subst y; rotate_left; clear_value y)
         | clear_value y | skip)
    | ((with_reducible apply Only.step (setResAt_only ..)); (case hs => decide))
    | split

theorem showFirmware_only (s : State) :
    Only [.results] s (showFirmware s) := by
  unfold showFirmware
  repeat' first
    | with_reducible exact Only.refl _
    | with_reducible assumption
    | (extract_lets +onlyGivenNames y
       first
         | (refine Only.have_ y ?_ fun _ => ?_; subst y; rotate_left; clear_value y)
         | clear_value y | skip)
    | ((with_reducible apply Only.step (changeAt_only ..)); (case hs => decide))
    | ((with_reducible apply Only.step (changeRes_only ..)); (case hs => decide))
    | (with_reducible apply Only.foldl)
    | intro t a ht
    | split

theorem loadBody_only (x : FwSlot) (s : State) :
    Only [.results, .sramMem, .sram] s (loadBody x s) := by
  unfold loadBody
  repeat' first
    | with_reducible exact Only.refl _
    | with_reducible assumption
    | (extract_lets +onlyGivenNames y
       first
         | (refine Only.have_ y ?_ fun _ => ?_; subst y; rotate_left; clear_value y)
         | (have _z : SramSt := y; subst y) | clear_value y | skip)
    | ((with_reducible apply Only.step (changeRes_only ..)); (case hs => decide))
    | with_reducible refine Only.upd_sramMem_sram ?_

theorem startImage_only (b : Bool) (s : State) :
    Only [.results, .events, .ports, .storeQueue, .heldEvents, .stag, .slots, .sramMem, .sram] s (startImage b s) := by
  unfold startImage
  repeat' first
    | with_reducible exact Only.refl _
    | with_reducible assumption
    | (extract_lets +onlyGivenNames y
       first
         | (refine Only.have_ y ?_ fun _ => ?_; subst y; rotate_left; clear_value y)
         | (have _z : StagSt := y; subst y) | clear_value y | skip)
    | ((with_reducible apply Only.step (loadBody_only ..)); (case hs => decide))
    | ((with_reducible apply Only.step (showFirmware_only ..)); (case hs => decide))
    | ((with_reducible apply Only.step (setFwSlot_only ..)); (case hs => decide))
    | ((with_reducible apply Only.step (raise_only ..)); (case hs => decide))
    | ((with_reducible apply Only.step (changeRes_only ..)); (case hs => decide))
    | split
    | with_reducible refine Only.upd_stag ?_

theorem enterRecovery_only (s : State) :
    Only [.results, .events, .ports, .storeQueue, .heldEvents, .stag, .resil] s (enterRecovery s) := by
  unfold enterRecovery
  repeat' first
    | with_reducible exact Only.refl _
    | with_reducible assumption
    | (extract_lets +onlyGivenNames y
       first
         | (refine Only.have_ y ?_ fun _ => ?_; subst y; rotate_left; clear_value y)
         | (have _z : StagSt := y; subst y) | clear_value y | skip)
    | ((with_reducible apply Only.step (showFirmware_only ..)); (case hs => decide))
    | ((with_reducible apply Only.step (settle_only ..)); (case hs => decide))
    | ((with_reducible apply Only.step (raise_only ..)); (case hs => decide))
    | ((with_reducible apply Only.step (changeRes_only ..)); (case hs => decide))
    | with_reducible refine Only.upd_stag ?_

theorem bootFirmware_only (s : State) :
    Only [.results, .events, .ports, .storeQueue, .heldEvents, .stag, .slots, .sramMem, .sram, .resil] s (bootFirmware s) := by
  unfold bootFirmware
  repeat' first
    | with_reducible exact Only.refl _
    | with_reducible assumption
    | (extract_lets +onlyGivenNames y
       first
         | (refine Only.have_ y ?_ fun _ => ?_; subst y; rotate_left; clear_value y)
         | clear_value y | skip)
    | ((with_reducible apply Only.step (enterRecovery_only ..)); (case hs => decide))
    | ((with_reducible apply Only.step (startImage_only ..)); (case hs => decide))
    | split

theorem setUpdate_only (n : Nat) (s : State) :
    Only [.results] s (setUpdate n s) := by
  unfold setUpdate
  repeat' first
    | with_reducible exact Only.refl _
    | with_reducible assumption
    | (extract_lets +onlyGivenNames y
       first
         | (refine Only.have_ y ?_ fun _ => ?_; subst y; rotate_left; clear_value y)
         | clear_value y | skip)
    | ((with_reducible apply Only.step (changeRes_only ..)); (case hs => decide))

theorem beginImage_only (n : Nat) (s : State) :
    Only [.results, .image] s (beginImage n s) := by
  unfold beginImage
  repeat' first
    | with_reducible exact Only.refl _
    | with_reducible assumption
    | (extract_lets +onlyGivenNames y
       first
         | (refine Only.have_ y ?_ fun _ => ?_; subst y; rotate_left; clear_value y)
         | (have _z : StagSt := y; subst y) | clear_value y | skip)
    | ((with_reducible apply Only.step (setUpdate_only ..)); (case hs => decide))
    | ((with_reducible apply Only.step (changeRes_only ..)); (case hs => decide))
    | with_reducible refine Only.upd_image ?_

theorem placeImage_only (off : Nat) (bs : List Nat) (s : State) :
    Only [.results, .image] s (placeImage off bs s) := by
  unfold placeImage
  repeat' first
    | with_reducible exact Only.refl _
    | with_reducible assumption
    | (extract_lets +onlyGivenNames y
       first
         | (refine Only.have_ y ?_ fun _ => ?_; subst y; rotate_left; clear_value y)
         | (have _z : StagSt := y; subst y) | clear_value y | skip)
    | ((with_reducible apply Only.step (countClamp_only ..)); (case hs => decide))
    | split
    | with_reducible refine Only.upd_image ?_

theorem imageVerified_only (s : State) :
    Only [.results, .events, .ports, .storeQueue, .heldEvents] s (imageVerified s) := by
  unfold imageVerified
  repeat' first
    | with_reducible exact Only.refl _
    | with_reducible assumption
    | (extract_lets +onlyGivenNames y
       first
         | (refine Only.have_ y ?_ fun _ => ?_; subst y; rotate_left; clear_value y)
         | clear_value y | skip)
    | ((with_reducible apply Only.step (setUpdate_only ..)); (case hs => decide))
    | ((with_reducible apply Only.step (raise_only ..)); (case hs => decide))
    | ((with_reducible apply Only.step (changeRes_only ..)); (case hs => decide))
    | ((with_reducible apply Only.step (setRes_only ..)); (case hs => decide))
    | split

theorem beginActivation_only (mode : Nat) (s : State) :
    Only [.results, .slots] s (beginActivation mode s) := by
  unfold beginActivation
  repeat' first
    | with_reducible exact Only.refl _
    | with_reducible assumption
    | (extract_lets +onlyGivenNames y
       first
         | (refine Only.have_ y ?_ fun _ => ?_; subst y; rotate_left; clear_value y)
         | (have _z : StagSt := y; subst y) | clear_value y | skip)
    | ((with_reducible apply Only.step (setUpdate_only ..)); (case hs => decide))
    | ((with_reducible apply Only.step (setRes_only ..)); (case hs => decide))
    | split
    | with_reducible refine Only.upd_slots ?_

theorem disturbSlot_only (a : Activation) (s : State) :
    Only [.results, .slots, .free] s (disturbSlot a s) := by
  unfold disturbSlot
  repeat' first
    | with_reducible exact Only.refl _
    | with_reducible assumption
    | (extract_lets +onlyGivenNames y
       first
         | (refine Only.have_ y ?_ fun _ => ?_; subst y; rotate_left; clear_value y)
         | clear_value y | skip)
    | ((with_reducible apply Only.step (showFirmware_only ..)); (case hs => decide))
    | ((with_reducible apply Only.step (setFwSlot_only ..)); (case hs => decide))
    | ((with_reducible apply Only.step (draw_only ..)); (case hs => decide))
    | (split <;> refine Only.have_ _ (Only.snd ?_ (by assumption)) fun _ => ?_)
    | split

theorem nextActivation_only (a : Activation) (s : State) :
    Only [.results, .slots] s (nextActivation a s) := by
  unfold nextActivation
  repeat' first
    | with_reducible exact Only.refl _
    | with_reducible assumption
    | (extract_lets +onlyGivenNames y
       first
         | (refine Only.have_ y ?_ fun _ => ?_; subst y; rotate_left; clear_value y)
         | (have _z : StagSt := y; subst y) | clear_value y | skip)
    | ((with_reducible apply Only.step (showFirmware_only ..)); (case hs => decide))
    | with_reducible refine Only.upd_slots ?_

theorem flashDone_only (ok : Bool) (s : State) :
    Only [.results, .events, .ports, .storeQueue, .heldEvents, .slots, .free] s (flashDone ok s) := by
  unfold flashDone
  repeat' first
    | with_reducible exact Only.refl _
    | with_reducible assumption
    | (extract_lets +onlyGivenNames y
       first
         | (refine Only.have_ y ?_ fun _ => ?_; subst y; rotate_left; clear_value y)
         | (have _z : StagSt := y; subst y) | clear_value y | skip)
    | ((with_reducible apply Only.step (nextActivation_only ..)); (case hs => decide))
    | ((with_reducible apply Only.step (disturbSlot_only ..)); (case hs => decide))
    | ((with_reducible apply Only.step (setUpdate_only ..)); (case hs => decide))
    | ((with_reducible apply Only.step (showFirmware_only ..)); (case hs => decide))
    | ((with_reducible apply Only.step (setFwSlot_only ..)); (case hs => decide))
    | ((with_reducible apply Only.step (raise_only ..)); (case hs => decide))
    | ((with_reducible apply Only.step (setRes_only ..)); (case hs => decide))
    | split
    | with_reducible refine Only.upd_slots ?_

theorem confirmImage_only (s : State) :
    Only [.results, .events, .ports, .storeQueue, .tallies, .heldEvents, .stag, .slots] s (confirmImage s) := by
  unfold confirmImage
  repeat' first
    | with_reducible exact Only.refl _
    | with_reducible assumption
    | (extract_lets +onlyGivenNames y
       first
         | (refine Only.have_ y ?_ fun _ => ?_; subst y; rotate_left; clear_value y)
         | (have _z : StagSt := y; subst y) | clear_value y | skip)
    | ((with_reducible apply Only.step (showFirmware_only ..)); (case hs => decide))
    | ((with_reducible apply Only.step (setFwSlot_only ..)); (case hs => decide))
    | ((with_reducible apply Only.step (incTally_only ..)); (case hs => decide))
    | ((with_reducible apply Only.step (raise_only ..)); (case hs => decide))
    | ((with_reducible apply Only.step (setRes_only ..)); (case hs => decide))
    | (with_reducible apply Only.foldl)
    | intro t a ht
    | split
    | with_reducible refine Only.upd_stag ?_

theorem restartStag_only (cause : Nat) (s : State) :
    Only [.results, .events, .ports, .storeQueue, .heldEvents, .stag, .resil] s (restartStag cause s) := by
  unfold restartStag
  repeat' first
    | with_reducible exact Only.refl _
    | with_reducible assumption
    | (extract_lets +onlyGivenNames y
       first
         | (refine Only.have_ y ?_ fun _ => ?_; subst y; rotate_left; clear_value y)
         | (have _z : StagSt := y; subst y) | clear_value y | skip)
    | ((with_reducible apply Only.step (settle_only ..)); (case hs => decide))
    | ((with_reducible apply Only.step (incSat_only ..)); (case hs => decide))
    | split
    | with_reducible refine Only.upd_heldEvents_stag ?_
    | with_reducible refine Only.upd_stag ?_

theorem rebootImage_only (cause : Nat) (s : State) :
    Only [.results, .events, .ports, .storeQueue, .heldEvents, .stag, .slots, .sramMem, .sram, .resil] s (rebootImage cause s) := by
  unfold rebootImage
  repeat' first
    | with_reducible exact Only.refl _
    | with_reducible assumption
    | (extract_lets +onlyGivenNames y
       first
         | (refine Only.have_ y ?_ fun _ => ?_; subst y; rotate_left; clear_value y)
         | clear_value y | skip)
    | ((with_reducible apply Only.step (bootFirmware_only ..)); (case hs => decide))
    | ((with_reducible apply Only.step (enterRecovery_only ..)); (case hs => decide))
    | ((with_reducible apply Only.step (startImage_only ..)); (case hs => decide))
    | ((with_reducible apply Only.step (raise_only ..)); (case hs => decide))
    | split

theorem stagRestarted_only (s : State) :
    Only [.now, .results, .events, .ports, .storeQueue, .heldEvents, .stag, .slots, .sramMem, .sram, .resil, .free] s (stagRestarted s) := by
  unfold stagRestarted
  repeat' first
    | with_reducible exact Only.refl _
    | with_reducible assumption
    | (extract_lets +onlyGivenNames y
       first
         | (refine Only.have_ y ?_ fun _ => ?_; subst y; rotate_left; clear_value y)
         | (have _z : StagSt := y; subst y) | clear_value y | skip)
    | ((with_reducible apply Only.step (rebootImage_only ..)); (case hs => decide))
    | ((with_reducible apply Only.step (settle_only ..)); (case hs => decide))
    | ((with_reducible apply Only.step (flushEvents_only ..)); (case hs => decide))
    | ((with_reducible apply Only.step (raise_only ..)); (case hs => decide))
    | ((with_reducible apply Only.step (setRes_only ..)); (case hs => decide))
    | ((with_reducible apply Only.step (draw_only ..)); (case hs => decide))
    | ((with_reducible apply Only.step (advanceTo_only ..)); (case hs => decide))
    | (split <;> refine Only.have_ _ (Only.snd ?_ (by assumption)) fun _ => ?_)
    | split
    | with_reducible refine Only.upd_heldEvents_stag ?_

end Sys2Proof.Machine
end

