-- ==== Sys2Proof/Laws/FramesPower.lean ====
section
/-! SUPPORT. What each definition of Machine/Power.lean changes. -/

set_option Elab.async false

set_option linter.tactic.unusedName false

namespace Sys2Proof.Machine

theorem showCredits_only (i : PortId) (s : State) :
    Only [.results] s (showCredits i s) := by
  unfold showCredits
  repeat' first
    | with_reducible exact Only.refl _
    | with_reducible assumption
    | (extract_lets +onlyGivenNames y
       first
         | (refine Only.have_ y ?_ fun _ => ?_; subst y; rotate_left; clear_value y)
         | clear_value y | skip)
    | ((with_reducible apply Only.step (changeRes_only ..)); (case hs => decide))

theorem announceCredits_only (i : PortId) (s : State) :
    Only [.results, .ports, .can, .aux] s (announceCredits i s) := by
  unfold announceCredits
  repeat' first
    | with_reducible exact Only.refl _
    | with_reducible assumption
    | (extract_lets +onlyGivenNames y
       first
         | (refine Only.have_ y ?_ fun _ => ?_; subst y; rotate_left; clear_value y)
         | (have _z : CtrlSt := y; subst y) | clear_value y | skip)
    | ((with_reducible apply Only.step (showCredits_only ..)); (case hs => decide))
    | ((with_reducible apply Only.step (sendCredit_only ..)); (case hs => decide))
    | split
    | with_reducible refine Only.upd_can ?_

theorem enablePort_only (i : PortId) (s : State) :
    Only [.results, .ports, .can, .aux] s (enablePort i s) := by
  unfold enablePort
  repeat' first
    | with_reducible exact Only.refl _
    | with_reducible assumption
    | (extract_lets +onlyGivenNames y
       first
         | (refine Only.have_ y ?_ fun _ => ?_; subst y; rotate_left; clear_value y)
         | clear_value y | skip)
    | ((with_reducible apply Only.step (announceCredits_only ..)); (case hs => decide))
    | ((with_reducible apply Only.step (setPort_only ..)); (case hs => decide))
    | split

theorem sleepPort_only (i : PortId) (s : State) :
    Only [.results, .ports] s (sleepPort i s) := by
  unfold sleepPort
  repeat' first
    | with_reducible exact Only.refl _
    | with_reducible assumption
    | (extract_lets +onlyGivenNames y
       first
         | (refine Only.have_ y ?_ fun _ => ?_; subst y; rotate_left; clear_value y)
         | clear_value y | skip)
    | ((with_reducible apply Only.step (showCredits_only ..)); (case hs => decide))
    | ((with_reducible apply Only.step (setPort_only ..)); (case hs => decide))

theorem disablePort_only (i : PortId) (s : State) :
    Only [.results, .events, .ports, .storeQueue, .heldEvents] s (disablePort i s) := by
  unfold disablePort
  repeat' first
    | with_reducible exact Only.refl _
    | with_reducible assumption
    | (extract_lets +onlyGivenNames y
       first
         | (refine Only.have_ y ?_ fun _ => ?_; subst y; rotate_left; clear_value y)
         | clear_value y | skip)
    | ((with_reducible apply Only.step (showCredits_only ..)); (case hs => decide))
    | ((with_reducible apply Only.step (endSession_only ..)); (case hs => decide))
    | ((with_reducible apply Only.step (setPort_only ..)); (case hs => decide))

theorem resetState_only (cause : Nat) (s : State) :
    Only (Part.but [.now, .store, .fuses, .flash, .pins, .free, .pending]) s (resetState cause s) := by
  refine ⟨fun p hp => ?_, Nat.le_refl _, fun c => ?_⟩
  · cases p <;> first | exact absurd hp (by decide) | exact rfl
  · refine ⟨c.store, wf_nil _, wf_nil _, c.flash, wf_nil _, mwf_nil _, mwf_nil _, mwf_nil _, mwf_nil _, mwf_nil _, mwf_nil _,
      mwf_nil _, ?_, rfl⟩
    unfold resetState
    extract_lets live r
    exact mwf_nil _

theorem keepResource_only (cause : Nat) (was : State) (s : State) :
    Only [.results] s (keepResource cause was s) := by
  unfold keepResource
  repeat' first
    | with_reducible exact Only.refl _
    | with_reducible assumption
    | (extract_lets +onlyGivenNames y
       first
         | (refine Only.have_ y ?_ fun _ => ?_; subst y; rotate_left; clear_value y)
         | clear_value y | skip)
    | ((with_reducible apply Only.step (changeRes_only ..)); (case hs => decide))
    | split

theorem resetDevice_only (cause : Nat) (s : State) :
    Only (Part.but [.now, .fuses, .flash, .pins, .pending]) s (resetDevice cause s) := by
  unfold resetDevice
  repeat' first
    | with_reducible exact Only.refl _
    | with_reducible assumption
    | (extract_lets +onlyGivenNames y
       first
         | (refine Only.have_ y ?_ fun _ => ?_; subst y; rotate_left; clear_value y)
         | clear_value y | skip)
    | ((with_reducible apply Only.step (keepResource_only ..)); (case hs => decide))
    | ((with_reducible apply Only.step (resetState_only ..)); (case hs => decide))
    | ((with_reducible apply Only.step (disturbSlot_only ..)); (case hs => decide))
    | ((with_reducible apply Only.step (tellKeysLost_only ..)); (case hs => decide))
    | ((with_reducible apply Only.step (tearProgram_only ..)); (case hs => decide))
    | ((with_reducible apply Only.step (raise_only ..)); (case hs => decide))
    | ((with_reducible apply Only.step (draw_only ..)); (case hs => decide))
    | (split <;> refine Only.have_ _ (Only.snd ?_ (by assumption)) fun _ => ?_)
    | split

theorem setTransition_only (n : Nat) (s : State) :
    Only [.results] s (setTransition n s) := by
  unfold setTransition
  repeat' first
    | with_reducible exact Only.refl _
    | with_reducible assumption
    | (extract_lets +onlyGivenNames y
       first
         | (refine Only.have_ y ?_ fun _ => ?_; subst y; rotate_left; clear_value y)
         | clear_value y | skip)
    | ((with_reducible apply Only.step (changeRes_only ..)); (case hs => decide))

theorem stopOperating_only (s : State) :
    Only [.clocks] s (stopOperating s) := by
  unfold stopOperating
  repeat' first
    | with_reducible exact Only.refl _
    | with_reducible assumption
    | (extract_lets +onlyGivenNames y
       first
         | (refine Only.have_ y ?_ fun _ => ?_; subst y; rotate_left; clear_value y)
         | (have _z : StagSt := y; subst y) | clear_value y | skip)
    | split
    | with_reducible refine Only.upd_clocks ?_

theorem runOperating_only (s : State) :
    Only [.clocks] s (runOperating s) := by
  unfold runOperating
  repeat' first
    | with_reducible exact Only.refl _
    | with_reducible assumption
    | (extract_lets +onlyGivenNames y
       first
         | (refine Only.have_ y ?_ fun _ => ?_; subst y; rotate_left; clear_value y)
         | (have _z : StagSt := y; subst y) | clear_value y | skip)
    | split
    | with_reducible refine Only.upd_clocks ?_

theorem fallAsleep_only (off : Bool) (s : State) :
    Only [.results, .events, .ports, .storeQueue, .heldEvents, .stag, .clocks, .out, .panel, .dram, .sram, .power] s (fallAsleep off s) := by
  unfold fallAsleep
  repeat' first
    | with_reducible exact Only.refl _
    | with_reducible assumption
    | (extract_lets +onlyGivenNames y
       first
         | (refine Only.have_ y ?_ fun _ => ?_; subst y; rotate_left; clear_value y)
         | (have _z : DramSt := y; subst y) | (have _z : PowerSt := y; subst y) | (have _z : SramSt := y; subst y) | (have _z : StagSt := y; subst y) | clear_value y | skip)
    | ((with_reducible apply Only.step (stopOperating_only ..)); (case hs => decide))
    | ((with_reducible apply Only.step (setTransition_only ..)); (case hs => decide))
    | ((with_reducible apply Only.step (panelDown_only ..)); (case hs => decide))
    | ((with_reducible apply Only.step (enterState_only ..)); (case hs => decide))
    | split
    | with_reducible refine Only.upd_stag_dram_sram_power ?_

theorem recordWake_only (n : Nat) (from_ : Nat) (s : State) :
    Only [.results] s (recordWake n from_ s) := by
  unfold recordWake
  repeat' first
    | with_reducible exact Only.refl _
    | with_reducible assumption
    | (extract_lets +onlyGivenNames y
       first
         | (refine Only.have_ y ?_ fun _ => ?_; subst y; rotate_left; clear_value y)
         | clear_value y | skip)
    | ((with_reducible apply Only.step (incSatAt_only ..)); (case hs => decide))
    | ((with_reducible apply Only.step (setRes_only ..)); (case hs => decide))
    | split

theorem wakeBegins_only (s : State) :
    Only [.resil, .power] s (wakeBegins s) := by
  unfold wakeBegins
  repeat' first
    | with_reducible exact Only.refl _
    | with_reducible assumption
    | (extract_lets +onlyGivenNames y
       first
         | (refine Only.have_ y ?_ fun _ => ?_; subst y; rotate_left; clear_value y)
         | (have _z : PowerSt := y; subst y) | (have _z : ResilSt := y; subst y) | clear_value y | skip)
    | with_reducible refine Only.upd_resil_power ?_

theorem wakeFromOff_only (n : Nat) (service : Bool) (s : State) :
    Only (Part.but [.now, .fuses, .flash, .pins, .pending]) s (wakeFromOff n service s) := by
  unfold wakeFromOff
  repeat' first
    | with_reducible exact Only.refl _
    | with_reducible assumption
    | (extract_lets +onlyGivenNames y
       first
         | (refine Only.have_ y ?_ fun _ => ?_; subst y; rotate_left; clear_value y)
         | (have _z : PowerSt := y; subst y) | clear_value y | skip)
    | ((with_reducible apply Only.step (recordWake_only ..)); (case hs => decide))
    | ((with_reducible apply Only.step (setTransition_only ..)); (case hs => decide))
    | ((with_reducible apply Only.step (resetDevice_only ..)); (case hs => decide))
    | split
    | with_reducible refine Only.upd_power ?_

theorem startWake_only (n : Nat) (s : State) :
    Only (Part.but [.now, .fuses, .flash, .pins, .pending]) s (startWake n s) := by
  unfold startWake
  repeat' first
    | with_reducible exact Only.refl _
    | with_reducible assumption
    | (extract_lets +onlyGivenNames y
       first
         | (refine Only.have_ y ?_ fun _ => ?_; subst y; rotate_left; clear_value y)
         | (have _z : PowerSt := y; subst y) | clear_value y | skip)
    | ((with_reducible apply Only.step (wakeFromOff_only ..)); (case hs => decide))
    | ((with_reducible apply Only.step (wakeBegins_only ..)); (case hs => decide))
    | ((with_reducible apply Only.step (recordWake_only ..)); (case hs => decide))
    | ((with_reducible apply Only.step (setTransition_only ..)); (case hs => decide))
    | split
    | with_reducible refine Only.upd_power ?_

theorem startService_only (n : Nat) (s : State) :
    Only (Part.but [.now, .fuses, .flash, .pins, .pending]) s (startService n s) := by
  unfold startService
  repeat' first
    | with_reducible exact Only.refl _
    | with_reducible assumption
    | (extract_lets +onlyGivenNames y
       first
         | (refine Only.have_ y ?_ fun _ => ?_; subst y; rotate_left; clear_value y)
         | (have _z : PowerSt := y; subst y) | clear_value y | skip)
    | ((with_reducible apply Only.step (wakeFromOff_only ..)); (case hs => decide))
    | ((with_reducible apply Only.step (wakeBegins_only ..)); (case hs => decide))
    | ((with_reducible apply Only.step (recordWake_only ..)); (case hs => decide))
    | split
    | with_reducible refine Only.upd_power ?_

theorem noteEntry_only (off : Bool) (trigger : Nat) (s : State) :
    Only [.results, .events, .ports, .storeQueue, .heldEvents] s (noteEntry off trigger s) := by
  unfold noteEntry
  repeat' first
    | with_reducible exact Only.refl _
    | with_reducible assumption
    | (extract_lets +onlyGivenNames y
       first
         | (refine Only.have_ y ?_ fun _ => ?_; subst y; rotate_left; clear_value y)
         | clear_value y | skip)
    | ((with_reducible apply Only.step (setTransition_only ..)); (case hs => decide))
    | ((with_reducible apply Only.step (raise_only ..)); (case hs => decide))
    | ((with_reducible apply Only.step (incWrap_only ..)); (case hs => decide))
    | split

theorem offFromStandby_only (trigger : Nat) (s : State) :
    Only (Part.but [.now, .fuses, .flash, .pins, .pending]) s (offFromStandby trigger s) := by
  unfold offFromStandby
  repeat' first
    | with_reducible exact Only.refl _
    | with_reducible assumption
    | (extract_lets +onlyGivenNames y
       first
         | (refine Only.have_ y ?_ fun _ => ?_; subst y; rotate_left; clear_value y)
         | (have _z : PowerSt := y; subst y) | clear_value y | skip)
    | ((with_reducible apply Only.step (noteEntry_only ..)); (case hs => decide))
    | ((with_reducible apply Only.step (startService_only ..)); (case hs => decide))
    | split
    | with_reducible refine Only.upd_power ?_

theorem afterEntry_only (wake : Option Nat) (request : Option Nat) (s : State) :
    Only (Part.but [.now, .fuses, .flash, .pins, .pending]) s (afterEntry wake request s) := by
  unfold afterEntry
  repeat' first
    | with_reducible exact Only.refl _
    | with_reducible assumption
    | (extract_lets +onlyGivenNames y
       first
         | (refine Only.have_ y ?_ fun _ => ?_; subst y; rotate_left; clear_value y)
         | clear_value y | skip)
    | ((with_reducible apply Only.step (offFromStandby_only ..)); (case hs => decide))
    | ((with_reducible apply Only.step (startService_only ..)); (case hs => decide))
    | ((with_reducible apply Only.step (startWake_only ..)); (case hs => decide))
    | split

theorem beginTransition_only (off : Bool) (trigger : Nat) (s : State) :
    Only [.results, .events, .ports, .storeQueue, .heldEvents, .power] s (beginTransition off trigger s) := by
  unfold beginTransition
  repeat' first
    | with_reducible exact Only.refl _
    | with_reducible assumption
    | (extract_lets +onlyGivenNames y
       first
         | (refine Only.have_ y ?_ fun _ => ?_; subst y; rotate_left; clear_value y)
         | (have _z : PowerSt := y; subst y) | clear_value y | skip)
    | ((with_reducible apply Only.step (noteEntry_only ..)); (case hs => decide))
    | split
    | with_reducible refine Only.upd_power ?_

theorem setRequest_only (n : Nat) (s : State) :
    Only [.config] s (setRequest n s) := by
  unfold setRequest
  repeat' first
    | with_reducible exact Only.refl _
    | with_reducible assumption
    | (extract_lets +onlyGivenNames y
       first
         | (refine Only.have_ y ?_ fun _ => ?_; subst y; rotate_left; clear_value y)
         | clear_value y | skip)
    | ((with_reducible apply Only.step (setCfg_only ..)); (case hs => decide))

theorem cancelEntry_only (t : Transition) (cause : Nat) (s : State) :
    Only [.config, .results, .events, .ports, .storeQueue, .heldEvents, .power] s (cancelEntry t cause s) := by
  unfold cancelEntry
  repeat' first
    | with_reducible exact Only.refl _
    | with_reducible assumption
    | (extract_lets +onlyGivenNames y
       first
         | (refine Only.have_ y ?_ fun _ => ?_; subst y; rotate_left; clear_value y)
         | (have _z : PowerSt := y; subst y) | clear_value y | skip)
    | ((with_reducible apply Only.step (setRequest_only ..)); (case hs => decide))
    | ((with_reducible apply Only.step (setTransition_only ..)); (case hs => decide))
    | ((with_reducible apply Only.step (raise_only ..)); (case hs => decide))
    | split
    | with_reducible refine Only.upd_power ?_

theorem stepThree_only (t : Transition) (s : State) :
    Only [.results, .events, .ports, .storeQueue, .heldEvents, .link, .aux, .rx, .raster, .flash, .pipe, .out, .fstore, .dram] s (stepThree t s) := by
  unfold stepThree
  repeat' first
    | with_reducible exact Only.refl _
    | with_reducible assumption
    | (extract_lets +onlyGivenNames y
       first
         | (refine Only.have_ y ?_ fun _ => ?_; subst y; rotate_left; clear_value y)
         | clear_value y | skip)
    | ((with_reducible apply Only.step (sleepPort_only ..)); (case hs => decide))
    | ((with_reducible apply Only.step (linkOff_only ..)); (case hs => decide))
    | ((with_reducible apply Only.step (othamOff_only ..)); (case hs => decide))
    | ((with_reducible apply Only.step (startSave_only ..)); (case hs => decide))
    | ((with_reducible apply Only.step (clearPeriod_only ..)); (case hs => decide))
    | split

theorem stepFour_only (t : Transition) (s : State) :
    Only (Part.but [.now, .fuses, .flash, .pins, .pending]) s (stepFour t s) := by
  unfold stepFour
  repeat' first
    | with_reducible exact Only.refl _
    | with_reducible assumption
    | (extract_lets +onlyGivenNames y
       first
         | (refine Only.have_ y ?_ fun _ => ?_; subst y; rotate_left; clear_value y)
         | (have _z : PowerSt := y; subst y) | clear_value y | skip)
    | ((with_reducible apply Only.step (afterEntry_only ..)); (case hs => decide))
    | ((with_reducible apply Only.step (fallAsleep_only ..)); (case hs => decide))
    | ((with_reducible apply Only.step (enterSelfRefresh_only ..)); (case hs => decide))
    | ((with_reducible apply Only.step (flushGather_only ..)); (case hs => decide))
    | split
    | with_reducible refine Only.upd_power ?_

theorem advanceRestart_only (s : State) :
    Only (Part.but [.now, .fuses, .flash, .pins, .pending]) s (advanceRestart s) := by
  unfold advanceRestart
  repeat' first
    | with_reducible exact Only.refl _
    | with_reducible assumption
    | (extract_lets +onlyGivenNames y
       first
         | (refine Only.have_ y ?_ fun _ => ?_; subst y; rotate_left; clear_value y)
         | clear_value y | skip)
    | ((with_reducible apply Only.step (resetDevice_only ..)); (case hs => decide))
    | ((with_reducible apply Only.step (flushGather_only ..)); (case hs => decide))
    | split

theorem advanceEntry_only (s : State) :
    Only (Part.but [.now, .fuses, .pins, .pending]) s (advanceEntry s) := by
  unfold advanceEntry
  repeat' first
    | with_reducible exact Only.refl _
    | with_reducible assumption
    | (extract_lets +onlyGivenNames y
       first
         | (refine Only.have_ y ?_ fun _ => ?_; subst y; rotate_left; clear_value y)
         | clear_value y | skip)
    | ((with_reducible apply Only.step (advanceRestart_only ..)); (case hs => decide))
    | ((with_reducible apply Only.step (stepFour_only ..)); (case hs => decide))
    | ((with_reducible apply Only.step (stepThree_only ..)); (case hs => decide))
    | split

theorem leaveStepOne_only (s : State) :
    Only (Part.but [.fuses, .pins, .pending]) s (leaveStepOne s) := by
  unfold leaveStepOne
  repeat' first
    | with_reducible exact Only.refl _
    | with_reducible assumption
    | (extract_lets +onlyGivenNames y
       first
         | (refine Only.have_ y ?_ fun _ => ?_; subst y; rotate_left; clear_value y)
         | (have _z : PowerSt := y; subst y) | clear_value y | skip)
    | ((with_reducible apply Only.step (advanceEntry_only ..)); (case hs => decide))
    | ((with_reducible apply Only.step (panelOff_only ..)); (case hs => decide))
    | split
    | with_reducible refine Only.upd_power ?_

theorem failToStandby_only (s : State) :
    Only (Part.but [.now, .fuses, .pins, .pending]) s (failToStandby s) := by
  unfold failToStandby
  repeat' first
    | with_reducible exact Only.refl _
    | with_reducible assumption
    | (extract_lets +onlyGivenNames y
       first
         | (refine Only.have_ y ?_ fun _ => ?_; subst y; rotate_left; clear_value y)
         | (have _z : PowerSt := y; subst y) | clear_value y | skip)
    | ((with_reducible apply Only.step (stepFour_only ..)); (case hs => decide))
    | ((with_reducible apply Only.step (stepThree_only ..)); (case hs => decide))
    | ((with_reducible apply Only.step (setTransition_only ..)); (case hs => decide))
    | ((with_reducible apply Only.step (incWrap_only ..)); (case hs => decide))
    | with_reducible refine Only.upd_power ?_

theorem afterPanel_only (s : State) :
    Only (Part.but [.now, .fuses, .pins, .pending]) s (afterPanel s) := by
  unfold afterPanel
  repeat' first
    | with_reducible exact Only.refl _
    | with_reducible assumption
    | (extract_lets +onlyGivenNames y
       first
         | (refine Only.have_ y ?_ fun _ => ?_; subst y; rotate_left; clear_value y)
         | (have _z : PanelSt := y; subst y) | (have _z : PowerSt := y; subst y) | clear_value y | skip)
    | ((with_reducible apply Only.step (failToStandby_only ..)); (case hs => decide))
    | ((with_reducible apply Only.step (advanceEntry_only ..)); (case hs => decide))
    | ((with_reducible apply Only.step (setTransition_only ..)); (case hs => decide))
    | split
    | with_reducible refine Only.upd_power ?_
    | with_reducible refine Only.upd_panel ?_

theorem powerRequest_only (n : Nat) (s : State) :
    Only [.config, .results, .events, .ports, .storeQueue, .heldEvents, .power] s (powerRequest n s) := by
  unfold powerRequest
  repeat' first
    | with_reducible exact Only.refl _
    | with_reducible assumption
    | (extract_lets +onlyGivenNames y
       first
         | (refine Only.have_ y ?_ fun _ => ?_; subst y; rotate_left; clear_value y)
         | (have _z : PowerSt := y; subst y) | clear_value y | skip)
    | ((with_reducible apply Only.step (cancelEntry_only ..)); (case hs => decide))
    | ((with_reducible apply Only.step (setRequest_only ..)); (case hs => decide))
    | ((with_reducible apply Only.step (beginTransition_only ..)); (case hs => decide))
    | split
    | with_reducible refine Only.upd_power ?_

theorem restartCommand_only (s : State) :
    Only [.now, .config, .shadow, .results, .events, .ports, .storeQueue, .heldEvents, .link, .aux, .rx, .raster, .pipe, .out, .panel, .fstore, .dram, .sram, .resil, .power] s (restartCommand s) := by
  unfold restartCommand
  repeat' first
    | with_reducible exact Only.refl _
    | with_reducible assumption
    | (extract_lets +onlyGivenNames y
       first
         | (refine Only.have_ y ?_ fun _ => ?_; subst y; rotate_left; clear_value y)
         | (have _z : PowerSt := y; subst y) | clear_value y | skip)
    | ((with_reducible apply Only.step (panelOff_only ..)); (case hs => decide))
    | with_reducible refine Only.upd_power ?_

theorem putFirst_only (s : State) :
    Only [.results] s (putFirst s) := by
  unfold putFirst
  generalize firstResults = l
  exact Only.upd_results (Only.refl _) (by decide) (mwf_foldl_mput _ _ _ _ _) id

theorem release_only (hostsel : Bool) (node : Nat) (xin : Bool) (s : State) :
    Only [.epoch, .results, .events, .ports, .storeQueue, .heldEvents, .power, .pins] s (release hostsel node xin s) := by
  unfold release
  repeat' first
    | with_reducible exact Only.refl _
    | with_reducible assumption
    | (extract_lets +onlyGivenNames y
       first
         | (refine Only.have_ y ?_ fun _ => ?_; subst y; rotate_left; clear_value y)
         | (have _z : DictSt := y; subst y) | (have _z : PinSt := y; subst y) | (have _z : PowerSt := y; subst y) | clear_value y | skip)
    | ((with_reducible apply Only.step (putFirst_only ..)); (case hs => decide))
    | ((with_reducible apply Only.step (enterState_only ..)); (case hs => decide))
    | ((with_reducible apply Only.step (raise_only ..)); (case hs => decide))
    | ((with_reducible apply Only.step (setResList_only ..)); (case hs => decide))
    | ((with_reducible apply Only.step (changeRes_only ..)); (case hs => decide))
    | ((with_reducible apply Only.step (setRes_only ..)); (case hs => decide))
    | split
    | with_reducible refine Only.upd_epoch_results_power_pins ?_
    | with_reducible refine Only.upd_power ?_

theorem applyRecord_only (handle : Nat) (s : State) :
    Only [.results, .events, .ports, .storeQueue, .heldEvents, .link, .pipe, .out, .dram] s (applyRecord handle s) := by
  unfold applyRecord
  repeat' first
    | with_reducible exact Only.refl _
    | with_reducible assumption
    | (extract_lets +onlyGivenNames y
       first
         | (refine Only.have_ y ?_ fun _ => ?_; subst y; rotate_left; clear_value y)
         | (have _z : DramSt := y; subst y) | (have _z : PipeSt := y; subst y) | clear_value y | skip)
    | ((with_reducible apply Only.step (showLane_only ..)); (case hs => decide))
    | ((with_reducible apply Only.step (setLane_only ..)); (case hs => decide))
    | ((with_reducible apply Only.step (showPort_only ..)); (case hs => decide))
    | ((with_reducible apply Only.step (setOlane_only ..)); (case hs => decide))
    | ((with_reducible apply Only.step (setTile_only ..)); (case hs => decide))
    | ((with_reducible apply Only.step (showChan_only ..)); (case hs => decide))
    | ((with_reducible apply Only.step (setChan_only ..)); (case hs => decide))
    | ((with_reducible apply Only.step (raise_only ..)); (case hs => decide))
    | ((with_reducible apply Only.step (setRes_only ..)); (case hs => decide))
    | split
    | with_reducible refine Only.upd_pipe ?_
    | with_reducible refine Only.upd_dram ?_

theorem applyBlaze_only (s : State) :
    Only [.results, .events, .ports, .storeState, .storeQueue, .heldEvents, .link, .pipe, .out, .dram] s (applyBlaze s) := by
  unfold applyBlaze
  repeat' first
    | with_reducible exact Only.refl _
    | with_reducible assumption
    | (extract_lets +onlyGivenNames y
       first
         | (refine Only.have_ y ?_ fun _ => ?_; subst y; rotate_left; clear_value y)
         | (have _z : PstoreSt := y; subst y) | clear_value y | skip)
    | ((with_reducible apply Only.step (applyRecord_only ..)); (case hs => decide))
    | ((with_reducible apply Only.step (raise_only ..)); (case hs => decide))
    | (with_reducible apply Only.foldl)
    | intro t a ht
    | with_reducible refine Only.upd_storeState ?_

theorem applyImage_only (s : State) :
    Only [.config, .shadow, .results, .events, .ports, .storeQueue, .heldEvents, .link, .aux, .rx, .raster, .pipe, .out, .panel, .fstore, .dram, .sram, .resil, .power] s (applyImage s) := by
  unfold applyImage
  repeat' first
    | with_reducible exact Only.refl _
    | with_reducible assumption
    | (extract_lets +onlyGivenNames y
       first
         | (refine Only.have_ y ?_ fun _ => ?_; subst y; rotate_left; clear_value y)
         | clear_value y | skip)
    | ((with_reducible apply Only.step (applyCommit_only ..)); (case hs => decide))
    | ((with_reducible apply Only.step (clampPatch_only ..)); (case hs => decide))
    | ((with_reducible apply Only.step (clearShadow_only ..)); (case hs => decide))
    | (split <;> refine Only.have_ _ (Only.snd ?_ (by assumption)) fun _ => ?_)
    | split

theorem startOperating_only (last : Option Nat) (s : State) :
    Only [.clocks] s (startOperating last s) := by
  unfold startOperating
  repeat' first
    | with_reducible exact Only.refl _
    | with_reducible assumption
    | (extract_lets +onlyGivenNames y
       first
         | (refine Only.have_ y ?_ fun _ => ?_; subst y; rotate_left; clear_value y)
         | (have _z : StagSt := y; subst y) | clear_value y | skip)
    | split
    | with_reducible refine Only.upd_clocks ?_

theorem beginTraining_only (s : State) :
    Only [.results, .dram, .resil, .power] s (beginTraining s) := by
  unfold beginTraining
  repeat' first
    | with_reducible exact Only.refl _
    | with_reducible assumption
    | (extract_lets +onlyGivenNames y
       first
         | (refine Only.have_ y ?_ fun _ => ?_; subst y; rotate_left; clear_value y)
         | (have _z : PowerSt := y; subst y) | (have _z : ResilSt := y; subst y) | clear_value y | skip)
    | ((with_reducible apply Only.step (commandVcore_only ..)); (case hs => decide))
    | ((with_reducible apply Only.step (showChan_only ..)); (case hs => decide))
    | ((with_reducible apply Only.step (setChan_only ..)); (case hs => decide))
    | (with_reducible apply Only.foldl)
    | intro t a ht
    | split
    | with_reducible refine Only.upd_resil_power ?_

theorem tellService_only (s : State) :
    Only [.results, .events, .ports, .storeQueue, .tallies, .security, .heldEvents, .aux] s (tellService s) := by
  unfold tellService
  repeat' first
    | with_reducible exact Only.refl _
    | with_reducible assumption
    | (extract_lets +onlyGivenNames y
       first
         | (refine Only.have_ y ?_ fun _ => ?_; subst y; rotate_left; clear_value y)
         | clear_value y | skip)
    | ((with_reducible apply Only.step (tamperLate_only ..)); (case hs => decide))
    | ((with_reducible apply Only.step (raise_only ..)); (case hs => decide))
    | split

theorem showIdentity_only (s : State) :
    Only [.results] s (showIdentity s) := by
  unfold showIdentity
  repeat' first
    | with_reducible exact Only.refl _
    | with_reducible assumption
    | (extract_lets +onlyGivenNames y
       first
         | (refine Only.have_ y ?_ fun _ => ?_; subst y; rotate_left; clear_value y)
         | clear_value y | skip)
    | ((with_reducible apply Only.step (setResList_only ..)); (case hs => decide))
    | ((with_reducible apply Only.step (setRes_only ..)); (case hs => decide))
    | ((with_reducible apply Only.step (bumpGen_only ..)); (case hs => decide))
    | split

theorem showNode_only (s : State) :
    Only [.results] s (showNode s) := by
  unfold showNode
  repeat' first
    | with_reducible exact Only.refl _
    | with_reducible assumption
    | (extract_lets +onlyGivenNames y
       first
         | (refine Only.have_ y ?_ fun _ => ?_; subst y; rotate_left; clear_value y)
         | clear_value y | skip)
    | ((with_reducible apply Only.step (setRes_only ..)); (case hs => decide))

theorem storeServes_only (h : Nat) (s : State) :
    Only [.results, .events, .ports, .storeState, .storeQueue, .tallies, .security, .heldEvents, .link, .pipe, .out, .fstore, .dram, .free] s (storeServes h s) := by
  unfold storeServes
  repeat' first
    | with_reducible exact Only.refl _
    | with_reducible assumption
    | (extract_lets +onlyGivenNames y
       first
         | (refine Only.have_ y ?_ fun _ => ?_; subst y; rotate_left; clear_value y)
         | (have _z : DramSt := y; subst y) | (have _z : PstoreSt := y; subst y) | clear_value y | skip)
    | ((with_reducible apply Only.step (applyBlaze_only ..)); (case hs => decide))
    | ((with_reducible apply Only.step (readKeyStore_only ..)); (case hs => decide))
    | ((with_reducible apply Only.step (drawFrameKey_only ..)); (case hs => decide))
    | ((with_reducible apply Only.step (updateWear_only ..)); (case hs => decide))
    | ((with_reducible apply Only.step (incTally_only ..)); (case hs => decide))
    | ((with_reducible apply Only.step (flushEvents_only ..)); (case hs => decide))
    | ((with_reducible apply Only.step (raise_only ..)); (case hs => decide))
    | with_reducible refine Only.upd_storeState_dram ?_

theorem storeShown_only (s : State) :
    Only [.results, .events, .ports, .storeQueue, .heldEvents, .raster, .pipe, .out, .resil, .power] s (storeShown s) := by
  unfold storeShown
  repeat' first
    | with_reducible exact Only.refl _
    | with_reducible assumption
    | (extract_lets +onlyGivenNames y
       first
         | (refine Only.have_ y ?_ fun _ => ?_; subst y; rotate_left; clear_value y)
         | (have _z : PipeSt := y; subst y) | (have _z : RasterSt := y; subst y) | clear_value y | skip)
    | ((with_reducible apply Only.step (showNode_only ..)); (case hs => decide))
    | ((with_reducible apply Only.step (showIdentity_only ..)); (case hs => decide))
    | ((with_reducible apply Only.step (showFirmware_only ..)); (case hs => decide))
    | ((with_reducible apply Only.step (showGeometry_only ..)); (case hs => decide))
    | ((with_reducible apply Only.step (keepWake_only ..)); (case hs => decide))
    | ((with_reducible apply Only.step (enterState_only ..)); (case hs => decide))
    | ((with_reducible apply Only.step (showClocks_only ..)); (case hs => decide))
    | ((with_reducible apply Only.step (chooseRate_only ..)); (case hs => decide))
    | ((with_reducible apply Only.step (showPass_only ..)); (case hs => decide))
    | ((with_reducible apply Only.step (showSpare_only ..)); (case hs => decide))
    | ((with_reducible apply Only.step (showSlots_only ..)); (case hs => decide))
    | ((with_reducible apply Only.step (stressRateCheck_only ..)); (case hs => decide))
    | ((with_reducible apply Only.step (settle_only ..)); (case hs => decide))
    | ((with_reducible apply Only.step (unitsUp_only ..)); (case hs => decide))
    | ((with_reducible apply Only.step (setRes_only ..)); (case hs => decide))
    | (with_reducible apply Only.foldl)
    | intro t a ht
    | split
    | with_reducible refine Only.upd_raster ?_
    | with_reducible refine Only.upd_pipe ?_

theorem storeRead_only (s : State) :
    Only (Part.but [.now, .epoch, .counts, .requests, .can, .store, .fuses, .stag, .sensors, .slots, .image, .flash, .sramMem, .pins, .pending]) s (storeRead s) := by
  unfold storeRead
  repeat' first
    | with_reducible exact Only.refl _
    | with_reducible assumption
    | (extract_lets +onlyGivenNames y
       first
         | (refine Only.have_ y ?_ fun _ => ?_; subst y; rotate_left; clear_value y)
         | clear_value y | skip)
    | ((with_reducible apply Only.step (storeShown_only ..)); (case hs => decide))
    | ((with_reducible apply Only.step (storeServes_only ..)); (case hs => decide))
    | ((with_reducible apply Only.step (startOperating_only ..)); (case hs => decide))
    | ((with_reducible apply Only.step (applyImage_only ..)); (case hs => decide))
    | ((with_reducible apply Only.step (readLog_only ..)); (case hs => decide))
    | ((with_reducible apply Only.step (readImage_only ..)); (case hs => decide))
    | ((with_reducible apply Only.step (readTallies_only ..)); (case hs => decide))
    | ((with_reducible apply Only.step (readRepairs_only ..)); (case hs => decide))
    | ((with_reducible apply Only.step (readBlaze_only ..)); (case hs => decide))
    | ((with_reducible apply Only.step (readIdentity_only ..)); (case hs => decide))
    | (split <;> refine Only.have_ _ (Only.snd ?_ (by assumption)) fun _ => ?_)
    | (split <;> refine Only.have_ _ (Only.snd3 ?_ (by assumption)) fun _ => ?_)
    | split

theorem channelTrained_only (r : ChannelReport) (s : State) :
    Only [.results, .events, .ports, .storeState, .storeQueue, .heldEvents, .pipe, .dram, .resil] s (channelTrained r s) := by
  unfold channelTrained
  repeat' first
    | with_reducible exact Only.refl _
    | with_reducible assumption
    | (extract_lets +onlyGivenNames y
       first
         | (refine Only.have_ y ?_ fun _ => ?_; subst y; rotate_left; clear_value y)
         | clear_value y | skip)
    | ((with_reducible apply Only.step (retireChannel_only ..)); (case hs => decide))
    | ((with_reducible apply Only.step (showChan_only ..)); (case hs => decide))
    | ((with_reducible apply Only.step (setChan_only ..)); (case hs => decide))
    | ((with_reducible apply Only.step (raise_only ..)); (case hs => decide))
    | split

theorem afterTraining_only (s : State) :
    Only [.config, .results, .events, .ports, .can, .storeQueue, .heldEvents, .link, .aux, .resil, .power] s (afterTraining s) := by
  unfold afterTraining
  repeat' first
    | with_reducible exact Only.refl _
    | with_reducible assumption
    | (extract_lets +onlyGivenNames y
       first
         | (refine Only.have_ y ?_ fun _ => ?_; subst y; rotate_left; clear_value y)
         | (have _z : PowerSt := y; subst y) | clear_value y | skip)
    | ((with_reducible apply Only.step (setRequest_only ..)); (case hs => decide))
    | ((with_reducible apply Only.step (enablePort_only ..)); (case hs => decide))
    | ((with_reducible apply Only.step (enterDetect_only ..)); (case hs => decide))
    | ((with_reducible apply Only.step (settle_only ..)); (case hs => decide))
    | ((with_reducible apply Only.step (unitsUp_only ..)); (case hs => decide))
    | split
    | with_reducible refine Only.upd_power ?_

theorem vcoreSearch_only (s : State) :
    Only [.resil] s (vcoreSearch s) := by
  unfold vcoreSearch
  repeat' first
    | with_reducible exact Only.refl _
    | with_reducible assumption
    | (extract_lets +onlyGivenNames y
       first
         | (refine Only.have_ y ?_ fun _ => ?_; subst y; rotate_left; clear_value y)
         | (have _z : ResilSt := y; subst y) | clear_value y | skip)
    | ((with_reducible apply Only.step (commandVcore_only ..)); (case hs => decide))
    | split
    | with_reducible refine Only.upd_resil ?_

theorem advanceWake_only (s : State) :
    Only [.results, .events, .ports, .storeQueue, .heldEvents, .clocks, .sram, .power] s (advanceWake s) := by
  unfold advanceWake
  repeat' first
    | with_reducible exact Only.refl _
    | with_reducible assumption
    | (extract_lets +onlyGivenNames y
       first
         | (refine Only.have_ y ?_ fun _ => ?_; subst y; rotate_left; clear_value y)
         | (have _z : PowerSt := y; subst y) | (have _z : SramSt := y; subst y) | clear_value y | skip)
    | ((with_reducible apply Only.step (runOperating_only ..)); (case hs => decide))
    | ((with_reducible apply Only.step (enterState_only ..)); (case hs => decide))
    | split
    | with_reducible refine Only.upd_sram_power ?_

theorem lastWakeStep_only (s : State) :
    Only (Part.but [.fuses, .pins, .pending]) s (lastWakeStep s) := by
  unfold lastWakeStep
  repeat' first
    | with_reducible exact Only.refl _
    | with_reducible assumption
    | (extract_lets +onlyGivenNames y
       first
         | (refine Only.have_ y ?_ fun _ => ?_; subst y; rotate_left; clear_value y)
         | (have _z : PowerSt := y; subst y) | clear_value y | skip)
    | ((with_reducible apply Only.step (afterPanel_only ..)); (case hs => decide))
    | ((with_reducible apply Only.step (panelOn_only ..)); (case hs => decide))
    | split
    | with_reducible refine Only.upd_power ?_

theorem wakeStepFour_only (s : State) :
    Only (Part.but [.fuses, .pins, .pending]) s (wakeStepFour s) := by
  unfold wakeStepFour
  repeat' first
    | with_reducible exact Only.refl _
    | with_reducible assumption
    | (extract_lets +onlyGivenNames y
       first
         | (refine Only.have_ y ?_ fun _ => ?_; subst y; rotate_left; clear_value y)
         | (have _z : PowerSt := y; subst y) | (have _z : ResilSt := y; subst y) | clear_value y | skip)
    | ((with_reducible apply Only.step (lastWakeStep_only ..)); (case hs => decide))
    | ((with_reducible apply Only.step (setRequest_only ..)); (case hs => decide))
    | ((with_reducible apply Only.step (enablePort_only ..)); (case hs => decide))
    | ((with_reducible apply Only.step (enterDetect_only ..)); (case hs => decide))
    | ((with_reducible apply Only.step (settle_only ..)); (case hs => decide))
    | with_reducible refine Only.upd_resil_power ?_

theorem stagResumes_only (s : State) :
    Only (Part.but [.fuses, .pins, .pending]) s (stagResumes s) := by
  unfold stagResumes
  repeat' first
    | with_reducible exact Only.refl _
    | with_reducible assumption
    | (extract_lets +onlyGivenNames y
       first
         | (refine Only.have_ y ?_ fun _ => ?_; subst y; rotate_left; clear_value y)
         | (have _z : PowerSt := y; subst y) | (have _z : StagSt := y; subst y) | clear_value y | skip)
    | ((with_reducible apply Only.step (wakeStepFour_only ..)); (case hs => decide))
    | ((with_reducible apply Only.step (tellService_only ..)); (case hs => decide))
    | ((with_reducible apply Only.step (stepFour_only ..)); (case hs => decide))
    | ((with_reducible apply Only.step (tamperLate_only ..)); (case hs => decide))
    | ((with_reducible apply Only.step (startSave_only ..)); (case hs => decide))
    | ((with_reducible apply Only.step (settle_only ..)); (case hs => decide))
    | ((with_reducible apply Only.step (flushEvents_only ..)); (case hs => decide))
    | split
    | with_reducible refine Only.upd_stag_power ?_
    | with_reducible refine Only.upd_power ?_

theorem alsoWakes_only (n : Nat) (s : State) :
    Only [.results, .power] s (alsoWakes n s) := by
  unfold alsoWakes
  repeat' first
    | with_reducible exact Only.refl _
    | with_reducible assumption
    | (extract_lets +onlyGivenNames y
       first
         | (refine Only.have_ y ?_ fun _ => ?_; subst y; rotate_left; clear_value y)
         | (have _z : PowerSt := y; subst y) | clear_value y | skip)
    | ((with_reducible apply Only.step (incSatAt_only ..)); (case hs => decide))
    | ((with_reducible apply Only.step (setRes_only ..)); (case hs => decide))
    | ((with_reducible apply Only.step (setResAt_only ..)); (case hs => decide))
    | split
    | with_reducible refine Only.upd_power ?_

theorem fullWake_only (n : Nat) (s : State) :
    Only (Part.but [.fuses, .pins, .pending]) s (fullWake n s) := by
  unfold fullWake
  repeat' first
    | with_reducible exact Only.refl _
    | with_reducible assumption
    | (extract_lets +onlyGivenNames y
       first
         | (refine Only.have_ y ?_ fun _ => ?_; subst y; rotate_left; clear_value y)
         | (have _z : PowerSt := y; subst y) | clear_value y | skip)
    | ((with_reducible apply Only.step (alsoWakes_only ..)); (case hs => decide))
    | ((with_reducible apply Only.step (wakeStepFour_only ..)); (case hs => decide))
    | ((with_reducible apply Only.step (beginTraining_only ..)); (case hs => decide))
    | ((with_reducible apply Only.step (cancelEntry_only ..)); (case hs => decide))
    | ((with_reducible apply Only.step (startWake_only ..)); (case hs => decide))
    | ((with_reducible apply Only.step (runOperating_only ..)); (case hs => decide))
    | ((with_reducible apply Only.step (setTransition_only ..)); (case hs => decide))
    | ((with_reducible apply Only.step (enterState_only ..)); (case hs => decide))
    | ((with_reducible apply Only.step (incSatAt_only ..)); (case hs => decide))
    | split
    | with_reducible refine Only.upd_power ?_

theorem resourceFails_only (r : Resource) (s : State) :
    Only [.results, .events, .ports, .storeQueue, .heldEvents, .stag, .clocks, .out, .panel, .dram, .sram, .resil, .power] s (resourceFails r s) := by
  unfold resourceFails
  repeat' first
    | with_reducible exact Only.refl _
    | with_reducible assumption
    | (extract_lets +onlyGivenNames y
       first
         | (refine Only.have_ y ?_ fun _ => ?_; subst y; rotate_left; clear_value y)
         | (have _z : PowerSt := y; subst y) | (have _z : ResilSt := y; subst y) | clear_value y | skip)
    | ((with_reducible apply Only.step (fallAsleep_only ..)); (case hs => decide))
    | ((with_reducible apply Only.step (settle_only ..)); (case hs => decide))
    | ((with_reducible apply Only.step (raise_only ..)); (case hs => decide))
    | ((with_reducible apply Only.step (incSat_only ..)); (case hs => decide))
    | ((with_reducible apply Only.step (setRes_only ..)); (case hs => decide))
    | split
    | with_reducible refine Only.upd_resil_power ?_

theorem lastProgram_only (s : State) :
    Only [.storeQueue] s (lastProgram s) := by
  unfold lastProgram
  repeat' first
    | with_reducible exact Only.refl _
    | with_reducible assumption
    | (extract_lets +onlyGivenNames y
       first
         | (refine Only.have_ y ?_ fun _ => ?_; subst y; rotate_left; clear_value y)
         | (have _z : PstoreSt := y; subst y) | clear_value y | skip)
    | split
    | with_reducible refine Only.upd_storeQueue ?_

theorem execPowerOnReset_only (s : State) :
    Runs (Part.but [.now, .fuses, .flash, .pins, .pending]) s (execPowerOnReset s) := by
  unfold execPowerOnReset
  repeat' first
    | with_reducible apply Runs.next
    | with_reducible exact Only.refl _
    | with_reducible assumption
    | (extract_lets +onlyGivenNames y
       first
         | (refine Only.have_ y ?_ fun _ => ?_; subst y; rotate_left; clear_value y)
         | clear_value y | skip)
    | ((with_reducible apply Only.step (resetDevice_only ..)); (case hs => decide))

theorem execResetN_only (s : State) :
    Runs (Part.but [.fuses, .flash, .pins, .pending]) s (execResetN s) := by
  unfold execResetN
  repeat' first
    | with_reducible apply Runs.next
    | with_reducible exact Only.refl _
    | with_reducible assumption
    | (extract_lets +onlyGivenNames y
       first
         | (refine Only.have_ y ?_ fun _ => ?_; subst y; rotate_left; clear_value y)
         | clear_value y | skip)
    | ((with_reducible apply Only.step (resetDevice_only ..)); (case hs => decide))
    | ((with_reducible apply Only.step (advanceTo_only ..)); (case hs => decide))
    | split

theorem execStandbyTimer_only (s : State) :
    Runs [.now, .results, .events, .ports, .storeQueue, .heldEvents, .power] s (execStandbyTimer s) := by
  unfold execStandbyTimer
  repeat' first
    | with_reducible apply Runs.next
    | with_reducible exact Only.refl _
    | with_reducible assumption
    | (extract_lets +onlyGivenNames y
       first
         | (refine Only.have_ y ?_ fun _ => ?_; subst y; rotate_left; clear_value y)
         | clear_value y | skip)
    | ((with_reducible apply Only.step (beginTransition_only ..)); (case hs => decide))
    | ((with_reducible apply Only.step (advanceTo_only ..)); (case hs => decide))
    | split

theorem execOffTimer_only (s : State) :
    Runs (Part.but [.fuses, .flash, .pins, .pending]) s (execOffTimer s) := by
  unfold execOffTimer
  repeat' first
    | with_reducible apply Runs.next
    | with_reducible exact Only.refl _
    | with_reducible assumption
    | (extract_lets +onlyGivenNames y
       first
         | (refine Only.have_ y ?_ fun _ => ?_; subst y; rotate_left; clear_value y)
         | clear_value y | skip)
    | ((with_reducible apply Only.step (offFromStandby_only ..)); (case hs => decide))
    | ((with_reducible apply Only.step (advanceTo_only ..)); (case hs => decide))
    | split

theorem execResetRelease_only (hostsel : Bool) (node : Nat) (xin : Bool) (s : State) :
    Runs [.epoch, .results, .events, .ports, .storeQueue, .heldEvents, .power, .pins] s (execResetRelease hostsel node xin s) := by
  unfold execResetRelease
  repeat' first
    | with_reducible apply Runs.next
    | with_reducible exact Only.refl _
    | with_reducible assumption
    | (extract_lets +onlyGivenNames y
       first
         | (refine Only.have_ y ?_ fun _ => ?_; subst y; rotate_left; clear_value y)
         | clear_value y | skip)
    | ((with_reducible apply Only.step (release_only ..)); (case hs => decide))
    | split

theorem execFirmwareStarted_only (s : State) :
    Runs [.results, .events, .ports, .storeQueue, .tallies, .heldEvents, .stag, .slots, .sramMem, .sram, .resil, .power] s (execFirmwareStarted s) := by
  unfold execFirmwareStarted
  repeat' first
    | with_reducible apply Runs.next
    | with_reducible exact Only.refl _
    | with_reducible assumption
    | (extract_lets +onlyGivenNames y
       first
         | (refine Only.have_ y ?_ fun _ => ?_; subst y; rotate_left; clear_value y)
         | (have _z : PowerSt := y; subst y) | (have _z : PstoreSt := y; subst y) | (have _z : StagSt := y; subst y) | clear_value y | skip)
    | ((with_reducible apply Only.step (bootFirmware_only ..)); (case hs => decide))
    | split
    | with_reducible refine Only.upd_tallies_power ?_
    | with_reducible refine Only.upd_stag ?_

theorem execStoreReadDone_only (s : State) :
    Runs (Part.but [.now, .epoch, .counts, .requests, .can, .store, .fuses, .stag, .sensors, .slots, .image, .flash, .sramMem, .pins, .pending]) s (execStoreReadDone s) := by
  unfold execStoreReadDone
  repeat' first
    | with_reducible apply Runs.next
    | with_reducible exact Only.refl _
    | with_reducible assumption
    | (extract_lets +onlyGivenNames y
       first
         | (refine Only.have_ y ?_ fun _ => ?_; subst y; rotate_left; clear_value y)
         | (have _z : PowerSt := y; subst y) | clear_value y | skip)
    | ((with_reducible apply Only.step (storeRead_only ..)); (case hs => decide))
    | ((with_reducible apply Only.step (tellService_only ..)); (case hs => decide))
    | ((with_reducible apply Only.step (beginTraining_only ..)); (case hs => decide))
    | ((with_reducible apply Only.step (tamperLate_only ..)); (case hs => decide))
    | split
    | with_reducible refine Only.upd_power ?_

theorem execDramTrainingDone_only (rs : List ChannelReport) (s : State) :
    Runs [.config, .results, .events, .ports, .can, .storeState, .storeQueue, .heldEvents, .link, .aux, .pipe, .dram, .resil, .power] s (execDramTrainingDone rs s) := by
  unfold execDramTrainingDone
  repeat' first
    | with_reducible apply Runs.next
    | with_reducible exact Only.refl _
    | with_reducible assumption
    | (extract_lets +onlyGivenNames y
       first
         | (refine Only.have_ y ?_ fun _ => ?_; subst y; rotate_left; clear_value y)
         | (have _z : DramSt := y; subst y) | clear_value y | skip)
    | ((with_reducible apply Only.step (afterTraining_only ..)); (case hs => decide))
    | ((with_reducible apply Only.step (channelTrained_only ..)); (case hs => decide))
    | ((with_reducible apply Only.step (showChannels_only ..)); (case hs => decide))
    | ((with_reducible apply Only.step (setResList_only ..)); (case hs => decide))
    | (with_reducible apply Only.foldl)
    | intro t a ht
    | split
    | with_reducible refine Only.upd_dram ?_

theorem execSmallBankLoaded_only (s : State) :
    Runs (Part.but [.fuses, .pins, .pending]) s (execSmallBankLoaded s) := by
  unfold execSmallBankLoaded
  repeat' first
    | with_reducible apply Runs.next
    | with_reducible exact Only.refl _
    | with_reducible assumption
    | (extract_lets +onlyGivenNames y
       first
         | (refine Only.have_ y ?_ fun _ => ?_; subst y; rotate_left; clear_value y)
         | (have _z : PowerSt := y; subst y) | (have _z : ResilSt := y; subst y) | clear_value y | skip)
    | ((with_reducible apply Only.step (afterPanel_only ..)); (case hs => decide))
    | ((with_reducible apply Only.step (panelOn_only ..)); (case hs => decide))
    | ((with_reducible apply Only.step (loadSmallBank_only ..)); (case hs => decide))
    | split
    | with_reducible refine Only.upd_resil_power ?_

theorem execVcoreSearchStep_only (s : State) :
    Runs [.config, .results, .events, .ports, .can, .storeQueue, .heldEvents, .link, .aux, .resil, .power] s (execVcoreSearchStep s) := by
  unfold execVcoreSearchStep
  repeat' first
    | with_reducible apply Runs.next
    | with_reducible exact Only.refl _
    | with_reducible assumption
    | (extract_lets +onlyGivenNames y
       first
         | (refine Only.have_ y ?_ fun _ => ?_; subst y; rotate_left; clear_value y)
         | clear_value y | skip)
    | ((with_reducible apply Only.step (vcoreSearch_only ..)); (case hs => decide))
    | ((with_reducible apply Only.step (afterTraining_only ..)); (case hs => decide))

theorem execDomainPowerGood_only (dram : Bool) (s : State) :
    Runs (Part.but [.fuses, .pins, .pending]) s (execDomainPowerGood dram s) := by
  unfold execDomainPowerGood
  repeat' first
    | with_reducible apply Runs.next
    | with_reducible exact Only.refl _
    | with_reducible assumption
    | (extract_lets +onlyGivenNames y
       first
         | (refine Only.have_ y ?_ fun _ => ?_; subst y; rotate_left; clear_value y)
         | clear_value y | skip)
    | ((with_reducible apply Only.step (stagResumes_only ..)); (case hs => decide))
    | split

theorem execReferenceReady_only (s : State) :
    Runs [.results, .events, .ports, .storeQueue, .heldEvents, .clocks, .sramMem, .sram, .power] s (execReferenceReady s) := by
  unfold execReferenceReady
  repeat' first
    | with_reducible apply Runs.next
    | with_reducible exact Only.refl _
    | with_reducible assumption
    | (extract_lets +onlyGivenNames y
       first
         | (refine Only.have_ y ?_ fun _ => ?_; subst y; rotate_left; clear_value y)
         | (have _z : PowerSt := y; subst y) | clear_value y | skip)
    | ((with_reducible apply Only.step (advanceWake_only ..)); (case hs => decide))
    | ((with_reducible apply Only.step (initSram_only ..)); (case hs => decide))
    | split
    | with_reducible refine Only.upd_power ?_

theorem execAvsStatus_only (mv : Nat) (s : State) :
    Runs [.config, .results, .events, .ports, .can, .storeQueue, .heldEvents, .clocks, .link, .aux, .sram, .resil, .power] s (execAvsStatus mv s) := by
  unfold execAvsStatus
  repeat' first
    | with_reducible apply Runs.next
    | with_reducible exact Only.refl _
    | with_reducible assumption
    | (extract_lets +onlyGivenNames y
       first
         | (refine Only.have_ y ?_ fun _ => ?_; subst y; rotate_left; clear_value y)
         | (have _z : PowerSt := y; subst y) | clear_value y | skip)
    | ((with_reducible apply Only.step (advanceWake_only ..)); (case hs => decide))
    | ((with_reducible apply Only.step (afterTraining_only ..)); (case hs => decide))
    | ((with_reducible apply Only.step (vcoreConfirmed_only ..)); (case hs => decide))
    | split
    | with_reducible refine Only.upd_power ?_

theorem execAvsTimeout_only (s : State) :
    Runs [.config, .results, .events, .ports, .can, .storeQueue, .heldEvents, .link, .aux, .resil, .power] s (execAvsTimeout s) := by
  unfold execAvsTimeout
  repeat' first
    | with_reducible apply Runs.next
    | with_reducible exact Only.refl _
    | with_reducible assumption
    | (extract_lets +onlyGivenNames y
       first
         | (refine Only.have_ y ?_ fun _ => ?_; subst y; rotate_left; clear_value y)
         | clear_value y | skip)
    | ((with_reducible apply Only.step (afterTraining_only ..)); (case hs => decide))
    | ((with_reducible apply Only.step (vcoreMissed_only ..)); (case hs => decide))
    | split

theorem execSelfRefreshExit_only (c : Nat) (ns : Nat) (s : State) :
    Runs (Part.but [.fuses, .pins, .pending]) s (execSelfRefreshExit c ns s) := by
  unfold execSelfRefreshExit
  repeat' first
    | with_reducible apply Runs.next
    | with_reducible exact Only.refl _
    | with_reducible assumption
    | (extract_lets +onlyGivenNames y
       first
         | (refine Only.have_ y ?_ fun _ => ?_; subst y; rotate_left; clear_value y)
         | clear_value y | skip)
    | ((with_reducible apply Only.step (lastWakeStep_only ..)); (case hs => decide))
    | ((with_reducible apply Only.step (applyHeldResults_only ..)); (case hs => decide))
    | ((with_reducible apply Only.step (leaveSelfRefresh_only ..)); (case hs => decide))
    | split

theorem execRowRepaired_only (c : Nat) (bk : Nat) (row : Nat) (s : State) :
    Runs (Part.but [.now, .fuses, .pins, .pending]) s (execRowRepaired c bk row s) := by
  unfold execRowRepaired
  repeat' first
    | with_reducible apply Runs.next
    | with_reducible exact Only.refl _
    | with_reducible assumption
    | (extract_lets +onlyGivenNames y
       first
         | (refine Only.have_ y ?_ fun _ => ?_; subst y; rotate_left; clear_value y)
         | clear_value y | skip)
    | ((with_reducible apply Only.step (advanceEntry_only ..)); (case hs => decide))
    | ((with_reducible apply Only.step (repairRow_only ..)); (case hs => decide))
    | split

theorem execFullWake_only (n : Nat) (s : State) :
    Runs (Part.but [.fuses, .pins, .pending]) s (execFullWake n s) := by
  unfold execFullWake
  repeat' first
    | with_reducible apply Runs.next
    | with_reducible exact Only.refl _
    | with_reducible assumption
    | (extract_lets +onlyGivenNames y
       first
         | (refine Only.have_ y ?_ fun _ => ?_; subst y; rotate_left; clear_value y)
         | clear_value y | skip)
    | ((with_reducible apply Only.step (fullWake_only ..)); (case hs => decide))
    | split

theorem execWakeTimer_only (s : State) :
    Runs (Part.but [.fuses, .pins, .pending]) s (execWakeTimer s) := by
  unfold execWakeTimer
  repeat' first
    | with_reducible apply Runs.next
    | with_reducible exact Only.refl _
    | with_reducible assumption
    | (extract_lets +onlyGivenNames y
       first
         | (refine Only.have_ y ?_ fun _ => ?_; subst y; rotate_left; clear_value y)
         | clear_value y | skip)
    | ((with_reducible apply Only.step (fullWake_only ..)); (case hs => decide))
    | ((with_reducible apply Only.step (advanceTo_only ..)); (case hs => decide))
    | split

theorem execServiceWake_only (n : Nat) (s : State) :
    Runs (Part.but [.now, .fuses, .flash, .pins, .pending]) s (execServiceWake n s) := by
  unfold execServiceWake
  repeat' first
    | with_reducible apply Runs.next
    | with_reducible exact Only.refl _
    | with_reducible assumption
    | (extract_lets +onlyGivenNames y
       first
         | (refine Only.have_ y ?_ fun _ => ?_; subst y; rotate_left; clear_value y)
         | (have _z : PowerSt := y; subst y) | clear_value y | skip)
    | ((with_reducible apply Only.step (startService_only ..)); (case hs => decide))
    | split
    | with_reducible refine Only.upd_power ?_

theorem execServiceWakeTimeout_only (s : State) :
    Runs (Part.but [.fuses, .flash, .pins, .pending]) s (execServiceWakeTimeout s) := by
  unfold execServiceWakeTimeout
  repeat' first
    | with_reducible apply Runs.next
    | with_reducible exact Only.refl _
    | with_reducible assumption
    | (extract_lets +onlyGivenNames y
       first
         | (refine Only.have_ y ?_ fun _ => ?_; subst y; rotate_left; clear_value y)
         | clear_value y | skip)
    | ((with_reducible apply Only.step (stepFour_only ..)); (case hs => decide))
    | ((with_reducible apply Only.step (raise_only ..)); (case hs => decide))
    | ((with_reducible apply Only.step (advanceTo_only ..)); (case hs => decide))
    | split

theorem execResourceReadyTimeout_only (r : Resource) (s : State) :
    Runs [.results, .events, .ports, .storeQueue, .heldEvents, .stag, .clocks, .out, .panel, .dram, .sram, .resil, .power] s (execResourceReadyTimeout r s) := by
  unfold execResourceReadyTimeout
  repeat' first
    | with_reducible apply Runs.next
    | with_reducible exact Only.refl _
    | with_reducible assumption
    | (extract_lets +onlyGivenNames y
       first
         | (refine Only.have_ y ?_ fun _ => ?_; subst y; rotate_left; clear_value y)
         | (have _z : PowerSt := y; subst y) | (have _z : ResilSt := y; subst y) | clear_value y | skip)
    | ((with_reducible apply Only.step (resourceFails_only ..)); (case hs => decide))
    | ((with_reducible apply Only.step (raise_only ..)); (case hs => decide))
    | split
    | with_reducible refine Only.upd_power ?_
    | with_reducible refine Only.upd_resil ?_

theorem execPowerFailWarning_only (mv : Nat) (s : State) :
    Runs [.config, .shadow, .results, .events, .ports, .storeState, .storeQueue, .heldEvents, .link, .aux, .rx, .raster, .pipe, .out, .panel, .fstore, .dram, .sram, .resil, .power] s (execPowerFailWarning mv s) := by
  unfold execPowerFailWarning
  repeat' first
    | with_reducible apply Runs.next
    | with_reducible exact Only.refl _
    | with_reducible assumption
    | (extract_lets +onlyGivenNames y
       first
         | (refine Only.have_ y ?_ fun _ => ?_; subst y; rotate_left; clear_value y)
         | (have _z : PowerSt := y; subst y) | (have _z : PstoreSt := y; subst y) | clear_value y | skip)
    | ((with_reducible apply Only.step (lastProgram_only ..)); (case hs => decide))
    | ((with_reducible apply Only.step (setTransition_only ..)); (case hs => decide))
    | ((with_reducible apply Only.step (panelEmergency_only ..)); (case hs => decide))
    | ((with_reducible apply Only.step (raise_only ..)); (case hs => decide))
    | ((with_reducible apply Only.step (flushGather_only ..)); (case hs => decide))
    | split
    | with_reducible refine Only.upd_storeState_power ?_
    | with_reducible refine Only.upd_power ?_

theorem execPowerFailRecovery_only (s : State) :
    Runs (Part.but [.fuses, .flash, .pins, .pending]) s (execPowerFailRecovery s) := by
  unfold execPowerFailRecovery
  repeat' first
    | with_reducible apply Runs.next
    | with_reducible exact Only.refl _
    | with_reducible assumption
    | (extract_lets +onlyGivenNames y
       first
         | (refine Only.have_ y ?_ fun _ => ?_; subst y; rotate_left; clear_value y)
         | clear_value y | skip)
    | ((with_reducible apply Only.step (resetDevice_only ..)); (case hs => decide))
    | ((with_reducible apply Only.step (advanceTo_only ..)); (case hs => decide))
    | split

end Sys2Proof.Machine
end

