-- ==== Sys2Proof/Laws/FramesPanelRows.lean ====
section
/-! SUPPORT. What each definition of Machine/PanelRows.lean changes. -/

set_option Elab.async false

set_option linter.tactic.unusedName false

namespace Sys2Proof.Machine

theorem pgoodLost_only (pin : Nat) (s : State) :
    Only (Part.but [.fuses, .pins, .pending]) s (pgoodLost pin s) := by
  unfold pgoodLost
  repeat' first
    | with_reducible exact Only.refl _
    | with_reducible assumption
    | (extract_lets +onlyGivenNames y
       first
         | (refine Only.have_ y ?_ fun _ => ?_; subst y; rotate_left; clear_value y)
         | (have _z : PanelSt := y; subst y) | clear_value y | skip)
    | ((with_reducible apply Only.step (afterPanel_only ..)); (case hs => decide))
    | ((with_reducible apply Only.step (runSeq_only ..)); (case hs => decide))
    | ((with_reducible apply Only.step (panelFails_only ..)); (case hs => decide))
    | ((with_reducible apply Only.step (beginSeq_only ..)); (case hs => decide))
    | ((with_reducible apply Only.step (raise_only ..)); (case hs => decide))
    | ((with_reducible apply Only.step (incSat_only ..)); (case hs => decide))
    | ((with_reducible apply Only.step (advanceTo_only ..)); (case hs => decide))
    | split
    | with_reducible refine Only.upd_panel ?_

theorem avddSample_only (mv : Nat) (s : State) :
    Only [.results, .events, .ports, .storeQueue, .heldEvents, .panel] s (avddSample mv s) := by
  unfold avddSample
  repeat' first
    | with_reducible exact Only.refl _
    | with_reducible assumption
    | (extract_lets +onlyGivenNames y
       first
         | (refine Only.have_ y ?_ fun _ => ?_; subst y; rotate_left; clear_value y)
         | (have _z : PanelSt := y; subst y) | clear_value y | skip)
    | ((with_reducible apply Only.step (clipRefs_only ..)); (case hs => decide))
    | ((with_reducible apply Only.step (raise_only ..)); (case hs => decide))
    | ((with_reducible apply Only.step (setRes_only ..)); (case hs => decide))
    | split
    | with_reducible refine Only.upd_panel ?_

theorem execPgoodChange_only (pin : Nat) (level : Bool) (s : State) :
    Runs (Part.but [.fuses, .pins, .pending]) s (execPgoodChange pin level s) := by
  unfold execPgoodChange
  repeat' first
    | with_reducible apply Runs.next
    | with_reducible exact Only.refl _
    | with_reducible assumption
    | (extract_lets +onlyGivenNames y
       first
         | (refine Only.have_ y ?_ fun _ => ?_; subst y; rotate_left; clear_value y)
         | (have _z : PanelSt := y; subst y) | clear_value y | skip)
    | ((with_reducible apply Only.step (afterPanel_only ..)); (case hs => decide))
    | ((with_reducible apply Only.step (afterWait_only ..)); (case hs => decide))
    | ((with_reducible apply Only.step (beginDelay_only ..)); (case hs => decide))
    | ((with_reducible apply Only.step (changeRes_only ..)); (case hs => decide))
    | split
    | with_reducible refine Only.upd_panel ?_

theorem execPgoodLost_only (pin : Nat) (s : State) :
    Runs (Part.but [.fuses, .pins, .pending]) s (execPgoodLost pin s) := by
  unfold execPgoodLost
  repeat' first
    | with_reducible apply Runs.next
    | with_reducible exact Only.refl _
    | with_reducible assumption
    | (extract_lets +onlyGivenNames y
       first
         | (refine Only.have_ y ?_ fun _ => ?_; subst y; rotate_left; clear_value y)
         | clear_value y | skip)
    | ((with_reducible apply Only.step (pgoodLost_only ..)); (case hs => decide))

theorem execSeqDelayExpiry_only (s : State) :
    Runs (Part.but [.fuses, .pins, .pending]) s (execSeqDelayExpiry s) := by
  unfold execSeqDelayExpiry
  repeat' first
    | with_reducible apply Runs.next
    | with_reducible exact Only.refl _
    | with_reducible assumption
    | (extract_lets +onlyGivenNames y
       first
         | (refine Only.have_ y ?_ fun _ => ?_; subst y; rotate_left; clear_value y)
         | clear_value y | skip)
    | ((with_reducible apply Only.step (afterPanel_only ..)); (case hs => decide))
    | ((with_reducible apply Only.step (nextStep_only ..)); (case hs => decide))
    | ((with_reducible apply Only.step (advanceTo_only ..)); (case hs => decide))
    | split

theorem execSeqStepTimeout_only (s : State) :
    Runs (Part.but [.fuses, .pins, .pending]) s (execSeqStepTimeout s) := by
  unfold execSeqStepTimeout
  repeat' first
    | with_reducible apply Runs.next
    | with_reducible exact Only.refl _
    | with_reducible assumption
    | (extract_lets +onlyGivenNames y
       first
         | (refine Only.have_ y ?_ fun _ => ?_; subst y; rotate_left; clear_value y)
         | clear_value y | skip)
    | ((with_reducible apply Only.step (afterPanel_only ..)); (case hs => decide))
    | ((with_reducible apply Only.step (stepFails_only ..)); (case hs => decide))
    | ((with_reducible apply Only.step (advanceTo_only ..)); (case hs => decide))
    | split

theorem execPmbusWriteDone_only (r : PmbusResult) (s : State) :
    Runs (Part.but [.fuses, .pins, .pending]) s (execPmbusWriteDone r s) := by
  unfold execPmbusWriteDone
  repeat' first
    | with_reducible apply Runs.next
    | with_reducible exact Only.refl _
    | with_reducible assumption
    | (extract_lets +onlyGivenNames y
       first
         | (refine Only.have_ y ?_ fun _ => ?_; subst y; rotate_left; clear_value y)
         | (have _z : PanelSt := y; subst y) | clear_value y | skip)
    | ((with_reducible apply Only.step (afterPanel_only ..)); (case hs => decide))
    | ((with_reducible apply Only.step (stepFails_only ..)); (case hs => decide))
    | ((with_reducible apply Only.step (actionDone_only ..)); (case hs => decide))
    | ((with_reducible apply Only.step (raise_only ..)); (case hs => decide))
    | ((with_reducible apply Only.step (incSat_only ..)); (case hs => decide))
    | split
    | with_reducible refine Only.upd_panel ?_

theorem execPmbusRetryTimer_only (s : State) :
    Runs [.now, .panel] s (execPmbusRetryTimer s) := by
  unfold execPmbusRetryTimer
  repeat' first
    | with_reducible apply Runs.next
    | with_reducible exact Only.refl _
    | with_reducible assumption
    | (extract_lets +onlyGivenNames y
       first
         | (refine Only.have_ y ?_ fun _ => ?_; subst y; rotate_left; clear_value y)
         | (have _z : PanelSt := y; subst y) | clear_value y | skip)
    | ((with_reducible apply Only.step (advanceTo_only ..)); (case hs => decide))
    | split
    | with_reducible refine Only.upd_panel ?_

theorem execRefSettled_only (s : State) :
    Runs (Part.but [.fuses, .pins, .pending]) s (execRefSettled s) := by
  unfold execRefSettled
  repeat' first
    | with_reducible apply Runs.next
    | with_reducible exact Only.refl _
    | with_reducible assumption
    | (extract_lets +onlyGivenNames y
       first
         | (refine Only.have_ y ?_ fun _ => ?_; subst y; rotate_left; clear_value y)
         | clear_value y | skip)
    | ((with_reducible apply Only.step (afterPanel_only ..)); (case hs => decide))
    | ((with_reducible apply Only.step (actionDone_only ..)); (case hs => decide))
    | split

theorem execMetAfter1Ms_only (s : State) :
    Runs (Part.but [.fuses, .pins, .pending]) s (execMetAfter1Ms s) := by
  unfold execMetAfter1Ms
  repeat' first
    | with_reducible apply Runs.next
    | with_reducible exact Only.refl _
    | with_reducible assumption
    | (extract_lets +onlyGivenNames y
       first
         | (refine Only.have_ y ?_ fun _ => ?_; subst y; rotate_left; clear_value y)
         | clear_value y | skip)
    | ((with_reducible apply Only.step (afterPanel_only ..)); (case hs => decide))
    | ((with_reducible apply Only.step (actionDone_only ..)); (case hs => decide))
    | ((with_reducible apply Only.step (advanceTo_only ..)); (case hs => decide))
    | split

theorem execPumpOutOfRegulation_only (mv : Int) (s : State) :
    Runs [.results, .events, .ports, .storeQueue, .heldEvents, .panel] s (execPumpOutOfRegulation mv s) := by
  unfold execPumpOutOfRegulation
  repeat' first
    | with_reducible apply Runs.next
    | with_reducible exact Only.refl _
    | with_reducible assumption
    | (extract_lets +onlyGivenNames y
       first
         | (refine Only.have_ y ?_ fun _ => ?_; subst y; rotate_left; clear_value y)
         | clear_value y | skip)
    | ((with_reducible apply Only.step (setPump_only ..)); (case hs => decide))
    | ((with_reducible apply Only.step (raise_only ..)); (case hs => decide))
    | ((with_reducible apply Only.step (setResI_only ..)); (case hs => decide))
    | split

theorem execPumpRegulating_only (mv : Int) (s : State) :
    Runs (Part.but [.fuses, .pins, .pending]) s (execPumpRegulating mv s) := by
  unfold execPumpRegulating
  repeat' first
    | with_reducible apply Runs.next
    | with_reducible exact Only.refl _
    | with_reducible assumption
    | (extract_lets +onlyGivenNames y
       first
         | (refine Only.have_ y ?_ fun _ => ?_; subst y; rotate_left; clear_value y)
         | clear_value y | skip)
    | ((with_reducible apply Only.step (afterPanel_only ..)); (case hs => decide))
    | ((with_reducible apply Only.step (actionDone_only ..)); (case hs => decide))
    | ((with_reducible apply Only.step (setPump_only ..)); (case hs => decide))
    | ((with_reducible apply Only.step (raise_only ..)); (case hs => decide))
    | ((with_reducible apply Only.step (setResI_only ..)); (case hs => decide))
    | split

theorem execDischargeHoldEnd_only (s : State) :
    Runs (Part.but [.fuses, .pins, .pending]) s (execDischargeHoldEnd s) := by
  unfold execDischargeHoldEnd
  repeat' first
    | with_reducible apply Runs.next
    | with_reducible exact Only.refl _
    | with_reducible assumption
    | (extract_lets +onlyGivenNames y
       first
         | (refine Only.have_ y ?_ fun _ => ?_; subst y; rotate_left; clear_value y)
         | (have _z : PanelSt := y; subst y) | clear_value y | skip)
    | ((with_reducible apply Only.step (afterPanel_only ..)); (case hs => decide))
    | ((with_reducible apply Only.step (actionDone_only ..)); (case hs => decide))
    | ((with_reducible apply Only.step (advanceTo_only ..)); (case hs => decide))
    | split
    | with_reducible refine Only.upd_panel ?_

theorem execAvddRefSample_only (mv : Nat) (s : State) :
    Runs [.now, .results, .events, .ports, .storeQueue, .heldEvents, .panel] s (execAvddRefSample mv s) := by
  unfold execAvddRefSample
  repeat' first
    | with_reducible apply Runs.next
    | with_reducible exact Only.refl _
    | with_reducible assumption
    | (extract_lets +onlyGivenNames y
       first
         | (refine Only.have_ y ?_ fun _ => ?_; subst y; rotate_left; clear_value y)
         | clear_value y | skip)
    | ((with_reducible apply Only.step (avddSample_only ..)); (case hs => decide))
    | ((with_reducible apply Only.step (advanceTo_only ..)); (case hs => decide))
    | split

theorem execDriverStatus_only (p : Nat) (bs : List Block) (s : State) :
    Runs (Part.but [.fuses, .pins, .pending]) s (execDriverStatus p bs s) := by
  unfold execDriverStatus
  repeat' first
    | with_reducible apply Runs.next
    | with_reducible exact Only.refl _
    | with_reducible assumption
    | (extract_lets +onlyGivenNames y
       first
         | (refine Only.have_ y ?_ fun _ => ?_; subst y; rotate_left; clear_value y)
         | clear_value y | skip)
    | ((with_reducible apply Only.step (afterPanel_only ..)); (case hs => decide))
    | ((with_reducible apply Only.step (othamStep_only ..)); (case hs => decide))
    | ((with_reducible apply Only.step (driverStatus_only ..)); (case hs => decide))

theorem execOthamTrainingTimer_only (p : Nat) (s : State) :
    Runs (Part.but [.fuses, .pins, .pending]) s (execOthamTrainingTimer p s) := by
  unfold execOthamTrainingTimer
  repeat' first
    | with_reducible apply Runs.next
    | with_reducible exact Only.refl _
    | with_reducible assumption
    | (extract_lets +onlyGivenNames y
       first
         | (refine Only.have_ y ?_ fun _ => ?_; subst y; rotate_left; clear_value y)
         | clear_value y | skip)
    | ((with_reducible apply Only.step (afterPanel_only ..)); (case hs => decide))
    | ((with_reducible apply Only.step (othamStep_only ..)); (case hs => decide))
    | ((with_reducible apply Only.step (trainingTimer_only ..)); (case hs => decide))

end Sys2Proof.Machine
end

