-- ==== Sys2Proof/Laws/FramesStag.lean ====
section
/-! SUPPORT. What each definition of Machine/Stag.lean changes. -/

set_option Elab.async false

set_option linter.tactic.unusedName false

namespace Sys2Proof.Machine

theorem thermEvent_only (was : Bool) (now_ : Bool) (code : Nat) (h : Nat) (n : Nat) (t : Int) (s : State) :
    Only [.results, .events, .ports, .storeQueue, .heldEvents] s (thermEvent was now_ code h n t s) := by
  unfold thermEvent
  repeat' first
    | with_reducible exact Only.refl _
    | with_reducible assumption
    | (extract_lets +onlyGivenNames y
       first
         | (refine Only.have_ y ?_ fun _ => ?_; subst y; rotate_left; clear_value y)
         | clear_value y | skip)
    | ((with_reducible apply Only.step (raise_only ..)); (case hs => decide))
    | split

theorem thermSample_only (n : Nat) (t : Int) (s : State) :
    Only [.results, .events, .ports, .storeQueue, .heldEvents, .sensors, .resil, .power] s (thermSample n t s) := by
  unfold thermSample
  repeat' first
    | with_reducible exact Only.refl _
    | with_reducible assumption
    | (extract_lets +onlyGivenNames y
       first
         | (refine Only.have_ y ?_ fun _ => ?_; subst y; rotate_left; clear_value y)
         | (have _z : StagSt := y; subst y) | clear_value y | skip)
    | ((with_reducible apply Only.step (thermEvent_only ..)); (case hs => decide))
    | ((with_reducible apply Only.step (beginTransition_only ..)); (case hs => decide))
    | ((with_reducible apply Only.step (settle_only ..)); (case hs => decide))
    | ((with_reducible apply Only.step (unitsUp_only ..)); (case hs => decide))
    | ((with_reducible apply Only.step (setResI_only ..)); (case hs => decide))
    | split
    | with_reducible refine Only.upd_sensors ?_

theorem setVmon_only (n : Nat) (x : VmonSt) (s : State) :
    Only [.sensors] s (setVmon n x s) := by
  unfold setVmon
  repeat' first
    | with_reducible exact Only.refl _
    | with_reducible assumption
    | (extract_lets +onlyGivenNames y
       first
         | (refine Only.have_ y ?_ fun _ => ?_; subst y; rotate_left; clear_value y)
         | (have _z : StagSt := y; subst y) | clear_value y | skip)
    | with_reducible refine Only.upd_sensors ?_

theorem showRail_only (h : Nat) (mv : Nat) (first : Bool) (s : State) :
    Only [.results] s (showRail h mv first s) := by
  unfold showRail
  repeat' first
    | with_reducible exact Only.refl _
    | with_reducible assumption
    | (extract_lets +onlyGivenNames y
       first
         | (refine Only.have_ y ?_ fun _ => ?_; subst y; rotate_left; clear_value y)
         | clear_value y | skip)
    | ((with_reducible apply Only.step (setRes_only ..)); (case hs => decide))
    | split

theorem railSample_only (n : Nat) (mv : Nat) (s : State) :
    Only [.results, .events, .ports, .storeQueue, .heldEvents, .sensors] s (railSample n mv s) := by
  unfold railSample
  repeat' first
    | with_reducible exact Only.refl _
    | with_reducible assumption
    | (extract_lets +onlyGivenNames y
       first
         | (refine Only.have_ y ?_ fun _ => ?_; subst y; rotate_left; clear_value y)
         | clear_value y | skip)
    | ((with_reducible apply Only.step (showRail_only ..)); (case hs => decide))
    | ((with_reducible apply Only.step (setVmon_only ..)); (case hs => decide))
    | ((with_reducible apply Only.step (raise_only ..)); (case hs => decide))
    | split

theorem setNtc_only (n : Nat) (x : NtcSt) (s : State) :
    Only [.sensors] s (setNtc n x s) := by
  unfold setNtc
  repeat' first
    | with_reducible exact Only.refl _
    | with_reducible assumption
    | (extract_lets +onlyGivenNames y
       first
         | (refine Only.have_ y ?_ fun _ => ?_; subst y; rotate_left; clear_value y)
         | (have _z : StagSt := y; subst y) | clear_value y | skip)
    | with_reducible refine Only.upd_sensors ?_

theorem judgeNtc_only (n : Nat) (cause : Option Nat) (code : Nat) (t : Int) (s : State) :
    Only [.results, .events, .ports, .storeQueue, .heldEvents, .sensors] s (judgeNtc n cause code t s) := by
  unfold judgeNtc
  repeat' first
    | with_reducible exact Only.refl _
    | with_reducible assumption
    | (extract_lets +onlyGivenNames y
       first
         | (refine Only.have_ y ?_ fun _ => ?_; subst y; rotate_left; clear_value y)
         | clear_value y | skip)
    | ((with_reducible apply Only.step (setNtc_only ..)); (case hs => decide))
    | ((with_reducible apply Only.step (raise_only ..)); (case hs => decide))
    | ((with_reducible apply Only.step (changeRes_only ..)); (case hs => decide))
    | split

theorem ntcStale_only (n : Nat) (s : State) :
    Only [.results, .events, .ports, .storeQueue, .heldEvents, .sensors] s (ntcStale n s) := by
  unfold ntcStale
  repeat' first
    | with_reducible exact Only.refl _
    | with_reducible assumption
    | (extract_lets +onlyGivenNames y
       first
         | (refine Only.have_ y ?_ fun _ => ?_; subst y; rotate_left; clear_value y)
         | clear_value y | skip)
    | ((with_reducible apply Only.step (judgeNtc_only ..)); (case hs => decide))
    | split

theorem takeCode_only (n : Nat) (code : Nat) (s : State) :
    Only [.results, .events, .ports, .storeQueue, .heldEvents, .sensors, .free] s (takeCode n code s) := by
  unfold takeCode
  repeat' first
    | with_reducible exact Only.refl _
    | with_reducible assumption
    | (extract_lets +onlyGivenNames y
       first
         | (refine Only.have_ y ?_ fun _ => ?_; subst y; rotate_left; clear_value y)
         | clear_value y | skip)
    | ((with_reducible apply Only.step (judgeNtc_only ..)); (case hs => decide))
    | ((with_reducible apply Only.step (setNtc_only ..)); (case hs => decide))
    | ((with_reducible apply Only.step (setRes_only ..)); (case hs => decide))
    | ((with_reducible apply Only.step (setResI_only ..)); (case hs => decide))
    | ((with_reducible apply Only.step (draw_only ..)); (case hs => decide))
    | (with_reducible apply Only.foldl)
    | intro t a ht
    | (split <;> refine Only.have_ _ (Only.snd ?_ (by assumption)) fun _ => ?_)
    | split

theorem restartNtc_only (n : Nat) (s : State) :
    Only [.results, .sensors] s (restartNtc n s) := by
  unfold restartNtc
  repeat' first
    | with_reducible exact Only.refl _
    | with_reducible assumption
    | (extract_lets +onlyGivenNames y
       first
         | (refine Only.have_ y ?_ fun _ => ?_; subst y; rotate_left; clear_value y)
         | clear_value y | skip)
    | ((with_reducible apply Only.step (setNtc_only ..)); (case hs => decide))
    | ((with_reducible apply Only.step (changeRes_only ..)); (case hs => decide))

theorem setUtc_only (v : Nat) (s : State) :
    Only [.results, .events, .ports, .storeQueue, .heldEvents, .clocks] s (setUtc v s) := by
  unfold setUtc
  repeat' first
    | with_reducible exact Only.refl _
    | with_reducible assumption
    | (extract_lets +onlyGivenNames y
       first
         | (refine Only.have_ y ?_ fun _ => ?_; subst y; rotate_left; clear_value y)
         | (have _z : StagSt := y; subst y) | clear_value y | skip)
    | ((with_reducible apply Only.step (showClocks_only ..)); (case hs => decide))
    | ((with_reducible apply Only.step (raise_only ..)); (case hs => decide))
    | ((with_reducible apply Only.step (setRes_only ..)); (case hs => decide))
    | with_reducible refine Only.upd_clocks ?_

theorem execLockstepMismatch_only (s : State) :
    Runs [.results, .events, .ports, .storeQueue, .heldEvents, .stag, .resil] s (execLockstepMismatch s) := by
  unfold execLockstepMismatch
  repeat' first
    | with_reducible apply Runs.next
    | with_reducible exact Only.refl _
    | with_reducible assumption
    | (extract_lets +onlyGivenNames y
       first
         | (refine Only.have_ y ?_ fun _ => ?_; subst y; rotate_left; clear_value y)
         | clear_value y | skip)
    | ((with_reducible apply Only.step (restartStag_only ..)); (case hs => decide))
    | split

theorem execWatchdogExpiry_only (s : State) :
    Runs [.results, .events, .ports, .storeQueue, .heldEvents, .stag, .resil] s (execWatchdogExpiry s) := by
  unfold execWatchdogExpiry
  repeat' first
    | with_reducible apply Runs.next
    | with_reducible exact Only.refl _
    | with_reducible assumption
    | (extract_lets +onlyGivenNames y
       first
         | (refine Only.have_ y ?_ fun _ => ?_; subst y; rotate_left; clear_value y)
         | clear_value y | skip)
    | ((with_reducible apply Only.step (restartStag_only ..)); (case hs => decide))
    | split

theorem execConfirmTimeout_only (s : State) :
    Runs [.now, .results, .events, .ports, .storeQueue, .tallies, .heldEvents, .stag, .slots, .resil] s (execConfirmTimeout s) := by
  unfold execConfirmTimeout
  repeat' first
    | with_reducible apply Runs.next
    | with_reducible exact Only.refl _
    | with_reducible assumption
    | (extract_lets +onlyGivenNames y
       first
         | (refine Only.have_ y ?_ fun _ => ?_; subst y; rotate_left; clear_value y)
         | clear_value y | skip)
    | ((with_reducible apply Only.step (confirmImage_only ..)); (case hs => decide))
    | ((with_reducible apply Only.step (settle_only ..)); (case hs => decide))
    | ((with_reducible apply Only.step (advanceTo_only ..)); (case hs => decide))
    | split

theorem execImageVerified_only (s : State) :
    Runs [.results, .events, .ports, .storeQueue, .heldEvents] s (execImageVerified s) := by
  unfold execImageVerified
  repeat' first
    | with_reducible apply Runs.next
    | with_reducible exact Only.refl _
    | with_reducible assumption
    | (extract_lets +onlyGivenNames y
       first
         | (refine Only.have_ y ?_ fun _ => ?_; subst y; rotate_left; clear_value y)
         | clear_value y | skip)
    | ((with_reducible apply Only.step (imageVerified_only ..)); (case hs => decide))
    | split

theorem execFlashOperationComplete_only (ok : Bool) (s : State) :
    Runs (Part.but [.now, .fuses, .pins, .pending]) s (execFlashOperationComplete ok s) := by
  unfold execFlashOperationComplete
  repeat' first
    | with_reducible apply Runs.next
    | with_reducible exact Only.refl _
    | with_reducible assumption
    | (extract_lets +onlyGivenNames y
       first
         | (refine Only.have_ y ?_ fun _ => ?_; subst y; rotate_left; clear_value y)
         | clear_value y | skip)
    | ((with_reducible apply Only.step (advanceEntry_only ..)); (case hs => decide))
    | ((with_reducible apply Only.step (restartStag_only ..)); (case hs => decide))
    | ((with_reducible apply Only.step (flashDone_only ..)); (case hs => decide))
    | ((with_reducible apply Only.step (saveAfter_only ..)); (case hs => decide))
    | split

theorem execMapSaveComplete_only (failed : Option (Nat × Nat)) (s : State) :
    Runs (Part.but [.now, .fuses, .pins, .pending]) s (execMapSaveComplete failed s) := by
  unfold execMapSaveComplete
  repeat' first
    | with_reducible apply Runs.next
    | with_reducible exact Only.refl _
    | with_reducible assumption
    | (extract_lets +onlyGivenNames y
       first
         | (refine Only.have_ y ?_ fun _ => ?_; subst y; rotate_left; clear_value y)
         | clear_value y | skip)
    | ((with_reducible apply Only.step (advanceEntry_only ..)); (case hs => decide))
    | ((with_reducible apply Only.step (endSave_only ..)); (case hs => decide))
    | split

theorem execMigrationComplete_only (lost : Bool) (s : State) :
    Runs [.results, .events, .ports, .storeQueue, .heldEvents, .flash, .pipe, .dram, .free] s (execMigrationComplete lost s) := by
  unfold execMigrationComplete
  repeat' first
    | with_reducible apply Runs.next
    | with_reducible exact Only.refl _
    | with_reducible assumption
    | (extract_lets +onlyGivenNames y
       first
         | (refine Only.have_ y ?_ fun _ => ?_; subst y; rotate_left; clear_value y)
         | clear_value y | skip)
    | ((with_reducible apply Only.step (recoverMaps_only ..)); (case hs => decide))
    | ((with_reducible apply Only.step (endMigration_only ..)); (case hs => decide))
    | split

theorem execThermalSample_only (n : Nat) (t : Int) (s : State) :
    Runs [.now, .results, .events, .ports, .storeQueue, .heldEvents, .sensors, .resil, .power] s (execThermalSample n t s) := by
  unfold execThermalSample
  repeat' first
    | with_reducible apply Runs.next
    | with_reducible exact Only.refl _
    | with_reducible assumption
    | (extract_lets +onlyGivenNames y
       first
         | (refine Only.have_ y ?_ fun _ => ?_; subst y; rotate_left; clear_value y)
         | clear_value y | skip)
    | ((with_reducible apply Only.step (thermSample_only ..)); (case hs => decide))
    | ((with_reducible apply Only.step (advanceTo_only ..)); (case hs => decide))
    | split

theorem execVoltageSample_only (n : Nat) (mv : Nat) (s : State) :
    Runs [.now, .results, .events, .ports, .storeQueue, .heldEvents, .sensors] s (execVoltageSample n mv s) := by
  unfold execVoltageSample
  repeat' first
    | with_reducible apply Runs.next
    | with_reducible exact Only.refl _
    | with_reducible assumption
    | (extract_lets +onlyGivenNames y
       first
         | (refine Only.have_ y ?_ fun _ => ?_; subst y; rotate_left; clear_value y)
         | clear_value y | skip)
    | ((with_reducible apply Only.step (railSample_only ..)); (case hs => decide))
    | ((with_reducible apply Only.step (advanceTo_only ..)); (case hs => decide))
    | split

theorem execNtcSample_only (n : Nat) (code : Nat) (s : State) :
    Runs [.now, .results, .events, .ports, .storeQueue, .heldEvents, .sensors, .free] s (execNtcSample n code s) := by
  unfold execNtcSample
  repeat' first
    | with_reducible apply Runs.next
    | with_reducible exact Only.refl _
    | with_reducible assumption
    | (extract_lets +onlyGivenNames y
       first
         | (refine Only.have_ y ?_ fun _ => ?_; subst y; rotate_left; clear_value y)
         | clear_value y | skip)
    | ((with_reducible apply Only.step (takeCode_only ..)); (case hs => decide))
    | ((with_reducible apply Only.step (ntcStale_only ..)); (case hs => decide))
    | ((with_reducible apply Only.step (advanceTo_only ..)); (case hs => decide))
    | split

theorem execOperatingMinute_only (s : State) :
    Runs [.now, .results, .events, .ports, .storeQueue, .tallies, .heldEvents, .clocks] s (execOperatingMinute s) := by
  unfold execOperatingMinute
  repeat' first
    | with_reducible apply Runs.next
    | with_reducible exact Only.refl _
    | with_reducible assumption
    | (extract_lets +onlyGivenNames y
       first
         | (refine Only.have_ y ?_ fun _ => ?_; subst y; rotate_left; clear_value y)
         | (have _z : StagSt := y; subst y) | clear_value y | skip)
    | ((with_reducible apply Only.step (incTally_only ..)); (case hs => decide))
    | ((with_reducible apply Only.step (raise_only ..)); (case hs => decide))
    | ((with_reducible apply Only.step (advanceTo_only ..)); (case hs => decide))
    | split
    | with_reducible refine Only.upd_clocks ?_

end Sys2Proof.Machine
end

