-- ==== Sys2Proof/Laws/FramesRequests.lean ====
section
/-! SUPPORT. What each definition of Machine/Requests.lean changes. -/

set_option Elab.async false

set_option linter.tactic.unusedName false

namespace Sys2Proof.Machine

theorem respond_only (r : Req) (status : Nat) (payload : List Nat) (keep : Bool) (s : State) :
    Only [.results, .ports, .can, .aux] s (respond r status payload keep s) := by
  unfold respond
  repeat' first
    | with_reducible exact Only.refl _
    | with_reducible assumption
    | (extract_lets +onlyGivenNames y
       first
         | (refine Only.have_ y ?_ fun _ => ?_; subst y; rotate_left; clear_value y)
         | clear_value y | skip)
    | ((with_reducible apply Only.step (announceCredits_only ..)); (case hs => decide))
    | ((with_reducible apply Only.step (pushOut_only ..)); (case hs => decide))
    | ((with_reducible apply Only.step (setPort_only ..)); (case hs => decide))
    | split

theorem answerBusy_only (r : Req) (ok : Bool) (s : State) :
    Only [.results, .requests, .ports, .can, .aux] s (answerBusy r ok s) := by
  unfold answerBusy
  repeat' first
    | with_reducible exact Only.refl _
    | with_reducible assumption
    | (extract_lets +onlyGivenNames y
       first
         | (refine Only.have_ y ?_ fun _ => ?_; subst y; rotate_left; clear_value y)
         | (have _z : CtrlSt := y; subst y) | clear_value y | skip)
    | ((with_reducible apply Only.step (respond_only ..)); (case hs => decide))
    | split
    | with_reducible refine Only.upd_requests ?_

theorem keyChangeDone_only (c : KeyChange) (ok : Bool) (s : State) :
    Only [.results, .events, .requests, .ports, .can, .storeQueue, .heldEvents, .aux] s (keyChangeDone c ok s) := by
  unfold keyChangeDone
  repeat' first
    | with_reducible exact Only.refl _
    | with_reducible assumption
    | (extract_lets +onlyGivenNames y
       first
         | (refine Only.have_ y ?_ fun _ => ?_; subst y; rotate_left; clear_value y)
         | (have _z : CtrlSt := y; subst y) | clear_value y | skip)
    | ((with_reducible apply Only.step (answerBusy_only ..)); (case hs => decide))
    | ((with_reducible apply Only.step (raise_only ..)); (case hs => decide))
    | split
    | with_reducible refine Only.upd_requests ?_

theorem programCompletes_only (p : Program) (ok : Bool) (s : State) :
    Only [.results, .events, .requests, .ports, .can, .storeState, .storeQueue, .tallies, .security, .heldEvents, .aux] s (programCompletes p ok s) := by
  unfold programCompletes
  repeat' first
    | with_reducible exact Only.refl _
    | with_reducible assumption
    | (extract_lets +onlyGivenNames y
       first
         | (refine Only.have_ y ?_ fun _ => ?_; subst y; rotate_left; clear_value y)
         | (have _z : PstoreSt := y; subst y) | clear_value y | skip)
    | ((with_reducible apply Only.step (keyProgramDone_only ..)); (case hs => decide))
    | ((with_reducible apply Only.step (keyChangeDone_only ..)); (case hs => decide))
    | ((with_reducible apply Only.step (answerBusy_only ..)); (case hs => decide))
    | ((with_reducible apply Only.step (completeProgram_only ..)); (case hs => decide))
    | (split <;> refine Only.have_ _ (Only.snd ?_ (by assumption)) fun _ => ?_)
    | split
    | with_reducible refine Only.upd_storeState ?_

theorem readOverlay_only (off : Nat) (n : Nat) (s : State) :
    Only [.results, .events, .counts, .ports, .storeQueue, .heldEvents, .free] s (readOverlay off n s).2 := by
  unfold readOverlay
  repeat' first
    | with_reducible exact Only.refl _
    | with_reducible assumption
    | (extract_lets +onlyGivenNames y
       first
         | (refine Only.have_ y ?_ fun _ => ?_; subst y; rotate_left; clear_value y)
         | clear_value y | skip)
    | ((with_reducible apply Only.step (wordUncorrectable_only ..)); (case hs => decide))
    | ((with_reducible apply Only.step (drawBytes_only ..)); (case hs => decide))
    | (with_reducible apply Only.foldl)
    | intro t a ht
    | (split <;> refine Only.have_ _ (Only.snd ?_ (by assumption)) fun _ => ?_)
    | split

theorem readBlob_only (h : Nat) (e : Entry) (off : Nat) (count : Nat) (s : State) :
    Only [.results, .events, .counts, .ports, .storeQueue, .heldEvents, .free] s (readBlob h e off count s).2 := by
  unfold readBlob
  repeat' first
    | with_reducible exact Only.refl _
    | with_reducible assumption
    | (extract_lets +onlyGivenNames y
       first
         | (refine Only.have_ y ?_ fun _ => ?_; subst y; rotate_left; clear_value y)
         | clear_value y | skip)
    | ((with_reducible apply Only.step (readOverlay_only ..)); (case hs => decide))
    | (split <;> refine Only.have_ _ (Only.snd ?_ (by assumption)) fun _ => ?_)
    | split

theorem freshen_only (h : Nat) (s : State) :
    Only [.results, .panel] s (freshen h s) := by
  unfold freshen
  repeat' first
    | with_reducible exact Only.refl _
    | with_reducible assumption
    | (extract_lets +onlyGivenNames y
       first
         | (refine Only.have_ y ?_ fun _ => ?_; subst y; rotate_left; clear_value y)
         | clear_value y | skip)
    | ((with_reducible apply Only.step (showClocks_only ..)); (case hs => decide))
    | ((with_reducible apply Only.step (biasDue_only ..)); (case hs => decide))
    | ((with_reducible apply Only.step (showBalance_only ..)); (case hs => decide))
    | ((with_reducible apply Only.step (showFading_only ..)); (case hs => decide))
    | ((with_reducible apply Only.step (settleToken_only ..)); (case hs => decide))
    | ((with_reducible apply Only.step (showLevels_only ..)); (case hs => decide))
    | ((with_reducible apply Only.step (changeRes_only ..)); (case hs => decide))
    | split

theorem readEntry_only (h : Nat) (e : Entry) (el : Option Nat) (payload : List Nat) (s : State) :
    Only [.results, .events, .counts, .ports, .storeQueue, .heldEvents, .panel, .free] s (readEntry h e el payload s).2 := by
  unfold readEntry
  repeat' first
    | with_reducible exact Only.refl _
    | with_reducible assumption
    | (extract_lets +onlyGivenNames y
       first
         | (refine Only.have_ y ?_ fun _ => ?_; subst y; rotate_left; clear_value y)
         | clear_value y | skip)
    | ((with_reducible apply Only.step (freshen_only ..)); (case hs => decide))
    | ((with_reducible apply Only.step (readBlob_only ..)); (case hs => decide))
    | (split <;> refine Only.have_ _ (Only.snd ?_ (by assumption)) fun _ => ?_)
    | split

theorem malformed_only (r : Req) (s : State) :
    Only [.results, .events, .ports, .storeQueue, .heldEvents] s (malformed r s) := by
  unfold malformed
  repeat' first
    | with_reducible exact Only.refl _
    | with_reducible assumption
    | (extract_lets +onlyGivenNames y
       first
         | (refine Only.have_ y ?_ fun _ => ?_; subst y; rotate_left; clear_value y)
         | clear_value y | skip)
    | ((with_reducible apply Only.step (raise_only ..)); (case hs => decide))

theorem finishRequest_only {ps : List Part} {s : State} (r : Req) {x : Answer × State}
    (hs : [.results, .events, .requests, .ports, .can, .storeQueue, .heldEvents, .aux].all (ps.contains ·) = true) (hx : AnsOnly ps s x) : Only ps s (finishRequest r x) := by
  obtain ⟨a, t⟩ := x
  unfold finishRequest
  dsimp only
  have hm : Only [.results, .events, .requests, .ports, .can, .storeQueue, .heldEvents, .aux] t (if a.status = stBAD_FORM then malformed r t else t) := by
    split
    · exact (malformed_only ..).mono (by decide)
    · exact Only.refl _
  split
  · exact hx.now.trans ((Only.upd_requests (Only.refl _) (by decide)).mono hs)
  · exact (hx.now.trans ((hm.trans ((respond_only ..).mono (by decide))).mono hs)).trans (hx.after _)

theorem commitNow_only (tag : Nat) (s : State) :
    Only [.now, .config, .shadow, .results, .events, .ports, .storeQueue, .heldEvents, .link, .aux, .rx, .raster, .pipe, .out, .panel, .fstore, .dram, .sram, .resil, .power] s (commitNow tag s) := by
  unfold commitNow
  repeat' first
    | with_reducible exact Only.refl _
    | with_reducible assumption
    | (extract_lets +onlyGivenNames y
       first
         | (refine Only.have_ y ?_ fun _ => ?_; subst y; rotate_left; clear_value y)
         | (have _z : DictSt := y; subst y) | clear_value y | skip)
    | ((with_reducible apply Only.step (rasterResume_only ..)); (case hs => decide))
    | ((with_reducible apply Only.step (applyAllCommits_only ..)); (case hs => decide))
    | ((with_reducible apply Only.step (showCommits_only ..)); (case hs => decide))
    | ((with_reducible apply Only.step (planRamp_only ..)); (case hs => decide))
    | ((with_reducible apply Only.step (showBuffers_only ..)); (case hs => decide))
    | ((with_reducible apply Only.step (clampPatch_only ..)); (case hs => decide))
    | ((with_reducible apply Only.step (clearShadow_only ..)); (case hs => decide))
    | (split <;> refine Only.have_ _ (Only.snd ?_ (by assumption)) fun _ => ?_)
    | split
    | with_reducible refine Only.upd_shadow ?_

theorem discardShadow_only (s : State) :
    Only [.shadow, .results] s (discardShadow s) := by
  unfold discardShadow
  repeat' first
    | with_reducible exact Only.refl _
    | with_reducible assumption
    | (extract_lets +onlyGivenNames y
       first
         | (refine Only.have_ y ?_ fun _ => ?_; subst y; rotate_left; clear_value y)
         | clear_value y | skip)
    | ((with_reducible apply Only.step (showBuffers_only ..)); (case hs => decide))
    | ((with_reducible apply Only.step (clearShadow_only ..)); (case hs => decide))

theorem afterNow_only (h : Nat) (p : Nat) (was : State) (s : State) :
    Only [.results, .events, .ports, .storeQueue, .heldEvents, .sensors, .out, .panel, .power] s (afterNow h p was s) := by
  unfold afterNow
  repeat' first
    | with_reducible exact Only.refl _
    | with_reducible assumption
    | (extract_lets +onlyGivenNames y
       first
         | (refine Only.have_ y ?_ fun _ => ?_; subst y; rotate_left; clear_value y)
         | clear_value y | skip)
    | ((with_reducible apply Only.step (restartNtc_only ..)); (case hs => decide))
    | ((with_reducible apply Only.step (clipRefs_only ..)); (case hs => decide))
    | ((with_reducible apply Only.step (keepWake_only ..)); (case hs => decide))
    | ((with_reducible apply Only.step (deliver_only ..)); (case hs => decide))
    | ((with_reducible apply Only.step (showBuffers_only ..)); (case hs => decide))
    | split

theorem restoreItem_only (h : Nat) (e : Entry) (s : State) :
    Only [.shadow, .results] s (restoreItem h e s) := by
  unfold restoreItem
  repeat' first
    | with_reducible exact Only.refl _
    | with_reducible assumption
    | (extract_lets +onlyGivenNames y
       first
         | (refine Only.have_ y ?_ fun _ => ?_; subst y; rotate_left; clear_value y)
         | (have _z : DictSt := y; subst y) | clear_value y | skip)
    | ((with_reducible apply Only.step (setItems_only ..)); (case hs => decide))
    | split
    | with_reducible refine Only.upd_shadow ?_

theorem restoreEntry_only (x : Nat × Entry) (s : State) :
    Only [.config, .shadow, .results, .events, .ports, .storeQueue, .heldEvents, .sensors, .out, .panel, .power] s (restoreEntry x s) := by
  unfold restoreEntry
  repeat' first
    | with_reducible exact Only.refl _
    | with_reducible assumption
    | (extract_lets +onlyGivenNames y
       first
         | (refine Only.have_ y ?_ fun _ => ?_; subst y; rotate_left; clear_value y)
         | clear_value y | skip)
    | ((with_reducible apply Only.step (restoreItem_only ..)); (case hs => decide))
    | ((with_reducible apply Only.step (afterNow_only ..)); (case hs => decide))
    | ((with_reducible apply Only.step (putValue_only ..)); (case hs => decide))
    | (with_reducible apply Only.foldl)
    | intro t a ht
    | split

theorem restoreDefaults_only (level tag : Nat) (s : State) :
    AnsOnly [.config, .shadow, .results, .events, .ports, .storeQueue, .heldEvents, .sensors, .out, .panel, .power] s (restoreDefaults level tag s) := by
  unfold restoreDefaults
  split
  · exact .plain (Only.refl _)
  · refine .plain (Only.step (raise_only ..) (by decide) (Only.step (setRes_only ..) (by decide)
      (Only.step (showBuffers_only ..) (by decide) (Only.foldl (fun t a ht => ?_) _ _ (Only.refl _)))))
    exact Only.step (restoreEntry_only ..) (by decide) ht

theorem storeNow_only (tag : Nat) (s : State) :
    AnsOnly [.results, .events, .ports, .storeState, .storeQueue, .heldEvents] s (storeNow tag s) := by
  unfold storeNow
  repeat' first
    | with_reducible exact Only.refl _
    | with_reducible assumption
    | (extract_lets +onlyGivenNames y; first | (refine AnsOnly.have_ y ?_ fun _ => ?_; subst y; rotate_left; clear_value y) | (refine Only.have_ y ?_ fun _ => ?_; subst y; rotate_left; clear_value y) | (have _z : PipeSt := y; subst y) | (have _z : SecSt := y; subst y) | (have _z : DictSt := y; subst y) | clear_value y)
    | with_reducible apply AnsOnly.plain
    | ((with_reducible apply AnsOnly.then_); (case hf => intro _t))
    | ((with_reducible apply Only.step (beginStore_only ..)); (case hs => decide))
    | with_reducible apply AnsOnly.orElse
    | split

theorem lifecycleRequest_only (r : Req) (target : Nat) (s : State) :
    AnsOnly [.results, .events, .requests, .ports, .storeQueue, .tallies, .fuses, .security, .heldEvents, .aux, .fstore, .sramMem, .sram, .resil, .free] s (lifecycleRequest r target s) := by
  unfold lifecycleRequest
  split
  · exact .plain (Only.refl _)
  · exact .then_ (fun u => Only.step (enterLifecycle_only ..) (by decide) (Only.upd_requests (Only.refl _) (by decide)))
      ((blowLifecycle_only ..).mono (by decide))

theorem writeDev_only (r : Req) (level p v : Nat) (s was : State) :
    AnsOnly2 (Part.but [.epoch, .counts, .can, .store, .stag, .slots, .image, .flash, .pins, .pending]) s was (writeDev r level p v s was) := by
  unfold writeDev
  split
  · exact .left (.plain ((commitNow_only ..).mono (by decide)))
  · split
    · exact .orElse ((storeNow_only ..).mono (by decide))
    · split
      · exact .orElse ((restoreDefaults_only ..).mono (by decide))
      · split
        · exact .left (.plain ((discardShadow_only ..).mono (by decide)))
        · split
          · exact .left (.plain ((setUtc_only ..).mono (by decide)))
          · split
            · exact .left (.plain ((powerRequest_only ..).mono (by decide)))
            · split
              · exact .left (.then_ (fun u => (restartCommand_only ..).mono (by decide)) (Only.refl _))
              · exact .orElse ((lifecycleRequest_only ..).mono (by decide))

theorem writeIntegratorKey_only (key : List Nat) (s : State) :
    AnsOnly [.storeQueue, .security] s (writeIntegratorKey key s) := by
  unfold writeIntegratorKey
  repeat' first
    | with_reducible exact Only.refl _
    | with_reducible assumption
    | (extract_lets +onlyGivenNames y; first | (refine AnsOnly.have_ y ?_ fun _ => ?_; subst y; rotate_left; clear_value y) | (refine Only.have_ y ?_ fun _ => ?_; subst y; rotate_left; clear_value y) | (have _z : PipeSt := y; subst y) | (have _z : SecSt := y; subst y) | (have _z : DictSt := y; subst y) | clear_value y)
    | with_reducible apply AnsOnly.plain
    | ((with_reducible apply AnsOnly.then_); (case hf => intro _t))
    | ((with_reducible apply Only.step (changeKeys_only ..)); (case hs => decide))
    | with_reducible apply AnsOnly.orElse
    | split

theorem writePassword_only (bs : List Nat) (s : State) :
    AnsOnly [.results, .storeQueue, .security, .free] s (writePassword bs s) := by
  unfold writePassword
  repeat' first
    | with_reducible exact Only.refl _
    | with_reducible assumption
    | (extract_lets +onlyGivenNames y; first | (refine AnsOnly.have_ y ?_ fun _ => ?_; subst y; rotate_left; clear_value y) | (refine Only.have_ y ?_ fun _ => ?_; subst y; rotate_left; clear_value y) | (have _z : PipeSt := y; subst y) | (have _z : SecSt := y; subst y) | (have _z : DictSt := y; subst y) | clear_value y)
    | with_reducible apply AnsOnly.plain
    | ((with_reducible apply AnsOnly.then_); (case hf => intro _t))
    | ((with_reducible apply Only.step (changeKeys_only ..)); (case hs => decide))
    | ((with_reducible apply Only.step (random_only ..)); (case hs => decide))
    | ((with_reducible apply Only.step (countClamp_only ..)); (case hs => decide))
    | with_reducible apply AnsOnly.orElse
    | split

theorem writeChallenge_only (c : List Nat) (s : State) :
    AnsOnly [.security] s (writeChallenge c s) := by
  unfold writeChallenge
  repeat' first
    | with_reducible exact Only.refl _
    | with_reducible assumption
    | (extract_lets +onlyGivenNames y; first | (refine AnsOnly.have_ y ?_ fun _ => ?_; subst y; rotate_left; clear_value y) | (refine Only.have_ y ?_ fun _ => ?_; subst y; rotate_left; clear_value y) | (have _z : PipeSt := y; subst y) | (have _z : SecSt := y; subst y) | (have _z : DictSt := y; subst y) | clear_value y)
    | with_reducible apply AnsOnly.plain
    | ((with_reducible apply AnsOnly.then_); (case hf => intro _t))
    | with_reducible apply AnsOnly.orElse
    | split
    | with_reducible refine Only.upd_security ?_

theorem retrainPort_only (p : Nat) (s : State) :
    Only [.results, .events, .ports, .storeQueue, .heldEvents, .out, .resil] s (retrainPort p s) := by
  unfold retrainPort
  repeat' first
    | with_reducible exact Only.refl _
    | with_reducible assumption
    | (extract_lets +onlyGivenNames y
       first
         | (refine Only.have_ y ?_ fun _ => ?_; subst y; rotate_left; clear_value y)
         | clear_value y | skip)
    | ((with_reducible apply Only.step (startTraining_only ..)); (case hs => decide))
    | split

theorem writeActivate_only (mode : Nat) (s was : State) :
    AnsOnly2 [.results, .slots] s was (writeActivate mode s was) := by
  unfold writeActivate
  split
  · exact .left (.plain (Only.refl _))
  · split
    · exact .right (.plain (Only.refl _))
    · exact .left (.plain ((beginActivation_only ..).mono (by decide)))

theorem writeUpdate_only (p v : Nat) (s was : State) :
    AnsOnly2 [.results, .events, .ports, .storeQueue, .tallies, .heldEvents, .stag, .slots, .image, .resil] s was (writeUpdate p v s was) := by
  unfold writeUpdate
  dsimp only
  split
  · split
    · exact .right (.plain (Only.refl _))
    · exact .left (.plain ((beginImage_only ..).mono (by decide)))
  · split
    · split
      · exact .right (.plain (Only.refl _))
      · exact .left (.plain ((setUpdate_only ..).mono (by decide)))
    · split
      · exact (writeActivate_only ..).mono (by decide)
      · exact .left (.plain (Only.step (settle_only ..) (by decide) ((confirmImage_only ..).mono (by decide))))

theorem writeReinstate_only (h : Nat) (s was : State) :
    AnsOnly2 [.results, .events, .ports, .storeState, .storeQueue, .heldEvents] s was (writeReinstate h s was) := by
  unfold writeReinstate
  split
  · exact .left (.plain ((countClamp_only ..).mono (by decide)))
  · split
    · exact .right (.plain (Only.step (raise_only ..) (by decide) (Only.upd_storeState (Only.refl _) (by decide))))
    · exact .left (.plain ((addBlaze_only ..).mono (by decide)))

theorem writeCommand_only (r : Req) (h p v : Nat) (s was : State) :
    AnsOnly2 (Part.but [.epoch, .counts, .requests, .can, .store, .fuses, .clocks, .sensors, .sramMem, .pins, .pending]) s was (writeCommand r h p v s was) := by
  unfold writeCommand
  split
  · split
    · exact .right ((writeIntegratorKey_only ..).mono (by decide))
    · exact .orElse ((writeChallenge_only ..).mono (by decide))
  split
  · exact (writeUpdate_only ..).mono (by decide)
  split
  · exact .left (.then_ (fun _ => (retrainEntry_only ..).mono (by decide)) (Only.refl _))
  split
  · exact .left (.plain ((retrainPort_only ..).mono (by decide)))
  split
  · split
    · exact .left (.plain ((askSweep_only ..).mono (by decide)))
    split
    · exact .right (.plain (Only.refl _))
    split
    · exact .left (.plain ((startSave_only ..).mono (by decide)))
    · refine .left (.plain ?_)
      split
      · exact Only.step (rasterResume_only ..) (by decide) (Only.step (applyAllCommits_only ..) (by decide)
          ((loadSmallBank_only ..).mono (by decide)))
      · exact (loadSmallBank_only ..).mono (by decide)
  split
  · exact .left (.plain ((retireChannel_only ..).mono (by decide)))
  split
  · exact .left (.plain ((fellTile_only ..).mono (by decide)))
  · exact (writeReinstate_only ..).mono (by decide)

theorem writeEnable_only (i : PortId) (r : Req) (s : State) :
    AnsOnly [.config, .results, .events, .ports, .can, .storeQueue, .heldEvents, .aux] s (writeEnable i r s) := by
  unfold writeEnable
  split
  · exact .plain ((setCfg_only ..).mono (by decide))
  split
  · exact .plain (Only.step (enablePort_only ..) (by decide) ((setPort_only ..).mono (by decide)))
  split
  · exact .then_ (fun u => (setPort_only ..).mono (by decide)) (Only.refl _)
  · exact .plain ((disablePort_only ..).mono (by decide))

theorem writeSetting_only (r : Req) (h : Nat) (e : Entry) (s : State) :
    AnsOnly [.config, .shadow, .results, .events, .ports, .can, .storeQueue, .heldEvents, .sensors, .aux, .out, .panel, .power] s (writeSetting r h e s) := by
  unfold writeSetting
  repeat' first
    | with_reducible exact Only.refl _
    | with_reducible assumption
    | (extract_lets +onlyGivenNames y; first | (refine AnsOnly.have_ y ?_ fun _ => ?_; subst y; rotate_left; clear_value y) | (refine Only.have_ y ?_ fun _ => ?_; subst y; rotate_left; clear_value y) | (have _z : PipeSt := y; subst y) | (have _z : SecSt := y; subst y) | (have _z : DictSt := y; subst y) | clear_value y)
    | with_reducible apply AnsOnly.plain
    | ((with_reducible apply AnsOnly.then_); (case hf => intro _t))
    | ((with_reducible apply AnsOnly.step (writeEnable_only ..)); (case hs => decide))
    | ((with_reducible apply Only.step (afterNow_only ..)); (case hs => decide))
    | ((with_reducible apply Only.step (overlayRefused_only ..)); (case hs => decide))
    | ((with_reducible apply Only.step (showBuffers_only ..)); (case hs => decide))
    | ((with_reducible apply Only.step (writeValue_only ..)); (case hs => decide))
    | with_reducible apply AnsOnly.orElse
    | split

theorem writeBlobEntry_only (h : Nat) (e : Entry) (off : Nat) (bs : List Nat) (s : State) :
    AnsOnly [.config, .shadow, .results, .events, .ports, .storeQueue, .security, .heldEvents, .sensors, .image, .out, .panel, .dram, .sramMem, .sram, .power, .free] s (writeBlobEntry h e off bs s) := by
  unfold writeBlobEntry
  repeat' first
    | with_reducible exact Only.refl _
    | with_reducible assumption
    | (extract_lets +onlyGivenNames y; first | (refine AnsOnly.have_ y ?_ fun _ => ?_; subst y; rotate_left; clear_value y) | (refine Only.have_ y ?_ fun _ => ?_; subst y; rotate_left; clear_value y) | (have _z : PipeSt := y; subst y) | (have _z : SecSt := y; subst y) | (have _z : DictSt := y; subst y) | clear_value y)
    | with_reducible apply AnsOnly.plain
    | ((with_reducible apply AnsOnly.then_); (case hf => intro _t))
    | ((with_reducible apply AnsOnly.step (writePassword_only ..)); (case hs => decide))
    | ((with_reducible apply Only.step (afterNow_only ..)); (case hs => decide))
    | ((with_reducible apply Only.step (placeImage_only ..)); (case hs => decide))
    | ((with_reducible apply Only.step (writeOverlay_only ..)); (case hs => decide))
    | ((with_reducible apply Only.step (overlayRefused_only ..)); (case hs => decide))
    | ((with_reducible apply Only.step (stageBytes_only ..)); (case hs => decide))
    | ((with_reducible apply Only.step (writeBlob_only ..)); (case hs => decide))
    | ((with_reducible apply Only.step (countClamp_only ..)); (case hs => decide))
    | with_reducible apply AnsOnly.orElse
    | split

theorem writeEntry_only (r : Req) (level : Nat) (e : Entry) (s : State) :
    AnsOnly (Part.but [.epoch, .counts, .store, .pins, .pending]) s (writeEntry r level e s) := by
  unfold writeEntry
  repeat' first
    | with_reducible exact Only.refl _
    | with_reducible assumption
    | (extract_lets +onlyGivenNames y; first | (refine AnsOnly.have_ y ?_ fun _ => ?_; subst y; rotate_left; clear_value y) | (refine Only.have_ y ?_ fun _ => ?_; subst y; rotate_left; clear_value y) | (have _z : PipeSt := y; subst y) | (have _z : SecSt := y; subst y) | (have _z : DictSt := y; subst y) | clear_value y)
    | with_reducible apply AnsOnly.plain
    | ((with_reducible apply AnsOnly.then_); (case hf => intro _t))
    | ((with_reducible apply AnsOnly.step (writeBlobEntry_only ..)); (case hs => decide))
    | ((with_reducible apply AnsOnly.step (writeSetting_only ..)); (case hs => decide))
    | ((with_reducible apply AnsOnly2.both (writeCommand_only ..)); (case hq => decide))
    | ((with_reducible apply AnsOnly2.both (writeDev_only ..)); (case hq => decide))
    | ((with_reducible apply Only.step (writeElems_only ..)); (case hs => decide))
    | with_reducible apply AnsOnly.orElse
    | split

theorem openRequest_only (r : Req) (s : State) :
    AnsOnly [.results, .events, .ports, .storeQueue, .security, .heldEvents, .free] s (openRequest r s) := by
  unfold openRequest
  extract_lets level rest
  split
  · exact .plain (Only.refl _)
  split
  · exact .plain (Only.refl _)
  split
  rename_i st pl o t h
  refine ⟨?_, fun u => ?_⟩
  · have h' := openEffect_only (s := s) (i := r.port)
    have h'' := congrArg (fun x => x.2.2.2) h
    dsimp only at h'' ⊢
    rw [← h'']
    exact (openEffect_only ..).mono (by decide)
  · dsimp only
    split
    · exact (setLevel_only ..).mono (by decide)
    · exact Only.refl _

theorem proveRequest_only (r : Req) (c : List Nat) (level : Nat) (s : State) :
    AnsOnly [.results, .events, .ports, .storeQueue, .security, .heldEvents] s (proveRequest r c level s) := by
  unfold proveRequest
  split
  · exact .plain (Only.refl _)
  split
  rename_i st pl o t h
  refine ⟨?_, fun u => ?_⟩
  · have h' := proveEffect_only (s := s) (i := r.port)
    have h'' := congrArg (fun x => x.2.2.2) h
    dsimp only at h'' ⊢
    rw [← h'']
    exact (proveEffect_only ..).mono (by decide)
  · dsimp only
    split
    · exact (setLevel_only ..).mono (by decide)
    · exact Only.refl _

theorem requestLevel_only (r : Req) (s : State) :
    Only [.results, .events, .ports, .storeQueue, .heldEvents] s (requestLevel r s).2 := by
  unfold requestLevel
  repeat' first
    | with_reducible exact Only.refl _
    | with_reducible assumption
    | (extract_lets +onlyGivenNames y
       first
         | (refine Only.have_ y ?_ fun _ => ?_; subst y; rotate_left; clear_value y)
         | clear_value y | skip)
    | ((with_reducible apply Only.step (raise_only ..)); (case hs => decide))
    | ((with_reducible apply Only.step (setPort_only ..)); (case hs => decide))
    | ((with_reducible apply Only.step (incSat_only ..)); (case hs => decide))
    | split

theorem execute_only (r : Req) (level : Nat) (tagged : Bool) (challenge : Option (List Nat × Nat)) (s : State) :
    AnsOnly (Part.but [.epoch, .store, .pins, .pending]) s (execute r level tagged challenge s) := by
  unfold execute
  split
  · exact .plain (Only.refl _)
  split
  · split
    · exact .plain (Only.refl _)
    · split
      · exact .plain ((readEntry_only ..).mono (by decide))
      · rename_i e _ _
        have h := writeEntry_only r level e s
        generalize writeEntry r level e s = x at h
        obtain ⟨a, t⟩ := x
        have h : AnsOnly (Part.but [.epoch, .store, .pins, .pending]) s (a, t) := h.mono (by decide)
        refine ⟨?_, h.after⟩
        dsimp only
        split
        · exact Only.step (noteActivity_only ..) (by decide) h.now
        · exact h.now
  split
  · exact .plain (Only.refl _)
  split
  · exact (openRequest_only ..).mono (by decide)
  · exact (proveRequest_only ..).mono (by decide)
  · split
    · exact .plain (Only.refl _)
    · exact .plain ((endSession_only ..).mono (by decide))
  · split
    · exact .plain (Only.refl _)
    · exact .plain (Only.refl _)

theorem accept_only (r : Req) (s : State) :
    Only (Part.but [.epoch, .store, .pins, .pending]) s (accept r s) := by
  unfold accept
  extract_lets p challenge tagged
  refine Only.trans ?_ (finishRequest_only r (by decide) ((execute_only ..).mono (by decide)))
  exact Only.step (requestLevel_only ..) (by decide) ((setPort_only ..).mono (by decide))

theorem serveCast_only (r : Req) (s : State) :
    Only [.now, .config, .shadow, .results, .events, .ports, .storeQueue, .heldEvents, .link, .aux, .rx, .raster, .pipe, .out, .panel, .fstore, .dram, .sram, .resil, .power] s (serveCast r s) := by
  unfold serveCast
  repeat' first
    | with_reducible exact Only.refl _
    | with_reducible assumption
    | (extract_lets +onlyGivenNames y
       first
         | (refine Only.have_ y ?_ fun _ => ?_; subst y; rotate_left; clear_value y)
         | clear_value y | skip)
    | ((with_reducible apply Only.step (commitNow_only ..)); (case hs => decide))
    | ((with_reducible apply Only.step (noteActivity_only ..)); (case hs => decide))
    | ((with_reducible apply Only.step (raise_only ..)); (case hs => decide))
    | ((with_reducible apply Only.step (setCfg_only ..)); (case hs => decide))
    | split

theorem resend_only (r : Req) (s : State) :
    Only [.results, .ports, .can, .aux] s (resend r s) := by
  unfold resend
  repeat' first
    | with_reducible exact Only.refl _
    | with_reducible assumption
    | (extract_lets +onlyGivenNames y
       first
         | (refine Only.have_ y ?_ fun _ => ?_; subst y; rotate_left; clear_value y)
         | clear_value y | skip)
    | ((with_reducible apply Only.step (announceCredits_only ..)); (case hs => decide))
    | ((with_reducible apply Only.step (pushOut_only ..)); (case hs => decide))
    | ((with_reducible apply Only.step (setPort_only ..)); (case hs => decide))

theorem serve_only (r : Req) (s : State) :
    Only (Part.but [.epoch, .store, .pins, .pending]) s (serve r s) := by
  unfold serve
  repeat' first
    | with_reducible exact Only.refl _
    | with_reducible assumption
    | (extract_lets +onlyGivenNames y
       first
         | (refine Only.have_ y ?_ fun _ => ?_; subst y; rotate_left; clear_value y)
         | clear_value y | skip)
    | ((with_reducible apply Only.step (resend_only ..)); (case hs => decide))
    | ((with_reducible apply Only.step (serveCast_only ..)); (case hs => decide))
    | ((with_reducible apply Only.step (accept_only ..)); (case hs => decide))
    | ((with_reducible apply Only.step (malformed_only ..)); (case hs => decide))
    | ((with_reducible apply Only.step (respond_only ..)); (case hs => decide))
    | ((with_reducible apply Only.step (raise_only ..)); (case hs => decide))
    | ((with_reducible apply Only.step (incSat_only ..)); (case hs => decide))
    | split

theorem inTurn_only (r : Req) (s : State) :
    Only (Part.but [.epoch, .store, .pins, .pending]) s (inTurn r s) := by
  unfold inTurn
  repeat' first
    | with_reducible exact Only.refl _
    | with_reducible assumption
    | (extract_lets +onlyGivenNames y
       first
         | (refine Only.have_ y ?_ fun _ => ?_; subst y; rotate_left; clear_value y)
         | (have _z : CtrlSt := y; subst y) | clear_value y | skip)
    | ((with_reducible apply Only.step (serve_only ..)); (case hs => decide))
    | split
    | with_reducible refine Only.upd_requests ?_

theorem drain_only (s : State) :
    Only (Part.but [.epoch, .store, .pins, .pending]) s (drain s) := by
  unfold drain
  repeat' first
    | with_reducible exact Only.refl _
    | with_reducible assumption
    | (extract_lets +onlyGivenNames y
       first
         | (refine Only.have_ y ?_ fun _ => ?_; subst y; rotate_left; clear_value y)
         | (have _z : CtrlSt := y; subst y) | clear_value y | skip)
    | ((with_reducible apply Only.step (inTurn_only ..)); (case hs => decide))
    | (with_reducible apply Only.foldl)
    | intro t a ht
    | with_reducible refine Only.upd_requests ?_

theorem takeReq_only (r : Req) (s : State) :
    Only (Part.but [.epoch, .store, .pins, .pending]) s (takeReq r s) := by
  unfold takeReq
  repeat' first
    | with_reducible exact Only.refl _
    | with_reducible assumption
    | (extract_lets +onlyGivenNames y
       first
         | (refine Only.have_ y ?_ fun _ => ?_; subst y; rotate_left; clear_value y)
         | clear_value y | skip)
    | ((with_reducible apply Only.step (inTurn_only ..)); (case hs => decide))
    | ((with_reducible apply Only.step (showCredits_only ..)); (case hs => decide))
    | ((with_reducible apply Only.step (setPort_only ..)); (case hs => decide))

theorem notTakenFrame_only (i : PortId) (s : State) :
    Only [.results, .events, .ports, .storeQueue, .heldEvents] s (notTakenFrame i s) := by
  unfold notTakenFrame
  repeat' first
    | with_reducible exact Only.refl _
    | with_reducible assumption
    | (extract_lets +onlyGivenNames y
       first
         | (refine Only.have_ y ?_ fun _ => ?_; subst y; rotate_left; clear_value y)
         | clear_value y | skip)
    | ((with_reducible apply Only.step (raise_only ..)); (case hs => decide))
    | ((with_reducible apply Only.step (setPort_only ..)); (case hs => decide))
    | ((with_reducible apply Only.step (incSat_only ..)); (case hs => decide))

theorem frameHeard_only (i : PortId) (s : State) :
    Only [.results, .ports] s (frameHeard i s) := by
  unfold frameHeard
  repeat' first
    | with_reducible exact Only.refl _
    | with_reducible assumption
    | (extract_lets +onlyGivenNames y
       first
         | (refine Only.have_ y ?_ fun _ => ?_; subst y; rotate_left; clear_value y)
         | clear_value y | skip)
    | ((with_reducible apply Only.step (setPort_only ..)); (case hs => decide))
    | ((with_reducible apply Only.step (incWrap_only ..)); (case hs => decide))

theorem arrive_only (r : Req) (s : State) :
    Only (Part.but [.epoch, .store, .pins, .pending]) s (arrive r s) := by
  unfold arrive
  repeat' first
    | with_reducible exact Only.refl _
    | with_reducible assumption
    | (extract_lets +onlyGivenNames y
       first
         | (refine Only.have_ y ?_ fun _ => ?_; subst y; rotate_left; clear_value y)
         | clear_value y | skip)
    | ((with_reducible apply Only.step (frameHeard_only ..)); (case hs => decide))
    | ((with_reducible apply Only.step (notTakenFrame_only ..)); (case hs => decide))
    | ((with_reducible apply Only.step (takeReq_only ..)); (case hs => decide))
    | split

theorem executeAgain_only (r : Req) (s : State) :
    Only (Part.but [.epoch, .store, .pins, .pending]) s (executeAgain r s) := by
  unfold executeAgain
  extract_lets a b c t
  have ht : Only (Part.but [.epoch, .store, .pins, .pending]) s t := Only.upd_requests_storeQueue_security (Only.refl _)
  clear_value t
  exact ht.trans (finishRequest_only r (by decide) ((execute_only ..).mono (by decide)))

theorem resumeRequest_only (s : State) :
    Only (Part.but [.epoch, .store, .pins, .pending]) s (resumeRequest s) := by
  unfold resumeRequest
  repeat' first
    | with_reducible exact Only.refl _
    | with_reducible assumption
    | (extract_lets +onlyGivenNames y
       first
         | (refine Only.have_ y ?_ fun _ => ?_; subst y; rotate_left; clear_value y)
         | (have _z : CtrlSt := y; subst y) | clear_value y | skip)
    | ((with_reducible apply Only.step (executeAgain_only ..)); (case hs => decide))
    | ((with_reducible apply Only.step (answerBusy_only ..)); (case hs => decide))
    | split
    | with_reducible refine Only.upd_requests ?_

theorem execRead_only (h : Hdr) (handle : Nat) (param : Nat) (elem : Option Nat) (payload : List Nat) (s : State) :
    Runs (Part.but [.epoch, .store, .pins, .pending]) s (execRead h handle param elem payload s) := by
  unfold execRead
  repeat' first
    | with_reducible apply Runs.next
    | with_reducible exact Only.refl _
    | with_reducible assumption
    | (extract_lets +onlyGivenNames y
       first
         | (refine Only.have_ y ?_ fun _ => ?_; subst y; rotate_left; clear_value y)
         | clear_value y | skip)
    | ((with_reducible apply Only.step (arrive_only ..)); (case hs => decide))

theorem execWrite_only (h : Hdr) (handle : Nat) (param : Nat) (elem : Option Nat) (payload : List Nat) (s : State) :
    Runs (Part.but [.epoch, .store, .pins, .pending]) s (execWrite h handle param elem payload s) := by
  unfold execWrite
  repeat' first
    | with_reducible apply Runs.next
    | with_reducible exact Only.refl _
    | with_reducible assumption
    | (extract_lets +onlyGivenNames y
       first
         | (refine Only.have_ y ?_ fun _ => ?_; subst y; rotate_left; clear_value y)
         | clear_value y | skip)
    | ((with_reducible apply Only.step (arrive_only ..)); (case hs => decide))

theorem execOpenReq_only (h : Hdr) (level : Nat) (password : List Nat) (s : State) :
    Runs (Part.but [.epoch, .store, .pins, .pending]) s (execOpenReq h level password s) := by
  unfold execOpenReq
  repeat' first
    | with_reducible apply Runs.next
    | with_reducible exact Only.refl _
    | with_reducible assumption
    | (extract_lets +onlyGivenNames y
       first
         | (refine Only.have_ y ?_ fun _ => ?_; subst y; rotate_left; clear_value y)
         | clear_value y | skip)
    | ((with_reducible apply Only.step (arrive_only ..)); (case hs => decide))

theorem execProve_only (h : Hdr) (response : List Nat) (s : State) :
    Runs (Part.but [.epoch, .store, .pins, .pending]) s (execProve h response s) := by
  unfold execProve
  repeat' first
    | with_reducible apply Runs.next
    | with_reducible exact Only.refl _
    | with_reducible assumption
    | (extract_lets +onlyGivenNames y
       first
         | (refine Only.have_ y ?_ fun _ => ?_; subst y; rotate_left; clear_value y)
         | clear_value y | skip)
    | ((with_reducible apply Only.step (arrive_only ..)); (case hs => decide))

theorem execClose_only (h : Hdr) (s : State) :
    Runs (Part.but [.epoch, .store, .pins, .pending]) s (execClose h s) := by
  unfold execClose
  repeat' first
    | with_reducible apply Runs.next
    | with_reducible exact Only.refl _
    | with_reducible assumption
    | (extract_lets +onlyGivenNames y
       first
         | (refine Only.have_ y ?_ fun _ => ?_; subst y; rotate_left; clear_value y)
         | clear_value y | skip)
    | ((with_reducible apply Only.step (arrive_only ..)); (case hs => decide))

theorem execNop_only (h : Hdr) (s : State) :
    Runs (Part.but [.epoch, .store, .pins, .pending]) s (execNop h s) := by
  unfold execNop
  repeat' first
    | with_reducible apply Runs.next
    | with_reducible exact Only.refl _
    | with_reducible assumption
    | (extract_lets +onlyGivenNames y
       first
         | (refine Only.have_ y ?_ fun _ => ?_; subst y; rotate_left; clear_value y)
         | clear_value y | skip)
    | ((with_reducible apply Only.step (arrive_only ..)); (case hs => decide))

theorem execCommit_only (h : Hdr) (tag : Nat) (s : State) :
    Runs (Part.but [.epoch, .store, .pins, .pending]) s (execCommit h tag s) := by
  unfold execCommit
  repeat' first
    | with_reducible apply Runs.next
    | with_reducible exact Only.refl _
    | with_reducible assumption
    | (extract_lets +onlyGivenNames y
       first
         | (refine Only.have_ y ?_ fun _ => ?_; subst y; rotate_left; clear_value y)
         | clear_value y | skip)
    | ((with_reducible apply Only.step (arrive_only ..)); (case hs => decide))

theorem execStore_only (h : Hdr) (tag : Nat) (s : State) :
    Runs (Part.but [.epoch, .store, .pins, .pending]) s (execStore h tag s) := by
  unfold execStore
  repeat' first
    | with_reducible apply Runs.next
    | with_reducible exact Only.refl _
    | with_reducible assumption
    | (extract_lets +onlyGivenNames y
       first
         | (refine Only.have_ y ?_ fun _ => ?_; subst y; rotate_left; clear_value y)
         | clear_value y | skip)
    | ((with_reducible apply Only.step (arrive_only ..)); (case hs => decide))

theorem execRestoreDefaults_only (h : Hdr) (tag : Nat) (s : State) :
    Runs (Part.but [.epoch, .store, .pins, .pending]) s (execRestoreDefaults h tag s) := by
  unfold execRestoreDefaults
  repeat' first
    | with_reducible apply Runs.next
    | with_reducible exact Only.refl _
    | with_reducible assumption
    | (extract_lets +onlyGivenNames y
       first
         | (refine Only.have_ y ?_ fun _ => ?_; subst y; rotate_left; clear_value y)
         | clear_value y | skip)
    | ((with_reducible apply Only.step (arrive_only ..)); (case hs => decide))

theorem execShadowDiscard_only (h : Hdr) (v : Nat) (s : State) :
    Runs (Part.but [.epoch, .store, .pins, .pending]) s (execShadowDiscard h v s) := by
  unfold execShadowDiscard
  repeat' first
    | with_reducible apply Runs.next
    | with_reducible exact Only.refl _
    | with_reducible assumption
    | (extract_lets +onlyGivenNames y
       first
         | (refine Only.have_ y ?_ fun _ => ?_; subst y; rotate_left; clear_value y)
         | clear_value y | skip)
    | ((with_reducible apply Only.step (arrive_only ..)); (case hs => decide))

theorem execUtcSet_only (h : Hdr) (seconds : Nat) (s : State) :
    Runs (Part.but [.epoch, .store, .pins, .pending]) s (execUtcSet h seconds s) := by
  unfold execUtcSet
  repeat' first
    | with_reducible apply Runs.next
    | with_reducible exact Only.refl _
    | with_reducible assumption
    | (extract_lets +onlyGivenNames y
       first
         | (refine Only.have_ y ?_ fun _ => ?_; subst y; rotate_left; clear_value y)
         | clear_value y | skip)
    | ((with_reducible apply Only.step (arrive_only ..)); (case hs => decide))

theorem execPowerRequestOn_only (h : Hdr) (s : State) :
    Runs (Part.but [.epoch, .store, .pins, .pending]) s (execPowerRequestOn h s) := by
  unfold execPowerRequestOn
  repeat' first
    | with_reducible apply Runs.next
    | with_reducible exact Only.refl _
    | with_reducible assumption
    | (extract_lets +onlyGivenNames y
       first
         | (refine Only.have_ y ?_ fun _ => ?_; subst y; rotate_left; clear_value y)
         | clear_value y | skip)
    | ((with_reducible apply Only.step (arrive_only ..)); (case hs => decide))

theorem execPowerRequestStandby_only (h : Hdr) (s : State) :
    Runs (Part.but [.epoch, .store, .pins, .pending]) s (execPowerRequestStandby h s) := by
  unfold execPowerRequestStandby
  repeat' first
    | with_reducible apply Runs.next
    | with_reducible exact Only.refl _
    | with_reducible assumption
    | (extract_lets +onlyGivenNames y
       first
         | (refine Only.have_ y ?_ fun _ => ?_; subst y; rotate_left; clear_value y)
         | clear_value y | skip)
    | ((with_reducible apply Only.step (arrive_only ..)); (case hs => decide))

theorem execPowerRequestOff_only (h : Hdr) (s : State) :
    Runs (Part.but [.epoch, .store, .pins, .pending]) s (execPowerRequestOff h s) := by
  unfold execPowerRequestOff
  repeat' first
    | with_reducible apply Runs.next
    | with_reducible exact Only.refl _
    | with_reducible assumption
    | (extract_lets +onlyGivenNames y
       first
         | (refine Only.have_ y ?_ fun _ => ?_; subst y; rotate_left; clear_value y)
         | clear_value y | skip)
    | ((with_reducible apply Only.step (arrive_only ..)); (case hs => decide))

theorem execRestart_only (h : Hdr) (v : Nat) (s : State) :
    Runs (Part.but [.epoch, .store, .pins, .pending]) s (execRestart h v s) := by
  unfold execRestart
  repeat' first
    | with_reducible apply Runs.next
    | with_reducible exact Only.refl _
    | with_reducible assumption
    | (extract_lets +onlyGivenNames y
       first
         | (refine Only.have_ y ?_ fun _ => ?_; subst y; rotate_left; clear_value y)
         | clear_value y | skip)
    | ((with_reducible apply Only.step (arrive_only ..)); (case hs => decide))

theorem execLifecycleRequest_only (h : Hdr) (target : Nat) (id : List Nat) (s : State) :
    Runs (Part.but [.epoch, .store, .pins, .pending]) s (execLifecycleRequest h target id s) := by
  unfold execLifecycleRequest
  repeat' first
    | with_reducible apply Runs.next
    | with_reducible exact Only.refl _
    | with_reducible assumption
    | (extract_lets +onlyGivenNames y
       first
         | (refine Only.have_ y ?_ fun _ => ?_; subst y; rotate_left; clear_value y)
         | clear_value y | skip)
    | ((with_reducible apply Only.step (arrive_only ..)); (case hs => decide))

theorem execOperatorPassword_only (h : Hdr) (off : Nat) (bs : List Nat) (s : State) :
    Runs (Part.but [.epoch, .store, .pins, .pending]) s (execOperatorPassword h off bs s) := by
  unfold execOperatorPassword
  repeat' first
    | with_reducible apply Runs.next
    | with_reducible exact Only.refl _
    | with_reducible assumption
    | (extract_lets +onlyGivenNames y
       first
         | (refine Only.have_ y ?_ fun _ => ?_; subst y; rotate_left; clear_value y)
         | clear_value y | skip)
    | ((with_reducible apply Only.step (arrive_only ..)); (case hs => decide))

theorem execIntegratorKey_only (h : Hdr) (bs : List Nat) (s : State) :
    Runs (Part.but [.epoch, .store, .pins, .pending]) s (execIntegratorKey h bs s) := by
  unfold execIntegratorKey
  repeat' first
    | with_reducible apply Runs.next
    | with_reducible exact Only.refl _
    | with_reducible assumption
    | (extract_lets +onlyGivenNames y
       first
         | (refine Only.have_ y ?_ fun _ => ?_; subst y; rotate_left; clear_value y)
         | clear_value y | skip)
    | ((with_reducible apply Only.step (arrive_only ..)); (case hs => decide))

theorem execAttestChallenge_only (h : Hdr) (bs : List Nat) (s : State) :
    Runs (Part.but [.epoch, .store, .pins, .pending]) s (execAttestChallenge h bs s) := by
  unfold execAttestChallenge
  repeat' first
    | with_reducible apply Runs.next
    | with_reducible exact Only.refl _
    | with_reducible assumption
    | (extract_lets +onlyGivenNames y
       first
         | (refine Only.have_ y ?_ fun _ => ?_; subst y; rotate_left; clear_value y)
         | clear_value y | skip)
    | ((with_reducible apply Only.step (arrive_only ..)); (case hs => decide))

theorem execLinkRetrain_only (h : Hdr) (v : Nat) (s : State) :
    Runs (Part.but [.epoch, .store, .pins, .pending]) s (execLinkRetrain h v s) := by
  unfold execLinkRetrain
  repeat' first
    | with_reducible apply Runs.next
    | with_reducible exact Only.refl _
    | with_reducible assumption
    | (extract_lets +onlyGivenNames y
       first
         | (refine Only.have_ y ?_ fun _ => ?_; subst y; rotate_left; clear_value y)
         | clear_value y | skip)
    | ((with_reducible apply Only.step (arrive_only ..)); (case hs => decide))

theorem execPortRetrain_only (h : Hdr) (p : Nat) (v : Nat) (s : State) :
    Runs (Part.but [.epoch, .store, .pins, .pending]) s (execPortRetrain h p v s) := by
  unfold execPortRetrain
  repeat' first
    | with_reducible apply Runs.next
    | with_reducible exact Only.refl _
    | with_reducible assumption
    | (extract_lets +onlyGivenNames y
       first
         | (refine Only.have_ y ?_ fun _ => ?_; subst y; rotate_left; clear_value y)
         | clear_value y | skip)
    | ((with_reducible apply Only.step (arrive_only ..)); (case hs => decide))

theorem execSweepStart_only (h : Hdr) (v : Nat) (s : State) :
    Runs (Part.but [.epoch, .store, .pins, .pending]) s (execSweepStart h v s) := by
  unfold execSweepStart
  repeat' first
    | with_reducible apply Runs.next
    | with_reducible exact Only.refl _
    | with_reducible assumption
    | (extract_lets +onlyGivenNames y
       first
         | (refine Only.have_ y ?_ fun _ => ?_; subst y; rotate_left; clear_value y)
         | clear_value y | skip)
    | ((with_reducible apply Only.step (arrive_only ..)); (case hs => decide))

theorem execMapSave_only (h : Hdr) (v : Nat) (s : State) :
    Runs (Part.but [.epoch, .store, .pins, .pending]) s (execMapSave h v s) := by
  unfold execMapSave
  repeat' first
    | with_reducible apply Runs.next
    | with_reducible exact Only.refl _
    | with_reducible assumption
    | (extract_lets +onlyGivenNames y
       first
         | (refine Only.have_ y ?_ fun _ => ?_; subst y; rotate_left; clear_value y)
         | clear_value y | skip)
    | ((with_reducible apply Only.step (arrive_only ..)); (case hs => decide))

theorem execMapReload_only (h : Hdr) (v : Nat) (s : State) :
    Runs (Part.but [.epoch, .store, .pins, .pending]) s (execMapReload h v s) := by
  unfold execMapReload
  repeat' first
    | with_reducible apply Runs.next
    | with_reducible exact Only.refl _
    | with_reducible assumption
    | (extract_lets +onlyGivenNames y
       first
         | (refine Only.have_ y ?_ fun _ => ?_; subst y; rotate_left; clear_value y)
         | clear_value y | skip)
    | ((with_reducible apply Only.step (arrive_only ..)); (case hs => decide))

theorem execUpdateBegin_only (h : Hdr) (n : Nat) (s : State) :
    Runs (Part.but [.epoch, .store, .pins, .pending]) s (execUpdateBegin h n s) := by
  unfold execUpdateBegin
  repeat' first
    | with_reducible apply Runs.next
    | with_reducible exact Only.refl _
    | with_reducible assumption
    | (extract_lets +onlyGivenNames y
       first
         | (refine Only.have_ y ?_ fun _ => ?_; subst y; rotate_left; clear_value y)
         | clear_value y | skip)
    | ((with_reducible apply Only.step (arrive_only ..)); (case hs => decide))

theorem execUpdateImage_only (h : Hdr) (off : Nat) (bs : List Nat) (s : State) :
    Runs (Part.but [.epoch, .store, .pins, .pending]) s (execUpdateImage h off bs s) := by
  unfold execUpdateImage
  repeat' first
    | with_reducible apply Runs.next
    | with_reducible exact Only.refl _
    | with_reducible assumption
    | (extract_lets +onlyGivenNames y
       first
         | (refine Only.have_ y ?_ fun _ => ?_; subst y; rotate_left; clear_value y)
         | clear_value y | skip)
    | ((with_reducible apply Only.step (arrive_only ..)); (case hs => decide))

theorem execUpdateVerify_only (h : Hdr) (v : Nat) (s : State) :
    Runs (Part.but [.epoch, .store, .pins, .pending]) s (execUpdateVerify h v s) := by
  unfold execUpdateVerify
  repeat' first
    | with_reducible apply Runs.next
    | with_reducible exact Only.refl _
    | with_reducible assumption
    | (extract_lets +onlyGivenNames y
       first
         | (refine Only.have_ y ?_ fun _ => ?_; subst y; rotate_left; clear_value y)
         | clear_value y | skip)
    | ((with_reducible apply Only.step (arrive_only ..)); (case hs => decide))

theorem execActivateAtRestart_only (h : Hdr) (s : State) :
    Runs (Part.but [.epoch, .store, .pins, .pending]) s (execActivateAtRestart h s) := by
  unfold execActivateAtRestart
  repeat' first
    | with_reducible apply Runs.next
    | with_reducible exact Only.refl _
    | with_reducible assumption
    | (extract_lets +onlyGivenNames y
       first
         | (refine Only.have_ y ?_ fun _ => ?_; subst y; rotate_left; clear_value y)
         | clear_value y | skip)
    | ((with_reducible apply Only.step (arrive_only ..)); (case hs => decide))

theorem execActivateNow_only (h : Hdr) (s : State) :
    Runs (Part.but [.epoch, .store, .pins, .pending]) s (execActivateNow h s) := by
  unfold execActivateNow
  repeat' first
    | with_reducible apply Runs.next
    | with_reducible exact Only.refl _
    | with_reducible assumption
    | (extract_lets +onlyGivenNames y
       first
         | (refine Only.have_ y ?_ fun _ => ?_; subst y; rotate_left; clear_value y)
         | clear_value y | skip)
    | ((with_reducible apply Only.step (arrive_only ..)); (case hs => decide))

theorem execConfirm_only (h : Hdr) (v : Nat) (s : State) :
    Runs (Part.but [.epoch, .store, .pins, .pending]) s (execConfirm h v s) := by
  unfold execConfirm
  repeat' first
    | with_reducible apply Runs.next
    | with_reducible exact Only.refl _
    | with_reducible assumption
    | (extract_lets +onlyGivenNames y
       first
         | (refine Only.have_ y ?_ fun _ => ?_; subst y; rotate_left; clear_value y)
         | clear_value y | skip)
    | ((with_reducible apply Only.step (arrive_only ..)); (case hs => decide))

theorem execRetire_only (h : Hdr) (c : Nat) (s : State) :
    Runs (Part.but [.epoch, .store, .pins, .pending]) s (execRetire h c s) := by
  unfold execRetire
  repeat' first
    | with_reducible apply Runs.next
    | with_reducible exact Only.refl _
    | with_reducible assumption
    | (extract_lets +onlyGivenNames y
       first
         | (refine Only.have_ y ?_ fun _ => ?_; subst y; rotate_left; clear_value y)
         | clear_value y | skip)
    | ((with_reducible apply Only.step (arrive_only ..)); (case hs => decide))

theorem execFell_only (h : Hdr) (st : Nat) (t : Nat) (v : Nat) (s : State) :
    Runs (Part.but [.epoch, .store, .pins, .pending]) s (execFell h st t v s) := by
  unfold execFell
  repeat' first
    | with_reducible apply Runs.next
    | with_reducible exact Only.refl _
    | with_reducible assumption
    | (extract_lets +onlyGivenNames y
       first
         | (refine Only.have_ y ?_ fun _ => ?_; subst y; rotate_left; clear_value y)
         | clear_value y | skip)
    | ((with_reducible apply Only.step (arrive_only ..)); (case hs => decide))

theorem execReinstate_only (h : Hdr) (handle : Nat) (s : State) :
    Runs (Part.but [.epoch, .store, .pins, .pending]) s (execReinstate h handle s) := by
  unfold execReinstate
  repeat' first
    | with_reducible apply Runs.next
    | with_reducible exact Only.refl _
    | with_reducible assumption
    | (extract_lets +onlyGivenNames y
       first
         | (refine Only.have_ y ?_ fun _ => ?_; subst y; rotate_left; clear_value y)
         | clear_value y | skip)
    | ((with_reducible apply Only.step (arrive_only ..)); (case hs => decide))

theorem execStressSet_only (h : Hdr) (off : Nat) (bs : List Nat) (s : State) :
    Runs (Part.but [.epoch, .store, .pins, .pending]) s (execStressSet h off bs s) := by
  unfold execStressSet
  repeat' first
    | with_reducible apply Runs.next
    | with_reducible exact Only.refl _
    | with_reducible assumption
    | (extract_lets +onlyGivenNames y
       first
         | (refine Only.have_ y ?_ fun _ => ?_; subst y; rotate_left; clear_value y)
         | clear_value y | skip)
    | ((with_reducible apply Only.step (arrive_only ..)); (case hs => decide))

theorem execOvlMemWrite_only (h : Hdr) (off : Nat) (bs : List Nat) (s : State) :
    Runs (Part.but [.epoch, .store, .pins, .pending]) s (execOvlMemWrite h off bs s) := by
  unfold execOvlMemWrite
  repeat' first
    | with_reducible apply Runs.next
    | with_reducible exact Only.refl _
    | with_reducible assumption
    | (extract_lets +onlyGivenNames y
       first
         | (refine Only.have_ y ?_ fun _ => ?_; subst y; rotate_left; clear_value y)
         | clear_value y | skip)
    | ((with_reducible apply Only.step (arrive_only ..)); (case hs => decide))

theorem execBufTableWrite_only (h : Hdr) (size : Bool) (elem : Option Nat) (vs : List Nat) (s : State) :
    Runs (Part.but [.epoch, .store, .pins, .pending]) s (execBufTableWrite h size elem vs s) := by
  unfold execBufTableWrite
  repeat' first
    | with_reducible apply Runs.next
    | with_reducible exact Only.refl _
    | with_reducible assumption
    | (extract_lets +onlyGivenNames y
       first
         | (refine Only.have_ y ?_ fun _ => ?_; subst y; rotate_left; clear_value y)
         | clear_value y | skip)
    | ((with_reducible apply Only.step (arrive_only ..)); (case hs => decide))
    | split

theorem execDrvRegsWrite_only (h : Hdr) (off : Nat) (bs : List Nat) (s : State) :
    Runs (Part.but [.epoch, .store, .pins, .pending]) s (execDrvRegsWrite h off bs s) := by
  unfold execDrvRegsWrite
  repeat' first
    | with_reducible apply Runs.next
    | with_reducible exact Only.refl _
    | with_reducible assumption
    | (extract_lets +onlyGivenNames y
       first
         | (refine Only.have_ y ?_ fun _ => ?_; subst y; rotate_left; clear_value y)
         | clear_value y | skip)
    | ((with_reducible apply Only.step (arrive_only ..)); (case hs => decide))

theorem execNtcEnableWrite_only (h : Hdr) (n : Nat) (v : Nat) (s : State) :
    Runs (Part.but [.epoch, .store, .pins, .pending]) s (execNtcEnableWrite h n v s) := by
  unfold execNtcEnableWrite
  repeat' first
    | with_reducible apply Runs.next
    | with_reducible exact Only.refl _
    | with_reducible assumption
    | (extract_lets +onlyGivenNames y
       first
         | (refine Only.have_ y ?_ fun _ => ?_; subst y; rotate_left; clear_value y)
         | clear_value y | skip)
    | ((with_reducible apply Only.step (arrive_only ..)); (case hs => decide))

theorem execCtrlportEnableWrite_only (h : Hdr) (i : PortId) (v : Nat) (s : State) :
    Runs (Part.but [.epoch, .store, .pins, .pending]) s (execCtrlportEnableWrite h i v s) := by
  unfold execCtrlportEnableWrite
  repeat' first
    | with_reducible apply Runs.next
    | with_reducible exact Only.refl _
    | with_reducible assumption
    | (extract_lets +onlyGivenNames y
       first
         | (refine Only.have_ y ?_ fun _ => ?_; subst y; rotate_left; clear_value y)
         | clear_value y | skip)
    | ((with_reducible apply Only.step (arrive_only ..)); (case hs => decide))

theorem execProgramDone_only (ok : Bool) (s : State) :
    Runs (Part.but [.pins, .pending]) s (execProgramDone ok s) := by
  unfold execProgramDone
  repeat' first
    | with_reducible apply Runs.next
    | with_reducible exact Only.refl _
    | with_reducible assumption
    | (extract_lets +onlyGivenNames y
       first
         | (refine Only.have_ y ?_ fun _ => ?_; subst y; rotate_left; clear_value y)
         | clear_value y | skip)
    | ((with_reducible apply Only.step (drain_only ..)); (case hs => decide))
    | ((with_reducible apply Only.step (advanceEntry_only ..)); (case hs => decide))
    | (refine endProgram_only _ _ (by decide) (fun _p _t => ?_); try dsimp only)
    | ((with_reducible apply Only.step (programCompletes_only ..)); (case hs => decide))
    | ((with_reducible apply Only.step (settle_only ..)); (case hs => decide))
    | split

theorem execStagRestartComplete_only (s : State) :
    Runs (Part.but [.pins, .pending]) s (execStagRestartComplete s) := by
  unfold execStagRestartComplete
  repeat' first
    | with_reducible apply Runs.next
    | with_reducible exact Only.refl _
    | with_reducible assumption
    | (extract_lets +onlyGivenNames y
       first
         | (refine Only.have_ y ?_ fun _ => ?_; subst y; rotate_left; clear_value y)
         | clear_value y | skip)
    | ((with_reducible apply Only.step (resumeRequest_only ..)); (case hs => decide))
    | ((with_reducible apply Only.step (drain_only ..)); (case hs => decide))
    | ((with_reducible apply Only.step (advanceEntry_only ..)); (case hs => decide))
    | ((with_reducible apply Only.step (stagRestarted_only ..)); (case hs => decide))
    | split

theorem execSessionIdleTimeout_only (i : PortId) (s : State) :
    Runs [.now, .results, .events, .ports, .storeQueue, .heldEvents] s (execSessionIdleTimeout i s) := by
  unfold execSessionIdleTimeout
  repeat' first
    | with_reducible apply Runs.next
    | with_reducible exact Only.refl _
    | with_reducible assumption
    | (extract_lets +onlyGivenNames y
       first
         | (refine Only.have_ y ?_ fun _ => ?_; subst y; rotate_left; clear_value y)
         | clear_value y | skip)
    | ((with_reducible apply Only.step (endSession_only ..)); (case hs => decide))
    | ((with_reducible apply Only.step (advanceTo_only ..)); (case hs => decide))
    | split

end Sys2Proof.Machine
end

