-- ==== Sys2Proof/Laws/FramesPorts.lean ====
section
/-! SUPPORT. What each definition of Machine/Ports.lean changes. -/

set_option Elab.async false

set_option linter.tactic.unusedName false

namespace Sys2Proof.Machine

theorem checkFailed_only (i : PortId) (n : Nat) (s : State) :
    Only [.results, .events, .ports, .storeQueue, .heldEvents] s (checkFailed i n s) := by
  unfold checkFailed
  repeat' first
    | with_reducible exact Only.refl _
    | with_reducible assumption
    | (extract_lets +onlyGivenNames y
       first
         | (refine Only.have_ y ?_ fun _ => ?_; subst y; rotate_left; clear_value y)
         | clear_value y | skip)
    | ((with_reducible apply Only.step (raise_only ..)); (case hs => decide))
    | ((with_reducible apply Only.step (incSat_only ..)); (case hs => decide))

theorem frameTaken_only (i : PortId) (bs : List Nat) (s : State) :
    Only (Part.but [.epoch, .store, .pins, .pending]) s (frameTaken i bs s) := by
  unfold frameTaken
  repeat' first
    | with_reducible exact Only.refl _
    | with_reducible assumption
    | (extract_lets +onlyGivenNames y
       first
         | (refine Only.have_ y ?_ fun _ => ?_; subst y; rotate_left; clear_value y)
         | clear_value y | skip)
    | ((with_reducible apply Only.step (checkFailed_only ..)); (case hs => decide))
    | ((with_reducible apply Only.step (frameHeard_only ..)); (case hs => decide))
    | ((with_reducible apply Only.step (takeReq_only ..)); (case hs => decide))
    | split

theorem arriveFrame_only (i : PortId) (bs : List Nat) (s : State) :
    Only (Part.but [.epoch, .store, .pins, .pending]) s (arriveFrame i bs s) := by
  unfold arriveFrame
  repeat' first
    | with_reducible exact Only.refl _
    | with_reducible assumption
    | (extract_lets +onlyGivenNames y
       first
         | (refine Only.have_ y ?_ fun _ => ?_; subst y; rotate_left; clear_value y)
         | clear_value y | skip)
    | ((with_reducible apply Only.step (frameTaken_only ..)); (case hs => decide))
    | ((with_reducible apply Only.step (frameHeard_only ..)); (case hs => decide))
    | ((with_reducible apply Only.step (notTakenFrame_only ..)); (case hs => decide))
    | split

theorem frameLeft_only (i : PortId) (s : State) :
    Only [.results, .ports] s (frameLeft i s) := by
  unfold frameLeft
  repeat' first
    | with_reducible exact Only.refl _
    | with_reducible assumption
    | (extract_lets +onlyGivenNames y
       first
         | (refine Only.have_ y ?_ fun _ => ?_; subst y; rotate_left; clear_value y)
         | clear_value y | skip)
    | ((with_reducible apply Only.step (setPort_only ..)); (case hs => decide))
    | ((with_reducible apply Only.step (incWrap_only ..)); (case hs => decide))

theorem setPartial_only (i : PortId) (cast : Bool) (b : Option (List Nat × Nat)) (s : State) :
    Only [.ports] s (setPartial i cast b s) := by
  unfold setPartial
  repeat' first
    | with_reducible exact Only.refl _
    | with_reducible assumption
    | (extract_lets +onlyGivenNames y
       first
         | (refine Only.have_ y ?_ fun _ => ?_; subst y; rotate_left; clear_value y)
         | clear_value y | skip)
    | ((with_reducible apply Only.step (setPort_only ..)); (case hs => decide))
    | split

theorem dropPartial_only (i : PortId) (cast : Bool) (b : List Nat) (s : State) :
    Only (Part.but [.epoch, .store, .pins, .pending]) s (dropPartial i cast b s) := by
  unfold dropPartial
  repeat' first
    | with_reducible exact Only.refl _
    | with_reducible assumption
    | (extract_lets +onlyGivenNames y
       first
         | (refine Only.have_ y ?_ fun _ => ?_; subst y; rotate_left; clear_value y)
         | clear_value y | skip)
    | ((with_reducible apply Only.step (checkFailed_only ..)); (case hs => decide))
    | ((with_reducible apply Only.step (takeReq_only ..)); (case hs => decide))
    | split

theorem frameDone_only (i : PortId) (cast : Bool) (b : List Nat) (s : State) :
    Only (Part.but [.epoch, .store, .pins, .pending]) s (frameDone i cast b s) := by
  unfold frameDone
  repeat' first
    | with_reducible exact Only.refl _
    | with_reducible assumption
    | (extract_lets +onlyGivenNames y
       first
         | (refine Only.have_ y ?_ fun _ => ?_; subst y; rotate_left; clear_value y)
         | clear_value y | skip)
    | ((with_reducible apply Only.step (frameTaken_only ..)); (case hs => decide))
    | ((with_reducible apply Only.step (inTurn_only ..)); (case hs => decide))
    | ((with_reducible apply Only.step (incWrap_only ..)); (case hs => decide))
    | split

theorem joinSegment_only (i : PortId) (cast : Bool) (b : List Nat) (n : Nat) (last : Bool) (s : State) :
    Only (Part.but [.epoch, .store, .pins, .pending]) s (joinSegment i cast b n last s) := by
  unfold joinSegment
  repeat' first
    | with_reducible exact Only.refl _
    | with_reducible assumption
    | (extract_lets +onlyGivenNames y
       first
         | (refine Only.have_ y ?_ fun _ => ?_; subst y; rotate_left; clear_value y)
         | clear_value y | skip)
    | ((with_reducible apply Only.step (frameDone_only ..)); (case hs => decide))
    | ((with_reducible apply Only.step (setPartial_only ..)); (case hs => decide))
    | split

theorem firstSegment_only (i : PortId) (cast : Bool) (b : List Nat) (n : Nat) (last : Bool) (s : State) :
    Only (Part.but [.epoch, .store, .pins, .pending]) s (firstSegment i cast b n last s) := by
  unfold firstSegment
  repeat' first
    | with_reducible exact Only.refl _
    | with_reducible assumption
    | (extract_lets +onlyGivenNames y
       first
         | (refine Only.have_ y ?_ fun _ => ?_; subst y; rotate_left; clear_value y)
         | clear_value y | skip)
    | ((with_reducible apply Only.step (joinSegment_only ..)); (case hs => decide))
    | ((with_reducible apply Only.step (dropPartial_only ..)); (case hs => decide))
    | ((with_reducible apply Only.step (setPartial_only ..)); (case hs => decide))
    | ((with_reducible apply Only.step (notTakenFrame_only ..)); (case hs => decide))
    | split

theorem takeSegment_only (i : PortId) (cast : Bool) (data : List Nat) (s : State) :
    Only (Part.but [.epoch, .store, .pins, .pending]) s (takeSegment i cast data s) := by
  unfold takeSegment
  repeat' first
    | with_reducible exact Only.refl _
    | with_reducible assumption
    | (extract_lets +onlyGivenNames y
       first
         | (refine Only.have_ y ?_ fun _ => ?_; subst y; rotate_left; clear_value y)
         | clear_value y | skip)
    | ((with_reducible apply Only.step (firstSegment_only ..)); (case hs => decide))
    | ((with_reducible apply Only.step (joinSegment_only ..)); (case hs => decide))
    | ((with_reducible apply Only.step (dropPartial_only ..)); (case hs => decide))
    | ((with_reducible apply Only.step (setPartial_only ..)); (case hs => decide))
    | split

theorem auxDictionary_only (data : List Nat) (s : State) :
    Only (Part.but [.epoch, .store, .pins, .pending]) s (auxDictionary data s).2 := by
  unfold auxDictionary
  repeat' first
    | with_reducible exact Only.refl _
    | with_reducible assumption
    | (extract_lets +onlyGivenNames y
       first
         | (refine Only.have_ y ?_ fun _ => ?_; subst y; rotate_left; clear_value y)
         | clear_value y | skip)
    | ((with_reducible apply Only.step (takeSegment_only ..)); (case hs => decide))
    | ((with_reducible apply Only.step (incSat_only ..)); (case hs => decide))
    | split

theorem fieldPump_only (s : State) :
    Only [.results, .ports, .can] s (fieldPump s) := by
  unfold fieldPump
  repeat' first
    | with_reducible exact Only.refl _
    | with_reducible assumption
    | (extract_lets +onlyGivenNames y
       first
         | (refine Only.have_ y ?_ fun _ => ?_; subst y; rotate_left; clear_value y)
         | (have _z : CtrlSt := y; subst y) | clear_value y | skip)
    | ((with_reducible apply Only.step (frameLeft_only ..)); (case hs => decide))
    | split
    | with_reducible refine Only.upd_can ?_

theorem lateDisable_only (i : PortId) (s : State) :
    Only [.results, .events, .ports, .storeQueue, .heldEvents] s (lateDisable i s) := by
  unfold lateDisable
  repeat' first
    | with_reducible exact Only.refl _
    | with_reducible assumption
    | (extract_lets +onlyGivenNames y
       first
         | (refine Only.have_ y ?_ fun _ => ?_; subst y; rotate_left; clear_value y)
         | clear_value y | skip)
    | ((with_reducible apply Only.step (disablePort_only ..)); (case hs => decide))
    | split

theorem execSpiStatus_only (s : State) :
    Runs [.ports] s (execSpiStatus s) := by
  unfold execSpiStatus
  repeat' first
    | with_reducible apply Runs.next
    | with_reducible exact Only.refl _
    | with_reducible assumption
    | (extract_lets +onlyGivenNames y
       first
         | (refine Only.have_ y ?_ fun _ => ?_; subst y; rotate_left; clear_value y)
         | clear_value y | skip)
    | ((with_reducible apply Only.step (setPort_only ..)); (case hs => decide))
    | split

theorem execSpiWriteFrame_only (bs : List Nat) (s : State) :
    Runs (Part.but [.epoch, .store, .pins, .pending]) s (execSpiWriteFrame bs s) := by
  unfold execSpiWriteFrame
  repeat' first
    | with_reducible apply Runs.next
    | with_reducible exact Only.refl _
    | with_reducible assumption
    | (extract_lets +onlyGivenNames y
       first
         | (refine Only.have_ y ?_ fun _ => ?_; subst y; rotate_left; clear_value y)
         | clear_value y | skip)
    | ((with_reducible apply Only.step (arriveFrame_only ..)); (case hs => decide))
    | split

theorem execSpiReadFrame_only (count : Nat) (s : State) :
    Runs [.results, .ports] s (execSpiReadFrame count s) := by
  unfold execSpiReadFrame
  repeat' first
    | with_reducible apply Runs.next
    | with_reducible exact Only.refl _
    | with_reducible assumption
    | (extract_lets +onlyGivenNames y
       first
         | (refine Only.have_ y ?_ fun _ => ?_; subst y; rotate_left; clear_value y)
         | clear_value y | skip)
    | ((with_reducible apply Only.step (frameLeft_only ..)); (case hs => decide))
    | split

theorem execI3cPrivateWrite_only (bs : List Nat) (s : State) :
    Runs (Part.but [.epoch, .store, .pins, .pending]) s (execI3cPrivateWrite bs s) := by
  unfold execI3cPrivateWrite
  repeat' first
    | with_reducible apply Runs.next
    | with_reducible exact Only.refl _
    | with_reducible assumption
    | (extract_lets +onlyGivenNames y
       first
         | (refine Only.have_ y ?_ fun _ => ?_; subst y; rotate_left; clear_value y)
         | clear_value y | skip)
    | ((with_reducible apply Only.step (arriveFrame_only ..)); (case hs => decide))
    | ((with_reducible apply Only.step (notTakenFrame_only ..)); (case hs => decide))
    | split

theorem execI3cPrivateRead_only (count : Nat) (s : State) :
    Runs [.results, .ports] s (execI3cPrivateRead count s) := by
  unfold execI3cPrivateRead
  repeat' first
    | with_reducible apply Runs.next
    | with_reducible exact Only.refl _
    | with_reducible assumption
    | (extract_lets +onlyGivenNames y
       first
         | (refine Only.have_ y ?_ fun _ => ?_; subst y; rotate_left; clear_value y)
         | clear_value y | skip)
    | ((with_reducible apply Only.step (frameLeft_only ..)); (case hs => decide))
    | ((with_reducible apply Only.step (setPort_only ..)); (case hs => decide))
    | split

theorem execI3cEntdaa_only (a : Nat) (s : State) :
    Runs [.ports] s (execI3cEntdaa a s) := by
  unfold execI3cEntdaa
  repeat' first
    | with_reducible apply Runs.next
    | with_reducible exact Only.refl _
    | with_reducible assumption
    | (extract_lets +onlyGivenNames y
       first
         | (refine Only.have_ y ?_ fun _ => ?_; subst y; rotate_left; clear_value y)
         | clear_value y | skip)
    | ((with_reducible apply Only.step (setPort_only ..)); (case hs => decide))
    | split

theorem execI3cSetdasa_only (static_ : Nat) (dynamic : Nat) (s : State) :
    Runs [.ports] s (execI3cSetdasa static_ dynamic s) := by
  unfold execI3cSetdasa
  repeat' first
    | with_reducible apply Runs.next
    | with_reducible exact Only.refl _
    | with_reducible assumption
    | (extract_lets +onlyGivenNames y
       first
         | (refine Only.have_ y ?_ fun _ => ?_; subst y; rotate_left; clear_value y)
         | clear_value y | skip)
    | ((with_reducible apply Only.step (setPort_only ..)); (case hs => decide))
    | split

theorem execFieldRequestSegment_only (node : Nat) (data : List Nat) (s : State) :
    Runs (Part.but [.epoch, .store, .pins, .pending]) s (execFieldRequestSegment node data s) := by
  unfold execFieldRequestSegment
  repeat' first
    | with_reducible apply Runs.next
    | with_reducible exact Only.refl _
    | with_reducible assumption
    | (extract_lets +onlyGivenNames y
       first
         | (refine Only.have_ y ?_ fun _ => ?_; subst y; rotate_left; clear_value y)
         | clear_value y | skip)
    | ((with_reducible apply Only.step (takeSegment_only ..)); (case hs => decide))
    | split

theorem execAuxDictionarySegment_only (f : AuxFrame) (s : State) :
    Runs (Part.but [.epoch, .store, .pins, .pending]) s (execAuxDictionarySegment f s) := by
  unfold execAuxDictionarySegment
  repeat' first
    | with_reducible apply Runs.next
    | with_reducible exact Only.refl _
    | with_reducible assumption
    | (extract_lets +onlyGivenNames y
       first
         | (refine Only.have_ y ?_ fun _ => ?_; subst y; rotate_left; clear_value y)
         | clear_value y | skip)
    | ((with_reducible apply Only.step (auxDictionary_only ..)); (case hs => decide))
    | (refine auxRequest_only _ _ (by decide) (fun _t => ?_); try dsimp only)
    | (split <;> refine Only.have_ _ (Only.snd ?_ (by assumption)) fun _ => ?_)
    | split

end Sys2Proof.Machine
end

