-- ==== Sys2Proof/Laws/FramesTick.lean ====
section
/-! SUPPORT. What each definition of Machine/Tick.lean changes. -/

set_option Elab.async false

set_option linter.tactic.unusedName false

namespace Sys2Proof.Machine

theorem writeBack_only (s : State) :
    Only [.dram] s (writeBack s) := by
  unfold writeBack
  repeat' first
    | with_reducible exact Only.refl _
    | with_reducible assumption
    | (extract_lets +onlyGivenNames y
       first
         | (refine Only.have_ y ?_ fun _ => ?_; subst y; rotate_left; clear_value y)
         | (have _z : DramSt := y; subst y) | clear_value y | skip)
    | split
    | with_reducible refine Only.upd_dram ?_

theorem staleReadings_only (s : State) :
    Only [.results, .events, .ports, .storeQueue, .heldEvents, .sensors] s (staleReadings s) := by
  unfold staleReadings
  repeat' first
    | with_reducible exact Only.refl _
    | with_reducible assumption
    | (extract_lets +onlyGivenNames y
       first
         | (refine Only.have_ y ?_ fun _ => ?_; subst y; rotate_left; clear_value y)
         | clear_value y | skip)
    | ((with_reducible apply Only.step (ntcStale_only ..)); (case hs => decide))
    | (with_reducible apply Only.foldl)
    | intro t a ht
    | split

theorem powerPump_only (s : State) :
    Only (Part.but [.fuses, .pins, .pending]) s (powerPump s) := by
  unfold powerPump
  repeat' first
    | with_reducible exact Only.refl _
    | with_reducible assumption
    | (extract_lets +onlyGivenNames y
       first
         | (refine Only.have_ y ?_ fun _ => ?_; subst y; rotate_left; clear_value y)
         | clear_value y | skip)
    | ((with_reducible apply Only.step (leaveStepOne_only ..)); (case hs => decide))
    | ((with_reducible apply Only.step (advanceRestart_only ..)); (case hs => decide))
    | split

theorem portPump_only (s : State) :
    Only [.results, .events, .ports, .can, .storeQueue, .heldEvents, .aux] s (portPump s) := by
  unfold portPump
  repeat' first
    | with_reducible exact Only.refl _
    | with_reducible assumption
    | (extract_lets +onlyGivenNames y
       first
         | (refine Only.have_ y ?_ fun _ => ?_; subst y; rotate_left; clear_value y)
         | clear_value y | skip)
    | ((with_reducible apply Only.step (lateDisable_only ..)); (case hs => decide))
    | ((with_reducible apply Only.step (fieldPump_only ..)); (case hs => decide))
    | ((with_reducible apply Only.step (auxPump_only ..)); (case hs => decide))

theorem tick_only (s : State) :
    Only (Part.but [.fuses, .pins, .pending]) s (tick s) := by
  unfold tick
  repeat' first
    | with_reducible exact Only.refl _
    | with_reducible assumption
    | (extract_lets +onlyGivenNames y
       first
         | (refine Only.have_ y ?_ fun _ => ?_; subst y; rotate_left; clear_value y)
         | clear_value y | skip)
    | ((with_reducible apply Only.step (portPump_only ..)); (case hs => decide))
    | ((with_reducible apply Only.step (powerPump_only ..)); (case hs => decide))
    | ((with_reducible apply Only.step (staleReadings_only ..)); (case hs => decide))
    | ((with_reducible apply Only.step (writeBack_only ..)); (case hs => decide))
    | ((with_reducible apply Only.step (linkAdapt_only ..)); (case hs => decide))
    | split
    | with_reducible refine Only.upd_now ?_

end Sys2Proof.Machine
end

