-- ==== Sys2Proof/Laws/FramesStep.lean ====
section
/-! SUPPORT. What each definition of Machine/Step.lean changes. -/

set_option Elab.async false

set_option linter.tactic.unusedName false

namespace Sys2Proof.Machine

theorem State.withFetchWord_only (s : State) (nbits : Nat) (w : Nat) :
    Only [.pending] s (State.withFetchWord s nbits w) := by
  unfold State.withFetchWord
  repeat' first
    | with_reducible exact Only.refl _
    | with_reducible assumption
    | (extract_lets +onlyGivenNames y
       first
         | (refine Only.have_ y ?_ fun _ => ?_; subst y; rotate_left; clear_value y)
         | clear_value y | skip)
    | split
    | with_reducible refine Only.upd_pending ?_

end Sys2Proof.Machine
end

