-- ==== Sys2Proof/Laws/State.lean ====
section
/-! SUPPORT. What the plain updates of State leave as it was: one lemma for each field and update, true by definition, so that no
proof unfolds a record update. -/

namespace Sys2Proof.Machine

section
variable (t : Nat) (s : State)
@[simp] theorem advanceTo_epoch : (advanceTo t s).epoch = s.epoch := rfl
@[simp] theorem advanceTo_dict : (advanceTo t s).dict = s.dict := rfl
@[simp] theorem advanceTo_ctrl : (advanceTo t s).ctrl = s.ctrl := rfl
@[simp] theorem advanceTo_pstore : (advanceTo t s).pstore = s.pstore := rfl
@[simp] theorem advanceTo_sec : (advanceTo t s).sec = s.sec := rfl
@[simp] theorem advanceTo_stag : (advanceTo t s).stag = s.stag := rfl
@[simp] theorem advanceTo_link : (advanceTo t s).link = s.link := rfl
@[simp] theorem advanceTo_aux : (advanceTo t s).aux = s.aux := rfl
@[simp] theorem advanceTo_rx : (advanceTo t s).rx = s.rx := rfl
@[simp] theorem advanceTo_raster : (advanceTo t s).raster = s.raster := rfl
@[simp] theorem advanceTo_pipe : (advanceTo t s).pipe = s.pipe := rfl
@[simp] theorem advanceTo_out : (advanceTo t s).out = s.out := rfl
@[simp] theorem advanceTo_panel : (advanceTo t s).panel = s.panel := rfl
@[simp] theorem advanceTo_fstore : (advanceTo t s).fstore = s.fstore := rfl
@[simp] theorem advanceTo_dram : (advanceTo t s).dram = s.dram := rfl
@[simp] theorem advanceTo_sram : (advanceTo t s).sram = s.sram := rfl
@[simp] theorem advanceTo_resil : (advanceTo t s).resil = s.resil := rfl
@[simp] theorem advanceTo_power : (advanceTo t s).power = s.power := rfl
@[simp] theorem advanceTo_pins : (advanceTo t s).pins = s.pins := rfl
@[simp] theorem advanceTo_free : (advanceTo t s).free = s.free := rfl
@[simp] theorem advanceTo_pending : (advanceTo t s).pending = s.pending := rfl
end

section
variable (h : Nat) (p : Nat) (i : Nat) (v : Int) (s : State)
@[simp] theorem setCfg_now : (setCfg h p i v s).now = s.now := rfl
@[simp] theorem setCfg_epoch : (setCfg h p i v s).epoch = s.epoch := rfl
@[simp] theorem setCfg_dict_held : (setCfg h p i v s).dict.held = s.dict.held := rfl
@[simp] theorem setCfg_dict_items : (setCfg h p i v s).dict.items = s.dict.items := rfl
@[simp] theorem setCfg_dict_patch : (setCfg h p i v s).dict.patch = s.dict.patch := rfl
@[simp] theorem setCfg_dict_commits : (setCfg h p i v s).dict.commits = s.dict.commits := rfl
@[simp] theorem setCfg_dict_res : (setCfg h p i v s).dict.res = s.dict.res := rfl
@[simp] theorem setCfg_dict_gens : (setCfg h p i v s).dict.gens = s.dict.gens := rfl
@[simp] theorem setCfg_dict_limited : (setCfg h p i v s).dict.limited = s.dict.limited := rfl
@[simp] theorem setCfg_dict_lastEvent : (setCfg h p i v s).dict.lastEvent = s.dict.lastEvent := rfl
@[simp] theorem setCfg_dict_ordinal : (setCfg h p i v s).dict.ordinal = s.dict.ordinal := rfl
@[simp] theorem setCfg_dict_ce : (setCfg h p i v s).dict.ce = s.dict.ce := rfl
@[simp] theorem setCfg_dict_ue : (setCfg h p i v s).dict.ue = s.dict.ue := rfl
@[simp] theorem setCfg_ctrl : (setCfg h p i v s).ctrl = s.ctrl := rfl
@[simp] theorem setCfg_pstore : (setCfg h p i v s).pstore = s.pstore := rfl
@[simp] theorem setCfg_sec : (setCfg h p i v s).sec = s.sec := rfl
@[simp] theorem setCfg_stag : (setCfg h p i v s).stag = s.stag := rfl
@[simp] theorem setCfg_link : (setCfg h p i v s).link = s.link := rfl
@[simp] theorem setCfg_aux : (setCfg h p i v s).aux = s.aux := rfl
@[simp] theorem setCfg_rx : (setCfg h p i v s).rx = s.rx := rfl
@[simp] theorem setCfg_raster : (setCfg h p i v s).raster = s.raster := rfl
@[simp] theorem setCfg_pipe : (setCfg h p i v s).pipe = s.pipe := rfl
@[simp] theorem setCfg_out : (setCfg h p i v s).out = s.out := rfl
@[simp] theorem setCfg_panel : (setCfg h p i v s).panel = s.panel := rfl
@[simp] theorem setCfg_fstore : (setCfg h p i v s).fstore = s.fstore := rfl
@[simp] theorem setCfg_dram : (setCfg h p i v s).dram = s.dram := rfl
@[simp] theorem setCfg_sram : (setCfg h p i v s).sram = s.sram := rfl
@[simp] theorem setCfg_resil : (setCfg h p i v s).resil = s.resil := rfl
@[simp] theorem setCfg_power : (setCfg h p i v s).power = s.power := rfl
@[simp] theorem setCfg_pins : (setCfg h p i v s).pins = s.pins := rfl
@[simp] theorem setCfg_free : (setCfg h p i v s).free = s.free := rfl
@[simp] theorem setCfg_pending : (setCfg h p i v s).pending = s.pending := rfl
end

section
variable (h : Nat) (p : Nat) (s : State)
@[simp] theorem bumpGen_now : (bumpGen h p s).now = s.now := rfl
@[simp] theorem bumpGen_epoch : (bumpGen h p s).epoch = s.epoch := rfl
@[simp] theorem bumpGen_dict_cfg : (bumpGen h p s).dict.cfg = s.dict.cfg := rfl
@[simp] theorem bumpGen_dict_held : (bumpGen h p s).dict.held = s.dict.held := rfl
@[simp] theorem bumpGen_dict_items : (bumpGen h p s).dict.items = s.dict.items := rfl
@[simp] theorem bumpGen_dict_patch : (bumpGen h p s).dict.patch = s.dict.patch := rfl
@[simp] theorem bumpGen_dict_commits : (bumpGen h p s).dict.commits = s.dict.commits := rfl
@[simp] theorem bumpGen_dict_res : (bumpGen h p s).dict.res = s.dict.res := rfl
@[simp] theorem bumpGen_dict_limited : (bumpGen h p s).dict.limited = s.dict.limited := rfl
@[simp] theorem bumpGen_dict_lastEvent : (bumpGen h p s).dict.lastEvent = s.dict.lastEvent := rfl
@[simp] theorem bumpGen_dict_ordinal : (bumpGen h p s).dict.ordinal = s.dict.ordinal := rfl
@[simp] theorem bumpGen_dict_ce : (bumpGen h p s).dict.ce = s.dict.ce := rfl
@[simp] theorem bumpGen_dict_ue : (bumpGen h p s).dict.ue = s.dict.ue := rfl
@[simp] theorem bumpGen_ctrl : (bumpGen h p s).ctrl = s.ctrl := rfl
@[simp] theorem bumpGen_pstore : (bumpGen h p s).pstore = s.pstore := rfl
@[simp] theorem bumpGen_sec : (bumpGen h p s).sec = s.sec := rfl
@[simp] theorem bumpGen_stag : (bumpGen h p s).stag = s.stag := rfl
@[simp] theorem bumpGen_link : (bumpGen h p s).link = s.link := rfl
@[simp] theorem bumpGen_aux : (bumpGen h p s).aux = s.aux := rfl
@[simp] theorem bumpGen_rx : (bumpGen h p s).rx = s.rx := rfl
@[simp] theorem bumpGen_raster : (bumpGen h p s).raster = s.raster := rfl
@[simp] theorem bumpGen_pipe : (bumpGen h p s).pipe = s.pipe := rfl
@[simp] theorem bumpGen_out : (bumpGen h p s).out = s.out := rfl
@[simp] theorem bumpGen_panel : (bumpGen h p s).panel = s.panel := rfl
@[simp] theorem bumpGen_fstore : (bumpGen h p s).fstore = s.fstore := rfl
@[simp] theorem bumpGen_dram : (bumpGen h p s).dram = s.dram := rfl
@[simp] theorem bumpGen_sram : (bumpGen h p s).sram = s.sram := rfl
@[simp] theorem bumpGen_resil : (bumpGen h p s).resil = s.resil := rfl
@[simp] theorem bumpGen_power : (bumpGen h p s).power = s.power := rfl
@[simp] theorem bumpGen_pins : (bumpGen h p s).pins = s.pins := rfl
@[simp] theorem bumpGen_free : (bumpGen h p s).free = s.free := rfl
@[simp] theorem bumpGen_pending : (bumpGen h p s).pending = s.pending := rfl
end

section
variable (h : Nat) (p : Nat) (i : Nat) (v : Int) (s : State)
@[simp] theorem setResAt_now : (setResAt h p i v s).now = s.now := rfl
@[simp] theorem setResAt_epoch : (setResAt h p i v s).epoch = s.epoch := rfl
@[simp] theorem setResAt_dict_cfg : (setResAt h p i v s).dict.cfg = s.dict.cfg := rfl
@[simp] theorem setResAt_dict_held : (setResAt h p i v s).dict.held = s.dict.held := rfl
@[simp] theorem setResAt_dict_items : (setResAt h p i v s).dict.items = s.dict.items := rfl
@[simp] theorem setResAt_dict_patch : (setResAt h p i v s).dict.patch = s.dict.patch := rfl
@[simp] theorem setResAt_dict_commits : (setResAt h p i v s).dict.commits = s.dict.commits := rfl
@[simp] theorem setResAt_dict_limited : (setResAt h p i v s).dict.limited = s.dict.limited := rfl
@[simp] theorem setResAt_dict_lastEvent : (setResAt h p i v s).dict.lastEvent = s.dict.lastEvent := rfl
@[simp] theorem setResAt_dict_ordinal : (setResAt h p i v s).dict.ordinal = s.dict.ordinal := rfl
@[simp] theorem setResAt_dict_ce : (setResAt h p i v s).dict.ce = s.dict.ce := rfl
@[simp] theorem setResAt_dict_ue : (setResAt h p i v s).dict.ue = s.dict.ue := rfl
@[simp] theorem setResAt_ctrl : (setResAt h p i v s).ctrl = s.ctrl := rfl
@[simp] theorem setResAt_pstore : (setResAt h p i v s).pstore = s.pstore := rfl
@[simp] theorem setResAt_sec : (setResAt h p i v s).sec = s.sec := rfl
@[simp] theorem setResAt_stag : (setResAt h p i v s).stag = s.stag := rfl
@[simp] theorem setResAt_link : (setResAt h p i v s).link = s.link := rfl
@[simp] theorem setResAt_aux : (setResAt h p i v s).aux = s.aux := rfl
@[simp] theorem setResAt_rx : (setResAt h p i v s).rx = s.rx := rfl
@[simp] theorem setResAt_raster : (setResAt h p i v s).raster = s.raster := rfl
@[simp] theorem setResAt_pipe : (setResAt h p i v s).pipe = s.pipe := rfl
@[simp] theorem setResAt_out : (setResAt h p i v s).out = s.out := rfl
@[simp] theorem setResAt_panel : (setResAt h p i v s).panel = s.panel := rfl
@[simp] theorem setResAt_fstore : (setResAt h p i v s).fstore = s.fstore := rfl
@[simp] theorem setResAt_dram : (setResAt h p i v s).dram = s.dram := rfl
@[simp] theorem setResAt_sram : (setResAt h p i v s).sram = s.sram := rfl
@[simp] theorem setResAt_resil : (setResAt h p i v s).resil = s.resil := rfl
@[simp] theorem setResAt_power : (setResAt h p i v s).power = s.power := rfl
@[simp] theorem setResAt_pins : (setResAt h p i v s).pins = s.pins := rfl
@[simp] theorem setResAt_free : (setResAt h p i v s).free = s.free := rfl
@[simp] theorem setResAt_pending : (setResAt h p i v s).pending = s.pending := rfl
end

section
variable (h : Nat) (p : Nat) (v : Int) (s : State)
@[simp] theorem setResI_now : (setResI h p v s).now = s.now := rfl
@[simp] theorem setResI_epoch : (setResI h p v s).epoch = s.epoch := rfl
@[simp] theorem setResI_dict_cfg : (setResI h p v s).dict.cfg = s.dict.cfg := rfl
@[simp] theorem setResI_dict_held : (setResI h p v s).dict.held = s.dict.held := rfl
@[simp] theorem setResI_dict_items : (setResI h p v s).dict.items = s.dict.items := rfl
@[simp] theorem setResI_dict_patch : (setResI h p v s).dict.patch = s.dict.patch := rfl
@[simp] theorem setResI_dict_commits : (setResI h p v s).dict.commits = s.dict.commits := rfl
@[simp] theorem setResI_dict_limited : (setResI h p v s).dict.limited = s.dict.limited := rfl
@[simp] theorem setResI_dict_lastEvent : (setResI h p v s).dict.lastEvent = s.dict.lastEvent := rfl
@[simp] theorem setResI_dict_ordinal : (setResI h p v s).dict.ordinal = s.dict.ordinal := rfl
@[simp] theorem setResI_dict_ce : (setResI h p v s).dict.ce = s.dict.ce := rfl
@[simp] theorem setResI_dict_ue : (setResI h p v s).dict.ue = s.dict.ue := rfl
@[simp] theorem setResI_ctrl : (setResI h p v s).ctrl = s.ctrl := rfl
@[simp] theorem setResI_pstore : (setResI h p v s).pstore = s.pstore := rfl
@[simp] theorem setResI_sec : (setResI h p v s).sec = s.sec := rfl
@[simp] theorem setResI_stag : (setResI h p v s).stag = s.stag := rfl
@[simp] theorem setResI_link : (setResI h p v s).link = s.link := rfl
@[simp] theorem setResI_aux : (setResI h p v s).aux = s.aux := rfl
@[simp] theorem setResI_rx : (setResI h p v s).rx = s.rx := rfl
@[simp] theorem setResI_raster : (setResI h p v s).raster = s.raster := rfl
@[simp] theorem setResI_pipe : (setResI h p v s).pipe = s.pipe := rfl
@[simp] theorem setResI_out : (setResI h p v s).out = s.out := rfl
@[simp] theorem setResI_panel : (setResI h p v s).panel = s.panel := rfl
@[simp] theorem setResI_fstore : (setResI h p v s).fstore = s.fstore := rfl
@[simp] theorem setResI_dram : (setResI h p v s).dram = s.dram := rfl
@[simp] theorem setResI_sram : (setResI h p v s).sram = s.sram := rfl
@[simp] theorem setResI_resil : (setResI h p v s).resil = s.resil := rfl
@[simp] theorem setResI_power : (setResI h p v s).power = s.power := rfl
@[simp] theorem setResI_pins : (setResI h p v s).pins = s.pins := rfl
@[simp] theorem setResI_free : (setResI h p v s).free = s.free := rfl
@[simp] theorem setResI_pending : (setResI h p v s).pending = s.pending := rfl
end

section
variable (h : Nat) (p : Nat) (v : Nat) (s : State)
@[simp] theorem setRes_now : (setRes h p v s).now = s.now := rfl
@[simp] theorem setRes_epoch : (setRes h p v s).epoch = s.epoch := rfl
@[simp] theorem setRes_dict_cfg : (setRes h p v s).dict.cfg = s.dict.cfg := rfl
@[simp] theorem setRes_dict_held : (setRes h p v s).dict.held = s.dict.held := rfl
@[simp] theorem setRes_dict_items : (setRes h p v s).dict.items = s.dict.items := rfl
@[simp] theorem setRes_dict_patch : (setRes h p v s).dict.patch = s.dict.patch := rfl
@[simp] theorem setRes_dict_commits : (setRes h p v s).dict.commits = s.dict.commits := rfl
@[simp] theorem setRes_dict_limited : (setRes h p v s).dict.limited = s.dict.limited := rfl
@[simp] theorem setRes_dict_lastEvent : (setRes h p v s).dict.lastEvent = s.dict.lastEvent := rfl
@[simp] theorem setRes_dict_ordinal : (setRes h p v s).dict.ordinal = s.dict.ordinal := rfl
@[simp] theorem setRes_dict_ce : (setRes h p v s).dict.ce = s.dict.ce := rfl
@[simp] theorem setRes_dict_ue : (setRes h p v s).dict.ue = s.dict.ue := rfl
@[simp] theorem setRes_ctrl : (setRes h p v s).ctrl = s.ctrl := rfl
@[simp] theorem setRes_pstore : (setRes h p v s).pstore = s.pstore := rfl
@[simp] theorem setRes_sec : (setRes h p v s).sec = s.sec := rfl
@[simp] theorem setRes_stag : (setRes h p v s).stag = s.stag := rfl
@[simp] theorem setRes_link : (setRes h p v s).link = s.link := rfl
@[simp] theorem setRes_aux : (setRes h p v s).aux = s.aux := rfl
@[simp] theorem setRes_rx : (setRes h p v s).rx = s.rx := rfl
@[simp] theorem setRes_raster : (setRes h p v s).raster = s.raster := rfl
@[simp] theorem setRes_pipe : (setRes h p v s).pipe = s.pipe := rfl
@[simp] theorem setRes_out : (setRes h p v s).out = s.out := rfl
@[simp] theorem setRes_panel : (setRes h p v s).panel = s.panel := rfl
@[simp] theorem setRes_fstore : (setRes h p v s).fstore = s.fstore := rfl
@[simp] theorem setRes_dram : (setRes h p v s).dram = s.dram := rfl
@[simp] theorem setRes_sram : (setRes h p v s).sram = s.sram := rfl
@[simp] theorem setRes_resil : (setRes h p v s).resil = s.resil := rfl
@[simp] theorem setRes_power : (setRes h p v s).power = s.power := rfl
@[simp] theorem setRes_pins : (setRes h p v s).pins = s.pins := rfl
@[simp] theorem setRes_free : (setRes h p v s).free = s.free := rfl
@[simp] theorem setRes_pending : (setRes h p v s).pending = s.pending := rfl
end

section
variable (h : Nat) (p : Nat) (v : Bool) (s : State)
@[simp] theorem setResB_now : (setResB h p v s).now = s.now := rfl
@[simp] theorem setResB_epoch : (setResB h p v s).epoch = s.epoch := rfl
@[simp] theorem setResB_dict_cfg : (setResB h p v s).dict.cfg = s.dict.cfg := rfl
@[simp] theorem setResB_dict_held : (setResB h p v s).dict.held = s.dict.held := rfl
@[simp] theorem setResB_dict_items : (setResB h p v s).dict.items = s.dict.items := rfl
@[simp] theorem setResB_dict_patch : (setResB h p v s).dict.patch = s.dict.patch := rfl
@[simp] theorem setResB_dict_commits : (setResB h p v s).dict.commits = s.dict.commits := rfl
@[simp] theorem setResB_dict_limited : (setResB h p v s).dict.limited = s.dict.limited := rfl
@[simp] theorem setResB_dict_lastEvent : (setResB h p v s).dict.lastEvent = s.dict.lastEvent := rfl
@[simp] theorem setResB_dict_ordinal : (setResB h p v s).dict.ordinal = s.dict.ordinal := rfl
@[simp] theorem setResB_dict_ce : (setResB h p v s).dict.ce = s.dict.ce := rfl
@[simp] theorem setResB_dict_ue : (setResB h p v s).dict.ue = s.dict.ue := rfl
@[simp] theorem setResB_ctrl : (setResB h p v s).ctrl = s.ctrl := rfl
@[simp] theorem setResB_pstore : (setResB h p v s).pstore = s.pstore := rfl
@[simp] theorem setResB_sec : (setResB h p v s).sec = s.sec := rfl
@[simp] theorem setResB_stag : (setResB h p v s).stag = s.stag := rfl
@[simp] theorem setResB_link : (setResB h p v s).link = s.link := rfl
@[simp] theorem setResB_aux : (setResB h p v s).aux = s.aux := rfl
@[simp] theorem setResB_rx : (setResB h p v s).rx = s.rx := rfl
@[simp] theorem setResB_raster : (setResB h p v s).raster = s.raster := rfl
@[simp] theorem setResB_pipe : (setResB h p v s).pipe = s.pipe := rfl
@[simp] theorem setResB_out : (setResB h p v s).out = s.out := rfl
@[simp] theorem setResB_panel : (setResB h p v s).panel = s.panel := rfl
@[simp] theorem setResB_fstore : (setResB h p v s).fstore = s.fstore := rfl
@[simp] theorem setResB_dram : (setResB h p v s).dram = s.dram := rfl
@[simp] theorem setResB_sram : (setResB h p v s).sram = s.sram := rfl
@[simp] theorem setResB_resil : (setResB h p v s).resil = s.resil := rfl
@[simp] theorem setResB_power : (setResB h p v s).power = s.power := rfl
@[simp] theorem setResB_pins : (setResB h p v s).pins = s.pins := rfl
@[simp] theorem setResB_free : (setResB h p v s).free = s.free := rfl
@[simp] theorem setResB_pending : (setResB h p v s).pending = s.pending := rfl
end

section
variable (h : Nat) (p : Nat) (vs : List Int) (s : State)
@[simp] theorem setResList_now : (setResList h p vs s).now = s.now := rfl
@[simp] theorem setResList_epoch : (setResList h p vs s).epoch = s.epoch := rfl
@[simp] theorem setResList_dict_cfg : (setResList h p vs s).dict.cfg = s.dict.cfg := rfl
@[simp] theorem setResList_dict_held : (setResList h p vs s).dict.held = s.dict.held := rfl
@[simp] theorem setResList_dict_items : (setResList h p vs s).dict.items = s.dict.items := rfl
@[simp] theorem setResList_dict_patch : (setResList h p vs s).dict.patch = s.dict.patch := rfl
@[simp] theorem setResList_dict_commits : (setResList h p vs s).dict.commits = s.dict.commits := rfl
@[simp] theorem setResList_dict_limited : (setResList h p vs s).dict.limited = s.dict.limited := rfl
@[simp] theorem setResList_dict_lastEvent : (setResList h p vs s).dict.lastEvent = s.dict.lastEvent := rfl
@[simp] theorem setResList_dict_ordinal : (setResList h p vs s).dict.ordinal = s.dict.ordinal := rfl
@[simp] theorem setResList_dict_ce : (setResList h p vs s).dict.ce = s.dict.ce := rfl
@[simp] theorem setResList_dict_ue : (setResList h p vs s).dict.ue = s.dict.ue := rfl
@[simp] theorem setResList_ctrl : (setResList h p vs s).ctrl = s.ctrl := rfl
@[simp] theorem setResList_pstore : (setResList h p vs s).pstore = s.pstore := rfl
@[simp] theorem setResList_sec : (setResList h p vs s).sec = s.sec := rfl
@[simp] theorem setResList_stag : (setResList h p vs s).stag = s.stag := rfl
@[simp] theorem setResList_link : (setResList h p vs s).link = s.link := rfl
@[simp] theorem setResList_aux : (setResList h p vs s).aux = s.aux := rfl
@[simp] theorem setResList_rx : (setResList h p vs s).rx = s.rx := rfl
@[simp] theorem setResList_raster : (setResList h p vs s).raster = s.raster := rfl
@[simp] theorem setResList_pipe : (setResList h p vs s).pipe = s.pipe := rfl
@[simp] theorem setResList_out : (setResList h p vs s).out = s.out := rfl
@[simp] theorem setResList_panel : (setResList h p vs s).panel = s.panel := rfl
@[simp] theorem setResList_fstore : (setResList h p vs s).fstore = s.fstore := rfl
@[simp] theorem setResList_dram : (setResList h p vs s).dram = s.dram := rfl
@[simp] theorem setResList_sram : (setResList h p vs s).sram = s.sram := rfl
@[simp] theorem setResList_resil : (setResList h p vs s).resil = s.resil := rfl
@[simp] theorem setResList_power : (setResList h p vs s).power = s.power := rfl
@[simp] theorem setResList_pins : (setResList h p vs s).pins = s.pins := rfl
@[simp] theorem setResList_free : (setResList h p vs s).free = s.free := rfl
@[simp] theorem setResList_pending : (setResList h p vs s).pending = s.pending := rfl
end

section
variable (h : Nat) (n : Nat) (s : State)
@[simp] theorem addCe_now : (addCe h n s).now = s.now := rfl
@[simp] theorem addCe_epoch : (addCe h n s).epoch = s.epoch := rfl
@[simp] theorem addCe_dict_cfg : (addCe h n s).dict.cfg = s.dict.cfg := rfl
@[simp] theorem addCe_dict_held : (addCe h n s).dict.held = s.dict.held := rfl
@[simp] theorem addCe_dict_items : (addCe h n s).dict.items = s.dict.items := rfl
@[simp] theorem addCe_dict_patch : (addCe h n s).dict.patch = s.dict.patch := rfl
@[simp] theorem addCe_dict_commits : (addCe h n s).dict.commits = s.dict.commits := rfl
@[simp] theorem addCe_dict_res : (addCe h n s).dict.res = s.dict.res := rfl
@[simp] theorem addCe_dict_gens : (addCe h n s).dict.gens = s.dict.gens := rfl
@[simp] theorem addCe_dict_limited : (addCe h n s).dict.limited = s.dict.limited := rfl
@[simp] theorem addCe_dict_lastEvent : (addCe h n s).dict.lastEvent = s.dict.lastEvent := rfl
@[simp] theorem addCe_dict_ordinal : (addCe h n s).dict.ordinal = s.dict.ordinal := rfl
@[simp] theorem addCe_dict_ue : (addCe h n s).dict.ue = s.dict.ue := rfl
@[simp] theorem addCe_ctrl : (addCe h n s).ctrl = s.ctrl := rfl
@[simp] theorem addCe_pstore : (addCe h n s).pstore = s.pstore := rfl
@[simp] theorem addCe_sec : (addCe h n s).sec = s.sec := rfl
@[simp] theorem addCe_stag : (addCe h n s).stag = s.stag := rfl
@[simp] theorem addCe_link : (addCe h n s).link = s.link := rfl
@[simp] theorem addCe_aux : (addCe h n s).aux = s.aux := rfl
@[simp] theorem addCe_rx : (addCe h n s).rx = s.rx := rfl
@[simp] theorem addCe_raster : (addCe h n s).raster = s.raster := rfl
@[simp] theorem addCe_pipe : (addCe h n s).pipe = s.pipe := rfl
@[simp] theorem addCe_out : (addCe h n s).out = s.out := rfl
@[simp] theorem addCe_panel : (addCe h n s).panel = s.panel := rfl
@[simp] theorem addCe_fstore : (addCe h n s).fstore = s.fstore := rfl
@[simp] theorem addCe_dram : (addCe h n s).dram = s.dram := rfl
@[simp] theorem addCe_sram : (addCe h n s).sram = s.sram := rfl
@[simp] theorem addCe_resil : (addCe h n s).resil = s.resil := rfl
@[simp] theorem addCe_power : (addCe h n s).power = s.power := rfl
@[simp] theorem addCe_pins : (addCe h n s).pins = s.pins := rfl
@[simp] theorem addCe_free : (addCe h n s).free = s.free := rfl
@[simp] theorem addCe_pending : (addCe h n s).pending = s.pending := rfl
end

section
variable (h : Nat) (n : Nat) (s : State)
@[simp] theorem addUe_now : (addUe h n s).now = s.now := rfl
@[simp] theorem addUe_epoch : (addUe h n s).epoch = s.epoch := rfl
@[simp] theorem addUe_dict_cfg : (addUe h n s).dict.cfg = s.dict.cfg := rfl
@[simp] theorem addUe_dict_held : (addUe h n s).dict.held = s.dict.held := rfl
@[simp] theorem addUe_dict_items : (addUe h n s).dict.items = s.dict.items := rfl
@[simp] theorem addUe_dict_patch : (addUe h n s).dict.patch = s.dict.patch := rfl
@[simp] theorem addUe_dict_commits : (addUe h n s).dict.commits = s.dict.commits := rfl
@[simp] theorem addUe_dict_res : (addUe h n s).dict.res = s.dict.res := rfl
@[simp] theorem addUe_dict_gens : (addUe h n s).dict.gens = s.dict.gens := rfl
@[simp] theorem addUe_dict_limited : (addUe h n s).dict.limited = s.dict.limited := rfl
@[simp] theorem addUe_dict_lastEvent : (addUe h n s).dict.lastEvent = s.dict.lastEvent := rfl
@[simp] theorem addUe_dict_ordinal : (addUe h n s).dict.ordinal = s.dict.ordinal := rfl
@[simp] theorem addUe_dict_ce : (addUe h n s).dict.ce = s.dict.ce := rfl
@[simp] theorem addUe_ctrl : (addUe h n s).ctrl = s.ctrl := rfl
@[simp] theorem addUe_pstore : (addUe h n s).pstore = s.pstore := rfl
@[simp] theorem addUe_sec : (addUe h n s).sec = s.sec := rfl
@[simp] theorem addUe_stag : (addUe h n s).stag = s.stag := rfl
@[simp] theorem addUe_link : (addUe h n s).link = s.link := rfl
@[simp] theorem addUe_aux : (addUe h n s).aux = s.aux := rfl
@[simp] theorem addUe_rx : (addUe h n s).rx = s.rx := rfl
@[simp] theorem addUe_raster : (addUe h n s).raster = s.raster := rfl
@[simp] theorem addUe_pipe : (addUe h n s).pipe = s.pipe := rfl
@[simp] theorem addUe_out : (addUe h n s).out = s.out := rfl
@[simp] theorem addUe_panel : (addUe h n s).panel = s.panel := rfl
@[simp] theorem addUe_fstore : (addUe h n s).fstore = s.fstore := rfl
@[simp] theorem addUe_dram : (addUe h n s).dram = s.dram := rfl
@[simp] theorem addUe_sram : (addUe h n s).sram = s.sram := rfl
@[simp] theorem addUe_resil : (addUe h n s).resil = s.resil := rfl
@[simp] theorem addUe_power : (addUe h n s).power = s.power := rfl
@[simp] theorem addUe_pins : (addUe h n s).pins = s.pins := rfl
@[simp] theorem addUe_free : (addUe h n s).free = s.free := rfl
@[simp] theorem addUe_pending : (addUe h n s).pending = s.pending := rfl
end

section
variable (b : Nat) (x : BankSt) (s : State)
@[simp] theorem setBank_now : (setBank b x s).now = s.now := rfl
@[simp] theorem setBank_epoch : (setBank b x s).epoch = s.epoch := rfl
@[simp] theorem setBank_dict : (setBank b x s).dict = s.dict := rfl
@[simp] theorem setBank_ctrl : (setBank b x s).ctrl = s.ctrl := rfl
@[simp] theorem setBank_pstore : (setBank b x s).pstore = s.pstore := rfl
@[simp] theorem setBank_sec : (setBank b x s).sec = s.sec := rfl
@[simp] theorem setBank_stag : (setBank b x s).stag = s.stag := rfl
@[simp] theorem setBank_link : (setBank b x s).link = s.link := rfl
@[simp] theorem setBank_aux : (setBank b x s).aux = s.aux := rfl
@[simp] theorem setBank_rx : (setBank b x s).rx = s.rx := rfl
@[simp] theorem setBank_raster : (setBank b x s).raster = s.raster := rfl
@[simp] theorem setBank_pipe : (setBank b x s).pipe = s.pipe := rfl
@[simp] theorem setBank_out : (setBank b x s).out = s.out := rfl
@[simp] theorem setBank_panel : (setBank b x s).panel = s.panel := rfl
@[simp] theorem setBank_fstore : (setBank b x s).fstore = s.fstore := rfl
@[simp] theorem setBank_dram : (setBank b x s).dram = s.dram := rfl
@[simp] theorem setBank_sram_mem : (setBank b x s).sram.mem = s.sram.mem := rfl
@[simp] theorem setBank_sram_poison : (setBank b x s).sram.poison = s.sram.poison := rfl
@[simp] theorem setBank_sram_window : (setBank b x s).sram.window = s.sram.window := rfl
@[simp] theorem setBank_sram_passed : (setBank b x s).sram.passed = s.sram.passed := rfl
@[simp] theorem setBank_sram_accessible : (setBank b x s).sram.accessible = s.sram.accessible := rfl
@[simp] theorem setBank_resil : (setBank b x s).resil = s.resil := rfl
@[simp] theorem setBank_power : (setBank b x s).power = s.power := rfl
@[simp] theorem setBank_pins : (setBank b x s).pins = s.pins := rfl
@[simp] theorem setBank_free : (setBank b x s).free = s.free := rfl
@[simp] theorem setBank_pending : (setBank b x s).pending = s.pending := rfl
end

section
variable (b : Nat) (offset : Nat) (lane : Nat) (v : Nat) (s : State)
@[simp] theorem storeLane_now : (storeLane b offset lane v s).now = s.now := rfl
@[simp] theorem storeLane_epoch : (storeLane b offset lane v s).epoch = s.epoch := rfl
@[simp] theorem storeLane_dict : (storeLane b offset lane v s).dict = s.dict := rfl
@[simp] theorem storeLane_ctrl : (storeLane b offset lane v s).ctrl = s.ctrl := rfl
@[simp] theorem storeLane_pstore : (storeLane b offset lane v s).pstore = s.pstore := rfl
@[simp] theorem storeLane_sec : (storeLane b offset lane v s).sec = s.sec := rfl
@[simp] theorem storeLane_stag : (storeLane b offset lane v s).stag = s.stag := rfl
@[simp] theorem storeLane_link : (storeLane b offset lane v s).link = s.link := rfl
@[simp] theorem storeLane_aux : (storeLane b offset lane v s).aux = s.aux := rfl
@[simp] theorem storeLane_rx : (storeLane b offset lane v s).rx = s.rx := rfl
@[simp] theorem storeLane_raster : (storeLane b offset lane v s).raster = s.raster := rfl
@[simp] theorem storeLane_pipe : (storeLane b offset lane v s).pipe = s.pipe := rfl
@[simp] theorem storeLane_out : (storeLane b offset lane v s).out = s.out := rfl
@[simp] theorem storeLane_panel : (storeLane b offset lane v s).panel = s.panel := rfl
@[simp] theorem storeLane_fstore : (storeLane b offset lane v s).fstore = s.fstore := rfl
@[simp] theorem storeLane_dram : (storeLane b offset lane v s).dram = s.dram := rfl
@[simp] theorem storeLane_sram_poison : (storeLane b offset lane v s).sram.poison = s.sram.poison := rfl
@[simp] theorem storeLane_sram_banks : (storeLane b offset lane v s).sram.banks = s.sram.banks := rfl
@[simp] theorem storeLane_sram_window : (storeLane b offset lane v s).sram.window = s.sram.window := rfl
@[simp] theorem storeLane_sram_passed : (storeLane b offset lane v s).sram.passed = s.sram.passed := rfl
@[simp] theorem storeLane_sram_accessible : (storeLane b offset lane v s).sram.accessible = s.sram.accessible := rfl
@[simp] theorem storeLane_resil : (storeLane b offset lane v s).resil = s.resil := rfl
@[simp] theorem storeLane_power : (storeLane b offset lane v s).power = s.power := rfl
@[simp] theorem storeLane_pins : (storeLane b offset lane v s).pins = s.pins := rfl
@[simp] theorem storeLane_free : (storeLane b offset lane v s).free = s.free := rfl
@[simp] theorem storeLane_pending : (storeLane b offset lane v s).pending = s.pending := rfl
end

section
variable (c : Nat) (x : ChanSt) (s : State)
@[simp] theorem setChan_now : (setChan c x s).now = s.now := rfl
@[simp] theorem setChan_epoch : (setChan c x s).epoch = s.epoch := rfl
@[simp] theorem setChan_dict : (setChan c x s).dict = s.dict := rfl
@[simp] theorem setChan_ctrl : (setChan c x s).ctrl = s.ctrl := rfl
@[simp] theorem setChan_pstore : (setChan c x s).pstore = s.pstore := rfl
@[simp] theorem setChan_sec : (setChan c x s).sec = s.sec := rfl
@[simp] theorem setChan_stag : (setChan c x s).stag = s.stag := rfl
@[simp] theorem setChan_link : (setChan c x s).link = s.link := rfl
@[simp] theorem setChan_aux : (setChan c x s).aux = s.aux := rfl
@[simp] theorem setChan_rx : (setChan c x s).rx = s.rx := rfl
@[simp] theorem setChan_raster : (setChan c x s).raster = s.raster := rfl
@[simp] theorem setChan_pipe : (setChan c x s).pipe = s.pipe := rfl
@[simp] theorem setChan_out : (setChan c x s).out = s.out := rfl
@[simp] theorem setChan_panel : (setChan c x s).panel = s.panel := rfl
@[simp] theorem setChan_fstore : (setChan c x s).fstore = s.fstore := rfl
@[simp] theorem setChan_dram_order : (setChan c x s).dram.order = s.dram.order := rfl
@[simp] theorem setChan_dram_grain : (setChan c x s).dram.grain = s.dram.grain := rfl
@[simp] theorem setChan_dram_poison : (setChan c x s).dram.poison = s.dram.poison := rfl
@[simp] theorem setChan_dram_writeBacks : (setChan c x s).dram.writeBacks = s.dram.writeBacks := rfl
@[simp] theorem setChan_dram_retired : (setChan c x s).dram.retired = s.dram.retired := rfl
@[simp] theorem setChan_dram_migration : (setChan c x s).dram.migration = s.dram.migration := rfl
@[simp] theorem setChan_dram_scrub : (setChan c x s).dram.scrub = s.dram.scrub := rfl
@[simp] theorem setChan_dram_throttle : (setChan c x s).dram.throttle = s.dram.throttle := rfl
@[simp] theorem setChan_dram_failed : (setChan c x s).dram.failed = s.dram.failed := rfl
@[simp] theorem setChan_dram_ready : (setChan c x s).dram.ready = s.dram.ready := rfl
@[simp] theorem setChan_dram_noSource : (setChan c x s).dram.noSource = s.dram.noSource := rfl
@[simp] theorem setChan_dram_retiredAt : (setChan c x s).dram.retiredAt = s.dram.retiredAt := rfl
@[simp] theorem setChan_dram_lostFrom : (setChan c x s).dram.lostFrom = s.dram.lostFrom := rfl
@[simp] theorem setChan_dram_rewritten : (setChan c x s).dram.rewritten = s.dram.rewritten := rfl
@[simp] theorem setChan_sram : (setChan c x s).sram = s.sram := rfl
@[simp] theorem setChan_resil : (setChan c x s).resil = s.resil := rfl
@[simp] theorem setChan_power : (setChan c x s).power = s.power := rfl
@[simp] theorem setChan_pins : (setChan c x s).pins = s.pins := rfl
@[simp] theorem setChan_free : (setChan c x s).free = s.free := rfl
@[simp] theorem setChan_pending : (setChan c x s).pending = s.pending := rfl
end

section
variable (n : Nat) (x : Slot) (s : State)
@[simp] theorem setSlot_now : (setSlot n x s).now = s.now := rfl
@[simp] theorem setSlot_epoch : (setSlot n x s).epoch = s.epoch := rfl
@[simp] theorem setSlot_dict : (setSlot n x s).dict = s.dict := rfl
@[simp] theorem setSlot_ctrl : (setSlot n x s).ctrl = s.ctrl := rfl
@[simp] theorem setSlot_pstore : (setSlot n x s).pstore = s.pstore := rfl
@[simp] theorem setSlot_sec : (setSlot n x s).sec = s.sec := rfl
@[simp] theorem setSlot_stag : (setSlot n x s).stag = s.stag := rfl
@[simp] theorem setSlot_link : (setSlot n x s).link = s.link := rfl
@[simp] theorem setSlot_aux : (setSlot n x s).aux = s.aux := rfl
@[simp] theorem setSlot_rx : (setSlot n x s).rx = s.rx := rfl
@[simp] theorem setSlot_raster : (setSlot n x s).raster = s.raster := rfl
@[simp] theorem setSlot_pipe : (setSlot n x s).pipe = s.pipe := rfl
@[simp] theorem setSlot_out : (setSlot n x s).out = s.out := rfl
@[simp] theorem setSlot_panel : (setSlot n x s).panel = s.panel := rfl
@[simp] theorem setSlot_fstore_current : (setSlot n x s).fstore.current = s.fstore.current := rfl
@[simp] theorem setSlot_fstore_previous : (setSlot n x s).fstore.previous = s.fstore.previous := rfl
@[simp] theorem setSlot_fstore_hold : (setSlot n x s).fstore.hold = s.fstore.hold := rfl
@[simp] theorem setSlot_fstore_base : (setSlot n x s).fstore.base = s.fstore.base := rfl
@[simp] theorem setSlot_fstore_g : (setSlot n x s).fstore.g = s.fstore.g := rfl
@[simp] theorem setSlot_fstore_lastFormat : (setSlot n x s).fstore.lastFormat = s.fstore.lastFormat := rfl
@[simp] theorem setSlot_fstore_cols : (setSlot n x s).fstore.cols = s.fstore.cols := rfl
@[simp] theorem setSlot_fstore_nextLine : (setSlot n x s).fstore.nextLine = s.fstore.nextLine := rfl
@[simp] theorem setSlot_fstore_stored : (setSlot n x s).fstore.stored = s.fstore.stored := rfl
@[simp] theorem setSlot_fstore_rawSoFar : (setSlot n x s).fstore.rawSoFar = s.fstore.rawSoFar := rfl
@[simp] theorem setSlot_fstore_codecBad : (setSlot n x s).fstore.codecBad = s.fstore.codecBad := rfl
@[simp] theorem setSlot_fstore_merging : (setSlot n x s).fstore.merging = s.fstore.merging := rfl
@[simp] theorem setSlot_dram : (setSlot n x s).dram = s.dram := rfl
@[simp] theorem setSlot_sram : (setSlot n x s).sram = s.sram := rfl
@[simp] theorem setSlot_resil : (setSlot n x s).resil = s.resil := rfl
@[simp] theorem setSlot_power : (setSlot n x s).power = s.power := rfl
@[simp] theorem setSlot_pins : (setSlot n x s).pins = s.pins := rfl
@[simp] theorem setSlot_free : (setSlot n x s).free = s.free := rfl
@[simp] theorem setSlot_pending : (setSlot n x s).pending = s.pending := rfl
end

section
variable (st : Nat) (t : Nat) (x : TileSt) (s : State)
@[simp] theorem setTile_now : (setTile st t x s).now = s.now := rfl
@[simp] theorem setTile_epoch : (setTile st t x s).epoch = s.epoch := rfl
@[simp] theorem setTile_dict : (setTile st t x s).dict = s.dict := rfl
@[simp] theorem setTile_ctrl : (setTile st t x s).ctrl = s.ctrl := rfl
@[simp] theorem setTile_pstore : (setTile st t x s).pstore = s.pstore := rfl
@[simp] theorem setTile_sec : (setTile st t x s).sec = s.sec := rfl
@[simp] theorem setTile_stag : (setTile st t x s).stag = s.stag := rfl
@[simp] theorem setTile_link : (setTile st t x s).link = s.link := rfl
@[simp] theorem setTile_aux : (setTile st t x s).aux = s.aux := rfl
@[simp] theorem setTile_rx : (setTile st t x s).rx = s.rx := rfl
@[simp] theorem setTile_raster : (setTile st t x s).raster = s.raster := rfl
@[simp] theorem setTile_pipe_spare : (setTile st t x s).pipe.spare = s.pipe.spare := rfl
@[simp] theorem setTile_pipe_takeover : (setTile st t x s).pipe.takeover = s.pipe.takeover := rfl
@[simp] theorem setTile_pipe_standCyc : (setTile st t x s).pipe.standCyc = s.pipe.standCyc := rfl
@[simp] theorem setTile_pipe_standLast : (setTile st t x s).pipe.standLast = s.pipe.standLast := rfl
@[simp] theorem setTile_pipe_standLimited : (setTile st t x s).pipe.standLimited = s.pipe.standLimited := rfl
@[simp] theorem setTile_pipe_queues : (setTile st t x s).pipe.queues = s.pipe.queues := rfl
@[simp] theorem setTile_pipe_done : (setTile st t x s).pipe.done = s.pipe.done := rfl
@[simp] theorem setTile_pipe_gain : (setTile st t x s).pipe.gain = s.pipe.gain := rfl
@[simp] theorem setTile_pipe_temp : (setTile st t x s).pipe.temp = s.pipe.temp := rfl
@[simp] theorem setTile_pipe_t0 : (setTile st t x s).pipe.t0 = s.pipe.t0 := rfl
@[simp] theorem setTile_pipe_wt : (setTile st t x s).pipe.wt = s.pipe.wt := rfl
@[simp] theorem setTile_pipe_tempLost : (setTile st t x s).pipe.tempLost = s.pipe.tempLost := rfl
@[simp] theorem setTile_pipe_ages : (setTile st t x s).pipe.ages = s.pipe.ages := rfl
@[simp] theorem setTile_pipe_nextAges : (setTile st t x s).pipe.nextAges = s.pipe.nextAges := rfl
@[simp] theorem setTile_pipe_blockStress : (setTile st t x s).pipe.blockStress = s.pipe.blockStress := rfl
@[simp] theorem setTile_pipe_nextStress : (setTile st t x s).pipe.nextStress = s.pipe.nextStress := rfl
@[simp] theorem setTile_pipe_ageGain : (setTile st t x s).pipe.ageGain = s.pipe.ageGain := rfl
@[simp] theorem setTile_pipe_nextAgeGain : (setTile st t x s).pipe.nextAgeGain = s.pipe.nextAgeGain := rfl
@[simp] theorem setTile_pipe_odSuspended : (setTile st t x s).pipe.odSuspended = s.pipe.odSuspended := rfl
@[simp] theorem setTile_pipe_odBegan : (setTile st t x s).pipe.odBegan = s.pipe.odBegan := rfl
@[simp] theorem setTile_pipe_noPrev : (setTile st t x s).pipe.noPrev = s.pipe.noPrev := rfl
@[simp] theorem setTile_pipe_levels : (setTile st t x s).pipe.levels = s.pipe.levels := rfl
@[simp] theorem setTile_pipe_codesNow : (setTile st t x s).pipe.codesNow = s.pipe.codesNow := rfl
@[simp] theorem setTile_pipe_substNow : (setTile st t x s).pipe.substNow = s.pipe.substNow := rfl
@[simp] theorem setTile_pipe_resLate : (setTile st t x s).pipe.resLate = s.pipe.resLate := rfl
@[simp] theorem setTile_pipe_decoded : (setTile st t x s).pipe.decoded = s.pipe.decoded := rfl
@[simp] theorem setTile_pipe_crcSkip : (setTile st t x s).pipe.crcSkip = s.pipe.crcSkip := rfl
@[simp] theorem setTile_pipe_tableCopy : (setTile st t x s).pipe.tableCopy = s.pipe.tableCopy := rfl
@[simp] theorem setTile_pipe_tableBad : (setTile st t x s).pipe.tableBad = s.pipe.tableBad := rfl
@[simp] theorem setTile_pipe_master : (setTile st t x s).pipe.master = s.pipe.master := rfl
@[simp] theorem setTile_pipe_working : (setTile st t x s).pipe.working = s.pipe.working := rfl
@[simp] theorem setTile_pipe_pendingRows : (setTile st t x s).pipe.pendingRows = s.pipe.pendingRows := rfl
@[simp] theorem setTile_pipe_rebuild : (setTile st t x s).pipe.rebuild = s.pipe.rebuild := rfl
@[simp] theorem setTile_pipe_nextRows : (setTile st t x s).pipe.nextRows = s.pipe.nextRows := rfl
@[simp] theorem setTile_pipe_srl : (setTile st t x s).pipe.srl = s.pipe.srl := rfl
@[simp] theorem setTile_pipe_dimming : (setTile st t x s).pipe.dimming = s.pipe.dimming := rfl
@[simp] theorem setTile_pipe_autoDefects : (setTile st t x s).pipe.autoDefects = s.pipe.autoDefects := rfl
@[simp] theorem setTile_pipe_defectsFull : (setTile st t x s).pipe.defectsFull = s.pipe.defectsFull := rfl
@[simp] theorem setTile_pipe_sweeping : (setTile st t x s).pipe.sweeping = s.pipe.sweeping := rfl
@[simp] theorem setTile_pipe_sweepNext : (setTile st t x s).pipe.sweepNext = s.pipe.sweepNext := rfl
@[simp] theorem setTile_pipe_sweepAt : (setTile st t x s).pipe.sweepAt = s.pipe.sweepAt := rfl
@[simp] theorem setTile_pipe_sweepAsk : (setTile st t x s).pipe.sweepAsk = s.pipe.sweepAsk := rfl
@[simp] theorem setTile_pipe_batch : (setTile st t x s).pipe.batch = s.pipe.batch := rfl
@[simp] theorem setTile_pipe_batchPorts : (setTile st t x s).pipe.batchPorts = s.pipe.batchPorts := rfl
@[simp] theorem setTile_pipe_batchAt : (setTile st t x s).pipe.batchAt = s.pipe.batchAt := rfl
@[simp] theorem setTile_pipe_senseHeld : (setTile st t x s).pipe.senseHeld = s.pipe.senseHeld := rfl
@[simp] theorem setTile_pipe_weakRun : (setTile st t x s).pipe.weakRun = s.pipe.weakRun := rfl
@[simp] theorem setTile_pipe_stress : (setTile st t x s).pipe.stress = s.pipe.stress := rfl
@[simp] theorem setTile_pipe_passFrames : (setTile st t x s).pipe.passFrames = s.pipe.passFrames := rfl
@[simp] theorem setTile_pipe_passTimes : (setTile st t x s).pipe.passTimes = s.pipe.passTimes := rfl
@[simp] theorem setTile_pipe_passP : (setTile st t x s).pipe.passP = s.pipe.passP := rfl
@[simp] theorem setTile_pipe_halved : (setTile st t x s).pipe.halved = s.pipe.halved := rfl
@[simp] theorem setTile_pipe_load : (setTile st t x s).pipe.load = s.pipe.load := rfl
@[simp] theorem setTile_pipe_saving : (setTile st t x s).pipe.saving = s.pipe.saving := rfl
@[simp] theorem setTile_pipe_saveDue : (setTile st t x s).pipe.saveDue = s.pipe.saveDue := rfl
@[simp] theorem setTile_pipe_saveBase : (setTile st t x s).pipe.saveBase = s.pipe.saveBase := rfl
@[simp] theorem setTile_pipe_noBank : (setTile st t x s).pipe.noBank = s.pipe.noBank := rfl
@[simp] theorem setTile_pipe_flashSmall : (setTile st t x s).pipe.flashSmall = s.pipe.flashSmall := rfl
@[simp] theorem setTile_pipe_mapFailed : (setTile st t x s).pipe.mapFailed = s.pipe.mapFailed := rfl
@[simp] theorem setTile_pipe_flash : (setTile st t x s).pipe.flash = s.pipe.flash := rfl
@[simp] theorem setTile_pipe_flashSize : (setTile st t x s).pipe.flashSize = s.pipe.flashSize := rfl
@[simp] theorem setTile_pipe_phase : (setTile st t x s).pipe.phase = s.pipe.phase := rfl
@[simp] theorem setTile_pipe_frozen : (setTile st t x s).pipe.frozen = s.pipe.frozen := rfl
@[simp] theorem setTile_pipe_ditherLimited : (setTile st t x s).pipe.ditherLimited = s.pipe.ditherLimited := rfl
@[simp] theorem setTile_pipe_clipped : (setTile st t x s).pipe.clipped = s.pipe.clipped := rfl
@[simp] theorem setTile_pipe_probe : (setTile st t x s).pipe.probe = s.pipe.probe := rfl
@[simp] theorem setTile_out : (setTile st t x s).out = s.out := rfl
@[simp] theorem setTile_panel : (setTile st t x s).panel = s.panel := rfl
@[simp] theorem setTile_fstore : (setTile st t x s).fstore = s.fstore := rfl
@[simp] theorem setTile_dram : (setTile st t x s).dram = s.dram := rfl
@[simp] theorem setTile_sram : (setTile st t x s).sram = s.sram := rfl
@[simp] theorem setTile_resil : (setTile st t x s).resil = s.resil := rfl
@[simp] theorem setTile_power : (setTile st t x s).power = s.power := rfl
@[simp] theorem setTile_pins : (setTile st t x s).pins = s.pins := rfl
@[simp] theorem setTile_free : (setTile st t x s).free = s.free := rfl
@[simp] theorem setTile_pending : (setTile st t x s).pending = s.pending := rfl
end

section
variable (n : Nat) (x : LaneSt) (s : State)
@[simp] theorem setLane_now : (setLane n x s).now = s.now := rfl
@[simp] theorem setLane_epoch : (setLane n x s).epoch = s.epoch := rfl
@[simp] theorem setLane_dict : (setLane n x s).dict = s.dict := rfl
@[simp] theorem setLane_ctrl : (setLane n x s).ctrl = s.ctrl := rfl
@[simp] theorem setLane_pstore : (setLane n x s).pstore = s.pstore := rfl
@[simp] theorem setLane_sec : (setLane n x s).sec = s.sec := rfl
@[simp] theorem setLane_stag : (setLane n x s).stag = s.stag := rfl
@[simp] theorem setLane_link_phase : (setLane n x s).link.phase = s.link.phase := rfl
@[simp] theorem setLane_link_attempt : (setLane n x s).link.attempt = s.link.attempt := rfl
@[simp] theorem setLane_link_rate : (setLane n x s).link.rate = s.link.rate := rfl
@[simp] theorem setLane_link_reason : (setLane n x s).link.reason = s.link.reason := rfl
@[simp] theorem setLane_link_source : (setLane n x s).link.source = s.link.source := rfl
@[simp] theorem setLane_link_eq : (setLane n x s).link.eq = s.link.eq := rfl
@[simp] theorem setLane_link_lost : (setLane n x s).link.lost = s.link.lost := rfl
@[simp] theorem setLane_link_tried : (setLane n x s).link.tried = s.link.tried := rfl
@[simp] theorem setLane_link_anyLock : (setLane n x s).link.anyLock = s.link.anyLock := rfl
@[simp] theorem setLane_link_best : (setLane n x s).link.best = s.link.best := rfl
@[simp] theorem setLane_link_final : (setLane n x s).link.final = s.link.final := rfl
@[simp] theorem setLane_link_failures : (setLane n x s).link.failures = s.link.failures := rfl
@[simp] theorem setLane_link_backoffTo : (setLane n x s).link.backoffTo = s.link.backoffTo := rfl
@[simp] theorem setLane_link_map : (setLane n x s).link.map = s.link.map := rfl
@[simp] theorem setLane_link_carries : (setLane n x s).link.carries = s.link.carries := rfl
@[simp] theorem setLane_link_elastic : (setLane n x s).link.elastic = s.link.elastic := rfl
@[simp] theorem setLane_link_idleAt : (setLane n x s).link.idleAt = s.link.idleAt := rfl
@[simp] theorem setLane_link_powered : (setLane n x s).link.powered = s.link.powered := rfl
@[simp] theorem setLane_link_since : (setLane n x s).link.since = s.link.since := rfl
@[simp] theorem setLane_link_retrainAtBoundary : (setLane n x s).link.retrainAtBoundary = s.link.retrainAtBoundary := rfl
@[simp] theorem setLane_link_fastExit : (setLane n x s).link.fastExit = s.link.fastExit := rfl
@[simp] theorem setLane_link_adaptAt : (setLane n x s).link.adaptAt = s.link.adaptAt := rfl
@[simp] theorem setLane_aux : (setLane n x s).aux = s.aux := rfl
@[simp] theorem setLane_rx : (setLane n x s).rx = s.rx := rfl
@[simp] theorem setLane_raster : (setLane n x s).raster = s.raster := rfl
@[simp] theorem setLane_pipe : (setLane n x s).pipe = s.pipe := rfl
@[simp] theorem setLane_out : (setLane n x s).out = s.out := rfl
@[simp] theorem setLane_panel : (setLane n x s).panel = s.panel := rfl
@[simp] theorem setLane_fstore : (setLane n x s).fstore = s.fstore := rfl
@[simp] theorem setLane_dram : (setLane n x s).dram = s.dram := rfl
@[simp] theorem setLane_sram : (setLane n x s).sram = s.sram := rfl
@[simp] theorem setLane_resil : (setLane n x s).resil = s.resil := rfl
@[simp] theorem setLane_power : (setLane n x s).power = s.power := rfl
@[simp] theorem setLane_pins : (setLane n x s).pins = s.pins := rfl
@[simp] theorem setLane_free : (setLane n x s).free = s.free := rfl
@[simp] theorem setLane_pending : (setLane n x s).pending = s.pending := rfl
end

section
variable (p : Nat) (x : OPort) (s : State)
@[simp] theorem setOport_now : (setOport p x s).now = s.now := rfl
@[simp] theorem setOport_epoch : (setOport p x s).epoch = s.epoch := rfl
@[simp] theorem setOport_dict : (setOport p x s).dict = s.dict := rfl
@[simp] theorem setOport_ctrl : (setOport p x s).ctrl = s.ctrl := rfl
@[simp] theorem setOport_pstore : (setOport p x s).pstore = s.pstore := rfl
@[simp] theorem setOport_sec : (setOport p x s).sec = s.sec := rfl
@[simp] theorem setOport_stag : (setOport p x s).stag = s.stag := rfl
@[simp] theorem setOport_link : (setOport p x s).link = s.link := rfl
@[simp] theorem setOport_aux : (setOport p x s).aux = s.aux := rfl
@[simp] theorem setOport_rx : (setOport p x s).rx = s.rx := rfl
@[simp] theorem setOport_raster : (setOport p x s).raster = s.raster := rfl
@[simp] theorem setOport_pipe : (setOport p x s).pipe = s.pipe := rfl
@[simp] theorem setOport_out_lanes : (setOport p x s).out.lanes = s.out.lanes := rfl
@[simp] theorem setOport_out_rate : (setOport p x s).out.rate = s.out.rate := rfl
@[simp] theorem setOport_out_boost : (setOport p x s).out.boost = s.out.boost := rfl
@[simp] theorem setOport_out_noFit : (setOport p x s).out.noFit = s.out.noFit := rfl
@[simp] theorem setOport_out_delivering : (setOport p x s).out.delivering = s.out.delivering := rfl
@[simp] theorem setOport_out_lines : (setOport p x s).out.lines = s.out.lines := rfl
@[simp] theorem setOport_out_lastLine : (setOport p x s).out.lastLine = s.out.lastLine := rfl
@[simp] theorem setOport_out_lineNo : (setOport p x s).out.lineNo = s.out.lineNo := rfl
@[simp] theorem setOport_out_win : (setOport p x s).out.win = s.out.win := rfl
@[simp] theorem setOport_out_plan : (setOport p x s).out.plan = s.out.plan := rfl
@[simp] theorem setOport_out_idle : (setOport p x s).out.idle = s.out.idle := rfl
@[simp] theorem setOport_panel : (setOport p x s).panel = s.panel := rfl
@[simp] theorem setOport_fstore : (setOport p x s).fstore = s.fstore := rfl
@[simp] theorem setOport_dram : (setOport p x s).dram = s.dram := rfl
@[simp] theorem setOport_sram : (setOport p x s).sram = s.sram := rfl
@[simp] theorem setOport_resil : (setOport p x s).resil = s.resil := rfl
@[simp] theorem setOport_power : (setOport p x s).power = s.power := rfl
@[simp] theorem setOport_pins : (setOport p x s).pins = s.pins := rfl
@[simp] theorem setOport_free : (setOport p x s).free = s.free := rfl
@[simp] theorem setOport_pending : (setOport p x s).pending = s.pending := rfl
end

section
variable (p : Nat) (l : Nat) (x : OLaneSt) (s : State)
@[simp] theorem setOlane_now : (setOlane p l x s).now = s.now := rfl
@[simp] theorem setOlane_epoch : (setOlane p l x s).epoch = s.epoch := rfl
@[simp] theorem setOlane_dict : (setOlane p l x s).dict = s.dict := rfl
@[simp] theorem setOlane_ctrl : (setOlane p l x s).ctrl = s.ctrl := rfl
@[simp] theorem setOlane_pstore : (setOlane p l x s).pstore = s.pstore := rfl
@[simp] theorem setOlane_sec : (setOlane p l x s).sec = s.sec := rfl
@[simp] theorem setOlane_stag : (setOlane p l x s).stag = s.stag := rfl
@[simp] theorem setOlane_link : (setOlane p l x s).link = s.link := rfl
@[simp] theorem setOlane_aux : (setOlane p l x s).aux = s.aux := rfl
@[simp] theorem setOlane_rx : (setOlane p l x s).rx = s.rx := rfl
@[simp] theorem setOlane_raster : (setOlane p l x s).raster = s.raster := rfl
@[simp] theorem setOlane_pipe : (setOlane p l x s).pipe = s.pipe := rfl
@[simp] theorem setOlane_out_ports : (setOlane p l x s).out.ports = s.out.ports := rfl
@[simp] theorem setOlane_out_rate : (setOlane p l x s).out.rate = s.out.rate := rfl
@[simp] theorem setOlane_out_boost : (setOlane p l x s).out.boost = s.out.boost := rfl
@[simp] theorem setOlane_out_noFit : (setOlane p l x s).out.noFit = s.out.noFit := rfl
@[simp] theorem setOlane_out_delivering : (setOlane p l x s).out.delivering = s.out.delivering := rfl
@[simp] theorem setOlane_out_lines : (setOlane p l x s).out.lines = s.out.lines := rfl
@[simp] theorem setOlane_out_lastLine : (setOlane p l x s).out.lastLine = s.out.lastLine := rfl
@[simp] theorem setOlane_out_lineNo : (setOlane p l x s).out.lineNo = s.out.lineNo := rfl
@[simp] theorem setOlane_out_win : (setOlane p l x s).out.win = s.out.win := rfl
@[simp] theorem setOlane_out_plan : (setOlane p l x s).out.plan = s.out.plan := rfl
@[simp] theorem setOlane_out_idle : (setOlane p l x s).out.idle = s.out.idle := rfl
@[simp] theorem setOlane_panel : (setOlane p l x s).panel = s.panel := rfl
@[simp] theorem setOlane_fstore : (setOlane p l x s).fstore = s.fstore := rfl
@[simp] theorem setOlane_dram : (setOlane p l x s).dram = s.dram := rfl
@[simp] theorem setOlane_sram : (setOlane p l x s).sram = s.sram := rfl
@[simp] theorem setOlane_resil : (setOlane p l x s).resil = s.resil := rfl
@[simp] theorem setOlane_power : (setOlane p l x s).power = s.power := rfl
@[simp] theorem setOlane_pins : (setOlane p l x s).pins = s.pins := rfl
@[simp] theorem setOlane_free : (setOlane p l x s).free = s.free := rfl
@[simp] theorem setOlane_pending : (setOlane p l x s).pending = s.pending := rfl
end

section
variable (q : SeqRun) (s : State)
@[simp] theorem setSeq_now : (setSeq q s).now = s.now := rfl
@[simp] theorem setSeq_epoch : (setSeq q s).epoch = s.epoch := rfl
@[simp] theorem setSeq_dict : (setSeq q s).dict = s.dict := rfl
@[simp] theorem setSeq_ctrl : (setSeq q s).ctrl = s.ctrl := rfl
@[simp] theorem setSeq_pstore : (setSeq q s).pstore = s.pstore := rfl
@[simp] theorem setSeq_sec : (setSeq q s).sec = s.sec := rfl
@[simp] theorem setSeq_stag : (setSeq q s).stag = s.stag := rfl
@[simp] theorem setSeq_link : (setSeq q s).link = s.link := rfl
@[simp] theorem setSeq_aux : (setSeq q s).aux = s.aux := rfl
@[simp] theorem setSeq_rx : (setSeq q s).rx = s.rx := rfl
@[simp] theorem setSeq_raster : (setSeq q s).raster = s.raster := rfl
@[simp] theorem setSeq_pipe : (setSeq q s).pipe = s.pipe := rfl
@[simp] theorem setSeq_out : (setSeq q s).out = s.out := rfl
@[simp] theorem setSeq_panel_drive : (setSeq q s).panel.drive = s.panel.drive := rfl
@[simp] theorem setSeq_panel_set0 : (setSeq q s).panel.set0 = s.panel.set0 := rfl
@[simp] theorem setSeq_panel_set1 : (setSeq q s).panel.set1 = s.panel.set1 := rfl
@[simp] theorem setSeq_panel_fadeFrom : (setSeq q s).panel.fadeFrom = s.panel.fadeFrom := rfl
@[simp] theorem setSeq_panel_fadeTo : (setSeq q s).panel.fadeTo = s.panel.fadeTo := rfl
@[simp] theorem setSeq_panel_fadeAt : (setSeq q s).panel.fadeAt = s.panel.fadeAt := rfl
@[simp] theorem setSeq_panel_fadeLen : (setSeq q s).panel.fadeLen = s.panel.fadeLen := rfl
@[simp] theorem setSeq_panel_duty : (setSeq q s).panel.duty = s.panel.duty := rfl
@[simp] theorem setSeq_panel_dutySum : (setSeq q s).panel.dutySum = s.panel.dutySum := rfl
@[simp] theorem setSeq_panel_frameDuty : (setSeq q s).panel.frameDuty = s.panel.frameDuty := rfl
@[simp] theorem setSeq_panel_bias : (setSeq q s).panel.bias = s.panel.bias := rfl
@[simp] theorem setSeq_panel_balance : (setSeq q s).panel.balance = s.panel.balance := rfl
@[simp] theorem setSeq_panel_biasAt : (setSeq q s).panel.biasAt = s.panel.biasAt := rfl
@[simp] theorem setSeq_panel_biasDue : (setSeq q s).panel.biasDue = s.panel.biasDue := rfl
@[simp] theorem setSeq_panel_on : (setSeq q s).panel.on = s.panel.on := rfl
@[simp] theorem setSeq_panel_rasterReached : (setSeq q s).panel.rasterReached = s.panel.rasterReached := rfl
@[simp] theorem setSeq_panel_wantOff : (setSeq q s).panel.wantOff = s.panel.wantOff := rfl
@[simp] theorem setSeq_panel_wantOn : (setSeq q s).panel.wantOn = s.panel.wantOn := rfl
@[simp] theorem setSeq_panel_failed : (setSeq q s).panel.failed = s.panel.failed := rfl
@[simp] theorem setSeq_panel_failing : (setSeq q s).panel.failing = s.panel.failing := rfl
@[simp] theorem setSeq_panel_ended : (setSeq q s).panel.ended = s.panel.ended := rfl
@[simp] theorem setSeq_panel_pmbus : (setSeq q s).panel.pmbus = s.panel.pmbus := rfl
@[simp] theorem setSeq_panel_pon : (setSeq q s).panel.pon = s.panel.pon := rfl
@[simp] theorem setSeq_panel_pgood : (setSeq q s).panel.pgood = s.panel.pgood := rfl
@[simp] theorem setSeq_panel_watched : (setSeq q s).panel.watched = s.panel.watched := rfl
@[simp] theorem setSeq_panel_fellAt : (setSeq q s).panel.fellAt = s.panel.fellAt := rfl
@[simp] theorem setSeq_panel_refs : (setSeq q s).panel.refs = s.panel.refs := rfl
@[simp] theorem setSeq_panel_clipped : (setSeq q s).panel.clipped = s.panel.clipped := rfl
@[simp] theorem setSeq_panel_avddAt : (setSeq q s).panel.avddAt = s.panel.avddAt := rfl
@[simp] theorem setSeq_panel_avddBad : (setSeq q s).panel.avddBad = s.panel.avddBad := rfl
@[simp] theorem setSeq_panel_avddOk : (setSeq q s).panel.avddOk = s.panel.avddOk := rfl
@[simp] theorem setSeq_panel_avddLimited : (setSeq q s).panel.avddLimited = s.panel.avddLimited := rfl
@[simp] theorem setSeq_panel_pump : (setSeq q s).panel.pump = s.panel.pump := rfl
@[simp] theorem setSeq_panel_scanLeft : (setSeq q s).panel.scanLeft = s.panel.scanLeft := rfl
@[simp] theorem setSeq_panel_holdAt : (setSeq q s).panel.holdAt = s.panel.holdAt := rfl
@[simp] theorem setSeq_panel_sensing : (setSeq q s).panel.sensing = s.panel.sensing := rfl
@[simp] theorem setSeq_fstore : (setSeq q s).fstore = s.fstore := rfl
@[simp] theorem setSeq_dram : (setSeq q s).dram = s.dram := rfl
@[simp] theorem setSeq_sram : (setSeq q s).sram = s.sram := rfl
@[simp] theorem setSeq_resil : (setSeq q s).resil = s.resil := rfl
@[simp] theorem setSeq_power : (setSeq q s).power = s.power := rfl
@[simp] theorem setSeq_pins : (setSeq q s).pins = s.pins := rfl
@[simp] theorem setSeq_free : (setSeq q s).free = s.free := rfl
@[simp] theorem setSeq_pending : (setSeq q s).pending = s.pending := rfl
end

section
variable (n : Nat) (x : VmonSt) (s : State)
@[simp] theorem setVmon_now : (setVmon n x s).now = s.now := rfl
@[simp] theorem setVmon_epoch : (setVmon n x s).epoch = s.epoch := rfl
@[simp] theorem setVmon_dict : (setVmon n x s).dict = s.dict := rfl
@[simp] theorem setVmon_ctrl : (setVmon n x s).ctrl = s.ctrl := rfl
@[simp] theorem setVmon_pstore : (setVmon n x s).pstore = s.pstore := rfl
@[simp] theorem setVmon_sec : (setVmon n x s).sec = s.sec := rfl
@[simp] theorem setVmon_stag_restarting : (setVmon n x s).stag.restarting = s.stag.restarting := rfl
@[simp] theorem setVmon_stag_events : (setVmon n x s).stag.events = s.stag.events := rfl
@[simp] theorem setVmon_stag_overflow : (setVmon n x s).stag.overflow = s.stag.overflow := rfl
@[simp] theorem setVmon_stag_restarts : (setVmon n x s).stag.restarts = s.stag.restarts := rfl
@[simp] theorem setVmon_stag_running : (setVmon n x s).stag.running = s.stag.running := rfl
@[simp] theorem setVmon_stag_recovery : (setVmon n x s).stag.recovery = s.stag.recovery := rfl
@[simp] theorem setVmon_stag_slot : (setVmon n x s).stag.slot = s.stag.slot := rfl
@[simp] theorem setVmon_stag_trial : (setVmon n x s).stag.trial = s.stag.trial := rfl
@[simp] theorem setVmon_stag_trialSince : (setVmon n x s).stag.trialSince = s.stag.trialSince := rfl
@[simp] theorem setVmon_stag_therm : (setVmon n x s).stag.therm = s.stag.therm := rfl
@[simp] theorem setVmon_stag_ntc : (setVmon n x s).stag.ntc = s.stag.ntc := rfl
@[simp] theorem setVmon_stag_opBase : (setVmon n x s).stag.opBase = s.stag.opBase := rfl
@[simp] theorem setVmon_stag_opAt : (setVmon n x s).stag.opAt = s.stag.opAt := rfl
@[simp] theorem setVmon_stag_opRuns : (setVmon n x s).stag.opRuns = s.stag.opRuns := rfl
@[simp] theorem setVmon_stag_caughtUp : (setVmon n x s).stag.caughtUp = s.stag.caughtUp := rfl
@[simp] theorem setVmon_stag_utcBase : (setVmon n x s).stag.utcBase = s.stag.utcBase := rfl
@[simp] theorem setVmon_stag_utcAt : (setVmon n x s).stag.utcAt = s.stag.utcAt := rfl
@[simp] theorem setVmon_stag_utcValid : (setVmon n x s).stag.utcValid = s.stag.utcValid := rfl
@[simp] theorem setVmon_stag_slotA : (setVmon n x s).stag.slotA = s.stag.slotA := rfl
@[simp] theorem setVmon_stag_slotB : (setVmon n x s).stag.slotB = s.stag.slotB := rfl
@[simp] theorem setVmon_stag_imageLen : (setVmon n x s).stag.imageLen = s.stag.imageLen := rfl
@[simp] theorem setVmon_stag_image : (setVmon n x s).stag.image = s.stag.image := rfl
@[simp] theorem setVmon_stag_activation : (setVmon n x s).stag.activation = s.stag.activation := rfl
@[simp] theorem setVmon_link : (setVmon n x s).link = s.link := rfl
@[simp] theorem setVmon_aux : (setVmon n x s).aux = s.aux := rfl
@[simp] theorem setVmon_rx : (setVmon n x s).rx = s.rx := rfl
@[simp] theorem setVmon_raster : (setVmon n x s).raster = s.raster := rfl
@[simp] theorem setVmon_pipe : (setVmon n x s).pipe = s.pipe := rfl
@[simp] theorem setVmon_out : (setVmon n x s).out = s.out := rfl
@[simp] theorem setVmon_panel : (setVmon n x s).panel = s.panel := rfl
@[simp] theorem setVmon_fstore : (setVmon n x s).fstore = s.fstore := rfl
@[simp] theorem setVmon_dram : (setVmon n x s).dram = s.dram := rfl
@[simp] theorem setVmon_sram : (setVmon n x s).sram = s.sram := rfl
@[simp] theorem setVmon_resil : (setVmon n x s).resil = s.resil := rfl
@[simp] theorem setVmon_power : (setVmon n x s).power = s.power := rfl
@[simp] theorem setVmon_pins : (setVmon n x s).pins = s.pins := rfl
@[simp] theorem setVmon_free : (setVmon n x s).free = s.free := rfl
@[simp] theorem setVmon_pending : (setVmon n x s).pending = s.pending := rfl
end

section
variable (n : Nat) (x : NtcSt) (s : State)
@[simp] theorem setNtc_now : (setNtc n x s).now = s.now := rfl
@[simp] theorem setNtc_epoch : (setNtc n x s).epoch = s.epoch := rfl
@[simp] theorem setNtc_dict : (setNtc n x s).dict = s.dict := rfl
@[simp] theorem setNtc_ctrl : (setNtc n x s).ctrl = s.ctrl := rfl
@[simp] theorem setNtc_pstore : (setNtc n x s).pstore = s.pstore := rfl
@[simp] theorem setNtc_sec : (setNtc n x s).sec = s.sec := rfl
@[simp] theorem setNtc_stag_restarting : (setNtc n x s).stag.restarting = s.stag.restarting := rfl
@[simp] theorem setNtc_stag_events : (setNtc n x s).stag.events = s.stag.events := rfl
@[simp] theorem setNtc_stag_overflow : (setNtc n x s).stag.overflow = s.stag.overflow := rfl
@[simp] theorem setNtc_stag_restarts : (setNtc n x s).stag.restarts = s.stag.restarts := rfl
@[simp] theorem setNtc_stag_running : (setNtc n x s).stag.running = s.stag.running := rfl
@[simp] theorem setNtc_stag_recovery : (setNtc n x s).stag.recovery = s.stag.recovery := rfl
@[simp] theorem setNtc_stag_slot : (setNtc n x s).stag.slot = s.stag.slot := rfl
@[simp] theorem setNtc_stag_trial : (setNtc n x s).stag.trial = s.stag.trial := rfl
@[simp] theorem setNtc_stag_trialSince : (setNtc n x s).stag.trialSince = s.stag.trialSince := rfl
@[simp] theorem setNtc_stag_therm : (setNtc n x s).stag.therm = s.stag.therm := rfl
@[simp] theorem setNtc_stag_vmon : (setNtc n x s).stag.vmon = s.stag.vmon := rfl
@[simp] theorem setNtc_stag_opBase : (setNtc n x s).stag.opBase = s.stag.opBase := rfl
@[simp] theorem setNtc_stag_opAt : (setNtc n x s).stag.opAt = s.stag.opAt := rfl
@[simp] theorem setNtc_stag_opRuns : (setNtc n x s).stag.opRuns = s.stag.opRuns := rfl
@[simp] theorem setNtc_stag_caughtUp : (setNtc n x s).stag.caughtUp = s.stag.caughtUp := rfl
@[simp] theorem setNtc_stag_utcBase : (setNtc n x s).stag.utcBase = s.stag.utcBase := rfl
@[simp] theorem setNtc_stag_utcAt : (setNtc n x s).stag.utcAt = s.stag.utcAt := rfl
@[simp] theorem setNtc_stag_utcValid : (setNtc n x s).stag.utcValid = s.stag.utcValid := rfl
@[simp] theorem setNtc_stag_slotA : (setNtc n x s).stag.slotA = s.stag.slotA := rfl
@[simp] theorem setNtc_stag_slotB : (setNtc n x s).stag.slotB = s.stag.slotB := rfl
@[simp] theorem setNtc_stag_imageLen : (setNtc n x s).stag.imageLen = s.stag.imageLen := rfl
@[simp] theorem setNtc_stag_image : (setNtc n x s).stag.image = s.stag.image := rfl
@[simp] theorem setNtc_stag_activation : (setNtc n x s).stag.activation = s.stag.activation := rfl
@[simp] theorem setNtc_link : (setNtc n x s).link = s.link := rfl
@[simp] theorem setNtc_aux : (setNtc n x s).aux = s.aux := rfl
@[simp] theorem setNtc_rx : (setNtc n x s).rx = s.rx := rfl
@[simp] theorem setNtc_raster : (setNtc n x s).raster = s.raster := rfl
@[simp] theorem setNtc_pipe : (setNtc n x s).pipe = s.pipe := rfl
@[simp] theorem setNtc_out : (setNtc n x s).out = s.out := rfl
@[simp] theorem setNtc_panel : (setNtc n x s).panel = s.panel := rfl
@[simp] theorem setNtc_fstore : (setNtc n x s).fstore = s.fstore := rfl
@[simp] theorem setNtc_dram : (setNtc n x s).dram = s.dram := rfl
@[simp] theorem setNtc_sram : (setNtc n x s).sram = s.sram := rfl
@[simp] theorem setNtc_resil : (setNtc n x s).resil = s.resil := rfl
@[simp] theorem setNtc_power : (setNtc n x s).power = s.power := rfl
@[simp] theorem setNtc_pins : (setNtc n x s).pins = s.pins := rfl
@[simp] theorem setNtc_free : (setNtc n x s).free = s.free := rfl
@[simp] theorem setNtc_pending : (setNtc n x s).pending = s.pending := rfl
end

section
variable (a : Nat) (bs : List Nat) (s : State)
@[simp] theorem flashPut_now : (flashPut a bs s).now = s.now := rfl
@[simp] theorem flashPut_epoch : (flashPut a bs s).epoch = s.epoch := rfl
@[simp] theorem flashPut_dict : (flashPut a bs s).dict = s.dict := rfl
@[simp] theorem flashPut_ctrl : (flashPut a bs s).ctrl = s.ctrl := rfl
@[simp] theorem flashPut_pstore : (flashPut a bs s).pstore = s.pstore := rfl
@[simp] theorem flashPut_sec : (flashPut a bs s).sec = s.sec := rfl
@[simp] theorem flashPut_stag : (flashPut a bs s).stag = s.stag := rfl
@[simp] theorem flashPut_link : (flashPut a bs s).link = s.link := rfl
@[simp] theorem flashPut_aux : (flashPut a bs s).aux = s.aux := rfl
@[simp] theorem flashPut_rx : (flashPut a bs s).rx = s.rx := rfl
@[simp] theorem flashPut_raster : (flashPut a bs s).raster = s.raster := rfl
@[simp] theorem flashPut_pipe_tiles : (flashPut a bs s).pipe.tiles = s.pipe.tiles := rfl
@[simp] theorem flashPut_pipe_spare : (flashPut a bs s).pipe.spare = s.pipe.spare := rfl
@[simp] theorem flashPut_pipe_takeover : (flashPut a bs s).pipe.takeover = s.pipe.takeover := rfl
@[simp] theorem flashPut_pipe_standCyc : (flashPut a bs s).pipe.standCyc = s.pipe.standCyc := rfl
@[simp] theorem flashPut_pipe_standLast : (flashPut a bs s).pipe.standLast = s.pipe.standLast := rfl
@[simp] theorem flashPut_pipe_standLimited : (flashPut a bs s).pipe.standLimited = s.pipe.standLimited := rfl
@[simp] theorem flashPut_pipe_queues : (flashPut a bs s).pipe.queues = s.pipe.queues := rfl
@[simp] theorem flashPut_pipe_done : (flashPut a bs s).pipe.done = s.pipe.done := rfl
@[simp] theorem flashPut_pipe_gain : (flashPut a bs s).pipe.gain = s.pipe.gain := rfl
@[simp] theorem flashPut_pipe_temp : (flashPut a bs s).pipe.temp = s.pipe.temp := rfl
@[simp] theorem flashPut_pipe_t0 : (flashPut a bs s).pipe.t0 = s.pipe.t0 := rfl
@[simp] theorem flashPut_pipe_wt : (flashPut a bs s).pipe.wt = s.pipe.wt := rfl
@[simp] theorem flashPut_pipe_tempLost : (flashPut a bs s).pipe.tempLost = s.pipe.tempLost := rfl
@[simp] theorem flashPut_pipe_ages : (flashPut a bs s).pipe.ages = s.pipe.ages := rfl
@[simp] theorem flashPut_pipe_nextAges : (flashPut a bs s).pipe.nextAges = s.pipe.nextAges := rfl
@[simp] theorem flashPut_pipe_blockStress : (flashPut a bs s).pipe.blockStress = s.pipe.blockStress := rfl
@[simp] theorem flashPut_pipe_nextStress : (flashPut a bs s).pipe.nextStress = s.pipe.nextStress := rfl
@[simp] theorem flashPut_pipe_ageGain : (flashPut a bs s).pipe.ageGain = s.pipe.ageGain := rfl
@[simp] theorem flashPut_pipe_nextAgeGain : (flashPut a bs s).pipe.nextAgeGain = s.pipe.nextAgeGain := rfl
@[simp] theorem flashPut_pipe_odSuspended : (flashPut a bs s).pipe.odSuspended = s.pipe.odSuspended := rfl
@[simp] theorem flashPut_pipe_odBegan : (flashPut a bs s).pipe.odBegan = s.pipe.odBegan := rfl
@[simp] theorem flashPut_pipe_noPrev : (flashPut a bs s).pipe.noPrev = s.pipe.noPrev := rfl
@[simp] theorem flashPut_pipe_levels : (flashPut a bs s).pipe.levels = s.pipe.levels := rfl
@[simp] theorem flashPut_pipe_codesNow : (flashPut a bs s).pipe.codesNow = s.pipe.codesNow := rfl
@[simp] theorem flashPut_pipe_substNow : (flashPut a bs s).pipe.substNow = s.pipe.substNow := rfl
@[simp] theorem flashPut_pipe_resLate : (flashPut a bs s).pipe.resLate = s.pipe.resLate := rfl
@[simp] theorem flashPut_pipe_decoded : (flashPut a bs s).pipe.decoded = s.pipe.decoded := rfl
@[simp] theorem flashPut_pipe_crcSkip : (flashPut a bs s).pipe.crcSkip = s.pipe.crcSkip := rfl
@[simp] theorem flashPut_pipe_tableCopy : (flashPut a bs s).pipe.tableCopy = s.pipe.tableCopy := rfl
@[simp] theorem flashPut_pipe_tableBad : (flashPut a bs s).pipe.tableBad = s.pipe.tableBad := rfl
@[simp] theorem flashPut_pipe_master : (flashPut a bs s).pipe.master = s.pipe.master := rfl
@[simp] theorem flashPut_pipe_working : (flashPut a bs s).pipe.working = s.pipe.working := rfl
@[simp] theorem flashPut_pipe_pendingRows : (flashPut a bs s).pipe.pendingRows = s.pipe.pendingRows := rfl
@[simp] theorem flashPut_pipe_rebuild : (flashPut a bs s).pipe.rebuild = s.pipe.rebuild := rfl
@[simp] theorem flashPut_pipe_nextRows : (flashPut a bs s).pipe.nextRows = s.pipe.nextRows := rfl
@[simp] theorem flashPut_pipe_srl : (flashPut a bs s).pipe.srl = s.pipe.srl := rfl
@[simp] theorem flashPut_pipe_dimming : (flashPut a bs s).pipe.dimming = s.pipe.dimming := rfl
@[simp] theorem flashPut_pipe_autoDefects : (flashPut a bs s).pipe.autoDefects = s.pipe.autoDefects := rfl
@[simp] theorem flashPut_pipe_defectsFull : (flashPut a bs s).pipe.defectsFull = s.pipe.defectsFull := rfl
@[simp] theorem flashPut_pipe_sweeping : (flashPut a bs s).pipe.sweeping = s.pipe.sweeping := rfl
@[simp] theorem flashPut_pipe_sweepNext : (flashPut a bs s).pipe.sweepNext = s.pipe.sweepNext := rfl
@[simp] theorem flashPut_pipe_sweepAt : (flashPut a bs s).pipe.sweepAt = s.pipe.sweepAt := rfl
@[simp] theorem flashPut_pipe_sweepAsk : (flashPut a bs s).pipe.sweepAsk = s.pipe.sweepAsk := rfl
@[simp] theorem flashPut_pipe_batch : (flashPut a bs s).pipe.batch = s.pipe.batch := rfl
@[simp] theorem flashPut_pipe_batchPorts : (flashPut a bs s).pipe.batchPorts = s.pipe.batchPorts := rfl
@[simp] theorem flashPut_pipe_batchAt : (flashPut a bs s).pipe.batchAt = s.pipe.batchAt := rfl
@[simp] theorem flashPut_pipe_senseHeld : (flashPut a bs s).pipe.senseHeld = s.pipe.senseHeld := rfl
@[simp] theorem flashPut_pipe_weakRun : (flashPut a bs s).pipe.weakRun = s.pipe.weakRun := rfl
@[simp] theorem flashPut_pipe_stress : (flashPut a bs s).pipe.stress = s.pipe.stress := rfl
@[simp] theorem flashPut_pipe_passFrames : (flashPut a bs s).pipe.passFrames = s.pipe.passFrames := rfl
@[simp] theorem flashPut_pipe_passTimes : (flashPut a bs s).pipe.passTimes = s.pipe.passTimes := rfl
@[simp] theorem flashPut_pipe_passP : (flashPut a bs s).pipe.passP = s.pipe.passP := rfl
@[simp] theorem flashPut_pipe_halved : (flashPut a bs s).pipe.halved = s.pipe.halved := rfl
@[simp] theorem flashPut_pipe_load : (flashPut a bs s).pipe.load = s.pipe.load := rfl
@[simp] theorem flashPut_pipe_saving : (flashPut a bs s).pipe.saving = s.pipe.saving := rfl
@[simp] theorem flashPut_pipe_saveDue : (flashPut a bs s).pipe.saveDue = s.pipe.saveDue := rfl
@[simp] theorem flashPut_pipe_saveBase : (flashPut a bs s).pipe.saveBase = s.pipe.saveBase := rfl
@[simp] theorem flashPut_pipe_noBank : (flashPut a bs s).pipe.noBank = s.pipe.noBank := rfl
@[simp] theorem flashPut_pipe_flashSmall : (flashPut a bs s).pipe.flashSmall = s.pipe.flashSmall := rfl
@[simp] theorem flashPut_pipe_mapFailed : (flashPut a bs s).pipe.mapFailed = s.pipe.mapFailed := rfl
@[simp] theorem flashPut_pipe_flashSize : (flashPut a bs s).pipe.flashSize = s.pipe.flashSize := rfl
@[simp] theorem flashPut_pipe_phase : (flashPut a bs s).pipe.phase = s.pipe.phase := rfl
@[simp] theorem flashPut_pipe_frozen : (flashPut a bs s).pipe.frozen = s.pipe.frozen := rfl
@[simp] theorem flashPut_pipe_ditherLimited : (flashPut a bs s).pipe.ditherLimited = s.pipe.ditherLimited := rfl
@[simp] theorem flashPut_pipe_clipped : (flashPut a bs s).pipe.clipped = s.pipe.clipped := rfl
@[simp] theorem flashPut_pipe_probe : (flashPut a bs s).pipe.probe = s.pipe.probe := rfl
@[simp] theorem flashPut_out : (flashPut a bs s).out = s.out := rfl
@[simp] theorem flashPut_panel : (flashPut a bs s).panel = s.panel := rfl
@[simp] theorem flashPut_fstore : (flashPut a bs s).fstore = s.fstore := rfl
@[simp] theorem flashPut_dram : (flashPut a bs s).dram = s.dram := rfl
@[simp] theorem flashPut_sram : (flashPut a bs s).sram = s.sram := rfl
@[simp] theorem flashPut_resil : (flashPut a bs s).resil = s.resil := rfl
@[simp] theorem flashPut_power : (flashPut a bs s).power = s.power := rfl
@[simp] theorem flashPut_pins : (flashPut a bs s).pins = s.pins := rfl
@[simp] theorem flashPut_free : (flashPut a bs s).free = s.free := rfl
@[simp] theorem flashPut_pending : (flashPut a bs s).pending = s.pending := rfl
end

section
variable (s : State)
@[simp] theorem noteActivity_now : (noteActivity s).now = s.now := rfl
@[simp] theorem noteActivity_epoch : (noteActivity s).epoch = s.epoch := rfl
@[simp] theorem noteActivity_dict : (noteActivity s).dict = s.dict := rfl
@[simp] theorem noteActivity_ctrl : (noteActivity s).ctrl = s.ctrl := rfl
@[simp] theorem noteActivity_pstore : (noteActivity s).pstore = s.pstore := rfl
@[simp] theorem noteActivity_sec : (noteActivity s).sec = s.sec := rfl
@[simp] theorem noteActivity_stag : (noteActivity s).stag = s.stag := rfl
@[simp] theorem noteActivity_link : (noteActivity s).link = s.link := rfl
@[simp] theorem noteActivity_aux : (noteActivity s).aux = s.aux := rfl
@[simp] theorem noteActivity_rx : (noteActivity s).rx = s.rx := rfl
@[simp] theorem noteActivity_raster : (noteActivity s).raster = s.raster := rfl
@[simp] theorem noteActivity_pipe : (noteActivity s).pipe = s.pipe := rfl
@[simp] theorem noteActivity_out : (noteActivity s).out = s.out := rfl
@[simp] theorem noteActivity_panel : (noteActivity s).panel = s.panel := rfl
@[simp] theorem noteActivity_fstore : (noteActivity s).fstore = s.fstore := rfl
@[simp] theorem noteActivity_dram : (noteActivity s).dram = s.dram := rfl
@[simp] theorem noteActivity_sram : (noteActivity s).sram = s.sram := rfl
@[simp] theorem noteActivity_resil : (noteActivity s).resil = s.resil := rfl
@[simp] theorem noteActivity_power_phase : (noteActivity s).power.phase = s.power.phase := rfl
@[simp] theorem noteActivity_power_cause : (noteActivity s).power.cause = s.power.cause := rfl
@[simp] theorem noteActivity_power_state : (noteActivity s).power.state = s.power.state := rfl
@[simp] theorem noteActivity_power_stateAt : (noteActivity s).power.stateAt = s.power.stateAt := rfl
@[simp] theorem noteActivity_power_spent : (noteActivity s).power.spent = s.power.spent := rfl
@[simp] theorem noteActivity_power_transition : (noteActivity s).power.transition = s.power.transition := rfl
@[simp] theorem noteActivity_power_heldRequest : (noteActivity s).power.heldRequest = s.power.heldRequest := rfl
@[simp] theorem noteActivity_power_heldWake : (noteActivity s).power.heldWake = s.power.heldWake := rfl
@[simp] theorem noteActivity_power_waking : (noteActivity s).power.waking = s.power.waking := rfl
@[simp] theorem noteActivity_power_wakeStep : (noteActivity s).power.wakeStep = s.power.wakeStep := rfl
@[simp] theorem noteActivity_power_wakeAt : (noteActivity s).power.wakeAt = s.power.wakeAt := rfl
@[simp] theorem noteActivity_power_service : (noteActivity s).power.service = s.power.service := rfl
@[simp] theorem noteActivity_power_serviceFrom : (noteActivity s).power.serviceFrom = s.power.serviceFrom := rfl
@[simp] theorem noteActivity_power_restarting : (noteActivity s).power.restarting = s.power.restarting := rfl
@[simp] theorem noteActivity_power_tries : (noteActivity s).power.tries = s.power.tries := rfl
@[simp] theorem noteActivity_power_failed : (noteActivity s).power.failed = s.power.failed := rfl
@[simp] theorem noteActivity_power_warning : (noteActivity s).power.warning = s.power.warning := rfl
@[simp] theorem noteActivity_power_lit : (noteActivity s).power.lit = s.power.lit := rfl
@[simp] theorem noteActivity_power_asleepAt : (noteActivity s).power.asleepAt = s.power.asleepAt := rfl
@[simp] theorem noteActivity_power_settings : (noteActivity s).power.settings = s.power.settings := rfl
@[simp] theorem noteActivity_power_refOk : (noteActivity s).power.refOk = s.power.refOk := rfl
@[simp] theorem noteActivity_power_vcoreOk : (noteActivity s).power.vcoreOk = s.power.vcoreOk := rfl
@[simp] theorem noteActivity_power_bootAt : (noteActivity s).power.bootAt = s.power.bootAt := rfl
@[simp] theorem noteActivity_pins : (noteActivity s).pins = s.pins := rfl
@[simp] theorem noteActivity_free : (noteActivity s).free = s.free := rfl
@[simp] theorem noteActivity_pending : (noteActivity s).pending = s.pending := rfl
end

end Sys2Proof.Machine
end

