-- ==== Sys2Proof/Laws/Ops.lean ====
section
/-! SUPPORT. What the shared operations leave as it was, by their frames. -/

namespace Sys2Proof.Machine

theorem Only.sec {ps : List Part} {s t : State} (h : Only ps s t) (h1 : ps.contains .security = false)
    (h2 : ps.contains .fuses = false) : t.sec = s.sec := by
  have a := h.same .security h1
  have b := h.same .fuses h2
  simp only [Part.same] at a b
  cases hs : s.sec; cases ht : t.sec
  simp_all
theorem Only.pipe {ps : List Part} {s t : State} (h : Only ps s t) (h1 : ps.contains .pipe = false)
    (h2 : ps.contains .flash = false) : t.pipe = s.pipe := by
  have a := h.same .pipe h1
  have b := h.same .flash h2
  simp only [Part.same] at a b
  cases hs : s.pipe; cases ht : t.pipe
  simp_all
theorem Only.sram {ps : List Part} {s t : State} (h : Only ps s t) (h1 : ps.contains .sram = false)
    (h2 : ps.contains .sramMem = false) : t.sram = s.sram := by
  have a := h.same .sram h1
  have b := h.same .sramMem h2
  simp only [Part.same] at a b
  cases hs : s.sram; cases ht : t.sram
  simp_all

/-! ### Fields of parts that stay -/

theorem Only.dict_cfg {ps : List Part} {s t : State} (h : Only ps s t) (hp : ps.contains .config = false) :
    t.dict.cfg = s.dict.cfg := h.same .config hp
theorem Only.dict_held {ps : List Part} {s t : State} (h : Only ps s t) (hp : ps.contains .shadow = false) :
    t.dict.held = s.dict.held := congrArg (·.1) (h.same .shadow hp)
theorem Only.dict_items {ps : List Part} {s t : State} (h : Only ps s t) (hp : ps.contains .shadow = false) :
    t.dict.items = s.dict.items := congrArg (·.2.1) (h.same .shadow hp)
theorem Only.dict_patch {ps : List Part} {s t : State} (h : Only ps s t) (hp : ps.contains .shadow = false) :
    t.dict.patch = s.dict.patch := congrArg (·.2.2.1) (h.same .shadow hp)
theorem Only.dict_commits {ps : List Part} {s t : State} (h : Only ps s t) (hp : ps.contains .shadow = false) :
    t.dict.commits = s.dict.commits := congrArg (·.2.2.2) (h.same .shadow hp)
theorem Only.dict_res {ps : List Part} {s t : State} (h : Only ps s t) (hp : ps.contains .results = false) :
    t.dict.res = s.dict.res := congrArg (·.1) (h.same .results hp)
theorem Only.dict_gens {ps : List Part} {s t : State} (h : Only ps s t) (hp : ps.contains .results = false) :
    t.dict.gens = s.dict.gens := congrArg (·.2) (h.same .results hp)
theorem Only.dict_limited {ps : List Part} {s t : State} (h : Only ps s t) (hp : ps.contains .events = false) :
    t.dict.limited = s.dict.limited := congrArg (·.1) (h.same .events hp)
theorem Only.dict_lastEvent {ps : List Part} {s t : State} (h : Only ps s t) (hp : ps.contains .events = false) :
    t.dict.lastEvent = s.dict.lastEvent := congrArg (·.2.1) (h.same .events hp)
theorem Only.dict_ordinal {ps : List Part} {s t : State} (h : Only ps s t) (hp : ps.contains .events = false) :
    t.dict.ordinal = s.dict.ordinal := congrArg (·.2.2) (h.same .events hp)
theorem Only.dict_ce {ps : List Part} {s t : State} (h : Only ps s t) (hp : ps.contains .counts = false) :
    t.dict.ce = s.dict.ce := congrArg (·.1) (h.same .counts hp)
theorem Only.dict_ue {ps : List Part} {s t : State} (h : Only ps s t) (hp : ps.contains .counts = false) :
    t.dict.ue = s.dict.ue := congrArg (·.2) (h.same .counts hp)
theorem Only.ctrl_waiting {ps : List Part} {s t : State} (h : Only ps s t) (hp : ps.contains .requests = false) :
    t.ctrl.waiting = s.ctrl.waiting := congrArg (·.1) (h.same .requests hp)
theorem Only.ctrl_busy {ps : List Part} {s t : State} (h : Only ps s t) (hp : ps.contains .requests = false) :
    t.ctrl.busy = s.ctrl.busy := congrArg (·.2.1) (h.same .requests hp)
theorem Only.ctrl_passed {ps : List Part} {s t : State} (h : Only ps s t) (hp : ps.contains .requests = false) :
    t.ctrl.passed = s.ctrl.passed := congrArg (·.2.2) (h.same .requests hp)
theorem Only.ctrl_host {ps : List Part} {s t : State} (h : Only ps s t) (hp : ps.contains .ports = false) :
    t.ctrl.host = s.ctrl.host := congrArg (·.1) (h.same .ports hp)
theorem Only.ctrl_field {ps : List Part} {s t : State} (h : Only ps s t) (hp : ps.contains .ports = false) :
    t.ctrl.field = s.ctrl.field := congrArg (·.2.1) (h.same .ports hp)
theorem Only.ctrl_sideband {ps : List Part} {s t : State} (h : Only ps s t) (hp : ps.contains .ports = false) :
    t.ctrl.sideband = s.ctrl.sideband := congrArg (·.2.2) (h.same .ports hp)
theorem Only.ctrl_can {ps : List Part} {s t : State} (h : Only ps s t) (hp : ps.contains .can = false) :
    t.ctrl.can = s.ctrl.can := h.same .can hp
theorem Only.pstore_mem {ps : List Part} {s t : State} (h : Only ps s t) (hp : ps.contains .store = false) :
    t.pstore.mem = s.pstore.mem := h.same .store hp
theorem Only.pstore_queue {ps : List Part} {s t : State} (h : Only ps s t) (hp : ps.contains .storeQueue = false) :
    t.pstore.queue = s.pstore.queue := congrArg (·.1) (h.same .storeQueue hp)
theorem Only.pstore_current {ps : List Part} {s t : State} (h : Only ps s t) (hp : ps.contains .storeQueue = false) :
    t.pstore.current = s.pstore.current := congrArg (·.2.1) (h.same .storeQueue hp)
theorem Only.pstore_mirror {ps : List Part} {s t : State} (h : Only ps s t) (hp : ps.contains .storeQueue = false) :
    t.pstore.mirror = s.pstore.mirror := congrArg (·.2.2.1) (h.same .storeQueue hp)
theorem Only.pstore_gathered {ps : List Part} {s t : State} (h : Only ps s t) (hp : ps.contains .storeQueue = false) :
    t.pstore.gathered = s.pstore.gathered := congrArg (·.2.2.2.1) (h.same .storeQueue hp)
theorem Only.pstore_queued {ps : List Part} {s t : State} (h : Only ps s t) (hp : ps.contains .storeQueue = false) :
    t.pstore.queued = s.pstore.queued := congrArg (·.2.2.2.2.1) (h.same .storeQueue hp)
theorem Only.pstore_gatherAt {ps : List Part} {s t : State} (h : Only ps s t) (hp : ps.contains .storeQueue = false) :
    t.pstore.gatherAt = s.pstore.gatherAt := congrArg (·.2.2.2.2.2.1) (h.same .storeQueue hp)
theorem Only.pstore_notLogged {ps : List Part} {s t : State} (h : Only ps s t) (hp : ps.contains .storeQueue = false) :
    t.pstore.notLogged = s.pstore.notLogged := congrArg (·.2.2.2.2.2.2.1) (h.same .storeQueue hp)
theorem Only.pstore_nextSeq {ps : List Part} {s t : State} (h : Only ps s t) (hp : ps.contains .storeQueue = false) :
    t.pstore.nextSeq = s.pstore.nextSeq := congrArg (·.2.2.2.2.2.2.2.1) (h.same .storeQueue hp)
theorem Only.pstore_programmed {ps : List Part} {s t : State} (h : Only ps s t) (hp : ps.contains .storeQueue = false) :
    t.pstore.programmed = s.pstore.programmed := congrArg (·.2.2.2.2.2.2.2.2) (h.same .storeQueue hp)
theorem Only.pstore_tally {ps : List Part} {s t : State} (h : Only ps s t) (hp : ps.contains .tallies = false) :
    t.pstore.tally = s.pstore.tally := congrArg (·.1) (h.same .tallies hp)
theorem Only.pstore_holder {ps : List Part} {s t : State} (h : Only ps s t) (hp : ps.contains .tallies = false) :
    t.pstore.holder = s.pstore.holder := congrArg (·.2.1) (h.same .tallies hp)
theorem Only.pstore_tallyFull {ps : List Part} {s t : State} (h : Only ps s t) (hp : ps.contains .tallies = false) :
    t.pstore.tallyFull = s.pstore.tallyFull := congrArg (·.2.2) (h.same .tallies hp)
theorem Only.pstore_warned {ps : List Part} {s t : State} (h : Only ps s t) (hp : ps.contains .storeState = false) :
    t.pstore.warned = s.pstore.warned := congrArg (·.1) (h.same .storeState hp)
theorem Only.pstore_storeTag {ps : List Part} {s t : State} (h : Only ps s t) (hp : ps.contains .storeState = false) :
    t.pstore.storeTag = s.pstore.storeTag := congrArg (·.2.1) (h.same .storeState hp)
theorem Only.pstore_storeSlotB {ps : List Part} {s t : State} (h : Only ps s t) (hp : ps.contains .storeState = false) :
    t.pstore.storeSlotB = s.pstore.storeSlotB := congrArg (·.2.2.1) (h.same .storeState hp)
theorem Only.pstore_storeLen {ps : List Part} {s t : State} (h : Only ps s t) (hp : ps.contains .storeState = false) :
    t.pstore.storeLen = s.pstore.storeLen := congrArg (·.2.2.2.1) (h.same .storeState hp)
theorem Only.pstore_blaze {ps : List Part} {s t : State} (h : Only ps s t) (hp : ps.contains .storeState = false) :
    t.pstore.blaze = s.pstore.blaze := congrArg (·.2.2.2.2.1) (h.same .storeState hp)
theorem Only.pstore_reinstated {ps : List Part} {s t : State} (h : Only ps s t) (hp : ps.contains .storeState = false) :
    t.pstore.reinstated = s.pstore.reinstated := congrArg (·.2.2.2.2.2.1) (h.same .storeState hp)
theorem Only.pstore_repairs {ps : List Part} {s t : State} (h : Only ps s t) (hp : ps.contains .storeState = false) :
    t.pstore.repairs = s.pstore.repairs := congrArg (·.2.2.2.2.2.2.1) (h.same .storeState hp)
theorem Only.pstore_identityOk {ps : List Part} {s t : State} (h : Only ps s t) (hp : ps.contains .storeState = false) :
    t.pstore.identityOk = s.pstore.identityOk := congrArg (·.2.2.2.2.2.2.2.1) (h.same .storeState hp)
theorem Only.pstore_blazeFull {ps : List Part} {s t : State} (h : Only ps s t) (hp : ps.contains .storeState = false) :
    t.pstore.blazeFull = s.pstore.blazeFull := congrArg (·.2.2.2.2.2.2.2.2.1) (h.same .storeState hp)
theorem Only.pstore_wearRaised {ps : List Part} {s t : State} (h : Only ps s t) (hp : ps.contains .storeState = false) :
    t.pstore.wearRaised = s.pstore.wearRaised := congrArg (·.2.2.2.2.2.2.2.2.2.1) (h.same .storeState hp)
theorem Only.pstore_limited {ps : List Part} {s t : State} (h : Only ps s t) (hp : ps.contains .storeState = false) :
    t.pstore.limited = s.pstore.limited := congrArg (·.2.2.2.2.2.2.2.2.2.2.1) (h.same .storeState hp)
theorem Only.pstore_read {ps : List Part} {s t : State} (h : Only ps s t) (hp : ps.contains .storeState = false) :
    t.pstore.read = s.pstore.read := congrArg (·.2.2.2.2.2.2.2.2.2.2.2) (h.same .storeState hp)
theorem Only.stag_events {ps : List Part} {s t : State} (h : Only ps s t) (hp : ps.contains .heldEvents = false) :
    t.stag.events = s.stag.events := congrArg (·.1) (h.same .heldEvents hp)
theorem Only.stag_overflow {ps : List Part} {s t : State} (h : Only ps s t) (hp : ps.contains .heldEvents = false) :
    t.stag.overflow = s.stag.overflow := congrArg (·.2) (h.same .heldEvents hp)
theorem Only.stag_restarting {ps : List Part} {s t : State} (h : Only ps s t) (hp : ps.contains .stag = false) :
    t.stag.restarting = s.stag.restarting := congrArg (·.1) (h.same .stag hp)
theorem Only.stag_restarts {ps : List Part} {s t : State} (h : Only ps s t) (hp : ps.contains .stag = false) :
    t.stag.restarts = s.stag.restarts := congrArg (·.2.1) (h.same .stag hp)
theorem Only.stag_running {ps : List Part} {s t : State} (h : Only ps s t) (hp : ps.contains .stag = false) :
    t.stag.running = s.stag.running := congrArg (·.2.2.1) (h.same .stag hp)
theorem Only.stag_recovery {ps : List Part} {s t : State} (h : Only ps s t) (hp : ps.contains .stag = false) :
    t.stag.recovery = s.stag.recovery := congrArg (·.2.2.2.1) (h.same .stag hp)
theorem Only.stag_slot {ps : List Part} {s t : State} (h : Only ps s t) (hp : ps.contains .stag = false) :
    t.stag.slot = s.stag.slot := congrArg (·.2.2.2.2.1) (h.same .stag hp)
theorem Only.stag_trial {ps : List Part} {s t : State} (h : Only ps s t) (hp : ps.contains .stag = false) :
    t.stag.trial = s.stag.trial := congrArg (·.2.2.2.2.2.1) (h.same .stag hp)
theorem Only.stag_trialSince {ps : List Part} {s t : State} (h : Only ps s t) (hp : ps.contains .stag = false) :
    t.stag.trialSince = s.stag.trialSince := congrArg (·.2.2.2.2.2.2) (h.same .stag hp)
theorem Only.stag_opBase {ps : List Part} {s t : State} (h : Only ps s t) (hp : ps.contains .clocks = false) :
    t.stag.opBase = s.stag.opBase := congrArg (·.1) (h.same .clocks hp)
theorem Only.stag_opAt {ps : List Part} {s t : State} (h : Only ps s t) (hp : ps.contains .clocks = false) :
    t.stag.opAt = s.stag.opAt := congrArg (·.2.1) (h.same .clocks hp)
theorem Only.stag_opRuns {ps : List Part} {s t : State} (h : Only ps s t) (hp : ps.contains .clocks = false) :
    t.stag.opRuns = s.stag.opRuns := congrArg (·.2.2.1) (h.same .clocks hp)
theorem Only.stag_caughtUp {ps : List Part} {s t : State} (h : Only ps s t) (hp : ps.contains .clocks = false) :
    t.stag.caughtUp = s.stag.caughtUp := congrArg (·.2.2.2.1) (h.same .clocks hp)
theorem Only.stag_utcBase {ps : List Part} {s t : State} (h : Only ps s t) (hp : ps.contains .clocks = false) :
    t.stag.utcBase = s.stag.utcBase := congrArg (·.2.2.2.2.1) (h.same .clocks hp)
theorem Only.stag_utcAt {ps : List Part} {s t : State} (h : Only ps s t) (hp : ps.contains .clocks = false) :
    t.stag.utcAt = s.stag.utcAt := congrArg (·.2.2.2.2.2.1) (h.same .clocks hp)
theorem Only.stag_utcValid {ps : List Part} {s t : State} (h : Only ps s t) (hp : ps.contains .clocks = false) :
    t.stag.utcValid = s.stag.utcValid := congrArg (·.2.2.2.2.2.2) (h.same .clocks hp)
theorem Only.stag_therm {ps : List Part} {s t : State} (h : Only ps s t) (hp : ps.contains .sensors = false) :
    t.stag.therm = s.stag.therm := congrArg (·.1) (h.same .sensors hp)
theorem Only.stag_vmon {ps : List Part} {s t : State} (h : Only ps s t) (hp : ps.contains .sensors = false) :
    t.stag.vmon = s.stag.vmon := congrArg (·.2.1) (h.same .sensors hp)
theorem Only.stag_ntc {ps : List Part} {s t : State} (h : Only ps s t) (hp : ps.contains .sensors = false) :
    t.stag.ntc = s.stag.ntc := congrArg (·.2.2) (h.same .sensors hp)
theorem Only.stag_slotA {ps : List Part} {s t : State} (h : Only ps s t) (hp : ps.contains .slots = false) :
    t.stag.slotA = s.stag.slotA := congrArg (·.1) (h.same .slots hp)
theorem Only.stag_slotB {ps : List Part} {s t : State} (h : Only ps s t) (hp : ps.contains .slots = false) :
    t.stag.slotB = s.stag.slotB := congrArg (·.2.1) (h.same .slots hp)
theorem Only.stag_activation {ps : List Part} {s t : State} (h : Only ps s t) (hp : ps.contains .slots = false) :
    t.stag.activation = s.stag.activation := congrArg (·.2.2) (h.same .slots hp)
theorem Only.stag_imageLen {ps : List Part} {s t : State} (h : Only ps s t) (hp : ps.contains .image = false) :
    t.stag.imageLen = s.stag.imageLen := congrArg (·.1) (h.same .image hp)
theorem Only.stag_image {ps : List Part} {s t : State} (h : Only ps s t) (hp : ps.contains .image = false) :
    t.stag.image = s.stag.image := congrArg (·.2) (h.same .image hp)

/-! ### The shared operations -/

section
variable {h : Nat} {p : Nat} {v : Nat} {s : State}
@[simp] theorem changeRes_now : (changeRes h p v s).now = s.now := (changeRes_only h p v s).same .now rfl
@[simp] theorem changeRes_epoch : (changeRes h p v s).epoch = s.epoch := (changeRes_only h p v s).same .epoch rfl
@[simp] theorem changeRes_dict_cfg : (changeRes h p v s).dict.cfg = s.dict.cfg :=
  (changeRes_only h p v s).same .config rfl
@[simp] theorem changeRes_dict_held : (changeRes h p v s).dict.held = s.dict.held :=
  congrArg (·.1) ((changeRes_only h p v s).same .shadow rfl)
@[simp] theorem changeRes_dict_items : (changeRes h p v s).dict.items = s.dict.items :=
  congrArg (·.2.1) ((changeRes_only h p v s).same .shadow rfl)
@[simp] theorem changeRes_dict_patch : (changeRes h p v s).dict.patch = s.dict.patch :=
  congrArg (·.2.2.1) ((changeRes_only h p v s).same .shadow rfl)
@[simp] theorem changeRes_dict_commits : (changeRes h p v s).dict.commits = s.dict.commits :=
  congrArg (·.2.2.2) ((changeRes_only h p v s).same .shadow rfl)
@[simp] theorem changeRes_dict_limited : (changeRes h p v s).dict.limited = s.dict.limited :=
  congrArg (·.1) ((changeRes_only h p v s).same .events rfl)
@[simp] theorem changeRes_dict_lastEvent : (changeRes h p v s).dict.lastEvent = s.dict.lastEvent :=
  congrArg (·.2.1) ((changeRes_only h p v s).same .events rfl)
@[simp] theorem changeRes_dict_ordinal : (changeRes h p v s).dict.ordinal = s.dict.ordinal :=
  congrArg (·.2.2) ((changeRes_only h p v s).same .events rfl)
@[simp] theorem changeRes_dict_ce : (changeRes h p v s).dict.ce = s.dict.ce :=
  congrArg (·.1) ((changeRes_only h p v s).same .counts rfl)
@[simp] theorem changeRes_dict_ue : (changeRes h p v s).dict.ue = s.dict.ue :=
  congrArg (·.2) ((changeRes_only h p v s).same .counts rfl)
@[simp] theorem changeRes_ctrl_waiting : (changeRes h p v s).ctrl.waiting = s.ctrl.waiting :=
  congrArg (·.1) ((changeRes_only h p v s).same .requests rfl)
@[simp] theorem changeRes_ctrl_busy : (changeRes h p v s).ctrl.busy = s.ctrl.busy :=
  congrArg (·.2.1) ((changeRes_only h p v s).same .requests rfl)
@[simp] theorem changeRes_ctrl_passed : (changeRes h p v s).ctrl.passed = s.ctrl.passed :=
  congrArg (·.2.2) ((changeRes_only h p v s).same .requests rfl)
@[simp] theorem changeRes_ctrl_host : (changeRes h p v s).ctrl.host = s.ctrl.host :=
  congrArg (·.1) ((changeRes_only h p v s).same .ports rfl)
@[simp] theorem changeRes_ctrl_field : (changeRes h p v s).ctrl.field = s.ctrl.field :=
  congrArg (·.2.1) ((changeRes_only h p v s).same .ports rfl)
@[simp] theorem changeRes_ctrl_sideband : (changeRes h p v s).ctrl.sideband = s.ctrl.sideband :=
  congrArg (·.2.2) ((changeRes_only h p v s).same .ports rfl)
@[simp] theorem changeRes_ctrl_can : (changeRes h p v s).ctrl.can = s.ctrl.can :=
  (changeRes_only h p v s).same .can rfl
@[simp] theorem changeRes_pstore_mem : (changeRes h p v s).pstore.mem = s.pstore.mem :=
  (changeRes_only h p v s).same .store rfl
@[simp] theorem changeRes_pstore_queue : (changeRes h p v s).pstore.queue = s.pstore.queue :=
  congrArg (·.1) ((changeRes_only h p v s).same .storeQueue rfl)
@[simp] theorem changeRes_pstore_current : (changeRes h p v s).pstore.current = s.pstore.current :=
  congrArg (·.2.1) ((changeRes_only h p v s).same .storeQueue rfl)
@[simp] theorem changeRes_pstore_mirror : (changeRes h p v s).pstore.mirror = s.pstore.mirror :=
  congrArg (·.2.2.1) ((changeRes_only h p v s).same .storeQueue rfl)
@[simp] theorem changeRes_pstore_gathered : (changeRes h p v s).pstore.gathered = s.pstore.gathered :=
  congrArg (·.2.2.2.1) ((changeRes_only h p v s).same .storeQueue rfl)
@[simp] theorem changeRes_pstore_queued : (changeRes h p v s).pstore.queued = s.pstore.queued :=
  congrArg (·.2.2.2.2.1) ((changeRes_only h p v s).same .storeQueue rfl)
@[simp] theorem changeRes_pstore_gatherAt : (changeRes h p v s).pstore.gatherAt = s.pstore.gatherAt :=
  congrArg (·.2.2.2.2.2.1) ((changeRes_only h p v s).same .storeQueue rfl)
@[simp] theorem changeRes_pstore_notLogged : (changeRes h p v s).pstore.notLogged = s.pstore.notLogged :=
  congrArg (·.2.2.2.2.2.2.1) ((changeRes_only h p v s).same .storeQueue rfl)
@[simp] theorem changeRes_pstore_nextSeq : (changeRes h p v s).pstore.nextSeq = s.pstore.nextSeq :=
  congrArg (·.2.2.2.2.2.2.2.1) ((changeRes_only h p v s).same .storeQueue rfl)
@[simp] theorem changeRes_pstore_programmed : (changeRes h p v s).pstore.programmed = s.pstore.programmed :=
  congrArg (·.2.2.2.2.2.2.2.2) ((changeRes_only h p v s).same .storeQueue rfl)
@[simp] theorem changeRes_pstore_tally : (changeRes h p v s).pstore.tally = s.pstore.tally :=
  congrArg (·.1) ((changeRes_only h p v s).same .tallies rfl)
@[simp] theorem changeRes_pstore_holder : (changeRes h p v s).pstore.holder = s.pstore.holder :=
  congrArg (·.2.1) ((changeRes_only h p v s).same .tallies rfl)
@[simp] theorem changeRes_pstore_tallyFull : (changeRes h p v s).pstore.tallyFull = s.pstore.tallyFull :=
  congrArg (·.2.2) ((changeRes_only h p v s).same .tallies rfl)
@[simp] theorem changeRes_pstore_warned : (changeRes h p v s).pstore.warned = s.pstore.warned :=
  congrArg (·.1) ((changeRes_only h p v s).same .storeState rfl)
@[simp] theorem changeRes_pstore_storeTag : (changeRes h p v s).pstore.storeTag = s.pstore.storeTag :=
  congrArg (·.2.1) ((changeRes_only h p v s).same .storeState rfl)
@[simp] theorem changeRes_pstore_storeSlotB : (changeRes h p v s).pstore.storeSlotB = s.pstore.storeSlotB :=
  congrArg (·.2.2.1) ((changeRes_only h p v s).same .storeState rfl)
@[simp] theorem changeRes_pstore_storeLen : (changeRes h p v s).pstore.storeLen = s.pstore.storeLen :=
  congrArg (·.2.2.2.1) ((changeRes_only h p v s).same .storeState rfl)
@[simp] theorem changeRes_pstore_blaze : (changeRes h p v s).pstore.blaze = s.pstore.blaze :=
  congrArg (·.2.2.2.2.1) ((changeRes_only h p v s).same .storeState rfl)
@[simp] theorem changeRes_pstore_reinstated : (changeRes h p v s).pstore.reinstated = s.pstore.reinstated :=
  congrArg (·.2.2.2.2.2.1) ((changeRes_only h p v s).same .storeState rfl)
@[simp] theorem changeRes_pstore_repairs : (changeRes h p v s).pstore.repairs = s.pstore.repairs :=
  congrArg (·.2.2.2.2.2.2.1) ((changeRes_only h p v s).same .storeState rfl)
@[simp] theorem changeRes_pstore_identityOk : (changeRes h p v s).pstore.identityOk = s.pstore.identityOk :=
  congrArg (·.2.2.2.2.2.2.2.1) ((changeRes_only h p v s).same .storeState rfl)
@[simp] theorem changeRes_pstore_blazeFull : (changeRes h p v s).pstore.blazeFull = s.pstore.blazeFull :=
  congrArg (·.2.2.2.2.2.2.2.2.1) ((changeRes_only h p v s).same .storeState rfl)
@[simp] theorem changeRes_pstore_wearRaised : (changeRes h p v s).pstore.wearRaised = s.pstore.wearRaised :=
  congrArg (·.2.2.2.2.2.2.2.2.2.1) ((changeRes_only h p v s).same .storeState rfl)
@[simp] theorem changeRes_pstore_limited : (changeRes h p v s).pstore.limited = s.pstore.limited :=
  congrArg (·.2.2.2.2.2.2.2.2.2.2.1) ((changeRes_only h p v s).same .storeState rfl)
@[simp] theorem changeRes_pstore_read : (changeRes h p v s).pstore.read = s.pstore.read :=
  congrArg (·.2.2.2.2.2.2.2.2.2.2.2) ((changeRes_only h p v s).same .storeState rfl)
@[simp] theorem changeRes_sec : (changeRes h p v s).sec = s.sec := (changeRes_only h p v s).sec rfl rfl
@[simp] theorem changeRes_stag_events : (changeRes h p v s).stag.events = s.stag.events :=
  congrArg (·.1) ((changeRes_only h p v s).same .heldEvents rfl)
@[simp] theorem changeRes_stag_overflow : (changeRes h p v s).stag.overflow = s.stag.overflow :=
  congrArg (·.2) ((changeRes_only h p v s).same .heldEvents rfl)
@[simp] theorem changeRes_stag_restarting : (changeRes h p v s).stag.restarting = s.stag.restarting :=
  congrArg (·.1) ((changeRes_only h p v s).same .stag rfl)
@[simp] theorem changeRes_stag_restarts : (changeRes h p v s).stag.restarts = s.stag.restarts :=
  congrArg (·.2.1) ((changeRes_only h p v s).same .stag rfl)
@[simp] theorem changeRes_stag_running : (changeRes h p v s).stag.running = s.stag.running :=
  congrArg (·.2.2.1) ((changeRes_only h p v s).same .stag rfl)
@[simp] theorem changeRes_stag_recovery : (changeRes h p v s).stag.recovery = s.stag.recovery :=
  congrArg (·.2.2.2.1) ((changeRes_only h p v s).same .stag rfl)
@[simp] theorem changeRes_stag_slot : (changeRes h p v s).stag.slot = s.stag.slot :=
  congrArg (·.2.2.2.2.1) ((changeRes_only h p v s).same .stag rfl)
@[simp] theorem changeRes_stag_trial : (changeRes h p v s).stag.trial = s.stag.trial :=
  congrArg (·.2.2.2.2.2.1) ((changeRes_only h p v s).same .stag rfl)
@[simp] theorem changeRes_stag_trialSince : (changeRes h p v s).stag.trialSince = s.stag.trialSince :=
  congrArg (·.2.2.2.2.2.2) ((changeRes_only h p v s).same .stag rfl)
@[simp] theorem changeRes_stag_opBase : (changeRes h p v s).stag.opBase = s.stag.opBase :=
  congrArg (·.1) ((changeRes_only h p v s).same .clocks rfl)
@[simp] theorem changeRes_stag_opAt : (changeRes h p v s).stag.opAt = s.stag.opAt :=
  congrArg (·.2.1) ((changeRes_only h p v s).same .clocks rfl)
@[simp] theorem changeRes_stag_opRuns : (changeRes h p v s).stag.opRuns = s.stag.opRuns :=
  congrArg (·.2.2.1) ((changeRes_only h p v s).same .clocks rfl)
@[simp] theorem changeRes_stag_caughtUp : (changeRes h p v s).stag.caughtUp = s.stag.caughtUp :=
  congrArg (·.2.2.2.1) ((changeRes_only h p v s).same .clocks rfl)
@[simp] theorem changeRes_stag_utcBase : (changeRes h p v s).stag.utcBase = s.stag.utcBase :=
  congrArg (·.2.2.2.2.1) ((changeRes_only h p v s).same .clocks rfl)
@[simp] theorem changeRes_stag_utcAt : (changeRes h p v s).stag.utcAt = s.stag.utcAt :=
  congrArg (·.2.2.2.2.2.1) ((changeRes_only h p v s).same .clocks rfl)
@[simp] theorem changeRes_stag_utcValid : (changeRes h p v s).stag.utcValid = s.stag.utcValid :=
  congrArg (·.2.2.2.2.2.2) ((changeRes_only h p v s).same .clocks rfl)
@[simp] theorem changeRes_stag_therm : (changeRes h p v s).stag.therm = s.stag.therm :=
  congrArg (·.1) ((changeRes_only h p v s).same .sensors rfl)
@[simp] theorem changeRes_stag_vmon : (changeRes h p v s).stag.vmon = s.stag.vmon :=
  congrArg (·.2.1) ((changeRes_only h p v s).same .sensors rfl)
@[simp] theorem changeRes_stag_ntc : (changeRes h p v s).stag.ntc = s.stag.ntc :=
  congrArg (·.2.2) ((changeRes_only h p v s).same .sensors rfl)
@[simp] theorem changeRes_stag_slotA : (changeRes h p v s).stag.slotA = s.stag.slotA :=
  congrArg (·.1) ((changeRes_only h p v s).same .slots rfl)
@[simp] theorem changeRes_stag_slotB : (changeRes h p v s).stag.slotB = s.stag.slotB :=
  congrArg (·.2.1) ((changeRes_only h p v s).same .slots rfl)
@[simp] theorem changeRes_stag_activation : (changeRes h p v s).stag.activation = s.stag.activation :=
  congrArg (·.2.2) ((changeRes_only h p v s).same .slots rfl)
@[simp] theorem changeRes_stag_imageLen : (changeRes h p v s).stag.imageLen = s.stag.imageLen :=
  congrArg (·.1) ((changeRes_only h p v s).same .image rfl)
@[simp] theorem changeRes_stag_image : (changeRes h p v s).stag.image = s.stag.image :=
  congrArg (·.2) ((changeRes_only h p v s).same .image rfl)
@[simp] theorem changeRes_link : (changeRes h p v s).link = s.link := (changeRes_only h p v s).same .link rfl
@[simp] theorem changeRes_aux : (changeRes h p v s).aux = s.aux := (changeRes_only h p v s).same .aux rfl
@[simp] theorem changeRes_rx : (changeRes h p v s).rx = s.rx := (changeRes_only h p v s).same .rx rfl
@[simp] theorem changeRes_raster : (changeRes h p v s).raster = s.raster := (changeRes_only h p v s).same .raster rfl
@[simp] theorem changeRes_pipe : (changeRes h p v s).pipe = s.pipe := (changeRes_only h p v s).pipe rfl rfl
@[simp] theorem changeRes_out : (changeRes h p v s).out = s.out := (changeRes_only h p v s).same .out rfl
@[simp] theorem changeRes_panel : (changeRes h p v s).panel = s.panel := (changeRes_only h p v s).same .panel rfl
@[simp] theorem changeRes_fstore : (changeRes h p v s).fstore = s.fstore := (changeRes_only h p v s).same .fstore rfl
@[simp] theorem changeRes_dram : (changeRes h p v s).dram = s.dram := (changeRes_only h p v s).same .dram rfl
@[simp] theorem changeRes_sram : (changeRes h p v s).sram = s.sram := (changeRes_only h p v s).sram rfl rfl
@[simp] theorem changeRes_resil : (changeRes h p v s).resil = s.resil := (changeRes_only h p v s).same .resil rfl
@[simp] theorem changeRes_power : (changeRes h p v s).power = s.power := (changeRes_only h p v s).same .power rfl
@[simp] theorem changeRes_pins : (changeRes h p v s).pins = s.pins := (changeRes_only h p v s).same .pins rfl
@[simp] theorem changeRes_free : (changeRes h p v s).free = s.free := (changeRes_only h p v s).same .free rfl
@[simp] theorem changeRes_pending : (changeRes h p v s).pending = s.pending := (changeRes_only h p v s).same .pending rfl
end

section
variable {h : Nat} {p : Nat} {n : Nat} {s : State}
@[simp] theorem incSat_now : (incSat h p n s).now = s.now := (incSat_only h p n s).same .now rfl
@[simp] theorem incSat_epoch : (incSat h p n s).epoch = s.epoch := (incSat_only h p n s).same .epoch rfl
@[simp] theorem incSat_dict_cfg : (incSat h p n s).dict.cfg = s.dict.cfg :=
  (incSat_only h p n s).same .config rfl
@[simp] theorem incSat_dict_held : (incSat h p n s).dict.held = s.dict.held :=
  congrArg (·.1) ((incSat_only h p n s).same .shadow rfl)
@[simp] theorem incSat_dict_items : (incSat h p n s).dict.items = s.dict.items :=
  congrArg (·.2.1) ((incSat_only h p n s).same .shadow rfl)
@[simp] theorem incSat_dict_patch : (incSat h p n s).dict.patch = s.dict.patch :=
  congrArg (·.2.2.1) ((incSat_only h p n s).same .shadow rfl)
@[simp] theorem incSat_dict_commits : (incSat h p n s).dict.commits = s.dict.commits :=
  congrArg (·.2.2.2) ((incSat_only h p n s).same .shadow rfl)
@[simp] theorem incSat_dict_limited : (incSat h p n s).dict.limited = s.dict.limited :=
  congrArg (·.1) ((incSat_only h p n s).same .events rfl)
@[simp] theorem incSat_dict_lastEvent : (incSat h p n s).dict.lastEvent = s.dict.lastEvent :=
  congrArg (·.2.1) ((incSat_only h p n s).same .events rfl)
@[simp] theorem incSat_dict_ordinal : (incSat h p n s).dict.ordinal = s.dict.ordinal :=
  congrArg (·.2.2) ((incSat_only h p n s).same .events rfl)
@[simp] theorem incSat_dict_ce : (incSat h p n s).dict.ce = s.dict.ce :=
  congrArg (·.1) ((incSat_only h p n s).same .counts rfl)
@[simp] theorem incSat_dict_ue : (incSat h p n s).dict.ue = s.dict.ue :=
  congrArg (·.2) ((incSat_only h p n s).same .counts rfl)
@[simp] theorem incSat_ctrl_waiting : (incSat h p n s).ctrl.waiting = s.ctrl.waiting :=
  congrArg (·.1) ((incSat_only h p n s).same .requests rfl)
@[simp] theorem incSat_ctrl_busy : (incSat h p n s).ctrl.busy = s.ctrl.busy :=
  congrArg (·.2.1) ((incSat_only h p n s).same .requests rfl)
@[simp] theorem incSat_ctrl_passed : (incSat h p n s).ctrl.passed = s.ctrl.passed :=
  congrArg (·.2.2) ((incSat_only h p n s).same .requests rfl)
@[simp] theorem incSat_ctrl_host : (incSat h p n s).ctrl.host = s.ctrl.host :=
  congrArg (·.1) ((incSat_only h p n s).same .ports rfl)
@[simp] theorem incSat_ctrl_field : (incSat h p n s).ctrl.field = s.ctrl.field :=
  congrArg (·.2.1) ((incSat_only h p n s).same .ports rfl)
@[simp] theorem incSat_ctrl_sideband : (incSat h p n s).ctrl.sideband = s.ctrl.sideband :=
  congrArg (·.2.2) ((incSat_only h p n s).same .ports rfl)
@[simp] theorem incSat_ctrl_can : (incSat h p n s).ctrl.can = s.ctrl.can :=
  (incSat_only h p n s).same .can rfl
@[simp] theorem incSat_pstore_mem : (incSat h p n s).pstore.mem = s.pstore.mem :=
  (incSat_only h p n s).same .store rfl
@[simp] theorem incSat_pstore_queue : (incSat h p n s).pstore.queue = s.pstore.queue :=
  congrArg (·.1) ((incSat_only h p n s).same .storeQueue rfl)
@[simp] theorem incSat_pstore_current : (incSat h p n s).pstore.current = s.pstore.current :=
  congrArg (·.2.1) ((incSat_only h p n s).same .storeQueue rfl)
@[simp] theorem incSat_pstore_mirror : (incSat h p n s).pstore.mirror = s.pstore.mirror :=
  congrArg (·.2.2.1) ((incSat_only h p n s).same .storeQueue rfl)
@[simp] theorem incSat_pstore_gathered : (incSat h p n s).pstore.gathered = s.pstore.gathered :=
  congrArg (·.2.2.2.1) ((incSat_only h p n s).same .storeQueue rfl)
@[simp] theorem incSat_pstore_queued : (incSat h p n s).pstore.queued = s.pstore.queued :=
  congrArg (·.2.2.2.2.1) ((incSat_only h p n s).same .storeQueue rfl)
@[simp] theorem incSat_pstore_gatherAt : (incSat h p n s).pstore.gatherAt = s.pstore.gatherAt :=
  congrArg (·.2.2.2.2.2.1) ((incSat_only h p n s).same .storeQueue rfl)
@[simp] theorem incSat_pstore_notLogged : (incSat h p n s).pstore.notLogged = s.pstore.notLogged :=
  congrArg (·.2.2.2.2.2.2.1) ((incSat_only h p n s).same .storeQueue rfl)
@[simp] theorem incSat_pstore_nextSeq : (incSat h p n s).pstore.nextSeq = s.pstore.nextSeq :=
  congrArg (·.2.2.2.2.2.2.2.1) ((incSat_only h p n s).same .storeQueue rfl)
@[simp] theorem incSat_pstore_programmed : (incSat h p n s).pstore.programmed = s.pstore.programmed :=
  congrArg (·.2.2.2.2.2.2.2.2) ((incSat_only h p n s).same .storeQueue rfl)
@[simp] theorem incSat_pstore_tally : (incSat h p n s).pstore.tally = s.pstore.tally :=
  congrArg (·.1) ((incSat_only h p n s).same .tallies rfl)
@[simp] theorem incSat_pstore_holder : (incSat h p n s).pstore.holder = s.pstore.holder :=
  congrArg (·.2.1) ((incSat_only h p n s).same .tallies rfl)
@[simp] theorem incSat_pstore_tallyFull : (incSat h p n s).pstore.tallyFull = s.pstore.tallyFull :=
  congrArg (·.2.2) ((incSat_only h p n s).same .tallies rfl)
@[simp] theorem incSat_pstore_warned : (incSat h p n s).pstore.warned = s.pstore.warned :=
  congrArg (·.1) ((incSat_only h p n s).same .storeState rfl)
@[simp] theorem incSat_pstore_storeTag : (incSat h p n s).pstore.storeTag = s.pstore.storeTag :=
  congrArg (·.2.1) ((incSat_only h p n s).same .storeState rfl)
@[simp] theorem incSat_pstore_storeSlotB : (incSat h p n s).pstore.storeSlotB = s.pstore.storeSlotB :=
  congrArg (·.2.2.1) ((incSat_only h p n s).same .storeState rfl)
@[simp] theorem incSat_pstore_storeLen : (incSat h p n s).pstore.storeLen = s.pstore.storeLen :=
  congrArg (·.2.2.2.1) ((incSat_only h p n s).same .storeState rfl)
@[simp] theorem incSat_pstore_blaze : (incSat h p n s).pstore.blaze = s.pstore.blaze :=
  congrArg (·.2.2.2.2.1) ((incSat_only h p n s).same .storeState rfl)
@[simp] theorem incSat_pstore_reinstated : (incSat h p n s).pstore.reinstated = s.pstore.reinstated :=
  congrArg (·.2.2.2.2.2.1) ((incSat_only h p n s).same .storeState rfl)
@[simp] theorem incSat_pstore_repairs : (incSat h p n s).pstore.repairs = s.pstore.repairs :=
  congrArg (·.2.2.2.2.2.2.1) ((incSat_only h p n s).same .storeState rfl)
@[simp] theorem incSat_pstore_identityOk : (incSat h p n s).pstore.identityOk = s.pstore.identityOk :=
  congrArg (·.2.2.2.2.2.2.2.1) ((incSat_only h p n s).same .storeState rfl)
@[simp] theorem incSat_pstore_blazeFull : (incSat h p n s).pstore.blazeFull = s.pstore.blazeFull :=
  congrArg (·.2.2.2.2.2.2.2.2.1) ((incSat_only h p n s).same .storeState rfl)
@[simp] theorem incSat_pstore_wearRaised : (incSat h p n s).pstore.wearRaised = s.pstore.wearRaised :=
  congrArg (·.2.2.2.2.2.2.2.2.2.1) ((incSat_only h p n s).same .storeState rfl)
@[simp] theorem incSat_pstore_limited : (incSat h p n s).pstore.limited = s.pstore.limited :=
  congrArg (·.2.2.2.2.2.2.2.2.2.2.1) ((incSat_only h p n s).same .storeState rfl)
@[simp] theorem incSat_pstore_read : (incSat h p n s).pstore.read = s.pstore.read :=
  congrArg (·.2.2.2.2.2.2.2.2.2.2.2) ((incSat_only h p n s).same .storeState rfl)
@[simp] theorem incSat_sec : (incSat h p n s).sec = s.sec := (incSat_only h p n s).sec rfl rfl
@[simp] theorem incSat_stag_events : (incSat h p n s).stag.events = s.stag.events :=
  congrArg (·.1) ((incSat_only h p n s).same .heldEvents rfl)
@[simp] theorem incSat_stag_overflow : (incSat h p n s).stag.overflow = s.stag.overflow :=
  congrArg (·.2) ((incSat_only h p n s).same .heldEvents rfl)
@[simp] theorem incSat_stag_restarting : (incSat h p n s).stag.restarting = s.stag.restarting :=
  congrArg (·.1) ((incSat_only h p n s).same .stag rfl)
@[simp] theorem incSat_stag_restarts : (incSat h p n s).stag.restarts = s.stag.restarts :=
  congrArg (·.2.1) ((incSat_only h p n s).same .stag rfl)
@[simp] theorem incSat_stag_running : (incSat h p n s).stag.running = s.stag.running :=
  congrArg (·.2.2.1) ((incSat_only h p n s).same .stag rfl)
@[simp] theorem incSat_stag_recovery : (incSat h p n s).stag.recovery = s.stag.recovery :=
  congrArg (·.2.2.2.1) ((incSat_only h p n s).same .stag rfl)
@[simp] theorem incSat_stag_slot : (incSat h p n s).stag.slot = s.stag.slot :=
  congrArg (·.2.2.2.2.1) ((incSat_only h p n s).same .stag rfl)
@[simp] theorem incSat_stag_trial : (incSat h p n s).stag.trial = s.stag.trial :=
  congrArg (·.2.2.2.2.2.1) ((incSat_only h p n s).same .stag rfl)
@[simp] theorem incSat_stag_trialSince : (incSat h p n s).stag.trialSince = s.stag.trialSince :=
  congrArg (·.2.2.2.2.2.2) ((incSat_only h p n s).same .stag rfl)
@[simp] theorem incSat_stag_opBase : (incSat h p n s).stag.opBase = s.stag.opBase :=
  congrArg (·.1) ((incSat_only h p n s).same .clocks rfl)
@[simp] theorem incSat_stag_opAt : (incSat h p n s).stag.opAt = s.stag.opAt :=
  congrArg (·.2.1) ((incSat_only h p n s).same .clocks rfl)
@[simp] theorem incSat_stag_opRuns : (incSat h p n s).stag.opRuns = s.stag.opRuns :=
  congrArg (·.2.2.1) ((incSat_only h p n s).same .clocks rfl)
@[simp] theorem incSat_stag_caughtUp : (incSat h p n s).stag.caughtUp = s.stag.caughtUp :=
  congrArg (·.2.2.2.1) ((incSat_only h p n s).same .clocks rfl)
@[simp] theorem incSat_stag_utcBase : (incSat h p n s).stag.utcBase = s.stag.utcBase :=
  congrArg (·.2.2.2.2.1) ((incSat_only h p n s).same .clocks rfl)
@[simp] theorem incSat_stag_utcAt : (incSat h p n s).stag.utcAt = s.stag.utcAt :=
  congrArg (·.2.2.2.2.2.1) ((incSat_only h p n s).same .clocks rfl)
@[simp] theorem incSat_stag_utcValid : (incSat h p n s).stag.utcValid = s.stag.utcValid :=
  congrArg (·.2.2.2.2.2.2) ((incSat_only h p n s).same .clocks rfl)
@[simp] theorem incSat_stag_therm : (incSat h p n s).stag.therm = s.stag.therm :=
  congrArg (·.1) ((incSat_only h p n s).same .sensors rfl)
@[simp] theorem incSat_stag_vmon : (incSat h p n s).stag.vmon = s.stag.vmon :=
  congrArg (·.2.1) ((incSat_only h p n s).same .sensors rfl)
@[simp] theorem incSat_stag_ntc : (incSat h p n s).stag.ntc = s.stag.ntc :=
  congrArg (·.2.2) ((incSat_only h p n s).same .sensors rfl)
@[simp] theorem incSat_stag_slotA : (incSat h p n s).stag.slotA = s.stag.slotA :=
  congrArg (·.1) ((incSat_only h p n s).same .slots rfl)
@[simp] theorem incSat_stag_slotB : (incSat h p n s).stag.slotB = s.stag.slotB :=
  congrArg (·.2.1) ((incSat_only h p n s).same .slots rfl)
@[simp] theorem incSat_stag_activation : (incSat h p n s).stag.activation = s.stag.activation :=
  congrArg (·.2.2) ((incSat_only h p n s).same .slots rfl)
@[simp] theorem incSat_stag_imageLen : (incSat h p n s).stag.imageLen = s.stag.imageLen :=
  congrArg (·.1) ((incSat_only h p n s).same .image rfl)
@[simp] theorem incSat_stag_image : (incSat h p n s).stag.image = s.stag.image :=
  congrArg (·.2) ((incSat_only h p n s).same .image rfl)
@[simp] theorem incSat_link : (incSat h p n s).link = s.link := (incSat_only h p n s).same .link rfl
@[simp] theorem incSat_aux : (incSat h p n s).aux = s.aux := (incSat_only h p n s).same .aux rfl
@[simp] theorem incSat_rx : (incSat h p n s).rx = s.rx := (incSat_only h p n s).same .rx rfl
@[simp] theorem incSat_raster : (incSat h p n s).raster = s.raster := (incSat_only h p n s).same .raster rfl
@[simp] theorem incSat_pipe : (incSat h p n s).pipe = s.pipe := (incSat_only h p n s).pipe rfl rfl
@[simp] theorem incSat_out : (incSat h p n s).out = s.out := (incSat_only h p n s).same .out rfl
@[simp] theorem incSat_panel : (incSat h p n s).panel = s.panel := (incSat_only h p n s).same .panel rfl
@[simp] theorem incSat_fstore : (incSat h p n s).fstore = s.fstore := (incSat_only h p n s).same .fstore rfl
@[simp] theorem incSat_dram : (incSat h p n s).dram = s.dram := (incSat_only h p n s).same .dram rfl
@[simp] theorem incSat_sram : (incSat h p n s).sram = s.sram := (incSat_only h p n s).sram rfl rfl
@[simp] theorem incSat_resil : (incSat h p n s).resil = s.resil := (incSat_only h p n s).same .resil rfl
@[simp] theorem incSat_power : (incSat h p n s).power = s.power := (incSat_only h p n s).same .power rfl
@[simp] theorem incSat_pins : (incSat h p n s).pins = s.pins := (incSat_only h p n s).same .pins rfl
@[simp] theorem incSat_free : (incSat h p n s).free = s.free := (incSat_only h p n s).same .free rfl
@[simp] theorem incSat_pending : (incSat h p n s).pending = s.pending := (incSat_only h p n s).same .pending rfl
end

section
variable {h : Nat} {p : Nat} {i : Nat} {n : Nat} {s : State}
@[simp] theorem incSatAt_now : (incSatAt h p i n s).now = s.now := (incSatAt_only h p i n s).same .now rfl
@[simp] theorem incSatAt_epoch : (incSatAt h p i n s).epoch = s.epoch := (incSatAt_only h p i n s).same .epoch rfl
@[simp] theorem incSatAt_dict_cfg : (incSatAt h p i n s).dict.cfg = s.dict.cfg :=
  (incSatAt_only h p i n s).same .config rfl
@[simp] theorem incSatAt_dict_held : (incSatAt h p i n s).dict.held = s.dict.held :=
  congrArg (·.1) ((incSatAt_only h p i n s).same .shadow rfl)
@[simp] theorem incSatAt_dict_items : (incSatAt h p i n s).dict.items = s.dict.items :=
  congrArg (·.2.1) ((incSatAt_only h p i n s).same .shadow rfl)
@[simp] theorem incSatAt_dict_patch : (incSatAt h p i n s).dict.patch = s.dict.patch :=
  congrArg (·.2.2.1) ((incSatAt_only h p i n s).same .shadow rfl)
@[simp] theorem incSatAt_dict_commits : (incSatAt h p i n s).dict.commits = s.dict.commits :=
  congrArg (·.2.2.2) ((incSatAt_only h p i n s).same .shadow rfl)
@[simp] theorem incSatAt_dict_limited : (incSatAt h p i n s).dict.limited = s.dict.limited :=
  congrArg (·.1) ((incSatAt_only h p i n s).same .events rfl)
@[simp] theorem incSatAt_dict_lastEvent : (incSatAt h p i n s).dict.lastEvent = s.dict.lastEvent :=
  congrArg (·.2.1) ((incSatAt_only h p i n s).same .events rfl)
@[simp] theorem incSatAt_dict_ordinal : (incSatAt h p i n s).dict.ordinal = s.dict.ordinal :=
  congrArg (·.2.2) ((incSatAt_only h p i n s).same .events rfl)
@[simp] theorem incSatAt_dict_ce : (incSatAt h p i n s).dict.ce = s.dict.ce :=
  congrArg (·.1) ((incSatAt_only h p i n s).same .counts rfl)
@[simp] theorem incSatAt_dict_ue : (incSatAt h p i n s).dict.ue = s.dict.ue :=
  congrArg (·.2) ((incSatAt_only h p i n s).same .counts rfl)
@[simp] theorem incSatAt_ctrl_waiting : (incSatAt h p i n s).ctrl.waiting = s.ctrl.waiting :=
  congrArg (·.1) ((incSatAt_only h p i n s).same .requests rfl)
@[simp] theorem incSatAt_ctrl_busy : (incSatAt h p i n s).ctrl.busy = s.ctrl.busy :=
  congrArg (·.2.1) ((incSatAt_only h p i n s).same .requests rfl)
@[simp] theorem incSatAt_ctrl_passed : (incSatAt h p i n s).ctrl.passed = s.ctrl.passed :=
  congrArg (·.2.2) ((incSatAt_only h p i n s).same .requests rfl)
@[simp] theorem incSatAt_ctrl_host : (incSatAt h p i n s).ctrl.host = s.ctrl.host :=
  congrArg (·.1) ((incSatAt_only h p i n s).same .ports rfl)
@[simp] theorem incSatAt_ctrl_field : (incSatAt h p i n s).ctrl.field = s.ctrl.field :=
  congrArg (·.2.1) ((incSatAt_only h p i n s).same .ports rfl)
@[simp] theorem incSatAt_ctrl_sideband : (incSatAt h p i n s).ctrl.sideband = s.ctrl.sideband :=
  congrArg (·.2.2) ((incSatAt_only h p i n s).same .ports rfl)
@[simp] theorem incSatAt_ctrl_can : (incSatAt h p i n s).ctrl.can = s.ctrl.can :=
  (incSatAt_only h p i n s).same .can rfl
@[simp] theorem incSatAt_pstore_mem : (incSatAt h p i n s).pstore.mem = s.pstore.mem :=
  (incSatAt_only h p i n s).same .store rfl
@[simp] theorem incSatAt_pstore_queue : (incSatAt h p i n s).pstore.queue = s.pstore.queue :=
  congrArg (·.1) ((incSatAt_only h p i n s).same .storeQueue rfl)
@[simp] theorem incSatAt_pstore_current : (incSatAt h p i n s).pstore.current = s.pstore.current :=
  congrArg (·.2.1) ((incSatAt_only h p i n s).same .storeQueue rfl)
@[simp] theorem incSatAt_pstore_mirror : (incSatAt h p i n s).pstore.mirror = s.pstore.mirror :=
  congrArg (·.2.2.1) ((incSatAt_only h p i n s).same .storeQueue rfl)
@[simp] theorem incSatAt_pstore_gathered : (incSatAt h p i n s).pstore.gathered = s.pstore.gathered :=
  congrArg (·.2.2.2.1) ((incSatAt_only h p i n s).same .storeQueue rfl)
@[simp] theorem incSatAt_pstore_queued : (incSatAt h p i n s).pstore.queued = s.pstore.queued :=
  congrArg (·.2.2.2.2.1) ((incSatAt_only h p i n s).same .storeQueue rfl)
@[simp] theorem incSatAt_pstore_gatherAt : (incSatAt h p i n s).pstore.gatherAt = s.pstore.gatherAt :=
  congrArg (·.2.2.2.2.2.1) ((incSatAt_only h p i n s).same .storeQueue rfl)
@[simp] theorem incSatAt_pstore_notLogged : (incSatAt h p i n s).pstore.notLogged = s.pstore.notLogged :=
  congrArg (·.2.2.2.2.2.2.1) ((incSatAt_only h p i n s).same .storeQueue rfl)
@[simp] theorem incSatAt_pstore_nextSeq : (incSatAt h p i n s).pstore.nextSeq = s.pstore.nextSeq :=
  congrArg (·.2.2.2.2.2.2.2.1) ((incSatAt_only h p i n s).same .storeQueue rfl)
@[simp] theorem incSatAt_pstore_programmed : (incSatAt h p i n s).pstore.programmed = s.pstore.programmed :=
  congrArg (·.2.2.2.2.2.2.2.2) ((incSatAt_only h p i n s).same .storeQueue rfl)
@[simp] theorem incSatAt_pstore_tally : (incSatAt h p i n s).pstore.tally = s.pstore.tally :=
  congrArg (·.1) ((incSatAt_only h p i n s).same .tallies rfl)
@[simp] theorem incSatAt_pstore_holder : (incSatAt h p i n s).pstore.holder = s.pstore.holder :=
  congrArg (·.2.1) ((incSatAt_only h p i n s).same .tallies rfl)
@[simp] theorem incSatAt_pstore_tallyFull : (incSatAt h p i n s).pstore.tallyFull = s.pstore.tallyFull :=
  congrArg (·.2.2) ((incSatAt_only h p i n s).same .tallies rfl)
@[simp] theorem incSatAt_pstore_warned : (incSatAt h p i n s).pstore.warned = s.pstore.warned :=
  congrArg (·.1) ((incSatAt_only h p i n s).same .storeState rfl)
@[simp] theorem incSatAt_pstore_storeTag : (incSatAt h p i n s).pstore.storeTag = s.pstore.storeTag :=
  congrArg (·.2.1) ((incSatAt_only h p i n s).same .storeState rfl)
@[simp] theorem incSatAt_pstore_storeSlotB : (incSatAt h p i n s).pstore.storeSlotB = s.pstore.storeSlotB :=
  congrArg (·.2.2.1) ((incSatAt_only h p i n s).same .storeState rfl)
@[simp] theorem incSatAt_pstore_storeLen : (incSatAt h p i n s).pstore.storeLen = s.pstore.storeLen :=
  congrArg (·.2.2.2.1) ((incSatAt_only h p i n s).same .storeState rfl)
@[simp] theorem incSatAt_pstore_blaze : (incSatAt h p i n s).pstore.blaze = s.pstore.blaze :=
  congrArg (·.2.2.2.2.1) ((incSatAt_only h p i n s).same .storeState rfl)
@[simp] theorem incSatAt_pstore_reinstated : (incSatAt h p i n s).pstore.reinstated = s.pstore.reinstated :=
  congrArg (·.2.2.2.2.2.1) ((incSatAt_only h p i n s).same .storeState rfl)
@[simp] theorem incSatAt_pstore_repairs : (incSatAt h p i n s).pstore.repairs = s.pstore.repairs :=
  congrArg (·.2.2.2.2.2.2.1) ((incSatAt_only h p i n s).same .storeState rfl)
@[simp] theorem incSatAt_pstore_identityOk : (incSatAt h p i n s).pstore.identityOk = s.pstore.identityOk :=
  congrArg (·.2.2.2.2.2.2.2.1) ((incSatAt_only h p i n s).same .storeState rfl)
@[simp] theorem incSatAt_pstore_blazeFull : (incSatAt h p i n s).pstore.blazeFull = s.pstore.blazeFull :=
  congrArg (·.2.2.2.2.2.2.2.2.1) ((incSatAt_only h p i n s).same .storeState rfl)
@[simp] theorem incSatAt_pstore_wearRaised : (incSatAt h p i n s).pstore.wearRaised = s.pstore.wearRaised :=
  congrArg (·.2.2.2.2.2.2.2.2.2.1) ((incSatAt_only h p i n s).same .storeState rfl)
@[simp] theorem incSatAt_pstore_limited : (incSatAt h p i n s).pstore.limited = s.pstore.limited :=
  congrArg (·.2.2.2.2.2.2.2.2.2.2.1) ((incSatAt_only h p i n s).same .storeState rfl)
@[simp] theorem incSatAt_pstore_read : (incSatAt h p i n s).pstore.read = s.pstore.read :=
  congrArg (·.2.2.2.2.2.2.2.2.2.2.2) ((incSatAt_only h p i n s).same .storeState rfl)
@[simp] theorem incSatAt_sec : (incSatAt h p i n s).sec = s.sec := (incSatAt_only h p i n s).sec rfl rfl
@[simp] theorem incSatAt_stag_events : (incSatAt h p i n s).stag.events = s.stag.events :=
  congrArg (·.1) ((incSatAt_only h p i n s).same .heldEvents rfl)
@[simp] theorem incSatAt_stag_overflow : (incSatAt h p i n s).stag.overflow = s.stag.overflow :=
  congrArg (·.2) ((incSatAt_only h p i n s).same .heldEvents rfl)
@[simp] theorem incSatAt_stag_restarting : (incSatAt h p i n s).stag.restarting = s.stag.restarting :=
  congrArg (·.1) ((incSatAt_only h p i n s).same .stag rfl)
@[simp] theorem incSatAt_stag_restarts : (incSatAt h p i n s).stag.restarts = s.stag.restarts :=
  congrArg (·.2.1) ((incSatAt_only h p i n s).same .stag rfl)
@[simp] theorem incSatAt_stag_running : (incSatAt h p i n s).stag.running = s.stag.running :=
  congrArg (·.2.2.1) ((incSatAt_only h p i n s).same .stag rfl)
@[simp] theorem incSatAt_stag_recovery : (incSatAt h p i n s).stag.recovery = s.stag.recovery :=
  congrArg (·.2.2.2.1) ((incSatAt_only h p i n s).same .stag rfl)
@[simp] theorem incSatAt_stag_slot : (incSatAt h p i n s).stag.slot = s.stag.slot :=
  congrArg (·.2.2.2.2.1) ((incSatAt_only h p i n s).same .stag rfl)
@[simp] theorem incSatAt_stag_trial : (incSatAt h p i n s).stag.trial = s.stag.trial :=
  congrArg (·.2.2.2.2.2.1) ((incSatAt_only h p i n s).same .stag rfl)
@[simp] theorem incSatAt_stag_trialSince : (incSatAt h p i n s).stag.trialSince = s.stag.trialSince :=
  congrArg (·.2.2.2.2.2.2) ((incSatAt_only h p i n s).same .stag rfl)
@[simp] theorem incSatAt_stag_opBase : (incSatAt h p i n s).stag.opBase = s.stag.opBase :=
  congrArg (·.1) ((incSatAt_only h p i n s).same .clocks rfl)
@[simp] theorem incSatAt_stag_opAt : (incSatAt h p i n s).stag.opAt = s.stag.opAt :=
  congrArg (·.2.1) ((incSatAt_only h p i n s).same .clocks rfl)
@[simp] theorem incSatAt_stag_opRuns : (incSatAt h p i n s).stag.opRuns = s.stag.opRuns :=
  congrArg (·.2.2.1) ((incSatAt_only h p i n s).same .clocks rfl)
@[simp] theorem incSatAt_stag_caughtUp : (incSatAt h p i n s).stag.caughtUp = s.stag.caughtUp :=
  congrArg (·.2.2.2.1) ((incSatAt_only h p i n s).same .clocks rfl)
@[simp] theorem incSatAt_stag_utcBase : (incSatAt h p i n s).stag.utcBase = s.stag.utcBase :=
  congrArg (·.2.2.2.2.1) ((incSatAt_only h p i n s).same .clocks rfl)
@[simp] theorem incSatAt_stag_utcAt : (incSatAt h p i n s).stag.utcAt = s.stag.utcAt :=
  congrArg (·.2.2.2.2.2.1) ((incSatAt_only h p i n s).same .clocks rfl)
@[simp] theorem incSatAt_stag_utcValid : (incSatAt h p i n s).stag.utcValid = s.stag.utcValid :=
  congrArg (·.2.2.2.2.2.2) ((incSatAt_only h p i n s).same .clocks rfl)
@[simp] theorem incSatAt_stag_therm : (incSatAt h p i n s).stag.therm = s.stag.therm :=
  congrArg (·.1) ((incSatAt_only h p i n s).same .sensors rfl)
@[simp] theorem incSatAt_stag_vmon : (incSatAt h p i n s).stag.vmon = s.stag.vmon :=
  congrArg (·.2.1) ((incSatAt_only h p i n s).same .sensors rfl)
@[simp] theorem incSatAt_stag_ntc : (incSatAt h p i n s).stag.ntc = s.stag.ntc :=
  congrArg (·.2.2) ((incSatAt_only h p i n s).same .sensors rfl)
@[simp] theorem incSatAt_stag_slotA : (incSatAt h p i n s).stag.slotA = s.stag.slotA :=
  congrArg (·.1) ((incSatAt_only h p i n s).same .slots rfl)
@[simp] theorem incSatAt_stag_slotB : (incSatAt h p i n s).stag.slotB = s.stag.slotB :=
  congrArg (·.2.1) ((incSatAt_only h p i n s).same .slots rfl)
@[simp] theorem incSatAt_stag_activation : (incSatAt h p i n s).stag.activation = s.stag.activation :=
  congrArg (·.2.2) ((incSatAt_only h p i n s).same .slots rfl)
@[simp] theorem incSatAt_stag_imageLen : (incSatAt h p i n s).stag.imageLen = s.stag.imageLen :=
  congrArg (·.1) ((incSatAt_only h p i n s).same .image rfl)
@[simp] theorem incSatAt_stag_image : (incSatAt h p i n s).stag.image = s.stag.image :=
  congrArg (·.2) ((incSatAt_only h p i n s).same .image rfl)
@[simp] theorem incSatAt_link : (incSatAt h p i n s).link = s.link := (incSatAt_only h p i n s).same .link rfl
@[simp] theorem incSatAt_aux : (incSatAt h p i n s).aux = s.aux := (incSatAt_only h p i n s).same .aux rfl
@[simp] theorem incSatAt_rx : (incSatAt h p i n s).rx = s.rx := (incSatAt_only h p i n s).same .rx rfl
@[simp] theorem incSatAt_raster : (incSatAt h p i n s).raster = s.raster := (incSatAt_only h p i n s).same .raster rfl
@[simp] theorem incSatAt_pipe : (incSatAt h p i n s).pipe = s.pipe := (incSatAt_only h p i n s).pipe rfl rfl
@[simp] theorem incSatAt_out : (incSatAt h p i n s).out = s.out := (incSatAt_only h p i n s).same .out rfl
@[simp] theorem incSatAt_panel : (incSatAt h p i n s).panel = s.panel := (incSatAt_only h p i n s).same .panel rfl
@[simp] theorem incSatAt_fstore : (incSatAt h p i n s).fstore = s.fstore := (incSatAt_only h p i n s).same .fstore rfl
@[simp] theorem incSatAt_dram : (incSatAt h p i n s).dram = s.dram := (incSatAt_only h p i n s).same .dram rfl
@[simp] theorem incSatAt_sram : (incSatAt h p i n s).sram = s.sram := (incSatAt_only h p i n s).sram rfl rfl
@[simp] theorem incSatAt_resil : (incSatAt h p i n s).resil = s.resil := (incSatAt_only h p i n s).same .resil rfl
@[simp] theorem incSatAt_power : (incSatAt h p i n s).power = s.power := (incSatAt_only h p i n s).same .power rfl
@[simp] theorem incSatAt_pins : (incSatAt h p i n s).pins = s.pins := (incSatAt_only h p i n s).same .pins rfl
@[simp] theorem incSatAt_free : (incSatAt h p i n s).free = s.free := (incSatAt_only h p i n s).same .free rfl
@[simp] theorem incSatAt_pending : (incSatAt h p i n s).pending = s.pending := (incSatAt_only h p i n s).same .pending rfl
end

section
variable {h : Nat} {p : Nat} {n : Nat} {s : State}
@[simp] theorem incWrap_now : (incWrap h p n s).now = s.now := (incWrap_only h p n s).same .now rfl
@[simp] theorem incWrap_epoch : (incWrap h p n s).epoch = s.epoch := (incWrap_only h p n s).same .epoch rfl
@[simp] theorem incWrap_dict_cfg : (incWrap h p n s).dict.cfg = s.dict.cfg :=
  (incWrap_only h p n s).same .config rfl
@[simp] theorem incWrap_dict_held : (incWrap h p n s).dict.held = s.dict.held :=
  congrArg (·.1) ((incWrap_only h p n s).same .shadow rfl)
@[simp] theorem incWrap_dict_items : (incWrap h p n s).dict.items = s.dict.items :=
  congrArg (·.2.1) ((incWrap_only h p n s).same .shadow rfl)
@[simp] theorem incWrap_dict_patch : (incWrap h p n s).dict.patch = s.dict.patch :=
  congrArg (·.2.2.1) ((incWrap_only h p n s).same .shadow rfl)
@[simp] theorem incWrap_dict_commits : (incWrap h p n s).dict.commits = s.dict.commits :=
  congrArg (·.2.2.2) ((incWrap_only h p n s).same .shadow rfl)
@[simp] theorem incWrap_dict_limited : (incWrap h p n s).dict.limited = s.dict.limited :=
  congrArg (·.1) ((incWrap_only h p n s).same .events rfl)
@[simp] theorem incWrap_dict_lastEvent : (incWrap h p n s).dict.lastEvent = s.dict.lastEvent :=
  congrArg (·.2.1) ((incWrap_only h p n s).same .events rfl)
@[simp] theorem incWrap_dict_ordinal : (incWrap h p n s).dict.ordinal = s.dict.ordinal :=
  congrArg (·.2.2) ((incWrap_only h p n s).same .events rfl)
@[simp] theorem incWrap_dict_ce : (incWrap h p n s).dict.ce = s.dict.ce :=
  congrArg (·.1) ((incWrap_only h p n s).same .counts rfl)
@[simp] theorem incWrap_dict_ue : (incWrap h p n s).dict.ue = s.dict.ue :=
  congrArg (·.2) ((incWrap_only h p n s).same .counts rfl)
@[simp] theorem incWrap_ctrl_waiting : (incWrap h p n s).ctrl.waiting = s.ctrl.waiting :=
  congrArg (·.1) ((incWrap_only h p n s).same .requests rfl)
@[simp] theorem incWrap_ctrl_busy : (incWrap h p n s).ctrl.busy = s.ctrl.busy :=
  congrArg (·.2.1) ((incWrap_only h p n s).same .requests rfl)
@[simp] theorem incWrap_ctrl_passed : (incWrap h p n s).ctrl.passed = s.ctrl.passed :=
  congrArg (·.2.2) ((incWrap_only h p n s).same .requests rfl)
@[simp] theorem incWrap_ctrl_host : (incWrap h p n s).ctrl.host = s.ctrl.host :=
  congrArg (·.1) ((incWrap_only h p n s).same .ports rfl)
@[simp] theorem incWrap_ctrl_field : (incWrap h p n s).ctrl.field = s.ctrl.field :=
  congrArg (·.2.1) ((incWrap_only h p n s).same .ports rfl)
@[simp] theorem incWrap_ctrl_sideband : (incWrap h p n s).ctrl.sideband = s.ctrl.sideband :=
  congrArg (·.2.2) ((incWrap_only h p n s).same .ports rfl)
@[simp] theorem incWrap_ctrl_can : (incWrap h p n s).ctrl.can = s.ctrl.can :=
  (incWrap_only h p n s).same .can rfl
@[simp] theorem incWrap_pstore_mem : (incWrap h p n s).pstore.mem = s.pstore.mem :=
  (incWrap_only h p n s).same .store rfl
@[simp] theorem incWrap_pstore_queue : (incWrap h p n s).pstore.queue = s.pstore.queue :=
  congrArg (·.1) ((incWrap_only h p n s).same .storeQueue rfl)
@[simp] theorem incWrap_pstore_current : (incWrap h p n s).pstore.current = s.pstore.current :=
  congrArg (·.2.1) ((incWrap_only h p n s).same .storeQueue rfl)
@[simp] theorem incWrap_pstore_mirror : (incWrap h p n s).pstore.mirror = s.pstore.mirror :=
  congrArg (·.2.2.1) ((incWrap_only h p n s).same .storeQueue rfl)
@[simp] theorem incWrap_pstore_gathered : (incWrap h p n s).pstore.gathered = s.pstore.gathered :=
  congrArg (·.2.2.2.1) ((incWrap_only h p n s).same .storeQueue rfl)
@[simp] theorem incWrap_pstore_queued : (incWrap h p n s).pstore.queued = s.pstore.queued :=
  congrArg (·.2.2.2.2.1) ((incWrap_only h p n s).same .storeQueue rfl)
@[simp] theorem incWrap_pstore_gatherAt : (incWrap h p n s).pstore.gatherAt = s.pstore.gatherAt :=
  congrArg (·.2.2.2.2.2.1) ((incWrap_only h p n s).same .storeQueue rfl)
@[simp] theorem incWrap_pstore_notLogged : (incWrap h p n s).pstore.notLogged = s.pstore.notLogged :=
  congrArg (·.2.2.2.2.2.2.1) ((incWrap_only h p n s).same .storeQueue rfl)
@[simp] theorem incWrap_pstore_nextSeq : (incWrap h p n s).pstore.nextSeq = s.pstore.nextSeq :=
  congrArg (·.2.2.2.2.2.2.2.1) ((incWrap_only h p n s).same .storeQueue rfl)
@[simp] theorem incWrap_pstore_programmed : (incWrap h p n s).pstore.programmed = s.pstore.programmed :=
  congrArg (·.2.2.2.2.2.2.2.2) ((incWrap_only h p n s).same .storeQueue rfl)
@[simp] theorem incWrap_pstore_tally : (incWrap h p n s).pstore.tally = s.pstore.tally :=
  congrArg (·.1) ((incWrap_only h p n s).same .tallies rfl)
@[simp] theorem incWrap_pstore_holder : (incWrap h p n s).pstore.holder = s.pstore.holder :=
  congrArg (·.2.1) ((incWrap_only h p n s).same .tallies rfl)
@[simp] theorem incWrap_pstore_tallyFull : (incWrap h p n s).pstore.tallyFull = s.pstore.tallyFull :=
  congrArg (·.2.2) ((incWrap_only h p n s).same .tallies rfl)
@[simp] theorem incWrap_pstore_warned : (incWrap h p n s).pstore.warned = s.pstore.warned :=
  congrArg (·.1) ((incWrap_only h p n s).same .storeState rfl)
@[simp] theorem incWrap_pstore_storeTag : (incWrap h p n s).pstore.storeTag = s.pstore.storeTag :=
  congrArg (·.2.1) ((incWrap_only h p n s).same .storeState rfl)
@[simp] theorem incWrap_pstore_storeSlotB : (incWrap h p n s).pstore.storeSlotB = s.pstore.storeSlotB :=
  congrArg (·.2.2.1) ((incWrap_only h p n s).same .storeState rfl)
@[simp] theorem incWrap_pstore_storeLen : (incWrap h p n s).pstore.storeLen = s.pstore.storeLen :=
  congrArg (·.2.2.2.1) ((incWrap_only h p n s).same .storeState rfl)
@[simp] theorem incWrap_pstore_blaze : (incWrap h p n s).pstore.blaze = s.pstore.blaze :=
  congrArg (·.2.2.2.2.1) ((incWrap_only h p n s).same .storeState rfl)
@[simp] theorem incWrap_pstore_reinstated : (incWrap h p n s).pstore.reinstated = s.pstore.reinstated :=
  congrArg (·.2.2.2.2.2.1) ((incWrap_only h p n s).same .storeState rfl)
@[simp] theorem incWrap_pstore_repairs : (incWrap h p n s).pstore.repairs = s.pstore.repairs :=
  congrArg (·.2.2.2.2.2.2.1) ((incWrap_only h p n s).same .storeState rfl)
@[simp] theorem incWrap_pstore_identityOk : (incWrap h p n s).pstore.identityOk = s.pstore.identityOk :=
  congrArg (·.2.2.2.2.2.2.2.1) ((incWrap_only h p n s).same .storeState rfl)
@[simp] theorem incWrap_pstore_blazeFull : (incWrap h p n s).pstore.blazeFull = s.pstore.blazeFull :=
  congrArg (·.2.2.2.2.2.2.2.2.1) ((incWrap_only h p n s).same .storeState rfl)
@[simp] theorem incWrap_pstore_wearRaised : (incWrap h p n s).pstore.wearRaised = s.pstore.wearRaised :=
  congrArg (·.2.2.2.2.2.2.2.2.2.1) ((incWrap_only h p n s).same .storeState rfl)
@[simp] theorem incWrap_pstore_limited : (incWrap h p n s).pstore.limited = s.pstore.limited :=
  congrArg (·.2.2.2.2.2.2.2.2.2.2.1) ((incWrap_only h p n s).same .storeState rfl)
@[simp] theorem incWrap_pstore_read : (incWrap h p n s).pstore.read = s.pstore.read :=
  congrArg (·.2.2.2.2.2.2.2.2.2.2.2) ((incWrap_only h p n s).same .storeState rfl)
@[simp] theorem incWrap_sec : (incWrap h p n s).sec = s.sec := (incWrap_only h p n s).sec rfl rfl
@[simp] theorem incWrap_stag_events : (incWrap h p n s).stag.events = s.stag.events :=
  congrArg (·.1) ((incWrap_only h p n s).same .heldEvents rfl)
@[simp] theorem incWrap_stag_overflow : (incWrap h p n s).stag.overflow = s.stag.overflow :=
  congrArg (·.2) ((incWrap_only h p n s).same .heldEvents rfl)
@[simp] theorem incWrap_stag_restarting : (incWrap h p n s).stag.restarting = s.stag.restarting :=
  congrArg (·.1) ((incWrap_only h p n s).same .stag rfl)
@[simp] theorem incWrap_stag_restarts : (incWrap h p n s).stag.restarts = s.stag.restarts :=
  congrArg (·.2.1) ((incWrap_only h p n s).same .stag rfl)
@[simp] theorem incWrap_stag_running : (incWrap h p n s).stag.running = s.stag.running :=
  congrArg (·.2.2.1) ((incWrap_only h p n s).same .stag rfl)
@[simp] theorem incWrap_stag_recovery : (incWrap h p n s).stag.recovery = s.stag.recovery :=
  congrArg (·.2.2.2.1) ((incWrap_only h p n s).same .stag rfl)
@[simp] theorem incWrap_stag_slot : (incWrap h p n s).stag.slot = s.stag.slot :=
  congrArg (·.2.2.2.2.1) ((incWrap_only h p n s).same .stag rfl)
@[simp] theorem incWrap_stag_trial : (incWrap h p n s).stag.trial = s.stag.trial :=
  congrArg (·.2.2.2.2.2.1) ((incWrap_only h p n s).same .stag rfl)
@[simp] theorem incWrap_stag_trialSince : (incWrap h p n s).stag.trialSince = s.stag.trialSince :=
  congrArg (·.2.2.2.2.2.2) ((incWrap_only h p n s).same .stag rfl)
@[simp] theorem incWrap_stag_opBase : (incWrap h p n s).stag.opBase = s.stag.opBase :=
  congrArg (·.1) ((incWrap_only h p n s).same .clocks rfl)
@[simp] theorem incWrap_stag_opAt : (incWrap h p n s).stag.opAt = s.stag.opAt :=
  congrArg (·.2.1) ((incWrap_only h p n s).same .clocks rfl)
@[simp] theorem incWrap_stag_opRuns : (incWrap h p n s).stag.opRuns = s.stag.opRuns :=
  congrArg (·.2.2.1) ((incWrap_only h p n s).same .clocks rfl)
@[simp] theorem incWrap_stag_caughtUp : (incWrap h p n s).stag.caughtUp = s.stag.caughtUp :=
  congrArg (·.2.2.2.1) ((incWrap_only h p n s).same .clocks rfl)
@[simp] theorem incWrap_stag_utcBase : (incWrap h p n s).stag.utcBase = s.stag.utcBase :=
  congrArg (·.2.2.2.2.1) ((incWrap_only h p n s).same .clocks rfl)
@[simp] theorem incWrap_stag_utcAt : (incWrap h p n s).stag.utcAt = s.stag.utcAt :=
  congrArg (·.2.2.2.2.2.1) ((incWrap_only h p n s).same .clocks rfl)
@[simp] theorem incWrap_stag_utcValid : (incWrap h p n s).stag.utcValid = s.stag.utcValid :=
  congrArg (·.2.2.2.2.2.2) ((incWrap_only h p n s).same .clocks rfl)
@[simp] theorem incWrap_stag_therm : (incWrap h p n s).stag.therm = s.stag.therm :=
  congrArg (·.1) ((incWrap_only h p n s).same .sensors rfl)
@[simp] theorem incWrap_stag_vmon : (incWrap h p n s).stag.vmon = s.stag.vmon :=
  congrArg (·.2.1) ((incWrap_only h p n s).same .sensors rfl)
@[simp] theorem incWrap_stag_ntc : (incWrap h p n s).stag.ntc = s.stag.ntc :=
  congrArg (·.2.2) ((incWrap_only h p n s).same .sensors rfl)
@[simp] theorem incWrap_stag_slotA : (incWrap h p n s).stag.slotA = s.stag.slotA :=
  congrArg (·.1) ((incWrap_only h p n s).same .slots rfl)
@[simp] theorem incWrap_stag_slotB : (incWrap h p n s).stag.slotB = s.stag.slotB :=
  congrArg (·.2.1) ((incWrap_only h p n s).same .slots rfl)
@[simp] theorem incWrap_stag_activation : (incWrap h p n s).stag.activation = s.stag.activation :=
  congrArg (·.2.2) ((incWrap_only h p n s).same .slots rfl)
@[simp] theorem incWrap_stag_imageLen : (incWrap h p n s).stag.imageLen = s.stag.imageLen :=
  congrArg (·.1) ((incWrap_only h p n s).same .image rfl)
@[simp] theorem incWrap_stag_image : (incWrap h p n s).stag.image = s.stag.image :=
  congrArg (·.2) ((incWrap_only h p n s).same .image rfl)
@[simp] theorem incWrap_link : (incWrap h p n s).link = s.link := (incWrap_only h p n s).same .link rfl
@[simp] theorem incWrap_aux : (incWrap h p n s).aux = s.aux := (incWrap_only h p n s).same .aux rfl
@[simp] theorem incWrap_rx : (incWrap h p n s).rx = s.rx := (incWrap_only h p n s).same .rx rfl
@[simp] theorem incWrap_raster : (incWrap h p n s).raster = s.raster := (incWrap_only h p n s).same .raster rfl
@[simp] theorem incWrap_pipe : (incWrap h p n s).pipe = s.pipe := (incWrap_only h p n s).pipe rfl rfl
@[simp] theorem incWrap_out : (incWrap h p n s).out = s.out := (incWrap_only h p n s).same .out rfl
@[simp] theorem incWrap_panel : (incWrap h p n s).panel = s.panel := (incWrap_only h p n s).same .panel rfl
@[simp] theorem incWrap_fstore : (incWrap h p n s).fstore = s.fstore := (incWrap_only h p n s).same .fstore rfl
@[simp] theorem incWrap_dram : (incWrap h p n s).dram = s.dram := (incWrap_only h p n s).same .dram rfl
@[simp] theorem incWrap_sram : (incWrap h p n s).sram = s.sram := (incWrap_only h p n s).sram rfl rfl
@[simp] theorem incWrap_resil : (incWrap h p n s).resil = s.resil := (incWrap_only h p n s).same .resil rfl
@[simp] theorem incWrap_power : (incWrap h p n s).power = s.power := (incWrap_only h p n s).same .power rfl
@[simp] theorem incWrap_pins : (incWrap h p n s).pins = s.pins := (incWrap_only h p n s).same .pins rfl
@[simp] theorem incWrap_free : (incWrap h p n s).free = s.free := (incWrap_only h p n s).same .free rfl
@[simp] theorem incWrap_pending : (incWrap h p n s).pending = s.pending := (incWrap_only h p n s).same .pending rfl
end

section
variable {i : PortId} {p : PortSt} {s : State}
@[simp] theorem setPort_now : (setPort i p s).now = s.now := (setPort_only i p s).same .now rfl
@[simp] theorem setPort_epoch : (setPort i p s).epoch = s.epoch := (setPort_only i p s).same .epoch rfl
@[simp] theorem setPort_dict_cfg : (setPort i p s).dict.cfg = s.dict.cfg :=
  (setPort_only i p s).same .config rfl
@[simp] theorem setPort_dict_held : (setPort i p s).dict.held = s.dict.held :=
  congrArg (·.1) ((setPort_only i p s).same .shadow rfl)
@[simp] theorem setPort_dict_items : (setPort i p s).dict.items = s.dict.items :=
  congrArg (·.2.1) ((setPort_only i p s).same .shadow rfl)
@[simp] theorem setPort_dict_patch : (setPort i p s).dict.patch = s.dict.patch :=
  congrArg (·.2.2.1) ((setPort_only i p s).same .shadow rfl)
@[simp] theorem setPort_dict_commits : (setPort i p s).dict.commits = s.dict.commits :=
  congrArg (·.2.2.2) ((setPort_only i p s).same .shadow rfl)
@[simp] theorem setPort_dict_res : (setPort i p s).dict.res = s.dict.res :=
  congrArg (·.1) ((setPort_only i p s).same .results rfl)
@[simp] theorem setPort_dict_gens : (setPort i p s).dict.gens = s.dict.gens :=
  congrArg (·.2) ((setPort_only i p s).same .results rfl)
@[simp] theorem setPort_dict_limited : (setPort i p s).dict.limited = s.dict.limited :=
  congrArg (·.1) ((setPort_only i p s).same .events rfl)
@[simp] theorem setPort_dict_lastEvent : (setPort i p s).dict.lastEvent = s.dict.lastEvent :=
  congrArg (·.2.1) ((setPort_only i p s).same .events rfl)
@[simp] theorem setPort_dict_ordinal : (setPort i p s).dict.ordinal = s.dict.ordinal :=
  congrArg (·.2.2) ((setPort_only i p s).same .events rfl)
@[simp] theorem setPort_dict_ce : (setPort i p s).dict.ce = s.dict.ce :=
  congrArg (·.1) ((setPort_only i p s).same .counts rfl)
@[simp] theorem setPort_dict_ue : (setPort i p s).dict.ue = s.dict.ue :=
  congrArg (·.2) ((setPort_only i p s).same .counts rfl)
@[simp] theorem setPort_ctrl_waiting : (setPort i p s).ctrl.waiting = s.ctrl.waiting :=
  congrArg (·.1) ((setPort_only i p s).same .requests rfl)
@[simp] theorem setPort_ctrl_busy : (setPort i p s).ctrl.busy = s.ctrl.busy :=
  congrArg (·.2.1) ((setPort_only i p s).same .requests rfl)
@[simp] theorem setPort_ctrl_passed : (setPort i p s).ctrl.passed = s.ctrl.passed :=
  congrArg (·.2.2) ((setPort_only i p s).same .requests rfl)
@[simp] theorem setPort_ctrl_can : (setPort i p s).ctrl.can = s.ctrl.can :=
  (setPort_only i p s).same .can rfl
@[simp] theorem setPort_pstore_mem : (setPort i p s).pstore.mem = s.pstore.mem :=
  (setPort_only i p s).same .store rfl
@[simp] theorem setPort_pstore_queue : (setPort i p s).pstore.queue = s.pstore.queue :=
  congrArg (·.1) ((setPort_only i p s).same .storeQueue rfl)
@[simp] theorem setPort_pstore_current : (setPort i p s).pstore.current = s.pstore.current :=
  congrArg (·.2.1) ((setPort_only i p s).same .storeQueue rfl)
@[simp] theorem setPort_pstore_mirror : (setPort i p s).pstore.mirror = s.pstore.mirror :=
  congrArg (·.2.2.1) ((setPort_only i p s).same .storeQueue rfl)
@[simp] theorem setPort_pstore_gathered : (setPort i p s).pstore.gathered = s.pstore.gathered :=
  congrArg (·.2.2.2.1) ((setPort_only i p s).same .storeQueue rfl)
@[simp] theorem setPort_pstore_queued : (setPort i p s).pstore.queued = s.pstore.queued :=
  congrArg (·.2.2.2.2.1) ((setPort_only i p s).same .storeQueue rfl)
@[simp] theorem setPort_pstore_gatherAt : (setPort i p s).pstore.gatherAt = s.pstore.gatherAt :=
  congrArg (·.2.2.2.2.2.1) ((setPort_only i p s).same .storeQueue rfl)
@[simp] theorem setPort_pstore_notLogged : (setPort i p s).pstore.notLogged = s.pstore.notLogged :=
  congrArg (·.2.2.2.2.2.2.1) ((setPort_only i p s).same .storeQueue rfl)
@[simp] theorem setPort_pstore_nextSeq : (setPort i p s).pstore.nextSeq = s.pstore.nextSeq :=
  congrArg (·.2.2.2.2.2.2.2.1) ((setPort_only i p s).same .storeQueue rfl)
@[simp] theorem setPort_pstore_programmed : (setPort i p s).pstore.programmed = s.pstore.programmed :=
  congrArg (·.2.2.2.2.2.2.2.2) ((setPort_only i p s).same .storeQueue rfl)
@[simp] theorem setPort_pstore_tally : (setPort i p s).pstore.tally = s.pstore.tally :=
  congrArg (·.1) ((setPort_only i p s).same .tallies rfl)
@[simp] theorem setPort_pstore_holder : (setPort i p s).pstore.holder = s.pstore.holder :=
  congrArg (·.2.1) ((setPort_only i p s).same .tallies rfl)
@[simp] theorem setPort_pstore_tallyFull : (setPort i p s).pstore.tallyFull = s.pstore.tallyFull :=
  congrArg (·.2.2) ((setPort_only i p s).same .tallies rfl)
@[simp] theorem setPort_pstore_warned : (setPort i p s).pstore.warned = s.pstore.warned :=
  congrArg (·.1) ((setPort_only i p s).same .storeState rfl)
@[simp] theorem setPort_pstore_storeTag : (setPort i p s).pstore.storeTag = s.pstore.storeTag :=
  congrArg (·.2.1) ((setPort_only i p s).same .storeState rfl)
@[simp] theorem setPort_pstore_storeSlotB : (setPort i p s).pstore.storeSlotB = s.pstore.storeSlotB :=
  congrArg (·.2.2.1) ((setPort_only i p s).same .storeState rfl)
@[simp] theorem setPort_pstore_storeLen : (setPort i p s).pstore.storeLen = s.pstore.storeLen :=
  congrArg (·.2.2.2.1) ((setPort_only i p s).same .storeState rfl)
@[simp] theorem setPort_pstore_blaze : (setPort i p s).pstore.blaze = s.pstore.blaze :=
  congrArg (·.2.2.2.2.1) ((setPort_only i p s).same .storeState rfl)
@[simp] theorem setPort_pstore_reinstated : (setPort i p s).pstore.reinstated = s.pstore.reinstated :=
  congrArg (·.2.2.2.2.2.1) ((setPort_only i p s).same .storeState rfl)
@[simp] theorem setPort_pstore_repairs : (setPort i p s).pstore.repairs = s.pstore.repairs :=
  congrArg (·.2.2.2.2.2.2.1) ((setPort_only i p s).same .storeState rfl)
@[simp] theorem setPort_pstore_identityOk : (setPort i p s).pstore.identityOk = s.pstore.identityOk :=
  congrArg (·.2.2.2.2.2.2.2.1) ((setPort_only i p s).same .storeState rfl)
@[simp] theorem setPort_pstore_blazeFull : (setPort i p s).pstore.blazeFull = s.pstore.blazeFull :=
  congrArg (·.2.2.2.2.2.2.2.2.1) ((setPort_only i p s).same .storeState rfl)
@[simp] theorem setPort_pstore_wearRaised : (setPort i p s).pstore.wearRaised = s.pstore.wearRaised :=
  congrArg (·.2.2.2.2.2.2.2.2.2.1) ((setPort_only i p s).same .storeState rfl)
@[simp] theorem setPort_pstore_limited : (setPort i p s).pstore.limited = s.pstore.limited :=
  congrArg (·.2.2.2.2.2.2.2.2.2.2.1) ((setPort_only i p s).same .storeState rfl)
@[simp] theorem setPort_pstore_read : (setPort i p s).pstore.read = s.pstore.read :=
  congrArg (·.2.2.2.2.2.2.2.2.2.2.2) ((setPort_only i p s).same .storeState rfl)
@[simp] theorem setPort_sec : (setPort i p s).sec = s.sec := (setPort_only i p s).sec rfl rfl
@[simp] theorem setPort_stag_events : (setPort i p s).stag.events = s.stag.events :=
  congrArg (·.1) ((setPort_only i p s).same .heldEvents rfl)
@[simp] theorem setPort_stag_overflow : (setPort i p s).stag.overflow = s.stag.overflow :=
  congrArg (·.2) ((setPort_only i p s).same .heldEvents rfl)
@[simp] theorem setPort_stag_restarting : (setPort i p s).stag.restarting = s.stag.restarting :=
  congrArg (·.1) ((setPort_only i p s).same .stag rfl)
@[simp] theorem setPort_stag_restarts : (setPort i p s).stag.restarts = s.stag.restarts :=
  congrArg (·.2.1) ((setPort_only i p s).same .stag rfl)
@[simp] theorem setPort_stag_running : (setPort i p s).stag.running = s.stag.running :=
  congrArg (·.2.2.1) ((setPort_only i p s).same .stag rfl)
@[simp] theorem setPort_stag_recovery : (setPort i p s).stag.recovery = s.stag.recovery :=
  congrArg (·.2.2.2.1) ((setPort_only i p s).same .stag rfl)
@[simp] theorem setPort_stag_slot : (setPort i p s).stag.slot = s.stag.slot :=
  congrArg (·.2.2.2.2.1) ((setPort_only i p s).same .stag rfl)
@[simp] theorem setPort_stag_trial : (setPort i p s).stag.trial = s.stag.trial :=
  congrArg (·.2.2.2.2.2.1) ((setPort_only i p s).same .stag rfl)
@[simp] theorem setPort_stag_trialSince : (setPort i p s).stag.trialSince = s.stag.trialSince :=
  congrArg (·.2.2.2.2.2.2) ((setPort_only i p s).same .stag rfl)
@[simp] theorem setPort_stag_opBase : (setPort i p s).stag.opBase = s.stag.opBase :=
  congrArg (·.1) ((setPort_only i p s).same .clocks rfl)
@[simp] theorem setPort_stag_opAt : (setPort i p s).stag.opAt = s.stag.opAt :=
  congrArg (·.2.1) ((setPort_only i p s).same .clocks rfl)
@[simp] theorem setPort_stag_opRuns : (setPort i p s).stag.opRuns = s.stag.opRuns :=
  congrArg (·.2.2.1) ((setPort_only i p s).same .clocks rfl)
@[simp] theorem setPort_stag_caughtUp : (setPort i p s).stag.caughtUp = s.stag.caughtUp :=
  congrArg (·.2.2.2.1) ((setPort_only i p s).same .clocks rfl)
@[simp] theorem setPort_stag_utcBase : (setPort i p s).stag.utcBase = s.stag.utcBase :=
  congrArg (·.2.2.2.2.1) ((setPort_only i p s).same .clocks rfl)
@[simp] theorem setPort_stag_utcAt : (setPort i p s).stag.utcAt = s.stag.utcAt :=
  congrArg (·.2.2.2.2.2.1) ((setPort_only i p s).same .clocks rfl)
@[simp] theorem setPort_stag_utcValid : (setPort i p s).stag.utcValid = s.stag.utcValid :=
  congrArg (·.2.2.2.2.2.2) ((setPort_only i p s).same .clocks rfl)
@[simp] theorem setPort_stag_therm : (setPort i p s).stag.therm = s.stag.therm :=
  congrArg (·.1) ((setPort_only i p s).same .sensors rfl)
@[simp] theorem setPort_stag_vmon : (setPort i p s).stag.vmon = s.stag.vmon :=
  congrArg (·.2.1) ((setPort_only i p s).same .sensors rfl)
@[simp] theorem setPort_stag_ntc : (setPort i p s).stag.ntc = s.stag.ntc :=
  congrArg (·.2.2) ((setPort_only i p s).same .sensors rfl)
@[simp] theorem setPort_stag_slotA : (setPort i p s).stag.slotA = s.stag.slotA :=
  congrArg (·.1) ((setPort_only i p s).same .slots rfl)
@[simp] theorem setPort_stag_slotB : (setPort i p s).stag.slotB = s.stag.slotB :=
  congrArg (·.2.1) ((setPort_only i p s).same .slots rfl)
@[simp] theorem setPort_stag_activation : (setPort i p s).stag.activation = s.stag.activation :=
  congrArg (·.2.2) ((setPort_only i p s).same .slots rfl)
@[simp] theorem setPort_stag_imageLen : (setPort i p s).stag.imageLen = s.stag.imageLen :=
  congrArg (·.1) ((setPort_only i p s).same .image rfl)
@[simp] theorem setPort_stag_image : (setPort i p s).stag.image = s.stag.image :=
  congrArg (·.2) ((setPort_only i p s).same .image rfl)
@[simp] theorem setPort_link : (setPort i p s).link = s.link := (setPort_only i p s).same .link rfl
@[simp] theorem setPort_aux : (setPort i p s).aux = s.aux := (setPort_only i p s).same .aux rfl
@[simp] theorem setPort_rx : (setPort i p s).rx = s.rx := (setPort_only i p s).same .rx rfl
@[simp] theorem setPort_raster : (setPort i p s).raster = s.raster := (setPort_only i p s).same .raster rfl
@[simp] theorem setPort_pipe : (setPort i p s).pipe = s.pipe := (setPort_only i p s).pipe rfl rfl
@[simp] theorem setPort_out : (setPort i p s).out = s.out := (setPort_only i p s).same .out rfl
@[simp] theorem setPort_panel : (setPort i p s).panel = s.panel := (setPort_only i p s).same .panel rfl
@[simp] theorem setPort_fstore : (setPort i p s).fstore = s.fstore := (setPort_only i p s).same .fstore rfl
@[simp] theorem setPort_dram : (setPort i p s).dram = s.dram := (setPort_only i p s).same .dram rfl
@[simp] theorem setPort_sram : (setPort i p s).sram = s.sram := (setPort_only i p s).sram rfl rfl
@[simp] theorem setPort_resil : (setPort i p s).resil = s.resil := (setPort_only i p s).same .resil rfl
@[simp] theorem setPort_power : (setPort i p s).power = s.power := (setPort_only i p s).same .power rfl
@[simp] theorem setPort_pins : (setPort i p s).pins = s.pins := (setPort_only i p s).same .pins rfl
@[simp] theorem setPort_free : (setPort i p s).free = s.free := (setPort_only i p s).same .free rfl
@[simp] theorem setPort_pending : (setPort i p s).pending = s.pending := (setPort_only i p s).same .pending rfl
end

section
variable {r : Req} {status : Nat} {payload : List Nat} {keep : Bool} {s : State}
@[simp] theorem respond_now : (respond r status payload keep s).now = s.now := (respond_only r status payload keep s).same .now rfl
@[simp] theorem respond_epoch : (respond r status payload keep s).epoch = s.epoch := (respond_only r status payload keep s).same .epoch rfl
@[simp] theorem respond_dict_cfg : (respond r status payload keep s).dict.cfg = s.dict.cfg :=
  (respond_only r status payload keep s).same .config rfl
@[simp] theorem respond_dict_held : (respond r status payload keep s).dict.held = s.dict.held :=
  congrArg (·.1) ((respond_only r status payload keep s).same .shadow rfl)
@[simp] theorem respond_dict_items : (respond r status payload keep s).dict.items = s.dict.items :=
  congrArg (·.2.1) ((respond_only r status payload keep s).same .shadow rfl)
@[simp] theorem respond_dict_patch : (respond r status payload keep s).dict.patch = s.dict.patch :=
  congrArg (·.2.2.1) ((respond_only r status payload keep s).same .shadow rfl)
@[simp] theorem respond_dict_commits : (respond r status payload keep s).dict.commits = s.dict.commits :=
  congrArg (·.2.2.2) ((respond_only r status payload keep s).same .shadow rfl)
@[simp] theorem respond_dict_limited : (respond r status payload keep s).dict.limited = s.dict.limited :=
  congrArg (·.1) ((respond_only r status payload keep s).same .events rfl)
@[simp] theorem respond_dict_lastEvent : (respond r status payload keep s).dict.lastEvent = s.dict.lastEvent :=
  congrArg (·.2.1) ((respond_only r status payload keep s).same .events rfl)
@[simp] theorem respond_dict_ordinal : (respond r status payload keep s).dict.ordinal = s.dict.ordinal :=
  congrArg (·.2.2) ((respond_only r status payload keep s).same .events rfl)
@[simp] theorem respond_dict_ce : (respond r status payload keep s).dict.ce = s.dict.ce :=
  congrArg (·.1) ((respond_only r status payload keep s).same .counts rfl)
@[simp] theorem respond_dict_ue : (respond r status payload keep s).dict.ue = s.dict.ue :=
  congrArg (·.2) ((respond_only r status payload keep s).same .counts rfl)
@[simp] theorem respond_ctrl_waiting : (respond r status payload keep s).ctrl.waiting = s.ctrl.waiting :=
  congrArg (·.1) ((respond_only r status payload keep s).same .requests rfl)
@[simp] theorem respond_ctrl_busy : (respond r status payload keep s).ctrl.busy = s.ctrl.busy :=
  congrArg (·.2.1) ((respond_only r status payload keep s).same .requests rfl)
@[simp] theorem respond_ctrl_passed : (respond r status payload keep s).ctrl.passed = s.ctrl.passed :=
  congrArg (·.2.2) ((respond_only r status payload keep s).same .requests rfl)
@[simp] theorem respond_pstore_mem : (respond r status payload keep s).pstore.mem = s.pstore.mem :=
  (respond_only r status payload keep s).same .store rfl
@[simp] theorem respond_pstore_queue : (respond r status payload keep s).pstore.queue = s.pstore.queue :=
  congrArg (·.1) ((respond_only r status payload keep s).same .storeQueue rfl)
@[simp] theorem respond_pstore_current : (respond r status payload keep s).pstore.current = s.pstore.current :=
  congrArg (·.2.1) ((respond_only r status payload keep s).same .storeQueue rfl)
@[simp] theorem respond_pstore_mirror : (respond r status payload keep s).pstore.mirror = s.pstore.mirror :=
  congrArg (·.2.2.1) ((respond_only r status payload keep s).same .storeQueue rfl)
@[simp] theorem respond_pstore_gathered : (respond r status payload keep s).pstore.gathered = s.pstore.gathered :=
  congrArg (·.2.2.2.1) ((respond_only r status payload keep s).same .storeQueue rfl)
@[simp] theorem respond_pstore_queued : (respond r status payload keep s).pstore.queued = s.pstore.queued :=
  congrArg (·.2.2.2.2.1) ((respond_only r status payload keep s).same .storeQueue rfl)
@[simp] theorem respond_pstore_gatherAt : (respond r status payload keep s).pstore.gatherAt = s.pstore.gatherAt :=
  congrArg (·.2.2.2.2.2.1) ((respond_only r status payload keep s).same .storeQueue rfl)
@[simp] theorem respond_pstore_notLogged : (respond r status payload keep s).pstore.notLogged = s.pstore.notLogged :=
  congrArg (·.2.2.2.2.2.2.1) ((respond_only r status payload keep s).same .storeQueue rfl)
@[simp] theorem respond_pstore_nextSeq : (respond r status payload keep s).pstore.nextSeq = s.pstore.nextSeq :=
  congrArg (·.2.2.2.2.2.2.2.1) ((respond_only r status payload keep s).same .storeQueue rfl)
@[simp] theorem respond_pstore_programmed : (respond r status payload keep s).pstore.programmed = s.pstore.programmed :=
  congrArg (·.2.2.2.2.2.2.2.2) ((respond_only r status payload keep s).same .storeQueue rfl)
@[simp] theorem respond_pstore_tally : (respond r status payload keep s).pstore.tally = s.pstore.tally :=
  congrArg (·.1) ((respond_only r status payload keep s).same .tallies rfl)
@[simp] theorem respond_pstore_holder : (respond r status payload keep s).pstore.holder = s.pstore.holder :=
  congrArg (·.2.1) ((respond_only r status payload keep s).same .tallies rfl)
@[simp] theorem respond_pstore_tallyFull : (respond r status payload keep s).pstore.tallyFull = s.pstore.tallyFull :=
  congrArg (·.2.2) ((respond_only r status payload keep s).same .tallies rfl)
@[simp] theorem respond_pstore_warned : (respond r status payload keep s).pstore.warned = s.pstore.warned :=
  congrArg (·.1) ((respond_only r status payload keep s).same .storeState rfl)
@[simp] theorem respond_pstore_storeTag : (respond r status payload keep s).pstore.storeTag = s.pstore.storeTag :=
  congrArg (·.2.1) ((respond_only r status payload keep s).same .storeState rfl)
@[simp] theorem respond_pstore_storeSlotB : (respond r status payload keep s).pstore.storeSlotB = s.pstore.storeSlotB :=
  congrArg (·.2.2.1) ((respond_only r status payload keep s).same .storeState rfl)
@[simp] theorem respond_pstore_storeLen : (respond r status payload keep s).pstore.storeLen = s.pstore.storeLen :=
  congrArg (·.2.2.2.1) ((respond_only r status payload keep s).same .storeState rfl)
@[simp] theorem respond_pstore_blaze : (respond r status payload keep s).pstore.blaze = s.pstore.blaze :=
  congrArg (·.2.2.2.2.1) ((respond_only r status payload keep s).same .storeState rfl)
@[simp] theorem respond_pstore_reinstated : (respond r status payload keep s).pstore.reinstated = s.pstore.reinstated :=
  congrArg (·.2.2.2.2.2.1) ((respond_only r status payload keep s).same .storeState rfl)
@[simp] theorem respond_pstore_repairs : (respond r status payload keep s).pstore.repairs = s.pstore.repairs :=
  congrArg (·.2.2.2.2.2.2.1) ((respond_only r status payload keep s).same .storeState rfl)
@[simp] theorem respond_pstore_identityOk : (respond r status payload keep s).pstore.identityOk = s.pstore.identityOk :=
  congrArg (·.2.2.2.2.2.2.2.1) ((respond_only r status payload keep s).same .storeState rfl)
@[simp] theorem respond_pstore_blazeFull : (respond r status payload keep s).pstore.blazeFull = s.pstore.blazeFull :=
  congrArg (·.2.2.2.2.2.2.2.2.1) ((respond_only r status payload keep s).same .storeState rfl)
@[simp] theorem respond_pstore_wearRaised : (respond r status payload keep s).pstore.wearRaised = s.pstore.wearRaised :=
  congrArg (·.2.2.2.2.2.2.2.2.2.1) ((respond_only r status payload keep s).same .storeState rfl)
@[simp] theorem respond_pstore_limited : (respond r status payload keep s).pstore.limited = s.pstore.limited :=
  congrArg (·.2.2.2.2.2.2.2.2.2.2.1) ((respond_only r status payload keep s).same .storeState rfl)
@[simp] theorem respond_pstore_read : (respond r status payload keep s).pstore.read = s.pstore.read :=
  congrArg (·.2.2.2.2.2.2.2.2.2.2.2) ((respond_only r status payload keep s).same .storeState rfl)
@[simp] theorem respond_sec : (respond r status payload keep s).sec = s.sec := (respond_only r status payload keep s).sec rfl rfl
@[simp] theorem respond_stag_events : (respond r status payload keep s).stag.events = s.stag.events :=
  congrArg (·.1) ((respond_only r status payload keep s).same .heldEvents rfl)
@[simp] theorem respond_stag_overflow : (respond r status payload keep s).stag.overflow = s.stag.overflow :=
  congrArg (·.2) ((respond_only r status payload keep s).same .heldEvents rfl)
@[simp] theorem respond_stag_restarting : (respond r status payload keep s).stag.restarting = s.stag.restarting :=
  congrArg (·.1) ((respond_only r status payload keep s).same .stag rfl)
@[simp] theorem respond_stag_restarts : (respond r status payload keep s).stag.restarts = s.stag.restarts :=
  congrArg (·.2.1) ((respond_only r status payload keep s).same .stag rfl)
@[simp] theorem respond_stag_running : (respond r status payload keep s).stag.running = s.stag.running :=
  congrArg (·.2.2.1) ((respond_only r status payload keep s).same .stag rfl)
@[simp] theorem respond_stag_recovery : (respond r status payload keep s).stag.recovery = s.stag.recovery :=
  congrArg (·.2.2.2.1) ((respond_only r status payload keep s).same .stag rfl)
@[simp] theorem respond_stag_slot : (respond r status payload keep s).stag.slot = s.stag.slot :=
  congrArg (·.2.2.2.2.1) ((respond_only r status payload keep s).same .stag rfl)
@[simp] theorem respond_stag_trial : (respond r status payload keep s).stag.trial = s.stag.trial :=
  congrArg (·.2.2.2.2.2.1) ((respond_only r status payload keep s).same .stag rfl)
@[simp] theorem respond_stag_trialSince : (respond r status payload keep s).stag.trialSince = s.stag.trialSince :=
  congrArg (·.2.2.2.2.2.2) ((respond_only r status payload keep s).same .stag rfl)
@[simp] theorem respond_stag_opBase : (respond r status payload keep s).stag.opBase = s.stag.opBase :=
  congrArg (·.1) ((respond_only r status payload keep s).same .clocks rfl)
@[simp] theorem respond_stag_opAt : (respond r status payload keep s).stag.opAt = s.stag.opAt :=
  congrArg (·.2.1) ((respond_only r status payload keep s).same .clocks rfl)
@[simp] theorem respond_stag_opRuns : (respond r status payload keep s).stag.opRuns = s.stag.opRuns :=
  congrArg (·.2.2.1) ((respond_only r status payload keep s).same .clocks rfl)
@[simp] theorem respond_stag_caughtUp : (respond r status payload keep s).stag.caughtUp = s.stag.caughtUp :=
  congrArg (·.2.2.2.1) ((respond_only r status payload keep s).same .clocks rfl)
@[simp] theorem respond_stag_utcBase : (respond r status payload keep s).stag.utcBase = s.stag.utcBase :=
  congrArg (·.2.2.2.2.1) ((respond_only r status payload keep s).same .clocks rfl)
@[simp] theorem respond_stag_utcAt : (respond r status payload keep s).stag.utcAt = s.stag.utcAt :=
  congrArg (·.2.2.2.2.2.1) ((respond_only r status payload keep s).same .clocks rfl)
@[simp] theorem respond_stag_utcValid : (respond r status payload keep s).stag.utcValid = s.stag.utcValid :=
  congrArg (·.2.2.2.2.2.2) ((respond_only r status payload keep s).same .clocks rfl)
@[simp] theorem respond_stag_therm : (respond r status payload keep s).stag.therm = s.stag.therm :=
  congrArg (·.1) ((respond_only r status payload keep s).same .sensors rfl)
@[simp] theorem respond_stag_vmon : (respond r status payload keep s).stag.vmon = s.stag.vmon :=
  congrArg (·.2.1) ((respond_only r status payload keep s).same .sensors rfl)
@[simp] theorem respond_stag_ntc : (respond r status payload keep s).stag.ntc = s.stag.ntc :=
  congrArg (·.2.2) ((respond_only r status payload keep s).same .sensors rfl)
@[simp] theorem respond_stag_slotA : (respond r status payload keep s).stag.slotA = s.stag.slotA :=
  congrArg (·.1) ((respond_only r status payload keep s).same .slots rfl)
@[simp] theorem respond_stag_slotB : (respond r status payload keep s).stag.slotB = s.stag.slotB :=
  congrArg (·.2.1) ((respond_only r status payload keep s).same .slots rfl)
@[simp] theorem respond_stag_activation : (respond r status payload keep s).stag.activation = s.stag.activation :=
  congrArg (·.2.2) ((respond_only r status payload keep s).same .slots rfl)
@[simp] theorem respond_stag_imageLen : (respond r status payload keep s).stag.imageLen = s.stag.imageLen :=
  congrArg (·.1) ((respond_only r status payload keep s).same .image rfl)
@[simp] theorem respond_stag_image : (respond r status payload keep s).stag.image = s.stag.image :=
  congrArg (·.2) ((respond_only r status payload keep s).same .image rfl)
@[simp] theorem respond_link : (respond r status payload keep s).link = s.link := (respond_only r status payload keep s).same .link rfl
@[simp] theorem respond_rx : (respond r status payload keep s).rx = s.rx := (respond_only r status payload keep s).same .rx rfl
@[simp] theorem respond_raster : (respond r status payload keep s).raster = s.raster := (respond_only r status payload keep s).same .raster rfl
@[simp] theorem respond_pipe : (respond r status payload keep s).pipe = s.pipe := (respond_only r status payload keep s).pipe rfl rfl
@[simp] theorem respond_out : (respond r status payload keep s).out = s.out := (respond_only r status payload keep s).same .out rfl
@[simp] theorem respond_panel : (respond r status payload keep s).panel = s.panel := (respond_only r status payload keep s).same .panel rfl
@[simp] theorem respond_fstore : (respond r status payload keep s).fstore = s.fstore := (respond_only r status payload keep s).same .fstore rfl
@[simp] theorem respond_dram : (respond r status payload keep s).dram = s.dram := (respond_only r status payload keep s).same .dram rfl
@[simp] theorem respond_sram : (respond r status payload keep s).sram = s.sram := (respond_only r status payload keep s).sram rfl rfl
@[simp] theorem respond_resil : (respond r status payload keep s).resil = s.resil := (respond_only r status payload keep s).same .resil rfl
@[simp] theorem respond_power : (respond r status payload keep s).power = s.power := (respond_only r status payload keep s).same .power rfl
@[simp] theorem respond_pins : (respond r status payload keep s).pins = s.pins := (respond_only r status payload keep s).same .pins rfl
@[simp] theorem respond_free : (respond r status payload keep s).free = s.free := (respond_only r status payload keep s).same .free rfl
@[simp] theorem respond_pending : (respond r status payload keep s).pending = s.pending := (respond_only r status payload keep s).same .pending rfl
end

section
variable {h : Nat} {p : Nat} {cause : Nat} {s : State}
@[simp] theorem countClamp_now : (countClamp h p cause s).now = s.now := (countClamp_only h p cause s).same .now rfl
@[simp] theorem countClamp_epoch : (countClamp h p cause s).epoch = s.epoch := (countClamp_only h p cause s).same .epoch rfl
@[simp] theorem countClamp_dict_cfg : (countClamp h p cause s).dict.cfg = s.dict.cfg :=
  (countClamp_only h p cause s).same .config rfl
@[simp] theorem countClamp_dict_held : (countClamp h p cause s).dict.held = s.dict.held :=
  congrArg (·.1) ((countClamp_only h p cause s).same .shadow rfl)
@[simp] theorem countClamp_dict_items : (countClamp h p cause s).dict.items = s.dict.items :=
  congrArg (·.2.1) ((countClamp_only h p cause s).same .shadow rfl)
@[simp] theorem countClamp_dict_patch : (countClamp h p cause s).dict.patch = s.dict.patch :=
  congrArg (·.2.2.1) ((countClamp_only h p cause s).same .shadow rfl)
@[simp] theorem countClamp_dict_commits : (countClamp h p cause s).dict.commits = s.dict.commits :=
  congrArg (·.2.2.2) ((countClamp_only h p cause s).same .shadow rfl)
@[simp] theorem countClamp_dict_limited : (countClamp h p cause s).dict.limited = s.dict.limited :=
  congrArg (·.1) ((countClamp_only h p cause s).same .events rfl)
@[simp] theorem countClamp_dict_lastEvent : (countClamp h p cause s).dict.lastEvent = s.dict.lastEvent :=
  congrArg (·.2.1) ((countClamp_only h p cause s).same .events rfl)
@[simp] theorem countClamp_dict_ordinal : (countClamp h p cause s).dict.ordinal = s.dict.ordinal :=
  congrArg (·.2.2) ((countClamp_only h p cause s).same .events rfl)
@[simp] theorem countClamp_dict_ce : (countClamp h p cause s).dict.ce = s.dict.ce :=
  congrArg (·.1) ((countClamp_only h p cause s).same .counts rfl)
@[simp] theorem countClamp_dict_ue : (countClamp h p cause s).dict.ue = s.dict.ue :=
  congrArg (·.2) ((countClamp_only h p cause s).same .counts rfl)
@[simp] theorem countClamp_ctrl_waiting : (countClamp h p cause s).ctrl.waiting = s.ctrl.waiting :=
  congrArg (·.1) ((countClamp_only h p cause s).same .requests rfl)
@[simp] theorem countClamp_ctrl_busy : (countClamp h p cause s).ctrl.busy = s.ctrl.busy :=
  congrArg (·.2.1) ((countClamp_only h p cause s).same .requests rfl)
@[simp] theorem countClamp_ctrl_passed : (countClamp h p cause s).ctrl.passed = s.ctrl.passed :=
  congrArg (·.2.2) ((countClamp_only h p cause s).same .requests rfl)
@[simp] theorem countClamp_ctrl_host : (countClamp h p cause s).ctrl.host = s.ctrl.host :=
  congrArg (·.1) ((countClamp_only h p cause s).same .ports rfl)
@[simp] theorem countClamp_ctrl_field : (countClamp h p cause s).ctrl.field = s.ctrl.field :=
  congrArg (·.2.1) ((countClamp_only h p cause s).same .ports rfl)
@[simp] theorem countClamp_ctrl_sideband : (countClamp h p cause s).ctrl.sideband = s.ctrl.sideband :=
  congrArg (·.2.2) ((countClamp_only h p cause s).same .ports rfl)
@[simp] theorem countClamp_ctrl_can : (countClamp h p cause s).ctrl.can = s.ctrl.can :=
  (countClamp_only h p cause s).same .can rfl
@[simp] theorem countClamp_pstore_mem : (countClamp h p cause s).pstore.mem = s.pstore.mem :=
  (countClamp_only h p cause s).same .store rfl
@[simp] theorem countClamp_pstore_queue : (countClamp h p cause s).pstore.queue = s.pstore.queue :=
  congrArg (·.1) ((countClamp_only h p cause s).same .storeQueue rfl)
@[simp] theorem countClamp_pstore_current : (countClamp h p cause s).pstore.current = s.pstore.current :=
  congrArg (·.2.1) ((countClamp_only h p cause s).same .storeQueue rfl)
@[simp] theorem countClamp_pstore_mirror : (countClamp h p cause s).pstore.mirror = s.pstore.mirror :=
  congrArg (·.2.2.1) ((countClamp_only h p cause s).same .storeQueue rfl)
@[simp] theorem countClamp_pstore_gathered : (countClamp h p cause s).pstore.gathered = s.pstore.gathered :=
  congrArg (·.2.2.2.1) ((countClamp_only h p cause s).same .storeQueue rfl)
@[simp] theorem countClamp_pstore_queued : (countClamp h p cause s).pstore.queued = s.pstore.queued :=
  congrArg (·.2.2.2.2.1) ((countClamp_only h p cause s).same .storeQueue rfl)
@[simp] theorem countClamp_pstore_gatherAt : (countClamp h p cause s).pstore.gatherAt = s.pstore.gatherAt :=
  congrArg (·.2.2.2.2.2.1) ((countClamp_only h p cause s).same .storeQueue rfl)
@[simp] theorem countClamp_pstore_notLogged : (countClamp h p cause s).pstore.notLogged = s.pstore.notLogged :=
  congrArg (·.2.2.2.2.2.2.1) ((countClamp_only h p cause s).same .storeQueue rfl)
@[simp] theorem countClamp_pstore_nextSeq : (countClamp h p cause s).pstore.nextSeq = s.pstore.nextSeq :=
  congrArg (·.2.2.2.2.2.2.2.1) ((countClamp_only h p cause s).same .storeQueue rfl)
@[simp] theorem countClamp_pstore_programmed : (countClamp h p cause s).pstore.programmed = s.pstore.programmed :=
  congrArg (·.2.2.2.2.2.2.2.2) ((countClamp_only h p cause s).same .storeQueue rfl)
@[simp] theorem countClamp_pstore_tally : (countClamp h p cause s).pstore.tally = s.pstore.tally :=
  congrArg (·.1) ((countClamp_only h p cause s).same .tallies rfl)
@[simp] theorem countClamp_pstore_holder : (countClamp h p cause s).pstore.holder = s.pstore.holder :=
  congrArg (·.2.1) ((countClamp_only h p cause s).same .tallies rfl)
@[simp] theorem countClamp_pstore_tallyFull : (countClamp h p cause s).pstore.tallyFull = s.pstore.tallyFull :=
  congrArg (·.2.2) ((countClamp_only h p cause s).same .tallies rfl)
@[simp] theorem countClamp_pstore_warned : (countClamp h p cause s).pstore.warned = s.pstore.warned :=
  congrArg (·.1) ((countClamp_only h p cause s).same .storeState rfl)
@[simp] theorem countClamp_pstore_storeTag : (countClamp h p cause s).pstore.storeTag = s.pstore.storeTag :=
  congrArg (·.2.1) ((countClamp_only h p cause s).same .storeState rfl)
@[simp] theorem countClamp_pstore_storeSlotB : (countClamp h p cause s).pstore.storeSlotB = s.pstore.storeSlotB :=
  congrArg (·.2.2.1) ((countClamp_only h p cause s).same .storeState rfl)
@[simp] theorem countClamp_pstore_storeLen : (countClamp h p cause s).pstore.storeLen = s.pstore.storeLen :=
  congrArg (·.2.2.2.1) ((countClamp_only h p cause s).same .storeState rfl)
@[simp] theorem countClamp_pstore_blaze : (countClamp h p cause s).pstore.blaze = s.pstore.blaze :=
  congrArg (·.2.2.2.2.1) ((countClamp_only h p cause s).same .storeState rfl)
@[simp] theorem countClamp_pstore_reinstated : (countClamp h p cause s).pstore.reinstated = s.pstore.reinstated :=
  congrArg (·.2.2.2.2.2.1) ((countClamp_only h p cause s).same .storeState rfl)
@[simp] theorem countClamp_pstore_repairs : (countClamp h p cause s).pstore.repairs = s.pstore.repairs :=
  congrArg (·.2.2.2.2.2.2.1) ((countClamp_only h p cause s).same .storeState rfl)
@[simp] theorem countClamp_pstore_identityOk : (countClamp h p cause s).pstore.identityOk = s.pstore.identityOk :=
  congrArg (·.2.2.2.2.2.2.2.1) ((countClamp_only h p cause s).same .storeState rfl)
@[simp] theorem countClamp_pstore_blazeFull : (countClamp h p cause s).pstore.blazeFull = s.pstore.blazeFull :=
  congrArg (·.2.2.2.2.2.2.2.2.1) ((countClamp_only h p cause s).same .storeState rfl)
@[simp] theorem countClamp_pstore_wearRaised : (countClamp h p cause s).pstore.wearRaised = s.pstore.wearRaised :=
  congrArg (·.2.2.2.2.2.2.2.2.2.1) ((countClamp_only h p cause s).same .storeState rfl)
@[simp] theorem countClamp_pstore_limited : (countClamp h p cause s).pstore.limited = s.pstore.limited :=
  congrArg (·.2.2.2.2.2.2.2.2.2.2.1) ((countClamp_only h p cause s).same .storeState rfl)
@[simp] theorem countClamp_pstore_read : (countClamp h p cause s).pstore.read = s.pstore.read :=
  congrArg (·.2.2.2.2.2.2.2.2.2.2.2) ((countClamp_only h p cause s).same .storeState rfl)
@[simp] theorem countClamp_sec : (countClamp h p cause s).sec = s.sec := (countClamp_only h p cause s).sec rfl rfl
@[simp] theorem countClamp_stag_events : (countClamp h p cause s).stag.events = s.stag.events :=
  congrArg (·.1) ((countClamp_only h p cause s).same .heldEvents rfl)
@[simp] theorem countClamp_stag_overflow : (countClamp h p cause s).stag.overflow = s.stag.overflow :=
  congrArg (·.2) ((countClamp_only h p cause s).same .heldEvents rfl)
@[simp] theorem countClamp_stag_restarting : (countClamp h p cause s).stag.restarting = s.stag.restarting :=
  congrArg (·.1) ((countClamp_only h p cause s).same .stag rfl)
@[simp] theorem countClamp_stag_restarts : (countClamp h p cause s).stag.restarts = s.stag.restarts :=
  congrArg (·.2.1) ((countClamp_only h p cause s).same .stag rfl)
@[simp] theorem countClamp_stag_running : (countClamp h p cause s).stag.running = s.stag.running :=
  congrArg (·.2.2.1) ((countClamp_only h p cause s).same .stag rfl)
@[simp] theorem countClamp_stag_recovery : (countClamp h p cause s).stag.recovery = s.stag.recovery :=
  congrArg (·.2.2.2.1) ((countClamp_only h p cause s).same .stag rfl)
@[simp] theorem countClamp_stag_slot : (countClamp h p cause s).stag.slot = s.stag.slot :=
  congrArg (·.2.2.2.2.1) ((countClamp_only h p cause s).same .stag rfl)
@[simp] theorem countClamp_stag_trial : (countClamp h p cause s).stag.trial = s.stag.trial :=
  congrArg (·.2.2.2.2.2.1) ((countClamp_only h p cause s).same .stag rfl)
@[simp] theorem countClamp_stag_trialSince : (countClamp h p cause s).stag.trialSince = s.stag.trialSince :=
  congrArg (·.2.2.2.2.2.2) ((countClamp_only h p cause s).same .stag rfl)
@[simp] theorem countClamp_stag_opBase : (countClamp h p cause s).stag.opBase = s.stag.opBase :=
  congrArg (·.1) ((countClamp_only h p cause s).same .clocks rfl)
@[simp] theorem countClamp_stag_opAt : (countClamp h p cause s).stag.opAt = s.stag.opAt :=
  congrArg (·.2.1) ((countClamp_only h p cause s).same .clocks rfl)
@[simp] theorem countClamp_stag_opRuns : (countClamp h p cause s).stag.opRuns = s.stag.opRuns :=
  congrArg (·.2.2.1) ((countClamp_only h p cause s).same .clocks rfl)
@[simp] theorem countClamp_stag_caughtUp : (countClamp h p cause s).stag.caughtUp = s.stag.caughtUp :=
  congrArg (·.2.2.2.1) ((countClamp_only h p cause s).same .clocks rfl)
@[simp] theorem countClamp_stag_utcBase : (countClamp h p cause s).stag.utcBase = s.stag.utcBase :=
  congrArg (·.2.2.2.2.1) ((countClamp_only h p cause s).same .clocks rfl)
@[simp] theorem countClamp_stag_utcAt : (countClamp h p cause s).stag.utcAt = s.stag.utcAt :=
  congrArg (·.2.2.2.2.2.1) ((countClamp_only h p cause s).same .clocks rfl)
@[simp] theorem countClamp_stag_utcValid : (countClamp h p cause s).stag.utcValid = s.stag.utcValid :=
  congrArg (·.2.2.2.2.2.2) ((countClamp_only h p cause s).same .clocks rfl)
@[simp] theorem countClamp_stag_therm : (countClamp h p cause s).stag.therm = s.stag.therm :=
  congrArg (·.1) ((countClamp_only h p cause s).same .sensors rfl)
@[simp] theorem countClamp_stag_vmon : (countClamp h p cause s).stag.vmon = s.stag.vmon :=
  congrArg (·.2.1) ((countClamp_only h p cause s).same .sensors rfl)
@[simp] theorem countClamp_stag_ntc : (countClamp h p cause s).stag.ntc = s.stag.ntc :=
  congrArg (·.2.2) ((countClamp_only h p cause s).same .sensors rfl)
@[simp] theorem countClamp_stag_slotA : (countClamp h p cause s).stag.slotA = s.stag.slotA :=
  congrArg (·.1) ((countClamp_only h p cause s).same .slots rfl)
@[simp] theorem countClamp_stag_slotB : (countClamp h p cause s).stag.slotB = s.stag.slotB :=
  congrArg (·.2.1) ((countClamp_only h p cause s).same .slots rfl)
@[simp] theorem countClamp_stag_activation : (countClamp h p cause s).stag.activation = s.stag.activation :=
  congrArg (·.2.2) ((countClamp_only h p cause s).same .slots rfl)
@[simp] theorem countClamp_stag_imageLen : (countClamp h p cause s).stag.imageLen = s.stag.imageLen :=
  congrArg (·.1) ((countClamp_only h p cause s).same .image rfl)
@[simp] theorem countClamp_stag_image : (countClamp h p cause s).stag.image = s.stag.image :=
  congrArg (·.2) ((countClamp_only h p cause s).same .image rfl)
@[simp] theorem countClamp_link : (countClamp h p cause s).link = s.link := (countClamp_only h p cause s).same .link rfl
@[simp] theorem countClamp_aux : (countClamp h p cause s).aux = s.aux := (countClamp_only h p cause s).same .aux rfl
@[simp] theorem countClamp_rx : (countClamp h p cause s).rx = s.rx := (countClamp_only h p cause s).same .rx rfl
@[simp] theorem countClamp_raster : (countClamp h p cause s).raster = s.raster := (countClamp_only h p cause s).same .raster rfl
@[simp] theorem countClamp_pipe : (countClamp h p cause s).pipe = s.pipe := (countClamp_only h p cause s).pipe rfl rfl
@[simp] theorem countClamp_out : (countClamp h p cause s).out = s.out := (countClamp_only h p cause s).same .out rfl
@[simp] theorem countClamp_panel : (countClamp h p cause s).panel = s.panel := (countClamp_only h p cause s).same .panel rfl
@[simp] theorem countClamp_fstore : (countClamp h p cause s).fstore = s.fstore := (countClamp_only h p cause s).same .fstore rfl
@[simp] theorem countClamp_dram : (countClamp h p cause s).dram = s.dram := (countClamp_only h p cause s).same .dram rfl
@[simp] theorem countClamp_sram : (countClamp h p cause s).sram = s.sram := (countClamp_only h p cause s).sram rfl rfl
@[simp] theorem countClamp_resil : (countClamp h p cause s).resil = s.resil := (countClamp_only h p cause s).same .resil rfl
@[simp] theorem countClamp_power : (countClamp h p cause s).power = s.power := (countClamp_only h p cause s).same .power rfl
@[simp] theorem countClamp_pins : (countClamp h p cause s).pins = s.pins := (countClamp_only h p cause s).same .pins rfl
@[simp] theorem countClamp_free : (countClamp h p cause s).free = s.free := (countClamp_only h p cause s).same .free rfl
@[simp] theorem countClamp_pending : (countClamp h p cause s).pending = s.pending := (countClamp_only h p cause s).same .pending rfl
end

section
variable {code : Nat} {handle : Nat} {data : List Nat} {s : State}
@[simp] theorem raise_now : (raise code handle data s).now = s.now := (raise_only code handle data s).same .now rfl
@[simp] theorem raise_epoch : (raise code handle data s).epoch = s.epoch := (raise_only code handle data s).same .epoch rfl
@[simp] theorem raise_dict_cfg : (raise code handle data s).dict.cfg = s.dict.cfg :=
  (raise_only code handle data s).same .config rfl
@[simp] theorem raise_dict_held : (raise code handle data s).dict.held = s.dict.held :=
  congrArg (·.1) ((raise_only code handle data s).same .shadow rfl)
@[simp] theorem raise_dict_items : (raise code handle data s).dict.items = s.dict.items :=
  congrArg (·.2.1) ((raise_only code handle data s).same .shadow rfl)
@[simp] theorem raise_dict_patch : (raise code handle data s).dict.patch = s.dict.patch :=
  congrArg (·.2.2.1) ((raise_only code handle data s).same .shadow rfl)
@[simp] theorem raise_dict_commits : (raise code handle data s).dict.commits = s.dict.commits :=
  congrArg (·.2.2.2) ((raise_only code handle data s).same .shadow rfl)
@[simp] theorem raise_dict_ce : (raise code handle data s).dict.ce = s.dict.ce :=
  congrArg (·.1) ((raise_only code handle data s).same .counts rfl)
@[simp] theorem raise_dict_ue : (raise code handle data s).dict.ue = s.dict.ue :=
  congrArg (·.2) ((raise_only code handle data s).same .counts rfl)
@[simp] theorem raise_ctrl_waiting : (raise code handle data s).ctrl.waiting = s.ctrl.waiting :=
  congrArg (·.1) ((raise_only code handle data s).same .requests rfl)
@[simp] theorem raise_ctrl_busy : (raise code handle data s).ctrl.busy = s.ctrl.busy :=
  congrArg (·.2.1) ((raise_only code handle data s).same .requests rfl)
@[simp] theorem raise_ctrl_passed : (raise code handle data s).ctrl.passed = s.ctrl.passed :=
  congrArg (·.2.2) ((raise_only code handle data s).same .requests rfl)
@[simp] theorem raise_ctrl_can : (raise code handle data s).ctrl.can = s.ctrl.can :=
  (raise_only code handle data s).same .can rfl
@[simp] theorem raise_pstore_mem : (raise code handle data s).pstore.mem = s.pstore.mem :=
  (raise_only code handle data s).same .store rfl
@[simp] theorem raise_pstore_tally : (raise code handle data s).pstore.tally = s.pstore.tally :=
  congrArg (·.1) ((raise_only code handle data s).same .tallies rfl)
@[simp] theorem raise_pstore_holder : (raise code handle data s).pstore.holder = s.pstore.holder :=
  congrArg (·.2.1) ((raise_only code handle data s).same .tallies rfl)
@[simp] theorem raise_pstore_tallyFull : (raise code handle data s).pstore.tallyFull = s.pstore.tallyFull :=
  congrArg (·.2.2) ((raise_only code handle data s).same .tallies rfl)
@[simp] theorem raise_pstore_warned : (raise code handle data s).pstore.warned = s.pstore.warned :=
  congrArg (·.1) ((raise_only code handle data s).same .storeState rfl)
@[simp] theorem raise_pstore_storeTag : (raise code handle data s).pstore.storeTag = s.pstore.storeTag :=
  congrArg (·.2.1) ((raise_only code handle data s).same .storeState rfl)
@[simp] theorem raise_pstore_storeSlotB : (raise code handle data s).pstore.storeSlotB = s.pstore.storeSlotB :=
  congrArg (·.2.2.1) ((raise_only code handle data s).same .storeState rfl)
@[simp] theorem raise_pstore_storeLen : (raise code handle data s).pstore.storeLen = s.pstore.storeLen :=
  congrArg (·.2.2.2.1) ((raise_only code handle data s).same .storeState rfl)
@[simp] theorem raise_pstore_blaze : (raise code handle data s).pstore.blaze = s.pstore.blaze :=
  congrArg (·.2.2.2.2.1) ((raise_only code handle data s).same .storeState rfl)
@[simp] theorem raise_pstore_reinstated : (raise code handle data s).pstore.reinstated = s.pstore.reinstated :=
  congrArg (·.2.2.2.2.2.1) ((raise_only code handle data s).same .storeState rfl)
@[simp] theorem raise_pstore_repairs : (raise code handle data s).pstore.repairs = s.pstore.repairs :=
  congrArg (·.2.2.2.2.2.2.1) ((raise_only code handle data s).same .storeState rfl)
@[simp] theorem raise_pstore_identityOk : (raise code handle data s).pstore.identityOk = s.pstore.identityOk :=
  congrArg (·.2.2.2.2.2.2.2.1) ((raise_only code handle data s).same .storeState rfl)
@[simp] theorem raise_pstore_blazeFull : (raise code handle data s).pstore.blazeFull = s.pstore.blazeFull :=
  congrArg (·.2.2.2.2.2.2.2.2.1) ((raise_only code handle data s).same .storeState rfl)
@[simp] theorem raise_pstore_wearRaised : (raise code handle data s).pstore.wearRaised = s.pstore.wearRaised :=
  congrArg (·.2.2.2.2.2.2.2.2.2.1) ((raise_only code handle data s).same .storeState rfl)
@[simp] theorem raise_pstore_limited : (raise code handle data s).pstore.limited = s.pstore.limited :=
  congrArg (·.2.2.2.2.2.2.2.2.2.2.1) ((raise_only code handle data s).same .storeState rfl)
@[simp] theorem raise_pstore_read : (raise code handle data s).pstore.read = s.pstore.read :=
  congrArg (·.2.2.2.2.2.2.2.2.2.2.2) ((raise_only code handle data s).same .storeState rfl)
@[simp] theorem raise_sec : (raise code handle data s).sec = s.sec := (raise_only code handle data s).sec rfl rfl
@[simp] theorem raise_stag_restarting : (raise code handle data s).stag.restarting = s.stag.restarting :=
  congrArg (·.1) ((raise_only code handle data s).same .stag rfl)
@[simp] theorem raise_stag_restarts : (raise code handle data s).stag.restarts = s.stag.restarts :=
  congrArg (·.2.1) ((raise_only code handle data s).same .stag rfl)
@[simp] theorem raise_stag_running : (raise code handle data s).stag.running = s.stag.running :=
  congrArg (·.2.2.1) ((raise_only code handle data s).same .stag rfl)
@[simp] theorem raise_stag_recovery : (raise code handle data s).stag.recovery = s.stag.recovery :=
  congrArg (·.2.2.2.1) ((raise_only code handle data s).same .stag rfl)
@[simp] theorem raise_stag_slot : (raise code handle data s).stag.slot = s.stag.slot :=
  congrArg (·.2.2.2.2.1) ((raise_only code handle data s).same .stag rfl)
@[simp] theorem raise_stag_trial : (raise code handle data s).stag.trial = s.stag.trial :=
  congrArg (·.2.2.2.2.2.1) ((raise_only code handle data s).same .stag rfl)
@[simp] theorem raise_stag_trialSince : (raise code handle data s).stag.trialSince = s.stag.trialSince :=
  congrArg (·.2.2.2.2.2.2) ((raise_only code handle data s).same .stag rfl)
@[simp] theorem raise_stag_opBase : (raise code handle data s).stag.opBase = s.stag.opBase :=
  congrArg (·.1) ((raise_only code handle data s).same .clocks rfl)
@[simp] theorem raise_stag_opAt : (raise code handle data s).stag.opAt = s.stag.opAt :=
  congrArg (·.2.1) ((raise_only code handle data s).same .clocks rfl)
@[simp] theorem raise_stag_opRuns : (raise code handle data s).stag.opRuns = s.stag.opRuns :=
  congrArg (·.2.2.1) ((raise_only code handle data s).same .clocks rfl)
@[simp] theorem raise_stag_caughtUp : (raise code handle data s).stag.caughtUp = s.stag.caughtUp :=
  congrArg (·.2.2.2.1) ((raise_only code handle data s).same .clocks rfl)
@[simp] theorem raise_stag_utcBase : (raise code handle data s).stag.utcBase = s.stag.utcBase :=
  congrArg (·.2.2.2.2.1) ((raise_only code handle data s).same .clocks rfl)
@[simp] theorem raise_stag_utcAt : (raise code handle data s).stag.utcAt = s.stag.utcAt :=
  congrArg (·.2.2.2.2.2.1) ((raise_only code handle data s).same .clocks rfl)
@[simp] theorem raise_stag_utcValid : (raise code handle data s).stag.utcValid = s.stag.utcValid :=
  congrArg (·.2.2.2.2.2.2) ((raise_only code handle data s).same .clocks rfl)
@[simp] theorem raise_stag_therm : (raise code handle data s).stag.therm = s.stag.therm :=
  congrArg (·.1) ((raise_only code handle data s).same .sensors rfl)
@[simp] theorem raise_stag_vmon : (raise code handle data s).stag.vmon = s.stag.vmon :=
  congrArg (·.2.1) ((raise_only code handle data s).same .sensors rfl)
@[simp] theorem raise_stag_ntc : (raise code handle data s).stag.ntc = s.stag.ntc :=
  congrArg (·.2.2) ((raise_only code handle data s).same .sensors rfl)
@[simp] theorem raise_stag_slotA : (raise code handle data s).stag.slotA = s.stag.slotA :=
  congrArg (·.1) ((raise_only code handle data s).same .slots rfl)
@[simp] theorem raise_stag_slotB : (raise code handle data s).stag.slotB = s.stag.slotB :=
  congrArg (·.2.1) ((raise_only code handle data s).same .slots rfl)
@[simp] theorem raise_stag_activation : (raise code handle data s).stag.activation = s.stag.activation :=
  congrArg (·.2.2) ((raise_only code handle data s).same .slots rfl)
@[simp] theorem raise_stag_imageLen : (raise code handle data s).stag.imageLen = s.stag.imageLen :=
  congrArg (·.1) ((raise_only code handle data s).same .image rfl)
@[simp] theorem raise_stag_image : (raise code handle data s).stag.image = s.stag.image :=
  congrArg (·.2) ((raise_only code handle data s).same .image rfl)
@[simp] theorem raise_link : (raise code handle data s).link = s.link := (raise_only code handle data s).same .link rfl
@[simp] theorem raise_aux : (raise code handle data s).aux = s.aux := (raise_only code handle data s).same .aux rfl
@[simp] theorem raise_rx : (raise code handle data s).rx = s.rx := (raise_only code handle data s).same .rx rfl
@[simp] theorem raise_raster : (raise code handle data s).raster = s.raster := (raise_only code handle data s).same .raster rfl
@[simp] theorem raise_pipe : (raise code handle data s).pipe = s.pipe := (raise_only code handle data s).pipe rfl rfl
@[simp] theorem raise_out : (raise code handle data s).out = s.out := (raise_only code handle data s).same .out rfl
@[simp] theorem raise_panel : (raise code handle data s).panel = s.panel := (raise_only code handle data s).same .panel rfl
@[simp] theorem raise_fstore : (raise code handle data s).fstore = s.fstore := (raise_only code handle data s).same .fstore rfl
@[simp] theorem raise_dram : (raise code handle data s).dram = s.dram := (raise_only code handle data s).same .dram rfl
@[simp] theorem raise_sram : (raise code handle data s).sram = s.sram := (raise_only code handle data s).sram rfl rfl
@[simp] theorem raise_resil : (raise code handle data s).resil = s.resil := (raise_only code handle data s).same .resil rfl
@[simp] theorem raise_power : (raise code handle data s).power = s.power := (raise_only code handle data s).same .power rfl
@[simp] theorem raise_pins : (raise code handle data s).pins = s.pins := (raise_only code handle data s).same .pins rfl
@[simp] theorem raise_free : (raise code handle data s).free = s.free := (raise_only code handle data s).same .free rfl
@[simp] theorem raise_pending : (raise code handle data s).pending = s.pending := (raise_only code handle data s).same .pending rfl
end

section
variable {s : State}
@[simp] theorem settle_now : (settle s).now = s.now := (settle_only s).same .now rfl
@[simp] theorem settle_epoch : (settle s).epoch = s.epoch := (settle_only s).same .epoch rfl
@[simp] theorem settle_dict_cfg : (settle s).dict.cfg = s.dict.cfg :=
  (settle_only s).same .config rfl
@[simp] theorem settle_dict_held : (settle s).dict.held = s.dict.held :=
  congrArg (·.1) ((settle_only s).same .shadow rfl)
@[simp] theorem settle_dict_items : (settle s).dict.items = s.dict.items :=
  congrArg (·.2.1) ((settle_only s).same .shadow rfl)
@[simp] theorem settle_dict_patch : (settle s).dict.patch = s.dict.patch :=
  congrArg (·.2.2.1) ((settle_only s).same .shadow rfl)
@[simp] theorem settle_dict_commits : (settle s).dict.commits = s.dict.commits :=
  congrArg (·.2.2.2) ((settle_only s).same .shadow rfl)
@[simp] theorem settle_dict_ce : (settle s).dict.ce = s.dict.ce :=
  congrArg (·.1) ((settle_only s).same .counts rfl)
@[simp] theorem settle_dict_ue : (settle s).dict.ue = s.dict.ue :=
  congrArg (·.2) ((settle_only s).same .counts rfl)
@[simp] theorem settle_ctrl_waiting : (settle s).ctrl.waiting = s.ctrl.waiting :=
  congrArg (·.1) ((settle_only s).same .requests rfl)
@[simp] theorem settle_ctrl_busy : (settle s).ctrl.busy = s.ctrl.busy :=
  congrArg (·.2.1) ((settle_only s).same .requests rfl)
@[simp] theorem settle_ctrl_passed : (settle s).ctrl.passed = s.ctrl.passed :=
  congrArg (·.2.2) ((settle_only s).same .requests rfl)
@[simp] theorem settle_ctrl_can : (settle s).ctrl.can = s.ctrl.can :=
  (settle_only s).same .can rfl
@[simp] theorem settle_pstore_mem : (settle s).pstore.mem = s.pstore.mem :=
  (settle_only s).same .store rfl
@[simp] theorem settle_pstore_tally : (settle s).pstore.tally = s.pstore.tally :=
  congrArg (·.1) ((settle_only s).same .tallies rfl)
@[simp] theorem settle_pstore_holder : (settle s).pstore.holder = s.pstore.holder :=
  congrArg (·.2.1) ((settle_only s).same .tallies rfl)
@[simp] theorem settle_pstore_tallyFull : (settle s).pstore.tallyFull = s.pstore.tallyFull :=
  congrArg (·.2.2) ((settle_only s).same .tallies rfl)
@[simp] theorem settle_pstore_warned : (settle s).pstore.warned = s.pstore.warned :=
  congrArg (·.1) ((settle_only s).same .storeState rfl)
@[simp] theorem settle_pstore_storeTag : (settle s).pstore.storeTag = s.pstore.storeTag :=
  congrArg (·.2.1) ((settle_only s).same .storeState rfl)
@[simp] theorem settle_pstore_storeSlotB : (settle s).pstore.storeSlotB = s.pstore.storeSlotB :=
  congrArg (·.2.2.1) ((settle_only s).same .storeState rfl)
@[simp] theorem settle_pstore_storeLen : (settle s).pstore.storeLen = s.pstore.storeLen :=
  congrArg (·.2.2.2.1) ((settle_only s).same .storeState rfl)
@[simp] theorem settle_pstore_blaze : (settle s).pstore.blaze = s.pstore.blaze :=
  congrArg (·.2.2.2.2.1) ((settle_only s).same .storeState rfl)
@[simp] theorem settle_pstore_reinstated : (settle s).pstore.reinstated = s.pstore.reinstated :=
  congrArg (·.2.2.2.2.2.1) ((settle_only s).same .storeState rfl)
@[simp] theorem settle_pstore_repairs : (settle s).pstore.repairs = s.pstore.repairs :=
  congrArg (·.2.2.2.2.2.2.1) ((settle_only s).same .storeState rfl)
@[simp] theorem settle_pstore_identityOk : (settle s).pstore.identityOk = s.pstore.identityOk :=
  congrArg (·.2.2.2.2.2.2.2.1) ((settle_only s).same .storeState rfl)
@[simp] theorem settle_pstore_blazeFull : (settle s).pstore.blazeFull = s.pstore.blazeFull :=
  congrArg (·.2.2.2.2.2.2.2.2.1) ((settle_only s).same .storeState rfl)
@[simp] theorem settle_pstore_wearRaised : (settle s).pstore.wearRaised = s.pstore.wearRaised :=
  congrArg (·.2.2.2.2.2.2.2.2.2.1) ((settle_only s).same .storeState rfl)
@[simp] theorem settle_pstore_limited : (settle s).pstore.limited = s.pstore.limited :=
  congrArg (·.2.2.2.2.2.2.2.2.2.2.1) ((settle_only s).same .storeState rfl)
@[simp] theorem settle_pstore_read : (settle s).pstore.read = s.pstore.read :=
  congrArg (·.2.2.2.2.2.2.2.2.2.2.2) ((settle_only s).same .storeState rfl)
@[simp] theorem settle_sec : (settle s).sec = s.sec := (settle_only s).sec rfl rfl
@[simp] theorem settle_stag_restarting : (settle s).stag.restarting = s.stag.restarting :=
  congrArg (·.1) ((settle_only s).same .stag rfl)
@[simp] theorem settle_stag_restarts : (settle s).stag.restarts = s.stag.restarts :=
  congrArg (·.2.1) ((settle_only s).same .stag rfl)
@[simp] theorem settle_stag_running : (settle s).stag.running = s.stag.running :=
  congrArg (·.2.2.1) ((settle_only s).same .stag rfl)
@[simp] theorem settle_stag_recovery : (settle s).stag.recovery = s.stag.recovery :=
  congrArg (·.2.2.2.1) ((settle_only s).same .stag rfl)
@[simp] theorem settle_stag_slot : (settle s).stag.slot = s.stag.slot :=
  congrArg (·.2.2.2.2.1) ((settle_only s).same .stag rfl)
@[simp] theorem settle_stag_trial : (settle s).stag.trial = s.stag.trial :=
  congrArg (·.2.2.2.2.2.1) ((settle_only s).same .stag rfl)
@[simp] theorem settle_stag_trialSince : (settle s).stag.trialSince = s.stag.trialSince :=
  congrArg (·.2.2.2.2.2.2) ((settle_only s).same .stag rfl)
@[simp] theorem settle_stag_opBase : (settle s).stag.opBase = s.stag.opBase :=
  congrArg (·.1) ((settle_only s).same .clocks rfl)
@[simp] theorem settle_stag_opAt : (settle s).stag.opAt = s.stag.opAt :=
  congrArg (·.2.1) ((settle_only s).same .clocks rfl)
@[simp] theorem settle_stag_opRuns : (settle s).stag.opRuns = s.stag.opRuns :=
  congrArg (·.2.2.1) ((settle_only s).same .clocks rfl)
@[simp] theorem settle_stag_caughtUp : (settle s).stag.caughtUp = s.stag.caughtUp :=
  congrArg (·.2.2.2.1) ((settle_only s).same .clocks rfl)
@[simp] theorem settle_stag_utcBase : (settle s).stag.utcBase = s.stag.utcBase :=
  congrArg (·.2.2.2.2.1) ((settle_only s).same .clocks rfl)
@[simp] theorem settle_stag_utcAt : (settle s).stag.utcAt = s.stag.utcAt :=
  congrArg (·.2.2.2.2.2.1) ((settle_only s).same .clocks rfl)
@[simp] theorem settle_stag_utcValid : (settle s).stag.utcValid = s.stag.utcValid :=
  congrArg (·.2.2.2.2.2.2) ((settle_only s).same .clocks rfl)
@[simp] theorem settle_stag_therm : (settle s).stag.therm = s.stag.therm :=
  congrArg (·.1) ((settle_only s).same .sensors rfl)
@[simp] theorem settle_stag_vmon : (settle s).stag.vmon = s.stag.vmon :=
  congrArg (·.2.1) ((settle_only s).same .sensors rfl)
@[simp] theorem settle_stag_ntc : (settle s).stag.ntc = s.stag.ntc :=
  congrArg (·.2.2) ((settle_only s).same .sensors rfl)
@[simp] theorem settle_stag_slotA : (settle s).stag.slotA = s.stag.slotA :=
  congrArg (·.1) ((settle_only s).same .slots rfl)
@[simp] theorem settle_stag_slotB : (settle s).stag.slotB = s.stag.slotB :=
  congrArg (·.2.1) ((settle_only s).same .slots rfl)
@[simp] theorem settle_stag_activation : (settle s).stag.activation = s.stag.activation :=
  congrArg (·.2.2) ((settle_only s).same .slots rfl)
@[simp] theorem settle_stag_imageLen : (settle s).stag.imageLen = s.stag.imageLen :=
  congrArg (·.1) ((settle_only s).same .image rfl)
@[simp] theorem settle_stag_image : (settle s).stag.image = s.stag.image :=
  congrArg (·.2) ((settle_only s).same .image rfl)
@[simp] theorem settle_link : (settle s).link = s.link := (settle_only s).same .link rfl
@[simp] theorem settle_aux : (settle s).aux = s.aux := (settle_only s).same .aux rfl
@[simp] theorem settle_rx : (settle s).rx = s.rx := (settle_only s).same .rx rfl
@[simp] theorem settle_raster : (settle s).raster = s.raster := (settle_only s).same .raster rfl
@[simp] theorem settle_pipe : (settle s).pipe = s.pipe := (settle_only s).pipe rfl rfl
@[simp] theorem settle_out : (settle s).out = s.out := (settle_only s).same .out rfl
@[simp] theorem settle_panel : (settle s).panel = s.panel := (settle_only s).same .panel rfl
@[simp] theorem settle_fstore : (settle s).fstore = s.fstore := (settle_only s).same .fstore rfl
@[simp] theorem settle_dram : (settle s).dram = s.dram := (settle_only s).same .dram rfl
@[simp] theorem settle_sram : (settle s).sram = s.sram := (settle_only s).sram rfl rfl
@[simp] theorem settle_power : (settle s).power = s.power := (settle_only s).same .power rfl
@[simp] theorem settle_pins : (settle s).pins = s.pins := (settle_only s).same .pins rfl
@[simp] theorem settle_free : (settle s).free = s.free := (settle_only s).same .free rfl
@[simp] theorem settle_pending : (settle s).pending = s.pending := (settle_only s).same .pending rfl
end

section
variable {i : PortId} {reason : Nat} {s : State}
@[simp] theorem endSession_now : (endSession i reason s).now = s.now := (endSession_only i reason s).same .now rfl
@[simp] theorem endSession_epoch : (endSession i reason s).epoch = s.epoch := (endSession_only i reason s).same .epoch rfl
@[simp] theorem endSession_dict_cfg : (endSession i reason s).dict.cfg = s.dict.cfg :=
  (endSession_only i reason s).same .config rfl
@[simp] theorem endSession_dict_held : (endSession i reason s).dict.held = s.dict.held :=
  congrArg (·.1) ((endSession_only i reason s).same .shadow rfl)
@[simp] theorem endSession_dict_items : (endSession i reason s).dict.items = s.dict.items :=
  congrArg (·.2.1) ((endSession_only i reason s).same .shadow rfl)
@[simp] theorem endSession_dict_patch : (endSession i reason s).dict.patch = s.dict.patch :=
  congrArg (·.2.2.1) ((endSession_only i reason s).same .shadow rfl)
@[simp] theorem endSession_dict_commits : (endSession i reason s).dict.commits = s.dict.commits :=
  congrArg (·.2.2.2) ((endSession_only i reason s).same .shadow rfl)
@[simp] theorem endSession_dict_ce : (endSession i reason s).dict.ce = s.dict.ce :=
  congrArg (·.1) ((endSession_only i reason s).same .counts rfl)
@[simp] theorem endSession_dict_ue : (endSession i reason s).dict.ue = s.dict.ue :=
  congrArg (·.2) ((endSession_only i reason s).same .counts rfl)
@[simp] theorem endSession_ctrl_waiting : (endSession i reason s).ctrl.waiting = s.ctrl.waiting :=
  congrArg (·.1) ((endSession_only i reason s).same .requests rfl)
@[simp] theorem endSession_ctrl_busy : (endSession i reason s).ctrl.busy = s.ctrl.busy :=
  congrArg (·.2.1) ((endSession_only i reason s).same .requests rfl)
@[simp] theorem endSession_ctrl_passed : (endSession i reason s).ctrl.passed = s.ctrl.passed :=
  congrArg (·.2.2) ((endSession_only i reason s).same .requests rfl)
@[simp] theorem endSession_ctrl_can : (endSession i reason s).ctrl.can = s.ctrl.can :=
  (endSession_only i reason s).same .can rfl
@[simp] theorem endSession_pstore_mem : (endSession i reason s).pstore.mem = s.pstore.mem :=
  (endSession_only i reason s).same .store rfl
@[simp] theorem endSession_pstore_tally : (endSession i reason s).pstore.tally = s.pstore.tally :=
  congrArg (·.1) ((endSession_only i reason s).same .tallies rfl)
@[simp] theorem endSession_pstore_holder : (endSession i reason s).pstore.holder = s.pstore.holder :=
  congrArg (·.2.1) ((endSession_only i reason s).same .tallies rfl)
@[simp] theorem endSession_pstore_tallyFull : (endSession i reason s).pstore.tallyFull = s.pstore.tallyFull :=
  congrArg (·.2.2) ((endSession_only i reason s).same .tallies rfl)
@[simp] theorem endSession_pstore_warned : (endSession i reason s).pstore.warned = s.pstore.warned :=
  congrArg (·.1) ((endSession_only i reason s).same .storeState rfl)
@[simp] theorem endSession_pstore_storeTag : (endSession i reason s).pstore.storeTag = s.pstore.storeTag :=
  congrArg (·.2.1) ((endSession_only i reason s).same .storeState rfl)
@[simp] theorem endSession_pstore_storeSlotB : (endSession i reason s).pstore.storeSlotB = s.pstore.storeSlotB :=
  congrArg (·.2.2.1) ((endSession_only i reason s).same .storeState rfl)
@[simp] theorem endSession_pstore_storeLen : (endSession i reason s).pstore.storeLen = s.pstore.storeLen :=
  congrArg (·.2.2.2.1) ((endSession_only i reason s).same .storeState rfl)
@[simp] theorem endSession_pstore_blaze : (endSession i reason s).pstore.blaze = s.pstore.blaze :=
  congrArg (·.2.2.2.2.1) ((endSession_only i reason s).same .storeState rfl)
@[simp] theorem endSession_pstore_reinstated : (endSession i reason s).pstore.reinstated = s.pstore.reinstated :=
  congrArg (·.2.2.2.2.2.1) ((endSession_only i reason s).same .storeState rfl)
@[simp] theorem endSession_pstore_repairs : (endSession i reason s).pstore.repairs = s.pstore.repairs :=
  congrArg (·.2.2.2.2.2.2.1) ((endSession_only i reason s).same .storeState rfl)
@[simp] theorem endSession_pstore_identityOk : (endSession i reason s).pstore.identityOk = s.pstore.identityOk :=
  congrArg (·.2.2.2.2.2.2.2.1) ((endSession_only i reason s).same .storeState rfl)
@[simp] theorem endSession_pstore_blazeFull : (endSession i reason s).pstore.blazeFull = s.pstore.blazeFull :=
  congrArg (·.2.2.2.2.2.2.2.2.1) ((endSession_only i reason s).same .storeState rfl)
@[simp] theorem endSession_pstore_wearRaised : (endSession i reason s).pstore.wearRaised = s.pstore.wearRaised :=
  congrArg (·.2.2.2.2.2.2.2.2.2.1) ((endSession_only i reason s).same .storeState rfl)
@[simp] theorem endSession_pstore_limited : (endSession i reason s).pstore.limited = s.pstore.limited :=
  congrArg (·.2.2.2.2.2.2.2.2.2.2.1) ((endSession_only i reason s).same .storeState rfl)
@[simp] theorem endSession_pstore_read : (endSession i reason s).pstore.read = s.pstore.read :=
  congrArg (·.2.2.2.2.2.2.2.2.2.2.2) ((endSession_only i reason s).same .storeState rfl)
@[simp] theorem endSession_sec : (endSession i reason s).sec = s.sec := (endSession_only i reason s).sec rfl rfl
@[simp] theorem endSession_stag_restarting : (endSession i reason s).stag.restarting = s.stag.restarting :=
  congrArg (·.1) ((endSession_only i reason s).same .stag rfl)
@[simp] theorem endSession_stag_restarts : (endSession i reason s).stag.restarts = s.stag.restarts :=
  congrArg (·.2.1) ((endSession_only i reason s).same .stag rfl)
@[simp] theorem endSession_stag_running : (endSession i reason s).stag.running = s.stag.running :=
  congrArg (·.2.2.1) ((endSession_only i reason s).same .stag rfl)
@[simp] theorem endSession_stag_recovery : (endSession i reason s).stag.recovery = s.stag.recovery :=
  congrArg (·.2.2.2.1) ((endSession_only i reason s).same .stag rfl)
@[simp] theorem endSession_stag_slot : (endSession i reason s).stag.slot = s.stag.slot :=
  congrArg (·.2.2.2.2.1) ((endSession_only i reason s).same .stag rfl)
@[simp] theorem endSession_stag_trial : (endSession i reason s).stag.trial = s.stag.trial :=
  congrArg (·.2.2.2.2.2.1) ((endSession_only i reason s).same .stag rfl)
@[simp] theorem endSession_stag_trialSince : (endSession i reason s).stag.trialSince = s.stag.trialSince :=
  congrArg (·.2.2.2.2.2.2) ((endSession_only i reason s).same .stag rfl)
@[simp] theorem endSession_stag_opBase : (endSession i reason s).stag.opBase = s.stag.opBase :=
  congrArg (·.1) ((endSession_only i reason s).same .clocks rfl)
@[simp] theorem endSession_stag_opAt : (endSession i reason s).stag.opAt = s.stag.opAt :=
  congrArg (·.2.1) ((endSession_only i reason s).same .clocks rfl)
@[simp] theorem endSession_stag_opRuns : (endSession i reason s).stag.opRuns = s.stag.opRuns :=
  congrArg (·.2.2.1) ((endSession_only i reason s).same .clocks rfl)
@[simp] theorem endSession_stag_caughtUp : (endSession i reason s).stag.caughtUp = s.stag.caughtUp :=
  congrArg (·.2.2.2.1) ((endSession_only i reason s).same .clocks rfl)
@[simp] theorem endSession_stag_utcBase : (endSession i reason s).stag.utcBase = s.stag.utcBase :=
  congrArg (·.2.2.2.2.1) ((endSession_only i reason s).same .clocks rfl)
@[simp] theorem endSession_stag_utcAt : (endSession i reason s).stag.utcAt = s.stag.utcAt :=
  congrArg (·.2.2.2.2.2.1) ((endSession_only i reason s).same .clocks rfl)
@[simp] theorem endSession_stag_utcValid : (endSession i reason s).stag.utcValid = s.stag.utcValid :=
  congrArg (·.2.2.2.2.2.2) ((endSession_only i reason s).same .clocks rfl)
@[simp] theorem endSession_stag_therm : (endSession i reason s).stag.therm = s.stag.therm :=
  congrArg (·.1) ((endSession_only i reason s).same .sensors rfl)
@[simp] theorem endSession_stag_vmon : (endSession i reason s).stag.vmon = s.stag.vmon :=
  congrArg (·.2.1) ((endSession_only i reason s).same .sensors rfl)
@[simp] theorem endSession_stag_ntc : (endSession i reason s).stag.ntc = s.stag.ntc :=
  congrArg (·.2.2) ((endSession_only i reason s).same .sensors rfl)
@[simp] theorem endSession_stag_slotA : (endSession i reason s).stag.slotA = s.stag.slotA :=
  congrArg (·.1) ((endSession_only i reason s).same .slots rfl)
@[simp] theorem endSession_stag_slotB : (endSession i reason s).stag.slotB = s.stag.slotB :=
  congrArg (·.2.1) ((endSession_only i reason s).same .slots rfl)
@[simp] theorem endSession_stag_activation : (endSession i reason s).stag.activation = s.stag.activation :=
  congrArg (·.2.2) ((endSession_only i reason s).same .slots rfl)
@[simp] theorem endSession_stag_imageLen : (endSession i reason s).stag.imageLen = s.stag.imageLen :=
  congrArg (·.1) ((endSession_only i reason s).same .image rfl)
@[simp] theorem endSession_stag_image : (endSession i reason s).stag.image = s.stag.image :=
  congrArg (·.2) ((endSession_only i reason s).same .image rfl)
@[simp] theorem endSession_link : (endSession i reason s).link = s.link := (endSession_only i reason s).same .link rfl
@[simp] theorem endSession_aux : (endSession i reason s).aux = s.aux := (endSession_only i reason s).same .aux rfl
@[simp] theorem endSession_rx : (endSession i reason s).rx = s.rx := (endSession_only i reason s).same .rx rfl
@[simp] theorem endSession_raster : (endSession i reason s).raster = s.raster := (endSession_only i reason s).same .raster rfl
@[simp] theorem endSession_pipe : (endSession i reason s).pipe = s.pipe := (endSession_only i reason s).pipe rfl rfl
@[simp] theorem endSession_out : (endSession i reason s).out = s.out := (endSession_only i reason s).same .out rfl
@[simp] theorem endSession_panel : (endSession i reason s).panel = s.panel := (endSession_only i reason s).same .panel rfl
@[simp] theorem endSession_fstore : (endSession i reason s).fstore = s.fstore := (endSession_only i reason s).same .fstore rfl
@[simp] theorem endSession_dram : (endSession i reason s).dram = s.dram := (endSession_only i reason s).same .dram rfl
@[simp] theorem endSession_sram : (endSession i reason s).sram = s.sram := (endSession_only i reason s).sram rfl rfl
@[simp] theorem endSession_resil : (endSession i reason s).resil = s.resil := (endSession_only i reason s).same .resil rfl
@[simp] theorem endSession_power : (endSession i reason s).power = s.power := (endSession_only i reason s).same .power rfl
@[simp] theorem endSession_pins : (endSession i reason s).pins = s.pins := (endSession_only i reason s).same .pins rfl
@[simp] theorem endSession_free : (endSession i reason s).free = s.free := (endSession_only i reason s).same .free rfl
@[simp] theorem endSession_pending : (endSession i reason s).pending = s.pending := (endSession_only i reason s).same .pending rfl
end

end Sys2Proof.Machine
end

