-- ==== Sys2Proof/Laws/Results.lean ====
section
/-! SUPPORT. Results read back: what a unit's result holds after it is written, which units' results the raising of an event
leaves alone, and LAST_EVENT after an event. -/

set_option Elab.async false

namespace Sys2Proof.Machine

/-! ### Writing one result -/

theorem resI_setResAt_self (h p i : Nat) (v : Int) (s : State) (c : s.Canonical) : resI (setResAt h p i v s) h p i = v :=
  mget_mput_self 0 s.dict.res (cell h p i) v c.results

theorem resI_setResAt_other {h p i h' p' i' : Nat} (v : Int) (s : State) (c : s.Canonical) (hne : cell h' p' i' ≠ cell h p i) :
    resI (setResAt h p i v s) h' p' i' = resI s h' p' i' :=
  mget_mput_other 0 s.dict.res (cell h p i) (cell h' p' i') v hne c.results

theorem resI_setRes_self (h p v : Nat) (s : State) (c : s.Canonical) : resI (setRes h p v s) h p = v :=
  resI_setResAt_self h p 0 v s c

theorem res_setRes_self (h p v : Nat) (s : State) (c : s.Canonical) : res (setRes h p v s) h p = v := by
  unfold res; rw [resI_setRes_self h p v s c]; rfl

theorem res_setRes_other {h p h' p' i' : Nat} (v : Nat) (s : State) (c : s.Canonical) (hne : cell h' p' i' ≠ cell h p 0) :
    res (setRes h p v s) h' p' i' = res s h' p' i' := by
  unfold res; exact congrArg _ (resI_setResAt_other v s c hne)

theorem res_changeRes_self (h p v : Nat) (s : State) (c : s.Canonical) : res (changeRes h p v s) h p = v := by
  unfold changeRes
  split
  · assumption
  · exact res_setRes_self h p v s c

theorem res_changeRes_other {h p h' p' i' : Nat} (v : Nat) (s : State) (c : s.Canonical) (hne : cell h' p' i' ≠ cell h p 0) :
    res (changeRes h p v s) h' p' i' = res s h' p' i' := by
  unfold changeRes
  split
  · rfl
  · exact res_setRes_other v s c hne

theorem res_incSat_self (h p n : Nat) (s : State) (c : s.Canonical) (hb : res s h p ≤ max32) :
    res (incSat h p n s) h p = min (res s h p + n) max32 := by
  unfold incSat
  split
  · subst n; omega
  · exact res_setRes_self _ _ _ s c

theorem res_incSat_other {h p h' p' i' : Nat} (n : Nat) (s : State) (c : s.Canonical) (hne : cell h' p' i' ≠ cell h p 0) :
    res (incSat h p n s) h' p' i' = res s h' p' i' := by
  unfold incSat
  split
  · rfl
  · exact res_setRes_other _ s c hne

theorem res_incWrap_self (h p n : Nat) (s : State) (c : s.Canonical) (hn : n ≠ 0) :
    res (incWrap h p n s) h p = (res s h p + n) % w32 := by
  unfold incWrap
  rw [if_neg hn]
  exact res_setRes_self _ _ _ s c

theorem cell_ne_of_unit {h p i h' p' i' : Nat} (hh : h ≠ h') (hp : p < 4096) (hi : i < 4294967296) (hp' : p' < 4096)
    (hi' : i' < 4294967296) : cell h' p' i' ≠ cell h p i := by
  unfold cell
  omega

/-! ### Units left alone -/

/-- Only the results of the units listed may change. -/
structure Quiet (hs : List Nat) (s t : State) : Prop where
  canon : s.Canonical → t.Canonical
  same  : s.Canonical → ∀ h p i, hs.contains h = false → p < 4096 → i < 4294967296 → resI t h p i = resI s h p i

theorem Quiet.trans {hs : List Nat} {s t u : State} (a : Quiet hs s t) (b : Quiet hs t u) : Quiet hs s u :=
  ⟨fun c => b.canon (a.canon c), fun c h p i hh hp hi => (b.same (a.canon c) h p i hh hp hi).trans (a.same c h p i hh hp hi)⟩

theorem Quiet.refl {hs : List Nat} (s : State) : Quiet hs s s := ⟨id, fun _ _ _ _ _ _ _ => rfl⟩

/-- What changes no result changes none. -/
theorem Quiet.of_only {hs : List Nat} {ps : List Part} {s t : State} (h : Only ps s t) (hp : ps.contains .results = false) :
    Quiet hs s t :=
  ⟨h.kept.canon, fun _ _ _ _ _ _ _ => by unfold resI; rw [show t.dict.res = s.dict.res from congrArg (·.1) (h.same .results hp)]⟩

theorem Quiet.setResAt {hs : List Nat} {h p i : Nat} (v : Int) (s : State) (hh : hs.contains h = true) (hp : p < 4096)
    (hi : i < 4294967296) : Quiet hs s (setResAt h p i v s) := by
  refine ⟨(setResAt_only ..).kept.canon, fun c h' p' i' hh' hp' hi' => ?_⟩
  refine resI_setResAt_other v s c (cell_ne_of_unit ?_ hp hi hp' hi')
  intro e; subst e; simp_all

theorem Quiet.setRes {hs : List Nat} {h p : Nat} (v : Nat) (s : State) (hh : hs.contains h = true) (hp : p < 4096) :
    Quiet hs s (Machine.setRes h p v s) := Quiet.setResAt _ s hh hp (by decide)

theorem Quiet.changeRes {hs : List Nat} {h p : Nat} (v : Nat) (s : State) (hh : hs.contains h = true) (hp : p < 4096) :
    Quiet hs s (Machine.changeRes h p v s) := by
  unfold Machine.changeRes
  split
  · exact .refl s
  · exact .setRes v s hh hp

theorem Quiet.incSat {hs : List Nat} {h p : Nat} (n : Nat) (s : State) (hh : hs.contains h = true) (hp : p < 4096) :
    Quiet hs s (Machine.incSat h p n s) := by
  unfold Machine.incSat
  split
  · exact .refl s
  · exact .setRes _ s hh hp

/-- The units whose results tell of the log and of the notifications. -/
abbrev logUnits : List Nat := [hLOG, hPSTORE, hHOSTPORT, hFIELDPORT, hAUXPORT]

theorem Quiet.foldl {α : Type} {hs : List Nat} {g : State → α → State} (hg : ∀ t a, Quiet hs t (g t a)) :
    ∀ (l : List α) (t : State), Quiet hs t (l.foldl g t)
  | [], t => .refl t
  | a :: l, t => (hg t a).trans (Quiet.foldl hg l (g t a))

theorem portUnit_log (i : PortId) : logUnits.contains (portUnit i) = true := by cases i <;> decide

theorem bumpGen_quiet {hs : List Nat} (h p : Nat) (s : State) : Quiet hs s (bumpGen h p s) :=
  ⟨(bumpGen_only ..).kept.canon, fun _ _ _ _ _ _ _ => rfl⟩

theorem showLog_quiet (n : Nat) (s : State) : Quiet logUnits s (showLog n s) := by
  unfold showLog
  extract_lets a b c
  have ha : Quiet logUnits s a := .setRes _ _ (by decide) (by decide)
  have hb : Quiet logUnits a b := by
    subst b; split
    · exact .setRes _ _ (by decide) (by decide)
    · split
      · exact .setRes _ _ (by decide) (by decide)
      · exact .refl _
  have hc : Quiet logUnits b c := .setRes _ _ (by decide) (by decide)
  have hd : Quiet logUnits c (Machine.setRes hPSTORE Par.PSTORE_LOG_WAITING (logWaiting c) c) := .setRes _ _ (by decide) (by decide)
  exact (((ha.trans hb).trans hc).trans hd).trans (bumpGen_quiet ..)

theorem assignRecord_quiet (e : Event) (s : State) : Quiet logUnits s (assignRecord e s) := by
  unfold assignRecord
  extract_lets r
  refine .trans ?_ (showLog_quiet ..)
  split
  · exact .trans (.of_only (placeRecord_only ..) (by decide)) (.of_only (flushGather_only ..) (by decide))
  · exact .of_only (placeRecord_only ..) (by decide)

theorem sendNote_quiet (i : PortId) (r : Nat) (e : Event) (s : State) : Quiet logUnits s (sendNote i r e s) := by
  unfold sendNote
  extract_lets p
  split
  · exact .trans (.of_only (setPort_only ..) (by decide)) (.incSat _ _ (portUnit_log i) (by decide))
  · exact .trans (.of_only (setPort_only ..) (by decide)) (.of_only (pushOut_only ..) (by decide))

theorem noteLast_quiet {hs : List Nat} (code handle : Nat) (s : State) : Quiet hs s (noteLast code handle s) :=
  .of_only (noteLast_only ..) (by decide)

theorem recordLost_quiet (i : PortId) (s : State) : Quiet logUnits s (recordLost i s).2 := by
  unfold recordLost
  split
  · exact .refl _
  · exact .trans (.of_only (setPort_only ..) (by decide))
      (.trans (noteLast_quiet ..) (.trans (assignRecord_quiet ..) (sendNote_quiet ..)))

theorem passLost_quiet (i : PortId) (x : Option (Nat × Event)) (s : State) : Quiet logUnits s (passLost i x s) := by
  unfold passLost
  split
  · exact .refl _
  · refine .foldl (fun t j => ?_) _ _
    split
    · exact sendNote_quiet ..
    · exact .refl _

theorem notifyAll_quiet (r : Nat) (e : Event) (s : State) : Quiet logUnits s (notifyAll r e s) := by
  unfold notifyAll
  refine .foldl (fun t i => ?_) _ _
  split
  · exact sendNote_quiet ..
  · exact .refl _

theorem Quiet.foldl2 {α β : Type} {hs : List Nat} {g : β × State → α → β × State} (hg : ∀ x a, Quiet hs x.2 (g x a).2) :
    ∀ (l : List α) (x : β × State), Quiet hs x.2 (l.foldl g x).2
  | [], x => .refl x.2
  | a :: l, x => (hg x a).trans (Quiet.foldl2 hg l (g x a))

theorem tellLost_quiet (e : Event) (s : State) : Quiet logUnits s (tellLost e s) := by
  unfold tellLost
  extract_lets l x
  have hx : Quiet logUnits s x.2 := by
    subst x
    refine Quiet.foldl2 (fun x i => ?_) l ([], s)
    exact recordLost_quiet i x.2
  exact hx.trans (.foldl (fun _ _ => passLost_quiet ..) _ _)

theorem recordEvent_quiet (e : Event) (s : State) : Quiet logUnits s (recordEvent e s) :=
  ((assignRecord_quiet e s).trans (tellLost_quiet ..)).trans (notifyAll_quiet ..)

theorem tellNotLogged_quiet (s : State) : Quiet logUnits s (tellNotLogged s) := by
  unfold tellNotLogged
  split
  · exact .trans (.of_only (ps := [.storeQueue]) (Only.upd_storeQueue (Only.refl s)) (by decide))
      ((noteLast_quiet ..).trans (recordEvent_quiet ..))
  · exact .refl _

theorem logEvent_quiet (e : Event) (s : State) : Quiet logUnits s (logEvent e s) := by
  unfold logEvent
  split
  · exact .refl _
  · extract_lets a
    have ha : Quiet logUnits s a := tellNotLogged_quiet s
    clear_value a
    split
    · exact .trans (ha.trans (.of_only (ps := [.storeQueue]) (Only.upd_storeQueue (Only.refl a)) (by decide)))
        (.incSat _ _ (by decide) (by decide))
    · exact ha.trans (.trans (.of_only (noteLimit_only ..) (by decide)) (recordEvent_quiet ..))

theorem holdEvent_quiet (e : Event) (s : State) : Quiet logUnits s (holdEvent e s) := by
  unfold holdEvent
  split
  · exact .trans (.of_only (ps := [.heldEvents]) (Only.upd_heldEvents (Only.refl s)) (by decide)) (.incSat _ _ (by decide) (by decide))
  · exact .of_only (ps := [.heldEvents]) (Only.upd_heldEvents (Only.refl s)) (by decide)

theorem keepEvent_quiet (e : Event) (s : State) : Quiet logUnits s (keepEvent e s) := by
  unfold keepEvent
  split
  · exact logEvent_quiet ..
  · exact holdEvent_quiet ..

/-- Raising an event changes no other unit's results. -/
theorem raise_quiet (code handle : Nat) (data : List Nat) (s : State) : Quiet logUnits s (raise code handle data s) := by
  unfold raise
  extract_lets a
  have ha : Quiet logUnits s a := noteLast_quiet ..
  split
  · exact ha
  · exact ha.trans (keepEvent_quiet ..)

theorem resI_raise {h p i : Nat} (code handle : Nat) (data : List Nat) (s : State) (c : s.Canonical)
    (hh : logUnits.contains h = false) (hp : p < 4096) (hi : i < 4294967296) :
    resI (raise code handle data s) h p i = resI s h p i := (raise_quiet ..).same c h p i hh hp hi

theorem res_raise {h p i : Nat} (code handle : Nat) (data : List Nat) (s : State) (c : s.Canonical)
    (hh : logUnits.contains h = false) (hp : p < 4096) (hi : i < 4294967296) :
    res (raise code handle data s) h p i = res s h p i := congrArg Int.toNat (resI_raise code handle data s c hh hp hi)

theorem settle_quiet (s : State) : Quiet (hSTAG :: logUnits) s (settle s) := by
  have up : ∀ {a b : State}, Quiet logUnits a b → Quiet (hSTAG :: logUnits) a b := fun q =>
    ⟨q.canon, fun c h p i hh hp hi => q.same c h p i (by simp_all) hp hi⟩
  have hb : ∀ c, Quiet (hSTAG :: logUnits) s (showFaults c s) := fun c =>
    .trans (.of_only (ps := [.resil]) (Only.upd_resil (Only.refl s)) (by decide)) (.setRes _ _ (by decide) (by decide))
  unfold settle
  extract_lets c
  split
  · exact .refl _
  · split
    · exact (hb c).trans (up (raise_quiet ..))
    · split
      · exact (hb c).trans (up (raise_quiet ..))
      · exact hb c

theorem res_settle {h p i : Nat} (s : State) (c : s.Canonical) (hh : (hSTAG :: logUnits).contains h = false) (hp : p < 4096)
    (hi : i < 4294967296) : res (settle s) h p i = res s h p i :=
  congrArg Int.toNat ((settle_quiet s).same c h p i hh hp hi)

/-! ### LAST_EVENT -/

/-- LAST_EVENT of every unit is as it was but for the units listed. -/
structure Unheard (hs : List Nat) (s t : State) : Prop where
  canon : s.Canonical → t.Canonical
  last  : s.Canonical → ∀ h, hs.contains h = false → mget (0, 0) t.dict.lastEvent h = mget (0, 0) s.dict.lastEvent h

theorem Unheard.trans {hs : List Nat} {s t u : State} (a : Unheard hs s t) (b : Unheard hs t u) : Unheard hs s u :=
  ⟨fun c => b.canon (a.canon c), fun c h hh => (b.last (a.canon c) h hh).trans (a.last c h hh)⟩

theorem Unheard.refl {hs : List Nat} (s : State) : Unheard hs s s := ⟨id, fun _ _ _ => rfl⟩

theorem Unheard.of_only {hs : List Nat} {ps : List Part} {s t : State} (h : Only ps s t) (hp : ps.contains .events = false) :
    Unheard hs s t := ⟨h.kept.canon, fun _ _ _ => by rw [h.dict_lastEvent hp]⟩

theorem Unheard.foldl {α : Type} {hs : List Nat} {g : State → α → State} (hg : ∀ t a, Unheard hs t (g t a)) :
    ∀ (l : List α) (t : State), Unheard hs t (l.foldl g t)
  | [], t => .refl t
  | a :: l, t => (hg t a).trans (Unheard.foldl hg l (g t a))

theorem Unheard.foldl2 {α β : Type} {hs : List Nat} {g : β × State → α → β × State} (hg : ∀ x a, Unheard hs x.2 (g x a).2) :
    ∀ (l : List α) (x : β × State), Unheard hs x.2 (l.foldl g x).2
  | [], x => .refl x.2
  | a :: l, x => (hg x a).trans (Unheard.foldl2 hg l (g x a))

theorem noteLast_unheard {hs : List Nat} (code handle : Nat) (s : State) (hh : hs.contains handle = true) :
    Unheard hs s (noteLast code handle s) := by
  refine ⟨(noteLast_only ..).kept.canon, fun c h hc => mget_mput_other _ _ _ _ _ ?_ c.last⟩
  intro e; subst e; simp_all

/-- The units that tell of what was lost or not logged: PSTORE and the ports. -/
abbrev lostUnits : List Nat := [hPSTORE, hHOSTPORT, hFIELDPORT, hAUXPORT]

theorem portUnit_lost (i : PortId) : lostUnits.contains (portUnit i) = true := by cases i <;> decide

theorem recordLost_unheard (i : PortId) (s : State) : Unheard lostUnits s (recordLost i s).2 := by
  unfold recordLost
  split
  · exact .refl _
  · exact .trans (.of_only (setPort_only ..) (by decide))
      (.trans (noteLast_unheard _ _ _ (portUnit_lost i)) (.trans (.of_only (assignRecord_only ..) (by decide))
        (.of_only (sendNote_only ..) (by decide))))

theorem tellLost_unheard (e : Event) (s : State) : Unheard lostUnits s (tellLost e s) := by
  unfold tellLost
  extract_lets l x
  have hx : Unheard lostUnits s x.2 := by
    subst x
    refine Unheard.foldl2 (fun x i => ?_) l ([], s)
    exact recordLost_unheard i x.2
  exact hx.trans (.foldl (fun t y => .of_only (passLost_only ..) (by decide)) _ _)

theorem recordEvent_unheard (e : Event) (s : State) : Unheard lostUnits s (recordEvent e s) :=
  (Unheard.trans (.of_only (assignRecord_only e s) (by decide)) (tellLost_unheard ..)).trans (.of_only (notifyAll_only ..) (by decide))

theorem keepEvent_unheard (e : Event) (s : State) : Unheard lostUnits s (keepEvent e s) := by
  unfold keepEvent
  split
  · unfold logEvent
    split
    · exact .refl _
    · extract_lets a
      have ha : Unheard lostUnits s a := by
        subst a
        unfold tellNotLogged
        split
        · exact .trans (.of_only (ps := [.storeQueue]) (Only.upd_storeQueue (Only.refl s)) (by decide))
            ((noteLast_unheard _ _ _ (by decide)).trans (recordEvent_unheard ..))
        · exact .refl _
      clear_value a
      split
      · exact .trans (ha.trans (.of_only (ps := [.storeQueue]) (Only.upd_storeQueue (Only.refl a)) (by decide)))
          (.of_only (incSat_only ..) (by decide))
      · refine ha.trans (.trans ?_ (recordEvent_unheard ..))
        refine ⟨(noteLimit_only ..).kept.canon, fun _ h _ => ?_⟩
        unfold noteLimit; split <;> rfl
  · exact .of_only (holdEvent_only ..) (by decide)

/-- The unit's own LAST_EVENT is the event raised, numbered next; PSTORE and the ports may tell more in the same step. -/
theorem raise_lastEvent_self (code : Nat) {handle : Nat} (data : List Nat) (s : State) (c : s.Canonical)
    (hh : lostUnits.contains handle = false) :
    mget (0, 0) (raise code handle data s).dict.lastEvent handle = (s.dict.ordinal + 1, code) := by
  have hn : mget (0, 0) (noteLast code handle s).dict.lastEvent handle = (s.dict.ordinal + 1, code) := mget_mput_self _ _ _ _ c.last
  unfold raise
  extract_lets a
  split
  · exact hn
  · exact ((keepEvent_unheard _ a).last ((noteLast_only ..).kept.canon c) _ hh).trans hn

theorem raise_unheard {hs : List Nat} (code : Nat) {handle : Nat} (data : List Nat) (s : State) (hl : ∀ h, hs.contains h = false →
    lostUnits.contains h = false) (hh : hs.contains handle = true) : Unheard hs s (raise code handle data s) := by
  have up : ∀ {a b : State}, Unheard lostUnits a b → Unheard hs a b := fun q => ⟨q.canon, fun c h h' => q.last c h (hl h h')⟩
  unfold raise
  extract_lets a
  have ha : Unheard hs s a := noteLast_unheard _ _ _ hh
  split
  · exact ha
  · exact ha.trans (up (keepEvent_unheard ..))

theorem raise_lastEvent_other (code : Nat) {handle h : Nat} (data : List Nat) (s : State) (c : s.Canonical)
    (hh : (handle :: lostUnits).contains h = false) :
    mget (0, 0) (raise code handle data s).dict.lastEvent h = mget (0, 0) s.dict.lastEvent h :=
  (raise_unheard (hs := handle :: lostUnits) code data s (fun _ q => by simp_all) (by simp)).last c h hh

theorem showFaults_canon (n : Nat) (s : State) (c : s.Canonical) : (showFaults n s).Canonical :=
  (showFaults_only ..).kept.canon c

theorem settle_lastEvent_other {h : Nat} (s : State) (c : s.Canonical) (hh : (hSTAG :: lostUnits).contains h = false) :
    mget (0, 0) (settle s).dict.lastEvent h = mget (0, 0) s.dict.lastEvent h := by
  unfold settle
  extract_lets n
  split
  · rfl
  · split
    · exact raise_lastEvent_other _ _ _ (showFaults_canon n s c) hh
    · split
      · exact raise_lastEvent_other _ _ _ (showFaults_canon n s c) hh
      · rfl

end Sys2Proof.Machine
end

