-- ==== Sys2Proof/Laws/Link.lean ====
section
/-! SUPPORT. Where the steps of link training lead (03). -/

set_option Elab.async false

namespace Sys2Proof.Machine

/-! ### Operations that leave the link alone -/

@[simp] theorem auxPush_link (c : Nat) (b : List Nat) (s : State) : (auxPush c b s).link = s.link :=
  (auxPush_only ..).same .link rfl
@[simp] theorem auxPump_link (s : State) : (auxPump s).link = s.link := (auxPump_only ..).same .link rfl
@[simp] theorem showLink_link (s : State) : (showLink s).link = s.link := (showLink_only ..).same .link rfl
@[simp] theorem showLanes_link (s : State) : (showLanes s).link = s.link := (showLanes_only ..).same .link rfl
@[simp] theorem showLane_link (n : Nat) (s : State) : (showLane n s).link = s.link := (showLane_only ..).same .link rfl
@[simp] theorem sendResult_link (o : Nat) (s : State) : (sendResult o s).link = s.link := (sendResult_only ..).same .link rfl
@[simp] theorem sendCredit_link (s : State) : (sendCredit s).link = s.link := (sendCredit_only ..).same .link rfl
@[simp] theorem dropKeys_link (k c : Nat) (s : State) : (dropKeys k c s).link = s.link := (dropKeys_only ..).same .link rfl
@[simp] theorem auxReply_link (f : AuxFrame) (a : List Nat) (s : State) : (auxReply f a s).link = s.link :=
  (auxReply_only ..).same .link rfl
@[simp] theorem noteLockLost_link (c n : Nat) (s : State) : (noteLockLost c n s).link = s.link :=
  (noteLockLost_only ..).same .link rfl
@[simp] theorem linkDown_link (s : State) : (linkDown s).link = s.link := (linkDown_only ..).same .link rfl

/-! ### The lanes of a training -/

theorem lane_setLane (n k : Nat) (x : LaneSt) (s : State) (h : mwf {} s.link.lanes = true) :
    lane (setLane n x s) k = if k = n then x else lane s k := by
  unfold lane
  split
  · subst k; exact mget_mput_self _ _ _ _ h
  · exact mget_mput_other _ _ _ _ _ ‹_› h

/-- Only the lanes, and whether any has locked, may differ. -/
def LanesOnly (s t : State) : Prop := ∃ ls b, t.link = { s.link with lanes := ls, anyLock := b }

theorem LanesOnly.refl (s : State) : LanesOnly s s := ⟨_, _, rfl⟩
theorem LanesOnly.trans {s t u : State} (h : LanesOnly s t) (h' : LanesOnly t u) : LanesOnly s u := by
  obtain ⟨a, b, h⟩ := h
  obtain ⟨c, d, h'⟩ := h'
  exact ⟨c, d, by rw [h', h]⟩
theorem LanesOnly.setLane (n : Nat) (x : LaneSt) (s : State) : LanesOnly s (Machine.setLane n x s) := ⟨_, _, rfl⟩
theorem LanesOnly.of_eq {s t : State} (h : t.link = s.link) : LanesOnly s t := ⟨_, _, h⟩
theorem LanesOnly.of_only {ps : List Part} {s t : State} (h : Only ps s t) (hp : ps.contains .link = false) : LanesOnly s t :=
  .of_eq (h.same .link hp)
theorem LanesOnly.foldl {α : Type} {g : State → α → State} (hg : ∀ t a, LanesOnly t (g t a)) :
    ∀ (l : List α) (t : State), LanesOnly t (l.foldl g t)
  | [], t => .refl t
  | a :: l, t => (hg t a).trans (LanesOnly.foldl hg l (g t a))

theorem idleLanes_lanes (s : State) : LanesOnly s (idleLanes s) := .foldl (fun t _ => .setLane _ _ t) _ _
theorem armLanes_lanes (l : List Nat) (s : State) : LanesOnly s (armLanes l s) := .foldl (fun t _ => .setLane _ _ t) _ _
theorem excludeFrom_lanes (k n : Nat) (s : State) : LanesOnly s (excludeFrom k n s) := .setLane ..
theorem excludeAll_lanes (k : Nat) (l : List Nat) (s : State) : LanesOnly s (excludeAll k l s) :=
  .foldl (fun t _ => excludeFrom_lanes _ _ t) _ _
theorem excludeWeak_lanes (s : State) : LanesOnly s (excludeWeak s) := .foldl (fun t _ => excludeFrom_lanes _ _ t) _ _
theorem keepSnapshots_lanes (s : State) : LanesOnly s (keepSnapshots s) := .foldl (fun t _ => .setLane _ _ t) _ _
theorem takeSnapshots_lanes (s : State) : LanesOnly s (takeSnapshots s) :=
  .foldl (fun t _ => by
    split
    · exact .trans (.setLane _ _ t) (.of_eq (showLane_link ..))
    · exact .refl t) _ _
theorem endLane_lanes (act : List Nat) (n : Nat) (s : State) : LanesOnly s (endLane act n s) := by
  unfold endLane
  extract_lets x h c a b
  split
  · exact .trans (.setLane ..) (.of_only (changeRes_only ..) rfl)
  · have hb : LanesOnly s b := (LanesOnly.setLane ..).trans (.trans (.of_only (setRes_only ..) rfl) (.of_only (raise_only ..) rfl))
    split
    · exact hb
    · exact hb.trans (.trans (.setLane ..) (.trans (.of_only (fellRecord_only ..) rfl) (.of_only (raise_only ..) rfl)))
theorem endEpisode_lanes (act : List Nat) (s : State) : LanesOnly s (endEpisode act s) := by
  unfold endEpisode
  split
  · exact .refl s
  · exact .foldl (fun t _ => endLane_lanes ..) _ _
theorem makeWeak_lanes (k n : Nat) (s : State) : LanesOnly s (makeWeak k n s) := .setLane ..
theorem LanesOnly.showLane {s t : State} (n : Nat) (h : LanesOnly s t) : LanesOnly s (Machine.showLane n t) :=
  h.trans (.of_eq (showLane_link ..))
theorem bitlockLane_lanes (rs : List LaneReport) (n : Nat) (s : State) : LanesOnly s (bitlockLane rs n s) := by
  unfold bitlockLane
  split
  · exact makeWeak_lanes ..
  · dsimp only
    refine .showLane n ?_
    have h : LanesOnly s (draw s).2 := .of_only (draw_only s) rfl
    split
    · exact h.trans (.trans (.setLane ..) ⟨_, _, rfl⟩)
    · exact h.trans (.trans (.setLane ..) (makeWeak_lanes ..))
theorem blocklockLane_lanes (rs : List LaneReport) (n : Nat) (s : State) : LanesOnly s (blocklockLane rs n s) := by
  unfold blocklockLane
  split
  · exact makeWeak_lanes ..
  · exact .showLane n (.setLane ..)
theorem deskewLane_lanes (m : Nat) (l : List Nat) (rs : List LaneReport) (n : Nat) (s : State) : LanesOnly s (deskewLane m l rs n s) := by
  unfold deskewLane
  split
  · exact .setLane ..
  · split
    · exact .setLane ..
    · dsimp only
      split
      · exact .trans (.showLane n (.setLane ..)) (.setLane ..)
      · exact .showLane n (.setLane ..)

/-! ### States -/

/-- The link is in the state it passed to, from this moment. -/
theorem setPhase_link (p : LinkPhase) (s : State) : (setPhase p s).link = { s.link with phase := p, since := s.now } := by
  unfold setPhase
  simp only [showLanes_link]
  split <;> simp

theorem dropLanes_link (s : State) :
    ∃ ls b, (dropLanes s).link = { s.link with lanes := ls, anyLock := b, map := [], retrainAtBoundary := false } := by
  obtain ⟨ls, b, h⟩ := idleLanes_lanes s
  refine ⟨ls, b, ?_⟩
  unfold dropLanes
  simp only [h]

theorem restoreLanes_link (s : State) : ∃ ls b, (restoreLanes s).link = { s.link with lanes := ls, anyLock := b, powered := true } := by
  obtain ⟨ls, b, h⟩ := takeSnapshots_lanes s
  refine ⟨ls, b, ?_⟩
  unfold restoreLanes
  simp only [h]

/-- BITLOCK begins: the state, the attempt's number, and the reason and the rate kept. -/
theorem trainReq_link (s : State) : (trainReq s).link.phase = .bitlock ∧ (trainReq s).link.since = s.now
    ∧ (trainReq s).link.attempt = (s.link.attempt + 1) % 256 ∧ (trainReq s).link.reason = s.link.reason
    ∧ (trainReq s).link.rate = s.link.rate ∧ (trainReq s).link.tried = lanesToTry s := by
  unfold trainReq
  simp only [auxPush_link, showLink_link, raise_link, changeRes_link, incWrap_link, setPhase_link]
  obtain ⟨ls, b, h⟩ := armLanes_lanes (lanesToTry s) s
  have hn : (armLanes (lanesToTry s) s).now = s.now := (armLanes_only ..).same .now rfl
  simp only [h, hn, and_self]

/-- A training episode begins in BITLOCK, for its reason, with the next attempt. -/
theorem startEpisode_link (r : Nat) (s : State) : (startEpisode r s).link.phase = .bitlock
    ∧ (startEpisode r s).link.reason = r ∧ (startEpisode r s).link.attempt = (s.link.attempt + 1) % 256 := by
  unfold startEpisode
  obtain ⟨ls, b, h⟩ := dropLanes_link (restoreLanes (linkDown s))
  obtain ⟨ls', b', hr⟩ := restoreLanes_link (linkDown s)
  rw [hr] at h
  extract_lets d
  have h' : d.link = _ := h
  clear_value d
  refine ⟨(trainReq_link _).1, (trainReq_link _).2.2.2.1, (trainReq_link _).2.2.1.trans ?_⟩
  show (d.link.attempt + 1) % 256 = _
  rw [h', linkDown_link]

theorem enterDetect_link (r : Nat) (s : State) : (enterDetect r s).link.phase = .detect ∧ (enterDetect r s).link.reason = r := by
  unfold enterDetect
  simp only [auxPush_link, showLink_link, setPhase_link]
  obtain ⟨ls, b, h⟩ := dropLanes_link { restoreLanes s with link.reason := r, link.carries := true }
  simp only [h, and_self]

/-- The wait of R99: 10 ms after a message of the source, doubled by each failure up to 1.28 s. -/
theorem enterBackoff_link (s : State) : (enterBackoff s).link.phase = .backoff
    ∧ (enterBackoff s).link.backoffTo = s.now + backoffMs s.link.failures * tickMs := by
  unfold enterBackoff
  simp only [changeRes_link, showLink_link, setPhase_link]
  refine ⟨trivial, ?_⟩
  rw [show (dropLanes s).now = s.now from (dropLanes_only s).same .now rfl]

@[simp] theorem queueKeysLost_link (h : Nat) (s : State) : (queueKeysLost h s).link = s.link :=
  (queueKeysLost_only ..).same .link rfl
@[simp] theorem recallRequests_link (s : State) : (recallRequests s).link = s.link := (recallRequests_only ..).same .link rfl
@[simp] theorem recallRequests_now (s : State) : (recallRequests s).now = s.now := (recallRequests_only ..).same .now rfl
@[simp] theorem dropKeys_now (k c : Nat) (s : State) : (dropKeys k c s).now = s.now := (dropKeys_only ..).same .now rfl

/-- The partner is lost: BACKOFF, for the wait of R99. -/
theorem partnerLost_link (c : Nat) (s : State) : (partnerLost c s).link.phase = .backoff
    ∧ (partnerLost c s).link.backoffTo = s.now + backoffMs s.link.failures * tickMs := by
  unfold partnerLost
  extract_lets a b d u held
  have eb : b.link = { s.link with lost := true } ∧ b.now = s.now := ⟨linkDown_link _, (linkDown_only _).same .now rfl⟩
  have hd : LanesOnly b d ∧ d.now = b.now := by
    subst d
    split
    · exact ⟨endEpisode_lanes .., (endEpisode_only ..).same .now rfl⟩
    · exact ⟨.refl _, rfl⟩
  have hu : u.link = d.link ∧ u.now = d.now := ⟨raise_link, raise_now⟩
  clear_value b d u held
  obtain ⟨⟨ls, k, hl⟩, nd⟩ := hd
  simp only [queueKeysLost_link, enterBackoff_link, recallRequests_link, recallRequests_now, dropKeys_link, dropKeys_now, hu, nd,
    hl, eb, and_self]

theorem enterVerify_link (s : State) : (enterVerify s).link.phase = .verify ∧ (enterVerify s).link.since = s.now := by
  unfold enterVerify
  simp only [auxPush_link, setPhase_link]
  exact ⟨trivial, (excludeWeak_only s).same .now rfl⟩

theorem activateLanes_failures (act : List Nat) (k : Bool) (s : State) : (activateLanes act k s).link.failures = 0 := by
  unfold activateLanes; extract_lets a b c; rfl

/-- The link goes ACTIVE, and the run of failures ends. -/
theorem goActive_link (act : List Nat) (k : Bool) (s : State) : (goActive act k s).link.phase = .active
    ∧ (goActive act k s).link.failures = 0 := by
  unfold goActive
  generalize hu : activateLanes act k (endEpisode act s) = u
  have h : u.link.failures = 0 := by rw [← hu]; exact activateLanes_failures ..
  have ht : (tellActive act (setPhase .active u)).link = (setPhase .active u).link := (tellActive_only ..).same .link rfl
  rw [ht, setPhase_link]
  exact ⟨rfl, h⟩

/-! ### Settings after a change that leaves them alone -/

theorem afterDeskew_verify (s : State) (h : cfgB s hLINK Par.LINK_TX_EQ_FALLBACK = false) : afterDeskew s = enterVerify s := by
  simp [afterDeskew, h]
theorem cfgI_of_only {ps : List Part} {s t : State} (h : Only ps s t) (h1 : ps.contains .config = false)
    (h2 : ps.contains .storeState = false) (h3 : ps.contains .store = false) (a b c : Nat) : cfgI t a b c = cfgI s a b c := by
  have e1 : t.dict.cfg = s.dict.cfg := h.same .config h1
  have e2 : t.pstore.identityOk = s.pstore.identityOk := h.pstore_identityOk h2
  have e3 : t.pstore.mem = s.pstore.mem := h.same .store h3
  simp only [cfgI, gradeX, e1, e2, e3]
theorem cfgB_of_only {ps : List Part} {s t : State} (h : Only ps s t) (h1 : ps.contains .config = false)
    (h2 : ps.contains .storeState = false) (h3 : ps.contains .store = false) (a b : Nat) : cfgB t a b = cfgB s a b := by
  unfold cfgB; rw [cfgI_of_only h h1 h2 h3]
theorem cfg_of_only {ps : List Part} {s t : State} (h : Only ps s t) (h1 : ps.contains .config = false)
    (h2 : ps.contains .storeState = false) (h3 : ps.contains .store = false) (a b c : Nat) : cfg t a b c = cfg s a b c := by
  unfold cfg; rw [cfgI_of_only h h1 h2 h3]
theorem takeBitlock_link (rs : List LaneReport) (s : State) : (takeBitlock rs s).link.phase = .blocklock
    ∧ (takeBitlock rs s).link.since = s.now := by
  unfold takeBitlock
  simp only [setPhase_link, true_and]
  exact (Only.foldl (ps := [.results, .link, .free]) (fun t a ht => Only.step (bitlockLane_only ..) (by decide) ht) _ _ (Only.refl s)).same .now rfl
theorem takeBlocklock_link (rs : List LaneReport) (s : State) : (takeBlocklock rs s).link.phase = .deskew
    ∧ (takeBlocklock rs s).link.since = s.now := by
  unfold takeBlocklock
  simp only [setPhase_link, true_and]
  exact ((dropTwins_only _).step (qs := [.results, .link]) (by decide) (Only.foldl (fun t a ht => Only.step (blocklockLane_only ..) (by decide) ht) _ _ (Only.refl s))).same .now rfl
theorem takeDeskew_link (rs : List LaneReport) (s : State) (hc : cfgB s hLINK Par.LINK_TX_EQ_FALLBACK = false) :
    (takeDeskew rs s).link.phase = .verify ∧ (takeDeskew rs s).link.since = s.now := by
  unfold takeDeskew
  extract_lets least l aligned
  have hf : Only [.results, .link] s (l.foldl (fun s n => deskewLane least aligned rs n s) s) :=
    Only.foldl (fun t a ht => Only.step (deskewLane_only ..) (by decide) ht) _ _ (Only.refl s)
  generalize List.foldl _ s _ = u at hf
  rw [afterDeskew_verify _ ((cfgB_of_only hf rfl rfl rfl ..).trans hc)]
  exact ⟨(enterVerify_link _).1, (enterVerify_link _).2.trans (hf.same .now rfl)⟩

end Sys2Proof.Machine
end

