-- ==== Sys2Proof/WellFormed.lean ====
section
/-! DEFINITION. Well-formed commands: every operand fits the field of the spec that carries it.  A meaning is defined on
every command; these are the commands that a port, a pin or a partner can really present. -/

namespace Sys2Proof

/-- Every number is a byte. -/
def bytesOk (bs : List Nat) : Bool := bs.all fun b => decide (b < 256)

/-- A request's header: a SEQ byte, and a session tag of 8 bytes where there is one (Table 2.8). -/
def Hdr.wf (h : Hdr) : Bool :=
  decide (h.seq < 256) && match h.tag with
    | none => true
    | some t => t.length == 8 && bytesOk t

/-- An element index is one byte (Table 2.8). -/
def elemOk : Option Nat → Bool
  | none => true
  | some e => decide (e < 256)

/-- A packet's fields (Table 4.1): FLAGS a byte, LENGTH of 2 bytes, ten bytes of fields, the checks. -/
def Packet.wf (p : Packet) : Bool :=
  decide (p.flags < 256) && decide (p.length < 65536) && p.fields.length == 10 && bytesOk p.fields
  && decide (p.hchk < 65536) && bytesOk p.body && decide (p.pchk < 4294967296)

/-- A block: 4 bits of type and 16 payload bytes (R82). -/
def Block.wf (b : Block) : Bool := decide (b.type < 16) && b.payload.length == 16 && bytesOk b.payload

/-- A lane's report names a lane, CTLE settings, margins and blocks. -/
def LaneReport.wf (r : LaneReport) : Bool :=
  decide (r.lane < 16) && r.eye.all (fun e => decide (e.1 ≤ 40) && decide (e.2 < 256)) && r.blocks.all Block.wf
  && match r.sync with
    | none => true
    | some (_, b) => b.wf

/-- An AUX frame's fields (Table 4.6). -/
def AuxFrame.wf (f : AuxFrame) : Bool :=
  decide (f.byte0 < 256) && decide (f.id < 256) && decide (f.len < 65536) && bytesOk f.payload && decide (f.check < 65536)

/-- Symbols in error of a codeword of `n` symbols: (position, error value), each position once. -/
def errorsOk (n : Nat) (es : List (Nat × Nat)) : Bool :=
  (es.all fun e => decide (e.1 < n) && decide (0 < e.2) && decide (e.2 < 256)) && decide (es.map Prod.fst).Nodup

/-- The symbols in error on the reads of an SRAM word: the 3 address symbols are not stored (R361). -/
def wordReadsOk (rs : List (List (Nat × Nat))) : Bool := rs.all fun es => errorsOk 40 es && es.all fun e => decide (3 ≤ e.1)

/-- An atomic operation's operand: S32 for the sums, U32 for SWAP (Table 14.2). -/
def AtomicOp.wf : AtomicOp → Bool
  | .addWrap d => decide (-2147483648 ≤ d) && decide (d < 2147483648)
  | .addSat d => decide (-2147483648 ≤ d) && decide (d < 2147483648)
  | .swap v => decide (v < 4294967296)

/-- A word's offset in its bank (R360). -/
def wordOffsetOk (o : Nat) : Bool := decide (o < 4194304) && o % 32 == 0

/-- An access of an SRAM port lies in its bank, on a word, and names the lanes of the word (R360, R363). -/
def SramOp.wf : SramOp → Bool
  | .read o rs => wordOffsetOk o && wordReadsOk rs
  | .write o ls rs => wordOffsetOk o && wordReadsOk rs
      && (ls.all fun l => decide (l.1 < 8) && decide (l.2 < 4294967296)) && decide (ls.map Prod.fst).Nodup
  | .atomic o l f rs => wordOffsetOk o && wordReadsOk rs && decide (l < 8) && f.wf

/-- A well-formed command. -/
def Instr.wf : Instr → Bool
  | .read h u p e d => h.wf && decide (u < 65536) && decide (p < 4096) && elemOk e && bytesOk d
  | .write h u p e d => h.wf && decide (u < 65536) && decide (p < 4096) && elemOk e && bytesOk d
  | .openReq h l d => h.wf && decide (l < 256) && bytesOk d
  | .prove h d => h.wf && bytesOk d
  | .close h => h.wf
  | .nop h => h.wf
  | .commit h v => h.wf && decide (v < 65536)
  | .store h v => h.wf && decide (v < 65536)
  | .restoreDefaults h v => h.wf && decide (v < 65536)
  | .shadowDiscard h v => h.wf && decide (v < 65536)
  | .utcSet h v => h.wf && decide (v < 4294967296)
  | .powerRequestOn h => h.wf
  | .powerRequestStandby h => h.wf
  | .powerRequestOff h => h.wf
  | .restart h v => h.wf && decide (v < 65536)
  | .lifecycleRequest h t u => h.wf && decide (t < 256) && u.length == 8 && bytesOk u
  | .operatorPassword h o d => h.wf && decide (o < 4294967296) && bytesOk d
  | .integratorKey h d => h.wf && d.length == 32 && bytesOk d
  | .attestChallenge h d => h.wf && d.length == 32 && bytesOk d
  | .attestationDone => true
  | .linkRetrain h v => h.wf && decide (v < 65536)
  | .portRetrain h p v => h.wf && decide (p < 64) && decide (v < 65536)
  | .sweepStart h v => h.wf && decide (v < 65536)
  | .mapSave h v => h.wf && decide (v < 65536)
  | .mapReload h v => h.wf && decide (v < 65536)
  | .updateBegin h v => h.wf && decide (v < 4294967296)
  | .updateImage h o d => h.wf && decide (o < 4294967296) && bytesOk d
  | .updateVerify h v => h.wf && decide (v < 65536)
  | .imageVerified => true
  | .activateAtRestart h => h.wf
  | .activateNow h => h.wf
  | .flashOperationComplete _ => true
  | .confirm h v => h.wf && decide (v < 65536)
  | .retire h c => h.wf && decide (c < 256)
  | .fell h s t v => h.wf && decide (s < 8) && decide (t < 9) && decide (v < 256)
  | .reinstate h v => h.wf && decide (v < 65536)
  | .stressSet h o d => h.wf && decide (o < 4294967296) && bytesOk d
  | .ovlMemWrite h o d => h.wf && decide (o < 4294967296) && bytesOk d
  | .bufTableWrite h _ e vs => h.wf && elemOk e && vs.all fun v => decide (v < 4294967296)
  | .drvRegsWrite h o d => h.wf && decide (o < 4294967296) && bytesOk d
  | .ntcEnableWrite h n v => h.wf && decide (n < 4) && decide (v < 256)
  | .ctrlportEnableWrite h _ v => h.wf && decide (v < 256)
  | .spiStatus => true
  | .spiWriteFrame bs => bytesOk bs
  | .spiReadFrame _ => true
  | .i3cPrivateWrite bs => bytesOk bs
  | .i3cPrivateRead _ => true
  | .i3cEntdaa a => decide (a < 128)
  | .i3cSetdasa a b => decide (a < 128) && decide (b < 128)
  | .fieldRequestSegment n d => decide (n < 128) && decide (d.length ≤ 64) && bytesOk d
  | .auxDictionarySegment f => f.wf
  | .sessionIdleTimeout _ => true
  | .challengeExpiry _ => true
  | .lockoutSecond _ => true
  | .lockstepMismatch => true
  | .watchdogExpiry => true
  | .stagRestartComplete => true
  | .confirmTimeout => true
  | .thermalSample n _ => decide (n < 16)
  | .voltageSample n _ => decide (n < 4)
  | .ntcSample n c => decide (n < 4) && decide (c < 4096)
  | .operatingMinute => true
  | .caps f => f.wf
  | .capsResendTimer => true
  | .trainingStateTimeout rs => rs.all LaneReport.wf
  | .bitlockComplete rs => rs.all LaneReport.wf
  | .blocklockComplete rs => rs.all LaneReport.wf
  | .deskewComplete rs => rs.all LaneReport.wf
  | .eqAck f => f.wf
  | .eqMeasurementDone rs => rs.all LaneReport.wf
  | .verifyWindowEnd rs => rs.all LaneReport.wf
  | .backoffExpiry => true
  | .retrainReq f => f.wf
  | .laneLockLost l c ts => decide (l < 16) && decide (c < 4) && decide (ts.length ≤ 64) && ts.all fun t => decide (t < 16)
  | .laneSignalLost m => decide (m < 65536)
  | .idleColumn m => decide (m < 65536)
  | .idlePowerDown => true
  | .fastExit m => decide (m < 65536)
  | .idleSignalDetected l => decide (l < 16)
  | .wakeRequest f => f.wf
  | .laneMarginCheck ms => ms.all fun m => decide (m.1 < 16) && decide (m.2 < 256)
  | .fillerColumn _ => true
  | .frameStart p => p.wf
  | .line p => p.wf
  | .regionUpdate p => p.wf
  | .frameEnd p => p.wf
  | .sleepNotice p => p.wf
  | .controlUser p => p.wf
  | .reservedPacket t p => decide (t < 256) && p.wf
  | .lineDeadline p _ => decide (p < 64)
  | .auxAnswer f => f.wf
  | .auxRequestTimeout => true
  | .auxUnknownChannel f => f.wf
  | .cpHello f => f.wf
  | .cpConfirm f => f.wf
  | .cpConfirmTimeout => true
  | .cpDrop f => f.wf
  | .lineStart => true
  | .freeAnchor => true
  | .earliestAnchor => true
  | .latestAnchor => true
  | .selfAnchor => true
  | .syncInEdge => true
  | .syncInTimeout => true
  | .tileLineQueued p _ bs => decide (p < 64) && bs.all fun b => decide (b < 3)
  | .driverStatus p bs => decide (p < 64) && bs.all Block.wf
  | .senseResult p bs => decide (p < 64) && bs.all Block.wf
  | .reverseWindowEnd p => decide (p < 64)
  | .readbackCompare p l _ bs => decide (p < 64) && decide (l < 2) && bs.all Block.wf
  | .olaneLockLost p l => decide (p < 64) && decide (l < 2)
  | .othamTrainingTimer p => decide (p < 64)
  | .pgoodChange n _ => decide (n < 6)
  | .pgoodLost n => decide (n < 6)
  | .seqDelayExpiry => true
  | .seqStepTimeout => true
  | .pmbusWriteDone _ => true
  | .pmbusRetryTimer => true
  | .refSettled => true
  | .pumpOutOfRegulation _ => true
  | .pumpRegulating _ => true
  | .dischargeHoldEnd => true
  | .avddRefSample v => decide (v < 65536)
  | .sweepIntervalExpiry => true
  | .mapSaveInterval => true
  | .mapSaveComplete _ => true
  | .mapRowLoaded _ _ c => bytesOk c
  | .workingMapRebuilt => true
  | .dramReadComplete l c as => decide (l < 31457280) && decide (c < 8) && as.all (errorsOk 140)
  | .migrationComplete _ => true
  | .dramRefreshDue c b r => decide (c < 8) && decide (b < 16) && decide (r < 256)
  | .rdTableClear => true
  | .throttleExpiry c => decide (c < 8)
  | .dramRequestPromotion c => decide (c < 8)
  | .fineRetrainTimer c _ => decide (c < 8)
  | .fullRetrainPiece c _ _ => decide (c < 8)
  | .dramIdleTimeout => true
  | .dramScrubStep es => errorsOk 140 es
  | .dramTrainingDone rs => rs.all fun r => decide (r.channel < 8)
  | .sramAccess b x y => decide (b < 24) && (x.all SramOp.wf) && (y.all SramOp.wf)
  | .addWrap b _ o l d => decide (b < 24) && wordOffsetOk o && decide (l < 8) && (AtomicOp.addWrap d).wf
  | .addSat b _ o l d => decide (b < 24) && wordOffsetOk o && decide (l < 8) && (AtomicOp.addSat d).wf
  | .swap b _ o l v => decide (b < 24) && wordOffsetOk o && decide (l < 8) && (AtomicOp.swap v).wf
  | .sramScrubStep b rs => decide (b < 24) && wordReadsOk rs
  | .spareCopyDone b => decide (b < 24)
  | .testWindow _ _ => true
  | .programDone _ => true
  | .logGatherTimeout => true
  | .tamper n _ => decide (n < 5)
  | .tamperClear => true
  | .entropyFailure t => decide (t < 256)
  | .testPortInstruction _ => true
  | .testPortChallenge r => bytesOk r
  | .monitorMeasurement u t => decide (u < 65536) && decide (t < 65536)
  | .marginPeriod => true
  | .avsStatus _ => true
  | .avsTimeout => true
  | .vcoreRampStep => true
  | .vcoreSearchStep => true
  | .powerOnReset => true
  | .resetN => true
  | .resetRelease _ n _ => decide (n < 8)
  | .referenceReady => true
  | .firmwareStarted => true
  | .storeReadDone => true
  | .smallBankLoaded => true
  | .standbyTimer => true
  | .offTimer => true
  | .fullWake n => decide (1 ≤ n) && decide (n ≤ 9)
  | .serviceWake n => decide (n = 7 ∨ n = 8)
  | .wakeTimer => true
  | .serviceWakeTimeout => true
  | .resourceReadyTimeout _ => true
  | .powerFailWarning _ => true
  | .powerFailRecovery => true
  | .genlockAnchor => true
  | .selfRefreshExit c _ => decide (c < 8)
  | .rowRepaired c b r => decide (c < 8) && decide (b < 16) && decide (r < 16384)
  | .domainPowerGood _ => true
  | .auxCollision => true
  | .metAfter1Ms => true

end Sys2Proof
end

