-- ==== Sys2Proof/Laws/PerInstr.lean ====
section
/-! SUPPORT. One lemma per command: the header of a well-formed request is well formed, SEQ and tag (Table 2.8). -/

set_option Elab.async false

set_option linter.unusedSimpArgs false

namespace Sys2Proof.Laws.WellFormed

/-- The header of a command that is a dictionary request. -/
def header : Instr → Option Hdr
  | .read h _ _ _ _ => some h
  | .write h _ _ _ _ => some h
  | .openReq h _ _ => some h
  | .prove h _ => some h
  | .close h => some h
  | .nop h => some h
  | .commit h _ => some h
  | .store h _ => some h
  | .restoreDefaults h _ => some h
  | .shadowDiscard h _ => some h
  | .utcSet h _ => some h
  | .powerRequestOn h => some h
  | .powerRequestStandby h => some h
  | .powerRequestOff h => some h
  | .restart h _ => some h
  | .lifecycleRequest h _ _ => some h
  | .operatorPassword h _ _ => some h
  | .integratorKey h _ => some h
  | .attestChallenge h _ => some h
  | .attestationDone => none
  | .linkRetrain h _ => some h
  | .portRetrain h _ _ => some h
  | .sweepStart h _ => some h
  | .mapSave h _ => some h
  | .mapReload h _ => some h
  | .updateBegin h _ => some h
  | .updateImage h _ _ => some h
  | .updateVerify h _ => some h
  | .imageVerified => none
  | .activateAtRestart h => some h
  | .activateNow h => some h
  | .flashOperationComplete _ => none
  | .confirm h _ => some h
  | .retire h _ => some h
  | .fell h _ _ _ => some h
  | .reinstate h _ => some h
  | .stressSet h _ _ => some h
  | .ovlMemWrite h _ _ => some h
  | .bufTableWrite h _ _ _ => some h
  | .drvRegsWrite h _ _ => some h
  | .ntcEnableWrite h _ _ => some h
  | .ctrlportEnableWrite h _ _ => some h
  | .spiStatus => none
  | .spiWriteFrame _ => none
  | .spiReadFrame _ => none
  | .i3cPrivateWrite _ => none
  | .i3cPrivateRead _ => none
  | .i3cEntdaa _ => none
  | .i3cSetdasa _ _ => none
  | .fieldRequestSegment _ _ => none
  | .auxDictionarySegment _ => none
  | .sessionIdleTimeout _ => none
  | .challengeExpiry _ => none
  | .lockoutSecond _ => none
  | .lockstepMismatch => none
  | .watchdogExpiry => none
  | .stagRestartComplete => none
  | .confirmTimeout => none
  | .thermalSample _ _ => none
  | .voltageSample _ _ => none
  | .ntcSample _ _ => none
  | .operatingMinute => none
  | .caps _ => none
  | .capsResendTimer => none
  | .trainingStateTimeout _ => none
  | .bitlockComplete _ => none
  | .blocklockComplete _ => none
  | .deskewComplete _ => none
  | .eqAck _ => none
  | .eqMeasurementDone _ => none
  | .verifyWindowEnd _ => none
  | .backoffExpiry => none
  | .retrainReq _ => none
  | .laneLockLost _ _ _ => none
  | .laneSignalLost _ => none
  | .idleColumn _ => none
  | .idlePowerDown => none
  | .fastExit _ => none
  | .idleSignalDetected _ => none
  | .wakeRequest _ => none
  | .laneMarginCheck _ => none
  | .fillerColumn _ => none
  | .frameStart _ => none
  | .line _ => none
  | .regionUpdate _ => none
  | .frameEnd _ => none
  | .sleepNotice _ => none
  | .controlUser _ => none
  | .reservedPacket _ _ => none
  | .lineDeadline _ _ => none
  | .auxAnswer _ => none
  | .auxRequestTimeout => none
  | .auxUnknownChannel _ => none
  | .cpHello _ => none
  | .cpConfirm _ => none
  | .cpConfirmTimeout => none
  | .cpDrop _ => none
  | .lineStart => none
  | .freeAnchor => none
  | .earliestAnchor => none
  | .latestAnchor => none
  | .selfAnchor => none
  | .syncInEdge => none
  | .syncInTimeout => none
  | .tileLineQueued _ _ _ => none
  | .driverStatus _ _ => none
  | .senseResult _ _ => none
  | .reverseWindowEnd _ => none
  | .readbackCompare _ _ _ _ => none
  | .olaneLockLost _ _ => none
  | .othamTrainingTimer _ => none
  | .pgoodChange _ _ => none
  | .pgoodLost _ => none
  | .seqDelayExpiry => none
  | .seqStepTimeout => none
  | .pmbusWriteDone _ => none
  | .pmbusRetryTimer => none
  | .refSettled => none
  | .pumpOutOfRegulation _ => none
  | .pumpRegulating _ => none
  | .dischargeHoldEnd => none
  | .avddRefSample _ => none
  | .sweepIntervalExpiry => none
  | .mapSaveInterval => none
  | .mapSaveComplete _ => none
  | .mapRowLoaded _ _ _ => none
  | .workingMapRebuilt => none
  | .dramReadComplete _ _ _ => none
  | .migrationComplete _ => none
  | .dramRefreshDue _ _ _ => none
  | .rdTableClear => none
  | .throttleExpiry _ => none
  | .dramRequestPromotion _ => none
  | .fineRetrainTimer _ _ => none
  | .fullRetrainPiece _ _ _ => none
  | .dramIdleTimeout => none
  | .dramScrubStep _ => none
  | .dramTrainingDone _ => none
  | .sramAccess _ _ _ => none
  | .addWrap _ _ _ _ _ => none
  | .addSat _ _ _ _ _ => none
  | .swap _ _ _ _ _ => none
  | .sramScrubStep _ _ => none
  | .spareCopyDone _ => none
  | .testWindow _ _ => none
  | .programDone _ => none
  | .logGatherTimeout => none
  | .tamper _ _ => none
  | .tamperClear => none
  | .entropyFailure _ => none
  | .testPortInstruction _ => none
  | .testPortChallenge _ => none
  | .monitorMeasurement _ _ => none
  | .marginPeriod => none
  | .avsStatus _ => none
  | .avsTimeout => none
  | .vcoreRampStep => none
  | .vcoreSearchStep => none
  | .powerOnReset => none
  | .resetN => none
  | .resetRelease _ _ _ => none
  | .referenceReady => none
  | .firmwareStarted => none
  | .storeReadDone => none
  | .smallBankLoaded => none
  | .standbyTimer => none
  | .offTimer => none
  | .fullWake _ => none
  | .serviceWake _ => none
  | .wakeTimer => none
  | .serviceWakeTimeout => none
  | .resourceReadyTimeout _ => none
  | .powerFailWarning _ => none
  | .powerFailRecovery => none
  | .genlockAnchor => none
  | .selfRefreshExit _ _ => none
  | .rowRepaired _ _ _ => none
  | .domainPowerGood _ => none
  | .auxCollision => none
  | .metAfter1Ms => none

/-- A well-formed request has a well-formed header. -/
def Statement (i : Instr) : Prop := i.wf = true → ∀ h, header i = some h → h.wf = true

theorem read (h_ : Hdr) (handle_ : Nat) (param_ : Nat) (elem_ : Option Nat) (payload_ : List Nat) : Statement (.read h_ handle_ param_ elem_ payload_) := by
  intro w h e; cases e; simp only [Instr.wf, Bool.and_eq_true] at w; simp only [w]
theorem write (h_ : Hdr) (handle_ : Nat) (param_ : Nat) (elem_ : Option Nat) (payload_ : List Nat) : Statement (.write h_ handle_ param_ elem_ payload_) := by
  intro w h e; cases e; simp only [Instr.wf, Bool.and_eq_true] at w; simp only [w]
theorem openReq (h_ : Hdr) (level_ : Nat) (password_ : List Nat) : Statement (.openReq h_ level_ password_) := by
  intro w h e; cases e; simp only [Instr.wf, Bool.and_eq_true] at w; simp only [w]
theorem prove (h_ : Hdr) (response_ : List Nat) : Statement (.prove h_ response_) := by
  intro w h e; cases e; simp only [Instr.wf, Bool.and_eq_true] at w; simp only [w]
theorem close (h_ : Hdr) : Statement (.close h_) := by
  intro w h e; cases e; simp only [Instr.wf, Bool.and_eq_true] at w; simp only [w]
theorem nop (h_ : Hdr) : Statement (.nop h_) := by
  intro w h e; cases e; simp only [Instr.wf, Bool.and_eq_true] at w; simp only [w]
theorem commit (h_ : Hdr) (tag_ : Nat) : Statement (.commit h_ tag_) := by
  intro w h e; cases e; simp only [Instr.wf, Bool.and_eq_true] at w; simp only [w]
theorem store (h_ : Hdr) (tag_ : Nat) : Statement (.store h_ tag_) := by
  intro w h e; cases e; simp only [Instr.wf, Bool.and_eq_true] at w; simp only [w]
theorem restoreDefaults (h_ : Hdr) (tag_ : Nat) : Statement (.restoreDefaults h_ tag_) := by
  intro w h e; cases e; simp only [Instr.wf, Bool.and_eq_true] at w; simp only [w]
theorem shadowDiscard (h_ : Hdr) (value_ : Nat) : Statement (.shadowDiscard h_ value_) := by
  intro w h e; cases e; simp only [Instr.wf, Bool.and_eq_true] at w; simp only [w]
theorem utcSet (h_ : Hdr) (seconds_ : Nat) : Statement (.utcSet h_ seconds_) := by
  intro w h e; cases e; simp only [Instr.wf, Bool.and_eq_true] at w; simp only [w]
theorem powerRequestOn (h_ : Hdr) : Statement (.powerRequestOn h_) := by
  intro w h e; cases e; simp only [Instr.wf, Bool.and_eq_true] at w; simp only [w]
theorem powerRequestStandby (h_ : Hdr) : Statement (.powerRequestStandby h_) := by
  intro w h e; cases e; simp only [Instr.wf, Bool.and_eq_true] at w; simp only [w]
theorem powerRequestOff (h_ : Hdr) : Statement (.powerRequestOff h_) := by
  intro w h e; cases e; simp only [Instr.wf, Bool.and_eq_true] at w; simp only [w]
theorem restart (h_ : Hdr) (value_ : Nat) : Statement (.restart h_ value_) := by
  intro w h e; cases e; simp only [Instr.wf, Bool.and_eq_true] at w; simp only [w]
theorem lifecycleRequest (h_ : Hdr) (target_ : Nat) (uid_ : List Nat) : Statement (.lifecycleRequest h_ target_ uid_) := by
  intro w h e; cases e; simp only [Instr.wf, Bool.and_eq_true] at w; simp only [w]
theorem operatorPassword (h_ : Hdr) (offset_ : Nat) (bytes_ : List Nat) : Statement (.operatorPassword h_ offset_ bytes_) := by
  intro w h e; cases e; simp only [Instr.wf, Bool.and_eq_true] at w; simp only [w]
theorem integratorKey (h_ : Hdr) (bytes_ : List Nat) : Statement (.integratorKey h_ bytes_) := by
  intro w h e; cases e; simp only [Instr.wf, Bool.and_eq_true] at w; simp only [w]
theorem attestChallenge (h_ : Hdr) (bytes_ : List Nat) : Statement (.attestChallenge h_ bytes_) := by
  intro w h e; cases e; simp only [Instr.wf, Bool.and_eq_true] at w; simp only [w]
theorem attestationDone : Statement (.attestationDone) := by
  intro _ _ e; cases e
theorem linkRetrain (h_ : Hdr) (value_ : Nat) : Statement (.linkRetrain h_ value_) := by
  intro w h e; cases e; simp only [Instr.wf, Bool.and_eq_true] at w; simp only [w]
theorem portRetrain (h_ : Hdr) (p_ : Nat) (value_ : Nat) : Statement (.portRetrain h_ p_ value_) := by
  intro w h e; cases e; simp only [Instr.wf, Bool.and_eq_true] at w; simp only [w]
theorem sweepStart (h_ : Hdr) (value_ : Nat) : Statement (.sweepStart h_ value_) := by
  intro w h e; cases e; simp only [Instr.wf, Bool.and_eq_true] at w; simp only [w]
theorem mapSave (h_ : Hdr) (value_ : Nat) : Statement (.mapSave h_ value_) := by
  intro w h e; cases e; simp only [Instr.wf, Bool.and_eq_true] at w; simp only [w]
theorem mapReload (h_ : Hdr) (value_ : Nat) : Statement (.mapReload h_ value_) := by
  intro w h e; cases e; simp only [Instr.wf, Bool.and_eq_true] at w; simp only [w]
theorem updateBegin (h_ : Hdr) (length_ : Nat) : Statement (.updateBegin h_ length_) := by
  intro w h e; cases e; simp only [Instr.wf, Bool.and_eq_true] at w; simp only [w]
theorem updateImage (h_ : Hdr) (offset_ : Nat) (bytes_ : List Nat) : Statement (.updateImage h_ offset_ bytes_) := by
  intro w h e; cases e; simp only [Instr.wf, Bool.and_eq_true] at w; simp only [w]
theorem updateVerify (h_ : Hdr) (tag_ : Nat) : Statement (.updateVerify h_ tag_) := by
  intro w h e; cases e; simp only [Instr.wf, Bool.and_eq_true] at w; simp only [w]
theorem imageVerified : Statement (.imageVerified) := by
  intro _ _ e; cases e
theorem activateAtRestart (h_ : Hdr) : Statement (.activateAtRestart h_) := by
  intro w h e; cases e; simp only [Instr.wf, Bool.and_eq_true] at w; simp only [w]
theorem activateNow (h_ : Hdr) : Statement (.activateNow h_) := by
  intro w h e; cases e; simp only [Instr.wf, Bool.and_eq_true] at w; simp only [w]
theorem flashOperationComplete (ok_ : Bool) : Statement (.flashOperationComplete ok_) := by
  intro _ _ e; cases e
theorem confirm (h_ : Hdr) (tag_ : Nat) : Statement (.confirm h_ tag_) := by
  intro w h e; cases e; simp only [Instr.wf, Bool.and_eq_true] at w; simp only [w]
theorem retire (h_ : Hdr) (channel_ : Nat) : Statement (.retire h_ channel_) := by
  intro w h e; cases e; simp only [Instr.wf, Bool.and_eq_true] at w; simp only [w]
theorem fell (h_ : Hdr) (stand_ : Nat) (tile_ : Nat) (value_ : Nat) : Statement (.fell h_ stand_ tile_ value_) := by
  intro w h e; cases e; simp only [Instr.wf, Bool.and_eq_true] at w; simp only [w]
theorem reinstate (h_ : Hdr) (handle_ : Nat) : Statement (.reinstate h_ handle_) := by
  intro w h e; cases e; simp only [Instr.wf, Bool.and_eq_true] at w; simp only [w]
theorem stressSet (h_ : Hdr) (offset_ : Nat) (bytes_ : List Nat) : Statement (.stressSet h_ offset_ bytes_) := by
  intro w h e; cases e; simp only [Instr.wf, Bool.and_eq_true] at w; simp only [w]
theorem ovlMemWrite (h_ : Hdr) (offset_ : Nat) (bytes_ : List Nat) : Statement (.ovlMemWrite h_ offset_ bytes_) := by
  intro w h e; cases e; simp only [Instr.wf, Bool.and_eq_true] at w; simp only [w]
theorem bufTableWrite (h_ : Hdr) (size_ : Bool) (elem_ : Option Nat) (values_ : List Nat) : Statement (.bufTableWrite h_ size_ elem_ values_) := by
  intro w h e; cases e; simp only [Instr.wf, Bool.and_eq_true] at w; simp only [w]
theorem drvRegsWrite (h_ : Hdr) (offset_ : Nat) (bytes_ : List Nat) : Statement (.drvRegsWrite h_ offset_ bytes_) := by
  intro w h e; cases e; simp only [Instr.wf, Bool.and_eq_true] at w; simp only [w]
theorem ntcEnableWrite (h_ : Hdr) (input_ : Nat) (value_ : Nat) : Statement (.ntcEnableWrite h_ input_ value_) := by
  intro w h e; cases e; simp only [Instr.wf, Bool.and_eq_true] at w; simp only [w]
theorem ctrlportEnableWrite (h_ : Hdr) (target_ : PortId) (value_ : Nat) : Statement (.ctrlportEnableWrite h_ target_ value_) := by
  intro w h e; cases e; simp only [Instr.wf, Bool.and_eq_true] at w; simp only [w]
theorem spiStatus : Statement (.spiStatus) := by
  intro _ _ e; cases e
theorem spiWriteFrame (bytes_ : List Nat) : Statement (.spiWriteFrame bytes_) := by
  intro _ _ e; cases e
theorem spiReadFrame (count_ : Nat) : Statement (.spiReadFrame count_) := by
  intro _ _ e; cases e
theorem i3cPrivateWrite (bytes_ : List Nat) : Statement (.i3cPrivateWrite bytes_) := by
  intro _ _ e; cases e
theorem i3cPrivateRead (count_ : Nat) : Statement (.i3cPrivateRead count_) := by
  intro _ _ e; cases e
theorem i3cEntdaa (address_ : Nat) : Statement (.i3cEntdaa address_) := by
  intro _ _ e; cases e
theorem i3cSetdasa (static_ : Nat) (dynamic_ : Nat) : Statement (.i3cSetdasa static_ dynamic_) := by
  intro _ _ e; cases e
theorem fieldRequestSegment (node_ : Nat) (data_ : List Nat) : Statement (.fieldRequestSegment node_ data_) := by
  intro _ _ e; cases e
theorem auxDictionarySegment (f_ : AuxFrame) : Statement (.auxDictionarySegment f_) := by
  intro _ _ e; cases e
theorem sessionIdleTimeout (port_ : PortId) : Statement (.sessionIdleTimeout port_) := by
  intro _ _ e; cases e
theorem challengeExpiry (port_ : PortId) : Statement (.challengeExpiry port_) := by
  intro _ _ e; cases e
theorem lockoutSecond (port_ : PortId) : Statement (.lockoutSecond port_) := by
  intro _ _ e; cases e
theorem lockstepMismatch : Statement (.lockstepMismatch) := by
  intro _ _ e; cases e
theorem watchdogExpiry : Statement (.watchdogExpiry) := by
  intro _ _ e; cases e
theorem stagRestartComplete : Statement (.stagRestartComplete) := by
  intro _ _ e; cases e
theorem confirmTimeout : Statement (.confirmTimeout) := by
  intro _ _ e; cases e
theorem thermalSample (sensor_ : Nat) (temp_ : Int) : Statement (.thermalSample sensor_ temp_) := by
  intro _ _ e; cases e
theorem voltageSample (monitor_ : Nat) (mv_ : Nat) : Statement (.voltageSample monitor_ mv_) := by
  intro _ _ e; cases e
theorem ntcSample (input_ : Nat) (code_ : Nat) : Statement (.ntcSample input_ code_) := by
  intro _ _ e; cases e
theorem operatingMinute : Statement (.operatingMinute) := by
  intro _ _ e; cases e
theorem caps (f_ : AuxFrame) : Statement (.caps f_) := by
  intro _ _ e; cases e
theorem capsResendTimer : Statement (.capsResendTimer) := by
  intro _ _ e; cases e
theorem trainingStateTimeout (finished_ : List LaneReport) : Statement (.trainingStateTimeout finished_) := by
  intro _ _ e; cases e
theorem bitlockComplete (lanes_ : List LaneReport) : Statement (.bitlockComplete lanes_) := by
  intro _ _ e; cases e
theorem blocklockComplete (lanes_ : List LaneReport) : Statement (.blocklockComplete lanes_) := by
  intro _ _ e; cases e
theorem deskewComplete (lanes_ : List LaneReport) : Statement (.deskewComplete lanes_) := by
  intro _ _ e; cases e
theorem eqAck (f_ : AuxFrame) : Statement (.eqAck f_) := by
  intro _ _ e; cases e
theorem eqMeasurementDone (lanes_ : List LaneReport) : Statement (.eqMeasurementDone lanes_) := by
  intro _ _ e; cases e
theorem verifyWindowEnd (lanes_ : List LaneReport) : Statement (.verifyWindowEnd lanes_) := by
  intro _ _ e; cases e
theorem backoffExpiry : Statement (.backoffExpiry) := by
  intro _ _ e; cases e
theorem retrainReq (f_ : AuxFrame) : Statement (.retrainReq f_) := by
  intro _ _ e; cases e
theorem laneLockLost (lane_ : Nat) (cause_ : Nat) (types_ : List Nat) : Statement (.laneLockLost lane_ cause_ types_) := by
  intro _ _ e; cases e
theorem laneSignalLost (mask_ : Nat) : Statement (.laneSignalLost mask_) := by
  intro _ _ e; cases e
theorem idleColumn (received_ : Nat) : Statement (.idleColumn received_) := by
  intro _ _ e; cases e
theorem idlePowerDown : Statement (.idlePowerDown) := by
  intro _ _ e; cases e
theorem fastExit (failed_ : Nat) : Statement (.fastExit failed_) := by
  intro _ _ e; cases e
theorem idleSignalDetected (lane_ : Nat) : Statement (.idleSignalDetected lane_) := by
  intro _ _ e; cases e
theorem wakeRequest (f_ : AuxFrame) : Statement (.wakeRequest f_) := by
  intro _ _ e; cases e
theorem laneMarginCheck (margins_ : List (Nat × Nat)) : Statement (.laneMarginCheck margins_) := by
  intro _ _ e; cases e
theorem fillerColumn (drift_ : Int) : Statement (.fillerColumn drift_) := by
  intro _ _ e; cases e
theorem frameStart (p_ : Packet) : Statement (.frameStart p_) := by
  intro _ _ e; cases e
theorem line (p_ : Packet) : Statement (.line p_) := by
  intro _ _ e; cases e
theorem regionUpdate (p_ : Packet) : Statement (.regionUpdate p_) := by
  intro _ _ e; cases e
theorem frameEnd (p_ : Packet) : Statement (.frameEnd p_) := by
  intro _ _ e; cases e
theorem sleepNotice (p_ : Packet) : Statement (.sleepNotice p_) := by
  intro _ _ e; cases e
theorem controlUser (p_ : Packet) : Statement (.controlUser p_) := by
  intro _ _ e; cases e
theorem reservedPacket (type_ : Nat) (p_ : Packet) : Statement (.reservedPacket type_ p_) := by
  intro _ _ e; cases e
theorem lineDeadline (port_ : Nat) (line_ : Nat) : Statement (.lineDeadline port_ line_) := by
  intro _ _ e; cases e
theorem auxAnswer (f_ : AuxFrame) : Statement (.auxAnswer f_) := by
  intro _ _ e; cases e
theorem auxRequestTimeout : Statement (.auxRequestTimeout) := by
  intro _ _ e; cases e
theorem auxUnknownChannel (f_ : AuxFrame) : Statement (.auxUnknownChannel f_) := by
  intro _ _ e; cases e
theorem cpHello (f_ : AuxFrame) : Statement (.cpHello f_) := by
  intro _ _ e; cases e
theorem cpConfirm (f_ : AuxFrame) : Statement (.cpConfirm f_) := by
  intro _ _ e; cases e
theorem cpConfirmTimeout : Statement (.cpConfirmTimeout) := by
  intro _ _ e; cases e
theorem cpDrop (f_ : AuxFrame) : Statement (.cpDrop f_) := by
  intro _ _ e; cases e
theorem lineStart : Statement (.lineStart) := by
  intro _ _ e; cases e
theorem freeAnchor : Statement (.freeAnchor) := by
  intro _ _ e; cases e
theorem earliestAnchor : Statement (.earliestAnchor) := by
  intro _ _ e; cases e
theorem latestAnchor : Statement (.latestAnchor) := by
  intro _ _ e; cases e
theorem selfAnchor : Statement (.selfAnchor) := by
  intro _ _ e; cases e
theorem syncInEdge : Statement (.syncInEdge) := by
  intro _ _ e; cases e
theorem syncInTimeout : Statement (.syncInTimeout) := by
  intro _ _ e; cases e
theorem tileLineQueued (port_ : Nat) (line_ : Nat) (beats_ : List Nat) : Statement (.tileLineQueued port_ line_ beats_) := by
  intro _ _ e; cases e
theorem driverStatus (port_ : Nat) (blocks_ : List Block) : Statement (.driverStatus port_ blocks_) := by
  intro _ _ e; cases e
theorem senseResult (port_ : Nat) (blocks_ : List Block) : Statement (.senseResult port_ blocks_) := by
  intro _ _ e; cases e
theorem reverseWindowEnd (port_ : Nat) : Statement (.reverseWindowEnd port_) := by
  intro _ _ e; cases e
theorem readbackCompare (port_ : Nat) (lane_ : Nat) (line_ : Nat) (blocks_ : List Block) : Statement (.readbackCompare port_ lane_ line_ blocks_) := by
  intro _ _ e; cases e
theorem olaneLockLost (port_ : Nat) (lane_ : Nat) : Statement (.olaneLockLost port_ lane_) := by
  intro _ _ e; cases e
theorem othamTrainingTimer (port_ : Nat) : Statement (.othamTrainingTimer port_) := by
  intro _ _ e; cases e
theorem pgoodChange (pin_ : Nat) (level_ : Bool) : Statement (.pgoodChange pin_ level_) := by
  intro _ _ e; cases e
theorem pgoodLost (pin_ : Nat) : Statement (.pgoodLost pin_) := by
  intro _ _ e; cases e
theorem seqDelayExpiry : Statement (.seqDelayExpiry) := by
  intro _ _ e; cases e
theorem seqStepTimeout : Statement (.seqStepTimeout) := by
  intro _ _ e; cases e
theorem pmbusWriteDone (result_ : PmbusResult) : Statement (.pmbusWriteDone result_) := by
  intro _ _ e; cases e
theorem pmbusRetryTimer : Statement (.pmbusRetryTimer) := by
  intro _ _ e; cases e
theorem refSettled : Statement (.refSettled) := by
  intro _ _ e; cases e
theorem pumpOutOfRegulation (mv_ : Int) : Statement (.pumpOutOfRegulation mv_) := by
  intro _ _ e; cases e
theorem pumpRegulating (mv_ : Int) : Statement (.pumpRegulating mv_) := by
  intro _ _ e; cases e
theorem dischargeHoldEnd : Statement (.dischargeHoldEnd) := by
  intro _ _ e; cases e
theorem avddRefSample (mv_ : Nat) : Statement (.avddRefSample mv_) := by
  intro _ _ e; cases e
theorem sweepIntervalExpiry : Statement (.sweepIntervalExpiry) := by
  intro _ _ e; cases e
theorem mapSaveInterval : Statement (.mapSaveInterval) := by
  intro _ _ e; cases e
theorem mapSaveComplete (failed_ : Option (Nat × Nat)) : Statement (.mapSaveComplete failed_) := by
  intro _ _ e; cases e
theorem mapRowLoaded (stress_ : Bool) (row_ : Nat) (chunk_ : List Nat) : Statement (.mapRowLoaded stress_ row_ chunk_) := by
  intro _ _ e; cases e
theorem workingMapRebuilt : Statement (.workingMapRebuilt) := by
  intro _ _ e; cases e
theorem dramReadComplete (line_ : Nat) (cls_ : Nat) (attempts_ : List (List (Nat × Nat))) : Statement (.dramReadComplete line_ cls_ attempts_) := by
  intro _ _ e; cases e
theorem migrationComplete (lost_ : Bool) : Statement (.migrationComplete lost_) := by
  intro _ _ e; cases e
theorem dramRefreshDue (channel_ : Nat) (bank_ : Nat) (rate_ : Nat) : Statement (.dramRefreshDue channel_ bank_ rate_) := by
  intro _ _ e; cases e
theorem rdTableClear : Statement (.rdTableClear) := by
  intro _ _ e; cases e
theorem throttleExpiry (cls_ : Nat) : Statement (.throttleExpiry cls_) := by
  intro _ _ e; cases e
theorem dramRequestPromotion (channel_ : Nat) : Statement (.dramRequestPromotion channel_) := by
  intro _ _ e; cases e
theorem fineRetrainTimer (channel_ : Nat) (drift_ : Int) : Statement (.fineRetrainTimer channel_ drift_) := by
  intro _ _ e; cases e
theorem fullRetrainPiece (channel_ : Nat) (last_ : Bool) (failed_ : Bool) : Statement (.fullRetrainPiece channel_ last_ failed_) := by
  intro _ _ e; cases e
theorem dramIdleTimeout : Statement (.dramIdleTimeout) := by
  intro _ _ e; cases e
theorem dramScrubStep (errors_ : List (Nat × Nat)) : Statement (.dramScrubStep errors_) := by
  intro _ _ e; cases e
theorem dramTrainingDone (reports_ : List ChannelReport) : Statement (.dramTrainingDone reports_) := by
  intro _ _ e; cases e
theorem sramAccess (bank_ : Nat) (a_ : Option SramOp) (b_ : Option SramOp) : Statement (.sramAccess bank_ a_ b_) := by
  intro _ _ e; cases e
theorem addWrap (bank_ : Nat) (portB_ : Bool) (offset_ : Nat) (lane_ : Nat) (delta_ : Int) : Statement (.addWrap bank_ portB_ offset_ lane_ delta_) := by
  intro _ _ e; cases e
theorem addSat (bank_ : Nat) (portB_ : Bool) (offset_ : Nat) (lane_ : Nat) (delta_ : Int) : Statement (.addSat bank_ portB_ offset_ lane_ delta_) := by
  intro _ _ e; cases e
theorem swap (bank_ : Nat) (portB_ : Bool) (offset_ : Nat) (lane_ : Nat) (value_ : Nat) : Statement (.swap bank_ portB_ offset_ lane_ value_) := by
  intro _ _ e; cases e
theorem sramScrubStep (bank_ : Nat) (reads_ : List (List (Nat × Nat))) : Statement (.sramScrubStep bank_ reads_) := by
  intro _ _ e; cases e
theorem spareCopyDone (bank_ : Nat) : Statement (.spareCopyDone bank_) := by
  intro _ _ e; cases e
theorem testWindow (fault_ : Bool) (held_ : Option Nat) : Statement (.testWindow fault_ held_) := by
  intro _ _ e; cases e
theorem programDone (verified_ : Bool) : Statement (.programDone verified_) := by
  intro _ _ e; cases e
theorem logGatherTimeout : Statement (.logGatherTimeout) := by
  intro _ _ e; cases e
theorem tamper (source_ : Nat) (measured_ : Int) : Statement (.tamper source_ measured_) := by
  intro _ _ e; cases e
theorem tamperClear : Statement (.tamperClear) := by
  intro _ _ e; cases e
theorem entropyFailure (test_ : Nat) : Statement (.entropyFailure test_) := by
  intro _ _ e; cases e
theorem testPortInstruction (i_ : TestInstr) : Statement (.testPortInstruction i_) := by
  intro _ _ e; cases e
theorem testPortChallenge (response_ : List Nat) : Statement (.testPortChallenge response_) := by
  intro _ _ e; cases e
theorem monitorMeasurement (unit_ : Nat) (tcyc_ : Nat) : Statement (.monitorMeasurement unit_ tcyc_) := by
  intro _ _ e; cases e
theorem marginPeriod : Statement (.marginPeriod) := by
  intro _ _ e; cases e
theorem avsStatus (mv_ : Nat) : Statement (.avsStatus mv_) := by
  intro _ _ e; cases e
theorem avsTimeout : Statement (.avsTimeout) := by
  intro _ _ e; cases e
theorem vcoreRampStep : Statement (.vcoreRampStep) := by
  intro _ _ e; cases e
theorem vcoreSearchStep : Statement (.vcoreSearchStep) := by
  intro _ _ e; cases e
theorem powerOnReset : Statement (.powerOnReset) := by
  intro _ _ e; cases e
theorem resetN : Statement (.resetN) := by
  intro _ _ e; cases e
theorem resetRelease (hostsel_ : Bool) (node_ : Nat) (xin_ : Bool) : Statement (.resetRelease hostsel_ node_ xin_) := by
  intro _ _ e; cases e
theorem referenceReady : Statement (.referenceReady) := by
  intro _ _ e; cases e
theorem firmwareStarted : Statement (.firmwareStarted) := by
  intro _ _ e; cases e
theorem storeReadDone : Statement (.storeReadDone) := by
  intro _ _ e; cases e
theorem smallBankLoaded : Statement (.smallBankLoaded) := by
  intro _ _ e; cases e
theorem standbyTimer : Statement (.standbyTimer) := by
  intro _ _ e; cases e
theorem offTimer : Statement (.offTimer) := by
  intro _ _ e; cases e
theorem fullWake (source_ : Nat) : Statement (.fullWake source_) := by
  intro _ _ e; cases e
theorem serviceWake (source_ : Nat) : Statement (.serviceWake source_) := by
  intro _ _ e; cases e
theorem wakeTimer : Statement (.wakeTimer) := by
  intro _ _ e; cases e
theorem serviceWakeTimeout : Statement (.serviceWakeTimeout) := by
  intro _ _ e; cases e
theorem resourceReadyTimeout (r_ : Resource) : Statement (.resourceReadyTimeout r_) := by
  intro _ _ e; cases e
theorem powerFailWarning (mv_ : Nat) : Statement (.powerFailWarning mv_) := by
  intro _ _ e; cases e
theorem powerFailRecovery : Statement (.powerFailRecovery) := by
  intro _ _ e; cases e
theorem genlockAnchor : Statement (.genlockAnchor) := by
  intro _ _ e; cases e
theorem selfRefreshExit (channel_ : Nat) (ns_ : Nat) : Statement (.selfRefreshExit channel_ ns_) := by
  intro _ _ e; cases e
theorem rowRepaired (channel_ : Nat) (bank_ : Nat) (row_ : Nat) : Statement (.rowRepaired channel_ bank_ row_) := by
  intro _ _ e; cases e
theorem domainPowerGood (dram_ : Bool) : Statement (.domainPowerGood dram_) := by
  intro _ _ e; cases e
theorem auxCollision : Statement (.auxCollision) := by
  intro _ _ e; cases e
theorem metAfter1Ms : Statement (.metAfter1Ms) := by
  intro _ _ e; cases e

end Sys2Proof.Laws.WellFormed
end

