-- ==== Sys2Proof/Laws/Requests.lean ====
section
/-! SUPPORT. What a request that is served does (02): it is executed in the state `begun`, and answered. -/

set_option Elab.async false

namespace Sys2Proof.Machine

theorem port_setPort (i : PortId) (p : PortSt) (s : State) : port (setPort i p s) i = p := by cases i <;> rfl
theorem setPort_setPort (i : PortId) (p q : PortSt) (s : State) : setPort i p (setPort i q s) = setPort i p s := by cases i <;> rfl
theorem port_of_only {ps : List Part} {s t : State} (h : Only ps s t) (hp : ps.contains .ports = false) (i : PortId) :
    port t i = port s i := by
  have e := h.same .ports hp
  have e1 : t.ctrl.host = s.ctrl.host := congrArg (·.1) e
  have e2 : t.ctrl.field = s.ctrl.field := congrArg (·.2.1) e
  have e3 : t.ctrl.sideband = s.ctrl.sideband := congrArg (·.2.2) e
  cases i <;> assumption

theorem port_frameHeard (i : PortId) (s : State) : port (frameHeard i s) i = { port s i with heard := s.now } := by
  unfold frameHeard; rw [port_of_only (incWrap_only ..) rfl, port_setPort]
theorem port_showCredits (i j : PortId) (s : State) : port (showCredits i s) j = port s j := port_of_only (showCredits_only ..) rfl j
theorem frameHeard_of (i : PortId) (s : State) : Only [.results, .ports] s (frameHeard i s) := frameHeard_only ..

theorem noCredit_frameHeard (i : PortId) (s : State) : noCredit (frameHeard i s) i = noCredit s i := by
  unfold noCredit; rw [port_frameHeard]

theorem port_credited (i : PortId) (s : State) :
    port (credited i s) i = { port s i with heard := s.now, unanswered := (port s i).unanswered + 1 } := by
  show port (showCredits i (setPort i { port (frameHeard i s) i with unanswered := (port (frameHeard i s) i).unanswered + 1 } (frameHeard i s))) i = _
  rw [port_showCredits, port_setPort, port_frameHeard]
theorem credited_only (i : PortId) (s : State) : Only [.results, .ports] s (credited i s) := by
  unfold credited
  exact ((showCredits_only ..).step (by decide) ((setPort_only ..).step (by decide) (frameHeard_of ..)))
theorem port_begun (r : Req) (s : State) : port (begun r s) r.port = { port s r.port with
    heard := s.now, unanswered := (port s r.port).unanswered + 1, last := some (r.seq, r.check), challenge := none
    reqCount := if (port s r.port).key.isSome then ((port s r.port).reqCount + 1) % w32 else (port s r.port).reqCount } := by
  unfold begun
  rw [port_setPort, port_credited]
theorem begun_only (r : Req) (s : State) : Only [.results, .ports] s (begun r s) := by
  unfold begun
  exact (setPort_only ..).step (by decide) (credited_only ..)

/-- A request that is served is executed in the state `begun`, at its port's level. -/
theorem arrive_served (r : Req) (s : State) (h : s.serves r = true) :
    arrive r s = finishRequest r (execute r (port s r.port).level false (outstanding s r.port) (begun r s)) := by
  unfold State.serves at h
  simp only [Bool.and_eq_true, Bool.not_eq_true', beq_iff_eq, Option.isNone_iff_eq_none, List.isEmpty_iff] at h
  obtain ⟨⟨⟨⟨⟨⟨⟨⟨⟨hf, hc⟩, hr⟩, hb⟩, hw⟩, hread⟩, hcast⟩, hfault⟩, hk⟩, hs⟩ := h
  have e1 : arrive r s = inTurn r (credited r.port s) := by
    unfold arrive
    rw [hf]
    simp only [Bool.not_true, Bool.false_eq_true, if_false, noCredit_frameHeard, hc]
    rfl
  have o := credited_only r.port s
  have hp := port_credited r.port s
  have ho : outstanding (credited r.port s) r.port = outstanding s r.port := by
    unfold outstanding; rw [hp, o.same .now rfl]
  have hr' : stagRuns (credited r.port s) = true := by
    unfold stagRuns at *
    have e := o.same .stag rfl
    rw [show (credited r.port s).stag.running = s.stag.running from congrArg (·.2.2.1) e,
      show (credited r.port s).stag.restarting = s.stag.restarting from congrArg (·.1) e]; exact hr
  have hb' : (credited r.port s).ctrl.busy = none := (o.ctrl_busy rfl).trans hb
  have hw' : (credited r.port s).ctrl.waiting = [] := (o.ctrl_waiting rfl).trans hw
  have hread' : readsProgram r (credited r.port s) = false := by
    unfold readsProgram at *
    rw [o.pstore_current rfl]; exact hread
  have e2 : inTurn r (credited r.port s) = accept r (credited r.port s) := by
    unfold inTurn
    rw [hr', hb', hw', hread']
    simp only [Option.isNone_none, List.isEmpty_nil, Bool.not_false, Bool.and_self, if_true]
    unfold serve
    rw [hcast, hfault, hp]
    rw [if_neg (by decide), if_neg (by decide), if_neg (by decide)]
    split
    · rfl
    · rename_i q k hl
      rw [hl] at hs
      rw [if_pos (by simpa using hs)]
  rw [e1, e2]
  unfold accept
  extract_lets p ch tg
  have hq : port (setPort r.port { p with last := some (r.seq, r.check), challenge := none } (credited r.port s)) r.port
      = { p with last := some (r.seq, r.check), challenge := none } := port_setPort ..
  have hpk : p.key = (port s r.port).key := by simp only [p, hp]
  have hlev : requestLevel r (setPort r.port { p with last := some (r.seq, r.check), challenge := none } (credited r.port s))
      = ((port s r.port).level, begun r s) := by
    unfold requestLevel
    rw [hq]
    cases hkey : (port s r.port).key with
    | none =>
      simp only [hpk, hkey]
      refine Prod.ext (by simp only [p, hp]) ?_
      unfold begun
      simp only [hp, hkey, Option.isSome_none, Bool.false_eq_true, if_false, p]
    | some k =>
      simp only [hpk, hkey]
      rw [hkey] at hk
      have ht : r.tag = some (sessionTag k 0 p.reqCount r.body) := by simp only [p, hp]; simpa using hk
      rw [if_pos ht]
      refine Prod.ext (by simp only [p, hp]) ?_
      unfold begun
      simp only [hp, hkey, Option.isSome_some, if_true, p, setPort_setPort]
  rw [hlev]
  have htg : tg = false := by
    simp only [tg, hpk]
    cases hkey : (port s r.port).key with
    | none =>
      rw [hkey] at hk
      have hk' : r.tag.isNone = true := hk
      rw [Option.isNone_iff_eq_none] at hk'
      rw [hk']; rfl
    | some k => rfl
  simp only [htg, ch, ho]

end Sys2Proof.Machine
end

