-- ==== Sys2Proof/Tests/Slice0.lean ====
section
/-! SUPPORT. Our own tests: the check of well-formedness refuses a term for each of its clauses; values that the spec works out itself; and for
each statement with hypotheses a state and operands that meet them together, clause by clause, at which the command then completes.  Every
expected value comes from the spec's text, never from the model. -/

set_option Elab.async false

namespace Sys2Proof.Tests

open Sys2Proof.Machine

/-! ### Well-formed commands: every check refuses a term that breaks it -/

def hdr : Hdr := ⟨.host, 255, some [1, 2, 3, 4, 5, 6, 7, 255]⟩
def hdrSeq : Hdr := ⟨.host, 256, none⟩
def hdrTag : Hdr := ⟨.field, 0, some [1, 2, 3]⟩
def hdrByte : Hdr := ⟨.sideband, 0, some [1, 2, 3, 4, 5, 6, 7, 256]⟩
def goodBlock : Block := ⟨15, List.replicate 16 255⟩
def goodPacket : Packet := ⟨255, 65535, List.replicate 10 255, 65535, [255], 4294967295⟩
def goodFrame : AuxFrame := ⟨255, 255, 65535, [255], 65535⟩
def key32 : List Nat := List.replicate 32 255

/-- Every one of a list of commands is refused. -/
def noneWf (l : List Instr) : Bool := l.all fun c => !c.wf

theorem test_wf_headers : noneWf [.nop hdrSeq, .nop hdrTag, .nop hdrByte, .close hdrSeq, .openReq hdrTag 1 [], .openReq hdr 256 [], .openReq hdr 1 [256],
    .prove hdrByte [], .prove hdr [256]] = true := by decide

theorem test_wf_reads_writes : noneWf [.read hdrSeq 0 0 none [], .read hdr 65536 0 none [], .read hdr 0 4096 none [], .read hdr 0 0 (some 256) [],
    .read hdr 0 0 none [256], .write hdrTag 0 0 none [], .write hdr 65536 0 none [], .write hdr 0 4096 none [], .write hdr 0 0 (some 256) [],
    .write hdr 0 0 none [256]] = true := by decide

theorem test_wf_tags : noneWf [.commit hdrSeq 0, .commit hdr 65536, .store hdrSeq 0, .store hdr 65536, .restoreDefaults hdrSeq 0,
    .restoreDefaults hdr 65536, .shadowDiscard hdrSeq 0, .shadowDiscard hdr 65536, .utcSet hdrSeq 0, .utcSet hdr 4294967296, .powerRequestOn hdrSeq,
    .powerRequestStandby hdrSeq, .powerRequestOff hdrSeq, .restart hdrSeq 0, .restart hdr 65536, .linkRetrain hdrSeq 0, .linkRetrain hdr 65536,
    .portRetrain hdrSeq 0 0, .portRetrain hdr 64 0, .portRetrain hdr 0 65536, .sweepStart hdrSeq 0, .sweepStart hdr 65536, .mapSave hdrSeq 0,
    .mapSave hdr 65536, .mapReload hdrSeq 0, .mapReload hdr 65536] = true := by decide

theorem test_wf_keys : noneWf [.lifecycleRequest hdrSeq 0 (List.replicate 8 0), .lifecycleRequest hdr 256 (List.replicate 8 0), .lifecycleRequest hdr 2 [],
    .lifecycleRequest hdr 2 (List.replicate 8 256), .operatorPassword hdrSeq 0 [], .operatorPassword hdr 4294967296 [], .operatorPassword hdr 0 [256],
    .integratorKey hdrSeq key32, .integratorKey hdr [], .integratorKey hdr (List.replicate 32 256), .attestChallenge hdrSeq key32,
    .attestChallenge hdr [], .attestChallenge hdr (List.replicate 32 256)] = true := by decide

theorem test_wf_updates : noneWf [.updateBegin hdrSeq 0, .updateBegin hdr 4294967296, .updateImage hdrSeq 0 [], .updateImage hdr 4294967296 [],
    .updateImage hdr 0 [256], .updateVerify hdrSeq 0, .updateVerify hdr 65536, .activateAtRestart hdrSeq, .activateNow hdrSeq, .confirm hdrSeq 0,
    .confirm hdr 65536] = true := by decide

theorem test_wf_tables : noneWf [.retire hdrSeq 0, .retire hdr 256, .fell hdrSeq 0 0 0, .fell hdr 8 0 0, .fell hdr 0 9 0, .fell hdr 0 0 256,
    .reinstate hdrSeq 0, .reinstate hdr 65536, .stressSet hdrSeq 0 [], .stressSet hdr 4294967296 [], .stressSet hdr 0 [256], .ovlMemWrite hdrSeq 0 [],
    .ovlMemWrite hdr 4294967296 [], .ovlMemWrite hdr 0 [256], .bufTableWrite hdrSeq true none [], .bufTableWrite hdr true (some 256) [],
    .bufTableWrite hdr false none [4294967296], .drvRegsWrite hdrSeq 0 [], .drvRegsWrite hdr 4294967296 [], .drvRegsWrite hdr 0 [256],
    .ntcEnableWrite hdrSeq 0 0, .ntcEnableWrite hdr 4 0, .ntcEnableWrite hdr 0 256, .ctrlportEnableWrite hdrSeq .field 0,
    .ctrlportEnableWrite hdr .field 256] = true := by decide

theorem test_wf_transports : noneWf [.spiWriteFrame [256], .i3cPrivateWrite [256], .i3cEntdaa 128, .i3cSetdasa 128 0, .i3cSetdasa 0 128,
    .fieldRequestSegment 128 [], .fieldRequestSegment 0 (List.replicate 65 0), .fieldRequestSegment 0 [256],
    .auxDictionarySegment { goodFrame with byte0 := 256 }, .auxAnswer { goodFrame with id := 256 }, .auxUnknownChannel { goodFrame with len := 65536 },
    .caps { goodFrame with payload := [256] }, .eqAck { goodFrame with check := 65536 }, .retrainReq { goodFrame with byte0 := 256 },
    .wakeRequest { goodFrame with id := 256 }, .cpHello { goodFrame with len := 65536 }, .cpConfirm { goodFrame with payload := [256] },
    .cpDrop { goodFrame with check := 65536 }] = true := by decide

theorem test_wf_link : noneWf [.trainingStateTimeout [{ lane := 16 }], .bitlockComplete [{ lane := 0, eye := [(41, 0)] }],
    .bitlockComplete [{ lane := 0, eye := [(0, 256)] }], .blocklockComplete [{ lane := 0, blocks := [⟨16, List.replicate 16 0⟩] }],
    .blocklockComplete [{ lane := 0, blocks := [⟨0, []⟩] }], .verifyWindowEnd [{ lane := 0, blocks := [⟨0, List.replicate 16 256⟩] }],
    .deskewComplete [{ lane := 0, sync := some (0, ⟨16, List.replicate 16 0⟩) }], .eqMeasurementDone [{ lane := 16 }],
    .laneLockLost 16 0 [], .laneLockLost 0 4 [], .laneLockLost 0 0 (List.replicate 65 0), .laneLockLost 0 0 [16], .laneSignalLost 65536,
    .idleColumn 65536, .fastExit 65536, .idleSignalDetected 16, .laneMarginCheck [(16, 0)], .laneMarginCheck [(0, 256)]] = true := by decide

theorem test_wf_packets : noneWf [.frameStart { goodPacket with flags := 256 }, .line { goodPacket with length := 65536 },
    .regionUpdate { goodPacket with fields := [] }, .frameEnd { goodPacket with fields := List.replicate 10 256 },
    .sleepNotice { goodPacket with hchk := 65536 }, .controlUser { goodPacket with body := [256] },
    .reservedPacket 0 { goodPacket with pchk := 4294967296 }, .reservedPacket 256 goodPacket, .lineDeadline 64 0, .tileLineQueued 64 0 [],
    .tileLineQueued 0 0 [3]] = true := by decide

theorem test_wf_otham_panel : noneWf [.driverStatus 64 [], .driverStatus 0 [⟨16, []⟩], .senseResult 64 [], .senseResult 0 [⟨0, []⟩],
    .reverseWindowEnd 64, .readbackCompare 64 0 0 [], .readbackCompare 0 2 0 [], .readbackCompare 0 0 0 [⟨0, []⟩], .olaneLockLost 64 0,
    .olaneLockLost 0 2, .othamTrainingTimer 64, .pgoodChange 6 true, .pgoodLost 6, .avddRefSample 65536, .mapRowLoaded false 0 [256]] = true := by decide

theorem test_wf_dram : noneWf [.dramReadComplete 31457280 0 [], .dramReadComplete 0 8 [], .dramReadComplete 0 0 [[(140, 1)]],
    .dramReadComplete 0 0 [[(0, 0)]], .dramReadComplete 0 0 [[(0, 256)]], .dramReadComplete 0 0 [[(0, 1), (0, 2)]], .dramRefreshDue 8 0 0,
    .dramRefreshDue 0 16 0, .dramRefreshDue 0 0 256, .throttleExpiry 8, .dramRequestPromotion 8, .fineRetrainTimer 8 0, .fullRetrainPiece 8 true false,
    .dramScrubStep [(140, 1)], .dramTrainingDone [⟨8, 0, none, 0⟩], .selfRefreshExit 8 0, .rowRepaired 8 0 0, .rowRepaired 0 16 0,
    .rowRepaired 0 0 16384] = true := by decide

theorem test_wf_sram : noneWf [.sramAccess 24 none none, .sramAccess 0 (some (.read 4194304 [])) none, .sramAccess 0 none (some (.read 1 [])),
    .sramAccess 0 (some (.read 0 [[(2, 1)]])) none, .sramAccess 0 (some (.read 0 [[(40, 1)]])) none, .sramAccess 0 (some (.read 0 [[(3, 1), (3, 2)]])) none,
    .sramAccess 0 (some (.write 1 [] [])) none, .sramAccess 0 (some (.write 0 [] [[(0, 1)]])) none, .sramAccess 0 (some (.write 0 [(8, 0)] [])) none,
    .sramAccess 0 (some (.write 0 [(0, 4294967296)] [])) none, .sramAccess 0 (some (.write 0 [(0, 1), (0, 2)] [])) none,
    .sramAccess 0 (some (.atomic 1 0 (.swap 0) [])) none, .sramAccess 0 (some (.atomic 0 8 (.swap 0) [])) none,
    .sramAccess 0 (some (.atomic 0 0 (.swap 4294967296) [])) none, .sramAccess 0 (some (.atomic 0 0 (.addWrap 2147483648) [])) none,
    .sramAccess 0 (some (.atomic 0 0 (.addSat (-2147483649)) [])) none, .sramAccess 0 (some (.atomic 0 0 (.swap 0) [[(2, 1)]])) none,
    .addWrap 24 true 0 0 0, .addWrap 0 true 1 0 0, .addWrap 0 true 0 8 0, .addWrap 0 true 0 0 2147483648, .addSat 24 true 0 0 0, .addSat 0 true 1 0 0,
    .addSat 0 true 0 8 0, .addSat 0 true 0 0 (-2147483649), .swap 24 true 0 0 0, .swap 0 true 1 0 0, .swap 0 true 0 8 0, .swap 0 true 0 0 4294967296,
    .sramScrubStep 24 [], .sramScrubStep 0 [[(2, 1)]], .spareCopyDone 24] = true := by decide

theorem test_wf_rest : noneWf [.thermalSample 16 0, .voltageSample 4 0, .ntcSample 4 0, .ntcSample 0 4096, .tamper 5 0, .entropyFailure 256,
    .testPortChallenge [256], .monitorMeasurement 65536 0, .monitorMeasurement 0 65536, .resetRelease true 8 true, .fullWake 0, .fullWake 10,
    .serviceWake 6] = true := by decide

/-- And terms at the bounds are well formed. -/
theorem test_wf_accepts : [Instr.read hdr 65535 4095 (some 255) [255], .frameStart goodPacket, .driverStatus 63 [goodBlock], .caps goodFrame,
    .addWrap 23 true 4194272 7 (-2147483648), .swap 0 false 0 0 4294967295, .rowRepaired 7 15 16383, .ntcSample 3 4095].all Instr.wf = true := by decide

/-! ### States and what it takes to meet a statement's hypotheses -/

/-- The command answers a next state there. -/
def Completes (c : Instr) (s : State) : Prop := ∃ t, exec c s = .next t
theorem met {c : Instr} {s : State} {P : State → Prop} (h : ∃ t, exec c s = .next t ∧ P t) : Completes c s := h.imp fun _ e => e.1
theorem met1 {c : Instr} {s t : State} (h : exec c s = .next t) : Completes c s := ⟨t, h⟩
theorem met2 {α : Type} {c : Instr} {s : State} {P : State → α → Prop} (h : ∃ t x, exec c s = .next t ∧ P t x) : Completes c s :=
  h.imp fun _ e => e.choose_spec.1
theorem met3 {α β : Type} {c : Instr} {s : State} {P : State → α → β → Prop} (h : ∃ t x y, exec c s = .next t ∧ P t x y) : Completes c s :=
  h.imp fun _ e => e.choose_spec.choose_spec.1
def canonB (s : State) : Bool :=
  Memory.wf 0#8 s.pstore.mem && Memory.wf 0#8 s.pstore.mirror && Memory.wf 0#8 s.stag.image && Memory.wf 0xFF#8 s.pipe.flash
  && Memory.wf 0#8 s.sram.mem && mwf 0 s.dict.res && mwf 0 s.dict.gens && mwf none s.dict.limited && mwf (0, 0) s.dict.lastEvent
  && mwf 0 s.dict.ce && mwf 0 s.dict.ue && mwf none s.dict.patch && mwf none s.dict.held && mrising 0 s.dict.cfg
theorem canon {s : State} (h : canonB s = true) : s.Canonical := by
  simp only [canonB, Bool.and_eq_true] at h
  obtain ⟨⟨⟨⟨⟨⟨⟨⟨⟨⟨⟨⟨⟨a, b⟩, c⟩, d⟩, e⟩, f⟩, g⟩, i⟩, j⟩, k⟩, l⟩, m⟩, n⟩, o⟩ := h
  exact ⟨a, b, c, d, e, f, g, i, j, k, l, m, n, o⟩

def up : State := { State.reset with
  power.phase := .up, power.state := .run, stag.running := true, pstore.read := true, pstore.identityOk := true
  sram.accessible := true, dram.ready := true, ctrl.host.enabled := true, ctrl.field.enabled := true, ctrl.sideband.enabled := true
  ctrl.host.level := 3, link.phase := .active, raster.stopped := false, panel.on := 2, stag.opRuns := true
  stag.slot := 1, sec.lifecycle := 1, sec.work := some {} }

/-! ### Values that the spec works out -/

/-- The nine ASCII bytes of the check values. -/
def nineDigits : List Nat := [0x31, 0x32, 0x33, 0x34, 0x35, 0x36, 0x37, 0x38, 0x39]

/-- Check values of 02, R59; 15, R390; 04, R113; 12, R323. -/
theorem test_crc_check_values : crc16 nineDigits = 0x29B1 ∧ crc8 nineDigits = 0xF4 ∧ crc32c nineDigits = 0xE3069283
    ∧ crc32 nineDigits = 0xCBF43926 := by decide +kernel

/-- 03, R84: lane 15 seeds 0x3AAA_AAA9. -/
theorem test_scrambler_seed : scramblerSeed 15 = 0x3AAAAAA9 := by decide +kernel

/-- 05, worked example: the line periods of 4K960 and 8K120, 372.02 and 1515.15 ticks. -/
theorem test_line_periods :
    linePeriod { width := 3840, height := 2160, refresh := 960 * 65536 } * 100 / 256 = 37202
    ∧ (linePeriod { refresh := 120 * 65536 } * 100 + 128) / 256 = 151515 := by decide +kernel

/-- 06, worked example: an overlay pixel over a base of 600 000 and 300 000 with e = 100. -/
theorem test_blend : blend 100 262144 600000 = 467507 ∧ blend 100 0 300000 = 182353 := by decide +kernel

/-- 07, worked example: 32.5 degrees lies in plane 1 with weight 160, block stress 0x1400_0000 at 80, roots of 160 000 and 1 000 000. -/
theorem test_overdrive_axes : tempPosition (valsNow State.reset) 8320 = (1, 160) ∧ agePosition (valsNow State.reset) 0x14000000 = 80
    ∧ isqrt 160000 = 400 ∧ isqrt 1000000 = 1000 := by decide +kernel

/-- 08, worked example: measured 255 000 at gain 17 797 moves the residual by 4, the limit. -/
theorem test_sense_step : senseStep (valsNow (setCfg hCOMP Par.COMP_LOOP_GAIN 0 128 up)) 0 255000 17797 = 4 := by decide +kernel

/-- 09, worked example: level 436 054 of GRN is 1 744 215; the mask places of (1000, 2000) at phases 0 to 2. -/
theorem test_code_lut : codeY (valsNow State.reset) 1 436054 = 1744215 := by decide +kernel
theorem test_mask_places : maskPlace 0 1000 2000 = (40, 16) ∧ maskPlace 1 1000 2000 = (47, 40) ∧ maskPlace 2 1000 2000 = (23, 47) := by decide +kernel

/-- 11, R282, worked example: D 32 768, CAL 29 491 and DUTY_BITS 10 give Dq 29 440. -/
theorem test_duty : dutyQ (setCfg hROWDRV Par.ROWDRV_DUTY_CAL 1 29491 (setCfg hROWDRV Par.ROWDRV_DUTY_BITS 0 10 up)) 32768 1 = 29440 := by decide +kernel

/-- 13, worked example: usable address 0x0012_3480 with a grain of 2 KiB, under the four orders. -/
theorem test_dram_map : homeOf 2 3 9321 = ⟨6, 8, 4, 13⟩ ∧ homeOf 1 3 9321 = ⟨4, 6, 4, 13⟩ ∧ homeOf 3 3 9321 = ⟨6, 0, 77, 6⟩
    ∧ homeOf 0 3 9321 = ⟨0, 6, 39, 0⟩ := by decide +kernel

/-- 18, worked example: margins of 1.205 ns, 1.198 ns and 1.020 ns at 380 159 878 subpixels a second. -/
theorem test_margins : marginOf 380159878 1205 = 4470 ∧ marginOf 380159878 1198 = 4496 ∧ marginOf 380159878 1020 = 5281 := by decide +kernel

/-- Lane 3 of word 0 of BANK11 (14, worked example), read from the state that a command answers. -/
def lane3 (o : Host.Outcome State Fault Refusal) : Option Nat := match o with
  | .next t => (wordLanes (wordBytes t 11 0))[3]?
  | _ => none
/-- BANK11 holds a value in lane 3 of word 0. -/
def bank11 (v : Nat) : State := { up with sram.mem := storeBytes 0#8 [] (bankAddr 11 0 + 12) (u32 v) }
/-- What port B is answered. -/
def replyB (o : Host.Outcome State Fault Refusal) : Option SramReply := match o with
  | .next t => (bank t 11).replyB
  | _ => none

/-- 14, worked example, slot 1: of two writes with different data port A's stays; slots 2 and 3: the sums and what they answer. -/
theorem test_sram_writes : lane3 (exec (.sramAccess 11 (some (.write 0 [(3, 0x20)] [])) (some (.write 0 [(3, 0x30)] []))) (bank11 0x10)) = some 0x20 := by
  decide +kernel
theorem test_add_wrap : lane3 (exec (.addWrap 11 false 0 3 5) (bank11 0x20)) = some 0x25 := by decide +kernel
theorem test_add_sat : lane3 (exec (.addSat 11 true 0 3 0x7FFFFFF0) (bank11 0x25)) = some 0x80000015
    ∧ replyB (exec (.addSat 11 true 0 3 0x7FFFFFF0) (bank11 0x25)) = some ⟨0, [0x25]⟩ := by decide +kernel
theorem test_swap : lane3 (exec (.swap 11 true 0 3 0) (bank11 0x40)) = some 0
    ∧ replyB (exec (.swap 11 true 0 3 0) (bank11 0x40)) = some ⟨0, [0x40]⟩ := by decide +kernel

/-- 02, Table 2.7: the joint clamp of 7000 x 4320 at 270 Hz with 5000 blanking lines and a layer of 200 pixels at 6900. -/
def clampExample (h p : Nat) : Int :=
  if (h, p) = (hRASTER, Par.RASTER_ACTIVE_WIDTH) then 7000
  else if (h, p) = (hRASTER, Par.RASTER_REFRESH) then 270 * 65536
  else if (h, p) = (hRASTER, Par.RASTER_VBLANK) then 5000
  else if (h, p) = (hLAYER 2, Par.LAYER_X) then 6900
  else if (h, p) = (hLAYER 2, Par.LAYER_WIDTH) then 200
  else cfgI up h p
theorem test_joint_clamp : (jointClamp (32, 32) clampExample).map (fun a => (a.1, a.2.1, if a.2.1 = Par.RASTER_REFRESH then a.2.2.1 * 100 / 65536 else a.2.2.1))
    = [(hRASTER, Par.RASTER_REFRESH, 26455), (hRASTER, Par.RASTER_VBLANK, 3996), (hRASTER, Par.RASTER_ACTIVE_WIDTH, 6976),
      (hLAYER 2, Par.LAYER_WIDTH, 76)] := by decide +kernel

/-- 20, Table 20.1: the signal balls. -/
theorem test_signals : allSignals.length = 414 := by decide +kernel

/-- No row of the table gives bits, so no word spells a command. -/
theorem test_no_words (n w : Nat) : decodeTableWord n w = none := rfl

/-! ### The machine -/

theorem witness_StepRunsFront (h : Obligations.StepRunsFront) : step State.reset = .next (tick State.reset) :=
  (h State.reset .lineStart []).2 rfl
theorem witness_StepKeepsCanonical (h : Obligations.StepKeepsCanonical) : (tick State.reset).Canonical :=
  (h State.reset _ rfl).2 (canon (by decide +kernel))
theorem witness_PreLut (h : Obligations.PreLut) : preLut (fun _ _ _ => 0) 2 65535 = 65535 ∧ preLut (fun _ _ _ => 1) 2 65535 = 257 :=
  ⟨(h (fun _ _ _ => 0) 2 65535).1 rfl, ((h (fun _ _ _ => 1) 2 65535).2 rfl).trans (by decide +kernel)⟩

/-! ### Sessions -/

def h0 : Hdr := ⟨.host, 0, none⟩

def pass : List Nat := [1, 2, 3, 4, 5, 6, 7, 8]
@[irreducible] def passHash : List Nat := pbkdf2 pass [] 16384
def passed : State := { up with sec.work := some { opSet := true, opHash := passHash } }
theorem passed_right : pbkdf2 pass (keys passed).opSalt 16384 = (keys passed).opHash := by
  have e : pbkdf2 pass [] 16384 = passHash := by delta passHash; exact Eq.refl _
  exact e
def asked : State := { up with ctrl.host.challenge := some ([7], 2, 0), ctrl.host.level := 0, sec.work := some { intSet := true } }

theorem witness_SessionRequests (h : Obligations.SessionRequests) :
    Completes (.nop h0) up ∧ Completes (.close h0) up
    ∧ Completes (.openReq h0 1 pass) passed
    ∧ Completes (.openReq h0 2 []) up ∧ Completes (.openReq h0 3 []) up
    ∧ Completes (.prove h0 (hmac [] ([7] ++ [2, portCode .host] ++ uid asked))) asked :=
  ⟨met ((h up h0).1 (by decide +kernel)), met ((h up h0).2.1 (by decide +kernel)),
   met ((h passed h0).2.2.1 pass (by decide +kernel) (by decide) (by decide) rfl (by decide +kernel) rfl
     passed_right),
   met2 ((h up h0).2.2.2.1 2 (by decide +kernel) (by decide +kernel) rfl (by decide +kernel) rfl),
   met2 ((h up h0).2.2.2.1 3 (by decide +kernel) (by decide +kernel) rfl (by decide +kernel) rfl),
   met ((h asked h0).2.2.2.2 [7] 2 (by decide +kernel) rfl (fun _ => rfl) (by decide +kernel))⟩

/-! ### Reads, writes and requests of the device -/

theorem witness_ReadsAnswerAndWritesKeep (h : Obligations.ReadsAnswerAndWritesKeep) :
    Completes (.read h0 hPSTORE 0x040 none []) up ∧ Completes (.read h0 hPSTORE 0x40A none []) up
    ∧ Completes (.read h0 hLOG Par.LOG_RING none (u32 131071 ++ u32 9)) up
    ∧ Completes (.write h0 hOVERDRIVE 0x043 none [1, 0, 2, 0, 3, 0, 255, 127]) up
    ∧ Completes (.write h0 hDRAM Par.DRAM_MAP_ORDER none [9]) up
    ∧ Completes (.write h0 hPSTORE 0x040 none [255, 255]) up :=
  ⟨met (((h up h0 hPSTORE 0x040 none (en 0x040 (.int false 2 16) 0 0 2 10 (.span 1 1000) .now true false none) (canon (by decide +kernel))).1
      (by decide +kernel) (by decide +kernel) rfl rfl (by decide)).1 (by decide) (by decide) (by decide)),
   met (((h up h0 hPSTORE 0x40A none (en 0x40A (.int false 4 32) 0 0 4 0 .any .none false false none) (canon (by decide +kernel))).1
      (by decide +kernel) (by decide +kernel) rfl rfl (by decide)).2 (by decide) (by decide) (by decide) (by decide) (by decide) (by decide)
      (by decide) (by decide)),
   met ((h up h0 hPSTORE 0 none (en 0 .bool 0 0 0 0 .any .now false false none) (canon (by decide +kernel))).2.1 131071 9
      (by decide +kernel) (by decide) (by decide)),
   met (((h up h0 hOVERDRIVE 0x043 none (en 0x043 (.int true 2 16) 4 0 2 0 (.span (-10240) 32000) .vb true false none)
      (canon (by decide +kernel))).2.2 [1, 0, 2, 0, 3, 0, 255, 127] (by decide +kernel) (by decide +kernel) rfl rfl rfl (by decide)).1 rfl
      (by decide +kernel)),
   met (((h up h0 hDRAM Par.DRAM_MAP_ORDER none (en 0x040 (.enum) 0 0 2 2 (.span 0 3) .rst true false none)
      (canon (by decide +kernel))).2.2 [9] (by decide +kernel) (by decide +kernel) rfl rfl rfl (by decide)).2.1 rfl (by decide) (by decide)),
   met (((h up h0 hPSTORE 0x040 none (en 0x040 (.int false 2 16) 0 0 2 10 (.span 1 1000) .now true false none)
      (canon (by decide +kernel))).2.2 [255, 255] (by decide +kernel) (by decide +kernel) rfl rfl rfl (by decide)).2.2 rfl (by decide)
      (by decide) (by decide))⟩

def full : State := { up with ctrl.host.unanswered := 4 }
theorem witness_RequestsTurnedAway (h : Obligations.RequestsTurnedAway) :
    Completes (.read h0 hDEV 0 none []) full ∧ Completes (.write h0 hDEV 0 none []) full
    ∧ Completes (.write h0 0x7777 0 none []) up ∧ Completes (.write h0 hDEV 0 none [1]) up
    ∧ Completes (.read h0 hDEV 0 none []) { up with stag.restarting := some (0, 0) } :=
  ⟨met ((h full h0 hDEV 0 none [] (canon (by decide +kernel)) rfl).1 false (by decide +kernel)),
   met ((h full h0 hDEV 0 none [] (canon (by decide +kernel)) rfl).1 true (by decide +kernel)),
   met ((h up h0 0x7777 0 none [] (canon (by decide +kernel)) rfl).2.1 true stNO_UNIT (by decide +kernel) rfl),
   met ((h up h0 hDEV 0 none [1] (canon (by decide +kernel)) rfl).2.1 true stBAD_FORM (by decide +kernel) rfl),
   met ((h { up with stag.restarting := some (0, 0) } h0 hDEV 0 none [] (canon (by decide +kernel)) rfl).2.2 false (by decide +kernel)
     rfl)⟩

def patchy : State := { up with dict.patch := [(cell hLAYERS 0x041 3, some 64)], dict.items := [(keyOf hLAYERS 0x041, some 3)]
                                dict.commits := [⟨some 1, [(cell hLAYERS 0x041 3, some 32)], 0⟩] }
theorem witness_ShadowDiscardReadsCommitted (h : Obligations.ShadowDiscardReadsCommitted) :
    Completes (.shadowDiscard h0 65535) patchy :=
  met (h patchy h0 65535 (canon (by decide +kernel)) (by decide +kernel))

def quiet : State := { patchy with raster.stopped := true }
theorem witness_ConfigurationRequests (h : Obligations.ConfigurationRequests) :
    Completes (.commit h0 65535) patchy ∧ Completes (.commit h0 65535) quiet ∧ Completes (.store h0 65535) up
    ∧ Completes (.restoreDefaults h0 65535) up ∧ Completes (.utcSet h0 4294967295) up :=
  ⟨met ((h patchy h0 65535 (canon (by decide +kernel)) (by decide)).1 (by decide +kernel) rfl),
   met ((h quiet h0 65535 (canon (by decide +kernel)) (by decide)).2.1 (by decide +kernel) rfl),
   met ((h up h0 65535 (canon (by decide +kernel)) (by decide)).2.2.1 (by decide +kernel) (by decide +kernel) (by decide +kernel)),
   met ((h up h0 65535 (canon (by decide +kernel)) (by decide)).2.2.2.1 (by decide +kernel) (by decide +kernel)),
   met ((h up h0 65535 (canon (by decide +kernel)) (by decide)).2.2.2.2 4294967295 (by decide +kernel) (by decide))⟩

def leaving : State := { up with power.transition := some { off := true } }
def keyed : State := { up with sec.work := some { intSet := true }, ctrl.host.level := 2 }
def uid8 : List Nat := uid keyed
theorem witness_PowerAndLifecycleRequests (h : Obligations.PowerAndLifecycleRequests) :
    Completes (.powerRequestOn h0) leaving ∧ Completes (.powerRequestStandby h0) up ∧ Completes (.powerRequestOff h0) up
    ∧ Completes (.restart h0 65535) up ∧ Completes (.lifecycleRequest h0 2 uid8) keyed :=
  ⟨met ((h leaving h0 (canon (by decide +kernel))).1 { off := true } (by decide +kernel) rfl rfl),
   met ((h up h0 (canon (by decide +kernel))).2.1 (by decide +kernel) (by decide +kernel)),
   met ((h up h0 (canon (by decide +kernel))).2.2.1 (by decide +kernel) (by decide +kernel)),
   met ((h up h0 (canon (by decide +kernel))).2.2.2.1 65535 (by decide) (by decide +kernel)),
   met ((h keyed h0 (canon (by decide +kernel))).2.2.2.2 2 uid8 (by decide +kernel) rfl)⟩

theorem witness_SecurityRequests (h : Obligations.SecurityRequests) :
    Completes (.operatorPassword h0 0 []) up ∧ Completes (.operatorPassword h0 0 [1, 2, 3, 4, 5, 6, 7, 8]) up
    ∧ Completes (.integratorKey h0 (List.replicate 32 0)) up ∧ Completes (.integratorKey h0 (List.replicate 32 7)) up
    ∧ Completes (.attestChallenge h0 (List.replicate 32 7)) { up with sec.work := some { idPriv := [1] } } :=
  ⟨met3 ((h up h0 rfl rfl rfl).1 [] (by decide +kernel) (.inl rfl)),
   met3 ((h up h0 rfl rfl rfl).1 [1, 2, 3, 4, 5, 6, 7, 8] (by decide +kernel) (.inr rfl)),
   met3 ((h up h0 rfl rfl rfl).2.1 (List.replicate 32 0) (by decide +kernel)),
   met3 ((h up h0 rfl rfl rfl).2.1 (List.replicate 32 7) (by decide +kernel)),
   met ((h { up with sec.work := some { idPriv := [1] } } h0 rfl rfl rfl).2.2 (List.replicate 32 7) (by decide +kernel) rfl)⟩

/-! ### Requests of the link, the maps, updates, resilience and tables -/

/-- A directory of five regions. -/
def bankedRegions : List (Nat × Nat × Nat) := [(1, 0x10000, 0x430000), (2, 0x440000, 0x430000), (0x10, 0x870000, 8388608),
    (0x11, 0x1070000, 8388608), (0x12, 0x2000000, 1048576)]

/-- A bank A of 7680 x 4320 x 3 without items. -/
def bankedHead : List Nat := [0x4B, 0x4C, 0x53, 0x42] ++ u32 7 ++ u16 7680 ++ u16 4320 ++ [3, 0] ++ List.replicate 49 255 ++ [0xA5]
@[irreducible] def directoryFlash : Mem := storeBytes 0xFF#8 [] 0 (directoryBytes 2 bankedRegions)
@[irreducible] def bankedFlash : Mem := storeBytes 0xFF#8 directoryFlash 0x870000 bankedHead
theorem directoryFlash_eq : directoryFlash = storeBytes 0xFF#8 [] 0 (directoryBytes 2 bankedRegions) := by unfold directoryFlash; rfl
theorem bankedFlash_eq : bankedFlash = storeBytes 0xFF#8 directoryFlash 0x870000 bankedHead := by unfold bankedFlash; rfl
theorem directoryFlash_wf : Memory.wf 0xFF#8 directoryFlash = true := by rw [directoryFlash_eq]; exact storeBytes_wf _ _ _ _ (wf_nil _)

def stoppedPort : State := { up with out.ports := [(63, { stopped := true })] }
def waitsBack : State := { up with link.phase := .backoff, link.lost := true }
def noFlash : State := { up with pipe.flash := [] }
def banked : State := { up with pipe.flash := bankedFlash }

theorem canonical_flash {s : State} {m : Mem} (c : s.Canonical) (h : Memory.wf 0xFF#8 m = true) :
    State.Canonical { s with pipe.flash := m } := { c with flash := h }
theorem bankedFlash_wf : Memory.wf 0xFF#8 bankedFlash = true := by rw [bankedFlash_eq]; exact storeBytes_wf _ _ _ _ directoryFlash_wf
theorem banked_canonical : banked.Canonical := canonical_flash (canon (by decide +kernel)) bankedFlash_wf
theorem flash_stored (m m' : Mem) (a n : Nat) (bs : List Nat) (hs : m' = storeBytes 0xFF#8 m a bs) (hn : bs.length = n)
    (h : Memory.wf 0xFF#8 m = true) (hb : ∀ b ∈ bs, b < 256) : loadBytes 0xFF#8 (mslice m' a (a + n)) a n = bs := by
  subst hn hs
  rw [loadBytes_congr _ _ (storeBytes 0xFF#8 m a bs) _ _ fun i hi => mget_mslice _ (by omega) (by omega) _ (storeBytes_wf _ _ _ _ h),
    loadBytes_storeBytes _ _ _ _ h hb]
theorem flash_apart (m m' : Mem) (a b n : Nat) (bs : List Nat) (hs : m' = storeBytes 0xFF#8 m b bs)
    (h : Memory.wf 0xFF#8 m = true) (ha : a + n ≤ b ∨ b + bs.length ≤ a) :
    loadBytes 0xFF#8 (mslice m' a (a + n)) a n = loadBytes 0xFF#8 (mslice m a (a + n)) a n := by
  subst hs
  refine loadBytes_congr _ _ _ _ _ fun i hi => ?_
  rw [mget_mslice _ (by omega) (by omega) _ (storeBytes_wf _ _ _ _ h), mget_mslice _ (by omega) (by omega) _ h,
    storeBytes_outside _ _ _ _ _ h (by omega)]
theorem flash_empty (a n : Nat) : loadBytes 0xFF#8 (mslice [] a (a + n)) a n = List.replicate n 255 := by
  simp only [mslice, List.filter_nil, loadBytes, mgetList, mget, List.map_map]
  rw [List.eq_replicate_iff]
  exact ⟨by simp, by simp⟩
theorem toLE_bytes (n v : Nat) : ∀ b ∈ toLE n v, b < 256 := by
  induction n generalizing v with
  | zero => simp [toLE]
  | succ n ih =>
    intro b hb
    rw [toLE, List.mem_cons] at hb
    exact hb.elim (fun h => h ▸ Nat.mod_lt _ (by decide)) (ih _ b)
theorem toLE_length (n v : Nat) : (toLE n v).length = n := by
  induction n generalizing v with
  | zero => rfl
  | succ n ih => rw [toLE, List.length_cons, ih]
theorem leNat_toLE (n v : Nat) : leNat (toLE n v) = v % 256 ^ n := by
  induction n generalizing v with
  | zero => simp [toLE, leNat, Nat.mod_one]
  | succ n ih => rw [toLE, leNat, ih, Nat.mod_mod, Nat.pow_succ, Nat.mul_comm (256 ^ n), Nat.mod_mul]
theorem crc32c_lt (bs : List Nat) : crc32c bs < 2 ^ 32 := by
  have down : ∀ c, c < 2 ^ 32 → crcDown 0x82F63B78 c < 2 ^ 32 := by
    intro c hc
    unfold crcDown
    split
    · exact Nat.xor_lt_two_pow (by omega) (by decide)
    · omega
  have many : ∀ n c, c < 2 ^ 32 → times (crcDown 0x82F63B78) n c < 2 ^ 32 := by
    intro n
    induction n with
    | zero => exact fun c hc => hc
    | succ n ih => exact fun c hc => ih _ (down c hc)
  have run : ∀ bs : List Nat, ∀ c, c < 2 ^ 32 → crc32Run 0x82F63B78 c bs < 2 ^ 32 := by
    intro bs
    induction bs with
    | nil => exact fun c hc => hc
    | cons b bs ih => exact fun c hc => ih _ (many _ _ (Nat.xor_lt_two_pow hc (by omega)))
  exact Nat.xor_lt_two_pow (run bs _ (by decide)) (by decide)
theorem padTo_length (n : Nat) (bs : List Nat) : (padTo n bs).length = n := by simp [padTo]
theorem padTo_bytes (n : Nat) (bs : List Nat) (h : ∀ b ∈ bs, b < 256) : ∀ b ∈ padTo n bs, b < 256 := by
  intro b hb
  rcases List.mem_append.1 (List.mem_of_mem_take hb) with m | m
  · exact h b m
  · rw [List.eq_of_mem_replicate m]; decide
/-- The head of the witness's directory: 12 bytes and its five regions. -/
def bankedTop : List Nat := [0x4B, 0x4C, 0x4D, 0x44] ++ u32 2 ++ u16 5 ++ [0, 0]
    ++ bankedRegions.flatMap fun r => u16 r.1 ++ [0, 0] ++ u32 r.2.1 ++ u32 r.2.2 ++ [0, 0, 0, 0]
theorem directory_split : directoryBytes 2 bankedRegions = padTo 4092 bankedTop ++ toLE 4 (crc32c (padTo 4092 bankedTop)) := rfl
theorem bankedTop_bytes : ∀ b ∈ bankedTop, b < 256 := by decide +kernel
theorem directory_length : (directoryBytes 2 bankedRegions).length = 4096 := by
  rw [directory_split, List.length_append, padTo_length, toLE_length]
theorem directory_bytes : ∀ b ∈ directoryBytes 2 bankedRegions, b < 256 := by
  intro b hb
  rw [directory_split, List.mem_append] at hb
  exact hb.elim (padTo_bytes _ _ bankedTop_bytes b) (toLE_bytes 4 _ b)
theorem copy_of {s : State} {c : Nat} {body rest : List Nat} (hl : body.length = 4092) (hr : leNat rest = crc32c body)
    (h : flashAt s (c * 4096) 4096 = body ++ rest) (hm : (body ++ rest).take 4 = [0x4B, 0x4C, 0x4D, 0x44]) :
    directoryCopy s c = some (leNat (sub (body ++ rest) 4 4), (List.range (min 254 (leNat (sub (body ++ rest) 8 2)))).map fun i =>
      let r := sub (body ++ rest) (12 + 16 * i) 16
      (leNat (r.take 2), leNat (sub r 4 4), leNat (sub r 8 4))) := by
  unfold directoryCopy
  rw [h]
  have e1 : (body ++ rest).take 4092 = body := by rw [← hl, List.take_left]
  have e2 : (body ++ rest).drop 4092 = rest := by rw [← hl, List.drop_left]
  dsimp only
  rw [if_pos ⟨hm, by rw [e1, e2, hr]⟩]
theorem copy_none {s : State} {c : Nat} (h : flashAt s (c * 4096) 4096 = List.replicate 4096 255) : directoryCopy s c = none := by
  unfold directoryCopy
  rw [h]
  dsimp only
  rw [if_neg]
  rw [List.take_replicate]
  exact fun x => absurd x.1 (by decide)
theorem directory_of {s : State} {x : Nat × List (Nat × Nat × Nat)} (h : directoryCopy s 0 = some x) (h' : directoryCopy s 1 = none) :
    directory s = some (0, x) := by
  unfold directory
  rw [h, h']
theorem banked_flash (a n : Nat) : flashAt banked a n = loadBytes 0xFF#8 (mslice bankedFlash a (a + n)) a n := rfl
theorem bankedHead_length : bankedHead.length = 64 := by decide +kernel
theorem flash_head : flashAt banked 0x870000 64 = bankedHead := by
  rw [banked_flash]
  exact flash_stored _ _ _ _ _ bankedFlash_eq bankedHead_length directoryFlash_wf (by decide +kernel)
theorem flash_low (a n : Nat) (ha : a + n ≤ 0x870000 ∨ 0x870000 + 64 ≤ a) :
    flashAt banked a n = loadBytes 0xFF#8 (mslice directoryFlash a (a + n)) a n := by
  rw [banked_flash]
  exact flash_apart _ _ _ _ _ _ bankedFlash_eq directoryFlash_wf (by rw [bankedHead_length]; exact ha)
theorem flash_erased (a n : Nat) (ha : 4096 ≤ a) (hb : a + n ≤ 0x870000 ∨ 0x870000 + 64 ≤ a) :
    flashAt banked a n = List.replicate n 255 := by
  rw [flash_low a n hb, flash_apart _ _ _ 0 _ _ directoryFlash_eq (wf_nil _) (.inr (by rw [directory_length]; omega)), flash_empty]
theorem banked_copy0 : directoryCopy banked 0 = some (2, bankedRegions) := by
  have h : flashAt banked (0 * 4096) 4096 = padTo 4092 bankedTop ++ toLE 4 (crc32c (padTo 4092 bankedTop)) := by
    rw [Nat.zero_mul, flash_low _ _ (by omega), ← directory_split]
    exact flash_stored _ _ 0 4096 _ directoryFlash_eq directory_length (wf_nil _) directory_bytes
  rw [copy_of (padTo_length _ _) ?_ h ?_]
  · decide +kernel
  · rw [leNat_toLE]
    exact Nat.mod_eq_of_lt (crc32c_lt _)
  · decide +kernel
theorem banked_copy1 : directoryCopy banked 1 = none := copy_none (flash_erased _ _ (by omega) (by omega))
theorem banked_directory : directory banked = some (0, 2, bankedRegions) := directory_of banked_copy0 banked_copy1
theorem region_of {s : State} {c q n : Nat} {rs : List (Nat × Nat × Nat)} (h : directory s = some (c, q, rs)) :
    region s n = (rs.find? fun r => r.1 == n).map (·.2) := by
  unfold region
  rw [h]
theorem regionA : region banked 0x10 = some (0x870000, 8388608) := (region_of banked_directory).trans (by decide)
theorem regionB : region banked 0x11 = some (0x1070000, 8388608) := (region_of banked_directory).trans (by decide)
theorem banked_rows : (region banked 0x12).isSome = true := by rw [region_of banked_directory]; decide
theorem bankA : readBank banked 0x870000 = .ok (7, [7680, 4320, 3], []) := by
  unfold readBank
  rw [flash_head]
  rfl
theorem bankB : readBank banked 0x1070000 = .error 2 := by
  unfold readBank
  rw [flash_erased _ _ (by omega) (by omega)]
  rfl
theorem banks_of {s : State} {oA oB nA nB e : Nat} {x : Nat × List Nat × List (Nat × Nat × Nat)} (hA : region s 0x10 = some (oA, nA))
    (rA : readBank s oA = .ok x) (hB : region s 0x11 = some (oB, nB)) (rB : readBank s oB = .error e) : (readBanks s).1 = [(1, x)] := by
  simp only [readBanks, List.foldl_cons, List.foldl_nil, hA, rA, hB, rB, List.nil_append]
theorem banked_read : bankInForce (readBanks banked).1 = some (1, 7, [7680, 4320, 3], []) := by
  rw [banks_of regionA bankA regionB bankB]
  rfl
theorem witness_LinkAndMapRequests (h : Obligations.LinkAndMapRequests) :
    Completes (.linkRetrain h0 65535) up ∧ Completes (.linkRetrain h0 0) waitsBack
    ∧ Completes (.portRetrain h0 63 65535) stoppedPort ∧ Completes (.portRetrain h0 63 0) up ∧ Completes (.sweepStart h0 65535) up
    ∧ Completes (.mapSave h0 65535) up ∧ Completes (.mapReload h0 65535) noFlash ∧ Completes (.mapReload h0 65535) banked :=
  ⟨met ((h up h0 65535 (by decide)).1 (by decide +kernel)),
   met ((h waitsBack h0 0 (by decide)).1 (by decide +kernel)),
   met (((h stoppedPort h0 65535 (by decide)).2.1 63 (by decide) (by decide +kernel)).1 (.inl rfl) (by decide +kernel) (by decide +kernel)
     (.inl (by decide +kernel)) (by decide +kernel)),
   met (((h up h0 0 (by decide)).2.1 63 (by decide) (by decide +kernel)).2 rfl rfl),
   met ((h up h0 65535 (by decide)).2.2.1 (by decide +kernel)),
   met ((h up h0 65535 (by decide)).2.2.2.1 (by decide +kernel) rfl),
   met (((h noFlash h0 65535 (by decide)).2.2.2.2 (by decide +kernel) rfl (canon (by decide +kernel))).1 (by decide +kernel) rfl),
   met2 (((h banked h0 65535 (by decide)).2.2.2.2 (by decide +kernel) rfl banked_canonical).2 1 7 [] banked_read
     banked_rows (by decide))⟩

def filling : State := setRes hUPDATE Par.UPDATE_STATE 1 { up with stag.imageLen := 257 }
def readyImage : State := setRes hUPDATE Par.UPDATE_STATE 3 { up with stag.imageLen := 4194560 }
def onTrial : State := { up with stag.trial := true }
theorem witness_UpdateRequests (h : Obligations.UpdateRequests) :
    Completes (.updateBegin h0 257) up ∧ Completes (.updateBegin h0 4194560) up ∧ Completes (.updateImage h0 255 [1, 2, 3]) filling
    ∧ Completes (.updateVerify h0 65535) filling ∧ Completes (.activateAtRestart h0) readyImage ∧ Completes (.activateNow h0) readyImage
    ∧ Completes (.confirm h0 0) onTrial :=
  ⟨met ((h up h0 (canon (by decide +kernel))).1 257 (by decide +kernel) (by decide) (by decide) (by decide +kernel) (by decide +kernel)),
   met ((h up h0 (canon (by decide +kernel))).1 4194560 (by decide +kernel) (by decide) (by decide) (by decide +kernel) (by decide +kernel)),
   met ((h filling h0 (canon (by decide +kernel))).2.1 255 [1, 2, 3] (by decide) (by decide +kernel) (by decide +kernel)),
   met ((h filling h0 (canon (by decide +kernel))).2.2.1 65535 (by decide) (by decide +kernel) (by decide +kernel) (by decide +kernel)),
   met ((h readyImage h0 (canon (by decide +kernel))).2.2.2.1 1 _ (.inl ⟨rfl, rfl⟩) (by decide +kernel) (by decide +kernel) rfl),
   met ((h readyImage h0 (canon (by decide +kernel))).2.2.2.1 2 _ (.inr ⟨rfl, rfl⟩) (by decide +kernel) (by decide +kernel) rfl),
   met ((h onTrial h0 (canon (by decide +kernel))).2.2.2.2 0 (by decide) (by decide +kernel) rfl)⟩

def spareGood : State := { up with pipe.tiles := [(7 * 16 + 8, { margin := 65535 })] }
def blazed : State := { up with pstore.blaze := [(hTILE 0 0, 1, 0)] }
def served : State := { up with dram.chans := [(7, { service := true, powered := true })] }
theorem witness_ResilienceRequests (h : Obligations.ResilienceRequests) :
    Completes (.retire h0 7) served ∧ Completes (.retire h0 0) { served with dram.retired := some 7 }
    ∧ Completes (.fell h0 7 7 255) spareGood ∧ Completes (.fell h0 7 8 0) up
    ∧ Completes (.reinstate h0 (hTILE 0 0)) blazed ∧ Completes (.reinstate h0 65535) up :=
  ⟨met ((h served h0 (canon (by decide +kernel))).1 7 (by decide) (by decide +kernel) (by decide +kernel)),
   met ((h { served with dram.retired := some 7 } h0 (canon (by decide +kernel))).1 0 (by decide) (by decide +kernel) (by decide +kernel)),
   met ((h spareGood h0 (canon (by decide +kernel))).2.1 7 7 255 (by decide) (by decide) (by decide) (by decide +kernel) (by decide +kernel)
     (by decide +kernel)),
   met ((h up h0 (canon (by decide +kernel))).2.1 7 8 0 (by decide) (by decide) (by decide) (by decide +kernel) (by decide +kernel)
     (by decide +kernel)),
   met ((h blazed h0 (canon (by decide +kernel))).2.2 (hTILE 0 0) (by decide) (by decide +kernel)),
   met ((h up h0 (canon (by decide +kernel))).2.2 65535 (by decide) (by decide +kernel))⟩

def hf : Hdr := ⟨.field, 0, none⟩
def fielded : State := { up with ctrl.field.level := 3 }
theorem witness_TableWrites (h : Obligations.TableWrites) :
    Completes (.stressSet h0 0 [9, 8, 7]) up ∧ Completes (.ovlMemWrite h0 8388606 [9, 8]) up
    ∧ Completes (.bufTableWrite h0 true (some 15) [4294967295]) up ∧ Completes (.bufTableWrite h0 false none (List.replicate 16 33)) up
    ∧ Completes (.drvRegsWrite h0 1022 [9, 8, 7]) up ∧ Completes (.ntcEnableWrite h0 3 1) up
    ∧ Completes (.ctrlportEnableWrite h0 .field 0) up
    ∧ Completes (.ctrlportEnableWrite h0 .sideband 1) { up with ctrl.sideband.enabled := false }
    ∧ Completes (.ctrlportEnableWrite h0 .host 0) up ∧ Completes (.ctrlportEnableWrite hf .field 0) fielded :=
  ⟨met ((h up h0 (canon (by decide +kernel))).1 0 [9, 8, 7] (by decide) (by decide +kernel) (by decide +kernel)),
   met ((h up h0 (canon (by decide +kernel))).2.1 8388606 [9, 8] (by decide) (by decide) (by decide +kernel) (by decide +kernel)
     (by decide +kernel)),
   met ((h up h0 (canon (by decide +kernel))).2.2.1 true (some 15) [4294967295]
     (en 0x042 (.int false 4 32) 16 0 1 524288 (.mult 0 8388608 32) .now false false none) (by decide) (by decide +kernel)
     (by decide +kernel) (by decide +kernel)),
   met ((h up h0 (canon (by decide +kernel))).2.2.1 false none (List.replicate 16 33)
     (en 0x041 (.int false 4 32) 16 0 1 0 (.mult 0 8388576 32) .now false false none) (by decide) (by decide +kernel)
     (by decide +kernel) (by decide +kernel)),
   met ((h up h0 (canon (by decide +kernel))).2.2.2.1 1022 [9, 8, 7] (by decide) (by decide +kernel)),
   met ((h up h0 (canon (by decide +kernel))).2.2.2.2.1 3 1 (by decide) (by decide) (by decide +kernel) (by decide +kernel)),
   met (((h up h0 (canon (by decide +kernel))).2.2.2.2.2.1 .field (by decide) (by decide)).1 (by decide +kernel)),
   met (((h { up with ctrl.sideband.enabled := false } h0 (canon (by decide +kernel))).2.2.2.2.2.1 .sideband (by decide) (by decide)).2
     (by decide +kernel) rfl),
   met ((h up h0 (canon (by decide +kernel))).2.2.2.2.2.2.1 0 (by decide) (by decide +kernel)),
   met ((h fielded hf (canon (by decide +kernel))).2.2.2.2.2.2.2 (by decide) (by decide +kernel))⟩

/-! ### The link and its sideband -/

/-- A device that runs, its link in a phase, with lanes 0 and 15 active. -/
def linkIn (p : LinkPhase) : State :=
  { up with link.phase := p, link.lanes := [(0, { active := true, tried := true }), (15, { active := true, tried := true })] }

theorem witness_TrainingStatesFollow (h : Obligations.TrainingStatesFollow) :
    Completes (.bitlockComplete []) (linkIn .bitlock) ∧ Completes (.blocklockComplete []) (linkIn .blocklock)
    ∧ Completes (.deskewComplete []) (setCfg hLINK Par.LINK_TX_EQ_FALLBACK 0 0 (linkIn .deskew))
    ∧ Completes (.trainingStateTimeout []) (linkIn .bitlock) ∧ Completes (.trainingStateTimeout []) (linkIn .detect)
    ∧ Completes .backoffExpiry (linkIn .backoff) :=
  ⟨met ((h (linkIn .bitlock) []).1 rfl), met ((h (linkIn .blocklock) []).2.1 rfl),
   met ((h (setCfg hLINK Par.LINK_TX_EQ_FALLBACK 0 0 (linkIn .deskew)) []).2.2.1 rfl (by decide +kernel)),
   met ((h (linkIn .bitlock) []).2.2.2.1 rfl (canon (by decide +kernel))), met ((h (linkIn .detect) []).2.2.2.2.1 rfl),
   met ((h (linkIn .backoff) []).2.2.2.2.2 rfl)⟩

/-- The same, in INDEPENDENT clocking, with its elastic buffer at a level. -/
def elasticAt (n : Nat) : State := setCfg hLINK Par.LINK_CLOCKING 0 0 { linkIn .active with link.elastic := n }
def slowIdle : State := { linkIn .idle with link.fastExit := false }
theorem witness_EpisodesBegin (h : Obligations.EpisodesBegin) :
    Completes (.retrainReq (auxFrame 0 255 [7])) (linkIn .idle) ∧ Completes (.laneLockLost 15 0 [0, 2, 4, 15]) (linkIn .active)
    ∧ Completes (.laneLockLost 0 3 []) (linkIn .active)
    ∧ Completes (.laneSignalLost 1) (linkIn .active) ∧ Completes (.fillerColumn (-4)) (elasticAt 4)
    ∧ Completes (.fillerColumn 1) (elasticAt 7) ∧ Completes (.idleSignalDetected 15) slowIdle
    ∧ Completes (.laneSignalLost 65535) (linkIn .active) ∧ Completes (.wakeRequest (auxFrame 3 255 [1])) slowIdle :=
  ⟨met ((h (linkIn .idle)).1 (auxFrame 0 255 [7]) (by decide +kernel) rfl (.inr rfl)),
   met ((h (linkIn .active)).2.1 15 0 [0, 2, 4, 15] rfl (by decide +kernel) (by decide +kernel)),
   met ((h (linkIn .active)).2.1 0 3 [] rfl (by decide +kernel) (by decide +kernel)),
   met ((h (linkIn .active)).2.2.1 1 rfl (by decide +kernel) (by decide +kernel)),
   met ((h (elasticAt 4)).2.2.2.1 (-4) rfl (by decide +kernel) (by decide +kernel)),
   met ((h (elasticAt 7)).2.2.2.1 1 rfl (by decide +kernel) (by decide +kernel)),
   met ((h slowIdle).2.2.2.2.1 15 rfl (by decide +kernel) (by decide +kernel)),
   met ((h (linkIn .active)).2.2.2.2.2.1 65535 rfl (by decide +kernel) (by decide +kernel)),
   met ((h slowIdle).2.2.2.2.2.2 (auxFrame 3 255 [1]) rfl (by decide +kernel) (by decide +kernel))⟩

def detecting : State := { linkIn .detect with aux.waiting := some (9, ⟨0, [1]⟩, 1) }
def asking : State := { linkIn .eqreq with aux.waiting := some (9, ⟨0, [3, 1, 255, 0]⟩, 1), link.attempt := 255 }
def measuring : State := { linkIn .eqreq with link.eq := { preset := 6, acked := true } }
def window : List LaneReport := [{ lane := 15, blocks := [linkSyncBlock 0 255, ⟨bTRAIN, [0x4B, 3, 0, 0, 0, 0, 0, 0] ++ (scrambleBytes (scramblerSeed 0) (List.replicate 8 0)).1⟩] }, { lane := 0, blocks := [linkSyncBlock 0 0] }]
theorem witness_TrainingMessages (h : Obligations.TrainingMessages) :
    Completes (.caps (auxFrame 0 255 [1, 255])) (linkIn .detect) ∧ Completes (.caps (auxFrame 128 9 [0, 1, 255])) detecting
    ∧ Completes .capsResendTimer (linkIn .detect)
    ∧ Completes (.eqAck (auxFrame 128 9 [0, 4, 255, 255, 0])) asking ∧ Completes (.eqMeasurementDone []) measuring
    ∧ Completes (.verifyWindowEnd window) { linkIn .verify with link.final := true } :=
  ⟨met ((h (linkIn .detect)).1 (auxFrame 0 255 [1, 255]) rfl (by decide +kernel) rfl),
   met ((h detecting).2.1 (auxFrame 128 9 [0, 1, 255]) [255] 9 ⟨0, [1]⟩ 1 rfl (by decide +kernel) rfl rfl rfl rfl),
   met ((h (linkIn .detect)).2.2.1 rfl rfl (by decide +kernel)),
   met ((h asking).2.2.2.1 (auxFrame 128 9 [0, 4, 255, 255, 0]) 9 ⟨0, [3, 1, 255, 0]⟩ 1 rfl (by decide +kernel) rfl rfl rfl rfl (by decide)),
   met ((h measuring).2.2.2.2.1 [] rfl rfl (by decide)),
   met ((h { linkIn .verify with link.final := true }).2.2.2.2.2 window rfl (by decide +kernel) (by decide +kernel) (.inl rfl))⟩

def fastIdle : State := { linkIn .idle with link.source := some ⟨0, 65535, true, true, false⟩ }
theorem witness_IdleEntryAndExit (h : Obligations.IdleEntryAndExit) :
    Completes (.idleColumn 32769) (linkIn .active) ∧ Completes .idlePowerDown (linkIn .idle) ∧ Completes (.fastExit 0) fastIdle :=
  ⟨met ((h (linkIn .active)).1 32769 rfl (by decide +kernel)), met ((h (linkIn .idle)).2.1 rfl rfl),
   met ((h fastIdle).2.2 0 rfl (by decide +kernel) (by decide))⟩

def lowTwice : State := { linkIn .active with link.lanes := [(0, { active := true }), (15, { active := true, low := 2 })] }
theorem witness_LinkUpkeep (h : Obligations.LinkUpkeep) :
    Completes (.fillerColumn (-3)) (elasticAt 4) ∧ Completes (.fillerColumn 3) (elasticAt 4)
    ∧ Completes (.laneMarginCheck [(15, 0)]) lowTwice ∧ Completes (.laneMarginCheck [(15, 255)]) lowTwice :=
  ⟨met ((h (elasticAt 4) rfl).1 (-3) 1 (by decide +kernel) rfl (by decide) (by decide)),
   met ((h (elasticAt 4) rfl).1 3 7 (by decide +kernel) rfl (by decide) (by decide)),
   met ((h lowTwice rfl).2 15 0 (by decide +kernel) (by decide +kernel)),
   met ((h lowTwice rfl).2 15 255 (by decide +kernel) (by decide +kernel))⟩

def waiting0 : State := { up with aux.waiting := some (255, ⟨0, [3, 1]⟩, 1) }
def waiting1 : State := { up with aux.waiting := some (255, ⟨1, [7]⟩, 1) }
def waiting2 : State := setRes hAUX Par.AUX_UNANSWERED 2 waiting1
theorem witness_SidebandRepeats (h : Obligations.SidebandRepeats) :
    Completes (.auxAnswer (auxFrame 128 255 [1])) waiting0 ∧ Completes (.auxAnswer (auxFrame 128 255 [2])) waiting0
    ∧ Completes .auxCollision waiting1 ∧ Completes .auxRequestTimeout waiting1
    ∧ Completes .auxRequestTimeout waiting2 ∧ Completes .auxCollision waiting2 ∧ Completes (.auxUnknownChannel (auxFrame 5 255 [])) waiting1
    ∧ Completes (.auxUnknownChannel (auxFrame 15 0 [1])) waiting1 :=
  ⟨met ((h waiting0 255 1 ⟨0, [3, 1]⟩ (by decide)).1 (auxFrame 128 255 [1]) rfl (by decide +kernel) rfl (.inl rfl)),
   met ((h waiting0 255 1 ⟨0, [3, 1]⟩ (by decide)).1 (auxFrame 128 255 [2]) rfl (by decide +kernel) rfl (.inr rfl)),
   met ((h waiting1 255 1 ⟨1, [7]⟩ (by decide)).2.1 rfl (by decide +kernel)),
   met ((h waiting1 255 1 ⟨1, [7]⟩ (by decide)).2.2.1 rfl (by decide +kernel)),
   met (((h waiting2 255 1 ⟨1, [7]⟩ (by decide)).2.2.2.1 rfl (by decide +kernel)).1),
   met (((h waiting2 255 1 ⟨1, [7]⟩ (by decide)).2.2.2.1 rfl (by decide +kernel)).2),
   met ((h waiting1 255 1 ⟨1, [7]⟩ (by decide)).2.2.2.2 (auxFrame 5 255 []) (by decide +kernel) (by decide)),
   met ((h waiting1 255 1 ⟨1, [7]⟩ (by decide)).2.2.2.2 (auxFrame 15 0 [1]) (by decide +kernel) (by decide))⟩

/-! ### Security -/

/-- The generator of P-256, uncompressed (FIPS 186-5). -/
def pointG : List Nat := [4,
  0x6B, 0x17, 0xD1, 0xF2, 0xE1, 0x2C, 0x42, 0x47, 0xF8, 0xBC, 0xE6, 0xE5, 0x63, 0xA4, 0x40, 0xF2,
  0x77, 0x03, 0x7D, 0x81, 0x2D, 0xEB, 0x33, 0xA0, 0xF4, 0xA1, 0x39, 0x45, 0xD8, 0x98, 0xC2, 0x96,
  0x4F, 0xE3, 0x42, 0xE2, 0xFE, 0x1A, 0x7F, 0x9B, 0x8E, 0xE7, 0xEB, 0x4A, 0x7C, 0x0F, 0x9E, 0x16,
  0x2B, 0xCE, 0x33, 0x57, 0x6B, 0x31, 0x5E, 0xCE, 0xCB, 0xB6, 0x40, 0x68, 0x37, 0xBF, 0x51, 0xF5]
def identified : State := { up with sec.work := some { idPriv := [1] } }
/-- An exchange for a key set is in progress. -/
def exchanging (k : Nat) : State := { up with sec.exchange := some ⟨k, [1], List.replicate 96 3, 0⟩ }
/-- A frame as its sender makes it is a fresh request, where no answer is kept. -/
theorem fresh_frame {s : State} {b i c : Nat} {p : List Nat} (hp : p.length ≤ 1024) (ha : s.aux.answered = none)
    (h : (auxAwake s && !b.testBit 7 && b % 16 == c) = true) : freshRequest s (auxFrame b i p) c = true := by
  simp only [Bool.and_eq_true] at h
  simp [freshRequest, auxFrameOk, auxIsAnswer, auxRepeated, auxChannel, auxFrame, ha, hp, h.1.1, h.1.2, h.2]
def hello (k : Nat) : AuxFrame := auxFrame 4 255 ([1, 1, k] ++ List.replicate 32 0 ++ pointG)
def confirm (k : Nat) : AuxFrame := auxFrame 4 255 (3 :: k :: hmac ((List.replicate 96 3).drop 64) (0x53 :: [1]))
theorem witness_KeyExchange (h : Obligations.KeyExchange) :
    Completes (.cpHello (hello 1)) identified ∧ Completes (.cpConfirm (confirm 0)) (exchanging 0)
    ∧ Completes (.cpConfirm (confirm 1)) (exchanging 1)
    ∧ Completes .cpConfirmTimeout (exchanging 1) ∧ Completes (.cpDrop (auxFrame 4 255 [7, 3])) (exchanging 1) :=
  ⟨met2 ((h identified).1 (hello 1) 1 (List.replicate 32 0) pointG
     (0x6B17D1F2E12C4247F8BCE6E563A440F277037D812DEB33A0F4A13945D898C296, 0x4FE342E2FE1A7F9B8EE7EB4A7C0F9E162BCE33576B315ECECBB6406837BF51F5)
     (fresh_frame (by decide) rfl (by decide +kernel)) rfl (by decide) rfl (by decide) (by decide) (by decide +kernel) rfl (by decide +kernel) (by decide +kernel)),
   met ((h (exchanging 0)).2.1 (confirm 0) ⟨0, [1], List.replicate 96 3, 0⟩ (fresh_frame (by decide +kernel) rfl (by decide +kernel)) rfl rfl rfl (by decide)),
   met ((h (exchanging 1)).2.1 (confirm 1) ⟨1, [1], List.replicate 96 3, 0⟩ (fresh_frame (by decide +kernel) rfl (by decide +kernel)) rfl rfl rfl (by decide)),
   met ((h (exchanging 1)).2.2.1 ⟨1, [1], List.replicate 96 3, 0⟩ rfl (canon (by decide +kernel))),
   met ((h (exchanging 1)).2.2.2 (auxFrame 4 255 [7, 3]) 3 (by decide +kernel) rfl)⟩

def attacked : State := { up with sec.locked := true, sec.active := 8 }
def sleeper : State := { up with power.state := .off }
theorem witness_TamperLocks (h : Obligations.TamperLocks) :
    Completes (.tamper 0 5) (setCfg hSEC Par.SEC_TAMPER_ENABLE 0 1 up) ∧ Completes (.tamper 1 5) up ∧ Completes (.tamper 3 5) up
    ∧ Completes (.tamper 3 5) sleeper ∧ Completes .tamperClear attacked ∧ Completes (.entropyFailure 1) up :=
  ⟨met ((h (setCfg hSEC Par.SEC_TAMPER_ENABLE 0 1 up)).1 0 5 (by decide) (fun _ => by decide +kernel) (fun _ => rfl) (by decide +kernel)),
   met ((h up).1 1 5 (by decide) (fun e => absurd e (by decide)) (fun _ => rfl) (by decide +kernel)),
   met ((h up).1 3 5 (by decide) (fun e => absurd e (by decide)) (fun _ => rfl) (by decide +kernel)),
   met ((h sleeper).1 3 5 (by decide) (fun e => absurd e (by decide)) (fun _ => rfl) (by decide +kernel)),
   met ((h attacked).2.1 rfl (by decide +kernel) (canon (by decide +kernel))), met ((h up).2.2 1 (canon (by decide +kernel)))⟩

def closedState : State := { up with sec.lifecycle := 2 }
def drawn : State := { up with sec.testChallenge := some [7] }
theorem witness_TestPort (h : Obligations.TestPort) :
    Completes (.testPortInstruction .bypass) up ∧ Completes (.testPortInstruction .debug) closedState
    ∧ Completes (.testPortChallenge []) up ∧ Completes (.testPortChallenge []) drawn :=
  ⟨met1 ((h up).1 .bypass (fun e => nomatch e)), met ((h closedState).2.1 (by decide +kernel) (by decide +kernel)),
   met2 ((h up).2.2.1 [] (.inl rfl) rfl rfl rfl), met ((h drawn).2.2.2 [] [7] (.inl rfl) rfl rfl)⟩

def challenged : State := setResAt hSEC Par.SEC_LOCKOUT_S 2 1
  { up with ctrl.sideband.challenge := some ([7], 3, 0), sec.attest := some [7] }
theorem witness_SecurityTimers (h : Obligations.SecurityTimers) :
    Completes (.challengeExpiry .sideband) challenged ∧ Completes (.lockoutSecond .sideband) challenged
    ∧ Completes .attestationDone challenged ∧ Completes (.sessionIdleTimeout .host) (setCfg hHOSTPORT Par.CTRLPORT_IDLE_TIMEOUT 0 1 up) :=
  ⟨met ((h challenged).1 .sideband [7] 3 0 rfl), met ((h challenged).2.1 .sideband 0 (by decide +kernel) (canon (by decide +kernel))),
   met ((h challenged).2.2.1 [7] rfl (canon (by decide +kernel))),
   met ((h (setCfg hHOSTPORT Par.CTRLPORT_IDLE_TIMEOUT 0 1 up)).2.2.2 .host (by decide +kernel) (by decide +kernel))⟩

/-! ### DRAM and SRAM -/

/-- All DRAM channels powered and in service. -/
def dramOn : State := { up with dram.chans := (List.range 8).map fun c => (c, { service := true, powered := true }) }
def line0 : Nat := 31457279
def poisoned0 : State := { dramOn with dram.poison := [(line0, true)] }
/-- The channel that held the first line of STAGE is felled, its source gone. -/
def mirrored : State := { dramOn with dram.retired := some (homeOf up.dram.order up.dram.grain stageLine).ch, dram.migration := 3
                                      dram.lostFrom := some stageLine }
def lastWord : State := { dramOn with dram.scrub := usableLines - 1 }
theorem witness_DramReadsAndScrub (h : Obligations.DramReadsAndScrub) :
    Completes (.dramReadComplete line0 7 []) poisoned0 ∧ Completes (.dramReadComplete stageLine 3 []) mirrored
    ∧ Completes (.dramReadComplete line0 7 [[(4, 1), (139, 255), (5, 1)]]) dramOn
    ∧ Completes (.dramReadComplete line0 0 [[(4, 1), (5, 1), (6, 1), (7, 1)]]) dramOn
    ∧ Completes (.dramScrubStep [(4, 1)]) { dramOn with dram.scrub := 27525118 } ∧ Completes (.dramScrubStep []) lastWord :=
  ⟨met ((h poisoned0 line0 (canon (by decide +kernel)) rfl).1 7 [] (by decide +kernel) (by decide +kernel) (by decide +kernel)
     (by decide +kernel)),
   met ((h mirrored stageLine (canon (by decide +kernel)) rfl).2.1 3 [] (by decide +kernel) (by decide +kernel) (by decide +kernel)
     (by decide +kernel) (by decide +kernel)),
   met ((h dramOn line0 (canon (by decide +kernel)) rfl).2.2.1 7 [(4, 1), (139, 255), (5, 1)] [] (by decide +kernel) (by decide +kernel)
     (by decide +kernel) (by decide +kernel) (by decide +kernel) (by decide +kernel)),
   met ((h dramOn line0 (canon (by decide +kernel)) rfl).2.2.2.1 0 [[(4, 1), (5, 1), (6, 1), (7, 1)]] (by decide +kernel) (by decide +kernel)
     (by decide +kernel) (by decide +kernel) (by decide +kernel) (by decide +kernel)),
   met ((h { dramOn with dram.scrub := 27525118 } line0 (canon (by decide +kernel)) rfl).2.2.2.2.1 [(4, 1)] (by decide +kernel)
     (by decide +kernel)),
   met ((h lastWord line0 (canon (by decide +kernel)) rfl).2.2.2.2.2 (by decide +kernel) (by decide +kernel))⟩

def busyDram : State := { dramOn with dram.throttle := [(7, some 5)], dram.writeBacks := [0] }
def blanked : State := { dramOn with raster.stopped := true }
theorem witness_DramChannelUpkeep (h : Obligations.DramChannelUpkeep) :
    Completes (.dramRefreshDue 7 15 255) dramOn ∧ Completes .rdTableClear dramOn ∧ Completes (.throttleExpiry 7) busyDram
    ∧ Completes (.dramRequestPromotion (lineHome busyDram 0).ch) busyDram ∧ Completes (.fineRetrainTimer 7 (-32768)) blanked
    ∧ Completes (.fineRetrainTimer 7 0) blanked :=
  ⟨met ((h dramOn 7 (by decide +kernel)).1 15 255 (by decide +kernel) (canon (by decide +kernel)) (by decide +kernel)),
   met ((h dramOn 7 (by decide +kernel)).2.1 (by decide)),
   met ((h busyDram 7 (by decide +kernel)).2.2.1 7 5 (by decide +kernel) (by decide +kernel)),
   met ((h busyDram (lineHome busyDram 0).ch (by decide +kernel)).2.2.2.1 0 (by decide +kernel) (by decide +kernel)),
   met ((h blanked 7 (by decide +kernel)).2.2.2.2 (-32768) (by decide +kernel) (by decide +kernel) (canon (by decide +kernel))),
   met ((h blanked 7 (by decide +kernel)).2.2.2.2 0 (by decide +kernel) (by decide +kernel) (canon (by decide +kernel)))⟩

def training7 (n : Nat) : State := { up with raster.stopped := true
                                             dram.ready := true
                                             dram.chans := [(7, { service := true, powered := true, pieces := some 0, attempts := n })] }
def starting : State := { State.reset with power.phase := .dramTraining, stag.running := true, pstore.read := true }
def holding : State := { dramOn with power.state := .hold, raster.stopped := true }
def refreshing : State := { up with dram.chans := [(7, { service := true, powered := true, selfRefresh := true })] }
def migrating7 : State := { dramOn with dram.retired := some 7, dram.migration := 1 }
def toRepair : State := { starting with pstore.repairs := [(7, 15, 16383)] }
theorem witness_DramTrainingAndService (h : Obligations.DramTrainingAndService) :
    Completes (.fullRetrainPiece 7 false false) (training7 0) ∧ Completes (.fullRetrainPiece 7 true false) (training7 0)
    ∧ Completes (.fullRetrainPiece 7 true true) (training7 1) ∧ Completes (.fullRetrainPiece 7 true true) (training7 2)
    ∧ Completes (.dramTrainingDone [⟨7, 1, none, 3⟩]) starting
    ∧ Completes .dramIdleTimeout holding ∧ Completes (.selfRefreshExit 7 100) refreshing ∧ Completes (.migrationComplete false) migrating7
    ∧ Completes (.migrationComplete true) migrating7 ∧ Completes (.rowRepaired 7 15 16383) toRepair :=
  ⟨met (((h (training7 0) 7 (by decide +kernel)).1 0 (by decide +kernel) (by decide +kernel) (by decide +kernel) rfl).1),
   met (((h (training7 0) 7 (by decide +kernel)).1 0 (by decide +kernel) (by decide +kernel) (by decide +kernel) rfl).2.1
     (canon (by decide +kernel))),
   met (((h (training7 1) 7 (by decide +kernel)).1 0 (by decide +kernel) (by decide +kernel) (by decide +kernel) rfl).2.2.1 true
     (by decide +kernel)),
   met (((h (training7 2) 7 (by decide +kernel)).1 0 (by decide +kernel) (by decide +kernel) (by decide +kernel) rfl).2.2.2 true
     (by decide +kernel)),
   met ((h starting 7 (by decide +kernel)).2.1 [⟨7, 1, none, 3⟩] rfl rfl (by decide +kernel)),
   met ((h holding 7 (by decide +kernel)).2.2.1 rfl rfl (by decide +kernel) (by decide +kernel) rfl (by decide) (by decide +kernel)),
   met ((h refreshing 7 (by decide +kernel)).2.2.2.1 100 rfl rfl rfl),
   met ((h migrating7 7 (by decide +kernel)).2.2.2.2.1 false rfl rfl rfl rfl),
   met ((h migrating7 7 (by decide +kernel)).2.2.2.2.1 true rfl rfl rfl rfl),
   met ((h toRepair 7 (by decide +kernel)).2.2.2.2.2 15 16383 rfl rfl rfl rfl (by decide +kernel))⟩

/-- The last word of BANK22 holds 1 in lane 0. -/
def oneWord : State := { up with sram.mem := [(bankAddr 22 4194272, 1#8)] }
theorem witness_SramAccessesAndAtomics (h : Obligations.SramAccessesAndAtomics) :
    Completes (.sramAccess 22 none (some (.read 4194272 []))) oneWord ∧ Completes (.sramAccess 22 (some (.read 4194272 [])) none) oneWord
    ∧ Completes (.addWrap 22 true 4194272 0 (-2)) oneWord ∧ Completes (.addSat 22 true 4194272 7 (-2)) oneWord
    ∧ Completes (.addSat 22 false 4194272 0 4294967295) oneWord ∧ Completes (.swap 22 false 4194272 7 4294967295) oneWord :=
  ⟨met ((h oneWord 22 true 4194272 rfl (by decide +kernel) (by decide +kernel) (by decide +kernel) (canon (by decide +kernel))).1 [] rfl),
   met ((h oneWord 22 false 4194272 rfl (by decide +kernel) (by decide +kernel) (by decide +kernel) (canon (by decide +kernel))).1 [] rfl),
   met ((h oneWord 22 true 4194272 rfl (by decide +kernel) (by decide +kernel) (by decide +kernel) (canon (by decide +kernel))).2.1 0 (by decide) (-2)),
   met ((h oneWord 22 true 4194272 rfl (by decide +kernel) (by decide +kernel) (by decide +kernel) (canon (by decide +kernel))).2.2.1 7 (by decide) (-2)),
   met ((h oneWord 22 false 4194272 rfl (by decide +kernel) (by decide +kernel) (by decide +kernel) (canon (by decide +kernel))).2.2.1 0 (by decide) 4294967295),
   met ((h oneWord 22 false 4194272 rfl (by decide +kernel) (by decide +kernel) (by decide +kernel) (canon (by decide +kernel))).2.2.2 7 (by decide) 4294967295)⟩

def wordBad : State := { up with sram.poison := [(bankAddr 22 0, true)] }
theorem witness_SramWritesOrdered (h : Obligations.SramWritesOrdered) :
    Completes (.sramAccess 22 (some (.write 0 ((List.range 8).map fun l => (l, l)) [])) none) wordBad
    ∧ Completes (.sramAccess 22 (some (.write 0 [(7, 1)] [])) (some (.write 0 [(7, 2)] []))) up
    ∧ Completes (.sramAccess 23 none (some (.read 4194272 []))) up :=
  ⟨met ((h wordBad 22 0 ((List.range 8).map fun l => (l, l)) [] rfl rfl rfl (by decide +kernel)).1 (by decide)),
   met2 ((h up 22 0 [(7, 1)] [] rfl rfl rfl rfl).2.1 [(7, 2)] [] (by decide +kernel) (by decide)),
   met ((h up 23 4194272 [] [] rfl rfl rfl rfl).2.2 (by decide +kernel))⟩

def copying : State := { up with sram.banks := [(23, { copying := [⟨3, 200, 1, 0⟩], scrub := 131070 })] }
def testing (n : Nat) : State := setCfg hSRAM Par.SRAM_TEST_ENABLE 0 1 { up with sram.window := n }
theorem witness_SramMaintenance (h : Obligations.SramMaintenance) :
    Completes (.spareCopyDone 23) copying ∧ Completes (.sramScrubStep 23 []) copying ∧ Completes (.testWindow false none) (testing 32510)
    ∧ Completes (.testWindow false none) (testing 32511) ∧ Completes (.testWindow false (some 1500)) (testing 32511) :=
  ⟨met ((h copying 23 (by decide +kernel)).1 ⟨3, 200, 1, 0⟩ [] rfl (canon (by decide +kernel))),
   met ((h copying 23 (by decide +kernel)).2.1 [] rfl),
   met (((h (testing 32510) 23 (by decide +kernel)).2.2 false rfl (by decide +kernel) (canon (by decide +kernel))).1),
   met (((h (testing 32511) 23 (by decide +kernel)).2.2 false rfl (by decide +kernel) (canon (by decide +kernel))).1),
   met (((h (testing 32511) 23 (by decide +kernel)).2.2 false rfl (by decide +kernel) (canon (by decide +kernel))).2 1500)⟩

/-! ### The store, Stag, the firmware, sensors and the regulator -/

def prog : Program := ⟨1, 2047, [(0, 7), (255, 8)], .tieImage⟩
def programming (again : Bool) : State := { up with pstore.current := some (prog, again) }
def gathering : State := { up with pstore.gatherAt := some 0, pstore.gathered := [⟨1, 0, ⟨0x0A03, 0x0B10, []⟩⟩] }
theorem witness_StorePrograms (h : Obligations.StorePrograms) :
    Completes (.programDone true) (programming true) ∧ Completes (.programDone false) (programming false)
    ∧ Completes (.programDone false) (programming true) ∧ Completes .logGatherTimeout gathering :=
  ⟨met ((h (programming true) (canon (by decide +kernel)) rfl rfl rfl).1 prog true rfl (by decide)),
   met ((h (programming false) (canon (by decide +kernel)) rfl rfl rfl).2.1 prog rfl),
   met ((h (programming true) (canon (by decide +kernel)) rfl rfl rfl).2.2.1 prog rfl),
   met ((h gathering (canon (by decide +kernel)) rfl rfl rfl).2.2.2 0 rfl (by decide))⟩

def restarting : State := { up with stag.restarting := some (1, 0) }
def triedOut : State := { up with stag.trial := true, stag.slotA.attempts := 3 }
theorem witness_StagRestarts (h : Obligations.StagRestarts) :
    Completes .lockstepMismatch up ∧ Completes .lockstepMismatch triedOut ∧ Completes .watchdogExpiry up
    ∧ Completes .stagRestartComplete restarting :=
  ⟨met ((h up (by decide +kernel)).1 (by decide +kernel)), met ((h triedOut (by decide +kernel)).1 (by decide +kernel)),
   met ((h up (by decide +kernel)).2.1 (by decide +kernel)), met ((h restarting (by decide +kernel)).2.2 1 0 rfl rfl rfl rfl)⟩

def verifying : State := setRes hUPDATE Par.UPDATE_STATE 2 { up with stag.imageLen := 257 }
def activating (k : Nat) : State := { up with stag.activation := some ⟨2, k, 2⟩ }
theorem witness_FirmwareUpdate (h : Obligations.FirmwareUpdate) :
    Completes .imageVerified verifying ∧ Completes (.flashOperationComplete true) (activating 1)
    ∧ Completes (.flashOperationComplete true) (activating 3) ∧ Completes (.flashOperationComplete true) (activating 4)
    ∧ Completes (.flashOperationComplete false) (activating 4) ∧ Completes .confirmTimeout onTrial :=
  ⟨met ((h verifying (canon (by decide +kernel))).1 (by decide +kernel) (by decide +kernel)),
   met (((h (activating 1) (canon (by decide +kernel))).2.1 ⟨2, 1, 2⟩ rfl (by decide +kernel) rfl rfl).1 (by decide) (by decide)),
   met (((h (activating 3) (canon (by decide +kernel))).2.1 ⟨2, 3, 2⟩ rfl (by decide +kernel) rfl rfl).1 (by decide) (by decide)),
   met (((h (activating 4) (canon (by decide +kernel))).2.1 ⟨2, 4, 2⟩ rfl (by decide +kernel) rfl rfl).2.1 rfl),
   met (((h (activating 4) (canon (by decide +kernel))).2.1 ⟨2, 4, 2⟩ rfl (by decide +kernel) rfl rfl).2.2),
   met ((h onTrial (canon (by decide +kernel))).2.2 rfl (by decide +kernel) (by decide +kernel) rfl)⟩

theorem witness_SensorsSampled (h : Obligations.SensorsSampled) :
    Completes (.thermalSample 15 (-40)) up ∧ Completes (.voltageSample 3 900) up ∧ Completes (.ntcSample 3 4095) (setCfg (hNTC 3) Par.NTC_ENABLE 0 1 up)
    ∧ Completes .operatingMinute up :=
  ⟨met ((h up (canon (by decide +kernel)) (by decide +kernel)).1 15 (-40) (by decide) (by decide +kernel) rfl),
   met ((h up (canon (by decide +kernel)) (by decide +kernel)).2.1 3 900 (by decide) (by decide +kernel) rfl),
   met ((h (setCfg (hNTC 3) Par.NTC_ENABLE 0 1 up) (canon (by decide +kernel)) (by decide +kernel)).2.2.1 3 4095 (by decide)
     (by decide +kernel) rfl (by decide +kernel)),
   met ((h up (canon (by decide +kernel)) (by decide +kernel)).2.2.2 rfl rfl (by decide) rfl)⟩

def avsWaits (n : Nat) : State := { up with resil.avs := some (905, n) }
theorem witness_MonitorsAndRegulator (h : Obligations.MonitorsAndRegulator) :
    Completes (.monitorMeasurement (hTILE 7 8) 65535) up ∧ Completes (.monitorMeasurement (hSTAND 7) 65535) up ∧ Completes .marginPeriod up ∧ Completes (.avsStatus 905) (avsWaits 0)
    ∧ Completes .avsTimeout (avsWaits 1) ∧ Completes .avsTimeout (avsWaits 2) :=
  ⟨met (((h up (canon (by decide +kernel))).1 (hTILE 7 8) 65535 (by decide +kernel) rfl).1 (by decide +kernel) rfl),
   met (((h up (canon (by decide +kernel))).1 (hSTAND 7) 65535 (by decide +kernel) rfl).2 7 (by decide) rfl rfl rfl),
   met ((h up (canon (by decide +kernel))).2.1 (by decide +kernel) rfl rfl),
   met ((h (avsWaits 0) (canon (by decide +kernel))).2.2.1 905 0 rfl), met ((h (avsWaits 1) (canon (by decide +kernel))).2.2.2.1 905 1 rfl (by decide)),
   met ((h (avsWaits 2) (canon (by decide +kernel))).2.2.2.2 905 2 rfl (by decide))⟩

/-- Every tile and every stand has reported the same cycle. -/
def reported (cyc vcore : Nat) : State := { up with
  pipe.tiles := (List.range 8).flatMap fun st => (List.range 9).map fun t => (16 * st + t, { last := cyc })
  pipe.standLast := (List.range 8).map fun st => (st, cyc), resil.vcore := vcore }
def ramping (cyc vcore : Nat) : State := { reported cyc vcore with resil.ramp := some 4000000000 }
def searching (vcore : Nat) : State := { reported 1 vcore with resil.searching := true }
theorem witness_VcoreRampAndSearch (h : Obligations.VcoreRampAndSearch) :
    Completes .vcoreRampStep (ramping 65535 800) ∧ Completes .vcoreRampStep (ramping 0 800) ∧ Completes .vcoreRampStep (ramping 65535 1100)
    ∧ Completes .vcoreSearchStep (searching 900) ∧ Completes .vcoreSearchStep (searching 500)
    ∧ Completes .vcoreSearchStep (searching 750) :=
  ⟨met (((h (ramping 65535 800)).1 4000000000 rfl).1 (by decide +kernel) (by decide +kernel)),
   met (((h (ramping 0 800)).1 4000000000 rfl).2 (.inl (by decide +kernel))),
   met (((h (ramping 65535 1100)).1 4000000000 rfl).2 (.inr (by decide +kernel))),
   met ((h (searching 900)).2 rfl rfl), met ((h (searching 500)).2 rfl rfl), met ((h (searching 750)).2 rfl rfl)⟩

/-! ### Power and the panel -/

theorem witness_ResetsHoldDevice (h : Obligations.ResetsHoldDevice) :
    Completes .powerOnReset up ∧ Completes .resetN up ∧ Completes .powerFailRecovery { up with power.warning := true } :=
  ⟨met (h up).1, met ((h up).2.1 (by decide)), met ((h { up with power.warning := true }).2.2 rfl)⟩

/-- A start-up that stands at a phase. -/
def startAt (p : Phase) : State := { State.reset with power.phase := p, stag.running := true, pstore.read := true }
def blankFlash : State := setCfg hPANELPWR Par.PANELPWR_ON_SEQ 6 3 (setCfg hPANELPWR Par.PANELPWR_ON_SEQ 0 6 { startAt .smallBank with pipe.flash := [] })
theorem witness_StartupStepsFollow (h : Obligations.StartupStepsFollow) :
    Completes (.resetRelease true 7 false) State.reset ∧ Completes .referenceReady (startAt .reference)
    ∧ Completes .firmwareStarted (startAt .bootRom) ∧ Completes .storeReadDone (startAt .firmware)
    ∧ Completes .smallBankLoaded { startAt .smallBank with stag.recovery := true } ∧ Completes .smallBankLoaded blankFlash :=
  ⟨met ((h State.reset).1 true 7 false rfl), met ((h (startAt .reference)).2.1 rfl), met ((h (startAt .bootRom)).2.2.1 rfl),
   met ((h (startAt .firmware)).2.2.2.1 rfl rfl), met ((h { startAt .smallBank with stag.recovery := true }).2.2.2.2.1 rfl rfl),
   met2 ((h blankFlash).2.2.2.2.2 rfl rfl rfl rfl rfl rfl rfl (by decide +kernel) (by decide +kernel) (canon (by decide +kernel)))⟩

/-- A device asleep. -/
def asleep (p : PowerState) : State := { up with power.state := p }
def dozing : State := { asleep .standby with power.settings := { offAfter := 1, timer := 1 } }
theorem witness_SleepTimers (h : Obligations.SleepTimers) :
    Completes .standbyTimer (asleep .hold) ∧ Completes .standbyTimer (asleep .self) ∧ Completes .offTimer dozing :=
  ⟨met ((h (asleep .hold)).1 (by decide +kernel) rfl (by decide +kernel) (canon (by decide +kernel))),
   met ((h (asleep .self)).1 (by decide +kernel) rfl (by decide +kernel) (canon (by decide +kernel))),
   met ((h dozing).2 (by decide) rfl rfl rfl rfl)⟩

def allWakes : WakeCfg := { enable := 65535, timer := 1 }
def sleeping : State := { asleep .standby with power.settings := allWakes }
def entering : State := { up with power.transition := some { off := true }, power.settings := allWakes }
def serving : State := { asleep .standby with power.service := some 7, power.wakeStep := 3 }
theorem witness_WakesBegin (h : Obligations.WakesBegin) :
    Completes (.fullWake 1) sleeping ∧ Completes (.fullWake 5) sleeping ∧ Completes (.fullWake 5) entering ∧ Completes .wakeTimer sleeping
    ∧ Completes (.serviceWake 7) sleeping ∧ Completes .serviceWakeTimeout serving :=
  ⟨met ((h sleeping).1 1 (by decide) (by decide) (by decide +kernel) (by decide) rfl rfl rfl rfl),
   met ((h sleeping).1 5 (by decide) (by decide) (by decide +kernel) (by decide) rfl rfl rfl rfl),
   met ((h entering).2.1 5 { off := true } (by decide) (by decide) (by decide +kernel) (by decide) rfl rfl (canon (by decide +kernel))),
   met ((h sleeping).2.2.1 (by decide) rfl rfl rfl rfl), met ((h sleeping).2.2.2.1 rfl (by decide) rfl rfl rfl),
   met ((h serving).2.2.2.2 7 rfl (by decide) rfl rfl rfl (.inl rfl))⟩

def powering (n : Nat) : State := { asleep .standby with
  power.waking := some 1, power.wakeStep := n, dram.chans := [(7, { service := true, selfRefresh := true })] }
theorem witness_WakeProgressAndWarning (h : Obligations.WakeProgressAndWarning) :
    Completes (.domainPowerGood false) (powering 2) ∧ Completes (.resourceReadyTimeout .domainSwitch) (powering 2)
    ∧ Completes (.resourceReadyTimeout .domainSwitch) { powering 2 with power.tries := 2 } ∧ Completes (.powerFailWarning 1500) up
    ∧ Completes (.powerFailWarning 1709) up :=
  ⟨met ((h (powering 2) (canon (by decide +kernel))).1 1 rfl rfl (by decide +kernel)),
   met ((h (powering 2) (canon (by decide +kernel))).2.1 .domainSwitch (by decide +kernel) (by decide)),
   met ((h { powering 2 with power.tries := 2 } (canon (by decide +kernel))).2.2.1 .domainSwitch (by decide +kernel) (by decide)),
   met ((h up (canon (by decide +kernel))).2.2.2 1500 rfl (by decide) (by decide) (by decide)),
   met ((h up (canon (by decide +kernel))).2.2.2 1709 rfl (by decide) (by decide) (by decide))⟩

/-- A sequence at a step whose eight bytes are given, in every step. -/
def seqOf (off : Bool) (bs : List Nat) (step : Nat) (w : SeqWait) : SeqRun :=
  { off := off, table := (List.replicate 16 bs).flatten, step := step, began := 0, wait := w }
/-- A device whose panel runs that sequence. -/
def running (q : SeqRun) : State := { up with panel.seq := some q, panel.on := 1 }
theorem witness_PanelSequenceMoves (h : Obligations.PanelSequenceMoves) :
    Completes (.pgoodChange 5 true) up ∧ Completes (.pgoodChange 5 true) (running (seqOf false [1, 0, 0, 0, 0, 0, 0, 9] 0 (.pin 5 true)))
    ∧ Completes .seqDelayExpiry (running (seqOf false [1, 0, 0, 0, 0, 0, 0, 255] 15 .delay))
    ∧ Completes .seqDelayExpiry (running (seqOf true [1, 0, 0, 0, 0, 0, 0, 255] 15 .delay)) :=
  ⟨met ((h up rfl rfl rfl).1 5 true (by decide) (by decide +kernel) rfl),
   met ((h (running (seqOf false [1, 0, 0, 0, 0, 0, 0, 9] 0 (.pin 5 true))) rfl rfl rfl).2.1 5 true _ (by decide) (by decide +kernel) rfl rfl (by decide +kernel)),
   met ((h (running (seqOf false [1, 0, 0, 0, 0, 0, 0, 255] 15 .delay)) rfl rfl rfl).2.2.1 _ rfl rfl rfl rfl rfl (canon (by decide +kernel))),
   met ((h (running (seqOf true [1, 0, 0, 0, 0, 0, 0, 255] 15 .delay)) rfl rfl rfl).2.2.2 _ rfl rfl rfl rfl rfl rfl (canon (by decide +kernel)))⟩

def discharging : SeqRun := seqOf true [12, 0, 0, 0, 0, 0, 3, 9] 3 .action
/-- A step that does one thing, waits for no pin and has a DELAY. -/
def doing (a : Nat) : SeqRun := seqOf false [a, 0, 0, 0, 0, 0, 3, 9] 3 .action
theorem witness_StepsMetByTheirEvents (h : Obligations.StepsMetByTheirEvents) :
    Completes (.pmbusWriteDone .ack) { running (doing 3) with panel.pmbus := some ⟨16, 1, 0, false, none, 0, none⟩ }
    ∧ Completes .refSettled (running (doing 6)) ∧ Completes .metAfter1Ms (running (doing 7)) ∧ Completes .metAfter1Ms (running (doing 9))
    ∧ Completes (.pumpRegulating (-5000)) { running (doing 8) with panel.pump := 1 }
    ∧ Completes .dischargeHoldEnd { running discharging with panel.holdAt := some 0 } :=
  ⟨met ((h { running (doing 3) with panel.pmbus := some ⟨16, 1, 0, false, none, 0, none⟩ } (doing 3) rfl rfl rfl rfl rfl (by decide +kernel) (by decide +kernel)).1 _ rfl rfl),
   met ((h (running (doing 6)) (doing 6) rfl rfl rfl rfl rfl (by decide +kernel) (by decide +kernel)).2.1 (by decide +kernel)),
   met ((h (running (doing 7)) (doing 7) rfl rfl rfl rfl rfl (by decide +kernel) (by decide +kernel)).2.2.1 (.inl (by decide +kernel))),
   met ((h (running (doing 9)) (doing 9) rfl rfl rfl rfl rfl (by decide +kernel) (by decide +kernel)).2.2.1 (.inr (by decide +kernel))),
   met ((h { running (doing 8) with panel.pump := 1 } (doing 8) rfl rfl rfl rfl rfl (by decide +kernel) (by decide +kernel)).2.2.2.1 (-5000) (by decide +kernel) (.inl rfl)),
   met ((h { running discharging with panel.holdAt := some 0 } discharging rfl rfl rfl rfl rfl (by decide +kernel) (by decide +kernel)).2.2.2.2 0 (by decide +kernel) rfl)⟩

def pinSeq : SeqRun := seqOf false [1, 5, 0, 0, 0, 0, 1, 9] 0 (.pin 5 true)
def watching : State := setCfg hPANELPWR Par.PANELPWR_PGOOD_MONITOR 0 63 { up with panel.watched := 32 }
theorem witness_PanelSequenceRetries (h : Obligations.PanelSequenceRetries) :
    Completes (.pmbusWriteDone .nack) { up with panel.pmbus := some ⟨16, 1, 0, false, some 255, 1, none⟩ }
    ∧ Completes .pmbusRetryTimer { up with panel.pmbus := some ⟨16, 1, 0, false, none, 1, some 0⟩ }
    ∧ Completes .seqStepTimeout (running pinSeq) ∧ Completes (.pgoodLost 5) watching :=
  ⟨met1 ((h { up with panel.pmbus := some ⟨16, 1, 0, false, some 255, 1, none⟩ } rfl rfl rfl).1 _ rfl rfl (by decide)),
   met ((h { up with panel.pmbus := some ⟨16, 1, 0, false, none, 1, some 0⟩ } rfl rfl rfl).2.1 _ 0 rfl rfl),
   met2 ((h (running pinSeq) rfl rfl rfl).2.2.1 pinSeq 5 true rfl rfl (by decide +kernel) (by decide +kernel) rfl (by decide)),
   met ((h watching rfl rfl rfl).2.2.2 5 (by decide +kernel) (by decide +kernel) (by decide +kernel) (canon (by decide +kernel)))⟩

theorem witness_PumpAndReference (h : Obligations.PumpAndReference) :
    Completes (.pumpOutOfRegulation (-4000)) { up with panel.pump := 2 } ∧ Completes (.pumpRegulating (-5000)) { up with panel.pump := 3 }
    ∧ Completes (.avddRefSample 65535) up :=
  ⟨met ((h { up with panel.pump := 2 } (canon (by decide +kernel))).1 (-4000) rfl),
   met ((h { up with panel.pump := 3 } (canon (by decide +kernel))).2.1 (-5000) (.inr rfl) rfl),
   met ((h up (canon (by decide +kernel))).2.2 65535 (by decide +kernel))⟩

/-! ### Transports, packets, the raster and the Otham ports -/

def seqless : State := { up with pins.hostsel := false }
def i3c : State := { up with pins.hostsel := true, ctrl.host.address := some 9 }
def node (s : State) : State := setRes hFIELDPORT Par.CTRLPORT_NODE_ID 5 s
theorem witness_FramesCarryCommands (h : Obligations.FramesCarryCommands) :
    Completes (.spiWriteFrame (nopFrame 255)) up ∧ Completes (.i3cPrivateWrite (nopFrame 0)) i3c
    ∧ Completes (.fieldRequestSegment (nodeId (node up)) (0xC0 :: nopFrame 7)) (node up) :=
  ⟨met ((h up 255 (by decide) (by decide +kernel)).1 rfl), met ((h i3c 0 (by decide) (by decide +kernel)).2.1 rfl rfl (by decide +kernel)),
   met ((h (node up) 7 (by decide) (by decide +kernel)).2.2 rfl (by decide +kernel) (by decide +kernel))⟩

def outFrame : OutFrame := { bytes := [1, 2, 3], notify := true }
def sending (b : Bool) : State := { up with pins.hostsel := b, ctrl.host.address := some 9, ctrl.host.outbound := [outFrame] }
def unnamed : State := { up with pins.hostsel := true }
theorem witness_TransportsCarryFrames (h : Obligations.TransportsCarryFrames) :
    Completes .spiStatus up ∧ Completes (.spiReadFrame 4) (sending false) ∧ Completes (.i3cPrivateRead 3) (sending true)
    ∧ Completes (.i3cEntdaa 9) unnamed ∧ Completes (.i3cSetdasa (cfg unnamed hHOSTPORT Par.CTRLPORT_I3C_STATIC) 9) unnamed
    ∧ Completes (.fieldRequestSegment (nodeId (node up)) [0x80, 1]) (node up) ∧ Completes (.auxDictionarySegment (auxFrame 1 255 [0x80, 1])) up :=
  ⟨met ((h up [] (by decide +kernel)).1 rfl), met ((h (sending false) [] (by decide +kernel)).2.1 outFrame [] 4 rfl rfl (by decide)),
   met ((h (sending true) [] (by decide +kernel)).2.2.1 outFrame [] 3 rfl rfl rfl (by decide)),
   met ((h unnamed [] (by decide +kernel)).2.2.2.1 9 rfl rfl), met ((h unnamed [] (by decide +kernel)).2.2.2.2.1 9 rfl),
   met ((h (node up) [1] (by decide +kernel)).2.2.2.2.2.1 rfl (by decide +kernel) (by decide +kernel)),
   met ((h up [1] (by decide +kernel)).2.2.2.2.2.2 (auxFrame 1 255 [0x80, 1]) (by decide +kernel) rfl (by decide +kernel) rfl (by decide +kernel))⟩

/-- A packet with good checks. -/
def pkt (type flags : Nat) (fields body : List Nat) : Packet :=
  let head := packetHead type flags (20 + body.length) fields
  ⟨flags, 20 + body.length, fields, crc16 head, body, crc32c (head ++ u16 (crc16 head) ++ body)⟩
def badPkt : Packet := ⟨0, 20, [0, 0, 0, 0, 0, 0, 0, 0, 0, 0], 1, [], 0⟩
theorem witness_BadHeaderSkipped (h : Obligations.BadHeaderSkipped) :
    Completes (.frameStart badPkt) up ∧ Completes (.line badPkt) up ∧ Completes (.frameEnd badPkt) up ∧ Completes (.regionUpdate badPkt) up
    ∧ Completes (.sleepNotice badPkt) up ∧ Completes (.controlUser badPkt) up ∧ Completes (.reservedPacket 0x66 badPkt) up :=
  ⟨met ((h up badPkt rfl rfl rfl).1 (by decide +kernel) (by decide +kernel)), met ((h up badPkt rfl rfl rfl).2.1 (by decide +kernel) (by decide +kernel)),
   met ((h up badPkt rfl rfl rfl).2.2.1 (by decide +kernel) (by decide +kernel)), met ((h up badPkt rfl rfl rfl).2.2.2.1 (by decide +kernel) (by decide +kernel)),
   met ((h up badPkt rfl rfl rfl).2.2.2.2.1 (by decide +kernel) (by decide +kernel)),
   met ((h up badPkt rfl rfl rfl).2.2.2.2.2.1 (by decide +kernel) (by decide +kernel)),
   met ((h up badPkt rfl rfl rfl).2.2.2.2.2.2 0x66 (by decide) (by decide +kernel) (by decide +kernel))⟩

def startPkt (w : Nat) : Packet := pkt 0x11 0 (u32 7 ++ u16 w ++ u16 4320 ++ [1, 0]) (List.replicate 16 0)
def carrying : State := { up with link.carries := true }
theorem witness_FrameStartBeginsOrRejects (h : Obligations.FrameStartBeginsOrRejects) :
    Completes (.frameStart (startPkt 7680)) carrying ∧ Completes (.frameStart (startPkt 1)) carrying :=
  ⟨met2 ((h carrying (startPkt 7680) rfl rfl rfl (by decide +kernel) (by decide) (by decide)).1 (by decide +kernel)),
   met ((h carrying (startPkt 1) rfl rfl rfl (by decide +kernel) (by decide) (by decide)).2 0 (by decide +kernel) (canon (by decide +kernel)))⟩

def inFrame : RxFrame := { frame := 7, width := 8, height := 2, depth := 1, colour := 0, enc := false, set := 0, black := false, t0 := 0 }
def receiving : State := { carrying with rx.cur := some inFrame }
def linePkt : Packet := pkt 0x22 0 (u16 0 ++ u16 3 ++ u16 2 ++ u32 7) (List.replicate (packedSize (depthBits 1) 2) 9)
def endPkt (n : Nat) : Packet := pkt 0x44 0 (u32 7 ++ u16 n ++ [0, 0, 0, 0]) []
theorem witness_LinesAndFrameEnd (h : Obligations.LinesAndFrameEnd) :
    Completes (.line linePkt) receiving ∧ Completes (.frameEnd (endPkt 0)) receiving ∧ Completes (.frameEnd (endPkt 3)) receiving :=
  ⟨met2 ((h receiving linePkt inFrame rfl rfl rfl rfl).1 (by decide +kernel) (by decide +kernel) (by decide) (by decide)),
   met ((h receiving (endPkt 0) inFrame rfl rfl rfl rfl).2 (by decide +kernel) (by decide) (by decide) (canon (by decide +kernel))),
   met ((h receiving (endPkt 3) inFrame rfl rfl rfl rfl).2 (by decide +kernel) (by decide) (by decide) (canon (by decide +kernel)))⟩

def selfUp : State := { carrying with power.state := .self }
def regionPkt (w : Nat) : Packet := pkt 0x33 0 (u16 4 ++ u16 5 ++ u16 w ++ u16 1 ++ u16 1) (List.replicate (regionRow selfUp w) 0)
def ctlPkt (op : Nat) : Packet := pkt 0x55 0 [op, 0, 1, 2, 3, 4, 5, 6, 7, 8] []
theorem witness_OtherPacketsTaken (h : Obligations.OtherPacketsTaken) :
    Completes (.regionUpdate (regionPkt 2)) selfUp ∧ Completes (.regionUpdate (regionPkt 0)) selfUp
    ∧ Completes (.sleepNotice (ctlPkt 1)) up ∧ Completes (.controlUser (ctlPkt 2)) up ∧ Completes (.reservedPacket 0x66 (pkt 0x66 0 (List.replicate 10 0) [])) up :=
  ⟨met2 ((h selfUp (regionPkt 2) rfl rfl rfl (canon (by decide +kernel))).1 (by decide +kernel) (by decide +kernel)),
   met ((h selfUp (regionPkt 0) rfl rfl rfl (canon (by decide +kernel))).2.1 2 (by decide +kernel) (by decide +kernel)),
   met ((h up (ctlPkt 1) rfl rfl rfl (canon (by decide +kernel))).2.2.1 (by decide +kernel) rfl rfl rfl (by decide)),
   met ((h up (ctlPkt 2) rfl rfl rfl (canon (by decide +kernel))).2.2.2.1 (by decide +kernel) rfl rfl rfl (by decide)),
   met ((h up (pkt 0x66 0 (List.replicate 10 0) []) rfl rfl rfl (canon (by decide +kernel))).2.2.2.2 0x66 (by decide) (by decide +kernel))⟩

/-- A device whose frame boundary is reached, in a timing mode, of a frame of a kind. -/
def atBoundary (timing : Nat) (k : FrameKind) : State :=
  { up with raster.boundary := some 1000, raster.own := some 2000, power.state := (if k = .self then PowerState.self else PowerState.run), raster.kind := k, raster.mode := { timing := timing } }
def waitingIn : State := { atBoundary 1 .live with raster.waiting := some { frame := 3, t0 := 900 } }
def tickOf (s : State) : Nat := match anchorDue s with
  | some (a, _) => a
  | none => 0
theorem witness_AnchorsMadeWhenDue (h : Obligations.AnchorsMadeWhenDue) :
    Completes .freeAnchor (atBoundary 0 .live) ∧ Completes .earliestAnchor waitingIn ∧ Completes .latestAnchor (atBoundary 1 .live)
    ∧ Completes .selfAnchor (atBoundary 1 .self) ∧ Completes .genlockAnchor (atBoundary 2 .live) :=
  ⟨met ((h (atBoundary 0 .live) 2000).1 (by decide +kernel)), met ((h waitingIn (tickOf waitingIn)).2.1 (by decide +kernel)),
   met ((h (atBoundary 1 .live) (tickOf (atBoundary 1 .live))).2.2.1 (by decide +kernel)), met ((h (atBoundary 1 .self) 2000).2.2.2.1 (by decide +kernel)),
   met ((h (atBoundary 2 .live) 2000).2.2.2.2 (by decide +kernel))⟩

def edged (now : Nat) : State := { up with now := now, raster.gen := { lastEdge := some 0, step := 5, valid := 4 }, raster.mode := { timing := 2 } }
theorem witness_SyncInMeasured (h : Obligations.SyncInMeasured) :
    Completes .syncInEdge (edged (frameTicks up)) ∧ Completes .syncInTimeout (edged 5) :=
  ⟨met ((h (edged (frameTicks up)) 0 rfl).1 (by decide +kernel) (by decide +kernel)), met ((h (edged 5) 0 rfl).2 rfl (by decide))⟩

def lining : State := { up with raster.next := 3, raster.period := 2560 }
theorem witness_LineStartsIssued (h : Obligations.LineStartsIssued) :
    Completes .lineStart lining ∧ Completes .lineStart { up with panel.scanLeft := some 2 } :=
  ⟨met ((h lining).1 ((lineDue lining).getD 0) rfl (by decide +kernel) (by decide +kernel)), met ((h { up with panel.scanLeft := some 2 }).2 0 rfl)⟩

def frameRec : FrameRec := { cfg := [], gain := 65536, kind := .self, mode := {} }
def scanning : State := { up with raster.cur := some frameRec, raster.kind := .self, raster.period := 2560, raster.anchor := 1000 }
def part0 : Nat × Nat := (slice scanning scanning.raster.mode 0).getD (0, 0)
def blackFrame : State := { scanning with raster.kind := .black }
theorem witness_TileQueueFilled (h : Obligations.TileQueueFilled) :
    Completes (.lineDeadline 0 0) scanning ∧ Completes (.lineDeadline 0 4319) scanning ∧ Completes (.tileLineQueued 0 0 []) scanning
    ∧ Completes (.tileLineQueued 0 0 [255]) blackFrame :=
  ⟨met ((h scanning 0 0 part0.1 part0.2 (by decide +kernel) rfl rfl (by decide) (by decide +kernel)).1 (by decide +kernel)),
   met ((h scanning 0 4319 part0.1 part0.2 (by decide +kernel) rfl rfl (by decide) (by decide +kernel)).1 (by decide +kernel)),
   met2 ((h scanning 0 0 part0.1 part0.2 (by decide +kernel) rfl rfl (by decide) (by decide +kernel)).2 [] (by decide +kernel)
     (by decide +kernel) (by decide +kernel) (.inr (by decide +kernel)) (by decide +kernel)),
   met2 ((h blackFrame 0 0 part0.1 part0.2 (by decide +kernel) rfl rfl (by decide) (by decide +kernel)).2 [255] (by decide +kernel)
     (by decide +kernel) (by decide +kernel) (.inl rfl) (by decide +kernel))⟩

def sweeping : State := setCfg hCOMP Par.COMP_SWEEP_MODE 0 2 { up with pipe.sweepAt := some 0 }
def loading : State := { up with pipe.load := some { reload := false, bank := 0, seq := 1, residual := [4, 5], stress := [6, 7] } }
def loadingStress : State := { up with pipe.load := some { reload := false, bank := 0, seq := 1, residual := [], stress := [6, 7] } }
def saveUnderWay : State := { up with pipe.saving := some 0 }
theorem witness_MapsMaintained (h : Obligations.MapsMaintained) :
    Completes .workingMapRebuilt { up with pipe.rebuild := some 1 } ∧ Completes .sweepIntervalExpiry sweeping
    ∧ Completes (.mapRowLoaded false 4 []) loading ∧ Completes (.mapRowLoaded true 6 []) loadingStress
    ∧ Completes .mapSaveInterval up ∧ Completes (.mapSaveComplete none) saveUnderWay
    ∧ Completes (.mapSaveComplete (some (0, 3))) saveUnderWay :=
  ⟨met ((h { up with pipe.rebuild := some 1 }).1 1 rfl (canon (by decide +kernel))),
   met ((h sweeping).2.1 0 rfl (by decide +kernel) rfl (by decide +kernel)),
   met2 ((h loading).2.2.1 _ 4 [5] [] rfl rfl (by decide) (by decide +kernel)),
   met2 ((h loadingStress).2.2.2.1 _ 6 [7] [] rfl rfl rfl (by decide) (by decide +kernel)),
   met ((h up).2.2.2.2.1 rfl rfl rfl rfl rfl rfl),
   met ((h saveUnderWay).2.2.2.2.2 0 none rfl (by decide +kernel) rfl rfl (canon (by decide +kernel))),
   met ((h saveUnderWay).2.2.2.2.2 0 (some (0, 3)) rfl (by decide +kernel) rfl rfl (canon (by decide +kernel)))⟩

/-- A device with a reverse window open and port 0 as given. -/
def withPort (x : OPort) : State := { up with out.win := some (0, 0, 32), out.ports := mput {} [] 0 x, pipe.batch := some (1, 2) }
def statusPkt : Packet := pkt 0x71 0 (List.replicate 10 0) (List.replicate 16 7)
def sensePkt : Packet := pkt 0x72 0 (2 :: List.replicate 9 0) (List.replicate 8 0)
/-- A driver's blocks: a TRAIN block and the packet's bytes, scrambled from seed 2. -/
def driverBlocks (bs : List Nat) : List Block :=
  let k := (bs.length + 15) / 16
  let d := (scrambleBytes (scramblerSeed 2) (padTo (16 * k) bs)).1
  ⟨bTRAIN, List.replicate 16 0⟩ :: (List.range k).map fun i => ⟨bDATA, sub d (16 * i) 16⟩
def readingBack : State := setCfg hOUTPUT Par.OUTPUT_READBACK_ENABLE 0 1
  { withPort { trained := true } with out.lanes := [(0, { lines := [(4319, 1, 0)] })] }
theorem witness_OthamPortsServe (h : Obligations.OthamPortsServe) :
    Completes (.reverseWindowEnd 0) (withPort { window := true })
    ∧ Completes (.driverStatus 0 (driverBlocks (streamBytes 0x71 statusPkt))) (withPort { window := true })
    ∧ Completes (.senseResult 0 (driverBlocks (streamBytes 0x72 sensePkt))) (withPort { window := true })
    ∧ Completes (.othamTrainingTimer 0) (withPort { phase := .ts1 })
    ∧ Completes (.othamTrainingTimer 0) (withPort { phase := .window1, attempts := 1 })
    ∧ Completes (.othamTrainingTimer 0) (withPort { phase := .window2, attempts := 2 })
    ∧ Completes (.olaneLockLost 0 1) (withPort { trained := true })
    ∧ Completes (.readbackCompare 0 0 4319 [⟨bDATA, List.replicate 16 0⟩]) readingBack :=
  ⟨met ((h (withPort { window := true }) 0 (by decide +kernel) rfl rfl rfl rfl).1 0 0 32 rfl (by decide +kernel)),
   met ((h (withPort { window := true }) 0 (by decide +kernel) rfl rfl rfl rfl).2.1 0 0 32 (driverBlocks (streamBytes 0x71 statusPkt))
     (streamBytes 0x71 statusPkt) rfl (by decide +kernel) (by decide +kernel) (by decide +kernel) (by decide +kernel) (by decide +kernel)
     (by decide +kernel) (canon (by decide +kernel))),
   met ((h (withPort { window := true }) 0 (by decide +kernel) rfl rfl rfl rfl).2.2.1 0 0 32 1 2 (driverBlocks (streamBytes 0x72 sensePkt))
     (streamBytes 0x72 sensePkt) rfl rfl (by decide +kernel) (by decide +kernel) (by decide +kernel) (by decide +kernel) (by decide +kernel)
     (by decide +kernel) (by decide +kernel)),
   met ((h (withPort { phase := .ts1 }) 0 (by decide +kernel) rfl rfl rfl rfl).2.2.2.1 (by decide +kernel)),
   met ((h (withPort { phase := .window1, attempts := 1 }) 0 (by decide +kernel) rfl rfl rfl rfl).2.2.2.2.1 (200 * tickUs)
     (.inl ⟨by decide +kernel, rfl⟩)),
   met ((h (withPort { phase := .window2, attempts := 2 }) 0 (by decide +kernel) rfl rfl rfl rfl).2.2.2.2.1 tickMs
     (.inr ⟨by decide +kernel, rfl⟩)),
   met ((h (withPort { trained := true }) 0 (by decide +kernel) rfl rfl rfl rfl).2.2.2.2.2.1 1 (by decide) (by decide +kernel)
     (by decide +kernel) (by decide +kernel)),
   met ((h readingBack 0 (by decide +kernel) rfl rfl rfl rfl).2.2.2.2.2.2 0 4319 [⟨bDATA, List.replicate 16 0⟩] (by decide)
     (by decide +kernel) (by decide +kernel) (by decide +kernel) (by decide +kernel) (by decide +kernel) (canon (by decide +kernel)))⟩

end Sys2Proof.Tests
end

section
/-! SUPPORT. The family of chapter 01: every command's parts, and that every step keeps what every change keeps. -/

set_option Elab.async false

namespace Sys2Proof.Machine

/-! ### What a command changes -/

/-- Every command answers a next state, which differs in the parts of its footprint alone. -/
theorem exec_runs (c : Instr) (s : State) : Runs (footprint c) s (exec c s) :=
  match c with
  | .read .. => (execRead_only ..).mono rfl
  | .write .. => (execWrite_only ..).mono rfl
  | .openReq .. => (execOpenReq_only ..).mono rfl
  | .prove .. => (execProve_only ..).mono rfl
  | .close .. => (execClose_only ..).mono rfl
  | .nop .. => (execNop_only ..).mono rfl
  | .commit .. => (execCommit_only ..).mono rfl
  | .store .. => (execStore_only ..).mono rfl
  | .restoreDefaults .. => (execRestoreDefaults_only ..).mono rfl
  | .shadowDiscard .. => (execShadowDiscard_only ..).mono rfl
  | .utcSet .. => (execUtcSet_only ..).mono rfl
  | .powerRequestOn .. => (execPowerRequestOn_only ..).mono rfl
  | .powerRequestStandby .. => (execPowerRequestStandby_only ..).mono rfl
  | .powerRequestOff .. => (execPowerRequestOff_only ..).mono rfl
  | .restart .. => (execRestart_only ..).mono rfl
  | .lifecycleRequest .. => (execLifecycleRequest_only ..).mono rfl
  | .operatorPassword .. => (execOperatorPassword_only ..).mono rfl
  | .integratorKey .. => (execIntegratorKey_only ..).mono rfl
  | .attestChallenge .. => (execAttestChallenge_only ..).mono rfl
  | .attestationDone => (execAttestationDone_only ..).mono rfl
  | .linkRetrain .. => (execLinkRetrain_only ..).mono rfl
  | .portRetrain .. => (execPortRetrain_only ..).mono rfl
  | .sweepStart .. => (execSweepStart_only ..).mono rfl
  | .mapSave .. => (execMapSave_only ..).mono rfl
  | .mapReload .. => (execMapReload_only ..).mono rfl
  | .updateBegin .. => (execUpdateBegin_only ..).mono rfl
  | .updateImage .. => (execUpdateImage_only ..).mono rfl
  | .updateVerify .. => (execUpdateVerify_only ..).mono rfl
  | .imageVerified => (execImageVerified_only ..).mono rfl
  | .activateAtRestart .. => (execActivateAtRestart_only ..).mono rfl
  | .activateNow .. => (execActivateNow_only ..).mono rfl
  | .flashOperationComplete .. => (execFlashOperationComplete_only ..).mono rfl
  | .confirm .. => (execConfirm_only ..).mono rfl
  | .retire .. => (execRetire_only ..).mono rfl
  | .fell .. => (execFell_only ..).mono rfl
  | .reinstate .. => (execReinstate_only ..).mono rfl
  | .stressSet .. => (execStressSet_only ..).mono rfl
  | .ovlMemWrite .. => (execOvlMemWrite_only ..).mono rfl
  | .bufTableWrite .. => (execBufTableWrite_only ..).mono rfl
  | .drvRegsWrite .. => (execDrvRegsWrite_only ..).mono rfl
  | .ntcEnableWrite .. => (execNtcEnableWrite_only ..).mono rfl
  | .ctrlportEnableWrite .. => (execCtrlportEnableWrite_only ..).mono rfl
  | .spiStatus => (execSpiStatus_only ..).mono rfl
  | .spiWriteFrame .. => (execSpiWriteFrame_only ..).mono rfl
  | .spiReadFrame .. => (execSpiReadFrame_only ..).mono rfl
  | .i3cPrivateWrite .. => (execI3cPrivateWrite_only ..).mono rfl
  | .i3cPrivateRead .. => (execI3cPrivateRead_only ..).mono rfl
  | .i3cEntdaa .. => (execI3cEntdaa_only ..).mono rfl
  | .i3cSetdasa .. => (execI3cSetdasa_only ..).mono rfl
  | .fieldRequestSegment .. => (execFieldRequestSegment_only ..).mono rfl
  | .auxDictionarySegment .. => (execAuxDictionarySegment_only ..).mono rfl
  | .sessionIdleTimeout .. => (execSessionIdleTimeout_only ..).mono rfl
  | .challengeExpiry .. => (execChallengeExpiry_only ..).mono rfl
  | .lockoutSecond .. => (execLockoutSecond_only ..).mono rfl
  | .lockstepMismatch => (execLockstepMismatch_only ..).mono rfl
  | .watchdogExpiry => (execWatchdogExpiry_only ..).mono rfl
  | .stagRestartComplete => (execStagRestartComplete_only ..).mono rfl
  | .confirmTimeout => (execConfirmTimeout_only ..).mono rfl
  | .thermalSample .. => (execThermalSample_only ..).mono rfl
  | .voltageSample .. => (execVoltageSample_only ..).mono rfl
  | .ntcSample .. => (execNtcSample_only ..).mono rfl
  | .operatingMinute => (execOperatingMinute_only ..).mono rfl
  | .caps .. => (execCaps_only ..).mono rfl
  | .capsResendTimer => (execCapsResendTimer_only ..).mono rfl
  | .trainingStateTimeout .. => (execTrainingStateTimeout_only ..).mono rfl
  | .bitlockComplete .. => (execBitlockComplete_only ..).mono rfl
  | .blocklockComplete .. => (execBlocklockComplete_only ..).mono rfl
  | .deskewComplete .. => (execDeskewComplete_only ..).mono rfl
  | .eqAck .. => (execEqAck_only ..).mono rfl
  | .eqMeasurementDone .. => (execEqMeasurementDone_only ..).mono rfl
  | .verifyWindowEnd .. => (execVerifyWindowEnd_only ..).mono rfl
  | .backoffExpiry => (execBackoffExpiry_only ..).mono rfl
  | .retrainReq .. => (execRetrainReq_only ..).mono rfl
  | .laneLockLost .. => (execLaneLockLost_only ..).mono rfl
  | .laneSignalLost .. => (execLaneSignalLost_only ..).mono rfl
  | .idleColumn .. => (execIdleColumn_only ..).mono rfl
  | .idlePowerDown => (execIdlePowerDown_only ..).mono rfl
  | .fastExit .. => (execFastExit_only ..).mono rfl
  | .idleSignalDetected .. => (execIdleSignalDetected_only ..).mono rfl
  | .wakeRequest .. => (execWakeRequest_only ..).mono rfl
  | .laneMarginCheck .. => (execLaneMarginCheck_only ..).mono rfl
  | .fillerColumn .. => (execFillerColumn_only ..).mono rfl
  | .frameStart .. => (execFrameStart_only ..).mono rfl
  | .line .. => (execLine_only ..).mono rfl
  | .regionUpdate .. => (execRegionUpdate_only ..).mono rfl
  | .frameEnd .. => (execFrameEnd_only ..).mono rfl
  | .sleepNotice .. => (execSleepNotice_only ..).mono rfl
  | .controlUser .. => (execControlUser_only ..).mono rfl
  | .reservedPacket .. => (execReservedPacket_only ..).mono rfl
  | .lineDeadline .. => (execLineDeadline_only ..).mono rfl
  | .auxAnswer .. => (execAuxAnswer_only ..).mono rfl
  | .auxRequestTimeout => (execAuxRequestTimeout_only ..).mono rfl
  | .auxUnknownChannel .. => (execAuxUnknownChannel_only ..).mono rfl
  | .cpHello .. => (execCpHello_only ..).mono rfl
  | .cpConfirm .. => (execCpConfirm_only ..).mono rfl
  | .cpConfirmTimeout => (execCpConfirmTimeout_only ..).mono rfl
  | .cpDrop .. => (execCpDrop_only ..).mono rfl
  | .lineStart => (execLineStart_only ..).mono rfl
  | .freeAnchor => (execFreeAnchor_only ..).mono rfl
  | .earliestAnchor => (execEarliestAnchor_only ..).mono rfl
  | .latestAnchor => (execLatestAnchor_only ..).mono rfl
  | .selfAnchor => (execSelfAnchor_only ..).mono rfl
  | .syncInEdge => (execSyncInEdge_only ..).mono rfl
  | .syncInTimeout => (execSyncInTimeout_only ..).mono rfl
  | .tileLineQueued .. => (execTileLineQueued_only ..).mono rfl
  | .driverStatus .. => (execDriverStatus_only ..).mono rfl
  | .senseResult .. => (execSenseResult_only ..).mono rfl
  | .reverseWindowEnd .. => (execReverseWindowEnd_only ..).mono rfl
  | .readbackCompare .. => (execReadbackCompare_only ..).mono rfl
  | .olaneLockLost .. => (execOlaneLockLost_only ..).mono rfl
  | .othamTrainingTimer .. => (execOthamTrainingTimer_only ..).mono rfl
  | .pgoodChange .. => (execPgoodChange_only ..).mono rfl
  | .pgoodLost .. => (execPgoodLost_only ..).mono rfl
  | .seqDelayExpiry => (execSeqDelayExpiry_only ..).mono rfl
  | .seqStepTimeout => (execSeqStepTimeout_only ..).mono rfl
  | .pmbusWriteDone .. => (execPmbusWriteDone_only ..).mono rfl
  | .pmbusRetryTimer => (execPmbusRetryTimer_only ..).mono rfl
  | .refSettled => (execRefSettled_only ..).mono rfl
  | .pumpOutOfRegulation .. => (execPumpOutOfRegulation_only ..).mono rfl
  | .pumpRegulating .. => (execPumpRegulating_only ..).mono rfl
  | .dischargeHoldEnd => (execDischargeHoldEnd_only ..).mono rfl
  | .avddRefSample .. => (execAvddRefSample_only ..).mono rfl
  | .sweepIntervalExpiry => (execSweepIntervalExpiry_only ..).mono rfl
  | .mapSaveInterval => (execMapSaveInterval_only ..).mono rfl
  | .mapSaveComplete .. => (execMapSaveComplete_only ..).mono rfl
  | .mapRowLoaded .. => (execMapRowLoaded_only ..).mono rfl
  | .workingMapRebuilt => (execWorkingMapRebuilt_only ..).mono rfl
  | .dramReadComplete .. => (execDramReadComplete_only ..).mono rfl
  | .migrationComplete .. => (execMigrationComplete_only ..).mono rfl
  | .dramRefreshDue .. => (execDramRefreshDue_only ..).mono rfl
  | .rdTableClear => (execRdTableClear_only ..).mono rfl
  | .throttleExpiry .. => (execThrottleExpiry_only ..).mono rfl
  | .dramRequestPromotion .. => (execDramRequestPromotion_only ..).mono rfl
  | .fineRetrainTimer .. => (execFineRetrainTimer_only ..).mono rfl
  | .fullRetrainPiece .. => (execFullRetrainPiece_only ..).mono rfl
  | .dramIdleTimeout => (execDramIdleTimeout_only ..).mono rfl
  | .dramScrubStep .. => (execDramScrubStep_only ..).mono rfl
  | .dramTrainingDone .. => (execDramTrainingDone_only ..).mono rfl
  | .sramAccess .. => (execSramAccess_only ..).mono rfl
  | .addWrap .. => (execAddWrap_only ..).mono rfl
  | .addSat .. => (execAddSat_only ..).mono rfl
  | .swap .. => (execSwap_only ..).mono rfl
  | .sramScrubStep .. => (execSramScrubStep_only ..).mono rfl
  | .spareCopyDone .. => (execSpareCopyDone_only ..).mono rfl
  | .testWindow .. => (execTestWindow_only ..).mono rfl
  | .programDone .. => (execProgramDone_only ..).mono rfl
  | .logGatherTimeout => (execLogGatherTimeout_only ..).mono rfl
  | .tamper .. => (execTamper_only ..).mono rfl
  | .tamperClear => (execTamperClear_only ..).mono rfl
  | .entropyFailure .. => (execEntropyFailure_only ..).mono rfl
  | .testPortInstruction .. => (execTestPortInstruction_only ..).mono rfl
  | .testPortChallenge .. => (execTestPortChallenge_only ..).mono rfl
  | .monitorMeasurement .. => (execMonitorMeasurement_only ..).mono rfl
  | .marginPeriod => (execMarginPeriod_only ..).mono rfl
  | .avsStatus .. => (execAvsStatus_only ..).mono rfl
  | .avsTimeout => (execAvsTimeout_only ..).mono rfl
  | .vcoreRampStep => (execVcoreRampStep_only ..).mono rfl
  | .vcoreSearchStep => (execVcoreSearchStep_only ..).mono rfl
  | .powerOnReset => (execPowerOnReset_only ..).mono rfl
  | .resetN => (execResetN_only ..).mono rfl
  | .resetRelease .. => (execResetRelease_only ..).mono rfl
  | .referenceReady => (execReferenceReady_only ..).mono rfl
  | .firmwareStarted => (execFirmwareStarted_only ..).mono rfl
  | .storeReadDone => (execStoreReadDone_only ..).mono rfl
  | .smallBankLoaded => (execSmallBankLoaded_only ..).mono rfl
  | .standbyTimer => (execStandbyTimer_only ..).mono rfl
  | .offTimer => (execOffTimer_only ..).mono rfl
  | .fullWake .. => (execFullWake_only ..).mono rfl
  | .serviceWake .. => (execServiceWake_only ..).mono rfl
  | .wakeTimer => (execWakeTimer_only ..).mono rfl
  | .serviceWakeTimeout => (execServiceWakeTimeout_only ..).mono rfl
  | .resourceReadyTimeout .. => (execResourceReadyTimeout_only ..).mono rfl
  | .powerFailWarning .. => (execPowerFailWarning_only ..).mono rfl
  | .powerFailRecovery => (execPowerFailRecovery_only ..).mono rfl
  | .genlockAnchor => (execGenlockAnchor_only ..).mono rfl
  | .selfRefreshExit .. => (execSelfRefreshExit_only ..).mono rfl
  | .rowRepaired .. => (execRowRepaired_only ..).mono rfl
  | .domainPowerGood .. => (execDomainPowerGood_only ..).mono rfl
  | .auxCollision => (execAuxCollision_only ..).mono rfl
  | .metAfter1Ms => (execMetAfter1Ms_only ..).mono rfl

/-- A command, and a tick, only moves time on and keeps what is canonical. -/
theorem step_kept {s t : State} (h : step s = .next t) : Kept s t := by
  unfold step at h
  split at h
  · cases h
    exact (tick_only s).kept
  · rename_i c rest _
    obtain ⟨u, hu, only⟩ := exec_runs c { s with pending := rest }
    cases hu.symm.trans h
    exact (Only.upd_pending (ps := [.pending]) (Only.refl s)).kept.trans only.kept

/-- Settles O3: the tick and every command keep what every change keeps. -/
theorem stepKeepsCanonical : Obligations.StepKeepsCanonical :=
  fun _ _ h => ⟨(step_kept h).now, (step_kept h).canon⟩

end Sys2Proof.Machine
end

section
/-! SUPPORT. The tiles' queues (01, R13, R14, R19): which operations leave the ports' queues alone, and what queueing a line does. -/

set_option Elab.async false

namespace Sys2Proof.Machine

/-! ### What leaves the queues alone -/

/-- The ports' queues, and the lines their tiles are done with, are as they were. -/
structure QueuesKept (s t : State) : Prop where
  queues : t.pipe.queues = s.pipe.queues
  done   : t.pipe.done = s.pipe.done

theorem QueuesKept.refl (s : State) : QueuesKept s s := ⟨rfl, rfl⟩
theorem QueuesKept.trans {s t u : State} (h : QueuesKept s t) (h' : QueuesKept t u) : QueuesKept s u :=
  ⟨h'.queues.trans h.queues, h'.done.trans h.done⟩
theorem QueuesKept.of_pipe {s t : State} (h : t.pipe = s.pipe) : QueuesKept s t := ⟨by rw [h], by rw [h]⟩
theorem QueuesKept.of_only {ps : List Part} {s t : State} (h : Only ps s t) (h1 : ps.contains .pipe = false := by decide)
    (h2 : ps.contains .flash = false := by decide) : QueuesKept s t := .of_pipe (h.pipe h1 h2)
theorem QueuesKept.step {ps : List Part} {s t u : State} (o : Only ps t u) (h : QueuesKept s t)
    (h1 : ps.contains .pipe = false := by decide) (h2 : ps.contains .flash = false := by decide) : QueuesKept s u :=
  h.trans (.of_only o h1 h2)
theorem QueuesKept.foldl {α : Type} {g : State → α → State} (hg : ∀ t a, QueuesKept t (g t a)) :
    ∀ (l : List α) (t : State), QueuesKept t (l.foldl g t)
  | [], t => .refl t
  | a :: l, t => (hg t a).trans (QueuesKept.foldl hg l (g t a))
theorem QueuesKept.setTile (st t : Nat) (x : TileSt) (s : State) : QueuesKept s (Machine.setTile st t x s) := ⟨rfl, rfl⟩
theorem QueuesKept.nextLine {s t : State} (h : QueuesKept s t) (port : Nat) : nextLine t port = nextLine s port := by
  unfold Machine.nextLine
  rw [h.done]

theorem countRead_queues (skips : Skips) (slot y a w : Nat) (s : State) : QueuesKept s (countRead skips slot y a w s) := by
  unfold countRead
  refine .foldl (fun t c => ?_) _ _
  split
  · dsimp only
    split
    · exact .refl t
    · exact .step (incWrap_only ..) ⟨rfl, rfl⟩
  · exact .of_only (blockFailed_only ..)

theorem countSubstitute_queues (src : Option Nat) (m : Mode) (y a w : Nat) (s : State) :
    QueuesKept s (countSubstitute src m y a w s) := by
  unfold countSubstitute
  split
  · exact .refl s
  · split
    · exact countRead_queues ..
    · exact .refl s

theorem noteTables_queues (st y : Nat) (words : List Nat) (s : State) : QueuesKept s (noteTables st y words s) := by
  unfold noteTables
  refine .foldl (fun t o => ?_) _ _
  split
  · exact .refl t
  · extract_lets +onlyGivenNames a master table b
    have hb : QueuesKept t b := .step (raise_only ..) (.step (addUe_only ..) (.of_only (addCe_only ..)))
    have hr : QueuesKept t (raise 0x0350 hDITHER ([st] ++ u16 y ++ [table, 1]) b) := hb.trans (.of_only (raise_only ..))
    dsimp only
    split
    · split
      · exact ⟨hr.queues, hr.done⟩
      · exact ⟨hr.queues, hr.done⟩
    · exact ⟨hb.queues, hb.done⟩

theorem noteResidual_queues (m : Mode) (y a w : Nat) (s : State) : QueuesKept s (noteResidual m y a w s) := by
  unfold noteResidual
  split
  · exact .refl s
  · refine .foldl (fun t c => ?_) _ _
    split
    · exact .step (incSat_only ..) ⟨rfl, rfl⟩
    · exact .refl t

theorem previousMissing_queues (m : Mode) (y cause : Nat) (cols : List Nat) (s : State) :
    QueuesKept s (previousMissing m y cause cols s) := by
  unfold previousMissing
  refine .foldl (fun t c => ?_) _ _
  dsimp only
  split
  · exact .refl t
  · exact .step (raise_only ..) (.step (incSat_only ..) ⟨rfl, rfl⟩)

theorem notePrevious_queues (m : Mode) (y a w : Nat) (src : SliceSrc) (s : State) :
    QueuesKept s (notePrevious m y a w src s) := by
  unfold notePrevious
  split
  · exact .refl s
  · split
    · exact previousMissing_queues ..
    · split
      · exact .refl s
      · extract_lets f b
        have hb : QueuesKept s b := .of_only (noteOverlays_only ..)
        refine hb.trans ?_
        split
        · exact .trans (countRead_queues ..) (previousMissing_queues ..)
        · split
          · exact .refl b
          · exact previousMissing_queues ..

theorem noteSlice_queues (m : Mode) (port line a w : Nat) (src : SliceSrc) (s : State) :
    QueuesKept s (noteSlice m port line a w src s) := by
  unfold noteSlice
  extract_lets +onlyGivenNames f st bad s1 s2 s3 cut pipe s4
  have h1 : QueuesKept s s1 := .step (noteCovered_only ..) (.of_only (noteOverlays_only ..))
  have h2 : QueuesKept s1 s2 :=
    (noteTables_queues ..).trans ((noteResidual_queues ..).trans (notePrevious_queues ..))
  have h3 : QueuesKept s2 s3 := by
    subst s3
    split
    · exact countRead_queues ..
    · exact .refl s2
  have h4 : QueuesKept s3 s4 := by
    subst s4
    split
    · exact ⟨rfl, rfl⟩
    · exact .refl s3
  have h := ((h1.trans h2).trans h3).trans h4
  clear_value s4
  split
  · refine h.trans (.trans ?_ (.of_only (countSubst_only ..)))
    split
    · exact .refl s4
    · exact countSubstitute_queues ..
  · exact h

theorem takeOver_queues (st : Nat) (s : State) : QueuesKept s (takeOver st s) := by
  unfold takeOver
  split
  · exact .refl s
  · exact .step (showSpare_only ..) ⟨rfl, rfl⟩

theorem fellNow_queues (st t cause : Nat) (s : State) : QueuesKept s (fellNow st t cause s) := by
  unfold fellNow
  extract_lets +onlyGivenNames x a pipe b c d e
  have hb : QueuesKept s b := by
    subst b
    split
    · exact .setTile ..
    · exact ⟨rfl, rfl⟩
  have he : QueuesKept b e :=
    .step (raise_only ..) (.step (incSat_only ..) (.of_only (fellRecord_only ..)))
  refine .step (showSpare_only ..) ((hb.trans he).trans ?_)
  split
  · exact takeOver_queues ..
  · exact .refl e

theorem withhold_queues (st t cause why : Nat) (s : State) : QueuesKept s (withhold st t cause why s) := by
  unfold withhold
  exact .step (raise_only ..) (.step (incSat_only ..) (.setTile ..))

theorem fellTile_queues (st t cause : Nat) (s : State) : QueuesKept s (fellTile st t cause s) := by
  unfold fellTile
  dsimp only
  split
  · exact .refl s
  · split
    · exact withhold_queues ..
    · split
      · exact withhold_queues ..
      · split
        · exact withhold_queues ..
        · exact fellNow_queues ..

theorem beatFails_queues (port line place : Nat) (s : State) : QueuesKept s (beatFails port line place s) := by
  unfold beatFails
  extract_lets st t h a b x
  exact .trans (.step (raise_only ..) (.of_only (incSat_only ..))) (.setTile ..)

theorem beatRule_queues (port : Nat) (s : State) : QueuesKept s (beatRule port s) := by
  unfold beatRule
  extract_lets st t x day a second
  have ha : QueuesKept s a := .setTile ..
  split
  · exact ha.trans (fellTile_queues ..)
  · exact ha

/-! ### What queueing a line does -/

/-- A port's line has entered its queue, as `q`: the port is done with it, and the queue ends with it. -/
structure Queued (port line : Nat) (q : OutLine) (s t : State) : Prop where
  next   : nextLine t port = line + 1
  wf     : mwf none t.pipe.done = true
  queue  : mwf [] s.pipe.queues = true → mget [] t.pipe.queues port = mget [] s.pipe.queues port ++ [q]
  isLine : q.line = line

theorem Queued.before {port line : Nat} {q : OutLine} {s t u : State} (h : QueuesKept s t) (h' : Queued port line q t u) :
    Queued port line q s u := ⟨h'.next, h'.wf, fun w => h.queues ▸ h'.queue (h.queues ▸ w), h'.isLine⟩
theorem Queued.after {port line : Nat} {q : OutLine} {s t u : State} (h : Queued port line q s t) (h' : QueuesKept t u) :
    Queued port line q s u := ⟨(h'.nextLine port).trans h.next, h'.done ▸ h.wf, fun w => h'.queues ▸ h.queue w, h.isLine⟩

/-- The line that a slice's picture puts into the queue. -/
def sliceLine (line : Nat) (r : List Nat × List Coded) (subst : Bool) : OutLine := ⟨line, r.2.map fun c => c.2.1, subst⟩

theorem queueSlice_queued (m : Mode) (port line a : Nat) (r : List Nat × List Coded) (subst : Bool) {s : State}
    (h : mwf none s.pipe.done = true) : Queued port line (sliceLine line r subst) s (queueSlice m port line a r subst s) := by
  unfold queueSlice
  extract_lets
  refine .after (t := { s with pipe := _ }) ⟨?_, ?_, fun hq => ?_, rfl⟩ (.of_only (freeLanding_only ..))
  · unfold nextLine
    rw [mget_mput_self _ _ _ _ h]
  · exact mwf_mput _ _ _ _ h
  · exact mget_mput_self _ _ _ _ hq

theorem substituteLine_queued (m : Mode) (port line a w reason : Nat) {s : State} (h : mwf none s.pipe.done = true) :
    ∃ q, Queued port line q s (substituteLine m port line a w reason s) := by
  unfold substituteLine
  extract_lets f src r
  have kept : QueuesKept s (noteSlice m port line a w src s) := noteSlice_queues ..
  exact ⟨_, .before kept (queueSlice_queued m port line a r true (kept.done ▸ h))⟩

theorem finishLine_queued (m : Mode) (port line a w : Nat) (src : SliceSrc) {s : State} (h : mwf none s.pipe.done = true) :
    Queued port line (sliceLine line (processSlice s (valsNow s) m port line a src) src.subst.isSome) s
      (finishLine m port line a w src s) := by
  unfold finishLine
  extract_lets +onlyGivenNames st t tile r noted slack x kept queued
  have hk : QueuesKept s kept :=
    .trans (.step (noteUnshown_only ..) (noteSlice_queues ..)) (.setTile ..)
  have hq : Queued port line (sliceLine line r src.subst.isSome) s queued :=
    .before hk (queueSlice_queued m port line a r _ (hk.done ▸ h))
  clear_value queued
  split
  · exact hq.after (.of_only (fastRise_only ..))
  · exact hq

theorem playLine_queued (m : Mode) (port line a w : Nat) (beats : List Nat) (src : SliceSrc) {s : State}
    (h : mwf none s.pipe.done = true) :
    ∃ q, Queued port line q s (playLine m port line a w beats src s)
      ∧ (beats = [] → q = sliceLine line (processSlice s (valsNow s) m port line a src) src.subst.isSome) := by
  unfold playLine
  extract_lets st t tile
  match beats with
  | [] => exact ⟨_, finishLine_queued m port line a w src h, fun _ => rfl⟩
  | [b] =>
    have kept : QueuesKept s (beatFails port line b s) := beatFails_queues ..
    have hq := Queued.before kept (finishLine_queued m port line a w src (kept.done ▸ h))
    exact ⟨_, hq.after (.trans (.step (raise_only ..) (.step (incSat_only ..) (.of_only (addCe_only ..)))) (beatRule_queues ..)), nofun⟩
  | b :: b' :: _ =>
    have kept : QueuesKept s (beatFails port line b' (beatFails port line b s)) :=
      (beatFails_queues ..).trans (beatFails_queues ..)
    obtain ⟨q, hq⟩ := substituteLine_queued m port line a w 1 (kept.done ▸ h)
    exact ⟨q, .after (.before kept hq) (beatRule_queues ..), nofun⟩

/-! ### What a missed deadline does -/

theorem missDeadline_queued (m : Mode) (port line a w : Nat) {s : State} (h : mwf none s.pipe.done = true) :
    ∃ q, Queued port line q s (missDeadline m port line a w s) := by
  unfold missDeadline
  extract_lets +onlyGivenNames st t tile failed
  split
  · exact ⟨_, queueSlice_queued m port line a _ false h⟩
  · clear_value failed
    cases failed with
    | some r => exact substituteLine_queued m port line a w r h
    | none =>
      have kept : QueuesKept s (raise 0x0D07 tile (u16 tile ++ u16 line ++ s16 (-32768)) s) := .of_only (raise_only ..)
      obtain ⟨q, hq⟩ := substituteLine_queued m port line a w 1 (kept.done ▸ h)
      exact ⟨q, .after (.before kept hq) (.of_only (fastRise_only ..))⟩

/-- Lines that miss their deadline go one after the other: with steps enough, the port's next line is the one behind the last of them. -/
theorem missUpTo_nextLine (m : Mode) (port line a w : Nat) (inFrame : line < m.height) (n : Nat) (s : State)
    (h : mwf none s.pipe.done = true) (le : nextLine s port ≤ line + 1) (enough : line + 1 ≤ nextLine s port + n) :
    nextLine (missUpTo m port line a w n s) port = line + 1 := by
  induction n generalizing s with
  | zero => exact Nat.le_antisymm le enough
  | succ n ih =>
    simp only [missUpTo]
    split
    · omega
    · obtain ⟨q, hq⟩ := missDeadline_queued m port (nextLine s port) a w h
      have next := hq.next
      exact ih _ hq.wf (by omega) (by omega)

/-! ### The two commands -/

theorem lineDeadline_nextLine {s : State} {port line a w : Nat} (hs : slice s s.raster.mode port = some (a, w))
    (runs : s.raster.stopped = false) (frame : s.raster.cur.isSome = true) (inFrame : line < s.raster.mode.height)
    (h : mwf none s.pipe.done = true) (due : nextLine s port ≤ line) :
    ∃ t, exec (.lineDeadline port line) s = .next t ∧ nextLine t port = line + 1 := by
  have kept : QueuesKept s (advanceTo (deadlineOf s port line) s) := .of_only (advanceTo_only ..)
  have guards : ¬ (s.raster.stopped = true ∨ s.raster.mode.height ≤ line ∨ line < nextLine s port ∨ s.raster.cur.isNone = true) := by
    simp [runs, inFrame, due, Option.ne_none_iff_isSome, frame]
  refine ⟨_, rfl, ?_⟩
  simp only [hs, if_neg guards]
  refine missUpTo_nextLine s.raster.mode port line a w inFrame _ _ (kept.done ▸ h) ?_ ?_
  · rw [kept.nextLine]; omega
  · omega

theorem tileLineQueued_queued {s : State} {port line a w : Nat} (hs : slice s s.raster.mode port = some (a, w))
    (runs : s.raster.stopped = false) (frame : s.raster.cur.isSome = true) (inFrame : line < s.raster.mode.height)
    (h : mwf none s.pipe.done = true) {beats : List Nat} (next : line = nextLine s port)
    (room : (mget [] s.pipe.queues port).length < 2) (inTime : s.now ≤ deadlineOf s port line)
    (src : s.raster.kind = .black ∨ (sliceSrc s s.raster.mode (valsNow s) port line a w).ready = true) :
    ∃ t q, exec (.tileLineQueued port line beats) s = .next t ∧ Queued port line q s t
      ∧ (s.raster.kind ≠ .black → beats = [] →
        q = sliceLine line (processSlice s (valsNow s) s.raster.mode port line a
            (sliceSrc s s.raster.mode (valsNow s) port line a w))
          (sliceSrc s s.raster.mode (valsNow s) port line a w).subst.isSome) := by
  have guards : ¬ (s.raster.stopped = true ∨ s.raster.cur.isNone = true ∨ s.raster.mode.height ≤ line ∨ line ≠ nextLine s port
      ∨ 2 ≤ (mget [] s.pipe.queues port).length) := by
    simp [runs, inFrame, ← next, Option.ne_none_iff_isSome, frame, room]
  by_cases black : s.raster.kind = .black
  · let picture := processSlice s (valsNow s) s.raster.mode port line a { px := List.replicate w none }
    refine ⟨_, sliceLine line picture false, rfl, ?_, fun live => absurd black live⟩
    simp only [hs, if_neg guards, if_neg (Nat.not_lt.2 inTime), if_pos black]
    exact queueSlice_queued _ _ _ _ _ _ h
  · have ready := src.resolve_left black
    have played := playLine_queued s.raster.mode port line a w beats (sliceSrc s s.raster.mode (valsNow s) port line a w) h
    obtain ⟨q, hq, picture⟩ := played
    refine ⟨_, q, rfl, ?_, fun _ => picture⟩
    simp only [hs, if_neg guards, if_neg (Nat.not_lt.2 inTime), if_neg black, ready, Bool.not_true, Bool.false_eq_true, if_false]
    exact hq

/-- Settles O26: a deadline queues the missed lines one by one up to its own; a line in time is queued by `queueSlice`, at most beat rules
before and after it. -/
theorem tileQueueFilled : Obligations.TileQueueFilled := by
  unfold Obligations.TileQueueFilled
  intro s port line a w hs runs frame inFrame h
  refine ⟨lineDeadline_nextLine hs runs frame inFrame h, fun beats next room inTime src wf => ?_⟩
  obtain ⟨t, q, step, queued, picture⟩ := tileLineQueued_queued (beats := beats) hs runs frame inFrame h next room inTime src
  refine ⟨t, q, step, queued.next, queued.queue wf, queued.isLine, fun live none shown => ?_⟩
  rw [picture live none, shown]
  exact ⟨rfl, rfl⟩

end Sys2Proof.Machine
end

section
/-! SUPPORT. A restart of Stag ends (17, R38): nothing that follows the end of the restart moves the time or begins another restart. -/

set_option Elab.async false

namespace Sys2Proof.Machine

/-! ### What leaves the time alone and begins no restart -/

/-- The time is as it was, and no restart of Stag has begun. -/
structure Steady (s t : State) : Prop where
  now  : t.now = s.now
  runs : s.stag.restarting = none → t.stag.restarting = none

theorem Steady.refl (s : State) : Steady s s := ⟨rfl, id⟩
theorem Steady.trans {s t u : State} (h : Steady s t) (h' : Steady t u) : Steady s u :=
  ⟨h'.now.trans h.now, fun r => h'.runs (h.runs r)⟩
theorem Steady.of_only {ps : List Part} {s t : State} (h : Only ps s t) (h1 : ps.contains .now = false := by decide)
    (h2 : ps.contains .stag = false := by decide) : Steady s t := ⟨h.same .now h1, fun r => (h.stag_restarting h2).trans r⟩
theorem Steady.step {ps : List Part} {s t u : State} (o : Only ps t u) (h : Steady s t)
    (h1 : ps.contains .now = false := by decide) (h2 : ps.contains .stag = false := by decide) : Steady s u :=
  h.trans (.of_only o h1 h2)
theorem Steady.foldl {α : Type} {g : State → α → State} (hg : ∀ t a, Steady t (g t a)) :
    ∀ (l : List α) (t : State), Steady t (l.foldl g t)
  | [], t => .refl t
  | a :: l, t => (hg t a).trans (Steady.foldl hg l (g t a))
/-- The same of an answer, now and once its response is queued. -/
structure AnsSteady (s : State) (x : Answer × State) : Prop where
  now   : Steady s x.2
  after : ∀ t, Steady t (x.1.after t)

theorem AnsSteady.plain {s t : State} {st : Nat} {pl : List Nat} {aw : Option Await} (h : Steady s t) :
    AnsSteady s (⟨st, pl, aw, id⟩, t) := ⟨h, Steady.refl⟩
theorem AnsSteady.of_only {ps : List Part} {s : State} {x : Answer × State} (h : AnsOnly ps s x)
    (h1 : ps.contains .now = false := by decide) (h2 : ps.contains .stag = false := by decide) : AnsSteady s x :=
  ⟨.of_only h.now h1 h2, fun t => .of_only (h.after t) h1 h2⟩
theorem AnsSteady.of_only2 {ps : List Part} {b s was : State} {x : Answer × State} (h : AnsOnly2 ps s was x) (hs : Steady b s)
    (hw : Steady b was) (h1 : ps.contains .now = false := by decide) (h2 : ps.contains .stag = false := by decide) : AnsSteady b x :=
  ⟨h.now.elim (fun h => .step h hs h1 h2) (fun h => .step h hw h1 h2), fun t => .of_only (h.after t) h1 h2⟩
theorem AnsSteady.before {s t : State} {x : Answer × State} (h : AnsSteady t x) (h' : Steady s t) : AnsSteady s x :=
  ⟨h'.trans h.now, h.after⟩
/-- An answer that is given where it is OK, and else leaves the state `was`. -/
theorem AnsSteady.orElse {b was : State} {x : Answer × State} (h : AnsSteady b x) (hw : Steady b was) :
    AnsSteady b (match x with
      | (a, t) => if a.status = stOK then (a, t) else (a, was)) := by
  obtain ⟨a, t⟩ := x
  dsimp only
  split
  · exact h
  · exact ⟨hw, h.after⟩

/-! ### The raster starts -/

theorem makeAnchor_steady (a : Nat) (s : State) : Steady (advanceTo a s) (makeAnchor a s) := by
  unfold makeAnchor
  extract_lets +onlyGivenNames b fs store begun kind ended raster anchored genlock moved noted raster' drawn raster'' cur state gain
    limited temp
  have h1 : Steady b begun := by
    subst begun
    split
    · exact .step (showSlots_only ..) (.trans (.step (forgetInput_only ..) (.of_only (dropWaiting_only ..))) ⟨rfl, id⟩)
    · exact .refl b
  have h2 : Steady begun anchored := .trans (.of_only (endLast_only ..)) ⟨rfl, id⟩
  have h3 : Steady anchored noted :=
    .step (incWrap_only ..) (.step (noteKind_only ..) (.step (clearFrame_only ..) (.step (moveLanding_only ..)
      (.step (moveRoles_only ..) (.of_only (genlockAnchored_only ..))))))
  have h4 : Steady noted drawn := .step (noteOverdrive_only ..) ⟨rfl, id⟩
  have h4 : Steady noted cur := h4.trans ⟨rfl, id⟩
  have h5 : Steady cur gain := .step (changeRes_only ..) (.of_only (changeRes_only ..))
  have h6 : Steady gain limited := by
    subst limited
    split
    · exact .of_only (incSat_only ..)
    · exact .refl gain
  have h7 : Steady limited temp := by
    subst temp
    split
    · exact .refl limited
    · exact .of_only (setResI_only ..)
  have h : Steady b temp := h1.trans (h2.trans (h3.trans (h4.trans (h5.trans (h6.trans h7)))))
  clear_value temp
  extract_lets last
  have hl : Steady b last := .step (changeRes_only ..) h
  clear_value last
  split
  · split
    · exact .step (displayKeyLost_only ..) hl
    · exact hl
  · exact hl

/-- An anchor at the present leaves the time as it is. -/
theorem makeAnchor_steady_now {a : Nat} {s : State} (h : s.now = a) : Steady s (makeAnchor a s) := by
  have still : Steady s (advanceTo a s) := ⟨by rw [← h]; exact Nat.max_self s.now, id⟩
  exact still.trans (makeAnchor_steady a s)

theorem rasterStart_steady (s : State) : Steady s (rasterStart s) := by
  unfold rasterStart
  split
  · exact .refl s
  · extract_lets +onlyGivenNames raster shown
    have h1 : Steady s shown :=
      .step (showPass_only ..) (.step (stressRateCheck_only ..) (.step (checkLegal_only ..) (.step (showGeometry_only ..) ⟨rfl, id⟩)))
    clear_value shown
    split
    · exact h1
    · extract_lets +onlyGivenNames warm gen raster' locked
      have h2 : Steady shown locked := .step (showLock_only ..) (.trans (.of_only (setTemperature_only ..)) ⟨rfl, id⟩)
      have h := h1.trans h2
      clear_value locked
      have pulse : Steady locked (pulseAt locked.now (showBuffers locked)) := .step (pulseAt_only ..) (.of_only (showBuffers_only ..))
      exact h.trans (pulse.trans (makeAnchor_steady_now pulse.now))

theorem rasterResume_steady (s : State) : Steady s (rasterResume s) := by
  unfold rasterResume
  split
  · exact .refl s
  · extract_lets was checked
    have h : Steady s checked := .of_only (checkLegal_only ..)
    clear_value checked
    split
    · exact h.trans (rasterStart_steady checked)
    · exact h

theorem rasterStep_steady (s : State) : Steady s (rasterStep s) := by
  unfold rasterStep
  extract_lets +onlyGivenNames panel reached
  have h : Steady s reached := ⟨rfl, id⟩
  split
  · exact (h.trans (.of_only (rowsBegin_only ..))).trans (rasterStart_steady _)
  · exact h

/-! ### The panel's sequences -/

theorem perform_steady (q : SeqRun) (s : State) : Steady s (perform q s).2 := by
  unfold perform
  split <;> try dsimp only
  case h_10 => exact .foldl (fun t p => .of_only (startTraining_only ..)) _ _
  case h_11 => exact rasterStep_steady s
  case h_1 => exact ⟨rfl, id⟩
  case h_2 => exact .of_only (beginPmbus_only ..)
  case h_3 => exact .of_only (beginPmbus_only ..)
  case h_4 => exact .step (rowsIdle_only ..) (.of_only (endScan_only ..))
  case h_5 => exact .step (rowsFloat_only ..) (.of_only (endScan_only ..))
  case h_6 =>
    have refs : Steady s { s with panel.refs := true } := ⟨rfl, id⟩
    exact refs.trans (.of_only (clipRefs_only _))
  case h_7 =>
    have refs : Steady s { s with panel.refs := false } := ⟨rfl, id⟩
    exact refs.trans (.of_only (clipRefs_only _))
  case h_8 =>
    split
    · exact .refl s
    · exact .of_only (setPump_only ..)
  case h_9 => exact .step (setPump_only ..) (.of_only (setResI_only ..))
  case h_12 => exact .of_only (discharge_only ..)
  case h_13 => exact .refl s

theorem beginStep_steady (q : SeqRun) (s : State) : Steady s (beginStep q s) := by
  unfold beginStep
  extract_lets +onlyGivenNames told begun
  have h : Steady s begun := by
    refine .trans (t := told) ?_ (.of_only (setSeq_only ..))
    subst told
    split
    · exact .of_only (raise_only ..)
    · exact .refl s
  have h := h.trans (perform_steady q begun)
  clear_value begun
  generalize perform q begun = x at *
  obtain ⟨met, done⟩ := x
  dsimp only at *
  split
  · exact .step (setSeq_only ..) h
  · exact .step (beginPinWait_only ..) h

theorem runSeq_steady (n : Nat) (s : State) : Steady s (runSeq n s) := by
  induction n generalizing s with
  | zero => exact .refl s
  | succ n ih =>
    unfold runSeq
    split
    · exact .refl s
    · split
      · split
        · exact .of_only (onComplete_only ..)
        · extract_lets done
          have h : Steady s done := .of_only (offComplete_only ..)
          clear_value done
          split
          · refine h.trans (.trans (.step (beginSeq_only ..) ?_) (ih _))
            exact ⟨rfl, id⟩
          · exact h
      · extract_lets step begun
        have h : Steady s begun := .trans (.of_only (changeRes_only ..)) (beginStep_steady _ _)
        clear_value begun
        split
        · split
          · split
            · split
              · exact h.trans (.trans (.of_only (beginSeq_only ..)) (ih _))
              · exact h.trans (.trans (.of_only (setSeq_only ..)) (ih _))
            · exact h
          · exact h
        · exact h

theorem panelOff_steady (s : State) : Steady s (panelOff s) := by
  unfold panelOff
  split
  · split
    · exact ⟨rfl, id⟩
    · exact ⟨rfl, id⟩
  · split
    · exact .trans (.of_only (beginSeq_only ..)) (runSeq_steady ..)
    · exact .refl s

/-! ### Resets, wakes and the entries into sleep -/

theorem resetState_steady (cause : Nat) (s : State) : Steady s (resetState cause s) := ⟨rfl, fun _ => rfl⟩

theorem resetDevice_steady (cause : Nat) (s : State) : Steady s (resetDevice cause s) := by
  unfold resetDevice
  extract_lets +onlyGivenNames torn disturbed held r
  have h1 : Steady s torn := by
    subst torn
    split
    · exact .of_only (tearProgram_only ..)
    · exact .refl s
  have h2 : Steady torn disturbed := by
    subst disturbed
    split
    · exact .of_only (disturbSlot_only ..)
    · exact .refl torn
  have h3 : Steady disturbed r := .step (keepResource_only ..) (resetState_steady cause disturbed)
  have h := (h1.trans h2).trans h3
  clear_value r
  split
  · exact h
  · exact .step (tellKeysLost_only ..) (.step (raise_only ..) (.step (draw_only r) h))

theorem wakeFromOff_steady (n : Nat) (service : Bool) (s : State) : Steady s (wakeFromOff n service s) := by
  unfold wakeFromOff
  extract_lets +onlyGivenNames woken
  have h : Steady s woken := .step (recordWake_only ..) (resetDevice_steady ..)
  clear_value woken
  split
  · exact h.trans ⟨rfl, id⟩
  · refine .step (setTransition_only ..) (h.trans ?_)
    exact ⟨rfl, id⟩

theorem startWake_steady (n : Nat) (s : State) : Steady s (startWake n s) := by
  unfold startWake
  split
  · refine .step (wakeBegins_only ..) (.step (setTransition_only ..) (.step (recordWake_only ..) ?_))
    exact ⟨rfl, id⟩
  · exact wakeFromOff_steady ..
  · exact .refl s

theorem startService_steady (n : Nat) (s : State) : Steady s (startService n s) := by
  unfold startService
  split
  · have h : Steady s (if n = 0 then s else recordWake n 3 s) := by
      split
      · exact .refl s
      · exact .of_only (recordWake_only ..)
    exact .step (wakeBegins_only ..) (h.trans ⟨rfl, id⟩)
  · exact wakeFromOff_steady ..
  · exact .refl s

theorem offFromStandby_steady (trigger : Nat) (s : State) : Steady s (offFromStandby trigger s) := by
  unfold offFromStandby
  split
  · exact .refl s
  · refine .trans (.step (noteEntry_only ..) ?_) (startService_steady ..)
    exact ⟨rfl, id⟩

theorem afterEntry_steady (wake request : Option Nat) (s : State) : Steady s (afterEntry wake request s) := by
  unfold afterEntry
  split
  · split
    · exact startService_steady ..
    · exact startWake_steady ..
  · exact startWake_steady ..
  · exact offFromStandby_steady ..
  · exact .refl s

theorem fallAsleep_steady (off : Bool) (s : State) : Steady s (fallAsleep off s) := by
  unfold fallAsleep
  extract_lets +onlyGivenNames down asleep
  have h1 : Steady s down := .step (panelDown_only ..) (.of_only (stopOperating_only ..))
  refine .step (enterState_only ..) (h1.trans (.step (setTransition_only ..) ?_))
  exact ⟨rfl, id⟩

theorem stepFour_steady (t : Transition) (s : State) : Steady s (stepFour t s) := by
  unfold stepFour
  extract_lets +onlyGivenNames power flushed
  have h : Steady s flushed := by
    refine .step (flushGather_only ..) ?_
    exact ⟨rfl, id⟩
  clear_value flushed
  split
  · exact h
  · extract_lets refreshed
    have h' : Steady flushed refreshed := by
      subst refreshed
      split
      · exact .refl flushed
      · exact .of_only (enterSelfRefresh_only ..)
    exact (h.trans h').trans (.trans (fallAsleep_steady ..) (afterEntry_steady ..))

theorem advanceRestart_steady (s : State) : Steady s (advanceRestart s) := by
  unfold advanceRestart
  split
  · exact .refl s
  · extract_lets flushed
    have h : Steady s flushed := .of_only (flushGather_only ..)
    split
    · exact h.trans (resetDevice_steady ..)
    · exact h

theorem advanceEntry_steady (s : State) : Steady s (advanceEntry s) := by
  unfold advanceEntry
  split
  · exact advanceRestart_steady s
  · split
    · exact .refl s
    · split
      · split
        · exact .trans (.of_only (stepThree_only ..)) (stepFour_steady ..)
        · exact .refl s
      · exact stepFour_steady ..
      · exact .refl s

/-! ### Firmware -/

theorem startImage_steady (b : Bool) (s : State) : Steady s (startImage b s) := by
  unfold startImage
  extract_lets +onlyGivenNames x n body stag started version shown
  have h1 : Steady s body := .step (loadBody_only ..) (.of_only (setFwSlot_only ..))
  have h2 : Steady body started := ⟨rfl, id⟩
  have h3 : Steady started version := .step (changeRes_only ..) (.of_only (changeRes_only ..))
  have h4 : Steady version shown := .step (showFirmware_only ..) (.of_only (changeRes_only ..))
  exact .step (raise_only ..) (h1.trans (h2.trans (h3.trans h4)))

theorem enterRecovery_steady (s : State) : Steady s (enterRecovery s) := by
  unfold enterRecovery
  extract_lets +onlyGivenNames stag started version shown
  have h2 : Steady s started := ⟨rfl, id⟩
  have h3 : Steady started version := .step (changeRes_only ..) (.of_only (changeRes_only ..))
  have h4 : Steady version shown := .step (showFirmware_only ..) (.of_only (changeRes_only ..))
  exact .step (settle_only ..) (.step (raise_only ..) (h2.trans (h3.trans h4)))

theorem bootFirmware_steady (s : State) : Steady s (bootFirmware s) := by
  unfold bootFirmware
  split
  · exact startImage_steady ..
  · exact enterRecovery_steady s

theorem rebootImage_steady (cause : Nat) (s : State) : Steady s (rebootImage cause s) := by
  unfold rebootImage
  split
  · exact bootFirmware_steady s
  · extract_lets b
    split
    · exact .trans (.of_only (raise_only ..)) (startImage_steady ..)
    · exact enterRecovery_steady s
  · split
    · exact startImage_steady ..
    · exact .refl s

theorem confirmImage_steady (s : State) : Steady s (confirmImage s) := by
  unfold confirmImage
  split
  · exact .refl s
  · extract_lets +onlyGivenNames b x stag confirmed counted shown
    have h1 : Steady s confirmed := by
      refine .step (setFwSlot_only ..) ?_
      exact ⟨rfl, id⟩
    have h2 : Steady confirmed counted := .foldl (fun t _ => .of_only (incTally_only ..)) _ _
    have h3 : Steady counted shown := .step (showFirmware_only ..) (.of_only (setRes_only ..))
    exact .step (raise_only ..) (h1.trans (h2.trans h3))

/-! ### Requests -/

theorem commitNow_steady (tag : Nat) (s : State) : Steady s (commitNow tag s) := by
  unfold commitNow
  split
  rename_i patch clamped hx
  have h1 : Steady s clamped := .of_only (Only.snd (clampPatch_only ..) hx)
  extract_lets +onlyGivenNames ramp boundary dict shown
  have h2 : Steady clamped ramp := .step (planRamp_only ..) (.of_only (clearShadow_only ..))
  have h3 : Steady ramp shown := by
    refine .step (showCommits_only ..) ?_
    exact ⟨rfl, id⟩
  have h := h1.trans (h2.trans h3)
  clear_value shown
  split
  · exact h.trans (.trans (.of_only (applyAllCommits_only ..)) (rasterResume_steady _))
  · exact .step (showBuffers_only ..) h

theorem restartCommand_steady (s : State) : Steady s (restartCommand s) := by
  have h : Steady s { s with power.restarting := true } := ⟨rfl, id⟩
  exact h.trans (panelOff_steady _)

theorem writeDev_steady (r : Req) (level p v : Nat) {b s was : State} (hs : Steady b s) (hw : Steady b was) :
    AnsSteady b (writeDev r level p v s was) := by
  unfold writeDev
  split
  · exact .plain (hs.trans (commitNow_steady ..))
  split
  · exact .orElse (.before (.of_only (storeNow_only ..)) hs) hw
  split
  · exact .orElse (.before (.of_only (restoreDefaults_only ..)) hs) hw
  split
  · exact .plain (.step (discardShadow_only ..) hs)
  split
  · exact .plain (.step (setUtc_only ..) hs)
  split
  · exact .plain (.step (powerRequest_only ..) hs)
  split
  · exact ⟨hs, restartCommand_steady⟩
  · exact .orElse (.before (.of_only (lifecycleRequest_only ..)) hs) hw

theorem writeUpdate_steady (p v : Nat) {b s was : State} (hs : Steady b s) (hw : Steady b was) :
    AnsSteady b (writeUpdate p v s was) := by
  unfold writeUpdate
  extract_lets st
  split
  · split
    · exact .plain hw
    · exact .plain (.step (beginImage_only ..) hs)
  split
  · split
    · exact .plain hw
    · exact .plain (.step (setUpdate_only ..) hs)
  split
  · exact .of_only2 (writeActivate_only ..) hs hw
  · exact .plain (.step (settle_only ..) (hs.trans (confirmImage_steady _)))

theorem writeCommand_steady (r : Req) (h p v : Nat) {b s was : State} (hs : Steady b s) (hw : Steady b was) :
    AnsSteady b (writeCommand r h p v s was) := by
  unfold writeCommand
  split
  · split
    · exact .before (.of_only (writeIntegratorKey_only ..)) hw
    · exact .orElse (.before (.of_only (writeChallenge_only ..)) hs) hw
  split
  · exact writeUpdate_steady p v hs hw
  split
  · exact ⟨hs, fun t => .of_only (retrainEntry_only t)⟩
  split
  · exact .plain (.step (retrainPort_only ..) hs)
  split
  · split
    · exact .plain (.step (askSweep_only ..) hs)
    split
    · exact .plain hw
    split
    · exact .plain (.step (startSave_only ..) hs)
    · extract_lets loaded
      have h : Steady b loaded := .step (loadSmallBank_only ..) hs
      refine .plain ?_
      split
      · exact .trans (.step (applyAllCommits_only ..) h) (rasterResume_steady _)
      · exact h
  split
  · exact .plain (.step (retireChannel_only ..) hs)
  split
  · exact .plain (.step (fellTile_only ..) hs)
  · exact .of_only2 (writeReinstate_only ..) hs hw

theorem writeEntry_steady (r : Req) (level : Nat) (e : Entry) (s : State) : AnsSteady s (writeEntry r level e s) := by
  unfold writeEntry
  extract_lets h p s' v
  have hs : Steady s s' := .of_only (writeElems_only ..)
  split
  · exact .of_only (writeBlobEntry_only ..)
  split
  · split
    · exact writeDev_steady r level p v hs (.refl s)
    · exact writeCommand_steady r h p v hs (.refl s)
  · exact .of_only (writeSetting_only ..)

theorem execute_steady (r : Req) (level : Nat) (tagged : Bool) (challenge : Option (List Nat × Nat)) (s : State) :
    AnsSteady s (execute r level tagged challenge s) := by
  unfold execute
  split
  · exact .plain (.refl s)
  split
  · split
    · exact .plain (.refl s)
    · split
      · exact .plain (.of_only (readEntry_only ..))
      · rename_i e _ _
        have h := writeEntry_steady r level e s
        generalize writeEntry r level e s = x at h
        obtain ⟨a, t⟩ := x
        refine ⟨?_, h.after⟩
        dsimp only
        split
        · exact .step (noteActivity_only ..) h.now
        · exact h.now
  split
  · exact .plain (.refl s)
  split
  · exact .of_only (openRequest_only ..)
  · exact .of_only (proveRequest_only ..)
  · split
    · exact .plain (.refl s)
    · exact .plain (.of_only (endSession_only ..))
  · split
    · exact .plain (.refl s)
    · exact .plain (.refl s)

theorem finishRequest_steady (r : Req) {s : State} {x : Answer × State} (h : AnsSteady s x) : Steady s (finishRequest r x) := by
  unfold finishRequest
  obtain ⟨a, t⟩ := x
  dsimp only
  split
  · exact h.now.trans ⟨rfl, id⟩
  · refine .trans (.step (respond_only ..) ?_) (h.after _)
    split
    · exact .step (malformed_only ..) h.now
    · exact h.now

theorem accept_steady (r : Req) (s : State) : Steady s (accept r s) := by
  unfold accept
  extract_lets +onlyGivenNames p challenge tagged
  have h := Steady.step (requestLevel_only r (setPort r.port { p with last := some (r.seq, r.check), challenge := none } s))
    (.of_only (setPort_only ..))
  generalize requestLevel r _ = x at h
  obtain ⟨level, t⟩ := x
  exact h.trans (finishRequest_steady r (execute_steady ..))

theorem serveCast_steady (r : Req) (s : State) : Steady s (serveCast r s) := by
  unfold serveCast
  split
  · exact .refl s
  split
  · exact .step (noteActivity_only ..) (.trans (.of_only (setCfg_only ..)) (commitNow_steady ..))
  · exact .of_only (raise_only ..)

theorem serve_steady (r : Req) (s : State) : Steady s (serve r s) := by
  unfold serve
  split
  · exact serveCast_steady r s
  split
  · exact .of_only (respond_only ..)
  split
  · exact .step (respond_only ..) (.of_only (malformed_only ..))
  split
  · exact accept_steady r s
  split
  · exact accept_steady r s
  split
  · exact .of_only (resend_only ..)
  · extract_lets want counted
    exact .step (respond_only ..) (.step (raise_only ..) (.of_only (incSat_only ..)))

theorem inTurn_steady (r : Req) (s : State) : Steady s (inTurn r s) := by
  unfold inTurn
  split
  · exact serve_steady r s
  · exact ⟨rfl, id⟩

theorem drain_steady (s : State) : Steady s (drain s) := by
  have h : Steady s { s with ctrl.waiting := [] } := ⟨rfl, id⟩
  exact h.trans (.foldl (fun t r => inTurn_steady r t) _ _)

theorem executeAgain_steady (r : Req) (s : State) : Steady s (executeAgain r s) := by
  unfold executeAgain
  refine .trans ?_ (finishRequest_steady r (execute_steady ..))
  exact ⟨rfl, id⟩

theorem resumeRequest_steady (s : State) : Steady s (resumeRequest s) := by
  unfold resumeRequest
  split
  · refine .step (answerBusy_only ..) ?_
    exact ⟨rfl, id⟩
  · exact .refl s
  · exact executeAgain_steady ..
  · exact .refl s

/-! ### A restart begins and ends -/

/-- A restart for a lockstep mismatch or a watchdog expiry. -/
theorem restartStag_stag {cause : Nat} (hc : cause ≤ 1) {s : State} (h : stagRuns s = true) :
    (restartStag cause s).stag.restarting
        = some (if s.stag.trial = true ∧ 3 ≤ (fwSlot s (s.stag.slot == 2)).attempts then 3 else cause, s.now)
      ∧ (restartStag cause s).stag.running = s.stag.running := by
  unfold restartStag
  rw [if_neg (by simp [h])]
  extract_lets +onlyGivenNames x why stag begun counted
  have hw : why = if s.stag.trial = true ∧ 3 ≤ (fwSlot s (s.stag.slot == 2)).attempts then 3 else cause := by
    simp only [why, hc, true_and, x]
  have h1 : begun.stag.restarting = some (why, s.now) ∧ begun.stag.running = s.stag.running :=
    ⟨incSat_stag_restarting .., incSat_stag_running ..⟩
  have h2 : counted.stag.restarting = begun.stag.restarting ∧ counted.stag.running = begun.stag.running := by
    subst counted
    split
    · exact ⟨incSat_stag_restarting .., incSat_stag_running ..⟩
    · exact ⟨incSat_stag_restarting .., incSat_stag_running ..⟩
    · exact ⟨rfl, rfl⟩
  rw [← hw, ← h1.1, ← h1.2, ← h2.1, ← h2.2]
  clear_value counted
  split
  · exact ⟨settle_stag_restarting .., settle_stag_running ..⟩
  · exact ⟨rfl, rfl⟩

/-- The end of a restart: Stag does not restart, and the time lies within the restart's limit. -/
theorem stagRestarted_ends {s : State} {cause since : Nat} (h : s.stag.restarting = some (cause, since)) :
    (stagRestarted s).stag.restarting = none ∧ s.now ≤ (stagRestarted s).now
      ∧ (stagRestarted s).now ≤ max s.now (since + restartLimit cause * tickMs) := by
  unfold stagRestarted
  rw [h]
  dsimp -zeta only
  generalize (draw s).1 = d
  extract_lets +onlyGivenNames timed ms lost stag ended told
  have h1 : timed.now = max s.now (since + d % (restartLimit cause * tickMs + 1)) := rfl
  have h2 : ended.stag.restarting = none := (setRes_only ..).stag_restarting rfl
  have h3 : ended.now = timed.now := (setRes_only ..).same .now rfl
  have h4 : Steady ended (settle (rebootImage cause told)) :=
    .step (settle_only ..) (.trans (.step (flushEvents_only ..) (.of_only (raise_only ..))) (rebootImage_steady ..))
  have hd : d % (restartLimit cause * tickMs + 1) ≤ restartLimit cause * tickMs := Nat.le_of_lt_succ (Nat.mod_lt _ (Nat.succ_pos _))
  rw [h4.now, h3, h1]
  exact ⟨h4.runs h2, by omega, by omega⟩

/-- Settles O41: both causes restart Stag through `restartStag`; of what follows the end of a restart nothing moves the time or restarts
Stag again (`Steady`). -/
theorem stagRestarts : Obligations.StagRestarts := by
  unfold Obligations.StagRestarts
  intro s on why
  have runs (h : stagRuns s = true) : s.stag.running = true := by simp [stagRuns] at h; exact h.1
  refine ⟨fun h => ?_, fun h => ?_, fun c since h _ _ _ => ?_⟩
  · obtain ⟨cause, running⟩ := restartStag_stag (cause := 0) (by decide) h
    exact ⟨restartStag 0 s, by simp only [exec, execLockstepMismatch, on, if_true], cause, running.trans (runs h)⟩
  · obtain ⟨cause, running⟩ := restartStag_stag (cause := 1) (by decide) h
    exact ⟨restartStag 1 s, by simp only [exec, execWatchdogExpiry, on, if_true], cause, running.trans (runs h)⟩
  · obtain ⟨ended, later, inTime⟩ := stagRestarted_ends h
    have after : Steady (stagRestarted s) (advanceEntry (drain (resumeRequest (stagRestarted s)))) :=
      (resumeRequest_steady _).trans ((drain_steady _).trans (advanceEntry_steady _))
    refine ⟨_, ?_, after.runs ended, after.now ▸ later, after.now ▸ inTime⟩
    simp only [exec, execStagRestartComplete, on, h, Option.isSome_some, Bool.and_self, if_true]

end Sys2Proof.Machine
end

section
/-! SUPPORT. The configuration in its map (02, R45): keys rise, each cell with a default of its own, so a cell reads back what was written
into it whatever the other cells' defaults are. -/

set_option Elab.async false

namespace Sys2Proof.Machine

variable {α : Type} [DecidableEq α]

omit [DecidableEq α] in
theorem mget_below_rising (d : α) {lo k : Nat} (hk : k < lo) (m : NMap α) (hm : mrising lo m = true) : mget d m k = d := by
  cases m with
  | nil => rfl
  | cons e m =>
    obtain ⟨a, b⟩ := e
    simp only [mrising, Bool.and_eq_true, decide_eq_true_eq] at hm
    exact mget_head_lt d m k a b (by omega)

theorem mget_mput_rising_self (d : α) (m : NMap α) (k : Nat) (v : α) (h : mrising 0 m = true) : mget d (mput d m k v) k = v := by
  suffices H : ∀ lo, mrising lo m = true → mget d (mput d m k v) k = v from H 0 h
  clear h
  induction m with
  | nil => intro lo _; by_cases hv : v = d <;> simp [mput, mget, hv]
  | cons e m ih =>
    obtain ⟨k', v'⟩ := e
    intro lo hw
    simp only [mrising, Bool.and_eq_true] at hw
    simp only [mput]
    split
    case isTrue same =>
      subst same
      split
      case isTrue dropped => rw [dropped]; exact mget_below_rising d (Nat.lt_succ_self k) m hw.2
      case isFalse => simp [mget]
    case isFalse =>
      split
      case isTrue =>
        split
        case isTrue dropped => simp [mget, *]
        case isFalse => simp [mget]
      case isFalse => simp [mget, ih _ hw.2, *]

/-- The default of the cell written and that of the cell read may differ. -/
theorem mget_mput_rising_other (d d' : α) (m : NMap α) {k j : Nat} (v : α) (hj : j ≠ k) (h : mrising 0 m = true) :
    mget d' (mput d m k v) j = mget d' m j := by
  suffices H : ∀ lo, mrising lo m = true → mget d' (mput d m k v) j = mget d' m j from H 0 h
  clear h
  induction m with
  | nil =>
    intro lo _
    by_cases hv : v = d
    · simp [mput, hv]
    · by_cases hl : j < k <;> simp [mput, mget, hv, hj, hl]
  | cons e m ih =>
    obtain ⟨k', v'⟩ := e
    intro lo hw
    simp only [mrising, Bool.and_eq_true] at hw
    simp only [mput]
    split
    case isTrue same =>
      subst same
      by_cases hl : j < k
      · rw [mget_head_lt d' m j k v' hl]
        split
        · exact mget_below_rising d' (Nat.lt_succ_of_lt hl) m hw.2
        · exact mget_head_lt d' m j k v hl
      · split <;> simp [mget, hj, hl]
    case isFalse =>
      split
      case isTrue _ before =>
        split
        · rfl
        · by_cases hl : j < k
          · rw [mget_head_lt d' _ j k v hl, mget_head_lt d' m j k' v' (by omega)]
          · simp [mget, hj, hl]
      case isFalse => simp [mget, ih _ hw.2]

/-! ### The configuration -/

theorem cfgI_setCfg_self (h p i : Nat) (v : Int) (s : State) (c : s.Canonical) : cfgI (setCfg h p i v s) h p i = v :=
  mget_mput_rising_self _ _ _ _ c.config

theorem cfgI_setCfg_other {h p i h' p' i' : Nat} (v : Int) (s : State) (c : s.Canonical) (hne : cell h' p' i' ≠ cell h p i) :
    cfgI (setCfg h p i v s) h' p' i' = cfgI s h' p' i' :=
  mget_mput_rising_other _ _ _ _ hne c.config

end Sys2Proof.Machine
end

section
/-! SUPPORT. What a READ or WRITE that is accepted does (02, R32, R42, R43): the entry it names, and the response that answers it. -/

set_option Elab.async false

namespace Sys2Proof.Machine

/-! ### The entries of the dictionary -/

theorem entriesOf_bounds (c : Nat) : (entriesOf c).all (fun e => decide (e.param < 4096) && decide (e.count < 65536)) = true := by
  unfold entriesOf
  split <;> rfl

/-- An entry stands at its own parameter, which has 12 bits, and its elements are fewer than 65536. -/
theorem entryOf_bounds {u p : Nat} {e : Entry} (h : entryOf u p = some e) : e.param = p ∧ p < 4096 ∧ e.count < 65536 := by
  have hp := List.find?_some h
  have hb := List.all_eq_true.1 (entriesOf_bounds (classOf u)) e (List.mem_of_find?_eq_some h)
  simp only [Bool.and_eq_true, beq_iff_eq, decide_eq_true_eq] at hp hb
  omega

theorem entryAny_of_entryOf {s : State} {u p : Nat} {e : Entry} (h : entryOf u p = some e) (hp : 0x040 ≤ p) (hb : isBlob e = false) :
    entryAny s u p = some e := by
  unfold entryAny
  rw [if_neg (by omega), h]
  simp [hb]

/-! ### What keeps the ports' seals -/

/-- Every port keeps its key and the response it retains. -/
structure SealsKept (s t : State) : Prop where
  key      : ∀ i, (port t i).key = (port s i).key
  retained : ∀ i, (port t i).retained = (port s i).retained

theorem SealsKept.refl (s : State) : SealsKept s s := ⟨fun _ => rfl, fun _ => rfl⟩
theorem SealsKept.trans {s t u : State} (a : SealsKept s t) (b : SealsKept t u) : SealsKept s u :=
  ⟨fun i => (b.key i).trans (a.key i), fun i => (b.retained i).trans (a.retained i)⟩
theorem SealsKept.of_only {ps : List Part} {s t : State} (h : Only ps s t) (hp : ps.contains .ports = false := by decide) :
    SealsKept s t := ⟨fun i => by rw [port_of_only h hp], fun i => by rw [port_of_only h hp]⟩
theorem port_setPort_eq (i j : PortId) (p : PortSt) (s : State) : port (setPort i p s) j = if j = i then p else port s j := by
  cases i <;> cases j <;> rfl
theorem SealsKept.setPort (i : PortId) {p : PortSt} {s : State} (hk : p.key = (port s i).key) (hr : p.retained = (port s i).retained) :
    SealsKept s (Machine.setPort i p s) := by
  refine ⟨fun j => ?_, fun j => ?_⟩ <;> rw [port_setPort_eq] <;> split
  case refine_1.isTrue h => rw [h, hk]
  case refine_2.isTrue h => rw [h, hr]
  all_goals rfl

theorem pushOut_seals (i : PortId) (f : OutFrame) (s : State) : SealsKept s (pushOut i f s) := .setPort i rfl rfl

theorem auxSegment_seals {s : State} {x : AuxReq × State} (h : auxSegment s = some x) : SealsKept s x.2 := by
  unfold auxSegment at h
  extract_lets cut at h
  have sent (t : State) (v : Option (List Nat × Nat)) : SealsKept t { t with aux.sending := v } := ⟨fun _ => rfl, fun _ => rfl⟩
  split at h
  · cases h
    exact sent s _
  · split at h
    · cases h
    · cases h
      refine .trans (.trans ?_ (.of_only (incWrap_only ..))) (sent _ _)
      exact .setPort .sideband rfl rfl

theorem auxNext_seals {s : State} {x : AuxReq × State} (h : auxNext s = some x) : SealsKept s x.2 := by
  unfold auxNext at h
  have take (c : Nat) (h : auxTake c s = some x) : SealsKept s x.2 := .of_only (auxTake_only c s x h)
  simp only [Option.or_eq_some_iff] at h
  rcases h with h | ⟨-, h | ⟨-, h⟩⟩
  · exact take 0 h
  · exact take 4 h
  · split at h
    · cases h
    · simp only [Option.or_eq_some_iff] at h
      rcases h with h | ⟨-, h | ⟨-, h⟩⟩
      · exact take 2 h
      · exact take 1 h
      · exact auxSegment_seals h

theorem auxPump_seals (s : State) : SealsKept s (auxPump s) := by
  unfold auxPump
  split
  · exact .refl s
  · split
    · exact .refl s
    · rename_i r t h
      refine .trans (auxNext_seals h) (.trans ?_ (.of_only (incWrap_only ..)))
      exact ⟨fun _ => rfl, fun _ => rfl⟩

theorem auxPush_seals (channel : Nat) (payload : List Nat) (s : State) : SealsKept s (auxPush channel payload s) := by
  unfold auxPush
  refine .trans ?_ (auxPump_seals _)
  exact ⟨fun _ => rfl, fun _ => rfl⟩

theorem sendCredit_seals (s : State) : SealsKept s (sendCredit s) := by
  unfold sendCredit
  extract_lets +onlyGivenNames shown aux filtered
  have kept : SealsKept shown filtered := ⟨fun _ => rfl, fun _ => rfl⟩
  exact .trans (t := shown) (.of_only (showRegionLimit_only ..)) (kept.trans (auxPush_seals ..))

theorem announceCredits_seals (i : PortId) (s : State) : SealsKept s (announceCredits i s) := by
  unfold announceCredits
  extract_lets shown
  have h : SealsKept s shown := .of_only (showCredits_only ..)
  split
  · exact h
  · exact h.trans ⟨fun _ => rfl, fun _ => rfl⟩
  · exact h.trans (sendCredit_seals shown)

/-! ### The response -/

theorem sealFrame_frame (p : PortSt) (op seq handle pf elem status : Nat) (payload : List Nat) :
    (sealFrame p op seq handle pf elem status payload).1
      = (sealFrame { key := p.key, rspCount := p.rspCount } op seq handle pf elem status payload).1 := by
  unfold sealFrame
  cases p.key <;> rfl

/-- The response that the port retains is the answer, sealed with the port's key. -/
theorem respond_answered (r : Req) (status : Nat) (payload : List Nat) (s : State) :
    (respond r status payload true s).answeredBy (port s r.port).key r status payload := by
  refine ⟨(port s r.port).rspCount, ?_⟩
  unfold respond
  rw [(announceCredits_seals ..).retained, (pushOut_seals ..).retained, port_setPort]
  exact sealFrame_frame ..

/-! ### A request that is accepted -/

/-- What a check that lets a request pass has found. -/
theorem checkRequest_ok {s : State} {level : Nat} {r : Req} {e : Entry} (h : checkRequest s level r = .ok e) :
    entryAny s r.handle (r.param % 4096) = some e ∧ (0 < e.count → ∀ i, r.elem = some i → i < e.count)
      ∧ (if r.op = 2 then writeForm r.handle e r.elem r.payload else readForm e r.elem r.payload) = false := by
  unfold checkRequest at h
  extract_lets u p wr at h
  split at h
  · cases h
  · split at h
    · cases h
    · rename_i e' he
      split at h
      · cases h
      · rename_i element
        by_cases form : (if wr = true then writeForm u e' r.elem r.payload else readForm e' r.elem r.payload) = true
        · rw [if_pos form] at h; cases h
        · rw [if_neg form] at h
          obtain rfl : e' = e := by
            repeat' split at h
            all_goals (cases h <;> rfl)
          refine ⟨he, fun pos i hi => ?_, ?_⟩
          · simp only [pos, hi, Option.any_some, decide_true, Bool.true_and, decide_eq_true_eq, Nat.not_le] at element
            exact element
          · simpa only [wr, decide_eq_true_eq, Bool.not_eq_true] using form

/-- What a request that is accepted has met, and the entry it names. -/
theorem accepts_entry {s : State} {r : Req} (h : s.accepts r = true) :
    s.serves r = true ∧ ∃ e, checkRequest (begun r s) (port s r.port).level r = .ok e := by
  unfold State.accepts at h
  rw [Bool.and_eq_true] at h
  refine ⟨h.1, ?_⟩
  cases hc : checkRequest (begun r s) (port s r.port).level r with
  | ok e => exact ⟨e, rfl⟩
  | error st => simp [hc] at h

/-- The session of a request that is executed is not tagged in error, and only PROVE needs a challenge. -/
theorem execute_checked {s : State} {r : Req} {level : Nat} {challenge : Option (List Nat × Nat)} {e : Entry}
    (hop : r.op = 1 ∨ r.op = 2) (h : checkRequest s level r = .ok e) :
    execute r level false challenge s
      = if r.op = 1 then
          (⟨stOK, (readEntry r.handle e r.elem r.payload s).1, none, id⟩, (readEntry r.handle e r.elem r.payload s).2)
        else match writeEntry r level e s with
          | (a, t) => (a, if a.status = stOK then noteActivity t else t) := by
  unfold execute
  rw [if_neg (by simp; omega), if_pos hop, h]

theorem arrive_read {s : State} {r : Req} (hop : r.op = 1) {e : Entry} (hs : s.serves r = true)
    (h : checkRequest (begun r s) (port s r.port).level r = .ok e) :
    arrive r s = respond r stOK (readEntry r.handle e r.elem r.payload (begun r s)).1 true
      (readEntry r.handle e r.elem r.payload (begun r s)).2 := by
  rw [arrive_served r s hs, execute_checked (.inl hop) h, if_pos hop]
  rfl

/-- A WRITE that is carried out at once is answered OK, and what its answer holds back follows. -/
theorem arrive_write {s : State} {r : Req} (hop : r.op = 2) {e : Entry} (hs : s.serves r = true)
    (h : checkRequest (begun r s) (port s r.port).level r = .ok e) {t : State}
    (hw : writeEntry r (port s r.port).level e (begun r s) = ok t) :
    arrive r s = respond r stOK [] true (noteActivity t) := by
  rw [arrive_served r s hs, execute_checked (.inr hop) h, if_neg (by omega), hw]
  rfl

theorem begun_key (r : Req) (s : State) : (port (begun r s) r.port).key = (port s r.port).key := by rw [port_begun]

theorem arrive_read_answered {s : State} {r : Req} (hop : r.op = 1) {e : Entry} (hs : s.serves r = true)
    (h : checkRequest (begun r s) (port s r.port).level r = .ok e)
    (kept : port (readEntry r.handle e r.elem r.payload (begun r s)).2 r.port = port (begun r s) r.port) :
    (arrive r s).answered (port s r.port).key r (readEntry r.handle e r.elem r.payload (begun r s)).1 := by
  rw [arrive_read hop hs h, ← begun_key, ← kept]
  exact respond_answered ..

theorem arrive_write_answered {s : State} {r : Req} (hop : r.op = 2) {e : Entry} (hs : s.serves r = true)
    (h : checkRequest (begun r s) (port s r.port).level r = .ok e) {t : State}
    (hw : writeEntry r (port s r.port).level e (begun r s) = ok t) (kept : (port t r.port).key = (port (begun r s) r.port).key) :
    (arrive r s).answered (port s r.port).key r := by
  rw [arrive_write hop hs h hw, ← begun_key, ← kept]
  exact respond_answered r stOK [] (noteActivity t)

end Sys2Proof.Machine
end

section
/-! SUPPORT. READ and WRITE of the dictionary (02, R32, R42, R43, R45, R47): what an entry reads as, and where a write puts its elements. -/

set_option Elab.async false

namespace Sys2Proof.Machine

/-! ### What a request's arrival leaves alone -/

/-- Only the results of the control ports' units may change, and their generations. -/
structure PortsTold (s t : State) : Prop where
  canon : s.Canonical → t.Canonical
  same  : s.Canonical → ∀ h p i, classOf h ≠ 39 → p < 4096 → i < 4294967296 → resI t h p i = resI s h p i
  gens  : s.Canonical → ∀ h p, classOf h ≠ 39 → p < 4096 → mget 0 t.dict.gens (keyOf h p) = mget 0 s.dict.gens (keyOf h p)

theorem PortsTold.trans {s t u : State} (a : PortsTold s t) (b : PortsTold t u) : PortsTold s u :=
  ⟨fun c => b.canon (a.canon c),
    fun c h p i hh hp hi => (b.same (a.canon c) h p i hh hp hi).trans (a.same c h p i hh hp hi),
    fun c h p hh hp => (b.gens (a.canon c) h p hh hp).trans (a.gens c h p hh hp)⟩
theorem PortsTold.of_only {ps : List Part} {s t : State} (h : Only ps s t) (hp : ps.contains .results = false := by decide) :
    PortsTold s t :=
  ⟨h.kept.canon, fun _ _ _ _ _ _ _ => by unfold resI; rw [h.dict_res hp], fun _ _ _ _ _ => by rw [h.dict_gens hp]⟩

theorem classOf_portUnit (i : PortId) : classOf (portUnit i) = 39 := by cases i <;> decide

theorem PortsTold.setRes (i : PortId) {p : Nat} (v : Nat) (s : State) (hp : p < 4096) : PortsTold s (setRes (portUnit i) p v s) := by
  have unit {h : Nat} (hh : classOf h ≠ 39) : portUnit i ≠ h := fun e => hh (e ▸ classOf_portUnit i)
  refine ⟨(setRes_only ..).kept.canon, fun c h q j hh hq hj => ?_, fun c h q hh hq => ?_⟩
  · exact resI_setResAt_other _ s c (cell_ne_of_unit (unit hh) hp (by decide) hq hj)
  · refine mget_mput_other 0 s.dict.gens _ _ _ ?_ c.gens
    have := unit hh
    unfold keyOf
    omega
theorem PortsTold.changeRes (i : PortId) {p : Nat} (v : Nat) (s : State) (hp : p < 4096) :
    PortsTold s (changeRes (portUnit i) p v s) := by
  unfold Machine.changeRes
  split
  · exact .of_only (ps := []) (Only.refl s)
  · exact .setRes i v s hp
theorem PortsTold.incWrap (i : PortId) {p : Nat} (n : Nat) (s : State) (hp : p < 4096) :
    PortsTold s (incWrap (portUnit i) p n s) := by
  unfold Machine.incWrap
  split
  · exact .of_only (ps := []) (Only.refl s)
  · exact .setRes i _ s hp

theorem begun_told (r : Req) (s : State) : PortsTold s (begun r s) := by
  have heard : PortsTold s (frameHeard r.port s) := .trans (.of_only (setPort_only ..)) (.incWrap _ _ _ (by decide))
  have taken : PortsTold (frameHeard r.port s) (credited r.port s) := .trans (.of_only (setPort_only ..)) (.changeRes _ _ _ (by decide))
  exact (heard.trans taken).trans (.of_only (setPort_only ..))

theorem gradeX_of_only {ps : List Part} {s t : State} (h : Only ps s t) (h2 : ps.contains .storeState = false := by decide)
    (h3 : ps.contains .store = false := by decide) : gradeX t = gradeX s := by
  have e2 : t.pstore.identityOk = s.pstore.identityOk := h.pstore_identityOk h2
  have e3 : t.pstore.mem = s.pstore.mem := h.same .store h3
  unfold gradeX
  rw [e2, e3]

theorem view_of_only {ps : List Part} {s t : State} (h : Only ps s t) (h1 : ps.contains .config = false := by decide)
    (h2 : ps.contains .storeState = false := by decide) (h3 : ps.contains .store = false := by decide)
    (h4 : ps.contains .shadow = false := by decide) (u p i : Nat) : view t u p i = view s u p i := by
  unfold view waitingView
  rw [h.dict_patch h4, h.dict_commits h4, h.dict_held h4, cfgI_of_only h h1 h2 h3]

/-! ### READ -/

theorem readEntry_value {u : Nat} {e : Entry} (hb : isBlob e = false) (hs : isStr e = false) (el : Option Nat) (payload : List Nat)
    (s : State) : readEntry u e el payload s
      = ((if 0x400 ≤ e.param ∧ e.param < 0x800 then u16 (mget 0 (freshen u s).dict.gens (keyOf u e.param)) else [])
          ++ valueBytes e el (elementValue (freshen u s) u e), freshen u s) := by
  unfold readEntry valueBytes
  simp only [hb, hs, Bool.or_self, Bool.false_eq_true, if_false]
  cases el <;> rfl

/-- An element of a configuration entry reads its view. -/
theorem elementValue_config {u : Nat} {e : Entry} (h1 : 0x040 ≤ e.param) (h2 : e.param < 0x400) (hs : u ≠ hSEC) (hc : classOf u ≠ 39)
    (s : State) (i : Nat) : elementValue s u e i = view s u e.param i := by
  have host : u ≠ hHOSTPORT := fun h => hc (h ▸ by decide)
  unfold elementValue
  simp only [hs, hc, host, false_and, if_false]
  rw [if_neg (by omega), if_neg (by omega)]

theorem elementValue_result {u : Nat} {e : Entry} (h1 : 0x400 ≤ e.param) (h2 : e.param < 0x800) (s : State) (i : Nat) :
    elementValue s u e i = resI s u e.param i := by
  unfold elementValue
  simp only
  rw [if_neg (by omega), if_pos ⟨h1, h2⟩]

/-- The units whose results a READ brings up to date first. -/
theorem freshen_other {u : Nat} (h1 : u ≠ hDEV) (h2 : u ≠ hPWR) (h3 : u ≠ hROWDRV) (h4 : u ≠ hROWSET 0) (h5 : u ≠ hROWSET 1)
    (h6 : classOf u ≠ 35) (s : State) : freshen u s = s := by
  unfold freshen
  rw [if_neg (by simp [h1, h2]), if_neg h3, if_neg h6, if_neg (by simp [h4, h5])]

/-- A READ of an entry of values is answered with them, behind the generation of a result. -/
theorem read_answered {s : State} {h : Hdr} {u p : Nat} {el : Option Nat} {e : Entry} (ha : s.accepts (mkReq h 1 u p el []) = true)
    (he : entryOf u p = some e) (hp : 0x040 ≤ p) (hb : isBlob e = false) (hs : isStr e = false) :
    ∃ t, exec (.read h u p el []) s = .next t ∧ t.answered (port s h.port).key (mkReq h 1 u p el [])
      (readEntry u e el [] (begun (mkReq h 1 u p el []) s)).1 ∧ ∀ i, el = some i → i < e.count := by
  obtain ⟨serves, e', hc⟩ := accepts_entry ha
  obtain ⟨same, below, form⟩ := checkRequest_ok hc
  obtain ⟨param, small, -⟩ := entryOf_bounds he
  have hm : (mkReq h 1 u p el []).param % 4096 = p := by
    show p % 4096 % 4096 = p
    omega
  rw [hm] at same
  obtain rfl : e' = e := Option.some.inj (same.symm.trans (entryAny_of_entryOf he hp hb))
  refine ⟨_, rfl, arrive_read_answered rfl serves hc ?_, fun i hi => ?_⟩
  · rw [readEntry_value hb hs]
    exact port_of_only (freshen_only ..) rfl _
  · refine below (Nat.pos_of_ne_zero fun none => ?_) i hi
    have form : readForm e' el [] = false := form
    simp [readForm, hi, none] at form

theorem read_config {s : State} {h : Hdr} {u p : Nat} {el : Option Nat} {e : Entry} (ha : s.accepts (mkReq h 1 u p el []) = true)
    (he : entryOf u p = some e) (hb : isBlob e = false) (hs : isStr e = false) (hc : classOf u ≠ 39) (h1 : 0x040 ≤ p) (h2 : p < 0x400)
    (hsec : u ≠ hSEC) : ∃ t, exec (.read h u p el []) s = .next t
      ∧ t.answered (port s h.port).key (mkReq h 1 u p el []) (valueBytes e el fun i => view s u p i) := by
  obtain ⟨t, step, answer, -⟩ := read_answered ha he h1 hb hs
  obtain ⟨rfl, -, -⟩ := entryOf_bounds he
  refine ⟨t, step, ?_⟩
  rw [readEntry_value hb hs, if_neg (by omega)] at answer
  have views : elementValue (freshen u (begun (mkReq h 1 u e.param el []) s)) u e = fun i => view s u e.param i := by
    funext i
    rw [elementValue_config h1 h2 hsec hc, view_of_only (freshen_only ..), view_of_only (begun_only ..)]
  rwa [views] at answer

theorem valueBytes_congr {e : Entry} {el : Option Nat} {f g : Nat → Int} (hel : ∀ i, el = some i → f i = g i)
    (hall : ∀ i, i < elems e → f i = g i) : valueBytes e el f = valueBytes e el g := by
  unfold valueBytes
  cases el with
  | some i => simp only [hel i rfl]
  | none =>
    rw [List.flatMap_def, List.flatMap_def]
    have bytes : ∀ i ∈ List.range (elems e), encodeValue e.ty (f i) = encodeValue e.ty (g i) := fun i hi => by
      rw [hall i (List.mem_range.1 hi)]
    rw [List.map_congr_left bytes]

theorem read_result {s : State} (c : s.Canonical) {h : Hdr} {u p : Nat} {el : Option Nat} {e : Entry}
    (ha : s.accepts (mkReq h 1 u p el []) = true) (he : entryOf u p = some e) (hb : isBlob e = false) (hs : isStr e = false)
    (hc : classOf u ≠ 39) (h1 : 0x400 ≤ p) (h2 : p < 0x800) (fresh : ∀ t, freshen u t = t) :
    ∃ t, exec (.read h u p el []) s = .next t
      ∧ t.answered (port s h.port).key (mkReq h 1 u p el [])
        (u16 (mget 0 s.dict.gens (keyOf u p)) ++ valueBytes e el fun i => resI s u p i) := by
  obtain ⟨t, step, answer, below⟩ := read_answered ha he (by omega) hb hs
  obtain ⟨rfl, small, few⟩ := entryOf_bounds he
  have told := begun_told (mkReq h 1 u e.param el []) s
  refine ⟨t, step, ?_⟩
  rw [readEntry_value hb hs, fresh, if_pos ⟨h1, h2⟩, told.gens c u e.param hc small] at answer
  have value (i : Nat) (hi : i < 65536) :
      elementValue (begun (mkReq h 1 u e.param el []) s) u e i = resI s u e.param i := by
    rw [elementValue_result h1 h2, told.same c u e.param i hc small (by omega)]
  have values : valueBytes e el (elementValue (begun (mkReq h 1 u e.param el []) s) u e) = valueBytes e el fun i => resI s u e.param i := by
    refine valueBytes_congr (fun i hi => value i ?_) fun i hi => value i ?_
    · have := below i hi
      omega
    · unfold elems at hi
      omega
  rwa [values] at answer

/-! ### The log ring -/

theorem leNat_toLE_small {n v : Nat} (h : v < 256 ^ n) : leNat (toLE n v) = v := by
  induction n generalizing v with
  | zero => simp at h; subst h; rfl
  | succ n ih =>
    rw [Nat.pow_succ'] at h
    simp only [toLE, leNat, ih (Nat.div_lt_of_lt_mul h)]
    omega

/-- The log ring, as the dictionary has it (Table 2.1). -/
def logRing : Entry := en 0x402 (.blob 131072) 0 0 4 0 .any .none false false none

theorem entryAny_logRing (s : State) : entryAny s hLOG Par.LOG_RING = some logRing := rfl

theorem readEntry_logRing {off n : Nat} (ho : off < 2 ^ 32) (hn : n < 2 ^ 32) (s : State) :
    readEntry hLOG logRing none (u32 off ++ u32 n) s
      = (u16 (mget 0 s.dict.gens (keyOf hLOG Par.LOG_RING)) ++ loadBytes 0#8 s.pstore.mirror off (min n (131072 - off)), s) := by
  have first : leNat ((u32 off ++ u32 n).take 4) = off := leNat_toLE_small (n := 4) ho
  have second : leNat ((u32 off ++ u32 n).drop 4) = n := leNat_toLE_small (n := 4) hn
  have old : freshen hLOG s = s := freshen_other (by decide) (by decide) (by decide) (by decide) (by decide) (by decide) s
  unfold readEntry
  rw [old, first, second]
  rfl

theorem read_logRing {s : State} {h : Hdr} {off n : Nat} (ho : off < 2 ^ 32) (hn : n < 2 ^ 32)
    (ha : s.accepts (mkReq h 1 hLOG Par.LOG_RING none (u32 off ++ u32 n)) = true) (c : s.Canonical) :
    ∃ t, exec (.read h hLOG Par.LOG_RING none (u32 off ++ u32 n)) s = .next t
      ∧ t.answered (port s h.port).key (mkReq h 1 hLOG Par.LOG_RING none (u32 off ++ u32 n))
        (u16 (mget 0 s.dict.gens (keyOf hLOG Par.LOG_RING)) ++ loadBytes 0#8 s.pstore.mirror off (min n (131072 - off))) := by
  obtain ⟨serves, e, hc⟩ := accepts_entry ha
  obtain ⟨named, -, -⟩ := checkRequest_ok hc
  obtain rfl : logRing = e := Option.some.inj ((entryAny_logRing _).symm.trans named)
  have read := readEntry_logRing ho hn (begun (mkReq h 1 hLOG Par.LOG_RING none (u32 off ++ u32 n)) s)
  have answer := arrive_read_answered rfl serves hc (congrArg (fun x => port x.2 h.port) read)
  rw [(begun_told _ s).gens c hLOG Par.LOG_RING (by decide) (by decide), (begun_only _ s).pstore_mirror rfl] at read
  refine ⟨_, rfl, ?_⟩
  have bytes := congrArg Prod.fst read
  dsimp only at bytes
  rw [← bytes]
  exact answer

/-! ### WRITE: the elements written -/

/-- What an element holds where its apply class puts it: in the open set, aside for the restart, or in force. -/
def stored (a : Apply) (s : State) (h p i : Nat) : Option Int :=
  match a with
  | .vb => mget none s.dict.patch (cell h p i)
  | .rst => mget none s.dict.held (cell h p i)
  | _ => some (cfgI s h p i)

theorem stored_of_only {ps : List Part} {s t : State} (o : Only ps s t) (h1 : ps.contains .config = false := by decide)
    (h2 : ps.contains .storeState = false := by decide) (h3 : ps.contains .store = false := by decide)
    (h4 : ps.contains .shadow = false := by decide) (a : Apply) (h p i : Nat) : stored a t h p i = stored a s h p i := by
  unfold stored
  rw [o.dict_patch h4, o.dict_held h4, cfgI_of_only o h1 h2 h3]

theorem stored_putValue_self (a : Apply) (h p i : Nat) (v : Int) (s : State) (c : s.Canonical) :
    stored a (putValue a h p i v s) h p i = some v := by
  cases a
  case vb => exact mget_mput_self _ _ _ _ c.patch
  case rst => exact mget_mput_self _ _ _ _ c.held
  all_goals exact congrArg some (cfgI_setCfg_self h p i v s c)

theorem stored_putValue_other (a : Apply) {h p i j : Nat} (v : Int) (s : State) (c : s.Canonical) (hj : j ≠ i) :
    stored a (putValue a h p i v s) h p j = stored a s h p j := by
  have hne : cell h p j ≠ cell h p i := fun e => hj (Nat.add_left_cancel e)
  cases a
  case vb => exact mget_mput_other _ _ _ _ _ hne c.patch
  case rst => exact mget_mput_other _ _ _ _ _ hne c.held
  all_goals exact congrArg some (cfgI_setCfg_other v s c hne)

theorem putValue_canon (a : Apply) (h p i : Nat) (v : Int) {s : State} (c : s.Canonical) : (putValue a h p i v s).Canonical :=
  (putValue_only ..).kept.canon c

/-- The value that a write of an element puts. -/
def clamped (e : Entry) (s : State) (h i : Nat) (v : Int) : Int := (clampValue e.ty e.rng (dflt (gradeX s) h e.param i) v).1

theorem clamped_of_only {ps : List Part} {s t : State} (o : Only ps s t) (h2 : ps.contains .storeState = false := by decide)
    (h3 : ps.contains .store = false := by decide) (e : Entry) (h i : Nat) (v : Int) : clamped e t h i v = clamped e s h i v := by
  unfold clamped
  rw [gradeX_of_only o h2 h3]

theorem stored_writeElem_self (e : Entry) (h i : Nat) (v : Int) (s : State) (c : s.Canonical) :
    stored e.apply (writeElem e h i v s) h e.param i = some (clamped e s h i v) := by
  unfold writeElem
  rw [stored_of_only (noteClamp_only ..)]
  exact stored_putValue_self _ _ _ _ _ _ c

theorem stored_writeElem_other (e : Entry) {h i j : Nat} (v : Int) (s : State) (c : s.Canonical) (hj : j ≠ i) :
    stored e.apply (writeElem e h i v s) h e.param j = stored e.apply s h e.param j := by
  unfold writeElem
  rw [stored_of_only (noteClamp_only ..)]
  exact stored_putValue_other _ _ _ c hj

theorem stored_writeElems_below (e : Entry) (h : Nat) (vs : List Int) {i j : Nat} (hj : j < i) (s : State) (c : s.Canonical) :
    stored e.apply (writeElems e h i vs s) h e.param j = stored e.apply s h e.param j := by
  induction vs generalizing i s with
  | nil => rfl
  | cons v vs ih =>
    simp only [writeElems]
    rw [ih (by omega) _ ((writeElem_only ..).kept.canon c), stored_writeElem_other e v s c (by omega)]

/-- Each of a run of elements holds its value, clamped. -/
theorem stored_writeElems (e : Entry) (h : Nat) (vs : List Int) (i : Nat) (s : State) (c : s.Canonical) {j : Nat} {v : Int}
    (hv : vs[j]? = some v) : stored e.apply (writeElems e h i vs s) h e.param (i + j) = some (clamped e s h (i + j) v) := by
  induction vs generalizing i j s with
  | nil => simp at hv
  | cons w vs ih =>
    simp only [writeElems]
    have c' := (writeElem_only e h i w s).kept.canon c
    cases j with
    | zero =>
      obtain rfl : w = v := by simpa using hv
      exact (stored_writeElems_below e h vs (Nat.lt_add_one i) _ c').trans (stored_writeElem_self e h i w s c)
    | succ j =>
      have step := ih (i + 1) _ c' (by simpa using hv)
      rw [Nat.add_right_comm] at step
      rw [← Nat.add_assoc, step, clamped_of_only (writeElem_only ..)]

theorem splitValues_getElem? (t : Ty) (n : Nat) (bs : List Nat) {i : Nat} (hi : i < n) :
    (splitValues t n bs)[i]? = some (decodeValue t ((bs.drop (tyBytes t * i)).take (tyBytes t))) := by
  induction n generalizing bs i with
  | zero => omega
  | succ n ih =>
    cases i with
    | zero => simp [splitValues]
    | succ i =>
      simp only [splitValues, List.getElem?_cons_succ]
      rw [ih (bs.drop (tyBytes t)) (by omega), List.drop_drop, Nat.mul_succ, Nat.add_comm (tyBytes t)]

/-- What a write of the whole entry, or of an element, prepares before it puts its elements: the open set has it as an item. -/
def openItem (e : Entry) (h : Nat) (el : Option Nat) (s : State) : State :=
  if e.apply = .vb then
    setItems (addItem s.dict.items (keyOf h e.param) el)
      (if el.isNone then { s with dict.patch := mdrop s.dict.patch (cell h e.param 0) (cell h e.param 0 + 4294967296) } else s)
  else s

/-- The elements that a write carries, and the first of them. -/
def writtenValues (e : Entry) (el : Option Nat) (bs : List Nat) : List Int := splitValues e.ty (if el.isNone then elems e else 1) bs

theorem writeValue_eq (e : Entry) (h : Nat) (el : Option Nat) (bs : List Nat) (s : State) :
    writeValue e h el bs s = writeElems e h (el.getD 0) (writtenValues e el bs) (openItem e h el s) := by
  unfold writeValue openItem writtenValues
  cases el <;> split <;> rfl

theorem openItem_only (e : Entry) (h : Nat) (el : Option Nat) (s : State) : Only [.shadow, .results] s (openItem e h el s) := by
  unfold openItem
  split
  · refine (setItems_only ..).after ?_
    split
    · exact Only.upd_shadow (Only.refl s)
    · exact Only.refl s
  · exact Only.refl s

/-- A write puts each element, clamped, where its apply class says. -/
theorem stored_writeValue (e : Entry) (h : Nat) {el : Option Nat} (bs : List Nat) (s : State) (c : s.Canonical) {i : Nat}
    (hi : i < elems e) (hel : el = none ∨ el = some i) :
    stored e.apply (writeValue e h el bs s) h e.param i = some (clamped e s h i (valueAt e el bs i)) := by
  have o := openItem_only e h el s
  rw [writeValue_eq, ← clamped_of_only o]
  rcases hel with rfl | rfl
  · have hv := splitValues_getElem? e.ty (elems e) bs hi
    have put := stored_writeElems e h (splitValues e.ty (elems e) bs) 0 _ (o.kept.canon c) hv
    rw [Nat.zero_add] at put
    exact put
  · have hv := splitValues_getElem? e.ty 1 bs Nat.zero_lt_one
    exact stored_writeElems e h (splitValues e.ty 1 bs) i _ (o.kept.canon c) hv

/-! ### WRITE: what else a write leaves as it was -/

theorem writeElems_cfg (e : Entry) (ha : e.apply = .vb ∨ e.apply = .rst) (h : Nat) (vs : List Int) (i : Nat) (s : State) :
    (writeElems e h i vs s).dict.cfg = s.dict.cfg := by
  induction vs generalizing i s with
  | nil => rfl
  | cons v vs ih =>
    simp only [writeElems]
    rw [ih]
    unfold writeElem
    rw [(noteClamp_only ..).dict_cfg rfl]
    rcases ha with ha | ha <;> rw [ha] <;> rfl

theorem writeElems_items (e : Entry) (h : Nat) (vs : List Int) (i : Nat) (s : State) :
    (writeElems e h i vs s).dict.items = s.dict.items := by
  induction vs generalizing i s with
  | nil => rfl
  | cons v vs ih =>
    simp only [writeElems]
    rw [ih]
    unfold writeElem
    rw [(noteClamp_only ..).dict_items rfl]
    cases e.apply <;> rfl

theorem putValue_patch {a : Apply} (ha : a ≠ .vb) (h p i : Nat) (v : Int) (s : State) :
    (putValue a h p i v s).dict.patch = s.dict.patch := by
  cases a
  case vb => exact absurd rfl ha
  all_goals rfl

theorem writeElems_patch (e : Entry) (ha : e.apply ≠ .vb) (h : Nat) (vs : List Int) (i : Nat) (s : State) :
    (writeElems e h i vs s).dict.patch = s.dict.patch := by
  induction vs generalizing i s with
  | nil => rfl
  | cons v vs ih =>
    simp only [writeElems]
    rw [ih]
    unfold writeElem
    rw [(noteClamp_only ..).dict_patch rfl, putValue_patch ha]

theorem writeValue_cfg (e : Entry) (ha : e.apply = .vb ∨ e.apply = .rst) (h : Nat) (el : Option Nat) (bs : List Nat) (s : State) :
    (writeValue e h el bs s).dict.cfg = s.dict.cfg := by
  rw [writeValue_eq, writeElems_cfg e ha, (openItem_only ..).dict_cfg rfl]

theorem writeValue_patch (e : Entry) (ha : e.apply ≠ .vb) (h : Nat) (el : Option Nat) (bs : List Nat) (s : State) :
    (writeValue e h el bs s).dict.patch = s.dict.patch := by
  rw [writeValue_eq, writeElems_patch e ha, openItem, if_neg ha]

/-- An item that is added is there, or its whole entry is. -/
theorem mem_addItem (items : List (Nat × Option Nat)) (k : Nat) (el : Option Nat) :
    (k, el) ∈ addItem items k el ∨ (k, none) ∈ addItem items k el := by
  unfold addItem
  cases el with
  | none => simp
  | some i =>
    dsimp only
    split
    case isTrue there =>
      simp only [Bool.or_eq_true, List.contains_iff_mem] at there
      exact there.symm
    case isFalse => simp

theorem writeValue_item (e : Entry) (ha : e.apply = .vb) (h : Nat) (el : Option Nat) (bs : List Nat) (s : State) :
    (keyOf h e.param, el) ∈ (writeValue e h el bs s).dict.items ∨ (keyOf h e.param, none) ∈ (writeValue e h el bs s).dict.items := by
  have items : (openItem e h el s).dict.items = addItem s.dict.items (keyOf h e.param) el := by
    rw [openItem, if_pos ha]
    unfold setItems
    exact (changeRes_only ..).dict_items rfl
  rw [writeValue_eq, writeElems_items, items]
  exact mem_addItem ..

/-- What takes effect at once beside the value itself: no unit of the dictionary but REFLADDER tells an event. -/
theorem afterNow_quiet_only {u : Nat} (hu : u ≠ hREFLADDER) (p : Nat) (was s : State) :
    Only [.results, .sensors, .out, .power] s (afterNow u p was s) := by
  unfold afterNow
  split
  · exact (deliver_only ..).mono rfl
  split
  · exact (restartNtc_only ..).mono rfl
  split
  · exact (showBuffers_only ..).mono rfl
  split
  · exact (keepWake_only ..).mono rfl
  exact Only.refl s

/-! ### WRITE: the request -/

/-- A WRITE of a setting that is accepted and carried out: the state that its answer leaves. -/
theorem write_carriedOut {s : State} {h : Hdr} {u p : Nat} {el : Option Nat} {e : Entry} {bs : List Nat}
    (ha : s.accepts (mkReq h 2 u p el bs) = true) (he : entryOf u p = some e) (hp : 0x040 ≤ p) (hb : isBlob e = false)
    (hcmd : e.command = false) {t : State} (hw : writeSetting (mkReq h 2 u p el bs) u e (begun (mkReq h 2 u p el bs) s) = ok t)
    {ps : List Part} (kept : Only ps (begun (mkReq h 2 u p el bs) s) t) (hps : ps.contains .ports = false := by decide) :
    ∃ t', exec (.write h u p el bs) s = .next t' ∧ t'.answered (port s h.port).key (mkReq h 2 u p el bs) ∧ t'.dict.cfg = t.dict.cfg
      ∧ t'.dict.items = t.dict.items ∧ t'.dict.patch = t.dict.patch ∧ ∀ a i, stored a t' u p i = stored a t u p i := by
  obtain ⟨serves, e', hc⟩ := accepts_entry ha
  obtain ⟨same, -, -⟩ := checkRequest_ok hc
  obtain ⟨param, small, -⟩ := entryOf_bounds he
  have hm : (mkReq h 2 u p el bs).param % 4096 = p := by
    show p % 4096 % 4096 = p
    omega
  rw [hm] at same
  obtain rfl : e' = e := Option.some.inj (same.symm.trans (entryAny_of_entryOf he hp hb))
  have setting : writeEntry (mkReq h 2 u p el bs) (port s h.port).level e' (begun (mkReq h 2 u p el bs) s) = ok t := by
    unfold writeEntry
    rw [← hw]
    simp only [hb, hcmd, Bool.false_eq_true, if_false]
    rfl
  have o : Only [.results, .ports, .can, .aux, .power] t (respond (mkReq h 2 u p el bs) stOK [] true (noteActivity t)) :=
    (respond_only ..).after (noteActivity_only t |>.mono rfl)
  refine ⟨_, rfl, arrive_write_answered rfl serves hc setting (by rw [port_of_only kept hps]), ?_⟩
  rw [arrive_write rfl serves hc setting]
  exact ⟨o.dict_cfg rfl, o.dict_items rfl, o.dict_patch rfl, fun a i => stored_of_only o (a := a) (h := u) (p := p) (i := i)⟩

/-- The three places of a setting that is written (Table 2.5). -/
theorem write_vb {s : State} (c : s.Canonical) {h : Hdr} {u p : Nat} {el : Option Nat} {e : Entry} {bs : List Nat}
    (ha : s.accepts (mkReq h 2 u p el bs) = true) (he : entryOf u p = some e) (hp : 0x040 ≤ p) (hb : isBlob e = false)
    (hcmd : e.command = false) (apply : e.apply = .vb) (fits : itemFits s (keyOf u p) el = true) :
    ∃ t, exec (.write h u p el bs) s = .next t
      ∧ (∀ i, i < elems e ∧ (el = none ∨ el = some i) → mget none t.dict.patch (cell u p i) = some (clamped e s u i (valueAt e el bs i)))
      ∧ ((keyOf u p, el) ∈ t.dict.items ∨ (keyOf u p, none) ∈ t.dict.items) ∧ t.dict.cfg = s.dict.cfg
      ∧ t.answered (port s h.port).key (mkReq h 2 u p el bs) := by
  obtain ⟨rfl, -, -⟩ := entryOf_bounds he
  have o := begun_only (mkReq h 2 u e.param el bs) s
  generalize hr : mkReq h 2 u e.param el bs = r at *
  have fits' : itemFits (begun r s) (keyOf u e.param) el = true := by
    unfold itemFits
    rw [o.dict_items rfl]
    exact fits
  have hw : writeSetting r u e (begun r s) = ok (showBuffers (writeValue e u el bs (begun r s))) := by
    subst hr
    unfold writeSetting
    rw [if_neg (by show ¬ (_ ∧ itemFits _ (keyOf u e.param) el = false); simp [fits'])]
    simp only [apply, if_true]
    rfl
  have kept : Only [.config, .shadow, .results] (begun r s) (showBuffers (writeValue e u el bs (begun r s))) :=
    (showBuffers_only ..).after (writeValue_only ..)
  subst hr
  obtain ⟨t, step, answer, cfg, items, -, store⟩ := write_carriedOut ha he hp hb hcmd hw kept
  have shown := showBuffers_only (writeValue e u el bs (begun (mkReq h 2 u e.param el bs) s))
  refine ⟨t, step, fun i hi => ?_, ?_, ?_, answer⟩
  · have put := stored_writeValue e u bs _ (o.kept.canon c) hi.1 hi.2
    rw [apply, clamped_of_only o, ← stored_of_only shown] at put
    exact (store .vb i).trans put
  · rw [items, shown.dict_items rfl]
    exact writeValue_item e apply u el bs _
  · rw [cfg, shown.dict_cfg rfl, writeValue_cfg e (.inl apply), o.dict_cfg rfl]

theorem write_rst {s : State} (c : s.Canonical) {h : Hdr} {u p : Nat} {el : Option Nat} {e : Entry} {bs : List Nat}
    (ha : s.accepts (mkReq h 2 u p el bs) = true) (he : entryOf u p = some e) (hp : 0x040 ≤ p) (hb : isBlob e = false)
    (hcmd : e.command = false) (apply : e.apply = .rst) (layers : u ≠ hLAYERS) (ctrl : classOf u ≠ 39) :
    ∃ t, exec (.write h u p el bs) s = .next t
      ∧ (∀ i, i < elems e ∧ (el = none ∨ el = some i) → mget none t.dict.held (cell u p i) = some (clamped e s u i (valueAt e el bs i)))
      ∧ t.dict.cfg = s.dict.cfg ∧ t.answered (port s h.port).key (mkReq h 2 u p el bs) := by
  obtain ⟨rfl, -, -⟩ := entryOf_bounds he
  have o := begun_only (mkReq h 2 u e.param el bs) s
  have hw : writeSetting (mkReq h 2 u e.param el bs) u e (begun (mkReq h 2 u e.param el bs) s)
      = ok (writeValue e u el bs (begun (mkReq h 2 u e.param el bs) s)) := by
    unfold writeSetting
    simp only [apply, layers, ctrl, false_and, if_false, reduceCtorEq]
    rfl
  obtain ⟨t, step, answer, cfg, -, -, store⟩ := write_carriedOut ha he hp hb hcmd hw (writeValue_only ..)
  refine ⟨t, step, fun i hi => ?_, ?_, answer⟩
  · have put := stored_writeValue e u bs _ (o.kept.canon c) hi.1 hi.2
    rw [apply, clamped_of_only o] at put
    exact (store .rst i).trans put
  · rw [cfg, writeValue_cfg e (.inr apply), o.dict_cfg rfl]

theorem write_now {s : State} (c : s.Canonical) {h : Hdr} {u p : Nat} {el : Option Nat} {e : Entry} {bs : List Nat}
    (ha : s.accepts (mkReq h 2 u p el bs) = true) (he : entryOf u p = some e) (hp : 0x040 ≤ p) (hb : isBlob e = false)
    (hcmd : e.command = false) (apply : e.apply = .now) (layers : u ≠ hLAYERS) (ladder : u ≠ hREFLADDER) (ctrl : classOf u ≠ 39) :
    ∃ t, exec (.write h u p el bs) s = .next t
      ∧ (∀ i, i < elems e ∧ (el = none ∨ el = some i) → cfgI t u p i = clamped e s u i (valueAt e el bs i))
      ∧ t.dict.patch = s.dict.patch ∧ t.answered (port s h.port).key (mkReq h 2 u p el bs) := by
  obtain ⟨rfl, -, -⟩ := entryOf_bounds he
  have o := begun_only (mkReq h 2 u e.param el bs) s
  generalize hm : begun (mkReq h 2 u e.param el bs) s = m at o
  have hw : writeSetting (mkReq h 2 u e.param el bs) u e m = ok (afterNow u e.param m (writeValue e u el bs m)) := by
    unfold writeSetting
    simp only [apply, layers, ctrl, false_and, if_false, if_true, reduceCtorEq]
    rfl
  have effect := afterNow_quiet_only ladder e.param m (writeValue e u el bs m)
  have kept : Only [.config, .shadow, .results, .sensors, .out, .power] m (afterNow u e.param m (writeValue e u el bs m)) :=
    effect.after ((writeValue_only ..).mono rfl)
  subst hm
  obtain ⟨t, step, answer, -, -, patch, store⟩ := write_carriedOut ha he hp hb hcmd hw kept
  refine ⟨t, step, fun i hi => ?_, ?_, answer⟩
  · have put := stored_writeValue e u bs _ (o.kept.canon c) hi.1 hi.2
    rw [apply, clamped_of_only o, ← stored_of_only effect] at put
    exact Option.some.inj ((store .now i).trans put)
  · rw [patch, effect.dict_patch rfl, writeValue_patch e (by simp [apply]), o.dict_patch rfl]

/-- Settles O6: a READ answers what `elementValue` gives in the state in which it is executed, which the request's arrival left as it was; a
WRITE puts each element by `writeElems`, and nothing after it moves the element. -/
theorem readsAnswerAndWritesKeep : Obligations.ReadsAnswerAndWritesKeep := by
  unfold Obligations.ReadsAnswerAndWritesKeep
  intro s h u p el e c
  refine ⟨fun ha he hb hs hc => ⟨fun h1 h2 hsec => ?_, fun h1 h2 g1 g2 g3 g4 g5 g6 => ?_⟩, fun off n ha ho hn => ?_,
    fun bs ha he hb _ hcmd hp => ⟨fun apply fits => ?_, fun apply layers ctrl => ?_, fun apply layers ladder ctrl => ?_⟩⟩
  · exact read_config ha he hb hs hc h1 h2 hsec
  · exact read_result c ha he hb hs hc h1 h2 (freshen_other g1 g2 g3 g4 g5 g6)
  · exact read_logRing ho hn ha c
  · obtain ⟨rfl, -, -⟩ := entryOf_bounds he
    exact write_vb c ha he hp hb hcmd apply fits
  · obtain ⟨rfl, -, -⟩ := entryOf_bounds he
    exact write_rst c ha he hp hb hcmd apply layers ctrl
  · obtain ⟨rfl, -, -⟩ := entryOf_bounds he
    exact write_now c ha he hp hb hcmd apply layers ladder ctrl

end Sys2Proof.Machine
end

section
/-! SUPPORT. A panel of more pixels than a map has cells (02, R57): the elements that RESTORE_DEFAULTS visits of RESIDUAL_MAP reach the
cells of DEFECT_LIST, the next parameter of COMP. -/

set_option Elab.async false

namespace Sys2Proof.Machine

/-- RUN, with an Integrator session at the host port, and a raster mode of 2^34 pixels, which no write of a register could make. -/
def wideState : State := { State.reset with
  power.phase := .up, power.state := .run, stag.running := true, ctrl.host.enabled := true, ctrl.host.level := 2
  raster.mode := { width := 131072, height := 131072 } }

def wideHdr : Hdr := ⟨.host, 0, none⟩

/-- RESIDUAL_MAP and DEFECT_LIST of COMP, as the dictionary has them (Table 2.1). -/
def residualMapEntry : Entry := en 0x047 (.blob 176947200) 0 0 2 0 .any .vb false false none
def defectListEntry : Entry := en 0x048 (.blob 524288) 0 0 2 0 .any .vb false false none

theorem wideState_canonical : wideState.Canonical where
  store := by decide +kernel
  mirror := rfl
  image := rfl
  flash := by decide +kernel
  sram := rfl
  results := rfl
  gens := rfl
  limited := rfl
  last := rfl
  ce := rfl
  ue := rfl
  patch := rfl
  held := rfl
  config := rfl

theorem wideState_accepts : wideState.accepts (mkWrite wideHdr hDEV Par.DEV_RESTORE_DEFAULTS (u16 0)) = true := by decide +kernel

theorem wideState_fits : (restoreItems (port wideState .host).level wideState.dict.items).length ≤ shadowLimit := by decide +kernel

theorem residualMap_restored : (hCOMP, residualMapEntry) ∈ restored 2 := by decide +kernel
theorem defectList_restored : (hCOMP, defectListEntry) ∈ restored 2 := by decide +kernel

theorem residualMap_elem : 4294967296 ∈ restoreElems wideState hCOMP residualMapEntry := by
  unfold restoreElems
  rw [List.mem_filter, List.mem_range]
  exact ⟨by decide +kernel, rfl⟩
theorem defectList_elem : 0 ∈ restoreElems wideState hCOMP defectListEntry := by
  unfold restoreElems
  rw [List.mem_filter, List.mem_range]
  exact ⟨by decide +kernel, rfl⟩

/-- Refutes O9, in its clause of RESTORE_DEFAULTS: with a raster mode of 2^34 pixels, element 2^32 of RESIDUAL_MAP, whose default is 0, and
element 0 of DEFECT_LIST, whose default is 255, are one cell of the open set, which cannot hold both. -/
theorem not_configurationRequests : ¬ Obligations.ConfigurationRequests := by
  unfold Obligations.ConfigurationRequests
  intro h
  obtain ⟨-, -, -, restore, -⟩ := h wideState wideHdr 0 wideState_canonical (by decide)
  obtain ⟨t, -, -, -, held, -⟩ := restore wideState_accepts wideState_fits
  obtain ⟨-, -, residual⟩ := held (hCOMP, residualMapEntry) residualMap_restored (by decide) 4294967296 residualMap_elem
  obtain ⟨-, -, defects⟩ := held (hCOMP, defectListEntry) defectList_restored (by decide) 0 defectList_elem
  have sameCell : cell hCOMP residualMapEntry.param 4294967296 = cell hCOMP defectListEntry.param 0 := by decide +kernel
  have both := (residual rfl).symm.trans (sameCell ▸ defects rfl)
  have differ : dflt (gradeX wideState) hCOMP residualMapEntry.param 4294967296 ≠ dflt (gradeX wideState) hCOMP defectListEntry.param 0 := by
    decide +kernel
  exact differ (Option.some.inj both)

end Sys2Proof.Machine
end

section
/-! SUPPORT. Frames and segments as they reach the control ports (02, R70, R71, R73, R129): what the bytes of a frame come to, what a first
segment begins, and when a frame has left. -/

set_option Elab.async false

namespace Sys2Proof.Machine

/-! ### Ports -/

theorem setPort_port (i : PortId) (s : State) : setPort i (port s i) s = s := by cases i <;> rfl

theorem noCredit_of_port {s t : State} {i : PortId} (h : port t i = port s i) : noCredit t i = noCredit s i := by
  unfold noCredit
  rw [h]

theorem hostIs_of_on {i3c : Bool} {s : State} (hf : fabricOn s = true) (hp : s.pins.hostsel = i3c) : hostIs i3c s = true := by
  unfold hostIs
  rw [hf, hp, beq_self_eq_true, Bool.and_self]

/-- Of its port's state, a frame that has left moves the queue, and the count of those that must leave before the port closes (R79). -/
theorem port_frameLeft (i : PortId) (s : State) :
    port (frameLeft i s) i = { port s i with outbound := (port s i).outbound.drop 1, closing := (port s i).closing.map (· - 1) } := by
  unfold frameLeft
  rw [port_of_only (incWrap_only ..) rfl, port_setPort]

theorem outbound_frameLeft {i : PortId} {s : State} {f : OutFrame} {rest : List OutFrame} (waits : (port s i).outbound = f :: rest) :
    (port (frameLeft i s) i).outbound = rest := by
  rw [port_frameLeft, waits]
  rfl

/-! ### Frames -/

/-- A CRC-16 has 16 bits. -/
theorem crcUp16_lt (c : Nat) : crcUp 16 0x1021 c < 65536 := by
  unfold crcUp
  have low : c * 2 % 2 ^ 16 < 2 ^ 16 := Nat.mod_lt _ (by decide)
  split
  · exact Nat.xor_lt_two_pow low (by decide)
  · exact low

theorem times_crcUp16_lt (n : Nat) {c : Nat} (hc : c < 65536) : times (crcUp 16 0x1021) n c < 65536 := by
  induction n generalizing c with
  | zero => exact hc
  | succ n ih => exact ih (crcUp16_lt c)

theorem crc16_lt (bs : List Nat) : crc16 bs < 65536 := by
  unfold crc16
  refine List.foldlRecOn (motive := fun c => c < 65536) bs _ (by decide) fun c _ b _ => ?_
  exact times_crcUp16_lt 7 (crcUp16_lt _)

/-- The request of a NOP without a tag. -/
abbrev nopReq (i : PortId) (seq : Nat) : Req := mkReq ⟨i, seq, none⟩ 0x20 0 0 none []
theorem nopReq_whole (i : PortId) (seq : Nat) : (nopReq i seq).fault ≠ 1 := Nat.zero_ne_one

/-- The 14 bytes of a NOP frame: its body, with no flag set and no payload, and the check. -/
abbrev nopBody (seq : Nat) : List Nat := frameBody 0x20 seq 0 0 0 0 []
theorem nopFrame_length (seq : Nat) : (nopFrame seq).length = 14 := rfl
theorem nopFrame_body (seq : Nat) : (nopFrame seq).take 12 = nopBody seq := rfl
theorem nopFrame_check (seq : Nat) : leNat ((nopFrame seq).drop 12) = crc16 (nopBody seq) := leNat_toLE_small (n := 2) (crc16_lt _)
theorem nopBody_flags (seq : Nat) : leNat (sub (nopBody seq) 4 2) = 0 := rfl
theorem nopFrame_frameLength (seq : Nat) : frameLength (nopFrame seq) = 14 := by
  have flags : leNat (sub (nopFrame seq) 4 2) = 0 := rfl
  unfold frameLength
  rw [flags, Nat.zero_testBit]
  rfl

/-- The bytes of a NOP frame spell the NOP request. -/
theorem frameReq_nopFrame (i : PortId) {seq : Nat} (h : seq < 256) : frameReq i (nopFrame seq) = nopReq i seq := by
  have number : (nopBody seq).getD 1 0 = seq := Nat.mod_eq_of_lt h
  unfold frameReq
  simp only [nopFrame_length, Nat.reduceSub, nopFrame_body, nopFrame_check, nopBody_flags, number, Nat.zero_testBit,
    Bool.false_eq_true, if_false, bne_self_eq_false]
  rfl

/-- A frame for which there is credit, and whose check passes, is the arrival of its request. -/
theorem frameTaken_eq_arrive {i : PortId} {bs : List Nat} {r : Req} {s : State} (spells : frameReq i bs = r) (hp : r.port = i)
    (whole : r.fault ≠ 1) (hf : fabricOn s = true) (credit : noCredit s i = false) : frameTaken i bs s = arrive r s := by
  subst hp
  unfold frameTaken arrive
  simp only [spells, whole, hf, noCredit_frameHeard, credit, Bool.not_true, Bool.false_eq_true, if_false]

/-- A frame sent whole, whose check passes, is the arrival of its request, with credit or without. -/
theorem arriveFrame_eq_arrive {i : PortId} {bs : List Nat} {r : Req} {s : State} (spells : frameReq i bs = r) (hp : r.port = i)
    (whole : r.fault ≠ 1) (hf : fabricOn s = true) : arriveFrame i bs s = arrive r s := by
  unfold arriveFrame
  rw [hf]
  cases credit : noCredit s i with
  | false => exact frameTaken_eq_arrive spells hp whole hf credit
  | true =>
    subst hp
    unfold arrive
    simp only [hf, noCredit_frameHeard, credit, Bool.not_true, Bool.false_eq_true, if_true, if_false]

/-! ### Segments -/

/-- A first segment, with credit and no frame in progress, begins a frame; it is the whole of one where it is the last too. -/
theorem takeSegment_first {i : PortId} {head : Nat} {bs : List Nat} {s : State} (idle : (port s i).partialIn = none)
    (credit : noCredit s i = false) (first : head.testBit 7 = true) (zero : head % 64 = 0) :
    takeSegment i false (head :: bs) s = joinSegment i false bs 0 (head.testBit 6) s := by
  unfold takeSegment firstSegment
  have nothing : partialFrame s i false = none := idle
  simp only [nothing, List.headD_cons, List.drop_one, List.tail_cons, first, zero, credit, Bool.not_false, Bool.true_and, if_true,
    Bool.false_eq_true, if_false, ne_eq, not_true_eq_false]

theorem port_setPartial (i : PortId) (b : Option (List Nat × Nat)) (s : State) :
    port (setPartial i false b s) i = { port s i with partialIn := b } := by
  unfold setPartial
  rw [port_setPort]
  rfl

/-- With no frame in progress there is none to forget. -/
theorem setPartial_none {i : PortId} {s : State} (idle : (port s i).partialIn = none) : setPartial i false none s = s := by
  have same : { port s i with partialIn := none } = port s i := by rw [← idle]
  unfold setPartial
  simp only [Bool.false_eq_true, if_false, same, setPort_port]

/-- A first segment that is not the last leaves its bytes waiting for the segment of count 1. -/
theorem takeSegment_begins {i : PortId} {bs : List Nat} {s : State} (idle : (port s i).partialIn = none) (credit : noCredit s i = false) :
    (port (takeSegment i false (0x80 :: bs) s) i).partialIn = some (bs, 1) := by
  rw [takeSegment_first idle credit rfl rfl]
  unfold joinSegment
  rw [if_neg (by decide), port_setPartial]

/-- A NOP frame in one segment is the NOP request. -/
theorem takeSegment_nopFrame {i : PortId} {seq : Nat} {s : State} (h : seq < 256) (hf : fabricOn s = true)
    (idle : (port s i).partialIn = none) (credit : noCredit s i = false) :
    takeSegment i false (0xC0 :: nopFrame seq) s = arrive (nopReq i seq) s := by
  have whole : (nopFrame seq).take (frameLength (nopFrame seq)) = nopFrame seq := by rw [nopFrame_frameLength]; rfl
  rw [takeSegment_first idle credit rfl rfl]
  unfold joinSegment frameDone
  rw [if_pos (by decide), setPartial_none idle]
  simp only [whole, ite_self, Bool.not_false, if_true]
  exact frameTaken_eq_arrive (frameReq_nopFrame i h) rfl (nopReq_whole i seq) hf credit

theorem fieldRequestSegment_own {s : State} (hf : fabricOn s = true) (own : nodeId s ≠ 0) (head : Nat) (bs : List Nat) :
    exec (.fieldRequestSegment (nodeId s) (head :: bs)) s = .next (takeSegment .field false (head :: bs) s) := by
  show execFieldRequestSegment _ _ s = _
  unfold execFieldRequestSegment
  have node : (nodeId s == 0) = false := beq_false_of_ne own
  simp only [hf, node, own, bne_self_eq_false, Bool.and_false, Bool.or_false, Bool.not_true, Bool.false_or, false_and, if_false,
    reduceCtorEq, beq_iff_eq]

/-- Settles O11: the frame's bytes spell the NOP request, and each transport brings it to its port as `arrive` does. -/
theorem framesCarryCommands : Obligations.FramesCarryCommands := by
  unfold Obligations.FramesCarryCommands
  intro s seq small on
  refine ⟨fun spi => ?_, fun i3c addressed credit => ?_, fun idle credit own => ?_⟩
  · refine ⟨_, ?_, rfl⟩
    show execSpiWriteFrame _ s = _
    unfold execSpiWriteFrame
    rw [if_pos (hostIs_of_on on spi), arriveFrame_eq_arrive (frameReq_nopFrame .host small) rfl (nopReq_whole _ _) on]
  · refine ⟨_, ?_, rfl⟩
    show execI3cPrivateWrite _ s = _
    unfold execI3cPrivateWrite
    rw [if_neg (by simp [hostIs_of_on on i3c, Option.isSome_iff_ne_none.1 addressed]), if_neg (by simp [credit]),
      arriveFrame_eq_arrive (frameReq_nopFrame .host small) rfl (nopReq_whole _ _) on]
  · refine ⟨_, ?_, rfl⟩
    rw [fieldRequestSegment_own on own, takeSegment_nopFrame (i := .field) small on idle credit]

/-! ### What the transports leave -/

theorem i3cPrivateRead_serves {s : State} (on : fabricOn s = true) (i3c : s.pins.hostsel = true)
    (addressed : s.ctrl.host.address.isSome = true) {f : OutFrame} {rest : List OutFrame} {count : Nat}
    (waits : s.ctrl.host.outbound = f :: rest) (whole : f.bytes.length ≤ count) :
    exec (.i3cPrivateRead count) s = .next (frameLeft .host (setPort .host { s.ctrl.host with ibi := none } s)) := by
  show execI3cPrivateRead count s = _
  unfold execI3cPrivateRead
  rw [waits]
  simp only [hostIs_of_on on i3c, Option.isSome_iff_ne_none.1 addressed, Option.isNone_iff_eq_none, Bool.not_true, Bool.false_or,
    if_false, whole, if_true]

theorem spiReadFrame_leaves {s : State} (on : fabricOn s = true) (spi : s.pins.hostsel = false) {f : OutFrame} {rest : List OutFrame}
    {count : Nat} (waits : s.ctrl.host.outbound = f :: rest) (whole : f.bytes.length + 1 ≤ count) :
    exec (.spiReadFrame count) s = .next (frameLeft .host s) := by
  show execSpiReadFrame count s = _
  unfold execSpiReadFrame
  rw [waits]
  simp only [hostIs_of_on on spi, whole, decide_true, Bool.and_self, if_true]

/-- A new request of the source is acted on, and its answer kept (R127, R128). -/
theorem auxRequest_fresh {s : State} {f : AuxFrame} {c : Nat} (fresh : freshRequest s f c = true) (act : State → List Nat × State) :
    auxRequest act f s = auxReply f (act (auxHeard s)).1 (act (auxHeard s)).2 := by
  unfold freshRequest at fresh
  simp only [Bool.and_eq_true, Bool.not_eq_true'] at fresh
  obtain ⟨⟨⟨⟨awake, ok⟩, request⟩, new⟩, -⟩ := fresh
  unfold auxRequest
  simp only [awake, ok, request, new, Bool.not_true, Bool.false_eq_true, if_false]

theorem auxChannel_of_fresh {s : State} {f : AuxFrame} {c : Nat} (fresh : freshRequest s f c = true) : auxChannel f = c := by
  unfold freshRequest at fresh
  simp only [Bool.and_eq_true, beq_iff_eq] at fresh
  exact fresh.2

theorem auxHeard_phase (s : State) : (auxHeard s).link.phase = s.link.phase := by
  unfold auxHeard shortWait
  rw [incWrap_link]
  dsimp only
  split
  · rfl
  · rw [(changeRes_only ..).same .link rfl]

theorem auxHeld_auxHeard (s : State) : auxHeld (auxHeard s) = auxHeld s := by
  unfold auxHeld
  rw [auxHeard_phase]

/-- A segment on the dictionary channel, with credit and no training on the pair, is TAKEN (R129, R130). -/
theorem auxDictionary_taken {data : List Nat} {s : State} (free : auxHeld s = false) (credit : noCredit s .sideband = false) :
    auxDictionary data s = ([0], takeSegment .sideband false data s) := by
  unfold auxDictionary
  simp only [free, credit, Bool.and_false, Bool.false_eq_true, if_false]

theorem auxDictionarySegment_begins {s : State} {f : AuxFrame} {data : List Nat} (on : fabricOn s = true)
    (fresh : freshRequest s f 1 = true) (carries : f.payload = 0x80 :: data) (free : auxHeld s = false)
    (idle : s.ctrl.sideband.partialIn = none) (credit : noCredit s .sideband = false) :
    ∃ t, exec (.auxDictionarySegment f) s = .next t ∧ t.ctrl.sideband.partialIn = some (data, 1)
      ∧ t.aux.answered = some (1, f.id, f.check, [0]) := by
  have channel := auxChannel_of_fresh fresh
  have heard : port (auxHeard s) .sideband = port s .sideband := port_of_only (auxHeard_only s) rfl _
  have taken := auxDictionary_taken (data := f.payload) ((auxHeld_auxHeard s).trans free) ((noCredit_of_port heard).trans credit)
  refine ⟨_, rfl, ?_⟩
  rw [if_neg (by simp [channel, on]), auxRequest_fresh fresh, taken]
  constructor
  · rw [(auxReply_only ..).ctrl_sideband rfl, carries]
    refine takeSegment_begins (i := .sideband) ?_ ((noCredit_of_port heard).trans credit)
    rw [heard]
    exact idle
  · unfold auxReply
    rw [incWrap_aux, channel]

/-- Settles O12, transport by transport: what each command does to its port where its guards are met. -/
theorem transportsCarryFrames : Obligations.TransportsCarryFrames := by
  unfold Obligations.TransportsCarryFrames
  intro s data on
  refine ⟨fun spi => ?_, fun f rest count spi waits whole => ?_, fun f rest count i3c addressed waits whole => ?_,
    fun a i3c unaddressed => ?_, fun a i3c => ?_, fun idle credit own => ?_, fun f fresh carries free idle credit => ?_⟩
  · refine ⟨_, rfl, ?_⟩
    rw [if_pos (hostIs_of_on on spi)]
    exact ⟨rfl, rfl⟩
  · exact ⟨_, spiReadFrame_leaves on spi waits whole, outbound_frameLeft (i := .host) waits⟩
  · refine ⟨_, i3cPrivateRead_serves on i3c addressed waits whole, outbound_frameLeft (i := .host) waits, ?_⟩
    show (port (frameLeft .host _) .host).ibi = none
    rw [port_frameLeft]
    rfl
  · refine ⟨_, rfl, ?_⟩
    rw [if_pos (by simp [hostIs_of_on on i3c, unaddressed])]
    rfl
  · refine ⟨_, rfl, ?_⟩
    rw [if_pos (by simp [hostIs_of_on on i3c])]
    rfl
  · refine ⟨_, fieldRequestSegment_own on own .., ?_⟩
    exact takeSegment_begins (i := .field) idle credit
  · exact auxDictionarySegment_begins on fresh carries free idle credit

end Sys2Proof.Machine
end

section
/-! SUPPORT. SHADOW_DISCARD (02, R51): the open set is emptied, and a cell then reads what the earlier commits will give it. -/

set_option Elab.async false

namespace Sys2Proof.Machine

/-! ### The open set, emptied -/

theorem discardShadow_after (s : State) : Only [.results] { s with dict.patch := [], dict.items := [] } (discardShadow s) := by
  unfold discardShadow clearShadow setItems
  exact (showBuffers_only ..).after (changeRes_only ..)

/-- A cell that neither the open set nor the restart holds a value for reads what the latest commit gives it, else what is in force. -/
theorem view_committed {s : State} {u p i : Nat} (closed : s.dict.patch = []) (free : mget none s.dict.held (cell u p i) = none) :
    view s u p i = (commitView s.dict.commits (cell u p i)).getD (cfgI s u p i) := by
  unfold view waitingView
  simp only [closed, mget, free]
  cases commitView s.dict.commits (cell u p i) <;> rfl

/-! ### The command's own entry -/

/-- SHADOW_DISCARD, as the dictionary has it (Table 2.1). -/
def shadowDiscardEntry : Entry := en 0x043 (.int false 2 16) 0 0 1 0 (.span 0 65535) .now false true none

theorem entryAny_shadowDiscard (s : State) : entryAny s hDEV Par.DEV_SHADOW_DISCARD = some shadowDiscardEntry := rfl

/-- The value written is noted as any value in force is. -/
def noteDiscard (value : Nat) (s : State) : State :=
  writeElem shadowDiscardEntry hDEV 0 (decodeValue shadowDiscardEntry.ty (u16 value)) s

/-- The request of the command. -/
abbrev discardReq (h : Hdr) (value : Nat) : Req := mkWrite h hDEV Par.DEV_SHADOW_DISCARD (u16 value)

/-- The open set is discarded whatever the value written is. -/
theorem writeEntry_shadowDiscard (h : Hdr) (value level : Nat) (s : State) :
    writeEntry (discardReq h value) level shadowDiscardEntry s = ok (discardShadow (noteDiscard value s)) := rfl

theorem noteDiscard_only (value : Nat) (s : State) : Only [.config, .results] s (noteDiscard value s) := by
  unfold noteDiscard writeElem
  exact (noteClamp_only ..).after ((setCfg_only ..).mono rfl)

/-- The note moves no cell in force but the command's own. -/
theorem cfgI_noteDiscard {u p i : Nat} (other : cell u p i ≠ cell hDEV Par.DEV_SHADOW_DISCARD 0) (value : Nat) {s : State}
    (c : s.Canonical) : cfgI (noteDiscard value s) u p i = cfgI s u p i := by
  unfold noteDiscard writeElem
  rw [cfgI_of_only (noteClamp_only ..) rfl rfl rfl]
  exact cfgI_setCfg_other _ s c other

/-- What SHADOW_DISCARD leaves, in terms of the state in which it was accepted. -/
theorem shadowDiscard_accepted {s : State} (c : s.Canonical) {h : Hdr} {value : Nat} (accepted : s.accepts (discardReq h value) = true) :
    ∃ t, exec (.shadowDiscard h value) s = .next t ∧ t.answered (port s h.port).key (discardReq h value)
      ∧ t.dict.patch = [] ∧ t.dict.items = [] ∧ t.dict.commits = s.dict.commits ∧ t.dict.held = s.dict.held
      ∧ ∀ u p i, cell u p i ≠ cell hDEV Par.DEV_SHADOW_DISCARD 0 → cfgI t u p i = cfgI s u p i := by
  obtain ⟨serves, e, checked⟩ := accepts_entry accepted
  obtain ⟨named, -, -⟩ := checkRequest_ok checked
  obtain rfl : shadowDiscardEntry = e := Option.some.inj ((entryAny_shadowDiscard _).symm.trans named)
  have begins := begun_only (discardReq h value) s
  have noted := noteDiscard_only value (begun (discardReq h value) s)
  have discards := writeEntry_shadowDiscard h value (port s h.port).level (begun (discardReq h value) s)
  have inPlace : port (discardShadow (noteDiscard value (begun (discardReq h value) s))) h.port = port (begun (discardReq h value) s) h.port :=
    (port_of_only (discardShadow_only _) rfl _).trans (port_of_only noted rfl _)
  have emptied : Only [.results, .ports, .can, .aux, .power]
      { noteDiscard value (begun (discardReq h value) s) with dict.patch := [], dict.items := [] } (arrive (discardReq h value) s) := by
    rw [arrive_write rfl serves checked discards]
    exact (respond_only ..).after ((noteActivity_only _).after ((discardShadow_after _).mono rfl))
  refine ⟨_, rfl, arrive_write_answered rfl serves checked discards (congrArg (·.key) inPlace), emptied.dict_patch rfl,
    emptied.dict_items rfl, ?_, ?_, fun u p i other => ?_⟩
  · exact (emptied.dict_commits rfl).trans ((noted.dict_commits rfl).trans (begins.dict_commits rfl))
  · exact (emptied.dict_held rfl).trans ((noted.dict_held rfl).trans (begins.dict_held rfl))
  · rw [cfgI_of_only emptied rfl rfl rfl, ← cfgI_of_only begins rfl rfl rfl]
    exact cfgI_noteDiscard other value (begins.kept.canon c)

/-- Settles O8: the discard leaves an empty open set above the commits, the values held and those in force as they were, and the write that
asks for it moves its own cell alone. -/
theorem shadowDiscardReadsCommitted : Obligations.ShadowDiscardReadsCommitted := by
  unfold Obligations.ShadowDiscardReadsCommitted
  intro s h value c accepted
  obtain ⟨t, step, answer, patch, items, commits, held, others⟩ := shadowDiscard_accepted c accepted
  refine ⟨t, step, patch, items, answer, fun u p i _ other free => ?_⟩
  rw [view_committed patch (held ▸ free), commits, others u p i other]
  cases commitView s.dict.commits (cell u p i) <;> rfl

end Sys2Proof.Machine
end

section
/-! SUPPORT. PROVE after a tamper event (16, R410, R419): while the key store is locked there is no key to try a response with. -/

set_option Elab.async false

namespace Sys2Proof.Machine

/-- RUN, with the key store locked by a tamper event while a working copy with an Integrator key is in it, and a challenge for level 2 is
outstanding at the host port. -/
def tamperedState : State := { State.reset with
  power.phase := .up, power.state := .run, stag.running := true, ctrl.host.enabled := true
  ctrl.host.challenge := some ([7], 2, 0), sec.work := some { intSet := true }, sec.locked := true }

def tamperedHdr : Hdr := ⟨.host, 0, none⟩

/-- The response that the Integrator key makes of the challenge. -/
def tamperedProof : List Nat := hmac [] ([7] ++ [2, 0] ++ uid tamperedState)

theorem tamperedState_serves : tamperedState.serves (mkReq tamperedHdr 0x11 0 0 none tamperedProof) = true := by decide +kernel

theorem tamperedState_prove_level : (port (arrive (mkReq tamperedHdr 0x11 0 0 none tamperedProof) tamperedState) .host).level = 0 := by
  decide +kernel

/-- Refutes O5, in its clause of PROVE: nothing there keeps the key store from being locked, and the right response to a challenge for
level 2 then leaves the port at Observer. -/
theorem not_sessionRequests : ¬ Obligations.SessionRequests := by
  unfold Obligations.SessionRequests
  intro h
  obtain ⟨-, -, -, -, prove⟩ := h tamperedState tamperedHdr
  obtain ⟨t, step, level, -⟩ := prove [7] 2 (by decide +kernel) rfl (fun _ => rfl) tamperedState_serves
  obtain rfl : arrive (mkReq tamperedHdr 0x11 0 0 none tamperedProof) tamperedState = t := Host.Outcome.next.inj step
  exact absurd (level.symm.trans tamperedState_prove_level) (by decide)

end Sys2Proof.Machine
end

section
/-! SUPPORT. The training states one after another (03, Table 3.5, R95, R97, R99): where a completion, a limit or the end of the wait leads. -/

set_option Elab.async false

namespace Sys2Proof.Machine

/-! ### The limit of a state -/

theorem lateTraining_link (m : Nat) (s : State) : (lateTraining m s).link = s.link := by
  unfold lateTraining
  rw [raise_link, advanceTo_link]

theorem lateTraining_now (m : Nat) (s : State) : (lateTraining m s).now = max s.now (s.link.since + 5 * tickMs) := by
  unfold lateTraining
  rw [raise_now]
  rfl

theorem lateTraining_lastCode (m : Nat) {s : State} (c : s.Canonical) : lastCode (lateTraining m s) hLINK = 0x0103 :=
  congrArg (·.2) (raise_lastEvent_self 0x0103 _ _ ((advanceTo_only ..).kept.canon c) rfl)

theorem lastCode_of_only {ps : List Part} {s t : State} (h : Only ps s t) (hp : ps.contains .events = false) (u : Nat) :
    lastCode t u = lastCode s u := by
  unfold lastCode
  rw [h.dict_lastEvent hp]

/-! ### The commands, in the state that each of them ends -/

section
variable {s : State} {rs : List LaneReport}

theorem exec_bitlockComplete (h : s.link.phase = .bitlock) : exec (.bitlockComplete rs) s = .next (takeBitlock rs s) := by
  show execBitlockComplete rs s = _
  unfold execBitlockComplete
  rw [if_neg (not_not_intro h)]

theorem exec_blocklockComplete (h : s.link.phase = .blocklock) : exec (.blocklockComplete rs) s = .next (takeBlocklock rs s) := by
  show execBlocklockComplete rs s = _
  unfold execBlocklockComplete
  rw [if_neg (not_not_intro h)]

theorem exec_deskewComplete (h : s.link.phase = .deskew) : exec (.deskewComplete rs) s = .next (takeDeskew rs s) := by
  show execDeskewComplete rs s = _
  unfold execDeskewComplete
  rw [if_neg (not_not_intro h)]

theorem exec_trainingStateTimeout_bitlock (h : s.link.phase = .bitlock) :
    exec (.trainingStateTimeout rs) s = .next (takeBitlock rs (lateTraining (maskOf (unfinished s rs)) s)) := by
  show execTrainingStateTimeout rs s = _
  unfold execTrainingStateTimeout
  rw [h]

theorem exec_trainingStateTimeout_detect (h : s.link.phase = .detect) :
    exec (.trainingStateTimeout rs) s = .next (partnerLost 2 (lateTraining (cfg s hLINK Par.LINK_LANES_ENABLE) s)) := by
  show execTrainingStateTimeout rs s = _
  unfold execTrainingStateTimeout
  rw [h]

theorem exec_backoffExpiry (h : s.link.phase = .backoff) :
    exec .backoffExpiry s = .next (enterDetect 7 (advanceTo s.link.backoffTo s)) := by
  show execBackoffExpiry s = _
  unfold execBackoffExpiry
  rw [if_neg (not_not_intro h)]

end

/-- Settles O13: each command leads from the state it ends to the next of Table 3.5; a limit moves the time to it and is told first. -/
theorem trainingStatesFollow : Obligations.TrainingStatesFollow := by
  unfold Obligations.TrainingStatesFollow
  intro s rs
  refine ⟨fun h => ⟨_, exec_bitlockComplete h, takeBitlock_link rs s⟩, fun h => ⟨_, exec_blocklockComplete h, takeBlocklock_link rs s⟩,
    fun h off => ⟨_, exec_deskewComplete h, takeDeskew_link rs s off⟩, fun h c => ⟨_, exec_trainingStateTimeout_bitlock h, ?_⟩,
    fun h => ⟨_, exec_trainingStateTimeout_detect h, ?_⟩, fun h => ⟨_, exec_backoffExpiry h, ?_⟩⟩
  · obtain ⟨phase, since⟩ := takeBitlock_link rs (lateTraining (maskOf (unfinished s rs)) s)
    exact ⟨phase, since.trans (lateTraining_now ..),
      (lastCode_of_only (takeBitlock_only ..) rfl _).trans (lateTraining_lastCode _ c)⟩
  · obtain ⟨phase, wait⟩ := partnerLost_link 2 (lateTraining (cfg s hLINK Par.LINK_LANES_ENABLE) s)
    rw [lateTraining_link, lateTraining_now] at wait
    exact ⟨phase, wait⟩
  · obtain ⟨phase, reason⟩ := enterDetect_link 7 (advanceTo s.link.backoffTo s)
    exact ⟨phase, reason, (enterDetect_only ..).same .now rfl⟩

end Sys2Proof.Machine
end

section
/-! SUPPORT. The messages and measurements that move a training on (03, R92, R93, R95 to R97, R100; 04, R127): what an answer of the source
brings, which request leaves next, what a measurement leaves of the procedure, and which lanes a VERIFY window makes active. -/

set_option Elab.async false

namespace Sys2Proof.Machine

/-! ### What the source sends -/

/-- A message heard ends the run of failures; outside BACKOFF it moves nothing else of the link. -/
theorem auxHeard_link {s : State} (h : s.link.phase ≠ .backoff) : (auxHeard s).link = { s.link with failures := 0 } := by
  unfold auxHeard shortWait
  rw [incWrap_link]
  dsimp only
  rw [if_pos h]

theorem auxIsAnswer_of_fresh {s : State} {f : AuxFrame} (fresh : freshRequest s f 0 = true) : auxIsAnswer f = false := by
  unfold freshRequest at fresh
  simp only [Bool.and_eq_true, Bool.not_eq_true'] at fresh
  exact fresh.1.1.2

/-- The state in which what an answer brings is taken: it is heard, and its request awaits no answer any longer. -/
def replied (s : State) : State := auxDone (changeRes hAUX Par.AUX_UNANSWERED 0 (auxHeard s))

theorem replied_link {s : State} (h : s.link.phase ≠ .backoff) : (replied s).link = { s.link with failures := 0 } := by
  unfold replied auxDone
  rw [changeRes_link, auxHeard_link h]

theorem replied_now (s : State) : (replied s).now = s.now := by
  unfold replied auxDone
  rw [changeRes_now, (auxHeard_only s).same .now rfl]

theorem auxIsAnswer_of_answersWaiting {s : State} {f : AuxFrame} (h : answersWaiting s f = true) : auxIsAnswer f = true := by
  unfold answersWaiting at h
  simp only [Bool.and_eq_true] at h
  exact h.1.2

/-- An answer TAKEN to the request that waits brings what follows its status. -/
theorem takeAnswer_taken {s : State} {f : AuxFrame} {id n : Nat} {r : AuxReq} {m : List Nat} (answers : answersWaiting s f = true)
    (waits : s.aux.waiting = some (id, r, n)) (taken : f.payload = 0 :: m) : takeAnswer f s = auxPump (takeReply r m (replied s)) := by
  unfold answersWaiting at answers
  simp only [waits, Bool.and_eq_true, beq_iff_eq] at answers
  obtain ⟨⟨⟨awake, ok⟩, answer⟩, same, channel⟩ := answers
  unfold takeAnswer
  simp only [awake, ok, answer, waits, same, channel, taken, Bool.not_true, Bool.false_eq_true, if_false, ne_eq, not_true_eq_false,
    or_self, List.headD_cons, List.drop_succ_cons, List.drop_zero]
  rfl

/-! ### CAPS (R95, R100) -/

theorem trainReq_source (s : State) : (trainReq s).link.source = s.link.source := by
  unfold trainReq
  simp only [auxPush_link, showLink_link, raise_link, changeRes_link, incWrap_link, setPhase_link]
  obtain ⟨ls, b, h⟩ := armLanes_lanes (lanesToTry s) s
  rw [h]

/-- What the source declared outlasts the start of an episode. -/
theorem startEpisode_source (r : Nat) (s : State) : (startEpisode r s).link.source = s.link.source := by
  unfold startEpisode
  obtain ⟨ls, b, dropped⟩ := dropLanes_link (restoreLanes (linkDown s))
  obtain ⟨ls', b', restored⟩ := restoreLanes_link (linkDown s)
  extract_lets d
  have kept : d.link.source = s.link.source := by rw [dropped, restored, linkDown_link]
  clear_value d
  rw [trainReq_source]
  exact kept

/-- In DETECT the source's CAPS is kept and starts BITLOCK. -/
theorem takeCaps_detect (c : SourceCaps) {s : State} (h : s.link.phase = .detect) :
    (takeCaps c s).link.phase = .bitlock ∧ (takeCaps c s).link.source = some c := by
  unfold takeCaps
  dsimp only
  rw [if_pos h]
  exact ⟨(startEpisode_link ..).1, startEpisode_source ..⟩

theorem exec_caps_request {s : State} {f : AuxFrame} (fresh : freshRequest s f 0 = true) (caps : f.payload.headD 0 = 1) :
    exec (.caps f) s = .next (auxReply f (0 :: capsMessage (auxHeard s)) (takeCaps (capsOf f.payload) (auxHeard s))) := by
  show execCaps f s = _
  unfold execCaps linkRequest linkMessage
  rw [if_neg (by simp [auxIsAnswer_of_fresh fresh]), if_neg (not_not_intro (auxChannel_of_fresh fresh)), auxRequest_fresh fresh, caps]
  rfl

theorem exec_caps_answer {s : State} {f : AuxFrame} (answers : answersWaiting s f = true) :
    exec (.caps f) s = .next (takeAnswer f s) := by
  show execCaps f s = _
  unfold execCaps
  rw [if_pos (auxIsAnswer_of_answersWaiting answers)]

theorem takeReply_caps {r : AuxReq} {m : List Nat} (s : State) (channel : r.channel = 0) (asked : r.payload.headD 0 = 1) :
    takeReply r (1 :: m) s = takeCaps (capsOf (1 :: m)) s := by
  unfold takeReply
  rw [if_neg (not_not_intro channel), if_pos ⟨rfl, asked⟩]

/-! ### Requests of the KL8640 (R129) -/

/-- The first request of a channel that none waits for is the one that joins the queue now. -/
theorem auxTake_joined {s : State} {r : AuxReq} (alone : (s.aux.queue.all fun q => q.channel != r.channel) = true) :
    ∃ t, auxTake r.channel { s with aux.queue := s.aux.queue ++ [r] } = some (r, t)
      ∧ t.aux.nextId = s.aux.nextId ∧ t.now = s.now := by
  have earlier : s.aux.queue.find? (fun q => q.channel == r.channel) = none := by
    rw [List.find?_eq_none]
    intro q hq
    simpa using List.all_eq_true.1 alone q hq
  refine ⟨{ s with aux.queue := (s.aux.queue ++ [r]).erase r }, ?_, rfl, rfl⟩
  unfold auxTake
  simp only [List.find?_append, earlier, Option.none_or, List.find?_singleton, beq_self_eq_true, if_true, Option.map_some]

/-- A message on channel 0 leaves at once where no request awaits its answer and none waits before it. -/
theorem auxPush_sends {s : State} {m : List Nat} (awake : auxAwake s = true) (free : s.aux.waiting = none)
    (first : (s.aux.queue.all fun q => q.channel != 0) = true) :
    (auxPush 0 m s).aux.waiting = some (s.aux.nextId, ⟨0, m⟩, 1) ∧ (auxPush 0 m s).aux.sentAt = s.now := by
  obtain ⟨t, takes, next, now⟩ := auxTake_joined (r := ⟨0, m⟩) first
  have leaves : auxNext { s with aux.queue := s.aux.queue ++ [⟨0, m⟩] } = some (⟨0, m⟩, t) := by
    unfold auxNext
    simp only [takes, Option.some_or]
  have ready : (s.aux.waiting.isSome || !auxAwake { s with aux.queue := s.aux.queue ++ [⟨0, m⟩] }) = false := by
    rw [free, show auxAwake { s with aux.queue := s.aux.queue ++ [⟨0, m⟩] } = true from awake]
    rfl
  unfold auxPush auxPump
  simp only [ready, leaves, Bool.false_eq_true, if_false, incWrap_aux, next, now, and_self]

theorem exec_capsResendTimer {s : State} (h : s.link.phase = .detect) (free : s.aux.waiting = none)
    (first : (s.aux.queue.all fun q => q.channel != 0) = true) : exec .capsResendTimer s = .next (auxPush 0 (capsMessage s) s) := by
  have alone : (s.aux.queue.any fun q => q.channel == 0) = false := by
    rw [List.any_eq_false]
    intro q hq
    simpa using List.all_eq_true.1 first q hq
  have idle : awaiting s 1 = false := by
    unfold awaiting
    rw [free]
  show execCapsResendTimer s = _
  unfold execCapsResendTimer
  rw [if_neg (not_not_intro h), idle, alone]
  rfl

/-! ### EQREQ (R92, R93) -/

/-- EQ_ACK with the attempt and the lanes that EQ_SET named. -/
theorem takeReply_eqAck {r : AuxReq} {s : State} {a : Nat} (channel : r.channel = 0) (asked : r.payload.headD 0 = 3) :
    takeReply r (4 :: a :: sub r.payload 2 2) s = takeEqAck a s := by
  have lanes : sub (4 :: a :: sub r.payload 2 2) 2 2 = sub r.payload 2 2 := by
    unfold sub
    rw [List.drop_succ_cons, List.drop_succ_cons, List.drop_zero, List.take_take, Nat.min_self]
  unfold takeReply
  rw [if_neg (not_not_intro channel), if_neg (by simp), if_pos ⟨rfl, asked, lanes⟩]
  rfl

theorem measureWeak_lanes (rs : List LaneReport) (n : Nat) (s : State) : LanesOnly s (measureWeak rs n s).2 := by
  unfold measureWeak
  split
  · exact .refl s
  · split
    · exact .refl s
    · split
      · exact .refl s
      · extract_lets l c m
        dsimp only
        exact .showLane n (.setLane ..)

theorem keepBest_preset (rs : List LaneReport) (n : Nat) (s : State) : (keepBest rs n s).link.eq.preset = s.link.eq.preset := by
  obtain ⟨ls, b, measured⟩ := measureWeak_lanes rs n s
  have same : (measureWeak rs n s).2.link.eq.preset = s.link.eq.preset := by rw [measured]
  unfold keepBest
  dsimp only
  split
  · exact same
  · split <;> exact same

/-- The measurements leave the procedure at its preset. -/
theorem keepAll_preset (rs : List LaneReport) (s : State) : (keepAll rs s).link.eq.preset = s.link.eq.preset := by
  unfold keepAll
  exact List.foldlRecOn (motive := fun t : State => t.link.eq.preset = s.link.eq.preset) _ _ rfl
    fun t ht n _ => (keepBest_preset rs n t).trans ht

theorem sendEqSet_link (other : List Nat) (unknown : Bool) (s : State) :
    (sendEqSet other unknown s).link = { s.link with eq := { s.link.eq with acked := false } } := by
  unfold sendEqSet
  rw [auxPush_link]

/-- A preset is tried: EQ_SET leaves, and its EQ_ACK is awaited. -/
theorem tryPreset_eq (p : Nat) (s : State) : (tryPreset p s).link.eq.preset = p ∧ (tryPreset p s).link.eq.acked = false := by
  unfold tryPreset
  rw [sendEqSet_link]
  exact ⟨rfl, rfl⟩

theorem exec_eqMeasurementDone {s : State} {rs : List LaneReport} (h : s.link.phase = .eqreq) (acked : s.link.eq.acked = true)
    (more : s.link.eq.preset < 7) : exec (.eqMeasurementDone rs) s
      = .next (tryPreset (s.link.eq.preset + 1) (keepAll rs (advanceTo (s.link.eq.ackedAt + 200 * tickUs) s))) := by
  have preset := keepAll_preset rs (advanceTo (s.link.eq.ackedAt + 200 * tickUs) s)
  rw [advanceTo_link] at preset
  show execEqMeasurementDone rs s = _
  unfold execEqMeasurementDone
  rw [if_neg (by simp [h, acked])]
  dsimp only
  rw [preset, if_pos more]

/-! ### The lanes of a VERIFY window (R95) -/

theorem lanes_wf_of_link {s t : State} (e : t.link = s.link) (h : mwf {} s.link.lanes = true) : mwf {} t.link.lanes = true := e ▸ h

theorem setLane_wf (n : Nat) (x : LaneSt) {s : State} (h : mwf {} s.link.lanes = true) : mwf {} (setLane n x s).link.lanes = true :=
  mwf_mput _ _ _ _ h

theorem lane_of_link {s t : State} (e : t.link = s.link) (k : Nat) : lane t k = lane s k := by
  unfold lane
  rw [e]

/-- Where each step of a run over lanes changes its own lane alone, every lane of the run has changed once, and no other. -/
theorem lane_foldl {g : State → Nat → State} {f : Nat → LaneSt → LaneSt}
    (wf : ∀ t n, mwf {} t.link.lanes = true → mwf {} (g t n).link.lanes = true)
    (own : ∀ t n k, mwf {} t.link.lanes = true → lane (g t n) k = if k = n then f n (lane t n) else lane t k) :
    ∀ (l : List Nat), l.Nodup → ∀ s : State, mwf {} s.link.lanes = true →
      mwf {} (l.foldl g s).link.lanes = true ∧ ∀ k, lane (l.foldl g s) k = if k ∈ l then f k (lane s k) else lane s k
  | [], _, s, h => ⟨h, fun k => by simp⟩
  | n :: l, distinct, s, h => by
    obtain ⟨absent, distinct⟩ := List.nodup_cons.1 distinct
    obtain ⟨h', rest⟩ := lane_foldl wf own l distinct (g s n) (wf s n h)
    refine ⟨h', fun k => ?_⟩
    rw [List.foldl_cons, rest, own s n k h]
    by_cases here : k = n
    · subst here; simp [absent]
    · simp [here]

/-- What a lane's VERIFY window shows. -/
def windowOf (rs : List LaneReport) (n : Nat) (x : LaneSt) : VerifyLane := match reportOf rs n with
  | some r => verifyBlocks x.source x.inverted r.blocks
  | none => {}

/-- A lane after its VERIFY window. -/
def verified (rs : List LaneReport) (n : Nat) (x : LaneSt) : LaneSt :=
  let y := { x with scr := (windowOf rs n x).scr.getD x.scr }
  if verifyPassed (windowOf rs n x) then y else { y with tried := false, weak := false, failedIn := 5 }

theorem passesWindow_eq (s : State) (rs : List LaneReport) (n : Nat) : passesWindow s rs n = verifyPassed (windowOf rs n (lane s n)) := by
  unfold passesWindow windowOf
  cases reportOf rs n <;> rfl

/-- A lane stays in the training where it passes its window. -/
theorem verified_tried (rs : List LaneReport) (n : Nat) (x : LaneSt) :
    (verified rs n x).tried = (x.tried && verifyPassed (windowOf rs n x)) := by
  unfold verified
  cases verifyPassed (windowOf rs n x) <;> simp

theorem verifyLane_eq (rs : List LaneReport) (n : Nat) (s : State) : verifyLane rs n s =
    let t := incSat (hLANE n) Par.LANE_BLOCK_ERRORS (windowOf rs n (lane s n)).errors
      (setLane n { lane s n with scr := (windowOf rs n (lane s n)).scr.getD (lane s n).scr } s)
    if verifyPassed (windowOf rs n (lane s n)) then t else excludeFrom 5 n t := by
  unfold verifyLane windowOf
  rfl

theorem verifyLane_lanes (rs : List LaneReport) (n : Nat) (s : State) : LanesOnly s (verifyLane rs n s) := by
  rw [verifyLane_eq]
  have counted := (LanesOnly.setLane n { lane s n with scr := (windowOf rs n (lane s n)).scr.getD (lane s n).scr } s).trans
    (.of_eq (incSat_link (h := hLANE n) (p := Par.LANE_BLOCK_ERRORS) (n := (windowOf rs n (lane s n)).errors)))
  dsimp only
  split
  · exact counted
  · exact counted.trans (excludeFrom_lanes ..)

theorem verifyLane_wf (rs : List LaneReport) (n : Nat) {s : State} (h : mwf {} s.link.lanes = true) :
    mwf {} (verifyLane rs n s).link.lanes = true := by
  rw [verifyLane_eq]
  dsimp only
  split
  · exact lanes_wf_of_link incSat_link (setLane_wf _ _ h)
  · exact setLane_wf _ _ (lanes_wf_of_link incSat_link (setLane_wf _ _ h))

/-- A window changes its own lane alone. -/
theorem lane_verifyLane (rs : List LaneReport) (n k : Nat) {s : State} (h : mwf {} s.link.lanes = true) :
    lane (verifyLane rs n s) k = if k = n then verified rs n (lane s n) else lane s k := by
  rw [verifyLane_eq]
  unfold verified
  dsimp only
  split
  · rw [lane_of_link incSat_link, lane_setLane _ _ _ _ h]
  · unfold excludeFrom
    rw [lane_setLane _ _ _ _ (lanes_wf_of_link incSat_link (setLane_wf _ _ h)), lane_of_link incSat_link, lane_of_link incSat_link,
      lane_setLane _ _ _ _ h, lane_setLane _ _ _ _ h, if_pos rfl]
    split <;> rfl

theorem lanesIn_nodup (s : State) : (lanesIn s).Nodup := List.nodup_range.filter _

/-- The lanes of the training whose windows pass are those that stay in it. -/
theorem lanesIn_afterWindows (rs : List LaneReport) {s : State} (h : mwf {} s.link.lanes = true) :
    lanesIn ((lanesIn s).foldl (fun s n => verifyLane rs n s) s) = (lanesIn s).filter fun n => passesWindow s rs n := by
  obtain ⟨-, lanes⟩ := lane_foldl (f := verified rs) (fun t n w => verifyLane_wf rs n w) (fun t n k w => lane_verifyLane rs n k w)
    (lanesIn s) (lanesIn_nodup s) s h
  generalize (lanesIn s).foldl (fun s n => verifyLane rs n s) s = t at lanes
  unfold lanesIn at lanes ⊢
  rw [List.filter_filter]
  refine List.filter_congr fun k hk => ?_
  rw [lanes, passesWindow_eq]
  cases tried : (lane s k).tried with
  | true => rw [if_pos (List.mem_filter.2 ⟨hk, tried⟩), verified_tried, tried, Bool.true_and, Bool.and_true]
  | false => rw [if_neg (fun m => by simp [tried] at m), tried, Bool.and_false]

/-! ### The active lanes (R96) -/

theorem endLane_wf (act : List Nat) (n : Nat) {s : State} (h : mwf {} s.link.lanes = true) :
    mwf {} (endLane act n s).link.lanes = true := by
  unfold endLane
  extract_lets x u c a b
  split
  · exact lanes_wf_of_link changeRes_link (setLane_wf _ _ h)
  · have told : mwf {} b.link.lanes = true := lanes_wf_of_link raise_link (lanes_wf_of_link (setRes_link ..) (setLane_wf _ _ h))
    split
    · exact told
    · exact lanes_wf_of_link (raise_link.trans ((fellRecord_only ..).same .link rfl)) (setLane_wf _ _ told)

theorem endEpisode_wf (act : List Nat) {s : State} (h : mwf {} s.link.lanes = true) : mwf {} (endEpisode act s).link.lanes = true := by
  unfold endEpisode
  split
  · exact h
  · exact List.foldlRecOn (motive := fun t : State => mwf {} t.link.lanes = true) _ _ h fun t ht n _ => endLane_wf act n ht

/-- A lane as the link goes ACTIVE with the lanes `act`. -/
def activated (act : List Nat) (n : Nat) (x : LaneSt) : LaneSt :=
  { x with active := act.contains n, excluded := x.excluded && !act.contains n }

theorem lanesActive_of_lanes {s t : State} (e : t.link.lanes = s.link.lanes) : lanesActive t = lanesActive s := by
  unfold lanesActive lane
  rw [e]

theorem lanesActive_activateLanes (act : List Nat) (carries : Bool) {s : State} (h : mwf {} s.link.lanes = true) :
    lanesActive (activateLanes act carries s) = (List.range 16).filter fun n => act.contains n := by
  obtain ⟨-, lanes⟩ := lane_foldl (g := fun s n => setLane n (activated act n (lane s n)) s) (f := activated act)
    (fun t n w => setLane_wf _ _ w) (fun t n k w => lane_setLane n k _ t w) (List.range 16) List.nodup_range s h
  have made : (activateLanes act carries s).link.lanes
      = ((List.range 16).foldl (fun s n => setLane n (activated act n (lane s n)) s) s).link.lanes := by
    unfold activateLanes activated
    dsimp only
  rw [lanesActive_of_lanes made]
  unfold lanesActive
  refine List.filter_congr fun k hk => ?_
  rw [lanes, if_pos hk]
  rfl

/-- The link goes ACTIVE with the lanes given. -/
theorem lanesActive_goActive (p : Nat → Bool) (carries : Bool) {s : State} (h : mwf {} s.link.lanes = true) :
    lanesActive (goActive ((List.range 16).filter p) carries s) = (List.range 16).filter p := by
  unfold goActive
  have told := (tellActive_only ((List.range 16).filter p)
    (setPhase .active (activateLanes ((List.range 16).filter p) carries (endEpisode ((List.range 16).filter p) s)))).same .link rfl
  rw [lanesActive_of_lanes (congrArg (·.lanes) told), lanesActive_of_lanes (congrArg (·.lanes) (setPhase_link ..)),
    lanesActive_activateLanes _ _ (endEpisode_wf _ h)]
  refine List.filter_congr fun k hk => ?_
  cases hp : p k <;> simp [hk, hp]

/-! ### The decision of R97 -/

theorem modeNow_of_only {ps : List Part} {s t : State} (h : Only ps s t) (h1 : ps.contains .config = false)
    (h2 : ps.contains .storeState = false) (h3 : ps.contains .store = false) : modeNow t = modeNow s := by
  unfold modeNow
  simp only [cfgI_of_only h h1 h2 h3]

theorem sharedClock_of_only {ps : List Part} {s t : State} (h : Only ps s t) (h1 : ps.contains .config = false)
    (h2 : ps.contains .storeState = false) (h3 : ps.contains .store = false) : sharedClock t = sharedClock s := by
  unfold sharedClock
  rw [cfg_of_only h h1 h2 h3]

/-- With lanes that carry the mode, or with any after the final training, the link goes ACTIVE. -/
theorem afterVerify_goesActive {act : List Nat} {s : State} (through : act ≠ [])
    (h : s.link.final = true ∨ linkFits (modeNow s) (sharedClock s) act.length s.link.rate = true) :
    ∃ carries, afterVerify act s = goActive act carries s := by
  unfold afterVerify
  by_cases final : s.link.final = true
  · exact ⟨false, by rw [if_pos final, if_neg through]⟩
  · exact ⟨true, by rw [if_neg final, if_pos (h.resolve_left final)]⟩

/-- The state of a VERIFY window that has ended, its lanes judged, before the decision. -/
def windowEnded (rs : List LaneReport) (s : State) : State :=
  (lanesIn s).foldl (fun s n => verifyLane rs n s) (advanceTo (s.link.since + tickMs) s)

theorem windowEnded_only (rs : List LaneReport) (s : State) : Only [.now, .results, .link] s (windowEnded rs s) := by
  unfold windowEnded
  exact Only.foldl (fun t n ht => (verifyLane_only rs n t).step (by decide) ht) _ _ ((advanceTo_only ..).mono rfl)

theorem windowEnded_lanes (rs : List LaneReport) (s : State) : LanesOnly s (windowEnded rs s) := by
  unfold windowEnded
  exact LanesOnly.trans (.of_eq (advanceTo_link ..)) (.foldl (fun t n => verifyLane_lanes rs n t) _ _)

theorem windowEnded_wf (rs : List LaneReport) {s : State} (h : mwf {} s.link.lanes = true) :
    mwf {} (windowEnded rs s).link.lanes = true := by
  unfold windowEnded
  exact List.foldlRecOn (motive := fun t : State => mwf {} t.link.lanes = true) _ _ h fun t ht n _ => verifyLane_wf rs n ht

theorem lanesIn_windowEnded (rs : List LaneReport) {s : State} (h : mwf {} s.link.lanes = true) :
    lanesIn (windowEnded rs s) = (lanesIn s).filter fun n => passesWindow s rs n :=
  lanesIn_afterWindows rs (s := advanceTo (s.link.since + tickMs) s) h

theorem exec_verifyWindowEnd {s : State} {rs : List LaneReport} (h : s.link.phase = .verify) :
    ∃ best, exec (.verifyWindowEnd rs) s = .next (afterVerify (lanesIn (windowEnded rs s)) { windowEnded rs s with link.best := best }) := by
  refine ⟨betterPayload (windowEnded rs s).link.best (lanesIn (windowEnded rs s)).length (windowEnded rs s).link.rate, ?_⟩
  show execVerifyWindowEnd rs s = _
  unfold execVerifyWindowEnd
  rw [if_neg (not_not_intro h)]
  rfl

/-- A VERIFY window that lanes pass which carry the mode, or that ends the final training. -/
theorem verifyWindowEnd_activates {s : State} {rs : List LaneReport} (h : s.link.phase = .verify) (wf : mwf {} s.link.lanes = true)
    (through : ((lanesIn s).filter fun n => passesWindow s rs n) ≠ [])
    (fits : s.link.final = true
      ∨ linkFits (modeNow s) (sharedClock s) ((lanesIn s).filter fun n => passesWindow s rs n).length s.link.rate = true) :
    ∃ t, exec (.verifyWindowEnd rs) s = .next t ∧ t.link.phase = .active ∧ t.link.failures = 0
      ∧ lanesActive t = (lanesIn s).filter fun n => passesWindow s rs n := by
  obtain ⟨best, ends⟩ := exec_verifyWindowEnd (rs := rs) h
  have only := windowEnded_only rs s
  have wf' := windowEnded_wf rs wf
  have act := lanesIn_windowEnded rs wf
  obtain ⟨ls, b, link⟩ := windowEnded_lanes rs s
  rw [act] at ends
  obtain ⟨carries, active⟩ := afterVerify_goesActive (s := { windowEnded rs s with link.best := best }) through (by
    refine fits.imp (fun final => ?_) fun fit => ?_
    · show (windowEnded rs s).link.final = true
      rw [link, final]
    · show linkFits (modeNow (windowEnded rs s)) (sharedClock (windowEnded rs s)) _ (windowEnded rs s).link.rate = true
      rw [modeNow_of_only only rfl rfl rfl, sharedClock_of_only only rfl rfl rfl, link]
      exact fit)
  rw [active] at ends
  obtain ⟨phase, failures⟩ := goActive_link ((lanesIn s).filter fun n => passesWindow s rs n) carries
    { windowEnded rs s with link.best := best }
  refine ⟨_, ends, phase, failures, ?_⟩
  unfold lanesIn
  rw [List.filter_filter]
  exact lanesActive_goActive _ _ wf'

/-- Settles O15: a message of the source is heard and then taken, which starts BITLOCK from DETECT and the measurement in EQREQ; the lanes
that pass their windows are those that stay in the training, and become active. -/
theorem trainingMessages : Obligations.TrainingMessages := by
  unfold Obligations.TrainingMessages
  intro s
  refine ⟨fun f phase fresh caps => ⟨_, exec_caps_request fresh caps, ?_⟩, fun f m id r n phase answers waits channel asked taken => ?_,
    fun phase free first => ⟨_, exec_capsResendTimer phase free first, auxPush_sends (by simp [auxAwake, phase]) free first⟩,
    fun f id r n phase answers waits channel asked taken _ => ?_, fun rs phase acked more => ⟨_, exec_eqMeasurementDone phase acked more, ?_⟩,
    fun rs phase wf through fits => verifyWindowEnd_activates phase wf through fits⟩
  · rw [auxReply_link]
    exact takeCaps_detect _ ((auxHeard_phase s).trans phase)
  · refine ⟨_, (exec_caps_answer answers).trans (congrArg Host.Outcome.next (takeAnswer_taken answers waits taken)), ?_⟩
    rw [auxPump_link, takeReply_caps _ channel asked]
    exact takeCaps_detect _ (by rw [replied_link (by simp [phase])]; exact phase)
  · refine ⟨_, congrArg Host.Outcome.next (takeAnswer_taken answers waits taken), ?_⟩
    rw [auxPump_link, takeReply_eqAck channel asked]
    unfold takeEqAck
    rw [if_pos (by rw [replied_link (by simp [phase])]; exact ⟨phase, rfl⟩), replied_now]
    exact ⟨rfl, rfl⟩
  · obtain ⟨preset, waits⟩ := tryPreset_eq (s.link.eq.preset + 1) (keepAll rs (advanceTo (s.link.eq.ackedAt + 200 * tickUs) s))
    exact ⟨preset, waits, ((tryPreset_only ..).same .now rfl).trans ((keepAll_only ..).same .now rfl)⟩

end Sys2Proof.Machine
end

section
/-! SUPPORT. Electrical idle and the upkeep of an ACTIVE link (03, R89, R94, R101 to R103): when the link goes idle and leaves it, what the
elastic buffer follows, and what a margin check keeps. -/

set_option Elab.async false

namespace Sys2Proof.Machine

/-! ### Electrical idle (R101 to R103) -/

/-- The link goes idle as every active lane has its IDLE blocks; FAST_EXIT is taken as it stands (R106). -/
theorem idleColumn_goesIdle {s : State} {received : Nat} (active : s.link.phase = .active)
    (all : ∀ n ∈ lanesActive s, received.testBit n = true) :
    ∃ t, exec (.idleColumn received) s = .next t ∧ t.link.phase = .idle ∧ t.link.idleAt = s.now
      ∧ t.link.fastExit = cfgB s hLINK Par.LINK_FAST_EXIT := by
  refine ⟨setPhase .idle { linkDown s with link.idleAt := s.now, link.fastExit := cfgB s hLINK Par.LINK_FAST_EXIT }, ?_, ?_⟩
  · show execIdleColumn received s = _
    unfold execIdleColumn
    rw [if_pos ⟨active, List.all_eq_true.2 all⟩]
  · rw [setPhase_link]
    exact ⟨rfl, rfl, rfl⟩

theorem idlePowerDown_powersDown {s : State} (idle : s.link.phase = .idle) (powered : s.link.powered = true) :
    ∃ t, exec .idlePowerDown s = .next t ∧ t.link.powered = false ∧ t.link.phase = .idle ∧ t.now = max s.now (s.link.idleAt + tickMs) := by
  obtain ⟨ls, b, kept⟩ := keepSnapshots_lanes (advanceTo (s.link.idleAt + tickMs) s)
  have phase : (keepSnapshots (advanceTo (s.link.idleAt + tickMs) s)).link.phase = .idle := by rw [kept]; exact idle
  have now : (keepSnapshots (advanceTo (s.link.idleAt + tickMs) s)).now = max s.now (s.link.idleAt + tickMs) :=
    (keepSnapshots_only ..).same .now rfl
  refine ⟨{ keepSnapshots (advanceTo (s.link.idleAt + tickMs) s) with link.powered := false }, ?_, rfl, phase, now⟩
  show execIdlePowerDown s = _
  unfold execIdlePowerDown
  rw [if_neg (by simp [idle, powered])]

theorem lanesActive_lt {s : State} {n : Nat} (h : n ∈ lanesActive s) : n < 16 := List.mem_range.1 (List.mem_filter.1 h).1

/-- A fast exit on which no lane fails leads to ACTIVE, with no attempt of a training (R102, R103). -/
theorem exec_fastExit {s : State} {failed : Nat} (idle : s.link.phase = .idle) (quick : fastExitOk s = true)
    (sound : ∀ n < 16, failed.testBit n = false) :
    exec (.fastExit failed) s = .next (incWrap hLINK Par.LINK_FAST_EXITS 1 (setPhase .active (restoreLanes s))) := by
  have bad : (lanesActive (restoreLanes s)).filter (fun n => failed.testBit n) = [] :=
    List.filter_eq_nil_iff.2 fun n h => by simp [sound n (lanesActive_lt h)]
  show execFastExit failed s = _
  unfold execFastExit
  rw [if_neg (by simp [idle, quick])]
  dsimp only
  rw [bad]
  rfl

/-- Settles O16: each command leads where its guard is met; a fast exit restores the lanes and passes to ACTIVE, with no episode begun. -/
theorem idleEntryAndExit : Obligations.IdleEntryAndExit := by
  unfold Obligations.IdleEntryAndExit
  intro s
  refine ⟨fun received active all => idleColumn_goesIdle active all, fun idle powered => idlePowerDown_powersDown idle powered,
    fun failed idle quick sound => ⟨_, exec_fastExit idle quick sound, ?_⟩⟩
  obtain ⟨ls, b, restored⟩ := restoreLanes_link s
  rw [incWrap_link, setPhase_link, restored]
  exact ⟨rfl, rfl, rfl⟩

/-! ### The elastic buffer (R89) -/

/-- The columns of an elastic buffer that has drifted to `n`, after the column deleted or inserted. -/
def levelled (n : Nat) : Nat := if 6 ≤ n then n - 1 else if n ≤ 2 then n + 1 else n

theorem fillerColumn_levels {s : State} {drift : Int} {n : Nat} (active : s.link.phase = .active) (apart : sharedClock s = false)
    (drifted : (s.link.elastic : Int) + drift = n) (low : 1 ≤ n) (high : n ≤ 7) :
    ∃ t, exec (.fillerColumn drift) s = .next t ∧ t.link = { s.link with elastic := levelled n } := by
  have within : (clampI ((s.link.elastic : Int) + drift) 0 8).toNat = n := by
    unfold clampI
    rw [drifted, if_neg (by omega), if_neg (by omega), Int.toNat_natCast]
  refine ⟨_, rfl, ?_⟩
  rw [if_neg (by simp [active, apart])]
  dsimp only
  rw [within, if_neg (by omega)]
  unfold levelled
  split
  · rw [incWrap_link]
  · split
    · rw [incWrap_link]
    · rfl

/-! ### The margin check (R94) -/

/-- A lane after a margin check, `least` being EQ_MARGIN_MIN. -/
def margined (least m : Nat) (x : LaneSt) : LaneSt := { x with margin := m, low := if m < least then x.low + 1 else 0 }

/-- The state once a lane's margin is kept and shown. -/
def marginKept (n m : Nat) (s : State) : State :=
  changeRes (hLANE n) Par.LANE_MARGIN m (setLane n (margined (cfg s hLINK Par.LINK_EQ_MARGIN_MIN) m (lane s n)) s)

theorem lane_marginKept (n m : Nat) {s : State} (wf : mwf {} s.link.lanes = true) :
    lane (marginKept n m s) n = margined (cfg s hLINK Par.LINK_EQ_MARGIN_MIN) m (lane s n) := by
  unfold marginKept
  rw [lane_of_link changeRes_link, lane_setLane _ _ _ _ wf, if_pos rfl]

theorem marginKept_retrain (n m : Nat) (s : State) : (marginKept n m s).link.retrainAtBoundary = s.link.retrainAtBoundary := by
  unfold marginKept
  rw [changeRes_link]
  rfl

theorem exec_laneMarginCheck {s : State} {n m : Nat} (active : s.link.phase = .active) (used : (lane s n).active = true) :
    exec (.laneMarginCheck [(n, m)]) s = .next (if (margined (cfg s hLINK Par.LINK_EQ_MARGIN_MIN) m (lane s n)).low = 3 then
      raise 0x010B (hLANE n) [n, m] { marginKept n m s with link.retrainAtBoundary := true } else marginKept n m s) := by
  show execLaneMarginCheck [(n, m)] s = _
  unfold execLaneMarginCheck
  rw [if_neg (not_not_intro active), List.foldl_cons, List.foldl_nil]
  dsimp only
  rw [if_neg (by simp [used])]
  rfl

/-- The third low margin in a row asks for a retrain, and nothing else of a margin check does. -/
theorem laneMarginCheck_keeps {s : State} {n m : Nat} (active : s.link.phase = .active) (used : (lane s n).active = true)
    (wf : mwf {} s.link.lanes = true) :
    ∃ t, exec (.laneMarginCheck [(n, m)]) s = .next t ∧ lane t n = margined (cfg s hLINK Par.LINK_EQ_MARGIN_MIN) m (lane s n)
      ∧ ((lane t n).low = 3 → t.link.retrainAtBoundary = true)
      ∧ ((lane t n).low ≠ 3 → t.link.retrainAtBoundary = s.link.retrainAtBoundary) := by
  have kept := lane_marginKept n m wf
  refine ⟨_, exec_laneMarginCheck active used, ?_⟩
  split
  · have told : lane (raise 0x010B (hLANE n) [n, m] { marginKept n m s with link.retrainAtBoundary := true }) n
        = margined (cfg s hLINK Par.LINK_EQ_MARGIN_MIN) m (lane s n) := (lane_of_link raise_link n).trans kept
    rw [told, raise_link]
    exact ⟨rfl, fun _ => rfl, fun h => absurd ‹_› h⟩
  · rw [kept]
    exact ⟨rfl, fun h => absurd h ‹_›, fun _ => marginKept_retrain n m s⟩

/-- Settles O17: the drift stays within the buffer, so that no limit is met; a margin check writes its own lane, and counts it low or not. -/
theorem linkUpkeep : Obligations.LinkUpkeep := by
  unfold Obligations.LinkUpkeep
  intro s active
  refine ⟨fun drift n apart drifted low high => ?_, fun n m used wf => ?_⟩
  · obtain ⟨t, step, link⟩ := fillerColumn_levels active apart drifted low high
    exact ⟨t, step, by rw [link]; exact active, by rw [link]; rfl⟩
  · obtain ⟨t, step, kept, third, other⟩ := laneMarginCheck_keeps (m := m) active used wf
    exact ⟨t, step, by rw [kept]; rfl, by rw [kept]; rfl, third, other⟩

end Sys2Proof.Machine
end

section
/-! SUPPORT. PORT_RETRAIN over a configuration out of order (02, 10, R264): a cell behind a greater one does not read as what is in force, until
a write takes the greater cell away. -/

set_option Elab.async false

namespace Sys2Proof.Machine

/-- RUN, with port 0 stopped, and with the configuration's cells out of order: element 0 of PORT_ENABLE, which is 0, stands behind RETRAIN of
port 0 and so reads as its default, in which port 0 is enabled. -/
def unorderedState : State := { State.reset with
  power.phase := .up, power.state := .run, stag.running := true, ctrl.host.enabled := true, ctrl.host.level := 2
  out.ports := [(0, { stopped := true })]
  dict.cfg := [(cell (hPORT 0) Par.PORT_RETRAIN 0, 1), (cell hOUTPUT Par.OUTPUT_PORT_ENABLE 0, 0)] }

def unorderedHdr : Hdr := ⟨.host, 0, none⟩

/-- The write of the default of RETRAIN, which takes its cell away. -/
abbrev unorderedReq : Req := mkWrite unorderedHdr (hPORT 0) Par.PORT_RETRAIN (u16 0)

theorem unorderedState_accepts : unorderedState.accepts unorderedReq = true := by decide +kernel
theorem unorderedState_enabled : portEnabled unorderedState 0 = true := by decide +kernel
theorem unorderedState_retrain_phase : (oport (arrive unorderedReq unorderedState) 0).phase = .idle := by decide +kernel

/-- Refutes O53, in its clause of PORT_RETRAIN, which does not ask for the canonical form: the write of 0 takes the cell of RETRAIN away
before the port is looked at, and the cell behind it then says that the port is not enabled. -/
theorem not_linkAndMapRequests : ¬ Obligations.LinkAndMapRequests := by
  unfold Obligations.LinkAndMapRequests
  intro h
  obtain ⟨-, retrain, -⟩ := h unorderedState unorderedHdr 0 (by decide)
  obtain ⟨starts, -⟩ := retrain 0 (by decide) unorderedState_accepts
  obtain ⟨t, step, phase, -⟩ := starts (.inl rfl) unorderedState_enabled rfl (.inl rfl) (by decide)
  obtain rfl : arrive unorderedReq unorderedState = t := Host.Outcome.next.inj step
  exact absurd (phase.symm.trans unorderedState_retrain_phase) (by decide)

end Sys2Proof.Machine
end

section
/-! SUPPORT. Requests of the KL8640 sent again on the AUX pair (04, R126 to R128, R105): in its turn after NOT_TAKEN or DEFER, after 50 µs where
an attempt stays without its answer, and not again after the third. -/

set_option Elab.async false

namespace Sys2Proof.Machine

/-! ### A count that goes up -/

/-- A write of a value other than the default moves no other key, whether the map is in order or not. -/
theorem mget_mput_nondefault_other {α : Type} [DecidableEq α] {d v : α} {k j : Nat} (hv : v ≠ d) (hj : j ≠ k) (m : NMap α) :
    mget d (mput d m k v) j = mget d m j := by
  induction m with
  | nil => simp [mput, mget, hv, hj]
  | cons e m ih =>
    obtain ⟨k', v'⟩ := e
    unfold mput
    split
    · subst k'
      simp only [mget, hj, if_false]
    · split
      · by_cases below : j < k
        · rw [mget_head_lt d _ j k v below, mget_head_lt d m j k' v' (by omega)]
        · simp only [mget, hj, below, if_false]
      · simp only [mget, ih]

/-- A counter that goes up moves no other result. -/
theorem res_incSat_apart {h p n h' p' i' : Nat} (apart : cell h' p' i' ≠ cell h p 0) (s : State) :
    res (incSat h p n s) h' p' i' = res s h' p' i' := by
  unfold incSat
  split
  · rfl
  · next some_ =>
    have counted : ((min (res s h p + n) max32 : Nat) : Int) ≠ 0 := by
      have : 0 < max32 := by decide
      omega
    unfold res resI
    exact congrArg Int.toNat (mget_mput_nondefault_other counted apart s.dict.res)

/-- A frame whose check fails is no unanswered attempt. -/
theorem res_auxBroken_unanswered (s : State) : res (auxBroken s) hAUX Par.AUX_UNANSWERED = res s hAUX Par.AUX_UNANSWERED :=
  res_incSat_apart (by decide) s

theorem auxAwake_of_phase {s : State} (awake : s.link.phase ≠ .off) : auxAwake s = true := by
  unfold auxAwake
  simpa using awake

/-! ### NOT_TAKEN and DEFER -/

/-- With no request awaiting its answer, one that is put at the front of channel 0 leaves at once, under the next ID. -/
theorem auxPump_front {s : State} {r : AuxReq} (awake : auxAwake s = true) (free : s.aux.waiting = none) (channel : r.channel = 0) :
    (auxPump { s with aux.queue := r :: s.aux.queue }).aux.waiting = some (s.aux.nextId, r, 1)
      ∧ (auxPump { s with aux.queue := r :: s.aux.queue }).aux.sentAt = s.now := by
  have leaves : auxNext { s with aux.queue := r :: s.aux.queue } = some (r, s) := by
    unfold auxNext auxTake
    simp only [List.find?_cons, channel, beq_self_eq_true, Option.map_some, List.erase_cons_head, Option.some_or]
  have ready : (s.aux.waiting.isSome || !auxAwake { s with aux.queue := r :: s.aux.queue }) = false := by
    rw [free, show auxAwake { s with aux.queue := r :: s.aux.queue } = true from awake]
    rfl
  unfold auxPump
  simp only [ready, leaves, Bool.false_eq_true, if_false, incWrap_aux, and_self]

/-- An answer NOT_TAKEN or DEFER to the request that waits puts it at the front of the queue. -/
theorem takeAnswer_putBack {s : State} {f : AuxFrame} {id n : Nat} {r : AuxReq} (answers : answersWaiting s f = true)
    (waits : s.aux.waiting = some (id, r, n)) (refused : f.payload.headD 0 = 1 ∨ f.payload.headD 0 = 2) :
    takeAnswer f s = auxPump { replied s with aux.queue := r :: (replied s).aux.queue } := by
  unfold answersWaiting at answers
  simp only [waits, Bool.and_eq_true, beq_iff_eq] at answers
  obtain ⟨⟨⟨awake, ok⟩, answer⟩, same, channel⟩ := answers
  unfold takeAnswer
  simp only [awake, ok, answer, waits, same, channel, Bool.not_true, Bool.false_eq_true, if_false, ne_eq, not_true_eq_false, or_self]
  obtain status | status := refused
  · rw [status]
    rfl
  · rw [status]
    rfl

theorem replied_aux (s : State) : (replied s).aux = { s.aux with waiting := none } := by
  unfold replied auxDone
  rw [changeRes_aux, (auxHeard_only s).same .aux rfl]

theorem replied_phase (s : State) : (replied s).link.phase = s.link.phase := by
  unfold replied auxDone
  rw [changeRes_link, auxHeard_phase]

/-- A message of channel 0 that is not taken leaves again as a new request. -/
theorem takeAnswer_renews {s : State} {f : AuxFrame} {id n : Nat} {r : AuxReq} (awake : s.link.phase ≠ .off)
    (waits : s.aux.waiting = some (id, r, n)) (answers : answersWaiting s f = true) (channel : r.channel = 0)
    (refused : f.payload.headD 0 = 1 ∨ f.payload.headD 0 = 2) :
    (takeAnswer f s).aux.waiting = some (s.aux.nextId, r, 1) ∧ (takeAnswer f s).aux.sentAt = s.now := by
  have ready : auxAwake (replied s) = true := auxAwake_of_phase (by rwa [replied_phase])
  have free : (replied s).aux.waiting = none := by rw [replied_aux]
  obtain ⟨leaves, sent⟩ := auxPump_front ready free channel
  rw [takeAnswer_putBack answers waits refused]
  exact ⟨leaves.trans (by rw [replied_aux]), sent.trans (replied_now s)⟩

/-! ### Attempts without an answer -/

/-- The first two attempts in a row are followed by another, with the same ID, 50 µs later. -/
theorem unansweredAttempt_repeats {s : State} {id n : Nat} {r : AuxReq} (waits : s.aux.waiting = some (id, r, n))
    (few : res s hAUX Par.AUX_UNANSWERED < 2) :
    (unansweredAttempt s).aux.waiting = some (id, r, n + 1) ∧ (unansweredAttempt s).now = s.now + 50 * tickUs := by
  have notThird : ¬(min 3 (res s hAUX Par.AUX_UNANSWERED + 1) = 3 ∧ res s hAUX Par.AUX_UNANSWERED < 3) := by omega
  unfold unansweredAttempt
  simp only [waits, if_neg notThird]
  unfold auxRepeat advanceTo
  simp only [raise_aux, changeRes_aux, waits, incSat_aux, incWrap_aux, incSat_now, incWrap_now, raise_now, changeRes_now, true_and]
  exact Nat.max_eq_right (Nat.le_add_right ..)

/-- The third attempt in a row loses the partner. -/
theorem unansweredAttempt_losesPartner {s : State} {id n : Nat} {r : AuxReq} (waits : s.aux.waiting = some (id, r, n))
    (two : res s hAUX Par.AUX_UNANSWERED = 2) : (unansweredAttempt s).link.phase = .backoff := by
  unfold unansweredAttempt
  simp only [waits, two]
  rw [if_pos (by decide)]
  exact (partnerLost_link ..).1

theorem exec_auxCollision {s : State} {w : Nat × AuxReq × Nat} (awake : s.link.phase ≠ .off) (waits : s.aux.waiting = some w) :
    exec .auxCollision s = .next (unansweredAttempt (auxBroken s)) := by
  show execAuxCollision s = _
  unfold execAuxCollision
  rw [waits, auxAwake_of_phase awake]
  rfl

theorem exec_auxRequestTimeout {s : State} {w : Nat × AuxReq × Nat} (awake : s.link.phase ≠ .off) (waits : s.aux.waiting = some w) :
    exec .auxRequestTimeout s = .next (unansweredAttempt (advanceTo (s.aux.sentAt + tickMs) s)) := by
  show execAuxRequestTimeout s = _
  unfold execAuxRequestTimeout
  rw [waits, auxAwake_of_phase awake]
  rfl

/-! ### Reserved channels -/

/-- A new request on a reserved channel is answered UNKNOWN. -/
theorem exec_auxUnknownChannel {s : State} {f : AuxFrame} (fresh : freshRequest s f (auxChannel f) = true) (reserved : 5 ≤ auxChannel f) :
    exec (.auxUnknownChannel f) s = .next (auxReply f [3] (auxHeard s)) := by
  show execAuxUnknownChannel f s = _
  unfold execAuxUnknownChannel
  rw [if_pos (.inl reserved), auxRequest_fresh fresh]
  unfold otherChannel
  rw [if_pos reserved]

/-- Settles O18: what the source does not take goes back to the front of its channel; a collision and a timeout are both an unanswered attempt,
of which the count decides what follows, and a failed check before it leaves the count alone. -/
theorem sidebandRepeats : Obligations.SidebandRepeats := by
  unfold Obligations.SidebandRepeats
  intro s id n r awake
  refine ⟨fun f waits answers channel refused => ⟨_, rfl, takeAnswer_renews awake waits answers channel refused⟩,
    fun waits few => ⟨_, exec_auxCollision awake waits, ?_⟩, fun waits few => ⟨_, exec_auxRequestTimeout awake waits, ?_⟩,
    fun waits two => ⟨⟨_, exec_auxRequestTimeout awake waits, ?_⟩, ⟨_, exec_auxCollision awake waits, ?_⟩⟩,
    fun f fresh reserved => ⟨_, exec_auxUnknownChannel fresh reserved, ?_⟩⟩
  · have broken := unansweredAttempt_repeats (s := auxBroken s) (((auxBroken_only s).same .aux rfl).symm ▸ waits)
      (by rwa [res_auxBroken_unanswered])
    rwa [show (auxBroken s).now = s.now from (auxBroken_only s).same .now rfl] at broken
  · exact unansweredAttempt_repeats (s := advanceTo (s.aux.sentAt + tickMs) s) waits few
  · exact unansweredAttempt_losesPartner (s := advanceTo (s.aux.sentAt + tickMs) s) waits two
  · exact unansweredAttempt_losesPartner (s := auxBroken s) (((auxBroken_only s).same .aux rfl).symm ▸ waits)
      ((res_auxBroken_unanswered s).trans two)
  · unfold auxReply
    rw [incWrap_aux]

end Sys2Proof.Machine
end

section
/-! SUPPORT. A packet out of step (04, R110, R118): the DATA columns that its bytes take, and the search through them for a good header. -/

set_option Elab.async false

namespace Sys2Proof.Machine

/-! ### DATA columns -/

theorem length_padTo (n : Nat) (bs : List Nat) : (padTo n bs).length = n := by
  unfold padTo
  simp

theorem headD_padTo {n : Nat} (some_ : 0 < n) (b : Nat) (bs : List Nat) : (padTo n (b :: bs)).headD 0 = b := by
  obtain ⟨k, rfl⟩ := Nat.exists_eq_add_of_lt some_
  unfold padTo
  simp

theorem streamLanes_pos (s : State) : 0 < streamLanes s := Nat.le_max_left 1 _

/-- Bytes that fill whole columns take that many. -/
theorem dataColumns_whole {n k : Nat} {bs : List Nat} (lanes : 0 < n) (whole : bs.length = 16 * n * k) : dataColumns n bs = k := by
  unfold dataColumns
  rw [whole]
  have below : 16 * n * k + 16 * n - 1 < (k + 1) * (16 * n) := by
    rw [Nat.add_mul, Nat.one_mul, Nat.mul_comm k]
    omega
  exact Nat.div_eq_of_lt_le (by rw [Nat.mul_comm k]; omega) below

theorem dataColumns_pos {n : Nat} {bs : List Nat} (lanes : 0 < n) (some_ : bs ≠ []) : 0 < dataColumns n bs := by
  have := List.length_pos_iff.mpr some_
  exact Nat.div_pos (by omega) (by omega)

/-- A packet's bytes begin with its TYPE. -/
theorem streamBytes_cons (type : Nat) (p : Packet) : ∃ bs, streamBytes type p = type :: bs := ⟨_, rfl⟩

theorem streamBytes_ne_nil (type : Nat) (p : Packet) : streamBytes type p ≠ [] := by
  obtain ⟨bs, spells⟩ := streamBytes_cons type p
  simp [spells]

theorem length_columnBytes (s : State) (type : Nat) (p : Packet) :
    (columnBytes s type p).length = 16 * streamLanes s * dataColumns (streamLanes s) (columnBytes s type p) := by
  have whole : (columnBytes s type p).length = 16 * streamLanes s * dataColumns (streamLanes s) (streamBytes type p) := length_padTo ..
  rw [dataColumns_whole (streamLanes_pos s) whole, whole]

theorem headD_columnBytes (s : State) (type : Nat) (p : Packet) : (columnBytes s type p).headD 0 = type := by
  have filled : 0 < 16 * streamLanes s * dataColumns (streamLanes s) (streamBytes type p) :=
    Nat.mul_pos (Nat.mul_pos (by decide) (streamLanes_pos s)) (dataColumns_pos (streamLanes_pos s) (streamBytes_ne_nil type p))
  obtain ⟨bs, spells⟩ := streamBytes_cons type p
  unfold columnBytes
  dsimp only
  rw [spells] at filled ⊢
  exact headD_padTo filled type bs

/-- The lane-0 block of the first column begins with the first byte. -/
theorem headD_stripe_zero (n : Nat) (bs : List Nat) : (stripe n bs 0 0).headD 0 = bs.headD 0 := by
  cases bs <;> rfl

/-- Behind the first column the columns count from the next. -/
theorem stripe_drop (n : Nat) (bs : List Nat) (c : Nat) : stripe n (bs.drop (16 * n)) c 0 = stripe n bs (c + 1) 0 := by
  have place : 16 * n + 16 * (n * c) = 16 * (n * (c + 1)) := by rw [Nat.mul_succ]; omega
  unfold stripe sub
  rw [List.drop_drop, Nat.add_zero, Nat.add_zero, place]

/-! ### The search -/

theorem skipColumn_rx (s : State) : (skipColumn s).rx = { s.rx with skipped := some (s.rx.skipped.getD 0 + 1) } := by
  unfold skipColumn
  split
  · next step => rw [incSat_rx, step]; rfl
  · next n out => rw [out]; rfl

/-- A column without a good header is skipped, unless it is a NULL column met in step. -/
theorem feed_skipsColumn {n k : Nat} {bs : List Nat} {s : State} (more : bs ≠ [])
    (seeks : s.rx.skipped.isSome = true ∨ bs.headD 0 ≠ 0) (bad : headerBlock (stripe n bs 0 0) = false) :
    feed n (k + 1) bs s = feed n k (bs.drop (16 * n)) (skipColumn s) := by
  have notPassed : ¬(s.rx.skipped.isNone = true ∧ (stripe n bs 0 0).headD 0 = 0) := by
    rintro ⟨step, null⟩
    rw [headD_stripe_zero] at null
    obtain out | packet := seeks
    · simp_all
    · exact packet null
  rw [feed]
  simp only [if_neg more, if_neg notPassed, bad, Bool.not_false, if_true]

/-- A search through columns of which none begins with a good header skips them all, and leaves no byte waiting. -/
theorem feed_skipsAll {n : Nat} (lanes : 0 < n) (k : Nat) {j : Nat} {bs : List Nat} {s : State} (whole : bs.length = 16 * n * k)
    (out : s.rx.skipped = some j) (bad : ∀ c < k, headerBlock (stripe n bs c 0) = false) :
    (feed n (k + 1) bs s).rx = { s.rx with skipped := some (j + k), carry := [] } ∧ (feed n (k + 1) bs s).raster = s.raster := by
  induction k generalizing j bs s with
  | zero =>
    obtain rfl : bs = [] := List.eq_nil_of_length_eq_zero whole
    rw [feed, if_pos rfl, Nat.add_zero, ← out]
    exact ⟨rfl, rfl⟩
  | succ k ih =>
    have more : bs ≠ [] := by
      rintro rfl
      have : 0 < 16 * n * (k + 1) := Nat.mul_pos (by omega) (Nat.succ_pos k)
      exact absurd whole (Nat.ne_of_lt this)
    have rest : (bs.drop (16 * n)).length = 16 * n * k := by rw [List.length_drop, whole, Nat.mul_succ]; omega
    have skips := skipColumn_rx s
    rw [out] at skips
    obtain ⟨rx, raster⟩ := ih rest (s := skipColumn s) (by rw [skips]) fun c hc => by
      rw [stripe_drop]
      exact bad (c + 1) (by omega)
    rw [feed_skipsColumn more (.inl (by rw [out]; rfl)) (bad 0 (Nat.succ_pos k)), rx, raster, skips]
    refine ⟨?_, (skipColumn_only s).same .raster rfl⟩
    simp only [Option.getD_some, Nat.add_assoc, Nat.add_comm 1]

/-- In step, a packet with a bad header, and no good one in its columns, is skipped whole. -/
theorem receive_skips {s : State} {type : Nat} {p : Packet} (active : s.link.phase = .active) (step : s.rx.skipped = none)
    (idle : s.rx.carry = []) (packet : type ≠ 0) (bad : hchkOk type p = false) (none_ : noGoodHeader s type p = true) :
    (receive type p s).raster = s.raster
      ∧ (receive type p s).rx = { s.rx with skipped := some (dataColumns (streamLanes s) (columnBytes s type p)) } := by
  have lanes := streamLanes_pos s
  have whole := length_columnBytes s type p
  have more : columnBytes s type p ≠ [] := by
    intro empty
    exact packet ((headD_columnBytes s type p).symm.trans (by rw [empty]; rfl))
  have columns := dataColumns_pos lanes more
  have searched : receive type p s
      = feed (streamLanes s) (dataColumns (streamLanes s) (columnBytes s type p) + 1) (columnBytes s type p) s := by
    unfold receive
    rw [if_neg (not_not_intro active), if_neg (by simp [bad]), idle]
    rfl
  unfold noGoodHeader at none_
  simp only [List.all_eq_true, List.mem_range, Bool.not_eq_true'] at none_
  rw [searched]
  generalize dataColumns (streamLanes s) (columnBytes s type p) = k at *
  obtain ⟨k, rfl⟩ : ∃ m, k = m + 1 := ⟨k - 1, by omega⟩
  have rest : ((columnBytes s type p).drop (16 * streamLanes s)).length = 16 * streamLanes s * k := by
    rw [List.length_drop, whole, Nat.mul_succ]; omega
  have skips := skipColumn_rx s
  rw [step] at skips
  obtain ⟨rx, raster⟩ := feed_skipsAll lanes k (s := skipColumn s) rest (by rw [skips]) fun c hc => by
    rw [stripe_drop]
    exact none_ (c + 1) (by omega)
  rw [feed_skipsColumn more (.inr (by rwa [headD_columnBytes])) (none_ 0 columns), rx, raster, skips]
  refine ⟨(skipColumn_only s).same .raster rfl, ?_⟩
  simp only [Option.getD_none, Nat.zero_add, Nat.add_comm 1, ← idle]

/-- Settles O19: every packet's command is `receive` with its TYPE, none of which is 0. -/
theorem badHeaderSkipped : Obligations.BadHeaderSkipped := by
  unfold Obligations.BadHeaderSkipped
  intro s p active step idle
  have skips {type : Nat} (packet : type ≠ 0) (bad : hchkOk type p = false) (none_ : noGoodHeader s type p = true) :=
    receive_skips active step idle packet bad none_
  refine ⟨fun bad none_ => ⟨_, rfl, skips (by decide) bad none_⟩, fun bad none_ => ⟨_, rfl, skips (by decide) bad none_⟩,
    fun bad none_ => ⟨_, rfl, skips (by decide) bad none_⟩, fun bad none_ => ⟨_, rfl, skips (by decide) bad none_⟩,
    fun bad none_ => ⟨_, rfl, skips (by decide) bad none_⟩, fun bad none_ => ⟨_, rfl, skips (by decide) bad none_⟩,
    fun type reserved bad none_ => ⟨_, rfl, ?_⟩⟩
  rw [if_neg (by rw [reserved]; exact Bool.false_ne_true)]
  exact skips (by rintro rfl; exact absurd reserved (by decide)) bad none_

end Sys2Proof.Machine
end

section
/-! SUPPORT. What a packet in step does to the input (04, R116 to R119, R123 to R125): of the receiving side, which parts each operation
leaves alone, and the frame being received at an anchor that comes at once (05, R143, R145). -/

set_option Elab.async false

namespace Sys2Proof.Machine

/-! ### A packet in step -/

/-- In step, a packet with a good header is taken. -/
theorem receive_takes {s : State} {type : Nat} {p : Packet} (active : s.link.phase = .active) (step : s.rx.skipped = none)
    (idle : s.rx.carry = []) (good : hchkOk type p = true) : receive type p s = takePacket type p s := by
  unfold receive resume
  rw [if_neg (not_not_intro active), if_pos ⟨idle, good⟩, step]

/-- The last event of the link is the one raised. -/
theorem raise_lastCode_link (code : Nat) (data : List Nat) {s : State} (c : s.Canonical) :
    lastCode (raise code hLINK data s) hLINK = code := congrArg (·.2) (raise_lastEvent_self code data s c rfl)

theorem lengthOk_empty {p : Packet} (length : p.length = 20) (empty : p.body = []) : lengthOk p 0 = true := by
  unfold lengthOk
  rw [length, empty]
  rfl

/-! ### The landing buffer -/

/-- Of the receiving side, only the landing buffer may differ. -/
def LandsOnly (s t : State) : Prop := ∃ l, t.rx = { s.rx with landing := l }

theorem LandsOnly.refl (s : State) : LandsOnly s s := ⟨_, rfl⟩
theorem LandsOnly.of_only {ps : List Part} {s t : State} (h : Only ps s t) (hp : ps.contains .rx = false := by decide) :
    LandsOnly s t := ⟨_, h.same .rx hp⟩
theorem LandsOnly.trans {s t u : State} (h : LandsOnly s t) (h' : LandsOnly t u) : LandsOnly s u := by
  obtain ⟨l, h⟩ := h
  obtain ⟨l', h'⟩ := h'
  exact ⟨l', by rw [h', h]⟩
theorem LandsOnly.step {ps : List Part} {s t u : State} (h : LandsOnly s t) (o : Only ps t u)
    (hp : ps.contains .rx = false := by decide) : LandsOnly s u := h.trans (.of_only o hp)

/-- Whatever frame is then said to be received. -/
theorem LandsOnly.receiving {s t : State} (h : LandsOnly s t) (c : Option RxFrame) :
    ∃ l, { t.rx with cur := c } = { s.rx with landing := l, cur := c } := by
  obtain ⟨l, h⟩ := h
  exact ⟨l, by rw [h]⟩

theorem landLine_lands (r : RxFrame) (y : Nat) (codes : List Nat) (bad : List (Nat × Nat)) (s : State) :
    LandsOnly s (landLine r y codes bad s) := ⟨_, rfl⟩

theorem deliverLine_lands (r : RxFrame) (y : Nat) (codes : List Nat) (bad : List (Nat × Nat)) (s : State) :
    LandsOnly s (deliverLine r y codes bad s) := by
  unfold deliverLine
  extract_lets m black told stored
  split
  · have landed : LandsOnly s black := by
      subst black
      split
      · exact landLine_lands ..
      · exact .refl s
    exact landed.step (storeInputLine_only ..)
  · split
    · exact (((LandsOnly.of_only (incSat_only ..)).step (raise_only ..)).trans (landLine_lands ..)).step (storeInputLine_only ..)
    · have landed : LandsOnly s stored := by
        subst stored
        split
        · exact landLine_lands ..
        · exact .of_only (countStored_only ..)
      exact landed.step (storeInputLine_only ..)

theorem lineMissing_lands (r : RxFrame) (y : Nat) (codes : List Nat) (bad gaps : List (Nat × Nat)) (s : State) :
    LandsOnly s (lineMissing r y codes bad gaps s) := by
  unfold lineMissing
  exact ((LandsOnly.of_only (incSat_only ..)).step (raise_only ..)).trans (deliverLine_lands ..)

theorem linesMissing_lands (r : RxFrame) (n y : Nat) (s : State) : LandsOnly s (linesMissing r n y s) := by
  induction n generalizing y s with
  | zero => exact .refl s
  | succ n ih => exact (lineMissing_lands ..).trans (ih ..)

theorem lineWhole_lands (r : RxFrame) (s : State) : LandsOnly s (lineWhole r s) := by
  unfold lineWhole
  extract_lets due told
  have late : LandsOnly s told := by
    subst told
    split
    · exact .refl s
    · exact (LandsOnly.of_only (incSat_only ..)).step (raise_only ..)
  exact late.trans (deliverLine_lands ..)

theorem dropWaiting_lands (s : State) : LandsOnly s (dropWaiting s) := by
  unfold dropWaiting
  split
  · exact .refl s
  · next w _ =>
    have dropped : LandsOnly s { s with
        raster.waiting := none, rx.landing := s.rx.landing.filter fun e => decide (e.1 < 65536) } := ⟨_, rfl⟩
    exact (dropped.step (incSat_only ..)).step (raise_only ..)

/-! ### The end of a frame's input -/

theorem closeLines_rx (r : RxFrame) (n : Nat) (s : State) : ∃ l c, (closeLines r n s).rx = { s.rx with landing := l, cur := c } := by
  unfold closeLines
  split
  · exact ⟨_, _, rfl⟩
  · extract_lets gaps first rest
    have closed : LandsOnly s rest := by
      refine .trans ?_ (linesMissing_lands ..)
      subst first
      split
      · exact .refl s
      · exact lineMissing_lands ..
    obtain ⟨l, closed⟩ := closed.receiving (some { r with line := n, spans := [], bad := [], codes := [] })
    exact ⟨l, _, closed⟩

/-- The input ends: no frame is being received, and what it leaves missing lands. -/
theorem endInput_rx (s : State) : ∃ l, (endInput s).rx = { s.rx with landing := l, cur := none } := by
  unfold endInput
  split
  · next none_ => exact ⟨_, by rw [← none_]⟩
  · next r _ =>
    split
    · exact ⟨_, rfl⟩
    · obtain ⟨l, c, closed⟩ := closeLines_rx r r.height s
      exact ⟨l, by dsimp only; rw [closed]⟩

/-! ### Frame-Start -/

/-- What rejects a frame is not what a change of other parts moves. -/
theorem rejection_of_only {ps : List Part} {s t : State} (h : Only ps s t) (p : Packet) (h1 : ps.contains .link = false := by decide)
    (h2 : ps.contains .raster = false := by decide) (h3 : ps.contains .security = false := by decide)
    (h4 : ps.contains .fuses = false := by decide) : rejection t p = rejection s p := by
  unfold rejection keySetOf lastProtected
  rw [h.same .link h1, h.same .raster h2, h.sec h3 h4]

theorem clearRegions_rx (s : State) : (clearRegions s).rx = { s.rx with regions := [] } := by
  unfold clearRegions
  split
  · next none_ => rw [← none_]
  · rw [(sendCredit_only ..).same .rx rfl, (discardRegions_only ..).same .rx rfl]

/-- Making room for a frame empties the queue of Region-Updates, and of the landing buffer what a waiting frame has there. -/
theorem takeHold_rx (s : State) : ∃ l, (takeHold s).rx = { s.rx with landing := l, regions := [] } := by
  obtain ⟨l, dropped⟩ := dropWaiting_lands (clearRegions s)
  rw [clearRegions_rx] at dropped
  unfold takeHold
  extract_lets held
  have same : held.rx = { s.rx with landing := l, regions := [] } := dropped
  clear_value held
  refine ⟨l, ?_⟩
  split
  · exact same
  · split <;> exact same

/-! ### The anchor that a Frame-Start brings (R145) -/

/-- A frame that begins at an anchor is live there. -/
theorem kindAt_begins {s : State} {w : Waiting} (waits : s.raster.waiting = some w) (begins : w.t0 = s.now)
    (noBlack : s.raster.blackDue = none) : kindAt s s.now = .live := by
  unfold kindAt liveUntil
  simp only [noBlack, waits, begins, Option.isSome_none, Bool.false_eq_true, if_false, Nat.le_add_right, if_true]

theorem takeFrame_rx (a : Nat) {s : State} {r : RxFrame} {w : Waiting} (receives : s.rx.cur = some r) (same : r.frame = w.frame) :
    (takeFrame a .live w s).rx = { s.rx with cur := some { r with taken := true } } := by
  unfold takeFrame
  extract_lets run rx raster begun entered told
  have began : begun.rx = { s.rx with cur := some { r with taken := true } } := by
    subst begun
    simp only [receives, Option.map_some, same, if_true]
    rfl
  have enters : entered.rx = begun.rx := (enterState_only ..).same .rx rfl
  clear_value begun entered
  rw [if_neg (by decide)]
  subst told
  split
  · rw [enters, began]
  · rw [(raise_only ..).same .rx rfl, enters, began]

section
variable {k : FrameKind} (live : k = .live)
include live

/-- At a live anchor the frame that waits is taken. -/
theorem noteKind_live (a : Nat) {s : State} {r : RxFrame} {w : Waiting} (receives : s.rx.cur = some r)
    (waits : s.raster.waiting = some w) (same : r.frame = w.frame) :
    (noteKind a k s).rx = { s.rx with cur := some { r with taken := true } } := by
  subst live
  rw [← takeFrame_rx a receives same]
  unfold noteKind
  simp only [waits]

theorem moveRoles_live (s : State) : Only [.results, .fstore] s (moveRoles k s) := by
  unfold moveRoles
  rw [if_pos (.inl live)]
  exact (showSlots_only ..).after (Only.upd_fstore (Only.refl s))

theorem moveLanding_live (s : State) : Only [.rx] s (moveLanding k s) ∧ LandsOnly s (moveLanding k s) := by
  subst live
  unfold moveLanding
  exact ⟨Only.upd_rx (Only.refl s), ⟨_, rfl⟩⟩

end

theorem genlockAnchored_link (a : Nat) {s : State} (link : s.raster.mode.timing = 1) : genlockAnchored a s = s := by
  unfold genlockAnchored
  rw [if_pos (.inl (by rw [link]; decide))]

/-- An anchor at the moment at which its frame begins takes that frame, as a live one. -/
theorem makeAnchor_takes {s : State} {r : RxFrame} {w : Waiting} (receives : s.rx.cur = some r) (waits : s.raster.waiting = some w)
    (same : r.frame = w.frame) (begins : w.t0 = s.now) (noBlack : s.raster.blackDue = none) (link : s.raster.mode.timing = 1) :
    ∃ l, (makeAnchor s.now s).rx = { s.rx with landing := l, cur := some { r with taken := true } } := by
  have still : advanceTo s.now s = s := by
    unfold advanceTo
    rw [Nat.max_self]
  have live := kindAt_begins waits begins noBlack
  unfold makeAnchor
  extract_lets +onlyGivenNames b fs store begun kind ended raster anchored genlock moved noted raster' drawn raster'' cur state gain
    limited temp
  have notDeferred : ¬(b.raster.first = true ∧ b.raster.blackDue = none ∧ kindAt b s.now = .deferred) := by
    have hb : b = s := still
    rintro ⟨-, -, deferred⟩
    rw [hb, live] at deferred
    cases deferred
  have hBegun : begun = s := (if_neg notDeferred).trans still
  have hKind : kind = .live := (congrArg (kindAt · s.now) hBegun).trans live
  have hEnded : ended.rx = s.rx ∧ ended.raster = s.raster := by
    have o := endLast_only s.now begun
    exact ⟨(o.same .rx rfl).trans (congrArg State.rx hBegun), (o.same .raster rfl).trans (congrArg State.raster hBegun)⟩
  have aRx : anchored.rx = s.rx := hEnded.1
  have aWaits : anchored.raster.waiting = some w := (congrArg RasterSt.waiting hEnded.2).trans waits
  have hGenlock : genlock = anchored := genlockAnchored_link s.now ((congrArg (·.mode.timing) hEnded.2).trans link)
  have hMoved : LandsOnly anchored moved ∧ moved.raster = anchored.raster := by
    have roles := moveRoles_live hKind genlock
    obtain ⟨only, lands⟩ := moveLanding_live hKind (moveRoles kind genlock)
    rw [← hGenlock]
    exact ⟨.trans (.of_only roles) lands, (only.same .raster rfl).trans (roles.same .raster rfl)⟩
  obtain ⟨⟨l, lands⟩, mRaster⟩ := hMoved
  have hNoted : noted.rx = { s.rx with landing := l, cur := some { r with taken := true } } := by
    have cleared : (clearFrame moved).rx = { s.rx with landing := l } :=
      (((clearFrame_only moved).same .rx rfl).trans lands).trans (by rw [aRx])
    have waitsOn : (clearFrame moved).raster.waiting = some w :=
      (congrArg RasterSt.waiting (((clearFrame_only moved).same .raster rfl).trans mRaster)).trans aWaits
    have receivesOn : (clearFrame moved).rx.cur = some r := (congrArg RxSt.cur cleared).trans receives
    calc noted.rx = (noteKind s.now kind (clearFrame moved)).rx := incWrap_rx
      _ = { (clearFrame moved).rx with cur := some { r with taken := true } } := noteKind_live hKind s.now receivesOn waitsOn same
      _ = _ := by rw [cleared]
  have hDrawn : LandsOnly noted drawn := by
    refine .step ?_ (noteOverdrive_only ..)
    exact ⟨_, rfl⟩
  have hCur : LandsOnly noted cur := hDrawn.trans ⟨_, rfl⟩
  have hGain : LandsOnly cur gain := .step (.of_only (changeRes_only ..)) (changeRes_only ..)
  have hLimited : LandsOnly gain limited := by
    subst limited
    split
    · exact .of_only (incSat_only ..)
    · exact .refl gain
  have hTemp : LandsOnly limited temp := by
    subst temp
    split
    · exact .refl limited
    · exact .of_only (setResI_only ..)
  have h : LandsOnly noted temp := hCur.trans (hGain.trans (hLimited.trans hTemp))
  have hEnd : ∀ t, LandsOnly temp t → ∃ l, t.rx = { s.rx with landing := l, cur := some { r with taken := true } } := by
    intro t ends
    obtain ⟨l', ends⟩ := h.trans ends
    exact ⟨l', by rw [ends, hNoted]⟩
  clear_value temp
  extract_lets last
  have hLast : LandsOnly temp last := .of_only (changeRes_only ..)
  clear_value last
  split
  · split
    · exact hEnd _ (hLast.step (displayKeyLost_only ..))
    · exact hEnd _ hLast
  · exact hEnd _ hLast

/-- A Frame-Start accepted brings no anchor, or the one that takes its frame. -/
theorem anchorNow_takes {s : State} {r : RxFrame} {w : Waiting} (receives : s.rx.cur = some r) (waits : s.raster.waiting = some w)
    (same : r.frame = w.frame) (begins : w.t0 = s.now) :
    ∃ l b, (anchorNow s).rx = { s.rx with landing := l, cur := some { r with taken := b } } := by
  have waitsOn : s.rx = { s.rx with landing := s.rx.landing, cur := some { r with taken := r.taken } } := by
    rw [← receives]
  unfold anchorNow
  split
  · exact ⟨_, _, waitsOn⟩
  · split
    · exact ⟨_, _, waitsOn⟩
    · next free =>
      split
      · exact ⟨_, _, waitsOn⟩
      · obtain ⟨-, link, noBlack⟩ : ¬s.raster.stopped = true ∧ s.raster.mode.timing = 1 ∧ s.raster.blackDue = none := by
          simpa [not_or] using free
        obtain ⟨l, takes⟩ := makeAnchor_takes receives waits same begins noBlack link
        exact ⟨l, true, takes⟩

/-- The frame that a Frame-Start begins, `black` where it is protected without keys. -/
def beginning (p : Packet) (black : Bool) (s : State) : RxFrame :=
  { frame := fieldAt p 4 4, width := s.raster.mode.width, height := s.raster.mode.height, depth := s.raster.mode.depth
    colour := s.raster.mode.colour, enc := p.flags % 2 = 1, set := p.flags / 2 % 2, black := black, t0 := s.now }

/-- An accepted Frame-Start begins its frame, which an anchor may take at once. -/
theorem acceptFrame_begins (p : Packet) (s : State) : ∃ l black taken, (acceptFrame p s).rx
    = { s.rx with landing := l, regions := [], refused := false, cur := some { beginning p black s with taken := taken } } := by
  unfold acceptFrame
  obtain ⟨l, heldRx⟩ := takeHold_rx s
  extract_lets +onlyGivenNames m frame enc phase black held fs numbered slot opened prot rx raster begun counted last shown told
  have hProt : Only [.results, .security, .fstore] held prot := by
    have hOpened : Only [.results, .security, .fstore] held opened :=
      (openSlot_only ..).after (Only.upd_fstore (Only.refl held))
    subst prot
    split
    · exact (noteProtected_only ..).after hOpened
    · exact hOpened
  have hRx : prot.rx = _ := (hProt.same .rx rfl).trans heldRx
  have hNow : prot.now = s.now := (hProt.same .now rfl).trans ((takeHold_only s).same .now rfl)
  clear_value prot
  have hTold : Only [.results, .events, .ports, .storeQueue, .heldEvents] begun told := by
    have hShown : Only [.results, .events, .ports, .storeQueue, .heldEvents] begun shown :=
      (changeRes_only ..).after ((setRes_only ..).after ((incWrap_only ..).mono rfl))
    subst told
    split
    · exact (raise_only ..).after ((incSat_only ..).after hShown)
    · exact hShown
  have hLate : Only [.results, .events, .ports, .storeQueue, .heldEvents, .power] begun (noteLate frame (noteActivity told)) :=
    (noteLate_only ..).after ((noteActivity_only ..).after (hTold.mono rfl))
  generalize noteLate frame (noteActivity told) = late at hLate ⊢
  have lateRx : late.rx = _ := hLate.same .rx rfl
  have begunRx : begun.rx = { prot.rx with refused := false, cur := some (beginning p black { s with now := prot.now }) } := rfl
  have waits : late.raster.waiting = some ⟨frame, begun.now⟩ := congrArg RasterSt.waiting (hLate.same .raster rfl)
  rw [hRx, hNow] at begunRx
  have receives : late.rx.cur = some (beginning p black s) := by rw [lateRx, begunRx]
  have now : begun.now = late.now := (hLate.same .now rfl).symm
  clear_value begun
  obtain ⟨l', taken, takes⟩ := anchorNow_takes receives waits rfl now
  refine ⟨l', black, taken, ?_⟩
  rw [takes, lateRx, begunRx]

theorem rejectFrame_rx (frame cause : Nat) (s : State) : (rejectFrame frame cause s).rx = { s.rx with refused := true } := by
  unfold rejectFrame
  rw [raise_rx, incSat_rx]

theorem rejectFrame_lastCode (frame cause : Nat) {s : State} (c : s.Canonical) :
    lastCode (rejectFrame frame cause s) hLINK = 0x0125 := by
  have refused : Only [.results, .rx] s (incSat hLINK Par.LINK_FRAMES_REJECTED 1 { s with rx.refused := true }) :=
    (incSat_only ..).after (Only.upd_rx (Only.refl s))
  exact raise_lastCode_link _ _ (refused.kept.canon c)

/-- The state in which a Frame-Start is judged: its FRAME is noted, and the input before it has ended. -/
def started (p : Packet) (s : State) : State := endInput { s with rx.lastStart := fieldAt p 4 4, rx.refused := false }

theorem started_only (p : Packet) (s : State) :
    Only [.results, .events, .ports, .storeQueue, .heldEvents, .rx, .pipe, .fstore, .dram] s (started p s) :=
  (endInput_only ..).after (Only.upd_rx (Only.refl s))

theorem started_rx (p : Packet) (s : State) : ∃ l, (started p s).rx
    = { s.rx with landing := l, cur := none, lastStart := fieldAt p 4 4, refused := false } := endInput_rx _

/-- A Frame-Start of the right length to which a cause applies is rejected for it. -/
theorem takeFrameStart_rejects {s : State} {p : Packet} {c : Nat} (length : p.length = 36) (tag : p.body.length = 16)
    (rejected : rejection s p = some c) : takeFrameStart p s = rejectFrame (fieldAt p 4 4) c (started p s) := by
  have judged := (rejection_of_only (started_only p s) p).trans rejected
  unfold started at judged
  unfold takeFrameStart started
  rw [if_neg (by simp [length, tag])]
  simp only [judged]

/-- A Frame-Start of the right length to which no cause applies is accepted. -/
theorem takeFrameStart_accepts {s : State} {p : Packet} (length : p.length = 36) (tag : p.body.length = 16)
    (accepted : rejection s p = none) : takeFrameStart p s = acceptFrame p (started p s) := by
  have judged := (rejection_of_only (started_only p s) p).trans accepted
  unfold started at judged
  unfold takeFrameStart started
  rw [if_neg (by simp [length, tag])]
  simp only [judged]

/-- Settles O20: the input before it ends, which no cause of rejection looks at; then the cause decides. -/
theorem frameStartBeginsOrRejects : Obligations.FrameStartBeginsOrRejects := by
  unfold Obligations.FrameStartBeginsOrRejects
  intro s p active step idle good length tag
  have takes : receive 0x11 p s = takeFrameStart p s := receive_takes active step idle good
  obtain ⟨l, startRx⟩ := started_rx p s
  refine ⟨fun accepted => ?_, fun c rejected canonical => ⟨_, rfl, ?_⟩⟩
  · obtain ⟨l', black, taken, begins⟩ := acceptFrame_begins p (started p s)
    rw [startRx] at begins
    have now : (started p s).now = s.now := (started_only p s).same .now rfl
    have raster : (started p s).raster = s.raster := (started_only p s).same .raster rfl
    refine ⟨_, { beginning p black (started p s) with taken := taken }, rfl, ?_⟩
    rw [takes, takeFrameStart_accepts length tag accepted, begins]
    unfold beginning
    rw [now, raster]
    exact ⟨rfl, rfl, rfl, rfl, rfl, rfl, rfl, rfl⟩
  · rw [takes, takeFrameStart_rejects length tag rejected, rejectFrame_rx, startRx]
    exact ⟨rfl, rfl, rfl, rejectFrame_lastCode _ _ ((started_only p s).kept.canon canonical)⟩

/-! ### Line and Frame-End -/

/-- The pixels of a packet are a span of the line in progress, whole or bad. -/
theorem takeSpan_adds (r : RxFrame) (p : Packet) (s : State) : ∃ l bad codes, (takeSpan r p s).rx
    = { s.rx with landing := l, cur := some { r with
        spans := putSpan (fieldAt p 6 2, fieldAt p 8 2) r.spans, bad := bad, codes := codes, packets := r.packets + 1 } } := by
  unfold takeSpan
  extract_lets x n ok told body codes r' rx added
  have telling : LandsOnly s told := by
    subst told
    split
    · exact .refl s
    · exact (LandsOnly.of_only (incSat_only ..)).step (raise_only ..)
  obtain ⟨l, telling⟩ := telling
  have addedRx : added.rx = { s.rx with landing := l, cur := some r' } := by
    show { told.rx with cur := some r' } = _
    rw [telling]
  split
  · obtain ⟨l', whole⟩ := lineWhole_lands r' added
    exact ⟨l', _, _, by rw [whole, addedRx]⟩
  · exact ⟨l, _, _, addedRx⟩

/-- A Line packet of the line in progress that fits its frame and meets none of its pixels adds them. -/
theorem takeLine_inProgress {s : State} {p : Packet} {r : RxFrame} (receives : s.rx.cur = some r) (fits : lineFits r p = true)
    (line : fieldAt p 4 2 = r.line) (apart : spansTouch r.spans (fieldAt p 6 2) (fieldAt p 8 2) = false) :
    takeLine p s = takeSpan r p s := by
  have open_ : closeLines r r.line s = s := by
    unfold closeLines
    rw [if_pos (.inl (Nat.le_refl _))]
  unfold takeLine
  simp only [receives, fits, line, open_, apart, Option.getD_some, Nat.lt_irrefl, Bool.not_true, Bool.false_eq_true, if_false]

/-- A Frame-End ends the input, and tells where its count is not the packets received. -/
theorem takeFrameEnd_ends {s : State} {p : Packet} {r : RxFrame} (receives : s.rx.cur = some r) (length : p.length = 20)
    (empty : p.body = []) : (takeFrameEnd p s).rx.cur = none
      ∧ (s.Canonical → fieldAt p 8 2 ≠ r.packets → lastCode (takeFrameEnd p s) hLINK = 0x0127) := by
  obtain ⟨l, ends⟩ := endInput_rx s
  have none_ : (endInput s).rx.cur = none := by rw [ends]
  unfold takeFrameEnd
  simp only [lengthOk_empty length empty, receives, Bool.not_true, Bool.false_eq_true, if_false]
  split
  · next counts => exact ⟨none_, fun _ differs => absurd counts differs⟩
  · exact ⟨by rw [raise_rx, none_], fun c _ => raise_lastCode_link _ _ ((endInput_only s).kept.canon c)⟩

/-- Settles O21: a line in progress leaves no line to close, so its packet adds its span at once; a Frame-End ends the input first. -/
theorem linesAndFrameEnd : Obligations.LinesAndFrameEnd := by
  unfold Obligations.LinesAndFrameEnd
  intro s p r active step idle receives
  refine ⟨fun good fits line apart => ?_, fun good length empty canonical => ⟨_, rfl, ?_⟩⟩
  · obtain ⟨l, bad, codes, adds⟩ := takeSpan_adds r p s
    have takes : receive 0x22 p s = takeSpan r p s :=
      (receive_takes active step idle good).trans (takeLine_inProgress receives fits line apart)
    have receiving := congrArg RxSt.cur adds
    rw [← takes] at receiving
    exact ⟨_, _, rfl, receiving, rfl, rfl, rfl, rfl⟩
  · have takes : receive 0x44 p s = takeFrameEnd p s := receive_takes active step idle good
    obtain ⟨ends, tells⟩ := takeFrameEnd_ends receives length empty
    rw [takes]
    exact ⟨ends, tells canonical⟩

/-! ### Region-Update, Control and reserved types -/

theorem ignorePacket_rx (type reason : Nat) (s : State) : (ignorePacket type reason s).rx = s.rx := (ignorePacket_only ..).same .rx rfl

theorem ignorePacket_lastCode (type reason : Nat) {s : State} (c : s.Canonical) :
    lastCode (ignorePacket type reason s) hLINK = 0x0124 := raise_lastCode_link _ _ ((incSat_only ..).kept.canon c)

/-- A Region-Update to which no cause applies joins the queue. -/
theorem takeRegion_queued {s : State} {p : Packet} (allowed : regionCause s p = none) : ∃ q, (takeRegion p s).rx
      = { s.rx with regions := s.rx.regions ++ [q], lastRegion := fieldAt p 12 2 }
    ∧ q.seq = fieldAt p 12 2 ∧ q.x = fieldAt p 4 2 ∧ q.y = fieldAt p 6 2 ∧ q.w = fieldAt p 8 2 ∧ q.h = fieldAt p 10 2 := by
  unfold takeRegion
  simp only [allowed]
  refine ⟨_, (showRegionLimit_only ..).same .rx rfl, rfl, rfl, rfl, rfl, rfl⟩

/-- A Region-Update to which a cause applies is told, and moves nothing else of the input. -/
theorem takeRegion_discarded {s : State} {p : Packet} {cause : Nat} (applies : regionCause s p = some cause) :
    (takeRegion p s).rx = s.rx ∧ (s.Canonical → lastCode (takeRegion p s) hLINK = 0x0128) := by
  unfold takeRegion
  simp only [applies]
  exact ⟨by rw [raise_rx, incSat_rx], fun c => raise_lastCode_link _ _ ((incSat_only ..).kept.canon c)⟩

theorem getElem_sub {bs : List Nat} {at_ n i : Nat} (inside : i < (sub bs at_ n).length) :
    (sub bs at_ n)[i] = bs.getD (i + at_) 0 := by
  unfold sub at inside
  rw [List.length_take, List.length_drop] at inside
  simp only [sub, List.getElem_take, List.getElem_drop, Nat.add_comm at_]
  rw [List.getD_eq_getElem?_getD, List.getElem?_eq_getElem (by omega), Option.getD_some]

section
variable {s : State} {p : Packet} (length : p.length = 20) (empty : p.body = []) (outside : insideFrame s = false)
include length empty outside

/-- A sleep notice outside a frame. -/
theorem takeControl_sleep (notice : fieldAt p 4 1 = 1) :
    takeControl p s = raise 0x012A hLINK (u32 (fieldAt p 6 4)) { s with raster.sleep := !s.raster.stopped } := by
  unfold takeControl
  simp only [lengthOk_empty length empty, outside, notice, Bool.not_true, Bool.false_eq_true, if_false]

/-- User data outside a frame. -/
theorem takeControl_user (user : fieldAt p 4 1 = 2) : takeControl p s = raise 0x012B hLINK (sub p.fields 2 8)
    (setResList hLINK Par.LINK_USER_DATA ((sub p.fields 2 8).map Int.ofNat) s) := by
  unfold takeControl
  simp only [lengthOk_empty length empty, outside, user, Bool.not_true, Bool.false_eq_true, if_false]

end

/-- An element of an array result that was written whole reads back. -/
theorem res_setResList {h p i : Nat} {vs : List Nat} {s : State} (c : s.Canonical) (inside : i < vs.length) :
    res (setResList h p (vs.map Int.ofNat) s) h p i = vs[i] := by
  have element : cell h p i = cell h p 0 + i := by
    unfold cell
    omega
  unfold res resI setResList bumpGen
  dsimp only
  rw [element, mget_mputList_inside 0 _ _ _ i (by simpa using inside) c.results]
  simp

/-- A packet of a reserved type is ignored. -/
theorem takePacket_reserved {type : Nat} (reserved : packetTypes.contains type = false) (p : Packet) (s : State) :
    takePacket type p s = ignorePacket type 0 s := by
  unfold takePacket
  split
  case h_6 => rfl
  all_goals exact absurd reserved (by decide)

/-- Settles O22: each packet is taken by its type, and its own condition decides what it does. -/
theorem otherPacketsTaken : Obligations.OtherPacketsTaken := by
  unfold Obligations.OtherPacketsTaken
  intro s p active step idle canonical
  refine ⟨fun good allowed => ?_, fun c good applies => ⟨_, rfl, ?_⟩, fun good length empty outside notice => ⟨_, rfl, ?_⟩,
    fun good length empty outside user => ⟨_, rfl, ?_⟩, fun type reserved good => ⟨_, rfl, ?_⟩⟩
  · obtain ⟨q, queued, fields⟩ := takeRegion_queued allowed
    have takes : receive 0x33 p s = takeRegion p s := receive_takes active step idle good
    refine ⟨_, q, rfl, ?_⟩
    rw [takes, queued]
    exact ⟨rfl, rfl, fields⟩
  · have takes : receive 0x33 p s = takeRegion p s := receive_takes active step idle good
    obtain ⟨same, told⟩ := takeRegion_discarded applies
    rw [takes]
    exact ⟨same, told canonical⟩
  · have takes : receive 0x55 p s = takeControl p s := receive_takes active step idle good
    rw [takes, takeControl_sleep length empty outside notice]
    have noticed : Only [.raster] s { s with raster.sleep := !s.raster.stopped } := Only.upd_raster (Only.refl s)
    exact ⟨by rw [raise_raster], raise_lastCode_link _ _ (noticed.kept.canon canonical)⟩
  · have takes : receive 0x55 p s = takeControl p s := receive_takes active step idle good
    rw [takes, takeControl_user length empty outside user]
    have kept := (setResList_only hLINK Par.LINK_USER_DATA ((sub p.fields 2 8).map Int.ofNat) s).kept.canon canonical
    refine ⟨raise_lastCode_link _ _ kept, fun i small inside => ?_⟩
    have there : i < (sub p.fields 2 8).length := by
      unfold sub
      rw [List.length_take, List.length_drop]
      omega
    rw [res_raise _ _ _ _ kept rfl (by decide) (by omega), res_setResList canonical there]
    exact getElem_sub there
  · rw [if_neg (by rw [reserved]; exact Bool.false_ne_true), receive_takes active step idle good, takePacket_reserved reserved]
    exact ⟨ignorePacket_lastCode _ _ canonical, ignorePacket_rx ..⟩

end Sys2Proof.Machine
end

section
/-! SUPPORT. The raster's timing (05, R136, R138, R141, R145 to R150; 11, R298): what an anchor places, what an edge of SYNC_IN and a missing one
leave of GENLOCK, and where a line start leads. -/

set_option Elab.async false

namespace Sys2Proof.Machine

/-! ### The place of the scan -/

/-- The anchor, the number of its frame, the line start that is next, and the boundary passed. -/
def scanPlace (s : State) : Nat × Nat × Int × Option Nat :=
  (s.raster.anchor, s.raster.index, s.raster.next, s.raster.boundary)

theorem scanPlace_of_only {ps : List Part} {s t : State} (o : Only ps s t) (h : ps.contains .raster = false := by decide) :
    scanPlace t = scanPlace s := by
  unfold scanPlace
  rw [o.same .raster h]

/-! ### GENLOCK (R149, R150) -/

theorem showLock_raster (s : State) : (showLock s).raster = s.raster := (showLock_only s).same .raster rfl

/-- Where lock is lost or not acquired, GENLOCK is in HOLDOVER and counts anew. -/
theorem loseLock_raster (cause : Nat) (s : State) : (loseLock cause s).raster = { s.raster with gen := { s.raster.gen with
    step := 6, valid := 0, invalid := 0, frames := 0, good := 0, bad := 0, extend := 0 } } := by
  unfold loseLock
  rw [showLock_raster, raise_raster, incSat_raster]

@[simp] theorem loseLock_scanPlace (cause : Nat) (s : State) : scanPlace (loseLock cause s) = scanPlace s := by
  unfold scanPlace
  rw [loseLock_raster]

@[simp] theorem putGen_scanPlace (g : Genlock) (s : State) : scanPlace (putGen g s) = scanPlace s := by
  unfold putGen
  exact (scanPlace_of_only (showLock_only { s with raster.gen := g })).trans rfl

@[simp] theorem raise_scanPlace (code handle : Nat) (data : List Nat) (s : State) :
    scanPlace (raise code handle data s) = scanPlace s := scanPlace_of_only (raise_only ..)

theorem genlockMove_scanPlace (g : Genlock) (err : Int) (line : Nat) (s : State) :
    scanPlace (genlockMove g err line s) = scanPlace s := by
  unfold genlockMove
  repeat' split
  all_goals simp

theorem genlockLimit_scanPlace (s : State) : scanPlace (genlockLimit s) = scanPlace s := by
  unfold genlockLimit
  split
  · exact loseLock_scanPlace 2 s
  · rfl

theorem setTrim_scanPlace (s : State) : scanPlace (setTrim s) = scanPlace s := by
  unfold setTrim
  extract_lets g lim off
  repeat' split
  all_goals rfl

/-- GENLOCK's judgement of an anchor leaves the anchor where it is. -/
theorem genlockAnchored_scanPlace (a : Nat) (s : State) : scanPlace (genlockAnchored a s) = scanPlace s := by
  unfold genlockAnchored
  extract_lets +onlyGivenNames g err line told
  split
  · rfl
  · rw [setTrim_scanPlace, genlockLimit_scanPlace, genlockMove_scanPlace]
    subst told
    split <;> rfl

/-! ### The kinds of frames (R142, R143, R148) -/

theorem incSat_scanPlace (h p n : Nat) (s : State) : scanPlace (incSat h p n s) = scanPlace s := scanPlace_of_only (incSat_only ..)

theorem enterState_scanPlace (p : PowerState) (s : State) : scanPlace (enterState p s) = scanPlace s :=
  scanPlace_of_only (enterState_only p s)

theorem insertion_scanPlace (s : State) : scanPlace (insertion s) = scanPlace s := rfl

theorem tellRepeat_scanPlace (kind : Nat) (s : State) : scanPlace (tellRepeat kind s) = scanPlace s := by
  unfold tellRepeat
  exact raise_scanPlace _ _ _ _

theorem takeFrame_scanPlace (a : Nat) (k : FrameKind) (w : Waiting) (s : State) : scanPlace (takeFrame a k w s) = scanPlace s := by
  unfold takeFrame
  extract_lets run rx raster begun entered told
  have enters : scanPlace entered = scanPlace s := enterState_scanPlace .run begun
  clear_value entered
  have tells : scanPlace told = scanPlace s := by
    subst told
    split
    · exact enters
    · rw [raise_scanPlace, enters]
  clear_value told
  split
  · rw [raise_scanPlace, incSat_scanPlace, tells]
  · exact tells

/-- What a frame does by its kind leaves its anchor where it is. -/
theorem noteKind_scanPlace (a : Nat) (k : FrameKind) (s : State) : scanPlace (noteKind a k s) = scanPlace s := by
  cases k with
  | live | deferred =>
    dsimp only [noteKind]
    split
    · exact takeFrame_scanPlace ..
    · rfl
  | self =>
    dsimp only [noteKind]
    have enters : scanPlace (if s.power.state = .run then enterState .self s else s) = scanPlace s := by
      split
      · exact enterState_scanPlace .self s
      · rfl
    generalize (if s.power.state = .run then enterState .self s else s) = entered at enters ⊢
    split
    · rw [tellRepeat_scanPlace, insertion_scanPlace, incSat_scanPlace]
      exact enters
    · rw [insertion_scanPlace, incSat_scanPlace]
      exact enters
  | bridge =>
    dsimp only [noteKind]
    split
    · rw [insertion_scanPlace, incSat_scanPlace]
      rfl
    · rw [raise_scanPlace, insertion_scanPlace, incSat_scanPlace]
      rfl
  | repeat_ =>
    dsimp only [noteKind]
    rw [tellRepeat_scanPlace, insertion_scanPlace, incSat_scanPlace]
    rfl
  | black =>
    dsimp only [noteKind]
    rw [insertion_scanPlace, raise_scanPlace, incSat_scanPlace]
    rfl

/-! ### The anchor (R136) -/

theorem dropWaiting_scanPlace (s : State) : scanPlace (dropWaiting s) = scanPlace s := by
  unfold dropWaiting
  split
  · rfl
  · rw [raise_scanPlace, incSat_scanPlace]
    rfl

/-- Frame `i` has its anchor at tick `a`, and its line start −6 is next. -/
structure AnchoredAt (a i : Nat) (t : State) : Prop where
  place : scanPlace t = (a, i, -6, none)
  first : t.raster.first = false

theorem AnchoredAt.of_raster {a i : Nat} {s t : State} (anchored : AnchoredAt a i s) (same : t.raster = s.raster) :
    AnchoredAt a i t := by
  obtain ⟨place, first⟩ := anchored
  unfold scanPlace at place
  constructor
  · unfold scanPlace
    rw [same, place]
  · rw [same, first]

/-- An anchor at tick `a` is that of one more frame. -/
theorem makeAnchor_anchors (a : Nat) (s : State) : AnchoredAt a (s.raster.index + 1) (makeAnchor a s) := by
  unfold makeAnchor
  extract_lets +onlyGivenNames b forgot store begun kind ended raster anchored genlock moved noted raster' drawn raster'' cur state gain
    limited temp
  have hBegun : scanPlace begun = scanPlace s := by
    have forgets : scanPlace forgot = scanPlace s :=
      (scanPlace_of_only (forgetInput_only (dropWaiting b))).trans (dropWaiting_scanPlace b)
    clear_value forgot
    subst begun
    split
    · exact (scanPlace_of_only (showSlots_only { forgot with fstore := { store with hold := none } })).trans forgets
    · rfl
  have hAnchored : scanPlace anchored = (a, s.raster.index + 1, -6, none) := by
    have ends : scanPlace ended = scanPlace s := (scanPlace_of_only (endLast_only a begun)).trans hBegun
    clear_value ended
    have frames : ended.raster.index = s.raster.index := congrArg (·.2.1) ends
    exact congrArg (fun i => (a, i + 1, (-6 : Int), (none : Option Nat))) frames
  have hNoted : scanPlace noted = scanPlace anchored :=
    calc scanPlace noted
      _ = scanPlace (noteKind a kind (clearFrame moved)) := scanPlace_of_only (incWrap_only ..)
      _ = scanPlace (clearFrame moved) := noteKind_scanPlace ..
      _ = scanPlace moved := scanPlace_of_only (clearFrame_only moved)
      _ = scanPlace (moveRoles kind genlock) := scanPlace_of_only (moveLanding_only ..)
      _ = scanPlace genlock := scanPlace_of_only (moveRoles_only ..)
      _ = scanPlace anchored := genlockAnchored_scanPlace a anchored
  have hCur : AnchoredAt a (s.raster.index + 1) cur := by
    have draws : scanPlace drawn = scanPlace noted :=
      (scanPlace_of_only (noteOverdrive_only kind { noted with raster.kind := kind })).trans rfl
    exact ⟨draws.trans (hNoted.trans hAnchored), rfl⟩
  have hLimited : limited.raster = cur.raster := by
    have gains : gain.raster = cur.raster := changeRes_raster.trans changeRes_raster
    clear_value gain
    subst limited
    split
    · exact incSat_raster.trans gains
    · exact gains
  have hTemp : temp.raster = cur.raster := by
    subst temp
    split
    · exact hLimited
    · exact (setResI_raster ..).trans hLimited
  clear_value temp
  extract_lets last
  have hLast : last.raster = cur.raster := changeRes_raster.trans hTemp
  clear_value last
  apply hCur.of_raster
  split
  · split
    · exact ((displayKeyLost_only ..).same .raster rfl).trans hLast
    · exact hLast
  · exact hLast

/-- The command of the row of the anchor that is due makes it. -/
theorem anchorBy_due {s : State} {a : Nat} {row : AnchorRow} (due : anchorDue s = some (a, row)) :
    anchorBy row s = makeAnchor a s := by
  unfold anchorBy
  rw [due]
  exact if_pos rfl

/-- Settles O23: the command of its row makes the anchor that is due, and what follows the anchor leaves its place alone. -/
theorem anchorsMadeWhenDue : Obligations.AnchorsMadeWhenDue := by
  unfold Obligations.AnchorsMadeWhenDue
  intro s a made
  have makes : ∀ {row : AnchorRow} {c : Instr}, exec c s = .next (anchorBy row s) → anchorDue s = some (a, row) → made c := by
    intro row c runs due
    obtain ⟨place, first⟩ := makeAnchor_anchors a s
    simp only [scanPlace, Prod.mk.injEq] at place
    obtain ⟨anchor, index, next, boundary⟩ := place
    rw [anchorBy_due due] at runs
    exact ⟨_, runs, (makeAnchor_steady a s).now, anchor, index, next, boundary, first⟩
  exact ⟨makes rfl, makes rfl, makes rfl, makes rfl, makes rfl⟩

/-! ### SYNC_IN (R149, R150) -/

theorem periodValid_changeRes (h p v : Nat) (s : State) : periodValid (changeRes h p v s) = periodValid s := by
  unfold periodValid
  rw [changeRes_raster]

/-- A valid period is taken and counted. -/
theorem syncEdge_valid {s : State} {e : Nat} (last : s.raster.gen.lastEdge = some e) (valid : periodValid s (s.now - e) = true) :
    (syncEdge s).raster.gen.lastEdge = some s.now ∧ (syncEdge s).raster.gen.period = s.now - e
      ∧ (syncEdge s).raster.gen.valid = min 4 (s.raster.gen.valid + 1) ∧ (syncEdge s).raster.gen.invalid = 0 := by
  unfold syncEdge
  simp only [last]
  rw [periodValid_changeRes, if_pos valid, showLock_raster]
  dsimp only
  rw [changeRes_now]
  split <;> exact ⟨rfl, rfl, rfl, rfl⟩

theorem execSyncInEdge_on {s : State} (on : panelDomainOn s = true) : execSyncInEdge s = .next (syncEdge s) :=
  congrArg Host.Outcome.next (if_pos on)

/-- Without an edge in time no period counts, and a raster that was locked is in HOLDOVER. -/
theorem execSyncInTimeout_missed {s : State} {e : Nat} (last : s.raster.gen.lastEdge = some e) (genlock : s.raster.mode.timing = 2)
    (acquires : s.raster.gen.step ≠ 0) : ∃ t, execSyncInTimeout s = .next t ∧ t.raster.gen.lastEdge = none
      ∧ t.now = max s.now (e + frameTicks s * 3 / 2) ∧ (s.raster.gen.step = 5 → t.raster.gen.step = 6) := by
  unfold execSyncInTimeout
  refine ⟨_, rfl, ?_⟩
  simp -zeta only [last]
  rw [if_neg (not_or.mpr ⟨not_not_intro genlock, acquires⟩)]
  extract_lets +onlyGivenNames moved lost shown raster gen missed
  have forgets : missed.raster.gen.lastEdge = none := rfl
  have comes : missed.now = max s.now (e + frameTicks s * 3 / 2) := changeRes_now (s := moved)
  clear_value missed
  split
  next locked =>
    rw [loseLock_raster, (loseLock_only 0 missed).same .now rfl]
    exact ⟨forgets, comes, fun _ => rfl⟩
  next unlocked =>
    have notLocked : s.raster.gen.step ≠ 5 := unlocked
    split
    · rw [showLock_raster, (showLock_only _).same .now rfl]
      exact ⟨forgets, comes, fun locked => absurd locked notLocked⟩
    · exact ⟨forgets, comes, fun locked => absurd locked notLocked⟩

/-- Settles O24: a valid period is taken where the edge ends it; a missing edge loses the lock of a raster that had it. -/
theorem syncInMeasured : Obligations.SyncInMeasured := by
  unfold Obligations.SyncInMeasured
  intro s e last
  exact ⟨fun on valid => ⟨_, execSyncInEdge_on on, syncEdge_valid last valid⟩, execSyncInTimeout_missed last⟩

/-! ### Line starts (R136; 11, R298) -/

/-- The parts that a line start other than the first of the blanking may change, the raster left aside. -/
def lineParts : List Part :=
  [.shadow, .results, .events, .counts, .ports, .storeState, .storeQueue, .heldEvents, .rx, .pipe, .out, .panel, .fstore, .sram, .resil, .power]

/-- Of a raster anchored as before, the next line start follows at the same moment. -/
structure LineIssued (s t : State) : Prop where
  now    : t.now = s.now
  next   : t.raster.next = s.raster.next + 1
  anchor : t.raster.anchor = s.raster.anchor

/-- A line start other than the first of the blanking leaves the time and the anchor alone, and the next line is next. -/
theorem lineStart_issued {s : State} (runs : s.raster.stopped = false) (inside : s.raster.next ≠ s.raster.mode.height) :
    LineIssued s (lineStart s.raster.next s) := by
  unfold lineStart
  extract_lets +onlyGivenNames closed last bounded m n stretch scanned shown frame
  have hClosed : Only lineParts s closed :=
    (closeDeadlines_only ..).after ((repairTables_only ..).after ((takeOvers_only s).mono rfl))
  have notLast : last = false := by
    refine decide_eq_false ?_
    rw [hClosed.same .raster rfl]
    exact inside
  have hBounded : Only lineParts s bounded := by
    subst bounded
    rw [if_neg (ne_true_of_eq_false notLast)]
    exact hClosed
  have sameRaster : bounded.raster = s.raster := hBounded.same .raster rfl
  have hNext : n = s.raster.next := congrArg RasterSt.next sameRaster
  have hShown : Only lineParts s shown := (changeRes_only ..).after ((showDuty_only ..).after ((othamLine_only ..).after hBounded))
  clear_value shown
  rw [if_neg (by simp [sameRaster, runs, notLast])]
  extract_lets +onlyGivenNames driven biased held raster stretched
  have hDriven : Only lineParts s driven := by
    subst driven
    split
    · exact (lineSet_only ..).after ((lineSet_only ..).after hShown)
    · exact hShown
  have hBiased : Only lineParts s biased := (biasDue_only ..).after ((sumDuty_only ..).after hDriven)
  clear_value biased
  have hHeld : Only lineParts s held := by
    subst held
    split
    · exact (biasStretch_only ..).after hBiased
    · exact hBiased
  have heldAnchor : held.raster.anchor = s.raster.anchor := congrArg RasterSt.anchor (hHeld.same .raster rfl)
  have hStretched : stretched.now = s.now ∧ stretched.raster.anchor = s.raster.anchor := ⟨hHeld.same .now rfl, heldAnchor⟩
  clear_value stretched
  extract_lets +onlyGivenNames unlit lit
  have hLit : lit.now = s.now ∧ lit.raster.anchor = s.raster.anchor := by
    subst lit
    split
    · have lights := firstLight_only (stretched.raster.kind == .live) { stretched with raster.lightDue := false }
      exact ⟨(lights.same .now rfl).trans hStretched.1, (congrArg RasterSt.anchor (lights.same .raster rfl)).trans hStretched.2⟩
    · exact hStretched
  clear_value lit
  exact ⟨hLit.1, congrArg (· + 1) hNext, hLit.2⟩

/-- The line start that is due comes in a raster that runs. -/
theorem lineDue_runs {s : State} {d : Nat} (due : lineDue s = some d) : s.raster.stopped = false := by
  unfold lineDue at due
  split at due
  · cases due
  next runs => exact eq_false_of_ne_true runs

/-- A line of the black scan with `left + 1` still to come leaves one fewer. -/
theorem scanLine_left (left : Nat) (s : State) : (scanLine (left + 1) s).panel.scanLeft = some left := rfl

/-- Settles O25: nothing that a line start does before the next is counted moves the time or the anchor; the black scan counts its own lines. -/
theorem lineStartsIssued : Obligations.LineStartsIssued := by
  unfold Obligations.LineStartsIssued
  intro s
  refine ⟨fun d noScan due inside => ?_, fun n scans => ?_⟩
  · have runs : s.raster.stopped = false := lineDue_runs due
    obtain ⟨now, next, anchor⟩ := lineStart_issued (s := advanceTo d s) runs inside
    refine ⟨lineStart s.raster.next (advanceTo d s), ?_, now, next, anchor⟩
    show execLineStart s = _
    unfold execLineStart
    simp only [noScan, due]
  · refine ⟨scanLine (n + 2) s, ?_, scanLine_left (n + 1) s⟩
    show execLineStart s = _
    unfold execLineStart
    simp only [scans]

end Sys2Proof.Machine
end

section
/-! SUPPORT. How a WRITE that is carried out is answered (02, R60, R66, R69), and what its answer, and an event raised on the way, leave of
the ports. -/

set_option Elab.async false

namespace Sys2Proof.Machine

/-! ### The traffic of a port -/

/-- What a port takes frames by: whether it is enabled, the last request that it executed, and how many wait for their answer. -/
def PortSt.intake (p : PortSt) : Bool × Option (Nat × Nat) × Nat := (p.enabled, p.last, p.unanswered)

/-- The units whose results tell of the ports' traffic. -/
abbrev trafficUnits : List Nat := [hLINK, hAUX, hHOSTPORT, hFIELDPORT, hAUXPORT]

/-- Frames enter and leave the queue of one port: it takes frames as before, and the others are as they were. -/
structure Traffic (i : PortId) (s t : State) : Prop where
  intake : (port t i).intake = (port s i).intake
  others : ∀ j, j ≠ i → port t j = port s j
  quiet  : Quiet trafficUnits s t

theorem Traffic.refl (i : PortId) (s : State) : Traffic i s s := ⟨rfl, fun _ _ => rfl, .refl s⟩
theorem Traffic.trans {i : PortId} {s t u : State} (a : Traffic i s t) (b : Traffic i t u) : Traffic i s u :=
  ⟨b.intake.trans a.intake, fun j hj => (b.others j hj).trans (a.others j hj), a.quiet.trans b.quiet⟩
theorem Traffic.of_quiet {i : PortId} {ps : List Part} {s t : State} (h : Only ps s t) (q : Quiet trafficUnits s t)
    (hp : ps.contains .ports = false := by decide) : Traffic i s t :=
  ⟨by rw [port_of_only h hp], fun j _ => port_of_only h hp j, q⟩
theorem Traffic.of_only {i : PortId} {ps : List Part} {s t : State} (h : Only ps s t) (hp : ps.contains .ports = false := by decide)
    (hr : ps.contains .results = false := by decide) : Traffic i s t := .of_quiet h (.of_only h hr) hp
theorem Traffic.incWrap {i : PortId} {u p : Nat} (n : Nat) (s : State) (hu : trafficUnits.contains u = true) (hp : p < 4096) :
    Traffic i s (incWrap u p n s) := by
  refine .of_quiet (incWrap_only ..) ?_
  unfold Machine.incWrap
  split
  · exact .refl s
  · exact .setRes _ s hu hp

theorem port_setPort_other {i j : PortId} (hj : j ≠ i) (p : PortSt) (s : State) : port (setPort i p s) j = port s j := by
  rw [port_setPort_eq, if_neg hj]
theorem Traffic.setPort {i : PortId} {p : PortSt} {s : State} (h : p.intake = (port s i).intake) :
    Traffic i s (Machine.setPort i p s) :=
  ⟨by rw [port_setPort, h], fun _ hj => port_setPort_other hj p s, .of_only (setPort_only ..) rfl⟩

theorem auxTake_traffic {c : Nat} {s : State} {x : AuxReq × State} (h : auxTake c s = some x) : Traffic .sideband s x.2 :=
  .of_only (auxTake_only c s x h)

theorem auxSegment_traffic {s : State} {x : AuxReq × State} (h : auxSegment s = some x) : Traffic .sideband s x.2 := by
  unfold auxSegment at h
  extract_lets cut at h
  have sent (t : State) (v : Option (List Nat × Nat)) : Traffic .sideband t { t with aux.sending := v } :=
    .of_only (ps := [.aux]) (Only.upd_aux (Only.refl t))
  split at h
  · cases h
    exact sent s _
  · split at h
    · cases h
    · cases h
      refine .trans (.trans (Traffic.setPort ?_) (.incWrap _ _ (by decide) (by decide))) (sent _ _)
      rfl

theorem auxNext_traffic {s : State} {x : AuxReq × State} (h : auxNext s = some x) : Traffic .sideband s x.2 := by
  unfold auxNext at h
  simp only [Option.or_eq_some_iff] at h
  rcases h with h | ⟨-, h | ⟨-, h⟩⟩
  · exact auxTake_traffic h
  · exact auxTake_traffic h
  · split at h
    · cases h
    · simp only [Option.or_eq_some_iff] at h
      rcases h with h | ⟨-, h | ⟨-, h⟩⟩
      · exact auxTake_traffic h
      · exact auxTake_traffic h
      · exact auxSegment_traffic h

theorem auxPump_traffic (s : State) : Traffic .sideband s (auxPump s) := by
  unfold auxPump
  split
  · exact .refl _ s
  · split
    · exact .refl _ s
    next next =>
      refine (auxNext_traffic next).trans (.trans ?_ (.incWrap _ _ (by decide) (by decide)))
      exact .of_only (ps := [.aux]) (Only.upd_aux (Only.refl _))

theorem sendCredit_traffic (s : State) : Traffic .sideband s (sendCredit s) := by
  unfold sendCredit auxPush
  extract_lets +onlyGivenNames shown filtered
  have showing : Traffic .sideband s shown := .of_quiet (showRegionLimit_only s) (.changeRes _ s (by decide) (by decide))
  refine (showing.trans ?_).trans (auxPump_traffic _)
  exact .of_only (ps := [.aux]) (Only.upd_aux (Only.upd_aux (Only.refl shown)))

theorem portUnit_traffic (i : PortId) : trafficUnits.contains (portUnit i) = true := by cases i <;> decide

theorem announceCredits_traffic (i : PortId) (s : State) : Traffic i s (announceCredits i s) := by
  unfold announceCredits
  extract_lets shown
  have showing : Traffic i s shown := .of_quiet (showCredits_only ..) (.changeRes _ s (portUnit_traffic i) (by decide))
  cases i with
  | host => exact showing
  | field => exact showing.trans (.of_only (ps := [.can]) (Only.upd_can (Only.refl shown)))
  | sideband => exact showing.trans (sendCredit_traffic shown)

theorem pushOut_traffic (i : PortId) (f : OutFrame) (s : State) : Traffic i s (pushOut i f s) := .setPort rfl

/-! ### The answer of a WRITE -/

/-- The sealing of a frame counts it in its session, and changes nothing else of the port. -/
theorem sealFrame_port (p : PortSt) (op seq handle pf elem status : Nat) (payload : List Nat) :
    ∃ n, (sealFrame p op seq handle pf elem status payload).2 = { p with rspCount := n } := by
  unfold sealFrame
  split
  · exact ⟨p.rspCount, rfl⟩
  · exact ⟨_, rfl⟩

/-- The response is counted at its port, which stays enabled or disabled; what follows is traffic of that port. -/
theorem respond_traffic (r : Req) (status : Nat) (payload : List Nat) (keep : Bool) (s : State) :
    ∃ p : PortSt, p.enabled = (port s r.port).enabled ∧ Traffic r.port (setPort r.port p s) (respond r status payload keep s) := by
  obtain ⟨n, sealed⟩ := sealFrame_port (port s r.port) (Nat.lor r.op 128) r.seq r.handle (reqParam r) r.byte6 status payload
  unfold respond
  simp only [sealed]
  refine ⟨_, ?_, (pushOut_traffic ..).trans (announceCredits_traffic ..)⟩
  rfl

/-- The state that a WRITE leaves which is answered OK. -/
def answerOk (r : Req) (s : State) : State := respond r stOK [] true (noteActivity s)

theorem answerOk_only (r : Req) (s : State) : Only [.results, .ports, .can, .aux, .power] s (answerOk r s) :=
  (respond_only ..).after ((noteActivity_only s).mono rfl)

theorem port_noteActivity (s : State) (i : PortId) : port (noteActivity s) i = port s i := port_of_only (noteActivity_only s) rfl i

theorem answerOk_others (r : Req) (s : State) {j : PortId} (hj : j ≠ r.port) : port (answerOk r s) j = port s j := by
  obtain ⟨p, -, traffic⟩ := respond_traffic r stOK [] true (noteActivity s)
  exact (traffic.others j hj).trans ((port_setPort_other hj p _).trans (port_noteActivity s j))

/-- The answer enables and disables no port. -/
theorem answerOk_enabled (r : Req) (s : State) (j : PortId) : (port (answerOk r s) j).enabled = (port s j).enabled := by
  by_cases own : j = r.port
  · subst own
    obtain ⟨p, enabled, traffic⟩ := respond_traffic r stOK [] true (noteActivity s)
    have same := congrArg Prod.fst traffic.intake
    rw [port_setPort] at same
    exact same.trans (enabled.trans (congrArg _ (port_noteActivity s _)))
  · rw [answerOk_others r s own]

theorem answerOk_quiet (r : Req) (s : State) : Quiet trafficUnits s (answerOk r s) := by
  obtain ⟨p, -, traffic⟩ := respond_traffic r stOK [] true (noteActivity s)
  exact (Quiet.of_only (noteActivity_only s) rfl).trans (.trans (.of_only (setPort_only ..) rfl) traffic.quiet)

/-- The entry of a WRITE that is accepted, and what it leaves where it is carried out at once, and something may follow its response. -/
theorem arrive_accepted {s : State} {r : Req} (hop : r.op = 2) (accepted : s.accepts r = true) {e : Entry}
    (named : entryAny (begun r s) r.handle (r.param % 4096) = some e) {f : State → State} {t : State}
    (writes : writeEntry r (port s r.port).level e (begun r s) = okThen f t) : arrive r s = f (answerOk r t) := by
  obtain ⟨serves, e', checked⟩ := accepts_entry accepted
  obtain ⟨same, -, -⟩ := checkRequest_ok checked
  obtain rfl : e' = e := Option.some.inj (same.symm.trans named)
  rw [arrive_served r s serves, execute_checked (.inr hop) checked, if_neg (by omega), writes]
  rfl

/-- The answer is sealed with the key that the port had when the request came, where what is written leaves the key alone. -/
theorem answerOk_answered {s t : State} {r : Req} (key : (port t r.port).key = (port (begun r s) r.port).key) :
    (answerOk r t).answered (port s r.port).key r := by
  rw [← begun_key, ← key, ← port_noteActivity]
  exact respond_answered r stOK [] (noteActivity t)

/-! ### Events and the ports' keys -/

theorem SealsKept.foldl {α : Type} {g : State → α → State} (hg : ∀ t a, SealsKept t (g t a)) :
    ∀ (l : List α) (t : State), SealsKept t (l.foldl g t)
  | [], t => .refl t
  | a :: l, t => (hg t a).trans (SealsKept.foldl hg l (g t a))

theorem SealsKept.foldl2 {α β : Type} {g : β × State → α → β × State} (hg : ∀ x a, SealsKept x.2 (g x a).2) :
    ∀ (l : List α) (x : β × State), SealsKept x.2 (l.foldl g x).2
  | [], x => .refl x.2
  | a :: l, x => (hg x a).trans (SealsKept.foldl2 hg l (g x a))

theorem sendNote_seals (i : PortId) (r : Nat) (e : Event) (s : State) : SealsKept s (sendNote i r e s) := by
  unfold sendNote
  extract_lets p
  split
  · exact .trans (t := setPort i { p with lost := p.lost + 1 } s) (.setPort i rfl rfl) (.of_only (incSat_only ..))
  · obtain ⟨n, sealed⟩ := sealFrame_port p 0xC0 p.nseq e.handle 0x00C 0 0 (notePayload r e)
    simp only [sealed]
    refine .trans ?_ (pushOut_seals ..)
    exact .setPort i rfl rfl

theorem recordLost_seals (i : PortId) (s : State) : SealsKept s (recordLost i s).2 := by
  unfold recordLost
  split
  · exact .refl s
  · refine .trans (t := setPort i { port s i with lost := 0 } s) (.setPort i rfl rfl) ?_
    exact .trans (.of_only (noteLast_only ..)) (.trans (.of_only (assignRecord_only ..)) (sendNote_seals ..))

theorem passLost_seals (i : PortId) (x : Option (Nat × Event)) (s : State) : SealsKept s (passLost i x s) := by
  unfold passLost
  split
  · exact .refl s
  · refine .foldl (fun t j => ?_) _ _
    split
    · exact sendNote_seals ..
    · exact .refl t

theorem tellLost_seals (e : Event) (s : State) : SealsKept s (tellLost e s) := by
  unfold tellLost
  extract_lets losers told
  have telling : SealsKept s told.2 := by
    subst told
    refine SealsKept.foldl2 (fun x i => ?_) losers ([], s)
    exact recordLost_seals i x.2
  exact telling.trans (.foldl (fun _ _ => passLost_seals ..) _ _)

theorem notifyAll_seals (r : Nat) (e : Event) (s : State) : SealsKept s (notifyAll r e s) := by
  unfold notifyAll
  refine .foldl (fun t i => ?_) _ _
  split
  · exact sendNote_seals ..
  · exact .refl t

theorem recordEvent_seals (e : Event) (s : State) : SealsKept s (recordEvent e s) :=
  .trans (.of_only (assignRecord_only e s)) ((tellLost_seals ..).trans (notifyAll_seals ..))

theorem tellNotLogged_seals (s : State) : SealsKept s (tellNotLogged s) := by
  unfold tellNotLogged
  split
  · refine .trans ?_ (.trans (.of_only (noteLast_only ..)) (recordEvent_seals ..))
    exact .of_only (ps := [.storeQueue]) (Only.upd_storeQueue (Only.refl s))
  · exact .refl s

theorem logEvent_seals (e : Event) (s : State) : SealsKept s (logEvent e s) := by
  unfold logEvent
  split
  · exact .refl s
  · extract_lets told
    have telling : SealsKept s told := tellNotLogged_seals s
    split
    · exact telling.trans (.trans (.of_only (ps := [.storeQueue]) (Only.upd_storeQueue (Only.refl told))) (.of_only (incSat_only ..)))
    · exact telling.trans (.trans (.of_only (noteLimit_only ..)) (recordEvent_seals ..))

/-- Raising an event leaves every port its key. -/
theorem raise_seals (code handle : Nat) (data : List Nat) (s : State) : SealsKept s (raise code handle data s) := by
  unfold raise keepEvent
  extract_lets noted
  have noting : SealsKept s noted := .of_only (noteLast_only ..)
  split
  · exact noting
  · split
    · exact noting.trans (logEvent_seals ..)
    · exact noting.trans (.of_only (holdEvent_only ..))

/-- The end of a port's session leaves the other ports their keys. -/
theorem endSession_key {i j : PortId} (hj : j ≠ i) (reason : Nat) (s : State) :
    (port (endSession i reason s) j).key = (port s j).key := by
  unfold endSession setLevel
  extract_lets level
  split
  · rfl
  · rw [port_of_only (changeRes_only ..) rfl, port_setPort_other hj, (raise_seals ..).key]

/-- A port whose session has ended is at Observer. -/
theorem endSession_level (i : PortId) (reason : Nat) (s : State) : (port (endSession i reason s) i).level = 0 := by
  unfold endSession setLevel
  extract_lets level
  split
  · assumption
  · rw [port_of_only (changeRes_only ..) rfl, port_setPort]

end Sys2Proof.Machine
end

section
/-! SUPPORT. Writes of BLOBs (02, R45, R47): where their bytes stand afterwards; STRESS_SET (08, R231). -/

set_option Elab.async false

namespace Sys2Proof.Machine

/-! ### A WRITE that is accepted -/

/-- What a WRITE leaves that is accepted and carried out, with what follows its response, and what answers it. -/
theorem write_accepted {s : State} {r : Req} (hop : r.op = 2) (accepted : s.accepts r = true) {e : Entry}
    (named : entryAny (begun r s) r.handle (r.param % 4096) = some e) {f : State → State} {t : State}
    (writes : writeEntry r (port s r.port).level e (begun r s) = okThen f t)
    (key : (port t r.port).key = (port (begun r s) r.port).key) :
    arrive r s = f (answerOk r t) ∧ (answerOk r t).answered (port s r.port).key r :=
  ⟨arrive_accepted hop accepted named writes, answerOk_answered key⟩

/-! ### BLOBs -/

theorem leNat_offset {off : Nat} (small : off < 2 ^ 32) (bs : List Nat) : leNat ((u32 off ++ bs).take 4) = off :=
  leNat_toLE_small (n := 4) small

/-- Bytes of a BLOB put from an offset on leave those before it. -/
theorem stored_putBytes_below (a : Apply) (h p off : Nat) (bs : List Nat) {k j : Nat} (hj : j < off + k) (s : State)
    (c : s.Canonical) : stored a ((bs.zipIdx k).foldl (fun s b => putValue a h p (off + b.2) (b.1 : Int) s) s) h p j = stored a s h p j := by
  induction bs generalizing k s with
  | nil => rfl
  | cons b bs ih =>
    simp only [List.zipIdx_cons, List.foldl_cons]
    rw [ih (by omega) _ (putValue_canon _ _ _ _ _ c), stored_putValue_other _ _ _ c (by omega)]

/-- Each byte put holds its value. -/
theorem stored_putBytes (a : Apply) (h p off : Nat) (bs : List Nat) {k i : Nat} (hi : i < bs.length) (s : State) (c : s.Canonical) :
    stored a ((bs.zipIdx k).foldl (fun s b => putValue a h p (off + b.2) (b.1 : Int) s) s) h p (off + k + i)
      = some (bs.getD i 0 : Int) := by
  induction bs generalizing k i s with
  | nil => exact absurd hi (Nat.not_lt_zero i)
  | cons b bs ih =>
    simp only [List.zipIdx_cons, List.foldl_cons]
    have c' := putValue_canon a h p (off + k) (b : Int) c
    cases i with
    | zero => exact (stored_putBytes_below a h p off bs (Nat.lt_succ_self _) _ c').trans (stored_putValue_self _ _ _ _ _ _ c)
    | succ i =>
      have rest := ih (k := k + 1) (Nat.lt_of_succ_lt_succ hi) _ c'
      rwa [show off + (k + 1) + i = off + k + (i + 1) by omega] at rest

/-- A write of a BLOB puts each of its bytes that lies within its size. -/
theorem stored_writeBlob (e : Entry) (h off : Nat) (bs : List Nat) {i : Nat} (hi : i < bs.length) (within : off + i < valueSize e)
    (s : State) (c : s.Canonical) : stored e.apply (writeBlob e h off bs s) h e.param (off + i) = some (bs.getD i 0 : Int) := by
  have kept : i < (bs.take (valueSize e - off)).length := by
    rw [List.length_take]
    omega
  have byte : (bs.take (valueSize e - off)).getD i 0 = bs.getD i 0 := by
    rw [List.getD_eq_getElem?_getD, List.getElem?_take_of_lt (by omega), List.getD_eq_getElem?_getD]
  unfold writeBlob
  extract_lets n taken opened put
  have canonical : opened.Canonical := by
    subst opened
    split
    · exact (setItems_only ..).kept.canon c
    · exact c
  have puts : stored e.apply put h e.param (off + i) = some (bs.getD i 0 : Int) :=
    byte ▸ stored_putBytes e.apply h e.param off taken (k := 0) kept opened canonical
  split
  · rwa [stored_of_only (countClamp_only ..)]
  · exact puts

/-- A WRITE of a BLOB: the offset comes first, then the bytes. -/
theorem writeEntry_blob {h : Hdr} {u p off level : Nat} {bs : List Nat} {e : Entry} (small : off < 2 ^ 32) (blob : isBlob e = true)
    {s : State} : writeEntry (mkWrite h u p (u32 off ++ bs)) level e s = writeBlobEntry u e off bs s := by
  unfold writeEntry
  simp only [blob, if_true]
  show writeBlobEntry u e (leNat ((u32 off ++ bs).take 4)) bs s = _
  rw [leNat_offset small]

/-- STRESS_SET, as the dictionary has it (Table 8.7), at the size of the panel. -/
def stressSetEntry (s : State) : Entry :=
  en 0xF00 (.blob (4 * (panelColumns s.raster.mode * panelRows s.raster.mode * s.raster.mode.sub))) 0 3 3 0 .any .vb false true none

theorem entryAny_stressSet (s : State) : entryAny s hCOMP Par.COMP_STRESS_SET = some (stressSetEntry s) := rfl

/-- The request of a write of STRESS_SET. -/
abbrev stressSetReq (h : Hdr) (off : Nat) (bs : List Nat) : Req := mkWrite h hCOMP Par.COMP_STRESS_SET (u32 off ++ bs)

theorem writeEntry_stressSet {h : Hdr} {off : Nat} (small : off < 2 ^ 32) (bs : List Nat) (level : Nat) {s : State}
    (fits : itemFits s (keyOf hCOMP Par.COMP_STRESS_SET) none = true) :
    writeEntry (stressSetReq h off bs) level (stressSetEntry s) s
      = ok (writeBlob (stressSetEntry s) hCOMP off bs (stageBytes bs.length s)) := by
  rw [writeEntry_blob small rfl]
  unfold writeBlobEntry
  have room : ¬((stressSetEntry s).apply = .vb ∧ itemFits s (keyOf hCOMP (stressSetEntry s).param) none = false) :=
    fun refused => absurd (refused.2.symm.trans fits) Bool.false_ne_true
  rw [if_neg (by decide), if_neg (by decide), if_neg (by decide), if_neg room]
  rfl

/-- STRESS_SET waits in the open set. -/
theorem exec_stressSet {s : State} (c : s.Canonical) {h : Hdr} {off : Nat} {bs : List Nat} (small : off < 2 ^ 32)
    (accepted : s.accepts (stressSetReq h off bs) = true) (fits : itemFits s (keyOf hCOMP Par.COMP_STRESS_SET) none = true) :
    ∃ t, exec (.stressSet h off bs) s = .next t
      ∧ (∀ i < bs.length, off + i < 4 * (panelColumns s.raster.mode * panelRows s.raster.mode * s.raster.mode.sub) →
        mget none t.dict.patch (cell hCOMP Par.COMP_STRESS_SET (off + i)) = some (bs.getD i 0 : Int))
      ∧ t.pipe.stress = s.pipe.stress ∧ t.answered (port s h.port).key (stressSetReq h off bs) := by
  have begins := begun_only (stressSetReq h off bs) s
  have mode : (begun (stressSetReq h off bs) s).raster = s.raster := begins.same .raster rfl
  have fits' : itemFits (begun (stressSetReq h off bs) s) (keyOf hCOMP Par.COMP_STRESS_SET) none = true := by
    unfold itemFits
    rw [begins.dict_items rfl]
    exact fits
  have writes := writeEntry_stressSet (h := h) small bs (port s h.port).level fits'
  have staged := stageBytes_only bs.length (begun (stressSetReq h off bs) s)
  have wrote := (writeBlob_only (stressSetEntry (begun (stressSetReq h off bs) s)) hCOMP off bs _).after
    (staged.mono (qs := [.config, .shadow, .results, .dram, .free]) rfl)
  obtain ⟨step, answered⟩ := write_accepted (f := id) rfl accepted (entryAny_stressSet _) writes (by rw [port_of_only wrote rfl])
  have answers := answerOk_only (stressSetReq h off bs)
    (writeBlob (stressSetEntry (begun (stressSetReq h off bs) s)) hCOMP off bs (stageBytes bs.length (begun (stressSetReq h off bs) s)))
  refine ⟨_, congrArg Host.Outcome.next step, fun i hi within => ?_, ?_, answered⟩
  · rw [← mode] at within
    exact (congrArg (mget none · _) (answers.dict_patch rfl)).trans
      (stored_writeBlob (stressSetEntry (begun (stressSetReq h off bs) s)) hCOMP off bs hi within _
        (staged.kept.canon (begins.kept.canon c)))
  · exact congrArg PipeSt.stress ((answers.pipe rfl rfl).trans ((wrote.pipe rfl rfl).trans (begins.pipe rfl rfl)))

end Sys2Proof.Machine
end

section
/-! SUPPORT. Writes of DRV_REGS, of the overlay memory and of the buffer tables (10, R260; 06, R172, R173; 14, R362). -/

set_option Elab.async false

namespace Sys2Proof.Machine

/-! ### DRV_REGS -/

/-- DRV_REGS, as the dictionary has it (Table 10.12). -/
def drvRegsEntry : Entry := en 0x042 (.blob 1024) 0 0 2 0 .any .now true false none

theorem entryAny_drvRegs (s : State) : entryAny s hOUTPUT Par.OUTPUT_DRV_REGS = some drvRegsEntry := rfl

/-- The request of a write of DRV_REGS. -/
abbrev drvRegsReq (h : Hdr) (off : Nat) (bs : List Nat) : Req := mkWrite h hOUTPUT Par.OUTPUT_DRV_REGS (u32 off ++ bs)

theorem writeEntry_drvRegs {h : Hdr} {off : Nat} (small : off < 2 ^ 32) (bs : List Nat) (level : Nat) (s : State) :
    writeEntry (drvRegsReq h off bs) level drvRegsEntry s
      = ok (deliver (changedRegs s (writeBlob drvRegsEntry hOUTPUT off bs s)) (writeBlob drvRegsEntry hOUTPUT off bs s)) := by
  rw [writeEntry_blob small rfl]
  unfold writeBlobEntry
  rw [if_neg (by decide), if_neg (by decide), if_neg (by decide), if_neg (fun refused => absurd refused.1 (by decide))]
  rfl

/-- DRV_REGS is in force. -/
theorem exec_drvRegsWrite {s : State} (c : s.Canonical) {h : Hdr} {off : Nat} {bs : List Nat} (small : off < 2 ^ 32)
    (accepted : s.accepts (drvRegsReq h off bs) = true) :
    ∃ t, exec (.drvRegsWrite h off bs) s = .next t
      ∧ (∀ i < bs.length, off + i < 1024 → cfgI t hOUTPUT Par.OUTPUT_DRV_REGS (off + i) = (bs.getD i 0 : Int))
      ∧ t.answered (port s h.port).key (drvRegsReq h off bs) := by
  have writes := writeEntry_drvRegs (h := h) small bs (port s h.port).level (begun (drvRegsReq h off bs) s)
  have blob := writeBlob_only drvRegsEntry hOUTPUT off bs (begun (drvRegsReq h off bs) s)
  have delivered := deliver_only (changedRegs (begun (drvRegsReq h off bs) s) (writeBlob drvRegsEntry hOUTPUT off bs
    (begun (drvRegsReq h off bs) s))) (writeBlob drvRegsEntry hOUTPUT off bs (begun (drvRegsReq h off bs) s))
  obtain ⟨step, answered⟩ := write_accepted (f := id) rfl accepted (entryAny_drvRegs _) writes
    (by rw [port_of_only delivered rfl, port_of_only blob rfl])
  refine ⟨_, congrArg Host.Outcome.next step, fun i hi within => ?_, answered⟩
  have put := stored_writeBlob drvRegsEntry hOUTPUT off bs hi within _ ((begun_only (drvRegsReq h off bs) s).kept.canon c)
  exact (cfgI_of_only (answerOk_only ..) rfl rfl rfl ..).trans ((cfgI_of_only delivered rfl rfl rfl ..).trans (Option.some.inj put))

/-! ### The states of the buffers -/

section
variable {ps : List Part} {s t : State} (o : Only ps s t) (config : ps.contains .config = false) (storeState : ps.contains .storeState = false)
  (store : ps.contains .store = false) (shadow : ps.contains .shadow = false) (raster : ps.contains .raster = false)
include o config storeState store

theorem valsNow_of_only : valsNow t = valsNow s := by
  funext u p i
  exact cfgI_of_only o config storeState store u p i

include shadow raster

/-- What moves neither a setting nor the raster moves no buffer's state. -/
theorem bufState_of_only (b : Nat) : bufState t b = bufState s b := by
  have attached : bufAttached t b = bufAttached s b := by
    unfold bufAttached
    rw [valsNow_of_only o config storeState store, gradeX_of_only o storeState store, show t.raster = s.raster from o.same .raster raster]
  have pending : bufPending t b = bufPending s b := by
    have views : (fun u p i => view t u p i) = fun u p i => view s u p i := by
      funext u p i
      exact view_of_only o config storeState store shadow u p i
    have after (n : Nat) : valsAfter t n = valsAfter s n := by
      funext u p i
      unfold valsAfter
      rw [o.dict_commits shadow, cfgI_of_only o config storeState store]
    unfold bufPending
    simp only [views, after, o.dict_commits shadow]
  have held : bufHeld t b = bufHeld s b := by
    unfold bufHeld
    rw [gradeX_of_only o storeState store, show t.raster = s.raster from o.same .raster raster]
  unfold bufState
  rw [attached, pending, held]

theorem overlayFree_of_only (off n : Nat) : overlayFree t off n = overlayFree s off n := by
  unfold overlayFree
  simp only [bufState_of_only o config storeState store shadow raster, valsNow_of_only o config storeState store]
end

/-! ### The overlay memory -/

theorem mem_of_mget {m : NMap Bool} {k : Nat} (there : mget false m k = true) : (k, true) ∈ m := by
  induction m with
  | nil => exact absurd there Bool.false_ne_true
  | cons e m ih =>
    obtain ⟨k', v⟩ := e
    simp only [mget] at there
    split at there
    case isTrue same => simp [same, there]
    case isFalse =>
      split at there
      · exact absurd there Bool.false_ne_true
      · exact List.mem_cons_of_mem _ (ih there)

/-- A word that a run of bytes of the overlay memory touches, none of whose words is poisoned, is not poisoned. -/
theorem poisoned_overlay {s : State} {off n w : Nat} (clean : overlayBad s off n = []) (whole : off + n ≤ overlaySize)
    (above : off < 32 * w + 32) (below : 32 * w < off + n) :
    poisoned s (16 + 32 * w / 4194304) (32 * w % 4194304) = false := by
  have place : bankAddr (16 + 32 * w / 4194304) (32 * w % 4194304) = overlayAddr (32 * w) := by
    show (16 + 32 * w / 4194304) * 4194304 + 32 * w % 4194304 = 16 * 4194304 + 32 * w
    omega
  unfold poisoned
  rw [place]
  refine eq_false_of_ne_true fun bad => ?_
  have listed : overlayAddr (32 * w) ∈ overlayBad s off n := by
    unfold overlayBad
    refine List.mem_map.2 ⟨(overlayAddr (32 * w), true), List.mem_filter.2 ⟨mem_of_mget bad, ?_⟩, rfl⟩
    simp only [Bool.and_eq_true, decide_eq_true_eq, overlayAddr, bankAddr, overlaySize] at whole ⊢
    omega
  exact List.not_mem_nil (clean ▸ listed)

theorem setPoison_same {b offset : Nat} {p : Bool} {s : State} (same : poisoned s b offset = p) : setPoison b offset p s = s :=
  if_pos same

theorem mputList_append {α : Type} [DecidableEq α] (d : α) (vs ws : List α) (m : NMap α) (k : Nat) :
    mputList d m k (vs ++ ws) = mputList d (mputList d m k vs) (k + vs.length) ws := by
  induction vs generalizing m k with
  | nil => rfl
  | cons v vs ih =>
    simp only [List.cons_append, mputList, List.length_cons]
    rw [ih, Nat.add_right_comm, Nat.add_assoc]

/-- Bytes stored one run behind another are one run. -/
theorem storeBytes_append (d : Byte) (m : Mem) (a : Nat) (bs cs : List Nat) :
    storeBytes d (storeBytes d m a bs) (a + bs.length) cs = storeBytes d m a (bs ++ cs) := by
  unfold storeBytes
  rw [List.map_append, mputList_append, List.length_map]

/-- How many of `n` bytes from `off` on the words before word `w` hold. -/
def bytesBefore (off n w : Nat) : Nat := min n (32 * w - off)

/-- The part of a write of the overlay memory that lies in word `w`. -/
def overlayWord (off : Nat) (bs : List Nat) (s : State) (w : Nat) : State :=
  let lo := max off (32 * w)
  let hi := min (off + bs.length) (32 * w + 32)
  let b := 16 + 32 * w / 4194304
  let o := 32 * w % 4194304
  if hi ≤ lo then s
  else if poisoned s b o && !decide (hi - lo = 32) then s
  else setPoison b o false
    { s with sram.mem := storeBytes 0#8 s.sram.mem (overlayAddr lo) (sub bs (lo - off) (hi - lo)) }

theorem writeOverlay_words (off : Nat) (bs : List Nat) (s : State) : writeOverlay off bs s
    = ((List.range ((off + bs.length + 31) / 32 - off / 32)).map (· + off / 32)).foldl (overlayWord off bs) s := rfl

/-- The state in which the words before word `w` are written. -/
def overlayWritten (off : Nat) (bs : List Nat) (w : Nat) (s : State) : State :=
  { s with sram.mem := storeBytes 0#8 s.sram.mem (overlayAddr off) (bs.take (bytesBefore off bs.length w)) }

/-- A word that is not poisoned takes its bytes behind those of the words before it. -/
theorem overlayWord_clean {s : State} {off w : Nat} {bs : List Nat} (clean : overlayBad s off bs.length = [])
    (whole : off + bs.length ≤ overlaySize) (first : off / 32 ≤ w) :
    overlayWord off bs (overlayWritten off bs w s) w = overlayWritten off bs (w + 1) s := by
  unfold overlayWord
  extract_lets lo hi b o
  split
  case isTrue untouched =>
    have same : bytesBefore off bs.length (w + 1) = bytesBefore off bs.length w := by
      unfold bytesBefore
      omega
    unfold overlayWritten
    rw [same]
  case isFalse touched =>
    have usable : poisoned (overlayWritten off bs w s) b o = false := poisoned_overlay clean whole (by omega) (by omega)
    have start : overlayAddr lo = overlayAddr off + (bs.take (bytesBefore off bs.length w)).length := by
      rw [List.length_take]
      unfold bytesBefore overlayAddr bankAddr
      omega
    have skip : lo - off = bytesBefore off bs.length w := by
      unfold bytesBefore
      omega
    have reach : bytesBefore off bs.length (w + 1) = bytesBefore off bs.length w + (hi - lo) := by
      unfold bytesBefore
      omega
    rw [usable, Bool.false_and, if_neg Bool.false_ne_true]
    have next : storeBytes 0#8 (overlayWritten off bs w s).sram.mem (overlayAddr lo) (sub bs (lo - off) (hi - lo))
        = storeBytes 0#8 s.sram.mem (overlayAddr off) (bs.take (bytesBefore off bs.length (w + 1))) := by
      unfold sub
      rw [reach, List.take_add, ← storeBytes_append, start, skip]
      rfl
    refine (setPoison_same ?_).trans (congrArg (fun m => { s with sram.mem := m }) next)
    exact usable

/-- Where no word of it is poisoned, a write of the overlay memory stores its bytes and does nothing else. -/
theorem writeOverlay_clean {s : State} {off : Nat} {bs : List Nat} (clean : overlayBad s off bs.length = [])
    (whole : off + bs.length ≤ overlaySize) :
    writeOverlay off bs s = { s with sram.mem := storeBytes 0#8 s.sram.mem (overlayAddr off) bs } := by
  have words (c : Nat) : ((List.range c).map (· + off / 32)).foldl (overlayWord off bs) s = overlayWritten off bs (c + off / 32) s := by
    induction c with
    | zero =>
      have none : bytesBefore off bs.length (0 + off / 32) = 0 := by
        unfold bytesBefore
        omega
      unfold overlayWritten
      rw [none]
      rfl
    | succ c ih =>
      rw [List.range_succ, List.map_append, List.foldl_append, ih]
      exact (overlayWord_clean clean whole (Nat.le_add_left ..)).trans (by rw [Nat.add_right_comm])
  have all : bytesBefore off bs.length ((off + bs.length + 31) / 32 - off / 32 + off / 32) = bs.length := by
    unfold bytesBefore
    omega
  rw [writeOverlay_words, words]
  unfold overlayWritten
  rw [all, List.take_length]

/-- OVL_MEM, as the dictionary has it (Table 6.4). -/
def ovlMemEntry : Entry := en 0x040 (.blob 8388608) 0 0 1 0 .any .now false false none

theorem entryAny_ovlMem (s : State) : entryAny s hLAYERS Par.LAYERS_OVL_MEM = some ovlMemEntry := rfl

/-- The request of a write of OVL_MEM. -/
abbrev ovlMemReq (h : Hdr) (off : Nat) (bs : List Nat) : Req := mkWrite h hLAYERS Par.LAYERS_OVL_MEM (u32 off ++ bs)

theorem writeEntry_ovlMem {h : Hdr} {off : Nat} {bs : List Nat} (whole : off + bs.length ≤ overlaySize) (level : Nat) {s : State}
    (free : overlayFree s off bs.length = true) :
    writeEntry (ovlMemReq h off bs) level ovlMemEntry s = ok (writeOverlay off bs s) := by
  have kept : bs.take (overlaySize - off) = bs := List.take_of_length_le (by omega)
  have small : off < 2 ^ 32 := Nat.lt_of_le_of_lt (Nat.le_of_add_right_le whole) (by decide)
  rw [writeEntry_blob small rfl]
  unfold writeBlobEntry
  rw [if_neg (by decide), if_neg (by decide), if_pos rfl]
  simp only [kept, free, Bool.not_true, Bool.false_eq_true, if_false, Nat.lt_irrefl]

/-- OVL_MEM, where its buffers are FREE and no word of it is poisoned, stores its bytes and no others. -/
theorem exec_ovlMemWrite {s : State} (c : s.Canonical) {h : Hdr} {off : Nat} {bs : List Nat} (whole : off + bs.length ≤ overlaySize)
    (bytes : ∀ b ∈ bs, b < 256) (accepted : s.accepts (ovlMemReq h off bs) = true) (free : overlayFree s off bs.length = true)
    (clean : overlayBad s off bs.length = []) :
    ∃ t, exec (.ovlMemWrite h off bs) s = .next t ∧ loadBytes 0#8 t.sram.mem (overlayAddr off) bs.length = bs
      ∧ (∀ a, (a < overlayAddr off ∨ overlayAddr off + bs.length ≤ a) → mget 0#8 t.sram.mem a = mget 0#8 s.sram.mem a)
      ∧ t.answered (port s h.port).key (ovlMemReq h off bs) := by
  have begins := begun_only (ovlMemReq h off bs) s
  have sram : (begun (ovlMemReq h off bs) s).sram = s.sram := begins.sram rfl rfl
  have clean' : overlayBad (begun (ovlMemReq h off bs) s) off bs.length = [] := by
    unfold overlayBad
    rw [sram]
    exact clean
  have writes := writeEntry_ovlMem (h := h) whole (port s h.port).level
    ((overlayFree_of_only begins rfl rfl rfl rfl rfl off bs.length).trans free)
  rw [writeOverlay_clean clean' whole, sram] at writes
  obtain ⟨step, answered⟩ := write_accepted (f := id) rfl accepted (entryAny_ovlMem _) writes rfl
  have mem : (id (answerOk (ovlMemReq h off bs) { begun (ovlMemReq h off bs) s with
      sram := { s.sram with mem := storeBytes 0#8 s.sram.mem (overlayAddr off) bs } })).sram.mem
      = storeBytes 0#8 s.sram.mem (overlayAddr off) bs := congrArg SramSt.mem ((answerOk_only ..).sram rfl rfl)
  refine ⟨_, congrArg Host.Outcome.next step, ?_, fun a outside => ?_, answered⟩
  · rw [mem]
    exact loadBytes_storeBytes _ _ _ _ c.sram bytes
  · rw [mem]
    exact storeBytes_outside _ _ _ _ _ c.sram outside

/-! ### The buffer tables -/

/-- A number of a run of four-byte numbers reads back; beyond the run there are no bytes. -/
theorem leNat_flatMap_u32 {vs : List Nat} (small : ∀ v ∈ vs, v < 2 ^ 32) (i : Nat) :
    leNat (((vs.flatMap u32).drop (4 * i)).take 4) = vs.getD i 0 := by
  induction vs generalizing i with
  | nil => simp [leNat]
  | cons v vs ih =>
    rw [List.flatMap_cons]
    cases i with
    | zero => exact leNat_offset (small v List.mem_cons_self) _
    | succ i =>
      rw [List.getD_cons_succ, ← ih (fun w hw => small w (List.mem_cons_of_mem _ hw)), Nat.mul_succ, Nat.add_comm, ← List.drop_drop]
      rfl

/-- BUF_SIZE or BUF_BASE. -/
abbrev bufParam (size : Bool) : Nat := if size then Par.LAYERS_BUF_SIZE else Par.LAYERS_BUF_BASE

/-- BUF_SIZE and BUF_BASE, as the dictionary has them (Table 6.4). -/
def bufEntry (size : Bool) : Entry :=
  if size then en 0x042 (.int false 4 32) 16 0 1 524288 (.mult 0 8388608 32) .now false false none
  else en 0x041 (.int false 4 32) 16 0 1 0 (.mult 0 8388576 32) .now false false none

theorem entryOf_bufParam (size : Bool) : entryOf hLAYERS (bufParam size) = some (bufEntry size) := by cases size <;> rfl

/-- The request of a write of a buffer table. -/
abbrev bufTableReq (h : Hdr) (size : Bool) (el : Option Nat) (vs : List Nat) : Req := mkReq h 2 hLAYERS (bufParam size) el (vs.flatMap u32)

theorem bufEntry_param (size : Bool) : (bufEntry size).param = bufParam size := by cases size <;> rfl
theorem bufEntry_now (size : Bool) : (bufEntry size).apply = .now := by cases size <;> rfl
theorem bufEntry_elems (size : Bool) : elems (bufEntry size) = 16 := by cases size <;> rfl
theorem bufEntry_ty (size : Bool) : (bufEntry size).ty = .int false 4 32 := by cases size <;> rfl

/-- No element is refused while every buffer is FREE. -/
theorem tableRefused_free {h : Nat} {e : Entry} {was s : State} (free : ∀ b < 16, bufState was b = 0) : tableRefused h e was s = false := by
  unfold tableRefused
  refine List.any_eq_false.2 fun b hb => ?_
  simp [free b (List.mem_range.1 hb)]

theorem writeSetting_bufTable {r : Req} (size : Bool) {s : State} (free : ∀ b < 16, bufState s b = 0) :
    writeSetting r hLAYERS (bufEntry size) s = ok (showBuffers (writeValue (bufEntry size) hLAYERS r.elem r.payload s)) := by
  unfold writeSetting
  simp only [bufEntry_now, tableRefused_free free, reduceCtorEq, false_and, and_false, if_false, if_true, Bool.false_eq_true]
  rw [if_neg (fun enable => absurd enable.1 (by decide))]
  unfold afterNow
  rw [if_neg (fun drv => absurd drv.1 (by decide)), if_neg (fun ntc => absurd ntc.1 (by decide)), if_pos rfl]

/-- The number that a write of a buffer table gives an element. -/
theorem valueAt_bufTable (size : Bool) (el : Option Nat) {vs : List Nat} (small : ∀ v ∈ vs, v < 2 ^ 32) (i : Nat) :
    valueAt (bufEntry size) el (vs.flatMap u32) i = (vs.getD (if el.isNone then i else 0) 0 : Nat) := by
  have place : (if el.isNone then tyBytes (Ty.int false 4 32) * i else 0) = 4 * (if el.isNone then i else 0) := by
    split <;> rfl
  have fits : vs.getD (if el.isNone then i else 0) 0 < 2 ^ 32 := by
    generalize (if el.isNone then i else 0) = k
    rw [List.getD_eq_getElem?_getD]
    cases there : vs[k]? with
    | none => decide
    | some v => exact small v (List.mem_of_getElem? there)
  unfold valueAt decodeValue
  rw [bufEntry_ty, place]
  show ((leNat _ % 2 ^ 32 : Nat) : Int) = _
  rw [show tyBytes (Ty.int false 4 32) = 4 from rfl, leNat_flatMap_u32 small, Nat.mod_eq_of_lt fits]

/-- An element of BUF_BASE or BUF_SIZE, while every buffer is FREE, is in force as clamped. -/
theorem exec_bufTableWrite {s : State} (c : s.Canonical) {h : Hdr} {size : Bool} {el : Option Nat} {vs : List Nat}
    (small : ∀ v ∈ vs, v < 2 ^ 32) (accepted : s.accepts (bufTableReq h size el vs) = true) (free : ∀ b < 16, bufState s b = 0) :
    ∃ t, exec (.bufTableWrite h size el vs) s = .next t
      ∧ (∀ i < 16, (el = none ∨ el = some i) → cfgI t hLAYERS (bufParam size) i
        = clamped (bufEntry size) s hLAYERS i (vs.getD (if el.isNone then i else 0) 0 : Nat))
      ∧ t.answered (port s h.port).key (bufTableReq h size el vs) := by
  have begins := begun_only (bufTableReq h size el vs) s
  have free' : ∀ b < 16, bufState (begun (bufTableReq h size el vs) s) b = 0 := fun b hb =>
    (bufState_of_only begins rfl rfl rfl rfl rfl b).trans (free b hb)
  have shown := showBuffers_only (writeValue (bufEntry size) hLAYERS el (vs.flatMap u32) (begun (bufTableReq h size el vs) s))
  obtain ⟨t, step, answered, -, -, -, kept⟩ := write_carriedOut accepted (entryOf_bufParam size) (by cases size <;> decide)
    (by cases size <;> rfl) (by cases size <;> rfl) (writeSetting_bufTable size free') (shown.after (writeValue_only ..))
  refine ⟨t, step, fun i hi written => ?_, answered⟩
  have put := stored_writeValue (bufEntry size) hLAYERS (vs.flatMap u32) _ (begins.kept.canon c) ((bufEntry_elems size).symm ▸ hi) written
  rw [bufEntry_now, bufEntry_param, clamped_of_only begins, valueAt_bufTable size el small, ← stored_of_only shown] at put
  exact Option.some.inj ((kept .now i).trans put)

end Sys2Proof.Machine
end

section
/-! SUPPORT. Writes of ENABLE, of an NTC input (17, R435) and of a control port (02, R79). -/

set_option Elab.async false

namespace Sys2Proof.Machine

/-! ### Flags in force at once -/

/-- ENABLE of an NTC input, and of a control port, as the dictionary has them (Tables 17.9 and 2.15). -/
def flagEntry (p : Nat) : Entry := en p .bool 0 0 2 1 .any .now true false none

theorem ntc_cases {n : Nat} (hn : n < 4) : n = 0 ∨ n = 1 ∨ n = 2 ∨ n = 3 := by omega

theorem entryAny_ntcEnable {n : Nat} (hn : n < 4) (s : State) : entryAny s (hNTC n) Par.NTC_ENABLE = some (flagEntry Par.NTC_ENABLE) := by
  rcases ntc_cases hn with rfl | rfl | rfl | rfl <;> rfl
theorem entryAny_portEnable (i : PortId) (s : State) :
    entryAny s (portUnit i) Par.CTRLPORT_ENABLE = some (flagEntry Par.CTRLPORT_ENABLE) := by
  cases i <;> rfl

theorem writeValue_flag {v : Nat} (hv : v < 2) (u p : Nat) (s : State) : writeValue (flagEntry p) u none [v] s = setCfg u p 0 (v : Int) s := by
  obtain rfl | rfl : v = 0 ∨ v = 1 := by omega
  · rfl
  · rfl

/-- A WRITE of a flag puts it in force and does what its setting sets going. -/
theorem writeEntry_flag (r : Req) (level p : Nat) (s : State) : writeEntry r level (flagEntry p) s = writeSetting r r.handle (flagEntry p) s :=
  rfl

/-! ### NTC inputs -/

/-- The request of a write of an NTC input's ENABLE. -/
abbrev ntcEnableReq (h : Hdr) (n v : Nat) : Req := mkWrite h (hNTC n) Par.NTC_ENABLE [v]

theorem writeEntry_ntcEnable {h : Hdr} {n v : Nat} (hn : n < 4) (hv : v < 2) (level : Nat) (s : State) :
    writeEntry (ntcEnableReq h n v) level (flagEntry Par.NTC_ENABLE) s
      = ok (restartNtc n (setCfg (hNTC n) Par.NTC_ENABLE 0 (v : Int) s)) := by
  have unit : classOf (hNTC n) = 5 ∧ hNTC n - hNTC 0 = n ∧ hNTC n ≠ hLAYERS ∧ hNTC n ≠ hOUTPUT := by
    rcases ntc_cases hn with rfl | rfl | rfl | rfl <;> decide
  obtain ⟨ntc, index, notLayers, notOutput⟩ := unit
  rw [writeEntry_flag]
  unfold writeSetting
  rw [if_neg (fun shadow => absurd shadow.1 (by decide)), if_neg (by decide), if_neg (fun layers => notLayers layers.1),
    if_neg (fun ports => absurd (ntc.symm.trans ports.1) (by decide)), if_pos (show (flagEntry Par.NTC_ENABLE).apply = .now from rfl)]
  unfold afterNow
  rw [if_neg (fun output => notOutput output.1), if_pos ⟨ntc, rfl⟩]
  rw [show (ntcEnableReq h n v).handle - hNTC 0 = n from index]
  exact congrArg (fun s => ok (restartNtc n s)) (writeValue_flag hv (hNTC n) Par.NTC_ENABLE s)

/-- ENABLE of an NTC input starts the input afresh. -/
theorem exec_ntcEnableWrite {s : State} (c : s.Canonical) {h : Hdr} {n v : Nat} (hn : n < 4) (hv : v < 2)
    (accepted : s.accepts (ntcEnableReq h n v) = true) (inputs : mwf {} s.stag.ntc = true) :
    ∃ t, exec (.ntcEnableWrite h n v) s = .next t ∧ cfg t (hNTC n) Par.NTC_ENABLE = v ∧ mget {} t.stag.ntc n = {}
      ∧ res t (hNTC n) Par.NTC_VALID = 0 ∧ t.answered (port s h.port).key (ntcEnableReq h n v) := by
  have begins := begun_only (ntcEnableReq h n v) s
  have c' := begins.kept.canon c
  have set := setCfg_only (hNTC n) Par.NTC_ENABLE 0 (v : Int) (begun (ntcEnableReq h n v) s)
  have cleared := setNtc_only n {} (setCfg (hNTC n) Par.NTC_ENABLE 0 (v : Int) (begun (ntcEnableReq h n v) s))
  have restarts := restartNtc_only n (setCfg (hNTC n) Par.NTC_ENABLE 0 (v : Int) (begun (ntcEnableReq h n v) s))
  obtain ⟨step, answered⟩ := write_accepted (f := id) rfl accepted (entryAny_ntcEnable hn _)
    (writeEntry_ntcEnable hn hv (port s h.port).level _) (by rw [port_of_only restarts rfl, port_of_only set rfl])
  have answers := answerOk_only (ntcEnableReq h n v) (restartNtc n (setCfg (hNTC n) Par.NTC_ENABLE 0 (v : Int) (begun (ntcEnableReq h n v) s)))
  refine ⟨_, congrArg Host.Outcome.next step, ?_, ?_, ?_, answered⟩
  · refine (cfg_of_only answers rfl rfl rfl ..).trans ((cfg_of_only restarts rfl rfl rfl ..).trans ?_)
    exact congrArg Int.toNat (cfgI_setCfg_self _ _ _ _ _ c')
  · refine (congrArg (mget {} · n) ((answers.stag_ntc rfl).trans ((changeRes_only ..).stag_ntc rfl))).trans ?_
    refine mget_mput_self {} (setCfg (hNTC n) Par.NTC_ENABLE 0 (v : Int) (begun (ntcEnableReq h n v) s)).stag.ntc n {} ?_
    rwa [set.stag_ntc rfl, begins.stag_ntc rfl]
  · refine (congrArg Int.toNat ((answerOk_quiet ..).same (restarts.kept.canon (set.kept.canon c')) (hNTC n) Par.NTC_VALID 0 ?_ (by decide)
      (by decide))).trans (res_changeRes_self _ _ _ _ (cleared.kept.canon (set.kept.canon c')))
    rcases ntc_cases hn with rfl | rfl | rfl | rfl <;> decide

/-! ### Control ports -/

/-- The request of a write of a control port's ENABLE. -/
abbrev portEnableReq (h : Hdr) (i : PortId) (v : Nat) : Req := mkWrite h (portUnit i) Par.CTRLPORT_ENABLE [v]

theorem writeEntry_portEnable {h : Hdr} {i : PortId} {v : Nat} (hv : v < 2) (level : Nat) (s : State) :
    writeEntry (portEnableReq h i v) level (flagEntry Par.CTRLPORT_ENABLE) s
      = writeEnable i (portEnableReq h i v) (setCfg (portUnit i) Par.CTRLPORT_ENABLE 0 (v : Int) s) := by
  rw [writeEntry_flag, ← writeValue_flag hv]
  cases i <;> rfl

/-- Whether another port than the host's is wanted is what its ENABLE says. -/
theorem portWanted_setCfg {i : PortId} (hi : i ≠ .host) (v : Int) {s : State} (c : s.Canonical) :
    portWanted (setCfg (portUnit i) Par.CTRLPORT_ENABLE 0 v s) i = (v != 0) := by
  unfold portWanted cfgB
  rw [cfgI_setCfg_self _ _ _ _ _ c, beq_false_of_ne hi, Bool.false_or]

theorem writeEnable_on {i : PortId} {r : Req} {s : State} (notHost : i ≠ .host) (wanted : portWanted s i = true) :
    writeEnable i r s = ok (enablePort i (setPort i { port s i with closing := none } s)) := by
  unfold writeEnable
  rw [if_neg notHost, if_pos wanted]

theorem writeEnable_off {i : PortId} {r : Req} {s : State} (notHost : i ≠ .host) (unwanted : portWanted s i = false) (other : i ≠ r.port) :
    writeEnable i r s = ok (disablePort i s) := by
  unfold writeEnable
  rw [if_neg notHost, unwanted, if_neg Bool.false_ne_true, if_neg other]

/-- A port stays enabled until the frames now in its queue have left. -/
def closeBehind (i : PortId) (s : State) : State := setPort i { port s i with closing := some (port s i).outbound.length } s

theorem port_closeBehind (i : PortId) (s : State) :
    port (closeBehind i s) i = { port s i with closing := some (port s i).outbound.length } := port_setPort ..

theorem closing_closeBehind (i : PortId) (s : State) : (port (closeBehind i s) i).closing = some (port (closeBehind i s) i).outbound.length := by
  rw [port_closeBehind]

theorem writeEnable_own {r : Req} {s : State} (notHost : r.port ≠ .host) (unwanted : portWanted s r.port = false) :
    writeEnable r.port r s = okThen (closeBehind r.port) s := by
  unfold writeEnable
  rw [if_neg notHost, unwanted, if_neg Bool.false_ne_true, if_pos rfl]
  rfl

theorem portWanted_setPort (i j : PortId) (p : PortSt) (s : State) : portWanted (setPort i p s) j = portWanted s j := by
  unfold portWanted
  rw [cfgB_of_only (setPort_only ..) rfl rfl rfl]

/-! #### Disabling -/

theorem port_disablePort (i : PortId) (s : State) : port (disablePort i s) i = { port (endSession i 4 s) i with
    enabled := false, partialIn := none, castIn := none, challenge := none, outbound := [], unanswered := 0, lost := 0, ibi := none
    closing := none } := by
  unfold disablePort
  rw [port_showCredits, port_setPort]

theorem disablePort_key {i j : PortId} (hj : j ≠ i) (s : State) : (port (disablePort i s) j).key = (port s j).key := by
  unfold disablePort
  rw [port_showCredits, port_setPort_other hj, endSession_key hj]

/-- ENABLE of another port at 0 disables it; that its queue is emptied is the model's own choice (log entry 9). -/
theorem exec_portEnableWrite_disables {s : State} (c : s.Canonical) {h : Hdr} {i : PortId} (notHost : i ≠ .host) (other : i ≠ h.port)
    (accepted : s.accepts (portEnableReq h i 0) = true) :
    ∃ t, exec (.ctrlportEnableWrite h i 0) s = .next t ∧ (port t i).enabled = false ∧ (port t i).level = 0
      ∧ (port t i).outbound = [] ∧ t.answered (port s h.port).key (portEnableReq h i 0) := by
  have writes := writeEntry_portEnable (h := h) (i := i) (v := 0) (by decide) (port s h.port).level (begun (portEnableReq h i 0) s)
  have unwanted := portWanted_setCfg notHost 0 ((begun_only (portEnableReq h i 0) s).kept.canon c)
  have inPlace := port_of_only (setCfg_only (portUnit i) Par.CTRLPORT_ENABLE 0 ((0 : Nat) : Int) (begun (portEnableReq h i 0) s)) rfl
  generalize setCfg (portUnit i) Par.CTRLPORT_ENABLE 0 ((0 : Nat) : Int) (begun (portEnableReq h i 0) s) = m at writes unwanted inPlace
  obtain ⟨step, answered⟩ := write_accepted (f := id) rfl accepted (entryAny_portEnable i _)
    (writes.trans (writeEnable_off notHost unwanted other)) ((disablePort_key other.symm m).trans (congrArg _ (inPlace _)))
  have there := (answerOk_others (portEnableReq h i 0) (disablePort i m) other).trans (port_disablePort i m)
  exact ⟨_, congrArg Host.Outcome.next step, congrArg PortSt.enabled there,
    (congrArg PortSt.level there).trans (endSession_level i 4 m), congrArg PortSt.outbound there, answered⟩

/-! #### Enabling -/

/-- A port that is enabled takes frames with none unanswered, and its first request may have any SEQ. -/
theorem enablePort_intake {i : PortId} {s : State} (off : (port s i).enabled = false) (wanted : portWanted s i = true) :
    (port (enablePort i s) i).intake = (true, none, 0) := by
  unfold enablePort
  simp only [off, wanted, Bool.not_true, Bool.or_false, Bool.false_eq_true, if_false]
  rw [(announceCredits_traffic ..).intake, port_setPort]
  rfl

theorem enablePort_others {i j : PortId} (hj : j ≠ i) (s : State) : port (enablePort i s) j = port s j := by
  unfold enablePort
  extract_lets p
  split
  · rfl
  · rw [(announceCredits_traffic ..).others j hj, port_setPort_other hj]

/-- A request that is executed leaves the other ports as they are. -/
theorem port_begun_other {r : Req} {j : PortId} (hj : j ≠ r.port) (s : State) : port (begun r s) j = port s j := by
  unfold begun credited frameHeard
  rw [port_setPort_other hj, port_showCredits, port_setPort_other hj, port_of_only (incWrap_only ..) rfl, port_setPort_other hj]

/-- The enabling of the ports is not for a request's arrival to change. -/
theorem begun_enabled (r : Req) (s : State) (j : PortId) : (port (begun r s) j).enabled = (port s j).enabled := by
  by_cases own : j = r.port
  · rw [own, port_begun]
  · rw [port_begun_other own]

/-- ENABLE of another port at 1 enables it. -/
theorem exec_portEnableWrite_enables {s : State} (c : s.Canonical) {h : Hdr} {i : PortId} (notHost : i ≠ .host) (other : i ≠ h.port)
    (accepted : s.accepts (portEnableReq h i 1) = true) (off : (port s i).enabled = false) :
    ∃ t, exec (.ctrlportEnableWrite h i 1) s = .next t ∧ (port t i).enabled = true ∧ (port t i).last = none
      ∧ (port t i).unanswered = 0 ∧ t.answered (port s h.port).key (portEnableReq h i 1) := by
  have writes := writeEntry_portEnable (h := h) (i := i) (v := 1) (by decide) (port s h.port).level (begun (portEnableReq h i 1) s)
  have wanted := portWanted_setCfg notHost 1 ((begun_only (portEnableReq h i 1) s).kept.canon c)
  have inPlace := port_of_only (setCfg_only (portUnit i) Par.CTRLPORT_ENABLE 0 ((1 : Nat) : Int) (begun (portEnableReq h i 1) s)) rfl
  generalize setCfg (portUnit i) Par.CTRLPORT_ENABLE 0 ((1 : Nat) : Int) (begun (portEnableReq h i 1) s) = m at writes wanted inPlace
  have key : port (enablePort i (setPort i { port m i with closing := none } m)) h.port = port (begun (portEnableReq h i 1) s) h.port := by
    rw [enablePort_others other.symm, port_setPort_other other.symm, inPlace]
  obtain ⟨step, answered⟩ := write_accepted (f := id) rfl accepted (entryAny_portEnable i _)
    (writes.trans (writeEnable_on notHost wanted)) (congrArg PortSt.key key)
  have disabled : (port (setPort i { port m i with closing := none } m) i).enabled = false := by
    rw [port_setPort]
    exact (congrArg PortSt.enabled ((inPlace i).trans (port_begun_other other s))).trans off
  have stillWanted : portWanted (setPort i { port m i with closing := none } m) i = true := (portWanted_setPort ..).trans wanted
  have intake := (congrArg PortSt.intake (answerOk_others (portEnableReq h i 1) _ other)).trans (enablePort_intake disabled stillWanted)
  unfold PortSt.intake at intake
  simp only [Prod.mk.injEq] at intake
  obtain ⟨enabled, last, unanswered⟩ := intake
  exact ⟨_, congrArg Host.Outcome.next step, enabled, last, unanswered, answered⟩

/-! #### The host port, and a port's own request -/

/-- The host port's ENABLE reads 1 whatever is written. -/
theorem exec_portEnableWrite_host {s : State} (c : s.Canonical) {h : Hdr} {v : Nat} (hv : v < 2)
    (accepted : s.accepts (portEnableReq h .host v) = true) :
    ∃ t, exec (.ctrlportEnableWrite h .host v) s = .next t ∧ cfg t hHOSTPORT Par.CTRLPORT_ENABLE = 1
      ∧ (port t .host).enabled = (port s .host).enabled ∧ t.answered (port s h.port).key (portEnableReq h .host v) := by
  have writes := writeEntry_portEnable (h := h) (i := .host) hv (port s h.port).level (begun (portEnableReq h .host v) s)
  have begins := begun_only (portEnableReq h .host v) s
  have wrote := setCfg_only hHOSTPORT Par.CTRLPORT_ENABLE 0 (v : Int) (begun (portEnableReq h .host v) s)
  generalize setCfg hHOSTPORT Par.CTRLPORT_ENABLE 0 (v : Int) (begun (portEnableReq h .host v) s) = m at writes wrote
  have stands := setCfg_only hHOSTPORT Par.CTRLPORT_ENABLE 0 1 m
  have inPlace (j : PortId) : port (setCfg hHOSTPORT Par.CTRLPORT_ENABLE 0 1 m) j = port (begun (portEnableReq h .host v) s) j :=
    (port_of_only stands rfl j).trans (port_of_only wrote rfl j)
  obtain ⟨step, answered⟩ := write_accepted (f := id) rfl accepted (entryAny_portEnable .host _) writes
    (congrArg PortSt.key (inPlace h.port))
  refine ⟨_, congrArg Host.Outcome.next step, ?_, ?_, answered⟩
  · refine (cfg_of_only (answerOk_only ..) rfl rfl rfl ..).trans ?_
    exact congrArg Int.toNat (cfgI_setCfg_self _ _ _ _ _ (wrote.kept.canon (begins.kept.canon c)))
  · refine (answerOk_enabled ..).trans ((congrArg PortSt.enabled (inPlace .host)).trans ?_)
    exact begun_enabled ..

/-- A request is accepted at a port that is enabled. -/
theorem accepts_enabled {s : State} {r : Req} (accepted : s.accepts r = true) : (port s r.port).enabled = true := by
  obtain ⟨serves, -⟩ := accepts_entry accepted
  unfold State.serves at serves
  simp only [Bool.and_eq_true, Bool.not_eq_true'] at serves
  obtain ⟨⟨⟨⟨⟨⟨⟨⟨⟨-, credit⟩, -⟩, -⟩, -⟩, -⟩, -⟩, -⟩, -⟩, -⟩ := serves
  unfold noCredit at credit
  rw [Bool.or_eq_false_iff, Bool.not_eq_false'] at credit
  exact credit.1

/-- A port that disables itself stays enabled until what waits to leave it, its response last, has left. -/
theorem exec_portEnableWrite_own {s : State} (c : s.Canonical) {h : Hdr} (notHost : h.port ≠ .host)
    (accepted : s.accepts (portEnableReq h h.port 0) = true) :
    ∃ t, exec (.ctrlportEnableWrite h h.port 0) s = .next t ∧ (port t h.port).enabled = true
      ∧ (port t h.port).closing = some (port t h.port).outbound.length ∧ t.answered (port s h.port).key (portEnableReq h h.port 0) := by
  have writes := writeEntry_portEnable (h := h) (i := h.port) (v := 0) (by decide) (port s h.port).level (begun (portEnableReq h h.port 0) s)
  have unwanted := portWanted_setCfg notHost 0 ((begun_only (portEnableReq h h.port 0) s).kept.canon c)
  have inPlace := port_of_only (setCfg_only (portUnit h.port) Par.CTRLPORT_ENABLE 0 ((0 : Nat) : Int) (begun (portEnableReq h h.port 0) s)) rfl
  generalize setCfg (portUnit h.port) Par.CTRLPORT_ENABLE 0 ((0 : Nat) : Int) (begun (portEnableReq h h.port 0) s) = m
    at writes unwanted inPlace
  have own : writeEnable h.port (portEnableReq h h.port 0) m = okThen (closeBehind h.port) m :=
    writeEnable_own (r := portEnableReq h h.port 0) notHost unwanted
  obtain ⟨step, answered⟩ := write_accepted rfl accepted (entryAny_portEnable h.port _) (writes.trans own) (congrArg PortSt.key (inPlace _))
  have closed := port_closeBehind h.port (answerOk (portEnableReq h h.port 0) m)
  refine ⟨_, congrArg Host.Outcome.next step, ?_, closing_closeBehind .., ?_⟩
  · refine (congrArg PortSt.enabled closed).trans ((answerOk_enabled ..).trans ?_)
    rw [inPlace, begun_enabled]
    exact accepts_enabled accepted
  · obtain ⟨count, retained⟩ := answered
    exact ⟨count, (congrArg PortSt.retained closed).trans retained⟩

/-- Settles O10: what each write puts in force, or lets wait, its answer leaves alone; the ports keep their keys through the events told on
the way, and the answer is traffic of its own port alone. -/
theorem tableWrites : Obligations.TableWrites := by
  unfold Obligations.TableWrites
  intro s h c
  refine ⟨fun off bs small accepted fits => exec_stressSet c small accepted fits,
    fun off bs whole bytes accepted free clean => exec_ovlMemWrite c whole bytes accepted free clean,
    fun size el vs e small => ?_, fun off bs small accepted => exec_drvRegsWrite c small accepted,
    fun n v hn hv accepted inputs => exec_ntcEnableWrite c hn hv accepted inputs,
    fun target notHost other => ⟨exec_portEnableWrite_disables c notHost other, exec_portEnableWrite_enables c notHost other⟩,
    fun v hv accepted => exec_portEnableWrite_host c hv accepted, exec_portEnableWrite_own c⟩
  intro p accepted named free
  obtain rfl : bufEntry size = e := Option.some.inj ((entryOf_bufParam size).symm.trans named)
  have writes := exec_bufTableWrite c small accepted free
  unfold clamped at writes
  rwa [bufEntry_param] at writes

end Sys2Proof.Machine
end

section
/-! SUPPORT. Step 2 of the tone path, the pre LUT (07, R183): one equation for each value of PRE_LUT_ENABLE. -/

namespace Sys2Proof.Machine

@[simp] theorem preLut_disabled {v : Vals} (off : v hTONE Par.TONE_PRE_LUT_ENABLE 0 = 0) (c x : Nat) : preLut v c x = x :=
  if_pos off

/-- Past the last entry the pre LUT interpolates within entry 4095 itself. -/
theorem preLut_enabled {v : Vals} (on : v hTONE Par.TONE_PRE_LUT_ENABLE 0 ≠ 0) (c x : Nat) :
    preLut v c x = lerp16 (table2 v hTONE Par.TONE_PRE_LUT (c * 4096 + x / 16))
      (table2 v hTONE Par.TONE_PRE_LUT (c * 4096 + min (x / 16 + 1) 4095)) (x % 16) :=
  if_neg on

/-- Settles O27: a disabled pre LUT is the identity; an enabled one interpolates between two entries, and `lerp16` is R183's formula. -/
theorem preLut_formula : Obligations.PreLut := by
  unfold Obligations.PreLut
  intro v c x e i f k
  refine ⟨fun off => preLut_disabled off c x, fun on => ?_⟩
  have enabled : v hTONE Par.TONE_PRE_LUT_ENABLE 0 ≠ 0 := by simp [on]
  calc preLut v c x
      = lerp16 (table2 v hTONE Par.TONE_PRE_LUT (c * 4096 + i)) (table2 v hTONE Par.TONE_PRE_LUT (c * 4096 + k)) f :=
        preLut_enabled enabled c x
    _ = (e i + ((e k - e i) * f + 8).fdiv 16).toNat := rfl

end Sys2Proof.Machine
end

section
/-! SUPPORT. The maps of the compensation (08, R207, R215, R226, R227): the sweep that is asked for, the rows that a load leaves, and how a save
begins and ends. -/

set_option Elab.async false

namespace Sys2Proof.Machine

/-! ### What only shows -/

/-- The last event of a unit that tells no loss of events is the one raised. -/
theorem raise_lastCode_self (code : Nat) {handle : Nat} (data : List Nat) {s : State} (c : s.Canonical)
    (heard : lostUnits.contains handle = false := by decide) : lastCode (raise code handle data s) handle = code :=
  congrArg (·.2) (raise_lastEvent_self code data s c heard)

@[simp] theorem showPending_pipe (n : Nat) (s : State) : (showPending n s).pipe = { s.pipe with pendingRows := n } := changeRes_pipe

@[simp] theorem showSweep_pipe (s : State) : (showSweep s).pipe = s.pipe := (showSweep_only s).pipe rfl rfl

@[simp] theorem showSweep_now (s : State) : (showSweep s).now = s.now := (showSweep_only s).same .now rfl

@[simp] theorem showMap_pipe (s : State) : (showMap s).pipe = s.pipe := (showMap_only s).pipe rfl rfl

@[simp] theorem showMap_now (s : State) : (showMap s).now = s.now := (showMap_only s).same .now rfl

/-! ### The working map (R207) -/

/-- A rebuild that ends leaves the working map as the master map, and tells it. -/
theorem execWorkingMapRebuilt_ends {s : State} {cause : Nat} (c : s.Canonical) (rebuilds : s.pipe.rebuild = some cause) :
    ∃ t, execWorkingMapRebuilt s = .next t ∧ t.pipe.working = s.pipe.master ∧ t.pipe.rebuild = none
      ∧ lastCode t hCOMP = 0x033E := by
  have copies : Only [.results, .pipe] s { s with pipe.working := s.pipe.master, pipe.rebuild := none } := Only.upd_pipe (Only.refl s)
  refine ⟨_, congrArg Host.Outcome.next (by rw [rebuilds]), ?_, ?_, ?_⟩
  · rw [raise_pipe, showPending_pipe]
  · rw [raise_pipe, showPending_pipe]
  · exact raise_lastCode_self _ _ (((showPending_only ..).after copies).kept.canon c)

/-! ### The sweep (R215) -/

/-- A periodic sweep is asked for when its interval has passed. -/
theorem execSweepIntervalExpiry_asks {s : State} {b : Nat} (began : s.pipe.sweepAt = some b)
    (periodic : cfg s hCOMP Par.COMP_SWEEP_MODE = 2) (unasked : s.pipe.sweepAsk = none) (on : fabricOn s = true) :
    ∃ t, execSweepIntervalExpiry s = .next t ∧ t.pipe.sweepAsk = some 2
      ∧ t.now = max s.now (b + cfg s hCOMP Par.COMP_SWEEP_INTERVAL * 60 * tickS) := by
  have due : ¬(cfg s hCOMP Par.COMP_SWEEP_MODE ≠ 2 ∨ s.pipe.sweepAsk.isSome = true ∨ (!fabricOn s) = true) := by
    simp [periodic, unasked, on]
  unfold execSweepIntervalExpiry
  simp only [began, if_neg due]
  exact ⟨_, rfl, by rw [showSweep_pipe], by rw [showSweep_now]; rfl⟩

/-! ### Loads (R226, R229) -/

/-- A load of which rows are left only shows its progress. -/
theorem endLoad_unfinished {s : State} {l : MapLoad} (load : s.pipe.load = some l) (left : ¬(l.residual = [] ∧ l.stress = [])) :
    endLoad s = showMap s := by
  unfold endLoad
  rw [load]
  exact if_neg left

/-- A residual row, loaded or not, leaves the residual rows behind it and every stress row. -/
theorem residualRow_leaves {l : MapLoad} {r row : Nat} {rest chunk : List Nat} {s : State} (rows : l.residual = r :: rest)
    (more : rest ≠ []) :
    ∃ l', (residualRow l row chunk s).pipe.load = some l' ∧ l'.residual = rest ∧ l'.stress = l.stress := by
  unfold residualRow
  extract_lets m
  split
  next lo hi _ =>
  split
  next data taken lost _ =>
  extract_lets +onlyGivenNames new pipe waited put l' pipe' begun
  have residual : l'.residual = rest := congrArg (List.drop 1) rows
  have left : l'.residual ≠ [] := by rwa [residual]
  rw [if_neg (fun done => left done.1)]
  have load : begun.pipe.load = some l' := rfl
  rw [endLoad_unfinished load (fun done => left done.1), showMap_pipe]
  exact ⟨l', load, residual, rfl⟩

/-- A stress row, loaded or not, leaves the stress rows behind it and the residual rows as they are. -/
theorem stressRow_leaves {l : MapLoad} {r row : Nat} {rest chunk : List Nat} {s : State} (rows : l.stress = r :: rest)
    (more : rest ≠ []) :
    ∃ l', (stressRow l row chunk s).pipe.load = some l' ∧ l'.residual = l.residual ∧ l'.stress = rest := by
  unfold stressRow
  extract_lets m
  split
  next lo hi _ =>
  split
  next data taken lost _ =>
  have stress : l.stress.drop 1 = rest := congrArg (List.drop 1) rows
  rw [endLoad_unfinished (l := { l with stress := l.stress.drop 1, lost := lost }) rfl (fun done => more (stress.symm.trans done.2)),
    showMap_pipe]
  exact ⟨_, rfl, rfl, stress⟩

/-- The residual row whose turn it is is taken. -/
theorem execMapRowLoaded_residual {s : State} {l : MapLoad} {row : Nat} {rest : List Nat} (chunk : List Nat)
    (load : s.pipe.load = some l) (turn : l.residual = row :: rest) (on : fabricOn s = true) :
    execMapRowLoaded false row chunk s = .next (residualRow l row chunk s) := by
  unfold execMapRowLoaded
  simp [load, turn, on]

/-- The stress row whose turn it is is taken once no residual row is left. -/
theorem execMapRowLoaded_stress {s : State} {l : MapLoad} {row : Nat} {rest : List Nat} (chunk : List Nat)
    (load : s.pipe.load = some l) (residual : l.residual = []) (turn : l.stress = row :: rest) (on : fabricOn s = true) :
    execMapRowLoaded true row chunk s = .next (stressRow l row chunk s) := by
  unfold execMapRowLoaded
  simp [load, residual, turn, on]

/-! ### A save begins (R227) -/

theorem judgeFlash_saving (rs : List (Nat × Nat × Nat)) (s : State) : (judgeFlash rs s).2.pipe.saving = s.pipe.saving := by
  unfold judgeFlash
  extract_lets m drop small marked told judged
  have tells : told.pipe.saving = s.pipe.saving := by
    subst told
    split
    · rfl
    · rw [raise_pipe]
  clear_value told
  subst judged
  split
  · rfl
  · split
    · rw [raise_pipe, tells]
    · exact tells

/-- The regions that are created leave the save as it is. -/
theorem createRegions_saving (s : State) : (createRegions s).pipe.saving = s.pipe.saving := by
  unfold createRegions
  split
  · rfl
  next copy seq rs _ =>
    have judges := judgeFlash_saving rs s
    generalize judgeFlash rs s = x at judges ⊢
    obtain ⟨drop, t⟩ := x
    dsimp only at judges ⊢
    split
    · rw [changeRes_pipe, judges]
    · rw [flashPut_pipe_saving, changeRes_pipe, judges]

theorem createRegions_now (s : State) : (createRegions s).now = s.now := (createRegions_only s).same .now rfl

/-- With the flash free, a save begins at once. -/
theorem startSave_begins {s : State} (idle : s.pipe.saving = none) (noActivation : s.stag.activation = none)
    (noLoad : s.pipe.load = none) : (startSave s).pipe.saving = some s.now ∧ (startSave s).now = s.now := by
  unfold startSave
  rw [if_neg (by simp [idle]), if_neg (by simp [noActivation, noLoad]), showMap_pipe, showMap_now, createRegions_saving,
    createRegions_now]
  exact ⟨rfl, rfl⟩

/-- A save begins when SAVE_INTERVAL minutes have passed. -/
theorem execMapSaveInterval_begins {s : State} (runs : s.power.state = .run) (up : s.power.phase = .up)
    (idle : s.pipe.saving = none) (notDue : s.pipe.saveDue = false) (noActivation : s.stag.activation = none)
    (noLoad : s.pipe.load = none) :
    ∃ t, execMapSaveInterval s = .next t ∧ t.pipe.saving = some t.now
      ∧ t.now = s.now + (s.pipe.saveBase + cfg s hCOMP Par.COMP_SAVE_INTERVAL * 60 * tickS - awakeTicks s) := by
  have free : ¬(s.power.phase ≠ .up ∨ s.pipe.saving.isSome = true ∨ s.pipe.saveDue = true) := by simp [up, idle, notDue]
  unfold execMapSaveInterval
  simp -zeta only [runs, if_neg free]
  extract_lets due waited
  obtain ⟨saving, now⟩ := startSave_begins (s := { waited with pipe.saveBase := awakeTicks waited }) idle noActivation noLoad
  exact ⟨_, rfl, saving.trans (congrArg some now.symm), now.trans (Nat.max_eq_right (Nat.le_add_right ..))⟩

/-! ### A save ends (R227) -/

/-- A save that succeeds leaves valid maps, and tells it. -/
theorem finishSave_ends (since : Nat) {s : State} (c : s.Canonical) :
    (finishSave since s).pipe.saving = none ∧ (finishSave since s).pipe.mapFailed = false
      ∧ (finishSave since s).pipe.noBank = false ∧ lastCode (finishSave since s) hCOMP = 0x0333 := by
  unfold finishSave
  generalize saveTarget s = target
  obtain ⟨b, seq⟩ := target
  dsimp -zeta only
  extract_lets +onlyGivenNames rows saved banked pipe shown
  have hBanked : Only [.results, .flash, .pipe, .free] s banked := by
    have saves : Only [.results, .flash, .pipe, .free] s saved :=
      (saveStress_only ..).after ((saveResidual_only ..).mono rfl)
    clear_value saved
    subst banked
    split
    · exact (flashPut_only ..).after saves
    · exact saves
  clear_value banked
  have hShown : Only [.results, .flash, .pipe, .free] s shown :=
    (setRes_only ..).after ((changeRes_only ..).after (Only.upd_pipe hBanked))
  have ended : shown.pipe = { banked.pipe with saving := none, mapFailed := false, noBank := false } := by
    rw [setRes_pipe, changeRes_pipe]
  clear_value shown
  rw [showMap_pipe, raise_pipe, ended, lastCode_of_only (showMap_only _) rfl]
  exact ⟨rfl, rfl, rfl, raise_lastCode_self _ _ (hShown.kept.canon c)⟩

/-- A save that fails leaves the maps as failed, and tells it. -/
theorem failSave_ends (stage status : Nat) {s : State} (c : s.Canonical) :
    (failSave stage status s).pipe.saving = none ∧ (failSave stage status s).pipe.mapFailed = true
      ∧ lastCode (failSave stage status s) hCOMP = 0x0334 := by
  unfold failSave
  generalize saveTarget s = target
  obtain ⟨b, seq⟩ := target
  have draws : Only [.results, .flash, .pipe, .free] s (draw s).2 := (draw_only s).mono rfl
  generalize draw s = drawn at draws ⊢
  obtain ⟨n, drawn⟩ := drawn
  dsimp -zeta only at draws ⊢
  extract_lets +onlyGivenNames rows residual stress banked pipe
  have hResidual : Only [.results, .flash, .pipe, .free] s residual := (saveResidual_only ..).after draws
  clear_value residual
  have hStress : Only [.results, .flash, .pipe, .free] s stress := by
    subst stress
    split
    · exact hResidual
    · exact (saveStress_only ..).after hResidual
  clear_value stress
  have hBanked : Only [.results, .flash, .pipe, .free] s banked := by
    subst banked
    split
    · exact hStress
    · split
      · exact (flashPut_only ..).after hStress
      · exact hStress
  clear_value banked
  rw [showMap_pipe, raise_pipe, lastCode_of_only (showMap_only _) rfl]
  exact ⟨rfl, rfl, raise_lastCode_self _ _ ((Only.upd_pipe hBanked).kept.canon c)⟩

/-- How a save ends: it succeeds where nothing fails and a directory says where to write. -/
theorem endSave_ends {s : State} {since : Nat} (failed : Option (Nat × Nat)) (c : s.Canonical) (saving : s.pipe.saving = some since) :
    (endSave failed s).pipe.saving = none
      ∧ (if failed = none ∧ (directory s).isSome = true then (endSave failed s).pipe.mapFailed = false
            ∧ (endSave failed s).pipe.noBank = false ∧ lastCode (endSave failed s) hCOMP = 0x0333
        else (endSave failed s).pipe.mapFailed = true ∧ lastCode (endSave failed s) hCOMP = 0x0334) := by
  cases failed with
  | none =>
    by_cases placed : (directory s).isSome = true
    · have ends : endSave none s = finishSave since s := by
        unfold endSave
        simp only [saving, if_pos placed]
      rw [ends, if_pos ⟨rfl, placed⟩]
      exact finishSave_ends since c
    · have ends : endSave none s = failSave 0 ((draw s).1 % 256) (draw s).2 := by
        unfold endSave
        simp only [saving, if_neg placed]
      rw [ends, if_neg fun succeeds => placed succeeds.2]
      exact failSave_ends _ _ ((draw_only s).kept.canon c)
  | some report =>
    obtain ⟨stage, status⟩ := report
    have ends : endSave (some (stage, status)) s = failSave stage status s := by
      unfold endSave
      simp only [saving]
    rw [ends, if_neg (by simp)]
    exact failSave_ends stage status c

/-- With no transition and no restart, nothing waits for the save to end. -/
theorem advanceEntry_idle {s : State} (noTransition : s.power.transition = none) (noRestart : s.power.restarting = false) :
    advanceEntry s = s := by
  unfold advanceEntry
  rw [if_neg (ne_true_of_eq_false noRestart), noTransition]

/-- The end of a save that no transition and no restart awaits is all that MAP_SAVE_COMPLETE does. -/
theorem execMapSaveComplete_ends {s : State} (failed : Option (Nat × Nat)) (on : fabricOn s = true)
    (noTransition : s.power.transition = none) (noRestart : s.power.restarting = false) :
    execMapSaveComplete failed s = .next (endSave failed s) := by
  have power : (endSave failed s).power = s.power := (endSave_only failed s).same .power rfl
  unfold execMapSaveComplete
  rw [if_pos on, advanceEntry_idle (by rw [power, noTransition]) (by rw [power, noRestart])]

/-- Settles O28: each command does its part where its guards are met; what follows it only shows the maps' state.  That a save with no
directory fails is the model's own reading (log entry 69). -/
theorem mapsMaintained : Obligations.MapsMaintained := by
  unfold Obligations.MapsMaintained
  intro s
  refine ⟨fun _ rebuilds c => execWorkingMapRebuilt_ends c rebuilds, fun _ => execSweepIntervalExpiry_asks, ?_, ?_,
    execMapSaveInterval_begins, ?_⟩
  · intro l row rest chunk load turn more on
    obtain ⟨l', left⟩ := residualRow_leaves (row := row) (chunk := chunk) (s := s) turn more
    exact ⟨_, l', execMapRowLoaded_residual chunk load turn on, left⟩
  · intro l row rest chunk load residual turn more on
    obtain ⟨l', left, sameResidual, stress⟩ := stressRow_leaves (row := row) (chunk := chunk) (s := s) turn more
    exact ⟨_, l', execMapRowLoaded_stress chunk load residual turn on, left, sameResidual.trans residual, stress⟩
  · intro since failed saving on noTransition noRestart c
    exact ⟨_, execMapSaveComplete_ends failed on noTransition noRestart, endSave_ends failed c saving⟩

end Sys2Proof.Machine
end

section
/-! SUPPORT. Entries of the ports and of their lanes that no event touches (02, R66; 10, Table 10.13): units from 0400 on take in the control
ports, of whose results an event may write NOTIFY_LOST alone, and what a port shows of itself is one entry of each unit. -/

namespace Sys2Proof.Machine

/-! ### One entry of a result -/

/-- The elements of one result are as they were. -/
structure Spared (h q : Nat) (s t : State) : Prop where
  canon : s.Canonical → t.Canonical
  same  : s.Canonical → ∀ i, i < 4294967296 → resI t h q i = resI s h q i

/-- An entry of a unit from 0400 on that is neither what a port or lane shows of its state nor NOTIFY_LOST. -/
structure Unshown (h q : Nat) : Prop where
  far   : 0x400 ≤ h
  small : q < 4096
  state : q ≠ Par.PORT_MODE
  lost  : q ≠ Par.CTRLPORT_NOTIFY_LOST

theorem unshown_driverStatus (p : Nat) : Unshown (hPORT p) Par.PORT_DRIVER_STATUS :=
  ⟨Nat.le_add_right .., by decide, by decide, by decide⟩

theorem unshown_readbackErrors (p l : Nat) : Unshown (hOLANE p l) Par.OLANE_READBACK_ERRORS :=
  ⟨by unfold hOLANE; omega, by decide, by decide, by decide⟩

theorem Spared.refl {h q : Nat} (s : State) : Spared h q s s := ⟨id, fun _ _ _ => rfl⟩

theorem Spared.trans {h q : Nat} {s t u : State} (a : Spared h q s t) (b : Spared h q t u) : Spared h q s u :=
  ⟨fun c => b.canon (a.canon c), fun c i hi => (b.same (a.canon c) i hi).trans (a.same c i hi)⟩

theorem Spared.res {h q i : Nat} {s t : State} (kept : Spared h q s t) (c : s.Canonical) (hi : i < 4294967296) :
    Machine.res t h q i = Machine.res s h q i := congrArg Int.toNat (kept.same c i hi)

/-- What changes no result spares each. -/
theorem Spared.of_only {h q : Nat} {ps : List Part} {s t : State} (only : Only ps s t) (hp : ps.contains .results = false := by decide) :
    Spared h q s t :=
  ⟨only.kept.canon, fun _ _ _ => by unfold resI; rw [show t.dict.res = s.dict.res from congrArg (·.1) (only.same .results hp)]⟩

theorem Spared.bumpGen {h q : Nat} (h' q' : Nat) (s : State) : Spared h q s (Machine.bumpGen h' q' s) :=
  ⟨(bumpGen_only ..).kept.canon, fun _ _ _ => rfl⟩

theorem Spared.foldl {α : Type} {h q : Nat} {g : State → α → State} (step : ∀ t a, Spared h q t (g t a)) :
    ∀ (l : List α) (t : State), Spared h q t (l.foldl g t)
  | [], t => .refl t
  | a :: l, t => (step t a).trans (Spared.foldl step l (g t a))

theorem Spared.foldl_snd {α β : Type} {h q : Nat} {g : β × State → α → β × State} (step : ∀ x a, Spared h q x.2 (g x a).2) :
    ∀ (l : List α) (x : β × State), Spared h q x.2 (l.foldl g x).2
  | [], x => .refl x.2
  | a :: l, x => (step x a).trans (Spared.foldl_snd step l (g x a))

section
variable {h q h' q' : Nat} (own : Unshown h q)
include own

theorem Unshown.cell_ne (small : q' < 4096) (apart : h' ≠ h ∨ q' ≠ q) {i : Nat} (hi : i < 4294967296) :
    cell h q i ≠ cell h' q' 0 := by
  have := own.small
  unfold cell
  omega

theorem Unshown.setRes (v : Nat) (s : State) (apart : h' ≠ h ∨ q' ≠ q) (small : q' < 4096 := by decide) :
    Spared h q s (Machine.setRes h' q' v s) :=
  ⟨(setRes_only ..).kept.canon, fun c _ hi => resI_setResAt_other v s c (own.cell_ne small apart hi)⟩

theorem Unshown.changeRes (v : Nat) (s : State) (apart : h' ≠ h ∨ q' ≠ q) (small : q' < 4096 := by decide) :
    Spared h q s (Machine.changeRes h' q' v s) := by
  unfold Machine.changeRes
  split
  · exact .refl s
  · exact own.setRes v s apart small

theorem Unshown.incSat (n : Nat) (s : State) (apart : h' ≠ h ∨ q' ≠ q) (small : q' < 4096 := by decide) :
    Spared h q s (Machine.incSat h' q' n s) := by
  unfold Machine.incSat
  split
  · exact .refl s
  · exact own.setRes _ s apart small

/-- A unit below 0400 is another unit. -/
theorem Unshown.apart_low (low : h' < 0x400 := by decide) : h' ≠ h ∨ q' ≠ q := .inl (by have := own.far; omega)

/-! ### Events -/

theorem Unshown.sendNote (i : PortId) (r : Nat) (e : Event) (s : State) : Spared h q s (sendNote i r e s) := by
  unfold Machine.sendNote
  extract_lets x
  split
  · exact .trans (.of_only (setPort_only ..)) (own.incSat _ _ (.inr own.lost.symm))
  · exact .trans (.of_only (setPort_only ..)) (.of_only (pushOut_only ..))

theorem Unshown.showLog (n : Nat) (s : State) : Spared h q s (showLog n s) := by
  unfold Machine.showLog
  extract_lets newest oldest next
  have first : Spared h q s newest := own.setRes _ _ own.apart_low
  have second : Spared h q newest oldest := by
    subst oldest
    split
    · exact own.setRes _ _ own.apart_low
    · split
      · exact own.setRes _ _ own.apart_low
      · exact .refl _
  have third : Spared h q oldest next := own.setRes _ _ own.apart_low
  have waiting : Spared h q next (Machine.setRes hPSTORE Par.PSTORE_LOG_WAITING (logWaiting next) next) :=
    own.setRes _ _ own.apart_low
  exact (((first.trans second).trans third).trans waiting).trans (.bumpGen ..)

theorem Unshown.assignRecord (e : Event) (s : State) : Spared h q s (assignRecord e s) := by
  unfold Machine.assignRecord
  extract_lets r
  refine .trans ?_ (own.showLog ..)
  split
  · exact .trans (.of_only (placeRecord_only ..)) (.of_only (flushGather_only ..))
  · exact .of_only (placeRecord_only ..)

theorem Unshown.recordLost (i : PortId) (s : State) : Spared h q s (recordLost i s).2 := by
  unfold Machine.recordLost
  split
  · exact .refl s
  · exact .trans (.of_only (setPort_only ..))
      (.trans (.of_only (noteLast_only ..)) (.trans (own.assignRecord ..) (own.sendNote ..)))

theorem Unshown.passLost (i : PortId) (x : Option (Nat × Event)) (s : State) : Spared h q s (passLost i x s) := by
  unfold Machine.passLost
  split
  · exact .refl s
  · refine .foldl (fun t j => ?_) _ _
    split
    · exact own.sendNote ..
    · exact .refl t

theorem Unshown.tellLost (e : Event) (s : State) : Spared h q s (tellLost e s) := by
  unfold Machine.tellLost
  extract_lets l x
  have recorded : Spared h q s x.2 := Spared.foldl_snd (fun x i => by exact own.recordLost i x.2) l ([], s)
  exact recorded.trans (.foldl (fun _ _ => own.passLost ..) _ _)

theorem Unshown.notifyAll (r : Nat) (e : Event) (s : State) : Spared h q s (notifyAll r e s) := by
  unfold Machine.notifyAll
  refine .foldl (fun t i => ?_) _ _
  split
  · exact own.sendNote ..
  · exact .refl t

theorem Unshown.recordEvent (e : Event) (s : State) : Spared h q s (recordEvent e s) :=
  ((own.assignRecord e s).trans (own.tellLost ..)).trans (own.notifyAll ..)

theorem Unshown.tellNotLogged (s : State) : Spared h q s (tellNotLogged s) := by
  unfold Machine.tellNotLogged
  split
  · exact .trans (.of_only (ps := [.storeQueue]) (Only.upd_storeQueue (Only.refl s)))
      (.trans (.of_only (noteLast_only ..)) (own.recordEvent ..))
  · exact .refl s

theorem Unshown.logEvent (e : Event) (s : State) : Spared h q s (logEvent e s) := by
  unfold Machine.logEvent
  split
  · exact .refl s
  · extract_lets told
    refine (own.tellNotLogged s).trans (show Spared h q told _ from ?_)
    clear_value told
    split
    · exact .trans (.of_only (ps := [.storeQueue]) (Only.upd_storeQueue (Only.refl told))) (own.incSat _ _ own.apart_low)
    · exact .trans (.of_only (noteLimit_only ..)) (own.recordEvent ..)

theorem Unshown.holdEvent (e : Event) (s : State) : Spared h q s (holdEvent e s) := by
  unfold Machine.holdEvent
  split
  · exact .trans (.of_only (ps := [.heldEvents]) (Only.upd_heldEvents (Only.refl s))) (own.incSat _ _ own.apart_low)
  · exact .of_only (ps := [.heldEvents]) (Only.upd_heldEvents (Only.refl s))

/-- The raising of an event writes results of the log and the store, and NOTIFY_LOST of the control ports. -/
theorem Unshown.raise (code handle : Nat) (data : List Nat) (s : State) : Spared h q s (raise code handle data s) := by
  unfold Machine.raise
  extract_lets noted
  refine .trans (.of_only (noteLast_only ..)) (show Spared h q noted _ from ?_)
  split
  · exact .refl noted
  · unfold keepEvent
    split
    · exact own.logEvent ..
    · exact own.holdEvent ..

theorem Unshown.showFaults (n : Nat) (s : State) : Spared h q s (showFaults n s) :=
  .trans (.of_only (ps := [.resil]) (Only.upd_resil (Only.refl s))) (own.setRes _ _ own.apart_low)

theorem Unshown.settle (s : State) : Spared h q s (settle s) := by
  unfold Machine.settle
  extract_lets causes
  split
  · exact .refl s
  · split
    · exact (own.showFaults ..).trans (own.raise ..)
    · split
      · exact (own.showFaults ..).trans (own.raise ..)
      · exact own.showFaults ..

/-! ### Ports and lanes -/

/-- A port shows its mode, its lanes' states and OUTPUT's counts. -/
theorem Unshown.showPort (p : Nat) (s : State) : Spared h q s (showPort p s) := by
  unfold Machine.showPort
  extract_lets mode lanes trained failed
  refine .trans (own.changeRes _ s (.inr own.state.symm)) (show Spared h q mode _ from ?_)
  have states : Spared h q mode lanes := .foldl (fun t _ => own.changeRes _ t (.inr own.state.symm)) _ _
  exact states.trans (.trans (own.changeRes _ _ own.apart_low) (own.changeRes _ _ own.apart_low))

theorem Unshown.stopPort (p cause : Nat) (s : State) : Spared h q s (stopPort p cause s) :=
  .trans (.of_only (setOport_only ..)) (.trans (own.showPort ..) (.trans (own.raise ..) (own.settle ..)))

theorem Unshown.laneFails (p l cause : Nat) (s : State) : Spared h q s (laneFails p l cause s) := by
  unfold Machine.laneFails
  extract_lets x
  split
  · exact .refl s
  · split
    · split
      · exact .of_only (setOport_only ..)
      · split
        · exact .refl s
        · exact own.stopPort ..
    · split
      · exact .trans (.of_only (setOport_only ..)) (own.showPort ..)
      · exact own.stopPort ..

end

end Sys2Proof.Machine
end

section
/-! SUPPORT. One Otham port (10): what its record holds after it is replaced, and which of its fields sending, failover and a lane's failure
carry on. -/

namespace Sys2Proof.Machine

/-! ### The ports in their map -/

/-- The ports' map is in order. -/
abbrev portsOk (s : State) : Prop := mwf {} s.out.ports = true

theorem oport_of_ports {s t : State} (ports : t.out.ports = s.out.ports) (p : Nat) : oport t p = oport s p := by
  unfold oport
  rw [ports]

theorem oport_of_out {s t : State} (out : t.out = s.out) (p : Nat) : oport t p = oport s p := oport_of_ports (by rw [out]) p

theorem oport_setOport {s : State} (p : Nat) (x : OPort) (ok : portsOk s) : oport (setOport p x s) p = x := mget_mput_self _ _ _ _ ok

theorem portsOk_setOport {s : State} (p : Nat) (x : OPort) (ok : portsOk s) : portsOk (setOport p x s) := mwf_mput _ _ _ _ ok

@[simp] theorem showPort_out (p : Nat) (s : State) : (showPort p s).out = s.out := (showPort_only p s).same .out rfl

@[simp] theorem noteLag_out (p : Nat) (s : State) : (noteLag p s).out = s.out := (noteLag_only p s).same .out rfl

/-! ### What a port carries on -/

/-- The record `y` of a port carries on what `x` holds of its window's STATUS and of its training; a window that is shut stays shut. -/
structure OPort.CarriedOn (x y : OPort) : Prop where
  shut     : x.window = false → y.window = false
  status   : y.status = x.status
  missed   : y.missed = x.missed
  phase    : y.phase = x.phase
  tryMode  : y.tryMode = x.tryMode
  attempts : y.attempts = x.attempts

theorem OPort.CarriedOn.refl (x : OPort) : x.CarriedOn x := ⟨id, rfl, rfl, rfl, rfl, rfl⟩

theorem OPort.CarriedOn.trans {x y z : OPort} (a : x.CarriedOn y) (b : y.CarriedOn z) : x.CarriedOn z :=
  ⟨b.shut ∘ a.shut, b.status.trans a.status, b.missed.trans a.missed, b.phase.trans a.phase, b.tryMode.trans a.tryMode,
    b.attempts.trans a.attempts⟩

/-- The ports' map stays in order, and a port carries on. -/
structure PortKept (p : Nat) (s t : State) : Prop where
  ok   : portsOk s → portsOk t
  kept : portsOk s → (oport s p).CarriedOn (oport t p)

theorem PortKept.of_ports {p : Nat} {s t : State} (ports : t.out.ports = s.out.ports) : PortKept p s t :=
  ⟨fun ok => by unfold portsOk; rwa [ports], fun _ => by rw [oport_of_ports ports]; exact .refl _⟩

theorem PortKept.of_out {p : Nat} {s t : State} (out : t.out = s.out) : PortKept p s t := .of_ports (by rw [out])

theorem PortKept.refl {p : Nat} (s : State) : PortKept p s s := .of_ports rfl

theorem PortKept.trans {p : Nat} {s t u : State} (a : PortKept p s t) (b : PortKept p t u) : PortKept p s u :=
  ⟨b.ok ∘ a.ok, fun ok => (a.kept ok).trans (b.kept (a.ok ok))⟩

/-- The same, the later step first. -/
theorem PortKept.after {p : Nat} {s t u : State} (b : PortKept p t u) (a : PortKept p s t) : PortKept p s u := a.trans b

theorem PortKept.foldl {α : Type} {p : Nat} {g : State → α → State} (step : ∀ t a, PortKept p t (g t a)) :
    ∀ (l : List α) (t : State), PortKept p t (l.foldl g t)
  | [], t => .refl t
  | a :: l, t => (step t a).trans (PortKept.foldl step l (g t a))

theorem setOport_kept {p : Nat} {x : OPort} {s : State} (carries : (oport s p).CarriedOn x) : PortKept p s (setOport p x s) :=
  ⟨portsOk_setOport p x, fun ok => by rwa [oport_setOport p x ok]⟩

/-! ### Sending -/

theorem setOlane_kept (p q l : Nat) (y : OLaneSt) (s : State) : PortKept p s (setOlane q l y s) := .of_ports rfl

theorem laneNote_kept (p q l : Nat) (g : List Block) (n : Nat) (s : State) : PortKept p s (laneNote q l g n s) := by
  unfold laneNote
  dsimp only
  split
  · exact .refl s
  · exact .of_ports rfl

theorem txBegin_kept (p : Nat) (s : State) : PortKept p s (txBegin p s) :=
  .after (.foldl (fun _ _ => setOlane_kept ..) _ _) (setOport_kept ⟨id, rfl, rfl, rfl, rfl, rfl⟩)

theorem txTime_kept (p n : Nat) (s : State) : PortKept p s (txTime p n s) := setOport_kept ⟨id, rfl, rfl, rfl, rfl, rfl⟩

theorem txSwitch_kept (p : Nat) (new : LaneMode) (rate : Nat) (s : State) : PortKept p s (txSwitch p new rate s) :=
  .after (setOport_kept ⟨id, rfl, rfl, rfl, rfl, rfl⟩) (.after (txTime_kept ..) (.foldl (fun _ _ => laneNote_kept ..) _ _))

theorem laneSync_kept (p l : Nat) (turn : Bool) (s : State) : PortKept p s (laneSync p l turn s) :=
  .after (laneNote_kept ..) (setOlane_kept ..)

theorem txSync_kept (p : Nat) (s : State) : PortKept p s (txSync p s) :=
  .after (txTime_kept ..) (.foldl (fun _ _ => laneSync_kept ..) _ _)

theorem txTurn_kept (p : Nat) (s : State) : PortKept p s (txTurn p s) := by
  unfold txTurn
  extract_lets x turned
  have lanes : PortKept p s turned := .foldl (fun t l => by
    split
    · exact laneSync_kept ..
    · exact laneNote_kept ..) _ _
  exact lanes.trans (.after (txTime_kept ..) (setOport_kept ⟨id, rfl, rfl, rfl, rfl, rfl⟩))

theorem txResume_kept (p n : Nat) (s : State) : PortKept p s (txResume p n s) :=
  .after (txSync_kept ..) (.after (txTime_kept ..) (.foldl (fun _ _ => laneNote_kept ..) _ _))

theorem sendTs1_kept (p : Nat) (s : State) : PortKept p s (sendTs1 p s) := by
  unfold sendTs1
  extract_lets x columns sent
  have lanes : PortKept p s sent :=
    .foldl (fun _ _ => .after (laneNote_kept ..) (.after (laneNote_kept ..) (setOlane_kept ..))) _ _
  exact lanes.trans (txTime_kept ..)

/-! ### Failed lanes and stopped ports -/

theorem oport_stopPort {s : State} (p cause : Nat) (ok : portsOk s) :
    oport (stopPort p cause s) p = { oport s p with stopped := true, window := false, switchTo := none } := by
  unfold stopPort
  rw [oport_of_out settle_out, oport_of_out (raise_out ..), oport_of_out (showPort_out ..), oport_setOport _ _ ok]

theorem stopPort_kept (p cause : Nat) (s : State) : PortKept p s (stopPort p cause s) :=
  .after (.of_out (settle_out)) (.after (.of_out (raise_out ..)) (.after (.of_out (showPort_out ..))
    (setOport_kept ⟨fun _ => rfl, rfl, rfl, rfl, rfl, rfl⟩)))

theorem laneFails_kept (p l cause : Nat) (s : State) : PortKept p s (laneFails p l cause s) := by
  unfold laneFails
  extract_lets x
  split
  · exact .refl s
  · split
    · split
      · exact setOport_kept ⟨id, rfl, rfl, rfl, rfl, rfl⟩
      · split
        · exact .refl s
        · exact stopPort_kept ..
    · split
      · exact .after (.of_out (showPort_out ..)) (setOport_kept ⟨id, rfl, rfl, rfl, rfl, rfl⟩)
      · exact stopPort_kept ..

/-- In DUAL a working port whose other lane has not failed lets the failed lane be left out at its next line time (R268). -/
theorem laneFails_switches {s : State} {p l : Nat} (cause : Nat) (small : l ≤ 1) (works : portWorks s p = true)
    (dual : (oport s p).mode = .dual) (free : (oport s p).switchTo = none) :
    laneFails p l cause s = setOport p { oport s p with switchTo := some (singleOf (1 - l), l, cause) } s := by
  have inUse : (lanesOf .dual).contains l = true := by
    have : l = 0 ∨ l = 1 := by omega
    rcases this with rfl | rfl <;> rfl
  unfold laneFails
  simp only [works, inUse, dual, free, Bool.not_true, Bool.or_self, Bool.false_eq_true, if_false, if_true]

theorem excludeLane_kept (p q l : Nat) (s : State) : PortKept p s (excludeLane q l s) := by
  unfold excludeLane
  extract_lets h n y counted
  split
  · exact .refl s
  · have left : PortKept p s counted := .of_ports rfl
    split
    · refine left.trans (.of_ports ?_)
      rw [raise_out, (fellRecord_only ..).same .out rfl, setOlane_out_ports]
    · exact left

theorem failover_kept (p : Nat) (s : State) : PortKept p s (failover p s) := by
  unfold failover
  extract_lets x
  split
  · exact .refl s
  · next new l cause _ =>
    extract_lets switched record cleared told
    have first : PortKept p s switched := txSwitch_kept ..
    have second : PortKept p switched cleared := setOport_kept ⟨id, rfl, rfl, rfl, rfl, rfl⟩
    have third : PortKept p cleared told :=
      .trans (excludeLane_kept ..) (.of_out (by rw [showPort_out, raise_out]))
    refine first.trans (second.trans (third.trans ?_))
    clear_value told
    split
    · exact .after (.of_out (settle_out)) (.after (.of_out (raise_out ..)) (.after (.of_out (showPort_out ..))
        (setOport_kept ⟨id, rfl, rfl, rfl, rfl, rfl⟩)))
    · exact .refl told

end Sys2Proof.Machine
end

section
/-! SUPPORT. The Otham ports at work (10, R257, R258, R261 to R264, R266 to R268): the end of a window, what a driver's packet leaves, the
attempts of a training, read-back and the failure of a lane. -/

namespace Sys2Proof.Machine

/-! ### Where no sequence of the panel runs -/

section
variable {s : State} (noSeq : s.panel.seq = none) (noEnd : s.panel.ended = none) (noTransition : s.power.transition = none)
  (noRestart : s.power.restarting = false)
include noSeq noEnd noTransition noRestart

/-- With no panel sequence and no change of power under way, a step that leaves both as they are moves nothing else on. -/
theorem afterPanel_othamStep_idle {t : State} (panel : t.panel = s.panel) (power : t.power = s.power) :
    afterPanel (othamStep t) = t := by
  have waits : stepAwaits t 0x0A = false := by
    unfold stepAwaits
    rw [panel, noSeq]
  have same : othamStep t = t := by
    unfold othamStep
    rw [waits]
    rfl
  unfold afterPanel
  rw [same, panel, noEnd]
  exact advanceEntry_idle (by rw [power, noTransition]) (by rw [power, noRestart])

theorem execDriverStatus_idle (p : Nat) (bs : List Block) : execDriverStatus p bs s = .next (driverStatus p bs s) :=
  congrArg Host.Outcome.next (afterPanel_othamStep_idle noSeq noEnd noTransition noRestart
    ((driverStatus_only p bs s).same .panel rfl) ((driverStatus_only p bs s).same .power rfl))

theorem execOthamTrainingTimer_idle (p : Nat) : execOthamTrainingTimer p s = .next (trainingTimer p s) :=
  congrArg Host.Outcome.next (afterPanel_othamStep_idle noSeq noEnd noTransition noRestart
    ((trainingTimer_only p s).same .panel rfl) ((trainingTimer_only p s).same .power rfl))

end

/-! ### The end of a window (R257, R258) -/

/-- The reverse window of a port is shut. -/
structure Shut (p : Nat) (s : State) : Prop where
  ok   : portsOk s
  shut : (oport s p).window = false

theorem PortKept.shut {p : Nat} {s t : State} (keeps : PortKept p s t) (a : Shut p s) : Shut p t :=
  ⟨keeps.ok a.ok, (keeps.kept a.ok).shut a.shut⟩

theorem Shut.setOport {p : Nat} {s : State} {x : OPort} (ok : portsOk s) (shut : x.window = false) : Shut p (setOport p x s) :=
  ⟨portsOk_setOport p x ok, by rwa [oport_setOport p x ok]⟩

/-- A window that ends is shut, whatever came in it and whatever fails with it. -/
theorem endWindow_shut {s : State} {p : Nat} (ok : portsOk s) : Shut p (endWindow p s) := by
  unfold endWindow
  extract_lets x begun record closed answered n again counted told noted
  by_cases isOpen : x.window = true
  case neg => rw [if_pos (by simpa using isOpen)]; exact ⟨ok, by simpa using isOpen⟩
  rw [if_neg (by simp [isOpen])]
  have begins : PortKept p s begun := by
    subst begun
    split
    · exact .after (.of_out (noteLag_out ..)) (txBegin_kept ..)
    · exact .refl s
  have closes : Shut p closed := .setOport (begins.ok ok) rfl
  have answers : Shut p answered := by
    subst answered
    split
    · exact closes
    · exact PortKept.shut (.of_out ((missResults_only p closed).same .out rfl)) closes
  have notes : Shut p noted := by
    subst noted
    split
    · exact answers
    · have counts : Shut p counted := .setOport answers.ok answers.shut
      have tells : Shut p told := PortKept.shut (.after (.of_out raise_out) (.of_out incSat_out)) counts
      split
      · exact (laneFails_kept ..).shut tells
      · exact tells
  clear_value noted
  split
  · refine PortKept.shut (.of_out (showPort_out ..)) ?_
    split
    · exact (failover_kept ..).shut notes
    · exact (txResume_kept ..).shut notes
  · exact PortKept.shut (.of_out (showPort_out ..)) notes

/-- REVERSE_WINDOW_END shuts an open window at its end. -/
theorem execReverseWindowEnd_shuts {s : State} {p a b e : Nat} (ok : portsOk s) (planned : s.out.win = some (a, b, e))
    (isOpen : (oport s p).window = true) :
    ∃ t, execReverseWindowEnd p s = .next t ∧ (oport t p).window = false ∧ t.now = max s.now e := by
  have ends : execReverseWindowEnd p s = .next (endWindow p (advanceTo e s)) := by
    unfold execReverseWindowEnd
    simp only [planned, isOpen, if_true]
  exact ⟨_, ends, (endWindow_shut (s := advanceTo e s) ok).shut, (endWindow_only ..).same .now rfl⟩

/-! ### A driver's packets -/

/-- What the receiver has taken leaves the port but for its descrambler. -/
theorem fromDriver_kept (p : Nat) (bs : List Block) (s : State) : PortKept p s (fromDriver p bs s).2 :=
  setOport_kept ⟨id, rfl, rfl, rfl, rfl, rfl⟩

theorem oport_fromDriver {s : State} (p : Nat) (bs : List Block) (ok : portsOk s) :
    oport (fromDriver p bs s).2 p = { oport s p with rxScr := (rxBlocks (oport s p).rxScr bs).1 } := oport_setOport _ _ ok

/-- A packet that has come 40 ns or more before the end of the open window is in time. -/
theorem windowTakes_fromDriver {s : State} {p a b e : Nat} (bs : List Block) (ok : portsOk s) (planned : s.out.win = some (a, b, e))
    (isOpen : (oport s p).window = true) (inTime : s.now + 32 ≤ e) : windowTakes (fromDriver p bs s).2 p = true := by
  have win : (fromDriver p bs s).2.out.win = some (a, b, e) := planned
  have now : (fromDriver p bs s).2.now = s.now := rfl
  unfold windowTakes
  simp only [win, oport_fromDriver p bs ok, isOpen, now, inTime, decide_true, Bool.and_self]

/-! ### STATUS (R261, R263) -/

@[simp] theorem laneCounts_out (p l : Nat) (b : List Nat) (s : State) : (laneCounts p l b s).out = s.out :=
  (laneCounts_only p l b s).same .out rfl

theorem copyStatus_kept (p : Nat) (b : List Nat) (s : State) : PortKept p s (copyStatus p b s) := by
  unfold copyStatus
  extract_lets flags counted listed lost x flagged
  have counts : PortKept p s lost := .of_out (by
    simp only [lost, listed, counted, incSat_out, setResList_out, laneCounts_out])
  have flagsKept : PortKept p lost flagged := setOport_kept ⟨id, rfl, rfl, rfl, rfl, rfl⟩
  split
  · exact counts.trans flagsKept
  · exact counts.trans (flagsKept.trans (.of_out raise_out))

/-- What a STATUS holds shows in DRIVER_STATUS. -/
theorem res_copyStatus {s : State} (p : Nat) {b : List Nat} {i : Nat} (c : s.Canonical) (inside : i < b.length)
    (small : i < 4294967296) : res (copyStatus p b s) (hPORT p) Par.PORT_DRIVER_STATUS i = b[i] := by
  have own := unshown_driverStatus p
  unfold copyStatus
  extract_lets flags counted listed lost x flagged
  have cCounted : counted.Canonical := ((laneCounts_only p 1 b _).after (laneCounts_only p 0 b s)).kept.canon c
  have shows : res listed (hPORT p) Par.PORT_DRIVER_STATUS i = b[i] := res_setResList cCounted inside
  have cListed : listed.Canonical := (setResList_only ..).kept.canon cCounted
  have spares : Spared (hPORT p) Par.PORT_DRIVER_STATUS listed flagged :=
    .trans (own.incSat _ _ (.inr (by decide))) (.of_only (setOport_only ..))
  split
  · rw [spares.res cListed small, shows]
  · rw [(spares.trans (own.raise ..)).res cListed small, shows]

/-- A port carries on, and DRIVER_STATUS shows what it showed. -/
structure StatusKept (p : Nat) (s t : State) : Prop where
  port  : PortKept p s t
  shown : Spared (hPORT p) Par.PORT_DRIVER_STATUS s t

theorem StatusKept.trans {p : Nat} {s t u : State} (a : StatusKept p s t) (b : StatusKept p t u) : StatusKept p s u :=
  ⟨a.port.trans b.port, a.shown.trans b.shown⟩

theorem StatusKept.refl {p : Nat} (s : State) : StatusKept p s s := ⟨.refl s, .refl s⟩

theorem laneFails_statusKept (p l cause : Nat) (s : State) : StatusKept p s (laneFails p l cause s) :=
  ⟨laneFails_kept .., (unshown_driverStatus p).laneFails ..⟩

theorem laneStatus_statusKept (p l err : Nat) (s : State) : StatusKept p s (laneStatus p l err s) := by
  unfold laneStatus
  extract_lets y n counted
  have counts : StatusKept p s counted := ⟨setOlane_kept .., .of_only (setOlane_only ..)⟩
  split
  · exact counts.trans (laneFails_statusKept ..)
  · exact counts

/-- The registers are asked for again, with event 0x0409 (R261). -/
theorem resend_statusKept {p : Nat} {x : OPort} {s : State} (data : List Nat) (carries : (oport s p).CarriedOn x) :
    StatusKept p s (raise 0x0409 (hPORT p) data (incSat (hPORT p) Par.PORT_CONFIG_RESENDS 1
      { setOport p x s with out.delivering := true })) := by
  have own := unshown_driverStatus p
  have asks : StatusKept p s { setOport p x s with out.delivering := true } :=
    ⟨(setOport_kept carries).trans (.of_ports rfl), .of_only (Only.upd_out (setOport_only ..))⟩
  exact asks.trans ⟨.after (.of_out raise_out) (.of_out incSat_out),
    .trans (own.incSat _ _ (.inr (by decide))) (own.raise ..)⟩

/-- After the copy a STATUS fails lanes and asks for registers at most. -/
theorem takeStatus_statusKept (p : Nat) (b : List Nat) (s : State) :
    StatusKept p (copyStatus p b (setOport p { oport s p with status := true, missed := 0 } s)) (takeStatus p b s) := by
  unfold takeStatus
  extract_lets record copied lanes flags lockA lockB crc x
  have counts : StatusKept p copied lanes := (laneStatus_statusKept ..).trans (laneStatus_statusKept ..)
  have locksA : StatusKept p lanes lockA := by
    subst lockA
    split
    · exact .refl lanes
    · exact laneFails_statusKept ..
  have locksB : StatusKept p lockA lockB := by
    subst lockB
    split
    · exact .refl lockA
    · exact laneFails_statusKept ..
  have judged : StatusKept p copied lockB := counts.trans (locksA.trans locksB)
  split
  · exact judged
  · exact judged.trans (resend_statusKept _ ⟨id, rfl, rfl, rfl, rfl, rfl⟩)

/-- A STATUS that is taken is in, ends the run of missed ones, and shows. -/
theorem takeStatus_takes {s : State} (p : Nat) {b : List Nat} (ok : portsOk s) :
    (oport (takeStatus p b s) p).status = true ∧ (oport (takeStatus p b s) p).missed = 0
      ∧ (s.Canonical → ∀ i (inside : i < b.length), i < 4294967296 →
          res (takeStatus p b s) (hPORT p) Par.PORT_DRIVER_STATUS i = b[i]) := by
  have judged := takeStatus_statusKept p b s
  have ok' : portsOk (setOport p { oport s p with status := true, missed := 0 } s) := portsOk_setOport _ _ ok
  have carried := ((copyStatus_kept p b _).trans judged.port).kept ok'
  rw [oport_setOport _ _ ok] at carried
  refine ⟨carried.status, carried.missed, fun c i inside small => ?_⟩
  have c' : (setOport p { oport s p with status := true, missed := 0 } s).Canonical := (setOport_only ..).kept.canon c
  rw [judged.shown.res ((copyStatus_only ..).kept.canon c') small, res_copyStatus p c' inside small]

/-- A whole STATUS in time in the open window of a port that does not train is taken. -/
theorem driverStatus_takes {s : State} {p a b e : Nat} {bs : List Block} {k : List Nat} (ok : portsOk s)
    (planned : s.out.win = some (a, b, e)) (isOpen : (oport s p).window = true) (idle : (oport s p).phase = .idle)
    (first : (oport s p).status = false) (inTime : s.now + 32 ≤ e)
    (packet : rxPacket 0x71 (rxBlocks (oport s p).rxScr bs).2 = some k) (whole : k.length = 36) :
    driverStatus p bs s = showPort p (takeStatus p (sub k 16 16) (fromDriver p bs s).2) := by
  have takes := windowTakes_fromDriver bs ok planned isOpen inTime
  have status : (oport (fromDriver p bs s).2 p).status = false := by rw [oport_fromDriver p bs ok, first]
  have bytes : (fromDriver p bs s).1 = (rxBlocks (oport s p).rxScr bs).2 := rfl
  unfold driverStatus
  simp [idle, isOpen, bytes, packet, whole, takes, status]

theorem execDriverStatus_takes {s : State} {p a b e : Nat} {bs : List Block} {k : List Nat} (ok : portsOk s)
    (noSeq : s.panel.seq = none) (noEnd : s.panel.ended = none) (noTransition : s.power.transition = none)
    (noRestart : s.power.restarting = false) (planned : s.out.win = some (a, b, e)) (isOpen : (oport s p).window = true)
    (idle : (oport s p).phase = .idle) (first : (oport s p).status = false) (inTime : s.now + 32 ≤ e)
    (packet : rxPacket 0x71 (rxBlocks (oport s p).rxScr bs).2 = some k) (whole : k.length = 36) (c : s.Canonical) :
    ∃ t, execDriverStatus p bs s = .next t ∧ (oport t p).status = true ∧ (oport t p).missed = 0
      ∧ ∀ i < 16, res t (hPORT p) Par.PORT_DRIVER_STATUS i = k.getD (16 + i) 0 := by
  obtain ⟨status, missed, shows⟩ := takeStatus_takes p (b := sub k 16 16) ((fromDriver_kept p bs s).ok ok)
  have takenC := (takeStatus_only p (sub k 16 16) _).kept.canon ((fromDriver_only p bs s).kept.canon c)
  refine ⟨_, execDriverStatus_idle noSeq noEnd noTransition noRestart p bs, ?_⟩
  rw [driverStatus_takes ok planned isOpen idle first inTime packet whole, oport_of_out (showPort_out ..)]
  refine ⟨status, missed, fun i small => ?_⟩
  have inside : i < (sub k 16 16).length := by
    unfold sub
    rw [List.length_take, List.length_drop]
    omega
  rw [((unshown_driverStatus p).showPort p _).res takenC (by omega), shows ((fromDriver_only p bs s).kept.canon c) i inside (by omega),
    getElem_sub inside, Nat.add_comm]

/-! ### Sense results (R216, R262) -/

theorem candidate_batchPorts (x y c type : Nat) (s : State) : (candidate x y c type s).pipe.batchPorts = s.pipe.batchPorts := by
  unfold candidate
  extract_lets told d l staged
  have tells : told.pipe.batchPorts = s.pipe.batchPorts := by simp only [told, raise_pipe]
  split
  · exact tells
  · split
    · rw [raise_pipe]; exact tells
    · rw [raise_pipe, incSat_pipe]; exact tells

theorem foldl_batchPorts {α : Type} {g : State → α → State} (step : ∀ t a, (g t a).pipe.batchPorts = t.pipe.batchPorts) :
    ∀ (l : List α) (t : State), (l.foldl g t).pipe.batchPorts = t.pipe.batchPorts
  | [], _ => rfl
  | a :: l, t => (foldl_batchPorts step l (g t a)).trans (step t a)

theorem sensePixel_batchPorts (p k raw : Nat) (s : State) : (sensePixel p k raw s).pipe.batchPorts = s.pipe.batchPorts := by
  unfold sensePixel
  extract_lets m f
  split
  next x y c _ =>
  extract_lets at_ r cur r' err stuck weak put updated saturated pr probed
  have updates : updated.pipe.batchPorts = s.pipe.batchPorts := by
    subst updated
    split
    · rfl
    · rw [incWrap_pipe]
  have saturates : saturated.pipe.batchPorts = updated.pipe.batchPorts := by
    subst saturated
    split
    · rw [raise_pipe, incSat_pipe]
    · rfl
  have probes : probed.pipe.batchPorts = saturated.pipe.batchPorts := by
    subst probed
    split
    · rw [setResList_pipe]
    · rfl
  rw [foldl_batchPorts (fun t type => candidate_batchPorts x y c type t), probes, saturates, updates]

theorem applyResults_batchPorts (p first n : Nat) (raws : List Nat) (valid : Nat) (s : State) :
    (applyResults p first n raws valid s).pipe.batchPorts = s.pipe.batchPorts := by
  refine foldl_batchPorts (fun t i => ?_) _ s
  split
  · exact sensePixel_batchPorts ..
  · rfl

/-- A port whose results of the batch are taken has its part there, whether they are applied at once or wait (R214). -/
theorem takeResults_batchPorts {s : State} {f n : Nat} (p : Nat) (raws : List Nat) (valid : Nat) (batch : s.pipe.batch = some (f, n)) :
    p ∈ (takeResults p raws valid s).pipe.batchPorts := by
  unfold takeResults
  simp only [batch]
  split
  · next there => exact List.contains_iff_mem.mp there
  · rw [(resultsMissing_only ..).pipe rfl rfl]
    split
    · exact List.mem_append_right _ (List.mem_singleton_self p)
    · rw [applyResults_batchPorts]
      exact List.mem_append_right _ (List.mem_singleton_self p)

/-- The results of the batch that come in time, as many as were asked for, are taken. -/
theorem execSenseResult_takes {s : State} {p a b e f n : Nat} {bs : List Block} {k : List Nat} (ok : portsOk s)
    (planned : s.out.win = some (a, b, e)) (batch : s.pipe.batch = some (f, n)) (isOpen : (oport s p).window = true)
    (first : (oport s p).results = false) (heard : (oport s p).backLost = false) (inTime : s.now + 32 ≤ e)
    (packet : rxPacket 0x72 (rxBlocks (oport s p).rxScr bs).2 = some k) (count : k.getD 4 0 = n) (whole : k.length = 24 + 2 * n) :
    ∃ t, execSenseResult p bs s = .next t ∧ (oport t p).results = true ∧ p ∈ t.pipe.batchPorts := by
  have takes := windowTakes_fromDriver bs ok planned isOpen inTime
  have bytes : (fromDriver p bs s).1 = (rxBlocks (oport s p).rxScr bs).2 := rfl
  have record := oport_fromDriver (s := s) p bs ok
  have batch' : (fromDriver p bs s).2.pipe.batch = some (f, n) := batch
  unfold execSenseResult
  simp only [isOpen, bytes, packet, batch', takes, record, first, heard, count, whole, Bool.not_true, Bool.not_false, Bool.and_self,
    beq_self_eq_true, Bool.false_eq_true, if_true, if_false]
  refine ⟨_, rfl, ?_, takeResults_batchPorts p _ _ batch'⟩
  rw [oport_of_out ((takeResults_only ..).same .out rfl), oport_setOport _ _ ((fromDriver_kept p bs s).ok ok)]

/-! ### Training (R264) -/

/-- After 500 µs of TS1 the first window opens. -/
theorem trainingTimer_ts1 {s : State} {p : Nat} (ok : portsOk s) (phase : (oport s p).phase = .ts1) :
    (oport (trainingTimer p s) p).phase = .window1 ∧ (trainingTimer p s).now = max s.now ((oport s p).since + 500 * tickUs)
      ∧ (oport (trainingTimer p s) p).since = (trainingTimer p s).now := by
  let turned := txTurn p (txBegin p (advanceTo ((oport s p).since + 500 * tickUs) s))
  have turns : PortKept p (advanceTo ((oport s p).since + 500 * tickUs) s) turned := (txBegin_kept ..).trans (txTurn_kept ..)
  have now : turned.now = max s.now ((oport s p).since + 500 * tickUs) :=
    ((txTurn_only p _).same .now rfl).trans ((txBegin_only p _).same .now rfl)
  have opens : trainingTimer p s = showPort p (setOport p { oport turned p with phase := .window1, since := turned.now } turned) := by
    unfold trainingTimer
    simp only [phase]
    rfl
  rw [opens, oport_of_out (showPort_out ..), oport_setOport _ _ (turns.ok ok), (showPort_only ..).same .now rfl]
  exact ⟨rfl, now, rfl⟩

/-- A new attempt sends TS1 in its mode. -/
theorem beginAttempt_begins {s : State} (p : Nat) (mode : LaneMode) (ok : portsOk s) :
    (oport (beginAttempt p mode s) p).phase = .ts1 ∧ (oport (beginAttempt p mode s) p).attempts = (oport s p).attempts
      ∧ (oport (beginAttempt p mode s) p).tryMode = mode := by
  unfold beginAttempt
  extract_lets record begun
  have ok' : portsOk begun := portsOk_setOport _ _ ok
  have sends : PortKept p begun (showPort p (sendTs1 p (txBegin p { begun with out.idle := false }))) :=
    .after (.of_out (showPort_out ..)) (.after (sendTs1_kept ..) (.after (txBegin_kept ..) (.of_ports rfl)))
  have carried := sends.kept ok'
  rw [oport_setOport _ _ ok] at carried
  exact ⟨carried.phase, carried.attempts, carried.tryMode⟩

/-- A training that fails leaves the port stopped and untrained (R269). -/
theorem trainingFailed_stops {s : State} (p cause : Nat) (ok : portsOk s) :
    (oport (trainingFailed p cause s) p).phase = .idle ∧ (oport (trainingFailed p cause s) p).trained = false
      ∧ (oport (trainingFailed p cause s) p).stopped = true := by
  unfold trainingFailed
  extract_lets record failed
  have ok' : portsOk (raise 0x0402 (hPORT p) [p, cause] failed) := by
    unfold portsOk
    rw [raise_out]
    exact portsOk_setOport _ _ ok
  rw [oport_stopPort _ _ ok', oport_of_out raise_out, oport_setOport _ _ ok]
  exact ⟨rfl, rfl, rfl⟩

/-- The first two attempts that fail are followed by another; the third stops the port. -/
theorem attemptFails_leads {s : State} (p cause : Nat) (mode : LaneMode) (ok : portsOk s) :
    if (oport s p).attempts < 2 then
      (oport (attemptFails p cause mode s) p).phase = .ts1
        ∧ (oport (attemptFails p cause mode s) p).attempts = (oport s p).attempts + 1
        ∧ (oport (attemptFails p cause mode s) p).tryMode = mode
    else (oport (attemptFails p cause mode s) p).phase = .idle ∧ (oport (attemptFails p cause mode s) p).trained = false
      ∧ (oport (attemptFails p cause mode s) p).stopped = true := by
  unfold attemptFails
  extract_lets x counted
  have ok' : portsOk counted := portsOk_setOport _ _ ok
  have record : oport counted p = { oport s p with attempts := (oport s p).attempts + 1 } := oport_setOport _ _ ok
  have same : x.attempts = (oport s p).attempts := rfl
  by_cases more : (oport s p).attempts < 2
  · have again : ¬3 ≤ x.attempts + 1 := by omega
    rw [if_pos more, if_neg again]
    have begins := beginAttempt_begins p mode ok'
    rwa [record] at begins
  · have third : 3 ≤ x.attempts + 1 := by omega
    rw [if_neg more, if_pos third]
    exact trainingFailed_stops p cause ok'

/-- A window of a training without a STATUS ends its attempt: the first after 200 µs, the second after 1 ms. -/
theorem trainingTimer_window {s : State} {p limit : Nat}
    (waits : (oport s p).phase = .window1 ∧ limit = 200 * tickUs ∨ (oport s p).phase = .window2 ∧ limit = tickMs) :
    trainingTimer p s = attemptFails p 0 (nextMode s p (oport s p).tryMode) (advanceTo ((oport s p).since + limit) s) := by
  unfold trainingTimer
  obtain ⟨phase, rfl⟩ | ⟨phase, rfl⟩ := waits <;> simp only [phase]

/-! ### Read-back (R266) -/

/-- A loopback CRC that differs counts one read-back error; what follows it leaves the count alone. -/
theorem execReadbackCompare_counts {s : State} {p l line : Nat} {bs : List Block} (small : l ≤ 1)
    (inUse : (lanesOf (oport s p).mode).contains l = true) (works : portWorks s p = true)
    (enabled : cfgB s hOUTPUT Par.OUTPUT_READBACK_ENABLE = true) (differs : readbackDiffers s p l line bs = true) (c : s.Canonical) :
    ∃ t, execReadbackCompare p l line bs s = .next t
      ∧ res t (hOLANE p l) Par.OLANE_READBACK_ERRORS = min (res s (hOLANE p l) Par.OLANE_READBACK_ERRORS + 1) max32 := by
  have own := unshown_readbackErrors p l
  have compared : ¬(!cfgB s hOUTPUT Par.OUTPUT_READBACK_ENABLE || !portWorks s p || !(lanesOf (oport s p).mode).contains l
      || decide (1 < l) || !readbackDiffers s p l line bs) = true := by
    simp [enabled, works, List.contains_iff_mem.mp inUse, differs, small]
  have counts : res (incSat (hOLANE p l) Par.OLANE_READBACK_ERRORS 1 s) (hOLANE p l) Par.OLANE_READBACK_ERRORS
      = min (res s (hOLANE p l) Par.OLANE_READBACK_ERRORS + 1) max32 := res_setRes_self _ _ _ s c
  have counted : (incSat (hOLANE p l) Par.OLANE_READBACK_ERRORS 1 s).Canonical := (incSat_only ..).kept.canon c
  unfold execReadbackCompare
  rw [if_neg compared]
  extract_lets h told at_ y near noted
  refine ⟨_, rfl, Eq.trans ?_ counts⟩
  have notes : Spared (hOLANE p l) Par.OLANE_READBACK_ERRORS (incSat (hOLANE p l) Par.OLANE_READBACK_ERRORS 1 s) noted :=
    (own.raise ..).trans (.of_only (setOlane_only ..))
  split
  · exact notes.res counted (by decide)
  · exact (notes.trans (own.laneFails ..)).res counted (by decide)

/-! ### Lane faults (R267, R268) -/

/-- A lane that loses lock in DUAL lets the port fail over to the other. -/
theorem execOlaneLockLost_switches {s : State} {p l : Nat} (ok : portsOk s) (small : l ≤ 1) (works : portWorks s p = true)
    (dual : (oport s p).mode = .dual) (free : (oport s p).switchTo = none) :
    ∃ t, execOlaneLockLost p l s = .next t ∧ (oport t p).switchTo = some (singleOf (1 - l), l, 3) := by
  refine ⟨_, congrArg Host.Outcome.next (if_pos small), ?_⟩
  rw [laneFails_switches 3 small works dual free, oport_setOport _ _ ok]

/-- Settles O29: each command does its part where its guards are met, and what follows it on the port carries on what the command has
noted.  That a missing STATUS of the second window, too, fails the attempt is the model's own reading (log entry 80). -/
theorem othamPortsServe : Obligations.OthamPortsServe := by
  unfold Obligations.OthamPortsServe
  intro s p ok noSeq noEnd noTransition noRestart
  have timed := execOthamTrainingTimer_idle noSeq noEnd noTransition noRestart p
  refine ⟨fun a b e => execReverseWindowEnd_shuts ok, fun a b e bs k => execDriverStatus_takes ok noSeq noEnd noTransition noRestart,
    fun a b e f n bs k => execSenseResult_takes ok, fun phase => ⟨_, timed, trainingTimer_ts1 ok phase⟩, fun limit waits => ?_,
    fun l => execOlaneLockLost_switches ok,
    fun l line bs small inUse works _ => execReadbackCompare_counts small inUse works⟩
  refine ⟨_, timed, ?_⟩
  rw [trainingTimer_window waits]
  exact ⟨(attemptFails_only ..).same .now rfl, attemptFails_leads p 0 _ (s := advanceTo ((oport s p).since + limit) s) ok⟩

end Sys2Proof.Machine
end

section
/-! SUPPORT. The charge pump and AVDD_REF as measured (11, R290 to R292): what shows, and that its event leaves it. -/

namespace Sys2Proof.Machine

/-- LAST_EVENT of the unit that an event names is that event. -/
theorem lastCode_raise_self (code : Nat) {handle : Nat} (data : List Nat) {s : State} (c : s.Canonical)
    (told : lostUnits.contains handle = false) : lastCode (raise code handle data s) handle = code :=
  congrArg (·.2) (raise_lastEvent_self code data s c told)

/-! ### The charge pump (R292) -/

@[simp] theorem setPump_now (n : Nat) (s : State) : (setPump n s).now = s.now := changeRes_now ..
@[simp] theorem setPump_power (n : Nat) (s : State) : (setPump n s).power = s.power := changeRes_power ..
@[simp] theorem setPump_panel (n : Nat) (s : State) : (setPump n s).panel = { s.panel with pump := n } := changeRes_panel ..

/-- The pump in state `n` with SREF_N at `mv`, and the event that tells it. -/
def pumpShown (n code : Nat) (data : List Nat) (mv : Int) (s : State) : State :=
  raise code hREFLADDER data (setPump n (setResI hREFLADDER Par.REFLADDER_SREF_N_MEAS mv s))

section
variable (n code : Nat) (data : List Nat) (mv : Int) (s : State)

@[simp] theorem pumpShown_now : (pumpShown n code data mv s).now = s.now := by simp [pumpShown]
@[simp] theorem pumpShown_power : (pumpShown n code data mv s).power = s.power := by simp [pumpShown]
@[simp] theorem pumpShown_panel : (pumpShown n code data mv s).panel = { s.panel with pump := n } := by simp [pumpShown]

end

/-- The pump as it shows once SREF_N regulates. -/
abbrev pumpRegulates (mv : Int) (s : State) : State := pumpShown 2 0x050C (s16 mv) mv s

theorem resI_changeRes_other {h p h' p' i' : Nat} (v : Nat) (s : State) (c : s.Canonical) (hne : cell h' p' i' ≠ cell h p 0) :
    resI (changeRes h p v s) h' p' i' = resI s h' p' i' := by
  unfold changeRes
  split
  · rfl
  · exact resI_setResAt_other _ s c hne

section
variable (n code : Nat) (data : List Nat) (mv : Int) {s : State} (c : s.Canonical)
include c

theorem setPump_measured_canonical : (setPump n (setResI hREFLADDER Par.REFLADDER_SREF_N_MEAS mv s)).Canonical :=
  (setPump_only ..).kept.canon ((setResI_only ..).kept.canon c)

theorem pumpShown_measures : resI (pumpShown n code data mv s) hREFLADDER Par.REFLADDER_SREF_N_MEAS = mv := by
  have measured := (setResI_only hREFLADDER Par.REFLADDER_SREF_N_MEAS mv s).kept.canon c
  calc resI (pumpShown n code data mv s) hREFLADDER Par.REFLADDER_SREF_N_MEAS
    _ = resI (setPump n (setResI hREFLADDER Par.REFLADDER_SREF_N_MEAS mv s)) hREFLADDER Par.REFLADDER_SREF_N_MEAS :=
      resI_raise _ _ _ _ (setPump_measured_canonical n mv c) rfl (by decide) (by decide)
    _ = resI (setResI hREFLADDER Par.REFLADDER_SREF_N_MEAS mv s) hREFLADDER Par.REFLADDER_SREF_N_MEAS :=
      resI_changeRes_other n _ ((Only.upd_panel (ps := [.panel]) (.refl _)).kept.canon measured) (by decide)
    _ = mv := resI_setResAt_self _ _ 0 mv s c

theorem pumpShown_lastCode : lastCode (pumpShown n code data mv s) hREFLADDER = code :=
  lastCode_raise_self _ _ (setPump_measured_canonical n mv c) rfl

end

theorem execPumpOutOfRegulation_shows {s : State} (mv : Int) (regulated : s.panel.pump = 2) :
    ∃ data, execPumpOutOfRegulation mv s = .next (pumpShown 3 0x050B data mv s) :=
  ⟨_, congrArg Host.Outcome.next (if_neg (not_not_intro regulated))⟩

theorem execPumpRegulating_alone {s : State} (mv : Int) (unregulated : s.panel.pump = 1 ∨ s.panel.pump = 3)
    (noSeq : s.panel.seq = none) : execPumpRegulating mv s = .next (pumpRegulates mv s) := by
  have unawaited : stepAwaits (pumpRegulates mv s) 0x08 = false := by
    unfold stepAwaits
    rw [pumpShown_panel, noSeq]
  have stays : ¬stepAwaits (pumpRegulates mv s) 0x08 = true := ne_true_of_eq_false unawaited
  exact congrArg Host.Outcome.next ((if_neg (by omega)).trans (if_neg stays))

/-! ### AVDD_REF (R290, R291) -/

theorem clipRefs_panel (s : State) : (clipRefs s).panel = { s.panel with clipped := clippedRefs s } := by
  unfold clipRefs
  extract_lets +onlyGivenNames c was panel shown
  have noted : shown.panel = { s.panel with clipped := clippedRefs s } := changeRes_panel ..
  split
  · exact noted
  · rw [raise_panel, noted]

/-- Which references are clipped shows in GREF_CLIPPED, and REFLADDER's other results stay. -/
theorem res_clipRefs_other {p : Nat} {s : State} (c : s.Canonical) (small : p < 4096) (apart : p ≠ Par.REFLADDER_GREF_CLIPPED) :
    res (clipRefs s) hREFLADDER p = res s hREFLADDER p := by
  unfold clipRefs
  extract_lets +onlyGivenNames clipped was panel shown
  have taken : Only [.panel] s { s with panel.clipped := clipped } := Only.upd_panel (.refl s)
  have canonical : shown.Canonical := (changeRes_only ..).kept.canon (taken.kept.canon c)
  have noted : res shown hREFLADDER p = res s hREFLADDER p :=
    res_changeRes_other _ _ (taken.kept.canon c) (fun same => apart (by unfold cell at same; omega))
  split
  · exact noted
  · exact (res_raise _ _ _ _ canonical rfl small (by decide)).trans noted

/-- The reading of AVDD_REF shown, and with it which references are clipped. -/
def avddShown (mv : Nat) (s : State) : State :=
  clipRefs (setRes hREFLADDER Par.REFLADDER_AVDD_REF_MV mv { s with panel.avddAt := some s.now })

/-- Beyond what shows, a reading only moves on how long AVDD_REF has been within or out of its limits, and may tell that it is out. -/
theorem avddSample_shows (mv : Nat) (s : State) : ∃ p : PanelSt,
    (avddSample mv s = { avddShown mv s with panel := p }
      ∨ avddSample mv s = raise 0x0509 hREFLADDER (u16 mv) { avddShown mv s with panel := p })
    ∧ p.avddAt = (avddShown mv s).panel.avddAt := by
  obtain ⟨t, sampled⟩ : ∃ t, t = avddSample mv s := ⟨_, rfl⟩
  rw [← sampled]
  unfold avddSample at sampled
  extract_lets +onlyGivenNames panel read shown at sampled
  split at sampled
  · extract_lets +onlyGivenNames since panel late at sampled
    split at sampled
    · exact ⟨_, .inl sampled, rfl⟩
    · exact ⟨_, .inr sampled, rfl⟩
  · extract_lets +onlyGivenNames since panel within at sampled
    split at sampled
    · exact ⟨_, .inl sampled, rfl⟩
    · exact ⟨_, .inl sampled, rfl⟩

theorem avddShown_now (mv : Nat) (s : State) : (avddShown mv s).now = s.now := (clipRefs_only _).same .now rfl

theorem avddShown_avddAt (mv : Nat) (s : State) : (avddShown mv s).panel.avddAt = some s.now := by
  unfold avddShown
  rw [clipRefs_panel]
  rfl

theorem avddShown_canonical (mv : Nat) {s : State} (c : s.Canonical) : (avddShown mv s).Canonical := by
  have read : Only [.panel] s { s with panel.avddAt := some s.now } := Only.upd_panel (.refl s)
  exact (clipRefs_only _).kept.canon ((setRes_only ..).kept.canon (read.kept.canon c))

theorem avddShown_res (mv : Nat) {s : State} (c : s.Canonical) :
    res (avddShown mv s) hREFLADDER Par.REFLADDER_AVDD_REF_MV = mv := by
  have read : Only [.panel] s { s with panel.avddAt := some s.now } := Only.upd_panel (.refl s)
  have canonical := read.kept.canon c
  exact (res_clipRefs_other ((setRes_only ..).kept.canon canonical) (by decide) (by decide)).trans (res_setRes_self _ _ _ _ canonical)

/-- The moment of a reading: 1 ms after the last (R291). -/
def sampleDue (s : State) : State :=
  match s.panel.avddAt with
  | some t => advanceTo (t + tickMs) s
  | none => s

theorem sampleDue_canonical {s : State} (c : s.Canonical) : (sampleDue s).Canonical := by
  unfold sampleDue
  split
  · exact (advanceTo_only ..).kept.canon c
  · exact c

theorem execAvddRefSample_samples (mv : Nat) {s : State} (on : panelDomainOn s = true) :
    execAvddRefSample mv s = .next (avddSample mv (sampleDue s)) := by
  have awake : ¬(!panelDomainOn s) = true := by simp [on]
  exact congrArg Host.Outcome.next (if_neg awake)

/-- A reading shows, with its moment. -/
theorem avddSample_measures (mv : Nat) {s : State} (c : s.Canonical) :
    res (avddSample mv s) hREFLADDER Par.REFLADDER_AVDD_REF_MV = mv
      ∧ (avddSample mv s).panel.avddAt = some (avddSample mv s).now := by
  obtain ⟨p, sampled, noted⟩ := avddSample_shows mv s
  have judged : Only [.panel] (avddShown mv s) { avddShown mv s with panel := p } := Only.upd_panel (.refl _)
  have shows : res { avddShown mv s with panel := p } hREFLADDER Par.REFLADDER_AVDD_REF_MV = mv := avddShown_res mv c
  have moment : p.avddAt = some (avddShown mv s).now := by rw [noted, avddShown_avddAt, avddShown_now]
  obtain quiet | told := sampled
  · rw [quiet]
    exact ⟨shows, moment⟩
  · rw [told, raise_panel, raise_now]
    exact ⟨(res_raise _ _ _ _ (judged.kept.canon (avddShown_canonical mv c)) rfl (by decide) (by decide)).trans shows, moment⟩

/-- Settles O33: what the pump and AVDD_REF show is what was measured; an event of REFLADDER moves none of REFLADDER's results. -/
theorem pumpAndReference : Obligations.PumpAndReference := by
  unfold Obligations.PumpAndReference
  intro s c
  refine ⟨fun mv regulated => ?_, fun mv unregulated noSeq => ⟨_, execPumpRegulating_alone mv unregulated noSeq, ?_⟩, fun mv on => ?_⟩
  · obtain ⟨data, shows⟩ := execPumpOutOfRegulation_shows mv regulated
    exact ⟨_, shows, congrArg (·.pump) (pumpShown_panel ..), pumpShown_measures _ _ _ _ c, pumpShown_lastCode _ _ _ _ c⟩
  · exact ⟨congrArg (·.pump) (pumpShown_panel ..), pumpShown_measures _ _ _ _ c, pumpShown_lastCode _ _ _ _ c⟩
  · exact ⟨_, execAvddRefSample_samples mv on, avddSample_measures mv (sampleDue_canonical c)⟩

end Sys2Proof.Machine
end

section
/-! SUPPORT. The panel's power sequences at work (11, R293, R294, R303, Table 11.4): a step that is met goes on to its DELAY, and the DELAY of
the last step ends the sequence. -/

namespace Sys2Proof.Machine

/-! ### A step goes on to its DELAY -/

/-- With no end of a sequence to act on and no change of power under way, the power states stay. -/
theorem afterPanel_idle {s : State} (noEnd : s.panel.ended = none) (noTransition : s.power.transition = none)
    (noRestart : s.power.restarting = false) : afterPanel s = s := by
  unfold afterPanel
  rw [noEnd]
  exact advanceEntry_idle noTransition noRestart

theorem afterWait_delays {s : State} {q : SeqRun} (runs : s.panel.seq = some q) (delay : seqByte q 7 ≠ 0) : afterWait s = s := by
  unfold afterWait
  rw [runs]
  exact if_neg fun passed => delay passed.2

/-- A step with a DELAY stays there once its condition has been met. -/
theorem beginDelay_stays {s : State} {q : SeqRun} (noEnd : s.panel.ended = none) (noTransition : s.power.transition = none)
    (noRestart : s.power.restarting = false) (delay : seqByte q 7 ≠ 0) :
    afterPanel (afterWait (beginDelay q s)) = beginDelay q s := by
  rw [afterWait_delays (s := beginDelay q s) rfl delay]
  exact afterPanel_idle noEnd noTransition noRestart

/-- The action's event takes a step that waits for it, with no pin to wait for and a DELAY, to that DELAY. -/
theorem actionDone_delays {s : State} {q : SeqRun} (noEnd : s.panel.ended = none) (noTransition : s.power.transition = none)
    (noRestart : s.power.restarting = false) (runs : s.panel.seq = some q) (waits : q.wait = .action) (noPin : pinWait q = none)
    (delay : seqByte q 7 ≠ 0) : (Host.Outcome.next (afterPanel (actionDone s)) : Host.Outcome State Fault Refusal)
      = .next (setSeq { q with wait := .delay, since := s.now } s) := by
  have noPinWait : beginPinWait q s = beginDelay q s := by
    unfold beginPinWait
    rw [noPin]
  have unwatched : beginDelay q s = setSeq { q with wait := .delay, since := s.now } s := by
    unfold beginDelay
    rw [noPin]
  unfold actionDone
  rw [runs]
  dsimp only
  rw [if_pos waits, noPinWait, beginDelay_stays noEnd noTransition noRestart delay, unwatched]

/-! ### The commands that tell a step of its action (R293, Table 11.4) -/

theorem stepAwaits_action {s : State} {q : SeqRun} {a : Nat} (runs : s.panel.seq = some q) (waits : q.wait = .action)
    (does : seqDoes q = a) : stepAwaits s a = true := by
  unfold stepAwaits
  rw [runs]
  simp [waits, does]

theorem execPmbusWriteDone_ack {s : State} {p : Pmbus} (writes : s.panel.pmbus = some p) (pending : p.failedAt = none) :
    execPmbusWriteDone .ack s = .next (afterPanel (actionDone { s with panel.pmbus := none })) := by
  unfold execPmbusWriteDone
  rw [writes]
  simp [pending]

theorem execRefSettled_done {s : State} (awaited : stepAwaits s 0x06 = true) :
    execRefSettled s = .next (afterPanel (actionDone s)) := congrArg Host.Outcome.next (if_pos awaited)

theorem execMetAfter1Ms_done {s : State} {q : SeqRun} (runs : s.panel.seq = some q)
    (awaited : stepAwaits s 0x07 = true ∨ stepAwaits s 0x09 = true) :
    execMetAfter1Ms s = .next (afterPanel (actionDone (advanceTo (q.since + tickMs) s))) := by
  unfold execMetAfter1Ms
  rw [runs]
  exact congrArg Host.Outcome.next (if_pos (Bool.or_eq_true_iff.mpr awaited))

theorem execDischargeHoldEnd_done {s : State} {h : Nat} (held : s.panel.holdAt = some h) (awaited : stepAwaits s 0x0C = true) :
    execDischargeHoldEnd s = .next (afterPanel (actionDone
      { advanceTo (h + cfg s hPANELPWR Par.PANELPWR_DISCH_ALL_MS * tickMs) s with panel.holdAt := none })) := by
  unfold execDischargeHoldEnd
  rw [held]
  exact congrArg Host.Outcome.next (if_pos awaited)

theorem execPumpRegulating_awaited {s : State} {mv : Int} (unregulated : s.panel.pump = 1 ∨ s.panel.pump = 3)
    (awaited : stepAwaits (pumpRegulates mv s) 0x08 = true) :
    execPumpRegulating mv s = .next (afterPanel (actionDone (pumpRegulates mv s))) :=
  congrArg Host.Outcome.next ((if_neg (by omega)).trans (if_pos awaited))

/-- Settles O31: each event is the one that its step waits for, so the step goes on to its DELAY from the moment of the event. -/
theorem stepsMetByTheirEvents : Obligations.StepsMetByTheirEvents := by
  unfold Obligations.StepsMetByTheirEvents
  intro s q noEnd noTransition noRestart runs waits noPin delay
  refine ⟨fun p writes pending => ⟨_, (execPmbusWriteDone_ack writes pending).trans
      (actionDone_delays noEnd noTransition noRestart runs waits noPin delay), rfl, rfl⟩,
    fun does => ⟨_, (execRefSettled_done (stepAwaits_action runs waits does)).trans
      (actionDone_delays noEnd noTransition noRestart runs waits noPin delay), rfl⟩,
    fun does => ⟨_, (execMetAfter1Ms_done runs (does.imp (stepAwaits_action runs waits) (stepAwaits_action runs waits))).trans
      (actionDone_delays noEnd noTransition noRestart runs waits noPin delay), rfl⟩,
    fun mv does unregulated => ?_,
    fun h does held => ⟨_, (execDischargeHoldEnd_done held (stepAwaits_action runs waits does)).trans
      (actionDone_delays noEnd noTransition noRestart runs waits noPin delay), rfl, rfl⟩⟩
  have panel : (pumpRegulates mv s).panel = { s.panel with pump := 2 } := pumpShown_panel ..
  have power : (pumpRegulates mv s).power = s.power := pumpShown_power ..
  have shownRuns : (pumpRegulates mv s).panel.seq = some q := by rw [panel, runs]
  refine ⟨_, (execPumpRegulating_awaited unregulated (stepAwaits_action shownRuns waits does)).trans
    (actionDone_delays (by rw [panel, noEnd]) (by rw [power, noTransition]) (by rw [power, noRestart]) shownRuns waits noPin delay),
    ?_, congrArg (·.pump) panel⟩
  rw [pumpShown_now]
  rfl

/-! ### The pins (R294) -/

/-- A PGOOD pin seen at its new level. -/
def pinSeen (pin : Nat) (level : Bool) (s : State) : State :=
  let v := if level then s.panel.pgood + 2 ^ pin else s.panel.pgood - 2 ^ pin
  changeRes hPANELPWR Par.PANELPWR_PGOOD v
    { s with panel.pgood := v, panel.fellAt := mput 0 s.panel.fellAt pin (if level then 0 else s.now) }

section
variable {pin : Nat} {level : Bool} {s : State}

theorem pinSeen_panel : (pinSeen pin level s).panel = { s.panel with
    pgood := if level then s.panel.pgood + 2 ^ pin else s.panel.pgood - 2 ^ pin
    fellAt := mput 0 s.panel.fellAt pin (if level then 0 else s.now) } := changeRes_panel ..
theorem pinSeen_power : (pinSeen pin level s).power = s.power := changeRes_power ..
theorem pinSeen_now : (pinSeen pin level s).now = s.now := changeRes_now ..

theorem execPgoodChange_alone (small : pin ≤ 5) (differs : s.panel.pgood.testBit pin ≠ level) (noSeq : s.panel.seq = none) :
    execPgoodChange pin level s = .next (pinSeen pin level s) := by
  unfold execPgoodChange
  rw [if_neg (not_or_intro (Nat.not_lt.mpr small) differs)]
  extract_lets +onlyGivenNames v panel seen
  have alone : seen.panel.seq = none := (congrArg (·.seq) pinSeen_panel).trans noSeq
  rw [alone]
  rfl

theorem execPgoodChange_awaited {q : SeqRun} (small : pin ≤ 5) (differs : s.panel.pgood.testBit pin ≠ level)
    (runs : s.panel.seq = some q) (waits : q.wait = .pin pin level) :
    execPgoodChange pin level s = .next (afterPanel (afterWait (beginDelay q (pinSeen pin level s)))) := by
  unfold execPgoodChange
  rw [if_neg (not_or_intro (Nat.not_lt.mpr small) differs)]
  extract_lets +onlyGivenNames v panel seen
  have awaited : seen.panel.seq = some q := (congrArg (·.seq) pinSeen_panel).trans runs
  rw [awaited]
  exact congrArg Host.Outcome.next (if_pos waits)

end

/-! ### The end of a sequence (R303) -/

@[simp] theorem setPanel_panel (n : Nat) (s : State) : (setPanel n s).panel = { s.panel with on := n } := changeRes_panel ..
@[simp] theorem unitsUp_panel (bits : Nat) (s : State) : (unitsUp bits s).panel = s.panel := rfl
@[simp] theorem setTransition_panel (n : Nat) (s : State) : (setTransition n s).panel = s.panel := changeRes_panel ..

/-- Past its last step ON_SEQ is complete. -/
theorem runSeq_onEnds {s : State} {q : SeqRun} (n : Nat) (runs : s.panel.seq = some q) (past : 16 ≤ q.step) (on : q.off = false) :
    runSeq (n + 1) s = onComplete q s := by
  unfold runSeq
  rw [runs]
  dsimp only
  rw [if_pos (.inl past), on]
  rfl

theorem onComplete_panel (q : SeqRun) (s : State) :
    (onComplete q s).panel = { s.panel with on := 2, seq := none, failed := false, ended := some true } := by
  simp [onComplete]

theorem onComplete_lastCode (q : SeqRun) {s : State} (c : s.Canonical) : lastCode (onComplete q s) hPANELPWR = 0x0501 := by
  unfold onComplete
  extract_lets +onlyGivenNames ms counted panel shown
  have kept : Only [.results, .events, .ports, .storeQueue, .heldEvents, .panel, .resil] s shown :=
    .after (settle_only ..) (.after (unitsUp_only ..) (.after (setPanel_only ..)
      (Only.upd_panel (.after (setRes_only ..) (.after (incWrap_only ..) (.refl s))))))
  exact lastCode_raise_self _ _ (kept.kept.canon c) rfl

/-- What the end of ON_SEQ moves on leaves its event and the moment as they were. -/
theorem afterPanel_onEnded {s : State} (ended : s.panel.ended = some true) :
    Only [.results, .panel, .power] s (afterPanel s) ∧ (afterPanel s).panel = { s.panel with ended := none } := by
  unfold afterPanel
  rw [ended]
  dsimp only
  have taken : Only [.results, .panel, .power] s { s with panel.ended := none } := Only.upd_panel (.refl s)
  split
  · have woken : Only [.results, .panel, .power] s { s with panel.ended := none, power.waking := none } := Only.upd_power taken
    exact ⟨.after (setTransition_only ..) woken, setTransition_panel ..⟩
  · exact ⟨taken, rfl⟩

theorem senseUnknown_panel (s : State) : (senseUnknown s).panel = { s.panel with
    set0 := { s.panel.set0 with token := none, moves := [] }, set1 := { s.panel.set1 with token := none, moves := [] } } := by
  simp [senseUnknown, setRowSet, rowSet]

theorem offComplete_panel (q : SeqRun) (s : State) : (offComplete q s).panel = { s.panel with
    on := if s.panel.failed then 4 else 0, seq := none, ended := some false
    set0 := { s.panel.set0 with token := none, moves := [] }, set1 := { s.panel.set1 with token := none, moves := [] } } := by
  simp [offComplete, senseUnknown_panel]

theorem offComplete_lastCode (q : SeqRun) {s : State} (c : s.Canonical) : lastCode (offComplete q s) hPANELPWR = 0x0502 := by
  unfold offComplete
  extract_lets +onlyGivenNames panel shown
  have kept : Only [.results, .panel] s shown :=
    .after (senseUnknown_only ..) (.after (setPanel_only ..) (Only.upd_panel (.refl s)))
  exact lastCode_raise_self _ _ (kept.kept.canon c) rfl

/-- With no failure and no change of power under way, the power states take the end of OFF_SEQ as it is. -/
theorem afterPanel_offEnded {s : State} (ended : s.panel.ended = some false) (noFailure : s.panel.failing = false)
    (noTransition : s.power.transition = none) (noRestart : s.power.restarting = false) :
    Only [.panel] s (afterPanel s) ∧ (afterPanel s).panel = { s.panel with ended := none, failing := false } := by
  have taken : afterPanel s = { s with panel.ended := none, panel.failing := false } := by
    unfold afterPanel
    rw [ended]
    dsimp only
    rw [if_pos (by rw [noFailure]; exact Bool.or_true _)]
    exact advanceEntry_idle noTransition noRestart
  rw [taken]
  exact ⟨Only.upd_panel (.refl s), rfl⟩

/-- Past its last step OFF_SEQ is complete, and where power-on has not been asked for nothing follows it. -/
theorem runSeq_offEnds {s : State} {q : SeqRun} (n : Nat) (runs : s.panel.seq = some q) (past : 16 ≤ q.step) (off : q.off = true)
    (stay : (offComplete q s).panel.wantOn = false) : runSeq (n + 1) s = offComplete q s := by
  unfold runSeq
  rw [runs]
  dsimp only
  rw [if_pos (.inl past), off]
  exact if_neg (ne_true_of_eq_false stay)

/-- The moment at which the DELAY of the step that runs is over (R294). -/
def delayOver (q : SeqRun) (s : State) : State := advanceTo (q.since + seqByte q 7 * 400000) s

theorem execSeqDelayExpiry_next {s : State} {q : SeqRun} (runs : s.panel.seq = some q) (waits : q.wait = .delay) :
    execSeqDelayExpiry s = .next (afterPanel (nextStep (delayOver q s))) := by
  unfold execSeqDelayExpiry
  rw [runs]
  exact congrArg Host.Outcome.next (if_pos waits)

/-- A step that OFF_SEQ does not interrupt goes on to the next. -/
theorem nextStep_on {s : State} {q : SeqRun} (runs : s.panel.seq = some q) (stay : ¬(s.panel.wantOff ∧ q.off = false)) :
    nextStep s = runSeq seqFuel (setSeq { q with step := q.step + 1 } s) := by
  unfold nextStep
  rw [runs]
  exact if_neg stay

/-- The sequence past its last step, the DELAY of that step over. -/
abbrev pastLast (q : SeqRun) (s : State) : State := setSeq { q with step := q.step + 1 } (delayOver q s)

theorem pastLast_canonical (q : SeqRun) {s : State} (c : s.Canonical) : (pastLast q s).Canonical :=
  (setSeq_only ..).kept.canon ((advanceTo_only ..).kept.canon c)

theorem execSeqDelayExpiry_onEnds {s : State} {q : SeqRun} (runs : s.panel.seq = some q) (waits : q.wait = .delay) (last : q.step = 15)
    (on : q.off = false) (stay : s.panel.wantOff = false) :
    execSeqDelayExpiry s = .next (afterPanel (onComplete { q with step := q.step + 1 } (pastLast q s))) := by
  have goesOn := nextStep_on (s := delayOver q s) runs fun asked => absurd asked.1 (ne_true_of_eq_false stay)
  rw [execSeqDelayExpiry_next runs waits, goesOn, runSeq_onEnds (s := pastLast q s) 63 rfl (by simp [last]) on]

theorem execSeqDelayExpiry_offEnds {s : State} {q : SeqRun} (runs : s.panel.seq = some q) (waits : q.wait = .delay) (last : q.step = 15)
    (off : q.off = true) (stay : s.panel.wantOn = false) :
    execSeqDelayExpiry s = .next (afterPanel (offComplete { q with step := q.step + 1 } (pastLast q s))) := by
  have goesOn := nextStep_on (s := delayOver q s) runs fun asked => Bool.false_ne_true (asked.2.symm.trans off)
  have ends := runSeq_offEnds (s := pastLast q s) 63 rfl (by simp [last]) off (by rw [offComplete_panel]; exact stay)
  rw [execSeqDelayExpiry_next runs waits, goesOn, ends]

/-- Settles O30: a pin that is awaited lets its step go on to the DELAY; past step 15 the sequence is complete, and the power states take its
end. -/
theorem panelSequenceMoves : Obligations.PanelSequenceMoves := by
  unfold Obligations.PanelSequenceMoves
  intro s noEnd noTransition noRestart
  refine ⟨fun pin level small differs noSeq => ⟨_, execPgoodChange_alone small differs noSeq, congrArg (·.pgood) pinSeen_panel⟩,
    fun pin level q small differs runs waits delay => ⟨_, execPgoodChange_awaited small differs runs waits, ?_⟩,
    fun q runs waits last on stay c => ⟨_, execSeqDelayExpiry_onEnds runs waits last on stay, ?_⟩,
    fun q runs waits last off stay noFailure c => ⟨_, execSeqDelayExpiry_offEnds runs waits last off stay, ?_⟩⟩
  · rw [beginDelay_stays (by rw [pinSeen_panel, noEnd]) (by rw [pinSeen_power, noTransition]) (by rw [pinSeen_power, noRestart]) delay]
    exact congrArg (fun now => some { q with wait := .delay, since := now }) pinSeen_now
  · obtain ⟨only, panel⟩ := afterPanel_onEnded (s := onComplete { q with step := q.step + 1 } (pastLast q s))
      (by rw [onComplete_panel])
    rw [panel, onComplete_panel]
    exact ⟨rfl, rfl, (lastCode_of_only only rfl _).trans (onComplete_lastCode _ (pastLast_canonical q c)),
      (only.same .now rfl).trans ((onComplete_only ..).same .now rfl)⟩
  · have power := (offComplete_only { q with step := q.step + 1 } (pastLast q s)).same .power rfl
    obtain ⟨only, panel⟩ := afterPanel_offEnded (s := offComplete { q with step := q.step + 1 } (pastLast q s))
      (by rw [offComplete_panel]) (by rw [offComplete_panel]; exact noFailure) (by rw [power]; exact noTransition)
      (by rw [power]; exact noRestart)
    rw [panel, offComplete_panel]
    exact ⟨rfl, rfl, (lastCode_of_only only rfl _).trans (offComplete_lastCode _ (pastLast_canonical q c))⟩

end Sys2Proof.Machine
end

section
/-! SUPPORT. A PGOOD loss with a wake held that is none of the sources of Table 19.10 (11, 19, R296, R487): the count of that wake lands in
the count of the losses. -/

namespace Sys2Proof.Machine

/-- A number so far beyond the sources of a wake that its element of WAKES is the cell of PGOOD_LOSSES. -/
def strayWake : Nat := cell hPANELPWR Par.PANELPWR_PGOOD_LOSSES 0 - cell hPWR Par.PWR_WAKES 0 + 1

/-- PGOOD0 is monitored and low, OFF_SEQ has no step, and a wake is held whose source is `strayWake`. -/
def strayState : State :=
  setCfg hPANELPWR Par.PANELPWR_OFF_SEQ 0 0 (setCfg hPANELPWR Par.PANELPWR_PGOOD_MONITOR 0 1
    { State.reset with panel.watched := 1, power.heldWake := some strayWake })

theorem strayState_canonical : strayState.Canonical where
  store := by decide +kernel
  mirror := rfl
  image := rfl
  flash := by decide +kernel
  sram := rfl
  results := rfl
  gens := rfl
  limited := rfl
  last := rfl
  ce := rfl
  ue := rfl
  patch := rfl
  held := rfl
  config := by decide +kernel

theorem strayState_losses : res strayState hPANELPWR Par.PANELPWR_PGOOD_LOSSES = 0 := by decide +kernel

theorem strayState_pgoodLost_losses : res (pgoodLost 0 strayState) hPANELPWR Par.PANELPWR_PGOOD_LOSSES = 2 := by decide +kernel

/-- Refutes O32, in its clause of the PGOOD loss: OFF_SEQ ends at once, the failure takes the device to STANDBY, and the wake held until then
begins; where its source is out of range, counting it counts PGOOD_LOSSES a second time. -/
theorem not_panelSequenceRetries : ¬ Obligations.PanelSequenceRetries := by
  unfold Obligations.PanelSequenceRetries
  intro h
  obtain ⟨-, -, -, loss⟩ := h strayState rfl rfl rfl
  obtain ⟨t, step, counted⟩ := loss 0 (by decide +kernel) (by decide +kernel) (by decide +kernel) strayState_canonical
  obtain rfl : pgoodLost 0 strayState = t := Host.Outcome.next.inj step
  rw [strayState_pgoodLost_losses, strayState_losses] at counted
  exact absurd counted (by decide)

end Sys2Proof.Machine
end

section
/-! SUPPORT. The DRAM channels in their map (13): what a channel's record holds after it is replaced; the upkeep of one channel
(R341 to R344, R346, R347). -/

set_option Elab.async false

namespace Sys2Proof.Machine

/-! ### The channels in their map -/

/-- The channels' map is in order. -/
abbrev chansOk (s : State) : Prop := mwf {} s.dram.chans = true

theorem chan_of_dram {s t : State} (dram : t.dram = s.dram) (c : Nat) : chan t c = chan s c := by
  unfold chan
  rw [dram]

theorem chan_setChan {s : State} (c : Nat) (x : ChanSt) (ok : chansOk s) : chan (setChan c x s) c = x := mget_mput_self _ _ _ _ ok

theorem chan_setChan_other {s : State} {b c : Nat} (x : ChanSt) (apart : b ≠ c) (ok : chansOk s) : chan (setChan c x s) b = chan s b :=
  mget_mput_other _ _ _ _ _ apart ok

theorem chansOk_setChan {s : State} (c : Nat) (x : ChanSt) (ok : chansOk s) : chansOk (setChan c x s) := mwf_mput _ _ _ _ ok

theorem setChan_canonical (c : Nat) (x : ChanSt) {s : State} (canonical : s.Canonical) : (setChan c x s).Canonical :=
  (setChan_only ..).kept.canon canonical

/-- Channels that are not named keep their records. -/
theorem chan_foldl_setChan_other (f : ChanSt → ChanSt) {c : Nat} {l : List Nat} (unnamed : c ∉ l) (s : State) (ok : chansOk s) :
    chan (l.foldl (fun s b => setChan b (f (chan s b)) s) s) c = chan s c := by
  induction l generalizing s with
  | nil => rfl
  | cons b l ih =>
    rw [List.mem_cons, not_or] at unnamed
    exact (ih unnamed.2 _ (chansOk_setChan b _ ok)).trans (chan_setChan_other _ unnamed.1 ok)

/-- Channels named once have their records replaced one after another. -/
theorem chan_foldl_setChan (f : ChanSt → ChanSt) {c : Nat} {l : List Nat} (once : l.Nodup) (named : c ∈ l) (s : State) (ok : chansOk s) :
    chan (l.foldl (fun s b => setChan b (f (chan s b)) s) s) c = f (chan s c) := by
  induction l generalizing s with
  | nil => exact absurd named List.not_mem_nil
  | cons b l ih =>
    rw [List.nodup_cons] at once
    have ok' := chansOk_setChan b (f (chan s b)) ok
    rcases List.mem_cons.1 named with rfl | rest
    · exact (chan_foldl_setChan_other f once.1 _ ok').trans (chan_setChan c _ ok)
    · have apart : c ≠ b := fun same => once.1 (same ▸ rest)
      exact (ih once.2 rest _ ok').trans (congrArg f (chan_setChan_other _ apart ok))

/-! ### The upkeep of a channel -/

theorem execDramRefreshDue_refreshes {s : State} {c : Nat} (bank rate : Nat) (ok : chansOk s) (serves : chanServes s c = true)
    (canonical : s.Canonical) (times : mwf 0 (chan s c).refreshed = true) :
    ∃ t, execDramRefreshDue c bank rate s = .next t ∧ res t (hDCH c) Par.DCH_REFRESH_RATE = rate
      ∧ mget 0 (chan t c).refreshed bank = s.now := by
  refine ⟨_, congrArg Host.Outcome.next (if_pos serves), res_changeRes_self _ _ _ _ (setChan_canonical _ _ canonical), ?_⟩
  rw [chan_of_dram changeRes_dram, chan_setChan c _ ok]
  exact mget_mput_self 0 _ bank s.now times

theorem execRdTableClear_clears {s : State} {c : Nat} (ok : chansOk s) (real : c < 8) :
    ∃ t, execRdTableClear s = .next t ∧ chan t c = { chan s c with acts := [], actBy := [], halfRows := [] } :=
  ⟨_, rfl, chan_foldl_setChan (fun x => { x with acts := [], actBy := [], halfRows := [] }) List.nodup_range (List.mem_range.2 real) s ok⟩

theorem execThrottleExpiry_ends {s : State} {cls e : Nat} (halved : mget none s.dram.throttle cls = some e)
    (ok : mwf none s.dram.throttle = true) :
    ∃ t, execThrottleExpiry cls s = .next t ∧ mget none t.dram.throttle cls = none ∧ t.now = max s.now e := by
  refine ⟨advanceTo e { s with dram.throttle := mput none s.dram.throttle cls none }, ?_, mget_mput_self _ _ _ _ ok, rfl⟩
  unfold execThrottleExpiry
  rw [halved]

theorem execDramRequestPromotion_performs {s : State} {c l : Nat}
    (oldest : s.dram.writeBacks.find? (fun l => (lineHome s l).ch == c) = some l) (serves : chanServes s c = true) :
    ∃ t, execDramRequestPromotion c s = .next t ∧ t.dram.writeBacks = s.dram.writeBacks.erase l := by
  refine ⟨{ s with dram.writeBacks := s.dram.writeBacks.erase l }, ?_, rfl⟩
  unfold execDramRequestPromotion
  rw [oldest]
  exact congrArg Host.Outcome.next (if_pos serves)

/-- The moment of a fine retrain that is due, RETRAIN_MS after the last training (R346). -/
def retrainDue (c : Nat) (s : State) : State := advanceTo ((chan s c).trainedAt + cfg s hDRAM Par.DRAM_RETRAIN_MS * tickMs) s

/-- A channel after a fine retrain that found `drift` (R347). -/
def fineTrained (s : State) (c : Nat) (drift : Int) : ChanSt :=
  { chan s c with
    drift := drift, trainedAt := (retrainDue c s).now
    pieces := if decide (cfg s hDRAM Par.DRAM_DRIFT_LIMIT < drift.natAbs) && (chan s c).pieces.isNone then some 0 else (chan s c).pieces }

/-- The state in which a fine retrain shows its drift and is counted. -/
def driftTaken (c : Nat) (drift : Int) (s : State) : State := setChan c (fineTrained s c drift) (retrainDue c s)

theorem driftTaken_canonical (c : Nat) (drift : Int) {s : State} (canonical : s.Canonical) : (driftTaken c drift s).Canonical :=
  setChan_canonical _ _ ((advanceTo_only ..).kept.canon canonical)

theorem execFineRetrainTimer_trains {s : State} {c : Nat} (drift : Int) (serves : chanServes s c = true) (blank : inBlanking s = true) :
    execFineRetrainTimer c drift s = .next (incWrap (hDCH c) Par.DCH_FINE_RETRAINS 1
      (setResI (hDCH c) Par.DCH_DRIFT (clampI drift (-32768) 32767) (driftTaken c drift s))) := by
  unfold execFineRetrainTimer
  rw [serves, blank]
  rfl

/-- Two entries of one unit are two cells. -/
theorem cell_ne_of_entry (h : Nat) {p p' : Nat} (apart : p' ≠ p) : cell h p' 0 ≠ cell h p 0 := by
  unfold cell
  omega

theorem execFineRetrainTimer_effect {s : State} {c : Nat} (drift : Int) (ok : chansOk s) (serves : chanServes s c = true)
    (blank : inBlanking s = true) (canonical : s.Canonical) :
    ∃ t, execFineRetrainTimer c drift s = .next t ∧ chan t c = fineTrained s c drift ∧ t.now = (retrainDue c s).now
      ∧ resI t (hDCH c) Par.DCH_DRIFT = clampI drift (-32768) 32767
      ∧ res t (hDCH c) Par.DCH_FINE_RETRAINS = (res s (hDCH c) Par.DCH_FINE_RETRAINS + 1) % w32 := by
  have taken := driftTaken_canonical c drift canonical
  have shown := (setResI_only (hDCH c) Par.DCH_DRIFT (clampI drift (-32768) 32767) (driftTaken c drift s)).kept.canon taken
  have counted : res (setResI (hDCH c) Par.DCH_DRIFT (clampI drift (-32768) 32767) (driftTaken c drift s)) (hDCH c) Par.DCH_FINE_RETRAINS
      = res s (hDCH c) Par.DCH_FINE_RETRAINS :=
    congrArg Int.toNat (resI_setResAt_other _ _ taken (cell_ne_of_entry _ (by decide)))
  refine ⟨_, execFineRetrainTimer_trains drift serves blank, ?_, ?_, ?_, ?_⟩
  · rw [chan_of_dram ((incWrap_dram ..).trans (setResI_dram ..))]
    exact chan_setChan c _ ok
  · exact incWrap_now ..
  · exact (resI_setResAt_other _ _ shown (cell_ne_of_entry _ (by decide))).trans (resI_setResAt_self _ _ 0 _ _ taken)
  · rw [res_incWrap_self _ _ _ _ shown (by decide), counted]

/-- Settles O35: each command does its part to the record of its channel, and what shows of it is the channel's own. -/
theorem dramChannelUpkeep : Obligations.DramChannelUpkeep := by
  unfold Obligations.DramChannelUpkeep
  intro s c ok
  refine ⟨fun bank rate serves canonical times => execDramRefreshDue_refreshes bank rate ok serves canonical times, fun real => ?_,
    fun cls e halved throttles => execThrottleExpiry_ends halved throttles,
    fun l oldest serves => execDramRequestPromotion_performs oldest serves, fun drift serves blank canonical => ?_⟩
  · obtain ⟨t, step, cleared⟩ := execRdTableClear_clears ok real
    exact ⟨t, step, by rw [cleared], by rw [cleared], by rw [cleared]⟩
  · obtain ⟨t, step, trained, now, shown, counted⟩ := execFineRetrainTimer_effect drift ok serves blank canonical
    refine ⟨t, step, by rw [trained]; rfl, by rw [trained, now]; rfl, now, shown, counted, fun beyond => ?_, fun within => ?_⟩
    · rw [trained]
      cases pieces : (chan s c).pieces <;> simp [fineTrained, beyond, pieces]
    · rw [trained]
      simp [fineTrained, Nat.not_lt.2 within]

end Sys2Proof.Machine
end

section
/-! SUPPORT. What a row activation and a retirement make of the DRAM (13, R343, R344, R352, R354). -/

set_option Elab.async false

namespace Sys2Proof.Machine

@[simp] theorem stressRateCheck_dram (s : State) : (stressRateCheck s).dram = s.dram := (stressRateCheck_only s).same .dram rfl
@[simp] theorem showChan_dram (c st : Nat) (s : State) : (showChan c st s).dram = s.dram := (showChan_only c st s).same .dram rfl
@[simp] theorem fellRecord_dram (h kind cause detail : Nat) (s : State) : (fellRecord h kind cause detail s).dram = s.dram :=
  (fellRecord_only h kind cause detail s).same .dram rfl
@[simp] theorem fellRecord_now (h kind cause detail : Nat) (s : State) : (fellRecord h kind cause detail s).now = s.now :=
  (fellRecord_only h kind cause detail s).same .now rfl

/-! ### Retirement -/

/-- A channel reads FAILED where none may be retired (R352). -/
def channelFailed (c : Nat) (s : State) : State := { setChan c { chan s c with failed := true } s with dram.failed := true }

/-- The migration of a channel begins (step 1 of R354). -/
def migrationBegun (c trigger : Nat) (s : State) : State :=
  let s' := fellRecord (hDCH c) 1 trigger 0 s
  setChan c { chan s c with migrating := true } { s' with
    dram.retired := some c, dram.migration := 1, dram.retiredAt := s'.now, dram.rewritten := []
    dram.noSource := s'.dram.noSource || trigger == 0 }

/-- The results that show a migration's beginning. -/
def migrationShown (c trigger : Nat) (s : State) : State :=
  showChan c 4 (setRes hDRAM Par.DRAM_USABLE_MIB 3360 (setRes hDRAM Par.DRAM_MIGRATED 0
    (setRes hDRAM Par.DRAM_RETIRED_CHANNEL c (setRes hDRAM Par.DRAM_MIGRATION 1 (migrationBegun c trigger s)))))

/-- What a trigger of R352 does. -/
theorem retireChannel_cases (c trigger : Nat) (s : State) : retireChannel c trigger s =
    if (chan s c).felled = true ∨ (chan s c).failed = true then s
    else if s.dram.order = 0 ∨ s.dram.retired.isSome = true then settle (channelFailed c s)
    else stressRateCheck (raise 0x070A hDRAM [c, trigger] (migrationShown c trigger s)) := rfl

@[simp] theorem channelFailed_dram (c : Nat) (s : State) : (channelFailed c s).dram =
    { s.dram with chans := mput {} s.dram.chans c { chan s c with failed := true }, failed := true } := rfl

@[simp] theorem migrationShown_dram (c trigger : Nat) (s : State) : (migrationShown c trigger s).dram =
    { s.dram with
      chans := mput {} s.dram.chans c { chan s c with migrating := true }, retired := some c, migration := 1, retiredAt := s.now
      rewritten := [], noSource := s.dram.noSource || trigger == 0 } := by
  simp [migrationShown, migrationBegun, setChan]

/-! ### Activations -/

/-- An activation changes the channels' records and the halved rates alone. -/
theorem activate_dram (c bk row cls n : Nat) (s : State) :
    ∃ chans throttle, (activate c bk row cls n s).dram = { s.dram with chans := chans, throttle := throttle } := by
  unfold activate
  extract_lets x key count counted most t limit cleared issued told dram throttled
  have telling : told.dram = { s.dram with chans := mput {} s.dram.chans c cleared } := by
    simp [told, issued, setChan]
  split
  · exact ⟨_, s.dram.throttle, rfl⟩
  · split
    · exact ⟨_, s.dram.throttle, telling⟩
    · refine ⟨mput {} s.dram.chans c cleared, throttled.dram.throttle, ?_⟩
      rw [raise_dram, incSat_dram]
      simp only [throttled, dram, telling]
      rfl

theorem activate_retired (c bk row cls n : Nat) (s : State) : (activate c bk row cls n s).dram.retired = s.dram.retired := by
  obtain ⟨chans, throttle, dram⟩ := activate_dram c bk row cls n s
  rw [dram]

end Sys2Proof.Machine
end

section
/-! SUPPORT. Reads of the DRAM and its scrub (13, R334, R335, R349, R350, R355): which of the DRAM's tables each step of a read or of the scrub
leaves alone, and where a read of each kind leads. -/

set_option Elab.async false

namespace Sys2Proof.Machine

/-! ### What leaves the lines alone -/

/-- The poisoned lines, the queued write-backs and the place of the scrub are as they were. -/
structure LinesKept (s t : State) : Prop where
  poison     : t.dram.poison = s.dram.poison
  writeBacks : t.dram.writeBacks = s.dram.writeBacks
  scrub      : t.dram.scrub = s.dram.scrub

theorem LinesKept.refl (s : State) : LinesKept s s := ⟨rfl, rfl, rfl⟩

theorem LinesKept.trans {s t u : State} (a : LinesKept s t) (b : LinesKept t u) : LinesKept s u :=
  ⟨b.poison.trans a.poison, b.writeBacks.trans a.writeBacks, b.scrub.trans a.scrub⟩

/-- The same, the later step first. -/
theorem LinesKept.after {s t u : State} (b : LinesKept t u) (a : LinesKept s t) : LinesKept s u := a.trans b

theorem LinesKept.of_only {ps : List Part} {s t : State} (only : Only ps s t) (hp : ps.contains .dram = false := by decide) :
    LinesKept s t := by
  constructor <;> rw [only.same .dram hp]

theorem setChan_lines (c : Nat) (x : ChanSt) (s : State) : LinesKept s (setChan c x s) := ⟨rfl, rfl, rfl⟩

theorem activate_lines (c bk row cls n : Nat) (s : State) : LinesKept s (activate c bk row cls n s) := by
  obtain ⟨chans, throttle, dram⟩ := activate_dram c bk row cls n s
  constructor <;> rw [dram]

theorem retireChannel_lines (c trigger : Nat) (s : State) : LinesKept s (retireChannel c trigger s) := by
  rw [retireChannel_cases]
  split
  · exact .refl s
  · split
    · exact .after (.of_only (settle_only _)) ⟨rfl, rfl, rfl⟩
    · refine .after (.of_only (stressRateCheck_only _)) (.after (.of_only (raise_only ..)) ?_)
      constructor <;> rw [migrationShown_dram]

theorem rowNotHeld_lines (c bk row cause : Nat) (s : State) : LinesKept s (rowNotHeld c bk row cause s) := by
  unfold rowNotHeld
  extract_lets x y told
  have telling : LinesKept s told := .after (.of_only (raise_only ..)) (setChan_lines ..)
  split
  · exact telling.trans (retireChannel_lines ..)
  · exact telling

theorem rowFails_lines (c bk row cause : Nat) (s : State) : LinesKept s (rowFails c bk row cause s) := by
  unfold rowFails
  extract_lets x recorded shown
  have recording : LinesKept s recorded := .after (.of_only (addRepair_only ..)) (setChan_lines ..)
  split
  · exact .refl s
  split
  · exact rowNotHeld_lines ..
  split
  · exact rowNotHeld_lines ..
  split
  · exact rowNotHeld_lines ..
  split
  · exact .after (rowNotHeld_lines ..) (.of_only (addRepair_only ..))
  · exact .after (.of_only (raise_only ..)) (.after (.of_only (setRes_only ..)) recording)

theorem readMirror_lines (l cls : Nat) (s : State) : LinesKept s (readMirror l cls s) :=
  .after (activate_lines ..) (.of_only (incSat_only ..))

theorem residualDead_lines (l cause : Nat) (s : State) : LinesKept s (residualDead l cause s) := .of_only (residualDead_only ..)

/-! ### Lines found in error -/

/-- A corrected line has its write-back queued, which poisons no line and leaves the scrub where it is. -/
theorem lineCorrected_effect (l : Nat) (h : Home) (s : State) :
    l ∈ (lineCorrected l h s).dram.writeBacks ∧ (lineCorrected l h s).dram.scrub = s.dram.scrub := by
  unfold lineCorrected
  extract_lets x key lines counted dram queued
  have waits : l ∈ queued.dram.writeBacks := by
    simp only [queued]
    split
    · rwa [← List.contains_iff_mem]
    · exact List.mem_append_right _ List.mem_cons_self
  have still : queued.dram.scrub = s.dram.scrub := by simp [queued, dram, counted, setChan]
  split
  · have kept := rowFails_lines h.ch h.bk h.row 1 queued
    rw [kept.writeBacks, kept.scrub]
    exact ⟨waits, still⟩
  · exact ⟨waits, still⟩

/-- A line that stays uncorrectable is poisoned, and the scrub stays where it is. -/
theorem lineDead_effect (l : Nat) (h : Home) (code : Nat) (data : List Nat) (s : State) :
    (lineDead l h code data s).dram.poison = mput false s.dram.poison l true ∧ (lineDead l h code data s).dram.scrub = s.dram.scrub := by
  unfold lineDead
  extract_lets poisoned told x rows shown failed
  have marked : told.dram.poison = mput false s.dram.poison l true ∧ told.dram.scrub = s.dram.scrub := by
    simp [told, poisoned, poisonLine]
  have failing : LinesKept told failed :=
    .after (rowFails_lines ..) (.after (.of_only (setRes_only ..)) (setChan_lines ..))
  have kept : LinesKept told (if 4 ≤ rows.length then retireChannel h.ch 1 failed else failed) := by
    split
    · exact failing.trans (retireChannel_lines ..)
    · exact failing
  rw [kept.poison, kept.scrub]
  exact marked

end Sys2Proof.Machine
end

section
/-! SUPPORT. Reads of the DRAM and its scrub (13, R334, R335, R349, R350, R355): where a read of each kind leads, and a step of the scrub. -/

set_option Elab.async false

namespace Sys2Proof.Machine

/-! ### The attempts of a read -/

/-- The first attempt that the code does not give up ends the read. -/
theorem tryReads_settled {es : List (Nat × Nat)} (rest : List (List (Nat × Nat))) (n : Nat) (settled : decodeLine es ≠ 2) :
    tryReads (es :: rest) (n + 1) = (decodeLine es, 0) := if_pos (.inl settled)

/-- A read all of whose attempts are uncorrectable stays so; a re-read that is not reported fails as well. -/
theorem tryReads_failed {attempts : List (List (Nat × Nat))} (failed : ∀ a ∈ attempts, decodeLine a = 2) (n : Nat) :
    (tryReads attempts n).1 = 2 := by
  induction n generalizing attempts with
  | zero => rfl
  | succ n ih =>
    have again := ih fun a member => failed a (List.mem_of_mem_drop (i := 1) member)
    unfold tryReads
    cases attempts with
    | nil =>
      dsimp only
      split
      · rfl
      · exact again
    | cons a rest =>
      dsimp only
      rw [failed a List.mem_cons_self]
      split
      · rfl
      · exact again

/-! ### What shows of a read -/

section
variable {h q : Nat} (own : Unshown h q)
include own

theorem Unshown.incWrap {h' q' : Nat} (n : Nat) (s : State) (apart : h' ≠ h ∨ q' ≠ q) (small : q' < 4096 := by decide) :
    Spared h q s (Machine.incWrap h' q' n s) := by
  unfold Machine.incWrap
  split
  · exact .refl s
  · exact own.setRes _ s apart small

theorem Unshown.residualDead (l cause : Nat) (s : State) : Spared h q s (residualDead l cause s) := by
  unfold Machine.residualDead
  split
  · exact .refl s
  · exact .trans (.of_only (ps := [.pipe, .free]) (.upd_pipe (.after (draw_only s) (.refl s)))) (own.raise ..)

end

/-- An activation shows at its channel, and in DRAM's count of throttles. -/
theorem Unshown.activate {q : Nat} (own : Unshown hDRAM q) (uncounted : q ≠ Par.DRAM_THROTTLES) (c bk row cls n : Nat) (s : State) :
    Spared hDRAM q s (activate c bk row cls n s) := by
  have channel : hDCH c ≠ hDRAM := by unfold hDCH hDRAM; omega
  unfold Machine.activate
  extract_lets x key count counted most t limit cleared issued told dram throttled
  have telling : Spared hDRAM q s told :=
    .trans (.of_only (setChan_only ..)) (.trans (own.incWrap _ _ (.inl channel)) (own.raise ..))
  split
  · exact .of_only (setChan_only ..)
  · split
    · exact telling
    · have halving : Spared hDRAM q told throttled := .of_only (ps := [.dram]) (Only.upd_dram (Only.refl told))
      exact telling.trans (halving.trans (.trans (own.incSat _ _ (.inr uncounted.symm)) (own.raise ..)))

/-! ### Where a read leads -/

/-- A line of STAGE that is lost with its channel is read from the mirror (R355). -/
theorem dramRead_mirrored {l : Nat} {s : State} (cls : Nat) (attempts : List (List (Nat × Nat))) (stage : isStage l = true)
    (lost : lineLost s l = true) (mirror : linePoisoned s (mirrorLine s l) = false) :
    dramRead l cls attempts s = readMirror l cls s := if_pos ⟨lost, by rw [stage, mirror]; rfl⟩

/-- A poisoned line, or one that shows the poison pattern, is not taken for good (R335). -/
theorem dramRead_poisoned {l : Nat} {s : State} (cls : Nat) {attempts : List (List (Nat × Nat))}
    (own : isStage l = true → lineLost s l = false) (poison : linePoisoned s l = true ∨ showsPoison (attempts.headD []) = true) :
    dramRead l cls attempts s = residualDead l 0 (incSat (hDCH (lineHome s l).ch) Par.DCH_POISON_READS 1 s) := by
  refine (if_neg fun lost => ?_).trans (if_pos poison)
  rw [Bool.and_eq_true] at lost
  exact absurd (lost.1.symm.trans (own lost.2.1)) (by decide)

/-- The attempts that count: with the mirror poisoned, a line of STAGE has no second re-read. -/
def attemptsOf (s : State) (l : Nat) (attempts : List (List (Nat × Nat))) : List (List (Nat × Nat)) :=
  if isStage l && !(isStage l && !linePoisoned s (mirrorLine s l)) then attempts.take 2 else attempts

/-- The state in which a read of a line that stands for itself is judged, after `k` re-reads. -/
def readTaken (l cls k : Nat) (s : State) : State :=
  let h := lineHome s l
  let fromMirror := k = 2 ∧ isStage l = true
  let s := activate h.ch h.bk h.row cls (if fromMirror then k else k + 1) (incSat (hDCH h.ch) Par.DCH_RETRIES k s)
  if fromMirror then readMirror l cls s else s

theorem dramRead_judged {l : Nat} {s : State} (cls : Nat) {attempts : List (List (Nat × Nat))} {o k : Nat}
    (clean : linePoisoned s l = false) (free : (chan s (lineHome s l).ch).held.contains (rowKey (lineHome s l).bk (lineHome s l).row) = false)
    (data : showsPoison (attempts.headD []) = false) (tried : tryReads (attemptsOf s l attempts) 3 = (o, k)) :
    dramRead l cls attempts s =
      if o = 0 then (if beyondDetection attempts k then residualDead l 1 (readTaken l cls k s) else readTaken l cls k s)
      else if o = 1 then
        if beyondDetection attempts k then residualDead l 1 (lineCorrected l (lineHome s l) (readTaken l cls k s))
        else lineCorrected l (lineHome s l) (readTaken l cls k s)
      else residualDead l 0 (lineDead l (lineHome s l) 0x0703 ([(lineHome s l).ch, (lineHome s l).bk] ++ u16 (lineHome s l).row
        ++ [(lineHome s l).slot, cls]) (readTaken l cls k s)) := by
  have kept : lineLost s l = false := (Bool.or_eq_false_iff.1 clean).2
  unfold attemptsOf at tried
  unfold dramRead
  dsimp only
  rw [kept, clean, data, free, tried]
  simp only [Bool.false_eq_true, false_and, or_self, if_false]
  rfl

theorem readTaken_lines (l cls k : Nat) (s : State) : LinesKept s (readTaken l cls k s) := by
  unfold readTaken
  extract_lets h fromMirror read
  have reading : LinesKept s read := .after (activate_lines ..) (.of_only (incSat_only ..))
  split
  · exact reading.trans (readMirror_lines ..)
  · exact reading

/-- A line that the code corrects has its write-back queued. -/
theorem dramRead_corrected {l : Nat} {s : State} (cls : Nat) {es : List (Nat × Nat)} (rest : List (List (Nat × Nat)))
    (clean : linePoisoned s l = false) (free : (chan s (lineHome s l).ch).held.contains (rowKey (lineHome s l).bk (lineHome s l).row) = false)
    (data : showsPoison es = false) (corrected : decodeLine es = 1) : l ∈ (dramRead l cls (es :: rest) s).dram.writeBacks := by
  have tried : tryReads (attemptsOf s l (es :: rest)) 3 = (1, 0) := by
    unfold attemptsOf
    split <;> exact corrected ▸ tryReads_settled _ 2 (by rw [corrected]; decide)
  have waits := (lineCorrected_effect l (lineHome s l) (readTaken l cls 0 s)).1
  rw [dramRead_judged (attempts := es :: rest) cls clean free data tried, if_neg (by decide), if_pos rfl]
  split
  · rwa [(residualDead_lines ..).writeBacks]
  · exact waits

/-- A line that stays uncorrectable through its attempts is poisoned. -/
theorem dramRead_dead {l : Nat} {s : State} (cls : Nat) {attempts : List (List (Nat × Nat))} (clean : linePoisoned s l = false)
    (free : (chan s (lineHome s l).ch).held.contains (rowKey (lineHome s l).bk (lineHome s l).row) = false)
    (data : showsPoison (attempts.headD []) = false) (failed : ∀ a ∈ attempts, decodeLine a = 2) (ok : mwf false s.dram.poison = true) :
    mget false (dramRead l cls attempts s).dram.poison l = true := by
  have counts : ∀ a ∈ attemptsOf s l attempts, decodeLine a = 2 := by
    intro a member
    unfold attemptsOf at member
    split at member
    · exact failed a (List.mem_of_mem_take member)
    · exact failed a member
  generalize tried : tryReads (attemptsOf s l attempts) 3 = x
  obtain ⟨o, k⟩ := x
  obtain rfl : o = 2 := (congrArg Prod.fst tried).symm.trans (tryReads_failed counts 3)
  rw [dramRead_judged cls clean free data tried, if_neg (by decide), if_neg (by decide), (residualDead_lines ..).poison,
    (lineDead_effect ..).1, (readTaken_lines ..).poison]
  exact mget_mput_self false _ l true ok

/-! ### The scrub -/

/-- The line at the scrub's place is read, and judged by its last read (R349, R350). -/
def lineScrubbed (errors : List (Nat × Nat)) (s : State) : State :=
  let l := s.dram.scrub
  let h := lineHome s l
  if linePoisoned s l then incSat (hDCH h.ch) Par.DCH_POISON_READS 1 s
  else if (chan s h.ch).held.contains (rowKey h.bk h.row) then s
  else
    let o := decodeLine errors
    let s := activate h.ch h.bk h.row 4 1 s
    if o = 0 then s
    else if o = 1 then lineCorrected l h s
    else lineDead l h 0x0704 ([h.ch, h.bk] ++ u16 h.row ++ [h.slot]) s

theorem execDramScrubStep_scrubs {s : State} (errors : List (Nat × Nat)) (serves : chanServes s (lineHome s s.dram.scrub).ch = true) :
    execDramScrubStep errors s = .next (dramScrubOn (lineScrubbed errors s)) := congrArg Host.Outcome.next (if_pos serves)

theorem lineScrubbed_scrub (errors : List (Nat × Nat)) (s : State) : (lineScrubbed errors s).dram.scrub = s.dram.scrub := by
  unfold lineScrubbed
  extract_lets l h o read
  have reading : read.dram.scrub = s.dram.scrub := (activate_lines ..).scrub
  split
  · rw [incSat_dram]
  split
  · rfl
  split
  · exact reading
  split
  · exact (lineCorrected_effect ..).2.trans reading
  · exact (lineDead_effect ..).2.trans reading

/-- A line found clean is counted at its channel at most: no channel is retired, and the scrub's passes are as they were. -/
theorem lineScrubbed_clean (s : State) :
    (lineScrubbed [] s).dram.retired = s.dram.retired ∧ Spared hDRAM Par.DRAM_SCRUB_PASSES s (lineScrubbed [] s) := by
  have own : Unshown hDRAM Par.DRAM_SCRUB_PASSES := ⟨by decide, by decide, by decide, by decide⟩
  unfold lineScrubbed
  extract_lets l h o read
  split
  · exact ⟨by rw [incSat_dram], own.incSat _ _ (.inr (by decide))⟩
  split
  · exact ⟨rfl, .refl s⟩
  · rw [if_pos (show decodeLine [] = 0 by decide +kernel)]
    exact ⟨activate_retired .., own.activate (by decide) ..⟩

theorem refugeLine_le_usableEnd (s : State) : refugeLine ≤ usableEnd s := by
  unfold usableEnd
  split <;> decide

theorem dramScrubOn_next {s : State} (further : s.dram.scrub + 1 < usableEnd s) : (dramScrubOn s).dram.scrub = s.dram.scrub + 1 := by
  unfold dramScrubOn
  rw [if_pos further]

/-- The state in which a pass of the scrub that has ended is counted. -/
def passEnded (s : State) : State :=
  { (List.range 8).foldl (fun s c => setChan c { chan s c with ceLines := [] } s) s with dram.scrub := 0 }

theorem passEnded_only (s : State) : Only [.dram] s (passEnded s) :=
  Only.upd_dram (Only.foldl (fun _ _ kept => (setChan_only ..).after kept) _ _ (.refl s))

theorem dramScrubOn_newPass {s : State} (last : usableEnd s ≤ s.dram.scrub + 1) :
    dramScrubOn s = incWrap hDRAM Par.DRAM_SCRUB_PASSES 1 (passEnded s) := if_neg (Nat.not_lt.2 last)

theorem execDramScrubStep_next {s : State} (errors : List (Nat × Nat)) (serves : chanServes s (lineHome s s.dram.scrub).ch = true)
    (further : s.dram.scrub + 1 < refugeLine) : ∃ t, execDramScrubStep errors s = .next t ∧ t.dram.scrub = s.dram.scrub + 1 := by
  have still := lineScrubbed_scrub errors s
  have within := Nat.lt_of_lt_of_le further (refugeLine_le_usableEnd (lineScrubbed errors s))
  rw [← still] at within
  exact ⟨_, execDramScrubStep_scrubs errors serves, (dramScrubOn_next within).trans (by rw [still])⟩

theorem execDramScrubStep_newPass {s : State} (c : s.Canonical) (serves : chanServes s (lineHome s s.dram.scrub).ch = true)
    (last : usableEnd s ≤ s.dram.scrub + 1) :
    ∃ t, execDramScrubStep [] s = .next t ∧ t.dram.scrub = 0
      ∧ res t hDRAM Par.DRAM_SCRUB_PASSES = (res s hDRAM Par.DRAM_SCRUB_PASSES + 1) % w32 := by
  obtain ⟨retired, spared⟩ := lineScrubbed_clean s
  have last' : usableEnd (lineScrubbed [] s) ≤ (lineScrubbed [] s).dram.scrub + 1 := by
    rw [lineScrubbed_scrub]
    unfold usableEnd at last ⊢
    rwa [retired]
  have passed : Spared hDRAM Par.DRAM_SCRUB_PASSES s (passEnded (lineScrubbed [] s)) := spared.trans (.of_only (passEnded_only _))
  refine ⟨_, execDramScrubStep_scrubs [] serves, ?_, ?_⟩
  · rw [dramScrubOn_newPass last', incWrap_dram]
    rfl
  · rw [dramScrubOn_newPass last', res_incWrap_self _ _ _ _ (passed.canon c) (by decide), passed.res c (by decide)]

/-! ### The count of reads -/

theorem readMirror_counts {l : Nat} {s : State} (c : s.Canonical) (cls : Nat) :
    res (readMirror l cls s) hDRAM Par.DRAM_MIRROR_READS = min (res s hDRAM Par.DRAM_MIRROR_READS + 1) max32 := by
  have own : Unshown hDRAM Par.DRAM_MIRROR_READS := ⟨by decide, by decide, by decide, by decide⟩
  have counted : (incSat hDRAM Par.DRAM_MIRROR_READS 1 s).Canonical := (incSat_only ..).kept.canon c
  exact ((own.activate (by decide) ..).res counted (by decide)).trans (res_setRes_self _ _ _ _ c)

/-- Settles O34: a read ends as the line, its mirror or its attempts have it; the scrub goes on from the line it has judged, which no channel's
retirement moves back before REFUGE. -/
theorem dramReadsAndScrub : Obligations.DramReadsAndScrub := by
  unfold Obligations.DramReadsAndScrub
  intro s l c ok
  have reads (cls : Nat) (attempts : List (List (Nat × Nat))) (usable : l < usableEnd s) (serves : chanServes s (lineHome s l).ch = true) :
      exec (.dramReadComplete l cls attempts) s = .next (dramRead l cls attempts s) := congrArg Host.Outcome.next (if_pos ⟨usable, serves⟩)
  refine ⟨fun cls attempts usable serves own poison => ⟨_, reads cls attempts usable serves, ?_⟩,
    fun cls attempts usable serves stage lost mirror => ⟨_, reads cls attempts usable serves, ?_⟩,
    fun cls es rest usable serves clean free data corrected =>
      ⟨_, reads cls _ usable serves, dramRead_corrected cls rest clean free data corrected⟩,
    fun cls attempts usable serves clean free data failed =>
      ⟨_, reads cls _ usable serves, dramRead_dead cls clean free data failed ok⟩,
    fun errors serves further => execDramScrubStep_next errors serves further, fun serves last => execDramScrubStep_newPass c serves last⟩
  · have counts : Unshown (hDCH (lineHome s l).ch) Par.DCH_POISON_READS :=
      ⟨Nat.le_trans (by decide) (Nat.le_add_right ..), by decide, by decide, by decide⟩
    rw [dramRead_poisoned cls own poison, (counts.residualDead ..).res ((incSat_only ..).kept.canon c) (by decide)]
    exact res_setRes_self _ _ _ _ c
  · rw [dramRead_mirrored cls attempts stage lost mirror]
    exact readMirror_counts c cls

end Sys2Proof.Machine
end

section
/-! SUPPORT. A full training of a channel whose number is beyond the eight (13, R347; 02, R66): its handle is the host port's, which tells in
an event of its own what it has lost. -/

set_option Elab.async false

namespace Sys2Proof.Machine

/-- A channel number so far beyond the eight that its handle is the host port's. -/
def strayChannel : Nat := hHOSTPORT - hDCH 0

/-- The stray channel is in a full training while the raster stands still; the host port selects the class of DRAM's events and has lost a
notification. -/
def strayTraining : State :=
  setCfg hHOSTPORT Par.CTRLPORT_NOTIFY_MASK 0 128
    { State.reset with
      raster.stopped := true, stag.running := true, pstore.read := true, ctrl.host := { enabled := true, lost := 1 }
      dram.ready := true, dram.chans := [(strayChannel, { powered := true, pieces := some 0 })] }

theorem strayTraining_canonical : strayTraining.Canonical where
  store := by decide +kernel
  mirror := rfl
  image := rfl
  flash := by decide +kernel
  sram := rfl
  results := rfl
  gens := rfl
  limited := rfl
  last := rfl
  ce := rfl
  ue := rfl
  patch := rfl
  held := rfl
  config := by decide +kernel

/-- The unit's LAST_EVENT once the last piece of its training has ended. -/
def codeAfterTraining : Option Nat := match execFullRetrainPiece strayChannel true false strayTraining with
  | .next t => some (lastCode t (hDCH strayChannel))
  | _ => none

theorem codeAfterTraining_lost : codeAfterTraining = some 0x0A09 := by decide +kernel

/-- Refutes O36, in its clause of the last piece of a full training, which leaves the channel's number open: where the handle is the host
port's, event 0x0A09 of what that port has lost (R66) follows 0x070D and is the unit's LAST_EVENT. -/
theorem not_dramTrainingAndService : ¬ Obligations.DramTrainingAndService := by
  unfold Obligations.DramTrainingAndService
  intro h
  obtain ⟨training, -⟩ := h strayTraining strayChannel (by decide +kernel)
  obtain ⟨-, last, -⟩ := training 0 (by decide +kernel) (by decide +kernel) (by decide +kernel) (by decide +kernel)
  obtain ⟨t, step, -, -, -, -, -, told⟩ := last strayTraining_canonical
  have code : codeAfterTraining = some (lastCode t (hDCH strayChannel)) := by
    unfold codeAfterTraining
    rw [show execFullRetrainPiece strayChannel true false strayTraining = .next t from step]
  rw [told, codeAfterTraining_lost] at code
  exact absurd code (by decide)

end Sys2Proof.Machine
end

section
/-! SUPPORT. The writes of RETIRE, FELL and REINSTATE (13, 18; 02, R47): the value that is noted, and what each sets going. -/

set_option Elab.async false

namespace Sys2Proof.Machine

/-! ### The entries, and the values noted -/

/-- RETIRE, as the dictionary has it (Table 13.6). -/
def retireEntry : Entry := en 0xF00 (.int false 1 8) 0 3 3 0 (.span 0 7) .now false true none
/-- FELL, as the dictionary has it (Table 18.8). -/
def fellEntry : Entry := en 0xF00 (.int false 1 8) 0 3 3 0 .any .now false true none
/-- REINSTATE, as the dictionary has it (Table 18.7). -/
def reinstateEntry : Entry := en 0xF00 (.int false 2 16) 0 3 3 0 .any .rst false true none

/-- The requests of the three commands. -/
abbrev retireReq (h : Hdr) (c : Nat) : Req := mkWrite h hDRAM Par.DRAM_RETIRE [c]
/-- the request of FELL -/
abbrev fellReq (h : Hdr) (st n v : Nat) : Req := mkWrite h (hTILE st n) Par.TILE_FELL [v]
/-- the request of REINSTATE -/
abbrev reinstateReq (h : Hdr) (u : Nat) : Req := mkWrite h hSTAG Par.STAG_REINSTATE (u16 u)

theorem entryAny_retire (s : State) : entryAny s hDRAM Par.DRAM_RETIRE = some retireEntry := rfl
theorem entryAny_reinstate (s : State) : entryAny s hSTAG Par.STAG_REINSTATE = some reinstateEntry := rfl

theorem entryOf_fell : ∀ st < 8, ∀ n < 9, entryOf (hTILE st n) Par.TILE_FELL = some fellEntry := by decide +kernel

theorem entryAny_fell {st n : Nat} (stand : st < 8) (tile : n < 9) (s : State) :
    entryAny s (hTILE st n) Par.TILE_FELL = some fellEntry := entryAny_of_entryOf (entryOf_fell st stand n tile) (by decide) rfl

/-- A value that its entry takes as it is stands in force, and no clamp is counted. -/
theorem writeElem_taken {e : Entry} {u : Nat} {v : Int} {s : State} (now : e.apply = .now)
    (taken : clampValue e.ty e.rng (dflt (gradeX s) u e.param 0) v = (v, 0)) : writeElem e u 0 v s = setCfg u e.param 0 v s := by
  unfold writeElem
  rw [taken, now]
  rfl

theorem decodeValue_byte {v : Nat} (small : v < 256) : decodeValue (.int false 1 8) [v] = v := by
  simp [decodeValue, leNat, Nat.mod_eq_of_lt small]

theorem decodeValue_u16 {v : Nat} (small : v < 65536) : decodeValue (.int false 2 16) (u16 v) = v := by
  unfold decodeValue
  dsimp only
  rw [leNat_toLE_small (n := 2) small, Nat.mod_eq_of_lt (show v < 2 ^ 16 from small)]

theorem cfg_setCfg_self (u p v : Nat) {s : State} (c : s.Canonical) : cfg (setCfg u p 0 (v : Int) s) u p = v :=
  congrArg Int.toNat (cfgI_setCfg_self u p 0 v s c)

/-! ### What each write sets going -/

/-- A command's value is noted, and the command of its unit carried out. -/
theorem writeEntry_command {r : Req} {e : Entry} {s m : State} (level : Nat) (form : isBlob e = false) (command : e.command = true)
    (unit : r.handle ≠ hDEV)
    (notes : writeElems { e with apply := .now } r.handle 0 (splitValues e.ty (elems e) r.payload) s = m) :
    writeEntry r level e s = writeCommand r r.handle e.param (cfg m r.handle e.param) m s := by
  subst notes
  unfold writeEntry
  rw [if_neg (by simp [form]), if_pos command]
  exact if_neg unit

theorem writeCommand_dram (r : Req) (p v : Nat) (s was : State) : writeCommand r hDRAM p v s was = ok (retireChannel v 3 s) := by
  unfold writeCommand
  rw [if_neg (by decide), if_neg (by decide), if_neg (by decide), if_neg (by decide), if_neg (by decide), if_pos rfl]

theorem writeCommand_stag (r : Req) (p v : Nat) (s was : State) : writeCommand r hSTAG p v s was = writeReinstate v s was := by
  unfold writeCommand
  rw [if_neg (by decide), if_neg (by decide), if_neg (by decide), if_neg (by decide), if_neg (by decide), if_neg (by decide),
    if_neg (by decide)]

/-- A number within its span is taken as it is. -/
theorem clampValue_span (size bits : Nat) {lo hi v : Int} (d : Int) (above : lo ≤ v) (below : v ≤ hi) :
    clampValue (.int false size bits) (.span lo hi) d v = (v, 0) := by
  have kept : clampI v lo hi = v := by
    unfold clampI
    omega
  unfold clampValue
  dsimp only
  rw [kept, if_pos rfl]

theorem writeEntry_retire {h : Hdr} {c : Nat} (real : c < 8) (level : Nat) {s : State} (canonical : s.Canonical) :
    writeEntry (retireReq h c) level retireEntry s = ok (retireChannel c 3 (setCfg hDRAM Par.DRAM_RETIRE 0 (c : Int) s)) := by
  have taken : writeElem retireEntry hDRAM 0 (decodeValue (.int false 1 8) [c]) s = setCfg hDRAM Par.DRAM_RETIRE 0 (c : Int) s := by
    rw [decodeValue_byte (by omega)]
    exact writeElem_taken rfl (clampValue_span 1 8 _ (by omega) (by omega))
  refine (writeEntry_command (r := retireReq h c) (e := retireEntry) level rfl rfl (by decide : hDRAM ≠ hDEV) taken).trans
    ((writeCommand_dram ..).trans ?_)
  exact congrArg (fun v => ok (retireChannel v 3 _)) (cfg_setCfg_self hDRAM Par.DRAM_RETIRE c canonical)

theorem clampValue_any (size bits : Nat) (d v : Int) : clampValue (.int false size bits) .any d v = (v, 0) :=
  congrArg (Prod.mk v) (if_pos rfl)

theorem writeEntry_reinstate {h : Hdr} {u : Nat} (small : u < 65536) (level : Nat) {s : State} (canonical : s.Canonical) :
    writeEntry (reinstateReq h u) level reinstateEntry s = writeReinstate u (setCfg hSTAG Par.STAG_REINSTATE 0 (u : Int) s) s := by
  have taken : writeElem { reinstateEntry with apply := .now } hSTAG 0 (decodeValue (.int false 2 16) (u16 u)) s
      = setCfg hSTAG Par.STAG_REINSTATE 0 (u : Int) s := by
    rw [decodeValue_u16 small]
    exact writeElem_taken rfl (clampValue_any ..)
  refine (writeEntry_command (r := reinstateReq h u) (e := reinstateEntry) level rfl rfl (by decide : hSTAG ≠ hDEV) taken).trans
    ((writeCommand_stag ..).trans ?_)
  exact congrArg (writeReinstate · _ s) (cfg_setCfg_self hSTAG Par.STAG_REINSTATE u canonical)

/-- Where a tile's handle leads: to no unit that another command names, and back to its stand and number. -/
theorem hTILE_parts {st n : Nat} (stand : st < 8) (tile : n < 9) :
    classOf (hTILE st n) = 14 ∧ (hTILE st n - 0x0200) / 16 = st ∧ hTILE st n % 16 = n := by
  have kinds : ∀ st < 8, ∀ n < 9, classOf (hTILE st n) = 14 := by decide +kernel
  exact ⟨kinds st stand n tile, by unfold hTILE; omega, by unfold hTILE; omega⟩

theorem writeCommand_tile {r : Req} {st n v : Nat} (stand : st < 8) (tile : n < 9) (s was : State) :
    writeCommand r (hTILE st n) Par.TILE_FELL v s was = ok (fellTile st n 2 s) := by
  obtain ⟨kind, first, second⟩ := hTILE_parts stand tile
  have range : 0x200 ≤ hTILE st n ∧ hTILE st n < 0x300 := by unfold hTILE; omega
  unfold writeCommand
  rw [if_neg (by unfold hSEC; omega), if_neg (by unfold hUPDATE; omega), if_neg (by unfold hLINK; omega), if_neg (by omega),
    if_neg (by unfold hCOMP; omega), if_neg (by unfold hDRAM; omega), if_pos kind, first, second]

theorem writeEntry_fell {h : Hdr} {st n v : Nat} (stand : st < 8) (tile : n < 9) (byte : v < 256) (level : Nat) (s : State) :
    writeEntry (fellReq h st n v) level fellEntry s = ok (fellTile st n 2 (setCfg (hTILE st n) Par.TILE_FELL 0 (v : Int) s)) := by
  have taken : writeElem fellEntry (hTILE st n) 0 (decodeValue (.int false 1 8) [v]) s = setCfg (hTILE st n) Par.TILE_FELL 0 (v : Int) s := by
    rw [decodeValue_byte byte]
    exact writeElem_taken rfl (clampValue_any ..)
  have unit : hTILE st n ≠ hDEV := by unfold hTILE hDEV; omega
  exact (writeEntry_command (r := fellReq h st n v) (e := fellEntry) level rfl rfl unit taken).trans (writeCommand_tile stand tile ..)

end Sys2Proof.Machine
end

section
/-! SUPPORT. RETIRE and REINSTATE once their write is accepted (13, R352, R354; 18, R457). -/

set_option Elab.async false

namespace Sys2Proof.Machine

/-! ### The state in which a command's effect begins -/

/-- A command's request has arrived, and the value written is noted. -/
def noted (r : Req) (u p v : Nat) (s : State) : State := setCfg u p 0 (v : Int) (begun r s)

theorem noted_only (r : Req) (u p v : Nat) (s : State) : Only [.results, .ports, .config] s (noted r u p v s) :=
  (setCfg_only ..).after ((begun_only r s).mono rfl)

theorem noted_told (r : Req) (u p v : Nat) (s : State) : PortsTold s (noted r u p v s) :=
  (begun_told r s).trans (.of_only (setCfg_only ..))

theorem noted_canonical (r : Req) (u p v : Nat) {s : State} (canonical : s.Canonical) : (noted r u p v s).Canonical :=
  (noted_only ..).kept.canon canonical

theorem noted_seals (r : Req) (u p v : Nat) (s : State) : SealsKept (begun r s) (noted r u p v s) := .of_only (setCfg_only ..)

/-- Results of a unit that is no control port are as they were before the request came. -/
theorem res_noted {h q : Nat} (unit : classOf h ≠ 39) (small : q < 4096) (r : Req) (u p v : Nat) {s : State} (canonical : s.Canonical) :
    res (noted r u p v s) h q = res s h q := congrArg Int.toNat ((noted_told r u p v s).same canonical h q 0 unit small (by decide))

/-- The answer moves no result but those of the ports' units. -/
theorem res_answerOk {h q : Nat} (unit : trafficUnits.contains h = false) (small : q < 4096) (r : Req) {s : State} (canonical : s.Canonical) :
    res (answerOk r s) h q = res s h q := congrArg Int.toNat ((answerOk_quiet r s).same canonical h q 0 unit small (by decide))

theorem answerOk_lastCode (r : Req) (s : State) (u : Nat) : lastCode (answerOk r s) u = lastCode s u :=
  lastCode_of_only (answerOk_only r s) rfl u

/-! ### What leaves the ports their seals -/

theorem settle_seals (s : State) : SealsKept s (settle s) := by
  unfold settle
  extract_lets causes
  have shown : SealsKept s (showFaults causes s) := .of_only (showFaults_only ..)
  split
  · exact .refl s
  split
  · exact shown.trans (raise_seals ..)
  split
  · exact shown.trans (raise_seals ..)
  · exact shown

theorem addBlaze_seals (handle kind cause detail : Nat) (s : State) : SealsKept s (addBlaze handle kind cause detail s) := by
  unfold addBlaze
  split
  · exact .trans (.of_only (ps := [.storeState]) (Only.upd_storeState (Only.refl s))) (raise_seals ..)
  · exact .of_only (queueProgram_only ..)

theorem fellRecord_seals (handle kind cause detail : Nat) (s : State) : SealsKept s (fellRecord handle kind cause detail s) :=
  (addBlaze_seals ..).trans (.of_only (ps := [.storeState]) (Only.upd_storeState (Only.refl _)))

theorem migrationShown_seals (c trigger : Nat) (s : State) : SealsKept s (migrationShown c trigger s) :=
  have begins : SealsKept s (migrationBegun c trigger s) := (fellRecord_seals ..).trans
    (.of_only ((setChan_only ..).after (Only.upd_dram (ps := [.dram]) (Only.refl _))))
  begins.trans (.of_only (ps := [.results]) ((showChan_only ..).after ((setRes_only ..).after ((setRes_only ..).after
    ((setRes_only ..).after (setRes_only ..))))))

theorem retireChannel_seals (c trigger : Nat) (s : State) : SealsKept s (retireChannel c trigger s) := by
  rw [retireChannel_cases]
  split
  · exact .refl s
  split
  · have failed : SealsKept s (channelFailed c s) := ⟨fun _ => rfl, fun _ => rfl⟩
    exact failed.trans (settle_seals _)
  · exact (migrationShown_seals ..).trans ((raise_seals ..).trans (.of_only (stressRateCheck_only _)))

/-! ### RETIRE -/

theorem migrationShown_canonical (c trigger : Nat) {s : State} (canonical : s.Canonical) : (migrationShown c trigger s).Canonical := by
  have recorded := (fellRecord_only (hDCH c) 1 trigger 0 s).kept.canon canonical
  have begins : (migrationBegun c trigger s).Canonical :=
    (setChan_only ..).kept.canon ((Only.upd_dram (ps := [.dram]) (Only.refl _)).kept.canon recorded)
  exact (Only.after (showChan_only ..) ((setRes_only ..).after ((setRes_only ..).after
    ((setRes_only ..).after (setRes_only ..))))).kept.canon begins

/-- What the retirement of a channel makes of the DRAM. -/
def RetirementDone (c : Nat) (s t : State) : Prop :=
  if (chan s c).felled = true ∨ (chan s c).failed = true then t.dram = s.dram
  else if s.dram.order = 0 ∨ s.dram.retired ≠ none then (chan t c).failed = true ∧ t.dram.failed = true
  else t.dram.retired = some c ∧ t.dram.migration = 1 ∧ (chan t c).migrating = true ∧ lastCode t hDRAM = 0x070A

/-- It speaks of the DRAM and of its last event alone. -/
theorem RetirementDone.of_dram {c : Nat} {s t s' t' : State} (done : RetirementDone c s t) (before : s'.dram = s.dram)
    (after : t'.dram = t.dram) (last : lastCode t' hDRAM = lastCode t hDRAM) : RetirementDone c s' t' := by
  unfold RetirementDone at done ⊢
  rwa [chan_of_dram before, chan_of_dram after, before, after, last]

theorem retireChannel_done (c trigger : Nat) {s : State} (ok : chansOk s) (canonical : s.Canonical) :
    RetirementDone c s (retireChannel c trigger s) := by
  unfold RetirementDone
  rw [retireChannel_cases]
  by_cases out : (chan s c).felled = true ∨ (chan s c).failed = true
  · rw [if_pos out, if_pos out]
  rw [if_neg out, if_neg out]
  by_cases none_left : s.dram.order = 0 ∨ s.dram.retired.isSome = true
  · rw [if_pos none_left, if_pos (none_left.imp_right Option.isSome_iff_ne_none.1)]
    have shown : (settle (channelFailed c s)).dram = (channelFailed c s).dram := settle_dram
    rw [chan_of_dram shown, shown]
    exact ⟨congrArg ChanSt.failed (chan_setChan c _ ok), rfl⟩
  · rw [if_neg none_left, if_neg (none_left ∘ .imp_right Option.isSome_iff_ne_none.2)]
    have shown : (stressRateCheck (raise 0x070A hDRAM [c, trigger] (migrationShown c trigger s))).dram = (migrationShown c trigger s).dram :=
      (stressRateCheck_dram _).trans raise_dram
    have told : lastCode (stressRateCheck (raise 0x070A hDRAM [c, trigger] (migrationShown c trigger s))) hDRAM = 0x070A :=
      (lastCode_of_only (stressRateCheck_only _) rfl _).trans
        (lastCode_raise_self _ _ (migrationShown_canonical c trigger canonical) (by decide))
    rw [chan_of_dram shown, shown, migrationShown_dram]
    refine ⟨rfl, rfl, ?_, told⟩
    unfold chan
    rw [migrationShown_dram]
    exact congrArg ChanSt.migrating (mget_mput_self {} s.dram.chans c _ ok)

theorem execRetire_done {h : Hdr} {c : Nat} {s : State} (real : c < 8) (accepted : s.accepts (retireReq h c) = true) (ok : chansOk s)
    (canonical : s.Canonical) :
    ∃ t, exec (.retire h c) s = .next t ∧ t.answered (port s h.port).key (retireReq h c) ∧ RetirementDone c s t := by
  have before : (noted (retireReq h c) hDRAM Par.DRAM_RETIRE c s).dram = s.dram := (noted_only ..).same .dram rfl
  have seals := (noted_seals (retireReq h c) hDRAM Par.DRAM_RETIRE c s).trans (retireChannel_seals c 3 _)
  have done := retireChannel_done c 3 (ok := (congrArg (mwf {} ·.chans = true) before).mpr ok)
    (noted_canonical (retireReq h c) hDRAM Par.DRAM_RETIRE c canonical)
  obtain ⟨arrives, answered⟩ := write_accepted (f := id) rfl accepted (entryAny_retire _)
    (writeEntry_retire real _ ((begun_only ..).kept.canon canonical)) (seals.key h.port)
  exact ⟨_, congrArg Host.Outcome.next arrives, answered,
    done.of_dram before.symm ((answerOk_only ..).same .dram rfl) (answerOk_lastCode ..)⟩

/-! ### REINSTATE -/

/-- A WRITE that is accepted ends as its answer has it: at once, or with its response awaited. -/
theorem arrive_writes {s : State} {r : Req} (hop : r.op = 2) (accepted : s.accepts r = true) {e : Entry}
    (named : entryAny (begun r s) r.handle (r.param % 4096) = some e) {a : Answer} {t : State}
    (writes : writeEntry r (port s r.port).level e (begun r s) = (a, t)) :
    arrive r s = finishRequest r (a, if a.status = stOK then noteActivity t else t) := by
  obtain ⟨serves, e', checked⟩ := accepts_entry accepted
  obtain ⟨same, -, -⟩ := checkRequest_ok checked
  obtain rfl : e' = e := Option.some.inj (same.symm.trans named)
  rw [arrive_served r s serves, execute_checked (.inr hop) checked, if_neg (by omega), writes]

theorem finishRequest_awaits (r : Req) (w : Await) (s : State) :
    finishRequest r ({ await := some w }, s) = { s with ctrl.busy := some (r, w) } := rfl

theorem inForce_of_only {ps : List Part} {s t : State} (only : Only ps s t) (kept : ps.contains .storeState = false) (u : Nat) :
    inForce t u = inForce s u := by
  unfold inForce
  rw [only.pstore_blaze kept]

theorem blazeRoom_of_only {ps : List Part} {s t : State} (only : Only ps s t) (store : ps.contains .store = false)
    (queue : ps.contains .storeQueue = false) : blazeRoom t = blazeRoom s := by
  unfold blazeRoom blazeSlots awaited storeAt
  rw [only.pstore_mem store, only.pstore_queue queue, only.pstore_current queue]

/-- A program that is queued waits, or is in progress at once. -/
theorem mem_queueProgram (p : Program) (s : State) :
    p ∈ (queueProgram p s).pstore.queue ++ ((queueProgram p s).pstore.current.map (·.1)).toList := by
  unfold queueProgram startProgram
  split
  · simp
  split
  · simp
  · next q taken =>
    by_cases own : p = q
    · simp [own]
    · exact List.mem_append_left _ ((List.mem_erase_of_ne own).2 (by simp))

/-- A blaze record for which the region has room is on its way to the store. -/
theorem addBlaze_queues {handle kind cause detail : Nat} {s : State} (room : blazeRoom s ≠ none) :
    ((addBlaze handle kind cause detail s).pstore.queue ++ ((addBlaze handle kind cause detail s).pstore.current.map (·.1)).toList).any
      (fun p => p.why == .blaze handle kind) = true := by
  unfold addBlaze
  split
  · next full => exact absurd full room
  · exact List.any_eq_true.2 ⟨_, mem_queueProgram .., beq_self_eq_true _⟩

theorem res_incSat_one (h p : Nat) {s : State} (canonical : s.Canonical) : res (incSat h p 1 s) h p = min (res s h p + 1) max32 :=
  res_setRes_self h p _ s canonical

/-- A clamp is told in LAST_CLAMPED and counted in CLAMP_COUNT. -/
theorem countClamp_told (h p cause : Nat) {s : State} (canonical : s.Canonical) :
    res (countClamp h p cause s) hDEV Par.DEV_LAST_CLAMPED = h * 65536 + cause * 4096 + p
      ∧ res (countClamp h p cause s) hDEV Par.DEV_CLAMP_COUNT = min (res s hDEV Par.DEV_CLAMP_COUNT + 1) max32 := by
  have shown := (setRes_only hDEV Par.DEV_LAST_CLAMPED (h * 65536 + cause * 4096 + p) s).kept.canon canonical
  constructor
  · exact (res_incSat_other 1 _ shown (by decide)).trans (res_setRes_self _ _ _ _ canonical)
  · refine (res_incSat_one _ _ shown).trans ?_
    rw [res_setRes_other _ _ canonical (by decide)]

section
variable {h : Hdr} {u : Nat} {s : State} (small : u < 65536) (accepted : s.accepts (reinstateReq h u) = true) (canonical : s.Canonical)
include small accepted canonical

/-- REINSTATE of a unit without a blaze record in force is a clamp. -/
theorem arrive_reinstate_clamped (unforced : inForce s u = false) : ∃ t, arrive (reinstateReq h u) s = t
    ∧ t.answered (port s h.port).key (reinstateReq h u) ∧ res t hDEV Par.DEV_LAST_CLAMPED = hSTAG * 65536 + 4096 + Par.STAG_REINSTATE
    ∧ res t hDEV Par.DEV_CLAMP_COUNT = min (res s hDEV Par.DEV_CLAMP_COUNT + 1) max32 := by
  let m := noted (reinstateReq h u) hSTAG Par.STAG_REINSTATE u s
  have ready : m.Canonical := noted_canonical _ _ _ _ canonical
  have writes : writeReinstate u m (begun (reinstateReq h u) s) = ok (countClamp hSTAG Par.STAG_REINSTATE 1 m) := by
    refine if_pos ?_
    rw [inForce_of_only (noted_only ..) rfl, unforced]
    rfl
  obtain ⟨arrives, answered⟩ := write_accepted (f := id) rfl accepted (entryAny_reinstate _)
    ((writeEntry_reinstate small _ ((begun_only ..).kept.canon canonical)).trans writes)
    (((noted_seals ..).trans (.of_only (countClamp_only ..))).key h.port)
  obtain ⟨last, count⟩ := countClamp_told hSTAG Par.STAG_REINSTATE 1 ready
  have counted := (countClamp_only hSTAG Par.STAG_REINSTATE 1 m).kept.canon ready
  refine ⟨_, arrives, answered, ?_, ?_⟩
  · exact (res_answerOk (by decide) (by decide) _ counted).trans last
  · refine (res_answerOk (by decide) (by decide) _ counted).trans (count.trans ?_)
    rw [res_noted (by decide) (by decide) _ _ _ _ canonical]

/-- REINSTATE where the region is full is refused. -/
theorem arrive_reinstate_full (forced : inForce s u = true) (full : blazeRoom s = none) : ∃ t, arrive (reinstateReq h u) s = t
    ∧ t.answeredBy (port s h.port).key (reinstateReq h u) stBUSY [] ∧ t.pstore.blazeFull = true := by
  let r := reinstateReq h u
  let told := raise 0x0905 hPSTORE (u16 u ++ [3]) { begun r s with pstore.blazeFull := true }
  have writes : writeReinstate u (noted r hSTAG Par.STAG_REINSTATE u s) (begun r s) = refuse stBUSY told := by
    unfold writeReinstate
    rw [inForce_of_only (noted_only ..) rfl, forced, blazeRoom_of_only (noted_only ..) rfl rfl, full]
    rfl
  have arrives := arrive_writes rfl accepted (entryAny_reinstate _)
    ((writeEntry_reinstate small _ ((begun_only ..).kept.canon canonical)).trans writes)
  have key : (port told h.port).key = (port s h.port).key := ((raise_seals ..).key h.port).trans (begun_key r s)
  refine ⟨respond r stBUSY [] true told, arrives, ?_, ?_⟩
  · rw [← key]
    exact respond_answered r stBUSY [] told
  · rw [respond_pstore_blazeFull, raise_pstore_blazeFull]

/-- REINSTATE where the region has room awaits its record. -/
theorem arrive_reinstate_awaits (forced : inForce s u = true) (room : blazeRoom s ≠ none) : ∃ t, arrive (reinstateReq h u) s = t
    ∧ t.ctrl.busy = some (reinstateReq h u, .blaze)
    ∧ (t.pstore.queue ++ (t.pstore.current.map (·.1)).toList).any (fun p => p.why == .blaze u 3) = true := by
  let r := reinstateReq h u
  let m := noted r hSTAG Par.STAG_REINSTATE u s
  have space : blazeRoom m ≠ none := by rwa [blazeRoom_of_only (noted_only ..) rfl rfl]
  have writes : writeReinstate u m (begun r s) = ({ await := some .blaze }, addBlaze u 3 0 0 m) := by
    obtain ⟨i, slot⟩ := Option.ne_none_iff_exists'.1 space
    unfold writeReinstate
    rw [inForce_of_only (noted_only ..) rfl, forced, slot]
    rfl
  have arrives := arrive_writes rfl accepted (entryAny_reinstate _)
    ((writeEntry_reinstate small _ ((begun_only ..).kept.canon canonical)).trans writes)
  rw [if_pos rfl, finishRequest_awaits] at arrives
  refine ⟨_, arrives, rfl, ?_⟩
  simp only [noteActivity_pstore]
  exact addBlaze_queues space

end

end Sys2Proof.Machine
end

section
/-! SUPPORT. FELL once its write is accepted (18, R454). -/

set_option Elab.async false

namespace Sys2Proof.Machine

/-! ### The tiles in their map -/

/-- The tiles' map is in order. -/
abbrev tilesOk (s : State) : Prop := mwf {} s.pipe.tiles = true

theorem tile_of_tiles {s t : State} (tiles : t.pipe.tiles = s.pipe.tiles) (st n : Nat) : tile t st n = tile s st n := by
  unfold tile
  rw [tiles]

theorem tile_setTile {s : State} (st n : Nat) (x : TileSt) (ok : tilesOk s) : tile (setTile st n x s) st n = x := mget_mput_self _ _ _ _ ok

theorem spareIdle_of_pipe {s t : State} (pipe : t.pipe = s.pipe) (st : Nat) : spareIdle t st = spareIdle s st := by
  unfold spareIdle spareSlot tile
  rw [pipe]

theorem fellRecord_pipe (handle kind cause detail : Nat) (s : State) : (fellRecord handle kind cause detail s).pipe = s.pipe :=
  (fellRecord_only ..).pipe rfl rfl

theorem fellRecord_quiet (handle kind cause detail : Nat) (s : State) : Quiet logUnits s (fellRecord handle kind cause detail s) := by
  have added : Quiet logUnits s (addBlaze handle kind cause detail s) := by
    unfold addBlaze
    split
    · exact .trans (.of_only (ps := [.storeState]) (Only.upd_storeState (Only.refl s)) rfl) (raise_quiet ..)
    · exact .of_only (queueProgram_only ..) rfl
  exact added.trans (.of_only (ps := [.storeState]) (Only.upd_storeState (Only.refl _)) rfl)

/-! ### The spare's slot and the tiles' slots, as they are shown -/

/-- The units that show the slots of a stand. -/
def slotUnits (st : Nat) : List Nat := hSTAND st :: (List.range 9).map (hTILE st)

theorem slotUnits_stag : ∀ st < 8, (slotUnits st).contains hSTAG = false := by decide +kernel

theorem showSpare_quiet (st : Nat) (s : State) : Quiet (slotUnits st) s (showSpare st s) := by
  have stand : (slotUnits st).contains (hSTAND st) = true := by simp [slotUnits]
  have tiles : ∀ n ∈ List.range 9, (slotUnits st).contains (hTILE st n) = true := fun n inside => by
    rw [List.contains_iff_mem]
    exact List.mem_cons_of_mem _ (List.mem_map_of_mem inside)
  unfold showSpare
  refine List.foldlRecOn _ _ (motive := Quiet (slotUnits st) s) (.changeRes _ _ stand (by decide)) fun t shown n inside => ?_
  exact shown.trans (.changeRes _ _ (tiles n inside) (by decide))

theorem takeOver_quiet (st : Nat) (s : State) : Quiet (slotUnits st) s (takeOver st s) := by
  unfold takeOver
  split
  · exact .refl s
  · exact .trans (.of_only (ps := [.pipe]) (Only.upd_pipe (Only.refl s)) rfl) (showSpare_quiet ..)

theorem showSpare_pipe (st : Nat) (s : State) : (showSpare st s).pipe = s.pipe := (showSpare_only st s).pipe rfl rfl

theorem takeOver_tiles (st : Nat) (s : State) : (takeOver st s).pipe.tiles = s.pipe.tiles := by
  unfold takeOver
  split
  · rfl
  · rw [showSpare_pipe]

/-- The slots shown, after the takeover, where the raster stands. -/
def slotsShown (st : Nat) (s : State) : State := showSpare st (if s.raster.stopped then takeOver st s else s)

theorem slotsShown_only (st : Nat) (s : State) : Only [.results, .pipe] s (slotsShown st s) := by
  unfold slotsShown
  split
  · exact (showSpare_only ..).step (by decide) (takeOver_only ..)
  · exact (showSpare_only ..).mono rfl

theorem slotsShown_tiles (st : Nat) (s : State) : (slotsShown st s).pipe.tiles = s.pipe.tiles := by
  unfold slotsShown
  rw [showSpare_pipe]
  split
  · exact takeOver_tiles ..
  · rfl

theorem slotsShown_quiet (st : Nat) (s : State) : Quiet (slotUnits st) s (slotsShown st s) := by
  unfold slotsShown
  split
  · exact (takeOver_quiet ..).trans (showSpare_quiet ..)
  · exact showSpare_quiet ..

/-! ### A tile that is felled -/

/-- A tile marked felled, with the spare to take its place. -/
def tileMarked (st n : Nat) (s : State) : State :=
  let s := setTile st n { tile s st n with felled := true, withheld := false, want := none } s
  if n = 8 then s else { s with pipe.takeover := mput none s.pipe.takeover st (some n) }

/-- A felled tile, recorded and counted. -/
def tileFelled (st n cause : Nat) (s : State) : State :=
  incSat hSTAG Par.STAG_FELLINGS 1 (fellRecord (hTILE st n) 1 cause 0 (tileMarked st n s))

theorem fellNow_eq (st n cause : Nat) (s : State) : fellNow st n cause s = slotsShown st (raise 0x0D04 (hTILE st n)
    (u16 (hTILE st n) ++ u16 (hTILE st 8) ++ [cause] ++ u16 (tile s st n).margin) (tileFelled st n cause s)) := by
  unfold fellNow slotsShown tileFelled tileMarked
  rfl

theorem tileMarked_only (st n : Nat) (s : State) : Only [.pipe] s (tileMarked st n s) := by
  unfold tileMarked
  split
  · exact setTile_only ..
  · exact Only.upd_pipe (setTile_only ..)

theorem tileMarked_tiles (st n : Nat) (s : State) : (tileMarked st n s).pipe.tiles
    = mput {} s.pipe.tiles (16 * st + n) { tile s st n with felled := true, withheld := false, want := none } := by
  unfold tileMarked
  split <;> rfl

theorem tileFelled_canonical (st n cause : Nat) {s : State} (canonical : s.Canonical) : (tileFelled st n cause s).Canonical :=
  (incSat_only ..).kept.canon ((fellRecord_only ..).kept.canon ((tileMarked_only ..).kept.canon canonical))

theorem tileFelled_counts (st n cause : Nat) {s : State} (canonical : s.Canonical) :
    res (tileFelled st n cause s) hSTAG Par.STAG_FELLINGS = min (res s hSTAG Par.STAG_FELLINGS + 1) max32 := by
  have marked := (tileMarked_only st n s).kept.canon canonical
  have quiet : Quiet logUnits s (fellRecord (hTILE st n) 1 cause 0 (tileMarked st n s)) :=
    .trans (.of_only (tileMarked_only st n s) rfl) (fellRecord_quiet ..)
  refine (res_incSat_one _ _ (quiet.canon canonical)).trans ?_
  rw [show res (fellRecord (hTILE st n) 1 cause 0 (tileMarked st n s)) hSTAG Par.STAG_FELLINGS = res s hSTAG Par.STAG_FELLINGS from
    congrArg Int.toNat (quiet.same canonical hSTAG Par.STAG_FELLINGS 0 (by decide) (by decide) (by decide))]

theorem hTILE_heard {st n : Nat} (stand : st < 8) (small : n < 9) : lostUnits.contains (hTILE st n) = false := by
  have all : ∀ st < 8, ∀ n < 9, lostUnits.contains (hTILE st n) = false := by decide +kernel
  exact all st stand n small

/-- A tile that is felled is told and counted. -/
theorem fellNow_done {st n : Nat} (stand : st < 8) (small : n < 9) (cause : Nat) {s : State} (ok : tilesOk s) (canonical : s.Canonical) :
    (tile (fellNow st n cause s) st n).felled = true ∧ lastCode (fellNow st n cause s) (hTILE st n) = 0x0D04
      ∧ res (fellNow st n cause s) hSTAG Par.STAG_FELLINGS = min (res s hSTAG Par.STAG_FELLINGS + 1) max32 := by
  have ready := tileFelled_canonical st n cause canonical
  rw [fellNow_eq]
  refine ⟨?_, ?_, ?_⟩
  · unfold tile
    rw [slotsShown_tiles, raise_pipe, tileFelled, incSat_pipe, fellRecord_pipe, tileMarked_tiles, mget_mput_self _ _ _ _ ok]
  · exact (lastCode_of_only (slotsShown_only ..) rfl _).trans (lastCode_raise_self _ _ ready (hTILE_heard stand small))
  · have shown := slotsShown_quiet st (raise 0x0D04 (hTILE st n)
      (u16 (hTILE st n) ++ u16 (hTILE st 8) ++ [cause] ++ u16 (tile s st n).margin) (tileFelled st n cause s))
    have told := (raise_only 0x0D04 (hTILE st n)
      (u16 (hTILE st n) ++ u16 (hTILE st 8) ++ [cause] ++ u16 (tile s st n).margin) (tileFelled st n cause s)).kept.canon ready
    have kept : res (slotsShown st _) hSTAG Par.STAG_FELLINGS = _ :=
      congrArg Int.toNat (shown.same told hSTAG Par.STAG_FELLINGS 0 (slotUnits_stag st stand) (by decide) (by decide))
    exact kept.trans ((res_raise _ _ _ _ ready (by decide) (by decide) (by decide)).trans (tileFelled_counts st n cause canonical))

theorem fellNow_seals (st n cause : Nat) (s : State) : SealsKept s (fellNow st n cause s) := by
  rw [fellNow_eq]
  have marked : SealsKept s (tileMarked st n s) := .of_only (tileMarked_only ..)
  have felled : SealsKept s (tileFelled st n cause s) := marked.trans ((fellRecord_seals ..).trans (.of_only (incSat_only ..)))
  exact felled.trans ((raise_seals ..).trans (.of_only (slotsShown_only ..)))

/-! ### A felling that is withheld -/

/-- The tile marked withheld, and counted. -/
def tileWithheld (st n cause : Nat) (s : State) : State :=
  incSat hSTAG Par.STAG_WITHHELD 1 (setTile st n { tile s st n with withheld := true, want := some cause } s)

theorem withhold_eq (st n cause why : Nat) (s : State) :
    withhold st n cause why s = raise 0x0D05 (hTILE st n) (u16 (hTILE st n) ++ [why]) (tileWithheld st n cause s) := rfl

theorem withhold_done {st n : Nat} (stand : st < 8) (small : n < 9) (cause why : Nat) {s : State} (ok : tilesOk s)
    (canonical : s.Canonical) : (tile (withhold st n cause why s) st n).felled = (tile s st n).felled
      ∧ (tile (withhold st n cause why s) st n).withheld = true ∧ lastCode (withhold st n cause why s) (hTILE st n) = 0x0D05
      ∧ res (withhold st n cause why s) hSTAG Par.STAG_WITHHELD = min (res s hSTAG Par.STAG_WITHHELD + 1) max32 := by
  have marked := (setTile_only st n { tile s st n with withheld := true, want := some cause } s).kept.canon canonical
  have ready : (tileWithheld st n cause s).Canonical := (incSat_only ..).kept.canon marked
  have tiles : tile (withhold st n cause why s) st n = { tile s st n with withheld := true, want := some cause } := by
    rw [withhold_eq, tile_of_tiles (s := setTile st n { tile s st n with withheld := true, want := some cause } s)
      (by rw [raise_pipe, tileWithheld, incSat_pipe]), tile_setTile _ _ _ ok]
  rw [tiles, withhold_eq]
  refine ⟨rfl, rfl, lastCode_raise_self _ _ ready (hTILE_heard stand small), ?_⟩
  exact (res_raise _ _ _ _ ready (by decide) (by decide) (by decide)).trans (res_incSat_one _ _ marked)

theorem withhold_seals (st n cause why : Nat) (s : State) : SealsKept s (withhold st n cause why s) := by
  rw [withhold_eq]
  have marked : SealsKept s (tileWithheld st n cause s) := .trans (.of_only (setTile_only ..)) (.of_only (incSat_only ..))
  exact marked.trans (raise_seals ..)

theorem fellTile_seals (st n cause : Nat) (s : State) : SealsKept s (fellTile st n cause s) := by
  unfold fellTile
  extract_lets x spare
  split
  · exact .refl s
  split
  · exact withhold_seals ..
  split
  · exact withhold_seals ..
  split
  · exact withhold_seals ..
  · exact fellNow_seals ..

/-! ### FELL -/

/-- What FELL makes of a tile that is not felled. -/
def FellingDone (st n : Nat) (s t : State) : Prop :=
  if spareIdle s st = true ∧ cfg s hSTAG Par.STAG_MARGIN_RAISE ≤ (tile s st 8).margin then
    (tile t st n).felled = true ∧ lastCode t (hTILE st n) = 0x0D04
      ∧ res t hSTAG Par.STAG_FELLINGS = min (res s hSTAG Par.STAG_FELLINGS + 1) max32
  else (tile t st n).felled = false ∧ (tile t st n).withheld = true ∧ lastCode t (hTILE st n) = 0x0D05
      ∧ res t hSTAG Par.STAG_WITHHELD = min (res s hSTAG Par.STAG_WITHHELD + 1) max32

/-- It speaks of the tiles, of one setting, and of STAG's results. -/
theorem FellingDone.of_same {st n : Nat} {s t s' t' : State} (done : FellingDone st n s t) (before : s'.pipe = s.pipe)
    (raised : cfg s' hSTAG Par.STAG_MARGIN_RAISE = cfg s hSTAG Par.STAG_MARGIN_RAISE)
    (counted : ∀ p < 4096, res s' hSTAG p = res s hSTAG p) (after : t'.pipe = t.pipe)
    (last : lastCode t' (hTILE st n) = lastCode t (hTILE st n)) (counts : ∀ p < 4096, res t' hSTAG p = res t hSTAG p) :
    FellingDone st n s' t' := by
  unfold FellingDone at done ⊢
  rwa [spareIdle_of_pipe before, raised, tile_of_tiles (congrArg PipeSt.tiles before), tile_of_tiles (congrArg PipeSt.tiles after), last,
    counted _ (by decide), counted _ (by decide), counts _ (by decide), counts _ (by decide)]

theorem fellTile_done {st n : Nat} (stand : st < 8) (small : n < 9) {s : State} (stands : (tile s st n).felled = false) (ok : tilesOk s)
    (canonical : s.Canonical) : FellingDone st n s (fellTile st n 2 s) := by
  unfold FellingDone fellTile
  simp only [stands, Bool.false_eq_true, if_false]
  by_cases idle : spareIdle s st = true
  · by_cases margin : cfg s hSTAG Par.STAG_MARGIN_RAISE ≤ (tile s st 8).margin
    · rw [if_pos ⟨idle, margin⟩, if_neg (by simp [idle]), if_neg (Nat.not_lt.2 margin), if_neg (by simp)]
      exact fellNow_done stand small 2 ok canonical
    · rw [if_neg fun both => margin both.2, if_neg (by simp [idle]), if_pos (Nat.lt_of_not_le margin)]
      obtain ⟨felled, rest⟩ := withhold_done stand small 2 2 ok canonical
      exact ⟨felled.trans stands, rest⟩
  · rw [if_neg fun both => idle both.1, if_pos (by simp [idle])]
    obtain ⟨felled, rest⟩ := withhold_done stand small 2 0 ok canonical
    exact ⟨felled.trans stands, rest⟩

theorem execFell_done {h : Hdr} {st n v : Nat} {s : State} (stand : st < 8) (small : n < 9) (byte : v < 256)
    (accepted : s.accepts (fellReq h st n v) = true) (stands : (tile s st n).felled = false) (ok : tilesOk s) (canonical : s.Canonical) :
    ∃ t, exec (.fell h st n v) s = .next t ∧ t.answered (port s h.port).key (fellReq h st n v) ∧ FellingDone st n s t := by
  let r := fellReq h st n v
  let m := noted r (hTILE st n) Par.TILE_FELL v s
  have ready : m.Canonical := noted_canonical _ _ _ _ canonical
  have before : m.pipe = s.pipe := (noted_only ..).pipe rfl rfl
  have raised : cfg m hSTAG Par.STAG_MARGIN_RAISE = cfg s hSTAG Par.STAG_MARGIN_RAISE := by
    have apart : hTILE st n ≠ hSTAG := by unfold hTILE hSTAG; omega
    refine Eq.trans (congrArg Int.toNat (cfgI_setCfg_other _ _ ((begun_only ..).kept.canon canonical)
      (cell_ne_of_unit apart (by decide) (by decide) (by decide) (by decide)))) ?_
    exact cfg_of_only (begun_only r s) rfl rfl rfl ..
  have done : FellingDone st n m (fellTile st n 2 m) := fellTile_done stand small
    (by rwa [tile_of_tiles (congrArg PipeSt.tiles before)]) ((congrArg (mwf {} ·.tiles = true) before).mpr ok) ready
  have after := (fellTile_only st n 2 m).kept.canon ready
  obtain ⟨arrives, answered⟩ := write_accepted (f := id) rfl accepted (entryAny_fell stand small _)
    (writeEntry_fell stand small byte _ (begun r s)) (((noted_seals ..).trans (fellTile_seals ..)).key h.port)
  exact ⟨_, congrArg Host.Outcome.next arrives, answered, done.of_same before.symm raised.symm
    (fun p inside => (res_noted (by decide) inside _ _ _ _ canonical).symm) ((answerOk_only ..).pipe rfl rfl) (answerOk_lastCode ..)
    fun p inside => res_answerOk (by decide) inside r after⟩

end Sys2Proof.Machine
end

section
/-! SUPPORT. RETIRE, FELL and REINSTATE: the statement settled. -/

set_option Elab.async false

namespace Sys2Proof.Machine

/-- Settles O52: each write is accepted, so that what it sets going begins in the state in which its value is noted. -/
theorem resilienceRequests : Obligations.ResilienceRequests := by
  intro s h canonical
  refine ⟨fun c real accepted ok => execRetire_done real accepted ok canonical,
    fun st n v stand small byte accepted stands ok => execFell_done stand small byte accepted stands ok canonical,
    fun u small => ?_⟩
  intro r accepted
  by_cases unforced : inForce s u = false
  · obtain ⟨t, arrives, done⟩ := arrive_reinstate_clamped small accepted canonical unforced
    exact ⟨t, congrArg Host.Outcome.next arrives, by rwa [if_pos unforced]⟩
  have forced : inForce s u = true := by simpa using unforced
  by_cases full : blazeRoom s = none
  · obtain ⟨t, arrives, done⟩ := arrive_reinstate_full small accepted canonical forced full
    exact ⟨t, congrArg Host.Outcome.next arrives, by rwa [if_neg unforced, if_pos full]⟩
  · obtain ⟨t, arrives, done⟩ := arrive_reinstate_awaits small accepted canonical forced full
    exact ⟨t, congrArg Host.Outcome.next arrives, by rwa [if_neg unforced, if_neg full]⟩

end Sys2Proof.Machine
end

section
/-! SUPPORT. The machine as a whole (01; 19, R475, R476): one step, the frame of a command, and the state after reset. -/

set_option Elab.async false

namespace Sys2Proof.Machine

/-- Settles O1: `step` matches on the queue. -/
theorem stepRunsFront : Obligations.StepRunsFront := by
  refine fun s c rest => ⟨rfl, fun none_waits => ?_⟩
  unfold step
  rw [none_waits]

/-- Settles O2: `exec_runs` gives the next state and the parts it keeps; the queue is in no footprint. -/
theorem everyCommandFrame : Obligations.EveryCommandFrame := fun c s => by
  obtain ⟨t, runs, only⟩ := exec_runs c s
  refine ⟨t, runs, only.same, only.same .pending ?_⟩
  cases c <;> rfl

theorem reset_canonical : State.reset.Canonical where
  store := by decide +kernel
  mirror := rfl
  image := rfl
  flash := by decide +kernel
  sram := rfl
  results := rfl
  gens := rfl
  limited := rfl
  last := rfl
  ce := rfl
  ue := rfl
  patch := rfl
  held := rfl
  config := rfl

/-- Settles O4: every field of the state after reset is given. -/
theorem State.resetState : Obligations.ResetState :=
  ⟨reset_canonical, rfl, rfl, rfl, rfl, rfl, fun i => by cases i <;> rfl, rfl, rfl, rfl⟩

end Sys2Proof.Machine
end

section
/-! SUPPORT. Accesses of the SRAM (14, R361 to R365, R371): a word read without an error, a lane stored, what a port is answered. -/

set_option Elab.async false

namespace Sys2Proof.Machine

/-! ### Words and lanes -/

/-- The code finds nothing to correct in a word none of whose symbols is in error. -/
theorem decodeWord_clean (s : State) (b offset : Nat) : decodeWord s b offset [] = some (false, wordBytes s b offset) := by
  have none_wrong : rsCorrect 40 5 2 3 [] = some [] := by decide
  have same : xorPlaces 3 [] (wordBytes s b offset) = wordBytes s b offset := List.zipIdx_map_fst 0 _
  unfold decodeWord
  rw [none_wrong]
  exact congrArg (fun bs => some (false, bs)) same

theorem readWord_clean {s : State} {b offset : Nat} {reads : List (List (Nat × Nat))} (portB : Bool)
    (sound : poisoned s b offset = false) (clean : reads.headD [] = []) :
    readWord b offset portB reads s = (some (wordBytes s b offset), s) := by
  unfold readWord
  rw [if_neg (by simp [sound]), clean, decodeWord_clean]

theorem keepWord_same (b offset : Nat) (s : State) : keepWord b offset (wordBytes s b offset) s = s := if_pos rfl

/-- A byte of a number's bytes, least significant first. -/
theorem getElem_toLE (n v i : Nat) (small : i < (toLE n v).length) : (toLE n v)[i] = v / 256 ^ i % 256 := by
  induction n generalizing v i with
  | zero => exact absurd small (Nat.not_lt_zero i)
  | succ n ih =>
    cases i with
    | zero => simp [toLE]
    | succ i =>
      simp only [toLE, List.getElem_cons_succ]
      rw [ih, Nat.div_div_eq_div_mul, Nat.pow_succ']

theorem length_toLE (n v : Nat) : (toLE n v).length = n := by
  induction n generalizing v with
  | zero => rfl
  | succ n ih => exact congrArg (· + 1) (ih _)

theorem ofNat_byte_mod (v : Nat) : BitVec.ofNat 8 (v % 256) = BitVec.ofNat 8 v :=
  BitVec.eq_of_toNat_eq (by simp)

theorem storeLane_inside {s : State} {i : Nat} (b offset lane v : Nat) (wf : Memory.wf 0#8 s.sram.mem = true) (small : i < 4) :
    mget 0#8 (storeLane b offset lane v s).sram.mem (bankAddr b offset + 4 * lane + i) = BitVec.ofNat 8 (v / 256 ^ i) := by
  have within : i < (toLE 4 v).length := by rwa [length_toLE]
  refine (storeBytes_inside 0#8 s.sram.mem _ i (toLE 4 v) wf within).trans ?_
  rw [getElem_toLE, ofNat_byte_mod]

theorem storeLane_outside {s : State} {a : Nat} (b offset lane v : Nat) (wf : Memory.wf 0#8 s.sram.mem = true)
    (apart : a < bankAddr b offset + 4 * lane ∨ bankAddr b offset + 4 * lane + 4 ≤ a) :
    mget 0#8 (storeLane b offset lane v s).sram.mem a = mget 0#8 s.sram.mem a :=
  storeBytes_outside 0#8 s.sram.mem _ a (toLE 4 v) wf (by rwa [length_toLE])

/-! ### What a port is answered -/

/-- The last answer at a port of a bank. -/
def replyAt (t : State) (b : Nat) (portB : Bool) : Option SramReply := if portB then (bank t b).replyB else (bank t b).replyA

theorem bank_setBank {s : State} (wf : mwf {} s.sram.banks = true) (b : Nat) (x : BankSt) : bank (setBank b x s) b = x :=
  mget_mput_self _ _ _ _ wf

theorem replyAt_sramReply {s : State} (wf : mwf {} s.sram.banks = true) (b : Nat) (portB : Bool) (r : SramReply) :
    replyAt (sramReply b portB r s) b portB = some r := by
  cases portB
  · exact congrArg BankSt.replyA (bank_setBank wf ..)
  · exact congrArg BankSt.replyB (bank_setBank wf ..)

theorem sramReply_mem (b : Nat) (portB : Bool) (r : SramReply) (s : State) : (sramReply b portB r s).sram.mem = s.sram.mem :=
  (sramReply_only b portB r s).same .sramMem rfl

/-! ### Reads and atomic operations -/

theorem sramPerform_read {s : State} {b offset : Nat} {portB : Bool} {reads : List (List (Nat × Nat))}
    (sound : poisoned s b offset = false) (allowed : portB = true → isSecure b offset = false) (clean : reads.headD [] = []) :
    sramPerform b portB (.read offset reads) s = sramReply b portB ⟨0, wordLanes (wordBytes s b offset)⟩ s := by
  unfold sramPerform
  dsimp only
  rw [if_neg (by cases portB <;> simp_all), readWord_clean portB sound clean]

theorem sramPerform_atomic {s : State} {b offset : Nat} {portB : Bool} (lane : Nat) (f : AtomicOp)
    (sound : poisoned s b offset = false) (allowed : portB = true → isSecure b offset = false) :
    sramPerform b portB (.atomic offset lane f []) s
      = let old := (wordLanes (wordBytes s b offset)).getD lane 0
        sramReply b portB ⟨0, [old]⟩ (incWrap (hBANK b) Par.BANK_ATOMICS 1 (storeLane b offset lane (atomicValue old f) s)) := by
  unfold sramPerform
  dsimp only
  rw [if_neg (by cases portB <;> simp_all), readWord_clean portB sound rfl]
  exact congrArg (fun u => sramReply b portB _ (incWrap _ _ 1 (storeLane b offset lane _ u))) (keepWord_same ..)

/-- An atomic operation answers the lane's value before it, is counted, stores the new value, and changes no other byte. -/
theorem sramAtomic_done {s : State} {b offset : Nat} {portB : Bool} (lane : Nat) (f : AtomicOp) (open_ : s.sram.accessible = true)
    (sound : poisoned s b offset = false) (allowed : portB = true → isSecure b offset = false) (wf : mwf {} s.sram.banks = true)
    (canonical : s.Canonical) :
    let t := sramAtomic b portB offset lane f s
    let old := (wordLanes (wordBytes s b offset)).getD lane 0
    replyAt t b portB = some ⟨0, [old]⟩
      ∧ res t (hBANK b) Par.BANK_ATOMICS = (res s (hBANK b) Par.BANK_ATOMICS + 1) % w32
      ∧ (∀ i < 4, mget 0#8 t.sram.mem (bankAddr b offset + 4 * lane + i) = BitVec.ofNat 8 (atomicValue old f / 256 ^ i))
      ∧ ∀ a, (a < bankAddr b offset + 4 * lane ∨ bankAddr b offset + 4 * lane + 4 ≤ a) →
        mget 0#8 t.sram.mem a = mget 0#8 s.sram.mem a := by
  intro t old
  have done : t = sramReply b portB ⟨0, [old]⟩
      (incWrap (hBANK b) Par.BANK_ATOMICS 1 (storeLane b offset lane (atomicValue old f) s)) :=
    (if_pos open_).trans (sramPerform_atomic lane f sound allowed)
  have stored : t.sram.mem = (storeLane b offset lane (atomicValue old f) s).sram.mem := by
    rw [done, sramReply_mem, incWrap_sram]
  have counted : res t (hBANK b) Par.BANK_ATOMICS = (res s (hBANK b) Par.BANK_ATOMICS + 1) % w32 := by
    have replied : t.dict.res = (incWrap (hBANK b) Par.BANK_ATOMICS 1 (storeLane b offset lane (atomicValue old f) s)).dict.res := by
      rw [done, (sramReply_only ..).dict_res rfl]
    unfold res resI
    rw [replied]
    exact res_incWrap_self _ _ 1 _ ((storeLane_only ..).kept.canon canonical) Nat.one_ne_zero
  refine ⟨?_, counted, fun i small => ?_, fun a apart => ?_⟩
  · rw [done]
    exact replyAt_sramReply (by rwa [incWrap_sram]) ..
  · rw [stored, storeLane_inside _ _ _ _ canonical.sram small]
  · rw [stored, storeLane_outside _ _ _ _ canonical.sram apart]

/-- Settles O37: a read is answered without a change; the three atomic operations are one, but for the value they store. -/
theorem sramAccessesAndAtomics : Obligations.SramAccessesAndAtomics := by
  intro s b portB offset open_ sound allowed wf canonical old reply stores
  have atomic : ∀ (c : Instr) (lane : Nat) (f : AtomicOp), exec c s = .next (sramAtomic b portB offset lane f s) →
      stores c lane (atomicValue (old.getD lane 0) f) :=
    fun c lane f runs => ⟨_, runs, sramAtomic_done lane f open_ sound allowed wf canonical⟩
  refine ⟨fun reads clean => ⟨sramReply b portB ⟨0, old⟩ s, ?_, replyAt_sramReply wf .., sramReply_mem ..⟩,
    fun lane _ delta => atomic _ lane (.addWrap delta) rfl, fun lane _ delta => atomic _ lane (.addSat delta) rfl,
    fun lane _ value => atomic _ lane (.swap value) rfl⟩
  have performed := sramPerform_read sound allowed clean
  cases portB <;>
  · refine congrArg Host.Outcome.next ?_
    rw [open_]
    exact performed

end Sys2Proof.Machine
end

section
/-! SUPPORT. Writes of the SRAM (14, R362 to R364, R371): the lanes of a whole word, two writes of one word in a slot, the secure region. -/

set_option Elab.async false

namespace Sys2Proof.Machine

/-! ### The lanes of a write -/

/-- The lanes of a write stored one after another. -/
def storeLanes (b offset : Nat) (lanes : List (Nat × Nat)) (s : State) : State :=
  lanes.foldl (fun s l => storeLane b offset l.1 l.2 s) s

theorem storeLanes_only (b offset : Nat) (lanes : List (Nat × Nat)) (s : State) : Only [.sramMem] s (storeLanes b offset lanes s) :=
  .foldl (fun _ _ h => (storeLane_only ..).after h) _ _ (.refl s)

theorem storeLanes_outside {b offset a : Nat} {lanes : List (Nat × Nat)} {s : State} (wf : Memory.wf 0#8 s.sram.mem = true)
    (apart : ∀ x ∈ lanes, a < bankAddr b offset + 4 * x.1 ∨ bankAddr b offset + 4 * x.1 + 4 ≤ a) :
    mget 0#8 (storeLanes b offset lanes s).sram.mem a = mget 0#8 s.sram.mem a := by
  induction lanes generalizing s with
  | nil => rfl
  | cons x lanes ih =>
    have first := storeLane_outside b offset x.1 x.2 wf (apart x List.mem_cons_self)
    exact (ih (storeBytes_wf _ _ _ _ wf) fun y there => apart y (List.mem_cons_of_mem _ there)).trans first

theorem storeLanes_inside {b offset i : Nat} {lanes : List (Nat × Nat)} {x : Nat × Nat} {s : State}
    (wf : Memory.wf 0#8 s.sram.mem = true) (once : (lanes.map Prod.fst).Nodup) (there : x ∈ lanes) (small : i < 4) :
    mget 0#8 (storeLanes b offset lanes s).sram.mem (bankAddr b offset + 4 * x.1 + i) = BitVec.ofNat 8 (x.2 / 256 ^ i) := by
  induction lanes generalizing s with
  | nil => exact absurd there List.not_mem_nil
  | cons y lanes ih =>
    obtain ⟨fresh, once⟩ := List.nodup_cons.1 (List.map_cons ▸ once)
    have wf' : Memory.wf 0#8 (storeLane b offset y.1 y.2 s).sram.mem = true := storeBytes_wf _ _ _ _ wf
    rcases List.mem_cons.1 there with rfl | there
    · refine (storeLanes_outside wf' fun z later => ?_).trans (storeLane_inside _ _ _ _ wf small)
      have other : z.1 ≠ x.1 := fun same => fresh (same ▸ List.mem_map_of_mem later)
      omega
    · exact ih wf' once there

/-! ### What keeps the banks' table in canonical form -/

/-- The table of the banks stays in canonical form. -/
structure BanksOk (s t : State) : Prop where
  wf : mwf {} s.sram.banks = true → mwf {} t.sram.banks = true

theorem BanksOk.of_banks {s t : State} (same : t.sram.banks = s.sram.banks) : BanksOk s t := ⟨fun wf => same ▸ wf⟩

theorem Only.sram_rest {ps : List Part} {s t : State} (only : Only ps s t) (apart : ps.contains .sram = false := by rfl) :
    t.sram.banks = s.sram.banks ∧ t.sram.poison = s.sram.poison := by
  have same : { t.sram with mem := [] } = { s.sram with mem := [] } := only.same .sram apart
  exact ⟨(congrArg SramSt.banks same :), (congrArg SramSt.poison same :)⟩

theorem BanksOk.of_only {ps : List Part} {s t : State} (only : Only ps s t) (apart : ps.contains .sram = false := by rfl) :
    BanksOk s t := .of_banks (only.sram_rest apart).1

theorem BanksOk.trans {s t u : State} (a : BanksOk s t) (b : BanksOk t u) : BanksOk s u := ⟨fun wf => b.wf (a.wf wf)⟩

theorem BanksOk.refl (s : State) : BanksOk s s := ⟨id⟩

theorem BanksOk.setBank (b : Nat) (x : BankSt) (s : State) : BanksOk s (setBank b x s) := ⟨mwf_mput _ _ _ _⟩

theorem rowFailing_banks (b sub row cause : Nat) (s : State) : BanksOk s (rowFailing b sub row cause s) := by
  unfold rowFailing
  extract_lets k
  split
  · exact .refl s
  · split
    · split
      · exact .refl s
      · exact (BanksOk.setBank ..).trans ((BanksOk.of_only (raise_only ..)).trans (.of_only (settle_only _)))
    · exact .setBank ..

theorem wordCorrected_banks (b offset : Nat) (s : State) : BanksOk s (wordCorrected b offset s) := by
  unfold wordCorrected
  extract_lets k words a
  have noted : BanksOk s a := (BanksOk.of_only (addCe_only ..)).trans (.setBank ..)
  split
  · exact noted.trans (rowFailing_banks ..)
  · exact noted

theorem wordUncorrectable_banks (b offset : Nat) (portB : Bool) (s : State) : BanksOk s (wordUncorrectable b offset portB s) :=
  .of_only (wordUncorrectable_only ..)

theorem setPoison_banks (b offset : Nat) (p : Bool) (s : State) : (setPoison b offset p s).sram.banks = s.sram.banks := by
  unfold setPoison
  split
  · rfl
  · dsimp only
    rw [(setRes_only ..).sram rfl rfl]

theorem readWord_banks (b offset : Nat) (portB : Bool) (reads : List (List (Nat × Nat))) (s : State) :
    BanksOk s (readWord b offset portB reads s).2 := by
  unfold readWord
  split
  · exact wordUncorrectable_banks ..
  · split
    · exact (BanksOk.of_only (keepWord_only ..)).trans (wordCorrected_banks ..)
    · exact .refl s
    · extract_lets a
      have poisons : BanksOk s a := (wordUncorrectable_banks ..).trans (BanksOk.of_banks (setPoison_banks ..))
      split
      · dsimp only
        split
        · exact poisons.trans (rowFailing_banks ..)
        · exact poisons
      · exact poisons

theorem sramReply_banks (b : Nat) (portB : Bool) (r : SramReply) (s : State) : BanksOk s (sramReply b portB r s) := by
  unfold sramReply
  split <;> exact .setBank ..

/-! ### Writes -/

theorem sramPerform_whole {b offset : Nat} {lanes : List (Nat × Nat)} (reads : List (List (Nat × Nat))) {portB : Bool} (s : State)
    (allowed : portB = true → isSecure b offset = false) (whole : fullWrite lanes = true) :
    sramPerform b portB (.write offset lanes reads) s
      = sramReply b portB ⟨0, []⟩ (storeLanes b offset lanes (setPoison b offset false s)) := by
  unfold sramPerform
  dsimp only
  rw [if_neg (by cases portB <;> simp_all), if_pos whole]
  rfl

theorem sramPerform_write_banks (b offset : Nat) (lanes : List (Nat × Nat)) (reads : List (List (Nat × Nat))) (s : State) :
    BanksOk s (sramPerform b false (.write offset lanes reads) s) := by
  have stored : ∀ u : State, BanksOk u (storeLanes b offset lanes u) := fun u => .of_only (storeLanes_only ..)
  unfold sramPerform
  dsimp only
  rw [if_neg (by simp)]
  split
  · exact (BanksOk.of_banks (setPoison_banks ..)).trans ((stored _).trans (sramReply_banks ..))
  · have read := readWord_banks b offset false reads s
    split
    · next u heq => exact (heq ▸ read).trans (sramReply_banks ..)
    · next bs u heq =>
      exact (heq ▸ read).trans ((BanksOk.of_only (keepWord_only b offset bs u)).trans ((stored _).trans (sramReply_banks ..)))

theorem setPoison_poisoned {s : State} (b offset : Nat) (wf : mwf false s.sram.poison = true) (p : Bool) :
    poisoned (setPoison b offset p s) b offset = p := by
  unfold setPoison
  split
  · assumption
  · unfold poisoned
    rw [(setRes_only ..).sram rfl rfl]
    exact mget_mput_self _ _ _ _ wf

theorem poisoned_of_poison {s t : State} (same : t.sram.poison = s.sram.poison) (b offset : Nat) :
    poisoned t b offset = poisoned s b offset := congrArg (fun m => mget false m (bankAddr b offset)) same

theorem sramReply_poison (b : Nat) (portB : Bool) (r : SramReply) (s : State) :
    (sramReply b portB r s).sram.poison = s.sram.poison := by
  cases portB <;> rfl

theorem setPoison_mem (b offset : Nat) (p : Bool) (s : State) : (setPoison b offset p s).sram.mem = s.sram.mem :=
  (setPoison_only ..).same .sramMem rfl

/-- Of two writes of a word with different data in a lane, port B's is lost: the state but for what it is answered is the one that port A's
write leaves. -/
theorem sramMeet_lost {s : State} {b offset : Nat} {lanes other : List (Nat × Nat)} (reads readsB : List (List (Nat × Nat)))
    (differ : lanesDiffer lanes other = true) (wf : mwf {} s.sram.banks = true) :
    let t := sramMeet b (.write offset lanes reads) (.write offset other readsB) s
    t.sram.mem = (sramPerform b false (.write offset lanes reads) s).sram.mem ∧ (bank t b).replyB = some ⟨3, []⟩ := by
  intro t
  have lost : t.sram = (sramReply b true ⟨3, []⟩ (sramPerform b false (.write offset lanes reads) s)).sram := by
    show (sramMeet ..).sram = _
    unfold sramMeet
    extract_lets la lb a c
    rw [if_neg (by simp [isAtomic]), if_pos (show lanesDiffer la lb = true from differ), raise_sram]
    exact incSat_sram.trans incSat_sram
  refine ⟨by rw [lost, sramReply_mem], ?_⟩
  unfold bank
  rw [lost]
  exact replyAt_sramReply (sramPerform_write_banks b offset lanes reads s |>.wf wf) b true ⟨3, []⟩

theorem sramSlot_meets {s : State} {b offset : Nat} {lanes other : List (Nat × Nat)} (reads readsB : List (List (Nat × Nat)))
    (open_ : isSecure b offset = false) : sramSlot b (.write offset lanes reads) (.write offset other readsB) s
      = sramMeet b (.write offset lanes reads) (.write offset other readsB) s := by
  unfold sramSlot
  rw [if_neg (by simp [sramOffset, open_]), if_pos (by simp [isWrite, sramOffset])]

theorem refuseSecure_answers {s : State} (b offset : Nat) (wf : mwf {} s.sram.banks = true) :
    let t := refuseSecure b offset 0 s
    (bank t b).replyB = some ⟨2, List.replicate 8 0⟩ ∧ t.sram.mem = s.sram.mem := by
  intro t
  have refused : t.sram = (sramReply b true ⟨2, List.replicate 8 0⟩ (incSat (hBANK b) Par.BANK_SECURE_REFUSED 1 s)).sram :=
    raise_sram
  refine ⟨?_, by rw [refused, sramReply_mem, incSat_sram]⟩
  unfold bank
  rw [refused]
  exact replyAt_sramReply (by rwa [incSat_sram]) b true _

theorem exec_sramAccess_portA {s : State} (open_ : s.sram.accessible = true) (b : Nat) (x : SramOp) :
    exec (.sramAccess b (some x) none) s = .next (sramPerform b false x s) := congrArg Host.Outcome.next (if_neg (by simp [open_]))

theorem exec_sramAccess_portB {s : State} (open_ : s.sram.accessible = true) (b : Nat) (y : SramOp) :
    exec (.sramAccess b none (some y)) s = .next (sramPerform b true y s) := congrArg Host.Outcome.next (if_neg (by simp [open_]))

theorem exec_sramAccess_both {s : State} (open_ : s.sram.accessible = true) (b : Nat) (x y : SramOp) :
    exec (.sramAccess b (some x) (some y)) s = .next (sramSlot b x y s) := congrArg Host.Outcome.next (if_neg (by simp [open_]))

/-- Settles O38: a whole word is stored lane by lane once its poison is cleared; a lost write and a refused read only answer. -/
theorem sramWritesOrdered : Obligations.SramWritesOrdered := by
  intro s b offset lanes reads open_ mem banks poison
  refine ⟨fun whole => ?_, fun other readsB unsecured differ => ?_, fun secured => ?_⟩
  · have cleared : Memory.wf 0#8 (setPoison b offset false s).sram.mem = true := by rwa [setPoison_mem]
    refine ⟨_, exec_sramAccess_portA open_ .., ?_⟩
    rw [sramPerform_whole reads s (fun portB => absurd portB Bool.false_ne_true) whole, sramReply_mem]
    refine ⟨?_, ?_, fun once x there i small => storeLanes_inside cleared once there small, fun a apart => ?_⟩
    · have same := (sramReply_poison b false ⟨0, []⟩ _).trans (storeLanes_only b offset lanes (setPoison b offset false s)).sram_rest.2
      exact (poisoned_of_poison same b offset).trans (setPoison_poisoned b offset poison false)
    · refine replyAt_sramReply ?_ b false _
      rwa [(storeLanes_only ..).sram_rest.1, setPoison_banks]
    · rw [storeLanes_outside cleared apart, setPoison_mem]
  · obtain ⟨same, answered⟩ := sramMeet_lost reads readsB differ banks
    refine ⟨_, _, exec_sramAccess_both open_ .., exec_sramAccess_portA open_ .., ?_⟩
    rw [sramSlot_meets reads readsB unsecured]
    exact ⟨same, answered⟩
  · refine ⟨_, exec_sramAccess_portB open_ .., ?_⟩
    unfold sramPerform
    dsimp only
    rw [if_pos (by simp [secured])]
    exact refuseSecure_answers b offset banks

end Sys2Proof.Machine
end

section
/-! SUPPORT. A spare row's copy in a bank whose number is beyond the twenty-four (14, R368; 02, R66): its handle is the host port's, which tells
in an event of its own what it has lost. -/

set_option Elab.async false

namespace Sys2Proof.Machine

/-- A bank number so far beyond the twenty-four that its handle is the host port's. -/
def strayBank : Nat := hHOSTPORT - hBANK 0

/-- The copy of row 0 of the bank's sub-array 0 onto its first spare. -/
def strayCopy : SpareCopy := ⟨0, 0, 0, 0⟩

/-- The copy runs; the host port selects the class of the SRAM's events and has lost a notification. -/
def straySparing : State :=
  setCfg hHOSTPORT Par.CTRLPORT_NOTIFY_MASK 0 256
    { State.reset with
      stag.running := true, pstore.read := true, ctrl.host := { enabled := true, lost := 1 }
      sram.banks := [(strayBank, { copying := [strayCopy] })] }

theorem straySparing_canonical : straySparing.Canonical where
  store := by decide +kernel
  mirror := rfl
  image := rfl
  flash := by decide +kernel
  sram := rfl
  results := rfl
  gens := rfl
  limited := rfl
  last := rfl
  ce := rfl
  ue := rfl
  patch := rfl
  held := rfl
  config := by decide +kernel

/-- The state in which a copy that is complete is counted, before SPARES_LEFT shows it. -/
def copyCounted (b : Nat) (c : SpareCopy) (rest : List SpareCopy) (s : State) : State :=
  let k := bank s b
  let s := setBank b { k with copying := rest, spared := k.spared ++ [c.sub * 256 + c.row] } s
  let s := fellRecord (hBANK b) 2 c.cause (c.sub + 16 * c.row + 4096 * c.spare) s
  let s := setRes (hBANK b) Par.BANK_ROWS_SPARED (min 65535 (res s (hBANK b) Par.BANK_ROWS_SPARED + 1)) s
  setRes hSRAM Par.SRAM_SPARES_USED (min 65535 (res s hSRAM Par.SRAM_SPARES_USED + 1)) s

/-- The copy shown with `n` spare rows left, and told. -/
def copyTold (b : Nat) (c : SpareCopy) (n : Nat) (s : State) : State :=
  raise 0x0802 (hBANK b) [b, c.sub, c.row, c.spare, c.cause] (setResAt (hBANK b) Par.BANK_SPARES_LEFT c.sub (n : Int) s)

theorem execSpareCopyDone_copy {s : State} {b : Nat} {c : SpareCopy} {rest : List SpareCopy} (copying : (bank s b).copying = c :: rest) :
    let u := copyCounted b c rest s
    execSpareCopyDone b s = .next (copyTold b c (sparesLeft u b c.sub) u) := by
  intro u
  unfold execSpareCopyDone
  extract_lets k
  rw [show k.copying = c :: rest from copying]
  rfl

/-- Whatever the factory has left of the spares, the unit's LAST_EVENT is the port's. -/
theorem strayCopy_lost : ∀ n < 9, lastCode (copyTold strayBank strayCopy n (copyCounted strayBank strayCopy [] straySparing))
    (hBANK strayBank) = 0x0A09 := by decide +kernel

/-- Refutes O39, in its clause of a spare row's copy, which leaves the bank's number open: where the handle is the host port's, event 0x0A09
of what that port has lost (R66) follows 0x0802 and is the unit's LAST_EVENT. -/
theorem not_sramMaintenance : ¬ Obligations.SramMaintenance := by
  unfold Obligations.SramMaintenance
  intro h
  obtain ⟨copied, -, -⟩ := h straySparing strayBank (by decide +kernel)
  have copying : (bank straySparing strayBank).copying = [strayCopy] := by decide +kernel
  obtain ⟨t, step, -, -, told, -⟩ := copied _ _ copying straySparing_canonical
  cases (execSpareCopyDone_copy copying).symm.trans step
  have few : sparesLeft (copyCounted strayBank strayCopy [] straySparing) strayBank strayCopy.sub < 9 := by
    unfold sparesLeft
    omega
  exact absurd ((strayCopy_lost _ few).symm.trans told) (by decide)

end Sys2Proof.Machine
end

section
/-! SUPPORT. The timers of the security engine (16, R410, R412, R420; 02, R64): a challenge, a lockout's second, an attestation, an idle
session. -/

set_option Elab.async false

namespace Sys2Proof.Machine

theorem port_advanceTo (t : Nat) (s : State) (i : PortId) : port (advanceTo t s) i = port s i := by cases i <;> rfl

theorem execChallengeExpiry_expires {s : State} {i : PortId} {c : List Nat} {l at_ : Nat}
    (outstanding : (port s i).challenge = some (c, l, at_)) :
    execChallengeExpiry i s
      = .next (setPort i { port s i with challenge := none } (advanceTo (at_ + 10 * tickS) s)) := by
  unfold execChallengeExpiry
  rw [outstanding]
  dsimp only
  rw [port_advanceTo]

/-- A second of a delay that has some left moves the time, and takes 1 from LOCKOUT_S. -/
theorem execLockoutSecond_counts {s : State} {i : PortId} {n : Nat} (left : res s hSEC Par.SEC_LOCKOUT_S (portCode i) = n + 1) :
    ∃ at_, execLockoutSecond i s = .next (setResAt hSEC Par.SEC_LOCKOUT_S (portCode i) (n : Nat) (advanceTo at_ s)) := by
  unfold execLockoutSecond
  rw [left]
  exact ⟨_, congrArg Host.Outcome.next (if_neg n.succ_ne_zero)⟩

theorem execAttestationDone_made {s : State} {c : List Nat} (asked : s.sec.attest = some c) (canonical : s.Canonical) :
    ∃ t, execAttestationDone s = .next t ∧ t.sec.attest = none ∧ lastCode t hSEC = 0x0B0C := by
  unfold execAttestationDone
  rw [asked]
  dsimp only
  refine ⟨_, rfl, ?_, raise_lastCode_self _ _ ?_⟩
  · rw [raise_sec, (setResList_only ..).sec rfl rfl]
    rfl
  · have asks : Only [.security, .free] s (random 32 { s with sec.attest := none }).2 :=
      (random_only ..).after (Only.upd_security (Only.refl s))
    exact (setResList_only ..).kept.canon (asks.kept.canon canonical)

theorem execSessionIdleTimeout_ends {s : State} {i : PortId} (limited : cfg s (portUnit i) Par.CTRLPORT_IDLE_TIMEOUT ≠ 0)
    (opened : (port s i).level ≠ 0) :
    execSessionIdleTimeout i s
      = .next (endSession i 1 (advanceTo ((port s i).heard + cfg s (portUnit i) Par.CTRLPORT_IDLE_TIMEOUT * tickS) s)) :=
  congrArg Host.Outcome.next (if_neg (not_or.2 ⟨limited, opened⟩))

theorem endSession_key_self {s : State} {i : PortId} (reason : Nat) (opened : (port s i).level ≠ 0) :
    (port (endSession i reason s) i).key = none := by
  unfold endSession setLevel
  rw [if_neg opened, port_of_only (changeRes_only ..) rfl, port_setPort_eq, if_pos rfl]

/-- Settles O48: each timer's command does its part where its guard is met. -/
theorem securityTimers : Obligations.SecurityTimers := by
  refine fun s => ⟨fun i c l at_ outstanding => ?_, fun i n left canonical => ?_, fun c asked canonical => ?_,
    fun i limited opened => ?_⟩
  · refine ⟨_, execChallengeExpiry_expires outstanding, ?_, setPort_now⟩
    rw [port_setPort_eq, if_pos rfl]
  · obtain ⟨at_, counts⟩ := execLockoutSecond_counts left
    refine ⟨_, counts, congrArg Int.toNat (resI_setResAt_self _ _ _ _ _ ?_)⟩
    exact (advanceTo_only ..).kept.canon canonical
  · exact execAttestationDone_made asked canonical
  · have opened' : (port (advanceTo ((port s i).heard + cfg s (portUnit i) Par.CTRLPORT_IDLE_TIMEOUT * tickS) s) i).level ≠ 0 := by
      rwa [port_advanceTo]
    exact ⟨_, execSessionIdleTimeout_ends limited opened, endSession_level .., endSession_key_self 1 opened', endSession_now⟩

end Sys2Proof.Machine
end

section
/-! SUPPORT. Tamper events and the test port (16, R403, R416 to R419): what each step of a tamper event leaves of the security engine. -/

set_option Elab.async false

namespace Sys2Proof.Machine

/-- A bit that is clear is set by adding it. -/
theorem or_two_pow_eq_add {n k : Nat} (clear : n.testBit k = false) : n ||| 2 ^ k = n + 2 ^ k := by
  induction k generalizing n with
  | zero =>
    have even : n % 2 = 0 := by simpa [Nat.testBit_zero] using clear
    have halves : (n ||| 1) / 2 = n / 2 := by rw [Nat.or_div_two]; simp
    have odd : (n ||| 1) % 2 = 1 := by simp
    show n ||| 1 = n + 1
    omega
  | succ k ih =>
    rw [Nat.testBit_succ] at clear
    have halves : (n ||| 2 ^ (k + 1)) / 2 = n / 2 + 2 ^ k := by
      rw [Nat.or_div_two, Nat.pow_succ, Nat.mul_div_cancel _ Nat.two_pos, ih clear]
    have last : (n ||| 2 ^ (k + 1)) % 2 = n % 2 := by
      have := Nat.or_mod_two_pow (a := n) (b := 2 ^ (k + 1)) (n := 1)
      simpa [Nat.pow_succ] using this
    rw [Nat.pow_succ] at *
    omega

/-! ### Keys that are discarded -/

/-- The sets named are discarded, the others left. -/
theorem dropKeys_sec (sets cause : Nat) (s : State) : ∃ l0 l1, (dropKeys sets cause s).sec
    = { s.sec with
        set0 := if sets.testBit 0 then none else s.sec.set0, set1 := if sets.testBit 1 then none else s.sec.set1
        last0 := l0, last1 := l1 } := by
  have held0 : (keySetBits s).testBit 0 = s.sec.set0.isSome := by
    unfold keySetBits
    generalize s.sec.set0.isSome = a, s.sec.set1.isSome = b
    revert a b
    decide
  have held1 : (keySetBits s).testBit 1 = s.sec.set1.isSome := by
    unfold keySetBits
    generalize s.sec.set0.isSome = a, s.sec.set1.isSome = b
    revert a b
    decide
  have lost0 : (Nat.land sets (keySetBits s)).testBit 0 = (sets.testBit 0 && s.sec.set0.isSome) := by
    rw [← held0]; exact Nat.testBit_and ..
  have lost1 : (Nat.land sets (keySetBits s)).testBit 1 = (sets.testBit 1 && s.sec.set1.isSome) := by
    rw [← held1]; exact Nat.testBit_and ..
  have kept : ∀ {α : Type} {o : Option α} {b : Bool}, (b && o.isSome) = false → (if b = true then none else o) = o := by
    intro α o b
    cases b <;> cases o <;> simp
  have gone : ∀ {α : Type} {o : Option α} {b : Bool}, (b && o.isSome) = true → (if b = true then none else o) = none := by
    intro α o b
    cases b <;> cases o <;> simp
  unfold dropKeys
  dsimp only
  split
  · next nothing =>
    rw [nothing, Nat.zero_testBit] at lost0 lost1
    rw [kept lost0.symm, kept lost1.symm]
    exact ⟨_, _, rfl⟩
  · rw [raise_sec, changeRes_sec]
    by_cases lose0 : (Nat.land sets (keySetBits s)).testBit 0 = true <;>
      by_cases lose1 : (Nat.land sets (keySetBits s)).testBit 1 = true
    · rw [gone (lost0.symm.trans lose0), gone (lost1.symm.trans lose1), if_pos lose0, if_pos lose1]
      exact ⟨none, none, rfl⟩
    · rw [gone (lost0.symm.trans lose0), kept (lost1.symm.trans (eq_false_of_ne_true lose1)), if_pos lose0, if_neg lose1]
      exact ⟨none, s.sec.last1, rfl⟩
    · rw [kept (lost0.symm.trans (eq_false_of_ne_true lose0)), gone (lost1.symm.trans lose1), if_neg lose0, if_pos lose1]
      exact ⟨s.sec.last0, none, rfl⟩
    · rw [kept (lost0.symm.trans (eq_false_of_ne_true lose0)), kept (lost1.symm.trans (eq_false_of_ne_true lose1)),
        if_neg lose0, if_neg lose1]
      exact ⟨s.sec.last0, s.sec.last1, rfl⟩

theorem drawFrameKey_sec (cause : Nat) (s : State) : ∃ k, (drawFrameKey cause s).sec = { s.sec with frameKey := some k } := by
  unfold drawFrameKey
  dsimp only
  refine ⟨(drawBytes 32 s).1, raise_sec.trans ?_⟩
  have slots : ∀ (l : List Nat) (u : State), Only [.fstore, .results] u (l.foldl (fun s n =>
      let x := slotAt s n
      if x.enc ∧ x.state ≠ 0 then setSlot n { x with keyLost := true } s else s) u) := fun l u =>
    .foldl (fun t n h => by dsimp only; split; exacts [(setSlot_only ..).after h, h]) l _ (.refl u)
  refine ((slots _ _).sec rfl rfl).trans ?_
  rfl

theorem wipeKeys_sec (cause : Nat) (s : State) : (wipeKeys cause s).sec
    = { s.sec with work := none, exchange := none, attest := none, testOpen := false, testChallenge := none } :=
  (wipeSecure_only ..).sec rfl rfl

/-! ### Tamper events -/

/-- The security engine once a source has asserted. -/
def tamperLocked (source : Nat) (s : State) : SecSt :=
  { s.sec with active := s.sec.active ||| 2 ^ source, locked := true, tamperAt := s.now }

/-- The source is noted and shown. -/
def tamperNoted (source : Nat) (s : State) : State :=
  setRes hSEC Par.SEC_TAMPER_LAST (2 ^ source)
    (setRes hSEC Par.SEC_TAMPER_ACTIVE (s.sec.active ||| 2 ^ source) { s with sec := tamperLocked source s })

theorem tamperNoted_sec (source : Nat) (s : State) : (tamperNoted source s).sec = tamperLocked source s :=
  ((setRes_only ..).sec rfl rfl).trans ((setRes_only ..).sec rfl rfl)

theorem tamperNoted_power (source : Nat) (s : State) : (tamperNoted source s).power = s.power :=
  ((setRes_only ..).same .power rfl).trans ((setRes_only ..).same .power rfl)

/-- The keys are gone (R418, steps 1 to 4). -/
def tamperWiped (s : State) : State := drawFrameKey 1 (dropKeys 3 1 (endSessions 3 (wipeKeys 0 s)))

/-- A source that begins to assert, or a closed debug instruction, is a tamper event. -/
theorem tamperEvent_eq {source : Nat} (measured : Int) {s : State} (known : source ≤ 4)
    (fresh : source = 4 ∨ s.sec.active.testBit source = false) :
    tamperEvent source measured s =
      if (tamperNoted source s).power.state = .off then tamperLater (2 ^ source) measured (tamperNoted source s)
      else if fabricOn (tamperWiped (tamperNoted source s)) then tamperTell (2 ^ source) measured (tamperWiped (tamperNoted source s))
        else tamperLater (2 ^ source) measured (tamperWiped (tamperNoted source s)) := by
  unfold tamperEvent
  rw [if_neg]
  · rfl
  rintro (beyond | ⟨other, again⟩)
  · omega
  · rcases fresh with same | clear
    · exact other same
    · exact Bool.false_ne_true (clear.symm.trans again)

theorem tamperLater_sec (bit : Nat) (measured : Int) (s : State) : (tamperLater bit measured s).sec
    = { s.sec with deferred := some (Nat.lor bit ((s.sec.deferred.map (·.1)).getD 0), measured) } := rfl

/-- The security engine at the end of a tamper event outside OFF: locked, its keys gone. -/
structure TamperWiped (source : Nat) (s : State) (x : SecSt) : Prop where
  locked : x.locked = true
  active : x.active = s.sec.active ||| 2 ^ source
  since  : x.tamperAt = s.now
  work   : x.work = none
  set0   : x.set0 = none
  set1   : x.set1 = none
  exchange : x.exchange = none
  testIr : x.testIr = s.sec.testIr

theorem tamperEvent_wipes {source : Nat} (measured : Int) {s : State} (known : source ≤ 4)
    (fresh : source = 4 ∨ s.sec.active.testBit source = false) (awake : s.power.state ≠ .off) :
    TamperWiped source s (tamperEvent source measured s).sec := by
  have wiped : TamperWiped source s (tamperWiped (tamperNoted source s)).sec := by
    obtain ⟨l0, l1, dropped⟩ := dropKeys_sec 3 1 (endSessions 3 (wipeKeys 0 (tamperNoted source s)))
    obtain ⟨k, drawn⟩ := drawFrameKey_sec 1 (dropKeys 3 1 (endSessions 3 (wipeKeys 0 (tamperNoted source s))))
    rw [dropped, (endSessions_only ..).sec rfl rfl, wipeKeys_sec, tamperNoted_sec] at drawn
    rw [show (tamperWiped (tamperNoted source s)).sec = _ from drawn]
    exact ⟨rfl, rfl, rfl, rfl, rfl, rfl, rfl, rfl⟩
  rw [tamperEvent_eq measured known fresh]
  rw [if_neg (by rwa [tamperNoted_power])]
  split
  · rwa [(tamperTell_only ..).sec rfl rfl]
  · rw [tamperLater_sec]
    generalize (tamperWiped (tamperNoted source s)).sec = x at wiped ⊢
    exact ⟨wiped.locked, wiped.active, wiped.since, wiped.work, wiped.set0, wiped.set1, wiped.exchange, wiped.testIr⟩

/-- In OFF the wipe waits for the wake: the event is only noted. -/
theorem tamperEvent_waits {source : Nat} (measured : Int) {s : State} (known : source ≤ 4)
    (fresh : source = 4 ∨ s.sec.active.testBit source = false) (off : s.power.state = .off) :
    (tamperEvent source measured s).sec
      = { tamperLocked source s with deferred := some (Nat.lor (2 ^ source) ((s.sec.deferred.map (·.1)).getD 0), measured) } := by
  rw [tamperEvent_eq measured known fresh]
  rw [if_pos (by rwa [tamperNoted_power])]
  rw [tamperLater_sec, tamperNoted_sec]
  rfl

/-- Whatever the power state, the event locks the device and notes its source and moment. -/
theorem tamperEvent_locks {source : Nat} (measured : Int) {s : State} (known : source ≤ 4)
    (fresh : source = 4 ∨ s.sec.active.testBit source = false) :
    let x := (tamperEvent source measured s).sec
    x.locked = true ∧ x.active = s.sec.active ||| 2 ^ source ∧ x.tamperAt = s.now ∧ x.testIr = s.sec.testIr := by
  by_cases off : s.power.state = .off
  · rw [tamperEvent_waits measured known fresh off]
    exact ⟨rfl, rfl, rfl, rfl⟩
  · have wiped := tamperEvent_wipes measured known fresh off
    exact ⟨wiped.locked, wiped.active, wiped.since, wiped.testIr⟩

theorem execTamper_event {source : Nat} (measured : Int) {s : State} (known : source ≤ 3)
    (enabled : source = 0 → cfgB s hSEC Par.SEC_TAMPER_ENABLE = true) (powered : source = 1 → s.power.warning = false) :
    execTamper source measured s = .next (tamperEvent source measured s) := by
  unfold execTamper
  rw [if_neg, if_neg, if_neg (by omega)]
  · rintro ⟨voltage, warned⟩
    exact Bool.false_ne_true ((powered voltage).symm.trans warned)
  · rintro ⟨mesh, disabled⟩
    exact Bool.false_ne_true (disabled.symm.trans (enabled mesh))

theorem showCredentials_sec (s : State) : (showCredentials s).sec = { s.sec with shownCert := (keys s).cert } := by
  unfold showCredentials
  dsimp only
  rw [changeRes_sec]
  split
  · next same => rw [same]
  · rw [bumpGen_sec]

/-- The lock ends 100 ms after the last event. -/
theorem execTamperClear_unlocks {s : State} (locked : s.sec.locked = true) (on : fabricOn s = true) (canonical : s.Canonical) :
    ∃ t, execTamperClear s = .next t ∧ t.sec.locked = false ∧ t.sec.active = 0
      ∧ t.now = max s.now (s.sec.tamperAt + 100 * tickMs) ∧ lastCode t hSEC = 0x0B02 := by
  let a := advanceTo (s.sec.tamperAt + 100 * tickMs) s
  let u := changeRes hSEC Par.SEC_TAMPER_ACTIVE 0 { a with sec.active := 0, sec.locked := false }
  have shown : Only [.now, .security, .results] s u :=
    (changeRes_only ..).after (Only.upd_security ((advanceTo_only ..).mono rfl))
  have reloaded : (reloadKeys u).sec.locked = false ∧ (reloadKeys u).sec.active = 0 := by
    have cleared : u.sec.locked = false ∧ u.sec.active = 0 := by
      rw [show u.sec = _ from changeRes_sec]
      exact ⟨rfl, rfl⟩
    unfold reloadKeys
    split
    · exact cleared
    · rw [showCredentials_sec]
      exact cleared
  have unlocks : execTamperClear s = .next (raise 0x0B02 hSEC
      (u32 ((a.now - 100 * tickMs - s.sec.tamperAt) / tickMs)) (reloadKeys u)) :=
    congrArg Host.Outcome.next (if_neg (by simp [locked, on]))
  refine ⟨_, unlocks, ?_, ?_, ?_, ?_⟩
  · rw [raise_sec]; exact reloaded.1
  · rw [raise_sec]; exact reloaded.2
  · rw [raise_now, (reloadKeys_only ..).same .now rfl]
    exact changeRes_now
  · exact raise_lastCode_self _ _ ((reloadKeys_only ..).kept.canon (shown.kept.canon canonical))

/-- Settles O46: a tamper event locks at once; what else it does at once depends on OFF. -/
theorem tamperLocks : Obligations.TamperLocks := by
  refine fun s => ⟨fun source measured known enabled powered clear => ?_, execTamperClear_unlocks, fun test canonical => ?_⟩
  · have known' : source ≤ 4 := Nat.le_succ_of_le known
    obtain ⟨locked, active, since, -⟩ := tamperEvent_locks measured known' (.inr clear)
    refine ⟨_, execTamper_event measured known enabled powered, locked, active.trans (or_two_pow_eq_add clear), since,
      fun awake => ?_, fun off => ?_⟩
    · have wiped := tamperEvent_wipes measured known' (.inr clear) awake
      exact ⟨wiped.work, wiped.set0, wiped.set1, wiped.exchange⟩
    · rw [tamperEvent_waits measured known' (.inr clear) off]
  · have bad : Only [.security] s { s with sec.entropyBad := true } := Only.upd_security (Only.refl s)
    have told := (raise_only 0x0B0D hSEC [test] _).kept.canon (bad.kept.canon canonical)
    refine ⟨_, rfl, ?_, ?_⟩
    · rw [settle_sec, raise_sec]
    · exact (congrArg (·.2) (settle_lastEvent_other _ told rfl)).trans (raise_lastCode_self _ _ (bad.kept.canon canonical))

/-! ### The test port -/

theorem challengeable_of_factory {s : State} (factory : s.sec.lifecycle = 1 ∨ s.sec.lifecycle = 3)
    (readable : s.sec.work.isSome = true) : ¬ ((s.sec.lifecycle ≠ 1 ∧ s.sec.lifecycle ≠ 3) ∨ s.sec.work = none) := by
  rintro (⟨not1, not3⟩ | unread)
  · exact factory.elim not1 not3
  · rw [unread] at readable
    exact Bool.false_ne_true readable

theorem execTestPortChallenge_draws {s : State} (response : List Nat) (factory : s.sec.lifecycle = 1 ∨ s.sec.lifecycle = 3)
    (readable : s.sec.work.isSome = true) (none_yet : s.sec.testChallenge = none) (sound : s.sec.entropyBad = false) :
    execTestPortChallenge response s
      = .next { (random 32 s).2 with sec.testChallenge := some (random 32 s).1 } := by
  unfold execTestPortChallenge
  rw [if_neg (challengeable_of_factory factory readable), none_yet]
  exact congrArg Host.Outcome.next (if_neg (by simp [sound]))

theorem execTestPortChallenge_answers {s : State} {c : List Nat} (response : List Nat)
    (factory : s.sec.lifecycle = 1 ∨ s.sec.lifecycle = 3) (readable : s.sec.work.isSome = true)
    (drawn : s.sec.testChallenge = some c) : execTestPortChallenge response s = .next { s with
      sec.testChallenge := none
      sec.testOpen := s.sec.testOpen || hmac (keys s).venKey (c ++ [3, 3] ++ uid s) == response } := by
  unfold execTestPortChallenge
  rw [if_neg (challengeable_of_factory factory readable), drawn]

/-- Settles O47: a closed debug instruction is tamper source 4; a challenge command draws or answers as one is outstanding. -/
theorem testPort : Obligations.TestPort := by
  refine fun s => ⟨fun i closed => ?_, fun closed clear => ?_, fun response factory readable none_yet sound => ?_,
    fun response c factory readable drawn => ?_⟩
  · refine congrArg Host.Outcome.next (if_neg ?_)
    rintro ⟨debug, shut⟩
    exact Bool.false_ne_true (shut.symm.trans (closed debug))
  · obtain ⟨locked, active, -, ir⟩ := tamperEvent_locks (source := 4) 0 (s := { s with sec.testIr := .bypass }) (Nat.le_refl 4) (.inl rfl)
    exact ⟨_, congrArg Host.Outcome.next (if_pos ⟨rfl, closed⟩), ir, locked, active.trans (or_two_pow_eq_add clear)⟩
  · exact ⟨_, _, execTestPortChallenge_draws response factory readable none_yet sound, rfl, rfl⟩
  · exact ⟨_, execTestPortChallenge_answers response factory readable drawn, rfl, rfl⟩

end Sys2Proof.Machine
end

section
/-! SUPPORT. The key exchange of the link (16, R421, R422): what CP_HELLO, CP_CONFIRM and CP_DROP make of the exchange and of the key sets. -/

set_option Elab.async false

namespace Sys2Proof.Machine

/-- A new message of the source on channel 4 is answered with what its effect gives. -/
theorem cpAnswer_fresh {s : State} {f : AuxFrame} (fresh : freshRequest s f 4 = true) :
    cpAnswer cpMessage f s
      = auxReply f (0 :: (cpMessage f.payload (auxHeard s)).1) (cpMessage f.payload (auxHeard s)).2 := by
  unfold cpAnswer
  rw [if_neg (by simp [auxChannel_of_fresh fresh])]
  exact auxRequest_fresh fresh _

theorem auxHeard_sec (s : State) : (auxHeard s).sec = s.sec := (auxHeard_only s).sec rfl rfl

theorem auxReply_sec (f : AuxFrame) (answer : List Nat) (s : State) : (auxReply f answer s).sec = s.sec :=
  (auxReply_only ..).sec rfl rfl

theorem auxReply_answered (f : AuxFrame) (answer : List Nat) (s : State) :
    (auxReply f answer s).aux.answered = some (auxChannel f, f.id, f.check, answer) := by
  unfold auxReply
  rw [incWrap_aux]

/-! ### CP_HELLO -/

theorem setInUse_of_rx {s t : State} (same : t.rx = s.rx) (k : Nat) : setInUse t k = setInUse s k := by
  unfold setInUse
  rw [same]

/-- A hello of version 1 for a set that is not in use, with a point of the curve, opens an exchange. -/
theorem takeHello_opens {s : State} {k : Nat} {ns qs : List Nat} {q : Nat × Nat} (unlocked : s.sec.locked = false)
    (unscrapped : s.sec.lifecycle ≠ 4) (known : k ≤ 1) (identity : hasIdentity (keys s) = true) (sound : s.sec.entropyBad = false)
    (free : setInUse s k = false) (point : pointOf qs = some q) :
    ∃ e, (takeHello 1 k ns qs s).2.sec.exchange = some e ∧ e.set = k ∧ e.since = s.now := by
  have able : ¬ (!hasIdentity (keys s) || s.sec.entropyBad) = true := by simp [identity, sound]
  unfold takeHello
  rw [if_neg, if_neg unscrapped, if_neg, if_neg, if_neg, point]
  · exact ⟨_, rfl, rfl, rfl⟩
  · exact ne_true_of_eq_false free
  · exact able
  · omega
  · exact ne_true_of_eq_false unlocked

/-! ### CP_CONFIRM -/

/-- The exchange's keys as a key set. -/
def exchangeSet (e : Exchange) : KeySet := ⟨e.keys.take 32, sub e.keys 32 32⟩

theorem takeConfirm_confirms {s : State} {e : Exchange} (unlocked : s.sec.locked = false) (unscrapped : s.sec.lifecycle ≠ 4)
    (opened : s.sec.exchange = some e) :
    let x := takeConfirm e.set (hmac (e.keys.drop 64) (0x53 :: e.t)) s
    x.1 = [4, e.set] ++ hmac (e.keys.drop 64) (0x44 :: e.t) ∧ x.2.sec.exchange = none
      ∧ (e.set = 0 → x.2.sec.set0 = some (exchangeSet e) ∧ x.2.sec.set1 = s.sec.set1)
      ∧ (e.set ≠ 0 → x.2.sec.set1 = some (exchangeSet e) ∧ x.2.sec.set0 = s.sec.set0) := by
  unfold takeConfirm
  rw [if_neg (by simp [unlocked]), if_neg unscrapped, opened]
  dsimp only
  rw [if_neg (not_not.2 rfl), if_neg (not_not.2 rfl)]
  dsimp only
  rw [raise_sec, (setRes_only ..).sec rfl rfl, incWrap_sec]
  by_cases first : e.set = 0
  · rw [if_pos first]
    exact ⟨rfl, rfl, fun _ => ⟨rfl, rfl⟩, fun other => absurd first other⟩
  · rw [if_neg first]
    exact ⟨rfl, rfl, fun same => absurd same first, fun _ => ⟨rfl, rfl⟩⟩

/-- Settles O45: each message is taken by its code, in the state in which it has been heard. -/
theorem keyExchange : Obligations.KeyExchange := by
  refine fun s => ⟨fun f k ns qs q fresh payload long unlocked unscrapped known identity sound free point => ?_,
    fun f e fresh opened payload unlocked unscrapped => ?_, fun e opened canonical => ?_, fun f sets fresh payload => ?_⟩
  · have heard := auxHeard_sec s
    have taken : cpMessage f.payload (auxHeard s) = takeHello 1 k ns qs (auxHeard s) := by
      rw [payload]
      show takeHello 1 k ((ns ++ qs).take 32) ((ns ++ qs).drop 32) _ = _
      rw [List.take_left' long, List.drop_left' long]
    obtain ⟨e, exchange, set, since⟩ := takeHello_opens (s := auxHeard s) (ns := ns) (by rwa [heard]) (by rwa [heard]) known
      (by unfold keys; rwa [heard]) (by rwa [heard]) ((setInUse_of_rx ((auxHeard_only s).same .rx rfl) k).trans free) point
    refine ⟨_, e, congrArg Host.Outcome.next (cpAnswer_fresh fresh), ?_, set, since.trans ((auxHeard_only s).same .now rfl)⟩
    rw [auxReply_sec, taken, exchange]
  · have heard := auxHeard_sec s
    have taken : cpMessage f.payload (auxHeard s) = takeConfirm e.set (hmac (e.keys.drop 64) (0x53 :: e.t)) (auxHeard s) := by
      rw [payload]
      rfl
    obtain ⟨answer, ended, set0, set1⟩ := takeConfirm_confirms (s := auxHeard s) (by rwa [heard]) (by rwa [heard])
      (by rwa [heard] : (auxHeard s).sec.exchange = some e)
    refine ⟨_, congrArg Host.Outcome.next (cpAnswer_fresh fresh), ?_⟩
    rw [auxReply_sec, auxReply_answered, taken, answer, auxChannel_of_fresh fresh, ← heard]
    exact ⟨ended, rfl, set0, set1⟩
  · have dropped : Only [.now, .security] s { advanceTo (e.since + 100 * tickMs) s with sec.exchange := none } :=
      Only.upd_security ((advanceTo_only ..).mono rfl)
    have counted := (incSat_only hSEC Par.SEC_EXCHANGE_FAILS 1 _).kept.canon (dropped.kept.canon canonical)
    refine ⟨exchangeFails e.set 0 { advanceTo (e.since + 100 * tickMs) s with sec.exchange := none }, ?_, ?_, ?_,
      raise_lastCode_self _ _ counted⟩
    · show execCpConfirmTimeout s = _
      unfold execCpConfirmTimeout
      rw [opened]
    · unfold exchangeFails
      rw [raise_sec, incSat_sec]
    · unfold exchangeFails
      rw [raise_now, incSat_now]
      rfl
  · have taken : (cpMessage f.payload (auxHeard s)).2 = dropKeys sets 4 (auxHeard s) := by
      rw [payload]
      rfl
    obtain ⟨l0, l1, dropped⟩ := dropKeys_sec sets 4 (auxHeard s)
    refine ⟨_, congrArg Host.Outcome.next (cpAnswer_fresh fresh), ?_⟩
    rw [auxReply_sec, taken, dropped, auxHeard_sec]
    exact ⟨rfl, rfl⟩

end Sys2Proof.Machine
end

section
/-! SUPPORT. The timers that begin an entry, and the wakes that end one (19, R485 to R492). -/

set_option Elab.async false

namespace Sys2Proof.Machine

@[simp] theorem setTransition_power (n : Nat) (s : State) : (setTransition n s).power = s.power := changeRes_power ..

theorem setRequest_power (n : Nat) (s : State) : (setRequest n s).power = s.power := setCfg_power ..

theorem noteEntry_power (off : Bool) (trigger : Nat) (s : State) : (noteEntry off trigger s).power = s.power :=
  (noteEntry_only ..).same .power rfl

/-- A change of POWER_STATE leaves of the power record all but the state, its clock and the time of its last activity. -/
theorem enterState_power (p : PowerState) (s : State) :
    ∃ spent since quiet, (enterState p s).power
      = { s.power with spent := spent, stateAt := since, state := p, quietAt := quiet } := by
  unfold enterState
  split
  case isTrue same => exact ⟨_, _, _, by rw [← same]⟩
  case isFalse => exact ⟨_, _, _, by rw [raise_power, changeRes_power]⟩

theorem enterState_state (p : PowerState) (s : State) : (enterState p s).power.state = p := by
  obtain ⟨_, _, _, same⟩ := enterState_power p s
  rw [same]

/-! ### Entries -/

theorem beginTransition_begins {off : Bool} {trigger : Nat} {s : State} (may : mayEnter s = true) :
    beginTransition off trigger s
      = noteEntry off trigger { s with power.transition := some { off := off }, power.waking := none, power.wakeStep := 0 } := by
  unfold beginTransition
  rw [if_neg (by simp [may])]

theorem noteEntry_lastCode (off : Bool) (trigger : Nat) {s : State} (canonical : s.Canonical) :
    lastCode (noteEntry off trigger s) hPWR = 0x0E07 := by
  refine raise_lastCode_self _ _ ?_
  exact (setTransition_only ..).kept.canon ((incWrap_only ..).kept.canon canonical)

theorem beginTransition_transition {off : Bool} {trigger : Nat} {s : State} (may : mayEnter s = true) :
    (beginTransition off trigger s).power.transition = some { off := off } := by
  rw [beginTransition_begins may, noteEntry_power]

theorem beginTransition_lastCode {off : Bool} {trigger : Nat} {s : State} (may : mayEnter s = true) (canonical : s.Canonical) :
    lastCode (beginTransition off trigger s) hPWR = 0x0E07 := by
  rw [beginTransition_begins may]
  have readied : Only [.power] s { s with power.transition := some { off := off }, power.waking := none, power.wakeStep := 0 } :=
    Only.upd_power (.refl s)
  exact noteEntry_lastCode off trigger (readied.kept.canon canonical)

theorem cancelEntry_cancels (t : Transition) (cause : Nat) {s : State} (canonical : s.Canonical) :
    (cancelEntry t cause s).power.transition = none ∧ lastCode (cancelEntry t cause s) hPWR = 0x0E09 := by
  unfold cancelEntry
  constructor
  · rw [raise_power, setRequest_power, setTransition_power]
  · refine raise_lastCode_self _ _ ((setCfg_only ..).kept.canon ((setTransition_only ..).kept.canon ?_))
    have cleared : Only [.power] s { s with power.transition := none, power.heldRequest := none, power.heldWake := none } :=
      Only.upd_power (.refl s)
    exact cleared.kept.canon canonical

/-! ### Wakes from STANDBY -/

theorem startWake_standby {n : Nat} {s : State} (asleep : s.power.state = .standby) :
    startWake n s = wakeBegins (setTransition 3 (recordWake n 3 { s with power.waking := some n })) := by
  unfold startWake
  rw [asleep]

theorem startWake_wakes {n : Nat} {s : State} (asleep : s.power.state = .standby) :
    (startWake n s).power.waking = some n ∧ (startWake n s).power.wakeStep = 1
      ∧ (startWake n s).resil.avs = some (s.resil.vcore, 0) ∧ (startWake n s).now = s.now := by
  have readied : Only [.results] { s with power.waking := some n } (setTransition 3 (recordWake n 3 { s with power.waking := some n })) :=
    (setTransition_only ..).after (recordWake_only ..)
  rw [startWake_standby asleep]
  unfold wakeBegins
  dsimp only
  rw [readied.same .power rfl, readied.same .resil rfl]
  exact ⟨rfl, rfl, rfl, readied.same .now rfl⟩

theorem startService_wakes {n : Nat} {s : State} (asleep : s.power.state = .standby) :
    (startService n s).power.service = some n ∧ (startService n s).power.wakeStep = 1
      ∧ (startService n s).power.waking = s.power.waking ∧ (startService n s).power.transition = s.power.transition
      ∧ (startService n s).now = s.now := by
  have recorded : Only [.results] s (if n = 0 then s else recordWake n 3 s) := by
    split
    · exact .refl s
    · exact recordWake_only ..
  have started : startService n s
      = wakeBegins { (if n = 0 then s else recordWake n 3 s) with power.service := some n, power.serviceFrom := .standby } := by
    unfold startService
    rw [asleep]
  rw [started]
  unfold wakeBegins
  dsimp only
  rw [recorded.same .power rfl]
  exact ⟨rfl, rfl, rfl, rfl, recorded.same .now rfl⟩

theorem fullWake_starts {n : Nat} {s : State} (free : s.power.transition = none) (idle : s.power.waking = none)
    (unserved : s.power.service = none) : fullWake n s = startWake n s := by
  unfold fullWake
  rw [free]
  dsimp only
  rw [idle, unserved]
  rfl

theorem fullWake_cancels {n : Nat} {e : Transition} {s : State} (entering : s.power.transition = some e) (first : e.step = 1) :
    fullWake n s = cancelEntry e 0 s := by
  unfold fullWake
  rw [entering]
  exact if_pos first

theorem execFullWake_wakes {n : Nat} {s : State} (low : 1 ≤ n) (high : n ≤ 5) (enabled : sourceEnabled s.power.settings n = true)
    (released : s.power.phase ≠ .reset) (watched : watching s = true) : execFullWake n s = .next (fullWake n s) := by
  refine congrArg Host.Outcome.next (if_neg ?_)
  have inRange : ¬ (n = 0 ∨ 5 < n) := by omega
  simp [inRange, enabled, watched, released]

/-! ### The end of a service wake -/

theorem fallAsleep_power (off : Bool) (s : State) :
    (fallAsleep off s).power.service = none ∧ (fallAsleep off s).power.state = (if off then .off else .standby) := by
  unfold fallAsleep
  refine ⟨?_, enterState_state ..⟩
  obtain ⟨_, _, _, same⟩ := enterState_power (if off then .off else .standby) _
  rw [same, setTransition_power]

/-- Step 4 waits with its entry noted, or, with nothing held, the device falls asleep. -/
theorem stepFour_waits_or_sleeps (t : Transition) {s : State} (unwoken : s.power.heldWake = none) (unasked : s.power.heldRequest = none) :
    (stepFour t s).power.transition = some t
      ∨ ((stepFour t s).power.service = none ∧ (stepFour t s).power.state = (if t.off then .off else .standby)) := by
  have flushed : (flushGather { s with power.transition := some t }).power = { s.power with transition := some t } :=
    (flushGather_only ..).same .power rfl
  unfold stepFour
  dsimp only
  split
  · exact .inl (by rw [flushed])
  · right
    have refreshed (c : Prop) [Decidable c] (x : State) : (if c then x else enterSelfRefresh x).power = x.power := by
      split
      · rfl
      · exact (enterSelfRefresh_only x).same .power rfl
    rw [refreshed, flushed, unwoken, unasked]
    exact fallAsleep_power t.off _

theorem stepFour_now (t : Transition) (s : State) : (stepFour t s).now = s.now := (stepFour_only t s).same .now rfl

theorem execServiceWakeTimeout_ends {n : Nat} {s : State} (serving : s.power.service = some n) (woken : n ≠ 0)
    (free : s.power.transition = none) :
    execServiceWakeTimeout s = .next (stepFour { off := s.power.serviceFrom == .off, step := 4, back := true }
      (raise 0x0E0A hPWR [n, powerCode s.power.serviceFrom] (advanceTo (s.power.wakeAt + tickS) s))) := by
  unfold execServiceWakeTimeout
  rw [serving, free]
  dsimp only
  rw [if_neg woken, raise_power]
  rfl

/-- Settles O57: each source begins, cancels or ends what its guard names. -/
theorem wakesBegin : Obligations.WakesBegin := by
  refine fun s => ⟨fun n low high enabled released asleep free idle unserved => ?_,
    fun n e low high enabled released entering first canonical => ?_, fun timed asleep free idle unserved => ?_,
    fun asleep released free idle unserved => ?_, fun n serving woken free unwoken unasked origin => ?_⟩
  · have watched : watching s = true := by simp [watching, asleep]
    obtain ⟨waking, step, avs, -⟩ := startWake_wakes (n := n) asleep
    refine ⟨_, execFullWake_wakes low high enabled released watched, ?_⟩
    rw [fullWake_starts free idle unserved]
    exact ⟨waking, step, avs⟩
  · have watched : watching s = true := by simp [watching, entering]
    refine ⟨_, execFullWake_wakes low high enabled released watched, ?_⟩
    rw [fullWake_cancels entering first]
    exact cancelEntry_cancels e 0 canonical
  · have enabled : sourceEnabled s.power.settings 6 = true := decide_eq_true timed
    have runs : exec .wakeTimer s = .next (fullWake 6 (advanceTo (s.power.asleepAt + s.power.settings.timer * tickS) s)) :=
      congrArg Host.Outcome.next (if_neg (by simp [enabled, asleep, idle]))
    obtain ⟨waking, step, -, now⟩ := startWake_wakes (n := 6)
      (s := advanceTo (s.power.asleepAt + s.power.settings.timer * tickS) s) asleep
    refine ⟨_, runs.trans (congrArg _ (fullWake_starts free idle unserved)), waking, step, now⟩
  · have runs : exec (.serviceWake 7) s = .next (startService 7 s) := by
      show execServiceWake 7 s = _
      unfold execServiceWake
      rw [if_neg (by simp), free]
      dsimp only
      rw [if_neg (by simp [idle, unserved, released])]
    obtain ⟨service, step, waking, -⟩ := startService_wakes (n := 7) asleep
    exact ⟨_, runs, service, step, waking.trans idle⟩
  · refine ⟨_, execServiceWakeTimeout_ends serving woken free, ?_, ?_⟩
    · rw [stepFour_now, raise_now]
      rfl
    · have target : (if (s.power.serviceFrom == .off) = true then PowerState.off else .standby) = s.power.serviceFrom := by
        obtain standby | off := origin
        · rw [standby]; rfl
        · rw [off]; rfl
      have ended := stepFour_waits_or_sleeps { off := s.power.serviceFrom == .off, step := 4, back := true }
        (s := raise 0x0E0A hPWR [n, powerCode s.power.serviceFrom] (advanceTo (s.power.wakeAt + tickS) s))
        (by rw [raise_power]; exact unwoken) (by rw [raise_power]; exact unasked)
      rw [target] at ended
      exact ended

/-- Settles O56: the timers begin their entries at the time they fire. -/
theorem sleepTimers : Obligations.SleepTimers := by
  refine fun s => ⟨fun timed quiet may canonical => ?_, fun timed asleep free idle unserved => ?_⟩
  · have runs : exec .standbyTimer s
        = .next (beginTransition false 1 (advanceTo (s.power.quietAt + cfg s hPWR Par.PWR_STANDBY_AFTER_S * tickS) s)) := by
      refine congrArg Host.Outcome.next (if_neg ?_)
      simp [timed, quiet, may]
    refine ⟨_, runs, beginTransition_transition may, beginTransition_lastCode may ((advanceTo_only ..).kept.canon canonical), ?_⟩
    exact (beginTransition_only ..).same .now rfl
  · have runs : exec .offTimer s
        = .next (startService 0 (noteEntry true 3
            { advanceTo (s.power.asleepAt + s.power.settings.offAfter * 60 * tickS) s with
              power.transition := some { off := true, step := 0 } })) := by
      show execOffTimer s = _
      unfold execOffTimer offFromStandby
      rw [if_neg (by simp [timed, asleep, free, idle, unserved]), if_neg (by simp [asleep, free, idle, unserved])]
    obtain ⟨service, step, -, transition, now⟩ := startService_wakes (n := 0) (s := noteEntry true 3
      { advanceTo (s.power.asleepAt + s.power.settings.offAfter * 60 * tickS) s with
        power.transition := some { off := true, step := 0 } }) (by rw [noteEntry_power]; exact asleep)
    refine ⟨_, runs, ?_, service, step, now.trans ((noteEntry_only ..).same .now rfl)⟩
    rw [transition, noteEntry_power]

end Sys2Proof.Machine
end

section
/-! SUPPORT. One result through the operations of the link, of the control ports and of events: what the operations write is other entries. -/

set_option Elab.async false

namespace Sys2Proof.Machine

/-! ### One entry of a result -/

/-- What leaves a unit alone leaves each entry of it alone. -/
theorem Spared.of_quiet {h q : Nat} {hs : List Nat} {s t : State} (quiet : Quiet hs s t) (unit : hs.contains h = false := by decide)
    (small : q < 4096 := by decide) : Spared h q s t :=
  ⟨quiet.canon, fun c i hi => quiet.same c h q i unit small hi⟩

theorem cell_ne_of_apart {h q h' q' i i' : Nat} (apart : h' ≠ h ∨ q' ≠ q) (small : q < 4096) (small' : q' < 4096)
    (hi : i < 4294967296) (hi' : i' < 4294967296) : cell h q i ≠ cell h' q' i' := by
  unfold cell
  omega

section
variable {h q h' q' : Nat} (s : State) (apart : h' ≠ h ∨ q' ≠ q) (small : q < 4096 := by decide) (small' : q' < 4096 := by decide)
include apart small small'

theorem Spared.setResAt {i' : Nat} (v : Int) (hi' : i' < 4294967296) : Spared h q s (Machine.setResAt h' q' i' v s) :=
  ⟨(setResAt_only ..).kept.canon, fun c _ hi => resI_setResAt_other v s c (cell_ne_of_apart apart small small' hi hi')⟩

theorem Spared.setRes (v : Nat) : Spared h q s (Machine.setRes h' q' v s) := .setResAt s apart small small' _ (by decide)

theorem Spared.changeRes (v : Nat) : Spared h q s (Machine.changeRes h' q' v s) := by
  unfold Machine.changeRes
  split
  · exact .refl s
  · exact .setRes s apart small small' v

theorem Spared.incSat (n : Nat) : Spared h q s (Machine.incSat h' q' n s) := by
  unfold Machine.incSat
  split
  · exact .refl s
  · exact .setRes s apart small small' _

theorem Spared.incSatAt {i' : Nat} (n : Nat) (hi' : i' < 4294967296) : Spared h q s (Machine.incSatAt h' q' i' n s) := by
  unfold Machine.incSatAt
  split
  · exact .refl s
  · exact .setResAt s apart small small' _ hi'

theorem Spared.incWrap (n : Nat) : Spared h q s (Machine.incWrap h' q' n s) := by
  unfold Machine.incWrap
  split
  · exact .refl s
  · exact .setRes s apart small small' _
end

/-- An array's elements, however many, lie above every entry of a lower unit. -/
theorem Spared.setResList {h q h' q' : Nat} (vs : List Int) (s : State) (above : h < h') (small : q < 4096 := by decide) :
    Spared h q s (Machine.setResList h' q' vs s) := by
  refine ⟨(setResList_only ..).kept.canon, fun c i hi => ?_⟩
  refine mget_mputList_outside 0 vs s.dict.res (cell h' q' 0) (cell h q i) (.inl ?_) c.results
  unfold cell
  omega

theorem Spared.raise {h q : Nat} (code handle : Nat) (data : List Nat) (s : State) (unit : logUnits.contains h = false := by decide)
    (small : q < 4096 := by decide) : Spared h q s (Machine.raise code handle data s) :=
  .of_quiet (raise_quiet ..) unit small

/-- What a settling writes of Stag's results is FAULT_CAUSES. -/
theorem Spared.settle_stag {q : Nat} (s : State) (other : Par.STAG_FAULT_CAUSES ≠ q) (small : q < 4096 := by decide) :
    Spared hSTAG q s (Machine.settle s) := by
  have shown (c : Nat) : Spared hSTAG q s (showFaults c s) :=
    .trans (.of_only (ps := [.resil]) (Only.upd_resil (Only.refl s))) (.setRes _ (.inr other) small (by decide) _)
  unfold Machine.settle
  extract_lets causes
  split
  · exact .refl s
  · split
    · exact (shown causes).trans (.raise _ _ _ _ (by decide) small)
    · split
      · exact (shown causes).trans (.raise _ _ _ _ (by decide) small)
      · exact shown causes

/-! ### The link and the control ports -/

/-- The link's state, and its code shown. -/
def phaseShown (p : LinkPhase) (s : State) : State :=
  changeRes hLINK Par.LINK_STATE (phaseCode p) { s with link.phase := p, link.since := s.now }

theorem setPhase_eq (p : LinkPhase) (s : State) : setPhase p s
    = showLanes (if p = .backoff then phaseShown p s else changeRes hLINK Par.LINK_BACKOFF 0 (phaseShown p s)) := rfl

/-- The receivers back, and no lane active. -/
def lanesDropped (reason : Nat) (s : State) : State :=
  dropLanes { restoreLanes s with link.reason := reason, link.carries := true }

theorem enterDetect_eq (reason : Nat) (s : State) : enterDetect reason s
    = auxPush 0 (capsMessage (lanesDropped reason s)) (showLink (setPhase .detect (lanesDropped reason s))) := rfl

section
variable {q : Nat} (small : q < 4096 := by decide)
include small

theorem showLane_stag (n : Nat) (s : State) : Spared hSTAG q s (showLane n s) := by
  have apart : hLANE n ≠ hSTAG := by unfold hLANE hSTAG; omega
  have above : hSTAG < hLANE n := by unfold hLANE hSTAG; omega
  unfold showLane
  extract_lets x ctle margin source inverted
  have shown : Spared hSTAG q s inverted := by
    refine .trans (.changeRes s (.inl apart) small (by decide) _) (show Spared hSTAG q ctle _ from ?_)
    refine .trans (.changeRes ctle (.inl apart) small (by decide) _) (show Spared hSTAG q margin _ from ?_)
    exact .trans (.changeRes margin (.inl apart) small (by decide) _) (.changeRes source (.inl apart) small (by decide) _)
  split
  · exact shown
  · exact shown.trans (.setResList _ _ above small)

theorem takeSnapshots_stag (s : State) : Spared hSTAG q s (takeSnapshots s) := by
  refine .foldl (fun t n => ?_) _ _
  split
  · exact .trans (.of_only (setLane_only ..)) (showLane_stag small ..)
  · exact .refl t

theorem showLink_stag (s : State) : Spared hSTAG q s (showLink s) := by
  have entry (p v : Nat) (small' : p < 4096) (t : State) : Spared hSTAG q t (changeRes hLINK p v t) :=
    .changeRes t (.inl (by decide)) small small' v
  unfold showLink showFit
  extract_lets act rate lanes payload map
  have shown : Spared hSTAG q s payload :=
    .trans (entry _ _ (by decide) s) (.trans (entry _ _ (by decide) rate) (entry _ _ (by decide) lanes))
  have mapped : Spared hSTAG q payload map := by
    subst map
    split
    · exact .refl payload
    · exact .setResList _ _ (by decide) small
  exact (shown.trans mapped).trans (.trans (entry _ _ (by decide) map) (entry _ _ (by decide) _))

theorem setPhase_stag (p : LinkPhase) (s : State) : Spared hSTAG q s (setPhase p s) := by
  have first : Spared hSTAG q s (phaseShown p s) :=
    .trans (.of_only (ps := [.link]) (Only.upd_link (Only.refl s))) (.changeRes _ (.inl (by decide)) small (by decide) _)
  have waited : Spared hSTAG q (phaseShown p s) (if p = .backoff then phaseShown p s else changeRes hLINK Par.LINK_BACKOFF 0 (phaseShown p s)) := by
    split
    · exact .refl _
    · exact .changeRes _ (.inl (by decide)) small (by decide) _
  rw [setPhase_eq]
  refine (first.trans waited).trans (.foldl (fun t n => ?_) _ _)
  exact .changeRes t (.inl (by unfold hLANE hSTAG; omega)) small (by decide) _

theorem auxPush_stag (channel : Nat) (payload : List Nat) (s : State) : Spared hSTAG q s (auxPush channel payload s) :=
  .trans (.of_only (ps := [.aux]) (Only.upd_aux (Only.refl s))) (.of_quiet (auxPump_traffic _).quiet (by decide) small)

theorem enterDetect_stag (reason : Nat) (s : State) : Spared hSTAG q s (enterDetect reason s) := by
  have powered : Only [.link] (takeSnapshots s) (restoreLanes s) := Only.upd_link (Only.refl _)
  have idled : Only [.link] (takeSnapshots s) (lanesDropped reason s) := (dropLanes_only _).after (Only.upd_link powered)
  have restored : Spared hSTAG q s (lanesDropped reason s) := (takeSnapshots_stag small s).trans (.of_only idled)
  have shown : Spared hSTAG q (lanesDropped reason s) (showLink (setPhase .detect (lanesDropped reason s))) :=
    .trans (setPhase_stag small ..) (showLink_stag small _)
  rw [enterDetect_eq]
  exact (restored.trans shown).trans (auxPush_stag small ..)

theorem enablePort_stag (i : PortId) (s : State) : Spared hSTAG q s (enablePort i s) := by
  unfold enablePort
  extract_lets p
  split
  · exact .refl s
  · exact .trans (.of_only (setPort_only ..)) (.of_quiet (announceCredits_traffic ..).quiet (by decide) small)
end

end Sys2Proof.Machine
end

section
/-! SUPPORT. VCORE (18, R463 to R465): its ramp and its search, and the regulator's reports. -/

set_option Elab.async false

namespace Sys2Proof.Machine

/-- A settling leaves of the resilience record all but the causes of FAULT_N and the pin. -/
theorem settle_resil (s : State) : ∃ faults pin, (settle s).resil = { s.resil with faults := faults, faultN := pin } := by
  unfold settle
  dsimp only
  split
  · exact ⟨_, _, rfl⟩
  · split
    · exact ⟨_, _, raise_resil⟩
    · split
      · exact ⟨_, _, raise_resil⟩
      · exact ⟨_, _, rfl⟩

/-- The start-up's step 6 as far as its units are up. -/
def bankAwaited (s : State) : State :=
  settle (unitsUp 0x810 { s with power.phase := .smallBank, power.failed := false, power.tries := 0 })

theorem afterTraining_waits {s : State} (waits : s.resil.searching = true ∨ s.resil.avs.isSome = true) : afterTraining s = s := by
  unfold afterTraining
  exact if_pos (by obtain search | write := waits <;> simp [*])

/-- Step 6 opens the link and the ports where the wait of training is over. -/
theorem afterTraining_cases (s : State) : afterTraining s = s ∨ afterTraining s
    = enablePort .sideband (enablePort .field (enablePort .host (setRequest 0 (enterDetect 0 (bankAwaited s))))) := by
  unfold afterTraining
  split
  · exact .inl rfl
  · exact .inr rfl

/-- The end of training leaves of the resilience record all but the causes of FAULT_N. -/
theorem afterTraining_resil (s : State) :
    ∃ faults pin held, (afterTraining s).resil = { s.resil with faults := faults, faultN := pin, held := held } := by
  obtain waits | goes := afterTraining_cases s
  · exact ⟨_, _, _, congrArg State.resil waits⟩
  · obtain ⟨faults, pin, settled⟩ := settle_resil (unitsUp 0x810 { s with power.phase := .smallBank, power.failed := false, power.tries := 0 })
    refine ⟨faults, pin, s.resil.held - Nat.land s.resil.held 0x810, ?_⟩
    rw [goes, (enablePort_only ..).same .resil rfl, (enablePort_only ..).same .resil rfl, (enablePort_only ..).same .resil rfl,
      (setRequest_only ..).same .resil rfl, (enterDetect_only ..).same .resil rfl]
    exact settled

theorem afterTraining_stag {q : Nat} (s : State) (other : Par.STAG_FAULT_CAUSES ≠ q) (small : q < 4096 := by decide) :
    Spared hSTAG q s (afterTraining s) := by
  obtain waits | goes := afterTraining_cases s
  · rw [waits]
    exact .refl s
  · have awaited : Spared hSTAG q s (bankAwaited s) :=
      .trans (.of_only (ps := [.power, .resil]) (Only.upd_resil (Only.upd_power (Only.refl s)))) (.settle_stag _ other small)
    have asked : Spared hSTAG q s (setRequest 0 (enterDetect 0 (bankAwaited s))) :=
      awaited.trans (.trans (enterDetect_stag small ..) (.of_only (setRequest_only ..)))
    rw [goes]
    exact asked.trans (.trans (enablePort_stag small ..) (.trans (enablePort_stag small ..) (enablePort_stag small ..)))

/-! ### The ramp and the search -/

theorem vcoreSearch_running {s : State} (search : s.resil.searching = true) (idle : s.resil.avs = none) :
    vcoreSearch s
      = if (margins s (required s (modeNow s)) (·.last) s.pipe.standLast).any (fun x =>
            decide (x.2 < cfg s hSTAG Par.STAG_MARGIN_LOWER)) = true then
          (if s.resil.vcore < 900 then commandVcore (s.resil.vcore + 5) { s with resil.searching := false }
            else { s with resil.searching := false })
        else if s.resil.vcore ≤ cfg s hSTAG Par.STAG_VCORE_FLOOR then { s with resil.searching := false }
        else commandVcore (s.resil.vcore - 5) s := by
  unfold vcoreSearch
  exact if_neg (by simp [search, idle])

/-- Settles O51: the ramp and the search, by what the margins say of the step. -/
theorem vcoreRampAndSearch : Obligations.VcoreRampAndSearch := by
  refine fun s => ⟨fun req ramping => ?_, fun search idle => ?_⟩
  · intro short
    have runs : exec .vcoreRampStep s = .next (if short ∧ s.resil.vcore < vcoreCeiling s then commandVcore (s.resil.vcore + 5) s
        else { s with resil.ramp := none }) := by
      show execVcoreRampStep s = _
      unfold execVcoreRampStep
      rw [ramping]
    refine ⟨fun isShort below => ⟨_, runs, ?_⟩, fun done => ⟨_, runs, ?_⟩⟩
    · rw [if_pos ⟨isShort, below⟩]
      exact ⟨rfl, rfl, ramping⟩
    · rw [if_neg (fun more => done.elim (fun enough => absurd more.1 (ne_true_of_eq_false enough)) (not_le.2 more.2))]
      exact ⟨rfl, rfl⟩
  · intro low
    refine ⟨_, rfl, ?_⟩
    rw [vcoreSearch_running search idle]
    by_cases isLow : low = true
    · rw [if_pos isLow, if_pos isLow]
      by_cases below : s.resil.vcore < 900
      · rw [if_pos below, afterTraining_waits (.inr rfl)]
        exact ⟨rfl, fun _ => ⟨rfl, rfl⟩⟩
      · rw [if_neg below]
        obtain ⟨_, _, _, kept⟩ := afterTraining_resil { s with resil.searching := false }
        rw [kept]
        exact ⟨rfl, fun under => absurd under below⟩
    · rw [if_neg isLow, if_neg isLow]
      by_cases floor : s.resil.vcore ≤ cfg s hSTAG Par.STAG_VCORE_FLOOR
      · rw [if_pos floor, if_neg (not_lt.2 floor)]
        obtain ⟨_, _, _, kept⟩ := afterTraining_resil { s with resil.searching := false }
        rw [kept]
        exact ⟨rfl, rfl⟩
      · rw [if_neg floor, if_pos (not_le.1 floor), afterTraining_waits (.inr rfl)]
        exact ⟨rfl, rfl, search⟩

/-! ### The regulator's reports -/

/-- A change of POWER_STATE shows the state and tells of it. -/
theorem enterState_cases (p : PowerState) (s : State) : enterState p s = s
    ∨ ∃ w from_, enterState p s = raise 0x0E01 hPWR [from_, powerCode p] (changeRes hDEV Par.DEV_POWER_STATE (powerCode p) { s with power := w }) := by
  unfold enterState
  split
  · exact .inl rfl
  · exact .inr ⟨_, _, rfl⟩

theorem enterState_stag {q : Nat} (p : PowerState) (s : State) (small : q < 4096 := by decide) : Spared hSTAG q s (enterState p s) := by
  obtain same | ⟨w, from_, changed⟩ := enterState_cases p s
  · rw [same]
    exact .refl s
  · have begun : Spared hSTAG q s { s with power := w } := .of_only (ps := [.power]) (Only.upd_power (Only.refl s))
    rw [changed]
    exact begun.trans (.trans (.changeRes _ (.inl (by decide)) small (by decide) _) (.raise _ _ _ _ (by decide) small))

theorem advanceWake_stag {q : Nat} (s : State) (small : q < 4096 := by decide) : Spared hSTAG q s (advanceWake s) := by
  have on : Only [.sram, .power] s { s with power.wakeStep := 2, power.tries := 0, sram.accessible := true } :=
    Only.upd_sram_power (Only.refl s)
  unfold advanceWake
  split
  · exact .refl s
  · dsimp only
    split
    · exact .of_only on
    · exact .trans (.of_only on) (.trans (enterState_stag _ _ small) (.of_only (runOperating_only _)))

theorem advanceWake_resil (s : State) : (advanceWake s).resil = s.resil := (advanceWake_only s).same .resil rfl

/-- What a report of the regulator moves on: a wake in its first step, or the end of training. -/
theorem avsMovesOn {q : Nat} (s : State) (other : Par.STAG_FAULT_CAUSES ≠ q) (small : q < 4096 := by decide) :
    let t := if s.power.wakeStep = 1 then advanceWake { s with power.vcoreOk := true } else afterTraining s
    Spared hSTAG q s t ∧ t.resil.avs = s.resil.avs ∧ t.resil.confirmed = s.resil.confirmed := by
  intro t
  subst t
  split
  · refine ⟨.trans (.of_only (ps := [.power]) (Only.upd_power (Only.refl s))) (advanceWake_stag _ small), ?_, ?_⟩
      <;> rw [advanceWake_resil]
  · obtain ⟨_, _, _, kept⟩ := afterTraining_resil s
    refine ⟨afterTraining_stag s other small, ?_, ?_⟩ <;> rw [kept]

theorem vcoreMissed_again {s : State} {mv n : Nat} (write : s.resil.avs = some (mv, n)) (few : n < 2) :
    vcoreMissed s = { s with resil.avs := some (mv, n + 1) } := by
  unfold vcoreMissed
  rw [write]
  exact if_pos few

theorem vcoreMissed_fails {s : State} {mv n : Nat} (write : s.resil.avs = some (mv, n)) (many : 2 ≤ n) :
    vcoreMissed s = raise 0x0D0A hSTAG (u16 mv ++ u16 s.resil.confirmed) (incSat hSTAG Par.STAG_AVS_ERRORS 1 { s with
      resil.avs := none, resil.vcoreOk := s.resil.confirmed, resil.vcore := s.resil.confirmed, resil.avsBad := true }) := by
  unfold vcoreMissed
  rw [write]
  dsimp only
  rw [if_neg (not_lt.2 many)]
  simp only [incSat_resil]

end Sys2Proof.Machine
end

section
/-! SUPPORT. The monitors' reports, their periods, and the regulator's reports (18, R458 to R464): what a period writes of Stag's results
is not PERIODS. -/

set_option Elab.async false

namespace Sys2Proof.Machine

/-! ### The reports of the monitors -/

theorem standUnit (st : Nat) (stand : st < 8) : isTile (hSTAND st) = false ∧ classOf (hSTAND st) = 13 := by
  have all : ∀ st < 8, isTile (hSTAND st) = false ∧ classOf (hSTAND st) = 13 := by decide +kernel
  exact all st stand

theorem execMonitorMeasurement_tile {s : State} {u cyc : Nat} (on : fabricOn s = true) (unserved : s.power.service = none)
    (isTiles : isTile u = true) :
    execMonitorMeasurement u cyc s = .next (setTile ((u - 0x0200) / 16) (u % 16)
      { tile s ((u - 0x0200) / 16) (u % 16) with
        tcyc := max (tile s ((u - 0x0200) / 16) (u % 16)).tcyc cyc, last := cyc } s) := by
  unfold execMonitorMeasurement
  rw [if_neg (by simp [on, unserved]), if_pos isTiles]

theorem execMonitorMeasurement_stand {s : State} {st cyc : Nat} (on : fabricOn s = true) (unserved : s.power.service = none)
    (stand : st < 8) :
    execMonitorMeasurement (hSTAND st) cyc s = .next { s with
      pipe.standCyc := mput 0 s.pipe.standCyc st (max (mget 0 s.pipe.standCyc st) cyc)
      pipe.standLast := mput 0 s.pipe.standLast st cyc } := by
  obtain ⟨noTile, isStand⟩ := standUnit st stand
  have number : hSTAND st - 0x0110 = st := Nat.add_sub_cancel_left ..
  unfold execMonitorMeasurement
  rw [if_neg (by simp [on, unserved]), if_neg (ne_true_of_eq_false noTile), if_pos isStand, number]

/-! ### PERIODS through a period -/

/-- PERIODS is as it was. -/
abbrev PeriodsKept (s t : State) : Prop := Spared hSTAG Par.STAG_PERIODS s t

/-- A unit of the pixel path is not Stag. -/
theorem tileUnit_ne (st n : Nat) : hTILE st n ≠ hSTAG := by unfold hTILE hSTAG; omega

theorem standUnit_ne (st : Nat) : hSTAND st ≠ hSTAG := by unfold hSTAND hSTAG; omega

theorem setTile_periods (st n : Nat) (x : TileSt) (s : State) : PeriodsKept s (setTile st n x s) :=
  .of_only (setTile_only ..)

theorem showSpare_periods (st : Nat) (s : State) : PeriodsKept s (showSpare st s) := by
  refine .trans (.changeRes s (.inl (standUnit_ne st)) (by decide) (by decide) _) (.foldl (fun t n => ?_) _ _)
  exact .changeRes t (.inl (tileUnit_ne _ _)) (by decide) (by decide) _

theorem slotsShown_periods (st : Nat) (s : State) : PeriodsKept s (slotsShown st s) := by
  unfold slotsShown takeOver
  refine .trans ?_ (showSpare_periods ..)
  split
  · split
    · exact .refl s
    · exact .trans (.of_only (ps := [.pipe]) (Only.upd_pipe (Only.refl s))) (showSpare_periods ..)
  · exact .refl s

theorem raise_periods (code handle : Nat) (data : List Nat) (s : State) : PeriodsKept s (raise code handle data s) := .raise ..

/-- A counter of Stag other than PERIODS counts. -/
theorem stagCount_periods {p : Nat} (other : p ≠ Par.STAG_PERIODS) (small : p < 4096) (s : State) : PeriodsKept s (incSat hSTAG p 1 s) :=
  .incSat s (.inr other) (by decide) small 1

theorem fellNow_periods (st n cause : Nat) (s : State) : PeriodsKept s (fellNow st n cause s) := by
  have recorded : PeriodsKept s (fellRecord (hTILE st n) 1 cause 0 (tileMarked st n s)) :=
    .trans (.of_only (tileMarked_only ..)) (.of_quiet (fellRecord_quiet ..))
  have felled : PeriodsKept s (tileFelled st n cause s) :=
    recorded.trans (stagCount_periods (p := Par.STAG_FELLINGS) (by decide) (by decide) _)
  rw [fellNow_eq]
  exact felled.trans (.trans (raise_periods ..) (slotsShown_periods ..))

theorem withhold_periods (st n cause why : Nat) (s : State) : PeriodsKept s (withhold st n cause why s) := by
  unfold withhold
  dsimp only
  exact .trans (setTile_periods ..)
    (.trans (stagCount_periods (p := Par.STAG_WITHHELD) (by decide) (by decide) _) (raise_periods ..))

theorem fellTile_periods (st n cause : Nat) (s : State) : PeriodsKept s (fellTile st n cause s) := by
  unfold fellTile
  dsimp only
  split
  · exact .refl s
  · split
    · exact withhold_periods ..
    · split
      · exact withhold_periods ..
      · split
        · exact withhold_periods ..
        · exact fellNow_periods ..

theorem decideAfresh_periods (s : State) : PeriodsKept s (decideAfresh s).2 := by
  refine Spared.foldl_snd (fun x y => ?_) (withheldTiles s) (false, s)
  dsimp only
  split
  · exact .refl x.2
  · exact fellTile_periods ..

theorem showModeLimit_periods (limit : Option (Nat × Nat × Nat)) (s : State) : PeriodsKept s (showModeLimit limit s) := by
  unfold showModeLimit
  dsimp only
  split
  · exact .of_only (ps := [.pipe, .resil]) (Only.upd_pipe_resil (Only.refl s))
  · split
    · exact .of_only (ps := [.pipe, .resil]) (Only.upd_pipe_resil (Only.refl s))
    · exact .trans (.of_only (ps := [.pipe, .resil]) (Only.upd_pipe_resil (Only.refl s))) (raise_periods ..)

/-- A step of VCORE, counted in another entry and told. -/
theorem vcoreStep_periods {p : Nat} (code unit mv : Nat) (data : List Nat) (s : State) (other : p ≠ Par.STAG_PERIODS) (small : p < 4096) :
    PeriodsKept s (raise code unit data (incSat hSTAG p 1 (commandVcore mv { s with resil.low := 0 }))) :=
  .trans (.of_only (ps := [.resil]) ((commandVcore_only ..).after (Only.upd_resil (Only.refl s))))
    (.trans (stagCount_periods other small _) (raise_periods ..))

theorem marginStep_periods (s : State) : PeriodsKept s (marginStep s) := by
  have counter {p : Nat} (v : Nat) (t : State) (other : p ≠ Par.STAG_PERIODS) (small : p < 4096) : PeriodsKept t (setRes hSTAG p v t) :=
    .setRes t (.inr other) (by decide) small v
  unfold marginStep
  dsimp only
  split
  · exact .refl s
  next u m found =>
    generalize shown : setRes hSTAG Par.STAG_MIN_MARGIN_UNIT u (setRes hSTAG Par.STAG_MIN_MARGIN m s) = x
    have showing : PeriodsKept s x := by
      subst shown
      exact .trans (counter _ _ (by decide) (by decide)) (counter _ _ (by decide) (by decide))
    refine showing.trans ?_
    split
    · exact .trans (showModeLimit_periods ..) (fellTile_periods ..)
    · generalize limited : showModeLimit _ x = y
      have limiting : PeriodsKept x y := by
        subst limited
        exact showModeLimit_periods ..
      refine limiting.trans ?_
      split
      · split
        · exact vcoreStep_periods (p := Par.STAG_STEPS_UP) _ _ _ _ _ (by decide) (by decide)
        · exact .refl y
      · split
        · split
          · exact vcoreStep_periods (p := Par.STAG_STEPS_DOWN) _ _ _ _ _ (by decide) (by decide)
          · exact .of_only (ps := [.resil]) (Only.upd_resil (Only.refl y))
        · exact .of_only (ps := [.resil]) (Only.upd_resil (Only.refl y))

theorem fellSpare_periods (s : State) : PeriodsKept s (fellSpare s) := by
  unfold fellSpare
  split
  · exact .refl s
  · dsimp only
    split
    · exact fellNow_periods ..
    · exact .refl s

theorem periodAction_periods (s : State) : PeriodsKept s (periodAction s) := by
  have decided := decideAfresh_periods s
  have stepped : PeriodsKept (decideAfresh s).2 (marginStep (dropWithheld (decideAfresh s).2)) :=
    .trans (.of_only (dropWithheld_only _)) (marginStep_periods _)
  unfold periodAction
  dsimp only
  split
  · exact decided
  · split
    · exact decided.trans stepped
    · exact (decided.trans stepped).trans (fellSpare_periods _)

theorem markFailed_periods (s : State) : PeriodsKept s (markFailed s) := by
  have marked : PeriodsKept s ((activeTiles s).foldl (fun s a =>
      let x := tile s a.1 a.2
      if x.tcyc = 0 then s
      else if 4096 ≤ x.margin then setTile a.1 a.2 { x with failed := false } s
      else if s.resil.vcore < vcoreCeiling s ∨ x.failed = true then s
      else raise 0x0D0F (hTILE a.1 a.2) (u16 (hTILE a.1 a.2) ++ u16 x.margin) (setTile a.1 a.2 { x with failed := true } s)) s) := by
    refine .foldl (fun t a => ?_) _ _
    dsimp only
    split
    · exact .refl t
    · split
      · exact setTile_periods ..
      · split
        · exact .refl t
        · exact .trans (setTile_periods ..) (raise_periods ..)
  exact marked.trans (.trans (.of_only (unitsUp_only ..)) (.settle_stag _ (by decide)))

theorem showMargins_periods (req : Nat) (s : State) : PeriodsKept s (showMargins req s) := by
  unfold showMargins
  refine .foldl (fun t st => ?_) _ _
  have stand (p v : Nat) (small : p < 4096) (t : State) : PeriodsKept t (setRes (hSTAND st) p v t) :=
    .setRes t (.inl (standUnit_ne st)) (by decide) small v
  generalize tiles : (List.range 9).foldl _ t = x
  have shown : PeriodsKept t x := by
    subst tiles
    refine .foldl (fun t n => ?_) _ _
    dsimp only
    have entry (p : Nat) (v : Int) (small : p < 4096) (t : State) : PeriodsKept t (setResAt (hTILE st n) p 0 v t) :=
      .setResAt t (.inl (tileUnit_ne st n)) (by decide) small v (by decide)
    split
    · exact .refl t
    · refine .trans ?_ (setTile_periods ..)
      exact .trans (entry _ _ (by decide) t) (.trans (entry _ _ (by decide) _) (entry _ _ (by decide) _))
  refine shown.trans ?_
  dsimp only
  split
  · exact .refl x
  · exact .trans (stand _ _ (by decide) x) (stand _ _ (by decide) _)

/-! ### The end of a period -/

/-- The period's results shown, and the period counted. -/
def periodCounted (s : State) : State :=
  let s := advanceTo (s.resil.periodAt + 10 * tickS) s
  incWrap hSTAG Par.STAG_PERIODS 1 (showMargins (required s (modeNow s)) s)

/-- A period's end: counted, acted on, its tiles marked, and the next begun. -/
def periodEnded (s : State) : State :=
  let t := markFailed (periodAction (periodCounted s))
  clearPeriod { t with resil.periodAt := t.now }

theorem execMarginPeriod_ends {s : State} (on : fabricOn s = true) (unserved : s.power.service = none)
    (settled : s.power.transition = none) : execMarginPeriod s = .next (periodEnded s) := by
  unfold execMarginPeriod
  exact congrArg Host.Outcome.next (if_neg (by simp [on, unserved, settled]))

theorem periodCounted_only (s : State) : Only [.now, .results, .pipe] s (periodCounted s) :=
  (incWrap_only ..).step rfl ((showMargins_only ..).step rfl ((advanceTo_only ..).mono rfl))

theorem periodEnded_now (s : State) : (periodEnded s).now = max s.now (s.resil.periodAt + 10 * tickS) := by
  calc (periodEnded s).now
      = (markFailed (periodAction (periodCounted s))).now := (clearPeriod_only _).same .now rfl
    _ = (periodAction (periodCounted s)).now := (markFailed_only _).same .now rfl
    _ = (periodCounted s).now := (periodAction_only _).same .now rfl
    _ = (advanceTo (s.resil.periodAt + 10 * tickS) s).now :=
      ((incWrap_only ..).same .now rfl).trans ((showMargins_only ..).same .now rfl)

theorem periodEnded_begins (s : State) : (periodEnded s).resil.periodAt = (periodEnded s).now := by
  unfold periodEnded
  generalize markFailed (periodAction (periodCounted s)) = t
  rfl

theorem periodCounted_counts {s : State} (canonical : s.Canonical) :
    res (periodCounted s) hSTAG Par.STAG_PERIODS = (res s hSTAG Par.STAG_PERIODS + 1) % w32 := by
  have shown : PeriodsKept s (showMargins (required (advanceTo (s.resil.periodAt + 10 * tickS) s)
      (modeNow (advanceTo (s.resil.periodAt + 10 * tickS) s))) (advanceTo (s.resil.periodAt + 10 * tickS) s)) :=
    .trans (.of_only (advanceTo_only ..)) (showMargins_periods ..)
  unfold periodCounted
  rw [res_incWrap_self _ _ _ _ (shown.canon canonical) one_ne_zero, shown.res canonical (by decide)]

theorem periodEnded_counts {s : State} (canonical : s.Canonical) :
    res (periodEnded s) hSTAG Par.STAG_PERIODS = (res s hSTAG Par.STAG_PERIODS + 1) % w32 := by
  have acted : PeriodsKept (periodCounted s) (periodEnded s) := by
    refine (periodAction_periods _).trans ((markFailed_periods _).trans ?_)
    exact .trans (.of_only (ps := [.resil]) (Only.upd_resil (Only.refl _))) (.of_only (clearPeriod_only _))
  rw [acted.res ((periodCounted_only s).kept.canon canonical) (by decide), periodCounted_counts canonical]

/-- Settles O50: the monitors' reports, the end of a period, and the regulator's reports. -/
theorem monitorsAndRegulator : Obligations.MonitorsAndRegulator := by
  refine fun s canonical => ⟨fun u cyc on unserved => ⟨fun isTiles tiles => ?_, fun st stand unit last cycles => ?_⟩,
    fun on unserved settled => ?_, fun mv n write => ?_, fun mv n write few => ?_, fun mv n write many => ?_⟩
  · refine ⟨_, execMonitorMeasurement_tile on unserved isTiles, ?_⟩
    rw [tile_setTile _ _ _ tiles]
    exact ⟨rfl, rfl⟩
  · subst unit
    exact ⟨_, execMonitorMeasurement_stand on unserved stand, mget_mput_self _ _ _ _ last, mget_mput_self _ _ _ _ cycles⟩
  · exact ⟨_, execMarginPeriod_ends on unserved settled, periodEnded_counts canonical, periodEnded_begins s, periodEnded_now s⟩
  · have runs : exec (.avsStatus mv) s = .next (if (vcoreConfirmed mv s).power.wakeStep = 1 then
        advanceWake { vcoreConfirmed mv s with power.vcoreOk := true } else afterTraining (vcoreConfirmed mv s)) := by
      show execAvsStatus mv s = _
      unfold execAvsStatus
      rw [write]
      dsimp only
      rw [if_neg (not_not.2 rfl)]
    have confirmed := (vcoreConfirmed_only mv s).kept.canon canonical
    have shown : res (vcoreConfirmed mv s) hSTAG Par.STAG_VCORE_MV = mv := by
      refine res_changeRes_self _ _ _ _ ?_
      exact (Only.upd_resil (ps := [.resil]) (Only.refl s)).kept.canon canonical
    obtain ⟨kept, avs, last⟩ := avsMovesOn (q := Par.STAG_VCORE_MV) (vcoreConfirmed mv s) (by decide)
    refine ⟨_, runs, avs.trans ?_, last.trans ?_, (kept.res confirmed (by decide)).trans shown⟩
    · unfold vcoreConfirmed
      rw [changeRes_resil]
    · unfold vcoreConfirmed
      rw [changeRes_resil]
  · have waits : afterTraining { s with resil.avs := some (mv, n + 1) } = { s with resil.avs := some (mv, n + 1) } :=
      afterTraining_waits (.inr rfl)
    refine ⟨_, rfl, ?_⟩
    dsimp only
    rw [vcoreMissed_again write few, waits, ite_self]
  · have failed := vcoreMissed_fails write many
    have readied : Only [.resil] s { s with
        resil.avs := none, resil.vcoreOk := s.resil.confirmed, resil.vcore := s.resil.confirmed, resil.avsBad := true } :=
      Only.upd_resil (Only.refl s)
    have counted : res (vcoreMissed s) hSTAG Par.STAG_AVS_ERRORS = min (res s hSTAG Par.STAG_AVS_ERRORS + 1) max32 := by
      rw [failed, res_raise _ _ _ _ ((incSat_only ..).kept.canon (readied.kept.canon canonical)) (by decide) (by decide) (by decide)]
      exact res_incSat_one _ _ (readied.kept.canon canonical)
    have resil : (vcoreMissed s).resil.avs = none ∧ (vcoreMissed s).resil.vcore = s.resil.confirmed := by
      rw [failed, raise_resil, incSat_resil]
      exact ⟨rfl, rfl⟩
    have ends : Spared hSTAG Par.STAG_AVS_ERRORS (vcoreMissed s)
        (if (vcoreMissed s).power.wakeStep = 1 then vcoreMissed s else afterTraining (vcoreMissed s)) ∧
        ∃ faults pin held, (if (vcoreMissed s).power.wakeStep = 1 then vcoreMissed s else afterTraining (vcoreMissed s)).resil
          = { (vcoreMissed s).resil with faults := faults, faultN := pin, held := held } := by
      split
      · exact ⟨.refl _, _, _, _, rfl⟩
      · exact ⟨afterTraining_stag _ (by decide), afterTraining_resil _⟩
    obtain ⟨kept, _, _, _, same⟩ := ends
    refine ⟨_, rfl, ?_, ?_, (kept.res ((vcoreMissed_only s).kept.canon canonical) (by decide)).trans counted⟩
    · exact (congrArg ResilSt.avs same).trans resil.1
    · exact (congrArg ResilSt.vcore same).trans resil.2

end Sys2Proof.Machine
end

section
/-! SUPPORT. The steps of a start-up (19, Table 19.3): what each leaves of the power record, of the store's state and of the panel. -/

set_option Elab.async false

namespace Sys2Proof.Machine

/-! ### The release of reset and the boot ROM -/

theorem release_begins (hostsel : Bool) (node : Nat) (xin : Bool) (s : State) :
    let t := release hostsel node xin s
    t.power.phase = .reference ∧ t.pins = ⟨hostsel, node, xin⟩ ∧ t.epoch = s.now ∧ t.power.state = .self := by
  unfold release
  extract_lets +onlyGivenNames dict power begun first caused clocked shown since awake
  have begins : Only [.results] begun shown :=
    ((((changeRes_only ..).after (changeRes_only ..)).after ((setResList_only ..).after (setRes_only ..))).after (setRes_only ..)).after
      (putFirst_only ..)
  clear_value shown
  have pins : awake.pins = shown.pins := by
    subst awake
    split
    · exact (setRes_only ..).same .pins rfl
    · exact (enterState_only ..).same .pins rfl
  have epoch : awake.epoch = shown.epoch := by
    subst awake
    split
    · exact (setRes_only ..).same .epoch rfl
    · exact (enterState_only ..).same .epoch rfl
  have powered : awake.power.phase = shown.power.phase ∧ awake.power.state = .self := by
    subst awake
    split
    next self =>
      rw [(setRes_only ..).same .power rfl]
      exact ⟨rfl, self⟩
    · obtain ⟨_, _, _, same⟩ := enterState_power .self shown
      rw [same]
      exact ⟨rfl, rfl⟩
  dsimp only
  rw [raise_power, raise_pins, raise_epoch, pins, epoch, powered.1, powered.2, begins.same .power rfl, begins.same .pins rfl,
    begins.same .epoch rfl]
  exact ⟨rfl, rfl, rfl, rfl⟩

/-- The SRAM reads zero everywhere, with no word poisoned. -/
structure SramCleared (s : State) : Prop where
  on     : s.sram.accessible = true
  mem    : s.sram.mem = []
  poison : s.sram.poison = []

theorem SramCleared.of_results {s t : State} (cleared : SramCleared s) (only : Only [.results] s t) : SramCleared t := by
  have same := only.sram rfl rfl
  exact ⟨same ▸ cleared.on, same ▸ cleared.mem, same ▸ cleared.poison⟩

theorem clearSram_cleared (s : State) : SramCleared (clearSram s) := by
  unfold clearSram
  refine SramCleared.of_results ⟨rfl, rfl, rfl⟩ (Only.foldl (fun t b shown => ?_) _ _ (Only.refl _))
  exact (changeRes_only ..).after shown

theorem initSram_cleared (s : State) : SramCleared (initSram s) := by
  unfold initSram
  extract_lets +onlyGivenNames rows x cleared repaired
  have start : SramCleared cleared := clearSram_cleared _
  have rowsIn : SramCleared repaired :=
    List.foldlRecOn rows _ (motive := SramCleared) start fun t kept _ _ => ⟨kept.on, kept.mem, kept.poison⟩
  exact rowsIn.of_results (Only.foldl (fun t b shown => (setResList_only ..).after shown) _ _ (Only.refl _))

theorem bootFirmware_power (s : State) : (bootFirmware s).power = s.power := (bootFirmware_only s).same .power rfl

theorem bootFirmware_running (s : State) : (bootFirmware s).stag.running = s.stag.running := by
  unfold bootFirmware
  split
  next b chosen =>
    unfold startImage
    dsimp only
    rw [raise_stag_running, (showFirmware_only _).stag_running rfl, changeRes_stag_running, changeRes_stag_running, changeRes_stag_running]
    exact ((loadBody_only ..).stag_running rfl).trans ((setFwSlot_only ..).stag_running rfl)
  · unfold enterRecovery
    dsimp only
    rw [settle_stag_running, raise_stag_running, (showFirmware_only _).stag_running rfl, changeRes_stag_running, changeRes_stag_running,
      changeRes_stag_running]

/-! ### The reading of the store -/

theorem power_ite {c : Prop} [Decidable c] {s a b : State} (yes : a.power = s.power) (no : b.power = s.power) :
    (if c then a else b).power = s.power := by
  split
  · exact yes
  · exact no

/-- A commit leaves of the power record all but the wake settings. -/
theorem applyCommit_power (c : Commit) (s : State) : ∃ w, (applyCommit c s).power = { s.power with settings := w } := by
  unfold applyCommit
  extract_lets +onlyGivenNames was a limit residual maps patched b change r0 timed r1 geo rebuilt swept p0 gained linked lut mask masters p1 asked
    shown rated defects counted
  have h0 : patched.power = s.power := ((applyPatch_only ..).same .power rfl).trans ((applyMaps_only ..).same .power rfl)
  have h1 : timed.power = patched.power := power_ite rfl ((timingChange_only ..).same .power rfl)
  have h2 : geo.power = timed.power := power_ite rfl rfl
  have h3 : rebuilt.power = geo.power :=
    power_ite rfl (power_ite ((startRebuild_only ..).same .power rfl) (power_ite ((startRebuild_only ..).same .power rfl) rfl))
  have h4 : swept.power = rebuilt.power := power_ite ((abandonSweep_only ..).same .power rfl) rfl
  have h5 : gained.power = swept.power := power_ite rfl rfl
  have h6 : linked.power = gained.power := (linkCommit_only ..).same .power rfl
  have h7 : masters.power = linked.power := power_ite ((writeMasters_only ..).same .power rfl) rfl
  have h8 : asked.power = masters.power := power_ite rfl rfl
  have h9 : shown.power = asked.power := (showGeometry_only ..).same .power rfl
  have h10 : rated.power = shown.power := power_ite ((chooseRate_only ..).same .power rfl) rfl
  have h11 : defects.power = rated.power := power_ite ((showDefects_only ..).same .power rfl) rfl
  have h12 : counted.power = defects.power := by
    subst counted
    split
    · exact ((incWrap_only ..).same .power rfl).trans ((setRes_only ..).same .power rfl)
    · rfl
  have h13 : (linkRefit (stressRateCheck counted)).power = counted.power :=
    ((linkRefit_only ..).same .power rfl).trans ((stressRateCheck_only ..).same .power rfl)
  have kept : (linkRefit (stressRateCheck counted)).power = s.power := by
    rw [h13, h12, h11, h10, h9, h8, h7, h6, h5, h4, h3, h2, h1, h0]
  refine ⟨(keepWake (linkRefit (stressRateCheck counted))).power.settings, ?_⟩
  rw [(showSweep_only _).same .power rfl, (clipRefs_only _).same .power rfl, ← kept]
  rfl

/-- The records of the store, read one kind after the other. -/
def recordsRead (s : State) : Nat × Option Nat × State := readLog (readImage (readTallies (readRepairs (readBlaze (readIdentity s)))))

theorem storeRead_eq (s : State) : storeRead s
    = storeShown (storeServes (recordsRead s).1 (applyImage (startOperating (recordsRead s).2.1 (recordsRead s).2.2))) := by
  unfold storeRead recordsRead
  generalize readLog (readImage (readTallies (readRepairs (readBlaze (readIdentity s))))) = x
  obtain ⟨h, last, t⟩ := x
  rfl

theorem recordsRead_power (s : State) : (recordsRead s).2.2.power = s.power := by
  unfold recordsRead
  rw [(readLog_only _).same .power rfl, (readImage_only _).same .power rfl, (readTallies_only _).same .power rfl,
    (readRepairs_only _).same .power rfl, (readBlaze_only _).same .power rfl, (readIdentity_only _).same .power rfl]

theorem applyImage_service (s : State) : (applyImage s).power.service = s.power.service := by
  obtain ⟨_, same⟩ := applyCommit_power ⟨none, (clampPatch s.dict.patch s).1, 0⟩ (clearShadow (clampPatch s.dict.patch s).2)
  show (applyCommit ⟨none, (clampPatch s.dict.patch s).1, 0⟩ (clearShadow (clampPatch s.dict.patch s).2)).power.service = _
  rw [same, (clearShadow_only _).same .power rfl, (clampPatch_only ..).same .power rfl]

theorem enterState_service (p : PowerState) (s : State) : (enterState p s).power.service = s.power.service := by
  obtain ⟨_, _, _, same⟩ := enterState_power p s
  rw [same]

theorem sparesShown_only (s : State) : Only [.results] s ((List.range 8).foldl (fun s st => showSpare st s) s) :=
  Only.foldl (fun t st shown => (showSpare_only st t).after shown) _ _ (Only.refl s)

theorem keepWake_service (s : State) : (keepWake s).power.service = s.power.service := rfl

theorem unitsUp_power (bits : Nat) (s : State) : (unitsUp bits s).power = s.power := rfl

theorem storeShown_service (s : State) : (storeShown s).power.service = s.power.service := by
  unfold storeShown
  extract_lets +onlyGivenNames r firmware p pass kept node clocks
  have h1 : firmware.power = s.power := ((showFirmware_only _).same .power rfl).trans
    (((showSlots_only _).same .power rfl).trans ((showGeometry_only _).same .power rfl))
  clear_value firmware
  have h2 : pass.power = firmware.power := (showPass_only { firmware with pipe.passP := passLength firmware }).same .power rfl
  clear_value pass
  have h3 : kept.power.service = pass.power.service := by
    rw [(stressRateCheck_only _).same .power rfl, keepWake_service, (chooseRate_only _).same .power rfl]
  have h4 : node.power = kept.power := ((showNode_only _).same .power rfl).trans
    (((showIdentity_only _).same .power rfl).trans ((sparesShown_only _).same .power rfl))
  have h5 : clocks.power = node.power := ((showClocks_only _).same .power rfl).trans ((setRes_only ..).same .power rfl)
  rw [settle_power, unitsUp_power]
  split
  · rw [enterState_service, h5, h4, h3, h2, h1]
  · rw [h5, h4, h3, h2, h1]

theorem storeRead_service (s : State) : (storeRead s).power.service = s.power.service := by
  rw [storeRead_eq, storeShown_service, (storeServes_only ..).same .power rfl, applyImage_service, (startOperating_only ..).same .power rfl,
    recordsRead_power]

theorem updateWear_read (s : State) : (updateWear s).pstore.read = s.pstore.read := by
  unfold updateWear
  dsimp only
  split
  · rw [raise_pstore_read]
    exact changeRes_pstore_read
  · exact changeRes_pstore_read

theorem applyBlaze_read (s : State) : (applyBlaze s).pstore.read = s.pstore.read := by
  unfold applyBlaze
  extract_lets +onlyGivenNames l inForce applied
  have records : Only [.results, .events, .ports, .storeQueue, .heldEvents, .link, .pipe, .out, .dram] s applied :=
    Only.foldl (fun t x shown => (applyRecord_only ..).after shown) _ _ (Only.refl s)
  have told (t : State) (l : List Nat) : Only [.results, .events, .ports, .storeQueue, .heldEvents] t
      (l.foldl (fun s h => raise 0x0D0C hSTAG (u16 h) s) t) := Only.foldl (fun _ x shown => (raise_only ..).after shown) _ _ (Only.refl t)
  exact ((told _ _).pstore_read rfl).trans (records.pstore_read rfl)

theorem storeServes_read (h : Nat) (s : State) : (storeServes h s).pstore.read = true := by
  unfold storeServes
  dsimp only
  rw [(drawFrameKey_only ..).pstore_read rfl, (readKeyStore_only _).pstore_read rfl, applyBlaze_read, updateWear_read,
    (incTally_only ..).pstore_read rfl, (flushEvents_only _).pstore_read rfl, raise_pstore_read]

theorem storeRead_read (s : State) : (storeRead s).pstore.read = true :=
  (storeRead_eq s).symm ▸ ((storeShown_only _).pstore_read rfl).trans (storeServes_read ..)

theorem beginTraining_begins (s : State) :
    (beginTraining s).power.phase = .dramTraining ∧ (beginTraining s).resil.avs = some (900, 0)
      ∧ (beginTraining s).resil.searching = true := by
  have channels (t : State) : Only [.results, .dram] t ((List.range 8).foldl (fun s c => if (chan s c).felled then s
      else showChan c 3 (setChan c { chan s c with powered := true } s)) t) := by
    refine Only.foldl (fun u c kept => ?_) _ _ (Only.refl t)
    split
    · exact kept
    · exact (showChan_only ..).after ((setChan_only ..).after kept)
  unfold beginTraining
  dsimp only
  rw [(channels _).same .power rfl, (channels _).same .resil rfl]
  exact ⟨rfl, rfl, rfl⟩

theorem execStoreReadDone_trains {s : State} (begun : s.power.phase = .firmware) (unserved : s.power.service = none) :
    execStoreReadDone s = .next (beginTraining (tamperLate (storeRead s))) := by
  unfold execStoreReadDone
  rw [if_neg (not_not.2 begun)]
  dsimp only
  rw [if_neg (by rw [storeRead_service, unserved]; exact Bool.false_ne_true)]

/-! ### The small bank -/

theorem mem_mput {α : Type} [DecidableEq α] {d : α} {k : Nat} {v : α} {x : Nat × α} :
    ∀ {m : NMap α}, x ∈ mput d m k v → x.1 = k ∨ x ∈ m
  | [], inside => by
    unfold mput at inside
    split at inside
    · cases inside
    · exact .inl (congrArg Prod.fst (List.mem_singleton.1 inside))
  | (k', v') :: m, inside => by
    unfold mput at inside
    split at inside
    · split at inside
      · exact .inr (List.mem_cons_of_mem _ inside)
      · obtain rfl | rest := List.mem_cons.1 inside
        · exact .inl rfl
        · exact .inr (List.mem_cons_of_mem _ rest)
    · split at inside
      · split at inside
        · exact .inr inside
        · obtain rfl | rest := List.mem_cons.1 inside
          · exact .inl rfl
          · exact .inr rest
      · obtain rfl | rest := List.mem_cons.1 inside
        · exact .inr List.mem_cons_self
        · exact (mem_mput rest).imp_right (List.mem_cons_of_mem _)

/-- A patch of no cell of an entry. -/
def PatchApart (h p : Nat) (patch : NMap (Option Int)) : Prop := ∀ x ∈ patch, x.1 / 4294967296 ≠ keyOf h p

/-- A patch leaves the entries that it does not hold as they are. -/
theorem cfgI_applyPatch_other {h p i : Nat} {patch : NMap (Option Int)} {s : State} (apart : PatchApart h p patch) (small : i < 4294967296)
    (canonical : s.Canonical) : cfgI (applyPatch patch s) h p i = cfgI s h p i ∧ (applyPatch patch s).Canonical := by
  refine List.foldlRecOn patch _ (motive := fun t => cfgI t h p i = cfgI s h p i ∧ t.Canonical) ⟨rfl, canonical⟩ ?_
  rintro t ⟨same, kept⟩ x inside
  split
  next v value =>
    refine ⟨(cfgI_setCfg_other v t kept ?_).trans same, (setCfg_only ..).kept.canon kept⟩
    have := apart x inside
    unfold keyOf at this
    unfold cell
    omega
  · exact ⟨same, kept⟩

/-- A bank's items are the block model, the defects, the tables of tone, overdrive and dither. -/
theorem bankItems_apart : ∀ b ∈ bankItems, keyOf b.2.1 b.2.2.1 ≠ keyOf hPANELPWR Par.PANELPWR_ON_SEQ ∧ b.2.2.2 ≤ 4294967296 := by decide

theorem itemsPatch_apart (s : State) (is : List (Nat × Nat × Nat)) : PatchApart hPANELPWR Par.PANELPWR_ON_SEQ (itemsPatch s is) := by
  unfold itemsPatch
  refine List.foldlRecOn is _ (motive := PatchApart hPANELPWR Par.PANELPWR_ON_SEQ) (fun x inside => by cases inside) ?_
  intro patch apart item _
  split
  · exact apart
  next n h par size found =>
    obtain ⟨other, short⟩ := bankItems_apart _ (List.mem_of_find?_eq_some found)
    refine List.foldlRecOn _ _ (motive := PatchApart hPANELPWR Par.PANELPWR_ON_SEQ) apart ?_
    intro patch apart b inside x held
    obtain new | old := mem_mput held
    · have index : b.2 < min size item.2.2 := by
        have := List.snd_lt_of_mem_zipIdx inside
        simpa [flashAt, loadBytes, mgetList] using this
      rw [new]
      unfold cell
      dsimp only at other short
      unfold keyOf at other
      unfold keyOf
      omega
    · exact apart x old

/-- A load at the start-up leaves ON_SEQ as it is. -/
theorem loadSmallBank_onSeq {s : State} (i : Nat) (small : i < 4294967296) (canonical : s.Canonical) :
    cfg (loadSmallBank false s) hPANELPWR Par.PANELPWR_ON_SEQ i = cfg s hPANELPWR Par.PANELPWR_ON_SEQ i := by
  unfold loadSmallBank
  extract_lets judged
  have judges : Only [.results, .events, .ports, .storeQueue, .heldEvents, .pipe] s judged := by
    subst judged
    split
    · exact judgeFlash_only ..
    · exact .refl s
  have read := (readBanks_only judged).after judges
  dsimp only
  split
  · refine cfg_of_only (ps := [.results, .events, .ports, .storeQueue, .heldEvents, .flash, .pipe]) ?_ rfl rfl rfl _ _ _
    exact (endLoad_only _).step rfl ((changeRes_only ..).after (Only.upd_pipe (read.mono rfl)))
  next b seq size is found =>
    obtain ⟨same, kept⟩ := cfgI_applyPatch_other (itemsPatch_apart (readBanks judged).2 is) small (read.kept.canon canonical)
    have after : Only [.results, .events, .ports, .storeQueue, .heldEvents, .flash, .pipe]
        (takeItems false (itemsPatch (readBanks judged).2 is) (readBanks judged).2)
        (startRows false b seq size (takeBlockStress is (takeItems false (itemsPatch (readBanks judged).2 is) (readBanks judged).2))) :=
      (startRows_only ..).after ((takeBlockStress_only ..).mono rfl)
    refine (cfg_of_only after rfl rfl rfl _ _ _).trans ((congrArg Int.toNat same).trans (cfg_of_only read rfl rfl rfl _ _ _))

/-! ### ON_SEQ begins with the references -/

theorem beginSeq_on (s : State) :
    ∃ q, (beginSeq false s).panel.seq = some q ∧ q.off = false ∧ q.step = 0 ∧ (beginSeq false s).panel.failing = false
      ∧ (beginSeq false s).power = s.power ∧ q.table = (List.range 128).map fun i => cfg s hPANELPWR Par.PANELPWR_ON_SEQ i := by
  refine ⟨_, rfl, rfl, rfl, ?_, ?_, rfl⟩
  · unfold beginSeq setPanel setSeq
    dsimp only
    rw [if_neg Bool.false_ne_true, changeRes_panel]
  · unfold beginSeq setPanel setSeq
    dsimp only
    rw [if_neg Bool.false_ne_true, changeRes_power]

theorem seqNop_refs {q : SeqRun} (refs : seqByte q 0 = 6) (waits : seqByte q 6 = 3) (on : q.off = false) : seqNop q = false := by
  unfold seqNop
  simp [seqAction, refs, waits, on]

/-- A step that turns the references on waits for them, the sequence at the step. -/
theorem beginStep_refs {q : SeqRun} {s : State} (refs : seqByte q 0 = 6) (waits : seqByte q 6 = 3) (on : q.off = false) :
    beginStep q s = setSeq { q with since := (clipRefs { setSeq q s with panel.refs := true }).now, wait := .action }
      (clipRefs { setSeq q s with panel.refs := true }) := by
  have real := seqNop_refs refs waits on
  have does : seqDoes q = 6 := by
    unfold seqDoes
    rw [if_neg (ne_true_of_eq_false real)]
    exact refs
  have performed (t : State) : perform q t = (false, clipRefs { t with panel.refs := true }) := by
    unfold perform
    rw [does]
    rfl
  have quiet : (seqNop q && q.tries == 0) = false := by rw [real, Bool.false_and]
  have actionWaits : (!false && (isPmb (seqDoes q) || (!seqNop q && seqByte q 6 == 3))) = true := by rw [real, waits]; simp
  unfold beginStep
  rw [quiet, if_neg Bool.false_ne_true]
  dsimp only
  rw [performed]
  exact if_pos actionWaits

/-- A sequence whose first step turns the references on stands at that step. -/
theorem runSeq_refs {q : SeqRun} {s : State} (n : Nat) (runs : s.panel.seq = some q) (first : q.step = 0) (on : q.off = false)
    (refs : seqByte q 0 = 6) (waits : seqByte q 6 = 3) :
    runSeq (n + 1) s = beginStep { q with count := q.count + 1, tries := 0 } (changeRes hPANELPWR Par.PANELPWR_STEP 0 s) := by
  have step := beginStep_refs (q := { q with count := q.count + 1, tries := 0 }) (s := changeRes hPANELPWR Par.PANELPWR_STEP 0 s)
    refs waits on
  unfold runSeq
  rw [runs]
  dsimp only
  rw [if_neg (by rw [first, show seqAction q = 6 from refs]; omega), first]
  rw [first] at step
  rw [step]
  rfl

/-- ON_SEQ with the references in its first step begins, and stands at that step. -/
theorem panelOn_refs {s : State} (idle : s.panel.seq = none) (off : s.panel.on = 0) (refs : cfg s hPANELPWR Par.PANELPWR_ON_SEQ 0 = 6)
    (waits : cfg s hPANELPWR Par.PANELPWR_ON_SEQ 6 = 3) :
    ∃ q, (panelOn s).panel.seq = some q ∧ q.off = false ∧ q.step = 0 ∧ (panelOn s).panel.refs = true ∧ (panelOn s).panel.failing = false
      ∧ (panelOn s).power = s.power := by
  obtain ⟨q, runs, on, first, failing, begun, table⟩ := beginSeq_on s
  have byte (i : Nat) (small : i < 128) : seqByte q i = cfg s hPANELPWR Par.PANELPWR_ON_SEQ i := by
    unfold seqByte
    rw [table, first]
    simp [small]
  have started : panelOn s = runSeq seqFuel (beginSeq false s) := by
    unfold panelOn
    rw [idle]
    dsimp only
    rw [if_neg (by rw [off]; decide)]
  have run := runSeq_refs 63 runs first on ((byte 0 (by decide)).trans refs) ((byte 6 (by decide)).trans waits)
  have step := beginStep_refs (q := { q with count := q.count + 1, tries := 0 })
    (s := changeRes hPANELPWR Par.PANELPWR_STEP 0 (beginSeq false s)) ((byte 0 (by decide)).trans refs) ((byte 6 (by decide)).trans waits) on
  rw [started, run, step]
  refine ⟨_, rfl, on, first, ?_, ?_, ?_⟩
  · show (clipRefs _).panel.refs = true
    rw [clipRefs_panel]
  · show (clipRefs _).panel.failing = false
    rw [clipRefs_panel]
    exact (congrArg PanelSt.failing changeRes_panel).trans failing
  · show (clipRefs _).power = s.power
    rw [(clipRefs_only _).same .power rfl]
    show (changeRes hPANELPWR Par.PANELPWR_STEP 0 (beginSeq false s)).power = s.power
    rw [changeRes_power, begun]

/-- The end of a panel sequence that no transition and no restart awaits leaves the sequence that runs. -/
theorem afterPanel_seq {s : State} (sound : s.panel.failing = false) (noTransition : s.power.transition = none)
    (noRestart : s.power.restarting = false) :
    (afterPanel s).panel.seq = s.panel.seq ∧ (afterPanel s).panel.refs = s.panel.refs ∧ (afterPanel s).power.phase = s.power.phase := by
  cases ended : s.panel.ended with
  | none => rw [afterPanel_idle ended noTransition noRestart]; exact ⟨rfl, rfl, rfl⟩
  | some on => cases on with
    | false =>
      obtain ⟨only, panel⟩ := afterPanel_offEnded ended sound noTransition noRestart
      rw [panel, only.same .power rfl]
      exact ⟨rfl, rfl, rfl⟩
    | true =>
      obtain ⟨-, panel⟩ := afterPanel_onEnded ended
      refine ⟨by rw [panel], by rw [panel], ?_⟩
      unfold afterPanel
      rw [ended]
      dsimp only
      split
      · rw [setTransition_power]
      · rfl

/-- Settles O55: each command takes its step from the phase before. -/
theorem startupStepsFollow : Obligations.StartupStepsFollow := by
  refine fun s => ⟨fun hostsel node xin held => ?_, fun waits => ?_, fun booting => ?_, fun begun unserved => ?_,
    fun loading recovers => ?_, fun loading sound steady unwarned settled idle off refs waits canonical => ?_⟩
  · exact ⟨_, congrArg Host.Outcome.next (if_pos held), release_begins hostsel node xin s⟩
  · have cleared := initSram_cleared { s with power.phase := .bootRom, power.tries := 0 }
    refine ⟨_, congrArg Host.Outcome.next (if_pos waits), ?_, cleared.on, cleared.mem, cleared.poison⟩
    rw [(initSram_only _).same .power rfl]
  · refine ⟨_, congrArg Host.Outcome.next (if_neg (not_not.2 booting)), ?_, ?_⟩
    · dsimp only
      rw [bootFirmware_power]
    · dsimp only
      rw [bootFirmware_running]
  · obtain ⟨phase, avs, searching⟩ := beginTraining_begins (tamperLate (storeRead s))
    refine ⟨_, execStoreReadDone_trains begun unserved, phase, ?_, avs, searching⟩
    rw [(beginTraining_only _).pstore_read rfl, (tamperLate_only _).pstore_read rfl, storeRead_read]
  · refine ⟨loadSmallBank false { s with power.phase := .panelOn, resil.periodAt := s.now }, ?_, ?_, ?_⟩
    · show execSmallBankLoaded s = _
      unfold execSmallBankLoaded
      rw [if_neg (not_not.2 loading)]
      dsimp only
      rw [if_pos (by rw [(loadSmallBank_only ..).stag_recovery rfl, recovers]; rfl)]
    · rw [(loadSmallBank_only ..).same .power rfl]
    · rw [(loadSmallBank_only ..).same .panel rfl]
  · have readied : Only [.resil, .power] s { s with power.phase := .panelOn, resil.periodAt := s.now } :=
      Only.upd_resil_power (Only.refl s)
    have onSeq (i : Nat) (small : i < 4294967296) :
        cfg (loadSmallBank false { s with power.phase := .panelOn, resil.periodAt := s.now }) hPANELPWR Par.PANELPWR_ON_SEQ i
          = cfg s hPANELPWR Par.PANELPWR_ON_SEQ i :=
      (loadSmallBank_onSeq i small (readied.kept.canon canonical)).trans (cfg_of_only readied rfl rfl rfl _ _ _)
    have loaded := loadSmallBank_only false { s with power.phase := .panelOn, resil.periodAt := s.now }
    have panel := loaded.same .panel rfl
    have power := loaded.same .power rfl
    obtain ⟨q, runs, on, first, shown, failing, same⟩ := panelOn_refs
      (s := loadSmallBank false { s with power.phase := .panelOn, resil.periodAt := s.now })
      (by rw [panel]; exact idle) (by rw [panel]; exact off) ((onSeq 0 (by decide)).trans refs) ((onSeq 6 (by decide)).trans waits)
    obtain ⟨seq, kept, phase⟩ := afterPanel_seq failing (by rw [same, power]; exact settled) (by rw [same, power]; exact steady)
    refine ⟨_, q, ?_, phase.trans ?_, seq.trans runs, on, first, kept.trans shown⟩
    · show execSmallBankLoaded s = _
      unfold execSmallBankLoaded
      rw [if_neg (not_not.2 loading)]
      dsimp only
      rw [if_neg (by rw [loaded.stag_recovery rfl, power, sound, steady, unwarned]; exact Bool.false_ne_true)]
    · rw [same, power]

end Sys2Proof.Machine
end

section
/-! SUPPORT. What a restart keeps (19, R476, R477; 15, R378). -/

set_option Elab.async false

namespace Sys2Proof.Machine

/-- The store with the program in progress torn. -/
def programTorn (s : State) : State :=
  match s.pstore.current with
  | some (p, _) => tearProgram p s
  | none => s

/-- The firmware slot that an activation writes disturbed too. -/
def workTorn (s : State) : State :=
  match (programTorn s).stag.activation with
  | some a => disturbSlot a (programTorn s)
  | none => programTorn s

/-- What is left of the device, with the resource that failed last. -/
def heldState (cause : Nat) (s : State) : State := keepResource cause (workTorn s) (resetState cause (workTorn s))

theorem resetDevice_eq (cause : Nat) (s : State) : resetDevice cause s
    = if keySetBits (workTorn s) = 0 then heldState cause s
      else tellKeysLost (keySetBits (workTorn s)) ((draw (heldState cause s)).1 % 256)
        (raise 0x0B09 hSEC [keySetBits (workTorn s), 0] (draw (heldState cause s)).2) := rfl

theorem resetDevice_from (cause : Nat) (s : State) :
    Only [.results, .events, .ports, .storeQueue, .heldEvents, .aux, .free] (heldState cause s) (resetDevice cause s) := by
  rw [resetDevice_eq]
  split
  · exact .refl _
  · exact (tellKeysLost_only ..).step rfl ((raise_only ..).step rfl ((draw_only _).mono rfl))

theorem programTorn_only (s : State) : Only [.store, .free] s (programTorn s) := by
  unfold programTorn
  split
  · exact tearProgram_only ..
  · exact .refl s

theorem workTorn_only (s : State) : Only [.results, .store, .slots, .free] s (workTorn s) := by
  unfold workTorn
  split
  · exact (disturbSlot_only ..).step rfl ((programTorn_only s).mono rfl)
  · exact (programTorn_only s).mono rfl

theorem workTorn_mem {s : State} (idle : s.pstore.current = none) : (workTorn s).pstore.mem = s.pstore.mem := by
  have whole : programTorn s = s := by
    unfold programTorn
    rw [idle]
  unfold workTorn
  rw [whole]
  split
  · exact (disturbSlot_only ..).same .store rfl
  · rfl

theorem workTorn_slots {s : State} (idle : s.stag.activation = none) :
    (workTorn s).stag.slotA = s.stag.slotA ∧ (workTorn s).stag.slotB = s.stag.slotB := by
  have torn := programTorn_only s
  unfold workTorn
  rw [torn.stag_activation rfl, idle]
  exact ⟨torn.stag_slotA rfl, torn.stag_slotB rfl⟩

/-- What a restart holds, and what it keeps. -/
theorem resetDevice_keeps (cause : Nat) (s : State) :
    let t := resetDevice cause s
    t.power.phase = .reset ∧ t.power.cause = cause ∧ t.sec.huk = s.sec.huk ∧ t.sec.lifecycle = s.sec.lifecycle
      ∧ t.pipe.flash = s.pipe.flash ∧ t.pstore.mem = (workTorn s).pstore.mem
      ∧ t.stag.slotA = (workTorn s).stag.slotA ∧ t.stag.slotB = (workTorn s).stag.slotB := by
  have last : Only [.results, .events, .ports, .storeQueue, .heldEvents, .aux, .free] (resetState cause (workTorn s)) (resetDevice cause s) :=
    (resetDevice_from cause s).after ((keepResource_only cause (workTorn s) (resetState cause (workTorn s))).mono rfl)
  have torn := workTorn_only s
  dsimp only
  rw [last.same .power rfl, last.sec rfl rfl, last.pipe rfl rfl, last.pstore_mem rfl, last.stag_slotA rfl, last.stag_slotB rfl,
    ← torn.sec rfl rfl, ← torn.pipe rfl rfl]
  exact ⟨rfl, rfl, rfl, rfl, rfl, rfl, rfl, rfl⟩

/-- Settles O54: each reset holds the device from the state in which it comes. -/
theorem resetsHoldDevice : Obligations.ResetsHoldDevice := by
  intro s held
  have holds (c : Instr) (cause : Nat) (x : State) (runs : exec c s = .next (resetDevice cause x)) (moved : Only [.now] s x) : held c cause := by
    obtain ⟨phase, why, huk, lifecycle, flash, mem, slotA, slotB⟩ := resetDevice_keeps cause x
    refine ⟨_, runs, phase, why, ?_, ?_, ?_, fun idle => ?_, fun idle => ?_⟩
    · rw [huk, moved.sec rfl rfl]
    · rw [lifecycle, moved.sec rfl rfl]
    · rw [flash, moved.pipe rfl rfl]
    · rw [mem, workTorn_mem (by rw [moved.pstore_current rfl, idle]), moved.pstore_mem rfl]
    · obtain ⟨a, b⟩ := workTorn_slots (s := x) (by rw [moved.stag_activation rfl, idle])
      rw [slotA, slotB, a, b, moved.stag_slotA rfl, moved.stag_slotB rfl]
      exact ⟨rfl, rfl⟩
  refine ⟨holds _ 0 s rfl (.refl s), fun released => ?_, fun warned => ?_⟩
  · exact holds _ 1 _ (congrArg Host.Outcome.next (if_neg released)) (advanceTo_only ..)
  · exact holds _ 3 _ (congrArg Host.Outcome.next (if_pos warned)) (advanceTo_only ..)

end Sys2Proof.Machine
end

section
/-! SUPPORT. The progress of a wake, resources that are not ready, and the power-fail warning (19, Table 19.8, R493, R495). -/

set_option Elab.async false

namespace Sys2Proof.Machine

theorem wakeStepFour_eq (s : State) : wakeStepFour s = lastWakeStep
    (enablePort .sideband (enablePort .field (enablePort .host (enterDetect 0 (setRequest 0 (settle { s with
      power.wakeStep := 4, power.failed := false, resil.periodAt := s.now, resil.lastRise := none, resil.low := 0 })))))) := rfl

/-- Step 4 waits for DRAM, with the ports and the link on. -/
theorem wakeStepFour_waits {s : State} (asleep : (List.range 8).any (fun c => (chan s c).service && (chan s c).selfRefresh) = true) :
    (wakeStepFour s).power.wakeStep = 4 ∧ (wakeStepFour s).power.failed = false ∧ (wakeStepFour s).stag.running = s.stag.running := by
  generalize ready : enablePort .sideband (enablePort .field (enablePort .host (enterDetect 0 (setRequest 0 (settle { s with
    power.wakeStep := 4, power.failed := false, resil.periodAt := s.now, resil.lastRise := none, resil.low := 0 }))))) = t
  have opened : Only [.config, .results, .events, .ports, .can, .storeQueue, .heldEvents, .link, .aux, .resil] { s with
      power.wakeStep := 4, power.failed := false, resil.periodAt := s.now, resil.lastRise := none, resil.low := 0 } t := by
    subst ready
    refine (enablePort_only ..).step rfl ((enablePort_only ..).step rfl ((enablePort_only ..).step rfl ?_))
    exact (enterDetect_only ..).step rfl ((setRequest_only ..).step rfl ((settle_only _).mono rfl))
  have dram : t.dram = s.dram := opened.same .dram rfl
  have waits : lastWakeStep t = t := by
    unfold lastWakeStep
    refine if_pos ?_
    have same (c : Nat) : chan t c = chan s c := by unfold chan; rw [dram]
    simp only [same, asleep, Bool.or_true]
  rw [wakeStepFour_eq, ready, waits, opened.same .power rfl, opened.stag_running rfl]
  exact ⟨rfl, rfl, rfl⟩

/-- Power good of the on-die domains in a full wake. -/
theorem stagResumes_waits {n : Nat} {s : State} (waking : s.power.waking = some n)
    (asleep : (List.range 8).any (fun c => (chan s c).service && (chan s c).selfRefresh) = true) :
    (stagResumes s).stag.running = true ∧ (stagResumes s).power.failed = false ∧ (stagResumes s).power.wakeStep = 4 := by
  have flushed := flushEvents_only { s with power.wakeStep := 3, power.tries := 0, stag.running := true }
  have told : Only [.results, .events, .ports, .storeQueue, .tallies, .security, .heldEvents, .aux]
      { s with power.wakeStep := 3, power.tries := 0, stag.running := true }
      (tamperLate (flushEvents { s with power.wakeStep := 3, power.tries := 0, stag.running := true })) :=
    (tamperLate_only _).after (flushed.mono rfl)
  have goes : stagResumes s
      = wakeStepFour (tamperLate (flushEvents { s with power.wakeStep := 3, power.tries := 0, stag.running := true })) := by
    unfold stagResumes
    dsimp only
    rw [if_pos (by rw [flushed.same .power rfl]; exact congrArg Option.isSome waking)]
  have same (c : Nat) : chan (tamperLate (flushEvents { s with power.wakeStep := 3, power.tries := 0, stag.running := true })) c
      = chan s c := by
    unfold chan
    rw [told.same .dram rfl]
  obtain ⟨step, failed, running⟩ := wakeStepFour_waits
    (s := tamperLate (flushEvents { s with power.wakeStep := 3, power.tries := 0, stag.running := true })) (by simpa only [same] using asleep)
  rw [goes, step, failed, running, told.stag_running rfl]
  exact ⟨rfl, rfl, rfl⟩

/-! ### Resources -/

/-- The device with its domains going off, before POWER_STATE changes. -/
def domainsOff (off : Bool) (s : State) : State :=
  let s := panelDown (stopOperating s)
  setTransition 0 { s with
    stag.running := false, sram.accessible := false, dram.ready := s.dram.ready && !off
    power.phase := .up, power.transition := none, power.waking := none, power.service := none, power.wakeStep := 0
    power.tries := 0, power.asleepAt := s.now, power.heldRequest := none, power.heldWake := none }

theorem fallAsleep_eq (off : Bool) (s : State) : fallAsleep off s = enterState (if off then .off else .standby) (domainsOff off s) := rfl

theorem fallAsleep_failed (off : Bool) (s : State) : (fallAsleep off s).power.failed = s.power.failed := by
  obtain ⟨_, _, _, same⟩ := enterState_power (if off then .off else .standby) (domainsOff off s)
  have down : (panelDown (stopOperating s)).power = s.power :=
    ((panelDown_only _).same .power rfl).trans ((stopOperating_only _).same .power rfl)
  rw [fallAsleep_eq, same]
  unfold domainsOff
  dsimp only
  rw [setTransition_power]
  show (panelDown (stopOperating s)).power.failed = s.power.failed
  rw [down]

theorem resourceFails_fails (r : Resource) {s : State} (canonical : s.Canonical) :
    (resourceFails r s).power.failed = true ∧ lastCode (resourceFails r s) hPWR = 0x0E04
      ∧ (resourceFails r s).power.state = (if s.power.wakeStep = 0 then .off else .standby) := by
  unfold resourceFails
  extract_lets +onlyGivenNames off code counted w v asleep
  have counts : Only [.results] s counted := (incSat_only ..).after (setRes_only ..)
  have readied : Only [.results, .power, .resil] s { counted with power.failed := true, resil.avs := none, resil.searching := false } :=
    Only.upd_resil_power (counts.mono rfl)
  have slept : asleep.Canonical := (fallAsleep_only ..).kept.canon (readied.kept.canon canonical)
  refine ⟨?_, ?_, ?_⟩
  · rw [settle_power, raise_power]
    exact fallAsleep_failed off _
  · refine (congrArg Prod.snd (settle_lastEvent_other _ ((raise_only ..).kept.canon slept) (by decide))).trans ?_
    exact raise_lastCode_self _ _ slept
  · rw [settle_power, raise_power]
    refine (fallAsleep_power off _).2.trans ?_
    by_cases starting : s.power.wakeStep = 0
    · rw [if_pos (decide_eq_true starting), if_pos starting]
    · rw [if_neg (fun isOff => starting (of_decide_eq_true isOff)), if_neg starting]

/-! ### The power-fail warning -/

theorem execPowerFailWarning_warns {mv : Nat} {s : State} (unwarned : s.power.warning = false) (released : s.power.phase ≠ .reset)
    (low : 1500 ≤ mv) (high : mv < 1710) (canonical : s.Canonical) :
    ∃ t, execPowerFailWarning mv s = .next t ∧ t.power.warning = true ∧ t.pstore.warned = true ∧ t.power.transition = none
      ∧ t.power.waking = none ∧ lastCode t hPWR = 0x0E05 := by
  have inRange : ¬ (s.power.warning || s.power.phase == .reset || decide (mv < 1500) || decide (1710 ≤ mv)) = true := by
    simp [unwarned, released, not_lt.2 low, not_le.2 high]
  unfold execPowerFailWarning
  rw [if_neg inRange]
  extract_lets +onlyGivenNames dark p w warned told q
  have darkened : dark.Canonical := by
    subst dark
    split
    · exact (panelEmergency_only _).kept.canon canonical
    · exact canonical
  have warns : warned.Canonical := (Only.upd_storeState_power (ps := [.storeState, .power]) (Only.refl dark)).kept.canon darkened
  have queued : Only [.storeQueue] (raise 0x0E05 hPWR (u16 mv ++ [powerCode warned.power.state]) warned) told :=
    (lastProgram_only _).after (flushGather_only _)
  refine ⟨_, rfl, ?_, ?_, ?_, ?_, ?_⟩
  · rw [setTransition_power]
    show told.power.warning = true
    rw [queued.same .power rfl, raise_power]
  · rw [(setTransition_only ..).pstore_warned rfl]
    show told.pstore.warned = true
    rw [queued.pstore_warned rfl, raise_pstore_warned]
  · rw [setTransition_power]
  · rw [setTransition_power]
  · have ends : Only [.results, .power] told (setTransition 0 { told with
        power.transition := none, power.waking := none, power.heldRequest := none, power.heldWake := none
        power.restarting := false, power.wakeStep := 0 }) := (setTransition_only ..).step rfl (Only.upd_power (Only.refl told))
    exact (lastCode_of_only ends rfl _).trans ((lastCode_of_only queued rfl _).trans (raise_lastCode_self _ _ warns))

/-- Settles O58: a wake's third and fourth steps, a resource's retries, and the warning. -/
theorem wakeProgressAndWarning : Obligations.WakeProgressAndWarning := by
  refine fun s canonical => ⟨fun n second waking asleep => ?_, fun r awaits few => ?_, fun r awaits many => ?_,
    fun mv unwarned released low high => execPowerFailWarning_warns unwarned released low high canonical⟩
  · exact ⟨_, congrArg Host.Outcome.next (if_pos ⟨second, rfl⟩), stagResumes_waits waking asleep⟩
  · have counted : Only [.power] s { s with power.tries := s.power.tries + 1 } := Only.upd_power (Only.refl s)
    have tried : ∀ x : State, x = (if r = .vcore then { s with power.tries := s.power.tries + 1, resil.avs := some (s.resil.vcore, 0) }
        else { s with power.tries := s.power.tries + 1 }) → x.power.tries = s.power.tries + 1 ∧ x.Canonical := by
      rintro x rfl
      split
      · exact ⟨rfl, (Only.upd_resil (ps := [.power, .resil]) (counted.mono rfl)).kept.canon canonical⟩
      · exact ⟨rfl, counted.kept.canon canonical⟩
    obtain ⟨tries, kept⟩ := tried _ rfl
    refine ⟨raise 0x0E03 hPWR [resourceCode r, s.power.tries + 1 + 1] _, ?_, (congrArg PowerSt.tries raise_power).trans tries,
      raise_lastCode_self _ _ kept⟩
    show execResourceReadyTimeout r s = _
    unfold execResourceReadyTimeout
    rw [if_neg (by simp [awaits]), if_pos few]
    dsimp only
    rw [show ∀ x : State, x.power.tries = s.power.tries + 1 → x.power.tries + 1 = s.power.tries + 1 + 1 from fun _ h => by rw [h]]
    exact tries
  · refine ⟨_, ?_, resourceFails_fails r canonical⟩
    show execResourceReadyTimeout r s = _
    unfold execResourceReadyTimeout
    rw [if_neg (by simp [awaits]), if_neg (not_lt.2 many)]

end Sys2Proof.Machine
end

section
/-! SUPPORT. The samples of the sensors and the operating minute (17, R430, R432 to R435). -/

set_option Elab.async false

namespace Sys2Proof.Machine

/-- The time of the sample due after the last one. -/
def sensorDue (last : Option Nat) (period : Nat) (s : State) : State :=
  match last with
  | some r => advanceTo (r + period) s
  | none => s

theorem sensorDue_only (last : Option Nat) (period : Nat) (s : State) : Only [.now] s (sensorDue last period s) := by
  unfold sensorDue
  split
  · exact advanceTo_only ..
  · exact .refl s

/-! ### Thermal sensors -/

/-- A thermal sensor's unit is not Stag, nor one that tells of the log. -/
theorem thermUnit {n : Nat} (small : n ≤ 15) : (hSTAG :: logUnits).contains (hTHERM n) = false ∧ hPWR ≠ hTHERM n ∧ hDEV ≠ hTHERM n := by
  have all : ∀ n < 16, (hSTAG :: logUnits).contains (hTHERM n) = false ∧ hPWR ≠ hTHERM n ∧ hDEV ≠ hTHERM n := by decide +kernel
  exact all n (by omega)

/-- A reading of a thermal sensor, shown. -/
def thermShown (n : Nat) (t : Int) (s : State) : State :=
  let h := hTHERM n
  let x := mget {} s.stag.therm n
  let peak := if x.readAt.isNone then t else max t (resI s h Par.THERM_PEAK)
  let s := setResI h Par.THERM_TEMP t s
  if x.readAt.isSome ∧ peak = resI s h Par.THERM_PEAK then s else setResI h Par.THERM_PEAK peak s

theorem thermShown_only (n : Nat) (t : Int) (s : State) : Only [.results] s (thermShown n t s) := by
  unfold thermShown
  extract_lets h x peak temp
  split
  · exact setResAt_only ..
  · exact (setResAt_only ..).after (setResAt_only ..)

theorem thermShown_temp (n : Nat) (t : Int) {s : State} (canonical : s.Canonical) : resI (thermShown n t s) (hTHERM n) Par.THERM_TEMP = t := by
  have temp : resI (setResI (hTHERM n) Par.THERM_TEMP t s) (hTHERM n) Par.THERM_TEMP = t := resI_setResAt_self _ _ _ _ _ canonical
  unfold thermShown
  extract_lets h x peak shown
  split
  · exact temp
  · refine (resI_setResAt_other _ _ ((setResAt_only ..).kept.canon canonical) ?_).trans temp
    exact cell_ne_of_apart (.inr (by decide)) (by decide) (by decide) (by decide) (by decide)

/-- A thermal sensor's flags after a reading, with the time of it. -/
def thermFlags (n : Nat) (t : Int) (x : ThermSt) (s : State) : ThermSt :=
  { readAt := some s.now, warned := thermFlag x.warned t (cfgI s (hTHERM n) Par.THERM_WARN)
    crit := thermFlag x.crit t (cfgI s (hTHERM n) Par.THERM_CRIT) }

/-- What a reading tells and begins: events, the causes of FAULT_N, and the entry to STANDBY at the critical threshold. -/
def thermTold (n : Nat) (t : Int) (x y : ThermSt) (s : State) : State :=
  let h := hTHERM n
  let s := if (List.range 16).all fun k => (mget {} s.stag.therm k).readAt.isSome then unitsUp 256 s else s
  let s := settle (thermEvent x.crit y.crit 0x0C21 h n t (thermEvent x.warned y.warned 0x0C20 h n t s))
  if cfgI s h Par.THERM_CRIT ≤ t then beginTransition false 2 s else s

theorem thermSample_eq (n : Nat) (t : Int) (s : State) : thermSample n t s
    = thermTold n t (mget {} s.stag.therm n) (thermFlags n t (mget {} s.stag.therm n) (thermShown n t s))
      { thermShown n t s with
        stag.therm := mput {} (thermShown n t s).stag.therm n (thermFlags n t (mget {} s.stag.therm n) (thermShown n t s)) } := rfl

theorem thermEvent_spared {h q : Nat} (was now_ : Bool) (code unit n : Nat) (t : Int) (s : State) (far : logUnits.contains h = false)
    (small : q < 4096) : Spared h q s (thermEvent was now_ code unit n t s) := by
  unfold thermEvent
  split
  · exact .refl s
  · exact .raise _ _ _ _ far small

theorem noteEntry_spared {h q : Nat} (off : Bool) (trigger : Nat) (s : State) (far : logUnits.contains h = false) (power : hPWR ≠ h)
    (device : hDEV ≠ h) (small : q < 4096) : Spared h q s (noteEntry off trigger s) := by
  have counted : Spared h q s (incWrap hPWR Par.PWR_TRANSITIONS 1 s) := .incWrap s (.inl power) small (by decide) 1
  have shown (n : Nat) (t : State) : Spared h q t (setTransition n t) :=
    .changeRes (h' := hDEV) (q' := Par.DEV_TRANSITION) t (.inl device) small (by decide) n
  unfold noteEntry
  exact (counted.trans (shown _ _)).trans (.raise _ _ _ _ far small)

/-- The beginning of an entry writes results of the device and of its power alone. -/
theorem beginTransition_spared {h q : Nat} (off : Bool) (trigger : Nat) (s : State) (far : logUnits.contains h = false) (power : hPWR ≠ h)
    (device : hDEV ≠ h) (small : q < 4096) : Spared h q s (beginTransition off trigger s) := by
  unfold beginTransition
  split
  · exact .refl s
  · exact .trans (.of_only (ps := [.power]) (Only.upd_power (Only.refl s))) (noteEntry_spared _ _ _ far power device small)

/-- What a reading tells leaves the reading, the sensors and the time as they are. -/
theorem thermTold_keeps {n : Nat} (small : n ≤ 15) (t : Int) (x y : ThermSt) (s : State) :
    Spared (hTHERM n) Par.THERM_TEMP s (thermTold n t x y s) ∧ (thermTold n t x y s).stag.therm = s.stag.therm
      ∧ (thermTold n t x y s).now = s.now := by
  obtain ⟨quiet, power, device⟩ := thermUnit small
  have far : logUnits.contains (hTHERM n) = false := by simp_all
  unfold thermTold
  extract_lets +onlyGivenNames h up settled
  have ups : Only [.resil] s up := by
    subst up
    split
    · exact unitsUp_only ..
    · exact .refl s
  clear_value up
  have told : Only [.results, .events, .ports, .storeQueue, .heldEvents, .resil] s settled :=
    (settle_only _).step rfl ((thermEvent_only ..).step rfl ((thermEvent_only ..).step rfl (ups.mono rfl)))
  have spared : Spared (hTHERM n) Par.THERM_TEMP s settled :=
    .trans (.of_only ups) (.trans (thermEvent_spared _ _ _ _ _ _ _ far (by decide))
      (.trans (thermEvent_spared _ _ _ _ _ _ _ far (by decide)) (.of_quiet (settle_quiet _) quiet (by decide))))
  split
  · refine ⟨spared.trans (beginTransition_spared _ _ _ far power device (by decide)), ?_, ?_⟩
    · exact ((beginTransition_only ..).stag_therm rfl).trans (told.stag_therm rfl)
    · exact ((beginTransition_only ..).same .now rfl).trans (told.same .now rfl)
  · exact ⟨spared, told.stag_therm rfl, told.same .now rfl⟩

theorem thermSample_reads {n : Nat} (small : n ≤ 15) (t : Int) {s : State} (canonical : s.Canonical) (sensors : mwf {} s.stag.therm = true) :
    resI (thermSample n t s) (hTHERM n) Par.THERM_TEMP = t
      ∧ (mget {} (thermSample n t s).stag.therm n).readAt = some (thermSample n t s).now := by
  have shown := thermShown_only n t s
  have put : Only [.sensors] (thermShown n t s) { thermShown n t s with
      stag.therm := mput {} (thermShown n t s).stag.therm n (thermFlags n t (mget {} s.stag.therm n) (thermShown n t s)) } :=
    Only.upd_sensors (Only.refl _)
  obtain ⟨spared, therm, now⟩ := thermTold_keeps small t (mget {} s.stag.therm n)
    (thermFlags n t (mget {} s.stag.therm n) (thermShown n t s)) { thermShown n t s with
      stag.therm := mput {} (thermShown n t s).stag.therm n (thermFlags n t (mget {} s.stag.therm n) (thermShown n t s)) }
  have sensors' : mwf {} (thermShown n t s).stag.therm = true := by rw [shown.stag_therm rfl, sensors]
  rw [thermSample_eq, therm, now, mget_mput_self _ _ _ _ sensors']
  refine ⟨(spared.same (put.kept.canon (shown.kept.canon canonical)) 0 (by decide)).trans (thermShown_temp n t canonical), rfl⟩

/-! ### Voltage monitors -/

theorem showRail_reading (h mv : Nat) (first : Bool) {s : State} (canonical : s.Canonical) : res (showRail h mv first s) h Par.VMON_READING = mv := by
  have kept (p v : Nat) (small : p < 4096) (other : p ≠ Par.VMON_READING) (t : State) : Spared h Par.VMON_READING t (setRes h p v t) :=
    .setRes t (.inr other) (by decide) small v
  unfold showRail
  extract_lets read low
  have reads : res read h Par.VMON_READING = mv := res_setRes_self _ _ _ _ canonical
  have lows : Spared h Par.VMON_READING read low := by
    subst low
    split
    · exact kept _ _ (by decide) (by decide) _
    · exact .refl read
  have readOk : read.Canonical := (setRes_only ..).kept.canon canonical
  split
  · exact ((lows.trans (kept _ _ (by decide) (by decide) low)).res readOk (by decide)).trans reads
  · exact (lows.res readOk (by decide)).trans reads

/-- A rail's reading is shown, and its state told, with the time of it. -/
theorem railSample_reads {n : Nat} (mv : Nat) {s : State} (far : logUnits.contains (hVMON n) = false) (canonical : s.Canonical)
    (monitors : mwf {} s.stag.vmon = true) :
    res (railSample n mv s) (hVMON n) Par.VMON_READING = mv
      ∧ (mget {} (railSample n mv s).stag.vmon n).readAt = some (railSample n mv s).now := by
  unfold railSample
  extract_lets +onlyGivenNames x read y
  have shown : Only [.results] s read := showRail_only ..
  have reading : res read (hVMON n) Par.VMON_READING = mv := showRail_reading _ _ _ canonical
  have kept : read.Canonical := shown.kept.canon canonical
  clear_value read
  have monitors' : mwf {} read.stag.vmon = true := by rw [shown.stag_vmon rfl, monitors]
  have set (z : VmonSt) (dated : z.readAt = some read.now) : res (setVmon n z read) (hVMON n) Par.VMON_READING = mv
      ∧ (mget {} (setVmon n z read).stag.vmon n).readAt = some (setVmon n z read).now :=
    ⟨reading, (congrArg VmonSt.readAt (mget_mput_self _ _ _ _ monitors')).trans dated⟩
  have told (z : VmonSt) (data : List Nat) (dated : z.readAt = some read.now) :
      res (raise 0x0C23 (hVMON n) data (setVmon n z read)) (hVMON n) Par.VMON_READING = mv
        ∧ (mget {} (raise 0x0C23 (hVMON n) data (setVmon n z read)).stag.vmon n).readAt
          = some (raise 0x0C23 (hVMON n) data (setVmon n z read)).now := by
    obtain ⟨reads, time⟩ := set z dated
    rw [raise_stag_vmon, raise_now, time]
    exact ⟨(res_raise _ _ _ _ ((setVmon_only ..).kept.canon kept) far (by decide) (by decide)).trans reads, rfl⟩
  dsimp only
  split
  · split
    · exact set _ rfl
    · exact told _ _ rfl
  · split
    · exact set _ rfl
    · exact set _ rfl

/-! ### NTC inputs -/

theorem judgeNtc_ntc (n : Nat) (cause : Option Nat) (code : Nat) (t : Int) (s : State) : (judgeNtc n cause code t s).stag.ntc
    = mput {} s.stag.ntc n { mget {} s.stag.ntc n with valid := cause.isNone, judged := true } := by
  unfold judgeNtc
  dsimp only
  split
  · split
    · exact changeRes_stag_ntc
    · exact raise_stag_ntc.trans changeRes_stag_ntc
  · split
    · exact changeRes_stag_ntc
    · exact raise_stag_ntc.trans changeRes_stag_ntc

theorem ntcStale_sorted (n : Nat) {s : State} (inputs : mwf {} s.stag.ntc = true) : mwf {} (ntcStale n s).stag.ntc = true := by
  unfold ntcStale
  dsimp only
  split
  · exact inputs
  · split
    · rw [judgeNtc_ntc]
      exact mwf_mput _ _ _ _ inputs
    · exact inputs

/-- The codes kept, ten at most, end with the new one. -/
theorem codesKept_last (codes : List Nat) (code : Nat) : ((codes ++ [code]).drop (codes.length + 1 - 10)).getLast? = some code := by
  rw [List.getLast?_drop, if_neg (by simp), List.getLast?_concat]

/-- A reading made of the codes leaves them, and the time of the last, as they are. -/
theorem judgeNtc_codes (n : Nat) (cause : Option Nat) (code at_ : Nat) (t : Int) {s : State} (inputs : mwf {} s.stag.ntc = true) :
    let u := judgeNtc n cause code t (setNtc n { mget {} s.stag.ntc n with readAt := some at_ } s)
    (mget {} u.stag.ntc n).codeAt = (mget {} s.stag.ntc n).codeAt ∧ (mget {} u.stag.ntc n).codes = (mget {} s.stag.ntc n).codes
      ∧ u.now = s.now := by
  have read : mget {} (setNtc n { mget {} s.stag.ntc n with readAt := some at_ } s).stag.ntc n
      = { mget {} s.stag.ntc n with readAt := some at_ } := mget_mput_self _ _ _ _ inputs
  have sorted : mwf {} (setNtc n { mget {} s.stag.ntc n with readAt := some at_ } s).stag.ntc = true := mwf_mput _ _ _ _ inputs
  dsimp only
  rw [judgeNtc_ntc, mget_mput_self _ _ _ _ sorted, read]
  exact ⟨rfl, rfl, (judgeNtc_only ..).same .now rfl⟩

/-- A code of an NTC input is kept, with the time of it. -/
theorem takeCode_kept (n code : Nat) {s : State} (inputs : mwf {} s.stag.ntc = true) :
    (mget {} (takeCode n code s).stag.ntc n).codeAt = some (takeCode n code s).now
      ∧ (mget {} (takeCode n code s).stag.ntc n).codes.getLast? = some code := by
  have last := codesKept_last (mget {} s.stag.ntc n).codes code
  unfold takeCode
  extract_lets +onlyGivenNames h x codes kept
  have put : mget {} kept.stag.ntc n = { x with codes := codes, codeAt := some s.now } := mget_mput_self _ _ _ _ inputs
  have sorted : mwf {} kept.stag.ntc = true := mwf_mput _ _ _ _ inputs
  have now : kept.now = s.now := rfl
  clear_value kept
  split
  · rw [put, now]
    exact ⟨rfl, last⟩
  · have shown (u : State) (only : Only [.results, .free] kept u) (cause : Option Nat) (c : Nat) (v : Int) :
        let w := judgeNtc n cause c v (setNtc n { mget {} u.stag.ntc n with readAt := some u.now } u)
        (mget {} w.stag.ntc n).codeAt = some w.now ∧ (mget {} w.stag.ntc n).codes.getLast? = some code := by
      obtain ⟨codeAt, same, time⟩ := judgeNtc_codes n cause c u.now v (s := u) (by rw [only.stag_ntc rfl, sorted])
      dsimp only
      rw [codeAt, same, time, only.stag_ntc rfl, put, only.same .now rfl, now]
      exact ⟨rfl, last⟩
    refine shown _ ?_ _ _ _
    exact (setResAt_only ..).step rfl ((setRes_only ..).step rfl ((draw_only _).step rfl ((draw_only _).mono rfl)))

/-! ### The operating minute -/

/-- A tally counter short of its end counts. -/
theorem incTally_counts {n : Nat} {s : State} (short : mget 0 s.pstore.tally n < 16777215) (tallies : mwf 0 s.pstore.tally = true) :
    mget 0 (incTally n s).pstore.tally n = mget 0 s.pstore.tally n + 1 := by
  unfold incTally
  dsimp only
  rw [if_neg (not_le.2 short), (setResAt_only ..).pstore_tally rfl, (queueProgram_only ..).pstore_tally rfl]
  exact mget_mput_self _ _ _ _ tallies

/-- An operating minute counts, at its time or, behind it, at the next second. -/
theorem execOperatingMinute_counts {s : State} (runs : stagRuns s = true) (operates : s.stag.opRuns = true) (read : s.pstore.read = true)
    (short : mget 0 s.pstore.tally 1 < 16777215) (tallies : mwf 0 s.pstore.tally = true) :
    ∃ t, execOperatingMinute s = .next t ∧ mget 0 t.pstore.tally 1 = mget 0 s.pstore.tally 1 + 1 := by
  have counts (u : State) (same : u.pstore.tally = s.pstore.tally) : mget 0 (incTally 1 u).pstore.tally 1 = mget 0 s.pstore.tally 1 + 1 := by
    rw [incTally_counts (by rw [same]; exact short) (by rw [same]; exact tallies), same]
  unfold execOperatingMinute
  rw [if_neg (by simp [runs, operates, read])]
  dsimp only
  split
  · exact ⟨_, rfl, counts _ rfl⟩
  · refine ⟨_, rfl, counts _ ?_⟩
    rw [(advanceTo_only ..).pstore_tally rfl]
    split
    · rfl
    · exact raise_pstore_tally

/-- Settles O44: each sensor's reading, an input's code, and the operating minute. -/
theorem sensorsSampled : Obligations.SensorsSampled := by
  refine fun s canonical runs => ⟨fun n temp small on sensors => ?_, fun n mv small on monitors => ?_,
    fun n code small on inputs enabled => ?_, execOperatingMinute_counts runs⟩
  · have due := sensorDue_only (mget {} s.stag.therm n).readAt (10 * tickMs) s
    refine ⟨thermSample n temp (sensorDue (mget {} s.stag.therm n).readAt (10 * tickMs) s), ?_,
      thermSample_reads small temp (due.kept.canon canonical) (by rw [due.stag_therm rfl, sensors])⟩
    exact congrArg Host.Outcome.next (if_neg (by simp [runs, on, small]))
  · have due := sensorDue_only (mget {} s.stag.vmon n).readAt tickMs s
    have far : ∀ n < 4, logUnits.contains (hVMON n) = false := by decide
    refine ⟨railSample n mv (sensorDue (mget {} s.stag.vmon n).readAt tickMs s), ?_,
      railSample_reads mv (far n (by omega)) (due.kept.canon canonical) (by rw [due.stag_vmon rfl, monitors])⟩
    exact congrArg Host.Outcome.next (if_neg (by simp [runs, on, small]))
  · have due := sensorDue_only (mget {} s.stag.ntc n).codeAt (10 * tickMs) s
    refine ⟨takeCode n code (ntcStale n (sensorDue (mget {} s.stag.ntc n).codeAt (10 * tickMs) s)), ?_,
      takeCode_kept n code (ntcStale_sorted n (by rw [due.stag_ntc rfl, inputs]))⟩
    exact congrArg Host.Outcome.next (if_neg (by simp [runs, on, small, enabled]))

end Sys2Proof.Machine
end

section
/-! SUPPORT. The check of a staged image, the steps of an activation, and the confirmation of a trial image (17, R439 to R444). -/

set_option Elab.async false

namespace Sys2Proof.Machine

/-! ### The check of a staged image -/

theorem imageVerified_ends {s : State} (verifying : res s hUPDATE Par.UPDATE_STATE = 2) (canonical : s.Canonical) :
    res (imageVerified s) hUPDATE Par.UPDATE_RESULT = imageCheck s
      ∧ res (imageVerified s) hUPDATE Par.UPDATE_STATE = (if imageCheck s = 0 then 3 else 6)
      ∧ lastCode (imageVerified s) hUPDATE = 0x0C03 := by
  have kept (p v : Nat) (small : p < 4096) (other : p ≠ Par.UPDATE_RESULT) (t : State) :
      Spared hUPDATE Par.UPDATE_RESULT t (changeRes hUPDATE p v t) := .changeRes t (.inr other) (by decide) small v
  unfold imageVerified
  rw [if_neg (not_not.2 verifying)]
  extract_lets r h v checked rolled
  have checkedOk : checked.Canonical := (setRes_only ..).kept.canon ((changeRes_only ..).kept.canon canonical)
  have result : res checked hUPDATE Par.UPDATE_RESULT = r := res_setRes_self _ _ _ _ ((changeRes_only ..).kept.canon canonical)
  have rolledOk : rolled.Canonical := (changeRes_only ..).kept.canon checkedOk
  have stated : Spared hUPDATE Par.UPDATE_RESULT checked (setUpdate (if r = 0 then 3 else 6) rolled) :=
    (kept _ _ (by decide) (by decide) checked).trans (kept _ _ (by decide) (by decide) rolled)
  have statedOk := stated.canon checkedOk
  refine ⟨?_, ?_, raise_lastCode_self _ _ statedOk⟩
  · rw [res_raise _ _ _ _ statedOk (by decide) (by decide) (by decide), stated.res checkedOk (by decide), result]
  · rw [res_raise _ _ _ _ statedOk (by decide) (by decide) (by decide)]
    exact res_changeRes_self _ _ _ _ rolledOk

/-! ### The steps of an activation -/

theorem setFwSlot_activation (b : Bool) (x : FwSlot) (s : State) : (setFwSlot b x s).stag.activation = s.stag.activation := by
  cases b <;> rfl

theorem disturbSlot_activation (a : Activation) (s : State) : (disturbSlot a s).stag.activation = s.stag.activation := by
  unfold disturbSlot
  extract_lets +onlyGivenNames b x
  dsimp only
  rw [(showFirmware_only _).stag_activation rfl, setFwSlot_activation]
  rfl

theorem nextActivation_activation (a : Activation) (s : State) :
    (nextActivation a s).stag.activation = some { a with step := a.step + 1 } := by
  unfold nextActivation
  rw [(showFirmware_only _).stag_activation rfl]

theorem flashDone_next {a : Activation} {s : State} (active : s.stag.activation = some a) (low : 1 ≤ a.step) (high : a.step ≤ 3) :
    (flashDone true s).stag.activation = some { a with step := a.step + 1 } := by
  unfold flashDone
  rw [active]
  dsimp only
  rw [if_neg (by simp)]
  split
  · rw [nextActivation_activation]
  · rw [nextActivation_activation]
  · rw [nextActivation_activation]
  next notOne notTwo notThree => exact ((show a.step = 1 ∨ a.step = 2 ∨ a.step = 3 by omega).elim notOne (Or.rec notTwo notThree)).elim

theorem flashDone_last {a : Activation} {s : State} (active : s.stag.activation = some a) (last : a.step = 4) (canonical : s.Canonical) :
    (flashDone true s).stag.activation = none ∧ lastCode (flashDone true s) hUPDATE = 0x0C04 := by
  have written : Only [.results, .slots] s (showFirmware (setFwSlot (a.slot == 2)
      { fwSlot s (a.slot == 2) with commit := true } { s with stag.activation := none })) :=
    (showFirmware_only _).step rfl ((setFwSlot_only ..).step rfl (Only.upd_slots (Only.refl s)))
  unfold flashDone
  rw [active]
  dsimp only
  rw [if_neg (by simp)]
  split
  · omega
  · omega
  · omega
  · constructor
    · rw [raise_stag_activation, (setUpdate_only ..).stag_activation rfl, (showFirmware_only _).stag_activation rfl, setFwSlot_activation]
    · exact raise_lastCode_self _ _ ((setUpdate_only ..).kept.canon (written.kept.canon canonical))

theorem flashDone_fails {a : Activation} {s : State} (active : s.stag.activation = some a) (canonical : s.Canonical) :
    (flashDone false s).stag.activation = none ∧ lastCode (flashDone false s) hUPDATE = 0x0C05 := by
  unfold flashDone
  rw [active]
  dsimp only
  rw [if_pos (by simp)]
  have ended : Only [.results, .slots, .free] s (disturbSlot a { s with stag.activation := none }) :=
    (disturbSlot_only ..).after (Only.upd_slots (Only.refl s))
  constructor
  · rw [raise_stag_activation, (setUpdate_only ..).stag_activation rfl, (setRes_only ..).stag_activation rfl, disturbSlot_activation]
  · exact raise_lastCode_self _ _ ((setUpdate_only ..).kept.canon ((setRes_only ..).kept.canon (ended.kept.canon canonical)))

/-! ### What an activation's end moves on -/

/-- A restart for an activation tells nothing. -/
theorem restartStag_activated (s : State) : Only [.results, .heldEvents, .stag] s (restartStag 2 s) := by
  unfold restartStag
  split
  · exact .refl s
  · dsimp only
    rw [if_neg (c := 2 ≤ 1 ∧ _) (by omega)]
    show Only [.results, .heldEvents, .stag] s (incSat hSTAG Par.STAG_RESTARTS 1 { s with stag.restarting := some (2, s.now), stag.overflow := 0 })
    exact (incSat_only ..).step rfl (Only.upd_heldEvents_stag (Only.refl s))

theorem compRaise_unheard (code : Nat) (data : List Nat) (s : State) : Unheard (hCOMP :: lostUnits) s (raise code hCOMP data s) :=
  raise_unheard code data s (fun _ other => by simp_all) (by decide)

theorem judgeFlash_unheard (rs : List (Nat × Nat × Nat)) (s : State) : Unheard (hCOMP :: lostUnits) s (judgeFlash rs s).2 := by
  unfold judgeFlash
  extract_lets +onlyGivenNames m drop judged
  dsimp only
  have small (v : Nat) : Unheard (hCOMP :: lostUnits) s { s with pipe.flashSmall := v } :=
    .of_only (ps := [.pipe]) (Only.upd_pipe (Only.refl s)) rfl
  subst judged
  split
  · exact .refl s
  · have first : Unheard (hCOMP :: lostUnits) s
        (if drop = 0 then { s with pipe.flashSmall := drop } else raise 0x0335 hCOMP [1] { s with pipe.flashSmall := drop }) := by
      split
      · exact small drop
      · exact (small drop).trans (compRaise_unheard ..)
    split
    · exact first.trans (compRaise_unheard ..)
    · exact first

theorem createRegions_unheard (s : State) : Unheard (hCOMP :: lostUnits) s (createRegions s) := by
  unfold createRegions
  split
  · exact .refl s
  · dsimp only
    have judged (rs : List (Nat × Nat × Nat)) (v : Nat) : Unheard (hCOMP :: lostUnits) s
        (changeRes hCOMP Par.COMP_STRESS_DETAIL v (judgeFlash rs s).2) :=
      (judgeFlash_unheard rs s).trans (.of_only (changeRes_only ..) rfl)
    split
    · exact judged _ _
    · exact (judged _ _).trans (.of_only (flashPut_only ..) rfl)

/-- A save that begins tells of the map alone. -/
theorem saveAfter_unheard (s : State) : Unheard (hCOMP :: lostUnits) s (saveAfter s) := by
  unfold saveAfter
  split
  · unfold startSave
    split
    · exact .refl s
    · split
      · exact .of_only (ps := [.pipe]) (Only.upd_pipe (Only.refl s)) rfl
      · exact .trans (.of_only (ps := [.pipe]) (Only.upd_pipe (Only.refl s)) rfl)
          ((createRegions_unheard _).trans (.of_only (showMap_only _) rfl))
  · exact .refl s

/-- What the end of a flash operation moves on: the restart of an activation at once, and the save that waited. -/
def activationOn (ok : Bool) (a : Activation) (s : State) : State :=
  let s := if ok && a.step == 4 && a.mode == 2 then restartStag 2 s else s
  if s.stag.activation.isNone then saveAfter s else s

theorem restartStag_ite (c : Bool) (s : State) : Only [.results, .heldEvents, .stag] s (if c then restartStag 2 s else s) := by
  split
  · exact restartStag_activated s
  · exact .refl s

theorem activationOn_keeps (ok : Bool) (a : Activation) {s : State} (canonical : s.Canonical) :
    (activationOn ok a s).stag.activation = s.stag.activation ∧ (activationOn ok a s).power = s.power
      ∧ lastCode (activationOn ok a s) hUPDATE = lastCode s hUPDATE := by
  have restarted := restartStag_ite (ok && a.step == 4 && a.mode == 2) s
  unfold activationOn
  extract_lets restart
  have same : restart.stag.activation = s.stag.activation := restarted.stag_activation rfl
  have power : restart.power = s.power := restarted.same .power rfl
  have code : lastCode restart hUPDATE = lastCode s hUPDATE := lastCode_of_only restarted rfl _
  have kept : restart.Canonical := restarted.kept.canon canonical
  clear_value restart
  split
  · refine ⟨((saveAfter_only _).stag_activation rfl).trans same, ((saveAfter_only _).same .power rfl).trans power, ?_⟩
    exact (congrArg Prod.snd ((saveAfter_unheard restart).last kept hUPDATE (by decide))).trans code
  · exact ⟨same, power, code⟩

theorem flashDone_power (ok : Bool) (s : State) : (flashDone ok s).power = s.power := (flashDone_only ok s).same .power rfl

/-- With no entry and no restart waiting, the end of a flash operation is the activation's part and what that moves on. -/
theorem execFlashOperationComplete_ends {ok : Bool} {a : Activation} {s : State} (active : s.stag.activation = some a)
    (on : fabricOn s = true) (settled : s.power.transition = none) (steady : s.power.restarting = false) (canonical : s.Canonical) :
    execFlashOperationComplete ok s = .next (activationOn ok a (flashDone ok s)) := by
  have power := (activationOn_keeps ok a ((flashDone_only ok s).kept.canon canonical)).2.1.trans (flashDone_power ok s)
  unfold execFlashOperationComplete
  rw [active]
  dsimp only
  rw [if_neg (by simp [on])]
  exact congrArg Host.Outcome.next (advanceEntry_idle (s := activationOn ok a (flashDone ok s)) (by rw [power]; exact settled) (by rw [power]; exact steady))

/-! ### Confirmation -/

theorem setFwSlot_self (b : Bool) (x : FwSlot) (s : State) : fwSlot (setFwSlot b x s) b = x := by cases b <;> rfl

theorem fwSlot_of_only {ps : List Part} {s t : State} (only : Only ps s t) (hp : ps.contains .slots = false) (b : Bool) :
    fwSlot t b = fwSlot s b := by
  unfold fwSlot
  rw [only.stag_slotA hp, only.stag_slotB hp]

/-- A trial image is confirmed, and the trial is over. -/
theorem confirmImage_confirms {s : State} (trial : s.stag.trial = true) :
    (confirmImage s).stag.trial = false ∧ (fwSlot (confirmImage s) (s.stag.slot == 2)).confirmed = true := by
  unfold confirmImage
  rw [if_neg (by simp [trial])]
  extract_lets +onlyGivenNames b x w marked counted shown
  have counts : Only [.results, .events, .ports, .storeQueue, .tallies, .heldEvents] marked counted :=
    Only.foldl (fun t _ kept => (incTally_only 0 t).after kept) _ _ (Only.refl marked)
  have shows : Only [.results] counted shown := (showFirmware_only _).after (setRes_only ..)
  have trialEnds : marked.stag.trial = false := (setFwSlot_only ..).stag_trial rfl
  have confirmed : fwSlot marked b = { x with confirmed := true } := setFwSlot_self ..
  clear_value marked counted shown
  constructor
  · rw [raise_stag_trial, shows.stag_trial rfl, counts.stag_trial rfl, trialEnds]
  · rw [fwSlot_of_only (raise_only ..) rfl, fwSlot_of_only shows rfl, fwSlot_of_only counts rfl, confirmed]

theorem confirmImage_now (s : State) : (confirmImage s).now = s.now := (confirmImage_only s).same .now rfl

/-- Settles O42: the check's end, the flash operations of an activation, and the trial image's time. -/
theorem firmwareUpdate : Obligations.FirmwareUpdate := by
  refine fun s canonical => ⟨fun runs verifying => ?_, fun a active on settled steady => ?_, fun trial timed runs operates => ?_⟩
  · exact ⟨_, congrArg Host.Outcome.next (if_pos runs), imageVerified_ends verifying canonical⟩
  · have ends (ok : Bool) := execFlashOperationComplete_ends (ok := ok) active on settled steady canonical
    have keeps (ok : Bool) := activationOn_keeps ok a ((flashDone_only ok s).kept.canon canonical)
    refine ⟨fun low high => ⟨_, ends true, ?_⟩, fun last => ⟨_, ends true, ?_⟩, ⟨_, ends false, ?_⟩⟩
    · rw [(keeps true).1, flashDone_next active low high]
    · rw [(keeps true).1, (keeps true).2.2]
      exact flashDone_last active last canonical
    · rw [(keeps false).1, (keeps false).2.2]
      exact flashDone_fails active canonical
  · have confirms := confirmImage_confirms (s := advanceTo
      (s.stag.opAt + (s.stag.trialSince + cfg s hUPDATE Par.UPDATE_CONFIRM_S - s.stag.opBase) * tickS) s) trial
    refine ⟨_, congrArg Host.Outcome.next (if_neg (by simp [trial, timed, runs, operates])), ?_, ?_, ?_⟩
    · rw [settle_stag_trial]
      exact confirms.1
    · rw [fwSlot_of_only (settle_only _) rfl]
      exact confirms.2
    · rw [settle_now, confirmImage_now]
      rfl

end Sys2Proof.Machine
end


section
/-! SUPPORT. The end of a program: what it writes into the store, what it tells, and what goes on while it is in progress. -/

set_option Elab.async false

namespace Sys2Proof.Machine

/-! ### While a program is in progress -/

/-- No program ends: PROGRAMS is as it was, and the program in progress stays. -/
structure Unended (s t : State) : Prop where
  count   : Spared hPSTORE Par.PSTORE_PROGRAMS s t
  current : ∀ x, s.pstore.current = some x → t.pstore.current = some x

theorem Unended.refl (s : State) : Unended s s := ⟨.refl s, fun _ => id⟩

theorem Unended.trans {s t u : State} (a : Unended s t) (b : Unended t u) : Unended s u :=
  ⟨a.count.trans b.count, fun x hx => b.current x (a.current x hx)⟩

theorem Unended.of_spared {ps : List Part} {s t : State} (only : Only ps s t) (count : Spared hPSTORE Par.PSTORE_PROGRAMS s t)
    (queue : ps.contains .storeQueue = false := by decide) : Unended s t :=
  ⟨count, fun _ => (only.pstore_current queue).trans⟩

theorem Unended.of_only {ps : List Part} {s t : State} (only : Only ps s t) (results : ps.contains .results = false := by decide)
    (queue : ps.contains .storeQueue = false := by decide) : Unended s t :=
  .of_spared only (.of_only only results) queue

/-- What changes of the store's queue only what is not in progress. -/
theorem Unended.of_queue {ps : List Part} {s t : State} (only : Only ps s t) (current : t.pstore.current = s.pstore.current)
    (results : ps.contains .results = false := by decide) : Unended s t :=
  ⟨.of_only only results, fun _ => current.trans⟩

theorem Unended.foldl {α : Type} {g : State → α → State} (step : ∀ t a, Unended t (g t a)) :
    ∀ (l : List α) (t : State), Unended t (l.foldl g t)
  | [], t => .refl t
  | a :: l, t => (step t a).trans (Unended.foldl step l (g t a))

theorem Unended.foldl_snd {α β : Type} {g : β × State → α → β × State} (step : ∀ x a, Unended x.2 (g x a).2) :
    ∀ (l : List α) (x : β × State), Unended x.2 (l.foldl g x).2
  | [], x => .refl x.2
  | a :: l, x => (step x a).trans (Unended.foldl_snd step l (g x a))

section
variable {h q : Nat} (s : State) (apart : h ≠ hPSTORE ∨ q ≠ Par.PSTORE_PROGRAMS) (small : q < 4096 := by decide)
include apart small

theorem Unended.setResAt {i : Nat} (v : Int) (hi : i < 4294967296) : Unended s (Machine.setResAt h q i v s) :=
  .of_spared (setResAt_only ..) (.setResAt s apart (by decide) small v hi)

theorem Unended.setRes (v : Nat) : Unended s (Machine.setRes h q v s) := .setResAt s apart small _ (by decide)

theorem Unended.changeRes (v : Nat) : Unended s (Machine.changeRes h q v s) :=
  .of_spared (changeRes_only ..) (.changeRes s apart (by decide) small v)

theorem Unended.incSat (n : Nat) : Unended s (Machine.incSat h q n s) :=
  .of_spared (incSat_only ..) (.incSat s apart (by decide) small n)
end

/-- None starts while one is in progress. -/
theorem startProgram_unended (s : State) : Unended s (startProgram s) := by
  refine ⟨.of_only (startProgram_only s), fun x hx => ?_⟩
  unfold startProgram
  rw [if_pos (by simp [hx])]
  exact hx

theorem queueProgram_unended (p : Program) (s : State) : Unended s (queueProgram p s) := by
  refine .trans ?_ (startProgram_unended _)
  exact .of_queue (ps := [.storeQueue]) (Only.upd_storeQueue (Only.refl s)) rfl

theorem flushGather_unended (s : State) : Unended s (flushGather s) := by
  unfold flushGather
  split
  · exact .refl s
  · refine .trans ?_ (queueProgram_unended ..)
    exact .of_queue (ps := [.storeQueue]) (Only.upd_storeQueue (Only.refl s)) rfl

/-! ### Events -/

theorem showLog_unended (n : Nat) (s : State) : Unended s (showLog n s) := by
  have log (p : Nat) (v : Nat) (t : State) (small : p < 4096) : Unended t (setRes hLOG p v t) := .setRes t (.inl (by decide)) small v
  unfold showLog
  extract_lets newest oldest next
  have first : Unended s newest := log _ _ _ (by decide)
  have second : Unended newest oldest := by
    subst oldest
    split
    · exact log _ _ _ (by decide)
    · split
      · exact log _ _ _ (by decide)
      · exact .refl _
  have third : Unended oldest next := .setRes _ (.inr (by decide)) (by decide) _
  have waiting : Unended next (setRes hPSTORE Par.PSTORE_LOG_WAITING (logWaiting next) next) := .setRes _ (.inr (by decide)) (by decide) _
  exact (((first.trans second).trans third).trans waiting).trans (.of_spared (bumpGen_only ..) (.bumpGen ..))

theorem assignRecord_unended (e : Event) (s : State) : Unended s (assignRecord e s) := by
  have placed (r : LogRec) : Unended s (placeRecord r s) := .of_queue (placeRecord_only r s) rfl
  unfold assignRecord
  extract_lets r
  refine .trans ?_ (showLog_unended ..)
  split
  · exact (placed r).trans (flushGather_unended _)
  · exact placed r

theorem sendNote_unended (i : PortId) (r : Nat) (e : Event) (s : State) : Unended s (sendNote i r e s) := by
  unfold sendNote
  extract_lets p
  split
  · exact .trans (.of_only (setPort_only ..)) (.incSat _ (.inr (by decide)) (by decide) _)
  · exact .trans (.of_only (setPort_only ..)) (.of_only (pushOut_only ..))

theorem recordLost_unended (i : PortId) (s : State) : Unended s (recordLost i s).2 := by
  unfold recordLost
  split
  · exact .refl s
  · exact .trans (.of_only (setPort_only ..))
      (.trans (.of_only (noteLast_only ..)) (.trans (assignRecord_unended ..) (sendNote_unended ..)))

theorem passLost_unended (i : PortId) (x : Option (Nat × Event)) (s : State) : Unended s (passLost i x s) := by
  unfold passLost
  split
  · exact .refl s
  · refine .foldl (fun t j => ?_) _ _
    split
    · exact sendNote_unended ..
    · exact .refl t

theorem tellLost_unended (e : Event) (s : State) : Unended s (tellLost e s) := by
  unfold tellLost
  extract_lets l x
  have recorded : Unended s x.2 := Unended.foldl_snd (fun x i => by exact recordLost_unended i x.2) l ([], s)
  exact recorded.trans (.foldl (fun _ _ => passLost_unended ..) _ _)

theorem notifyAll_unended (r : Nat) (e : Event) (s : State) : Unended s (notifyAll r e s) := by
  unfold notifyAll
  refine .foldl (fun t i => ?_) _ _
  split
  · exact sendNote_unended ..
  · exact .refl t

theorem recordEvent_unended (e : Event) (s : State) : Unended s (recordEvent e s) :=
  ((assignRecord_unended e s).trans (tellLost_unended ..)).trans (notifyAll_unended ..)

theorem tellNotLogged_unended (s : State) : Unended s (tellNotLogged s) := by
  unfold tellNotLogged
  split
  · refine .trans ?_ (.trans (.of_only (noteLast_only ..)) (recordEvent_unended ..))
    exact .of_queue (ps := [.storeQueue]) (Only.upd_storeQueue (Only.refl s)) rfl
  · exact .refl s

theorem logEvent_unended (e : Event) (s : State) : Unended s (logEvent e s) := by
  unfold logEvent
  split
  · exact .refl s
  · extract_lets told
    refine (tellNotLogged_unended s).trans (show Unended told _ from ?_)
    clear_value told
    split
    · refine .trans ?_ (.incSat _ (.inl (by decide)) (by decide) _)
      exact .of_queue (ps := [.storeQueue]) (Only.upd_storeQueue (Only.refl told)) rfl
    · exact .trans (.of_only (noteLimit_only ..)) (recordEvent_unended ..)

theorem holdEvent_unended (e : Event) (s : State) : Unended s (holdEvent e s) := by
  unfold holdEvent
  split
  · exact .trans (.of_only (ps := [.heldEvents]) (Only.upd_heldEvents (Only.refl s))) (.incSat _ (.inl (by decide)) (by decide) _)
  · exact .of_only (ps := [.heldEvents]) (Only.upd_heldEvents (Only.refl s))

theorem raise_unended (code handle : Nat) (data : List Nat) (s : State) : Unended s (raise code handle data s) := by
  unfold raise
  extract_lets noted
  refine .trans (.of_only (noteLast_only ..)) (show Unended noted _ from ?_)
  split
  · exact .refl noted
  · unfold keepEvent
    split
    · exact logEvent_unended ..
    · exact holdEvent_unended ..

theorem settle_unended (s : State) : Unended s (settle s) := by
  have shown (c : Nat) : Unended s (showFaults c s) :=
    .trans (.of_only (ps := [.resil]) (Only.upd_resil (Only.refl s))) (.setRes _ (.inl (by decide)) (by decide) _)
  unfold settle
  extract_lets causes
  split
  · exact .refl s
  · split
    · exact (shown causes).trans (raise_unended ..)
    · split
      · exact (shown causes).trans (raise_unended ..)
      · exact shown causes

/-! ### What the end of a program completes -/

theorem incTally_unended {n : Nat} (small : n < 4294967296) (s : State) : Unended s (incTally n s) := by
  unfold incTally
  extract_lets v slot b bytes
  split
  · split
    · exact .refl s
    · exact .trans (.of_only (ps := [.tallies]) (Only.upd_tallies (Only.refl s))) (raise_unended ..)
  · refine .trans (.trans ?_ (queueProgram_unended ..)) (.setResAt _ (.inr (by decide)) (by decide) _ small)
    exact .of_only (ps := [.tallies]) (Only.upd_tallies (Only.refl s))

theorem endStore_unended (ok : Bool) (stage : List Nat) (s : State) : Unended s (endStore ok stage s) := by
  unfold endStore
  extract_lets +onlyGivenNames tag told
  have outcome (v : Nat) (t : State) : Unended t (setRes hDEV Par.DEV_STORE_OUTCOME v t) := .setRes t (.inl (by decide)) (by decide) v
  exact ((outcome _ s).trans (.setRes _ (.inl (by decide)) (by decide) _)).trans (raise_unended ..)

theorem updateWear_unended (s : State) : Unended s (updateWear s) := by
  unfold updateWear
  extract_lets +onlyGivenNames w shown
  have worn : Unended s shown := .changeRes s (.inr (by decide)) (by decide) _
  clear_value shown
  split
  · refine worn.trans (.trans ?_ (raise_unended ..))
    exact .of_only (ps := [.storeState]) (Only.upd_storeState (Only.refl shown))
  · exact worn

theorem completeProgram_unended (p : Program) (ok : Bool) (s : State) : Unended s (completeProgram p ok s) := by
  have dropped : Unended s (dropImage s) := .of_queue (ps := [.storeQueue]) (Only.upd_storeQueue (Only.refl s)) rfl
  have shown {q : Nat} (other : q ≠ Par.PSTORE_PROGRAMS) (small : q < 4096) (v : Nat) (t : State) : Unended t (setRes hPSTORE q v t) :=
    .setRes t (.inr other) small v
  unfold completeProgram
  split
  · extract_lets +onlyGivenNames n src dropped
    have drops : Only [.storeQueue] s dropped := by exact Only.upd_storeQueue (Only.refl s)
    exact .trans (.of_queue drops rfl) (shown (by decide) (by decide) _ _)
  · split
    · exact .refl s
    · refine .trans ?_ (shown (by decide) (by decide) _ _)
      exact .of_only (ps := [.storeState]) (Only.upd_storeState (Only.refl s))
  · split
    · exact shown (by decide) (by decide) _ s
    · exact .refl s
  · split
    · exact dropped.trans (endStore_unended ..)
    · exact .refl s
  · split
    · exact dropped.trans (endStore_unended ..)
    · split
      · exact .refl s
      · extract_lets header slot sequence
        have first : Unended s slot := shown (by decide) (by decide) _ s
        have second : Unended slot sequence := shown (by decide) (by decide) _ slot
        have third : Unended sequence (setRes hPSTORE Par.PSTORE_IMAGE_BYTES sequence.pstore.storeLen sequence) :=
          shown (by decide) (by decide) _ sequence
        exact ((first.trans second).trans third).trans ((endStore_unended ..).trans (incTally_unended (by decide) _))
  · split
    · exact .refl s
    · exact dropped
  · exact .refl s

theorem tellRetry_unended (p : Program) (ok : Bool) (s : State) : Unended s (tellRetry p ok s) := by
  unfold tellRetry
  extract_lets +onlyGivenNames src failed
  refine .trans (show Unended s failed from ?_) (raise_unended ..)
  subst failed
  split
  · exact .refl s
  · refine .trans ?_ (.incSat _ (.inr (by decide)) (by decide) _)
    exact .of_only (ps := [.storeState]) (Only.upd_storeState (Only.refl s))

theorem showCredentials_unended (s : State) : Unended s (showCredentials s) := by
  unfold showCredentials
  extract_lets +onlyGivenNames k src shown
  refine .trans (show Unended s shown from ?_) (.changeRes _ (.inl (by decide)) (by decide) _)
  subst shown
  split
  · exact .refl s
  · refine .trans ?_ (.of_spared (bumpGen_only ..) (.bumpGen ..))
    exact .of_only (ps := [.security]) (Only.upd_security (Only.refl s))

theorem startKeyWrite_unended (s : State) : Unended s (startKeyWrite s) := by
  unfold startKeyWrite
  split
  · refine .trans ?_ (.foldl (fun t p => queueProgram_unended p t) _ _)
    exact .of_only (ps := [.security]) (Only.upd_security (Only.refl s))
  · exact .refl s

theorem keyProgramDone_unended (p : Program) (ok : Bool) (s : State) : Unended s (keyProgramDone p ok s).2 := by
  unfold keyProgramDone
  split
  · exact .refl s
  · split
    · extract_lets +onlyGivenNames b src copy src' credited
      refine .trans (show Unended s credited from ?_) (startKeyWrite_unended _)
      have copied : Unended s copy := by
        refine .trans ?_ (.setRes _ (.inl (by decide)) (by decide) _)
        exact .of_only (ps := [.security]) (Only.upd_security (Only.refl s))
      subst credited
      clear_value copy
      split
      · exact copied
      · refine copied.trans (.trans ?_ (showCredentials_unended _))
        exact .of_only (ps := [.security]) (Only.upd_security (Only.refl copy))
    · split
      · refine .trans ?_ (startKeyWrite_unended _)
        exact .of_queue (ps := [.storeQueue, .security]) (Only.upd_storeQueue_security (Only.refl s)) rfl
      · exact .refl s

theorem respond_unended (r : Req) (status : Nat) (payload : List Nat) (keep : Bool) (s : State) :
    Unended s (respond r status payload keep s) := by
  obtain ⟨p, -, traffic⟩ := respond_traffic r status payload keep s
  exact .of_spared (respond_only ..) (.trans (.of_only (setPort_only ..)) (.of_quiet traffic.quiet))

theorem answerBusy_unended (r : Req) (ok : Bool) (s : State) : Unended s (answerBusy r ok s) := by
  unfold answerBusy
  split
  · refine .trans ?_ (respond_unended ..)
    exact .of_only (ps := [.requests]) (Only.upd_requests (Only.refl s))
  · exact .of_only (ps := [.requests]) (Only.upd_requests (Only.refl s))

theorem keyChangeDone_unended (c : KeyChange) (ok : Bool) (s : State) : Unended s (keyChangeDone c ok s) := by
  unfold keyChangeDone
  split
  · split
    · exact .refl s
    · split
      · refine .trans ?_ (raise_unended ..)
        exact .of_only (ps := [.requests]) (Only.upd_requests (Only.refl s))
      · exact .refl s
  · exact .refl s
  · exact answerBusy_unended ..
  · exact .refl s

theorem programCompletes_unended (p : Program) (ok : Bool) (s : State) : Unended s (programCompletes p ok s) := by
  have completed := completeProgram_unended p ok s
  unfold programCompletes
  extract_lets done
  have keyed := keyProgramDone_unended p ok done
  refine completed.trans (show Unended done _ from ?_)
  clear_value done
  split
  next c d after pair =>
    rw [pair] at keyed
    exact keyed.trans (keyChangeDone_unended ..)
  next after pair =>
    rw [pair] at keyed
    refine keyed.trans ?_
    split
    · refine .trans ?_ (answerBusy_unended ..)
      split
      · exact .of_only (ps := [.storeState]) (Only.upd_storeState (Only.refl after))
      · exact .refl after
    · exact .refl after

theorem programTried_unended (p : Program) (again ok : Bool) (s : State) : Unended s (programTried p again ok s) := by
  unfold programTried
  extract_lets tried
  have first : Unended s tried := by
    subst tried
    split
    · exact .of_only (writeProgram_only ..)
    · exact .of_only (tearProgram_only ..)
  split
  · exact first.trans (tellRetry_unended ..)
  · exact first

/-! ### The bytes of a program -/

section
variable {β : Type} {key : β → Nat} {val : β → Byte}

theorem mget_writes_other {a : Nat} : ∀ {l : List β} {m : Mem}, mwf 0#8 m = true → (∀ x ∈ l, a ≠ key x) →
    mget 0#8 (l.foldl (fun m b => mput 0#8 m (key b) (val b)) m) a = mget 0#8 m a
  | [], _, _, _ => rfl
  | b :: l, m, wf, apart => by
    rw [List.foldl_cons, mget_writes_other (mwf_mput _ _ _ _ wf) fun x hx => apart x (.tail b hx),
      mget_mput_other _ _ _ _ _ (apart b (.head l)) wf]

/-- Writes to distinct places are all read back. -/
theorem mget_writes_self : ∀ {l : List β} {m : Mem}, mwf 0#8 m = true → (l.map key).Nodup → ∀ x ∈ l,
    mget 0#8 (l.foldl (fun m b => mput 0#8 m (key b) (val b)) m) (key x) = val x
  | b :: l, m, wf, distinct, x, hx => by
    rw [List.map_cons, List.nodup_cons] at distinct
    obtain ⟨fresh, distinct⟩ := distinct
    rw [List.foldl_cons]
    rcases List.mem_cons.1 hx with rfl | hx
    · rw [mget_writes_other (mwf_mput _ _ _ _ wf) fun y hy same => fresh (List.mem_map.2 ⟨y, hy, same.symm⟩), mget_mput_self _ _ _ _ wf]
    · exact mget_writes_self (mwf_mput _ _ _ _ wf) distinct x hx
end

section
variable {s : State} (canon : s.Canonical) {p : Program}
include canon

theorem writeProgram_mem_other {a : Nat} (apart : ∀ x ∈ p.bytes, a ≠ 256 * p.page + x.1) :
    mget 0#8 (writeProgram p s).pstore.mem a = mget 0#8 s.pstore.mem a := mget_writes_other canon.store apart

theorem writeProgram_mem_self (distinct : (p.bytes.map Prod.fst).Nodup) {x : Nat × Nat} (hx : x ∈ p.bytes) :
    mget 0#8 (writeProgram p s).pstore.mem (256 * p.page + x.1) = BitVec.ofNat 8 x.2 := by
  refine mget_writes_self (key := fun b : Nat × Nat => 256 * p.page + b.1) canon.store ?_ x hx
  rw [show (fun b : Nat × Nat => 256 * p.page + b.1) = (256 * p.page + ·) ∘ Prod.fst from rfl, ← List.map_map]
  exact distinct.map fun _ _ => Nat.add_left_cancel

/-- A failed program leaves undefined bytes in its own places only. -/
theorem tearProgram_mem_other {a : Nat} (apart : ∀ x ∈ p.bytes, a ≠ 256 * p.page + x.1) :
    mget 0#8 (tearProgram p s).pstore.mem a = mget 0#8 s.pstore.mem a := by
  refine writeProgram_mem_other ((drawBytes_only ..).kept.canon canon) fun x hx => ?_
  obtain ⟨i, hi, rfl⟩ := List.mem_iff_getElem.1 hx
  simp only [List.getElem_zipWith]
  exact apart _ (List.getElem_mem _)
end

/-! ### PROGRAM_DONE -/

theorem drain_eq_self {s : State} (none : s.ctrl.waiting = []) : drain s = s := by
  unfold drain
  rw [none]
  change { s with ctrl.waiting := [] } = s
  rw [← none]

theorem answerBusy_waiting (r : Req) (ok : Bool) (s : State) : (answerBusy r ok s).ctrl.waiting = s.ctrl.waiting := by
  unfold answerBusy
  split
  · exact respond_ctrl_waiting
  · rfl

theorem keyChangeDone_waiting (c : KeyChange) (ok : Bool) (s : State) : (keyChangeDone c ok s).ctrl.waiting = s.ctrl.waiting := by
  unfold keyChangeDone
  split
  · split
    · rfl
    · split
      · exact (raise_only ..).ctrl_waiting rfl
      · rfl
  · rfl
  · exact answerBusy_waiting ..
  · rfl

theorem programCompletes_waiting (p : Program) (ok : Bool) (s : State) :
    (programCompletes p ok s).ctrl.waiting = s.ctrl.waiting := by
  unfold programCompletes
  extract_lets done
  have keyed := (keyProgramDone_only p ok done).ctrl_waiting rfl
  refine Eq.trans ?_ ((completeProgram_only p ok s).ctrl_waiting rfl)
  change _ = done.ctrl.waiting
  clear_value done
  split
  next c d after pair =>
    rw [pair] at keyed
    exact (keyChangeDone_waiting ..).trans keyed
  next after pair =>
    rw [pair] at keyed
    refine Eq.trans ?_ keyed
    split
    · refine (answerBusy_waiting ..).trans ?_
      split <;> rfl
    · rfl

/-- The state after a program's last try: its bytes stand or are undefined, and its effect follows. -/
def programEnded (p : Program) (again ok : Bool) (s : State) : State :=
  updateWear (programCompletes p ok (programTried p again ok (incWrap hPSTORE Par.PSTORE_PROGRAMS 1 s)))

theorem endProgram_ended {p : Program} {again ok : Bool} {s : State} (current : s.pstore.current = some (p, again))
    (last : (!ok && !again) = false) :
    endProgram programCompletes ok s = startProgram { programEnded p again ok s with pstore.current := none } := by
  unfold endProgram
  simp only [current]
  rw [if_neg (ne_true_of_eq_false last)]
  rfl

theorem endProgram_again {p : Program} {s : State} (current : s.pstore.current = some (p, false)) :
    endProgram programCompletes false s = { incWrap hPSTORE Par.PSTORE_PROGRAMS 1 s with pstore.current := some (p, true) } := by
  unfold endProgram
  simp only [current]
  rfl

theorem endProgram_waiting (ok : Bool) (s : State) : (endProgram programCompletes ok s).ctrl.waiting = s.ctrl.waiting := by
  have counted := (incWrap_only hPSTORE Par.PSTORE_PROGRAMS 1 s).ctrl_waiting rfl
  unfold endProgram
  split
  · rfl
  · extract_lets counts
    split
    · exact counted
    · refine ((startProgram_only _).ctrl_waiting rfl).trans (((updateWear_only _).ctrl_waiting rfl).trans ?_)
      exact (programCompletes_waiting ..).trans (((programTried_only ..).ctrl_waiting rfl).trans counted)

theorem endProgram_power (ok : Bool) (s : State) : (endProgram programCompletes ok s).power = s.power := by
  have only : Only (Part.but [.power]) s (endProgram programCompletes ok s) :=
    endProgram_only ok s rfl fun p t => (programCompletes_only p ok t).mono rfl
  exact only.same .power rfl

/-- With no request that waits and no entry or restart under way, what follows a program's end is the settling. -/
theorem execProgramDone_settles {s : State} {x : Program × Bool} (ok : Bool) (current : s.pstore.current = some x)
    (idle : s.ctrl.waiting = []) (noEntry : s.power.transition = none) (noRestart : s.power.restarting = false) :
    execProgramDone ok s = .next (settle (endProgram programCompletes ok s)) := by
  unfold execProgramDone
  rw [if_neg (by simp [current]), drain_eq_self ((endProgram_waiting ok s).trans idle),
    advanceEntry_idle (by rw [endProgram_power, noEntry]) (by rw [endProgram_power, noRestart])]

section
variable {s : State} {p : Program} {again ok : Bool} (current : s.pstore.current = some (p, again)) (last : (!ok && !again) = false)
include current last

theorem settle_ended_mem : (settle (endProgram programCompletes ok s)).pstore.mem
    = (programTried p again ok (incWrap hPSTORE Par.PSTORE_PROGRAMS 1 s)).pstore.mem := by
  rw [(settle_only _).pstore_mem rfl, endProgram_ended current last, (startProgram_only _).pstore_mem rfl]
  exact ((updateWear_only _).pstore_mem rfl).trans ((programCompletes_only ..).pstore_mem rfl)

/-- A program's last try is counted, and nothing that follows counts another. -/
theorem settle_ended_programs (canon : s.Canonical) :
    res (settle (endProgram programCompletes ok s)) hPSTORE Par.PSTORE_PROGRAMS = (res s hPSTORE Par.PSTORE_PROGRAMS + 1) % w32 := by
  have counted := (incWrap_only hPSTORE Par.PSTORE_PROGRAMS 1 s).kept.canon canon
  have ended : Unended (incWrap hPSTORE Par.PSTORE_PROGRAMS 1 s) (programEnded p again ok s) :=
    ((programTried_unended ..).trans (programCompletes_unended ..)).trans (updateWear_unended _)
  have freed : Spared hPSTORE Par.PSTORE_PROGRAMS (programEnded p again ok s)
      { programEnded p again ok s with pstore.current := none } :=
    .of_only (ps := [.storeQueue]) (Only.upd_storeQueue (Only.refl _))
  have spared := (ended.count.trans freed).trans ((startProgram_unended _).count.trans (settle_unended _).count)
  rw [endProgram_ended current last, spared.res counted (by decide), res_incWrap_self _ _ _ _ canon one_ne_zero]
end

theorem programTried_mem (p : Program) (again ok : Bool) (s : State) :
    (programTried p again ok s).pstore.mem = (if ok then writeProgram p s else tearProgram p s).pstore.mem := by
  unfold programTried
  extract_lets tried
  split
  · exact (tellRetry_only ..).pstore_mem rfl
  · rfl

/-! ### The gathering time -/

theorem flushGather_flushes {s : State} (some : s.pstore.gathered ≠ []) : (flushGather s).pstore.gathered = []
    ∧ (flushGather s).pstore.gatherAt = none ∧ (flushGather s).pstore.queued = s.pstore.queued ++ s.pstore.gathered := by
  have started (t : State) : (startProgram t).pstore.gathered = t.pstore.gathered
      ∧ (startProgram t).pstore.gatherAt = t.pstore.gatherAt ∧ (startProgram t).pstore.queued = t.pstore.queued := by
    unfold startProgram
    split
    · exact ⟨rfl, rfl, rfl⟩
    · split <;> exact ⟨rfl, rfl, rfl⟩
  unfold flushGather
  split
  next empty => exact absurd empty some
  next r rs gathered =>
    extract_lets g bytes last
    obtain ⟨first, second, third⟩ := started { s with
      pstore.gathered := [], pstore.queued := s.pstore.queued ++ g, pstore.gatherAt := none
      pstore.queue := s.pstore.queue ++ [⟨4, 1024 + r.seq % 4096 / 8, bytes, .log last⟩] }
    exact ⟨first, second, third.trans (congrArg (s.pstore.queued ++ ·) gathered.symm)⟩

/-- Settles O40 (`storePrograms` names a function of the model): all that follows the program's last try leaves the store and PROGRAMS
alone. -/
theorem State.storePrograms : Obligations.StorePrograms := by
  unfold Obligations.StorePrograms
  intro s canon idle noEntry noRestart
  have counts := incWrap_only hPSTORE Par.PSTORE_PROGRAMS 1 s
  have counted := counts.kept.canon canon
  refine ⟨fun p again current distinct => ?_, fun p current => ?_, fun p current => ?_, fun g since some => ?_⟩
  · have mem := settle_ended_mem (ok := true) current rfl
    rw [programTried_mem, if_pos rfl] at mem
    refine ⟨_, execProgramDone_settles true current idle noEntry noRestart, fun x hx => ?_, settle_ended_programs current rfl canon,
      fun a apart => ?_⟩
    · rw [mem, writeProgram_mem_self counted distinct hx]
    · rw [mem, writeProgram_mem_other counted apart, counts.pstore_mem rfl]
  · refine ⟨_, execProgramDone_settles false current idle noEntry noRestart, ?_, ?_⟩
    · rw [endProgram_again current]
      exact (settle_unended _).current _ rfl
    · rw [(settle_only _).pstore_mem rfl, endProgram_again current]
      exact counts.pstore_mem rfl
  · have mem := settle_ended_mem (ok := false) current rfl
    rw [programTried_mem, if_neg Bool.false_ne_true] at mem
    refine ⟨_, execProgramDone_settles false current idle noEntry noRestart, fun a apart => ?_⟩
    rw [mem, tearProgram_mem_other counted apart, counts.pstore_mem rfl]
  · obtain ⟨gathered, none, queued⟩ := flushGather_flushes (s := advanceTo (g + cfg s hPSTORE Par.PSTORE_LOG_GATHER_MS * tickMs) s) some
    refine ⟨_, ?_, gathered, none, queued, ?_⟩
    · change execLogGatherTimeout s = _
      unfold execLogGatherTimeout
      rw [since]
    · exact (flushGather_only _).same .now rfl

end Sys2Proof.Machine
end


section
/-! SUPPORT. The writes of SEC's commands (16, R407 to R409, R420): what each sets going, and when it is answered. -/

set_option Elab.async false

namespace Sys2Proof.Machine

/-! ### The key store -/

/-- A change that is due begins to be written at once where none is being written. -/
theorem changeKeys_writes (c : KeyChange) {s : State} (writing : s.sec.writing = none) (none_due : s.sec.changes = []) :
    (changeKeys c s).sec.writing
      = some (c, keyApply { s with sec.changes := [c] } c (bodyInForce { s with sec.changes := [c] })) := by
  have queues (ps : List Program) (t : State) : (ps.foldl (fun s p => queueProgram p s) t).sec = t.sec :=
    (Only.foldl (ps := [.storeQueue]) (fun t p only => (queueProgram_only p t).after only) ps t (Only.refl t)).sec rfl rfl
  unfold changeKeys
  rw [none_due, List.nil_append]
  unfold startKeyWrite
  simp only [writing, queues]

/-- A password that is written stands in the key store's next body, under its salt. -/
theorem changeKeys_password (salt hash : List Nat) {s : State} (writing : s.sec.writing = none) (none_due : s.sec.changes = []) :
    ∃ k, (changeKeys (.password salt hash) s).sec.writing = some (.password salt hash, k)
      ∧ k.opSet = true ∧ k.opSalt = salt ∧ k.opHash = hash :=
  ⟨_, changeKeys_writes _ writing none_due, rfl, rfl, rfl⟩

/-! ### The entries -/

/-- OPERATOR_PASSWORD, as the dictionary has it. -/
def passwordEntry : Entry := en 0x040 (.blob 32) 0 2 2 0 .any .now false true none
/-- INTEGRATOR_KEY, as the dictionary has it. -/
def integratorEntry : Entry := en 0x041 (.int false 1 8) 32 2 2 0 .any .now false true none
/-- ATTEST_CHALLENGE, as the dictionary has it. -/
def challengeEntry : Entry := en 0x044 (.int false 1 8) 32 0 1 0 .any .now false true none

theorem entryAny_password (s : State) : entryAny s hSEC Par.SEC_OPERATOR_PASSWORD = some passwordEntry := rfl
theorem entryAny_integrator (s : State) : entryAny s hSEC Par.SEC_INTEGRATOR_KEY = some integratorEntry := rfl
theorem entryAny_challenge (s : State) : entryAny s hSEC Par.SEC_ATTEST_CHALLENGE = some challengeEntry := rfl

/-- A change of the key store that a WRITE begins is answered once it is written. -/
theorem arrive_keyStore {s t : State} {r : Req} (hop : r.op = 2) (accepted : s.accepts r = true) {e : Entry}
    (named : entryAny (begun r s) r.handle (r.param % 4096) = some e) {c : KeyChange} {k : KeyBody}
    (writes : writeEntry r (port s r.port).level e (begun r s) = ({ await := some .keyStore }, t)) (begins : t.sec.writing = some (c, k)) :
    ∃ t', arrive r s = t' ∧ t'.ctrl.busy = some (r, .keyStore) ∧ t'.sec.writing = some (c, k) := by
  have arrives := arrive_writes hop accepted named writes
  rw [if_pos rfl, finishRequest_awaits] at arrives
  exact ⟨_, arrives, rfl, (congrArg SecSt.writing ((noteActivity_only t).sec rfl rfl)).trans begins⟩

section
variable {h : Hdr} {s : State} (unlocked : s.sec.locked = false) (writing : s.sec.writing = none) (none_due : s.sec.changes = [])
include unlocked writing none_due

/-- OPERATOR_PASSWORD. -/
theorem writePassword_awaits (bs : List Nat) (drawn : bs = [] ∨ s.sec.entropyBad = false) :
    ∃ t c k, writePassword bs s = ({ await := some .keyStore }, t) ∧ t.sec.writing = some (c, k)
      ∧ (bs = [] → c = .noPassword) ∧ (bs ≠ [] → k.opSet = true ∧ k.opHash = pbkdf2 (bs.take 32) k.opSalt 16384) := by
  unfold writePassword
  rw [if_neg (ne_true_of_eq_false unlocked)]
  by_cases empty : bs = []
  · rw [if_pos empty]
    exact ⟨_, _, _, rfl, changeKeys_writes _ writing none_due, fun _ => rfl, (absurd empty ·)⟩
  · rw [if_neg empty, if_neg (ne_true_of_eq_false (drawn.resolve_left empty))]
    extract_lets counted
    have same : counted.sec = s.sec := by
      subst counted
      split
      · exact (countClamp_only ..).sec rfl rfl
      · rfl
    have writing' : (random 16 counted).2.sec.writing = none := (congrArg SecSt.writing same).trans writing
    have none_due' : (random 16 counted).2.sec.changes = [] := (congrArg SecSt.changes same).trans none_due
    generalize random 16 counted = drawn at writing' none_due' ⊢
    obtain ⟨salt, after⟩ := drawn
    obtain ⟨k, begins, set, salted, hash⟩ := changeKeys_password salt (pbkdf2 (bs.take 32) salt 16384) writing' none_due'
    refine ⟨_, _, k, rfl, begins, (absurd · empty), fun _ => ⟨set, ?_⟩⟩
    rw [hash, salted]

end

/-- A challenge is kept as it is written, whatever is noted of it as a value. -/
theorem writeEntry_challenge (r : Req) (level : Nat) {s : State} (unit : r.handle = hSEC) (unlocked : s.sec.locked = false)
    (entropy : s.sec.entropyBad = false) :
    ∃ t, writeEntry r level challengeEntry s = ok { t with sec.attest := some r.payload } ∧ SealsKept s t := by
  let noted := writeElems challengeEntry hSEC 0 (splitValues challengeEntry.ty (elems challengeEntry) r.payload) s
  have only : Only [.config, .shadow, .results] s noted := writeElems_only ..
  have same : noted.sec = s.sec := only.sec rfl rfl
  refine ⟨noted, ?_, .of_only only⟩
  have writes := writeEntry_command (r := r) (e := challengeEntry) (s := s) (m := noted) level rfl rfl (by rw [unit]; decide)
    (by rw [unit]; rfl)
  rw [writes, unit]
  unfold writeCommand
  rw [if_pos rfl, if_neg (by decide), writeChallenge, if_neg (by simp [same, unlocked, entropy])]
  rfl

/-- Settles O49: each write begins its change of the key store, or keeps its challenge, in the state that its request finds. -/
theorem securityRequests : Obligations.SecurityRequests := by
  unfold Obligations.SecurityRequests
  intro s h unlocked writing none_due
  have sec (r : Req) : (begun r s).sec = s.sec := (begun_only r s).sec rfl rfl
  refine ⟨?_, ?_, ?_⟩
  · intro bs r accepted drawn
    obtain ⟨t, c, k, writes, begins, cleared, set⟩ := writePassword_awaits (s := begun r s) (by rw [sec, unlocked]) (by rw [sec, writing])
      (by rw [sec, none_due]) bs (by rwa [sec])
    have blob : writeEntry r (port s h.port).level passwordEntry (begun r s) = writePassword bs (begun r s) :=
      writeEntry_blob (e := passwordEntry) (by decide) rfl
    obtain ⟨t', arrives, busy, written⟩ := arrive_keyStore rfl accepted (entryAny_password _) (blob.trans writes) begins
    exact ⟨t', c, k, congrArg Host.Outcome.next arrives, busy, written, cleared, set⟩
  · intro bs r accepted
    have writes : writeEntry r (port s h.port).level integratorEntry (begun r s) = writeIntegratorKey bs (begun r s) :=
      writeEntry_command (r := r) (e := integratorEntry) _ rfl rfl (by decide : hSEC ≠ hDEV) rfl
    rw [writeIntegratorKey, if_neg (by simp [sec, unlocked])] at writes
    obtain ⟨t', arrives, busy, written⟩ := arrive_keyStore rfl accepted (entryAny_integrator _) writes
      (changeKeys_writes _ (by rw [sec, writing]) (by rw [sec, none_due]))
    exact ⟨t', _, _, congrArg Host.Outcome.next arrives, busy, written, rfl⟩
  · intro bs r accepted entropy
    obtain ⟨t, writes, seals⟩ := writeEntry_challenge r (port s h.port).level (s := begun r s) rfl (by rw [sec, unlocked])
      (by rw [sec, entropy])
    obtain ⟨arrives, answered⟩ := write_accepted (f := id) rfl accepted (entryAny_challenge _) writes
      ((SealsKept.of_only (ps := [.security]) (Only.upd_security (Only.refl t))).key _ |>.trans (seals.key _))
    exact ⟨_, congrArg Host.Outcome.next arrives, congrArg SecSt.attest ((answerOk_only r _).sec rfl rfl), answered⟩

end Sys2Proof.Machine
end


section
/-! SUPPORT. The writes of UPDATE's commands (17, R441, R442, R444): the value that is noted, and what each sets going. -/

set_option Elab.async false

namespace Sys2Proof.Machine

/-! ### The entries, and the values noted -/

/-- The entries of UPDATE that a WRITE sets going, as the dictionary has them (BEGIN, IMAGE, VERIFY, ACTIVATE, CONFIRM). -/
def beginEntry : Entry := en 0x040 (.int false 4 32) 0 2 2 0 (.span 257 4194560) .now false true none
/-- IMAGE -/
def imageEntry : Entry := en 0x041 (.blob 4194560) 0 2 2 0 .any .now false true none
/-- VERIFY -/
def verifyEntry : Entry := en 0x042 (.int false 2 16) 0 2 2 0 .any .now false true none
/-- ACTIVATE -/
def activateEntry : Entry := en 0x043 .enum 0 2 2 0 (.span 0 2) .now false true none
/-- CONFIRM -/
def confirmEntry : Entry := en 0x044 (.int false 2 16) 0 2 2 0 .any .now false true none

theorem entryAny_begin (s : State) : entryAny s hUPDATE Par.UPDATE_BEGIN = some beginEntry := rfl
theorem entryAny_image (s : State) : entryAny s hUPDATE Par.UPDATE_IMAGE = some imageEntry := rfl
theorem entryAny_verify (s : State) : entryAny s hUPDATE Par.UPDATE_VERIFY = some verifyEntry := rfl
theorem entryAny_activate (s : State) : entryAny s hUPDATE Par.UPDATE_ACTIVATE = some activateEntry := rfl
theorem entryAny_confirm (s : State) : entryAny s hUPDATE Par.UPDATE_CONFIRM = some confirmEntry := rfl

theorem decodeValue_u32 {v : Nat} (small : v < 4294967296) : decodeValue (.int false 4 32) (u32 v) = v := by
  unfold decodeValue
  dsimp only
  rw [leNat_toLE_small (n := 4) small, Nat.mod_eq_of_lt (show v < 2 ^ 32 from small)]

theorem decodeValue_enum {v : Nat} (small : v < 256) : decodeValue .enum [v] = v := by
  simp [decodeValue, leNat, Nat.mod_eq_of_lt small]

/-- A code that its entry knows is taken as it is. -/
theorem clampValue_code {lo hi v : Int} (d : Int) (above : lo ≤ v) (below : v ≤ hi) : clampValue .enum (.span lo hi) d v = (v, 0) := by
  unfold clampValue
  dsimp only
  rw [if_neg (by omega), if_neg (by omega), if_pos rfl]

/-! ### Commands that are carried out -/

/-- The value of a command that is no array and stands as it is written is noted. -/
theorem writeElems_noted {e : Entry} {u v : Nat} {payload : List Nat} {s : State}
    (value : splitValues e.ty (elems e) payload = [(v : Int)])
    (taken : clampValue e.ty e.rng (dflt (gradeX s) u e.param 0) v = ((v : Int), 0)) :
    writeElems { e with apply := .now } u 0 (splitValues e.ty (elems e) payload) s = setCfg u e.param 0 (v : Int) s := by
  rw [value]
  exact writeElem_taken (e := { e with apply := .now }) rfl taken

/-- A command of UPDATE notes its value, and is carried out. -/
theorem writeEntry_update {r : Req} {v : Nat} {e : Entry} {s : State} (level : Nat) (unit : r.handle = hUPDATE)
    (form : isBlob e = false) (command : e.command = true) (value : splitValues e.ty (elems e) r.payload = [(v : Int)])
    (taken : clampValue e.ty e.rng (dflt (gradeX s) hUPDATE e.param 0) v = ((v : Int), 0)) (canonical : s.Canonical) :
    writeEntry r level e s = writeUpdate e.param v (setCfg hUPDATE e.param 0 (v : Int) s) s := by
  refine (writeEntry_command (m := setCfg hUPDATE e.param 0 (v : Int) s) level form command (by rw [unit]; decide) ?_).trans ?_
  · rw [unit]
    exact writeElems_noted value taken
  rw [unit, cfg_setCfg_self _ _ _ canonical]
  unfold writeCommand
  rw [if_neg (by decide), if_pos rfl]

/-- BEGIN discards the staged image and receives one of the length given. -/
theorem beginImage_begins (n : Nat) {s : State} (canonical : s.Canonical) : (beginImage n s).stag.imageLen = n
    ∧ (beginImage n s).stag.image = [] ∧ res (beginImage n s) hUPDATE Par.UPDATE_STATE = 1 := by
  unfold beginImage
  extract_lets cleared
  have clearedOk : cleared.Canonical := (changeRes_only ..).kept.canon ((changeRes_only ..).kept.canon canonical)
  have emptied : Only [.image] cleared { cleared with stag.imageLen := n, stag.image := [] } := Only.upd_image (.refl cleared)
  exact ⟨(changeRes_only ..).stag_imageLen rfl, (changeRes_only ..).stag_image rfl,
    res_changeRes_self _ _ _ _ (emptied.kept.canon clearedOk)⟩

theorem placeImage_image (off : Nat) (bs : List Nat) (s : State) :
    (placeImage off bs s).stag.image = storeBytes 0#8 s.stag.image off (bs.take (s.stag.imageLen - off)) := by
  unfold placeImage
  extract_lets +onlyGivenNames kept src placed
  split
  · exact (countClamp_only ..).stag_image rfl
  · rfl

theorem placeImage_inside {off i : Nat} {bs : List Nat} {s : State} (canonical : s.Canonical) (given : i < bs.length)
    (within : off + i < s.stag.imageLen) : mget 0#8 (placeImage off bs s).stag.image (off + i) = BitVec.ofNat 8 (bs.getD i 0) := by
  have kept : i < (bs.take (s.stag.imageLen - off)).length := by
    rw [List.length_take]
    omega
  rw [placeImage_image, storeBytes_inside _ _ _ _ _ canonical.image kept, List.getElem_take, List.getD_eq_getElem?_getD,
    List.getElem?_eq_getElem given, Option.getD_some]

theorem placeImage_outside {off a : Nat} {bs : List Nat} {s : State} (canonical : s.Canonical)
    (outside : a < off ∨ off + bs.length ≤ a ∨ s.stag.imageLen ≤ a) :
    mget 0#8 (placeImage off bs s).stag.image a = mget 0#8 s.stag.image a := by
  rw [placeImage_image]
  refine storeBytes_outside _ _ _ _ _ canonical.image ?_
  rw [List.length_take]
  omega

theorem placeImage_seals (off : Nat) (bs : List Nat) (s : State) : SealsKept s (placeImage off bs s) := .of_only (placeImage_only ..)

theorem fwRoom_of_only {ps : List Part} {s t : State} (only : Only ps s t) (pipe : ps.contains .pipe = false)
    (flash : ps.contains .flash = false) (b : Bool) : fwRoom t b = fwRoom s b := by
  unfold fwRoom region directory directoryCopy flashAt
  rw [only.pipe pipe flash]

/-- The target slot's region has no room for the staged image. -/
def NoRoom (s : State) : Prop := fwRoom s (targetSlot s) < 0x420000 ∨ fwRoom s (targetSlot s) < 0x10000 + s.stag.imageLen

theorem beginActivation_fails (mode : Nat) {s : State} (full : NoRoom s) :
    beginActivation mode s = setUpdate 6 (setRes hUPDATE Par.UPDATE_RESULT 7 s) := by
  unfold NoRoom at full
  unfold beginActivation
  dsimp only
  rw [if_pos full]

theorem beginActivation_begins (mode : Nat) {s : State} (room : ¬ NoRoom s) :
    beginActivation mode s = setUpdate 4 { s with stag.activation := some ⟨mode, 1, fwCode (targetSlot s)⟩ } := by
  unfold NoRoom at room
  unfold beginActivation
  dsimp only
  rw [if_neg room]

/-- What ACTIVATE in a mode leaves: an activation begun, or RESULT 7. -/
structure Activated (mode : Nat) (s t : State) : Prop where
  fails  : NoRoom s →
    t.stag.activation = s.stag.activation ∧ res t hUPDATE Par.UPDATE_RESULT = 7 ∧ res t hUPDATE Par.UPDATE_STATE = 6
  begins : ¬ NoRoom s → t.stag.activation = some ⟨mode, 1, fwCode (targetSlot s)⟩ ∧ res t hUPDATE Par.UPDATE_STATE = 4

theorem beginActivation_done (mode : Nat) {s : State} (canonical : s.Canonical) : Activated mode s (beginActivation mode s) where
  fails full := by
    have failed := (setRes_only hUPDATE Par.UPDATE_RESULT 7 s).kept.canon canonical
    have kept : Only [.results] s (setUpdate 6 (setRes hUPDATE Par.UPDATE_RESULT 7 s)) := (changeRes_only ..).after (setRes_only ..)
    rw [beginActivation_fails mode full]
    refine ⟨kept.stag_activation rfl, ?_, res_changeRes_self _ _ _ _ failed⟩
    exact (res_changeRes_other _ _ failed (by decide)).trans (res_setRes_self _ _ _ _ canonical)
  begins room := by
    have begins : Only [.slots] s { s with stag.activation := some ⟨mode, 1, fwCode (targetSlot s)⟩ } := Only.upd_slots (.refl s)
    rw [beginActivation_begins mode room]
    exact ⟨(changeRes_only ..).stag_activation rfl, res_changeRes_self _ _ _ _ (begins.kept.canon canonical)⟩

theorem incTally_seals (n : Nat) (s : State) : SealsKept s (incTally n s) := by
  unfold incTally
  extract_lets v slot b bytes
  split
  · split
    · exact .refl s
    · exact .trans (.of_only (ps := [.tallies]) (Only.upd_tallies (Only.refl s))) (raise_seals ..)
  · refine .trans (.trans ?_ (.of_only (queueProgram_only ..))) (.of_only (setResAt_only ..))
    exact .of_only (ps := [.tallies]) (Only.upd_tallies (Only.refl s))

theorem confirmImage_seals (s : State) : SealsKept s (confirmImage s) := by
  unfold confirmImage
  split
  · exact .refl s
  · extract_lets +onlyGivenNames b x src marked counted shown
    have marks : SealsKept s marked := .trans (.of_only (ps := [.stag]) (Only.upd_stag (Only.refl s))) (.of_only (setFwSlot_only ..))
    have counts : SealsKept marked counted := .foldl (fun t _ => incTally_seals 0 t) _ _
    have shows : SealsKept counted shown := .of_only ((showFirmware_only _).after (setRes_only ..))
    exact ((marks.trans counts).trans shows).trans (raise_seals ..)

/-! ### The requests -/

section
variable {h : Hdr} {s : State} (canonical : s.Canonical)
include canonical

/-- A command of UPDATE that is accepted and carried out is answered, with its effect on the state in which its value is noted. -/
theorem arrive_update {p v : Nat} {payload : List Nat} {e : Entry} {t : State} (accepted : s.accepts (mkWrite h hUPDATE p payload) = true)
    (named : entryAny (begun (mkWrite h hUPDATE p payload) s) (mkWrite h hUPDATE p payload).handle
      ((mkWrite h hUPDATE p payload).param % 4096) = some e)
    (form : isBlob e = false) (command : e.command = true) (param : e.param = p) (value : splitValues e.ty (elems e) payload = [(v : Int)])
    (taken : ∀ d, clampValue e.ty e.rng d v = ((v : Int), 0))
    (done : writeUpdate p v (noted (mkWrite h hUPDATE p payload) hUPDATE p v s) (begun (mkWrite h hUPDATE p payload) s) = ok t)
    (seals : SealsKept (noted (mkWrite h hUPDATE p payload) hUPDATE p v s) t) :
    arrive (mkWrite h hUPDATE p payload) s = answerOk (mkWrite h hUPDATE p payload) t
      ∧ (answerOk (mkWrite h hUPDATE p payload) t).answered (port s h.port).key (mkWrite h hUPDATE p payload) := by
  subst param
  have writes := writeEntry_update (r := mkWrite h hUPDATE e.param payload) (v := v) (port s h.port).level rfl form command value (taken _)
    ((begun_only (mkWrite h hUPDATE e.param payload) s).kept.canon canonical)
  exact write_accepted (f := id) rfl accepted named (writes.trans done) (((noted_seals ..).trans seals).key _)

theorem noted_update (r : Req) (p v : Nat) : res (noted r hUPDATE p v s) hUPDATE Par.UPDATE_STATE = res s hUPDATE Par.UPDATE_STATE :=
  res_noted (by decide) (by decide) _ _ _ _ canonical

theorem execUpdateBegin_done {n : Nat} (accepted : s.accepts (mkWrite h hUPDATE Par.UPDATE_BEGIN (u32 n)) = true) (low : 257 ≤ n)
    (high : n ≤ 4194560) (unverified : res s hUPDATE Par.UPDATE_STATE ≠ 2) (inactive : res s hUPDATE Par.UPDATE_STATE ≠ 4) :
    ∃ t, exec (.updateBegin h n) s = .next t ∧ t.stag.imageLen = n ∧ t.stag.image = [] ∧ res t hUPDATE Par.UPDATE_STATE = 1
      ∧ t.answered (port s h.port).key (mkWrite h hUPDATE Par.UPDATE_BEGIN (u32 n)) := by
  let r := mkWrite h hUPDATE Par.UPDATE_BEGIN (u32 n)
  let m := noted r hUPDATE Par.UPDATE_BEGIN n s
  have ready : m.Canonical := noted_canonical _ _ _ _ canonical
  have done : writeUpdate Par.UPDATE_BEGIN n m (begun r s) = ok (beginImage n m) := by
    unfold writeUpdate
    rw [if_pos rfl, noted_update canonical, if_neg (by tauto)]
  obtain ⟨arrives, answered⟩ := arrive_update canonical accepted (entryAny_begin _) rfl rfl rfl
    (congrArg (fun v => [v]) (decodeValue_u32 (by omega))) (fun d => clampValue_span 4 32 d (by omega) (by omega)) done
    (.of_only (beginImage_only ..))
  obtain ⟨length, empty, state⟩ := beginImage_begins n ready
  refine ⟨_, congrArg Host.Outcome.next arrives, ?_, ?_, ?_, answered⟩
  · exact ((answerOk_only ..).stag_imageLen rfl).trans length
  · exact ((answerOk_only ..).stag_image rfl).trans empty
  · exact (res_answerOk (by decide) (by decide) _ ((beginImage_only ..).kept.canon ready)).trans state

theorem execUpdateImage_done {off : Nat} {bs : List Nat} (small : off < 2 ^ 32)
    (accepted : s.accepts (mkWrite h hUPDATE Par.UPDATE_IMAGE (u32 off ++ bs)) = true) (receiving : res s hUPDATE Par.UPDATE_STATE = 1) :
    ∃ t, exec (.updateImage h off bs) s = .next t
      ∧ (∀ i < bs.length, off + i < s.stag.imageLen → mget 0#8 t.stag.image (off + i) = BitVec.ofNat 8 (bs.getD i 0))
      ∧ (∀ a, (a < off ∨ off + bs.length ≤ a ∨ s.stag.imageLen ≤ a) → mget 0#8 t.stag.image a = mget 0#8 s.stag.image a)
      ∧ t.answered (port s h.port).key (mkWrite h hUPDATE Par.UPDATE_IMAGE (u32 off ++ bs)) := by
  let r := mkWrite h hUPDATE Par.UPDATE_IMAGE (u32 off ++ bs)
  have begins := begun_only r s
  have ready : (begun r s).Canonical := begins.kept.canon canonical
  have state : res (begun r s) hUPDATE Par.UPDATE_STATE = 1 :=
    (congrArg Int.toNat ((begun_told r s).same canonical hUPDATE Par.UPDATE_STATE 0 (by decide) (by decide) (by decide))).trans receiving
  have writes : writeEntry r (port s h.port).level imageEntry (begun r s) = ok (placeImage off bs (begun r s)) := by
    refine (writeEntry_blob (e := imageEntry) small rfl).trans ?_
    unfold writeBlobEntry
    rw [if_neg (by decide), if_pos rfl, if_neg (not_not.2 state)]
  obtain ⟨arrives, answered⟩ := write_accepted (f := id) rfl accepted (entryAny_image _) writes ((placeImage_seals ..).key _)
  have image : (answerOk r (placeImage off bs (begun r s))).stag.image = (placeImage off bs (begun r s)).stag.image :=
    (answerOk_only ..).stag_image rfl
  have length : (begun r s).stag.imageLen = s.stag.imageLen := begins.stag_imageLen rfl
  refine ⟨_, congrArg Host.Outcome.next arrives, fun i given within => ?_, fun a outside => ?_, answered⟩
  · exact (congrArg (mget 0#8 · (off + i)) image).trans (placeImage_inside ready given (by rwa [length]))
  · refine (congrArg (mget 0#8 · a) image).trans ((placeImage_outside ready (by rwa [length])).trans ?_)
    rw [begins.stag_image rfl]

theorem execUpdateVerify_done {tag : Nat} (small : tag < 65536)
    (accepted : s.accepts (mkWrite h hUPDATE Par.UPDATE_VERIFY (u16 tag)) = true)
    (unverified : res s hUPDATE Par.UPDATE_STATE ≠ 2) (inactive : res s hUPDATE Par.UPDATE_STATE ≠ 4) :
    ∃ t, exec (.updateVerify h tag) s = .next t ∧ res t hUPDATE Par.UPDATE_STATE = 2
      ∧ t.answered (port s h.port).key (mkWrite h hUPDATE Par.UPDATE_VERIFY (u16 tag)) := by
  let r := mkWrite h hUPDATE Par.UPDATE_VERIFY (u16 tag)
  let m := noted r hUPDATE Par.UPDATE_VERIFY tag s
  have ready : m.Canonical := noted_canonical _ _ _ _ canonical
  have done : writeUpdate Par.UPDATE_VERIFY tag m (begun r s) = ok (setUpdate 2 m) := by
    unfold writeUpdate
    rw [if_neg (by decide), if_pos rfl, noted_update canonical, if_neg (by tauto)]
  obtain ⟨arrives, answered⟩ := arrive_update canonical accepted (entryAny_verify _) rfl rfl rfl
    (congrArg (fun v => [v]) (decodeValue_u16 small)) (fun d => clampValue_any 2 16 d _) done (.of_only (setUpdate_only ..))
  refine ⟨_, congrArg Host.Outcome.next arrives, ?_, answered⟩
  exact (res_answerOk (by decide) (by decide) _ ((setUpdate_only ..).kept.canon ready)).trans (res_changeRes_self _ _ _ _ ready)

theorem arrive_activate {mode : Nat} (known : mode = 1 ∨ mode = 2)
    (accepted : s.accepts (mkWrite h hUPDATE Par.UPDATE_ACTIVATE [mode]) = true) (verified : res s hUPDATE Par.UPDATE_STATE = 3)
    (idle : mapBusy s = false) :
    ∃ t, arrive (mkWrite h hUPDATE Par.UPDATE_ACTIVATE [mode]) s = t
      ∧ t.answered (port s h.port).key (mkWrite h hUPDATE Par.UPDATE_ACTIVATE [mode]) ∧ Activated mode s t := by
  let r := mkWrite h hUPDATE Par.UPDATE_ACTIVATE [mode]
  let m := noted r hUPDATE Par.UPDATE_ACTIVATE mode s
  have notes : Only [.results, .ports, .config] s m := noted_only ..
  have ready : m.Canonical := noted_canonical _ _ _ _ canonical
  have settled : mapBusy m = false := by
    unfold mapBusy
    rwa [notes.pipe rfl rfl]
  have done : writeUpdate Par.UPDATE_ACTIVATE mode m (begun r s) = ok (beginActivation mode m) := by
    unfold writeUpdate writeActivate
    rw [if_neg (by decide), if_neg (by decide), if_pos rfl, if_neg (by omega), noted_update canonical, if_neg (by simp [verified, settled])]
  obtain ⟨arrives, answered⟩ := arrive_update canonical accepted (entryAny_activate _) rfl rfl rfl
    (congrArg (fun v => [v]) (decodeValue_enum (by omega))) (fun d => clampValue_code d (by omega) (by omega)) done
    (.of_only (beginActivation_only ..))
  have after := (beginActivation_only mode m).kept.canon ready
  have activation := (answerOk_only r (beginActivation mode m)).stag_activation rfl
  have shown (p : Nat) (small : p < 4096) : res (answerOk r (beginActivation mode m)) hUPDATE p = res (beginActivation mode m) hUPDATE p :=
    res_answerOk (by decide) small r after
  have target : targetSlot m = targetSlot s := congrArg (· == 1) (notes.stag_slot rfl)
  have room : NoRoom m ↔ NoRoom s := by
    unfold NoRoom
    rw [target, fwRoom_of_only notes rfl rfl, notes.stag_imageLen rfl]
  obtain ⟨fails, begins⟩ := beginActivation_done mode ready
  refine ⟨_, arrives, answered, fun full => ?_, fun spare => ?_⟩
  · rw [activation, shown _ (by decide), shown _ (by decide), ← notes.stag_activation rfl]
    exact fails (room.2 full)
  · rw [activation, shown _ (by decide), ← target]
    exact begins (spare ∘ room.1)

theorem execConfirm_done {tag : Nat} (small : tag < 65536)
    (accepted : s.accepts (mkWrite h hUPDATE Par.UPDATE_CONFIRM (u16 tag)) = true) (trial : s.stag.trial = true) :
    ∃ t, exec (.confirm h tag) s = .next t ∧ t.stag.trial = false ∧ (fwSlot t (s.stag.slot == 2)).confirmed = true
      ∧ t.answered (port s h.port).key (mkWrite h hUPDATE Par.UPDATE_CONFIRM (u16 tag)) := by
  let r := mkWrite h hUPDATE Par.UPDATE_CONFIRM (u16 tag)
  let m := noted r hUPDATE Par.UPDATE_CONFIRM tag s
  have notes : Only [.results, .ports, .config] s m := noted_only ..
  have done : writeUpdate Par.UPDATE_CONFIRM tag m (begun r s) = ok (settle (confirmImage m)) := by
    unfold writeUpdate
    rw [if_neg (by decide), if_neg (by decide), if_neg (by decide)]
  obtain ⟨arrives, answered⟩ := arrive_update canonical accepted (entryAny_confirm _) rfl rfl rfl
    (congrArg (fun v => [v]) (decodeValue_u16 small)) (fun d => clampValue_any 2 16 d _) done
    ((confirmImage_seals m).trans (settle_seals _))
  obtain ⟨ended, confirmed⟩ := confirmImage_confirms (s := m) ((notes.stag_trial rfl).trans trial)
  have after : Only [.results, .events, .ports, .storeQueue, .heldEvents, .resil, .can, .aux, .power] (confirmImage m)
      (answerOk r (settle (confirmImage m))) := (answerOk_only r _).after ((settle_only _).mono rfl)
  refine ⟨_, congrArg Host.Outcome.next arrives, (after.stag_trial rfl).trans ended, ?_, answered⟩
  rw [← notes.stag_slot rfl]
  exact (congrArg FwSlot.confirmed (fwSlot_of_only after rfl _)).trans confirmed

end

/-- Settles O43: each request of UPDATE is taken in the state in which its value is noted. -/
theorem updateRequests : Obligations.UpdateRequests := by
  refine fun s h canonical => ⟨?_, ?_, ?_, ?_, ?_⟩
  · exact fun n accepted low high unverified inactive => execUpdateBegin_done canonical accepted low high unverified inactive
  · exact fun off bs small accepted receiving => execUpdateImage_done canonical small accepted receiving
  · exact fun tag small accepted unverified inactive => execUpdateVerify_done canonical small accepted unverified inactive
  · intro mode c form accepted verified idle
    have known : mode = 1 ∨ mode = 2 := form.imp And.left And.left
    obtain ⟨t, arrives, answered, fails, begins⟩ := arrive_activate canonical known accepted verified idle
    have runs : exec c s = .next t := by
      rcases form with ⟨rfl, rfl⟩ | ⟨rfl, rfl⟩
      · exact congrArg Host.Outcome.next arrives
      · exact congrArg Host.Outcome.next arrives
    unfold NoRoom at fails begins
    refine ⟨t, runs, answered, ?_⟩
    rw [ite_prop_iff_and]
    exact ⟨fails, begins⟩
  · exact fun tag small accepted trial => execConfirm_done canonical small accepted trial

end Sys2Proof.Machine
end


section
/-! SUPPORT. What answers no request and opens no session: events, frames of the AUX pair, the wipe of the keys and the end of sessions. -/

set_option Elab.async false

namespace Sys2Proof.Machine

/-! ### Nothing is answered -/

/-- No request is answered, no session opens, and a restart by command stays as it is. -/
structure Unanswering (s t : State) : Prop where
  retained   : ∀ i, (port t i).retained = (port s i).retained
  closed     : ∀ i, (port s i).level = 0 → (port t i).level = 0
  restarting : t.power.restarting = s.power.restarting

theorem Unanswering.refl (s : State) : Unanswering s s := ⟨fun _ => rfl, fun _ => id, rfl⟩

theorem Unanswering.trans {s t u : State} (a : Unanswering s t) (b : Unanswering t u) : Unanswering s u :=
  ⟨fun i => (b.retained i).trans (a.retained i), fun i h => b.closed i (a.closed i h), b.restarting.trans a.restarting⟩

/-- What leaves the control ports alone answers nothing. -/
theorem Unanswering.of_ports {ps : List Part} {s t : State} (only : Only ps s t) (restarting : t.power.restarting = s.power.restarting)
    (ports : ps.contains .ports = false := by decide) : Unanswering s t :=
  ⟨fun i => by rw [port_of_only only ports], fun i h => by rwa [port_of_only only ports], restarting⟩

theorem Unanswering.of_only {ps : List Part} {s t : State} (only : Only ps s t) (ports : ps.contains .ports = false := by decide)
    (power : ps.contains .power = false := by decide) : Unanswering s t :=
  .of_ports only (congrArg PowerSt.restarting (only.same .power power)) ports

/-- The same, of what a state is made into by fields of its own. -/
theorem Unanswering.of_eq {s t : State} (ctrl : t.ctrl = s.ctrl) (restarting : t.power.restarting = s.power.restarting) :
    Unanswering s t := by
  have same (i : PortId) : port t i = port s i := by
    unfold port
    rw [ctrl]
  exact ⟨fun i => by rw [same], fun i h => by rwa [same], restarting⟩

theorem Unanswering.setPort (i : PortId) {p : PortSt} {s : State} (retained : p.retained = (port s i).retained)
    (closed : (port s i).level = 0 → p.level = 0) : Unanswering s (Machine.setPort i p s) := by
  refine ⟨fun j => ?_, fun j h => ?_, by cases i <;> rfl⟩
  · rw [port_setPort_eq]
    split
    next own => rw [own, retained]
    next => rfl
  · rw [port_setPort_eq]
    split
    next own => exact closed (own ▸ h)
    next => exact h

theorem Unanswering.foldl {α : Type} {g : State → α → State} (step : ∀ t a, Unanswering t (g t a)) :
    ∀ (l : List α) (t : State), Unanswering t (l.foldl g t)
  | [], t => .refl t
  | a :: l, t => (step t a).trans (Unanswering.foldl step l (g t a))

theorem Unanswering.foldl_snd {α β : Type} {g : β × State → α → β × State} (step : ∀ x a, Unanswering x.2 (g x a).2) :
    ∀ (l : List α) (x : β × State), Unanswering x.2 (l.foldl g x).2
  | [], x => .refl x.2
  | a :: l, x => (step x a).trans (Unanswering.foldl_snd step l (g x a))

/-- What is done where a condition holds, and else left. -/
theorem Unanswering.ite {c : Prop} [Decidable c] {s t : State} (done : c → Unanswering s t) : Unanswering s (if c then t else s) := by
  split
  next h => exact done h
  next => exact .refl s

/-! ### Events -/

theorem pushOut_unanswering (i : PortId) (f : OutFrame) (s : State) : Unanswering s (pushOut i f s) := .setPort i rfl id

theorem sendNote_unanswering (i : PortId) (r : Nat) (e : Event) (s : State) : Unanswering s (sendNote i r e s) := by
  unfold sendNote
  extract_lets p
  split
  · exact .trans (t := setPort i { p with lost := p.lost + 1 } s) (.setPort i rfl id) (.of_only (incSat_only ..))
  · obtain ⟨n, sealed⟩ := sealFrame_port p 0xC0 p.nseq e.handle 0x00C 0 0 (notePayload r e)
    simp only [sealed]
    refine .trans ?_ (pushOut_unanswering ..)
    exact .setPort i rfl id

theorem recordLost_unanswering (i : PortId) (s : State) : Unanswering s (recordLost i s).2 := by
  unfold recordLost
  split
  · exact .refl s
  · refine .trans (t := setPort i { port s i with lost := 0 } s) (.setPort i rfl id) ?_
    exact .trans (.of_only (noteLast_only ..)) (.trans (.of_only (assignRecord_only ..)) (sendNote_unanswering ..))

theorem passLost_unanswering (i : PortId) (x : Option (Nat × Event)) (s : State) : Unanswering s (passLost i x s) := by
  unfold passLost
  split
  · exact .refl s
  · exact .foldl (fun t j => .ite fun _ => sendNote_unanswering ..) _ _

theorem tellLost_unanswering (e : Event) (s : State) : Unanswering s (tellLost e s) := by
  unfold tellLost
  extract_lets l x
  have recorded : Unanswering s x.2 := Unanswering.foldl_snd (fun x i => by exact recordLost_unanswering i x.2) l ([], s)
  exact recorded.trans (.foldl (fun _ _ => passLost_unanswering ..) _ _)

theorem notifyAll_unanswering (r : Nat) (e : Event) (s : State) : Unanswering s (notifyAll r e s) :=
  .foldl (fun _ _ => .ite fun _ => sendNote_unanswering ..) _ _

theorem recordEvent_unanswering (e : Event) (s : State) : Unanswering s (recordEvent e s) :=
  .trans (.of_only (assignRecord_only e s)) ((tellLost_unanswering ..).trans (notifyAll_unanswering ..))

theorem tellNotLogged_unanswering (s : State) : Unanswering s (tellNotLogged s) := by
  unfold tellNotLogged
  refine .ite fun _ => .trans ?_ (.trans (.of_only (noteLast_only ..)) (recordEvent_unanswering ..))
  exact .of_eq rfl rfl

theorem logEvent_unanswering (e : Event) (s : State) : Unanswering s (logEvent e s) := by
  unfold logEvent
  split
  · exact .refl s
  · extract_lets told
    refine (tellNotLogged_unanswering s).trans (show Unanswering told _ from ?_)
    clear_value told
    split
    · refine .trans ?_ (.of_only (incSat_only ..))
      exact .of_eq rfl rfl
    · exact .trans (.of_only (noteLimit_only ..)) (recordEvent_unanswering ..)

theorem raise_unanswering (code handle : Nat) (data : List Nat) (s : State) : Unanswering s (raise code handle data s) := by
  unfold raise keepEvent
  extract_lets noted
  refine .trans (.of_only (noteLast_only ..)) (show Unanswering noted _ from ?_)
  split
  · exact .refl noted
  · split
    · exact logEvent_unanswering ..
    · exact .of_only (holdEvent_only ..)

theorem settle_unanswering (s : State) : Unanswering s (settle s) := by
  have shown (c : Nat) : Unanswering s (showFaults c s) := .of_only (showFaults_only ..)
  unfold settle
  extract_lets causes
  split
  · exact .refl s
  split
  · exact (shown causes).trans (raise_unanswering ..)
  split
  · exact (shown causes).trans (raise_unanswering ..)
  · exact shown causes

/-! ### The AUX pair -/

theorem auxSegment_unanswering {s : State} {x : AuxReq × State} (h : auxSegment s = some x) : Unanswering s x.2 := by
  unfold auxSegment at h
  extract_lets cut at h
  have sent (t : State) (v : Option (List Nat × Nat)) : Unanswering t { t with aux.sending := v } := .of_eq rfl rfl
  split at h
  · cases h
    exact sent s _
  · split at h
    · cases h
    · cases h
      refine .trans (.trans ?_ (.of_only (incWrap_only ..))) (sent _ _)
      exact .setPort .sideband rfl id

theorem auxNext_unanswering {s : State} {x : AuxReq × State} (h : auxNext s = some x) : Unanswering s x.2 := by
  unfold auxNext at h
  have take (c : Nat) (h : auxTake c s = some x) : Unanswering s x.2 := .of_only (auxTake_only c s x h)
  simp only [Option.or_eq_some_iff] at h
  rcases h with h | ⟨-, h | ⟨-, h⟩⟩
  · exact take 0 h
  · exact take 4 h
  · split at h
    · cases h
    · simp only [Option.or_eq_some_iff] at h
      rcases h with h | ⟨-, h | ⟨-, h⟩⟩
      · exact take 2 h
      · exact take 1 h
      · exact auxSegment_unanswering h

theorem auxPump_unanswering (s : State) : Unanswering s (auxPump s) := by
  unfold auxPump
  split
  · exact .refl s
  · split
    · exact .refl s
    next r t taken =>
      refine (auxNext_unanswering taken).trans (.trans ?_ (.of_only (incWrap_only ..)))
      exact .of_eq rfl rfl

theorem auxPush_unanswering (channel : Nat) (payload : List Nat) (s : State) : Unanswering s (auxPush channel payload s) :=
  .trans (t := { s with aux.queue := s.aux.queue ++ [⟨channel, payload⟩] }) (.of_eq rfl rfl) (auxPump_unanswering _)

theorem sendCredit_unanswering (s : State) : Unanswering s (sendCredit s) := by
  unfold sendCredit
  extract_lets +onlyGivenNames shown aux filtered
  have drops : Unanswering shown filtered := .of_eq rfl rfl
  exact .trans (t := shown) (.of_only (showRegionLimit_only ..)) (drops.trans (auxPush_unanswering ..))

/-! ### The keys and the sessions -/

theorem setLevel_unanswering (i : PortId) (key : Option (List Nat)) (s : State) : Unanswering s (setLevel i 0 key s) := by
  refine .trans (t := setPort i { port s i with level := 0, key := key, reqCount := 0, rspCount := 0 } s) ?_ (.of_only (changeRes_only ..))
  exact .setPort i rfl fun _ => rfl

theorem endSession_unanswering (i : PortId) (reason : Nat) (s : State) : Unanswering s (endSession i reason s) := by
  unfold endSession
  extract_lets level
  split
  · exact .refl s
  · exact (raise_unanswering ..).trans (setLevel_unanswering ..)

/-- Every port is at Observer once all sessions have ended. -/
theorem endSessions_closed (reason : Nat) (s : State) (i : PortId) : (port (endSessions reason s) i).level = 0 := by
  have closes (j k : PortId) (t : State) (closed : (port t k).level = 0) : (port (endSession j reason t) k).level = 0 :=
    (endSession_unanswering j reason t).closed k closed
  unfold endSessions
  simp only [ports, List.foldl_cons, List.foldl_nil]
  cases i with
  | host => exact closes _ _ _ (closes _ _ _ (endSession_level ..))
  | field => exact closes _ _ _ (endSession_level ..)
  | sideband => exact endSession_level ..

theorem endSessions_unanswering (reason : Nat) (s : State) : Unanswering s (endSessions reason s) :=
  .foldl (fun _ _ => endSession_unanswering ..) _ _

theorem dropKeys_unanswering (sets cause : Nat) (s : State) : Unanswering s (dropKeys sets cause s) := by
  unfold dropKeys
  extract_lets +onlyGivenNames lost sec first sec' second
  split
  · exact .refl s
  · have one : Unanswering s first := .ite fun _ => .of_eq rfl rfl
    have two : Unanswering first second := .ite fun _ => .of_eq rfl rfl
    exact (one.trans two).trans (.trans (.of_only (changeRes_only ..)) (raise_unanswering ..))

theorem drawFrameKey_unanswering (cause : Nat) (s : State) : Unanswering s (drawFrameKey cause s) := by
  unfold drawFrameKey
  refine .trans ?_ (raise_unanswering ..)
  refine .trans (t := { (drawBytes 32 s).2 with sec.frameKey := some (drawBytes 32 s).1 }) (.of_eq rfl rfl) ?_
  exact .foldl (fun t n => .ite fun _ => .of_only (setSlot_only ..)) _ _

theorem wipeSecure_unanswering (cause : Nat) (s : State) : Unanswering s (wipeSecure cause s) := by
  unfold wipeSecure
  extract_lets +onlyGivenNames lo src cleared shown
  have first : Unanswering s shown := .trans (t := cleared) (.of_eq rfl rfl) (.of_only (setRes_only ..))
  have draws (t : State) : Unanswering t (draw t).2 := .of_eq rfl rfl
  have drawn := first.trans (draws shown)
  clear_value shown
  generalize draw shown = d at drawn
  obtain ⟨n, after⟩ := d
  simp only at drawn ⊢
  have counted : Unanswering after (setRes hSRAM Par.SRAM_LAST_WIPE_US (n % 51) (incSat hSRAM Par.SRAM_SECURE_WIPES 1 after)) :=
    .trans (.of_only (incSat_only ..)) (.of_only (setRes_only ..))
  have wiped := (drawn.trans counted).trans (raise_unanswering 0x0806 (hBANK 23) ([cause] ++ u16 (n % 51)) _)
  generalize raise 0x0806 _ _ _ = told at wiped ⊢
  split
  · exact wiped
  · refine wiped.trans ((draws told).trans ?_)
    split
    · exact .refl _
    · exact .trans (.of_only (setBank_only ..)) ((raise_unanswering ..).trans (settle_unanswering _))

theorem wipeKeys_unanswering (cause : Nat) (s : State) : Unanswering s (wipeKeys cause s) := by
  unfold wipeKeys
  refine .trans ?_ (wipeSecure_unanswering ..)
  exact .of_eq rfl rfl

/-- What follows the end of the sessions in a change of the lifecycle state. -/
theorem enterLifecycle_after (target : Nat) (s : State) : Unanswering (endSessions 2 (wipeKeys 1 s)) (enterLifecycle target s) := by
  unfold enterLifecycle
  extract_lets held wiped told changed
  have first : Unanswering (endSessions 2 (wipeKeys 1 s)) wiped := (dropKeys_unanswering ..).trans (drawFrameKey_unanswering ..)
  have second : Unanswering wiped told := by
    subst told
    split
    · exact .refl wiped
    · exact auxPush_unanswering ..
  have third : Unanswering told changed := .of_only (changeKeys_only ..)
  exact ((first.trans second).trans third).trans (.ite fun _ => .of_only (changeKeys_only ..))

theorem enterLifecycle_unanswering (target : Nat) (s : State) : Unanswering s (enterLifecycle target s) :=
  ((wipeKeys_unanswering 1 s).trans (endSessions_unanswering ..)).trans (enterLifecycle_after target s)

theorem enterLifecycle_closed (target : Nat) (s : State) (i : PortId) : (port (enterLifecycle target s) i).level = 0 :=
  (enterLifecycle_after target s).closed i (endSessions_closed ..)

end Sys2Proof.Machine
end


section
/-! SUPPORT. What answers no request, of the frame store, the output ports, the link's input and its episodes. -/

set_option Elab.async false

namespace Sys2Proof.Machine

/-! ### The frame store -/

theorem blockFailed_report_unanswering (slot c yf cause : Nat) (x : Slot) (s : State) :
    Unanswering s (blockFailed.report slot c yf cause x s) := by
  unfold blockFailed.report
  extract_lets lost broken counted told
  have counts : Unanswering s counted :=
    .trans (.of_only (setSlot_only ..)) (.trans (.of_only (incSat_only ..)) (.of_only (incSat_only ..)))
  have tells : Unanswering counted told := .ite fun _ => raise_unanswering ..
  exact (counts.trans tells).trans (raise_unanswering ..)

theorem blockFailed_unanswering (slot c yf cause : Nat) (s : State) : Unanswering s (blockFailed slot c yf cause s) := by
  unfold blockFailed
  extract_lets x
  split
  · exact .refl s
  split
  · split
    · exact .refl s
    · exact blockFailed_report_unanswering ..
  · exact blockFailed_report_unanswering ..

theorem countRead_unanswering (skips : Skips) (slot y a w : Nat) (s : State) : Unanswering s (countRead skips slot y a w s) := by
  unfold countRead
  extract_lets x
  refine .foldl (fun t c => ?_) _ _
  split
  · extract_lets key
    split
    · exact .refl t
    · refine .trans ?_ (.of_only (incWrap_only ..))
      exact .of_eq rfl rfl
  · exact blockFailed_unanswering ..

theorem countSubstitute_unanswering (src : Option Nat) (m : Mode) (y a w : Nat) (s : State) :
    Unanswering s (countSubstitute src m y a w s) := by
  unfold countSubstitute
  split
  · exact .refl s
  · exact .ite fun _ => countRead_unanswering ..

theorem storeInputLine_unanswering (m : Mode) (codes : List Nat) (bad : List (Nat × Nat)) (s : State) :
    Unanswering s (storeInputLine m codes bad s) := by
  unfold storeInputLine
  split
  · exact .refl s
  · extract_lets y counted
    have counts : Unanswering s counted := by
      subst counted
      split
      · exact .refl s
      · exact .foldl (fun t p => .ite fun _ => countSubstitute_unanswering ..) _ _
    exact counts.trans (.of_only (writeStoreLine_only ..))

theorem displayKeyLost_unanswering (slot : Nat) (s : State) : Unanswering s (displayKeyLost slot s) := by
  unfold displayKeyLost
  extract_lets x counted
  have counts : Unanswering s counted := .of_only (incSat_only ..)
  split
  · exact counts
  · exact counts.trans (.trans (.of_only (setSlot_only ..)) (raise_unanswering ..))

/-! ### The output ports -/

theorem showPass_unanswering (s : State) : Unanswering s (showPass s) := by
  unfold showPass
  extract_lets +onlyGivenNames p src told
  refine .trans (t := told) ?_ (.of_only (changeRes_only ..))
  subst told
  split
  · exact .refl s
  · refine .trans ?_ (raise_unanswering ..)
    exact .of_eq rfl rfl

theorem chooseRate_unanswering (s : State) : Unanswering s (chooseRate s) := by
  unfold chooseRate
  extract_lets +onlyGivenNames m w
  generalize rateChoice s = choice
  obtain ⟨r, boost, noFit⟩ := choice
  simp only
  have chosen : Unanswering s { s with out.rate := r, out.boost := boost, out.noFit := noFit } := .of_eq rfl rfl
  have shows := ((chosen.trans (.of_only (changeRes_only hOUTPUT Par.OUTPUT_FIT_NEED_NS (min 65535 (halfNs (needTime w m.sub r))) _))).trans
    (.of_only (changeRes_only hOUTPUT Par.OUTPUT_BOOST (if boost then 1 else 0) _))).trans
    (.of_only (changeRes_only hOUTPUT Par.OUTPUT_RATE r _))
  generalize changeRes hOUTPUT Par.OUTPUT_RATE _ _ = shown at shows ⊢
  have tells : Unanswering shown (if s.out.rate = r then shown else raise 0x0406 hOUTPUT [s.out.rate, r, if boost then 1 else 0] shown) := by
    split
    · exact .refl shown
    · exact raise_unanswering ..
  generalize (if s.out.rate = r then shown else _) = told at tells ⊢
  exact (shows.trans tells).trans ((Unanswering.ite fun _ => raise_unanswering ..).trans (settle_unanswering _))

theorem stopPort_unanswering (p cause : Nat) (s : State) : Unanswering s (stopPort p cause s) :=
  .trans (.of_only (setOport_only ..)) (.trans (.of_only (showPort_only ..)) ((raise_unanswering ..).trans (settle_unanswering _)))

theorem trainingFailed_unanswering (p cause : Nat) (s : State) : Unanswering s (trainingFailed p cause s) :=
  .trans (.of_only (setOport_only ..)) ((raise_unanswering ..).trans (stopPort_unanswering ..))

theorem startTraining_unanswering (p : Nat) (s : State) : Unanswering s (startTraining p s) := by
  unfold startTraining
  extract_lets x powered
  refine .trans (t := powered) (.of_only (setOport_only ..)) ?_
  clear_value powered
  split
  · exact trainingFailed_unanswering ..
  · exact .of_only (beginAttempt_only ..)
  · exact .of_only (beginAttempt_only ..)
  · exact .of_only (beginAttempt_only ..)

/-! ### The input of a frame -/

theorem deliverLine_unanswering (r : RxFrame) (y : Nat) (codes : List Nat) (bad : List (Nat × Nat)) (s : State) :
    Unanswering s (deliverLine r y codes bad s) := by
  unfold deliverLine
  extract_lets m black told kept
  split
  · exact .trans (t := black) (.ite fun _ => .of_only (landLine_only ..)) (storeInputLine_unanswering ..)
  · split
    · refine .trans (t := told) (.trans (.of_only (incSat_only ..)) (raise_unanswering ..)) ?_
      exact .trans (.of_only (landLine_only ..)) (storeInputLine_unanswering ..)
    · refine .trans (t := kept) ?_ (storeInputLine_unanswering ..)
      subst kept
      split
      · exact .of_only (landLine_only ..)
      · exact .of_only (countStored_only ..)

theorem lineMissing_unanswering (r : RxFrame) (y : Nat) (codes : List Nat) (bad gaps : List (Nat × Nat)) (s : State) :
    Unanswering s (lineMissing r y codes bad gaps s) :=
  .trans (.of_only (incSat_only ..)) ((raise_unanswering ..).trans (deliverLine_unanswering ..))

theorem linesMissing_unanswering (r : RxFrame) (n y : Nat) (s : State) : Unanswering s (linesMissing r n y s) := by
  induction n generalizing y s with
  | zero => exact .refl s
  | succ n ih => exact (lineMissing_unanswering ..).trans (ih ..)

theorem closeLines_unanswering (r : RxFrame) (upTo : Nat) (s : State) : Unanswering s (closeLines r upTo s) := by
  unfold closeLines
  split
  · exact .refl s
  · extract_lets gaps current missing
    have first : Unanswering s current := by
      subst current
      split
      · exact .refl s
      · exact lineMissing_unanswering ..
    have second : Unanswering current missing := linesMissing_unanswering ..
    exact (first.trans second).trans (.of_eq rfl rfl)

theorem endInput_unanswering (s : State) : Unanswering s (endInput s) := by
  unfold endInput
  split
  · exact .refl s
  · split
    · exact .of_eq rfl rfl
    · exact (closeLines_unanswering ..).trans (.of_eq rfl rfl)

/-! ### The link's episodes -/

theorem sendResult_unanswering (outcome : Nat) (s : State) : Unanswering s (sendResult outcome s) := by
  refine .trans (auxPush_unanswering 0 (resultMessage s outcome) s) (.trans ?_ (sendCredit_unanswering _))
  exact .of_eq rfl rfl

theorem linkDown_unanswering (s : State) : Unanswering s (linkDown s) :=
  .ite fun _ => (endInput_unanswering s).trans (.of_eq rfl rfl)

theorem trainReq_unanswering (s : State) : Unanswering s (trainReq s) := by
  unfold trainReq
  extract_lets +onlyGivenNames tries armed src begun
  have begins : Unanswering s begun := .trans (t := armed) (.of_only (armLanes_only ..)) (.of_eq rfl rfl)
  clear_value begun
  extract_lets phase counted shown told
  have shows : Unanswering begun shown :=
    .trans (t := phase) (.of_only (setPhase_only ..)) (.trans (t := counted) (.of_only (incWrap_only ..)) (.of_only (changeRes_only ..)))
  have tells : Unanswering shown told := raise_unanswering ..
  exact ((begins.trans shows).trans tells).trans (.trans (.of_only (showLink_only _)) (auxPush_unanswering ..))

theorem startEpisode_unanswering (reason : Nat) (s : State) : Unanswering s (startEpisode reason s) := by
  unfold startEpisode
  extract_lets dropped
  have restores : Unanswering (linkDown s) (restoreLanes (linkDown s)) := .of_only (restoreLanes_only (linkDown s))
  have drops : Unanswering s dropped :=
    ((linkDown_unanswering s).trans restores).trans (.of_only (dropLanes_only (restoreLanes (linkDown s))))
  clear_value dropped
  refine drops.trans (.trans ?_ (trainReq_unanswering _))
  exact .of_eq rfl rfl

theorem enterDetect_unanswering (reason : Nat) (s : State) : Unanswering s (enterDetect reason s) := by
  have powered : Only [.link] (takeSnapshots s) (restoreLanes s) := Only.upd_link (Only.refl _)
  have idled : Only [.link] (takeSnapshots s) (lanesDropped reason s) := (dropLanes_only _).after (Only.upd_link powered)
  have drops : Unanswering s (lanesDropped reason s) := .trans (.of_only (takeSnapshots_only s)) (.of_only idled)
  rw [enterDetect_eq]
  exact drops.trans (.trans (.of_only (setPhase_only ..)) (.trans (.of_only (showLink_only _)) (auxPush_unanswering ..)))

theorem leaveBackoff_unanswering (reason : Nat) (s : State) : Unanswering s (leaveBackoff reason s) := by
  unfold leaveBackoff
  split
  · exact enterDetect_unanswering ..
  · exact startEpisode_unanswering ..

theorem linkCommit_unanswering (was : List Nat × Nat × Nat × Nat) (touched : Bool) (s : State) :
    Unanswering s (linkCommit was touched s) := by
  unfold linkCommit
  extract_lets short
  split
  · exact .refl s
  · have waits : Unanswering s short := .of_only (shortWait_only ..)
    split
    · exact waits
    · split
      · exact waits.trans (enterDetect_unanswering ..)
      · exact waits.trans (leaveBackoff_unanswering ..)
      · exact waits.trans (startEpisode_unanswering ..)

theorem linkRefit_unanswering (s : State) : Unanswering s (linkRefit s) := by
  unfold linkRefit
  extract_lets +onlyGivenNames shown n fits src carried src' told
  have shows : Unanswering s shown := .of_only (showFit_only ..)
  split
  · exact shows
  · split
    · exact shows
    · have carries : Unanswering shown carried := .of_eq rfl rfl
      have tells : Unanswering carried told := by
        subst told
        split
        · exact .refl carried
        · refine .trans ?_ (raise_unanswering ..)
          exact .of_eq rfl rfl
      have before := (shows.trans carries).trans tells
      split
      · exact before.trans (sendResult_unanswering ..)
      · split
        · exact before.trans (sendResult_unanswering ..)
        · exact before

end Sys2Proof.Machine
end


section
/-! SUPPORT. What answers no request, of commits, the raster and the panel's sequences. -/

set_option Elab.async false

namespace Sys2Proof.Machine

theorem Unanswering.either {c : Prop} [Decidable c] {s a b : State} (yes : Unanswering s a) (no : Unanswering s b) :
    Unanswering s (if c then a else b) := by
  split
  · exact yes
  · exact no

/-! ### Commits -/

theorem clipRefs_unanswering (s : State) : Unanswering s (clipRefs s) := by
  unfold clipRefs
  extract_lets +onlyGivenNames c was src clipped
  have clips : Unanswering s clipped := by
    refine .trans ?_ (.of_only (changeRes_only ..))
    exact .of_eq rfl rfl
  exact .either clips (clips.trans (raise_unanswering ..))

theorem dropWaiting_unanswering (s : State) : Unanswering s (dropWaiting s) := by
  unfold dropWaiting
  split
  · exact .refl s
  · refine .trans (.trans ?_ (.of_only (incSat_only ..))) (raise_unanswering ..)
    exact .of_eq rfl rfl

/-- The input of a frame is forgotten, and what waited of it dropped. -/
theorem inputForgotten_unanswering (s : State) : Unanswering s (showSlots { forgetInput (dropWaiting s) with fstore.hold := none }) := by
  refine .trans ((dropWaiting_unanswering s).trans (.of_only (forgetInput_only (dropWaiting s)))) (.trans ?_ (.of_only (showSlots_only _)))
  exact .of_eq rfl rfl

theorem timingChange_unanswering (a b : Mode) (s : State) : Unanswering s (timingChange a b s) := by
  unfold timingChange
  extract_lets +onlyGivenNames told src src' forgotten old black raster bridged edge gen
  have tells : Unanswering s told := raise_unanswering ..
  have forgets : Unanswering told forgotten := .either (inputForgotten_unanswering told) (.refl told)
  have bridges : Unanswering forgotten bridged := .either (.refl forgotten) (.of_eq rfl rfl)
  have before := (tells.trans forgets).trans bridges
  refine .either before (before.trans (.trans ?_ (.of_only (changeRes_only ..))))
  exact .of_eq rfl rfl

theorem applyCommit_unanswering (c : Commit) (s : State) : Unanswering s (applyCommit c s) := by
  unfold applyCommit
  extract_lets +onlyGivenNames was a limit residual maps patched b change r0 timed r1 geo rebuilt swept p0 gained linked lut mask masters p1
    asked shown rated defects counted
  have patches : Unanswering s patched := .trans (t := maps) (.of_only (applyMaps_only ..)) (.of_only (applyPatch_only ..))
  have moded (t : State) : Unanswering t { t with raster.mode := b } := .of_eq rfl rfl
  have times : Unanswering patched timed := .either (moded patched) ((moded patched).trans (timingChange_unanswering ..))
  have changes : Unanswering timed geo := .either (.of_eq rfl rfl) (.refl timed)
  have rebuilds : Unanswering geo rebuilt :=
    .either (.refl geo) (.either (.of_only (startRebuild_only ..)) (.either (.of_only (startRebuild_only ..)) (.refl geo)))
  have sweeps : Unanswering rebuilt swept := .either (.of_only (abandonSweep_only ..)) (.refl rebuilt)
  have gains : Unanswering swept gained := .either (.of_eq rfl rfl) (.refl swept)
  have links : Unanswering gained linked := linkCommit_unanswering ..
  have writes : Unanswering linked masters := .either (.of_only (writeMasters_only ..)) (.refl linked)
  have asks : Unanswering masters asked := .either (.of_eq rfl rfl) (.refl masters)
  have shows : Unanswering asked shown := .of_only (showGeometry_only ..)
  have rates : Unanswering shown rated := .either (chooseRate_unanswering _) (.refl shown)
  have lists : Unanswering rated defects := .either (.of_only (showDefects_only ..)) (.refl rated)
  have counts : Unanswering defects counted := by
    subst counted
    split
    · exact .trans (.of_only (setRes_only ..)) (.of_only (incWrap_only ..))
    · exact .refl defects
  have first := ((((patches.trans times).trans changes).trans rebuilds).trans sweeps).trans gains
  have second := (((((links.trans writes).trans asks).trans shows).trans rates).trans lists).trans counts
  have refits : Unanswering counted (linkRefit (stressRateCheck counted)) :=
    .trans (.of_only (stressRateCheck_only counted)) (linkRefit_unanswering _)
  have wakes (t : State) : Unanswering t (keepWake t) := .of_ports (keepWake_only t) rfl
  exact ((first.trans second).trans refits).trans
    ((wakes _).trans ((clipRefs_unanswering _).trans (.of_only (showSweep_only _))))

theorem applyAllCommits_unanswering (s : State) : Unanswering s (applyAllCommits s) := by
  unfold applyAllCommits
  extract_lets +onlyGivenNames due src faded rows
  split
  · exact .refl s
  · have fades : Unanswering s faded := by
      refine .trans (t := { s with dict.commits := [] }) (.of_eq rfl rfl) (.trans ?_ (.of_only (fadeOn_only ..)))
      exact .foldl (fun t c => applyCommit_unanswering c t) _ _
    have idles : Unanswering faded rows := .ite fun _ => .of_only (rowsIdle_only _)
    have switches : Unanswering rows (if touchesTables due then switchTables rows else rows) := .ite fun _ => .of_only (switchTables_only _)
    exact ((fades.trans idles).trans switches).trans
      ((showPass_unanswering _).trans (.trans (.of_only (showCommits_only _)) (.of_only (showBuffers_only _))))

theorem checkLegal_unanswering (s : State) : Unanswering s (checkLegal s) := by
  unfold checkLegal
  extract_lets bad
  split
  · exact .refl s
  · refine .trans (t := { s with raster.illegal := bad }) (.of_eq rfl rfl) (.trans ?_ (settle_unanswering _))
    exact .ite fun _ => raise_unanswering ..

/-! ### Anchors -/

theorem setTemperature_unanswering (s : State) : Unanswering s (setTemperature s) := by
  unfold setTemperature
  extract_lets +onlyGivenNames sel ok t
  generalize tempPosition (valsNow s) t = place
  obtain ⟨t0, wt⟩ := place
  simp only
  have placed (lost : Bool) : Unanswering s { s with pipe.temp := t, pipe.t0 := t0, pipe.wt := wt, pipe.tempLost := lost } := .of_eq rfl rfl
  exact .either ((placed true).trans (raise_unanswering ..)) (.either ((placed false).trans (raise_unanswering ..)) (placed _))

theorem loseLock_unanswering (cause : Nat) (s : State) : Unanswering s (loseLock cause s) := by
  unfold loseLock
  refine .trans (.trans (.trans ?_ (.of_only (incSat_only ..))) (raise_unanswering ..)) (.of_only (showLock_only _))
  exact .of_eq rfl rfl

theorem genlockMove_unanswering (g : Genlock) (err : Int) (line : Nat) (s : State) : Unanswering s (genlockMove g err line s) := by
  have puts (g : Genlock) : Unanswering s (putGen g s) := .of_only (putGen_only g s)
  unfold genlockMove
  split
  · exact .either (puts _) (puts _)
  · exact puts _
  · exact .either (puts _) (.either (puts _) ((puts _).trans (raise_unanswering ..)))
  · exact .either (puts _) (.either (puts _) ((puts _).trans (loseLock_unanswering ..)))
  · exact puts _

theorem genlockLimit_unanswering (s : State) : Unanswering s (genlockLimit s) := .ite fun _ => loseLock_unanswering ..

theorem genlockAnchored_unanswering (a : Nat) (s : State) : Unanswering s (genlockAnchored a s) := by
  unfold genlockAnchored
  extract_lets g err line told
  split
  · exact .refl s
  · have tells : Unanswering s told := .ite fun _ => .of_only (setResI_only ..)
    exact tells.trans ((genlockMove_unanswering ..).trans ((genlockLimit_unanswering _).trans (.of_only (setTrim_only _))))

theorem writeMerge_unanswering (slot : Nat) (old : Option Nat) (s : State) : Unanswering s (writeMerge slot old s) := by
  unfold writeMerge
  extract_lets +onlyGivenNames m rs fits base frame enc lines opened written lossy counted src merged applied
  have opens : Unanswering s opened := .of_only (openSlot_only ..)
  have writes : Unanswering opened written := .foldl (fun t l => .of_only (writeStoreLine_only ..)) _ _
  have loses : Unanswering written lossy := .either (.refl written) (raise_unanswering ..)
  have counts : Unanswering lossy counted := .trans (.of_only (incWrap_only ..)) (raise_unanswering ..)
  have merges : Unanswering counted merged := .of_eq rfl rfl
  have applies : Unanswering merged applied := .of_only (incWrap_only ..)
  exact ((((opens.trans writes).trans loses).trans counts).trans (merges.trans applies)).trans
    ((raise_unanswering ..).trans (sendCredit_unanswering _))

theorem moveRoles_unanswering (k : FrameKind) (s : State) : Unanswering s (moveRoles k s) := by
  unfold moveRoles
  split
  · refine .trans ?_ (.of_only (showSlots_only _))
    exact .of_eq rfl rfl
  · split
    · exact .refl s
    · extract_lets +onlyGivenNames old
      refine .trans (.trans ?_ (writeMerge_unanswering ..)) (.of_only (showSlots_only _))
      exact .of_eq rfl rfl

theorem enterState_unanswering (p : PowerState) (s : State) : Unanswering s (enterState p s) := by
  unfold enterState
  split
  · exact .refl s
  · refine .trans (.trans ?_ (.of_only (changeRes_only ..))) (raise_unanswering ..)
    exact .of_eq rfl rfl

theorem takeFrame_unanswering (a : Nat) (k : FrameKind) (w : Waiting) (s : State) : Unanswering s (takeFrame a k w s) := by
  unfold takeFrame
  extract_lets +onlyGivenNames run src src' taken entered told
  have takes : Unanswering s taken := .of_eq rfl rfl
  have enters : Unanswering taken entered := enterState_unanswering ..
  have tells : Unanswering entered told := .either (.refl entered) (raise_unanswering ..)
  exact ((takes.trans enters).trans tells).trans (.ite fun _ => .trans (.of_only (incSat_only ..)) (raise_unanswering ..))

theorem tellRepeat_unanswering (kind : Nat) (s : State) : Unanswering s (tellRepeat kind s) := by
  refine .trans ?_ (raise_unanswering ..)
  exact .of_eq rfl rfl

theorem noteKind_unanswering (a : Nat) (k : FrameKind) (s : State) : Unanswering s (noteKind a k s) := by
  unfold noteKind
  split
  · split
    · exact takeFrame_unanswering ..
    · exact .refl s
  · split
    · exact takeFrame_unanswering ..
    · exact .refl s
  · extract_lets +onlyGivenNames slept current src kept
    have enters : Unanswering s current := .ite fun _ => enterState_unanswering ..
    have keeps : Unanswering current kept := by
      refine .trans ?_ (.of_only (insertion_only _))
      refine .trans ?_ (.of_only (incSat_only ..))
      exact .of_eq rfl rfl
    exact (enters.trans keeps).trans (.ite fun _ => tellRepeat_unanswering ..)
  · extract_lets +onlyGivenNames told src bridged
    have bridges : Unanswering s bridged := by
      refine .trans ?_ (.of_only (insertion_only _))
      refine .trans ?_ (.of_only (incSat_only ..))
      exact .of_eq rfl rfl
    clear_value bridged
    split
    · exact bridges
    · split
      exact bridges.trans (raise_unanswering ..)
  · extract_lets link
    refine .trans ?_ (tellRepeat_unanswering ..)
    refine .trans ?_ (.of_only (insertion_only _))
    refine .trans ?_ (.of_only (incSat_only ..))
    exact .of_eq rfl rfl
  · split
    refine .trans ?_ (.of_only (insertion_only _))
    refine .trans ?_ (raise_unanswering ..)
    refine .trans ?_ (.of_only (incSat_only ..))
    exact .of_eq rfl rfl

theorem noteOverdrive_unanswering (k : FrameKind) (s : State) : Unanswering s (noteOverdrive k s) := by
  unfold noteOverdrive
  extract_lets +onlyGivenNames was r src noted
  have notes : Unanswering s noted := .of_eq rfl rfl
  clear_value noted r
  split
  · exact notes.trans (.of_only (incWrap_only ..))
  · extract_lets shown
    have shows : Unanswering noted shown := .trans (.of_only (incWrap_only ..)) (.of_only (changeRes_only ..))
    exact notes.trans (.either shows (shows.trans (raise_unanswering ..)))

theorem notePhase_unanswering (d : Nat) (s : State) : Unanswering s (notePhase d s) := by
  unfold notePhase
  generalize nextPhase (cfg s hDITHER Par.DITHER_FREEZE_HZ) s.pipe.phase d = phase
  obtain ⟨p, frozen⟩ := phase
  simp only
  have phased : Unanswering s { s with pipe.phase := p, pipe.frozen := frozen } := .of_eq rfl rfl
  have shows := (phased.trans (.of_only (changeRes_only hDITHER Par.DITHER_PHASE p _))).trans
    (.of_only (changeRes_only hDITHER Par.DITHER_FROZEN (if frozen then 1 else 0) _))
  generalize changeRes hDITHER Par.DITHER_FROZEN _ _ = shown at shows ⊢
  have counts : Unanswering shown (if frozen then incSat hDITHER Par.DITHER_FROZEN_FRAMES 1 shown else shown) :=
    .ite fun _ => .of_only (incSat_only ..)
  generalize (if frozen then incSat hDITHER Par.DITHER_FROZEN_FRAMES 1 shown else shown) = counted at counts ⊢
  exact (shows.trans counts).trans (.either (.refl counted) (raise_unanswering ..))

theorem endLast_unanswering (a : Nat) (s : State) : Unanswering s (endLast a s) := by
  unfold endLast
  extract_lets +onlyGivenNames src d
  have shows : Unanswering s (setRes hRASTER Par.RASTER_FRAME_TIME d s) := .of_only (setRes_only ..)
  refine .either (.of_eq rfl rfl) (shows.trans ?_)
  exact .trans (.of_only (endDuty_only _)) (.trans (.of_only (noteFrameTime_only ..)) (notePhase_unanswering ..))

end Sys2Proof.Machine
end


section
/-! SUPPORT. What answers no request, of the raster's start and stop and of the panel's power-off (R157, R297): a restart by command. -/

set_option Elab.async false

namespace Sys2Proof.Machine

/-! ### The raster starts and stops -/

theorem makeAnchor_unanswering (a : Nat) (s : State) : Unanswering s (makeAnchor a s) := by
  unfold makeAnchor
  extract_lets +onlyGivenNames b fs store begun kind ended raster anchored genlock moved noted raster' drawn raster'' cur state gain
    limited temp
  have begins : Unanswering s begun :=
    .trans (t := b) (.of_eq rfl rfl) (.either (inputForgotten_unanswering b) (.refl b))
  have anchors : Unanswering begun anchored := (endLast_unanswering ..).trans (.of_eq rfl rfl)
  have moves : Unanswering anchored moved :=
    (genlockAnchored_unanswering ..).trans ((moveRoles_unanswering ..).trans (.of_only (moveLanding_only ..)))
  have notes : Unanswering moved noted :=
    .trans (.of_only (clearFrame_only _)) ((noteKind_unanswering ..).trans (.of_only (incWrap_only ..)))
  have draws : Unanswering noted drawn := by
    refine .trans ?_ (noteOverdrive_unanswering ..)
    exact .of_eq rfl rfl
  have currents : Unanswering drawn cur := .of_eq rfl rfl
  have gains : Unanswering cur gain := .trans (t := state) (.of_only (changeRes_only ..)) (.of_only (changeRes_only ..))
  have limits : Unanswering gain limited := .ite fun _ => .of_only (incSat_only ..)
  have temps : Unanswering limited temp := .either (.refl limited) (.of_only (setResI_only ..))
  have whole := (((begins.trans anchors).trans moves).trans notes).trans
    ((draws.trans currents).trans ((gains.trans limits).trans temps))
  clear_value temp
  extract_lets last
  have lasts : Unanswering s last := whole.trans (.of_only (changeRes_only ..))
  clear_value last
  split
  · exact lasts.trans (.ite fun _ => displayKeyLost_unanswering ..)
  · exact lasts

theorem rasterStart_unanswering (s : State) : Unanswering s (rasterStart s) := by
  unfold rasterStart
  split
  · exact .refl s
  · extract_lets +onlyGivenNames raster shown
    have shows : Unanswering s shown := by
      refine .trans (t := showGeometry { s with raster.mode := modeNow s }) ?_ ((checkLegal_unanswering _).trans
        (.trans (.of_only (stressRateCheck_only _)) (showPass_unanswering _)))
      exact .trans (t := { s with raster.mode := modeNow s }) (.of_eq rfl rfl) (.of_only (showGeometry_only _))
    clear_value shown
    split
    · exact shows
    · extract_lets +onlyGivenNames warm gen raster' locked
      have locks : Unanswering shown locked := by
        refine (setTemperature_unanswering shown).trans (.trans ?_ (.of_only (showLock_only _)))
        exact .of_eq rfl rfl
      clear_value locked
      have pulses : Unanswering locked (pulseAt locked.now (showBuffers locked)) :=
        .trans (.of_only (showBuffers_only locked)) (.of_only (pulseAt_only ..))
      exact (shows.trans locks).trans (pulses.trans (makeAnchor_unanswering ..))

theorem rasterStep_unanswering (s : State) : Unanswering s (rasterStep s) := by
  unfold rasterStep
  extract_lets +onlyGivenNames panel reached
  have reaches : Unanswering s reached := .of_eq rfl rfl
  exact reaches.trans (.ite fun _ => .trans (.of_only (rowsBegin_only _)) (rasterStart_unanswering _))

theorem rasterHalt_unanswering (s : State) : Unanswering s (rasterHalt s) := by
  unfold rasterHalt
  extract_lets +onlyGivenNames r p o panel dropped out windows
  have drops : Unanswering s dropped := by
    refine .trans ?_ (.of_only (dropSweep_only _))
    exact .of_eq rfl rfl
  have closes : Unanswering dropped windows := .of_eq rfl rfl
  split
  · exact .refl s
  · extract_lets faded shown
    have fades : Unanswering windows faded :=
      .trans (.either (.of_only (biasHold_only ..)) (.of_only (rowsIdle_only windows))) (.of_only (endFade_only _))
    have shows : Unanswering faded shown :=
      .trans (.of_only (showPorts_only faded)) (.trans (.of_only (changeRes_only ..)) (.of_only (changeRes_only ..)))
    exact ((drops.trans closes).trans (fades.trans shows)).trans (.trans (.of_only (showBuffers_only _)) (applyAllCommits_unanswering _))

theorem rasterStop_unanswering (s : State) : Unanswering s (rasterStop s) :=
  (rasterHalt_unanswering s).trans (checkLegal_unanswering _)

/-! ### The panel's sequences -/

theorem discharge_unanswering (s : State) : Unanswering s (discharge s).2 := by
  unfold discharge
  split
  · exact raise_unanswering 0x050D hPANELPWR [0] s
  · split
    · refine .trans ?_ (.of_only (rowsDisch_only _))
      exact .of_eq rfl rfl
    · exact .of_eq rfl rfl

theorem perform_unanswering (q : SeqRun) (s : State) : Unanswering s (perform q s).2 := by
  have refs (on : Bool) : Unanswering s { s with panel.refs := on } := .of_eq rfl rfl
  unfold perform
  split <;> try dsimp only
  case h_1 => exact .of_eq rfl rfl
  case h_2 => exact .of_only (beginPmbus_only ..)
  case h_3 => exact .of_only (beginPmbus_only ..)
  case h_4 => exact .trans (.of_only (endScan_only _)) (.of_only (rowsIdle_only _))
  case h_5 => exact .trans (.of_only (endScan_only _)) (.of_only (rowsFloat_only _))
  case h_6 => exact (refs true).trans (clipRefs_unanswering _)
  case h_7 => exact (refs false).trans (clipRefs_unanswering _)
  case h_8 => exact .either (.refl s) (.of_only (setPump_only ..))
  case h_9 => exact .trans (.of_only (setResI_only ..)) (.of_only (setPump_only ..))
  case h_10 => exact .foldl (fun t p => startTraining_unanswering p t) _ _
  case h_11 => exact rasterStep_unanswering s
  case h_12 => exact discharge_unanswering s
  case h_13 => exact .refl s

theorem beginStep_unanswering (q : SeqRun) (s : State) : Unanswering s (beginStep q s) := by
  unfold beginStep
  extract_lets +onlyGivenNames told begun
  have begins : Unanswering s begun := .trans (t := told) (.ite fun _ => raise_unanswering ..) (.of_only (setSeq_only ..))
  have performs := begins.trans (perform_unanswering q begun)
  clear_value begun
  generalize perform q begun = x at *
  obtain ⟨met, done⟩ := x
  dsimp only at *
  exact performs.trans (.either (.of_only (setSeq_only ..)) (.of_only (beginPinWait_only ..)))

theorem beginSeq_unanswering (off : Bool) (s : State) : Unanswering s (beginSeq off s) := by
  unfold beginSeq
  extract_lets +onlyGivenNames table src cleared src' begun
  have clears : Unanswering s cleared := .of_eq rfl rfl
  have begins : Unanswering cleared begun := by
    refine .either (.trans (.trans ?_ (rasterStop_unanswering _)) (.of_only (setPanel_only ..))) (.trans ?_ (.of_only (setPanel_only ..)))
    · exact .of_eq rfl rfl
    · exact .of_eq rfl rfl
  exact (clears.trans begins).trans (.of_only (setSeq_only ..))

theorem onComplete_unanswering (q : SeqRun) (s : State) : Unanswering s (onComplete q s) := by
  unfold onComplete
  extract_lets +onlyGivenNames ms timed src settled
  have times : Unanswering s timed := .trans (.of_only (incWrap_only ..)) (.of_only (setRes_only ..))
  have settles : Unanswering timed settled := by
    refine .trans (.trans (.trans ?_ (.of_only (setPanel_only ..))) (.of_only (unitsUp_only ..))) (settle_unanswering _)
    exact .of_eq rfl rfl
  exact (times.trans settles).trans (raise_unanswering ..)

theorem offComplete_unanswering (q : SeqRun) (s : State) : Unanswering s (offComplete q s) := by
  unfold offComplete
  extract_lets +onlyGivenNames src shown
  have shows : Unanswering s shown := by
    refine .trans (.trans ?_ (.of_only (setPanel_only ..))) (.of_only (senseUnknown_only _))
    exact .of_eq rfl rfl
  exact shows.trans (raise_unanswering ..)

theorem runSeq_unanswering (n : Nat) (s : State) : Unanswering s (runSeq n s) := by
  induction n generalizing s with
  | zero => exact .refl s
  | succ n ih =>
    unfold runSeq
    split
    · exact .refl s
    · split
      · split
        · exact onComplete_unanswering ..
        · extract_lets done
          have ends : Unanswering s done := offComplete_unanswering ..
          clear_value done
          refine ends.trans (.ite fun _ => .trans (.trans ?_ (beginSeq_unanswering ..)) (ih _))
          exact .of_eq rfl rfl
      · extract_lets step begun
        have begins : Unanswering s begun := .trans (t := step) (.of_only (changeRes_only ..)) (beginStep_unanswering ..)
        clear_value begun
        split
        · split
          · split
            · exact begins.trans (.either ((beginSeq_unanswering ..).trans (ih _)) (.trans (.of_only (setSeq_only ..)) (ih _)))
            · exact begins
          · exact begins
        · exact begins

theorem panelOff_unanswering (s : State) : Unanswering s (panelOff s) := by
  unfold panelOff
  split
  · exact .either (.of_eq rfl rfl) (.of_eq rfl rfl)
  · exact .ite fun _ => (beginSeq_unanswering ..).trans (runSeq_unanswering ..)

end Sys2Proof.Machine
end


section
/-! SUPPORT. The writes of POWER_REQUEST, RESTART and LIFECYCLE_REQUEST (19, R485 to R487, R497; 16, R414, R415). -/

set_option Elab.async false

namespace Sys2Proof.Machine

/-! ### The entries, and the values noted -/

/-- POWER_REQUEST, as the dictionary has it. -/
def powerEntry : Entry := en 0x0C0 .enum 0 0 1 0 (.span 0 2) .now false true none
/-- RESTART, as the dictionary has it. -/
def restartEntry : Entry := en 0x0C1 (.int false 2 16) 0 2 2 0 (.span 0 65535) .now false true none
/-- LIFECYCLE_REQUEST, as the dictionary has it. -/
def lifecycleEntry : Entry := en 0x100 (.int false 1 8) 12 2 2 0 .any .now false true none

/-- The requests of the three commands. -/
abbrev powerReq (h : Hdr) (n : Nat) : Req := mkWrite h hDEV Par.DEV_POWER_REQUEST [n]
/-- the request of RESTART -/
abbrev restartReq (h : Hdr) (v : Nat) : Req := mkWrite h hDEV Par.DEV_RESTART (u16 v)
/-- the request of LIFECYCLE_REQUEST -/
abbrev lifecycleReq (h : Hdr) (target : Nat) (id : List Nat) : Req := mkWrite h hDEV Par.DEV_LIFECYCLE_REQUEST ([target, 0, 0, 0] ++ id)

theorem entryAny_power (s : State) : entryAny s hDEV Par.DEV_POWER_REQUEST = some powerEntry := rfl
theorem entryAny_restart (s : State) : entryAny s hDEV Par.DEV_RESTART = some restartEntry := rfl
theorem entryAny_lifecycle (s : State) : entryAny s hDEV Par.DEV_LIFECYCLE_REQUEST = some lifecycleEntry := rfl

/-- A command of DEV is carried out on the state in which its value is noted. -/
theorem writeEntry_dev {r : Req} {e : Entry} {s : State} (level : Nat) (unit : r.handle = hDEV) (form : isBlob e = false)
    (command : e.command = true) {m : State}
    (notes : writeElems { e with apply := .now } hDEV 0 (splitValues e.ty (elems e) r.payload) s = m) :
    writeEntry r level e s = writeDev r level e.param (cfg m hDEV e.param) m s := by
  subst notes
  unfold writeEntry
  rw [if_neg (by simp [form]), if_pos command, unit]
  exact if_pos rfl

theorem writeEntry_power {h : Hdr} {n : Nat} (known : n ≤ 2) (level : Nat) {s : State} (canonical : s.Canonical) :
    writeEntry (powerReq h n) level powerEntry s = ok (powerRequest n (setCfg hDEV Par.DEV_POWER_REQUEST 0 (n : Int) s)) := by
  have notes : writeElems { powerEntry with apply := .now } hDEV 0 (splitValues powerEntry.ty (elems powerEntry) [n]) s
      = setCfg hDEV Par.DEV_POWER_REQUEST 0 (n : Int) s :=
    writeElems_noted (congrArg (fun v => [v]) (decodeValue_enum (by omega))) (clampValue_code _ (by omega) (by omega))
  refine (writeEntry_dev (r := powerReq h n) (e := powerEntry) level rfl rfl rfl notes).trans ?_
  rw [show powerEntry.param = Par.DEV_POWER_REQUEST from rfl, cfg_setCfg_self _ _ _ canonical]
  unfold writeDev
  rw [if_neg (by decide), if_neg (by decide), if_neg (by decide), if_neg (by decide), if_neg (by decide), if_pos rfl]

theorem writeEntry_restart {h : Hdr} {v : Nat} (small : v < 65536) (level : Nat) (s : State) :
    writeEntry (restartReq h v) level restartEntry s = okThen restartCommand (setCfg hDEV Par.DEV_RESTART 0 (v : Int) s) := by
  have notes : writeElems { restartEntry with apply := .now } hDEV 0 (splitValues restartEntry.ty (elems restartEntry) (u16 v)) s
      = setCfg hDEV Par.DEV_RESTART 0 (v : Int) s :=
    writeElems_noted (congrArg (fun v => [v]) (decodeValue_u16 small)) (clampValue_span 2 16 _ (by omega) (by omega))
  refine (writeEntry_dev (r := restartReq h v) (e := restartEntry) level rfl rfl rfl notes).trans ?_
  unfold writeDev
  rw [if_neg (by decide), if_neg (by decide), if_neg (by decide), if_neg (by decide), if_neg (by decide), if_neg (by decide)]
  exact if_pos rfl

/-- LIFECYCLE_REQUEST, whatever is noted of its bytes as values. -/
theorem writeEntry_lifecycle {h : Hdr} {target : Nat} {id : List Nat} (level : Nat) {s : State} (unlocked : s.sec.locked = false) :
    ∃ m, Only [.config, .shadow, .results] s m ∧ writeEntry (lifecycleReq h target id) level lifecycleEntry s
      = okThen (fun s' => enterLifecycle target
          { s' with ctrl.busy := some (lifecycleReq h target id, .lifecycle s.sec.lifecycle target) }) (blowLifecycle target m) := by
  let m := writeElems lifecycleEntry hDEV 0 (splitValues lifecycleEntry.ty (elems lifecycleEntry) ([target, 0, 0, 0] ++ id)) s
  have only : Only [.config, .shadow, .results] s m := writeElems_only ..
  have same : m.sec = s.sec := only.sec rfl rfl
  refine ⟨m, only, (writeEntry_dev (r := lifecycleReq h target id) (e := lifecycleEntry) (m := m) level rfl rfl rfl rfl).trans ?_⟩
  unfold writeDev
  rw [if_neg (by decide), if_neg (by decide), if_neg (by decide), if_neg (by decide), if_neg (by decide), if_neg (by decide),
    if_neg (by decide), lifecycleRequest, if_neg (by simp [same, unlocked]), same]
  rfl

/-! ### What each sets going -/

theorem Unanswering.answered {s t : State} (after : Unanswering s t) {key : Option (List Nat)} {r : Req} {payload : List Nat}
    (answered : s.answered key r payload) : t.answered key r payload := by
  obtain ⟨count, retained⟩ := answered
  exact ⟨count, (after.retained r.port).trans retained⟩

theorem noteEntry_seals (off : Bool) (trigger : Nat) (s : State) : SealsKept s (noteEntry off trigger s) := by
  unfold noteEntry
  exact .trans (.trans (.of_only (incWrap_only ..)) (.of_only (setTransition_only ..))) (raise_seals ..)

theorem beginTransition_seals {off : Bool} {trigger : Nat} {s : State} (may : mayEnter s = true) :
    SealsKept s (beginTransition off trigger s) := by
  rw [beginTransition_begins may]
  refine .trans ?_ (noteEntry_seals ..)
  exact .of_only (ps := [.power]) (Only.upd_power (Only.refl s))

theorem cancelEntry_seals (e : Transition) (cause : Nat) (s : State) : SealsKept s (cancelEntry e cause s) := by
  refine .trans (.trans (.trans ?_ (.of_only (setTransition_only ..))) (.of_only (setRequest_only ..))) (raise_seals ..)
  exact .of_only (ps := [.power]) (Only.upd_power (Only.refl s))

theorem mayEnter_of_power {s t : State} (power : t.power = s.power) : mayEnter t = mayEnter s := by
  unfold mayEnter awake selfing
  rw [power]

theorem transition_of_mayEnter {s : State} (may : mayEnter s = true) : s.power.transition = none := by
  unfold mayEnter at may
  simp only [Bool.and_eq_true, Option.isNone_iff_eq_none] at may
  obtain ⟨⟨⟨⟨⟨-, idle⟩, -⟩, -⟩, -⟩, -⟩ := may
  exact idle

theorem answerOk_transition (r : Req) (s : State) : (answerOk r s).power.transition = s.power.transition := by
  unfold answerOk
  rw [respond_power]
  rfl

/-- POWER_REQUEST ON cancels an entry in its first step. -/
theorem powerRequest_on {e : Transition} {s : State} (entering : s.power.transition = some e) (first : e.step = 1) :
    powerRequest 0 s = cancelEntry e 1 (setRequest 0 s) := by
  unfold powerRequest
  extract_lets requested
  rw [show requested.power = s.power from setRequest_power 0 s, entering]
  exact if_pos ⟨rfl, first⟩

/-- POWER_REQUEST STANDBY and OFF begin an entry. -/
theorem powerRequest_enters (off : Bool) {s : State} (idle : s.power.transition = none) :
    powerRequest (if off then 2 else 1) s = beginTransition off 0 (setRequest (if off then 2 else 1) s) := by
  unfold powerRequest
  extract_lets requested
  rw [show requested.power = s.power from setRequest_power _ s, idle]
  cases off <;> rfl

section
variable {h : Hdr} {s : State}

theorem execPowerRequestOn_done (canonical : s.Canonical) {e : Transition} (accepted : s.accepts (powerReq h 0) = true)
    (entering : s.power.transition = some e) (first : e.step = 1) :
    ∃ t, exec (.powerRequestOn h) s = .next t ∧ t.power.transition = none ∧ lastCode t hPWR = 0x0E09
      ∧ t.answered (port s h.port).key (powerReq h 0) := by
  let m := noted (powerReq h 0) hDEV Par.DEV_POWER_REQUEST 0 s
  have power : m.power = s.power := (noted_only ..).same .power rfl
  have cancels : powerRequest 0 m = cancelEntry e 1 (setRequest 0 m) := powerRequest_on (by rw [power, entering]) first
  have ready : (setRequest 0 m).Canonical := (setRequest_only ..).kept.canon (noted_canonical _ _ _ _ canonical)
  have seals : SealsKept m (powerRequest 0 m) := cancels ▸ .trans (.of_only (setRequest_only ..)) (cancelEntry_seals ..)
  obtain ⟨arrives, answered⟩ := write_accepted (f := id) rfl accepted (entryAny_power _)
    (writeEntry_power (by decide) _ ((begun_only ..).kept.canon canonical)) (((noted_seals ..).trans seals).key _)
  obtain ⟨idle, last⟩ := cancelEntry_cancels e 1 ready
  rw [← cancels] at idle last
  exact ⟨_, congrArg Host.Outcome.next arrives, (answerOk_transition ..).trans idle, (answerOk_lastCode ..).trans last, answered⟩

/-- POWER_REQUEST STANDBY or OFF, where an entry may begin. -/
theorem arrive_enters (canonical : s.Canonical) (off : Bool) (accepted : s.accepts (powerReq h (if off then 2 else 1)) = true)
    (may : mayEnter s = true) :
    ∃ t, arrive (powerReq h (if off then 2 else 1)) s = t ∧ t.power.transition = some { off := off } ∧ lastCode t hPWR = 0x0E07
      ∧ t.answered (port s h.port).key (powerReq h (if off then 2 else 1)) := by
  generalize hn : (if off then 2 else 1) = n at *
  have known : n ≤ 2 := hn ▸ (by cases off <;> decide)
  let m := noted (powerReq h n) hDEV Par.DEV_POWER_REQUEST n s
  have power : (setRequest n m).power = s.power := (setRequest_power ..).trans ((noted_only ..).same .power rfl)
  have idle : m.power.transition = none := transition_of_mayEnter ((mayEnter_of_power ((noted_only ..).same .power rfl)).trans may)
  have begins : powerRequest n m = beginTransition off 0 (setRequest n m) := hn ▸ powerRequest_enters off idle
  have may' : mayEnter (setRequest n m) = true := (mayEnter_of_power power).trans may
  have ready : (setRequest n m).Canonical := (setRequest_only ..).kept.canon (noted_canonical _ _ _ _ canonical)
  have seals : SealsKept m (powerRequest n m) := begins ▸ .trans (.of_only (setRequest_only ..)) (beginTransition_seals may')
  obtain ⟨arrives, answered⟩ := write_accepted (f := id) rfl accepted (entryAny_power _)
    (writeEntry_power known _ ((begun_only ..).kept.canon canonical)) (((noted_seals ..).trans seals).key _)
  have entering := beginTransition_transition (off := off) (trigger := 0) may'
  have last := beginTransition_lastCode (off := off) (trigger := 0) may' ready
  rw [← begins] at entering last
  exact ⟨_, arrives, (answerOk_transition ..).trans entering, (answerOk_lastCode ..).trans last, answered⟩

theorem execRestart_done {v : Nat} (small : v < 65536) (accepted : s.accepts (restartReq h v) = true) :
    ∃ t, exec (.restart h v) s = .next t ∧ t.power.restarting = true ∧ t.answered (port s h.port).key (restartReq h v) := by
  let m := noted (restartReq h v) hDEV Par.DEV_RESTART v s
  obtain ⟨arrives, answered⟩ := write_accepted rfl accepted (entryAny_restart _) (writeEntry_restart small _ _)
    ((noted_seals (restartReq h v) hDEV Par.DEV_RESTART v s).key _)
  have goes := panelOff_unanswering { answerOk (restartReq h v) m with power.restarting := true }
  exact ⟨_, congrArg Host.Outcome.next arrives, goes.restarting, goes.answered answered⟩

theorem lifecycle_of_only {ps : List Part} {s t : State} (only : Only ps s t) (fuses : ps.contains .fuses = false) :
    t.sec.lifecycle = s.sec.lifecycle := by
  have same := only.same .fuses fuses
  simp only [Part.same, Prod.mk.injEq] at same
  obtain ⟨-, -, -, same, -⟩ := same
  exact same

theorem blowLifecycle_lifecycle (target : Nat) (s : State) : (blowLifecycle target s).sec.lifecycle = target := by
  unfold blowLifecycle
  extract_lets +onlyGivenNames left src shown
  have blown : shown.sec.lifecycle = target := lifecycle_of_only (changeRes_only ..) rfl
  exact ((lifecycle_of_only (incTally_only ..) rfl).trans (lifecycle_of_only (setRes_only ..) rfl)).trans blown

theorem blowLifecycle_seals (target : Nat) (s : State) : SealsKept s (blowLifecycle target s) := by
  unfold blowLifecycle
  extract_lets +onlyGivenNames left src shown
  have shows : SealsKept s shown := by
    refine .trans ?_ (.of_only (changeRes_only ..))
    exact .of_only (ps := [.fuses]) (Only.upd_fuses (Only.refl s))
  exact (shows.trans (.of_only (setRes_only ..))).trans (incTally_seals ..)

theorem execLifecycleRequest_done {target : Nat} {id : List Nat} (accepted : s.accepts (lifecycleReq h target id) = true)
    (unlocked : s.sec.locked = false) :
    ∃ t, exec (.lifecycleRequest h target id) s = .next t ∧ t.sec.lifecycle = target
      ∧ t.ctrl.busy = some (lifecycleReq h target id, .lifecycle s.sec.lifecycle target) ∧ (port t h.port).level = 0
      ∧ t.answered (port s h.port).key (lifecycleReq h target id) := by
  let r := lifecycleReq h target id
  have sec : (begun r s).sec = s.sec := (begun_only r s).sec rfl rfl
  obtain ⟨m, notes, writes⟩ := writeEntry_lifecycle (h := h) (target := target) (id := id) (port s h.port).level (s := begun r s)
    (by rw [sec, unlocked])
  have seals : SealsKept (begun r s) (blowLifecycle target m) := .trans (.of_only notes) (blowLifecycle_seals ..)
  obtain ⟨arrives, answered⟩ := write_accepted rfl accepted (entryAny_lifecycle _) writes (seals.key _)
  let u : State := { answerOk r (blowLifecycle target m) with ctrl.busy := some (r, .lifecycle (begun r s).sec.lifecycle target) }
  have enters := enterLifecycle_unanswering target u
  have only := enterLifecycle_only target u
  refine ⟨enterLifecycle target u, congrArg Host.Outcome.next arrives, ?_, ?_, enterLifecycle_closed .., enters.answered answered⟩
  · rw [lifecycle_of_only only rfl]
    exact (lifecycle_of_only (answerOk_only ..) rfl).trans (blowLifecycle_lifecycle ..)
  · rw [only.ctrl_busy rfl, ← sec]

end

/-- Settles O59: what a restart and a change of the lifecycle state do after the response answers nothing else. -/
theorem powerAndLifecycleRequests : Obligations.PowerAndLifecycleRequests := by
  refine fun s h canonical => ⟨?_, ?_, ?_, ?_, ?_⟩
  · exact fun e accepted entering first => execPowerRequestOn_done canonical accepted entering first
  · intro accepted may
    obtain ⟨t, arrives, done⟩ := arrive_enters canonical false accepted may
    exact ⟨t, congrArg Host.Outcome.next arrives, done⟩
  · intro accepted may
    obtain ⟨t, arrives, done⟩ := arrive_enters canonical true accepted may
    exact ⟨t, congrArg Host.Outcome.next arrives, done⟩
  · exact fun v small accepted => execRestart_done small accepted
  · exact fun target id accepted unlocked => execLifecycleRequest_done accepted unlocked

end Sys2Proof.Machine
end
